-- ==== Sys2Proof/Word.lean ====
section
/-! DEFINITION. The word types of the TK4820 and the plainest byte-order conversions.
Every multi-byte field is little-endian unless a rule says otherwise (spec/00_scope.md, "Numbers,
bits and units"). -/

namespace Sys2Proof

/-- A 32-bit word: a Knatrix word register, a block-page register, an I/O port value. -/
abbrev Word := BitVec 32

/-- A byte of memory, of a descriptor or of a record. -/
abbrev Byte := BitVec 8

/-- A byte string, lowest address first. -/
abbrev Bytes := List Byte

/-- A 128-bit secret register or cipher block, byte 0 in bits [7:0] (R160). -/
abbrev Block := BitVec 128

end Sys2Proof
end

