-- ==== Sys2Proof/Syntax.lean ====
section
/-! DEFINITION. The commands of the TK4820: one constructor per row of spec/opcode_table.json, in the
table's order. A row is one step of the part, whole and indivisible (spec/95_what_each_step_holds.md).
The operands are what the row needs from outside: an index of a unit (bounded by its type), a value
written, a sample of a sensor, or the outcome of an access to host memory. -/

set_option linter.unusedVariables false

namespace Sys2Proof

/-- The core on which a Knatrix instruction issues (R159): a TU context by its package number (R11),
warden A, warden B, or the scarecrow. -/
inductive CoreId where
  | tu (c : Fin 2048)
  | wardenA
  | wardenB
  | scarecrow
deriving DecidableEq, Repr

/-- One of the two wardens (R290). -/
inductive Warden where
  | a
  | b
deriving DecidableEq, Repr

/-- How an access of the part to host memory ends (R45): normally, or in an Unsupported Request, a
Completer Abort or a poisoned completion. -/
inductive Dma where
  | ok
  | ur
  | ca
  | poison
deriving DecidableEq, Repr

/-- What the boot ROM finds outside itself in checks 1 to 4 of R355 and at the load of a set: each
feed's power-good, the OTP and ROM self-test, the attempt (0 to 2) at which the reference clock is in
range or 3 when no attempt finds it, the HBM PLL locks of F0 and F1, the VBAT range for a resumed
transition (R334), and whether the SFDP tables of the boot flash report 8D-8D-8D mode (R441). -/
structure BootEnv where
  feedA : Bool
  feedB : Bool
  otpOk : Bool
  refAttempt : Fin 4
  pllF0 : Bool
  pllF1 : Bool
  vbatOk : Bool
  octal : Bool := true
deriving DecidableEq, Repr

/-- Raw bits of the noise sources, one byte for each sampling instant of 40 ns: bit i comes from source i (R240). -/
abbrev Raw := List Byte

/-- The 4,096 samples of a source's start-up test, the first in bit 4095 (R245). -/
abbrev Samples := BitVec 4096

/-- What the noise sources bring from the start-up tests on: the samples of each source, and the raw bits that follow (R245). -/
structure StartUp where
  samples : List Samples
  raw : Raw
deriving DecidableEq, Repr

/-- One sample cycle of the scarecrow, raw units of R312: temperature in 1/16 degree (signed), VBAT in
mV, the six meshes (codes 0x00 to 0x05) in 1/16 % of baseline (signed), and the light sensors above
their thresholds. -/
structure Sample where
  temp : BitVec 16
  vbat : BitVec 16
  mesh0 : BitVec 16
  mesh1 : BitVec 16
  mesh2 : BitVec 16
  mesh3 : BitVec 16
  mesh4 : BitVec 16
  mesh5 : BitVec 16
  lights : BitVec 6
deriving DecidableEq, Repr

/-- How the cells of one symbol of a line differ from what was written: the symbol (8 is the check symbol), its 64 data bits in [63:0]
and its CRC byte in [71:64] (R259). -/
abbrev SymUpset := Fin 9 × BitVec 72

/-- A unit of an on-chip array that parity covers, its blocks counted in 64-bit blocks (R269, R270). -/
inductive ArrayCell where
  /-- block k of the data space of TU context c -/
  | tuData (c k : Nat)
  /-- block k of code-RAM window n of a stook, w = 4 x stook + n -/
  | codeRam (w k : Nat)
  /-- the mailboxes of TU context c -/
  | mailbox (c : Nat)
  /-- the descriptor slot of request e -/
  | descriptor (e : Nat)
  /-- word k of the operand memory or workspace of BNE n -/
  | bneMem (n k : Nat)
  /-- an entry of an unwrap cache -/
  | uwc (i : Nat)
  /-- block k of Keep SRAM -/
  | keepSram (k : Nat)
  /-- a slot of the granary in MRAM -/
  | slot (i : Nat)
  /-- block k of the tally entry with a sequence number -/
  | tally (seq k : Nat)
  /-- block k of the boot record at an index -/
  | bootRecord (i k : Nat)
  /-- an entry of the row history -/
  | rowHist (i : Nat)
  /-- BBRAM -/
  | bbram
  /-- block k of the valid bitmap of stack die + 1 -/
  | validMap (die k : Nat)
deriving DecidableEq, Repr

/-- Bits of a block that have changed: its data in [63:0], its row parity in [71:64], its column parity in [79:72] (R269). -/
abbrev Flip := ArrayCell × BitVec 80

/-- Who waits for the held read of R261 and R263; `merge` is a read-modify-write of the merge buffer (R266). -/
inductive UeReader where
  | context (c : Fin 2048)
  | staging (e : Fin 69632)
  | warden
  | tagLine
  | merge
  | gleaner
deriving DecidableEq, Repr

/-- Who waits for random output (R69, R308). -/
inductive RngWaiter where
  | request (e : Fin 69632)
  | mailbox
  | debug
deriving DecidableEq, Repr

/-- Initiator classes of the gates (R340). -/
inductive InitClass where
  | warden
  | scarecrow
  | tu
  | bne
  | hostDma
  | debug
  | bootRom
  | testPort
  | gleaner
deriving DecidableEq, Repr

/-- Where a register access arrives: PF BAR0 or BAR2, a VF's BAR0 or BAR2, or the warden system space
as one initiator class (spec/20_register_map.md). -/
inductive RegTarget where
  | pfBar0 (off : BitVec 26)
  | pfBar2 (off : BitVec 12)
  | vfBar0 (p : Fin 2048) (off : BitVec 16)
  | vfBar2 (p : Fin 2048) (off : BitVec 12)
  | sys (cls : InitClass) (addr : BitVec 40)
deriving DecidableEq, Repr

/-- Who reads TIME_NOW or VF_NTIME; each reader has its own latch (R414). -/
inductive TimeReader where
  | pf
  | vf (p : Fin 2048)
  | wardenA
  | wardenB
  | debug
deriving DecidableEq, Repr

/-- The answer of a power-handshake agent (R403). -/
inductive AgentAnswer where
  | ack
  | refuse (reason : Byte)
  | delay (us : Fin 65536)
deriving DecidableEq, Repr

/-- The carrier of an SPDM request (R371). -/
inductive Transport where
  | doe
  | mctp
deriving DecidableEq, Repr

/-- The operand fields of a BN_CMD word (R203). -/
structure BneArgs where
  a : Fin 16
  b : Fin 16
  k : Fin 16
  d : Fin 16
  param : BitVec 8
deriving DecidableEq, Repr

/-- The commands of the TK4820. -/
inductive Instr where
  -- Boot, memory bring-up and links
  /-- COLD_RESET (R354). Power rises on the Keep die rails; both wardens start the boot ROM from the RC oscillator and run the ROM checks and the boot sequence. -/
  | coldReset (env : BootEnv)
  /-- PERST_N_ASSERT (R354). Assertion of PERST_N causes a warm reset, and the boot restarts at the boot ROM. -/
  | perstNAssert
  /-- PERST_N_DEASSERT (R436). Deassertion of PERST_N starts the boot; check 1 then judges the two Keep feeds. -/
  | perstNDeassert (env : BootEnv)
  /-- BOOT_RELEASE_WRITE (R362). Warden firmware writes BOOT_RELEASE; the Keep die freezes measurements, derives the alias key, evaluates slots, signs the boot record and enables the PF. -/
  | bootReleaseWrite
  /-- BOOT_RELEASE_WATCHDOG (R360). When warden firmware does not write BOOT_RELEASE within 2 s of its entry, the Keep die performs a warm reset. -/
  | bootReleaseWatchdog (env : BootEnv)
  /-- HBM_TRAINING_DONE (R254). Training of a stack ends; the stack enters service, enters erasure mode, or stays out of service. -/
  | hbmTrainingDone (die : Fin 2) (pcPass : BitVec 32) (lanes : BitVec 8)
  /-- WINNOWER_STARTUP_DONE (R245). The start-up tests and known-answer tests pass, and the DRBGs are instantiated in order and begin to serve. -/
  | winnowerStartupDone (start : StartUp)
  /-- WINNOWER_STARTUP_TIMEOUT (R245). When fewer than 4 sources pass within 100 ms, the chain enters STOPPED and the boot stalls. -/
  | winnowerStartupTimeout (start : List Samples) (katFail : Bool)
  /-- FLIT_CRC_FAIL (R18). A Sothen flit fails its CRC and is retransmitted from the replay buffer; 8 successive failures start a retrain. -/
  | flitCrcFail (link : Fin 3)
  /-- LINK_RETRAIN_DONE (R19). A Sothen link comes up at the widest working power-of-two width, and DEGRADED is set when it runs below full width. -/
  | linkRetrainDone (link : Fin 3) (goodLanes : Fin 33)
  -- Host interface, scheduling and release
  /-- SQ_DB_WRITE (R36). A write to SQ_DB_n records a new submission tail, or flags a doorbell error when the value is out of range or passes the head. -/
  | sqDbWrite (f : Fin 2049) (n : Fin 64) (v : Word)
  /-- CQ_DB_WRITE (R36). A write to CQ_DB_n records a new completion head, or flags a doorbell error. -/
  | cqDbWrite (f : Fin 2049) (n : Fin 64) (v : Word)
  /-- SQ_ENABLE (R37). Setting SQ_CFG_n.enable starts fetching from head 0, or is refused with CQ not enabled. -/
  | sqEnable (f : Fin 2049) (n : Fin 64) (v : Word)
  /-- SQ_DISABLE (R32). Clearing SQ_CFG_n.enable stops fetching after the descriptor being fetched. -/
  | sqDisable (f : Fin 2049) (n : Fin 64) (v : Word)
  /-- CQ_ENABLE (R33). Setting CQ_CFG_n.enable resets tail, head and phase and allows posting. -/
  | cqEnable (f : Fin 2049) (n : Fin 64) (v : Word)
  /-- CQ_DISABLE (R33). Clearing CQ_CFG_n.enable is refused while an enabled SQ names the CQ or entries bound to it are outstanding. -/
  | cqDisable (f : Fin 2049) (n : Fin 64) (v : Word)
  /-- DESCRIPTOR_FETCH (R55). Once its reservations are made and no back-pressure condition holds, the TK4820 fetches the head descriptor of an SQ. -/
  | descriptorFetch (f : Fin 2049) (n : Fin 64)
  /-- DESCRIPTOR_ARRIVAL (R44). A fetched descriptor arrives and goes through the admission checks, which accept it or reject it with a status. -/
  | descriptorArrival (e : Fin 69632) (dma : Dma)
  /-- REQUEST_AGING (R112). A request that has waited 10 ms on a list moves to the next higher class. -/
  | requestAging (e : Fin 69632)
  /-- REQUEST_DISPATCH (R113). At a dispatch opportunity, a die's port picks a request by class and weighted deficit round robin and sends it to a barn. -/
  | requestDispatch (die : Fin 2)
  /-- CLASS_WATCHDOG_EXPIRY (R127). The class watchdog of a request expires, and the request ends with WATCHDOG. -/
  | classWatchdogExpiry (e : Fin 69632)
  /-- TU_WATCHDOG_EXPIRY (R154). The TU watchdog expires; the request ends with WATCHDOG and its group is cleared. -/
  | tuWatchdogExpiry (e : Fin 69632)
  /-- REQ_COMPLETE (R143). The lead posts completion, after any BAD_LENGTH or policy-fault conversion; the context group ends. -/
  | reqComplete (c : Fin 2048) (v : Word)
  /-- COMPLETION_STAGED (R451). A posted completion reaches the Keep die, and its release-buffer entry becomes STAGED. -/
  | completionStaged (e : Fin 69632)
  /-- RELEASE_TO_WRITING (R123). An entry at the head of its chain passes the generation check and enters WRITING, or is dropped. -/
  | releaseToWriting (e : Fin 69632)
  /-- COMPLETION_TLP_ISSUED (R42). The output and the 32-byte completion are written to host memory, and the entry becomes FREE. -/
  | completionTlpIssued (e : Fin 69632) (dma : Dma)
  /-- CQ_MOD_TIMER_EXPIRY (R57). The moderation timer expires after the first counted completion, and the CQ's vector is raised. -/
  | cqModTimerExpiry (f : Fin 2049) (n : Fin 64)
  /-- FLR (R54). A function-level reset of a VF aborts the partition's requests, increments the generation and resets the VF's rings. -/
  | flr (p : Fin 2048)
  /-- GENERATION_INCREMENT (R53). After waiting for writes that passed the check and for requests carrying the target value, the partition's generation increments. -/
  | generationIncrement (p : Fin 2048)
  -- Payment functions
  /-- PIN_TRANSLATE (R85). Function 0x1001 translates a PIN block between zone keys under the permitted format moves. -/
  | pinTranslate (e : Fin 69632) (dma : Dma)
  /-- PIN_TRANSLATE_DUKPT (R85). Function 0x1002 translates a PIN block from a DUKPT-derived key to an outbound key. -/
  | pinTranslateDukpt (e : Fin 69632) (dma : Dma)
  /-- PIN_VERIFY_OFFSET (R86). Function 0x1003 verifies a PIN by the decimalization-offset method. -/
  | pinVerifyOffset (e : Fin 69632) (dma : Dma)
  /-- PIN_VERIFY_PVV (R87). Function 0x1004 verifies a PIN by the verification-value method. -/
  | pinVerifyPvv (e : Fin 69632) (dma : Dma)
  /-- PIN_OFFSET_GENERATE (R86). Function 0x1005 generates a PIN offset. -/
  | pinOffsetGenerate (e : Fin 69632) (dma : Dma)
  /-- PVV_GENERATE (R87). Function 0x1006 generates a PVV. -/
  | pvvGenerate (e : Fin 69632) (dma : Dma)
  /-- MAC_GENERATE (R90). Function 0x2001 generates a MAC. -/
  | macGenerate (e : Fin 69632) (dma : Dma)
  /-- MAC_VERIFY (R90). Function 0x2002 verifies a MAC in constant time. -/
  | macVerify (e : Fin 69632) (dma : Dma)
  /-- MAC_GENERATE_DUKPT (R92). Function 0x2003 generates a MAC under a DUKPT-derived key. -/
  | macGenerateDukpt (e : Fin 69632) (dma : Dma)
  /-- MAC_VERIFY_DUKPT (R92). Function 0x2004 verifies a MAC under a DUKPT-derived key. -/
  | macVerifyDukpt (e : Fin 69632) (dma : Dma)
  /-- ARQC_VERIFY (R94). Function 0x3001 derives EMV session keys, verifies the ARQC and optionally produces an ARPC. -/
  | arqcVerify (e : Fin 69632) (dma : Dma)
  /-- CVV_GENERATE (R96). Function 0x3003 generates a card verification value. -/
  | cvvGenerate (e : Fin 69632) (dma : Dma)
  /-- CVV_VERIFY (R96). Function 0x3004 verifies a card verification value. -/
  | cvvVerify (e : Fin 69632) (dma : Dma)
  /-- KEYBLOCK_IMPORT (R98). Function 0x4001 imports an X9.143 key block into a new key record. -/
  | keyblockImport (e : Fin 69632) (dma : Dma)
  /-- KEYBLOCK_EXPORT (R99). Function 0x4002 exports a key as an X9.143 key block. -/
  | keyblockExport (e : Fin 69632) (dma : Dma)
  /-- KEY_GENERATE (R97). Function 0x4003 generates a symmetric or HMAC key into a new record. -/
  | keyGenerate (e : Fin 69632) (dma : Dma)
  /-- KEY_DELETE (R71). Function 0x4004 deletes a key record and invalidates its unwrap-cache entries. -/
  | keyDelete (e : Fin 69632) (dma : Dma)
  /-- DUKPT_INITIAL_KEY_EXPORT (R97). Function 0x4005 exports a DUKPT initial key as a key block. -/
  | dukptInitialKeyExport (e : Fin 69632) (dma : Dma)
  /-- KEY_CHECK_VALUE (R97). Function 0x4006 returns the check value of a key. -/
  | keyCheckValue (e : Fin 69632) (dma : Dma)
  /-- RSA_SIGN (R100). Function 0x5001 produces an RSA signature. -/
  | rsaSign (e : Fin 69632) (dma : Dma)
  /-- RSA_VERIFY (R102). Function 0x5002 verifies an RSA signature. -/
  | rsaVerify (e : Fin 69632) (dma : Dma)
  /-- ECDSA_SIGN (R100). Function 0x5003 produces an ECDSA signature. -/
  | ecdsaSign (e : Fin 69632) (dma : Dma)
  /-- ECDSA_VERIFY (R102). Function 0x5004 verifies an ECDSA signature. -/
  | ecdsaVerify (e : Fin 69632) (dma : Dma)
  /-- ED25519_SIGN (R100). Function 0x5005 produces an Ed25519 signature. -/
  | ed25519Sign (e : Fin 69632) (dma : Dma)
  /-- ED25519_VERIFY (R102). Function 0x5006 verifies an Ed25519 signature. -/
  | ed25519Verify (e : Fin 69632) (dma : Dma)
  /-- ECDH_DERIVE (R102). Function 0x5007 derives a shared key by ECDH into a new record. -/
  | ecdhDerive (e : Fin 69632) (dma : Dma)
  /-- MLKEM_ENCAPS (R102). Function 0x5008 encapsulates to an ML-KEM key and stores the shared key. -/
  | mlkemEncaps (e : Fin 69632) (dma : Dma)
  /-- MLKEM_DECAPS (R102). Function 0x5009 decapsulates an ML-KEM ciphertext into a new record. -/
  | mlkemDecaps (e : Fin 69632) (dma : Dma)
  /-- MLDSA_SIGN (R100). Function 0x500A produces an ML-DSA signature. -/
  | mldsaSign (e : Fin 69632) (dma : Dma)
  /-- MLDSA_VERIFY (R102). Function 0x500B verifies an ML-DSA signature. -/
  | mldsaVerify (e : Fin 69632) (dma : Dma)
  /-- KEYPAIR_GENERATE (R100). Function 0x500C generates an asymmetric key pair, stores the private key and returns the public key. -/
  | keypairGenerate (e : Fin 69632) (dma : Dma)
  /-- GCM_ENCRYPT (R104). Function 0x6001 streams GCM encryption between host buffers. -/
  | gcmEncrypt (e : Fin 69632) (dma : Dma)
  /-- GCM_DECRYPT (R104). Function 0x6002 streams GCM decryption and checks the tag. -/
  | gcmDecrypt (e : Fin 69632) (dma : Dma)
  /-- CCM_ENCRYPT (R104). Function 0x6003 streams CCM encryption. -/
  | ccmEncrypt (e : Fin 69632) (dma : Dma)
  /-- CCM_DECRYPT (R104). Function 0x6004 streams CCM decryption and checks the tag. -/
  | ccmDecrypt (e : Fin 69632) (dma : Dma)
  /-- XTS_ENCRYPT (R104). Function 0x6005 streams XTS encryption by data unit. -/
  | xtsEncrypt (e : Fin 69632) (dma : Dma)
  /-- XTS_DECRYPT (R104). Function 0x6006 streams XTS decryption by data unit. -/
  | xtsDecrypt (e : Fin 69632) (dma : Dma)
  /-- RANDOM (R105). Function 0x7001 returns random bytes from the barn DRBG. -/
  | random (e : Fin 69632) (dma : Dma)
  /-- HASH (R105). Function 0x7002 returns a message digest. -/
  | hash (e : Fin 69632) (dma : Dma)
  /-- HMAC_GENERATE (R105). Function 0x7003 generates an HMAC tag. -/
  | hmacGenerate (e : Fin 69632) (dma : Dma)
  /-- HMAC_VERIFY (R105). Function 0x7004 verifies an HMAC tag. -/
  | hmacVerify (e : Fin 69632) (dma : Dma)
  -- Administrative functions
  /-- PARTITION_CONFIGURE_SET (R278). PARTITION_CONFIGURE sub-operation 0x01 stores a partition's resources and DPID. -/
  | partitionConfigureSet (e : Fin 69632) (dma : Dma)
  /-- PARTITION_CONFIGURE_PURGE_SLOTS (R278). PARTITION_CONFIGURE sub-operation 0x02 erases every MRAM slot that names the partition. -/
  | partitionConfigurePurgeSlots (e : Fin 69632) (dma : Dma)
  /-- PARTITION_CONFIGURE_REMOVE_SEEN (R287). PARTITION_CONFIGURE sub-operation 0x03 deletes one entry of the seen list. -/
  | partitionConfigureRemoveSeen (e : Fin 69632) (dma : Dma)
  /-- PARTITION_CONFIGURE_CHANGE_QUOTA (R278). PARTITION_CONFIGURE sub-operation 0x04 replaces the partition's in-flight quota. -/
  | partitionConfigureChangeQuota (e : Fin 69632) (dma : Dma)
  /-- PARTITION_RESET_RESTART (R280). PARTITION_RESET mode 0x00 aborts the partition's requests, increments its generation and resets its rings. -/
  | partitionResetRestart (e : Fin 69632) (dma : Dma)
  /-- PARTITION_RESET_RELEASE (R280). PARTITION_RESET mode 0x01 erases the partition's records and resources and makes it EMPTY. -/
  | partitionResetRelease (e : Fin 69632) (dma : Dma)
  /-- PARTITION_FREEZE_DRAIN (R281). PARTITION_FREEZE mode 0x00 stops fetching and lets in-flight requests finish. -/
  | partitionFreezeDrain (e : Fin 69632) (dma : Dma)
  /-- PARTITION_FREEZE_ABORT (R281). PARTITION_FREEZE mode 0x01 stops fetching and aborts undispatched and dispatched requests. -/
  | partitionFreezeAbort (e : Fin 69632) (dma : Dma)
  /-- PARTITION_FREEZE_THAW (R281). PARTITION_FREEZE mode 0x02 returns a FROZEN partition to ACTIVE. -/
  | partitionFreezeThaw (e : Fin 69632) (dma : Dma)
  /-- PARTITION_ACTIVATE (R279). PARTITION_ACTIVATE makes a configured EMPTY partition ACTIVE. -/
  | partitionActivate (e : Fin 69632) (dma : Dma)
  /-- HAMPER_SEAL (R284). `image` is how the hamper's write ends. HAMPER_SEAL writes the sealed image of a frozen partition and marks the partition emigrated. -/
  | hamperSeal (e : Fin 69632) (dma : Dma) (image : Dma)
  /-- HAMPER_RESTORE (R286). `image` is how the hamper's read ends. HAMPER_RESTORE checks a hamper and rebuilds the partition into an EMPTY configured partition. -/
  | hamperRestore (e : Fin 69632) (dma : Dma) (image : Dma)
  /-- FN_SPLIT_SET (R58). FN_SPLIT_SET changes PART_FN_SPLIT_p under partition-officer quorum. -/
  | fnSplitSet (e : Fin 69632) (dma : Dma)
  /-- DECTABLE_INSTALL (R88). DECTABLE_INSTALL installs or removes a decimalization table. -/
  | dectableInstall (e : Fin 69632) (dma : Dma)
  /-- VELOCITY_POLICY_SET (R78). VELOCITY_POLICY_SET sets a velocity policy of a partition. -/
  | velocityPolicySet (e : Fin 69632) (dma : Dma)
  /-- SLOT_MANAGE_CREATE (R226). SLOT_MANAGE sub-operation 0x01 creates a slot key from the DRBG. -/
  | slotManageCreate (e : Fin 69632) (dma : Dma)
  /-- SLOT_MANAGE_IMPORT (R226). SLOT_MANAGE sub-operation 0x02 imports a slot key from a key block. -/
  | slotManageImport (e : Fin 69632) (dma : Dma)
  /-- SLOT_MANAGE_PUBLISH (R226). SLOT_MANAGE sub-operation 0x03 publishes a slot as a key record. -/
  | slotManagePublish (e : Fin 69632) (dma : Dma)
  /-- SLOT_MANAGE_CHANGE (R224). SLOT_MANAGE sub-operation 0x04 changes slot attributes in the allowed directions. -/
  | slotManageChange (e : Fin 69632) (dma : Dma)
  /-- SLOT_MANAGE_ERASE (R226). SLOT_MANAGE sub-operation 0x05 erases a slot and its record. -/
  | slotManageErase (e : Fin 69632) (dma : Dma)
  /-- OFFICER_ENROLL_ADD (R305). OFFICER_ENROLL sub-operation 0x01 adds an officer with a proof token. -/
  | officerEnrollAdd (e : Fin 69632) (dma : Dma)
  /-- OFFICER_ENROLL_REMOVE (R305). OFFICER_ENROLL sub-operation 0x02 removes an officer. -/
  | officerEnrollRemove (e : Fin 69632) (dma : Dma)
  /-- QUORUM_POLICY_SET (R304). QUORUM_POLICY_SET sets the m of an operation class. -/
  | quorumPolicySet (e : Fin 69632) (dma : Dma)
  /-- YOKE_SWITCH (R299). YOKE_SWITCH moves the baton to a standby warden under a D1 quorum. -/
  | yokeSwitch (e : Fin 69632) (dma : Dma)
  /-- TIME_ADJUST_OFFSET (R398). TIME_ADJUST mode 0x01 sets time by an offset, as a slewed set or, with tokens, as a step. -/
  | timeAdjustOffset (e : Fin 69632) (dma : Dma)
  /-- TIME_ADJUST_ABSOLUTE (R398). TIME_ADJUST mode 0x02 sets time to an absolute value, as a slewed set or, with tokens, as a step. -/
  | timeAdjustAbsolute (e : Fin 69632) (dma : Dma)
  /-- TALLY_EXPORT (R388). TALLY_EXPORT writes a signed segment of tally entries after a chain check. -/
  | tallyExport (e : Fin 69632) (dma : Dma)
  /-- TALLY_CLEAR (R387). TALLY_CLEAR hashes the log, writes the clear record and restarts the log at that record. -/
  | tallyClear (e : Fin 69632) (dma : Dma)
  /-- RESEAL_FORWARD (R227). RESEAL_FORWARD writes forward slot copies for the measurements declared by a manifest. -/
  | resealForward (e : Fin 69632) (dma : Dma)
  /-- IMAGE_INSTALL_SET (R370). `image` is how the set's read ends. IMAGE_INSTALL sub-operation 0x01 verifies an image set and writes it into the inactive boot bank. -/
  | imageInstallSet (e : Fin 69632) (dma : Dma) (image : Dma)
  /-- IMAGE_INSTALL_SCARECROW_CONFIG (R319). IMAGE_INSTALL sub-operation 0x02 passes a scarecrow configuration record, which the scarecrow checks and stores. -/
  | imageInstallScarecrowConfig (e : Fin 69632) (dma : Dma)
  /-- IMAGE_INSTALL_COMMIT_REVISIONS (R370). IMAGE_INSTALL sub-operation 0x03 raises the OTP revision counters to the running set's versions. -/
  | imageInstallCommitRevisions (e : Fin 69632) (dma : Dma)
  -- Life cycle
  /-- LIFECYCLE_BLANK_TO_TEST (R335). Transition 0x01 blows the TEST bits. -/
  | lifecycleBlankToTest (e : Fin 69632) (dma : Dma)
  /-- LIFECYCLE_TEST_TO_MINTED (R335). Transition 0x02 creates and wraps the device identity key and blows the MINTED bits. -/
  | lifecycleTestToMinted (e : Fin 69632) (dma : Dma)
  /-- LIFECYCLE_CERT_INSTALL (R335). Transition 0x03 stores the identity certificate. -/
  | lifecycleCertInstall (e : Fin 69632) (dma : Dma)
  /-- LIFECYCLE_MINTED_TO_ENROLLED (R335). Transition 0x04 draws the root, writes the officer slots, and blows the OEM roots and the ENROLLED bits. -/
  | lifecycleMintedToEnrolled (e : Fin 69632) (dma : Dma)
  /-- LIFECYCLE_ENROLLED_TO_FIELD (R335). Transition 0x05 erases slots and the seen list and blows the FIELD bits. -/
  | lifecycleEnrolledToField (e : Fin 69632) (dma : Dma)
  /-- LIFECYCLE_REENROLLMENT (R336). Transition 0x06 draws a new root and rewrites the officer slots after the root is lost. -/
  | lifecycleReenrollment (e : Fin 69632) (dma : Dma)
  /-- LIFECYCLE_TO_ANALYSIS_MASIDRIC (R335). Transition 0x07 moves TEST or MINTED to ANALYSIS and wipes the MRAM user state. -/
  | lifecycleToAnalysisMasidric (e : Fin 69632) (dma : Dma)
  /-- LIFECYCLE_TO_ANALYSIS_OEM (R335). Transition 0x08 moves ENROLLED or FIELD to ANALYSIS, revokes the OEM roots and wipes the MRAM user state. -/
  | lifecycleToAnalysisOem (e : Fin 69632) (dma : Dma)
  /-- LIFECYCLE_TO_SCRAP (R337). Transition 0x09 blows the unit secret, overwrites the identity region and enters SCRAP. -/
  | lifecycleToScrap (e : Fin 69632) (dma : Dma)
  /-- LIFECYCLE_SELF_RESET (R332). 100 ms after a transition's completion, the TK4820 performs a warm reset of itself. -/
  | lifecycleSelfReset (env : BootEnv)
  -- Knatrix instructions
  /-- ADD (R163). Adds two word registers modulo 2^32. -/
  | kxAdd (c : CoreId) (rd ra rb : Fin 32)
  /-- SUB (R163). Subtracts two word registers modulo 2^32. -/
  | kxSub (c : CoreId) (rd ra rb : Fin 32)
  /-- AND (R163). Bitwise AND. -/
  | kxAnd (c : CoreId) (rd ra rb : Fin 32)
  /-- OR (R163). Bitwise OR. -/
  | kxOr (c : CoreId) (rd ra rb : Fin 32)
  /-- XOR (R163). Bitwise XOR. -/
  | kxXor (c : CoreId) (rd ra rb : Fin 32)
  /-- ANDN (R163). AND with the complement of rb. -/
  | kxAndn (c : CoreId) (rd ra rb : Fin 32)
  /-- SHL (R163). Shift left. -/
  | kxShl (c : CoreId) (rd ra rb : Fin 32)
  /-- SHR (R163). Logical shift right. -/
  | kxShr (c : CoreId) (rd ra rb : Fin 32)
  /-- SRA (R163). Arithmetic shift right. -/
  | kxSra (c : CoreId) (rd ra rb : Fin 32)
  /-- ROL (R163). Rotate left. -/
  | kxRol (c : CoreId) (rd ra rb : Fin 32)
  /-- SLT (R163). Signed set-less-than. -/
  | kxSlt (c : CoreId) (rd ra rb : Fin 32)
  /-- SLTU (R163). Unsigned set-less-than. -/
  | kxSltu (c : CoreId) (rd ra rb : Fin 32)
  /-- MIN (R163). Signed minimum. -/
  | kxMin (c : CoreId) (rd ra rb : Fin 32)
  /-- MAX (R163). Signed maximum. -/
  | kxMax (c : CoreId) (rd ra rb : Fin 32)
  /-- MINU (R163). Unsigned minimum. -/
  | kxMinu (c : CoreId) (rd ra rb : Fin 32)
  /-- MAXU (R163). Unsigned maximum. -/
  | kxMaxu (c : CoreId) (rd ra rb : Fin 32)
  /-- ADDQ (R168). Q1.31 sum with saturation rules. -/
  | kxAddq (c : CoreId) (rd ra rb : Fin 32)
  /-- SUBQ (R168). Q1.31 difference with saturation rules. -/
  | kxSubq (c : CoreId) (rd ra rb : Fin 32)
  /-- NEGQ (R168). Q1.31 negation. -/
  | kxNegq (c : CoreId) (rd ra : Fin 32)
  /-- ABSQ (R168). Q1.31 absolute value. -/
  | kxAbsq (c : CoreId) (rd ra : Fin 32)
  /-- CLZ (R163). Counts leading zeros. -/
  | kxClz (c : CoreId) (rd ra : Fin 32)
  /-- POPC (R163). Counts one bits. -/
  | kxPopc (c : CoreId) (rd ra : Fin 32)
  /-- BCDADD (R170). Eight-digit packed BCD sum modulo 10^8. -/
  | kxBcdadd (c : CoreId) (rd ra rb : Fin 32)
  /-- BCDSUB (R170). Eight-digit packed BCD difference modulo 10^8. -/
  | kxBcdsub (c : CoreId) (rd ra rb : Fin 32)
  /-- DADD (R170). Per-nibble decimal sum modulo 10. -/
  | kxDadd (c : CoreId) (rd ra rb : Fin 32)
  /-- DSUB (R170). Per-nibble decimal difference modulo 10. -/
  | kxDsub (c : CoreId) (rd ra rb : Fin 32)
  /-- BCD2BIN (R170). Converts packed BCD to binary. -/
  | kxBcd2bin (c : CoreId) (rd ra : Fin 32)
  /-- BIN2BCD (R170). Converts binary to packed BCD. -/
  | kxBin2bcd (c : CoreId) (rd ra : Fin 32)
  /-- BCDCHK (R163). Tests that all nibbles are decimal. -/
  | kxBcdchk (c : CoreId) (rd ra : Fin 32)
  /-- DTLOOK (R170). Replaces each nibble through DT. -/
  | kxDtlook (c : CoreId) (rd ra : Fin 32)
  /-- DTSET (R170). Loads the decimalization register DT. -/
  | kxDtset (c : CoreId) (ra rb : Fin 32)
  /-- ADDI (R163). Adds a sign-extended immediate. -/
  | kxAddi (c : CoreId) (rd ra : Fin 32) (imm : BitVec 16)
  /-- ANDI (R163). AND with a zero-extended immediate. -/
  | kxAndi (c : CoreId) (rd ra : Fin 32) (imm : BitVec 16)
  /-- ORI (R163). OR with a zero-extended immediate. -/
  | kxOri (c : CoreId) (rd ra : Fin 32) (imm : BitVec 16)
  /-- XORI (R163). XOR with a zero-extended immediate. -/
  | kxXori (c : CoreId) (rd ra : Fin 32) (imm : BitVec 16)
  /-- LUI (R163). Loads an upper immediate. -/
  | kxLui (c : CoreId) (rd : Fin 32) (imm : BitVec 16)
  /-- SHI (R163). Shifts or rotates by an immediate. -/
  | kxShi (c : CoreId) (rd ra : Fin 32) (kind : BitVec 2) (amt : BitVec 5)
  /-- SLTI (R163). Signed set-less-than with an immediate. -/
  | kxSlti (c : CoreId) (rd ra : Fin 32) (imm : BitVec 16)
  /-- SLTIU (R163). Unsigned set-less-than with an immediate. -/
  | kxSltiu (c : CoreId) (rd ra : Fin 32) (imm : BitVec 16)
  /-- LDW (R164). Loads a word from data space. -/
  | kxLdw (c : CoreId) (rd ra : Fin 32) (imm : BitVec 16)
  /-- LDH (R164). Loads a zero-extended halfword. -/
  | kxLdh (c : CoreId) (rd ra : Fin 32) (imm : BitVec 16)
  /-- LDHS (R164). Loads a sign-extended halfword. -/
  | kxLdhs (c : CoreId) (rd ra : Fin 32) (imm : BitVec 16)
  /-- LDB (R164). Loads a zero-extended byte. -/
  | kxLdb (c : CoreId) (rd ra : Fin 32) (imm : BitVec 16)
  /-- LDBS (R164). Loads a sign-extended byte. -/
  | kxLdbs (c : CoreId) (rd ra : Fin 32) (imm : BitVec 16)
  /-- STW (R164). Stores a word. -/
  | kxStw (c : CoreId) (rs ra : Fin 32) (imm : BitVec 16)
  /-- STH (R164). Stores a halfword. -/
  | kxSth (c : CoreId) (rs ra : Fin 32) (imm : BitVec 16)
  /-- STB (R164). Stores a byte. -/
  | kxStb (c : CoreId) (rs ra : Fin 32) (imm : BitVec 16)
  /-- BEQ (R163). Branches if equal. -/
  | kxBeq (c : CoreId) (ra rb : Fin 32) (off : BitVec 16)
  /-- BNE (R163). Branches if not equal. -/
  | kxBne (c : CoreId) (ra rb : Fin 32) (off : BitVec 16)
  /-- BLT (R163). Branches if signed less than. -/
  | kxBlt (c : CoreId) (ra rb : Fin 32) (off : BitVec 16)
  /-- BGE (R163). Branches if signed greater or equal. -/
  | kxBge (c : CoreId) (ra rb : Fin 32) (off : BitVec 16)
  /-- BLTU (R163). Branches if unsigned less than. -/
  | kxBltu (c : CoreId) (ra rb : Fin 32) (off : BitVec 16)
  /-- BGEU (R163). Branches if unsigned greater or equal. -/
  | kxBgeu (c : CoreId) (ra rb : Fin 32) (off : BitVec 16)
  /-- JMP (R163). Jumps by a relative offset. -/
  | kxJmp (c : CoreId) (off : BitVec 26)
  /-- CALL (R164). Pushes the return address and jumps. -/
  | kxCall (c : CoreId) (off : BitVec 26)
  /-- RET (R164). Pops the return stack and jumps. -/
  | kxRet (c : CoreId)
  /-- LOOPI (R164). Starts a hardware loop with a fixed count. -/
  | kxLoopi (c : CoreId) (len : BitVec 10) (count : BitVec 16)
  /-- LOOPR (R164). Starts a hardware loop with a count taken from a register at issue. -/
  | kxLoopr (c : CoreId) (rc : Fin 32) (len : BitVec 10) (bound : BitVec 11)
  /-- IN (R142). Reads a 32-bit value from an I/O port. -/
  | kxIn (c : CoreId) (r : Fin 32) (port : BitVec 16)
  /-- OUT (R142). Writes a register to an I/O port. -/
  | kxOut (c : CoreId) (r : Fin 32) (port : BitVec 16)
  /-- MUL (R163). Signed 64-bit product into MHI:MLO. -/
  | kxMul (c : CoreId) (ra rb : Fin 32)
  /-- MULU (R163). Unsigned 64-bit product into MHI:MLO. -/
  | kxMulu (c : CoreId) (ra rb : Fin 32)
  /-- MULF (R168). Q1.63 fractional product, with the single overflow case. -/
  | kxMulf (c : CoreId) (ra rb : Fin 32)
  /-- MFLO (R163). Moves MLO to a word register. -/
  | kxMflo (c : CoreId) (rd : Fin 32)
  /-- MFHI (R163). Moves MHI to a word register. -/
  | kxMfhi (c : CoreId) (rd : Fin 32)
  /-- MAC (R166). Signed multiply-accumulate. -/
  | kxMac (c : CoreId) (a : Fin 4) (ra rb : Fin 32)
  /-- MACU (R166). Unsigned multiply-accumulate. -/
  | kxMacu (c : CoreId) (a : Fin 4) (ra rb : Fin 32)
  /-- MACF (R168). Fractional multiply-accumulate. -/
  | kxMacf (c : CoreId) (a : Fin 4) (ra rb : Fin 32)
  /-- MSUB (R166). Signed multiply-subtract. -/
  | kxMsub (c : CoreId) (a : Fin 4) (ra rb : Fin 32)
  /-- MSUBF (R168). Fractional multiply-subtract. -/
  | kxMsubf (c : CoreId) (a : Fin 4) (ra rb : Fin 32)
  /-- ACCCLR (R163). Clears an accumulator. -/
  | kxAccclr (c : CoreId) (a : Fin 4)
  /-- ACCSET (R163). Sets an accumulator from two words. -/
  | kxAccset (c : CoreId) (a : Fin 4) (ra rb : Fin 32)
  /-- ACCGL (R163). Reads accumulator bits [31:0]. -/
  | kxAccgl (c : CoreId) (rd : Fin 32) (a : Fin 4)
  /-- ACCGH (R163). Reads accumulator bits [63:32]. -/
  | kxAccgh (c : CoreId) (rd : Fin 32) (a : Fin 4)
  /-- ACCGG (R163). Reads the accumulator guard bits. -/
  | kxAccgg (c : CoreId) (rd : Fin 32) (a : Fin 4)
  /-- ACCEX (R169). Scales, rounds and limits the accumulator into a word. -/
  | kxAccex (c : CoreId) (rd : Fin 32) (a : Fin 4) (k : Fin 41)
  /-- SMOV (R171). Copies a secret register. -/
  | kxSmov (c : CoreId) (sd sa : Fin 16)
  /-- SCLR (R163). Clears a secret register to label P. -/
  | kxSclr (c : CoreId) (sd : Fin 16)
  /-- SXOR (R171). Secret XOR with label and role propagation. -/
  | kxSxor (c : CoreId) (sd sa sb : Fin 16)
  /-- SAND (R171). Secret AND. -/
  | kxSand (c : CoreId) (sd sa sb : Fin 16)
  /-- SOR (R171). Secret OR. -/
  | kxSor (c : CoreId) (sd sa sb : Fin 16)
  /-- SMERGE (R171). Merges the low halves of two secret registers. -/
  | kxSmerge (c : CoreId) (sd sa sb : Fin 16)
  /-- SHIGH (R171). Moves the high half of a secret register down. -/
  | kxShigh (c : CoreId) (sd sa : Fin 16)
  /-- SPARITY (R171). Sets odd parity in each byte. -/
  | kxSparity (c : CoreId) (sd sa : Fin 16)
  /-- SDTAB (R171). Replaces the nibbles of a secret register through DT. -/
  | kxSdtab (c : CoreId) (sd sa : Fin 16)
  /-- SDADD (R170). Secret per-nibble decimal sum. -/
  | kxSdadd (c : CoreId) (sd sa sb : Fin 16)
  /-- SDSUB (R170). Secret per-nibble decimal difference. -/
  | kxSdsub (c : CoreId) (sd sa sb : Fin 16)
  /-- SNSH (R171). Shifts the nibbles of a secret register. -/
  | kxSnsh (c : CoreId) (sd sa : Fin 16) (k : Fin 32)
  /-- SLDW (R171). Loads a quarter of a secret register from a word register. -/
  | kxSldw (c : CoreId) (sd : Fin 16) (ra : Fin 32) (q : Fin 4)
  /-- SMVW (R172). Extracts a quarter of a P or C secret register. -/
  | kxSmvw (c : CoreId) (rd : Fin 32) (sa : Fin 16) (q : Fin 4)
  /-- SCMP (R172). Compares nibbles of two secret registers in constant time. -/
  | kxScmp (c : CoreId) (rd : Fin 32) (sa sb : Fin 16) (last : Fin 32)
  /-- SPINCHK (R172). Checks a PIN field and yields validity and L. -/
  | kxSpinchk (c : CoreId) (rd : Fin 32) (sa : Fin 16) (fmt : BitVec 3)
  /-- SDEC (R172). Decimalizes a C register by the scanning rule. -/
  | kxSdec (c : CoreId) (rd : Fin 32) (sa : Fin 16) (cnt : BitVec 3)
  /-- SPOFS (R172). Computes PIN offset digits. -/
  | kxSpofs (c : CoreId) (rd : Fin 32) (sa sb : Fin 16) (imm : BitVec 5)
  /-- SROLE (R171). Assigns a permitted role to a copy of a derived key. -/
  | kxSrole (c : CoreId) (sd sa : Fin 16) (role : BitVec 8)
  /-- SIN (R173). Reads a secret value from a port into a secret register. -/
  | kxSin (c : CoreId) (sd : Fin 16) (port : BitVec 16)
  /-- SOUT (R173). Sends a secret register, or a quarter of it, to a port. -/
  | kxSout (c : CoreId) (sa : Fin 16) (q : Fin 4) (port : BitVec 16)
  /-- ERET (R175). Returns from a trap to EPC. -/
  | kxEret (c : CoreId)
  /-- WFI (R175). Waits for an enabled interrupt. -/
  | kxWfi (c : CoreId)
  /-- TRAP (R175). Takes trap cause 0x0F. -/
  | kxTrap (c : CoreId)
  /-- NOP (R163). No operation. -/
  | kxNop (c : CoreId) (word : Word)
  -- Unit events and the port map of a context
  /-- INTERRUPT_ENTRY (R175). An enabled interrupt line is taken between instructions as trap cause 0x80 + i. -/
  | interruptEntry (c : CoreId) (line : Fin 64)
  /-- RESIDUE_MISMATCH (R152). A residue mismatch in a TU ends the request with FAULT_ALARM and clears the group. -/
  | residueMismatch (c : CoreId)
  /-- GRP_FORK (R137). The lead forks a helper at an entry offset. -/
  | grpFork (c : Fin 2048) (v : Word)
  /-- GRP_JOIN (R137). The lead waits until every forked helper has ended. -/
  | grpJoin (c : Fin 2048) (r : Fin 32)
  /-- GRP_END (R137). A helper ends. -/
  | grpEnd (c : Fin 2048)
  /-- SMBX_SEND (R138). A secret register is sent to a member's secret mailbox, waiting while it is full. -/
  | smbxSend (c : Fin 2048) (m : Fin 4) (sa : Fin 16)
  /-- SMBX_IN (R138). A secret mailbox entry is received and re-masked, waiting while the mailbox is empty. -/
  | smbxIn (c : Fin 2048) (sd : Fin 16)
  /-- WMBX_SEND (R138). A word is sent to a member's word mailbox. -/
  | wmbxSend (c : Fin 2048) (m : Fin 4) (r : Fin 32)
  /-- WMBX_IN (R138). A word is received from the word mailbox. -/
  | wmbxIn (c : Fin 2048) (r : Fin 32)
  /-- IN_DATA (R142). Reads 4 input bytes and advances the input offset. -/
  | inData (c : Fin 2048) (r : Fin 32) (dma : Dma)
  /-- OUT_DATA (R143). Stages 4 output bytes, or records an attempt beyond capacity. -/
  | outData (c : Fin 2048) (v : Word)
  /-- NTIME_READ (R142). Reads network time as a 64-bit sample latched by the NTIME_LO read. -/
  | ntimeRead (c : Fin 2048) (r : Fin 32) (k : Fin 3)
  /-- DRBG_READ (R69). Reads random words from the barn DRBG, waiting until it serves. -/
  | drbgRead (c : Fin 2048) (r : Fin 32) (k : Fin 4)
  /-- CTX_MODE_WRITE (R167). Sets the saturation and rounding mode and may clear OVF. -/
  | ctxModeWrite (c : CoreId) (v : Word)
  /-- UWC_LOOKUP (R146). Looks up a handle in the unwrap cache and checks role, window and counter. -/
  | uwcLookup (c : Fin 2048) (v : Word)
  /-- UWC_FILL (R148). Installs an authenticated record key into a register and places a cache entry. -/
  | uwcFill (c : Fin 2048) (v : Word)
  /-- KREC_FETCH (R147). Starts fetching a key record from a stack and clears the record-authentication flag. -/
  | krecFetch (c : Fin 2048) (v : Word)
  /-- KREC_FETCH_DONE (R147). A fetched record arrives in s8 to s15 with its status. -/
  | krecFetchDone (c : Fin 2048) (r : Fin 32)
  /-- REC_KEY (R145). Loads the per-boot record key into a secret register with role 0x0C. -/
  | recKey (c : Fin 2048) (v : Word)
  /-- KREC_STORE (R233). The record writer creates a key record from secret registers and a template. -/
  | krecStore (c : Fin 2048) (v : Word)
  /-- POL_REQ (R151). The lead requests the policy debit and tally reservation for the request. -/
  | polReq (c : Fin 2048) (v : Word)
  /-- POL_RESULT_READY (R151). The policy unit returns its result to the waiting lead. -/
  | polResultReady (c : Fin 2048) (r : Fin 32)
  /-- TP_DETAIL (R382). Sets the detail field of the reserved tally entry. -/
  | tpDetail (c : Fin 2048) (v : Word)
  /-- TP_OFS (R382). Sets the data word index of the reserved tally entry. -/
  | tpOfs (c : Fin 2048) (v : Word)
  /-- TP_DATA (R382). Writes one data word into the reserved tally entry and advances the index. -/
  | tpData (c : Fin 2048) (v : Word)
  /-- TP_HANDLES (R382). Writes the named handles of the request into the tally entry data. -/
  | tpHandles (c : Fin 2048) (v : Word)
  -- Block engines
  /-- BE_KEY_0 (R180). Loads key part 0 into the context's block-engine slot and clears part 1. -/
  | beKey0 (c : Fin 2048) (e : Fin 4) (sa : Fin 16)
  /-- BE_KEY_1 (R180). Loads key part 1 into the context's slot. -/
  | beKey1 (c : Fin 2048) (e : Fin 4) (sa : Fin 16)
  /-- BE_DIN (R180). Writes a data block to the block engine. -/
  | beDin (c : Fin 2048) (e : Fin 4) (sa : Fin 16)
  /-- BE_ENCRYPT (R182). Block-engine command op 0x1 encrypts one block. -/
  | beEncrypt (c : Fin 2048) (e : Fin 4) (alg : BitVec 4)
  /-- BE_DECRYPT (R182). Block-engine command op 0x2 decrypts one block. -/
  | beDecrypt (c : Fin 2048) (e : Fin 4) (alg : BitVec 4)
  /-- BE_CHECK_VALUE (R183). Block-engine command op 0x3 computes a key check value. -/
  | beCheckValue (c : Fin 2048) (e : Fin 4) (alg : BitVec 4)
  /-- BE_COMPARE (R183). Block-engine command op 0x4 compares a block with the last encrypt result and may set the record-authentication flag. -/
  | beCompare (c : Fin 2048) (e : Fin 4) (cmpLen : BitVec 4)
  /-- BE_RESULT_READY (R184). A block-engine result becomes ready after its dummy-round-dependent time. -/
  | beResultReady (c : Fin 2048) (e : Fin 4)
  /-- BE_DOUT (R180). Takes the context's oldest result into a secret register, waiting until it is ready. -/
  | beDout (c : Fin 2048) (e : Fin 4) (sd : Fin 16)
  /-- BE_KEYCLR (R179). Erases the context's key slot in the engine. -/
  | beKeyclr (c : Fin 2048) (e : Fin 4)
  /-- BE_DATAPATH_MISMATCH (R185). A datapath-check mismatch erases the engine's keys and ends every request keyed in it. -/
  | beDatapathMismatch (c : Fin 2048) (e : Fin 4)
  -- Bulk AEAD engines
  /-- BG_KEY (R188). Loads a bulk data key part into the bound bulk engine. -/
  | bgKey (c : Fin 2048) (sa : Fin 16)
  /-- BG_CMD (R189). Starts the bulk message from the staged parameter block. -/
  | bgCmd (c : Fin 2048) (dma : Dma)
  /-- BG_COUNT (R187). Successive reads return the low and high words of the bytes written. -/
  | bgCount (c : Fin 2048) (r : Fin 32)
  /-- BAE_MESSAGE_END (R190). A bulk message ends, with tag result or abort, and BG_WAIT returns its status. -/
  | baeMessageEnd (b : Fin 8) (dma : Dma)
  /-- BAE_SUSPEND (R191). At the next block boundary the engine saves the running message into a suspend slot. -/
  | baeSuspend (b : Fin 8) (blocks : Nat)
  /-- BAE_RESUME (R191). When the urgent request ends, the engine resumes the most recently suspended message. -/
  | baeResume (b : Fin 8)
  /-- BAE_ALARM (R193). An engine alarm erases all keys and ends the running and suspended messages with FAULT_ALARM. -/
  | baeAlarm (b : Fin 8)
  /-- BAE_SELFTEST_DONE (R193). The 20 µs known-answer test ends, and the engine takes work again or is retired. -/
  | baeSelftestDone (b : Fin 8) (pass : Bool)
  /-- BAE_LOCK_ACQUIRE (R186). Warden firmware acquires a free bulk engine. -/
  | baeLockAcquire (b : Fin 8) (w : Warden)
  /-- BAE_LOCK_RELEASE (R186). Warden firmware releases its bulk engine and erases the key. -/
  | baeLockRelease (b : Fin 8) (w : Warden)
  -- Big-number engines
  /-- BN_CLAIM (R195). Claims a free BNE of the barn, waiting first come first served when none is free. -/
  | bnClaim (c : Fin 2048) (b : Fin 6) (r : Fin 32)
  /-- BN_SLOT (R197). Configures an operand-memory slot. -/
  | bnSlot (c : Fin 2048) (b : Fin 6) (v : Word)
  /-- BN_WR (R198). Writes 32 bits at the pointer and relabels the slot. -/
  | bnWr (c : Fin 2048) (b : Fin 6) (v : Word)
  /-- BN_RD (R198). Reads 32 bits from a P or C slot. -/
  | bnRd (c : Fin 2048) (b : Fin 6) (r : Fin 32)
  /-- BN_XFER (R199). Copies bytes between a slot and the request input or output. -/
  | bnXfer (c : Fin 2048) (b : Fin 6) (v : Word) (dma : Dma)
  /-- BN_KEY (R200). Fetches, authenticates and checks a private key into operand-memory slots. -/
  | bnKey (c : Fin 2048) (b : Fin 6) (v : Word)
  /-- BN_SKEY (R201). Writes an HMAC key from a secret register into a slot. -/
  | bnSkey (c : Fin 2048) (b : Fin 6) (sa : Fin 16)
  /-- BN_STORE (R202). Stores a generated key into the reserved record index. -/
  | bnStore (c : Fin 2048) (b : Fin 6) (v : Word)
  /-- BN_RELEASE (R210). Ends the job and starts the wipe of operand memory and workspace. -/
  | bnRelease (c : Fin 2048) (b : Fin 6)
  /-- BNE_MMUL (R205). Modular multiplication. -/
  | bneMmul (c : Fin 2048) (n : Fin 6) (x : BneArgs)
  /-- BNE_MADD (R205). Modular addition. -/
  | bneMadd (c : Fin 2048) (n : Fin 6) (x : BneArgs)
  /-- BNE_MSUB (R205). Modular subtraction. -/
  | bneMsub (c : Fin 2048) (n : Fin 6) (x : BneArgs)
  /-- BNE_MEXP (R205). Modular exponentiation. -/
  | bneMexp (c : Fin 2048) (n : Fin 6) (x : BneArgs)
  /-- BNE_MINV (R205). Modular inversion. -/
  | bneMinv (c : Fin 2048) (n : Fin 6) (x : BneArgs)
  /-- BNE_MRED (R205). Modular reduction. -/
  | bneMred (c : Fin 2048) (n : Fin 6) (x : BneArgs)
  /-- BNE_MUL (R205). Long-integer multiplication. -/
  | bneMul (c : Fin 2048) (n : Fin 6) (x : BneArgs)
  /-- BNE_PCHECK (R205). Checks that a point lies on a curve. -/
  | bnePcheck (c : Fin 2048) (n : Fin 6) (x : BneArgs)
  /-- BNE_SMUL (R205). Scalar multiplication of a point. -/
  | bneSmul (c : Fin 2048) (n : Fin 6) (x : BneArgs)
  /-- BNE_SMULG (R205). Scalar multiplication of the base point. -/
  | bneSmulg (c : Fin 2048) (n : Fin 6) (x : BneArgs)
  /-- BNE_RSA_SIGN (R205). RSA signature inside the engine with result verification. -/
  | bneRsaSign (c : Fin 2048) (n : Fin 6) (x : BneArgs)
  /-- BNE_RSA_VERIFY (R205). RSA verification inside the engine. -/
  | bneRsaVerify (c : Fin 2048) (n : Fin 6) (x : BneArgs)
  /-- BNE_ECDSA_SIGN (R205). ECDSA signature inside the engine. -/
  | bneEcdsaSign (c : Fin 2048) (n : Fin 6) (x : BneArgs)
  /-- BNE_ECDSA_VERIFY (R205). ECDSA verification inside the engine. -/
  | bneEcdsaVerify (c : Fin 2048) (n : Fin 6) (x : BneArgs)
  /-- BNE_ECDH (R205). ECDH with the one-step KDF. -/
  | bneEcdh (c : Fin 2048) (n : Fin 6) (x : BneArgs)
  /-- BNE_ED25519_SIGN (R205). Ed25519 signature. -/
  | bneEd25519Sign (c : Fin 2048) (n : Fin 6) (x : BneArgs)
  /-- BNE_ED25519_VERIFY (R205). Ed25519 verification. -/
  | bneEd25519Verify (c : Fin 2048) (n : Fin 6) (x : BneArgs)
  /-- BNE_EC_KEYGEN (R205). Elliptic-curve key generation. -/
  | bneEcKeygen (c : Fin 2048) (n : Fin 6) (x : BneArgs)
  /-- BNE_RSA_KEYGEN (R205). RSA key generation. -/
  | bneRsaKeygen (c : Fin 2048) (n : Fin 6) (x : BneArgs)
  /-- BNE_MLKEM_KEYGEN (R205). ML-KEM key generation. -/
  | bneMlkemKeygen (c : Fin 2048) (n : Fin 6) (x : BneArgs)
  /-- BNE_MLKEM_ENCAPS (R205). ML-KEM encapsulation. -/
  | bneMlkemEncaps (c : Fin 2048) (n : Fin 6) (x : BneArgs)
  /-- BNE_MLKEM_DECAPS (R205). ML-KEM decapsulation with implicit rejection. -/
  | bneMlkemDecaps (c : Fin 2048) (n : Fin 6) (x : BneArgs)
  /-- BNE_MLDSA_KEYGEN (R205). ML-DSA key generation. -/
  | bneMldsaKeygen (c : Fin 2048) (n : Fin 6) (x : BneArgs)
  /-- BNE_MLDSA_SIGN (R205). Hedged ML-DSA signing. -/
  | bneMldsaSign (c : Fin 2048) (n : Fin 6) (x : BneArgs)
  /-- BNE_MLDSA_VERIFY (R205). ML-DSA verification. -/
  | bneMldsaVerify (c : Fin 2048) (n : Fin 6) (x : BneArgs)
  /-- BNE_NTT (R205). Forward number-theoretic transform. -/
  | bneNtt (c : Fin 2048) (n : Fin 6) (x : BneArgs)
  /-- BNE_INTT (R205). Inverse number-theoretic transform. -/
  | bneIntt (c : Fin 2048) (n : Fin 6) (x : BneArgs)
  /-- BNE_PMUL (R205). Pointwise polynomial product. -/
  | bnePmul (c : Fin 2048) (n : Fin 6) (x : BneArgs)
  /-- BNE_PADD (R205). Per-coefficient polynomial addition. -/
  | bnePadd (c : Fin 2048) (n : Fin 6) (x : BneArgs)
  /-- BNE_PSUB (R205). Per-coefficient polynomial subtraction. -/
  | bnePsub (c : Fin 2048) (n : Fin 6) (x : BneArgs)
  /-- BNE_HASH (R205). Hashes a message in the engine's hash unit. -/
  | bneHash (c : Fin 2048) (n : Fin 6) (x : BneArgs)
  /-- BNE_HMAC (R205). Generates or verifies an HMAC tag. -/
  | bneHmac (c : Fin 2048) (n : Fin 6) (x : BneArgs)
  /-- BNE_OPERATION_DONE (R196). A BN_KEY, BN_CMD or BN_STORE finishes, and the waiting context issues again. -/
  | bneOperationDone (n : Fin 48)
  /-- BNE_FAULT (R209). A residue, parity or second-computation failure ends the request with FAULT_ALARM and clears the engine. -/
  | bneFault (n : Fin 48) (check : Bool)
  /-- BNE_SELFTEST_DONE (R209). The 50 µs self-test ends, and the engine takes claims again or is retired. -/
  | bneSelftestDone (n : Fin 48) (pass : Bool)
  /-- BNE_WIPE_DONE (R210). The wipe and read-back end, and the engine goes to the next waiting claim. -/
  | bneWipeDone (n : Fin 48) (clean : Bool)
  /-- BNE_CLEAR_DONE (R210). After an abort, the engine finishes clearing its slots and workspace. -/
  | bneClearDone (n : Fin 48)
  -- Loader and banks
  /-- LOADER_CHECK_DONE (R156). The loader finishes checking a bank, accepts it and extends its measurement register, or sets a reason. -/
  | loaderCheckDone (i : Fin 64)
  /-- STK_BANK_LOADING (R157). Writing LOADING to STK_BANK_n starts copying an accepted bank into a window. -/
  | stkBankLoading (k : Fin 32) (n : Fin 4) (bank : Fin 64)
  /-- STK_BANK_DRAINING (R157). Writing DRAINING to STK_BANK_n stops new groups for the window. -/
  | stkBankDraining (k : Fin 32) (n : Fin 4)
  /-- BANK_COPY_DONE (R157). A window copy verifies and becomes RESIDENT, or fails and becomes EMPTY. -/
  | bankCopyDone (k : Fin 32) (n : Fin 4) (ok : Bool)
  /-- BANK_DRAIN_DONE (R157). The last group using a draining window ends, and the window becomes EMPTY. -/
  | bankDrainDone (k : Fin 32) (n : Fin 4)
  -- Random number chain
  /-- MASK_GENERATOR_RESEED (R135). Every 1 ms the barn mask generator is reseeded from the barn DRBG. -/
  | maskGeneratorReseed (barn : Fin 8)
  /-- RNG_WAIT_TIMEOUT (R69). A wait for random output reaches 100 ms, and the request ends with RNG_UNAVAILABLE. -/
  | rngWaitTimeout (w : RngWaiter)
  /-- DRBG_RESEED (R243). Every 1 ms a DRBG absorbs 256 bits of conditioner output. `raw` are the raw bits until then; a self-check of the conditioner or of the DRBG may fail. -/
  | drbgReseed (d : Fin 9) (raw : Raw) (condFail drbgFail : Bool)
  /-- DRBG_RESEED_OVERDUE (R243). A reseed 10 ms overdue makes the DRBG stop serving. -/
  | drbgReseedOverdue (d : Fin 9)
  /-- SOURCE_HEALTH_FAIL (R246). A noise source fails a health test and is excluded, and undelivered blocks are discarded. The test fails on a bit of `last`; `raw` are the instants before it. -/
  | sourceHealthFail (raw : Raw) (last : Byte)
  /-- SOURCE_RETEST (R246). 1 s after exclusion, the source reruns its start-up test and may be readmitted. `raw` are the raw bits that follow. -/
  | sourceRetest (src : Fin 8) (samples : Samples) (raw : Raw)
  /-- WIN_TEST_ENABLE (R250). Setting WIN_TEST.enable in TEST or ANALYSIS enters raw-sample test mode. -/
  | winTestEnable (v : Word)
  /-- WIN_TEST_DISABLE (R250). Clearing WIN_TEST.enable restarts the chain from the start-up tests. -/
  | winTestDisable (v : Word)
  /-- WIN_RAW_READ (R252). A read of WIN_RAW pops the next 32 captured bits. -/
  | winRawRead
  /-- WIN_RAND_READ (R252). A read of WIN_RAND_3 consumes the 16 bytes from the Keep DRBG. -/
  | winRandRead
  -- Granary
  /-- ROOT_MASK_REFRESH (R213). Every 1 s the granary replaces the BBRAM root mask. -/
  | rootMaskRefresh
  /-- SLOT_PERIOD_TICK (R222). At a slot's period tick, copies are re-masked and MACs checked. `flips` names the bits of on-chip arrays that have changed since the row before (log 109). -/
  | slotPeriodTick (slot : Fin 4096) (flips : List Flip)
  /-- BUCKET_SNAPSHOT (R236). Every 1 s the policy unit writes a snapshot of every bucket to MRAM. -/
  | bucketSnapshot
  -- HBM and gleaner
  /-- HBM_UE_RESOLVED (R261). A held uncorrectable read is resolved after rereads and probes, as corrected or poisoned. `probe` names the DRAM dies whose probe failed, `left` the symbols that the last reread found to differ from what was written. -/
  | hbmUeResolved (die : Fin 2) (line : Fin 268435456) (probe : BitVec 16) (left : List SymUpset) (ini : BitVec 4) (reader : UeReader)
  /-- HBM_PAGE_FILL_DONE (R265). The background fill of a newly valid page completes. -/
  | hbmPageFillDone (die : Fin 2) (page : Fin 4194304)
  /-- MERGE_ENTRY_TIMEOUT (R266). A merge-buffer entry still partial after 64 cycles is completed by read-modify-write. -/
  | mergeEntryTimeout (die : Fin 2) (line : Fin 268435456)
  /-- GLEANER_LINE_READ (R267). The gleaner reads and decodes the next line and writes back corrections. `data`, `check` and `crc` name, by line, the bits of data symbols, check symbols and CRC bytes of the stack that have changed since the row before (log 107). -/
  | gleanerLineRead (die : Fin 2) (data : List (Fin 268435456 × Fin 8 × BitVec 64)) (check : List (Fin 268435456 × BitVec 64))
      (crc : List (Fin 268435456 × Fin 9 × BitVec 8))
  /-- ROW_RETIREMENT_DONE (R268). The copy of a failing row into a spare ends, and the row is remapped. -/
  | rowRetirementDone (die : Fin 2)
  -- Wardens and yoke
  /-- FEED_LOSS (R296). A Keep feed stays below 0.72 V for 200 ns and starts a switch-over or HALT. -/
  | feedLoss (w : Warden)
  /-- SWITCH_OVER_DONE (R296). The standby passes its check and receives the baton, and the unit runs solo. -/
  | switchOverDone (checkOk : Bool) (gapNs : BitVec 16)
  /-- YOKE_COMPARE_TIMEOUT (R291). The other warden's matching item fails to arrive within 16 cycles, which is a mismatch. -/
  | yokeCompareTimeout (w : Warden)
  /-- WARDEN_SELF_FLAG (R293). A warden raises its fault self-flag. -/
  | wardenSelfFlag (w : Warden)
  /-- YOKE_MISMATCH_JUDGED (R293). After the 64-cycle window, the yoke judges a mismatch by the self-flags raised. -/
  | yokeMismatchJudged
  /-- RESYNC_DONE (R294). Resynchronization of a diverged or readmitted warden ends, and the warden becomes standby. -/
  | resyncDone (ok : Bool)
  /-- FEED_READMIT (R298). After 10 ms of good feed, a feed-lost warden begins resynchronization. -/
  | feedReadmit (w : Warden)
  -- Officer mailbox
  /-- OFC_NONCE_REQ (R308). A write of 1 issues a nonce into the nonce table. -/
  | ofcNonceReq (v : Word)
  /-- NONCE_EXPIRY (R308). A nonce stops being outstanding 30 minutes after issue. -/
  | nonceExpiry (k : Fin 64)
  -- Scarecrow
  /-- FAST_CHANNEL_TRIP (R311). A fast tamper channel meets its condition and asserts the zeroize line. `chs` are the channels that do at one moment (R324). -/
  | fastChannelTrip (chs : List (Fin 64))
  /-- HOLD_EXPIRY (R315). 1 s after the last trip condition clears, HOLD ends and the Keep die boots. -/
  | holdExpiry (env : BootEnv)
  /-- SCARECROW_SAMPLE (R312). Every 1 ms the scarecrow samples and filters each filtered channel. -/
  | scarecrowSample (smp : Sample)
  /-- SAMPLE_CYCLE_OVERRUN (R312). A sample cycle not complete within 2 ms trips the sentinel-fault channel. -/
  | sampleCycleOverrun
  /-- FALLOW_WAKE (R321). The battery sequencer wakes, samples, applies the limits, re-masks the root and sleeps. -/
  | fallowWake (smp : Sample) (fast : List (Fin 64))
  /-- FALLOW_HEARTBEAT_MISS (R321). A wake not complete within 2 wake periods trips the sentinel-fault channel. -/
  | fallowHeartbeatMiss
  /-- XTAL_LOST (R310). The 32.768 kHz crystal stops; SCR_WARN.xtal_lost is set and the RTC moves to the low-power oscillator. -/
  | xtalLost
  /-- SCR_TAMPER_RELEASE (R325). A write of release while pending is 0 releases TAMPER_N and clears SCR_CAUSES. -/
  | scrTamperRelease
  /-- SCR_HIST_DATA_READ (R325). A read of SCR_HIST_DATA_3 advances the history read pointer. -/
  | scrHistDataRead
  -- TAP and debug
  /-- EXTEST (R349). Selecting EXTEST clears the keys tier and holds the dies in reset. -/
  | extest
  /-- CLAMP (R349). Selecting CLAMP clears the keys tier and holds the dies in reset. -/
  | clamp
  /-- HIGHZ (R349). Selecting HIGHZ clears the keys tier and holds the dies in reset. -/
  | highz
  /-- SAMPLE_PRELOAD (R349). The boundary-scan sample and preload instruction. -/
  | samplePreload
  /-- IDCODE (R443). Returns the 32-bit IDCODE 0x2482_0A6F. -/
  | idcode
  /-- BYPASS (R349). Selects the 1-bit bypass register. -/
  | bypass
  /-- TAP_TEST_LOGIC_RESET (R349). After boundary scan, passing through Test-Logic-Reset releases the hold with a warm reset. -/
  | tapTestLogicReset (env : BootEnv)
  /-- DBG_NONCE (R350). Reading DBG_NONCE issues a nonce. -/
  | dbgNonce
  /-- DBG_AUTH (R350). Writing a debug token sets the debug level when every check passes. -/
  | dbgAuth (token : Bytes)
  /-- DEBUG_ACCESS (R351). DBG_ADDR with start makes one 32-bit debug read or write through the gates. -/
  | debugAccess (addr : BitVec 42) (data : Word)
  -- Register pages
  /-- LOCK_WRITE (R417). Writing LOCK makes every RWL field of the page read-only until reset. -/
  | lockWrite (t : RegTarget) (v : Word)
  /-- ERR_CLR_WRITE (R417). Writing 1 clears ERR_CODE and ERR_INFO. -/
  | errClrWrite (t : RegTarget) (v : Word)
  /-- INT_SET_WRITE (R417). In TEST, each 1 written sets the matching INT_RAW bit. -/
  | intSetWrite (t : RegTarget) (v : Word)
  /-- CNT_CLEAR (R417). Writing CTRL.cnt_clear zeroes the page's performance counters. -/
  | cntClear (t : RegTarget) (v : Word)
  /-- REGISTER_WRITE (R3). A write to a register without a row of its own acts by its field access types. -/
  | registerWrite (t : RegTarget) (size : Fin 9) (v : BitVec 64)
  -- Tally
  /-- TAL_RESV_TAKE (R381). Warden firmware reserves one tally entry, or is refused. -/
  | talResvTake
  /-- TAL_RESV_TAKE_PAIR (R381). Warden firmware reserves two tally entries. -/
  | talResvTakePair
  /-- TW_CURSOR_WRITE (R386). Moves a tally window's cursor to the lowest visible sequence at or above the value. -/
  | twCursorWrite (f : Fin 2049) (v : Word)
  /-- TW_ENTRY_READ (R386). A read of TW_ENTRY_15 advances the window cursor. -/
  | twEntryRead (f : Fin 2049)
  -- Time
  /-- TIME_CMD_GO (R394). Judges a host time set at the arrival of the write. -/
  | timeCmdGo (invalidate : Bool)
  /-- TIME_CMD_AT_PPS (R394). Arms a host time set for the next accepted PPS edge. -/
  | timeCmdAtPps (invalidate : Bool)
  /-- TIME_CMD_INVALIDATE (R393). Makes network time not valid. -/
  | timeCmdInvalidate
  /-- AT_PPS_TIMEOUT (R394). An armed set with no accepted edge within 1.5 s is refused with reason 0b110. -/
  | atPpsTimeout
  /-- PPS_EDGE (R397). A rising edge of PPS_IN is accepted or rejected, and an accepted edge may correct time. -/
  | ppsEdge
  /-- PPS_LOCK_TIMEOUT (R397). 3 s without an accepted edge clears pps_locked. -/
  | ppsLockTimeout
  /-- RTC_COMPARE (R399). Every second, NTIME is compared with the battery RTC, and disagreement makes it not valid. -/
  | rtcCompare
  /-- RTC_SYNC (R399). Every 3,600 s of valid time, the RTC syncs to network time. -/
  | rtcSync
  /-- TIME_NOW_READ (R414). A read of the low word of TIME_NOW or VF_NTIME latches the high word for that reader. -/
  | timeNowRead (r : TimeReader)
  -- Power, clocks, rails
  /-- PWR_REQ_IDLE (R404). PWR_REQ target IDLE starts the IDLE handshake. -/
  | pwrReqIdle
  /-- PWR_REQ_RUN (R405). PWR_REQ target RUN wakes the package from IDLE. -/
  | pwrReqRun
  /-- PWR_REQ_FALLOW_PREPARATION (R406). PWR_REQ target 0b11 starts the FALLOW preparation handshake. -/
  | pwrReqFallowPreparation
  /-- DEV_PWR_REQ_SHUTDOWN (R406). Writing shutdown starts the FALLOW preparation handshake and stops fetching. -/
  | devPwrReqShutdown
  /-- IDLE_AFTER_EXPIRY (R404). After idle_after milliseconds of quiet, the controller requests IDLE. -/
  | idleAfterExpiry
  /-- PWR_AGENT_ANSWER (R403). A handshake agent answers ACK, REFUSE or DELAY, and the transition may commit or be abandoned. -/
  | pwrAgentAnswer (ans : AgentAnswer)
  /-- PWR_DELAY_EXPIRY (R403). The DELAY count of an agent expires, and the agent is asked again. -/
  | pwrDelayExpiry
  /-- PWR_HANDSHAKE_TIMEOUT (R403). A transition not committed 10 ms after its start is abandoned. -/
  | pwrHandshakeTimeout
  /-- IDLE_WAKE_DONE (R405). The wake phases end and fetching resumes. -/
  | idleWakeDone
  /-- WAKE_DIE_TIMEOUT (R405). A Field die not awake within 5 ms is taken out of service. -/
  | wakeDieTimeout (die : Fin 2)
  /-- KEEP_RAILS_FALL (R406). The Keep rails fall and the battery domain enters FALLOW, orderly or not. -/
  | keepRailsFall
  /-- STOOK_CLOCK_GATE (R402). In TRIM, a stook with no context in use for 256 cycles has its clock gated. -/
  | stookClockGate (k : Fin 32)
  /-- THERMAL_SAMPLE (R407). Every 1 ms each Field die reads its hottest sensor and steps its clock or holds dispatch. -/
  | thermalSample (die : Fin 2) (tj : Int)
  /-- FIELD_RAIL_UNDERVOLTAGE (R408). A Field rail below 0.68 V for 1 µs takes that die out of service. -/
  | fieldRailUndervoltage (die : Fin 2)
  /-- VIO_UNDERVOLTAGE (R435). VIO below 1.55 V for 1 µs holds the package in reset. -/
  | vioUndervoltage
  /-- VIO_RETURN (R435). VIO above 1.62 V ends the hold, and the TK4820 boots as after a warm reset. -/
  | vioReturn (env : BootEnv)
  /-- CLK_CTRL_SWITCH (R410). Setting a CLK_CTRL bit switches a domain onto its PLL and arms its clock monitor. -/
  | clkCtrlSwitch (v : Word)
  -- Histograms
  /-- HIF_HIST_BASE_WRITE (R415). A change of base_log2 clears every histogram bin. -/
  | hifHistBaseWrite (v : Word)
  /-- HIF_HIST_CLEAR (R415). Writing clear zeroes every histogram bin. -/
  | hifHistClear (v : Word)
  -- SPDM and I3C
  /-- GET_VERSION (R371): `req` is the request message from its first byte. The SPDM GET_VERSION request. -/
  | getVersion (t : Transport) (req : Bytes)
  /-- GET_CAPABILITIES (R371). The SPDM GET_CAPABILITIES request. -/
  | getCapabilities (t : Transport) (req : Bytes)
  /-- NEGOTIATE_ALGORITHMS (R371). The SPDM NEGOTIATE_ALGORITHMS request. -/
  | negotiateAlgorithms (t : Transport) (req : Bytes)
  /-- GET_DIGESTS (R371). The SPDM GET_DIGESTS request. -/
  | getDigests (t : Transport) (req : Bytes)
  /-- GET_CERTIFICATE (R371). Returns the slot 0 certificate chain. -/
  | getCertificate (t : Transport) (req : Bytes)
  /-- CHALLENGE (R371). Signs a challenge response with the alias key. -/
  | challenge (t : Transport) (req : Bytes)
  /-- GET_MEASUREMENTS (R372). Returns the measurement indices and the stored boot records. -/
  | getMeasurements (t : Transport) (req : Bytes)
  /-- KEY_EXCHANGE (R371). Opens an SPDM session on DOE, evicting the older session when two exist. -/
  | keyExchange (t : Transport) (req : Bytes)
  /-- FINISH (R371), in the session it names. Completes the SPDM session handshake. -/
  | finish (t : Transport) (session : BitVec 32) (req : Bytes)
  /-- SPDM_UNSUPPORTED_REQUEST (R371). Any other SPDM request, or an MCTP request before release, returns ERROR. -/
  | spdmUnsupportedRequest (t : Transport) (req : Bytes)
  /-- I3C_PRIVATE_WRITE (R373). A 1-byte private write sets the status-block read offset. -/
  | i3cPrivateWrite (b : Byte)
  /-- I3C_PRIVATE_READ (R373). A private read returns the out-of-band status block from the offset. -/
  | i3cPrivateRead (len : Nat)
  /-- I3C_DYNAMIC_ADDRESS (R373). SETDASA or ENTDAA assigns the target's dynamic address. -/
  | i3cDynamicAddress (addr : BitVec 7)
  -- Late rows
  /-- TRIP_CONDITION_CLEAR (R315). The last present trip condition clears, trip_active goes to 0 and the 1 s HOLD timer starts. -/
  | tripConditionClear (ch : Fin 64)
  /-- BATTERY_ATTACH (R396). VBAT rises and the battery domain is first powered, filling the slew budget and starting the filter state and the battery RTC. -/
  | batteryAttach (smp : Sample)
  /-- PLL_LOCK (R410). A PLL started at boot step 5 locks and sets its bit in CLK_STATUS.lock. -/
  | pllLock (k : Fin 4)
  /-- UWC_RESULT_READY (R145). The unwrap-cache lookup ends after its hit or miss latency, and the context waiting on UWC_RESULT issues again. -/
  | uwcResultReady (c : Fin 2048) (r : Fin 32)
  /-- KREC_STORE_DONE (R233). The record writer finishes a KREC_STORE, and KREC_RESULT returns its status to the waiting lead. -/
  | krecStoreDone (c : Fin 2048) (r : Fin 32)
  /-- SLEW_PENDING_ZERO (R395). Slew absorption brings pending to exactly 0, and the slew rate s returns to 0. -/
  | slewPendingZero
  /-- WIN_RAND_REFILL (R252). The Keep DRBG refills WIN_RAND with 16 bytes and sets rand_ready. -/
  | winRandRefill
deriving DecidableEq, Repr

end Sys2Proof
end

