-- ==== Sys2Proof/Machine/Bits.lean ====
section
/-! DEFINITION. Bytes, integers and bit fields: the conversions every chapter uses. Little-endian unless a name says
big-endian (spec/00_scope.md). -/

namespace Sys2Proof.Bits

open Sys2Proof

/-- n bytes of v, least significant first. -/
def le : Nat → Nat → Bytes
  | 0, _ => []
  | n + 1, v => BitVec.ofNat 8 v :: le n (v / 256)

/-- n bytes of v, most significant first. -/
def be (n v : Nat) : Bytes := (le n v).reverse

/-- The integer whose little-endian bytes are given. -/
def ofLe : Bytes → Nat
  | [] => 0
  | b :: r => b.toNat + 256 * ofLe r

/-- The integer whose big-endian bytes are given. -/
def ofBe (bs : Bytes) : Nat := ofLe bs.reverse

/-- n zero bytes. -/
def zeros (n : Nat) : Bytes := List.replicate n 0

/-- The first n bytes, filled with zeros. -/
def fit (n : Nat) (bs : Bytes) : Bytes := bs.take n ++ zeros (n - bs.length)

/-- n bytes from offset o; bytes beyond the end read 0. -/
def slice (bs : Bytes) (o n : Nat) : Bytes := fit n (bs.drop o)

/-- The little-endian integer in n bytes at offset o. -/
def fieldLe (bs : Bytes) (o n : Nat) : Nat := ofLe (slice bs o n)

/-- The byte at offset o, 0 beyond the end. -/
def byteAt (bs : Bytes) (o : Nat) : Byte := bs.getD o 0

/-- Exclusive or of two byte strings, as long as the shorter. -/
def xor (a b : Bytes) : Bytes := List.zipWith (· ^^^ ·) a b

/-- Consecutive pieces of n bytes; the last may be shorter. `fuel` bounds the count of pieces. -/
def chunksAux (n : Nat) : Nat → Bytes → List Bytes
  | 0, _ => []
  | fuel + 1, bs => if bs.isEmpty then [] else bs.take n :: chunksAux n fuel (bs.drop n)

def chunks (n : Nat) (bs : Bytes) : List Bytes := chunksAux n (bs.length / n + 1) bs

/-- A 128-bit block from 16 bytes, byte 0 in bits [7:0]. -/
def block (bs : Bytes) : BitVec 128 := BitVec.ofNat 128 (ofLe (bs.take 16))

/-- The 16 bytes of a block. -/
def ofBlock (b : BitVec 128) : Bytes := le 16 b.toNat

/-- The bytes of an ASCII string. -/
def ascii (s : String) : Bytes := s.toList.map (fun c => BitVec.ofNat 8 c.toNat)

/-- Bits [hi:lo] of a natural number. -/
def bits (v hi lo : Nat) : Nat := v / 2 ^ lo % 2 ^ (hi + 1 - lo)

/-- Bit i of a natural number. -/
def bit (v i : Nat) : Bool := v / 2 ^ i % 2 == 1

/-- 1 for true, 0 for false. -/
def b2n (b : Bool) : Nat := if b then 1 else 0

/-- Nibble j of a byte string in the numbering of R79 and R160: the high nibble of byte j / 2 when j is even, the low one
when j is odd. -/
def nib (bs : Bytes) (j : Nat) : Nat :=
  let b := (byteAt bs (j / 2)).toNat
  if j % 2 = 0 then b / 16 else b % 16

/-- The bytes whose nibbles, in the numbering of R79, are listed; an odd last nibble fills a high nibble. -/
def ofNibs : List Nat → Bytes
  | [] => []
  | [a] => [BitVec.ofNat 8 (a % 16 * 16)]
  | a :: b :: r => BitVec.ofNat 8 (a % 16 * 16 + b % 16) :: ofNibs r

/-- All nibbles of a byte string, in order. -/
def nibs (bs : Bytes) : List Nat := bs.flatMap (fun b => [b.toNat / 16, b.toNat % 16])

/-- Every byte is 0. -/
def allZero (bs : Bytes) : Bool := bs.all (· == 0)

/-- Value v with bits [hi:lo] replaced by the low bits of x. -/
def setBits (v hi lo x : Nat) : Nat :=
  v - bits v hi lo * 2 ^ lo + x % 2 ^ (hi + 1 - lo) * 2 ^ lo

/-- A list by rising key; elements of one key keep their order. -/
def sortOn {α : Type} (key : α → Nat) (xs : List α) : List α := xs.insertionSort (fun a b => key a ≤ key b)

end Sys2Proof.Bits
end

