-- ==== Sys2Proof/Machine/CryptoAes.lean ====
section
/-! DEFINITION. AES (FIPS 197), DES and TDES (SP 800-67), CMAC (SP 800-38B), and the modes CBC, CTR, key wrap (RFC 3394),
as the standards that the spec names give them (PRESUMED, log 10). -/

namespace Sys2Proof.Aes

open Sys2Proof Sys2Proof.Bits

/-- Product by x in GF(2^8). -/
def xtime (a : Byte) : Byte := (a <<< 1) ^^^ (if a.msb then 0x1B else 0)

/-- Product in GF(2^8): shift and add over the n low bits of b. -/
def gmulAux : Nat → Byte → Byte → Byte
  | 0, _, _ => 0
  | n + 1, a, b => (if b.getLsbD 0 then a else 0) ^^^ gmulAux n (xtime a) (b >>> 1)

def gmul (a b : Byte) : Byte := gmulAux 8 a b

/-- The S-box (FIPS 197, table 4): each number holds 32 bytes, the first the most significant. -/
def sboxRows : List Nat :=
  [0x637C777BF26B6FC53001672BFED7AB76CA82C97DFA5947F0ADD4A2AF9CA472C0,
   0xB7FD9326363FF7CC34A5E5F171D8311504C723C31896059A071280E2EB27B275,
   0x09832C1A1B6E5AA0523BD6B329E32F8453D100ED20FCB15B6ACBBE394A4C58CF,
   0xD0EFAAFB434D338545F9027F503C9FA851A3408F929D38F5BCB6DA2110FFF3D2,
   0xCD0C13EC5F974417C4A77E3D645D197360814FDC222A908846EEB814DE5E0BDB,
   0xE0323A0A4906245CC2D3AC629195E479E7C8376D8DD54EA96C56F4EA657AAE08,
   0xBA78252E1CA6B4C6E8DD741F4BBD8B8A703EB5664803F60E613557B986C11D9E,
   0xE1F8981169D98E949B1E87E9CE5528DF8CA1890DBFE6426841992D0FB054BB16]

/-- The inverse S-box (FIPS 197, table 6), in the same form. -/
def invSboxRows : List Nat :=
  [0x52096AD53036A538BF40A39E81F3D7FB7CE339829B2FFF87348E4344C4DEE9CB,
   0x547B9432A6C2233DEE4C950B42FAC34E082EA16628D924B2765BA2496D8BD125,
   0x72F8F66486689816D4A45CCC5D65B6926C704850FDEDB9DA5E154657A78D9D84,
   0x90D8AB008CBCD30AF7E45805B8B34506D02C1E8FCA3F0F02C1AFBD0301138A6B,
   0x3A9111414F67DCEA97F2CFCEF0B4E67396AC7422E7AD3585E2F937E81C75DF6E,
   0x47F11A711D29C5896FB7620EAA18BE1BFC563E4BC6D279209ADBC0FE78CD5AF4,
   0x1FDDA8338807C731B11210592780EC5F60517FA919B54A0D2DE57A9F93C99CEF,
   0xA0E03B4DAE2AF5B0C8EBBB3C83539961172B047EBA77D626E169146355210C7D]

/-- Byte a of a table of that form. -/
def tableByte (t : List Nat) (a : Byte) : Byte := BitVec.ofNat 8 (t.getD (a.toNat / 32) 0 / 2 ^ (8 * (31 - a.toNat % 32)))

/-- The S-box. -/
def sbox (a : Byte) : Byte := tableByte sboxRows a

/-- The inverse S-box. -/
def invSbox (a : Byte) : Byte := tableByte invSboxRows a

/-- Row shift: byte i of the result is byte (i + 4 * (i mod 4)) mod 16. -/
def shiftRows (s : Bytes) : Bytes := (List.range 16).map (fun i => byteAt s ((i + 4 * (i % 4)) % 16))

def invShiftRows (s : Bytes) : Bytes := (List.range 16).map (fun i => byteAt s ((i + 12 * (i % 4)) % 16))

/-- One column times the circulant matrix with first row c0 c1 c2 c3. -/
def mixWith (c : List Byte) (s : Bytes) : Bytes :=
  (List.range 16).map (fun i =>
    let col := i / 4 * 4
    (List.range 4).foldl (fun acc j => acc ^^^ gmul (byteAt c ((j + 4 - i % 4) % 4)) (byteAt s (col + j))) 0)

def mixColumns (s : Bytes) : Bytes := mixWith [2, 3, 1, 1] s

def invMixColumns (s : Bytes) : Bytes := mixWith [14, 11, 13, 9] s

/-- One key-schedule word: w[i] from w[i - 1] and w[i - nk]. -/
def expandWord (nk i : Nat) (rcon : Byte) (prev old : Bytes) : Bytes :=
  let t :=
    if i % nk = 0 then
      let r := (prev.drop 1 ++ prev.take 1).map sbox
      xor r [rcon, 0, 0, 0]
    else if nk = 8 ∧ i % nk = 4 then prev.map sbox
    else prev
  xor t old

/-- The key schedule, most recent word first; `n` words remain. -/
def expandAux (nk : Nat) : Nat → Nat → Byte → List Bytes → List Bytes
  | 0, _, _, ws => ws
  | n + 1, i, rcon, ws =>
    let w := expandWord nk i rcon (ws.getD 0 []) (ws.getD (nk - 1) [])
    expandAux nk n (i + 1) (if i % nk = 0 then xtime rcon else rcon) (w :: ws)

/-- The round keys of a 16, 24 or 32-byte key, 16 bytes each. -/
def roundKeys (key : Bytes) : List Bytes :=
  let nk := key.length / 4
  let total := 4 * (nk + 7)
  chunks 16 ((expandAux nk (total - nk) nk 1 (chunks 4 key).reverse).reverse.flatten)

/-- AES encryption of one block. -/
def encrypt (key blk : Bytes) : Bytes :=
  match roundKeys key with
  | [] => blk
  | k0 :: rest =>
    let mid := rest.dropLast
    let last := rest.getLastD []
    let s := mid.foldl (fun s k => xor (mixColumns (shiftRows (s.map sbox))) k) (xor (fit 16 blk) k0)
    xor (shiftRows (s.map sbox)) last

/-- AES decryption of one block. -/
def decrypt (key blk : Bytes) : Bytes :=
  match (roundKeys key).reverse with
  | [] => blk
  | kl :: rest =>
    let mid := rest.dropLast
    let first := rest.getLastD []
    let s := mid.foldl (fun s k => invMixColumns (xor ((invShiftRows s).map invSbox) k)) (xor (fit 16 blk) kl)
    xor ((invShiftRows s).map invSbox) first

end Sys2Proof.Aes

namespace Sys2Proof.Des

open Sys2Proof Sys2Proof.Bits

/-- Bits of a byte string, most significant bit of byte 0 first. -/
def toBits (bs : Bytes) : List Bool := bs.flatMap (fun b => (List.range 8).map (fun i => b.getLsbD (7 - i)))

/-- Bytes of a bit string, first bit the most significant. -/
def ofBits (bs : List Bool) : Bytes :=
  (List.range (bs.length / 8)).map (fun i =>
    BitVec.ofNat 8 ((bs.drop (8 * i)).take 8 |>.foldl (fun a b => 2 * a + b2n b) 0))

/-- The bits at the given places, counted from 1. -/
def pick (t : List Nat) (bs : List Bool) : List Bool := t.map (fun i => bs.getD (i - 1) false)

def ip : List Nat :=
  (List.range 64).map (fun i => (if i / 8 < 4 then 58 + 2 * (i / 8) else 57 + 2 * (i / 8 - 4)) - 8 * (i % 8))

def fp : List Nat :=
  (List.range 64).map (fun i =>
    let c := i % 8
    (if c % 2 = 0 then 40 + 8 * (c / 2) else 8 + 8 * (c / 2)) - i / 8)

def e : List Nat := (List.range 48).map (fun i => (4 * (i / 6) + i % 6 + 31) % 32 + 1)

def p : List Nat :=
  [16, 7, 20, 21, 29, 12, 28, 17, 1, 15, 23, 26, 5, 18, 31, 10] ++
  [2, 8, 24, 14, 32, 27, 3, 9, 19, 13, 30, 6, 22, 11, 4, 25]

def pc1 : List Nat :=
  [57, 49, 41, 33, 25, 17, 9, 1, 58, 50, 42, 34, 26, 18, 10, 2, 59, 51, 43, 35, 27, 19, 11, 3, 60, 52, 44, 36] ++
  [63, 55, 47, 39, 31, 23, 15, 7, 62, 54, 46, 38, 30, 22, 14, 6, 61, 53, 45, 37, 29, 21, 13, 5, 28, 20, 12, 4]

def pc2 : List Nat :=
  [14, 17, 11, 24, 1, 5, 3, 28, 15, 6, 21, 10, 23, 19, 12, 4, 26, 8, 16, 7, 27, 20, 13, 2] ++
  [41, 52, 31, 37, 47, 55, 30, 40, 51, 45, 33, 48, 44, 49, 39, 56, 34, 53, 46, 42, 50, 36, 29, 32]

/-- The S-boxes, each as one hexadecimal number of 64 digits: rows 0 to 3 of 16 entries. -/
def sboxes : List Nat :=
  [0xE4D12FB83A6C5907_0F74E2D1A6CB9538_41E8D62BFC973A50_FC8249175B3EA06D,
   0xF18E6B34972DC05A_3D47F28EC01A69B5_0E7BA4D158C6932F_D8A13F42B67C05E9,
   0xA09E63F51DC7B428_D709346A285ECBF1_D6498F30B12C5AE7_1AD069874FE3B52C,
   0x7DE3069A1285BC4F_D8B56F03472C1AE9_A690CB7DF13E5284_3F06A1D8945BC72E,
   0x2C417AB6853FD0E9_EB2C47D150FA3986_421BAD78F9C5630E_B8C71E2D6F09A453,
   0xC1AF92680D34E75B_AF427C9561DE0B38_9EF528C3704A1DB6_432C95FABE17608D,
   0x4B2EF08D3C975A61_D0B7491AE35C2F86_14BDC37EAF680592_6BD814A7950FE23C,
   0xD2846FB1A93E50C7_1FD8A374C56B0E92_7B419CE206ADF358_21E74A8DFC90356B]

/-- S-box k on six bits. -/
def sbox (k : Nat) (b : List Bool) : List Bool :=
  let row := 2 * b2n (b.getD 0 false) + b2n (b.getD 5 false)
  let col := ((b.drop 1).take 4).foldl (fun a x => 2 * a + b2n x) 0
  let v := sboxes.getD k 0 / 16 ^ (63 - (16 * row + col)) % 16
  (List.range 4).map (fun i => bit v (3 - i))

/-- The round function. -/
def f (r k : List Bool) : List Bool :=
  let x := List.zipWith Bool.xor (pick e r) k
  pick p ((List.range 8).flatMap (fun i => sbox i ((x.drop (6 * i)).take 6)))

def rotl (n : Nat) (bs : List Bool) : List Bool := bs.drop n ++ bs.take n

def shifts : List Nat := [1, 1, 2, 2, 2, 2, 2, 2, 1, 2, 2, 2, 2, 2, 2, 1]

/-- The 16 round keys. -/
def roundKeys (key : Bytes) : List (List Bool) :=
  let cd := pick pc1 (toBits key)
  (shifts.foldl (fun (st : (List Bool × List Bool) × List (List Bool)) n =>
    let c := rotl n st.1.1
    let d := rotl n st.1.2
    ((c, d), st.2 ++ [pick pc2 (c ++ d)])) ((cd.take 28, cd.drop 28), [])).2

/-- The cipher under the given order of round keys. -/
def crypt (ks : List (List Bool)) (blk : Bytes) : Bytes :=
  let x := pick ip (toBits (fit 8 blk))
  let lr := ks.foldl (fun (lr : List Bool × List Bool) k => (lr.2, List.zipWith Bool.xor lr.1 (f lr.2 k)))
    (x.take 32, x.drop 32)
  ofBits (pick fp (lr.2 ++ lr.1))

def encrypt (key blk : Bytes) : Bytes := crypt (roundKeys key) blk

def decrypt (key blk : Bytes) : Bytes := crypt (roundKeys key).reverse blk

/-- TDES: three keys k1, k2, k3 of 8 bytes (EDE). -/
def encrypt3 (k1 k2 k3 blk : Bytes) : Bytes := encrypt k3 (decrypt k2 (encrypt k1 blk))

def decrypt3 (k1 k2 k3 blk : Bytes) : Bytes := decrypt k1 (encrypt k2 (decrypt k3 blk))

/-- Odd parity in bit 0 of a byte. -/
def oddParity (b : Byte) : Byte :=
  let ones := (List.range 7).foldl (fun a i => a + b2n (b.getLsbD (i + 1))) 0
  (b &&& 0xFE) ||| (if ones % 2 = 0 then 1 else 0)

end Sys2Proof.Des

namespace Sys2Proof.Cipher

open Sys2Proof Sys2Proof.Bits

/-- A block cipher by key: DES, TDES with a 16 or 24-byte key, or AES with a 16, 24 or 32-byte key. -/
inductive Alg where
  | des
  | tdes
  | aes
deriving DecidableEq, Repr

def blockLen : Alg → Nat
  | .aes => 16
  | _ => 8

def enc (a : Alg) (key blk : Bytes) : Bytes :=
  match a with
  | .aes => Aes.encrypt key blk
  | .des => Des.encrypt (key.take 8) blk
  | .tdes => Des.encrypt3 (key.take 8) (slice key 8 8) (if key.length = 16 then key.take 8 else slice key 16 8) blk

def dec (a : Alg) (key blk : Bytes) : Bytes :=
  match a with
  | .aes => Aes.decrypt key blk
  | .des => Des.decrypt (key.take 8) blk
  | .tdes => Des.decrypt3 (key.take 8) (slice key 8 8) (if key.length = 16 then key.take 8 else slice key 16 8) blk

/-- CBC encryption of whole blocks. -/
def cbcEnc (a : Alg) (key iv data : Bytes) : Bytes :=
  ((chunks (blockLen a) data).foldl (fun (st : Bytes × Bytes) b =>
    let c := enc a key (xor (fit (blockLen a) b) st.1)
    (c, st.2 ++ c)) (iv, [])).2

/-- CBC decryption of whole blocks. -/
def cbcDec (a : Alg) (key iv data : Bytes) : Bytes :=
  ((chunks (blockLen a) data).foldl (fun (st : Bytes × Bytes) b =>
    (b, st.2 ++ xor (dec a key b) st.1)) (iv, [])).2

/-- The last block of a CBC encryption with IV zero: CBC-MAC of whole blocks. -/
def cbcMac (a : Alg) (key iv data : Bytes) : Bytes :=
  (chunks (blockLen a) data).foldl (fun st b => enc a key (xor (fit (blockLen a) b) st)) iv

/-- Doubling in GF(2^128) or GF(2^64), big-endian, as SP 800-38B gives it. -/
def dbl (b : Bytes) : Bytes :=
  let n := b.length
  let v := ofBe b
  let w := v * 2 % 2 ^ (8 * n)
  if v / 2 ^ (8 * n - 1) = 1 then be n (Nat.xor w (if n = 16 then 0x87 else 0x1B)) else be n w

/-- CMAC (SP 800-38B), the full block. -/
def cmac (a : Alg) (key msg : Bytes) : Bytes :=
  let n := blockLen a
  let k1 := dbl (enc a key (zeros n))
  let k2 := dbl k1
  let full := decide (msg.length % n = 0 ∧ msg.length ≠ 0)
  let head := msg.take ((msg.length - (if full then n else msg.length % n)))
  let tail := msg.drop head.length
  let last := if full then xor tail k1 else xor (fit n (tail ++ [0x80])) k2
  enc a key (xor last (cbcMac a key (zeros n) head))

/-- AES-CTR with a big-endian counter over the last `w` bytes of the block. -/
def ctrStream (key ctr : Bytes) (w n : Nat) : Bytes :=
  ((List.range ((n + 15) / 16)).flatMap (fun i =>
    Aes.encrypt key (ctr.take (16 - w) ++ be w (ofBe (ctr.drop (16 - w)) + i)))).take n

def ctr (key iv : Bytes) (w : Nat) (data : Bytes) : Bytes := xor data (ctrStream key iv w data.length)

/-- AES key wrap (RFC 3394) of n 64-bit words. -/
def wrap (kek plain : Bytes) : Bytes :=
  let n := plain.length / 8
  let st := (List.range (6 * n)).foldl (fun (st : Bytes × List Bytes) k =>
    let i := k % n
    let b := Aes.encrypt kek (st.1 ++ st.2.getD i [])
    (xor (b.take 8) (be 8 (k + 1)), st.2.set i (b.drop 8))) (List.replicate 8 0xA6, chunks 8 plain)
  st.1 ++ st.2.flatten

/-- AES key unwrap: none where the integrity check fails. -/
def unwrap (kek wrapped : Bytes) : Option Bytes :=
  let n := wrapped.length / 8 - 1
  let st := (List.range (6 * n)).foldl (fun (st : Bytes × List Bytes) k =>
    let t := 6 * n - k
    let i := (t - 1) % n
    let b := Aes.decrypt kek (xor st.1 (be 8 t) ++ st.2.getD i [])
    (b.take 8, st.2.set i (b.drop 8))) (wrapped.take 8, chunks 8 (wrapped.drop 8))
  if st.1 = List.replicate 8 0xA6 then some st.2.flatten else none

end Sys2Proof.Cipher
end

