-- ==== Sys2Proof/Machine/CryptoModes.lean ====
section
/-! DEFINITION. The bulk modes: GCM (SP 800-38D), CCM (SP 800-38C) and XTS (IEEE 1619, SP 800-38E), with the
running state that R191 lets an engine suspend, as the standards that the spec names give them (PRESUMED, log 10). -/

namespace Sys2Proof.Gcm

open Sys2Proof Sys2Proof.Bits

/-- Product in GF(2^128) of GCM, bit 0 of the block the most significant of its integer: z over the n low bits of x,
highest first. -/
def mulAux : Nat → Nat → Nat → Nat → Nat
  | 0, _, _, z => z
  | n + 1, x, v, z =>
    mulAux n x (if v % 2 = 1 then Nat.xor (v / 2) (0xE1 * 2 ^ 120) else v / 2) (if bit x n then Nat.xor z v else z)

def mul (x y : Nat) : Nat := mulAux 128 x y 0

/-- Absorb data, padded with zeros to whole blocks, into accumulator y under hash key h. -/
def ghash (h y : Nat) (data : Bytes) : Nat :=
  (chunks 16 data).foldl (fun a b => mul (Nat.xor a (ofBe (fit 16 b))) h) y

def hashKey (key : Bytes) : Nat := ofBe (Aes.encrypt key (zeros 16))

/-- Counter block J0 of a 12-byte IV. -/
def j0 (iv : Bytes) : Bytes := fit 12 iv ++ [0, 0, 0, 1]

/-- The counter block n steps after c, in its low 32 bits. -/
def incBy (c : Bytes) (n : Nat) : Bytes := c.take 12 ++ be 4 (ofBe (c.drop 12) + n)

/-- The full 16-byte tag from the accumulator after header and ciphertext. -/
def tag (key iv : Bytes) (acc aadLen dataLen : Nat) : Bytes :=
  let s := ghash (hashKey key) acc (be 8 (8 * aadLen) ++ be 8 (8 * dataLen))
  xor (be 16 s) (Aes.encrypt key (j0 iv))

/-- Encryption: ciphertext and full tag. -/
def encrypt (key iv aad plain : Bytes) : Bytes × Bytes :=
  let c := Cipher.ctr key (incBy (j0 iv) 1) 4 plain
  (c, tag key iv (ghash (hashKey key) (ghash (hashKey key) 0 aad) c) aad.length c.length)

/-- Decryption: plaintext and the full tag expected. -/
def decrypt (key iv aad cipher : Bytes) : Bytes × Bytes :=
  (Cipher.ctr key (incBy (j0 iv) 1) 4 cipher,
    tag key iv (ghash (hashKey key) (ghash (hashKey key) 0 aad) cipher) aad.length cipher.length)

end Sys2Proof.Gcm

namespace Sys2Proof.Ccm

open Sys2Proof Sys2Proof.Bits

/-- The encoded header length. -/
def encLen (a : Nat) : Bytes :=
  if a = 0 then [] else if a < 65280 then be 2 a else [0xFF, 0xFE] ++ be 4 a

/-- Block B0: flags, nonce, data length. -/
def b0 (nonce : Bytes) (tagLen aadLen dataLen : Nat) : Bytes :=
  let q := 15 - nonce.length
  BitVec.ofNat 8 ((if aadLen = 0 then 0 else 64) + 8 * ((tagLen - 2) / 2) + (q - 1)) :: (nonce ++ be q dataLen)

/-- Counter block i. -/
def ctrBlock (nonce : Bytes) (i : Nat) : Bytes :=
  let q := 15 - nonce.length
  BitVec.ofNat 8 (q - 1) :: (nonce ++ be q i)

/-- The CBC-MAC state after B0 and the header. -/
def macStart (key nonce aad : Bytes) (tagLen dataLen : Nat) : Bytes :=
  let x := Cipher.cbcMac .aes key (zeros 16) (b0 nonce tagLen aad.length dataLen)
  Cipher.cbcMac .aes key x (encLen aad.length ++ aad)

/-- The CBC-MAC state after payload; the last block is filled with zeros. -/
def macData (key x plain : Bytes) : Bytes := Cipher.cbcMac .aes key x plain

/-- The full 16-byte tag from the final CBC-MAC state. -/
def tag (key nonce x : Bytes) : Bytes := xor x (Aes.encrypt key (ctrBlock nonce 0))

/-- Counter mode over the payload, from counter block 1. -/
def stream (key nonce data : Bytes) : Bytes :=
  let q := 15 - nonce.length
  Cipher.ctr key (ctrBlock nonce 1) q data

def encrypt (key nonce aad plain : Bytes) (tagLen : Nat) : Bytes × Bytes :=
  (stream key nonce plain, tag key nonce (macData key (macStart key nonce aad tagLen plain.length) plain))

def decrypt (key nonce aad cipher : Bytes) (tagLen : Nat) : Bytes × Bytes :=
  let p := stream key nonce cipher
  (p, tag key nonce (macData key (macStart key nonce aad tagLen cipher.length) p))

end Sys2Proof.Ccm

namespace Sys2Proof.Xts

open Sys2Proof Sys2Proof.Bits

/-- The tweak times x, little-endian. -/
def dbl (t : Nat) : Nat := Nat.xor (2 * t % 2 ^ 128) (if 2 ^ 127 ≤ t then 0x87 else 0)

/-- One data unit of whole blocks: data key k1, tweak key k2, unit number u. -/
def unit (enc : Bool) (k1 k2 : Bytes) (u : Nat) (data : Bytes) : Bytes :=
  ((chunks 16 data).foldl (fun (st : Nat × Bytes) b =>
    let t := le 16 st.1
    let x := xor b t
    (dbl st.1, st.2 ++ xor (if enc then Aes.encrypt k1 x else Aes.decrypt k1 x) t))
    (ofLe (Aes.encrypt k2 (le 16 u)), [])).2

/-- A message of data units of `size` bytes: unit i takes tweak first + i (R104). -/
def run (enc : Bool) (k1 k2 : Bytes) (first size : Nat) (data : Bytes) : Bytes :=
  (List.zipWith (fun i d => unit enc k1 k2 ((first + i) % 2 ^ 128) d) (List.range ((data.length + size - 1) / size))
    (chunks size data)).flatten

end Sys2Proof.Xts
end

