-- ==== Sys2Proof/Config.lean ====
section
/-! DEFINITION. What an implementation of the TK4820 fixes and what the spec leaves open: opaque constants with no
body, so that no proof can lean on a value of them. -/

namespace Sys2Proof.Config

/-- The n-th free value of width w: random output, masks, results the spec leaves undefined (log 2). The state's
counter `free` supplies n, and every draw advances it. -/
opaque freeBits (w n : Nat) : BitVec w

/-- ECAUSE after a condition that the table of R175 does not list, on a warden that has made n issue slots: in step, both wardens get the same
value (R290; log 2). -/
opaque freeCause (n : Nat) : Byte

/-- The unit serial fused in OTP at wafer sort (R327). -/
opaque unitSerial : BitVec 64

/-- The 256-bit OTP unit secret (R363). -/
opaque unitSecret : BitVec 256

/-- Boot ROM version (R375). -/
opaque romVersion : Word

/-- Public key of the Masidric manufacturing key, 97 bytes 0x04 ‖ X ‖ Y (R327, R330). -/
opaque manufacturingKey : Bytes

/-- Public key of the Masidric image key (R359). -/
opaque imageKey : Bytes

/-- Public key of the Masidric test root (R327). -/
opaque testRootKey : Bytes

/-- Public key of Masidric's manufacturing CA, and its certificate (R286, R365). -/
opaque manufacturingCaKey : Bytes
opaque manufacturingCaCert : Bytes

/-- The unit serial that an identity certificate names: the form in which Masidric's manufacturing CA writes it is its own (R286). -/
opaque certSerial (cert : Bytes) : BitVec 64

/-- The wrapped device identity key, its public key and its certificate as created before the part left Masidric (R7,
R335). -/
opaque factoryIdentity : Bytes
opaque factoryIdentityPub : Bytes
opaque factoryIdentityCert : Bytes

/-- The scarecrow image in bank A of the boot flash as the part leaves Masidric (R7, R323). -/
opaque factoryScarecrow : Bytes

/-- DRAM bank and row in which a pseudo-channel holds the k-th of its symbols (R259, R268): the spec gives no geometry (log 107). -/
opaque dramBank (k : Nat) : BitVec 4
opaque dramRow (k : Nat) : BitVec 15

/-- Spare rows of one bank (R268): the spec gives no count (log 107). -/
opaque spareRows : Nat

/-- What decrypts from a line whose stored ciphertext differs from the written one in bits that the code does not show (R257; log 107). -/
opaque garbledLine (line : Nat) (content diff : BitVec 512) : BitVec 512

/-- The tag of a line (R258): the spec gives neither the polynomial of the hash nor the encryption of the pad (log 107). -/
opaque lineTag (hashKey : BitVec 64) (pad : BitVec 128) (addr : Nat) (content : BitVec 512) : BitVec 64

/-- The conditioner's fixed 128-bit key, set in the mask ROM (R242). -/
opaque conditionerKey : BitVec 128

/-- The set hash of the unwrap cache: keyed, over partition and record index; its result is taken modulo the 4,096
sets (05_transaction_units.md). -/
opaque uwcSetHash (key : BitVec 128) (part idx : Nat) : Nat

/-- Expansion of a barn's mask generator: seed and draw number to mask (R135). -/
opaque maskExpand (seed : BitVec 256) (draw : Nat) : BitVec 128

end Sys2Proof.Config
end

