-- ==== Sys2Proof/Machine/CryptoHash.lean ====
section
/-! DEFINITION. Hash functions: SHA-1 and SHA-2 (FIPS 180-4), SHA-3 and SHAKE (FIPS 202), HMAC (FIPS 198-1), the KDF
in counter mode over HMAC (SP 800-108) and the one-step KDF (SP 800-56C), as the standards that the spec names give
them (PRESUMED, log 10). -/

namespace Sys2Proof.Hash

open Sys2Proof Sys2Proof.Bits

/-! ### SHA-1 and SHA-2 -/

/-- The 80 round constants of SHA-512, 64 bits each, 16 per number; SHA-256 uses the upper half of the first 64. -/
def kTable : List Nat :=
  [0x428A2F98D728AE227137449123EF65CDB5C0FBCFEC4D3B2FE9B5DBA58189DBBC3956C25BF348B53859F111F1B605D019923F82A4AF194F9BAB1C5ED5DA6D8118D807AA98A303024212835B0145706FBE243185BE4EE4B28C550C7DC3D5FFB4E272BE5D74F27B896F80DEB1FE3B1696B19BDC06A725C71235C19BF174CF692694,
   0xE49B69C19EF14AD2EFBE4786384F25E30FC19DC68B8CD5B5240CA1CC77AC9C652DE92C6F592B02754A7484AA6EA6E4835CB0A9DCBD41FBD476F988DA831153B5983E5152EE66DFABA831C66D2DB43210B00327C898FB213FBF597FC7BEEF0EE4C6E00BF33DA88FC2D5A79147930AA72506CA6351E003826F142929670A0E6E70,
   0x27B70A8546D22FFC2E1B21385C26C9264D2C6DFC5AC42AED53380D139D95B3DF650A73548BAF63DE766A0ABB3C77B2A881C2C92E47EDAEE692722C851482353BA2BFE8A14CF10364A81A664BBC423001C24B8B70D0F89791C76C51A30654BE30D192E819D6EF5218D69906245565A910F40E35855771202A106AA07032BBD1B8,
   0x19A4C116B8D2D0C81E376C085141AB532748774CDF8EEB9934B0BCB5E19B48A8391C0CB3C5C95A634ED8AA4AE3418ACB5B9CCA4F7763E373682E6FF3D6B2B8A3748F82EE5DEFB2FC78A5636F43172F6084C87814A1F0AB728CC702081A6439EC90BEFFFA23631E28A4506CEBDE82BDE9BEF9A3F7B2C67915C67178F2E372532B,
   0xCA273ECEEA26619CD186B8C721C0C207EADA7DD6CDE0EB1EF57D4F7FEE6ED17806F067AA72176FBA0A637DC5A2C898A6113F9804BEF90DAE1B710B35131C471B28DB77F523047D8432CAAB7B40C724933C9EBE0A15C9BEBC431D67C49C100D4C4CC5D4BECB3E42B6597F299CFC657E2A5FCB6FAB3AD6FAEC6C44198C4A475817]

/-- Word i of the constant table. -/
def kConst (i : Nat) : Nat := kTable.getD (i / 16) 0 / 2 ^ (64 * (15 - i % 16)) % 2 ^ 64

/-- Eight 64-bit words of a 512-bit number, most significant first. -/
def words8 (v : Nat) : List Nat := (List.range 8).map (fun i => v / 2 ^ (64 * (7 - i)) % 2 ^ 64)

def iv512 : List Nat := words8 0x6A09E667F3BCC908BB67AE8584CAA73B3C6EF372FE94F82BA54FF53A5F1D36F1510E527FADE682D19B05688C2B3E6C1F1F83D9ABFB41BD6B5BE0CD19137E2179
def iv384 : List Nat := words8 0xCBBB9D5DC1059ED8629A292A367CD5079159015A3070DD17152FECD8F70E593967332667FFC00B318EB44A8768581511DB0C2E0D64F98FA747B5481DBEFA4FA4
def iv512t256 : List Nat := words8 0x22312194FC2BF72C9F555FA3C84C64C22393B86B6F53B151963877195940EABD96283EE2A88EFFE3BE5E1E25538639922B0199FC2C85B8AA0EB72DDC81C52CA2
def iv256 : List Nat := iv512.map (· / 2 ^ 32)
def iv224 : List Nat := iv384.map (· % 2 ^ 32)
def iv1 : List Nat := [0x67452301, 0xEFCDAB89, 0x98BADCFE, 0x10325476, 0xC3D2E1F0]

/-- Parameters of a SHA-2 word size: bits per word, rounds, and the rotation amounts. -/
structure Sha2 where
  w : Nat
  rounds : Nat
  big0 : Nat × Nat × Nat
  big1 : Nat × Nat × Nat
  small0 : Nat × Nat × Nat
  small1 : Nat × Nat × Nat

def p256 : Sha2 := ⟨32, 64, (2, 13, 22), (6, 11, 25), (7, 18, 3), (17, 19, 10)⟩
def p512 : Sha2 := ⟨64, 80, (28, 34, 39), (14, 18, 41), (1, 8, 7), (19, 61, 6)⟩

def rotr (w n x : Nat) : Nat := Nat.lor (x / 2 ^ n) (x * 2 ^ (w - n) % 2 ^ w)

/-- Three rotations, exclusive or. -/
def sigmaBig (w : Nat) (r : Nat × Nat × Nat) (x : Nat) : Nat :=
  Nat.xor (Nat.xor (rotr w r.1 x) (rotr w r.2.1 x)) (rotr w r.2.2 x)

/-- Two rotations and a shift, exclusive or. -/
def sigmaSmall (w : Nat) (r : Nat × Nat × Nat) (x : Nat) : Nat :=
  Nat.xor (Nat.xor (rotr w r.1 x) (rotr w r.2.1 x)) (x / 2 ^ r.2.2)

/-- The message schedule: the window of the last 16 words, oldest first. One step drops the oldest and adds the
next. -/
def schedNext (p : Sha2) (win : List Nat) : List Nat :=
  win.drop 1 ++ [(sigmaSmall p.w p.small1 (win.getD 14 0) + win.getD 9 0 + sigmaSmall p.w p.small0 (win.getD 1 0)
    + win.getD 0 0) % 2 ^ p.w]

/-- The rounds: `n` rounds remain from round i, with the schedule window and the working variables. -/
def roundsAux (p : Sha2) : Nat → Nat → List Nat → List Nat → List Nat
  | 0, _, _, v => v
  | n + 1, i, win, v =>
    let a := v.getD 0 0
    let e := v.getD 4 0
    let ch := Nat.xor (Nat.land e (v.getD 5 0)) (Nat.land (2 ^ p.w - 1 - e) (v.getD 6 0))
    let k := if p.w = 32 then kConst i / 2 ^ 32 else kConst i
    let t1 := v.getD 7 0 + sigmaBig p.w p.big1 e + ch + k + win.getD 0 0
    let maj := Nat.xor (Nat.xor (Nat.land a (v.getD 1 0)) (Nat.land a (v.getD 2 0))) (Nat.land (v.getD 1 0) (v.getD 2 0))
    let t2 := sigmaBig p.w p.big0 a + maj
    roundsAux p n (i + 1) (schedNext p win)
      [(t1 + t2) % 2 ^ p.w, a, v.getD 1 0, v.getD 2 0, (v.getD 3 0 + t1) % 2 ^ p.w, e, v.getD 5 0, v.getD 6 0]

/-- One block into the chaining value. -/
def compress2 (p : Sha2) (h : List Nat) (blk : Bytes) : List Nat :=
  let out := roundsAux p p.rounds 0 ((chunks (p.w / 8) blk).map ofBe) h
  List.zipWith (fun x y => (x + y) % 2 ^ p.w) h out

/-- The rounds of SHA-1. -/
def rounds1 : Nat → Nat → List Nat → List Nat → List Nat
  | 0, _, _, v => v
  | n + 1, i, win, v =>
    let a := v.getD 0 0
    let b := v.getD 1 0
    let c := v.getD 2 0
    let d := v.getD 3 0
    let fk : Nat × Nat :=
      if i < 20 then (Nat.xor (Nat.land b c) (Nat.land (2 ^ 32 - 1 - b) d), 0x5A827999)
      else if i < 40 then (Nat.xor (Nat.xor b c) d, 0x6ED9EBA1)
      else if i < 60 then (Nat.xor (Nat.xor (Nat.land b c) (Nat.land b d)) (Nat.land c d), 0x8F1BBCDC)
      else (Nat.xor (Nat.xor b c) d, 0xCA62C1D6)
    let t := (rotr 32 27 a + fk.1 + v.getD 4 0 + fk.2 + win.getD 0 0) % 2 ^ 32
    let next := rotr 32 31 (Nat.xor (Nat.xor (win.getD 13 0) (win.getD 8 0)) (Nat.xor (win.getD 2 0) (win.getD 0 0)))
    rounds1 n (i + 1) (win.drop 1 ++ [next]) [t, a, rotr 32 2 b, c, d]

def compress1 (h : List Nat) (blk : Bytes) : List Nat :=
  List.zipWith (fun x y => (x + y) % 2 ^ 32) h (rounds1 80 0 ((chunks 4 blk).map ofBe) h)

/-- Hash functions by the hash byte of R100 and R105, and SHA-1 for R94. -/
inductive Alg where
  | sha1
  | sha224
  | sha256
  | sha384
  | sha512
  | sha512t256
  | sha3 (bits : Nat)
deriving DecidableEq, Repr

/-- The hash byte of R100 and R105. -/
def ofByte (b : Nat) : Option Alg :=
  match b with
  | 0x01 => some .sha256
  | 0x02 => some .sha384
  | 0x03 => some .sha512
  | 0x04 => some .sha224
  | 0x05 => some .sha512t256
  | 0x11 => some (.sha3 256)
  | 0x12 => some (.sha3 384)
  | 0x13 => some (.sha3 512)
  | 0x14 => some (.sha3 224)
  | _ => none

def isSha2 : Alg → Bool
  | .sha3 _ => false
  | .sha1 => false
  | _ => true

/-- Digest length in bytes. -/
def digestLen : Alg → Nat
  | .sha1 => 20
  | .sha224 => 28
  | .sha256 => 32
  | .sha384 => 48
  | .sha512 => 64
  | .sha512t256 => 32
  | .sha3 b => b / 8

/-- Block length in bytes. -/
def blockBytes : Alg → Nat
  | .sha1 => 64
  | .sha224 => 64
  | .sha256 => 64
  | .sha384 => 128
  | .sha512 => 128
  | .sha512t256 => 128
  | .sha3 b => 200 - b / 4

/-- Bytes of the chaining state of a SHA-2 function (R105). -/
def stateBytes (a : Alg) : Nat := if blockBytes a = 64 then 32 else 64

def iv : Alg → List Nat
  | .sha1 => iv1
  | .sha224 => iv224
  | .sha256 => iv256
  | .sha384 => iv384
  | .sha512 => iv512
  | .sha512t256 => iv512t256
  | .sha3 _ => []

/-- One block into the chaining value, by function. -/
def compress (a : Alg) (h : List Nat) (blk : Bytes) : List Nat :=
  match a with
  | .sha1 => compress1 h blk
  | .sha224 => compress2 p256 h blk
  | .sha256 => compress2 p256 h blk
  | _ => compress2 p512 h blk

/-- Length padding of SHA-1 and SHA-2 after `done` bytes already hashed. -/
def padMd (blockLen done : Nat) (msg : Bytes) : Bytes :=
  let total := done + msg.length
  let lenBytes := blockLen / 8
  let z := (2 * blockLen - 1 - lenBytes - total % blockLen) % blockLen
  msg ++ [0x80] ++ zeros z ++ be lenBytes (8 * total)

/-- The digest that follows from chaining value h after `done` bytes: pad and hash the remainder. -/
def finishMd (a : Alg) (h : List Nat) (done : Nat) (msg : Bytes) : Bytes :=
  let out := (chunks (blockBytes a) (padMd (blockBytes a) done msg)).foldl (compress a) h
  (out.flatMap (be (if blockBytes a = 64 then 4 else 8))).take (digestLen a)

/-! ### SHA-3 -/

/-- Rotation offsets of the rho step by lane x + 5 y. -/
def rho : List Nat := [0, 1, 62, 28, 27, 36, 44, 6, 55, 20, 3, 10, 43, 25, 39, 41, 45, 15, 21, 8, 18, 2, 61, 56, 14]

/-- Round constants of the iota step. -/
def rcList : List Nat :=
  [0x1, 0x8082, 0x800000000000808A, 0x8000000080008000, 0x808B, 0x80000001, 0x8000000080008081, 0x8000000000008009] ++
  [0x8A, 0x88, 0x80008009, 0x8000000A, 0x8000808B, 0x800000000000008B, 0x8000000000008089, 0x8000000000008003] ++
  [0x8000000000008002, 0x8000000000000080, 0x800A, 0x800000008000000A, 0x8000000080008081, 0x8000000000008080] ++
  [0x80000001, 0x8000000080008008]

def lane (s : List Nat) (x y : Nat) : Nat := s.getD (x % 5 + 5 * (y % 5)) 0

/-- One round of Keccak-f[1600] on 25 lanes. -/
def keccakRound (s : List Nat) (rc : Nat) : List Nat :=
  let c := (List.range 5).map (fun x => (List.range 5).foldl (fun a y => Nat.xor a (lane s x y)) 0)
  let d := (List.range 5).map (fun x => Nat.xor (c.getD ((x + 4) % 5) 0) (rotr 64 63 (c.getD ((x + 1) % 5) 0)))
  let t := (List.range 25).map (fun i => Nat.xor (s.getD i 0) (d.getD (i % 5) 0))
  -- rho and pi: lane (y, 2x + 3y) of the result comes from lane (x, y)
  let b := (List.range 25).map (fun i =>
    let y' := i / 5
    let x' := i % 5
    -- x' = y and y' = 2x + 3y, so y = x' and x = (y' - 3 x') / 2 modulo 5
    let y := x'
    let x := ((y' + 2 * x') * 3) % 5
    rotr 64 ((64 - rho.getD (x + 5 * y) 0) % 64) (lane t x y))
  let e := (List.range 25).map (fun i =>
    let x := i % 5
    let y := i / 5
    Nat.xor (lane b x y) (Nat.land (2 ^ 64 - 1 - lane b (x + 1) y) (lane b (x + 2) y)))
  match e with
  | [] => []
  | l :: r => Nat.xor l rc :: r

def keccakF (s : List Nat) : List Nat := rcList.foldl keccakRound s

/-- Absorb one block of `rate` bytes. -/
def absorb (s : List Nat) (blk : Bytes) : List Nat :=
  let ls := (chunks 8 blk).map ofLe
  keccakF ((List.range 25).map (fun i => Nat.xor (s.getD i 0) (ls.getD i 0)))

/-- Squeeze n bytes; `fuel` bounds the blocks. -/
def squeeze (rate : Nat) : Nat → List Nat → Nat → Bytes
  | 0, _, _ => []
  | fuel + 1, s, n =>
    let out := (s.flatMap (le 8)).take rate
    if n ≤ rate then out.take n else out ++ squeeze rate fuel (keccakF s) (n - rate)

/-- A sponge with the given domain byte. -/
def sponge (rate : Nat) (dom : Byte) (msg : Bytes) (n : Nat) : Bytes :=
  let padLen := rate - msg.length % rate
  let pad : Bytes := if padLen = 1 then [dom ||| 0x80] else dom :: zeros (padLen - 2) ++ [0x80]
  let s := (chunks rate (msg ++ pad)).foldl absorb (List.replicate 25 0)
  squeeze rate (n / rate + 1) s n

def shake128 (msg : Bytes) (n : Nat) : Bytes := sponge 168 0x1F msg n

def shake256 (msg : Bytes) (n : Nat) : Bytes := sponge 136 0x1F msg n

/-- The digest of a message. -/
def hash (a : Alg) (msg : Bytes) : Bytes :=
  match a with
  | .sha3 b => sponge (200 - b / 4) 0x06 msg (b / 8)
  | _ => finishMd a (iv a) 0 msg

def sha256 (msg : Bytes) : Bytes := hash .sha256 msg
def sha384 (msg : Bytes) : Bytes := hash .sha384 msg
def sha512 (msg : Bytes) : Bytes := hash .sha512 msg

/-! ### HMAC and key derivation -/

def hmac (a : Alg) (key msg : Bytes) : Bytes :=
  let n := blockBytes a
  let k := fit n (if n < key.length then hash a key else key)
  hash a (k.map (· ^^^ 0x5C) ++ hash a (k.map (· ^^^ 0x36) ++ msg))

/-- SP 800-108 in counter mode over HMAC: 32-bit counter i from 1, then label, a zero byte, the context and the output
length in bits as 32 bits, all big-endian. -/
def kdfCounter (a : Alg) (key label context : Bytes) (outLen : Nat) : Bytes :=
  let n := (outLen + digestLen a - 1) / digestLen a
  ((List.range n).flatMap (fun i =>
    hmac a key (be 4 (i + 1) ++ label ++ [0] ++ context ++ be 4 (8 * outLen)))).take outLen

/-- SP 800-56C one-step with a hash: counter, shared secret, info. -/
def oneStep (a : Alg) (z info : Bytes) (outLen : Nat) : Bytes :=
  let n := (outLen + digestLen a - 1) / digestLen a
  ((List.range n).flatMap (fun i => hash a (be 4 (i + 1) ++ z ++ info))).take outLen

end Sys2Proof.Hash
end

