-- ==== Sys2Proof/Machine/State.lean ====
section
/-! DEFINITION. The state of the TK4820: every register, store, queue, counter and pin the spec gives the part,
as plain data, and State.reset. A field's docstring ends in [width; rule; reset], and names a log entry where the
spec gives no reset value. Arrays of units are maps (Sys2Proof.Map): an index that is not listed holds the
default record, whose field defaults are the reset values. -/

set_option linter.unusedVariables false

namespace Sys2Proof

/-- An array by index, sparse: indices rising, and an index not listed holds the array's default element. No listed
element equals that default (Machine/Map.lean keeps both). -/
abbrev Map (α : Type) := List (Nat × α)

end Sys2Proof

namespace Sys2Proof.Machine

open Sys2Proof

/-- Reasons to stop with a fault. No step of this model raises one: every row of the table has an effect, and a row whose
event cannot occur in the state leaves the state as it is (log 1). The constructor names the one stop that the
spec would give the model and that its types already exclude. -/
inductive Fault where
  /-- An index outside the unit array it names. Raised by nobody: operands bound their indices. Safe. -/
  | indexOutOfRange
deriving DecidableEq, Repr

/-- Reasons to refuse a command. -/
inductive Refusal where
  /-- The command has no meaning yet. Raised by an arm of `exec` that has none. Safe. -/
  | notModelled (mnemonic : String)
deriving DecidableEq, Repr

/-! ### Host interface (02_host_interface.md) -/

/-- A submission ring: SQ_BASE_n, SQ_CFG_n, SQ_HEAD_n and the recorded doorbell (R32, R36). -/
structure SqRing where
  /-- SQ_BASE_n [64; R32; 0] -/
  base : BitVec 64 := 0
  /-- SQ_CFG_n.enable [1; R32; 0] -/
  enable : Bool := false
  /-- SQ_CFG_n.error [1; R32; 0] -/
  error : Bool := false
  /-- SQ_CFG_n.err_kind [2; R32; 0] -/
  errKind : BitVec 2 := 0
  /-- SQ_CFG_n.log2_size [5; R32; 6] -/
  log2 : Nat := 6
  /-- SQ_CFG_n.cq [6; R32; 0] -/
  cq : Nat := 0
  /-- SQ_HEAD_n.head [16; R32; 0] -/
  head : Nat := 0
  /-- last recorded SQ_DB_n index [16; R36; 0] -/
  tail : Nat := 0
  /-- place in the waiting queue of R119: time rank, 0 when not queued [Nat; R119; 0] -/
  queued : Nat := 0
deriving DecidableEq, Repr

/-- A completion ring: CQ_BASE_n, CQ_CFG_n, CQ_TAIL_n, CQ_MOD_n, the recorded head and the moderation state
(R33, R34, R57). -/
structure CqRing where
  /-- CQ_BASE_n [64; R33; 0] -/
  base : BitVec 64 := 0
  /-- CQ_CFG_n.enable [1; R33; 0] -/
  enable : Bool := false
  /-- CQ_CFG_n.error [1; R33; 0] -/
  error : Bool := false
  /-- CQ_CFG_n.int_en [1; R33; 0] -/
  intEn : Bool := false
  /-- CQ_CFG_n.log2_size [5; R33; 6] -/
  log2 : Nat := 6
  /-- CQ_CFG_n.vector [6; R33; 0] -/
  vector : Nat := 0
  /-- CQ_TAIL_n.tail [16; R33; 0] -/
  tail : Nat := 0
  /-- CQ_TAIL_n.phase [1; R33; 1] -/
  phase : Bool := true
  /-- last recorded CQ_DB_n index [16; R34; 0] -/
  head : Nat := 0
  /-- CQ_MOD_n.count [8; R33; 1] -/
  modCount : Nat := 1
  /-- CQ_MOD_n.timer [10; R33; 0] -/
  modTimer : Nat := 0
  /-- completions posted since the last interrupt [Nat; R57; 0] -/
  counted : Nat := 0
  /-- moderation timer running [1; R57; 0] -/
  timerOn : Bool := false
deriving DecidableEq, Repr

/-- One MSI-X table entry and its bit in the PBA, with the count of messages written (R29, R57). -/
structure MsixEntry where
  /-- message address [64; R29; 0 (log 20)] -/
  addr : BitVec 64 := 0
  /-- message data [32; R29; 0 (log 20)] -/
  data : Word := 0
  /-- vector control mask bit [1; R57; 1 (log 20)] -/
  masked : Bool := true
  /-- PBA pending bit [1; R57; 0] -/
  pending : Bool := false
  /-- messages written since reset [Nat; R57; 0] -/
  sent : Nat := 0
deriving DecidableEq, Repr

/-- The 128-byte request descriptor (R43). -/
structure Desc where
  /-- function code [16; R43; 0] -/
  fn : BitVec 16 := 0
  /-- flags [16; R43; 0] -/
  flags : BitVec 16 := 0
  /-- generation [16; R43; 0] -/
  gen : BitVec 16 := 0
  /-- input length [16; R43; 0] -/
  inLen : Nat := 0
  /-- flow ID [32; R43; 0] -/
  flow : Nat := 0
  /-- output capacity [32; R43; 0] -/
  outCap : Nat := 0
  /-- host tag [64; R43; 0] -/
  tag : BitVec 64 := 0
  /-- key handles 0 to 3 [4 x 64; R43; 0] -/
  handles : List (BitVec 64) := []
  /-- output address [64; R43; 0] -/
  outAddr : BitVec 64 := 0
  /-- bytes 64 to 127: inline input, or the input address and reserved bytes [512; R43; 0] -/
  tailBytes : Bytes := []
deriving DecidableEq, Repr

/-! ### Scheduling and release (04_scheduling.md) -/

/-- Scheduling classes from highest to lowest (R108). -/
inductive Cls where
  | urgent
  | transaction
  | bulk
  | long
deriving DecidableEq, Repr

/-- States of a release-buffer entry (R123). -/
inductive EntryState where
  | free
  | reserved
  | staged
  | writing
deriving DecidableEq, Repr

/-- Where a request stands between fetch and staging: reserved before fetch, waiting for a slot of the
remaining die (R124), on a ready list (R110), dispatched to a context group, running in warden firmware
(PF, R256), its draft completion made, posted by the lead and on its way to the Keep die (R451), or ended. -/
inductive ReqPhase where
  | none
  | fetching
  | waitSlot
  | ready
  | running
  | firmware
  | drafted
  | posted
  | done
deriving DecidableEq, Repr

/-- State of the policy port for one request (R151). -/
inductive PolPhase where
  | idle
  | asked
  | answered
deriving DecidableEq, Repr

/-- A tally entry being built: the fields of R376 that a request sets (R382). -/
structure TallyDraft where
  /-- a reservation is held [1; R381; 0] -/
  held : Bool := false
  /-- event code of the entry [16; R379; 0x0201] -/
  code : BitVec 16 := 0x0201
  /-- data of the continuation entry, for which a second entry is reserved [32 B; R379; none] -/
  more : Option Bytes := none
  /-- detail [16; R382; 0] -/
  detail : BitVec 16 := 0
  /-- data word index [Nat; R382; 0] -/
  ofs : Nat := 0
  /-- data words [8 x 32; R382; 0] -/
  data : Map Word := []
  /-- partition of the entry where it is not that of the request [16; R305; none] -/
  part : Option (BitVec 16) := none
deriving DecidableEq, Repr

/-- A key as a resolution yields it: the attributes of its record and its bytes (R231). -/
structure Key where
  /-- partition [11; R231; 0] -/
  part : Nat := 0
  /-- record index [29; R231; 0] -/
  idx : Nat := 0
  /-- check tag [24; R231; 0] -/
  tag : Nat := 0
  /-- algorithm [8; R231; 0] -/
  alg : Byte := 0
  /-- usage [16; R231; 0] -/
  usage : BitVec 16 := 0
  /-- mode of use [8; R231; 0] -/
  mode : Byte := 0
  /-- exportability [8; R231; 0] -/
  exp : Byte := 0
  /-- velocity policy [8; R231; 0xFF] -/
  pol : Byte := 0xFF
  /-- slot reference [16; R231; 0xFFFF] -/
  slotRef : Nat := 0xFFFF
  /-- not-before [64; R231; 0] -/
  nb : Nat := 0
  /-- not-after [64; R231; 0] -/
  na : Nat := 0
  /-- fingerprint [64; R231; 0] -/
  fp : BitVec 64 := 0
  /-- key bytes [up to 7,496 B; R231; none] -/
  bytes : Bytes := []
deriving DecidableEq, Repr

/-- A release-buffer entry with the request it serves (R123): the completion, the request's partition,
generation, CQ, output location and chain link, and beside them the descriptor slot's content and the
request's progress. -/
structure Entry where
  /-- entry state [2; R123; FREE] -/
  state : EntryState := .free
  /-- request phase [4; R110; none] -/
  phase : ReqPhase := .none
  /-- function: 0 the PF, n VF n [12; R27; 0] -/
  func : Nat := 0
  /-- SQ the descriptor came from [6; R123; 0] -/
  sq : Nat := 0
  /-- CQ of the completion [6; R123; 0] -/
  cq : Nat := 0
  /-- generation of the completion, bytes 10 to 11 [16; R47; 0] -/
  gen : BitVec 16 := 0
  /-- partition generation when the descriptor was fetched [16; R47; 0] -/
  fetchGen : BitVec 16 := 0
  /-- fetch order, for the slot wait of R124 [Nat; R124; 0] -/
  fetchSeq : Nat := 0
  /-- host address of the descriptor [64; R55; 0] -/
  descAddr : BitVec 64 := 0
  /-- the descriptor [128 B; R43; 0] -/
  desc : Desc := {}
  /-- the entry lies in the 4,096-entry pool [1; R124; 0] -/
  small : Bool := false
  /-- a descriptor-slot reservation is held and not yet a slot [1; R124; 0] -/
  slotResv : Bool := false
  /-- die of the slot: 0 none, 1 F0, 2 F1 [2; R111; 0] -/
  die : Nat := 0
  /-- die-local slot [15; R111; 0] -/
  slot : Nat := 0
  /-- accepted [1; R120; 0] -/
  accepted : Bool := false
  /-- class the request stands in [2; R108; transaction] -/
  cls : Cls := .transaction
  /-- class of its function under R73 [2; R109; transaction] -/
  fnCls : Cls := .transaction
  /-- entered the urgent class by flag [1; R108; 0] -/
  byFlag : Bool := false
  /-- acceptance order [Nat; R110; 0] -/
  acceptSeq : Nat := 0
  /-- Keep timer at acceptance or hand-off [Nat; R127; 0] -/
  acceptedAt : Nat := 0
  /-- Keep timer when the wait in this class began [Nat; R112; 0] -/
  waitSince : Nat := 0
  /-- flow sequence [32; R49; 0] -/
  flowSeq : BitVec 32 := 0
  /-- chain link: the entry released before this one [17; R123; none] -/
  pred : Option Nat := none
  /-- the predecessor's WRITING notice has arrived [1; R125; 0] -/
  notice : Bool := false
  /-- package barn of the dispatch [3; R115; 0] -/
  barn : Nat := 0
  /-- package context number of the lead [11; R136; 0] -/
  lead : Nat := 0
  /-- contexts of the group, lead first [4 x 11; R136; empty] -/
  group : List Nat := []
  /-- the function waits for random output [1; R69; 0] -/
  rngWait : Bool := false
  /-- window of the stook whose bank the group runs [2; R157; 0] -/
  window : Nat := 0
  /-- REQ_STATUS [16; R142; 0] -/
  status : BitVec 16 := 0
  /-- REQ_OUTLEN [24; R142; 0] -/
  outLen : Nat := 0
  /-- REQ_RESULT, the inline result word [64; R142; 0] -/
  result : BitVec 64 := 0
  /-- byte 15 bit 0, output untrusted [1; R47; 0] -/
  untrusted : Bool := false
  /-- input bytes read into the slot [inLen B; R45; none] -/
  input : Option Bytes := none
  /-- staged output by offset: the 96 B of the slot, and from the transfer to the Keep die on all of it; all of it for a PF
  request (log 47) [up to 16 MiB; R143, R256; 0] -/
  out : Map Byte := []
  /-- 1 plus the highest offset OUT_DATA attempted beyond capacity [32; R143; 0] -/
  outOver : Nat := 0
  /-- time snapshot: NTIME in ns and its validity [65; R147; none] -/
  snap : Option (BitVec 64 × Bool) := none
  /-- policy port phase [2; R151; idle] -/
  polPhase : PolPhase := .idle
  /-- policy result [16; R151; 0] -/
  polResult : BitVec 16 := 0
  /-- a resolved key carries a velocity policy or a use counter [1; R144; 0] -/
  polNeed : Bool := false
  /-- failing handle position for byte 24 [2; R61; 0] -/
  failPos : Nat := 0
  /-- miss tickets by handle position: 0 none, 1 open, 2 invalidated [R150; 0] -/
  tickets : Map Nat := []
  /-- role code of the last UWC_LOOKUP by handle position [8; R146, R148; 0] -/
  lookRole : Map Byte := []
  /-- keys the request has resolved and holds, by handle position [4; R71; none] -/
  held : List (Nat × Key) := []
  /-- first record index reserved for a creation, and how many [29 + 7; R70; none] -/
  recResv : Option (Nat × Nat) := none
  /-- the reserved records have been written [1; R70; 0] -/
  recMade : Bool := false
  /-- tally entry under construction [R381; none held] -/
  tally : TallyDraft := {}
  /-- generation increment of the partition waits on this write [1; R52; 0] -/
  passed : Bool := false
  /-- order in which the entry reached WRITING [Nat; R125; 0] -/
  writeSeq : Nat := 0
  /-- completion bytes, filled when the entry enters WRITING [32 B; R47; empty] -/
  comp : Bytes := []
  /-- the request was sent to a barn of its die [1; R20; 0] -/
  ran : Bool := false
  /-- area of warden working memory that a request of the PF rings stages its output in: 1,024 x (die - 1) + area [R256; none] -/
  area : Option Nat := none
  /-- a watchdog expired while a read of the request was held [1; R273; 0] -/
  dogLate : Bool := false
  /-- algorithm of the key that the last OK lookup or fill gave, by handle position [4 x 8; R188; none] -/
  lookAlg : Map Byte := []
  /-- partitions that were sealed after this PF request was admitted, for the release of R288 [R288; none] -/
  preSeal : List Nat := []
deriving DecidableEq, Repr

/-- A flow-table entry (R120). -/
structure Flow where
  /-- next flow sequence [32; R120; 1] -/
  next : BitVec 32 := 1
  /-- outstanding count [9; R120; 0] -/
  outstanding : Nat := 0
  /-- newest release-buffer entry [17; R120; none] -/
  newest : Option Nat := none
deriving DecidableEq, Repr

/-! ### Knatrix cores (05_transaction_units.md, 06_knatrix_isa.md) -/

/-- Labels of secret data, least restricted first (R139). -/
inductive Label where
  | p
  | c
  | t
  | n
  | k
deriving DecidableEq, Repr

/-- A secret register: its value, label, role and derived bit (R160). The part holds the value XOR the
context's mask M (R135); the model holds the value and the mask beside each other (log 30). -/
structure SReg where
  /-- value [128; R160; 0] -/
  val : BitVec 128 := 0
  /-- label [3; R139; P] -/
  label : Label := .p
  /-- role code [8; R160; 0x00] -/
  role : Byte := 0
  /-- derived bit [1; R160; 0] -/
  derived : Bool := false
deriving DecidableEq, Repr

/-- A level of the loop stack: first and last body address, passes left (R164). -/
structure LoopLevel where
  /-- byte address of the first body instruction [32; R164; -] -/
  first : Nat
  /-- byte address of the last body instruction [32; R164; -] -/
  last : Nat
  /-- passes left, the running one included [32; R164; -] -/
  left : Nat
deriving DecidableEq, Repr

/-- A pending multiplier or accumulator write (R165): its target, value, and the instructions left until every
reader sees it. -/
inductive PendTarget where
  | mlohi
  | acc (a : Nat)
deriving DecidableEq, Repr

structure PendWrite where
  /-- MHI:MLO or an accumulator [R165; -] -/
  target : PendTarget
  /-- value: 64 bits for MHI:MLO, 72 for an accumulator [72; R165; -] -/
  val : BitVec 72
  /-- instructions still to issue before the write is visible [3; R165; -] -/
  left : Nat
  /-- the write sets OVF when it takes effect [1; R167, R168; 0] -/
  ovf : Bool := false
deriving DecidableEq, Repr

/-- What a context or core waits for (R138, R142, R145, R151, R175, R195, R196). -/
inductive Wait where
  | none
  | smbxSend (m : Nat)
  | smbxIn
  | wmbxSend (m : Nat)
  | wmbxIn
  | join
  | uwcResult
  | krecResult
  | krecStore
  | polResult
  | drbg
  | beResult (e : Nat)
  | beIssue (e : Nat)
  | bgWait
  | bnClaim (b : Nat)
  | bnBusy
  | bnWait
  | wfi
  | yoke
deriving DecidableEq, Repr

/-- Life of a TU context: free, clearing after a request end (R152), reserved and not started, running, or ended
as a helper (R137). A warden or the scarecrow is `running` while out of reset. -/
inductive CtxPhase where
  | free
  | reserved
  | running
  | ended
deriving DecidableEq, Repr

/-- The state of one Knatrix core or context (R134, R159). -/
structure Core where
  /-- phase [R136; free] -/
  phase : CtxPhase := .free
  /-- release-buffer entry of the owning request [17; R136; 0] -/
  entry : Nat := 0
  /-- member index [2; R142; 0] -/
  member : Nat := 0
  /-- what the context waits for [R134; none] -/
  wait : Wait := .none
  /-- instruction address [32; R158; 0] -/
  pc : Nat := 0
  /-- w0 to w31 [32 x 32; R134; 0] -/
  w : Map Word := []
  /-- a0 to a3 [4 x 72; R134; 0] -/
  acc : Map (BitVec 72) := []
  /-- MLO [32; R134; 0] -/
  mlo : Word := 0
  /-- MHI [32; R134; 0] -/
  mhi : Word := 0
  /-- pending multiplier and accumulator writes, oldest first [R165; empty] -/
  pend : List PendWrite := []
  /-- s0 to s15 [16 x 140; R134; 0, label P, role 0] -/
  s : Map SReg := []
  /-- the context's mask M [128; R135; 0 (log 30)] -/
  mask : BitVec 128 := 0
  /-- data space by byte address [16 KiB TU and scarecrow, 512 KiB warden; R159; 0 (log 21)] -/
  mem : Map Byte := []
  /-- CTX_MODE saturation [1; R134; off] -/
  sat : Bool := false
  /-- CTX_MODE rounding [2; R134; truncate] -/
  rnd : BitVec 2 := 0
  /-- overflow flag OVF [1; R159; 0] -/
  ovf : Bool := false
  /-- a pipelined write sets OVF in the cycle of the instruction that issues [1; R167; 0] -/
  ovfNow : Bool := false
  /-- decimalization register DT [64; R159; 0] -/
  dt : BitVec 64 := 0
  /-- DT has been loaded since the core was cleared [1; R172; 0] -/
  dtLoaded : Bool := false
  /-- return stack, top first [16 or 8 x 32; R159; empty] -/
  rstack : List Nat := []
  /-- loop stack, innermost first [4 levels; R159; empty] -/
  lstack : List LoopLevel := []
  /-- record-authentication flag [1; R134; 0] -/
  recAuth : Bool := false
  /-- secret mailbox, oldest first [4 entries; R138; empty] -/
  smbx : List SReg := []
  /-- word mailbox, oldest first [8 entries; R138; empty] -/
  wmbx : List Word := []
  /-- IN_OFS [32; R142; 0] -/
  inOfs : Nat := 0
  /-- OUT_OFS [32; R142; 0] -/
  outOfs : Nat := 0
  /-- NTIME_HI latch [32; R142; 0] -/
  ntimeHi : Word := 0
  /-- NTIME_VALID latch [1; R142; 0] -/
  ntimeOk : Bool := false
  /-- helper has been forked [1; R137; 0] -/
  forked : Bool := false
  /-- UWC_RESULT of the last lookup, and whether it is ready [32 + 1; R145; none] -/
  uwc : Option (Word × Bool) := none
  /-- KREC_RESULT of the last fetch or store, when it is ready [32; R145; none] -/
  krec : Option Word := none
  /-- fetch in progress: handle position, and second record of a pair [2 + 1; R145; none] -/
  fetch : Option (Nat × Bool) := none
  /-- status of a KREC_STORE in progress [16; R233; none] -/
  storing : Option (BitVec 16) := none
  /-- KREC_HANDLE of the last KREC_STORE [64; R233; 0] -/
  newHandle : BitVec 64 := 0
  /-- KREC_HANDLE returns the high word next [1; R233; 0] -/
  halfHi : Bool := false
  /-- TU watchdog time consumed before `started`, ns [Nat; R154; 0] -/
  wdogUsed : Nat := 0
  /-- Keep timer when the watchdog last began to count: at the lead's first instruction, and after each wait on a BNE or a bulk
  engine [Nat; R154; none] -/
  started : Option Nat := none
  /-- issue slots and interrupt entries of a warden, by which the yoke knows its instruction boundary [Nat; R290; 0] -/
  slots : Nat := 0
deriving DecidableEq, Repr

/-- The system side of a warden or the scarecrow core (R174, R175). -/
structure SysCore where
  /-- TVEC [32; R175; 0 (log 21)] -/
  tvec : Word := 0
  /-- EPC [32; R175; 0 (log 21)] -/
  epc : Word := 0
  /-- ECAUSE [8; R175; 0 (log 21)] -/
  ecause : Byte := 0
  /-- IEN global interrupt enable [1; R175; 0 (log 21)] -/
  ien : Bool := false
  /-- interrupt enable saved at trap entry, restored by ERET [1; R175; 0 (log 21)] -/
  ienSaved : Bool := false
  /-- a handler runs and has not reached its ERET [1; R175; 0] -/
  inTrap : Bool := false
  /-- IMASK_HI:IMASK_LO [64; R175; 0 (log 21)] -/
  imask : BitVec 64 := 0
  /-- pending interrupt lines [64; R428; 0] -/
  lines : BitVec 64 := 0
  /-- APT_0 to APT_15 [16 x 18; R174; 0] -/
  apt : Map Word := []
deriving DecidableEq, Repr

/-- An unwrap-cache entry with its tags (05_transaction_units.md, "The unwrap cache"). -/
structure UwcEntry where
  /-- entry valid [1; R149; 0] -/
  valid : Bool := false
  /-- partition [11; R145; 0] -/
  part : Nat := 0
  /-- record index [29; R145; 0] -/
  idx : Nat := 0
  /-- check tag [24; R145; 0] -/
  tag : Nat := 0
  /-- half of a 64-byte HMAC key: 0 or 1 [1; R145; 0] -/
  half : Nat := 0
  /-- algorithm code [8; R145; 0] -/
  alg : Byte := 0
  /-- usage characters [2 B; R145; 0] -/
  usage : BitVec 16 := 0
  /-- mode of use [8; R145; 0] -/
  mode : Byte := 0
  /-- not-before [64; R145; 0] -/
  nb : BitVec 64 := 0
  /-- not-after [64; R145; 0] -/
  na : BitVec 64 := 0
  /-- velocity policy, 0xFF none [8; R145; 0] -/
  pol : Byte := 0
  /-- slot reference, which names the use counter [16; R145; 0] -/
  slotRef : Nat := 0
  /-- share A of the key [256; R145; 0] -/
  shareA : BitVec 256 := 0
  /-- share B of the key [256; R145; 0] -/
  shareB : BitVec 256 := 0
  /-- key length in bytes of this entry [6; R145; 0] -/
  klen : Nat := 0
  /-- LRU age: use order, greater is younger [Nat; R149; 0] -/
  age : Nat := 0
deriving DecidableEq, Repr

/-- A barn's own state (R14): mask generator, wait list of BNE claims. -/
structure Barn where
  /-- seed of the mask generator [256; R135; 0 (log 30)] -/
  maskSeed : BitVec 256 := 0
  /-- mask draws since the last reseed [Nat; R135; 0] -/
  maskDraws : Nat := 0
  /-- contexts waiting on BN_CLAIM with the window asked, first come first [11 + 3 each; R195; empty] -/
  claims : List (Nat × Nat) := []
deriving DecidableEq, Repr

/-- A code-RAM window of a stook: STK_BANK_n (R157). -/
structure Window where
  /-- state [2; R157; EMPTY] -/
  state : BitVec 2 := 0
  /-- measurement slot of the resident bank [2; R157; 0] -/
  slot : BitVec 2 := 0
  /-- index of the accepted bank [6; R157; 0] -/
  bank : Nat := 0
  /-- functions served [7; R157; 0] -/
  fnCount : Nat := 0
  /-- security version of the resident bank [32; R157; 0] -/
  secVer : Word := 0
  /-- code RAM of the window, bytes [64 KiB; R155; 0 (log 21)] -/
  code : Bytes := []
deriving DecidableEq, Repr

/-- One function-table entry of a bank (R155). -/
structure BankFn where
  /-- function code [16; R155; -] -/
  fn : BitVec 16
  /-- group size [3; R155; -] -/
  group : Nat
  /-- uses a BNE, uses a bulk engine, posts a tally entry [3; R155; -] -/
  uses : BitVec 3
  /-- entry offset in bytes [16; R155; -] -/
  entry : Nat
  /-- TU watchdog in units of 10 us [16; R155; -] -/
  wdog : Nat
deriving DecidableEq, Repr

/-- A bank as the loader accepted it (R155, R156). -/
structure Bank where
  /-- accepted [1; R156; 0] -/
  ok : Bool := false
  /-- measurement slot [2; R155; 0] -/
  slot : BitVec 2 := 0
  /-- security version [32; R155; 0] -/
  secVer : Word := 0
  /-- digest the signature covers [384; R156; 0] -/
  digest : BitVec 384 := 0
  /-- function table [up to 64 entries; R155; empty] -/
  fns : List BankFn := []
  /-- code [S B; R155; empty] -/
  code : Bytes := []
deriving DecidableEq, Repr

/-! ### Block and bulk engines (07_block_and_bulk_ciphers.md) -/

/-- A block-engine result not yet taken (R180, R184). -/
structure BeRes where
  /-- value with label, role, derived bit [R182; -] -/
  reg : SReg
  /-- ready [1; R184; 0] -/
  ready : Bool
deriving DecidableEq, Repr

/-- One context's side of one block engine: its key slot, its DIN block and its results (R179, R180, R183). -/
structure BeSlot where
  /-- key part 0 with its role [R180; none] -/
  key0 : Option SReg := none
  /-- key part 1 with its role [R180; none] -/
  key1 : Option SReg := none
  /-- block last written to BE_DIN [R181; 0] -/
  din : SReg := {}
  /-- results outstanding, oldest first [up to 8; R181; empty] -/
  results : List BeRes := []
  /-- most recent encrypt result [128; R183; none] -/
  lastEnc : Option (BitVec 128) := none
  /-- role under which it was produced [8; R183; 0] -/
  lastRole : Byte := 0
  /-- BE_STATUS.eq [1; R183; 0] -/
  eq : Bool := false
deriving DecidableEq, Repr

/-- A block engine: retirement and the times of its mismatches (R185). -/
structure Be where
  /-- retired [1; R185; 0] -/
  retired : Bool := false
  /-- Keep-timer times of recent mismatches [R185; empty] -/
  faults : List Nat := []
deriving DecidableEq, Repr

/-- A bulk message, running or suspended (R189, R191). -/
structure BulkMsg where
  /-- release-buffer entry of the request [17; R191; 0] -/
  entry : Nat := 0
  /-- function code [16; R104; 0] -/
  fn : BitVec 16 := 0
  /-- key bytes: data key, then the XTS tweak key [R187; empty] -/
  key : Bytes := []
  /-- IV, nonce or first tweak as used [R103; empty] -/
  iv : Bytes := []
  /-- the IV was drawn by the device [1; R189; 0] -/
  drawn : Bool := false
  /-- header address [64; R103; 0] -/
  aadAddr : BitVec 64 := 0
  /-- header bytes [64; R103; 0] -/
  aadLen : Nat := 0
  /-- source address [64; R103; 0] -/
  src : BitVec 64 := 0
  /-- destination address [64; R103; 0] -/
  dst : BitVec 64 := 0
  /-- payload bytes [64; R103; 0] -/
  len : Nat := 0
  /-- XTS data-unit bytes [32; R103; 0] -/
  unit : Nat := 0
  /-- XTS first unit number [128; R103; 0] -/
  unit0 : BitVec 128 := 0
  /-- tag bytes [5; R103; 0] -/
  tagLen : Nat := 0
  /-- expected tag on decryption [R103; empty] -/
  tag : Bytes := []
  /-- counter block or J0 [128; R191; 0] -/
  ctr : BitVec 128 := 0
  /-- GHASH accumulator or CBC-MAC state [128; R191; 0] -/
  acc : BitVec 128 := 0
  /-- payload bytes processed [64; R191; 0] -/
  pos : Nat := 0
  /-- bytes written to host memory [64; R187; 0] -/
  count : Nat := 0
  /-- the header has been absorbed [1; R189; 0] -/
  aadDone : Bool := false
  /-- message status once it has ended [16; R187; none] -/
  ended : Option (BitVec 16) := none
  /-- required output capacity of a BAD_LENGTH end [32; R189; 0] -/
  need : Nat := 0
deriving DecidableEq, Repr

/-- Owner of a bulk engine: BAE_LOCK.owner (R186). -/
inductive BaeOwner where
  | free
  | request
  | warden
  | retired
deriving DecidableEq, Repr

/-- A bulk AEAD engine (R186 to R193). -/
structure Bae where
  /-- BAE_LOCK.owner [2; R186; free] -/
  owner : BaeOwner := .free
  /-- BAE_LOCK.entry [17; R186; 0] -/
  entry : Nat := 0
  /-- key parts loaded through BG_KEY, in order [up to 4; R187; empty] -/
  keyParts : List SReg := []
  /-- running message [R189; none] -/
  msg : Option BulkMsg := none
  /-- suspended messages with their key parts, most recent first; slot 0 is the last element [2; R191; empty] -/
  susp : List BulkMsg := []
  /-- urgent requests bound under R116 that wait for a suspension, first bound first [17 each; R191; empty] -/
  urgent : List Nat := []
  /-- next half of BG_COUNT is the high word [1; R187; 0] -/
  cntHi : Bool := false
  /-- the known-answer self-test runs [1; R193; 0] -/
  selftest : Bool := false
  /-- Keep-timer times of recent alarms [R193; empty] -/
  alarms : List Nat := []
deriving DecidableEq, Repr

/-! ### Big-number engines (08_bignum_engine.md) -/

/-- A slot of BNE operand memory (R197, R198). -/
structure BnSlot where
  /-- configured [1; R197; 0] -/
  on : Bool := false
  /-- first word [13; R197; 0] -/
  start : Nat := 0
  /-- length in 64-bit words [14; R197; 0] -/
  len : Nat := 0
  /-- label P, C or K [2; R198; P] -/
  label : Label := .p
  /-- storable [1; R198; 0] -/
  storable : Bool := false
  /-- role of a key slot [8; R201; 0] -/
  role : Byte := 0
  /-- algorithm of the key that starts here [8; R201; 0] -/
  alg : Byte := 0
deriving DecidableEq, Repr

/-- What a finished BN_KEY, BN_CMD or BN_STORE will write (R196, R204, R208): words by address, new slot records by
number, the status, and the handle of a BN_STORE. -/
structure BnPend where
  /-- status for BN_WAIT [16; R196; 0] -/
  status : BitVec 16 := 0
  /-- words to write [R204; none] -/
  words : List (Nat × BitVec 64) := []
  /-- slots whose label, storable bit, role or configuration change [R205; none] -/
  slots : List (Nat × BnSlot) := []
  /-- handle of a BN_STORE [64; R202; 0] -/
  handle : BitVec 64 := 0
  /-- the second computation fails [1; R208, R209; 0] -/
  bad : Bool := false
  /-- a command that waits for the barn's DRBG: op value, operands and message [R69, R205; none] -/
  draw : Option (Nat × BneArgs × Bytes) := none
deriving DecidableEq, Repr

/-- A big-number engine (R194 to R212). -/
structure Bne where
  /-- owning lead context [11; R194; none] -/
  owner : Option Nat := none
  /-- slots 0 to 15 [16; R197; unconfigured] -/
  slots : Map BnSlot := []
  /-- operand memory by word [8,192 x 64; R197; 0 (log 21)] -/
  mem : Map (BitVec 64) := []
  /-- workspace, which no port reaches [32 KiB; R197; 0 (log 21)] -/
  work : BitVec 262144 := 0
  /-- next free word for BN_SLOT [14; R197; 0] -/
  used : Nat := 0
  /-- layout closed [1; R197; 0] -/
  closed : Bool := false
  /-- BN_PTR slot [4; R196; 0] -/
  ptrSlot : Nat := 0
  /-- BN_PTR position in 32-bit units [14; R196; 0] -/
  ptrPos : Nat := 0
  /-- running BN_KEY, BN_CMD or BN_STORE with what it will write [R196; none] -/
  run : Option BnPend := none
  /-- status of the last one [16; R196; 0] -/
  last : BitVec 16 := 0
  /-- BN_HANDLE value [64; R196; 0] -/
  handle : BitVec 64 := 0
  /-- BN_HANDLE returns the high word next [1; R196; 0] -/
  handleHi : Bool := false
  /-- wipe at the end of a job in progress [1; R210; 0] -/
  wiping : Bool := false
  /-- clearing of a job cut short in progress [1; R210; 0] -/
  clearing : Bool := false
  /-- a fault arrived: the self-test follows [1; R211; 0] -/
  needTest : Bool := false
  /-- self-test running [1; R209; 0] -/
  selftest : Bool := false
  /-- BNE_STATE.retired [1; R209; 0] -/
  retired : Bool := false
  /-- Keep-timer times of recent faults [R209; empty] -/
  faults : List Nat := []
deriving DecidableEq, Repr

/-! ### Granary (09_granary.md) -/

/-- One copy of a slot (R219). -/
structure SlotCopy where
  /-- state: 0 empty, 1 current, 2 forward [8; R219; 0] -/
  state : Nat := 0
  /-- sel [8; R219; 0] -/
  sel : Byte := 0
  /-- epoch [32; R219; 0] -/
  epoch : Word := 0
  /-- measurement check [64; R219; 0] -/
  mcheck : BitVec 64 := 0
  /-- copy MAC [64; R219; 0] -/
  mac : BitVec 64 := 0
  /-- share A: C XOR Mk [640; R219; 0] -/
  shareA : BitVec 640 := 0
  /-- share B: Mk [640; R219; 0] -/
  shareB : BitVec 640 := 0
deriving DecidableEq, Repr

/-- An MRAM slot (R219) with what its evaluation at boot found (R228). -/
structure Slot where
  /-- format [16; R219; 0] -/
  format : BitVec 16 := 0
  /-- owner [8; R219; 0] -/
  owner : Byte := 0
  /-- partition [16; R219; 0] -/
  part : Nat := 0
  /-- protection [8; R219; 0] -/
  prot : Byte := 0
  /-- algorithm [8; R219; 0] -/
  alg : Byte := 0
  /-- usage [16; R219; 0] -/
  usage : BitVec 16 := 0
  /-- mode of use [8; R219; 0] -/
  mode : Byte := 0
  /-- exportability [8; R219; 0] -/
  exp : Byte := 0
  /-- velocity policy [8; R219; 0] -/
  pol : Byte := 0
  /-- key length in bytes [8; R219; 0] -/
  klen : Nat := 0
  /-- period in minutes [16; R219; 0] -/
  period : Nat := 0
  /-- use limit [32; R219; 0] -/
  limit : Nat := 0
  /-- counter index, 0xFFFF none [16; R219; 0] -/
  ctr : Nat := 0
  /-- not-before [64; R219; 0] -/
  nb : BitVec 64 := 0
  /-- not-after [64; R219; 0] -/
  na : BitVec 64 := 0
  /-- published [1; R219; 0] -/
  pub : Bool := false
  /-- published record index [29; R219; 0] -/
  pubIdx : Nat := 0
  /-- published check tag [24; R219; 0] -/
  pubTag : Nat := 0
  /-- epoch high-water [32; R219; 0] -/
  high : Word := 0
  /-- header MAC [64; R219; 0] -/
  hmac : BitVec 64 := 0
  /-- copy 0 [R219; empty] -/
  copy0 : SlotCopy := {}
  /-- copy 1 [R219; empty] -/
  copy1 : SlotCopy := {}
  /-- damaged [1; R222; 0] -/
  damaged : Bool := false
  /-- copy that serves the slot: 0 none (sealed away), 1 copy 0, 2 copy 1 [2; R228; 0] -/
  serve : Nat := 0
deriving DecidableEq, Repr

/-- A use counter (R225). -/
structure UseCtr where
  /-- allocated [1; R225; 0] -/
  on : Bool := false
  /-- live count, Keep SRAM [32; R225; 0] -/
  live : Nat := 0
  /-- reservation marks, 64 words in MRAM [64 x 32; R225; 0] -/
  marks : Map Word := []
  /-- next word in the rotation [6; R225; 0] -/
  next : Nat := 0
  /-- limit [32; R222; 0] -/
  limit : Nat := 0
deriving DecidableEq, Repr

/-- A token bucket of the policy unit (R235, R236). -/
structure Bucket where
  /-- in use [1; R235; 0] -/
  on : Bool := false
  /-- partition [11; R235; 0] -/
  part : Nat := 0
  /-- policy index [4; R236; 0] -/
  pol : Nat := 0
  /-- fingerprint [64; R235; 0] -/
  fp : BitVec 64 := 0
  /-- tokens, Q16.16 [32; R75; 0] -/
  tokens : Nat := 0
  /-- last refill time, ns [64; R75; 0] -/
  last : Nat := 0
  /-- `last` awaits the first valid network time of this boot [1; R236; 0] -/
  lastOpen : Bool := false
deriving DecidableEq, Repr

/-- The granary (R213 to R239). -/
structure Granary where
  /-- root XOR M, BBRAM [512; R213; 0, BBRAM empty (R7)] -/
  rootV : BitVec 512 := 0
  /-- M, BBRAM [512; R213; 0, BBRAM empty (R7)] -/
  rootM : BitVec 512 := 0
  /-- GRN_ROOT_STATUS.present [1; R239; 0 (R7)] -/
  present : Bool := false
  /-- GRN_ROOT_STATUS.zeroed [1; R239; 0 (log 22)] -/
  zeroed : Bool := false
  /-- MEAS_0 to MEAS_7 [8 x 384; R216; 0] -/
  meas : Map (BitVec 384) := []
  /-- measurements frozen by BOOT_RELEASE [1; R216; 0] -/
  frozen : Bool := false
  /-- per-boot record key [128; R234; none] -/
  recKey : Option (BitVec 128) := none
  /-- slots 0 to 4,095 [4,096 x 512 B; R219; empty (log 22)] -/
  slots : Map Slot := []
  /-- use counters [512; R225; free (log 22)] -/
  ctrs : Map UseCtr := []
  /-- buckets [16,384; R235; free] -/
  buckets : Map Bucket := []
  /-- snapshot area in MRAM last written [16,384 x 32 B; R236; empty (log 22)] -/
  snap : Map Bucket := []
  /-- the other snapshot area [16,384 x 32 B; R271; empty (log 22)] -/
  snapOld : Map Bucket := []
  /-- GRN_SNAP.orderly [1; R239; 0 (log 22)] -/
  orderly : Bool := false
  /-- GRN_RESEAL.changed [8; R239; 0 (log 22)] -/
  changed : Byte := 0
  /-- GRN_RESEAL.pending [1; R239; 0 (log 22)] -/
  resealPending : Bool := false
  /-- declared measurement values of the pending manifest [8 x 384; R227; 0] -/
  declared : Map (BitVec 384) := []
  /-- per-boot key of the unwrap-cache set hash [128; R145; 0] -/
  uwcKey : BitVec 128 := 0
deriving DecidableEq, Repr

/-! ### Winnower (10_winnower_rng.md) -/

/-- State of the chain: WIN_STATUS.state (R252). -/
inductive ChainState where
  | starting
  | run
  | stopped
  | testmode
deriving DecidableEq, Repr

/-- A noise source (R246, R252). -/
structure Source where
  /-- 0 starting, 1 healthy, 2 excluded, 3 dead [2; R252; 0] -/
  state : Nat := 0
  /-- readmissions in this boot [2; R252; 0] -/
  readmits : Nat := 0
  /-- failures in this boot [3; R246; 0] -/
  fails : Nat := 0
  /-- rct_fail [10; R252; 0] -/
  rct : Nat := 0
  /-- apt_fail [10; R252; 0] -/
  apt : Nat := 0
  /-- sat [1; R252; 0] -/
  sat : Bool := false
  /-- last raw bit [1; R244; 0] -/
  last : Bool := false
  /-- identical consecutive samples up to now, at most 41; 0 before the first [6; R244; 0] -/
  run : Nat := 0
  /-- first sample of the window, the reference [1; R244; 0] -/
  ref : Bool := false
  /-- samples of the window taken [11; R244; 0] -/
  seen : Nat := 0
  /-- samples of the window equal to the reference [11; R244; 0] -/
  same : Nat := 0
deriving DecidableEq, Repr

/-- A CTR_DRBG instance (R243). -/
structure Drbg where
  /-- working key [256; R243; 0] -/
  key : BitVec 256 := 0
  /-- working V [128; R243; 0] -/
  v : BitVec 128 := 0
  /-- generate calls since reseed [Nat; R243; 0] -/
  ctr : Nat := 0
  /-- serving [1; R252; 0] -/
  serving : Bool := false
  /-- overdue [1; R252; 0] -/
  overdue : Bool := false
deriving DecidableEq, Repr

/-- The winnower (R240 to R252). -/
structure Winnower where
  /-- chain state [2; R252; STARTING] -/
  state : ChainState := .starting
  /-- sources 0 to 7 [8; R252; starting] -/
  src : Map Source := []
  /-- compressor [64; R241; 0] -/
  lfsr : BitVec 64 := 0
  /-- input bits since the last output bit [3; R241; 0] -/
  phase : Nat := 0
  /-- the word that output bits fill, the first in bit 0 [64; R241; 0] -/
  word : BitVec 64 := 0
  /-- output bits in that word [6; R241; 0] -/
  wordLen : Nat := 0
  /-- complete words of the block that forms [8 x 64; R242; empty] -/
  words : List (BitVec 64) := []
  /-- a block equalled the block before it [1; R242; 0] -/
  repeats : Bool := false
  /-- last conditioner block, for the repeat comparison [128; R242; none] -/
  lastBlock : Option (BitVec 128) := none
  /-- undelivered conditioner blocks [R248; empty] -/
  blocks : List (BitVec 128) := []
  /-- DRBGs 0 to 8 [9; R243; not instantiated] -/
  drbg : Map Drbg := []
  /-- DRBGs still to be instantiated, in order [9; R245; empty] -/
  seeding : List Nat := []
  /-- the start-up under way follows test mode, not a boot or a zeroization [1; R245, R250; 0] -/
  retest : Bool := false
  /-- a self-check failed: STOPPED until reset [1; R247; 0] -/
  selfFail : Bool := false
  /-- stopped_once [1; R252; 0] -/
  stoppedOnce : Bool := false
  /-- WIN_CTRL.ratio [4; R252; 4] -/
  ratio : Nat := 4
  /-- ratio in use until the next block [4; R241; 4] -/
  ratioNow : Nat := 4
  /-- WIN_RAND bytes [16 B; R252; 0] -/
  rand : Bytes := []
  /-- rand_ready [1; R252; 0] -/
  randReady : Bool := false
  /-- WIN_TEST.enable [1; R252; 0] -/
  testEn : Bool := false
  /-- WIN_TEST.source [3; R252; 0] -/
  testSrc : Nat := 0
  /-- WIN_TEST.tap [1; R252; 0] -/
  testTap : Bool := false
  /-- capture FIFO, earliest first [16,384 x 32; R252; empty] -/
  fifo : List Word := []
  /-- WIN_RAW_LVL.overflow [1; R252; 0] -/
  overflow : Bool := false
  /-- the word that captured bits fill, the earliest in bit 0 [32; R252; 0] -/
  cap : Word := 0
  /-- captured bits in that word [5; R252; 0] -/
  capLen : Nat := 0
deriving DecidableEq, Repr

/-! ### HBM (11_memory.md) -/

/-- A merge-buffer entry: line, bytes and which bytes are written (R266). -/
structure MergeEntry where
  /-- line number [28; R266; -] -/
  line : Nat
  /-- bytes by position [64 B; R266; -] -/
  bytes : Map Byte
  /-- mask of the bytes written [64; R266; -] -/
  mask : BitVec 64
deriving DecidableEq, Repr

/-- The per-boot HBM keys (R257, R258). -/
structure HbmKeys where
  /-- key of the line encryption [512; R257; -] -/
  data : BitVec 512
  /-- hash key of the tags [64; R258; -] -/
  hash : BitVec 64
  /-- pad of the tags [128, a width of the model's own (log 107); R258; -] -/
  pad : BitVec 128
deriving DecidableEq, Repr

/-- One HBM3 controller with its stack (R253 to R274). -/
structure Hbm where
  /-- HBM_TRAIN.done [1; R274; 0] -/
  trained : Bool := false
  /-- HBM_TRAIN.in_service [1; R274; 0] -/
  inService : Bool := false
  /-- HBM_TRAIN.lanes_repaired [8; R274; 0] -/
  lanes : Nat := 0
  /-- HBM_PC_TRAIN [32; R274; 0] -/
  pcTrain : Word := 0
  /-- HBM_DIE_STATE [16; R274; 0] -/
  failed : BitVec 16 := 0
  /-- line contents by line number, in clear [14 GiB in 64-byte lines; R255; 0 while the page is not valid] -/
  lines : Map (BitVec 512) := []
  /-- valid bit per 4 KiB page [4 Mi x 1; R264; 0] -/
  valid : Map Bool := []
  /-- pages in fill, oldest first [64; R265; empty] -/
  fills : List Nat := []
  /-- how the cells of a symbol differ from what was written, by 16 x line + symbol [72; R259; 0] -/
  upset : Map (BitVec 72) := []
  /-- how the stored tag of a line differs from its own, by line [64; R258; 0] -/
  tagDiff : Map (BitVec 64) := []
  /-- keys loaded into the controller [R257, R258; none] -/
  keys : Option HbmKeys := none
  /-- rows in use in place of a retired one: spare row by row key [R268; none] -/
  remap : Map Nat := []
  /-- poison map by line [R261; 0] -/
  poison : Map Bool := []
  /-- merge buffer, oldest first [32 entries; R266; empty] -/
  merge : List MergeEntry := []
  /-- times of located corrections by DRAM die [R262; empty] -/
  ceTimes : Map (List Nat) := []
  /-- corrections by row key in the current pass and in an earlier pass [R268; 0] -/
  rowNow : Map Nat := []
  /-- corrections by row key since the boot [R268, R275; 0] -/
  rowAll : Map Nat := []
  /-- rows with a correction in an earlier pass [R268; 0] -/
  rowOld : Map Bool := []
  /-- row being retired: die, half, bank, row [R268; none] -/
  retiring : Option (Nat × Nat × Nat × Nat) := none
  /-- GLN_POS.line [28; R274; 0] -/
  pos : Nat := 0
  /-- reads held at an uncorrectable line: the line and who reads it [R261; empty] -/
  held : List (Nat × UeReader) := []
  /-- self-refresh [1; R272; 0] -/
  selfRefresh : Bool := false
deriving DecidableEq, Repr

/-- A row-history entry: GLN_ROWHIST_k (R275). -/
structure RowHist where
  /-- valid [1; R275; 0 (log 22)] -/
  valid : Bool := false
  /-- stack [1; R275; 0 (log 22)] -/
  stack : Nat := 0
  /-- die [4; R275; 0 (log 22)] -/
  die : Nat := 0
  /-- half [1; R275; 0 (log 22)] -/
  half : Nat := 0
  /-- bank [4; R275; 0 (log 22)] -/
  bank : Nat := 0
  /-- row [15; R275; 0 (log 22)] -/
  row : Nat := 0
  /-- spare [16; R275; 0 (log 22)] -/
  spare : Nat := 0
  /-- corrections [16; R275; 0 (log 22)] -/
  corr : Nat := 0
  /-- boot counter [32; R275; 0 (log 22)] -/
  boot : Word := 0
deriving DecidableEq, Repr

/-! ### Partitions (12_partitions_hampers.md) -/

/-- Partition states: VF_PART.state (R31, R276). -/
inductive PartState where
  | empty
  | active
  | quiescing
  | frozen
  | resetting
deriving DecidableEq, Repr

/-- A partition (R276 to R289, R51, R58, R117, R150, R230). -/
structure Part where
  /-- state [3; R276; EMPTY] -/
  state : PartState := .empty
  /-- generation [16; R51; 0] -/
  gen : BitVec 16 := 0
  /-- emigrated, MRAM [1; R289; 0 (log 22)] -/
  emigrated : Bool := false
  /-- configured, MRAM [1; R289; 0 (log 22)] -/
  configured : Bool := false
  /-- in-flight quota [17; R31; 0] -/
  quota : Nat := 0
  /-- PART_FLOW_p.flow_limit [16; R117; 0] -/
  flowLimit : Nat := 0
  /-- first flow-table entry of the run [18; R118; 0] -/
  flowBase : Nat := 0
  /-- PART_GRN_p.slot_quota [12; R239; 0] -/
  slotQuota : Nat := 0
  /-- PART_KREC_p.n0 [27; R239; 0] -/
  n0 : Nat := 0
  /-- PART_KREC_p.n1 [27; R239; 0] -/
  n1 : Nat := 0
  /-- first record of the H0 extent [27; R230; 0] -/
  base0 : Nat := 0
  /-- first record of the H1 extent [27; R230; 0] -/
  base1 : Nat := 0
  /-- PART_GRN_p.bucket_quota [15; R239; 0] -/
  bucketQuota : Nat := 0
  /-- PART_DPID_p, MRAM [64; R289; 0 (log 22)] -/
  dpid : BitVec 64 := 0
  /-- PART_HSEQ_p.next, MRAM [32; R289; 1] -/
  hseq : Nat := 1
  /-- PART_FN_SPLIT_p[7:0] [8; R58; 0] -/
  fnSplit : Byte := 0
  /-- PART_SCH_p.weight [8; R117; 16] -/
  weight : Nat := 16
  /-- PART_SCH_p.urgent_max [8; R117; 16] -/
  urgentMax : Nat := 16
  /-- PART_UWC_p.quota [5; R150; 4] -/
  uwcQuota : Nat := 4
  /-- the partition was ACTIVE when the running reset began [1; R276; 0] -/
  wasActive : Bool := false
  /-- generation increments asked for and not yet taken [Nat; R53; 0] -/
  incPending : Nat := 0
  /-- a release waits for the increment [1; R280; 0] -/
  releasing : Bool := false
  /-- PF entry of the PARTITION_RESET that waits for the increment [17; R280; none] -/
  resetEntry : Option Nat := none
deriving DecidableEq, Repr
/-! ### Wardens and the yoke (13_wardens_yoke.md) -/

/-- State of a warden: YOKE_STATE.a_state, b_state (R301). -/
inductive WState where
  | off
  | active
  | standby
  | resyncing
  | retired
  | faulty
  | feedLost
deriving DecidableEq, Repr

/-- An item a warden issued and the yoke holds for comparison (R291). -/
structure YokeItem where
  /-- address: system address, or 2^40 + port number for a port output [41; R291; -] -/
  addr : Nat
  /-- data [32; R291; -] -/
  data : Word
  /-- byte enables [4; R291; -] -/
  be : BitVec 4
deriving DecidableEq, Repr

/-- The yoke (R290 to R301). -/
structure Yoke where
  /-- YOKE_STATE.baton: false warden A, true warden B [2; R301; A] -/
  batonB : Bool := false
  /-- YOKE_STATE.a_state [3; R301; active] -/
  aState : WState := .active
  /-- YOKE_STATE.b_state [3; R301; standby] -/
  bState : WState := .standby
  /-- YOKE_STATE.solo [1; R301; 0] -/
  solo : Bool := false
  /-- YOKE_STATE.halt [1; R301; 0] -/
  halt : Bool := false
  /-- items of warden A held for comparison, oldest first [R291; empty] -/
  heldA : List YokeItem := []
  /-- items of warden B held for comparison, oldest first [R291; empty] -/
  heldB : List YokeItem := []
  /-- read responses that one warden has had and the other has not yet taken, oldest first [model; R290; empty] -/
  reads : List YokeItem := []
  /-- the warden that has not yet taken them: false A, true B [model; R290; A] -/
  readsB : Bool := false
  /-- self-flag of A raised within the judging window [1; R293; 0] -/
  flagA : Bool := false
  /-- self-flag of B raised within the judging window [1; R293; 0] -/
  flagB : Bool := false
  /-- a mismatch waits for its judgement [1; R293; 0] -/
  mismatch : Bool := false
  /-- a switch-over gap is in progress [1; R296; 0] -/
  gap : Bool := false
  /-- Keep-timer times of divergences of A [R295; empty] -/
  divA : List Nat := []
  /-- Keep-timer times of divergences of B [R295; empty] -/
  divB : List Nat := []
  /-- feed of A good [1; R296; 1 (log 23)] -/
  feedA : Bool := true
  /-- feed of B good [1; R296; 1 (log 23)] -/
  feedB : Bool := true
  /-- YOKE_GAP.last_ns [16; R301; 0] -/
  lastGap : Nat := 0
  /-- YOKE_GAP.max_ns [16; R301; 0] -/
  maxGap : Nat := 0
deriving DecidableEq, Repr

/-- An officer: algorithm and key digest (R302). -/
structure Officer where
  /-- enrolled [1; R302; 0] -/
  on : Bool := false
  /-- algorithm: 0x11 ECDSA P-384, 0x30 ML-DSA-65 [8; R302; 0] -/
  alg : Byte := 0
  /-- SHA-384 over the algorithm byte and the public key encoding [384; R302; 0] -/
  digest : BitVec 384 := 0
deriving DecidableEq, Repr

/-- An entry of the nonce table (R308). -/
structure Nonce where
  /-- outstanding [1; R308; 0] -/
  on : Bool := false
  /-- the nonce [64; R308; 0] -/
  val : BitVec 64 := 0
  /-- issue order [Nat; R308; 0] -/
  seq : Nat := 0
deriving DecidableEq, Repr

/-- Officers, policies and the officer mailbox (R302 to R309). -/
structure Officers where
  /-- partition officers by 8 x partition + index, MRAM [2,048 x 8; R302; none (log 22)] -/
  part : Map Officer := []
  /-- device policies m minus 2 by class D0 to D6, MRAM [7 x 4; R303; m = 2] -/
  devM : Map Nat := []
  /-- partition policies m minus 2 by 4 x partition + class, MRAM [2,048 x 4 x 4; R303; m = 2] -/
  partM : Map Nat := []
  /-- nonce table [64 x 64; R308; empty] -/
  nonces : Map Nonce := []
  /-- issues so far, the order of the table [Nat; R308; 0] -/
  issued : Nat := 0
  /-- nonce issues that wait for random output: bit 0 the mailbox, bit 1 the debug port [2; R308; 0] -/
  waiting : Nat := 0
  /-- OFC_NONCE_STAT.ready [1; R309; 0] -/
  ready : Bool := false
  /-- OFC_NONCE_STAT.err [1; R309; 0] -/
  err : Bool := false
  /-- OFC_NONCE_STAT.entry [6; R309; 0] -/
  entry : Nat := 0
  /-- OFC_NONCE [64; R309; 0] -/
  nonce : BitVec 64 := 0
  /-- QUORUM_NEXT.k [4; R309; 0] -/
  next : Nat := 0
  /-- QUORUM_PAGE_k by k [16 x 64 B; R309; 0] -/
  pages : Map Bytes := []
deriving DecidableEq, Repr

/-! ### Scarecrow (14_scarecrow_tamper.md) -/

/-- A filtered channel: SCR_THR_c and SCR_VAL_c (R312, R317). -/
structure Chan where
  /-- a sample has started the filter since the battery domain was powered [1; R312; 0] -/
  on : Bool := false
  /-- filter state y [16; R312; - (log 24)] -/
  y : Int := 0
  /-- consecutive samples outside the limits [4; R312; - (log 24)] -/
  count : Nat := 0
  /-- effective low limit, raw units [16; R317; factory (log 24)] -/
  low : Int := 0
  /-- effective high limit, raw units [16; R317; factory (log 24)] -/
  high : Int := 0
  /-- effective n [4; R317; factory (log 24)] -/
  n : Nat := 0
deriving DecidableEq, Repr

/-- The scarecrow and its battery domain (R310 to R325). -/
structure Scarecrow where
  /-- the battery domain is powered [1; R312; 0 (R7, R8)] -/
  battery : Bool := false
  /-- SCR_STATE.hold [1; R325; 0] -/
  hold : Bool := false
  /-- channels whose trip condition is present [64; R315; 0] -/
  present : BitVec 64 := 0
  /-- the 1 s HOLD timer runs [1; R315; 0] -/
  holdTimer : Bool := false
  /-- filtered channels 0x00 to 0x09 [10; R325; not yet sampled] -/
  chan : Map Chan := []
  /-- SCR_TAMPER.first_cause [8; R325; 0 (log 24)] -/
  firstCause : Nat := 0
  /-- SCR_TAMPER.count [16; R325; 0 (log 24)] -/
  count : Nat := 0
  /-- SCR_TAMPER.pending [1; R325; 0 (log 24)] -/
  pending : Bool := false
  /-- SCR_TAMPER.tamper_n [1; R325; 0 (log 24)] -/
  tamperN : Bool := false
  /-- SCR_TAMPER_TIME [40; R325; 0 (log 24)] -/
  tamperTime : Nat := 0
  /-- SCR_CAUSES [64; R325; 0 (log 24)] -/
  causes : BitVec 64 := 0
  /-- SCR_WARN.vbat_low [1; R325; 0] -/
  vbatLow : Bool := false
  /-- SCR_WARN.xtal_lost [1; R325; 0] -/
  xtalLost : Bool := false
  /-- stored user configuration, MRAM [192 B; R318; none (log 22)] -/
  cfg : Option Bytes := none
  /-- SCR_CFG_STATUS.reason [8; R325; 0] -/
  cfgReason : Nat := 0
  /-- SCR_CFG_STATUS.applied [1; R325; 0] -/
  cfgApplied : Bool := false
  /-- SCR_STATE.mesh_en [4; R325; 0 (log 24)] -/
  meshEn : BitVec 4 := 0
  /-- SCR_STATE.wake_ms [8; R325; 32 (R321)] -/
  wakeMs : Nat := 32
  /-- thermal throttle point, C [8; R318; 95 (R407)] -/
  throttle : Nat := 95
  /-- RTC drift trim, 0.5 ppm [16; R318; 0 (log 24)] -/
  rtcTrim : Int := 0
  /-- sensor history by record index [4,096 x 128; R322; empty] -/
  hist : Map (BitVec 128) := []
  /-- SCR_HIST_PTR.read [12; R325; 0] -/
  histRead : Nat := 0
  /-- SCR_HIST_PTR.next [12; R325; 0 (log 24)] -/
  histNext : Nat := 0
  /-- SCR_HIST_PTR.wrapped [1; R325; 0 (log 24)] -/
  histWrap : Bool := false
deriving DecidableEq, Repr

/-- The scarecrow's bookkeeping for the history and the sampling (R312, R322). -/
structure ScarecrowAux where
  /-- battery-RTC time of the last record, ms [40; R322; 0 (log 24)] -/
  lastMs : Nat := 0
  /-- battery-RTC time of the last SAMPLE record, ms [40; R322; none] -/
  lastSampleMs : Option Nat := none
  /-- quantized values of the last SAMPLE record, bits 127 to 26 [102; R322; 0] -/
  lastQuant : BitVec 102 := 0
  /-- battery-RTC second of the last sample considered in RUN [R322; none] -/
  lastSec : Option Nat := none
  /-- the scarecrow image has started: the boot ROM can no longer write its space [1; R344; 0] -/
  started : Bool := false
  /-- boundary scan holds the dies in reset [1; R349; 0] -/
  scanHold : Bool := false
  /-- VIO is present [1; R435; 1 (log 23)] -/
  vio : Bool := true
  /-- the last VBAT sample lay below V_warn [1; R321; 0 (log 24)] -/
  vbatBelow : Bool := false
  /-- the 32.768 kHz crystal has stopped [1; R310; 0 (log 24)] -/
  xtalStopped : Bool := false
deriving DecidableEq, Repr

/-! ### Life cycle and OTP (15_life_cycle.md) -/

/-- The OTP fuses (R326, R327, R335, 17_boot_attestation.md). -/
structure Otp where
  /-- life-cycle thermometer field [8; R326; 0x03 MINTED (R7)] -/
  state : Byte := 0x03
  /-- unit secret, all ones after SCRAP [256; R335; Config.unitSecret] -/
  secretBlown : Bool := false
  /-- OEM root digests 0 to 3 [4 x 384; R335; none (R7)] -/
  rootDigest : Map (BitVec 384) := []
  /-- OEM root public keys 0 to 3, held beside their digests (log 31) [4 x 97 B; R330; none] -/
  rootKey : Map Bytes := []
  /-- roots enrolled [4; R339; 0 (R7)] -/
  enrolled : BitVec 4 := 0
  /-- roots revoked [4; R339; 0 (R7)] -/
  revoked : BitVec 4 := 0
  /-- scarecrow revision counter [32; R323; 0 (log 22)] -/
  revScr : Nat := 0
  /-- warden firmware revision counter [32; R330; 0 (log 22)] -/
  revFw : Nat := 0
  /-- microprogram revision counter [32; R156; 0 (log 22)] -/
  revMicro : Nat := 0
deriving DecidableEq, Repr

/-- The MRAM progress area (R333). -/
structure Progress where
  /-- LC_PROGRESS.transition, 0 none [8; R339; 0] -/
  code : Nat := 0
  /-- LC_PROGRESS.step [8; R339; 0] -/
  step : Nat := 0
  /-- rows of the step done, a multiple of 1,024 [R333; 0] -/
  row : Nat := 0
  /-- request digest [384; R333; 0] -/
  digest : BitVec 384 := 0
  /-- request body [B B; R333; empty] -/
  body : Bytes := []
deriving DecidableEq, Repr

/-- Life cycle (R326 to R339). -/
structure LifeCycle where
  /-- OTP [64 Kibit; R326; see its fields] -/
  otp : Otp := {}
  /-- progress record, MRAM [R333; none] -/
  progress : Progress := {}
  /-- LC_PROGRESS.resumed [1; R339; 0] -/
  resumed : Bool := false
  /-- a transition runs: no further PF descriptor is fetched [1; R332; 0] -/
  running : Bool := false
  /-- the self-reset of R332 is due [1; R332; 0] -/
  selfReset : Bool := false
  /-- wrapped device identity key, MRAM identity region [R335; Config.factoryIdentity (R7)] -/
  identity : Option Bytes := none
  /-- identity public key [97 B; R332; Config.factoryIdentityPub (R7)] -/
  identityPub : Bytes := []
  /-- identity certificate, MRAM [up to 2,048 B; R335; Config.factoryIdentityCert (R7)] -/
  cert : Option Bytes := none
deriving DecidableEq, Repr

/-! ### Gates and the debug port (16_gates_debug.md) -/

/-- A range slot: GATE_RNG_n (R353). -/
structure RangeSlot where
  /-- enable [1; R353; 0] -/
  en : Bool := false
  /-- base page [28; R353; 0] -/
  base : Nat := 0
  /-- last page [28; R353; 0] -/
  last : Nat := 0
  /-- perm [18; R353; 0] -/
  perm : BitVec 18 := 0
deriving DecidableEq, Repr

/-- One gate (R341, R353). -/
structure Gate where
  /-- GATE_CLS_c by class code: read, write, valid [16 x 3; R353; 0] -/
  cls : Map (BitVec 3) := []
  /-- GATE_RNG_n [16; R353; 0] -/
  rng : Map RangeSlot := []
  /-- GATE_STATUS.closed [1; R353; 0] -/
  closed : Bool := false
  /-- GATE_STATUS.slot [4; R353; 0] -/
  faultSlot : Nat := 0
  /-- GATE_DENY.debug_denials [16; R353; 0] -/
  debugDenials : Nat := 0
  /-- GATE_DENY.other_denials [15; R353; 0] -/
  otherDenials : Nat := 0
  /-- GATE_DENY.sat [1; R353; 0] -/
  sat : Bool := false
  /-- GATE_LAST.addr [40; R353; 0] -/
  lastAddr : Nat := 0
  /-- GATE_LAST.class [4; R353; 0] -/
  lastCls : Nat := 0
  /-- GATE_LAST.write [1; R353; 0] -/
  lastWrite : Bool := false
  /-- GATE_LAST.valid [1; R353; 0] -/
  lastValid : Bool := false
  /-- page LOCK[0] [1; R345; 0] -/
  lock : Bool := false
deriving DecidableEq, Repr

/-- The TAP and the debug port (R349 to R351, R443). -/
structure Tap where
  /-- instruction register [8; R349; IDCODE 0x02 (log 25)] -/
  ir : Byte := 0x02
  /-- data register captured by the last instruction [64; R349; 0 (log 25)] -/
  dr : BitVec 64 := 0
  /-- DBG_STAT.level [2; R350; 0] -/
  level : Nat := 0
  /-- DBG_STAT[2], last access denied or token failed [1; R350; 0] -/
  denied : Bool := false
  /-- DBG_DATA [32; R351; 0 (log 25)] -/
  data : Word := 0
deriving DecidableEq, Repr
/-! ### Boot and attestation (17_boot_attestation.md) -/

/-- Phase of the boot: byte 1 of the status block (R373); `off` before the Keep rails rise or while held. -/
inductive BootPhase where
  | off
  | romChecks
  | resumption
  | scarecrow
  | wardenLoad
  | firmware
  | released
  | stall
  | hold
  | halt
deriving DecidableEq, Repr

/-- One boot bank of the flash: its bytes as components and its marks (R358, R360). -/
structure BootBank where
  /-- set header well formed [1; R358; 0 (R7)] -/
  valid : Bool := false
  /-- set sequence [32; R375; 0] -/
  seq : Word := 0
  /-- attempts without release, MRAM [2; R375; 0 (log 22)] -/
  attempts : Nat := 0
  /-- the set has reached release [1; R375; 0 (log 22)] -/
  good : Bool := false
  /-- component types in table order [3 + NB; R358; empty] -/
  types : List Nat := []
  /-- component images in table order [3 + NB; R358; empty] -/
  images : List Bytes := []
deriving DecidableEq, Repr

/-- How the xSPI port addresses the flash (R441): not brought up yet, 1S-1S-1S, or 8D-8D-8D. -/
inductive XspiMode where
  | down
  | single
  | octal
deriving DecidableEq, Repr

/-- The xSPI port, a JESD251 controller (R441). -/
structure Xspi where
  /-- mode of the port and the flash [2; R441; down (log 114)] -/
  mode : XspiMode := .down
  /-- clock, MHz, at its upper bound [8; R441; 0 (log 114)] -/
  clock : Nat := 0
  /-- XSPI_DS is the read strobe [1; R441; 0 (log 114)] -/
  strobe : Bool := false
  /-- address bytes of a read [3; R441; 0 (log 114)] -/
  addrBytes : Nat := 0
  /-- length of the last low pulse of XSPI_RESET_N, us [4; R441; 0 (log 114)] -/
  resetPulse : Nat := 0
  /-- the SFDP tables, read in this boot, report 8D-8D-8D mode [1; R441; none (log 114)] -/
  sfdp : Option Bool := none
deriving DecidableEq, Repr

/-- Boot state (R354 to R375). -/
structure Boot where
  /-- phase [8; R373; 0x01] -/
  phase : BootPhase := .off
  /-- stall reason [8; R375; 0] -/
  stall : Nat := 0
  /-- detail of a stall [8; R373; 0] -/
  detail : Nat := 0
  /-- HALT reason [8; R373; 0] -/
  haltReason : Nat := 0
  /-- FAULT_N asserted [1; R356; 0] -/
  faultN : Bool := false
  /-- BOOT_STATUS.bank_b [1; R375; 0] -/
  bankB : Bool := false
  /-- BOOT_STATUS.fallback [1; R375; 0] -/
  fallback : Bool := false
  /-- BOOT_STATUS.solo [1; R375; 0] -/
  solo : Bool := false
  /-- ROM service serves the PF [1; R328; 0] -/
  romService : Bool := false
  /-- PF and VFs enabled [1; R362; 0] -/
  pfEnabled : Bool := false
  /-- boot counter, MRAM [32; R367; 0 (log 22)] -/
  count : Nat := 0
  /-- bank A and bank B [2 x 16 MiB; R358; A a set with Config.factoryScarecrow and no firmware, B empty (R7, log 22)] -/
  bankA : BootBank := {}
  bankBSet : BootBank := {}
  /-- signed digest of the running scarecrow image [384; R366; 0] -/
  scrDigest : BitVec 384 := 0
  /-- signed digest of the running warden firmware [384; R366; 0] -/
  fwDigest : BitVec 384 := 0
  /-- security versions of the running scarecrow image and warden firmware [2 x 32; R366; 0] -/
  scrVer : Nat := 0
  fwVer : Nat := 0
  /-- a tamper was latched at this boot [1; R366; 0] -/
  tamperLatched : Bool := false
  /-- PERST_N asserted [1; R436; 1 (log 23)] -/
  perst : Bool := true
  /-- boot records by slot c mod 256, MRAM [256 x 4 KiB; R368; empty (log 22)] -/
  records : Map Bytes := []
  /-- counter of the record in each slot plus 1, 0 none [256 x 33; R368; 0 (log 22)] -/
  recCount : Map Nat := []
  /-- alias private key [384; R364; none] -/
  aliasKey : Option Nat := none
  /-- alias certificate [R365; none] -/
  aliasCert : Option Bytes := none
  /-- Keep timer when the boot began [Nat; R373; 0] -/
  beganAt : Nat := 0
  /-- xSPI port [-; R441; not brought up] -/
  xspi : Xspi := {}
deriving DecidableEq, Repr

/-- An SPDM session (R371). -/
structure SpdmSession where
  /-- session identifier: requester's half, responder's half [32; R371; -] -/
  id : BitVec 32
  /-- FINISH has been accepted [1; R371; 0] -/
  established : Bool := false
  /-- handshake messages so far, the connection's and the chain's digest first [R371; -] -/
  transcript : Bytes
  /-- finished key of the requester [384; R371; -] -/
  reqFinished : Bytes
  /-- handshake secret, of which the data keys come [384; R371; -] -/
  secret : Bytes
deriving DecidableEq, Repr

/-- The SPDM responder and the I3C target (R371 to R373, R442). -/
structure Spdm where
  /-- connection state per transport, DOE then MCTP: 0 none, 1 version, 2 capabilities, 3 algorithms [2 x 2; R371; 0] -/
  conn : Map Nat := []
  /-- open sessions, oldest first [at most 2; R371; empty] -/
  sessions : List SpdmSession := []
  /-- responder's halves of session identifiers given out [16; R371; 0] -/
  issued : Nat := 0
  /-- messages of the connection by transport: version, capabilities, algorithms [2; R371; empty] -/
  vca : Map Bytes := []
  /-- messages that CHALLENGE signs after them, by transport: digests and certificate reads [2; R371; empty] -/
  chal : Map Bytes := []
  /-- messages that a signed MEASUREMENTS covers, by transport [2; R371; empty] -/
  meas : Map Bytes := []
  /-- last response on DOE [R371; empty] -/
  respDoe : Bytes := []
  /-- last response on MCTP [R371; empty] -/
  respMctp : Bytes := []
  /-- I3C dynamic address [7; R373; none] -/
  i3cAddr : Option (BitVec 7) := none
  /-- I3C read offset [8; R373; 0] -/
  i3cOfs : Nat := 0
  /-- bytes of the last I3C private read [R373; empty] -/
  i3cData : Bytes := []
deriving DecidableEq, Repr

/-- The loader (R155, R156). -/
structure Loader where
  /-- banks of the running set accepted so far, by load index [64; R156; empty] -/
  banks : Map Bank := []
  /-- how many banks have been accepted [7; R366; 0] -/
  accepted : Nat := 0
  /-- LDR_STATUS.busy [1; R157; 0] -/
  busy : Bool := false
  /-- LDR_STATUS.accepted [1; R157; 0] -/
  ok : Bool := false
  /-- LDR_STATUS.reason [8; R157; 0] -/
  reason : Nat := 0
  /-- LDR_STATUS.offset [16; R157; 0] -/
  offset : Nat := 0
  /-- windows by 4 x stook + n [128; R157; EMPTY] -/
  windows : Map Window := []
deriving DecidableEq, Repr

/-! ### Tally (18_tally.md) -/

/-- A tally entry (R376). -/
structure TalEntry where
  /-- sequence number [32; R376; -] -/
  seq : Nat := 0
  /-- event code [16; R376; -] -/
  code : BitVec 16 := 0
  /-- flags [8; R376; -] -/
  flags : Byte := 0
  /-- die [8; R376; -] -/
  die : Byte := 0
  /-- time [64; R376; -] -/
  time : BitVec 64 := 0
  /-- partition or 0xFFFF [16; R376; -] -/
  part : BitVec 16 := 0
  /-- function code [16; R376; -] -/
  fn : BitVec 16 := 0
  /-- status [16; R376; -] -/
  status : BitVec 16 := 0
  /-- detail [16; R376; -] -/
  detail : BitVec 16 := 0
  /-- data [32 B; R376; -] -/
  data : Bytes := []
  /-- chained tag [8 B; R376; -] -/
  tag : Bytes := []
deriving DecidableEq, Repr

/-- The tally (R376 to R391). -/
structure Tally where
  /-- entries of the log, oldest first [up to 131,072 x 64 B; R376; empty (log 22)] -/
  log : List TalEntry := []
  /-- tag of the entry written before the log's first [8 B; R377; 8 zero bytes] -/
  prevTag : Bytes := []
  /-- TAL_NEXT_SEQ [33; R391; 0 (log 22)] -/
  next : Nat := 0
  /-- TAL_USED.main [17; R391; 0 (log 22)] -/
  main : Nat := 0
  /-- TAL_USED.tail [7; R391; 0 (log 22)] -/
  tail : Nat := 0
  /-- TAL_RESV.reserved_n [17; R391; 0] -/
  resv : Nat := 0
  /-- of them, reserved by warden firmware and not yet bound [17; R381; 0] -/
  fwResv : Nat := 0
  /-- TAL_RESV.refused [1; R391; 0] -/
  refused : Bool := false
  /-- TAL_STATUS.full [1; R391; 0 (log 22)] -/
  full : Bool := false
  /-- TAL_STATUS.seq_stuck [1; R391; 0 (log 22)] -/
  stuck : Bool := false
  /-- thresholds fired in this log: 75 %, 90 %, full, tail, stuck, MRAM [5; R384; 0 (log 22)] -/
  fired : BitVec 5 := 0
  /-- TAL_LOST.count [31; R391; 0] -/
  lost : Nat := 0
  /-- TAL_LOST.sat [1; R391; 0] -/
  lostSat : Bool := false
  /-- window cursors, each held as its value XOR 1: 0 the PF, n VF n [2,049 x 32; R386; 1, TW_LAST + 1 of an empty log] -/
  cursor : Map Nat := []
  /-- windows whose entry a clear has taken and whose TW_STAT has not been read since [2,049; R390; none] -/
  cleared : List Nat := []
deriving DecidableEq, Repr

/-! ### Time, power and clocks (19_time_power_clocks.md) -/

/-- A time set waiting for a PPS edge (R394): its target. -/
structure Time where
  /-- NTIME, ns [64; R392; 0] -/
  ntime : Nat := 0
  /-- 32-bit fraction of NTIME [32; R392; 0] -/
  frac : Nat := 0
  /-- NTIME valid [1; R393; 0] -/
  valid : Bool := false
  /-- pending slew, ns, signed [32; R395; 0] -/
  pending : Int := 0
  /-- TIME_SET.target [64; R414; 0] -/
  target : BitVec 64 := 0
  /-- an at_pps set waits for its edge [1; R394; 0] -/
  atPps : Bool := false
  /-- TIME_STAT.refused [1; R414; 0] -/
  refused : Bool := false
  /-- TIME_STAT.reason [3; R414; 0] -/
  reason : BitVec 3 := 0
  /-- TIME_STAT.rtc_disagree [1; R414; 0] -/
  disagree : Bool := false
  /-- slew budget, ns, battery domain [29; R396; 0 before the battery is attached] -/
  budget : Nat := 0
  /-- fraction of the budget refill carried, in ns x 86,400 s units [R396; 0] -/
  budgetFrac : Nat := 0
  /-- battery RTC, ns [64; R399; 0 (log 24)] -/
  rtc : Nat := 0
  /-- TIME_STAT.rtc_set [1; R414; 0 (log 24)] -/
  rtcSet : Bool := false
  /-- TIME_STAT.rtc_lp [1; R414; 0 (log 24)] -/
  rtcLp : Bool := false
  /-- NTIME at the last sync [64; R399; 0 (log 24)] -/
  syncNtime : Nat := 0
  /-- RTC at the last sync [64; R399; 0 (log 24)] -/
  syncRtc : Nat := 0
  /-- sum of |d| accepted since the last sync, ns [R399; 0 (log 24)] -/
  syncSum : Nat := 0
  /-- TIME_PPS.enable [1; R414; 0] -/
  ppsEn : Bool := false
  /-- TIME_PPS.rejected [15; R414; 0] -/
  ppsRej : Nat := 0
  /-- TIME_PPS.sat [1; R414; 0] -/
  ppsSat : Bool := false
  /-- TIME_PPS_ERR.e, ns [32; R414; 0] -/
  ppsErr : Int := 0
  /-- NTIME of the last accepted edge [64; R397; none] -/
  ppsLast : Option Nat := none
  /-- consecutive accepted edges within 100 us, up to 4 [3; R397; 0] -/
  ppsGood : Nat := 0
  /-- pps_locked [1; R414; 0] -/
  ppsLocked : Bool := false
deriving DecidableEq, Repr

/-- The latches of TIME_NOW and VF_NTIME, one per reader: 0 the PF, n VF n, 3000 warden A, 3001 warden B, 3002 the debug port; with the
Keep timer (R401, R414). -/
structure Timers where
  /-- Keep timer, ns [64; R401; 0] -/
  now : Nat := 0
  /-- latched high words by reader [2,052 x 32; R414; 0] -/
  latch : Map Word := []
  /-- value last read by reader: the 64-bit sample [2,052 x 64; R414; 0] -/
  sample : Map (BitVec 64) := []
deriving DecidableEq, Repr

/-- What a power handshake prepares (R403). -/
inductive PwrTarget where
  | none
  | idle
  | fallow
deriving DecidableEq, Repr

/-- Power and clocks (R402 to R410, R415). -/
structure Power where
  /-- PWR_CTRL.trim [1; R415; 1] -/
  trim : Bool := true
  /-- PWR_CTRL.idle_after [16; R415; 0] -/
  idleAfter : Nat := 0
  /-- PWR_STATUS.state [2; R415; RUN] -/
  state : BitVec 2 := 0
  /-- PWR_STATUS.last [2; R415; 0] -/
  last : BitVec 2 := 0
  /-- PWR_STATUS.agent [4; R415; 0] -/
  agent : Nat := 0
  /-- PWR_STATUS.reason [8; R415; 0] -/
  reason : Nat := 0
  /-- handshake in progress [2; R403; none] -/
  target : PwrTarget := .none
  /-- agent asked now, 1 to 9 [4; R403; 0] -/
  asking : Nat := 0
  /-- a DELAY count of that agent runs [1; R403; 0] -/
  delay : Bool := false
  /-- fetching stopped for the handshake or the preparation [1; R406; 0] -/
  fetchStop : Bool := false
  /-- a wake from IDLE is in progress [1; R405; 0] -/
  waking : Bool := false
  /-- dies that have finished the wake [2; R405; 0] -/
  awake : BitVec 2 := 0
  /-- the Keep rails are up [1; R354; 0] -/
  rails : Bool := false
  /-- the unit lies in FALLOW [1; R406; 0] -/
  fallow : Bool := false
  /-- PWR_STATUS.step_f0, step_f1 by die [2 x 2; R415; 0] -/
  step : Map Nat := []
  /-- PWR_STATUS.hot_f0, hot_f1 by die [2; R415; 0] -/
  hot : Map Bool := []
  /-- samples below the point minus 5 C in a row, by die, up to 100 [R407; 0] -/
  cool : Map Nat := []
  /-- samples at 0.8 GHz above the point in a row, by die, up to 1,000 [R407; 0] -/
  slow : Map Nat := []
  /-- stooks with their clock gated [32; R402; 0] -/
  gated : Map Bool := []
  /-- CLK_CTRL [4; R415; 0] -/
  clkCtrl : BitVec 4 := 0
  /-- CLK_STATUS.lock [4; R415; 0] -/
  lock : BitVec 4 := 0
  /-- clock monitors of channel 0x11 armed, one per CLK_CTRL bit [4; R355; 0] -/
  armed : BitVec 4 := 0
  /-- reference-clock channel 0x10 armed [1; R355; 0] -/
  refArmed : Bool := false
  /-- PLLs started at boot step 5 [1; R410; 0] -/
  pllStarted : Bool := false
deriving DecidableEq, Repr

/-! ### Links, dies, package (01_architecture.md, 20_register_map.md) -/

/-- A Sothen link: 0 K-F0, 1 K-F1, 2 F0-F1 (R18, R19). -/
structure Link where
  /-- lanes in use, 0 not trained [6; R19; 0] -/
  lanes : Nat := 0
  /-- successive retransmission failures of the flit at the head of the replay buffer [4; R18; 0] -/
  fails : Nat := 0
  /-- a retrain is in progress: traffic waits [1; R19; 0] -/
  retraining : Bool := false
deriving DecidableEq, Repr

/-- The status output pins, both open drain in the VIO domain (R316, R349, R356). -/
structure Pins where
  /-- TAMPER_N is pulled low [1; R316; 0] -/
  tamperN : Bool := false
  /-- FAULT_N is pulled low; none while EXTEST, CLAMP or HIGHZ is selected and boundary scan has the pin [1; R349, R356; 0] -/
  faultN : Option Bool := some false
deriving DecidableEq, Repr

/-- Package-level indications (R20, R22, R426). -/
structure Device where
  /-- DEV_DEGRADED_CAUSE [7; R426; 0] -/
  causes : BitVec 7 := 0
  /-- F0 in service [1; R426; 0] -/
  f0 : Bool := false
  /-- F1 in service [1; R426; 0] -/
  f1 : Bool := false
  /-- dies taken out of service until the next reset [2; R20; 0] -/
  out : BitVec 2 := 0
  /-- DEV_PART_EVT by partition [2,048; R426; 0] -/
  partEvt : Map Bool := []
  /-- TUs retired by package number [256; R154; 0] -/
  tuRetired : Map Bool := []
  /-- recent residue-mismatch times by TU [R153; empty] -/
  tuFaults : Map (List Nat) := []
  /-- cross-die traffic relayed through the Keep die [1; R21; 0] -/
  relay : Bool := false
  /-- changed bits of on-chip arrays, by unit [R269; none] -/
  flips : List Flip := []
  /-- the row-history condition of R268 has been posted in this boot [1; R268; 0] -/
  rowsFull : Bool := false
deriving DecidableEq, Repr
/-- A velocity policy of a partition (R75, R78). -/
structure VelPolicy where
  /-- the policy has been set [1; R78; 0] -/
  on : Bool := false
  /-- capacity, Q16.16 [32; R75; 0] -/
  cap : Nat := 0
  /-- refill rate, Q16.16 tokens per second [32; R75; 0] -/
  rate : Nat := 0
  /-- initial tokens, Q16.16 [32; R76; 0] -/
  init : Nat := 0
deriving DecidableEq, Repr

/-- Scheduler bookkeeping: orders, deficit counters, pointers and the trace writer (R110, R114, R119, R132). -/
structure Sched where
  /-- acceptance order of the next request [Nat; R110; 0] -/
  acceptSeq : Nat := 0
  /-- fetch order of the next descriptor [Nat; R124; 0] -/
  fetchSeq : Nat := 0
  /-- order of the next entry to reach WRITING [Nat; R125; 0] -/
  writeSeq : Nat := 0
  /-- next place in a waiting queue [Nat; R119; 1] -/
  waitSeq : Nat := 1
  /-- barn, plus 1, of each Field die that last unwrapped a handle, by 2^64 x (die - 1) + handle; 0 none [2; R115; 0] -/
  unwrapped : Map Nat := []
  /-- deficit counters by 8,192 x (die - 1) + 2,048 x class + partition [2 x 4 x 2,048 x 14; R114; 0] -/
  deficit : Map Nat := []
  /-- round-robin pointers by 4 x (die - 1) + class: next partition to visit [2 x 4 x 11; R114; 0] -/
  pointer : Map Nat := []
  /-- the pointed partition's visit has begun: its weight has been added [2 x 4; R114; 0] -/
  visiting : Map Bool := []
  /-- SCH_TRACE_WR.block [14; R133; 0] -/
  trBlock : Nat := 0
  /-- first unused byte of the block, 0 before its first record [13; R132; 0] -/
  trOfs : Nat := 0
  /-- records in the block [16; R132; 0] -/
  trCount : Nat := 0
  /-- previous record of the block [128; R132; none] -/
  trPrev : Option (BitVec 128) := none
deriving DecidableEq, Repr

/-- The host interface's own state (R29 to R57, R412, R415). -/
structure Hif where
  /-- SQs by 64 x function + n [2,049 x 64; R32; reset values] -/
  sq : Map SqRing := []
  /-- CQs by 64 x function + n [2,049 x 64; R33; reset values] -/
  cq : Map CqRing := []
  /-- MSI-X entries by 64 x function + vector [2,049 x 64; R29; reset values] -/
  msix : Map MsixEntry := []
  /-- histogram bins by 128 x class + bin [512 x 48; R415; 0] -/
  hist : Map Nat := []
  /-- wrap bits of the bins [512; R415; 0] -/
  histWrap : Map Bool := []
  /-- HIF_HIST_CFG.base_log2 [4; R415; 8] -/
  histBase : Nat := 8
  /-- fetch round of a function: 16 x the SQ visited plus the descriptors fetched in the visit [2,049 x 10; R42; 0] -/
  rr : Map Nat := []
  /-- package-wide total of dropped completions [32; R31, R52; 0] -/
  genDrops : Nat := 0
  /-- HIF_TAL_MODE.assist [1; R389; 0] -/
  talAssist : Bool := false
  /-- MSI-X function mask by function; configuration space holds it, and no row writes it [2,049 x 1; R57; 0 (log 98)] -/
  fnMask : Map Bool := []
deriving DecidableEq, Repr

/-- The whole part. -/
structure State where
  /-- commands waiting, first in first out [model; instructions; empty] -/
  pending : List Instr
  /-- host memory as it has been written, addresses rising, no entry 0 [2^64 x 8; R10; 0 (log 3)] -/
  hostMem : List Host.Cell
  /-- Keep SRAM bytes by offset from 0x1000_0000: the wardens' instruction spaces and their shared working data; the flow table, the
  ready lists and the nonce table have fields of their own [8 MiB; R422; 0 (log 21)] -/
  sram : Map Byte
  /-- counter of the free values drawn so far [model; log 2; 0] -/
  free : Nat
  /-- stored words of block pages and window pages by system address [R417; Reset columns] -/
  regs : Map Word
  /-- host interface -/
  hif : Hif
  /-- release buffer by entry index [69,632; R123; FREE] -/
  entries : Map Entry
  /-- flow table [262,144; R118; next 1, empty] -/
  flows : Map Flow
  /-- scheduler -/
  sched : Sched
  /-- cores: TU context c at c, warden A 2048, warden B 2049, scarecrow 2050 [R134, R159] -/
  cores : Map Core
  /-- system side of warden A 0, warden B 1, scarecrow 2 [R174, R175] -/
  sys : Map SysCore
  /-- unwrap caches by 65,536 x barn + 16 x set + way [R145; empty] -/
  uwc : Map UwcEntry
  /-- use order of the unwrap caches [model; R149; 0] -/
  uwcAge : Nat
  /-- barns by package number [8; R135] -/
  barns : Map Barn
  /-- block engines by package number [128; R178] -/
  bes : Map Be
  /-- block-engine context slots by 64 x engine + context in the stook [128 x 64; R179; empty] -/
  beSlots : Map BeSlot
  /-- bulk engines by package number [8; R186] -/
  baes : Map Bae
  /-- big-number engines by package number [48; R194] -/
  bnes : Map Bne
  /-- granary -/
  grn : Granary
  /-- winnower -/
  win : Winnower
  /-- HBM controllers: 1 H0, 2 H1 [2; R253] -/
  hbm : Map Hbm
  /-- HBM per-boot keys on the Keep die [512 + 64 + 128; R257, R258; none] -/
  hbmKey : Option HbmKeys
  /-- row history, MRAM [64 x 128; R275; empty (log 22)] -/
  rowHist : Map RowHist
  /-- partitions [2,048; R276] -/
  parts : Map Part
  /-- decimalization tables by 8 x partition + index: none or 8 bytes [2,048 x 8 x 64; R88; none (log 22)] -/
  decTables : Map (Option (BitVec 64))
  /-- velocity policies by 16 x partition + index [2,048 x 16; R78; not set (log 22)] -/
  velPols : Map VelPolicy
  /-- seen list, MRAM: DPID and highest hamper sequence [4,096 x 16 B; R287; empty (log 22)] -/
  seen : List (BitVec 64 × Nat)
  /-- yoke -/
  yoke : Yoke
  /-- officers, policies, nonces, quorum pages -/
  ofc : Officers
  /-- scarecrow -/
  scr : Scarecrow
  /-- scarecrow bookkeeping -/
  scrAux : ScarecrowAux
  /-- life cycle -/
  lc : LifeCycle
  /-- gates by gate-page system address [R341] -/
  gates : Map Gate
  /-- TAP and debug port -/
  tap : Tap
  /-- boot -/
  boot : Boot
  /-- loader and stook windows -/
  ldr : Loader
  /-- SPDM responder and I3C target -/
  spdm : Spdm
  /-- tally -/
  tal : Tally
  /-- network time -/
  time : Time
  /-- Keep timer and time latches -/
  tmr : Timers
  /-- power and clocks -/
  pwr : Power
  /-- Sothen links: 0 K-F0, 1 K-F1, 2 F0-F1 [3; R18] -/
  links : Map Link
  /-- package indications -/
  dev : Device
  /-- status output pins [R316, R356] -/
  pins : Pins
deriving DecidableEq, Repr

/-- The part right after reset: as it leaves Masidric (R7), without power on the Keep rails, every register at its
Reset column and every store without a stated content at the value its log entry names. -/
def State.reset : State where
  pending := []
  hostMem := []
  sram := []
  free := 0
  regs := []
  hif := {}
  entries := []
  flows := []
  sched := {}
  cores := []
  sys := []
  uwc := []
  uwcAge := 0
  barns := []
  bes := []
  beSlots := []
  baes := []
  bnes := []
  grn := {}
  win := {}
  hbm := []
  hbmKey := none
  rowHist := []
  parts := []
  decTables := []
  velPols := []
  seen := []
  yoke := {}
  ofc := {}
  scr := {}
  scrAux := {}
  lc := {
    identity := some Config.factoryIdentity
    identityPub := Config.factoryIdentityPub
    cert := some Config.factoryIdentityCert }
  gates := []
  tap := {}
  boot := { bankA := {
    valid := true
    seq := 1
    good := true
    types := [1, 2, 3]
    images := [Config.factoryScarecrow, [], []] } }
  ldr := {}
  spdm := {}
  tal := {}
  time := {}
  tmr := {}
  pwr := {}
  links := []
  dev := {}
  pins := {}

end Sys2Proof.Machine
end

