-- ==== Sys2Proof/Machine/Map.lean ====
section
/-! DEFINITION. Sparse arrays in one canonical form: indices strictly rising and no entry equal to the
array's default, so equal arrays are equal lists. Host memory is one of them (the default byte is 0, log 3). -/

namespace Sys2Proof

/-- The element at index k: the default where none is listed. -/
def Map.get {α : Type} (d : α) : Map α → Nat → α
  | [], _ => d
  | (i, a) :: r, k => if i = k then a else Map.get d r k

/-- The list without index k. -/
def Map.del {α : Type} : Map α → Nat → Map α
  | [], _ => []
  | (i, a) :: r, k => if i = k then Map.del r k else (i, a) :: Map.del r k

/-- The list with a at index k, in its place. -/
def Map.put {α : Type} : Map α → Nat → α → Map α
  | [], k, a => [(k, a)]
  | (i, b) :: r, k, a =>
    if k < i then (k, a) :: (i, b) :: r
    else if i = k then (k, a) :: r
    else (i, b) :: Map.put r k a

/-- Write a at index k; writing the default removes the entry. -/
def Map.set {α : Type} [DecidableEq α] (d : α) (m : Map α) (k : Nat) (a : α) : Map α :=
  if a = d then Map.del m k else Map.put m k a

/-- Every index listed is at least lo, indices rise strictly and no entry is the default. -/
def Map.wfFrom {α : Type} [DecidableEq α] (d : α) : Nat → Map α → Bool
  | _, [] => true
  | lo, (i, a) :: r => decide (lo ≤ i) && decide (a ≠ d) && Map.wfFrom d (i + 1) r

/-- The canonical form of an array. -/
def Map.wf {α : Type} [DecidableEq α] (d : α) (m : Map α) : Bool := Map.wfFrom d 0 m

/-- Write f of every listed element back: used to change all units of an array whose default f keeps. -/
def Map.mapVals {α : Type} [DecidableEq α] (d : α) (f : Nat → α → α) : Map α → Map α
  | [] => []
  | (i, a) :: r => Map.set d (Map.mapVals d f r) i (f i a)

/-- The listed indices that satisfy p, rising. -/
def Map.keysWhere {α : Type} (p : Nat → α → Bool) (m : Map α) : List Nat :=
  (m.filter (fun x => p x.1 x.2)).map (·.1)

/-- How many listed elements satisfy p. -/
def Map.count {α : Type} (p : Nat → α → Bool) (m : Map α) : Nat := (Map.keysWhere p m).length

/-- The first index below n, counting up from k, whose element satisfies p: a search of at most `fuel` indices. -/
def Map.findFrom {α : Type} (d : α) (m : Map α) (p : α → Bool) : Nat → Nat → Option Nat
  | 0, _ => none
  | fuel + 1, k => if p (Map.get d m k) then some k else Map.findFrom d m p fuel (k + 1)

end Sys2Proof
end

