-- ==== Sys2Proof/Machine/Ops.lean ====
section
/-! DEFINITION. The named operations over the state: reading and replacing one unit of an array, register words by system
address, event and performance counters, error latches, interrupt lines, MSI-X messages, free values and random
output. -/

set_option linter.unusedVariables false

namespace Sys2Proof.Machine

open Sys2Proof Sys2Proof.Bits

/-- The levels that the latches drive onto the status pins. TAMPER_N has no boundary cell; FAULT_N belongs to boundary scan while the TAP
holds EXTEST, CLAMP or HIGHZ; both are released while VIO is absent (R297, R316, R349, R356; log 26). -/
def pinLevels (s : State) : Pins where
  tamperN := s.scr.tamperN && s.scrAux.vio
  faultN := if s.tap.ir = 0x00 ∨ s.tap.ir = 0x03 ∨ s.tap.ir = 0x04 then none else some (s.boot.faultN && s.scrAux.vio)

/-- The pins follow the latches. -/
def State.drive (s : State) : State := { s with pins := pinLevels s }

/-- The outcome of every meaning of this model: the state the rules give (log 1), the status pins driven from it. -/
def done (s : State) : Host.Outcome State Fault Refusal := .next s.drive

/-! ### Units of the arrays -/

def State.entry (s : State) (e : Nat) : Entry := Map.get {} s.entries e
def State.setEntry (s : State) (e : Nat) (x : Entry) : State := { s with entries := Map.set {} s.entries e x }
def State.modEntry (s : State) (e : Nat) (f : Entry → Entry) : State := s.setEntry e (f (s.entry e))

def State.core (s : State) (c : Nat) : Core := Map.get {} s.cores c
def State.setCore (s : State) (c : Nat) (x : Core) : State := { s with cores := Map.set {} s.cores c x }
def State.modCore (s : State) (c : Nat) (f : Core → Core) : State := s.setCore c (f (s.core c))

def State.sysCore (s : State) (k : Nat) : SysCore := Map.get {} s.sys k
def State.setSys (s : State) (k : Nat) (x : SysCore) : State := { s with sys := Map.set {} s.sys k x }
def State.modSys (s : State) (k : Nat) (f : SysCore → SysCore) : State := s.setSys k (f (s.sysCore k))

def State.part (s : State) (p : Nat) : Part := Map.get {} s.parts p
def State.setPart (s : State) (p : Nat) (x : Part) : State := { s with parts := Map.set {} s.parts p x }
def State.modPart (s : State) (p : Nat) (f : Part → Part) : State := s.setPart p (f (s.part p))

def State.flow (s : State) (i : Nat) : Flow := Map.get {} s.flows i
def State.setFlow (s : State) (i : Nat) (x : Flow) : State := { s with flows := Map.set {} s.flows i x }

def State.barn (s : State) (b : Nat) : Barn := Map.get {} s.barns b
def State.setBarn (s : State) (b : Nat) (x : Barn) : State := { s with barns := Map.set {} s.barns b x }

def State.be (s : State) (e : Nat) : Be := Map.get {} s.bes e
def State.setBe (s : State) (e : Nat) (x : Be) : State := { s with bes := Map.set {} s.bes e x }

def State.beSlot (s : State) (i : Nat) : BeSlot := Map.get {} s.beSlots i
def State.setBeSlot (s : State) (i : Nat) (x : BeSlot) : State := { s with beSlots := Map.set {} s.beSlots i x }

def State.bae (s : State) (b : Nat) : Bae := Map.get {} s.baes b
def State.setBae (s : State) (b : Nat) (x : Bae) : State := { s with baes := Map.set {} s.baes b x }

def State.bne (s : State) (n : Nat) : Bne := Map.get {} s.bnes n
def State.setBne (s : State) (n : Nat) (x : Bne) : State := { s with bnes := Map.set {} s.bnes n x }

/-- HBM controller of die 1 (F0) or 2 (F1). -/
def State.stack (s : State) (d : Nat) : Hbm := Map.get {} s.hbm d
def State.setStack (s : State) (d : Nat) (x : Hbm) : State := { s with hbm := Map.set {} s.hbm d x }

def State.gate (s : State) (a : Nat) : Gate := Map.get {} s.gates a
def State.setGate (s : State) (a : Nat) (x : Gate) : State := { s with gates := Map.set {} s.gates a x }

def State.link (s : State) (l : Nat) : Link := Map.get {} s.links l
def State.setLink (s : State) (l : Nat) (x : Link) : State := { s with links := Map.set {} s.links l x }

/-- Ring n of function f. -/
def State.sq (s : State) (f n : Nat) : SqRing := Map.get {} s.hif.sq (64 * f + n)
def State.setSq (s : State) (f n : Nat) (x : SqRing) : State :=
  { s with hif := { s.hif with sq := Map.set {} s.hif.sq (64 * f + n) x } }

def State.cq (s : State) (f n : Nat) : CqRing := Map.get {} s.hif.cq (64 * f + n)
def State.setCq (s : State) (f n : Nat) (x : CqRing) : State :=
  { s with hif := { s.hif with cq := Map.set {} s.hif.cq (64 * f + n) x } }

def State.msix (s : State) (f v : Nat) : MsixEntry := Map.get {} s.hif.msix (64 * f + v)
def State.setMsix (s : State) (f v : Nat) (x : MsixEntry) : State :=
  { s with hif := { s.hif with msix := Map.set {} s.hif.msix (64 * f + v) x } }

def State.window (s : State) (stook n : Nat) : Window := Map.get {} s.ldr.windows (4 * stook + n)
def State.setWindow (s : State) (stook n : Nat) (x : Window) : State :=
  { s with ldr := { s.ldr with windows := Map.set {} s.ldr.windows (4 * stook + n) x } }

def State.slotAt (s : State) (i : Nat) : Slot := Map.get {} s.grn.slots i
def State.setSlot (s : State) (i : Nat) (x : Slot) : State :=
  { s with grn := { s.grn with slots := Map.set {} s.grn.slots i x } }

def State.useCtr (s : State) (i : Nat) : UseCtr := Map.get {} s.grn.ctrs i
def State.setUseCtr (s : State) (i : Nat) (x : UseCtr) : State :=
  { s with grn := { s.grn with ctrs := Map.set {} s.grn.ctrs i x } }

def State.bucket (s : State) (i : Nat) : Bucket := Map.get {} s.grn.buckets i
def State.setBucket (s : State) (i : Nat) (x : Bucket) : State :=
  { s with grn := { s.grn with buckets := Map.set {} s.grn.buckets i x } }

def State.source (s : State) (i : Nat) : Source := Map.get {} s.win.src i
def State.setSource (s : State) (i : Nat) (x : Source) : State :=
  { s with win := { s.win with src := Map.set {} s.win.src i x } }

def State.drbg (s : State) (i : Nat) : Drbg := Map.get {} s.win.drbg i
def State.setDrbg (s : State) (i : Nat) (x : Drbg) : State :=
  { s with win := { s.win with drbg := Map.set {} s.win.drbg i x } }

/-- Velocity policy k of partition p (R75). -/
def State.velPol (s : State) (p k : Nat) : VelPolicy := Map.get {} s.velPols (16 * p + k)

/-- Decimalization table k of partition p, none when empty (R88). -/
def State.decTable (s : State) (p k : Nat) : Option (BitVec 64) := Map.get none s.decTables (8 * p + k)

/-! ### Addresses -/

/-- System address of Keep block page n (R420). -/
def keepPage (n : Nat) : Nat := 0x30000000 + 0x1000 * n

/-- System address of block page n of Field die d, 1 or 2 (R421, R424). -/
def fieldPage (d n : Nat) : Nat := d * 2 ^ 32 + 0x1000 * n

/-- System address of PF BAR0 offset x, in the window image (R422). -/
def pfAddr (x : Nat) : Nat := 0x34000000 + x

/-- Address at which the model keeps the words of VF n's BAR0: above the 40-bit system space, which has no image of a
VF's BAR0. -/
def vfAddr (n x : Nat) : Nat := 2 ^ 40 + n * 2 ^ 16 + x

def hifPage : Nat := keepPage 0
def schPage : Nat := keepPage 4
def relPage : Nat := keepPage 5
def ldrPage : Nat := keepPage 6
def yokePage : Nat := keepPage 7
def grnPage : Nat := keepPage 8
def winPage : Nat := keepPage 9
def scrPage : Nat := keepPage 0xA
def talPage : Nat := keepPage 0xB
def lcPage : Nat := keepPage 0xC
def bootPage : Nat := keepPage 0xD
def pwrPage : Nat := keepPage 0xE
def clkPage : Nat := keepPage 0xF
def glnPage : Nat := keepPage 0x10
def polPage : Nat := keepPage 0x11

/-- Die of package barn b, stook k, TU, context, BNE, block engine or bulk engine (R11). -/
def dieOfBarn (b : Nat) : Nat := b / 4 + 1
def dieOfStook (k : Nat) : Nat := k / 16 + 1
def barnOfStook (k : Nat) : Nat := k / 4
def stookOfTu (t : Nat) : Nat := t / 8
def tuOfCtx (c : Nat) : Nat := c / 8
def stookOfCtx (c : Nat) : Nat := c / 64
def barnOfCtx (c : Nat) : Nat := c / 256
def dieOfCtx (c : Nat) : Nat := c / 1024 + 1
def barnOfBne (n : Nat) : Nat := n / 6
def dieOfBae (b : Nat) : Nat := b / 4 + 1

def barnPage (b : Nat) : Nat := fieldPage (dieOfBarn b) (0x10 + b % 4)
def stookPage (k : Nat) : Nat := fieldPage (dieOfStook k) (0x20 + k % 16)
def bnePage (n : Nat) : Nat := fieldPage (dieOfBarn (barnOfBne n)) (0x40 + n % 24)
def baePage (b : Nat) : Nat := fieldPage (dieOfBae b) (0x60 + b % 4)
def hbmPage (d : Nat) : Nat := fieldPage d 1

/-! ### Register words -/

/-- The Reset column of the stored words that do not reset to 0: SCH_TRACE_CTRL (R133) and BRN_TU_WDOG (R154). -/
def regReset (a : Nat) : Word :=
  if a = schPage + 0x080 then 1
  else if (List.range 8).any (fun b => a == barnPage b + 0x080) then 2000
  else 0

/-- The stored word at a system address. The map holds its difference from the reset value, so that a reset empties the
map. -/
def State.reg (s : State) (a : Nat) : Word := Map.get 0 s.regs a ^^^ regReset a

def State.setReg (s : State) (a : Nat) (v : Word) : State := { s with regs := Map.set 0 s.regs a (v ^^^ regReset a) }

/-- Bits [hi:lo] of the stored word. -/
def State.regBits (s : State) (a hi lo : Nat) : Nat := bits (s.reg a).toNat hi lo

/-- Replace bits [hi:lo] of the stored word. -/
def State.setRegBits (s : State) (a hi lo x : Nat) : State :=
  s.setReg a (BitVec.ofNat 32 (setBits (s.reg a).toNat hi lo x))

/-! ### Life-cycle state (R326) -/

def lcBlank : Nat := 0x00
def lcTest : Nat := 0x01
def lcMinted : Nat := 0x03
def lcEnrolled : Nat := 0x07
def lcField : Nat := 0x0F
def lcAnalysis : Nat := 0x1F
def lcScrap : Nat := 0x3F

/-- The state code that the OTP field reads as: any pattern outside the table reads as SCRAP. -/
def lcCode (s : State) : Nat :=
  let v := s.lc.otp.state.toNat
  if [lcBlank, lcTest, lcMinted, lcEnrolled, lcField, lcAnalysis].contains v then v else lcScrap

/-! ### Free values -/

/-- A value that the spec leaves open: the next of the sequence that Config leaves without a body (log 2). -/
def State.draw (s : State) (w : Nat) : BitVec w × State :=
  (Config.freeBits w s.free, { s with free := s.free + 1 })

/-! ### MSI-X -/

/-- Raise a vector of a function: the message goes out, or its pending bit stands while the entry or the function is masked (R57). -/
def raiseVec (s : State) (f v : Nat) : State :=
  let m := s.msix f v
  if m.masked || Map.get false s.hif.fnMask f then s.setMsix f v { m with pending := true } else s.setMsix f v { m with sent := m.sent + 1 }

/-! ### Block-page interrupts, errors and counters (R411, R417, R418) -/

def intRawOf (page : Nat) : Nat := page + 0x20
def intEnOf (page : Nat) : Nat := page + 0x24
def errCodeOf (page : Nat) : Nat := page + 0x30
def errInfoOf (page : Nat) : Nat := page + 0x34

/-- INT_STAT of a page: INT_RAW AND INT_EN. -/
def intStat (s : State) (page : Nat) : Word := s.reg (intRawOf page) &&& s.reg (intEnOf page)

/-- Store INT_RAW. The host-interface page's INT_STAT drives PF vector 0 when it becomes nonzero (R427). -/
def setIntRaw (s : State) (page : Nat) (v : Word) : State :=
  let t := s.setReg (intRawOf page) v
  if page = hifPage ∧ intStat s page = 0 ∧ intStat t page ≠ 0 then raiseVec t 0 0 else t

/-- Set bit n of a page's INT_RAW. -/
def setInt (s : State) (page n : Nat) : State :=
  setIntRaw s page (s.reg (intRawOf page) ||| BitVec.twoPow 32 n)

/-- Latch an error code: the first since the last clear stands; every error sets INT_RAW.err (R417, R418). -/
def latchErr (s : State) (page code info : Nat) : State :=
  let s := setInt s page 30
  if (s.reg (errCodeOf page)).getLsbD 31 then s
  else (s.setReg (errCodeOf page) (BitVec.ofNat 32 (code + 2 ^ 31))).setReg (errInfoOf page) (BitVec.ofNat 32 info)

/-- Count one event in field [hi:lo] of the word at page + off. The count stops at all ones, where the register's sat
bit [31] and INT_RAW[31] of the page are set (R411; log 40). -/
def evtCount (s : State) (page off hi lo : Nat) : State :=
  let v := s.regBits (page + off) hi lo
  let top := 2 ^ (hi + 1 - lo) - 1
  let s := if v < top then s.setRegBits (page + off) hi lo (v + 1) else s
  if top ≤ v + 1 then setInt (s.setRegBits (page + off) 31 31 1) page 31 else s

/-- Add n to the performance counter at page + off: 48 bits that wrap to 0 and set WRAP in bit [48]; CTRL.cnt_freeze
stops it (R411, R417). -/
def perfCount (s : State) (page off n : Nat) : State :=
  if (s.reg (page + 0x10)).getLsbD 0 then s
  else
    let lo := (s.reg (page + off)).toNat
    let hi := s.regBits (page + off + 4) 15 0
    let sum := lo + hi * 2 ^ 32 + n
    let s := (s.setReg (page + off) (BitVec.ofNat 32 sum)).setRegBits (page + off + 4) 15 0 (sum / 2 ^ 32)
    if 2 ^ 48 ≤ sum then s.setRegBits (page + off + 4) 16 16 1 else s

/-! ### Random output (R243) -/

/-- AES-256 with counter V: the next n blocks, and V after them. -/
def drbgBlocks (key : Bytes) : Nat → Nat → Bytes
  | 0, _ => []
  | n + 1, v => Aes.encrypt key (be 16 (v + 1)) ++ drbgBlocks key n (v + 1)

/-- The update of CTR_DRBG (SP 800-90A) with 48 bytes of provided data. -/
def drbgUpdate (d : Drbg) (data : Bytes) : Drbg :=
  let t := xor (drbgBlocks (be 32 d.key.toNat) 3 d.v.toNat) (fit 48 data)
  { d with key := BitVec.ofNat 256 (ofBe (t.take 32)), v := BitVec.ofNat 128 (ofBe (t.drop 32)) }

/-- One generate call of DRBG i, of n bytes. WIN_GEN_BYTES counts them (R252). -/
def drbgCall (s : State) (i n : Nat) : Bytes × State :=
  let d := s.drbg i
  let blocks := (n + 15) / 16
  let out := (drbgBlocks (be 32 d.key.toNat) blocks d.v.toNat).take n
  let d := drbgUpdate { d with v := d.v + BitVec.ofNat 128 blocks } []
  (out, perfCount (s.setDrbg i { d with ctr := d.ctr + 1 }) winPage 0x048 n)

/-- n bytes in k + 1 calls at most, each of at most 4,096 bytes (R243). -/
def drbgCalls (i : Nat) : Nat → Nat → State → Bytes × State
  | 0, n, s => drbgCall s i n
  | k + 1, n, s =>
    if n ≤ 4096 then drbgCall s i n
    else
      let (a, s) := drbgCall s i 4096
      let (b, s) := drbgCalls i k (n - 4096) s
      (a ++ b, s)

/-- Generate n bytes from DRBG i: barn i, or the Keep DRBG at 8. -/
def drbgGen (s : State) (i n : Nat) : Bytes × State := drbgCalls i (n / 4096) n s

/-! ### Time stamps -/

/-- Whether `n` events at the listed times, the newest at `now`, span at most `span` (R450): the list holds the times
counted, newest first. -/
def withinSpan (times : List Nat) (n span : Nat) : Bool :=
  decide (n ≤ times.length) && decide (times.headD 0 - times.getD (n - 1) 0 ≤ span)

/-- Add a time to a list of recent times, keeping the last `n`. -/
def noteTime (times : List Nat) (now n : Nat) : List Nat := (now :: times).take n

/-- One second in nanoseconds. -/
def second : Nat := 1000000000

/-! ### Host memory (R10, R45) -/

/-- n bytes of host memory from address a. -/
def State.hostRead (s : State) (a n : Nat) : Bytes :=
  (List.range n).map (fun i => Map.get 0 s.hostMem ((a + i) % 2 ^ 64))

/-- Write bytes to host memory from address a. -/
def hostWriteMem : List Host.Cell → Nat → Bytes → List Host.Cell
  | m, _, [] => m
  | m, a, b :: r => hostWriteMem (Map.set 0 m (a % 2 ^ 64) b) (a + 1) r

def State.hostWrite (s : State) (a : Nat) (bs : Bytes) : State := { s with hostMem := hostWriteMem s.hostMem a bs }

end Sys2Proof.Machine
end

