-- ==== Sys2Proof/Machine/Parity.lean ====
section
/-! DEFINITION. Parity of the on-chip SRAM and MRAM arrays (11_memory.md R269, R270, R275). What a block holds is what was written, changed
by the bits that `Device.flips` names (log 109). -/

set_option linter.unusedVariables false

namespace Sys2Proof.Machine

open Sys2Proof Sys2Proof.Bits

/-- What the row and column parities of a block show (R269). -/
inductive Parity where
  | good
  | one
  | bad
deriving DecidableEq, Repr

/-- Whether the bits of p at the given positions sum to an odd number. -/
def oddOf (p : BitVec 80) (ks : List Nat) : Bool := ks.foldl (fun a k => a != p.getLsbD k) false

/-- Row parity i covers byte i of a block, column parity j bit j of each of its bytes. -/
def rowFails (p : BitVec 80) (i : Nat) : Bool := oddOf p ((64 + i) :: (List.range 8).map (8 * i + ·))
def colFails (p : BitVec 80) (j : Nat) : Bool := oddOf p ((72 + j) :: (List.range 8).map (8 * · + j))

/-- One failing row parity with one failing column parity locates a bit; any other nonzero pattern is uncorrectable. -/
def judgeFlip (p : BitVec 80) : Parity :=
  match (List.range 8).filter (rowFails p), (List.range 8).filter (colFails p) with
  | [], [] => .good
  | [_], [_] => .one
  | _, _ => .bad

/-- The changed bits of a unit. -/
def flipOf (s : State) (c : ArrayCell) : BitVec 80 := ((s.dev.flips.find? (fun x => x.1 == c)).map (·.2)).getD 0

def setFlip (s : State) (c : ArrayCell) (p : BitVec 80) : State :=
  let rest := s.dev.flips.filter (fun x => x.1 != c)
  { s with dev := { s.dev with flips := if p = 0 then rest else rest ++ [(c, p)] } }

/-- Bits change. -/
def flipCells (s : State) (fs : List Flip) : State := fs.foldl (fun s f => setFlip s f.1 (flipOf s f.1 ^^^ f.2)) s

/-- The page whose MEM_PAR counts a unit's array (R420, R421; log 109). -/
def parityPage (s : State) : ArrayCell → Nat
  | .tuData c _ | .mailbox c => fieldPage (dieOfCtx c) 2
  | .codeRam w _ => stookPage (w / 4)
  | .descriptor e => let d := (s.entry e).die; if d = 1 ∨ d = 2 then fieldPage d 2 else keepPage 2
  | .bneMem n _ => bnePage n
  | .uwc i => barnPage (i / 65536)
  | .keepSram _ => keepPage 0x12
  | .slot _ | .tally _ _ | .bootRecord _ _ | .rowHist _ => keepPage 0x13
  | .bbram => grnPage
  | .validMap d _ => hbmPage (d + 1)

/-- ERR_INFO of an uncorrectable block: system address bits [37:6] of a slot or of Keep SRAM, else 0 (R417; log 109). -/
def parityInfo : ArrayCell → Nat
  | .slot i => (0x20000000 + 512 * i) / 64
  | .keepSram k => (0x10000000 + 8 * k) / 64
  | _ => 0

/-- A unit is read: a located bit is flipped back, in the data and in the block, and counted; an uncorrectable block is counted and latched
(R269, R275). -/
def readUnit (s : State) (c : ArrayCell) : Parity × State :=
  if s.dev.flips.isEmpty then (.good, s)
  else
    match judgeFlip (flipOf s c) with
    | .good => (.good, s)
    | .one => (.one, evtCount (setFlip s c 0) (parityPage s c) 0x078 15 0)
    | .bad => (.bad, latchErr (evtCount s (parityPage s c) 0x078 29 16) (parityPage s c) 0x0001 (parityInfo c))

/-- Several units are read: whether one of them is uncorrectable. -/
def readUnits (s : State) (cs : List ArrayCell) : Bool × State :=
  if s.dev.flips.isEmpty then (false, s)
  else cs.foldl (fun a c => let r := readUnit a.2 c; (a.1 || r.1 == .bad, r.2)) (false, s)

/-- A unit is written, or its content erased. -/
def writeUnit (s : State) (c : ArrayCell) : State := if s.dev.flips.isEmpty then s else setFlip s c 0

/-- Changed bits that a read of a unit returns: those of an uncorrectable block, as they stand. -/
def flipShown (s : State) (c : ArrayCell) : BitVec 64 := if judgeFlip (flipOf s c) = .bad then (flipOf s c).setWidth 64 else 0

/-- n bytes made of 8-byte units, as they are read. -/
def bytesShown (s : State) (unit : Nat → ArrayCell) (b : Bytes) : Bytes :=
  if s.dev.flips.isEmpty then b
  else b.mapIdx (fun i x => x ^^^ byteAt (le 8 (flipShown s (unit (i / 8))).toNat) (i % 8))

/-- A boot record as MRAM reads it (R270). -/
def recordShown (s : State) (i : Nat) : Bytes := bytesShown s (.bootRecord i) (Map.get [] s.boot.records i)

/-- Units that a reset leaves as they are: those of MRAM and BBRAM. -/
def keptFlips (s : State) : List Flip :=
  s.dev.flips.filter (fun x => match x.1 with
    | .slot _ | .tally _ _ | .bootRecord _ _ | .rowHist _ | .bbram => true
    | _ => false)

end Sys2Proof.Machine
end

