-- ==== Sys2Proof/Machine/TallyOps.lean ====
section
/-! DEFINITION. The tally writer (18_tally.md): entries, the tag chain, reservations, the reserved tail, lost events and
thresholds; and the package indications that post through it: DEGRADED, retirements, partition moves. -/

set_option linter.unusedVariables false

namespace Sys2Proof.Machine

open Sys2Proof Sys2Proof.Bits

namespace Tal

/-- Entries of the main area and of the reserved tail (R376). -/
def mainCap : Nat := 131008
def tailCap : Nat := 64

/-- What a posting event supplies (R376, R379). -/
structure Draft where
  code : BitVec 16
  die : Byte := 0
  part : BitVec 16 := 0xFFFF
  fn : BitVec 16 := 0
  status : BitVec 16 := 0
  detail : BitVec 16 := 0
  data : Bytes := []
  /-- data of a continuation entry -/
  cont : Option Bytes := none

/-- The OTP unit secret: all ones once it has been blown (R335). -/
def unitSecretBytes (s : State) : Bytes :=
  if s.lc.otp.secretBlown then List.replicate 32 0xFF else be 32 Config.unitSecret.toNat

def serialBytes : Bytes := be 8 Config.unitSerial.toNat

/-- K_tally (R377). -/
def key (s : State) : Bytes := Hash.kdfCounter .sha384 (unitSecretBytes s) (ascii "TK4820 TALLY") serialBytes 32

/-- Bytes 0 to 55 of an entry (R376). -/
def bytes56 (x : TalEntry) : Bytes :=
  le 4 x.seq ++ le 2 x.code.toNat ++ [x.flags, x.die] ++ le 8 x.time.toNat ++ le 2 x.part.toNat ++ le 2 x.fn.toNat ++
    le 2 x.status.toNat ++ le 2 x.detail.toNat ++ fit 32 x.data

/-- The 64 stored bytes of an entry. -/
def bytes64 (x : TalEntry) : Bytes := bytes56 x ++ fit 8 x.tag

/-- An entry as MRAM reads it, and whether parity finds a block of it uncorrectable (R270, R386). -/
def shown (s : State) (x : TalEntry) : Bytes := bytesShown s (.tally x.seq) (bytes64 x)
def unreadable (s : State) (x : TalEntry) : Bool :=
  (List.range 8).any (fun k => judgeFlip (flipOf s (.tally x.seq k)) == .bad)

/-- The chained tag of an entry after an entry with the tag `prev` (R377). -/
def tagOf (k prev : Bytes) (x : TalEntry) : Bytes := (Hash.hmac .sha384 k (fit 8 prev ++ bytes56 x)).take 8

/-- Tag of the last entry of the log, or of the entry written before the log's first. -/
def lastTag (t : Tally) : Bytes :=
  match t.log.getLast? with
  | some x => x.tag
  | none => t.prevTag

/-- Time and its flag bits (R378). -/
def stamp (s : State) : BitVec 64 × Byte :=
  if s.time.valid then (BitVec.ofNat 64 s.time.ntime, 1)
  else if s.time.rtcSet then (BitVec.ofNat 64 s.time.rtc, 2)
  else (0, 0)

/-- Fire threshold k once per log: its INT_RAW bit and the PF's tally vector (R384). -/
def fire (s : State) (k : Nat) : State :=
  if s.tal.fired.getLsbD k then s
  else
    let s := { s with tal := { s.tal with fired := s.tal.fired ||| BitVec.twoPow 5 k } }
    raiseVec (setInt s talPage k) 0 1

/-- The two fill thresholds over written plus reserved (R384). -/
def checkFill (s : State) : State :=
  let n := s.tal.main + s.tal.resv
  let s := if 98256 ≤ n then fire s 0 else s
  if 117908 ≤ n then fire s 1 else s

/-- Count lost events (R383). -/
def lose (s : State) (n : Nat) : State :=
  let c := s.tal.lost + n
  let s := { s with tal := { s.tal with lost := min c (2 ^ 31 - 1) } }
  if 2 ^ 31 - 1 ≤ c then setInt { s with tal := { s.tal with lostSat := true } } talPage 31 else s

/-- Write one entry: the next sequence, the chained tag, and the counters of its area (R377, R383, R385). -/
def write (s : State) (d : Draft) (data : Bytes) (tail cont : Bool) : State :=
  let st := stamp s
  let x : TalEntry :=
    { seq := s.tal.next, code := d.code,
      flags := st.2 ||| (if tail then 4 else 0) ||| (if cont then 8 else 0),
      die := d.die, time := st.1, part := d.part, fn := d.fn, status := d.status, detail := d.detail,
      data := fit 32 data }
  let x := { x with tag := tagOf (key s) (lastTag s.tal) x }
  let s := { s with tal := { s.tal with
    log := s.tal.log ++ [x], next := s.tal.next + 1,
    main := if tail then s.tal.main else s.tal.main + 1,
    tail := if tail then s.tal.tail + 1 else s.tal.tail } }
  let s := if tail then fire s 3 else s
  let s := if s.tal.main = mainCap then fire { s with tal := { s.tal with full := true } } 2 else s
  if x.seq = 2 ^ 32 - 1 then fire { s with tal := { s.tal with stuck := true } } 4 else s

/-- Entries a draft takes. -/
def count (d : Draft) : Nat := if d.cont.isSome then 2 else 1

/-- Write a draft and its continuation together (R379). -/
def writeAll (s : State) (d : Draft) (tail : Bool) : State :=
  let s := write s d d.data tail false
  match d.cont with
  | some data => write s d data tail true
  | none => s

/-- Both entries of a draft fit below the end of the sequence (R390). -/
def seqRoom (s : State) (d : Draft) : Bool := !s.tal.stuck && decide (s.tal.next + count d ≤ 2 ^ 32)

/-- Post an event that holds no reservation (R380, R383, R385). -/
def post (s : State) (d : Draft) : State :=
  if !seqRoom s d then lose s (count d)
  else if s.tal.main + s.tal.resv + count d ≤ mainCap then checkFill (writeAll s d false)
  else if d.code = 1 ∨ d.code = 2 ∨ d.code = 3 then
    if s.tal.tail + count d ≤ tailCap then writeAll s d true else lose s (count d)
  else lose s (count d)

/-- Reserve n main-area entries: none when fewer are free or the sequence has stuck (R381, R385). -/
def reserve (s : State) (n : Nat) : Option State :=
  if s.tal.stuck ∨ mainCap < s.tal.main + s.tal.resv + n then none
  else some (checkFill { s with tal := { s.tal with resv := s.tal.resv + n } })

/-- Write the entry of a reservation of n entries; what the draft does not use is given back (R381). -/
def redeem (s : State) (n : Nat) (d : Draft) : State :=
  let s := { s with tal := { s.tal with resv := s.tal.resv - n } }
  if !seqRoom s d then lose s (count d) else checkFill (writeAll s d false)

end Tal

/-! ### Package indications -/

/-- DEV_STATUS[4:0] (R426). -/
def devStatus (s : State) : Nat :=
  b2n (s.dev.causes != 0) + 2 * b2n s.dev.f0 + 4 * b2n s.dev.f1 + 8 * b2n s.yoke.halt + 16 * b2n s.time.valid

/-- Raise PF vector 5 when DEV_STATUS or DEV_DEGRADED_CAUSE differs from what it was in `old` (R427). -/
def noteStatus (old s : State) : State :=
  if devStatus s = devStatus old ∧ s.dev.causes = old.dev.causes then s else raiseVec s 0 5

/-- Bits of DEV_DEGRADED_CAUSE (R426). -/
def causeLink : Nat := 0
def causeWarden : Nat := 1
def causeRng : Nat := 2
def causeHbm : Nat := 3
def causeUnits : Nat := 4
def causeRoot : Nat := 5
def causeClock : Nat := 6

/-- Set DEGRADED for a cause; the first time in the boot, the tally takes an entry whose detail is the event code of the
entry that set it (R379; log 42). -/
def degrade (s : State) (cause : Nat) (src : BitVec 16) : State :=
  if s.dev.causes.getLsbD cause then s
  else
    let t := { s with dev := { s.dev with causes := s.dev.causes ||| BitVec.twoPow 7 cause } }
    noteStatus s (Tal.post t { code := 0x0004, detail := src })

/-- Post the retirement of a unit: detail 1 TU, 2 block engine, 3 bulk engine, 4 BNE; data its package number (R379). -/
def postRetired (s : State) (die kind number : Nat) : State :=
  Tal.post s { code := 0x0005, die := BitVec.ofNat 8 die, detail := BitVec.ofNat 16 kind, data := le 2 number }

/-- Code of a partition state in VF_PART.state (R31). -/
def PartState.code : PartState → Nat
  | .empty => 0
  | .active => 1
  | .quiescing => 2
  | .frozen => 3
  | .resetting => 4

/-- Move partition p: the tally takes an entry, and a move into FROZEN or EMPTY sets the partition event (R276, R426,
R427). -/
def movePart (s : State) (p : Nat) (new : PartState) : State :=
  let x := s.part p
  let s := s.setPart p { x with state := new }
  let s := Tal.post s {
    code := 0x0301
    part := BitVec.ofNat 16 p
    data := [BitVec.ofNat 8 x.state.code, BitVec.ofNat 8 new.code] ++ le 2 x.gen.toNat }
  if new = .frozen ∨ new = .empty then
    raiseVec { s with dev := { s.dev with partEvt := Map.set false s.dev.partEvt p true } } 0 4
  else s

end Sys2Proof.Machine
end

