-- ==== Sys2Proof/Machine/Gates.lean ====
section
/-! DEFINITION. Gates: targets by system address, class slots, range slots, the default map and the fixed denials, denials and
configuration faults (16_gates_debug.md, R420 to R424). -/

set_option linter.unusedVariables false

namespace Sys2Proof.Machine

open Sys2Proof Sys2Proof.Bits

/-- Class codes (R340). -/
def clsCodeOf : InitClass → Nat
  | .warden => 0
  | .scarecrow => 1
  | .tu => 2
  | .bne => 3
  | .hostDma => 4
  | .debug => 5
  | .bootRom => 6
  | .testPort => 7
  | .gleaner => 15

/-- Pair of a class in a range slot's perm field (R353). -/
def permPair : InitClass → Nat
  | .gleaner => 8
  | c => clsCodeOf c

/-! ### Regions of the system space (R422 to R424) -/

def inRange (a lo hi : Nat) : Bool := decide (lo ≤ a ∧ a ≤ hi)

/-- System address of HBM line storage of die d, and its last byte. -/
def hbmBase (d : Nat) : Nat := 0x1000000000 + (d - 1) * 0x400000000
def inHbm (a d : Nat) : Bool := inRange a (hbmBase d) (hbmBase d + hbmEnd0 - 1)
  where
    /-- End of line storage in a stack's window (R255, R343). -/
    hbmEnd0 : Nat := 0x380000000

/-- A stack's 16 GiB window in the system space; above line storage it is not mapped, and an access there fails at the controller's gate
(R255). -/
def hbmWindow (a d : Nat) : Bool := inRange a (hbmBase d) (hbmBase d + 0x3FFFFFFFF)
def inHbmHole (a : Nat) : Bool := (hbmWindow a 1 && !inHbm a 1) || (hbmWindow a 2 && !inHbm a 2)

/-- Offset in a Field window, with the die. -/
def fieldOf (a : Nat) : Option (Nat × Nat) :=
  if inRange a 0x100000000 0x1FFFFFFFF then some (1, a - 0x100000000)
  else if inRange a 0x200000000 0x2FFFFFFFF then some (2, a - 0x200000000)
  else none

def keepGate (g : Nat) : Nat := 0x30100000 + 0x1000 * g
def fieldGate (d g : Nat) : Nat := d * 2 ^ 32 + 0x100000 + 0x1000 * g

/-- The gate page of the target that holds an address, and whether it is a memory target; none for a gate page, which a fixed gate
guards, and for an unmapped address (R341, R346, R420 to R422). -/
def gateOf (a : Nat) : Option (Nat × Bool) :=
  if inRange a 0 0x1FFFF then some (keepGate 0x103, false)
  else if inRange a 0x08000000 0x0807FFFF || inRange a 0x08100000 0x0817FFFF then some (keepGate 0x105, false)
  else if inRange a 0x0A000000 0x0A00FFFF || inRange a 0x0A010000 0x0A013FFF || inRange a 0x0A020000 0x0A02FFFF then
    some (keepGate 0x106, false)
  else if inRange a 0x0C000000 0x0C43FFFF then some (keepGate 0x104, false)
  else if inRange a 0x10000000 0x107FFFFF then some (keepGate 0x100, true)
  else if inRange a 0x20000000 0x20FFFFFF then some (keepGate 0x101, true)
  else if inRange a 0x30000000 0x300FFFFF then
    let n := (a - 0x30000000) / 0x1000
    some (keepGate (if n < 4 then 0 else n), false)
  else if inRange a 0x34000000 0x37FFFFFF then some (keepGate 0x107, false)
  else if hbmWindow a 1 then some (fieldGate 1 0x100, true)
  else if hbmWindow a 2 then some (fieldGate 2 0x100, true)
  else
    match fieldOf a with
    | none => none
    | some (d, o) =>
      if o < 0x100000 then some (fieldGate d (o / 0x1000), false)
      else if o < 0x1000000 then none
      else if o < 0x2000000 then some (fieldGate d 0x101, false)
      else if o < 0x4000000 then some (fieldGate d 0x102, false)
      else if o < 0x8000000 then some (fieldGate d 0x103, false)
      else if o < 0xA000000 then some (fieldGate d 0x104, false)
      else if o < 0xC000000 then some (fieldGate d 0x105, false)
      else none

/-- A gate page: Keep 0x30100000 to 0x302FFFFF, Field windows 0x100000 to 0x2FFFFF. -/
def isGatePage (a : Nat) : Bool :=
  inRange a 0x30100000 0x302FFFFF ||
    match fieldOf a with
    | some (_, o) => inRange o 0x100000 0x2FFFFF
    | none => false

/-- Gate index of a gate page. -/
def gateIndex (page : Nat) : Nat :=
  match fieldOf page with
  | some (_, o) => (o - 0x100000) / 0x1000
  | none => (page - 0x30100000) / 0x1000

/-- The gate guards a memory target: Keep SRAM, MRAM, H0, H1. -/
def gateMemory (page : Nat) : Bool :=
  let g := gateIndex page
  match fieldOf page with
  | some _ => g == 0x100
  | none => g == 0x100 || g == 0x101

/-- The ID word of a gate page (R417, R420): die, instance g[7:0], type 0x0030 or 0x0031. -/
def gateIdWord (page : Nat) : Nat :=
  let die := match fieldOf page with | some (d, _) => d | none => 0
  die + gateIndex page % 256 * 2 ^ 8 + (if gateMemory page then 0x31 else 0x30) * 2 ^ 16

/-! ### Decisions -/

/-- The secret set of R344. -/
def inSecretSet (a : Nat) : Bool :=
  inRange a 0x20000000 0x201FFFFF || inRange a 0x20F10000 0x20F14FFF || inRange a 0x0C000000 0x0C43FFFF ||
    inRange a 0x08000000 0x0807FFFF || inRange a 0x08100000 0x0817FFFF || inRange a 0x10000000 0x101FFFFF ||
    inRange a 0x10500000 0x10500FFF ||
    [1, 2].any (fun d => inRange a (hbmBase d) (hbmBase d + 0x33FFFFFFF)) ||
    match fieldOf a with
    | some (_, o) => inRange o 0x1000000 0x3FFFFFF || inRange o 0x8000000 0xBFFFFFF
    | none => false

/-- The scarecrow page's writable registers for the wardens: SCR_TAMPER.release, SCR_HIST_PTR, the W1C words (R323, R344). The
mailbox has no register on the page. -/
def scrWardenWrite (o : Nat) : Bool := o == 0x84 || o == 0xA8 || o == 0x98 || o == 0x20 || o == 0x78

/-- A DEBUG access that R351 does not reach in this state and level. -/
def debugUnreached (s : State) (a : Nat) (write : Bool) : Bool :=
  let lc := lcCode s
  let page (o : Nat) : Bool := decide (o % 0x1000 < 0x80)
  let observable := !write &&
    ((inRange a 0x30000000 0x300FFFFF && page a) || inRange a 0x34000000 0x34000FFF ||
      match fieldOf a with
      | some (_, o) => decide (o < 0x100000) && page o
      | none => false)
  if lc = lcBlank then false
  else if s.tap.level = 2 ∧ lc = lcTest then false
  else if s.tap.level = 2 ∧ lc = lcAnalysis then inSecretSet a
  else if s.tap.level = 0 then true
  else !observable

/-- The fixed denials (R344, R351). -/
def fixedDenied (s : State) (c : InitClass) (a : Nat) (write : Bool) : Bool :=
  let lc := lcCode s
  let tamperSpace := inRange a 0x0A010000 0x0A02FFFF || inRange a 0x20F16000 0x20F16FFF
  let scrPageA := inRange a scrPage (scrPage + 0xFFF)
  let o := a - scrPage
  let code := match fieldOf a with | some (_, x) => inRange x 0x4000000 0x7FFFFFF | none => false
  let trace := inRange a (hbmBase 1 + 0x340000000) (hbmBase 1 + 0x343FFFFFF)
  (write && inRange a 0x0A000000 0x0A00FFFF && !(c == .bootRom && !s.scrAux.started)) ||
  (write && tamperSpace && c != .scarecrow) ||
  (write && scrPageA && c != .scarecrow && !(c == .warden && scrWardenWrite o)) ||
  (write && code && c != .warden) ||
  (trace && c != .warden && c != .gleaner) ||
  ((c == .debug || c == .testPort) && inSecretSet a && !(lc == lcBlank || lc == lcTest)) ||
  (c == .testPort && !(lc == lcTest || lc == lcAnalysis)) ||
  (c == .debug && debugUnreached s a write)

/-- The default map (R343): what a WARDEN or BOOTROM access gets without a match. -/
def defaultAllows (c : InitClass) (a : Nat) (write : Bool) : Bool :=
  match c with
  | .warden =>
    if inRange a 0 0x1FFFF then !write
    else inRange a 0x10000000 0x107FFFFF || inRange a 0x20000000 0x20FFFFFF || inRange a 0x30000000 0x300FFFFF ||
      (fieldOf a).isSome || inHbm a 1 || inHbm a 2
  | .bootRom =>
    if inRange a 0 0x1FFFF then !write
    else inRange a 0x10000000 0x107FFFFF || inRange a 0x20000000 0x20FFFFFF || inRange a 0x30000000 0x300FFFFF ||
      (fieldOf a).isSome
  | _ => false

/-- What an access gets without a match: the default map, and for DEBUG and TESTPORT what the debug level reaches in this state (R343,
R351; log 52). -/
def unmatchedAllows (s : State) (c : InitClass) (a : Nat) (write : Bool) : Bool :=
  match c with
  | .debug => lcCode s == lcBlank || s.tap.level != 0
  | .testPort => s.tap.level == 2
  | _ => defaultAllows c a write

/-- Enabled range slots that hold an address. -/
def rangeHits (g : Gate) (a : Nat) : List RangeSlot :=
  ((List.range 16).map (fun n => Map.get {} g.rng n)).filter (fun r => r.en && decide (r.base ≤ a / 4096 ∧ a / 4096 ≤ r.last))

/-- The decision on one access, whose first byte lies at a (R341 to R346). -/
def gateAllows (s : State) (c : InitClass) (a : Nat) (write : Bool) : Bool :=
  if fixedDenied s c a write || inHbmHole a then false
  else if isGatePage a then c == .warden || c == .bootRom || (c == .debug && !write)
  else
    match gateOf a with
    | none => false
    | some (page, mem) =>
      let g := s.gate page
      let slot := Map.get 0 g.cls (clsCodeOf c)
      if g.closed then false
      else if mem then
        match rangeHits g a with
        | [r] => if slot.getLsbD 2 then r.perm.getLsbD (2 * permPair c + b2n write) else unmatchedAllows s c a write
        | _ => unmatchedAllows s c a write
      else if slot.getLsbD 2 then (if write then slot.getLsbD 1 else slot.getLsbD 0)
      else unmatchedAllows s c a write

/-- Record a denial at the gate of its target: GATE_LAST, the counters, the entry of the first debug denial (R347, R348). -/
def recordDenial (s : State) (c : InitClass) (a : Nat) (write : Bool) : State :=
  match gateOf a with
  | none => s
  | some (page, _) =>
    let g := s.gate page
    let dbg := c == .debug || c == .testPort
    let first := dbg && g.debugDenials == 0
    let g := if g.lastValid then g else
      { g with lastAddr := a, lastCls := clsCodeOf c, lastWrite := write, lastValid := true }
    let sat := if dbg then decide (0xFFFF ≤ g.debugDenials + 1) else decide (0x7FFF ≤ g.otherDenials + 1)
    let g :=
      if dbg then { g with debugDenials := min 0xFFFF (g.debugDenials + 1), sat := g.sat || sat }
      else { g with otherDenials := min 0x7FFF (g.otherDenials + 1), sat := g.sat || sat }
    let s := s.setGate page g
    let s := if sat then setInt s page 31 else s
    if first then
      Tal.post s {
        code := 0x0102
        data := le 4 (gateIdWord page) ++ le 8 (g.lastAddr + g.lastCls * 2 ^ 40 + b2n g.lastWrite * 2 ^ 44 + 2 ^ 63) }
    else s

/-- Decide an access and record a denial. -/
def gatePass (s : State) (c : InitClass) (a : Nat) (write : Bool) : Bool × State :=
  if gateAllows s c a write then (true, s) else (false, recordDenial s c a write)

/-! ### Host memory (R10) -/

/-- The HOSTDMA gate passes an access of the endpoint's DMA to host memory: the gate of the host interface, by its class slot (log 96). -/
def hostGate (s : State) (write : Bool) : Bool := gateAllows s .hostDma hifPage write

/-- A denied access to host memory is recorded at the gate. -/
def hostDenied (s : State) (write : Bool) : State := recordDenial s .hostDma hifPage write

/-! ### Configuration of range slots (R346) -/

/-- Range slot n faults against the gate: its last page below its base, or an overlap with another enabled slot. -/
def rangeFault (g : Gate) (n : Nat) : Bool :=
  let r := Map.get {} g.rng n
  r.en && (decide (r.last < r.base) ||
    (List.range 16).any (fun m =>
      let x := Map.get {} g.rng m
      m != n && x.en && decide (x.base ≤ r.last ∧ r.base ≤ x.last)))

/-- Store a range slot; a configuration fault locks the gate closed, latches the page's error and posts its entry. -/
def setRange (s : State) (page n : Nat) (r : RangeSlot) : State :=
  let g := s.gate page
  let old := Map.get {} g.rng n
  let g := { g with rng := Map.set {} g.rng n r }
  let moved := r.en && (!old.en || r.base != old.base || r.last != old.last)
  if moved && rangeFault g n && !g.closed then
    let s := s.setGate page { g with closed := true, faultSlot := n }
    let s := latchErr s page 3 0
    Tal.post s { code := 0x0101, data := le 4 (gateIdWord page) ++ [BitVec.ofNat 8 n] }
  else s.setGate page g

/-- Set a class slot of a gate. -/
def setCls (s : State) (page c : Nat) (v : BitVec 3) : State :=
  let g := s.gate page
  s.setGate page { g with cls := Map.set 0 g.cls c v }

/-- Lock a gate page. -/
def lockGate (s : State) (page : Nat) : State := s.setGate page { s.gate page with lock := true }

/-- What the boot ROM programs and locks before the scarecrow starts: its page, its spaces and sensor blocks, its MRAM region
(R345; log 51). -/
def lockScarecrowGates (s : State) : State :=
  let s := setCls (setCls s (keepGate 0xA) 1 7) (keepGate 0x106) 1 7
  let s := setCls s (keepGate 0x101) 1 7
  let s := setRange s (keepGate 0x101) 0 { en := true, base := 0x20F16, last := 0x20F16, perm := 0xC }
  lockGate (lockGate (lockGate s (keepGate 0xA)) (keepGate 0x106)) (keepGate 0x101)

end Sys2Proof.Machine
end

