-- ==== Sys2Proof/Machine/BulkOps.lean ====
section
/-! DEFINITION. Bulk messages as the engines hold them: the parameter block, the limits, the three modes, and the streams from and to host
memory (03_payment_functions.md R103, R104; 07_block_and_bulk_ciphers.md R187 to R190). -/

set_option linter.unusedVariables false

namespace Sys2Proof.Machine

open Sys2Proof Sys2Proof.Bits

/-- A bulk decryption function. -/
def isBulkDec (fn : Nat) : Bool := fn == 0x6002 || fn == 0x6004 || fn == 0x6006

/-! ### Messages -/

/-- Modes of the bulk functions. -/
inductive BulkMode where
  | gcm
  | ccm
  | xts
deriving DecidableEq, Repr

def bulkMode (fn : Nat) : BulkMode := if fn ≤ 0x6002 then .gcm else if fn ≤ 0x6004 then .ccm else .xts

/-- The message of a 72-byte parameter block (R103). Encryption with no IV given draws one: 12 bytes (R104, R189). -/
def parseBulk (e fn : Nat) (key b : Bytes) : BulkMsg :=
  let ivLen := (byteAt b 32).toNat
  let dec := isBulkDec fn
  { entry := e
    fn := BitVec.ofNat 16 fn
    key := key
    iv := slice b 40 (min ivLen 16)
    drawn := !dec && bulkMode fn != .xts && ivLen == 0
    aadAddr := BitVec.ofNat 64 (fieldLe b 24 8)
    aadLen := fieldLe b 16 8
    src := BitVec.ofNat 64 (fieldLe b 8 8)
    len := fieldLe b 0 8
    unit := if bulkMode fn = .xts then 2 ^ (byteAt b 34).toNat else 0
    unit0 := if bulkMode fn = .xts then block (slice b 40 16) else 0
    tagLen := (byteAt b 33).toNat
    tag := slice b 56 16 }

/-- The limits of R104: a breach is BAD_LENGTH. -/
def bulkLimits (m : BulkMsg) : Bool :=
  match bulkMode m.fn.toNat with
  | .gcm => decide (m.len ≤ 2 ^ 36 - 32)
  | .ccm => decide (m.len < 2 ^ (8 * (15 - (if m.drawn then 12 else m.iv.length))))
  | .xts => decide (m.len ≠ 0 ∧ m.len % m.unit = 0)

/-- Bytes that a message writes. -/
def bulkOut (m : BulkMsg) : Nat :=
  if isBulkDec m.fn.toNat ∨ bulkMode m.fn.toNat = .xts then m.len else m.len + m.tagLen + (if m.drawn then 12 else 0)

/-- XTS from a byte position of the message: data key and tweak key are the halves of the key. -/
def xtsFrom (enc : Bool) (m : BulkMsg) (data : Bytes) : Bytes :=
  let n := m.key.length / 2
  let start (p : Nat) : Nat := ofLe (Aes.encrypt (m.key.drop n) (le 16 ((m.unit0.toNat + p / m.unit) % 2 ^ 128)))
  let t0 := (List.range (m.pos % m.unit / 16)).foldl (fun t _ => Xts.dbl t) (start m.pos)
  ((chunks 16 data).foldl (fun (st : Nat × Nat × Bytes) b =>
    let t := if st.1 % m.unit = 0 then start st.1 else st.2.1
    let x := xor b (le 16 t)
    let y := if enc then Aes.encrypt (m.key.take n) x else Aes.decrypt (m.key.take n) x
    (st.1 + 16, Xts.dbl t, st.2.2 ++ xor y (le 16 t))) (m.pos, t0, [])).2.2

/-- Absorb the header, once. -/
def bulkHeader (m : BulkMsg) (aad : Bytes) : BulkMsg :=
  if m.aadDone then m
  else
    match bulkMode m.fn.toNat with
    | .gcm => { m with aadDone := true, ctr := block (Gcm.j0 m.iv), acc := BitVec.ofNat 128 (Gcm.ghash (Gcm.hashKey m.key) 0 aad) }
    | .ccm =>
      { m with
        aadDone := true
        ctr := block (Ccm.ctrBlock m.iv 0)
        acc := BitVec.ofNat 128 (ofBe (Ccm.macStart m.key m.iv aad m.tagLen m.len)) }
    | .xts => { m with aadDone := true }

/-- Process the next payload bytes: whole blocks, or the rest of the message. -/
def bulkData (m : BulkMsg) (data : Bytes) : Bytes × BulkMsg :=
  let dec := isBulkDec m.fn.toNat
  let i := m.pos / 16 + 1
  match bulkMode m.fn.toNat with
  | .gcm =>
    let out := Cipher.ctr m.key (Gcm.incBy (Gcm.j0 m.iv) i) 4 data
    (out, { m with
      pos := m.pos + data.length
      acc := BitVec.ofNat 128 (Gcm.ghash (Gcm.hashKey m.key) m.acc.toNat (if dec then data else out)) })
  | .ccm =>
    let out := Cipher.ctr m.key (Ccm.ctrBlock m.iv i) (15 - m.iv.length) data
    (out, { m with
      pos := m.pos + data.length
      acc := BitVec.ofNat 128 (ofBe (Ccm.macData m.key (be 16 m.acc.toNat) (if dec then out else data))) })
  | .xts => (xtsFrom (!dec) m data, { m with pos := m.pos + data.length })

/-- The tag of a message whose payload has been processed. -/
def bulkTag (m : BulkMsg) : Bytes :=
  match bulkMode m.fn.toNat with
  | .gcm => Gcm.tag m.key m.iv m.acc.toNat m.aadLen m.len
  | .ccm => Ccm.tag m.key m.iv (be 16 m.acc.toNat)
  | .xts => []

/-! ### Engines -/

def State.modBae (s : State) (b : Nat) (f : Bae → Bae) : State := s.setBae b (f (s.bae b))

/-- The message that an engine runs. -/
def runningMsg (x : Bae) : Option BulkMsg := if x.owner = .request then x.msg else none

/-- The request's generation differs from its partition's: nothing more is written (R189). -/
def bulkStale (s : State) (m : BulkMsg) : Bool :=
  let x := s.entry m.entry
  x.gen != (s.part (x.func - 1)).gen

/-- Write output bytes of a message at its position in the destination. -/
def bulkWrite (s : State) (b : Nat) (m : BulkMsg) (bs : Bytes) : State × BulkMsg :=
  (perfCount (s.hostWrite (m.dst.toNat + m.count) bs) (baePage b) 0x048 bs.length, { m with count := m.count + bs.length })

/-- Read the header, where it has not been absorbed, and n payload bytes. -/
def bulkRead (s : State) (b : Nat) (m : BulkMsg) (n : Nat) : Bytes × Bytes × State :=
  let aad := if m.aadDone then [] else s.hostRead m.aadAddr.toNat m.aadLen
  let data := s.hostRead (m.src.toNat + m.pos) n
  (aad, data, perfCount s (baePage b) 0x040 (aad.length + data.length))

/-- How far a running message has come when an event outside it or a read of BG_COUNT finds it: a number of whole writes of 4 KiB, or all of
its payload, which nothing fixes; those bytes stand in host memory and are counted (R189, R190; log 100). A message whose generation is
stale, or whose accesses the HOSTDMA gate denies, has come no further. -/
def bulkAdvance (s : State) (b : Nat) (m : BulkMsg) : State × BulkMsg :=
  if m.ended.isSome || m.fn == 0 || (m.drawn && m.iv.isEmpty) || bulkStale s m || !hostGate s false || !hostGate s true then (s, m)
  else
    let (v, s) := s.draw 64
    let n := min (m.len - m.pos) (4096 * (v.toNat % ((m.len - m.pos + 4095) / 4096 + 1)))
    if n = 0 then (s, m)
    else
      let (aad, data, s) := bulkRead s b m n
      let (out, m) := bulkData (bulkHeader m aad) data
      bulkWrite s b m out

end Sys2Proof.Machine
end

