-- ==== Sys2Proof/Machine/HbmOps.lean ====
section
/-! DEFINITION. The HBM controllers (11_memory.md): reading bytes through the valid bits and the merge buffer, full and partial
line writes, poison, failed DRAM dies. Die 1 is F0 with H0, die 2 is F1 with H1. The model holds lines in clear beside
the rule that only the controllers hold their key (log 30). -/

set_option linter.unusedVariables false

namespace Sys2Proof.Machine

open Sys2Proof Sys2Proof.Bits

namespace Hbm

/-- Lines in one 4 KiB page (R264). -/
def linesPerPage : Nat := 64

/-- Page of a line. -/
def pageOf (line : Nat) : Nat := line / 64

/-- Byte k of a 64-byte line. -/
def lineByte (v : BitVec 512) (k : Nat) : Byte := BitVec.ofNat 8 (v.toNat / 256 ^ k)

/-- A line from its 64 bytes. -/
def ofLine (bs : Bytes) : BitVec 512 := BitVec.ofNat 512 (ofLe (fit 64 bs))

/-- A line's page is valid. -/
def lineValid (h : Hbm) (line : Nat) : Bool := Map.get false h.valid (pageOf line)

/-! The die-loss code (R259, R260). XTS, CRC and XOR being linear over differences of stored bits, what a decode finds depends on the
differences alone. -/

/-- DRAM die of a symbol of a line (R259). -/
def dieOfSym (line j : Nat) : Nat := (line + j) % 16

/-- Eight steps of the CRC with polynomial x^8 + x^2 + x + 1. -/
def crcByte (c : BitVec 8) : BitVec 8 :=
  (List.range 8).foldl (fun c _ => if c.getLsbD 7 then (c <<< 1) ^^^ 7 else c <<< 1) c

/-- CRC-8 of bytes, from 0, the first byte first, the most significant bit of a byte first (log 107). -/
def crc8 (bs : Bytes) : BitVec 8 := bs.foldl (fun c b => crcByte (c ^^^ b)) 0

/-- How a symbol's cells differ from what was written. -/
def upsetOf (h : Hbm) (line j : Nat) : BitVec 72 := Map.get 0 h.upset (16 * line + j)

/-- Difference of a symbol's data bits. -/
def symDiff (h : Hbm) (line j : Nat) : BitVec 64 := (upsetOf h line j).setWidth 64

/-- A symbol fails its CRC: over the symbol and the low 32 bits of the line number, which do not differ. -/
def crcFails (h : Hbm) (line j : Nat) : Bool :=
  crc8 (le 8 (symDiff h line j).toNat ++ zeros 4) != ((upsetOf h line j) >>> 64).setWidth 8

/-- The check symbol differs from the XOR of the data symbols. -/
def parityFails (h : Hbm) (line : Nat) : Bool := (List.range 9).foldl (fun x j => x ^^^ symDiff h line j) 0 != 0

/-- Symbols of a line that a decode cannot trust: those that fail their CRC and those on a die marked failed (R260). -/
def badSymbols (h : Hbm) (line : Nat) : List Nat :=
  (List.range 9).filter (fun j => h.failed.getLsbD (dieOfSym line j) || crcFails h line j)

/-- The data of a line as its symbols differ, with symbol k rebuilt from the other eight. -/
def lineDiff (h : Hbm) (line : Nat) (k : Option Nat) : BitVec 512 :=
  let sym (j : Nat) : BitVec 64 :=
    if k = some j then ((List.range 9).filter (· != j)).foldl (fun x i => x ^^^ symDiff h line i) 0 else symDiff h line j
  BitVec.ofNat 512 (ofLe ((List.range 8).flatMap (fun j => le 8 (sym j).toNat)))

/-- No cell of the stack differs from what was written, no tag does, and no die is marked failed. -/
def clean (h : Hbm) : Bool := h.upset.isEmpty && h.tagDiff.isEmpty && h.failed == 0

/-- The decode of a line (R260): the symbol it rebuilds and what then differs still; none where the line is uncorrectable. -/
def decodeLine (h : Hbm) (line : Nat) : Option (Option Nat × BitVec 512) :=
  match badSymbols h line with
  | [] => if parityFails h line then none else some (none, lineDiff h line none)
  | [j] => some (some j, lineDiff h line (some j))
  | _ => none

/-- Whether a line lies in the tagged range, and the line of the tag region that holds its tag, at position `tagPos` (R255, R258). -/
def tagged (line : Nat) : Bool := decide (0xC000000 ≤ line ∧ line < 0xDC00000)
def tagLineOf (line : Nat) : Nat := 0xDC00000 + (line - 0xC000000) / 8
def tagPos (line : Nat) : Nat := line % 8

/-- The tag line of a line cannot be decoded, and is not marked poisoned. -/
def tagBlind (h : Hbm) (line : Nat) : Bool :=
  tagged line && !Map.get false h.poison (tagLineOf line) && (decodeLine h (tagLineOf line)).isNone

/-- The tag stored for a line is the line's own, where its tag line can be read. -/
def tagRight (h : Hbm) (line : Nat) : Bool :=
  Map.get 0 h.tagDiff line == 0 &&
    match decodeLine h (tagLineOf line) with
    | some (_, d) => Map.get false h.poison (tagLineOf line) || fieldLe (le 64 d.toNat) (8 * tagPos line) 8 == 0
    | none => true

/-- The outcome of reading a line of a valid page: as `decodeLine`, with the tag check (R258, R260). -/
def readOutcome (h : Hbm) (line : Nat) : Option (Option Nat × BitVec 512) :=
  if clean h then some (none, 0)
  else
    match decodeLine h line with
    | none => none
    | some (k, d) => if tagged line && (d != 0 || !tagRight h line) then none else some (k, d)

/-- Lines that hold up a read of a line: it, or its tag line, is uncorrectable and not marked poisoned (R261, R263). -/
def blocking (h : Hbm) (line : Nat) : List Nat :=
  if clean h || !lineValid h line || Map.get false h.poison line then []
  else if tagBlind h line then [tagLineOf line]
  else if (readOutcome h line).isNone then [line]
  else []

/-- Lines of a byte range that hold up its read. -/
def blockingRange (h : Hbm) (off n : Nat) : List Nat :=
  if clean h then []
  else (List.range ((off + n + 63) / 64 - off / 64)).flatMap (fun i => blocking h (off / 64 + i))

/-- DRAM die of the first symbol that failed (R274). -/
def firstBadDie (h : Hbm) (line : Nat) : Nat := dieOfSym line ((badSymbols h line).headD 0)

/-- A symbol's row in the correction maps: die, half, bank, row. The k-th symbol of its pseudo-channel in line order (R259). -/
def rowKey (die half bank row : Nat) : Nat := ((die * 2 + half) * 16 + bank) * 32768 + row
def halfOf (line : Nat) : Nat := line / 16 % 2
def symIndex (line j : Nat) : Nat :=
  9 * (line / 32) + ((List.range (line % 16)).filter (fun m => decide ((dieOfSym line j + 16 - m % 16) % 16 < 9))).length
def bankOf (line j : Nat) : Nat := (Config.dramBank (symIndex line j)).toNat
def rowOf (line j : Nat) : Nat := (Config.dramRow (symIndex line j)).toNat
def symRow (line j : Nat) : Nat := rowKey (dieOfSym line j) (halfOf line) (bankOf line j) (rowOf line j)

/-- The stored line: 64 zero bytes while its page's valid bit is clear (R264), else its content as a decode gives it. -/
def stored (h : Hbm) (line : Nat) : BitVec 512 :=
  if Map.get false h.valid (pageOf line) then
    let v := Map.get 0 h.lines line
    match readOutcome h line with
    | some (_, d) => if d = 0 then v else Config.garbledLine line v d
    | none => v
  else 0

/-- A line's bytes merged with an open merge-buffer entry (R266 rule 4). -/
def mergedBytes (h : Hbm) (line : Nat) : Bytes :=
  let base := le 64 (stored h line).toNat
  match h.merge.find? (fun m => m.line == line) with
  | some m => base.mapIdx (fun k b => if m.mask.getLsbD k then Map.get 0 m.bytes k else b)
  | none => base

/-- One byte at a window offset. -/
def byte (h : Hbm) (off : Nat) : Byte := (mergedBytes h (off / 64)).getD (off % 64) 0

/-- n bytes from a window offset. -/
def read (h : Hbm) (off n : Nat) : Bytes := (List.range n).map (fun i => byte h (off + i))

/-- Whether a byte range touches a poisoned line (R261). -/
def poisoned (h : Hbm) (off n : Nat) : Bool :=
  (List.range ((off + n + 63) / 64 - off / 64)).any (fun i => Map.get false h.poison (off / 64 + i))

/-- Set the valid bit of a line's page at its first write and put the page in fill; with 64 pages in fill the oldest fill
completes first (R265). -/
def touch (h : Hbm) (line : Nat) : Hbm :=
  let p := pageOf line
  if Map.get false h.valid p then h
  else
    let fills := if h.fills.length < 64 then h.fills else h.fills.drop 1
    { h with valid := Map.set false h.valid p true, fills := fills ++ [p] }

/-- The nine symbols of a line are as written. -/
def restoreSymbols (h : Hbm) (line : Nat) : Hbm :=
  { h with upset := (List.range 9).foldl (fun m j => Map.set 0 m (16 * line + j) 0) h.upset }

/-- The tag of a line is written: its symbol of the tag line, and the check symbol with it (R258). -/
def writeTag (h : Hbm) (line : Nat) : Hbm :=
  if tagged line then
    let h := touch h (tagLineOf line)
    let k := 16 * tagLineOf line
    { h with
      tagDiff := Map.set 0 h.tagDiff line 0
      upset := Map.set 0 h.upset (k + tagPos line) 0 }
  else h

/-- A full-line write: the symbols and the tag are written, and the line's poison is cleared (R258, R259, R261, R265). -/
def putLine (h : Hbm) (line : Nat) (v : BitVec 512) : Hbm :=
  let h := writeTag (restoreSymbols (touch h line) line) line
  { h with lines := Map.set 0 h.lines line v, poison := Map.set false h.poison line false }

/-- Clear the valid bits, the merge buffer, the poison map and the fill tracker (R264, R272). -/
def clearValid (h : Hbm) : Hbm :=
  { h with lines := [], valid := [], fills := [], merge := [], poison := [], held := [], upset := [], tagDiff := [], keys := none }

end Hbm

def hbmRdLines : Nat := 0x050
def hbmWrLines : Nat := 0x058
def hbmRmw : Nat := 0x060

/-! ### Located corrections and rows (R260, R268) -/

/-- Row-history entry i as MRAM reads it: an uncorrectable one reads as none (R270). -/
def rowEntry (s : State) (i : Nat) : RowHist := if judgeFlip (flipOf s (.rowHist i)) = .bad then {} else Map.get {} s.rowHist i

/-- Row-history entries in use. -/
def rowsUsed (s : State) : Nat := Map.count (fun _ x => x.valid) s.rowHist

/-- Row-history entries of one bank. -/
def rowsOfBank (s : State) (d k half bank : Nat) : Nat :=
  Map.count (fun _ x => x.valid && x.stack == d - 1 && x.die == k && x.half == half && x.bank == bank) s.rowHist

/-- Count one located correction against a die (R260, R274). -/
def countCorrection (s : State) (d k : Nat) : State :=
  let s := evtCount (evtCount s (hbmPage d) 0x040 30 0) (hbmPage d) (0x0A0 + 4 * k) 15 0
  let h := s.stack d
  s.setStack d { h with ceTimes := Map.set [] h.ceTimes k (noteTime (Map.get [] h.ceTimes k) s.tmr.now 64) }

/-- A located correction in a row: the row is retired with a correction in two passes or with 4 in one, on a die not marked
failed; with a full history or no spare row left in the bank the condition is posted once per boot (R268). -/
def countRow (s : State) (d line j : Nat) : State :=
  let h := s.stack d
  let k := Hbm.dieOfSym line j
  if h.failed.getLsbD k then s
  else
    let key := Hbm.symRow line j
    let n := Map.get 0 h.rowNow key + 1
    let s := s.setStack d { h with rowNow := Map.set 0 h.rowNow key n, rowAll := Map.set 0 h.rowAll key (Map.get 0 h.rowAll key + 1) }
    if n < 4 ∧ !Map.get false h.rowOld key then s
    else if 64 ≤ rowsUsed s ∨ Config.spareRows ≤ rowsOfBank s d k (Hbm.halfOf line) (Hbm.bankOf line j) then
      if s.dev.rowsFull then s
      else
        Tal.post { s with dev := { s.dev with rowsFull := true } } {
          code := 0x0007
          die := BitVec.ofNat 8 d
          detail := 2
          data := [BitVec.ofNat 8 (d - 1), BitVec.ofNat 8 k] }
    else if h.retiring.isSome then s
    else s.setStack d { s.stack d with retiring := some (k, Hbm.halfOf line, Hbm.bankOf line j, Hbm.rowOf line j) }

/-- The rows that the history remaps in a stack, which its controller applies after training (R268). -/
def rowMap (s : State) (d : Nat) : Map Nat :=
  (List.range 64).foldl (fun (m : Map Nat) i =>
    let x := rowEntry s i
    if x.valid && x.stack == d - 1 then Map.set 0 m (Hbm.rowKey x.die x.half x.bank x.row) x.spare else m) []

/-- A line that decoded with a rebuilt symbol: the correction is counted against the die and the row, and the line is written back in
corrected form where it touches no failed die (R260, R268). -/
def correctLine (s : State) (d line : Nat) : State :=
  match Hbm.readOutcome (s.stack d) line with
  | some (some j, _) =>
    let h := s.stack d
    let failed := (List.range 9).any (fun i => h.failed.getLsbD (Hbm.dieOfSym line i))
    let s := if failed then s else s.setStack d (Hbm.restoreSymbols h line)
    countRow (countCorrection s d (Hbm.dieOfSym line j)) d line j
  | _ => s

/-- One line is read by a reader, with its tag line: of a page that is not valid nothing is read (R260, R264, R274). A line marked poisoned
returns at once (R261). -/
def readLine (s : State) (d line : Nat) : State :=
  let h := s.stack d
  if !Hbm.lineValid h line then s
  else
    let s := perfCount s (hbmPage d) hbmRdLines 1
    if Map.get false h.poison line || Hbm.clean h then s
    else
      let s := if Hbm.tagged line then correctLine s d (Hbm.tagLineOf line) else s
      correctLine s d line

/-- The lines of a byte range are read. -/
def readLines (s : State) (d off n : Nat) : State :=
  (List.range ((off + n + 63) / 64 - off / 64)).foldl (fun s i => readLine s d (off / 64 + i)) s

/-- A read is held at uncorrectable lines (R261). -/
def holdLines (s : State) (d : Nat) (ls : List Nat) (r : UeReader) : State :=
  let h := s.stack d
  s.setStack d { h with held := h.held ++ ((ls.map (fun l => (l, r))).filter (fun x => !h.held.contains x)).eraseDups }

/-- Complete the merge-buffer entry of a line: a full entry by a full-line write, a partial one by read-modify-write, whose read is
decoded and may be held; on a line that has been poisoned a partial entry is discarded and counted (R261, R266). -/
def completeMerge (s : State) (d line : Nat) : State :=
  let h := s.stack d
  match h.merge.find? (fun m => m.line == line) with
  | none => s
  | some m =>
    if m.mask ≠ BitVec.allOnes 64 ∧ Map.get false h.poison line then
      evtCount (s.setStack d { h with merge := h.merge.filter (fun x => x.line != line) }) (hbmPage d) 0x044 30 0
    else if m.mask ≠ BitVec.allOnes 64 ∧ Hbm.blocking h line ≠ [] then holdLines s d (Hbm.blocking h line) .merge
    else
      let v := Hbm.ofLine (Hbm.mergedBytes h line)
      let s := if m.mask = BitVec.allOnes 64 then s else readLine (perfCount s (hbmPage d) hbmRmw 1) d line
      let h := s.stack d
      perfCount (s.setStack d { Hbm.putLine h line v with merge := h.merge.filter (fun x => x.line != line) }) (hbmPage d) hbmWrLines 1

/-- Complete the oldest merge entry, whose read is not held, when all 32 are in use (R266 rule 3). -/
def makeMergeRoom (s : State) (d : Nat) : State :=
  let h := s.stack d
  if h.merge.length < 32 then s
  else
    match h.merge.find? (fun m => m.mask == BitVec.allOnes 64 || (Hbm.blocking h m.line).isEmpty) with
    | some m => completeMerge s d m.line
    | none => s

/-- Write some bytes of one line: to its merge entry, or to a new one. A partial write to a poisoned line is discarded and
counted (R261, R266). -/
def hbmPartial (s : State) (d line o : Nat) (bs : Bytes) : State :=
  if Map.get false (s.stack d).poison line then evtCount s (hbmPage d) 0x044 30 0
  else
    let open? := (s.stack d).merge.any (fun m => m.line == line)
    let h := Hbm.touch (s.stack d) line
    let put (m : MergeEntry) : MergeEntry :=
      { m with
        bytes := (List.range bs.length).foldl (fun a k => Map.set 0 a (o + k) (bs.getD k 0)) m.bytes
        mask := (List.range bs.length).foldl (fun a k => a ||| BitVec.twoPow 64 (o + k)) m.mask }
    let merge :=
      if open? then h.merge.map (fun m => if m.line = line then put m else m)
      else h.merge ++ [put { line := line, bytes := [], mask := 0 }]
    let s := s.setStack d { h with merge := merge }
    makeMergeRoom (if merge.any (fun m => m.line == line && m.mask == BitVec.allOnes 64) then completeMerge s d line else s) d

/-- The tag region (R255): its lines, and the line whose tag stands at position k of one. -/
def inTagRegion (line : Nat) : Bool := decide (0xDC00000 ≤ line ∧ line < 0xDF80000)
def coveredLine (line k : Nat) : Nat := 0xC000000 + 8 * (line - 0xDC00000) + k

/-- The tag stored for a line: none was written while its page is not valid, or before the controllers have keys. -/
def storedTag (s : State) (d line : Nat) : BitVec 64 :=
  let h := s.stack d
  let own := match h.keys with
    | some k => if Hbm.lineValid h line then Config.lineTag k.hash k.pad (0x1000000000 + (d - 1) * 0x400000000 + 64 * line) (Map.get 0 h.lines line) else 0
    | none => 0
  own ^^^ Map.get 0 h.tagDiff line

/-- The 64 bytes of a line of the tag region. -/
def tagBytes (s : State) (d line : Nat) : Bytes :=
  if Hbm.lineValid (s.stack d) line then (List.range 8).flatMap (fun k => le 8 (storedTag s d (coveredLine line k)).toNat) else zeros 64

/-- Bytes are written over stored tags: those lines' tags are their own no more. -/
def writeTagBytes (s : State) (d line o : Nat) (bs : Bytes) : State :=
  let old := tagBytes s d line
  let new := old.take o ++ bs ++ old.drop (o + bs.length)
  let s := s.setStack d (Hbm.touch (s.stack d) line)
  (List.range 8).foldl (fun s k =>
    if slice old (8 * k) 8 = slice new (8 * k) 8 then s
    else
      let l := coveredLine line k
      let h := s.stack d
      s.setStack d { h with tagDiff := Map.set 0 h.tagDiff l (storedTag s d l ^^^ Map.get 0 h.tagDiff l ^^^ BitVec.ofNat 64 (fieldLe new (8 * k) 8)) }) s

/-- Write one line, in full or in part. -/
def hbmLineWrite (s : State) (d line o : Nat) (bs : Bytes) : State :=
  if inTagRegion line then perfCount (writeTagBytes s d line o bs) (hbmPage d) hbmWrLines 1
  else if o = 0 ∧ bs.length = 64 then
    let h := s.stack d
    let s := s.setStack d { Hbm.putLine h line (Hbm.ofLine bs) with merge := h.merge.filter (fun x => x.line != line) }
    perfCount s (hbmPage d) hbmWrLines 1
  else hbmPartial s d line o bs

/-- Write bytes from a window offset, line by line. `fuel` bounds the lines. -/
def hbmWriteAux (d : Nat) : Nat → State → Nat → Bytes → State
  | 0, s, _, _ => s
  | fuel + 1, s, off, bs =>
    if bs.isEmpty then s
    else
      let k := min bs.length (64 - off % 64)
      hbmWriteAux d fuel (hbmLineWrite s d (off / 64) (off % 64) (bs.take k)) (off + k) (bs.drop k)

def hbmWrite (s : State) (d off : Nat) (bs : Bytes) : State := hbmWriteAux d (bs.length / 64 + 2) s off bs

/-- Read bytes from a window offset: their lines are read. -/
def hbmRead (s : State) (d off n : Nat) : Bytes × State :=
  let h := s.stack d
  let bs :=
    if inTagRegion (off / 64) then (List.range n).map (fun i => byteAt (tagBytes s d ((off + i) / 64)) ((off + i) % 64))
    else Hbm.read h off n
  (bs, readLines s d off n)

/-- Window offsets of the regions (R255). -/
def stagingBase : Nat := 0x300000000
def traceBase : Nat := 0x340000000
def taggedEnd : Nat := 0x370000000
def reserveBase : Nat := 0x37E000000
def hbmEnd : Nat := 0x380000000

/-- Latch HBM_ERR_ADDR at the first poisoned line since its valid bit was cleared (R274). -/
def latchHbmErr (s : State) (d line die ini : Nat) : State :=
  let a := hbmPage d + 0x090
  if (s.reg (a + 4)).getLsbD 31 then s
  else
    let sys := 0x1000000000 + (d - 1) * 0x400000000 + 64 * line
    let s := s.setReg a (BitVec.ofNat 32 sys)
    let s := s.setReg (a + 4) (BitVec.ofNat 32 (2 ^ 31 + sys / 2 ^ 32 % 256 + die * 2 ^ 8 + ini * 2 ^ 12))
    latchErr s (hbmPage d) 0x0004 (sys / 64 % 2 ^ 32)

/-- Poison a line (R261, R274). -/
def poisonLine (s : State) (d line die ini : Nat) : State :=
  let h := s.stack d
  let s := s.setStack d { h with poison := Map.set false h.poison line true }
  latchHbmErr (evtCount s (hbmPage d) 0x044 30 0) d line die ini

end Sys2Proof.Machine
end

