-- ==== Sys2Proof/Machine/Catalog.lean ====
section
/-! DEFINITION. The function catalog (03_payment_functions.md) as admission and dispatch read it: status codes, classes,
input lengths, least output capacities and used handle positions; and the key-role table. -/

set_option linter.unusedVariables false

namespace Sys2Proof.Machine

open Sys2Proof Sys2Proof.Bits

/-- Status codes (R61). -/
abbrev Status := BitVec 16

namespace St
def ok : Status := 0x0000
def badOpcode : Status := 0x0101
def badLength : Status := 0x0102
def badPointer : Status := 0x0103
def badFormat : Status := 0x0104
def keyNotFound : Status := 0x0201
def keyUsage : Status := 0x0202
def keyExpired : Status := 0x0203
def keyNotYetActive : Status := 0x0204
def keyTimeUnknown : Status := 0x0205
def keyUseExhausted : Status := 0x0206
def keySlotDamaged : Status := 0x0207
def velocity : Status := 0x0301
def formatRule : Status := 0x0302
def quorumRequired : Status := 0x0303
def auditFull : Status := 0x0304
def macMismatch : Status := 0x0401
def pinMismatch : Status := 0x0402
def cryptogramMismatch : Status := 0x0403
def signatureInvalid : Status := 0x0404
def tagFail : Status := 0x0405
def operandRange : Status := 0x0501
def pointInvalid : Status := 0x0502
def degenerate : Status := 0x0503
def aborted : Status := 0x0601
def watchdog : Status := 0x0602
def faultAlarm : Status := 0x0603
def partitionFrozen : Status := 0x0701
def notActive : Status := 0x0702
def rngUnavailable : Status := 0x0801
def timeNotValid : Status := 0x0802
def degraded : Status := 0x0803
/-- The statuses of R61. -/
def listed : List Status :=
  [ok, badOpcode, badLength, badPointer, badFormat, keyNotFound, keyUsage, keyExpired, keyNotYetActive, keyTimeUnknown, keyUseExhausted,
    keySlotDamaged, velocity, formatRule, quorumRequired, auditFull, macMismatch, pinMismatch, cryptogramMismatch, signatureInvalid, tagFail,
    operandRange, pointInvalid, degenerate, aborted, watchdog, faultAlarm, partitionFrozen, notActive, rngUnavailable, timeNotValid, degraded]

/-- A status of the key class, whose completion names the handle position in byte 24 (R61). -/
def isKey (s : Status) : Bool := s.toNat / 256 == 2
end St

/-! Names of the algorithm codes (R70). -/
namespace Alg
def tdes2 : Byte := 0x01
def tdes3 : Byte := 0x02
def aes128 : Byte := 0x03
def aes192 : Byte := 0x04
def aes256 : Byte := 0x05
def xts128 : Byte := 0x06
def xts256 : Byte := 0x07
def hmac32 : Byte := 0x08
def hmac64 : Byte := 0x09
def p256 : Byte := 0x10
def p384 : Byte := 0x11
def p521 : Byte := 0x12
def ed25519 : Byte := 0x13
def mlkem768 : Byte := 0x20
def mlkem1024 : Byte := 0x21
def mldsa65 : Byte := 0x30
def mldsa87 : Byte := 0x31
def rsa : Byte := 0x40
def isTdes (a : Byte) : Bool := a == 1 || a == 2
def isAes (a : Byte) : Bool := a == 3 || a == 4 || a == 5
def isHmac (a : Byte) : Bool := a == 8 || a == 9
def isEcc (a : Byte) : Bool := a == 0x10 || a == 0x11 || a == 0x12
def isMlkem (a : Byte) : Bool := a == 0x20 || a == 0x21
def isMldsa (a : Byte) : Bool := a == 0x30 || a == 0x31
/-- Symmetric and HMAC algorithms. -/
def isSym (a : Byte) : Bool := decide (1 ≤ a.toNat ∧ a.toNat ≤ 9)
def isAsym (a : Byte) : Bool := isEcc a || a == 0x13 || isMlkem a || isMldsa a || a == 0x40
def known (a : Byte) : Bool := isSym a || isAsym a
/-- Key bytes of a symmetric or HMAC algorithm. -/
def symLen (a : Byte) : Nat :=
  match a.toNat with
  | 1 => 16 | 2 => 24 | 3 => 16 | 4 => 24 | 5 => 32 | 6 => 32 | 7 => 64 | 8 => 32 | 9 => 64 | _ => 0
/-- Stored key bytes (R201, R231); RSA with modulus bytes k. -/
def keyLen (a : Byte) (k : Nat) : Nat :=
  match a.toNat with
  | 0x10 => 96 | 0x11 => 144 | 0x12 => 216 | 0x13 => 96 | 0x20 => 2400 | 0x21 => 3168 | 0x30 => 5984 | 0x31 => 7488
  | 0x40 => k + 8 + 40 * ((k + 15) / 16) | _ => symLen a
end Alg

/-- Records that a key of `total` bytes takes (R231). -/
def recordsFor (total : Nat) : Nat := if total ≤ 64 then 1 else 1 + (total - 64 + 95) / 96

/-- Two ASCII characters as the usage field holds them, the first in the low byte. -/
def use2 (s : String) : BitVec 16 := BitVec.ofNat 16 (ofLe (ascii s))

/-- One ASCII character. -/
def chr (c : Char) : Byte := BitVec.ofNat 8 c.toNat

/-- Rows of the key-role table (R74). `fmt4` says which PIN formats, none where the caller does not judge the format;
`gen` and `enc` choose the column of the mode. -/
inductive KeyRole where
  | pinIn (fmt4 : Option Bool)
  | pinOut (fmt4 : Option Bool)
  | pvkOffset (gen : Bool)
  | pvkValue (gen : Bool)
  | mac1 (gen : Bool)
  | mac3 (gen : Bool)
  | cmac (gen : Bool)
  | hmac (gen : Bool)
  | bdk
  | imk
  | cvk (gen : Bool)
  | kbpk (import_ : Bool)
  | bulk (enc : Bool)
  | sign
  | agree
deriving DecidableEq, Repr

namespace KeyRole

/-- Usage of the row. -/
def usage : KeyRole → BitVec 16
  | pinIn _ => use2 "P0"
  | pinOut _ => use2 "P0"
  | pvkOffset _ => use2 "V1"
  | pvkValue _ => use2 "V2"
  | mac1 _ => use2 "M1"
  | mac3 _ => use2 "M3"
  | cmac _ => use2 "M6"
  | hmac _ => use2 "M7"
  | bdk => use2 "B0"
  | imk => use2 "E0"
  | cvk _ => use2 "C0"
  | kbpk _ => use2 "K1"
  | bulk _ => use2 "D0"
  | sign => use2 "S0"
  | agree => use2 "K3"

/-- Algorithms for a PIN key: TDES for formats 0, 1 and 3, AES for format 4. -/
def pinAlg (fmt4 : Option Bool) (a : Byte) : Bool :=
  match fmt4 with
  | some true => Alg.isAes a
  | some false => Alg.isTdes a
  | none => Alg.isAes a || Alg.isTdes a

/-- Algorithms of the row. -/
def alg : KeyRole → Byte → Bool
  | pinIn f, a => pinAlg f a
  | pinOut f, a => pinAlg f a
  | pvkOffset _, a => Alg.isTdes a || Alg.isAes a
  | pvkValue _, a => a == Alg.tdes2
  | mac1 _, a => Alg.isTdes a || Alg.isAes a
  | mac3 _, a => Alg.isTdes a
  | cmac _, a => Alg.isAes a
  | hmac _, a => Alg.isHmac a
  | bdk, a => a == Alg.tdes2 || Alg.isAes a
  | imk, a => a == Alg.tdes2
  | cvk _, a => a == Alg.tdes2
  | kbpk _, a => Alg.isTdes a || Alg.isAes a
  | bulk _, a => a == Alg.aes128 || a == Alg.aes256 || a == Alg.xts128 || a == Alg.xts256
  | sign, a => a == Alg.rsa || Alg.isEcc a || a == Alg.ed25519 || Alg.isMldsa a
  | agree, a => Alg.isEcc a || Alg.isMlkem a

/-- Modes of use of the row; N is accepted in every role. -/
def modes : KeyRole → List Char
  | pinIn _ => ['B', 'D']
  | pinOut _ => ['B', 'E']
  | pvkOffset g | pvkValue g | mac1 g | mac3 g | cmac g | hmac g | cvk g => if g then ['C', 'G'] else ['C', 'V']
  | bdk | imk | agree => ['X']
  | kbpk i => if i then ['B', 'D'] else ['B', 'E']
  | bulk e => if e then ['B', 'E'] else ['B', 'D']
  | sign => ['S']

/-- The row accepts a key. -/
def ok (r : KeyRole) (u : BitVec 16) (m a : Byte) : Bool :=
  u == r.usage && r.alg a && (m == chr 'N' || r.modes.any (fun c => chr c == m))

/-- Every row of the table, for the consistency rules of R98 and R224. -/
def all : List KeyRole :=
  [pinIn none, pinOut none, pvkOffset true, pvkOffset false, pvkValue true, pvkValue false, mac1 true, mac1 false,
   mac3 true, mac3 false, cmac true, cmac false, hmac true, hmac false, bdk, imk, cvk true, cvk false, kbpk true,
   kbpk false, bulk true, bulk false, sign, agree]

/-- The roles a key can serve. -/
def rolesOf (u : BitVec 16) (m a : Byte) : List KeyRole := all.filter (fun r => r.ok u m a)

end KeyRole

/-- Function classes by code (R64). -/
def fnClass (fn : Nat) : Nat := fn / 4096

/-- Input lengths a function accepts (R65): exact values, or a lower bound. -/
inductive LenRule where
  | exact (ns : List Nat)
  | atLeast (n : Nat)
deriving DecidableEq, Repr

/-- A row of the catalog: used handle positions, lengths in hardware and in host-assisted mode, least output capacity and
class. -/
structure FnRow where
  fn : Nat
  handles : List Nat
  len : LenRule
  ha : LenRule
  minOut : Nat
  cls : Cls
deriving DecidableEq, Repr

/-- Rows of classes 0x1 to 0x7 (R85, R89, R93, R97, R100, R103, R105). -/
def fnRows : List FnRow := [
  ⟨0x1001, [0, 1], .exact [34], .exact [34], 8, .transaction⟩,
  ⟨0x1002, [0, 1], .exact [47], .exact [47], 8, .transaction⟩,
  ⟨0x1003, [0, 1], .exact [41], .exact [49], 0, .transaction⟩,
  ⟨0x1004, [0, 1], .exact [36], .exact [42], 0, .transaction⟩,
  ⟨0x1005, [0, 1], .exact [35], .exact [43], 0, .transaction⟩,
  ⟨0x1006, [0, 1], .exact [34], .exact [40], 0, .transaction⟩,
  ⟨0x2001, [0], .atLeast 4, .atLeast 4, 0, .transaction⟩,
  ⟨0x2002, [0], .atLeast 12, .atLeast 12, 0, .transaction⟩,
  ⟨0x2003, [0], .atLeast 20, .atLeast 20, 0, .transaction⟩,
  ⟨0x2004, [0], .atLeast 28, .atLeast 28, 0, .transaction⟩,
  ⟨0x3001, [0], .atLeast 40, .atLeast 40, 0, .transaction⟩,
  ⟨0x3003, [0], .exact [16], .exact [16], 0, .transaction⟩,
  ⟨0x3004, [0], .exact [16], .exact [16], 0, .transaction⟩,
  ⟨0x4001, [0], .atLeast 50, .atLeast 50, 0, .transaction⟩,
  ⟨0x4002, [0, 1], .exact [4], .exact [4], 16, .transaction⟩,
  ⟨0x4003, [0], .exact [32], .exact [32], 0, .transaction⟩,
  ⟨0x4004, [0], .exact [0], .exact [0], 0, .transaction⟩,
  ⟨0x4005, [0, 1], .exact [12], .exact [12], 16, .transaction⟩,
  ⟨0x4006, [0], .exact [0], .exact [0], 0, .transaction⟩,
  ⟨0x5001, [0], .atLeast 4, .atLeast 4, 32, .transaction⟩,
  ⟨0x5002, [], .atLeast 8, .atLeast 8, 0, .transaction⟩,
  ⟨0x5003, [0], .atLeast 4, .atLeast 4, 64, .transaction⟩,
  ⟨0x5004, [], .atLeast 4, .atLeast 4, 0, .transaction⟩,
  ⟨0x5005, [0], .atLeast 0, .atLeast 0, 64, .transaction⟩,
  ⟨0x5006, [], .atLeast 96, .atLeast 96, 0, .transaction⟩,
  ⟨0x5007, [0], .atLeast 100, .atLeast 100, 0, .transaction⟩,
  ⟨0x5008, [], .exact [1217, 1601], .exact [1217, 1601], 1088, .transaction⟩,
  ⟨0x5009, [0], .exact [1120, 1600], .exact [1120, 1600], 0, .transaction⟩,
  ⟨0x500A, [0], .atLeast 1, .atLeast 65, 3309, .transaction⟩,
  ⟨0x500B, [], .atLeast 4, .atLeast 4, 0, .transaction⟩,
  ⟨0x500C, [], .exact [38], .exact [38], 32, .long⟩,
  ⟨0x6001, [0], .exact [72], .exact [72], 0, .bulk⟩,
  ⟨0x6002, [0], .exact [72], .exact [72], 0, .bulk⟩,
  ⟨0x6003, [0], .exact [72], .exact [88, 90, 94], 0, .bulk⟩,
  ⟨0x6004, [0], .exact [72], .exact [88, 90, 94], 0, .bulk⟩,
  ⟨0x6005, [0], .exact [72], .exact [72], 0, .bulk⟩,
  ⟨0x6006, [0], .exact [72], .exact [72], 0, .bulk⟩,
  ⟨0x7001, [], .exact [2], .exact [2], 1, .transaction⟩,
  ⟨0x7002, [], .atLeast 4, .atLeast 76, 28, .transaction⟩,
  ⟨0x7003, [0], .atLeast 4, .atLeast 4, 4, .transaction⟩,
  ⟨0x7004, [0], .atLeast 68, .atLeast 68, 0, .transaction⟩]

/-- Rows of class 0xE: the length of the fixed fields (R106). -/
def adminRows : List FnRow :=
  [(0xE001, 32), (0xE002, 3), (0xE003, 3), (0xE004, 2), (0xE005, 24), (0xE006, 24), (0xE010, 3), (0xE011, 12),
   (0xE012, 16), (0xE013, 48), (0xE020, 8), (0xE021, 8), (0xE022, 4), (0xE030, 16), (0xE040, 16), (0xE041, 8),
   (0xE050, 32), (0xE051, 68), (0xE060, 32)].map
    (fun x => ⟨x.1, if x.1 = 0xE013 then [0] else [], .atLeast x.2, .atLeast x.2, 0, .long⟩)

/-- The row of a function code, none when the code is undefined (R64). -/
def fnRow (fn : Nat) : Option FnRow := (fnRows ++ adminRows).find? (fun r => r.fn == fn)

/-- Whether an input length satisfies a rule. -/
def LenRule.ok (r : LenRule) (n : Nat) : Bool :=
  match r with
  | .exact ns => ns.contains n
  | .atLeast m => decide (m ≤ n)

/-- Functions that post a tally entry: class 0x4, every function that creates a record, and class 0xE (R72). -/
def fnAudited (fn : Nat) : Bool :=
  fnClass fn == 4 || fnClass fn == 0xE || fn == 0x5007 || fn == 0x5008 || fn == 0x5009 || fn == 0x500C

/-- Functions whose private operation may be RSA (R73). -/
def isRsaPrivate (fn : Nat) : Bool := fn == 0x5001

/-! ### Handles (R46) -/

def handlePart (h : BitVec 64) : Nat := h.toNat / 2 ^ 53
def handleIdx (h : BitVec 64) : Nat := h.toNat / 2 ^ 24 % 2 ^ 29
def handleTag (h : BitVec 64) : Nat := h.toNat % 2 ^ 24
def mkHandle (p idx tag : Nat) : BitVec 64 := BitVec.ofNat 64 (p * 2 ^ 53 + idx * 2 ^ 24 + tag)

/-- Handle at a position of a descriptor. -/
def Desc.handle (d : Desc) (pos : Nat) : BitVec 64 := d.handles.getD pos 0

/-- Where record idx of a partition lies: the die of its stack and the record's place in the stack (R230). -/
def recLoc (x : Part) (idx : Nat) : Option (Nat × Nat) :=
  if idx < x.n0 then some (1, x.base0 + idx)
  else if idx < x.n0 + x.n1 then some (2, x.base1 + (idx - x.n0))
  else none

end Sys2Proof.Machine
end

