-- ==== Sys2Proof/Machine/SlotSeal.lean ====
section
/-! DEFINITION. The measurement registers, and the wrapping of a slot: its keys, its copies and its MACs (09_granary.md R216 to
R220). -/

set_option linter.unusedVariables false

namespace Sys2Proof.Machine

open Sys2Proof Sys2Proof.Bits

/-- Root bytes (R213). -/
def rootBytes (s : State) : Bytes := be 64 (s.grn.rootV ^^^ s.grn.rootM).toNat

/-! ### Measurements (R216) -/

/-- A 48-byte digest as a register holds it, byte 0 in bits [7:0], and back. -/
def digest384 (bs : Bytes) : BitVec 384 := BitVec.ofNat 384 (ofLe bs)
def digestBytes (d : BitVec 384) : Bytes := le 48 d.toNat

def State.meas (s : State) (i : Nat) : BitVec 384 := Map.get 0 s.grn.meas i

/-- MEAS_i := SHA-384(MEAS_i ‖ d), until the measurements are frozen. -/
def extendMeas (s : State) (i : Nat) (d : Bytes) : State :=
  if s.grn.frozen then s
  else
    let v := digest384 (Hash.sha384 (digestBytes (s.meas i) ++ d))
    { s with grn := { s.grn with meas := Map.set 0 s.grn.meas i v } }

/-- The selected registers of a measurement set, concatenated in ascending order. -/
def selected (m : Nat → BitVec 384) (sel : Byte) : Bytes :=
  ((List.range 8).filter (fun i => sel.getLsbD i)).flatMap (fun i => digestBytes (m i))

/-- Measurement check of a set. -/
def measCheck (m : Nat → BitVec 384) (sel : Byte) : BitVec 64 := BitVec.ofNat 64 (ofLe ((Hash.sha384 (selected m sel)).take 8))

/-- The values that the pending manifest declares, with the current ones of the unchanged registers (R227). -/
def declaredMeas (s : State) (i : Nat) : BitVec 384 :=
  if s.grn.changed.getLsbD i then Map.get 0 s.grn.declared i else s.meas i

/-! ### Keys of a copy (R217, R220) -/

/-- The 64 derived bytes of a copy: K_enc and K_mac. -/
def slotKdf (s : State) (m : Nat → BitVec 384) (idx : Nat) (sel : Byte) (epoch : Word) : Bytes :=
  Hash.kdfCounter .sha384 (rootBytes s) (ascii "TK4820 GRANARY SLOT")
    (Tal.serialBytes ++ [sel] ++ selected m sel ++ be 2 idx ++ be 4 epoch.toNat) 64

def kEnc (k : Bytes) : Bytes := k.take 32
def kMac (k : Bytes) : Bytes := k.drop 32

/-- Counter mode over the 80 bytes of a wrapped key; it is its own inverse. -/
def slotCtr (k : Bytes) (idx : Nat) (epoch : Word) (copy : Nat) (data : Bytes) : Bytes :=
  Cipher.ctr (kEnc k) (be 2 idx ++ be 4 epoch.toNat ++ [BitVec.ofNat 8 copy] ++ zeros 9) 4 (fit 80 data)

/-- Bytes 0 to 15 of a copy (R219). -/
def copyHead (c : SlotCopy) : Bytes :=
  [BitVec.ofNat 8 c.state, c.sel, 0, 0] ++ le 4 c.epoch.toNat ++ le 8 c.mcheck.toNat

/-- The wrapped key of a copy: share A XOR share B. -/
def copyC (c : SlotCopy) : Bytes := le 80 (c.shareA ^^^ c.shareB).toNat

/-- Copy MAC (R220). -/
def copyMac (k : Bytes) (idx : Nat) (c : SlotCopy) : BitVec 64 :=
  BitVec.ofNat 64 (ofLe ((Hash.hmac .sha384 (kMac k) (le 2 idx ++ copyHead c ++ copyC c)).take 8))

/-- Header bytes 0 to 55 (R219). -/
def slotHead (x : Slot) : Bytes :=
  le 2 x.format.toNat ++ [x.owner, 0] ++ le 2 x.part ++ [x.prot, x.alg] ++ le 2 x.usage.toNat ++
    [x.mode, x.exp, x.pol, BitVec.ofNat 8 x.klen] ++ le 2 x.period ++ le 4 x.limit ++ le 2 x.ctr ++ zeros 2 ++
    le 8 x.nb.toNat ++ le 8 x.na.toNat ++ le 4 (x.pubIdx + b2n x.pub * 2 ^ 31) ++ le 4 x.pubTag ++
    le 4 x.high.toNat ++ zeros 4

/-- Header MAC under the K_mac of a copy. -/
def headMac (k : Bytes) (idx : Nat) (x : Slot) : BitVec 64 :=
  BitVec.ofNat 64 (ofLe ((Hash.hmac .sha384 (kMac k) (le 2 idx ++ slotHead x)).take 8))

/-- The slot is in integrity mode, in re-mask mode, expires at the next reset (R222). -/
def Slot.integrity (x : Slot) : Bool := x.prot.getLsbD 1
def Slot.remask (x : Slot) : Bool := x.prot.getLsbD 0
def Slot.expires (x : Slot) : Bool := x.prot.getLsbD 2
/-- The slot holds a key. -/
def Slot.live (x : Slot) : Bool := x.format != 0

def Slot.copy (x : Slot) (n : Nat) : SlotCopy := if n = 0 then x.copy0 else x.copy1
def Slot.setCopy (x : Slot) (n : Nat) (c : SlotCopy) : Slot := if n = 0 then { x with copy0 := c } else { x with copy1 := c }

/-- Derived bytes of a slot's copy under a measurement set. -/
def copyKey (s : State) (m : Nat → BitVec 384) (idx : Nat) (c : SlotCopy) : Bytes := slotKdf s m idx c.sel c.epoch

/-- Write a copy: the epoch high-water rises first, then the copy is written with the new epoch and a fresh Mk. None when the
epoch has stuck (R220). -/
def writeCopy (s : State) (m : Nat → BitVec 384) (idx n state : Nat) (sel : Byte) (key : Bytes) : Option State :=
  let x := s.slotAt idx
  if x.high = 0xFFFFFFFF then none
  else
    let e := x.high + 1
    let (mk, s) := s.draw 640
    let c : SlotCopy := { state := state, sel := sel, epoch := e, mcheck := measCheck m sel }
    let k := slotKdf s m idx sel e
    let w := BitVec.ofNat 640 (ofLe (slotCtr k idx e n key))
    let c := { c with shareA := w ^^^ mk, shareB := mk }
    let c := if x.integrity then { c with mac := copyMac k idx c } else c
    some (s.setSlot idx ({ x with high := e }.setCopy n c))

/-- Rewrite row 0 with a header MAC under the serving copy's K_mac, in integrity mode. -/
def sealHead (s : State) (idx : Nat) : State :=
  let x := s.slotAt idx
  if x.integrity ∧ x.serve ≠ 0 then
    s.setSlot idx { x with hmac := headMac (copyKey s s.meas idx (x.copy (x.serve - 1))) idx x }
  else s

end Sys2Proof.Machine
end

