-- ==== Sys2Proof/Machine/KeyOps.lean ====
section
/-! DEFINITION. Key records, unwrap caches, buckets and use counters (05_transaction_units.md, "The unwrap cache"; 09_granary.md,
"Key records" and "Buckets and the policy unit"; R62 to R78). -/

set_option linter.unusedVariables false

namespace Sys2Proof.Machine

open Sys2Proof Sys2Proof.Bits

/-! ### Buckets (R75 to R77, R235, R236) -/

/-- One token, Q16.16. -/
def oneToken : Nat := 0x10000

/-- The bucket of a partition and fingerprint. -/
def findBucket (s : State) (p : Nat) (fp : BitVec 64) : Option Nat :=
  (s.grn.buckets.find? (fun x => x.2.on && x.2.part == p && x.2.fp == fp)).map (·.1)

/-- A refill event of bucket i (R75). While network time is not valid it adds nothing (R77); the policy's capacity caps
the tokens. -/
def refillBucket (s : State) (i : Nat) : State :=
  let b := s.bucket i
  let pol := s.velPol b.part b.pol
  let now := s.time.ntime
  if !s.time.valid ∨ now < b.last then s.setBucket i { b with tokens := min pol.cap b.tokens }
  else s.setBucket i { b with tokens := min pol.cap (b.tokens + pol.rate * (now - b.last) / second), last := now }

/-- At the first valid network time, `last` of every bucket becomes that value (R77, R236). -/
def bucketsTimeValid (s : State) : State :=
  { s with grn := { s.grn with
    buckets := Map.mapVals {} (fun _ b => if b.on then { b with last := s.time.ntime, lastOpen := false } else b) s.grn.buckets } }

/-- Key-record bytes of the live first records of a partition, with their record indices (R231). -/
def liveRecords (s : State) (p : Nat) : List (Nat × Bytes) :=
  let x := s.part p
  let ext (d base n off : Nat) : List (Nat × Bytes) :=
    (s.stack d).lines.filterMap (fun l =>
      let i := l.1 / 2
      if l.1 % 2 = 0 ∧ base ≤ i ∧ i < base + n then
        let b := Hbm.read (s.stack d) (128 * i) 128
        if byteAt b 2 = 1 then some (i - base + off, b) else none
      else none)
  ext 1 x.base0 x.n0 0 ++ ext 2 x.base1 x.n1 x.n0

/-- A live record of the partition references the bucket of a fingerprint. -/
def bucketLive (s : State) (p : Nat) (fp : BitVec 64) : Bool :=
  (liveRecords s p).any (fun r => byteAt r.2 12 != 0xFF && fieldLe r.2 32 8 == fp.toNat)

/-- Refill a bucket that no live record references, and free it when it then holds its capacity (R235). -/
def settleBucket (s : State) (i : Nat) : State :=
  let s := refillBucket s i
  let b := s.bucket i
  if b.tokens = (s.velPol b.part b.pol).cap then s.setBucket i {} else s

/-- Refill events of every bucket of a partition that no live record references. -/
def settleUnused (s : State) (p : Nat) : State :=
  (Map.keysWhere (fun _ b => b.on && b.part == p) s.grn.buckets).foldl
    (fun s i => if bucketLive s p (s.bucket i).fp then s else settleBucket s i) s

/-- Copy a bucket to its MRAM entry (R235). -/
def snapBucket (s : State) (i : Nat) : State :=
  { s with grn := { s.grn with snap := Map.set {} s.grn.snap i (s.bucket i) } }

/-- Room for a new bucket: the partition's quota and the pool of 16,384. -/
def bucketRoom (s : State) (p : Nat) : Bool :=
  decide (Map.count (fun _ b => b.on && b.part == p) s.grn.buckets < (s.part p).bucketQuota) &&
    decide (Map.count (fun _ b => b.on) s.grn.buckets < 16384)

/-- Create a bucket with the policy's initial fill (R76): whether one was to be had, and the state with the refill events of a
creation that found no room (R235). -/
def newBucket (s : State) (p k : Nat) (fp : BitVec 64) : Bool × State :=
  let s := if bucketRoom s p then s else settleUnused s p
  if bucketRoom s p then
    match Map.findFrom {} s.grn.buckets (fun b => !b.on) (s.grn.buckets.length + 1) 0 with
    | some i =>
      let s := s.setBucket i {
        on := true
        part := p
        pol := k
        fp := fp
        tokens := (s.velPol p k).init
        last := s.time.ntime
        lastOpen := !s.time.valid }
      (true, snapBucket s i)
    | none => (false, s)
  else (false, s)

/-! ### Use counters (R225) -/

/-- The mark in force: the highest of the 64 words. -/
def ctrMark (c : UseCtr) : Nat := c.marks.foldl (fun m x => max m x.2.toNat) 0

/-- Write a mark into the next word of the rotation. -/
def writeMark (c : UseCtr) (v : Nat) : UseCtr :=
  { c with marks := Map.set 0 c.marks c.next (BitVec.ofNat 32 v), next := (c.next + 1) % 64 }

/-- Count one use; reaching the mark in force writes the next mark. -/
def bumpCounter (s : State) (i : Nat) : State :=
  let c := s.useCtr i
  let c := { c with live := c.live + 1 }
  let c := if ctrMark c ≤ c.live then writeMark c (min (ctrMark c + 256) c.limit) else c
  s.setUseCtr i c

/-! ### Key records (R230 to R232) -/

/-- Attributes of a first record's bytes. -/
def recAttrs (b : Bytes) : Key where
  part := fieldLe b 0 2 % 2048
  idx := fieldLe b 40 4 % 2 ^ 29
  tag := fieldLe b 4 3
  alg := byteAt b 3
  usage := BitVec.ofNat 16 (fieldLe b 8 2)
  mode := byteAt b 10
  exp := byteAt b 11
  pol := byteAt b 12
  slotRef := fieldLe b 14 2
  nb := fieldLe b 16 8
  na := fieldLe b 24 8
  fp := BitVec.ofNat 64 (fieldLe b 32 8)

/-- The 128 stored bytes of record idx of partition p; zero outside its allocation. -/
def recBytes (s : State) (p idx : Nat) : Bytes :=
  match recLoc (s.part p) idx with
  | some (d, i) => Hbm.read (s.stack d) (128 * i) 128
  | none => zeros 128

/-- A record's lines are poisoned. -/
def recPoisoned (s : State) (p idx : Nat) : Bool :=
  match recLoc (s.part p) idx with
  | some (d, i) => Hbm.poisoned (s.stack d) (128 * i) 128
  | none => false

/-- Lines that hold up the read of a record, with their stack (R261). -/
def recUnread (s : State) (p idx : Nat) : List (Nat × Nat) :=
  match recLoc (s.part p) idx with
  | some (d, i) => (Hbm.blockingRange (s.stack d) (128 * i) 128).map (fun l => (d, l))
  | none => []

/-- A record is read: its lines are decoded (R260). -/
def readRecord (s : State) (p idx : Nat) : State :=
  match recLoc (s.part p) idx with
  | some (d, i) => readLines s d (128 * i) 128
  | none => s

/-- Record indices of the key whose first record is idx (R231). -/
def keyRecords (s : State) (p idx : Nat) : List Nat :=
  (List.range (max 1 (byteAt (recBytes s p idx) 7).toNat)).map (idx + ·)

/-- A context as the reader of a line. -/
def ctxReader (n : Nat) : UeReader := .context ⟨n % 2048, Nat.mod_lt _ (by decide)⟩

/-- Reads are held at lines of either stack. -/
def holdReads (s : State) (ls : List (Nat × Nat)) (r : UeReader) : State := ls.foldl (fun s x => holdLines s x.1 [x.2] r) s

/-- The stack that holds a record is out of service. -/
def recLost (s : State) (p idx : Nat) : Bool :=
  match recLoc (s.part p) idx with
  | some (d, _) => if d = 1 then !s.dev.f0 else !s.dev.f1
  | none => false

/-- Write the 128 bytes of a record. A poisoned record stays unusable until the next boot (R263). -/
def putRecord (s : State) (p idx : Nat) (b : Bytes) : State :=
  match recLoc (s.part p) idx with
  | some (d, i) => if recPoisoned s p idx then s else hbmWrite s d (128 * i) (fit 128 b)
  | none => s

/-- The per-boot record key as bytes (R234); none before it is drawn. -/
def recordKey (s : State) : Option Bytes := s.grn.recKey.map ofBlock

/-- AES-CMAC tag of bytes 0 to 111 of a record (R231). -/
def recTag (key b : Bytes) : Bytes := Cipher.cmac .aes key (b.take 112)

/-- Seal a record: encrypt its key bytes from offset o and append the tag. -/
def sealRecord (key head keyBytes : Bytes) : Bytes :=
  let b := head ++ Cipher.cbcEnc .aes key (head.take 16) keyBytes
  b ++ recTag key b

/-- The tag of a stored record verifies. -/
def recVerifies (key b : Bytes) : Bool := recTag key b == slice b 112 16

/-- Key bytes of a first record (48 to 111), or of a continuation record (16 to 111). -/
def openFirst (key b : Bytes) : Bytes := Cipher.cbcDec .aes key (b.take 16) (slice b 48 64)
def openCont (key b : Bytes) : Bytes := Cipher.cbcDec .aes key (b.take 16) (slice b 16 96)

/-- All key bytes of the key whose first record is idx, when each of its records verifies. -/
def openKey (s : State) (key : Bytes) (p idx : Nat) : Option Bytes :=
  let b := recBytes s p idx
  let n := (byteAt b 7).toNat
  let total := fieldLe b 44 4
  let conts := (List.range (n - 1)).map (fun j => recBytes s p (idx + 1 + j))
  if recVerifies key b ∧ conts.all (fun c => recVerifies key c) then
    some ((openFirst key b ++ conts.flatMap (openCont key)).take total)
  else none

/-- A record whose creation is not yet visible: its index is reserved by a request in flight, and its handle has not
been written to host memory (R70). -/
def recHidden (s : State) (p idx : Nat) : Bool :=
  s.entries.any (fun x => x.2.func == p + 1 &&
    match x.2.recResv with
    | some (i, n) => decide (i ≤ idx ∧ idx < i + n)
    | none => false)

/-- Fingerprint of a key (R217, R235). -/
def fingerprint (s : State) (alg : Byte) (key : Bytes) : BitVec 64 :=
  let fk := Hash.kdfCounter .sha384 (rootBytes s) (ascii "TK4820 GRANARY FPRINT") Tal.serialBytes 32
  BitVec.ofNat 64 (ofLe ((Hash.hmac .sha384 fk (alg :: key)).take 8))

/-- What a record's creation takes from its template or its slot (R70, R232). -/
structure RecSpec where
  idx : Nat
  alg : Byte
  usage : BitVec 16
  mode : Byte
  exp : Byte
  pol : Byte
  slotRef : Nat := 0xFFFF
  nb : Nat := 0
  na : Nat := 0
deriving DecidableEq, Repr

/-- Bucket of a new record (R235): the policy byte the record takes, none where no bucket can be had, which is VELOCITY, and the state
with the bucket. -/
def bindBucket (s : State) (p : Nat) (r : RecSpec) (fp : BitVec 64) : Option Byte × State :=
  let isV := r.usage == use2 "V1" || r.usage == use2 "V2"
  let pol : Byte := if r.pol = 0xFF ∧ isV ∧ (s.velPol p 0).on ∧ (s.velPol p 0).cap ≠ 0 then 0 else r.pol
  if pol = 0xFF then (some 0xFF, s)
  else
    match findBucket s p fp with
    | some i => (some (BitVec.ofNat 8 (s.bucket i).pol), s)
    | none =>
      let n := newBucket s p pol.toNat fp
      (if n.1 then some pol else none, n.2)

/-- First record's first 48 bytes (R231). -/
def recHead (p : Nat) (r : RecSpec) (pol : Byte) (tag n total : Nat) (fp : BitVec 64) : Bytes :=
  le 2 p ++ [1, r.alg] ++ le 3 tag ++ [BitVec.ofNat 8 n] ++ le 2 r.usage.toNat ++ [r.mode, r.exp, pol, 0] ++
    le 2 r.slotRef ++ le 8 r.nb ++ le 8 r.na ++ le 8 fp.toNat ++ le 4 r.idx ++ le 4 total

/-- First 16 bytes of continuation record k. -/
def contHead (p : Nat) (r : RecSpec) (tag k : Nat) : Bytes :=
  le 2 p ++ [2, r.alg] ++ le 3 tag ++ [BitVec.ofNat 8 k] ++ le 4 (r.idx + k) ++ zeros 4

/-- Write all records of a key under a given check tag. -/
def putKey (s : State) (p : Nat) (r : RecSpec) (pol : Byte) (tag : Nat) (fp : BitVec 64) (key : Bytes) : State :=
  match recordKey s with
  | none => s
  | some rk =>
    let n := recordsFor key.length
    let s := putRecord s p r.idx (sealRecord rk (recHead p r pol tag n key.length fp) (fit 64 key))
    (List.range (n - 1)).foldl (fun s k =>
      putRecord s p (r.idx + 1 + k) (sealRecord rk (contHead p r tag (k + 1)) (slice key (64 + 96 * k) 96))) s

/-- The check tag of a new record: previous tag + 1 + r mod 2^24 with r drawn from the Keep DRBG (R232). -/
def drawTag (s : State) (p idx : Nat) : Nat × State :=
  let (r, s) := drbgGen s 8 2
  ((fieldLe (recBytes s p idx) 4 3 + 1 + ofLe r) % 2 ^ 24, s)

/-- Empty a record: every byte zero but the check tag (R231, R232). -/
def emptyRecord (s : State) (p idx : Nat) : State :=
  putRecord s p idx (zeros 4 ++ slice (recBytes s p idx) 4 3 ++ zeros 121)

/-- System address of a record's first byte (R255). -/
def recAddr (s : State) (p idx : Nat) : Nat :=
  match recLoc (s.part p) idx with
  | some (d, i) => hbmBase d + 128 * i
  | none => 0

/-- Whether the gate of a record's stack passes an access of a class to it (R340, R341). -/
def recGate (s : State) (c : InitClass) (p idx : Nat) (write : Bool) : Bool := gateAllows s c (recAddr s p idx) write

/-- The record writer of class c: make a key's records at an index already reserved (R215, R232, R235). Answers the status, the new
handle and the state. A gate that denies one of its writes ends the request with FAULT_ALARM (R340, R347). -/
def createRecord (s : State) (c : InitClass) (p : Nat) (r : RecSpec) (key : Bytes) : Status × BitVec 64 × State :=
  if !s.grn.present then (St.degraded, 0, s)
  else
    match (List.range (recordsFor key.length)).find? (fun k => !recGate s c p (r.idx + k) true) with
    | some k => (St.faultAlarm, 0, recordDenial s c (recAddr s p (r.idx + k)) true)
    | none =>
      let fp := fingerprint s r.alg key
      match bindBucket s p r fp with
      | (none, s) => (St.velocity, 0, s)
      | (some pol, s) =>
        let (tag, s) := drawTag s p r.idx
        let s := putKey s p r pol tag fp key
        (St.ok, mkHandle p r.idx tag, s)

/-- Every index of [idx, idx + n) lies in one extent of the partition, is empty and is reserved by no request in flight
other than entry e, and none is poisoned (R70, R230, R263). -/
def indicesFree (s : State) (e p idx n : Nat) : Bool :=
  let x := s.part p
  let oneExtent := decide (idx + n ≤ x.n0) || decide (x.n0 ≤ idx ∧ idx + n ≤ x.n0 + x.n1)
  oneExtent && (List.range n).all (fun k =>
    byteAt (recBytes s p (idx + k)) 2 == 0 && !recPoisoned s p (idx + k) &&
      !(s.entries.any (fun y => y.1 != e && y.2.func == p + 1 &&
        match y.2.recResv with
        | some (i, m) => decide (i ≤ idx + k ∧ idx + k < i + m)
        | none => false)))

/-- Reserve indices for request e. -/
def reserveIndices (s : State) (e p idx n : Nat) : Option State :=
  if indicesFree s e p idx n then some (s.modEntry e (fun x => { x with recResv := some (idx, n) })) else none

/-! ### Record templates (R70) -/

/-- Every byte is an ASCII character. -/
def isAscii (b : Bytes) : Bool := b.all (fun x => decide (x.toNat < 128))

/-- A template's stated ranges: index bits, algorithm, the ASCII fields, exportability, policy set in the partition, reserved bytes. -/
def templateOk (s : State) (p : Nat) (t : Bytes) : Bool :=
  decide (fieldLe t 0 4 < 2 ^ 29) && Alg.known (byteAt t 4) && isAscii (slice t 5 3) &&
    (byteAt t 8 == chr 'E' || byteAt t 8 == chr 'N' || byteAt t 8 == chr 'S') &&
    (byteAt t 9 == 0xFF || (decide ((byteAt t 9).toNat < 16) && (s.velPol p (byteAt t 9).toNat).on)) &&
    allZero (slice t 10 6)

/-- The record a template asks for. -/
def templateSpec (t : Bytes) : RecSpec where
  idx := fieldLe t 0 4 % 2 ^ 29
  alg := byteAt t 4
  usage := BitVec.ofNat 16 (fieldLe t 5 2)
  mode := byteAt t 7
  exp := byteAt t 8
  pol := byteAt t 9
  nb := fieldLe t 16 8
  na := fieldLe t 24 8

/-! ### Unwrap caches (R145 to R150) -/

def brnUwcHit : Nat := 0x040
def brnUwcMiss : Nat := 0x048
def brnUwcEvict : Nat := 0x050
def brnUwcDeclined : Nat := 0x058

/-- First index of a set in the map of all caches. -/
def uwcSet (s : State) (barn p idx : Nat) : Nat :=
  65536 * barn + 16 * (Config.uwcSetHash s.grn.uwcKey p idx % 4096)

def State.uwcAt (s : State) (i : Nat) : UwcEntry := Map.get {} s.uwc i
def State.setUwc (s : State) (i : Nat) (x : UwcEntry) : State := { s with uwc := Map.set {} s.uwc i x }

/-- The entry of one half of a handle's key in a barn. -/
def uwcFind (s : State) (barn p idx tag half : Nat) : Option Nat :=
  ((List.range 16).map (fun w => uwcSet s barn p idx + w)).find? (fun i =>
    let x := s.uwcAt i
    x.valid && x.part == p && x.idx == idx && x.tag == tag && x.half == half)

/-- The key of a cache entry: share A XOR share B. -/
def uwcKeyBytes (x : UwcEntry) : Bytes := (le 32 (x.shareA ^^^ x.shareB).toNat).take x.klen

/-- Entries of least age first choice: the least recently used way among those that satisfy p. -/
def uwcLru (s : State) (ways : List Nat) (p : UwcEntry → Bool) : Option Nat :=
  (ways.filter (fun i => p (s.uwcAt i))).foldl (fun best i =>
    match best with
    | none => some i
    | some b => if (s.uwcAt i).age < (s.uwcAt b).age then some i else some b) none

/-- Ways of a set that a partition holds. -/
def uwcHeld (s : State) (ways : List Nat) (p : Nat) : Nat :=
  (ways.filter (fun i => (s.uwcAt i).valid && (s.uwcAt i).part == p)).length

/-- The way for a fill by partition p (R149): the way and whether it evicts. -/
def uwcWay (s : State) (barn p idx : Nat) : Option (Nat × Bool) :=
  let ways := (List.range 16).map (fun w => uwcSet s barn p idx + w)
  let mine (x : UwcEntry) : Bool := x.valid && x.part == p
  match ways.find? (fun i => !(s.uwcAt i).valid) with
  | some i => some (i, false)
  | none =>
    if (s.part p).uwcQuota = 0 then none
    else
      let pick :=
        if (s.part p).uwcQuota ≤ uwcHeld s ways p then uwcLru s ways mine
        else
          match uwcLru s ways (fun x => x.valid && decide ((s.part x.part).uwcQuota < uwcHeld s ways x.part)) with
          | some i => some i
          | none => uwcLru s ways mine
      pick.map (fun i => (i, true))

/-- Use order of the next access. -/
def uwcTick (s : State) : Nat × State := (s.uwcAge + 1, { s with uwcAge := s.uwcAge + 1 })

/-- Place one entry; a fill that finds no way is counted as declined (R148, R149). -/
def uwcPlace (s : State) (barn : Nat) (x : UwcEntry) (bytes : Bytes) : State :=
  match uwcWay s barn x.part x.idx with
  | none => perfCount s (barnPage barn) brnUwcDeclined 1
  | some (i, evict) =>
    let s := if evict then perfCount s (barnPage barn) brnUwcEvict 1 else s
    let (age, s) := uwcTick s
    let (m, s) := s.draw 256
    s.setUwc i { x with
      valid := true
      shareA := BitVec.ofNat 256 (ofLe bytes) ^^^ m
      shareB := m
      klen := min 32 bytes.length
      age := age }

/-- Where the last barn of a Field die to unwrap a handle is noted. -/
def unwrapKey (d : Nat) (h : BitVec 64) : Nat := 2 ^ 64 * (d - 1) + h.toNat

/-- A barn has unwrapped a key: the dispatcher's affinity follows it (R115). -/
def noteUnwrap (s : State) (barn : Nat) (h : BitVec 64) : State :=
  { s with sched := { s.sched with unwrapped := Map.set 0 s.sched.unwrapped (unwrapKey (dieOfBarn barn) h) (barn + 1) } }

/-- Place a resolved key: one entry, or two for a 64-byte HMAC key. A key of another length above 32 bytes takes none
(05_transaction_units.md). The barn is then the last that unwrapped it. -/
def uwcFill (s : State) (barn : Nat) (k : Key) : State :=
  let s := noteUnwrap s barn (mkHandle k.part k.idx k.tag)
  let x : UwcEntry := {
    part := k.part
    idx := k.idx
    tag := k.tag
    alg := k.alg
    usage := k.usage
    mode := k.mode
    nb := BitVec.ofNat 64 k.nb
    na := BitVec.ofNat 64 k.na
    pol := k.pol
    slotRef := k.slotRef }
  if k.bytes.length ≤ 32 then uwcPlace s barn x k.bytes
  else if k.alg = Alg.hmac64 then
    uwcPlace (uwcPlace s barn x (k.bytes.take 32)) barn { x with half := 1 } (k.bytes.drop 32)
  else s

/-- Invalidate the entries of a partition that satisfy p in every barn, and the tickets of misses on them (R150). -/
def uwcInvalidateIf (s : State) (p : Nat) (f : Nat → Bool) : State :=
  let s := { s with uwc := s.uwc.filter (fun x => !(x.2.part == p && f x.2.idx)) }
  { s with entries := Map.mapVals {} (fun _ e =>
      if e.func = p + 1 then
        { e with tickets := Map.mapVals 0 (fun pos t =>
            if t = 1 ∧ f (handleIdx (e.desc.handle pos)) then 2 else t) e.tickets }
      else e) s.entries }

def uwcInvalidate (s : State) (p idx : Nat) : State := uwcInvalidateIf s p (· == idx)

def uwcInvalidateAll (s : State) (p : Nat) : State := uwcInvalidateIf s p (fun _ => true)

/-- The entries of a handle's key in a barn are read: one that parity finds uncorrectable is invalidated, so that the access is a miss
(R270). -/
def uwcScrub (s : State) (barn p idx tag : Nat) : State :=
  if s.dev.flips.isEmpty then s
  else
    ((uwcFind s barn p idx tag 0).toList ++ (uwcFind s barn p idx tag 1).toList).foldl (fun s i =>
      match readUnit s (.uwc i) with
      | (.bad, s) => writeUnit (s.setUwc i {}) (.uwc i)
      | (_, s) => s) s

/-- A cache hit: the key with its attributes, its entry used and its shares re-randomized (R146). -/
def uwcHit (s : State) (barn p idx tag : Nat) : Option (Key × State) :=
  match uwcFind s barn p idx tag 0 with
  | none => none
  | some i =>
    let x := s.uwcAt i
    let touch (s : State) (i : Nat) : State :=
      let (age, s) := uwcTick s
      let (m, s) := s.draw 256
      let x := s.uwcAt i
      s.setUwc i { x with shareA := x.shareA ^^^ m, shareB := x.shareB ^^^ m, age := age }
    let k : Key := {
      part := p
      idx := idx
      tag := tag
      alg := x.alg
      usage := x.usage
      mode := x.mode
      pol := x.pol
      slotRef := x.slotRef
      nb := x.nb.toNat
      na := x.na.toNat
      bytes := uwcKeyBytes x }
    if x.alg = Alg.hmac64 then
      match uwcFind s barn p idx tag 1 with
      | some j => some ({ k with bytes := k.bytes ++ uwcKeyBytes (s.uwcAt j) }, touch (touch s i) j)
      | none => none
    else some (k, touch s i)

/-! ### The key step (R46, R62, R66, R67, R223) -/

/-- Latch the request's time snapshot at its first lookup (R67, R147). -/
def latchSnap (s : State) (e : Nat) : State :=
  match (s.entry e).snap with
  | some _ => s
  | none => s.modEntry e (fun x => { x with snap := some (BitVec.ofNat 64 s.time.ntime, s.time.valid) })

/-- Validity window against a snapshot (R67): the first failing status in table order. -/
def windowStatus (nb na : Nat) (snap : Option (BitVec 64 × Bool)) : Status :=
  if nb = 0 ∧ na = 0 then St.ok
  else
    match snap with
    | some (t, true) =>
      if na ≠ 0 ∧ na < t.toNat then St.keyExpired else if t.toNat < nb then St.keyNotYetActive else St.ok
    | _ => St.keyTimeUnknown

/-- Use counter of a record's slot reference: none of a record without a slot, of an erased slot, or of a slot without a limit
(R219, R223). -/
def refCtr (s : State) (slotRef : Nat) : Option Nat :=
  if slotRef = 0xFFFF then none
  else
    let x := s.slotAt slotRef
    if x.live && x.ctr != 0xFFFF then some x.ctr else none

/-- Use counter at its limit (R222, R225). -/
def counterStatus (s : State) (slotRef : Nat) : Status :=
  match refCtr s slotRef with
  | some c => if (s.useCtr c).limit ≤ (s.useCtr c).live then St.keyUseExhausted else St.ok
  | none => St.ok

/-- The slot behind a record (R223). -/
def slotStatus (s : State) (slotRef : Nat) : Status :=
  if slotRef = 0xFFFF then St.ok
  else
    let x := s.slotAt slotRef
    if x.damaged then St.keySlotDamaged
    else if x.format = 0 ∨ x.serve = 0 ∨ !x.pub then St.keyNotFound
    else St.ok

/-- First status of a list that is not OK. -/
def firstBad : List Status → Status
  | [] => St.ok
  | a :: r => if a = St.ok then firstBad r else a

/-- Checks of a key found: role, window, counter, slot. -/
def keyChecks (s : State) (e : Nat) (role : Bool) (k : Key) : Status :=
  firstBad [if role then St.ok else St.keyUsage, windowStatus k.nb k.na (s.entry e).snap, counterStatus s k.slotRef,
    slotStatus s k.slotRef]

/-- Class that fetches and writes key records for a function: the BNE for the asymmetric and lattice functions, else the TU (R340). -/
def recClass (fn : Nat) : InitClass := if fn / 4096 = 5 then .bne else .tu

/-- Read a key's record from its stack and authenticate it (R46, R147): a status and the key. -/
def recordKeyOf (s : State) (p : Nat) (h : BitVec 64) : Status × Key :=
  let idx := handleIdx h
  let b := recBytes s p idx
  if h = 0 ∨ handlePart h ≠ p ∨ (recLoc (s.part p) idx).isNone then (St.keyNotFound, {})
  else if recLost s p idx ∨ (keyRecords s p idx).any (recPoisoned s p) then (St.degraded, {})
  else if byteAt b 2 ≠ 1 ∨ fieldLe b 4 3 ≠ handleTag h ∨ recHidden s p idx then (St.keyNotFound, {})
  else
    match recordKey s with
    | none => (St.keyNotFound, {})
    | some rk =>
      match openKey s rk p idx with
      | none => (St.keyNotFound, {})
      | some kb => (St.ok, { recAttrs b with bytes := kb })

/-- The records of the key that a handle of partition p names are read (R260); a handle with another partition's number reads nothing. -/
def readKey (s : State) (p : Nat) (h : BitVec 64) : State :=
  if h = 0 ∨ handlePart h ≠ p then s else (keyRecords s p (handleIdx h)).foldl (fun s i => readRecord s p i) s

/-- Lines that hold up the read of such a key. -/
def keyUnread (s : State) (p : Nat) (h : BitVec 64) : List (Nat × Nat) :=
  if h = 0 ∨ handlePart h ≠ p then [] else (keyRecords s p (handleIdx h)).flatMap (recUnread s p)

/-- Lines that hold up the reads of a request's keys that its barn has not cached. -/
def requestUnread (s : State) (e : Nat) : List (Nat × Nat) :=
  let x := s.entry e
  let p := x.func - 1
  (List.range 4).flatMap (fun pos =>
    let h := x.desc.handle pos
    if (uwcFind s x.barn p (handleIdx h) (handleTag h) 0).isSome then [] else keyUnread s p h)

/-- A key that a resolution of entry e uses carries a velocity policy or a use counter (R144). -/
def notePolicy (s : State) (e : Nat) (k : Key) : State :=
  let has := k.pol != 0xFF || (refCtr s k.slotRef).isSome
  if has then s.modEntry e (fun x => { x with polNeed := true }) else s

/-- Resolve the handle at a position for a request function, through the barn's unwrap cache (R46, R62, R146 to R148).
`role` accepts usage, mode and algorithm. Answers the status, the key and the state. -/
def resolveKey (s : State) (e pos : Nat) (role : BitVec 16 → Byte → Byte → Bool) : Status × Key × State :=
  let s := latchSnap s e
  let x := s.entry e
  let p := x.func - 1
  let h := x.desc.handle pos
  let idx := handleIdx h
  let s := uwcScrub s x.barn p idx (handleTag h)
  if h = 0 ∨ handlePart h ≠ p ∨ (recLoc (s.part p) idx).isNone then (St.keyNotFound, {}, s)
  else
    match uwcHit s x.barn p idx (handleTag h) with
    | some (k, s) =>
      let s := perfCount s (barnPage x.barn) brnUwcHit 1
      let st := keyChecks s e (role k.usage k.mode k.alg) k
      (st, k, if st = St.ok then notePolicy s e k else s)
    | none =>
      let s := perfCount s (barnPage x.barn) brnUwcMiss 1
      let (st, k) := recordKeyOf s p h
      let c := recClass x.desc.fn.toNat
      if !recGate s c p idx false then (St.faultAlarm, {}, recordDenial s c (recAddr s p idx) false)
      else if st ≠ St.ok then (st, {}, s)
      else
        let s := readKey s p h
        let st := keyChecks s e (role k.usage k.mode k.alg) k
        if st ≠ St.ok then (st, k, s)
        else
          let s := notePolicy s e k
          (St.ok, k, if Alg.isSym k.alg then uwcFill s x.barn k else s)

/-! ### The policy step (R68, R151) -/

/-- The bucket of a handle's record, and its use counter. -/
def handleBucket (s : State) (p : Nat) (h : BitVec 64) : Option Nat :=
  let b := recBytes s p (handleIdx h)
  if byteAt b 12 = 0xFF then none else findBucket s p (BitVec.ofNat 64 (fieldLe b 32 8))

def handleCtr (s : State) (p : Nat) (h : BitVec 64) : Option Nat :=
  refCtr s (fieldLe (recBytes s p (handleIdx h)) 14 2)

/-- Debit the buckets and counters of the handles at the given positions together, with the tally reservation when `audit`,
or touch none of them (R68, R151). Answers the status, the failing position and the state. -/
def policyDebit (s : State) (e : Nat) (positions : List Nat) (audit : Bool) : Status × Nat × State :=
  let x := s.entry e
  let p := x.func - 1
  let buckets := (positions.filterMap (fun k => handleBucket s p (x.desc.handle k))).eraseDups
  let ctrs := positions.filterMap (fun k => (handleCtr s p (x.desc.handle k)).map (fun c => (c, k)))
  let s := buckets.foldl refillBucket s
  if buckets.any (fun i => decide ((s.bucket i).tokens < oneToken)) then (St.velocity, 0, s)
  else
    match (if audit then Tal.reserve s 1 else some s) with
    | none => (St.auditFull, 0, s)
    | some t =>
      match ctrs.find? (fun c => decide ((s.useCtr c.1).limit ≤ (s.useCtr c.1).live)) with
      | some c => (St.keyUseExhausted, c.2, s)
      | none =>
        let t := buckets.foldl (fun t i => t.setBucket i { t.bucket i with tokens := (t.bucket i).tokens - oneToken }) t
        let t := (ctrs.map (·.1)).eraseDups.foldl bumpCounter t
        let t := if audit then t.modEntry e (fun y => { y with tally := { y.tally with held := true } }) else t
        (St.ok, 0, t)

/-! ### Deletion (R71, R75, R232) -/

/-- Delete the key at record idx: empty its records, invalidate its cache entries, settle its bucket, and clear the published
bit of its slot, under a new header MAC (R71, R75, R220, R238). -/
def deleteKey (s : State) (p idx : Nat) : State :=
  let b := recBytes s p idx
  let k := recAttrs b
  let n := (byteAt b 7).toNat
  let s := uwcInvalidate s p idx
  let s := (List.range (max n 1)).foldl (fun s j => emptyRecord s p (idx + j)) s
  let s :=
    match (if k.pol = 0xFF then none else findBucket s p k.fp) with
    | some i => if bucketLive s p k.fp then s else settleBucket s i
    | none => s
  if k.slotRef = 0xFFFF then s
  else sealHead (s.setSlot k.slotRef { s.slotAt k.slotRef with pub := false }) k.slotRef

end Sys2Proof.Machine
end

