-- ==== Sys2Proof/Machine/Trace.lean ====
section
/-! DEFINITION. The scheduling trace (R131 to R133): records, their delta form, and the ring of 4 KiB blocks in H0. -/

set_option linter.unusedVariables false

namespace Sys2Proof.Machine

open Sys2Proof Sys2Proof.Bits

namespace Trace

/-- Kinds of record. -/
def kAccept : Nat := 0
def kAge : Nat := 1
def kDispatch : Nat := 2
def kStage : Nat := 3
def kRelease : Nat := 4
def kDrop : Nat := 5
def kWatchdog : Nat := 6

/-- Code of a class. -/
def clsCode : Cls → Nat
  | .urgent => 0
  | .transaction => 1
  | .bulk => 2
  | .long => 3

/-- Time field: network time divided by 8 ns, low 48 bits. -/
def timeField (s : State) : Nat := s.time.ntime / 8 % 2 ^ 48

/-- The 128-bit record (R131). -/
def pack (kind cls die time part : Nat) (ordered : Bool) (gen e ctx word : Nat) : Nat :=
  kind + cls * 2 ^ 4 + die * 2 ^ 6 + time * 2 ^ 8 + part % 2048 * 2 ^ 56 + b2n ordered * 2 ^ 67 +
    gen % 2 ^ 16 * 2 ^ 68 + e * 2 ^ 84 + ctx % 2048 * 2 ^ 101 + word % 2 ^ 16 * 2 ^ 112

/-- The marker record: kind 0xF and the full network time. -/
def marker (s : State) : Nat := 0xF + s.time.ntime % 2 ^ 64 * 2 ^ 8

/-- Unsigned LEB128. -/
def leb : Nat → Nat → Bytes
  | 0, v => [BitVec.ofNat 8 (v % 128)]
  | fuel + 1, v => if v < 128 then [BitVec.ofNat 8 v] else BitVec.ofNat 8 (v % 128 + 128) :: leb fuel (v / 128)

/-- Delta form of a record after the previous one (R132). -/
def delta (prev r : Nat) : Bytes :=
  let eq (hi lo : Nat) : Bool := bits prev hi lo == bits r hi lo
  let c4 := eq 7 4
  let c5 := eq 83 56
  let c6 := eq 111 84
  let c7 := eq 127 112
  [BitVec.ofNat 8 (bits r 3 0 + b2n c4 * 16 + b2n c5 * 32 + b2n c6 * 64 + b2n c7 * 128)] ++
    leb 8 (bits r 55 8 - bits prev 55 8) ++
    (if c4 then [] else [BitVec.ofNat 8 (bits r 7 4)]) ++
    (if c5 then [] else le 4 (bits r 83 56)) ++
    (if c6 then [] else le 4 (bits r 111 84)) ++
    (if c7 then [] else le 2 (bits r 127 112))

/-- Window offset of a block. -/
def blockAt (n : Nat) : Nat := traceBase + 4096 * n

/-- Begin a block with a marker and a first record in full; the rest of the block is zero. -/
def startBlock (s : State) (n r : Nat) : State :=
  let h := s.stack 1
  let first := blockAt n / 64
  let s := s.setStack 1 { h with
    lines := h.lines.filter (fun l => !(decide (first ≤ l.1 ∧ l.1 < first + 64)))
    merge := h.merge.filter (fun m => !(decide (first ≤ m.line ∧ m.line < first + 64))) }
  let s := hbmWrite s 1 (blockAt n) (fit 64 (le 2 1 ++ le 2 48 ++ zeros 12 ++ le 16 (marker s) ++ le 16 r))
  { s with sched := { s.sched with trBlock := n, trOfs := 48, trCount := 1, trPrev := some (BitVec.ofNat 128 r) } }

/-- Append a record: in delta form while it fits and time does not step back, else at the start of the next block (R132).
A ring pass completed is counted in SCH_TRACE_WRAP. -/
def append (s : State) (r : Nat) : State :=
  let t := s.sched
  match t.trPrev with
  | none => startBlock s t.trBlock r
  | some prev =>
    let d := delta prev.toNat r
    if bits r 55 8 < bits prev.toNat 55 8 ∨ 4096 < t.trOfs + d.length then
      let n := (t.trBlock + 1) % 16384
      let s := if n = 0 then evtCount s schPage 0x088 30 0 else s
      startBlock s n r
    else
      let s := hbmWrite s 1 (blockAt t.trBlock + t.trOfs) d
      let s := hbmWrite s 1 (blockAt t.trBlock) (le 2 (t.trCount + 1) ++ le 2 (t.trOfs + d.length))
      { s with sched := { s.sched with
          trOfs := t.trOfs + d.length
          trCount := t.trCount + 1
          trPrev := some (BitVec.ofNat 128 r) } }

/-- Whether an event of function f is recorded: SCH_TRACE_CTRL.enable and its partition filter (R133), and H0 in
service. -/
def on (s : State) (f : Nat) : Bool :=
  let c := (s.reg (schPage + 0x080)).toNat
  bit c 0 && s.dev.f0 && (!bit c 1 || (f != 0 && bits c 12 2 == f - 1))

/-- Record an event of entry e. `word` is the function code, or the status. A PF request belongs to no partition: its field
is left open (log 46). -/
def event (s : State) (e kind ctx word : Nat) : State :=
  let x := s.entry e
  if !on s x.func then s
  else
    let (p, s) :=
      if x.func = 0 then
        let (v, s) := s.draw 11
        (v.toNat, s)
      else (x.func - 1, s)
    append s (pack kind (clsCode x.cls) x.die (timeField s) p ((x.desc.flags).getLsbD 2 && x.accepted) x.gen.toNat e ctx word)

end Trace

end Sys2Proof.Machine
end

