-- ==== Sys2Proof/Machine/Requests.lean ====
section
/-! DEFINITION. Requests in flight: counts, ready lists, microprogram banks and context groups, what a group holds, and how a
request ends (R20, R25, R110 to R116, R136, R152, R179, R186, R210, R381). -/

set_option linter.unusedVariables false

namespace Sys2Proof.Machine

open Sys2Proof Sys2Proof.Bits

/-! ### Counts -/

/-- Requests of function f accepted and not yet released or dropped (R31; log 44). -/
def inFlight (s : State) (f : Nat) : Nat :=
  Map.count (fun _ x => x.func == f && x.accepted && x.state != .free) s.entries

/-- Accepted requests of f, with the descriptors being fetched, against the quota (R55). -/
def quotaUse (s : State) (f : Nat) : Nat :=
  Map.count (fun _ x => x.func == f && x.state != .free && (x.accepted || x.phase == .fetching)) s.entries

/-- Entries bound to a CQ, from reservation to completion (R33, R56). -/
def cqBound (s : State) (f n : Nat) : Nat :=
  Map.count (fun _ x => x.func == f && x.cq == n && x.state != .free) s.entries

/-- The link of Field die d to the Keep die retrains: traffic between them waits (R19). -/
def linkWaits (s : State) (d : Nat) : Bool := (s.link (d - 1)).retraining

/-- Traffic between two Field dies waits: on their link, or on both links to the Keep die while they are relayed (R19, R21). -/
def crossWaits (s : State) (d k : Nat) : Bool :=
  d != k && (if s.dev.relay then linkWaits s 1 || linkWaits s 2 else (s.link 2).retraining)

/-- A die is in service. -/
def dieUp (s : State) (d : Nat) : Bool := if d = 1 then s.dev.f0 else if d = 2 then s.dev.f1 else false

/-- Free descriptor slots of die d: 32,768 less those taken. -/
def freeSlots (s : State) (d : Nat) : Nat := 32768 - Map.count (fun _ x => x.die == d && x.state != .free) s.entries

/-- The lowest free die-local slot. -/
def lowestSlot (s : State) (d : Nat) : Nat :=
  let taken := (s.entries.filter (fun x => x.2.die == d)).map (fun x => x.2.slot)
  ((List.range (taken.length + 1)).find? (fun k => !taken.contains k)).getD 0

/-- Slot reservations that have not become slots (R124). -/
def slotReservations (s : State) : Nat := Map.count (fun _ x => x.slotResv) s.entries

/-- Requests accepted under a reservation that wait for a slot of the remaining die (R124). -/
def slotWaiters (s : State) : List Nat := Map.keysWhere (fun _ x => x.phase == .waitSlot) s.entries

/-- A new slot reservation can be made: a free slot not already reserved, and nobody waiting (R124). -/
def canReserveSlot (s : State) : Bool :=
  (slotWaiters s).isEmpty &&
    decide (slotReservations s < (if s.dev.f0 then freeSlots s 1 else 0) + (if s.dev.f1 then freeSlots s 2 else 0))

/-- The lowest free entry of the main pool, or of the 4,096-entry pool. -/
def freeEntryOf (s : State) (small : Bool) : Option Nat :=
  let lo := if small then 65536 else 0
  let size := if small then 4096 else 65536
  let used := Map.count (fun e _ => decide (lo ≤ e ∧ e < lo + size)) s.entries
  if used < size then Map.findFrom {} s.entries (fun x => x.state == .free) (used + 1) lo else none

/-! ### Ready lists (R110, R114) -/

/-- The sublist of a partition, class and die, in acceptance order: indices of entries. -/
def subList (s : State) (d : Nat) (c : Cls) (p : Nat) : List Nat :=
  let xs := s.entries.filter (fun x => x.2.phase == .ready && x.2.die == d && x.2.cls == c && x.2.func == p + 1)
  (sortOn (fun x => x.2.acceptSeq) xs).map (·.1)

def deficitKey (d : Nat) (c : Cls) (p : Nat) : Nat := 8192 * (d - 1) + 2048 * Trace.clsCode c + p

def State.deficit (s : State) (d : Nat) (c : Cls) (p : Nat) : Nat := Map.get 0 s.sched.deficit (deficitKey d c p)

def State.setDeficit (s : State) (d : Nat) (c : Cls) (p v : Nat) : State :=
  { s with sched := { s.sched with deficit := Map.set 0 s.sched.deficit (deficitKey d c p) v } }

/-- A sublist that has emptied returns its deficit counter to 0 (R114). -/
def settleDeficit (s : State) (d : Nat) (c : Cls) (p : Nat) : State :=
  if d = 0 then s else if (subList s d c p).isEmpty then s.setDeficit d c p 0 else s

/-- Take an entry off its ready list into another phase. -/
def leaveReady (s : State) (e : Nat) (ph : ReqPhase) : State :=
  let x := s.entry e
  let s := s.modEntry e (fun y => { y with phase := ph })
  if x.phase = .ready then settleDeficit s x.die x.cls (x.func - 1) else s

/-! ### Banks and context groups (R136, R155, R157) -/

/-- The function-table entry with which window n of a stook serves a function, when it is RESIDENT (R157). -/
def windowFn (s : State) (k n fn : Nat) : Option BankFn :=
  let w := s.window k n
  if w.state = 2 then ((Map.get {} s.ldr.banks w.bank).fns).find? (fun f => f.fn.toNat == fn) else none

/-- The window of a stook that serves a function, and its entry. -/
def stookFn (s : State) (k fn : Nat) : Option (Nat × BankFn) :=
  (List.range 4).findSome? (fun n => (windowFn s k n fn).map (fun f => (n, f)))

/-- A RESIDENT window of some stook of an in-service Field die serves the function (R157). -/
def fnResident (s : State) (fn : Nat) : Bool :=
  (List.range 32).any (fun k => dieUp s (dieOfStook k) && (stookFn s k fn).isSome)

def tuRetired (s : State) (t : Nat) : Bool := Map.get false s.dev.tuRetired t

def ctxFree (s : State) (c : Nat) : Bool := (s.core c).phase == .free

/-- Free contexts of a TU; none on a retired one. -/
def tuFree (s : State) (t : Nat) : List Nat :=
  if tuRetired s t then [] else ((List.range 8).map (fun i => 8 * t + i)).filter (ctxFree s)

/-- All four block engines of a stook are retired (R185). -/
def stookNoBe (s : State) (k : Nat) : Bool := (List.range 4).all (fun e => (s.be (4 * k + e)).retired)

def stookFree (s : State) (k : Nat) : Nat := ((List.range 8).map (fun i => (tuFree s (8 * k + i)).length)).sum

/-- TUs of a stook with a free context. -/
def stookTus (s : State) (k : Nat) : Nat := ((List.range 8).filter (fun i => !(tuFree s (8 * k + i)).isEmpty)).length

/-- A stook can hold a group for a function: bank resident, contexts free, some block engine in service. -/
def stookTakes (s : State) (k fn : Nat) : Bool :=
  match stookFn s k fn with
  | some (_, f) => decide (f.group ≤ stookFree s k) && !stookNoBe s k
  | none => false

/-- A barn has an in-service BNE (R209). -/
def barnHasBne (s : State) (b : Nat) : Bool := (List.range 6).any (fun n => !(s.bne (6 * b + n)).retired)

/-- A function's bank entry marks the use of a BNE. -/
def fnUsesBne (s : State) (fn : Nat) : Bool :=
  (s.ldr.banks).any (fun b => b.2.ok && b.2.fns.any (fun f => f.fn.toNat == fn && f.uses.getLsbD 0))

/-- Free context groups of a barn for a function's bank. -/
def barnGroups (s : State) (b fn : Nat) : Nat :=
  if fnUsesBne s fn && !barnHasBne s b then 0
  else
    ((List.range 4).map (fun i =>
      let k := 4 * b + i
      if stookTakes s k fn then
        match stookFn s k fn with
        | some (_, f) => stookFree s k / max 1 f.group
        | none => 0
      else 0)).sum

/-- First index with the greatest value of f, among a list. -/
def argMax (f : Nat → Nat) : List Nat → Option Nat
  | [] => none
  | a :: r =>
    match argMax f r with
    | none => some a
    | some b => if f a < f b then some b else some a

/-- The stook of a barn for a function (R136 steps 1 to 3). -/
def pickStook (s : State) (b fn : Nat) : Option Nat :=
  let ks := ((List.range 4).map (fun i => 4 * b + i)).filter (fun k => stookTakes s k fn)
  let size (k : Nat) : Nat := match stookFn s k fn with | some (_, f) => f.group | none => 0
  let distinct := ks.filter (fun k => decide (size k ≤ stookTus s k))
  argMax (stookFree s) (if distinct.isEmpty then ks else distinct)

/-- Place the members of a group, lead first: on the TU with the most free contexts, a TU not yet used by the group where
there is one (R136). -/
def placeMembers (s : State) (k : Nat) : Nat → List Nat → List Nat
  | 0, acc => acc
  | n + 1, acc =>
    let free (t : Nat) : List Nat := (tuFree s t).filter (fun c => !acc.contains c)
    let tus := ((List.range 8).map (fun i => 8 * k + i)).filter (fun t => !(free t).isEmpty)
    let fresh := tus.filter (fun t => !acc.any (fun c => tuOfCtx c == t))
    match argMax (fun t => (free t).length) (if fresh.isEmpty then tus else fresh) with
    | some t => placeMembers s k n (acc ++ [((free t).headD 0)])
    | none => acc

/-! ### Masks (R135) -/

/-- A new mask from the barn's mask generator. -/
def drawMask (s : State) (b : Nat) : BitVec 128 × State :=
  let x := s.barn b
  (Config.maskExpand x.maskSeed x.maskDraws, s.setBarn b { x with maskDraws := x.maskDraws + 1 })

/-! ### What a group holds, and its clearing (R152, R179, R186, R210) -/

/-- Erase a context's slots in the four engines of its stook (R179). -/
def eraseBeSlots (s : State) (c : Nat) : State :=
  (List.range 4).foldl (fun s e => s.setBeSlot (64 * (4 * stookOfCtx c + e) + c % 64) {}) s

/-- The engine that a lead owns. -/
def ownedBne (s : State) (c : Nat) : Option Nat :=
  (List.range 6).findSome? (fun i =>
    let n := 6 * barnOfCtx c + i
    if (s.bne n).owner = some c then some n else none)

/-- Withdraw a context's BNE claim, and give back the engine it owns: by the wipe of a finished job, or by the clearing of a
job cut short, whose command stops (R210). Both leave the engine unavailable until its row ends it. -/
def releaseBne (s : State) (c : Nat) (wipe : Bool) : State :=
  let b := barnOfCtx c
  let x := s.barn b
  let s := s.setBarn b { x with claims := x.claims.filter (fun y => y.1 != c) }
  match ownedBne s c with
  | some n =>
    let y := s.bne n
    s.setBne n { y with owner := none, run := none, wiping := wipe, clearing := !wipe }
  | none => s

/-- Clear every member of a request's group and free its contexts; an engine still owned is wiped where the completion is posted, else
cleared (R210). -/
def clearGroup (s : State) (e : Nat) (wipe : Bool) : State :=
  let g := (s.entry e).group
  let s := g.foldl (fun s c => (eraseBeSlots (releaseBne s c wipe) c).setCore c {}) s
  s.modEntry e (fun x => { x with group := [] })

/-- The bulk engine on which a request's message runs, is bound or is suspended. -/
def baeOf (s : State) (e : Nat) : Option Nat :=
  (List.range 8).find? (fun b =>
    let x := s.bae b
    (x.owner == .request && x.entry == e) || x.susp.any (fun m => m.entry == e) || x.urgent.contains e)

/-- The message of a request in an engine. -/
def msgOf (x : Bae) (e : Nat) : Option BulkMsg :=
  match x.msg with
  | some m => if m.entry = e then some m else x.susp.find? (fun m => m.entry == e)
  | none => x.susp.find? (fun m => m.entry == e)

/-- The next owner of an engine whose running request ends: an urgent request bound and not yet served, else the most
recently suspended message, else nobody (R191, R192). -/
def baeNext (x : Bae) : Bae :=
  let y := { x with msg := none, keyParts := [], cntHi := false }
  match x.urgent with
  | u :: r => { y with owner := .request, entry := u, urgent := r }
  | [] =>
    match x.susp with
    | m :: _ => { y with owner := .request, entry := m.entry }
    | [] => { y with owner := .free, entry := 0 }

/-- End a request's hold on its bulk engine: its key is erased, its suspend slot freed (R186, R192). -/
def releaseBae (s : State) (e : Nat) : State :=
  match baeOf s e with
  | none => s
  | some b =>
    let x := s.bae b
    let running := x.owner == .request && x.entry == e && !(x.susp.any (fun m => m.entry == e))
    let x := { x with
      susp := x.susp.filter (fun m => m.entry != e)
      urgent := x.urgent.filter (fun u => u != e) }
    let waiting := x.owner == .request && x.entry == e && !running
    s.setBae b (if running || waiting then baeNext x else x)

/-! ### Endings -/

/-- What a class 0x6 request that ends early leaves: bytes written, byte 15 bit 0 for a decryption that wrote any, and the writes that a
running message has made (R61, R190). -/
def bulkEnd (s : State) (e : Nat) : BitVec 64 × Bool × State :=
  match baeOf s e with
  | none => (0, false, s)
  | some b =>
    match msgOf (s.bae b) e with
    | none => (0, false, s)
    | some m =>
      let (s, m) := if (s.bae b).msg = some m then bulkAdvance s b m else (s, m)
      (BitVec.ofNat 64 m.count, isBulkDec m.fn.toNat && decide (0 < m.count), s)

/-- Write the tally entry a request holds, with its final status, and its continuation where it has one (R379, R381, R382). -/
def redeemTally (s : State) (e : Nat) : State :=
  let x := s.entry e
  if !x.tally.held then s
  else
    let s := s.modEntry e (fun y => { y with tally := {} })
    Tal.redeem s (if x.tally.more.isSome then 2 else 1) {
      code := x.tally.code
      die := BitVec.ofNat 8 x.die
      part := x.tally.part.getD (if x.func = 0 then 0xFFFF else BitVec.ofNat 16 (x.func - 1))
      fn := x.desc.fn
      status := x.status
      detail := x.tally.detail
      data := (List.range 8).flatMap (fun k => le 4 (Map.get 0 x.tally.data k).toNat)
      cont := x.tally.more }

/-- Stage an entry: everything the request held is given back, and its completion waits for release (R123, R186, R451). -/
def stageEntry (s : State) (e : Nat) : State :=
  let s := releaseBae (clearGroup s e false) e
  let s := redeemTally s e
  let s := s.modEntry e (fun x => { x with state := .staged, phase := .done })
  Trace.event s e Trace.kStage 0 (s.entry e).status.toNat

/-- A HAMPER_SEAL that ends ABORTED or WATCHDOG leaves its partition emigrated once its checks have passed and its write has begun. Whether they
had is open while its row has not run (R284, R285; log 110). -/
def sealCut (s : State) (e : Nat) (status : Status) : State :=
  let x := s.entry e
  if x.desc.fn ≠ 0xE005 ∨ x.phase ≠ .firmware ∨ (status ≠ St.aborted ∧ status ≠ St.watchdog) then s
  else
    let b := x.input.getD (if x.desc.flags.getLsbD 0 then x.desc.tailBytes else s.hostRead (fieldLe x.desc.tailBytes 0 8) 2)
    let p := fieldLe b 0 2
    let y := s.part p
    let (v, s) := s.draw 1
    if v = 1 ∧ p < 2048 ∧ y.state = .frozen ∧ y.emigrated = false ∧ y.hseq < 2 ^ 32 - 1 then
      uwcInvalidateAll (s.modPart p (fun y => { y with emigrated := true, hseq := y.hseq + 1 })) p
    else s

/-- End a request from outside its own computation, with a status and a result word: nothing it staged is released (R24,
R25, R61). A completion already STAGED keeps its status. -/
def endRequestWith (s : State) (e : Nat) (status : Status) (result : BitVec 64) : State :=
  let x := s.entry e
  if x.state = .reserved ∧ x.accepted then
    let s := sealCut s e status
    let (count, unt, s) := bulkEnd s e
    let bulk := fnClass x.desc.fn.toNat == 6
    let s := leaveReady s e .posted
    let s := s.modEntry e (fun y => { y with
      status := status
      outLen := 0
      result := if bulk then count else result
      untrusted := bulk && unt
      out := []
      outOver := 0 })
    stageEntry s e
  else s

def endRequest (s : State) (e : Nat) (status : Status) : State := endRequestWith s e status 0

/-- End with WATCHDOG, recorded in the trace (R127, R131). -/
def endWatchdog (s : State) (e : Nat) : State :=
  let x := s.entry e
  if x.state = .reserved ∧ x.accepted then
    endRequest (Trace.event s e Trace.kWatchdog 0 St.watchdog.toNat) e St.watchdog
  else s

/-- A read of the request is held (R261). -/
def readHeld (s : State) (e : Nat) : Bool :=
  [1, 2].any (fun d => (s.stack d).held.any (fun x =>
    match x.2 with
    | .staging y => y.val == e
    | .context c => (s.entry e).group.contains c.val
    | _ => false))

/-- The watchdogs that expired during a held read take effect once no read of their request is held (R273). -/
def lateWatchdogs (s : State) : State :=
  (Map.keysWhere (fun _ x => x.dogLate) s.entries).foldl (fun s e =>
    if readHeld s e then s else endWatchdog (s.modEntry e (fun x => { x with dogLate := false })) e) s

/-- A watchdog expires: at once, or when the request's held read is released (R127, R154, R273). -/
def expireWatchdog (s : State) (e : Nat) : State :=
  if readHeld s e then s.modEntry e (fun x => { x with dogLate := true }) else endWatchdog s e

/-- Retire a bulk engine; a die that has lost all four sets DEGRADED. -/
def retireBae (s : State) (b : Nat) : State :=
  let d := dieOfBae b
  let s := s.modBae b (fun x => { x with owner := .retired, entry := 0, selftest := false, keyParts := [], msg := none })
  let s := postRetired (latchErr s (baePage b) 0x0013 b) d 3 b
  if (List.range 4).all (fun i => (s.bae (4 * (d - 1) + i)).owner == .retired) then degrade s causeUnits 0x0005 else s

/-- An alarm at engine b: the running and both suspended keys are erased, and every message the engine holds ends (R193). -/
def bulkAlarm (s : State) (b : Nat) : State :=
  let s := latchErr (evtCount s (baePage b) 0x090 13 0) (baePage b) 0x0011 b
  let x := s.bae b
  let run := match runningMsg x with | some m => [m.entry] | none => []
  let s := (run ++ x.susp.map (fun m => m.entry)).foldl (fun s e => endRequest s e St.faultAlarm) s
  let times := noteTime x.alarms s.tmr.now 3
  let s := s.modBae b (fun x => { x with keyParts := [], selftest := true, alarms := times })
  if withinSpan times 3 second then retireBae s b else s

/-- The engine that the request of a lead context owns. -/
def leadBae (s : State) (c : Nat) : Option Nat :=
  if (s.core c).member ≠ 0 then none
  else (List.range 8).find? (fun b => (s.bae b).owner == .request && (s.bae b).entry == (s.core c).entry)

/-- End the request of a context with FAULT_ALARM. Of a lead that owns a bulk engine it is an alarm of that engine (R193; log 101). -/
def faultCtx (s : State) (c : Nat) : State :=
  let e := (s.core c).entry
  match leadBae s c with
  | some b => endRequest (bulkAlarm s b) e St.faultAlarm
  | none => endRequest s e St.faultAlarm

/-- A port or policy error of a context: BRN_FAULT.port_err, and FAULT_ALARM (R141, R142, R154). -/
def portError (s : State) (c : Nat) : State :=
  faultCtx (evtCount s (barnPage (barnOfCtx c)) 0x088 27 14) c

/-- Return the record indices a request reserved: records already made are emptied, their bucket settled (R70). -/
def returnRecords (s : State) (e : Nat) : State :=
  let x := s.entry e
  match x.recResv with
  | none => s
  | some (idx, n) =>
    let s := s.modEntry e (fun y => { y with recResv := none, recMade := false })
    if x.recMade then deleteKey s (x.func - 1) idx else s

/-! ### Dies, TUs and engines out of service -/

/-- Entries that satisfy p. -/
def entriesWhere (s : State) (p : Entry → Bool) : List Nat := Map.keysWhere (fun _ x => p x) s.entries

/-- A staged completion of a request that ran on a lost die becomes ABORTED: its output lies in that die's slot (R20, R25, R123). A class 0x6
request keeps its count, and a decryption that wrote is untrusted (R61, R190). -/
def loseStaged (s : State) (e : Nat) : State :=
  s.modEntry e (fun y =>
    let bulk := fnClass y.desc.fn.toNat == 6
    { y with
      status := St.aborted
      outLen := 0
      result := if bulk then y.result else 0
      untrusted := bulk && (y.untrusted || (isBulkDec y.desc.fn.toNat && y.result != 0))
      out := [] })

/-- Take a Field die out of service until the next reset of either kind: DEGRADED, and every request dispatched to it whose completion has
not been released ends ABORTED (R20, R25). -/
def dieOut (s : State) (d cause : Nat) (src : BitVec 16) : State :=
  let old := s
  let s := { s with dev := { s.dev with
    f0 := s.dev.f0 && d != 1
    f1 := s.dev.f1 && d != 2
    out := s.dev.out ||| BitVec.twoPow 2 (d - 1) } }
  let s := if s.dev.causes.getLsbD cause then noteStatus old s else degrade s cause src
  let s := (entriesWhere s (fun x => x.die == d && (x.phase == .running || x.phase == .drafted || x.phase == .posted) &&
    x.state == .reserved)).foldl (fun s e => endRequest s e St.aborted) s
  (entriesWhere old (fun x => x.die == d && x.ran && x.state == .staged)).foldl loseStaged s

/-- TUs counted as retired toward DEGRADED: a stook with all four block engines retired counts 8 (R153, R185). -/
def retiredTus (s : State) : Nat :=
  ((List.range 32).map (fun k =>
    if stookNoBe s k then 8 else ((List.range 8).filter (fun i => tuRetired s (8 * k + i))).length)).sum

/-- Set DEGRADED when 16 or more TUs are retired (R153). -/
def checkUnits (s : State) : State := if 16 ≤ retiredTus s then degrade s causeUnits 0x0005 else s

end Sys2Proof.Machine
end

