-- ==== Sys2Proof/Machine/TimeOps.lean ====
section
/-! DEFINITION. Network time, the battery RTC, the slew budget and the Keep timer: the passing of reference periods, syncs, and
the judging of a time set (R392 to R401). -/

set_option linter.unusedVariables false

namespace Sys2Proof.Machine

open Sys2Proof Sys2Proof.Bits

/-- The Keep die runs: its rails are up and the package is held in no reset (R315, R354, R435). -/
def keepRuns (s : State) : Bool :=
  s.boot.phase == .firmware || s.boot.phase == .released || s.boot.phase == .halt

/-- Slew of one 40 ns period at 500 ppm, in 2^-32 ns, rounded to the nearest (R392, R395; log 4). A slew of 2 ms then takes 4 s. -/
def slewStep : Nat := 85899346

/-- k reference periods of 40 ns pass on the Keep die: NTIME advances with the slew, which moves pending toward zero by what
it absorbs and by no more; the Keep timer advances (R392, R395, R401). -/
def passNtime (t : Time) (k : Nat) : Time :=
  if t.pending = 0 then { t with ntime := (t.ntime + 40 * k) % 2 ^ 64 }
  else if 0 < t.pending then
    let sum := t.frac + slewStep * k
    let n := min (sum / 2 ^ 32) t.pending.toNat
    { t with ntime := (t.ntime + 40 * k + n) % 2 ^ 64, frac := sum % 2 ^ 32, pending := t.pending - n }
  else
    let need := slewStep * k
    let n := min ((need + 2 ^ 32 - 1 - t.frac) / 2 ^ 32) t.pending.natAbs
    { t with
      ntime := (t.ntime + 40 * k - n) % 2 ^ 64
      frac := (t.frac + (need / 2 ^ 32 + 1) * 2 ^ 32 - need) % 2 ^ 32
      pending := t.pending + n }

/-- k reference periods pass in the battery domain: the RTC counts them, and the slew budget refills at 500 ms per 86,400 s up
to its capacity (R396, R399). -/
def passRtc (t : Time) (k : Nat) : Time :=
  let carry := t.budgetFrac + 200 * k
  { t with
    rtc := (t.rtc + 40 * k) % 2 ^ 64
    budget := min 500000000 (t.budget + carry / 864000)
    budgetFrac := carry % 864000 }

/-- k reference periods of 40 ns pass (log 4). -/
def passPeriods (s : State) (k : Nat) : State :=
  let s := if s.scr.battery || s.pwr.rails then { s with time := passRtc s.time k } else s
  if keepRuns s then
    { s with time := passNtime s.time k, tmr := { s.tmr with now := s.tmr.now + 40 * k } }
  else s

/-- The fewest periods whose slew absorbs all of pending (R395). -/
def periodsToZero (t : Time) : Nat :=
  if 0 ≤ t.pending then (t.pending.toNat * 2 ^ 32 - t.frac + slewStep - 1) / slewStep
  else ((t.pending.natAbs - 1) * 2 ^ 32 + t.frac + 1 + slewStep - 1) / slewStep

/-- The RTC syncs to NTIME: both values are recorded, rtc_set sets, rtc_lp clears when the crystal runs (R399). -/
def rtcSyncNow (s : State) : State :=
  { s with time := { s.time with
    rtc := s.time.ntime
    syncNtime := s.time.ntime
    syncRtc := s.time.ntime
    syncSum := 0
    rtcSet := true
    rtcLp := s.time.rtcLp && s.scrAux.xtalStopped } }

/-- Network time becomes the given value and valid, pending becomes 0 and the RTC syncs; the first valid value of the boot is
every bucket's last reset (R77, R394, R398). -/
def setTimeTo (s : State) (v : Nat) : State :=
  let first := !s.time.valid
  let t := { s with time := { s.time with ntime := v % 2 ^ 64, frac := 0, pending := 0, valid := true } }
  let t := rtcSyncNow t
  let t := if first then bucketsTimeValid t else t
  noteStatus s t

/-- Network time becomes not valid (R393). -/
def setTimeInvalid (s : State) : State := noteStatus s { s with time := { s.time with valid := false } }

/-- Two milliseconds in ns. -/
def twoMs : Nat := 2000000

/-- The judgement of a set against a target (R394): 0 accepted, else the reason of the first condition that fails. -/
def setReason (t : Time) (target : Int) : Nat :=
  if t.valid then
    let d := target - (t.ntime : Int) - t.pending
    if twoMs < d.natAbs then 1
    else if twoMs < (t.pending + d).natAbs then 5
    else if t.budget < d.natAbs then 2
    else 0
  else if !t.rtcSet ∨ t.rtcLp then 4
  else if 20 * (t.rtc - t.syncRtc) + twoMs * 1000000 < (target - (t.rtc : Int)).natAbs * 1000000 then 3
  else 0

/-- The effect of an accepted set (R394). -/
def acceptSet (s : State) (target : Int) : State :=
  if s.time.valid then
    let d := target - (s.time.ntime : Int) - s.time.pending
    { s with time := { s.time with
      pending := s.time.pending + d
      budget := s.time.budget - d.natAbs
      syncSum := s.time.syncSum + d.natAbs } }
  else setTimeTo s target.toNat

/-- A refused set: TIME_STAT.refused with the reason, and the PF time interrupt (R394, R427). -/
def refuseSet (s : State) (reason : Nat) : State :=
  raiseVec { s with time := { s.time with refused := true, reason := BitVec.ofNat 3 reason } } 0 2

/-- Judge a host set now. Answers whether it was accepted. -/
def judgeSet (s : State) (target : Int) : Bool × State :=
  let r := setReason s.time target
  if r = 0 then (true, acceptSet s target) else (false, refuseSet s r)

/-- The signed value of 64 bits. -/
def signed64 (v : Nat) : Int := (BitVec.ofNat 64 v).toInt

end Sys2Proof.Machine
end

