-- ==== Sys2Proof/Machine/PowerOps.lean ====
section
/-! DEFINITION. Power handshakes, the wake from IDLE and the commits of IDLE and of FALLOW preparation (R402 to R406). -/

set_option linter.unusedVariables false

namespace Sys2Proof.Machine

open Sys2Proof Sys2Proof.Bits

/-- States of PWR_STATUS (R415). -/
def pwrRun : BitVec 2 := 0
def pwrTrim : BitVec 2 := 1
def pwrIdle : BitVec 2 := 2
def pwrPrepared : BitVec 2 := 3

/-- Outcomes of PWR_STATUS.last. -/
def pwrCommitted : BitVec 2 := 1
def pwrRefused : BitVec 2 := 2
def pwrTimedOut : BitVec 2 := 3

/-- Fetching is stopped package-wide: by a handshake or a preparation, in IDLE and while it wakes, in HALT (R297, R403,
R405, R406). -/
def fetchStopped (s : State) : Bool := s.pwr.fetchStop || s.pwr.state == pwrIdle || s.yoke.halt

/-- Begin a handshake: agent 0x1 is asked first, and fetching stops from that request (R403, R406). -/
def startHandshake (s : State) (t : PwrTarget) : State :=
  if keepRuns s && (s.pwr.state == pwrRun || s.pwr.state == pwrTrim) && s.pwr.target == .none then
    { s with pwr := { s.pwr with target := t, asking := 1, delay := false, fetchStop := true } }
  else s

/-- Abandon the running handshake: the outcome, the agent and its reason are recorded, and fetching resumes (R403). -/
def abandonHandshake (s : State) (last : BitVec 2) (agent reason : Nat) : State :=
  if s.pwr.target = .none then s
  else
    { s with pwr := { s.pwr with
      target := .none
      asking := 0
      delay := false
      fetchStop := false
      last := last
      agent := agent
      reason := reason } }

/-- A wake from IDLE begins (R405). -/
def startWake (s : State) : State :=
  if s.pwr.state = pwrIdle ∧ !s.pwr.waking then { s with pwr := { s.pwr with waking := true, awake := 0 } } else s

/-- What a doorbell write does to power: it abandons an IDLE handshake with agent 0x1 and reason 0x10, and in IDLE it starts
the wake (R403, R405). -/
def wakeOnDoorbell (s : State) : State :=
  startWake (if s.pwr.target = .idle then abandonHandshake s pwrRefused 1 0x10 else s)

/-- Complete every merge-buffer entry of a stack. -/
def drainMerge (s : State) (d : Nat) : State :=
  ((s.stack d).merge.map (·.line)).foldl (fun s l => completeMerge s d l) s

/-- The IDLE commit (R404, R272): unwrap caches, barn DRBG states, mask generators and TU data spaces are cleared, the stacks
enter self-refresh, and the Field dies lose power. -/
def commitIdle (s : State) : State :=
  let s := drainMerge (drainMerge s 1) 2
  let s := { s with
    uwc := []
    barns := Map.mapVals {} (fun _ b => { b with maskSeed := 0, maskDraws := 0 }) s.barns
    cores := Map.mapVals {} (fun c x => if c < 2048 then { x with mem := [] } else x) s.cores
    hbm := Map.mapVals {} (fun _ h => { h with selfRefresh := h.inService, keys := none }) s.hbm
    win := { s.win with drbg := s.win.drbg.filter (fun x => !decide (x.1 < 8)), seeding := s.win.seeding.filter (fun i => decide (i = 8)) } }
  { s with pwr := { s.pwr with
    state := pwrIdle
    gated := []
    target := .none
    asking := 0
    delay := false
    last := pwrCommitted
    agent := 0
    reason := 0 } }

/-- A snapshot: a refill event of every bucket, which frees a full one that no live record references, then every bucket's entry
(R235, R236). -/
def snapshotAll (s : State) : State :=
  let s := (Map.keysWhere (fun _ b => b.on) s.grn.buckets).foldl (fun s i =>
    let b := s.bucket i
    if bucketLive s b.part b.fp then refillBucket s i else settleBucket s i) s
  { s with grn := { s.grn with snapOld := s.grn.snap, snap := s.grn.buckets } }

/-- Write every counter's exact count (R225). -/
def exactCounts (s : State) : State :=
  let exact (c : UseCtr) : UseCtr :=
    if c.on then { c with marks := Map.set 0 [] c.next (BitVec.ofNat 32 c.live), next := (c.next + 1) % 64 } else c
  { s with grn := { s.grn with ctrs := Map.mapVals {} (fun _ c => exact c) s.grn.ctrs } }

/-- The commit of FALLOW preparation (R406): the orderly snapshot, the exact counts, the RTC sync, and the prepared state.
Fetching stays stopped. -/
def commitFallow (s : State) : State :=
  let s := exactCounts (snapshotAll s)
  let s := { s with grn := { s.grn with orderly := true } }
  let s := if s.time.valid then rtcSyncNow s else s
  { s with pwr := { s.pwr with
    state := pwrPrepared
    target := .none
    asking := 0
    delay := false
    last := pwrCommitted
    agent := 0
    reason := 0 } }

end Sys2Proof.Machine
end

