-- ==== Sys2Proof/Machine/HostOps.lean ====
section
/-! DEFINITION. Rings: their configuration, the conditions of a descriptor fetch, the waiting queues and the grants from the
pools, completion interrupts, and the freeing of a release-buffer entry (R31 to R57, R119, R124, R276). -/

set_option linter.unusedVariables false

namespace Sys2Proof.Machine

open Sys2Proof Sys2Proof.Bits

/-- Entries of a ring. -/
def SqRing.size (q : SqRing) : Nat := 2 ^ q.log2
def CqRing.size (q : CqRing) : Nat := 2 ^ q.log2

/-- A written log2_size: 6 to 16, else 6 (R32). -/
def ringLog2 (v : Nat) : Nat := if 6 ≤ v ∧ v ≤ 16 then v else 6

/-- Ring n of function f exists and the function is enabled: 64 on a VF, 16 on the PF, and ring 0 alone while the ROM service
serves the PF (R30, R328, R362). -/
def ringUp (s : State) (f n : Nat) : Bool :=
  if f = 0 then (s.boot.pfEnabled && decide (n < 16)) || (s.boot.romService && n == 0) else s.boot.pfEnabled

/-- A ring error: error and kind, enable cleared for an SQ, vector 0 (R36, R37). -/
def sqError (s : State) (f n : Nat) (kind : BitVec 2) : State :=
  raiseVec (s.setSq f n { s.sq f n with error := true, errKind := kind, enable := false, queued := 0 }) f 0

def cqError (s : State) (f n : Nat) : State := raiseVec (s.setCq f n { s.cq f n with error := true }) f 0

/-- A write of SQ_CFG_n (R32, R37). -/
def writeSqCfg (s : State) (f n : Nat) (v : Word) : State :=
  let q := s.sq f n
  let w := v.toNat
  let q := if v.getLsbD 1 then { q with error := false, errKind := 0 } else q
  if q.enable then s.setSq f n { q with enable := v.getLsbD 0, queued := if v.getLsbD 0 then q.queued else 0 }
  else
    let q := { q with log2 := ringLog2 (bits w 12 8), cq := bits w 21 16 }
    let s := s.setSq f n q
    if !v.getLsbD 0 then s
    else if (s.cq f q.cq).enable then
      s.setSq f n { q with enable := true, head := 0, tail := if q.tail < q.size then q.tail else 0 }
    else sqError s f n 3

/-- An enabled SQ of the function names CQ n. -/
def cqNamed (s : State) (f n : Nat) : Bool := (List.range 64).any (fun i => (s.sq f i).enable && (s.sq f i).cq == n)

/-- A write of CQ_CFG_n (R33). -/
def writeCqCfg (s : State) (f n : Nat) (v : Word) : State :=
  let q := s.cq f n
  let w := v.toNat
  let q := { q with
    error := q.error && !v.getLsbD 1
    intEn := v.getLsbD 2
    vector := bits w 21 16 }
  if q.enable then
    if v.getLsbD 0 then s.setCq f n q
    else if cqNamed s f n || decide (0 < cqBound s f n) then s.setCq f n { q with error := true }
    else s.setCq f n { q with enable := false }
  else
    let q := { q with log2 := ringLog2 (bits w 12 8) }
    s.setCq f n (if v.getLsbD 0 then { q with enable := true, tail := 0, head := 0, phase := true } else q)

/-! ### Conditions of a fetch (R55, R118 to R120, R124) -/

/-- Function f may fetch: the PF while no transition runs, a VF while its partition is ACTIVE and no increment waits. -/
def functionFetches (s : State) (f : Nat) : Bool :=
  !fetchStopped s &&
    (if f = 0 then !s.lc.running else (s.part (f - 1)).state == .active && (s.part (f - 1)).incPending == 0)

/-- A descriptor of the SQ is being fetched. -/
def sqFetching (s : State) (f n : Nat) : Bool :=
  s.entries.any (fun x => x.2.func == f && x.2.sq == n && x.2.phase == .fetching)

/-- The SQ has a descriptor to fetch and none in fetch. -/
def sqWants (s : State) (f n : Nat) : Bool :=
  let q := s.sq f n
  ringUp s f n && functionFetches s f && q.enable && q.head != q.tail && !sqFetching s f n

/-- Host address of the SQ's head descriptor. -/
def headAddr (q : SqRing) : BitVec 64 := q.base + BitVec.ofNat 64 (128 * q.head)

/-- Index in the flow table of flow `id` of a partition (R118). -/
def flowIdx (x : Part) (id : Nat) : Nat := x.flowBase + id - 1

/-- The flow of the ordered descriptor that stands at a host address, as far as the function's partition has it. -/
def flowAt (s : State) (f : Nat) (a : BitVec 64) : Option Nat :=
  let b := s.hostRead a.toNat 12
  let id := fieldLe b 8 4
  if f != 0 && hostGate s false && (byteAt b 2).getLsbD 2 && id != 0 && decide (id ≤ (s.part (f - 1)).flowLimit) then some id else none

/-- The descriptor at a host address is ordered and its flow has 256 requests outstanding (R55). -/
def flowFull (s : State) (f : Nat) (a : BitVec 64) : Bool :=
  match flowAt s f a with
  | some id => decide (256 ≤ (s.flow (flowIdx (s.part (f - 1)) id)).outstanding)
  | none => false

/-- The head descriptor is ordered and its flow has 256 requests outstanding, with those of the flow being fetched (R55). -/
def flowBlocked (s : State) (f n : Nat) : Bool :=
  match flowAt s f (headAddr (s.sq f n)) with
  | some id =>
    let fetching := Map.count (fun _ x => x.func == f && x.phase == .fetching && flowAt s f x.descAddr == some id) s.entries
    decide (256 ≤ (s.flow (flowIdx (s.part (f - 1)) id)).outstanding + fetching)
  | none => false

/-- The CQ has room for one more completion beyond those reserved and those posted and not consumed (R34, R55). -/
def cqRoom (s : State) (f n : Nat) : Bool :=
  let c := s.cq f n
  decide ((c.tail + c.size - c.head) % c.size + cqBound s f n + 1 ≤ c.size - 1)

/-- The SQ is blocked by a condition of R55 of its own: quota, flow or CQ room. -/
def ownBlocked (s : State) (f n : Nat) : Bool :=
  (f != 0 && decide ((s.part (f - 1)).quota ≤ quotaUse s f)) || flowBlocked s f n || !cqRoom s f (s.sq f n).cq

/-- The pool of the function has what a fetch reserves (R124). -/
def poolFree (s : State) (f : Nat) : Bool :=
  if f = 0 then (freeEntryOf s true).isSome else (freeEntryOf s false).isSome && canReserveSlot s

/-- SQs in the waiting queue of a pool that can use what frees, as function and ring: the longest waiting first (R119). -/
def ableWaiters (s : State) (pf : Bool) : List (Nat × Nat) :=
  let xs := s.hif.sq.filter (fun x => x.2.queued != 0 && (decide (x.1 < 64) == pf) &&
    sqWants s (x.1 / 64) (x.1 % 64) && !ownBlocked s (x.1 / 64) (x.1 % 64))
  (sortOn (fun x => x.2.queued) xs).map (fun x => (x.1 / 64, x.1 % 64))

/-- The SQ whose turn it is in the function's fetch round: the one visited, up to 8 descriptors, then the next that has a
descriptor it may fetch (R42). -/
def turnSq (s : State) (f : Nat) : Option Nat :=
  let r := Map.get 0 s.hif.rr f
  let c := r / 16
  let ok (n : Nat) : Bool := sqWants s f n && !ownBlocked s f n
  if r % 16 < 8 ∧ ok c then some c
  else ((List.range 64).map (fun i => (c + 1 + i) % 64)).find? ok

/-- Fetch the head descriptor: the reserved entry, and one more fetch in the round (R42, R56, R124). -/
def startFetch (s : State) (f n : Nat) : State :=
  match freeEntryOf s (f == 0) with
  | none => s
  | some e =>
    let q := s.sq f n
    let r := Map.get 0 s.hif.rr f
    let r := if r / 16 = n ∧ r % 16 < 8 then r + 1 else 16 * n + 1
    let s := s.setSq f n { q with queued := 0 }
    let s := s.setEntry e {
      state := .reserved
      phase := .fetching
      func := f
      sq := n
      cq := q.cq
      fetchGen := if f = 0 then 0 else (s.part (f - 1)).gen
      fetchSeq := s.sched.fetchSeq
      descAddr := headAddr q
      small := f == 0
      slotResv := f != 0 }
    { s with
      sched := { s.sched with fetchSeq := s.sched.fetchSeq + 1 }
      hif := { s.hif with rr := Map.set 0 s.hif.rr f r } }

/-- The SQ joins the waiting queue of its pool (R119). -/
def joinQueue (s : State) (f n : Nat) : State :=
  let q := s.sq f n
  if q.queued ≠ 0 then s
  else
    let s := s.setSq f n { q with queued := s.sched.waitSeq }
    { s with sched := { s.sched with waitSeq := s.sched.waitSeq + 1 } }

/-- Some SQ stands in the waiting queue of a pool (R119). -/
def poolQueued (s : State) (pf : Bool) : Bool := s.hif.sq.any (fun x => x.2.queued != 0 && (decide (x.1 < 64) == pf))

/-- An attempt to fetch: of an SQ in its pool's queue when the pool has room and no SQ that can use it has waited longer; of another SQ when
the pool has room and its queue is empty; else the SQ waits in the queue (R119). -/
def tryFetch (s : State) (f n : Nat) : State :=
  let q := s.sq f n
  let ahead :=
    if q.queued = 0 then poolQueued s (f == 0)
    else (ableWaiters s (f == 0)).any (fun w => decide ((s.sq w.1 w.2).queued < q.queued))
  if poolFree s f && !ahead then startFetch s f n else joinQueue s f n

/-! ### Slots (R111, R124) -/

/-- The die for a request: the die whose stack holds the extent of handle 0, or the in-service die with more free slots and
F0 on a tie; none while no in-service die has a free slot (R111). -/
def chooseDie (s : State) (x : Entry) : Option Nat :=
  let p := x.func - 1
  let h := x.desc.handle 0
  let room (d : Nat) : Bool := dieUp s d && decide (0 < freeSlots s d)
  let byKey : Option Nat :=
    if h = 0 ∨ handlePart h ≠ p then none
    else
      match recLoc (s.part p) (handleIdx h) with
      | some (d, _) => if room d then some d else none
      | none => none
  match byKey with
  | some d => some d
  | none =>
    if room 1 ∧ (!room 2 ∨ freeSlots s 2 ≤ freeSlots s 1) then some 1
    else if room 2 then some 2
    else none

/-- Give an accepted request its slot and its place on the ready list, or let it wait for a slot (R110, R111, R124). -/
def placeRequest (s : State) (e : Nat) : State :=
  match chooseDie s (s.entry e) with
  | some d =>
    let k := lowestSlot s d
    s.modEntry e (fun x => { x with
      die := d
      slot := k
      slotResv := false
      phase := .ready
      waitSince := s.tmr.now })
  | none => s.modEntry e (fun x => { x with phase := .waitSlot })

/-- Requests that wait for a slot take theirs in order of fetch, while one is free (R124). -/
def placeWaiters (s : State) : State :=
  let ws := sortOn (fun w => w.2.fetchSeq) ((slotWaiters s).map (fun e => (e, s.entry e)))
  ws.foldl (fun s w => placeRequest s w.1) s

/-- What a freed slot or entry grants: slots to the requests that wait for them, then one fetch of the longest waiting SQ of
each pool (R119, R124). -/
def grantFreed (s : State) : State :=
  let s := placeWaiters s
  let one (s : State) (pf : Bool) : State :=
    match ableWaiters s pf with
    | (f, n) :: _ => if poolFree s f then startFetch s f n else s
    | [] => s
  one (one s false) true

/-! ### Completion interrupts and the freeing of an entry (R57, R276) -/

/-- Raise a CQ's vector: count and timer start anew (R57). -/
def raiseCq (s : State) (f n : Nat) : State :=
  let c := s.cq f n
  raiseVec (s.setCq f n { c with counted := 0, timerOn := false }) f c.vector

/-- A write of CQ_MOD_n: a count already reached raises the vector, and the timer runs while it is nonzero and a completion is counted
(R33, R57). -/
def writeCqMod (s : State) (f n : Nat) (v : Word) : State :=
  let c := { s.cq f n with modCount := bits v.toNat 7 0, modTimer := bits v.toNat 25 16 }
  let s := s.setCq f n { c with timerOn := c.intEn && decide (0 < c.modTimer ∧ 0 < c.counted) }
  if c.intEn ∧ 0 < c.counted ∧ max 1 c.modCount ≤ c.counted then raiseCq s f n else s

/-- Count a posted completion (R57). -/
def countCompletion (s : State) (f n : Nat) : State :=
  let c := s.cq f n
  if !c.intEn then s
  else if max 1 c.modCount ≤ c.counted + 1 then raiseCq s f n
  else s.setCq f n { c with counted := c.counted + 1, timerOn := c.timerOn || decide (0 < c.modTimer) }

/-- With nothing in flight, every CQ of the VF with a nonzero count raises its vector (R57). -/
def flushCqs (s : State) (f : Nat) : State :=
  (List.range 64).foldl (fun s n =>
    if (s.cq f n).intEn ∧ 0 < (s.cq f n).counted then raiseCq s f n else s) s

/-- A QUIESCING partition with nothing in flight becomes FROZEN (R276). -/
def maybeFreeze (s : State) (p : Nat) : State :=
  if (s.part p).state = .quiescing ∧ inFlight s (p + 1) = 0 then movePart s p .frozen else s

/-- An entry becomes FREE: what it held goes back to its pools, and the counts that have reached 0 act. -/
def freeEntry (s : State) (e : Nat) : State :=
  let f := (s.entry e).func
  let s := s.setEntry e {}
  let s := if f ≠ 0 ∧ inFlight s f = 0 then maybeFreeze (flushCqs s f) (f - 1) else s
  grantFreed s

end Sys2Proof.Machine
end

