-- ==== Sys2Proof/Machine/Host.lean ====
section
/-! DEFINITION. The host-interface rows: doorbells, ring configuration, descriptor fetch, CQ moderation (R32 to R42, R55, R57). -/

set_option linter.unusedVariables false

namespace Sys2Proof.Machine

open Sys2Proof Sys2Proof.Bits

/-- A doorbell of an SQ: the range check always, the pass check while the ring is enabled; else the tail is recorded (R36,
R40). -/
def execSqDbWrite (f : Fin 2049) (n : Fin 64) (v : Word) (s : State) : Host.Outcome State Fault Refusal :=
  if !ringUp s f n then done s
  else
    let s := wakeOnDoorbell s
    let q := s.sq f n
    let t := bits v.toNat 15 0
    let moved := (t + q.size - q.tail % q.size) % q.size
    let out := (q.tail + q.size - q.head) % q.size
    if q.size ≤ t then done (sqError s f n 1)
    else if q.enable ∧ q.size - 1 - out < moved then done (sqError s f n 1)
    else done (s.setSq f n { q with tail := t })

/-- A doorbell of a CQ (R36, R40). -/
def execCqDbWrite (f : Fin 2049) (n : Fin 64) (v : Word) (s : State) : Host.Outcome State Fault Refusal :=
  if !ringUp s f n then done s
  else
    let s := wakeOnDoorbell s
    let q := s.cq f n
    let h := bits v.toNat 15 0
    if q.size ≤ h then done (cqError s f n)
    else if q.enable ∧ (q.tail + q.size - q.head) % q.size < (h + q.size - q.head) % q.size then done (cqError s f n)
    else done (s.setCq f n { q with head := h })

/-- A write of SQ_CFG_n with enable 1 (R32, R37). -/
def execSqEnable (f : Fin 2049) (n : Fin 64) (v : Word) (s : State) : Host.Outcome State Fault Refusal :=
  if ringUp s f n && v.getLsbD 0 then done (writeSqCfg s f n v) else done s

/-- A write of SQ_CFG_n with enable 0 (R32). -/
def execSqDisable (f : Fin 2049) (n : Fin 64) (v : Word) (s : State) : Host.Outcome State Fault Refusal :=
  if ringUp s f n && !v.getLsbD 0 then done (writeSqCfg s f n v) else done s

/-- A write of CQ_CFG_n with enable 1 (R33). -/
def execCqEnable (f : Fin 2049) (n : Fin 64) (v : Word) (s : State) : Host.Outcome State Fault Refusal :=
  if ringUp s f n && v.getLsbD 0 then done (writeCqCfg s f n v) else done s

/-- A write of CQ_CFG_n with enable 0: refused while the CQ is in use (R33). -/
def execCqDisable (f : Fin 2049) (n : Fin 64) (v : Word) (s : State) : Host.Outcome State Fault Refusal :=
  if ringUp s f n && !v.getLsbD 0 then done (writeCqCfg s f n v) else done s

/-- The fetch of the head descriptor of an SQ: with a descriptor to fetch, in its turn of the round, and blocked by no condition of
its own, it draws on its pool or waits in the pool's queue (R42, R55, R119). -/
def execDescriptorFetch (f : Fin 2049) (n : Fin 64) (s : State) : Host.Outcome State Fault Refusal :=
  if turnSq s f = some n.val then done (tryFetch s f n) else done s

/-- The moderation timer expires: the CQ's vector is raised, or with int_en 0 nothing but the end of the timer (R33, R57; log 44). -/
def execCqModTimerExpiry (f : Fin 2049) (n : Fin 64) (s : State) : Host.Outcome State Fault Refusal :=
  let c := s.cq f n
  if c.timerOn && c.intEn && decide (0 < c.counted ∧ 0 < c.modTimer) then done (raiseCq s f n)
  else if c.timerOn then done (s.setCq f n { c with timerOn := false })
  else done s

end Sys2Proof.Machine
end

