-- ==== Sys2Proof/Machine/RngOps.lean ====
section
/-! DEFINITION. The random-number chain: the derivation function and instantiation of the DRBGs, healthy sources, stopping and
returning to RUN (R243 to R248). -/

set_option linter.unusedVariables false

namespace Sys2Proof.Machine

open Sys2Proof Sys2Proof.Bits

/-- Block_Cipher_df of SP 800-90A with AES-256, 48 bytes out. -/
def drbgDf (input : Bytes) : Bytes :=
  let str := be 4 input.length ++ be 4 48 ++ input ++ [0x80]
  let str := str ++ zeros ((16 - str.length % 16) % 16)
  let key := (List.range 32).map (fun i => BitVec.ofNat 8 i)
  let temp := (List.range 3).flatMap (fun i => Cipher.cbcMac .aes key (zeros 16) (be 4 i ++ zeros 12 ++ str))
  let k := temp.take 32
  let x1 := Aes.encrypt k (slice temp 32 16)
  let x2 := Aes.encrypt k x1
  x1 ++ x2 ++ Aes.encrypt k x2

/-- Personalization string of DRBG i: unit serial, boot counter, DRBG number (R243). -/
def drbgPersonal (s : State) (i : Nat) : Bytes := le 8 Config.unitSerial.toNat ++ le 4 s.boot.count ++ [BitVec.ofNat 8 i]

/-- The chain delivers: it is in RUN (R245, R247, R250). -/
def winRuns (s : State) : Bool := s.win.state == .run

/-- DRBG i serves: the chain is in RUN, and it has been instantiated and is not overdue (R243, R247). -/
def drbgServes (s : State) (i : Nat) : Bool := winRuns s && (s.drbg i).serving && !(s.drbg i).overdue

/-- n bytes from the Keep DRBG; where it does not serve, the row stands after the wait of R245, or the rule names no source, and nothing fixes
the bytes (log 2). -/
def randomBytes (s : State) (n : Nat) : Bytes × State :=
  if drbgServes s 8 then drbgGen s 8 n
  else
    let (v, s) := s.draw (8 * n)
    (le n v.toNat, s)

/-- Reseed the mask generator of a barn from its DRBG (R135). -/
def reseedMask (s : State) (b : Nat) : State :=
  let (r, s) := drbgGen s b 32
  s.setBarn b { s.barn b with maskSeed := BitVec.ofNat 256 (ofBe r), maskDraws := 0 }

/-- Barn DRBGs of the dies in service. -/
def liveBarns (s : State) : List Nat :=
  (List.range 8).filter (fun b => if b < 4 then s.dev.f0 else s.dev.f1)

/-! ### Officer nonces (R308, R350) -/

/-- Table entry for a new nonce: the lowest that is free, else the oldest. -/
def nonceEntry (o : Officers) : Nat :=
  match Map.findFrom {} o.nonces (fun x => !x.on) 64 0 with
  | some k => k
  | none => (o.nonces.foldl (fun best x => if x.2.seq < best.2 then (x.1, x.2.seq) else best) (0, o.issued)).1

/-- Draw a nonce from the Keep DRBG into the table: its entry, the nonce and the state. -/
def issueNonce (s : State) : Nat × BitVec 64 × State :=
  let (r, s) := drbgGen s 8 8
  let v := BitVec.ofNat 64 (ofLe r)
  let k := nonceEntry s.ofc
  (k, v, { s with ofc := { s.ofc with
    nonces := Map.set {} s.ofc.nonces k { on := true, val := v, seq := s.ofc.issued }
    issued := s.ofc.issued + 1 } })

/-- Issue to the officer mailbox. -/
def mailboxNonce (s : State) : State :=
  let (k, v, s) := issueNonce s
  { s with ofc := { s.ofc with nonce := v, entry := k, ready := true, err := false } }

/-- Issue to the debug port, which shifts the nonce out of its data register. -/
def debugNonce (s : State) : State :=
  let (_, v, s) := issueNonce s
  { s with tap := { s.tap with dr := v } }

/-- Serve the issues that wait for random output, once the Keep DRBG serves. -/
def serveNonces (s : State) : State :=
  if s.ofc.waiting = 0 ∨ !drbgServes s 8 then s
  else
    let w := s.ofc.waiting
    let s := { s with ofc := { s.ofc with waiting := 0 } }
    let s := if bit w 0 then mailboxNonce s else s
    if bit w 1 then debugNonce s else s

/-- Sources that count as healthy. -/
def healthySources (s : State) : Nat := ((List.range 8).filter (fun i => (s.source i).state == 1)).length

/-- Post the winnower's tally entry: detail and source (R379). -/
def postWinnower (s : State) (detail : Nat) (src : Nat) : State :=
  Tal.post s { code := 0x0006, detail := BitVec.ofNat 16 detail, data := [BitVec.ofNat 8 src] }

/-- The chain enters STOPPED: no DRBG accepts a call, DEGRADED is set, and the tally takes an entry (R247). -/
def stopChain (s : State) : State :=
  let s := setInt (postWinnower s 2 0) winPage 1
  degrade { s with win := { s.win with state := .stopped, stoppedOnce := true } } causeRng 0x0006

/-- A self-check of the chain failed: it stays STOPPED until the next reset (R247). -/
def selfCheckFail (s : State) : State := stopChain { s with win := { s.win with selfFail := true } }

/-- The order of R245: the Keep DRBG, then barns 0 to 7. -/
def seedOrder : List Nat := 8 :: List.range 8

/-- The chain runs, and every DRBG is to be instantiated afresh before it serves (R245, R247). -/
def startSeeding (s : State) : State :=
  { s with win := { s.win with state := .run, seeding := seedOrder, drbg := Map.mapVals {} (fun _ d => { d with serving := false }) s.win.drbg } }

/-- The chain returns to RUN, and the tally takes an entry (R247). -/
def resumeChain (s : State) : State := setInt (postWinnower (startSeeding s) 3 0) winPage 2

/-- Judge the chain after a change of its sources (R246, R247). -/
def judgeChain (s : State) : State :=
  match s.win.state with
  | .run => if healthySources s < 4 then stopChain s else s
  | .stopped => if 4 ≤ healthySources s ∧ !s.win.selfFail then resumeChain s else s
  | .starting => s
  | .testmode => s

/-! ### Noise sources (R244, R246, R248) -/

/-- One raw bit through the two continuous tests of a source (R244). -/
def Source.take (x : Source) (b : Bool) : Source :=
  let run := if x.run ≠ 0 ∧ x.last = b then min 41 (x.run + 1) else 1
  if x.seen = 0 ∨ x.seen = 1024 then { x with last := b, run := run, ref := b, seen := 1, same := 1 }
  else { x with last := b, run := run, seen := x.seen + 1, same := if b = x.ref then x.same + 1 else x.same }

/-- The test that the last sample fails: repetition count (true) before adaptive proportion (R244). -/
def Source.failing (x : Source) : Option Bool := if 41 ≤ x.run then some true else if 797 ≤ x.same then some false else none

/-- The tests over the last n start-up samples, up to a failure: the test that fails, and the source after them (R245). -/
def startTest : Nat → Samples → Source → Option Bool × Source
  | 0, _, x => (none, x)
  | n + 1, v, x =>
    let y := x.take (v.getLsbD n)
    match y.failing with
    | some r => (some r, y)
    | none => startTest n v y

/-- A source's start-up test, from fresh test state. -/
def startVerdict (x : Source) (v : Samples) : Option Bool × Source := startTest 4096 v { x with run := 0, seen := 0, same := 0 }

/-- Count a failure of a source by test: a 10-bit event counter of WIN_SRC_n (R246, R252, R411). -/
def countFailure (s : State) (n : Nat) (rct : Bool) : State :=
  let x := s.source n
  let old := if rct then x.rct else x.apt
  let v := min 1023 (old + 1)
  let y := if rct then { x with rct := v } else { x with apt := v }
  let s := s.setSource n { y with sat := x.sat || decide (1023 ≤ old + 1) }
  if 1023 ≤ old + 1 then setInt s winPage 31 else s

/-- The compressor state and every undelivered block are discarded (R248). -/
def Winnower.discard (w : Winnower) : Winnower :=
  { w with lfsr := 0, phase := 0, word := 0, wordLen := 0, words := [], repeats := false, blocks := [] }

/-- A source fails a test: it is counted and excluded, or dead at its fourth failure, and the tally takes an entry (R246, R248). -/
def failSource (s : State) (n : Nat) (rct : Bool) : State :=
  let s := setInt (countFailure s n rct) winPage 0
  let x := s.source n
  let s := s.setSource n { x with fails := min 4 (x.fails + 1), state := if 4 ≤ x.fails + 1 then 3 else 2 }
  let s := postWinnower s 1 n
  { s with win := s.win.discard }

/-! ### Compressor and conditioner (R241, R242) -/

/-- Capture one bit of the tapped stream; a word that finds the FIFO full is lost (R250, R252). -/
def Winnower.capture (w : Winnower) (b : Bool) : Winnower :=
  let v := w.cap ||| ((BitVec.ofBool b).setWidth 32 <<< w.capLen)
  if w.capLen < 31 then { w with cap := v, capLen := w.capLen + 1 }
  else if w.fifo.length < 16384 then { w with cap := 0, capLen := 0, fifo := w.fifo ++ [v] }
  else { w with cap := 0, capLen := 0, overflow := true }

/-- Eight words form a conditioner block, which is compared with the block before it; a new ratio takes effect (R241, R242; log 105). -/
def Winnower.condition (w : Winnower) : Winnower :=
  let b := block (Cipher.cbcMac .aes (ofBlock Config.conditionerKey) (zeros 16) (w.words.flatMap (fun x => le 8 x.toNat)))
  { w with
    words := []
    blocks := w.blocks ++ [b]
    repeats := w.repeats || w.lastBlock == some b
    lastBlock := some b
    ratioNow := w.ratio }

/-- One output bit of the compressor. -/
def Winnower.emit (w : Winnower) (b : Bool) : Winnower :=
  let w := if w.state == .testmode && w.testTap then w.capture b else w
  let v := w.word ||| ((BitVec.ofBool b).setWidth 64 <<< w.wordLen)
  if w.wordLen < 63 then { w with word := v, wordLen := w.wordLen + 1 }
  else
    let w := { w with word := 0, wordLen := 0, words := w.words ++ [v] }
    if w.words.length < 8 then w else w.condition

/-- One raw bit into the compressor, whose feedback polynomial is x^64 + x^4 + x^3 + x + 1; after every r of them it emits the bit
that leaves the register (R241; log 105). -/
def Winnower.push (w : Winnower) (b : Bool) : Winnower :=
  let l := w.lfsr
  let f := (l.getLsbD 63 != l.getLsbD 3) != (l.getLsbD 2 != l.getLsbD 0)
  let w := { w with lfsr := (l <<< 1) ||| (BitVec.ofBool (f != b)).setWidth 64, phase := w.phase + 1 }
  if w.phase < w.ratioNow then w else ({ w with phase := 0 }).emit (l.getLsbD 63)

/-! ### Seeding (R243, R245) -/

/-- Pages of the key-record region, from 0 up to the staging region, become not valid, so every record reads as empty
(R234, R255). -/
def clearRecordPages (h : Hbm) : Hbm :=
  let top := stagingBase / 4096
  { h with
    valid := h.valid.filter (fun x => decide (top ≤ x.1))
    lines := h.lines.filter (fun x => decide (top * 64 ≤ x.1))
    merge := h.merge.filter (fun m => decide (top * 64 ≤ m.line))
    fills := h.fills.filter (fun x => decide (top ≤ x))
    upset := h.upset.filter (fun x => decide (top * 64 * 16 ≤ x.1))
    poison := h.poison.filter (fun x => decide (top * 64 ≤ x.1)) }

/-- The Keep die's HBM keys go to both controllers (R257, R272). -/
def loadHbmKeys (s : State) : State :=
  [1, 2].foldl (fun s d => s.setStack d { s.stack d with keys := s.hbmKey }) s

/-- The per-boot draws from the Keep DRBG, once in a boot: the record key, the HBM key, and the key of the unwrap
caches' set hash (R145, R234, R257). -/
def drawBootKeys (s : State) : State :=
  if s.grn.recKey.isSome then s
  else
    let (r, s) := drbgGen s 8 16
    let (h, s) := drbgGen s 8 64
    let (t, s) := drbgGen s 8 24
    let (u, s) := drbgGen s 8 16
    let keys : HbmKeys := { data := BitVec.ofNat 512 (ofLe h), hash := BitVec.ofNat 64 (ofLe (t.take 8)), pad := BitVec.ofNat 128 (ofLe (t.drop 8)) }
    let s := { s with
      grn := { s.grn with recKey := some (block r), uwcKey := block u }
      hbmKey := some keys
      hbm := Map.mapVals {} (fun _ x => clearRecordPages x) s.hbm }
    loadHbmKeys s

/-- Instantiate DRBG i from 512 bits of conditioner output; it serves, and what waits for it goes on (R135, R243, R245, R308). -/
def instantiateDrbg (s : State) (i : Nat) (entropy : Bytes) : State :=
  let d := drbgUpdate {} (drbgDf (entropy ++ drbgPersonal s i))
  let s := perfCount (s.setDrbg i { d with ctr := 0, serving := true, overdue := false }) winPage 0x040 4
  if i = 8 then serveNonces (drawBootKeys s) else reseedMask s i

/-- Deliver blocks to the DRBGs still to be instantiated, in order, four blocks each, while the chain runs (R245). -/
def deliver : Nat → State → State
  | 0, s => s
  | n + 1, s =>
    match s.win.seeding, s.win.blocks with
    | i :: rest, a :: b :: c :: d :: more =>
      if winRuns s then
        deliver n (instantiateDrbg { s with win := { s.win with seeding := rest, blocks := more } } i ([a, b, c, d].flatMap ofBlock))
      else s
    | _, _ => s

/-- Take one bit of the test state of each source, from a sampling instant. -/
def testSources (s : State) (v : Byte) : State :=
  (List.range 8).foldl (fun s i => s.setSource i ((s.source i).take (v.getLsbD i))) s

/-- Healthy sources whose last sample fails a test, with the test. -/
def failingSources (s : State) : List (Nat × Bool) :=
  (List.range 8).filterMap (fun i => if (s.source i).state = 1 then (s.source i).failing.map (fun r => (i, r)) else none)

/-- The compressor's bits of a sampling instant: one from each healthy source, in ascending order (R240, R241). -/
def compressInstant (s : State) (v : Byte) : Winnower :=
  ((List.range 8).filter (fun i => (s.source i).state == 1)).foldl (fun w i => w.push (v.getLsbD i)) s.win

/-- One sampling instant (R240 to R250): the tests run in every state of the chain, a source that fails is out at once, and in RUN and in
test mode the raw bits of the healthy sources enter the compressor. Two equal blocks stop the chain. -/
def takeInstant (s : State) (v : Byte) : State :=
  let s := testSources s v
  let bad := failingSources s
  let s := if bad.isEmpty then s else judgeChain (bad.foldl (fun s b => failSource s b.1 b.2) s)
  if s.win.state = .run ∨ s.win.state = .testmode then
    let full := s.win.overflow
    let w := compressInstant s v
    let w := if w.state == .testmode && !w.testTap then w.capture (v.getLsbD w.testSrc) else w
    let s := { s with win := w }
    let s := if w.overflow && !full then setInt s winPage 3 else s
    if w.repeats then selfCheckFail { s with win := { w with repeats := false } } else deliver 9 s
  else s

/-- Sampling instants in a row. -/
def takeRaw (s : State) (raw : Raw) : State := raw.foldl takeInstant s

end Sys2Proof.Machine
end

