-- ==== Sys2Proof/Machine/Random.lean ====
section
/-! DEFINITION. The random-number chain's rows: start-up, reseeds, source health, test mode, the words read by firmware, and the
waits for random output (R69, R135, R234, R241 to R252, R308). -/

set_option linter.unusedVariables false

namespace Sys2Proof.Machine

open Sys2Proof Sys2Proof.Bits

/-- BOOT_STALL with a reason: FAULT_N is asserted and no image executes (R356). -/
def bootStall (s : State) (reason : Nat) : State :=
  { s with boot := { s.boot with phase := .stall, stall := reason, faultN := true, pfEnabled := false, romService := false } }

/-- Judge one source's start-up samples: healthy when it passed, else failed (R245). -/
def startSource (start : List Samples) (s : State) (n : Nat) : State :=
  if (s.source n).state = 3 then s
  else
    let (r, x) := startVerdict (s.source n) (start.getD n 0)
    match r with
    | none => s.setSource n { x with state := 1 }
    | some t => failSource (s.setSource n x) n t

/-- The sources after the start-up tests. -/
def startSources (start : List Samples) (s : State) : State := (List.range 8).foldl (startSource start) s

/-- The start-up gating ends: at least 4 sources have passed and the known-answer tests too; the DRBGs are instantiated in
order, each as four blocks have formed from the raw bits that follow, and serve (R245). A chain that a self-check stopped stays so (R247). -/
def execWinnowerStartupDone (start : StartUp) (s : State) : Host.Outcome State Fault Refusal :=
  let t := startSources start.samples s
  if keepRuns s && s.win.state == .starting && !s.win.selfFail && decide (4 ≤ healthySources t) then
    done (takeRaw (startSeeding { t with win := { t.win with retest := false } }) start.raw)
  else done s

/-- Fewer than 4 sources passed within 100 ms, or a known-answer test failed: the chain enters STOPPED and the boot stalls with
reason 0x07 (R245, R356). A restart after test mode is no boot, and stops the chain alone. -/
def execWinnowerStartupTimeout (start : List Samples) (kat : Bool) (s : State) : Host.Outcome State Fault Refusal :=
  let t := startSources start s
  if keepRuns s && s.win.state == .starting && (kat || decide (healthySources t < 4)) then
    let t := stopChain { t with win := { t.win with selfFail := t.win.selfFail || kat, retest := false } }
    done (if s.win.retest then t else bootStall t 7)
  else done s

/-- The barn's mask generator is reseeded from its DRBG; when that cannot serve, the generator runs on (R135). -/
def execMaskGeneratorReseed (barn : Fin 8) (s : State) : Host.Outcome State Fault Refusal :=
  if keepRuns s && dieUp s (dieOfBarn barn) && drbgServes s barn then done (reseedMask s barn) else done s

/-- The big-number engine of a request whose command waits for random output. -/
def starvedBne (s : State) (e : Nat) : Option Nat :=
  match ownedBne s (s.entry e).lead with
  | some k => if ((s.bne k).run.any (fun p => p.draw.isSome)) && !drbgServes s (s.entry e).barn then some k else none
  | none => none

/-- Entry e waits for random output: of its barn, as a function or at a DRBG port, or of the Keep DRBG in warden firmware. -/
def waitsRandom (s : State) (e : Nat) : Bool :=
  let x := s.entry e
  x.state == .reserved &&
    (x.phase == .running && (x.rngWait || x.group.any (fun c => (s.core c).wait == .drbg)) && !drbgServes s x.barn ||
      x.phase == .firmware && x.rngWait && !drbgServes s 8)

/-- A wait for random output reaches 100 ms: a BNE command ends with RNG_UNAVAILABLE (R205), the request ends with RNG_UNAVAILABLE, or the nonce issue with its error (R69,
R308). The debits of the request stand. -/
def execRngWaitTimeout (w : RngWaiter) (s : State) : Host.Outcome State Fault Refusal :=
  match w with
  | .request e =>
    done (
      match starvedBne s e with
      | some k => s.setBne k { s.bne k with run := (s.bne k).run.map (fun p => { p with draw := none }) }
      | none => if waitsRandom s e then endRequest s e St.rngUnavailable else s)
  | .mailbox =>
    done (if bit s.ofc.waiting 0 ∧ !drbgServes s 8 then
      { s with ofc := { s.ofc with waiting := s.ofc.waiting - 1, ready := false, err := true } } else s)
  | .debug =>
    done (if bit s.ofc.waiting 1 ∧ !drbgServes s 8 then
      { s with ofc := { s.ofc with waiting := s.ofc.waiting - 2 } } else s)

/-- A reseed: raw bits enter the chain, and the DRBG absorbs the next two undelivered blocks; short of blocks it goes on without (R243,
R251). Two equal blocks stop the chain as the second forms, and so does a failed self-check (R242, R247). -/
def execDrbgReseed (d : Fin 9) (raw : Raw) (condFail drbgFail : Bool) (s : State) : Host.Outcome State Fault Refusal :=
  if !keepRuns s then done s
  else
    let s := deliver 9 (takeRaw s raw)
    if !winRuns s || !(s.drbg d).serving then done s
    else if condFail || drbgFail then done (selfCheckFail s)
    else
      match s.win.blocks with
      | a :: b :: rest =>
        let x := drbgUpdate (s.drbg d) (drbgDf (ofBlock a ++ ofBlock b))
        let s := s.setDrbg d { x with ctr := 0, overdue := false }
        done (serveNonces (perfCount { s with win := { s.win with blocks := rest } } winPage 0x040 2))
      | _ => done s

/-- A reseed 10 ms overdue: the DRBG stops serving until its next reseed (R243). -/
def execDrbgReseedOverdue (d : Fin 9) (s : State) : Host.Outcome State Fault Refusal :=
  if keepRuns s && (s.drbg d).serving then done (s.setDrbg d { s.drbg d with overdue := true }) else done s

/-- Raw bits on the last of which a healthy source fails a continuous test (R244, R246); with fewer than 4 left the chain stops (R247). -/
def execSourceHealthFail (raw : Raw) (last : Byte) (s : State) : Host.Outcome State Fault Refusal :=
  done (if keepRuns s then takeInstant (takeRaw s raw) last else s)

/-- The start-up test that an excluded source reruns after 1 s (R246). Where the chain returns to RUN, its DRBGs are instantiated from the raw bits
that follow (R247). -/
def execSourceRetest (src : Fin 8) (samples : Samples) (raw : Raw) (s : State) : Host.Outcome State Fault Refusal :=
  let x := s.source src
  if !keepRuns s || x.state != 2 then done s
  else
    let (r, y) := startVerdict x samples
    match r with
    | none => done (takeRaw (judgeChain (s.setSource src { y with state := 1, readmits := min 3 (x.readmits + 1) })) raw)
    | some t => done (takeRaw (judgeChain (failSource (s.setSource src y) src t)) raw)

/-- Fields of WIN_TEST from a written value. -/
def winTestFields (s : State) (v : Word) (en : Bool) : State :=
  { s with win := { s.win with testEn := en, testSrc := bits v.toNat 3 1, testTap := bit v.toNat 4 } }

/-- WIN_TEST.enable set: test mode in TEST and ANALYSIS; ignored in any other state (R250). -/
def execWinTestEnable (v : Word) (s : State) : Host.Outcome State Fault Refusal :=
  if !keepRuns s || s.win.testEn || !v.getLsbD 0 then done s
  else if lcCode s = lcTest ∨ lcCode s = lcAnalysis then
    let s := winTestFields s v true
    done (postWinnower { s with win := { s.win with state := .testmode } } 4 0)
  else done s

/-- Leave test mode: the chain restarts from the start-up tests, and no DRBG state or sample from before survives (R250). After a failed
self-check it stays STOPPED (R247). -/
def leaveTestMode (s : State) : State :=
  let restart (x : Source) : Source := if x.state = 3 then x else { x with state := 0 }
  let s := { s with win := { s.win with
    state := if s.win.selfFail then .stopped else .starting
    testEn := false
    retest := true
    src := Map.mapVals {} (fun _ x => restart x) s.win.src
    lastBlock := none
    seeding := []
    drbg := [] } }
  let s := { s with win := s.win.discard }
  postWinnower s 5 0

/-- WIN_TEST.enable cleared (R250). -/
def execWinTestDisable (v : Word) (s : State) : Host.Outcome State Fault Refusal :=
  if !keepRuns s || !s.win.testEn || v.getLsbD 0 then done s
  else done (leaveTestMode (winTestFields s v false))

/-- A read of WIN_RAW pops the earliest captured word (R252). -/
def execWinRawRead (s : State) : Host.Outcome State Fault Refusal :=
  done { s with win := { s.win with fifo := s.win.fifo.drop 1 } }

/-- A read of WIN_RAND_3 consumes all 16 bytes and clears rand_ready until a refill (R252). -/
def execWinRandRead (s : State) : Host.Outcome State Fault Refusal :=
  done { s with win := { s.win with rand := [], randReady := false } }

/-- The Keep DRBG refills WIN_RAND (R252). -/
def execWinRandRefill (s : State) : Host.Outcome State Fault Refusal :=
  if keepRuns s && drbgServes s 8 && !s.win.randReady then
    let (r, s) := drbgGen s 8 16
    done { s with win := { s.win with rand := r, randReady := true } }
  else done s

end Sys2Proof.Machine
end

