-- ==== Sys2Proof/Machine/Power.lean ====
section
/-! DEFINITION. The power and clock rows and the histogram rows: requests and answers of the handshakes, the wake, clock gating,
throttling, rail events, PLLs (R402 to R408, R410, R415). -/

set_option linter.unusedVariables false

namespace Sys2Proof.Machine

open Sys2Proof Sys2Proof.Bits

/-- PWR_REQ target IDLE. -/
def execPwrReqIdle (s : State) : Host.Outcome State Fault Refusal := done (startHandshake s .idle)

/-- PWR_REQ target RUN: a wake from IDLE. -/
def execPwrReqRun (s : State) : Host.Outcome State Fault Refusal := done (if keepRuns s then startWake s else s)

/-- PWR_REQ target 0b11: the preparation of FALLOW. -/
def execPwrReqFallowPreparation (s : State) : Host.Outcome State Fault Refusal := done (startHandshake s .fallow)

/-- DEV_PWR_REQ.shutdown, a register of the PF. -/
def execDevPwrReqShutdown (s : State) : Host.Outcome State Fault Refusal :=
  done (if s.boot.pfEnabled then startHandshake s .fallow else s)

/-- No request is in flight and no descriptor is being fetched. -/
def quiet (s : State) : Bool :=
  Map.count (fun _ x => x.state != .free && (x.accepted || x.phase == .fetching || x.phase == .waitSlot)) s.entries == 0

/-- idle_after milliseconds of quiet have passed: the controller requests IDLE itself (R404). -/
def execIdleAfterExpiry (s : State) : Host.Outcome State Fault Refusal :=
  done (if s.pwr.idleAfter ≠ 0 ∧ quiet s then startHandshake s .idle else s)

/-- What an agent has to answer: ACK where its condition holds, else its REFUSE or DELAY (R403). Slot writes, snapshots and tally
writes are whole steps here, so agents 0x2 and 0x4 are never found in one. -/
def agentAnswer (s : State) (agent : Nat) : AgentAnswer :=
  let hbm (d : Nat) : AgentAnswer :=
    let h := s.stack d
    if h.retiring.isNone && h.fills.isEmpty && h.held.isEmpty then .ack else .delay 50
  match agent with
  | 1 => if s.pwr.fetchStop && quiet s then .ack else .delay 500
  | 3 => if s.win.state = .testmode then .refuse 0x02 else .ack
  | 5 =>
    if s.yoke.halt then .refuse 0x03
    else if s.yoke.aState = .resyncing ∨ s.yoke.bState = .resyncing then .delay 2000
    else .ack
  | 6 => hbm 1
  | 7 => hbm 2
  | 8 => if s.lc.running then .refuse 0x06 else .ack
  | 9 => if (List.range 8).any (fun b => (s.bae b).owner == .warden) then .refuse 0x07 else .ack
  | _ => .ack

/-- An ACK: the next agent is asked, or the transition commits (R403, R404, R406). -/
def agentAck (s : State) : State :=
  if s.pwr.asking < 9 then { s with pwr := { s.pwr with asking := s.pwr.asking + 1 } }
  else
    match s.pwr.target with
    | .idle => commitIdle s
    | .fallow => commitFallow s
    | .none => s

/-- The agent asked now answers. An answer that the state does not give that agent does not occur (log 1). -/
def execPwrAgentAnswer (ans : AgentAnswer) (s : State) : Host.Outcome State Fault Refusal :=
  if s.pwr.target = .none ∨ s.pwr.delay ∨ ans ≠ agentAnswer s s.pwr.asking then done s
  else
    match ans with
    | .ack => done (agentAck s)
    | .refuse r => done (abandonHandshake s pwrRefused s.pwr.asking r.toNat)
    | .delay _ => done { s with pwr := { s.pwr with delay := true } }

/-- The count of a DELAY expires, and that agent is asked again (R403). -/
def execPwrDelayExpiry (s : State) : Host.Outcome State Fault Refusal := done { s with pwr := { s.pwr with delay := false } }

/-- 10 ms without a commit: the transition is abandoned at the agent asked (R403). -/
def execPwrHandshakeTimeout (s : State) : Host.Outcome State Fault Refusal :=
  done (abandonHandshake s pwrTimedOut s.pwr.asking 0)

/-- The raw bits of the seeding phase of a wake, which nothing fixes: as many instants as the 32 blocks of the barn DRBGs take at the ratio and with
the healthy sources of the moment (R241 to R243, R405; log 2). -/
def seedingRaw (s : State) : Raw × State :=
  let n := 32 * 512 * max s.win.ratio s.win.ratioNow / healthySources s + 1
  let (v, s) := s.draw (8 * n)
  (le n v.toNat, s)

/-- The last phase of the wake ends: self-refresh is left, the barn DRBGs are instantiated and serve, fetching resumes (R243, R405). -/
def execIdleWakeDone (s : State) : Host.Outcome State Fault Refusal :=
  if !s.pwr.waking then done s
  else
    let s := { s with
      hbm := Map.mapVals {} (fun _ h => { h with selfRefresh := false, keys := s.hbmKey }) s.hbm
      pwr := { s.pwr with state := pwrRun, waking := false, awake := 3, fetchStop := false } }
    done (if winRuns s then
        let (raw, s) := seedingRaw s
        takeRaw { s with win := { s.win with seeding := s.win.seeding.filter (fun i => decide (i = 8)) ++ List.range 8 } } raw
      else s)

/-- A Field die not awake within 5 ms is taken out of service; with no other die left to wait for, the wake goes on without
it (R405). -/
def execWakeDieTimeout (die : Fin 2) (s : State) : Host.Outcome State Fault Refusal :=
  if s.pwr.waking && dieUp s (die + 1) then done (dieOut s (die + 1) causeLink 0) else done s

/-- Contexts of a stook in use. -/
def stookBusy (s : State) (k : Nat) : Bool := (List.range 64).any (fun i => (s.core (64 * k + i)).phase != .free)

/-- In TRIM a stook without a context in use for 256 field cycles has its clock gated (R402). -/
def execStookClockGate (k : Fin 32) (s : State) : Host.Outcome State Fault Refusal :=
  if keepRuns s && s.pwr.trim && (s.pwr.state == pwrRun || s.pwr.state == pwrTrim) && dieUp s (dieOfStook k) && !stookBusy s k then
    done { s with pwr := { s.pwr with gated := Map.set false s.pwr.gated k true, state := pwrTrim } }
  else done s

/-- Clock step, samples counted and hold of a die after a reading (R407). -/
def thermalNext (point tj : Int) (step cool slow : Nat) (hot : Bool) : Nat × Nat × Nat × Bool :=
  if point < tj then
    if step < 3 then (step + 1, 0, 0, hot)
    else (step, 0, min 1000 (slow + 1), hot || decide (1000 ≤ slow + 1))
  else
    let hot := hot && decide (point ≤ tj)
    if tj < point - 5 then
      if 100 ≤ cool + 1 ∧ 0 < step then (step - 1, 0, 0, hot) else (step, min 100 (cool + 1), 0, hot)
    else (step, 0, 0, hot)

/-- The reading of every 1 ms (R407). -/
def execThermalSample (die : Fin 2) (tj : Int) (s : State) : Host.Outcome State Fault Refusal :=
  let d := die.val
  if keepRuns s && dieUp s (d + 1) && s.pwr.state != pwrIdle then
    let p := s.pwr
    let (step, cool, slow, hot) := thermalNext s.scr.throttle tj (Map.get 0 p.step d) (Map.get 0 p.cool d)
      (Map.get 0 p.slow d) (Map.get false p.hot d)
    done { s with pwr := { p with
      step := Map.set 0 p.step d step
      cool := Map.set 0 p.cool d cool
      slow := Map.set 0 p.slow d slow
      hot := Map.set false p.hot d hot } }
  else done s

/-- In RUN and TRIM, a Field rail below 0.68 V for 1 us takes the die out of service (R408). -/
def execFieldRailUndervoltage (die : Fin 2) (s : State) : Host.Outcome State Fault Refusal :=
  if keepRuns s && (s.pwr.state == pwrRun || s.pwr.state == pwrTrim) && dieUp s (die + 1) then
    done (dieOut s (die + 1) causeLink 0)
  else done s

/-- A domain whose PLL has not locked takes the failure exit: DEGRADED on the Keep die, and the die out of service on a Field
die (R410). -/
def pllFailed (s : State) (i : Nat) : State :=
  if i < 2 then degrade s causeClock 0 else if dieUp s (i - 1) then dieOut s (i - 1) causeLink 0 else s

/-- Switch one domain onto its PLL; a bit once set stays (R410). -/
def switchClock (v : Word) (s : State) (i : Nat) : State :=
  if !v.getLsbD i || s.pwr.clkCtrl.getLsbD i then s
  else if s.pwr.lock.getLsbD i then
    { s with pwr := { s.pwr with
      clkCtrl := s.pwr.clkCtrl ||| BitVec.twoPow 4 i
      armed := s.pwr.armed ||| BitVec.twoPow 4 i } }
  else pllFailed s i

/-- A write of CLK_CTRL by warden firmware at step 6 of the boot. -/
def execClkCtrlSwitch (v : Word) (s : State) : Host.Outcome State Fault Refusal :=
  if keepRuns s then done ((List.range 4).foldl (switchClock v) s) else done s

/-- A PLL that was started locks (R410). -/
def execPllLock (k : Fin 4) (s : State) : Host.Outcome State Fault Refusal :=
  if keepRuns s && s.pwr.pllStarted then done { s with pwr := { s.pwr with lock := s.pwr.lock ||| BitVec.twoPow 4 k } }
  else done s

/-- Zero every histogram bin with its wrap bit (R415, R417). -/
def clearHist (s : State) : State := { s with hif := { s.hif with hist := [], histWrap := [] } }

/-- A write of HIF_HIST_CFG: a change of base_log2 clears every bin. -/
def execHifHistBaseWrite (v : Word) (s : State) : Host.Outcome State Fault Refusal :=
  let b := bits v.toNat 3 0
  if !keepRuns s || b == s.hif.histBase then done s
  else done (clearHist { s with hif := { s.hif with histBase := b } })

/-- A write of HIF_HIST_CFG with clear set: every bin is zeroed, and the base takes the written value. -/
def execHifHistClear (v : Word) (s : State) : Host.Outcome State Fault Refusal :=
  if keepRuns s && v.getLsbD 4 then done (clearHist { s with hif := { s.hif with histBase := bits v.toNat 3 0 } })
  else done s

end Sys2Proof.Machine
end

