-- ==== Sys2Proof/Machine/CryptoNum.lean ====
section
/-! DEFINITION. Modular arithmetic, RSA (RFC 8017: PKCS #1 v1.5 and PSS signatures), the curves P-256, P-384 and P-521
with ECDSA (FIPS 186-5), and Ed25519 (RFC 8032), as the standards that the spec names give them (PRESUMED, log 10). -/

namespace Sys2Proof.Num

/-- a ^ e mod m over the n low bits of e, highest first, from r. -/
def powAux (a e m : Nat) : Nat → Nat → Nat
  | 0, r => r
  | n + 1, r =>
    let r2 := r * r % m
    powAux a e m n (if e / 2 ^ n % 2 = 1 then r2 * a % m else r2)

/-- a ^ e mod m, with 0 ^ 0 = 1. -/
def powMod (a e m : Nat) : Nat := powAux (a % m) e m (Nat.log2 e + 1) (1 % m)

/-- Inverse modulo a prime, 0 of 0. -/
def invMod (a p : Nat) : Nat := powMod a (p - 2) p

def addMod (a b m : Nat) : Nat := (a + b) % m

def subMod (a b m : Nat) : Nat := (a % m + (m - b % m)) % m

/-- Extended Euclid: the inverse of a modulo m where it exists. -/
def egcdAux : Nat → Int → Int → Int → Int → Int
  | 0, _, _, s, _ => s
  | n + 1, a, b, s, t => if b = 0 then s else egcdAux n b (a % b) t (s - a / b * t)

def invGeneral (a m : Nat) : Nat :=
  (egcdAux (2 * Nat.log2 m + 4) (a % m : Nat) (m : Nat) 1 0 % (m : Int)).toNat

/-- Write n - 1 = 2^s * d with d odd. -/
def twos : Nat → Nat → Nat × Nat
  | 0, d => (0, d)
  | f + 1, d => if d % 2 = 0 then let r := twos f (d / 2); (r.1 + 1, r.2) else (0, d)

/-- The squaring chain of a Miller-Rabin round: some square is n - 1. -/
def mrChain (n : Nat) : Nat → Nat → Bool
  | 0, _ => false
  | k + 1, x => x = n - 1 || mrChain n k (x * x % n)

/-- Miller-Rabin to one base. -/
def mrRound (n a : Nat) : Bool :=
  let sd := twos (Nat.log2 n + 1) (n - 1)
  let x := powMod a sd.2 n
  x = 1 || mrChain n sd.1 x

/-- Passes Miller-Rabin to the first 40 prime bases below 174. -/
def probablePrime (n : Nat) : Bool :=
  let bases := [2, 3, 5, 7, 11, 13, 17, 19, 23, 29, 31, 37, 41, 43, 47, 53, 59, 61, 67, 71] ++
    [73, 79, 83, 89, 97, 101, 103, 107, 109, 113, 127, 131, 137, 139, 149, 151, 157, 163, 167, 173]
  decide (1 < n) && bases.all (fun a => n = a || (decide (n % a ≠ 0) && mrRound n a))

/-- The first odd number from c upward that passes and whose predecessor is prime to e; `fuel` bounds the search. -/
def nextPrime (e : Nat) : Nat → Nat → Nat
  | 0, c => c
  | f + 1, c => if probablePrime c && Nat.gcd e (c - 1) = 1 then c else nextPrime e f (c + 2)

end Sys2Proof.Num

namespace Sys2Proof.Rsa

open Sys2Proof Sys2Proof.Bits

/-- DigestInfo prefix of a hash for PKCS #1 v1.5. -/
def digestInfo (a : Hash.Alg) : Bytes :=
  let oidLast : Nat := match a with
    | .sha256 => 0x01
    | .sha384 => 0x02
    | .sha512 => 0x03
    | .sha224 => 0x04
    | .sha512t256 => 0x06
    | .sha3 224 => 0x07
    | .sha3 256 => 0x08
    | .sha3 384 => 0x09
    | _ => 0x0A
  let n := Hash.digestLen a
  ([0x30, 0x11 + n, 0x30, 0x0D, 0x06, 0x09, 0x60, 0x86, 0x48, 0x01, 0x65, 0x03, 0x04, 0x02, oidLast, 0x05, 0x00, 0x04,
    n] : List Nat).map (BitVec.ofNat 8)

/-- EMSA-PKCS1-v1_5 of a digest in k bytes; none where k is too small. -/
def emsaPkcs1 (a : Hash.Alg) (digest : Bytes) (k : Nat) : Option Bytes :=
  let t := digestInfo a ++ digest
  if k < t.length + 11 then none
  else some ([0x00, 0x01] ++ List.replicate (k - t.length - 3) 0xFF ++ [0x00] ++ t)

/-- MGF1. -/
def mgf1 (a : Hash.Alg) (seed : Bytes) (n : Nat) : Bytes :=
  ((List.range ((n + Hash.digestLen a - 1) / Hash.digestLen a)).flatMap
    (fun i => Hash.hash a (seed ++ be 4 i))).take n

/-- EMSA-PSS of a digest with the given salt, for a modulus of `bits` bits; none where it does not fit. -/
def emsaPss (a : Hash.Alg) (digest salt : Bytes) (bits : Nat) : Option Bytes :=
  let emBits := bits - 1
  let emLen := (emBits + 7) / 8
  let hLen := Hash.digestLen a
  if emLen < hLen + salt.length + 2 then none
  else
    let h := Hash.hash a (zeros 8 ++ digest ++ salt)
    let db := zeros (emLen - salt.length - hLen - 2) ++ [0x01] ++ salt
    let masked := xor db (mgf1 a h db.length)
    let keep : Nat := 8 - (8 * emLen - emBits)
    let first := BitVec.ofNat 8 ((byteAt masked 0).toNat % 2 ^ keep)
    some (first :: masked.drop 1 ++ h ++ [0xBC])

/-- EMSA-PSS verification with the given salt length. -/
def pssVerify (a : Hash.Alg) (digest em : Bytes) (bits saltLen : Nat) : Bool :=
  let emBits := bits - 1
  let emLen := (emBits + 7) / 8
  let hLen := Hash.digestLen a
  if emLen < hLen + saltLen + 2 then false
  else
    let db := em.take (emLen - hLen - 1)
    let h := slice em (emLen - hLen - 1) hLen
    let plain := xor db (mgf1 a h db.length)
    let keep : Nat := 8 - (8 * emLen - emBits)
    let dbp := BitVec.ofNat 8 ((byteAt plain 0).toNat % 2 ^ keep) :: plain.drop 1
    let ps := emLen - saltLen - hLen - 2
    decide (byteAt em (emLen - 1) = 0xBC) && decide ((byteAt db 0).toNat < 2 ^ keep) &&
      allZero (dbp.take ps) && decide (byteAt dbp ps = 0x01) &&
      decide (h = Hash.hash a (zeros 8 ++ digest ++ slice dbp (emLen - hLen - 1 - saltLen) saltLen))

/-- The private operation by CRT. -/
def crt (c p q dp dq qinv : Nat) : Nat :=
  let m1 := Num.powMod c dp p
  let m2 := Num.powMod c dq q
  m2 + Num.subMod m1 m2 p * qinv % p * q

end Sys2Proof.Rsa

namespace Sys2Proof.Ec

open Sys2Proof Sys2Proof.Bits

/-- A short Weierstrass curve with a = -3. -/
structure Curve where
  p : Nat
  b : Nat
  n : Nat
  gx : Nat
  gy : Nat
  /-- coordinate bytes -/
  len : Nat
deriving DecidableEq, Repr

def p256 : Curve where
  p := 0xFFFFFFFF00000001000000000000000000000000FFFFFFFFFFFFFFFFFFFFFFFF
  b := 0x5AC635D8AA3A93E7B3EBBD55769886BC651D06B0CC53B0F63BCE3C3E27D2604B
  n := 0xFFFFFFFF00000000FFFFFFFFFFFFFFFFBCE6FAADA7179E84F3B9CAC2FC632551
  gx := 0x6B17D1F2E12C4247F8BCE6E563A440F277037D812DEB33A0F4A13945D898C296
  gy := 0x4FE342E2FE1A7F9B8EE7EB4A7C0F9E162BCE33576B315ECECBB6406837BF51F5
  len := 32

def p384 : Curve where
  p := 0xFFFFFFFFFFFFFFFFFFFFFFFFFFFFFFFFFFFFFFFFFFFFFFFFFFFFFFFFFFFFFFFEFFFFFFFF0000000000000000FFFFFFFF
  b := 0xB3312FA7E23EE7E4988E056BE3F82D19181D9C6EFE8141120314088F5013875AC656398D8A2ED19D2A85C8EDD3EC2AEF
  n := 0xFFFFFFFFFFFFFFFFFFFFFFFFFFFFFFFFFFFFFFFFFFFFFFFFC7634D81F4372DDF581A0DB248B0A77AECEC196ACCC52973
  gx := 0xAA87CA22BE8B05378EB1C71EF320AD746E1D3B628BA79B9859F741E082542A385502F25DBF55296C3A545E3872760AB7
  gy := 0x3617DE4A96262C6F5D9E98BF9292DC29F8F41DBD289A147CE9DA3113B5F0B8C00A60B1CE1D7E819D7A431D7C90EA0E5F
  len := 48

def p521 : Curve where
  p := 2 ^ 521 - 1
  b := 0x0051953EB9618E1C9A1F929A21A0B68540EEA2DA725B99B315F3B8B489918EF109E156193951EC7E937B1652C0BD3BB1BF073573DF883D2C34F1EF451FD46B503F00
  n := 0x01FFFFFFFFFFFFFFFFFFFFFFFFFFFFFFFFFFFFFFFFFFFFFFFFFFFFFFFFFFFFFFFFFA51868783BF2F966B7FCC0148F709A5D03BB5C9B8899C47AEBB6FB71E91386409
  gx := 0x00C6858E06B70404E9CD9E3ECB662395B4429C648139053FB521F828AF606B4D3DBAA14B5E77EFE75928FE1DC127A2FFA8DE3348B3C1856A429BF97E7E31C2E5BD66
  gy := 0x011839296A789A3BC0045C8A5FB42C7D1BD998F54449579B446817AFBD17273E662C97EE72995EF42640C550B9013FAD0761353C7086A272C24088BE94769FD16650
  len := 66

/-- A point; none is the point at infinity. -/
abbrev Pt := Option (Nat × Nat)

def onCurve (c : Curve) (x y : Nat) : Bool :=
  decide (x < c.p) && decide (y < c.p) &&
    decide (y * y % c.p = (x * x % c.p * x + (c.p - 3) * x + c.b) % c.p)

def add (c : Curve) (a b : Pt) : Pt :=
  match a, b with
  | none, q => q
  | q, none => q
  | some (x1, y1), some (x2, y2) =>
    if x1 = x2 ∧ (y1 + y2) % c.p = 0 then none
    else
      let l :=
        if x1 = x2 then (3 * x1 * x1 + c.p - 3) % c.p * Num.invMod (2 * y1) c.p % c.p
        else Num.subMod y2 y1 c.p * Num.invMod (Num.subMod x2 x1 c.p) c.p % c.p
      let x3 := Num.subMod (l * l) (x1 + x2) c.p
      some (x3, Num.subMod (l * Num.subMod x1 x3 c.p) y1 c.p)

/-- k times a point over the n low bits of k, highest first. -/
def smulAux (c : Curve) (k : Nat) (pt : Pt) : Nat → Pt → Pt
  | 0, r => r
  | n + 1, r =>
    let r2 := add c r r
    smulAux c k pt n (if k / 2 ^ n % 2 = 1 then add c r2 pt else r2)

def smul (c : Curve) (k : Nat) (pt : Pt) : Pt := smulAux c k pt (Nat.log2 k + 1) none

def base (c : Curve) : Pt := some (c.gx, c.gy)

/-- The integer of a digest: its leftmost bits, as many as the order has. -/
def digestInt (c : Curve) (digest : Bytes) : Nat :=
  let bits := Nat.log2 c.n + 1
  let d := ofBe digest
  if bits < 8 * digest.length then d / 2 ^ (8 * digest.length - bits) else d

/-- ECDSA with nonce k; none where r or s is 0. -/
def sign (c : Curve) (d k : Nat) (digest : Bytes) : Option (Nat × Nat) :=
  match smul c k (base c) with
  | none => none
  | some (x, _) =>
    let r := x % c.n
    let s := Num.invMod k c.n * (digestInt c digest + r * d) % c.n
    if r = 0 ∨ s = 0 then none else some (r, s)

/-- ECDSA verification of r, s under the public point. -/
def verify (c : Curve) (q : Pt) (r s : Nat) (digest : Bytes) : Bool :=
  if r = 0 ∨ c.n ≤ r ∨ s = 0 ∨ c.n ≤ s then false
  else
    let w := Num.invMod s c.n
    match add c (smul c (digestInt c digest * w % c.n) (base c)) (smul c (r * w % c.n) q) with
    | none => false
    | some (x, _) => decide (x % c.n = r)

/-- 0x04 ‖ X ‖ Y. -/
def encode (c : Curve) (pt : Pt) : Bytes :=
  match pt with
  | none => zeros (2 * c.len + 1)
  | some (x, y) => [0x04] ++ be c.len x ++ be c.len y

/-- The point of 0x04 ‖ X ‖ Y, none where the bytes are not a point on the curve. -/
def decode (c : Curve) (bs : Bytes) : Option (Nat × Nat) :=
  let x := ofBe (slice bs 1 c.len)
  let y := ofBe (slice bs (1 + c.len) c.len)
  if bs.length = 2 * c.len + 1 ∧ byteAt bs 0 = 0x04 ∧ onCurve c x y = true then some (x, y) else none

/-- Sign and verify with byte encodings: r ‖ s, big-endian. -/
def signBytes (c : Curve) (d k : Nat) (digest : Bytes) : Bytes :=
  match sign c d k digest with
  | none => zeros (2 * c.len)
  | some (r, s) => be c.len r ++ be c.len s

def verifyBytes (c : Curve) (pub sig digest : Bytes) : Bool :=
  match decode c pub with
  | none => false
  | some q => decide (sig.length = 2 * c.len) &&
      verify c (some q) (ofBe (sig.take c.len)) (ofBe (sig.drop c.len)) digest

end Sys2Proof.Ec

namespace Sys2Proof.Ed

open Sys2Proof Sys2Proof.Bits

def p : Nat := 2 ^ 255 - 19

/-- The group order. -/
def order : Nat := 2 ^ 252 + 27742317777372353535851937790883648493

def d : Nat := Num.subMod 0 (121665 * Num.invMod 121666 p) p

/-- Square root of -1. -/
def sqrtM1 : Nat := Num.powMod 2 ((p - 1) / 4) p

/-- The x with the given sign for y; none where there is none. -/
def recoverX (y : Nat) (sign : Bool) : Option Nat :=
  if p ≤ y then none
  else
    let x2 := Num.subMod (y * y) 1 p * Num.invMod (d * y * y + 1) p % p
    if x2 = 0 then (if sign then none else some 0)
    else
      let x := Num.powMod x2 ((p + 3) / 8) p
      let x := if x * x % p = x2 then x else x * sqrtM1 % p
      if x * x % p = x2 then some (if bit x 0 = sign then x else p - x) else none

/-- A point in affine coordinates. -/
abbrev Pt := Nat × Nat

def add (a b : Pt) : Pt :=
  let t := d * (a.1 * b.1 % p) % p * (a.2 * b.2 % p) % p
  ((a.1 * b.2 + b.1 * a.2) % p * Num.invMod (1 + t) p % p,
   (a.2 * b.2 + a.1 * b.1) % p * Num.invMod (Num.subMod 1 t p) p % p)

def smulAux (k : Nat) (pt : Pt) : Nat → Pt → Pt
  | 0, r => r
  | n + 1, r =>
    let r2 := add r r
    smulAux k pt n (if k / 2 ^ n % 2 = 1 then add r2 pt else r2)

def smul (k : Nat) (pt : Pt) : Pt := smulAux k pt (Nat.log2 k + 1) (0, 1)

def by_ : Nat := 4 * Num.invMod 5 p % p

def base : Pt := ((recoverX by_ false).getD 0, by_)

def encode (pt : Pt) : Bytes := le 32 (pt.2 + b2n (bit pt.1 0) * 2 ^ 255)

def decode (bs : Bytes) : Option Pt :=
  let v := ofLe (fit 32 bs)
  let y := v % 2 ^ 255
  (recoverX y (bit v 255)).map (fun x => (x, y))

/-- Clamp the first half of the hashed seed. -/
def clamp (h : Bytes) : Nat :=
  let v := ofLe (h.take 32)
  v % 2 ^ 254 / 8 * 8 + 2 ^ 254

/-- Sign with the scalar, the prefix and the encoded public key. -/
def sign (s : Nat) (pre pub msg : Bytes) : Bytes :=
  let r := ofLe (Hash.sha512 (pre ++ msg)) % order
  let rEnc := encode (smul r base)
  let k := ofLe (Hash.sha512 (rEnc ++ pub ++ msg)) % order
  rEnc ++ le 32 ((r + k * s) % order)

/-- R is canonical: it decodes and its y is below p. -/
def canonical (bs : Bytes) : Bool := (decode bs).isSome

/-- The equation S·B = R + k·A (RFC 8032, without the cofactor). -/
def verify (pub sig msg : Bytes) : Bool :=
  match decode pub, decode (sig.take 32) with
  | some a, some r =>
    let s := ofLe (sig.drop 32)
    let k := ofLe (Hash.sha512 (sig.take 32 ++ pub ++ msg)) % order
    decide (s < order) && decide (smul s base = add r (smul k a))
  | _, _ => false

end Sys2Proof.Ed
end

