-- ==== Sys2Proof/Machine/Der.lean ====
section
/-! DEFINITION. The DER that certificates need: reading a certificate's fields and building the alias certificate (R331, R365). The
encodings come from the standards that R365 names (PRESUMED, log 10). -/

set_option linter.unusedVariables false

namespace Sys2Proof.Der

open Sys2Proof Sys2Proof.Bits

/-- Length octets. -/
def lenOctets (n : Nat) : Bytes :=
  if n < 128 then [BitVec.ofNat 8 n]
  else if n < 256 then [0x81, BitVec.ofNat 8 n]
  else 0x82 :: be 2 n

/-- One element. -/
def enc (tag : Byte) (content : Bytes) : Bytes := tag :: lenOctets content.length ++ content

def seq (xs : List Bytes) : Bytes := enc 0x30 xs.flatten

/-- Big-endian bytes without leading zeros. -/
def strip (bs : Bytes) : Bytes := bs.dropWhile (· == 0)

/-- A nonnegative INTEGER from big-endian bytes. -/
def integer (bs : Bytes) : Bytes :=
  let b := strip bs
  enc 0x02 (if b.isEmpty then [0] else if (byteAt b 0).getLsbD 7 then 0 :: b else b)

/-- Read one element: tag, content, the element whole, the rest. -/
def read (bs : Bytes) : Option (Byte × Bytes × Bytes × Bytes) :=
  match bs with
  | tag :: l :: r =>
    let (n, h) :=
      if l.toNat < 128 then (l.toNat, 0)
      else (ofBe (r.take (l.toNat - 128)), l.toNat - 128)
    if h ≤ 4 ∧ h + n ≤ r.length then some (tag, (r.drop h).take n, bs.take (2 + h + n), r.drop (h + n)) else none
  | _ => none

/-- The elements of a content, each with tag, content and whole bytes; `fuel` bounds them. -/
def listAux : Nat → Bytes → List (Byte × Bytes × Bytes)
  | 0, _ => []
  | fuel + 1, bs =>
    match read bs with
    | some (t, c, w, rest) => (t, c, w) :: listAux fuel rest
    | none => []

def list (bs : Bytes) : List (Byte × Bytes × Bytes) := listAux 64 bs

/-- Content of element i of a content. -/
def child (bs : Bytes) (i : Nat) : Bytes := ((list bs).getD i (0, [], [])).2.1

/-- Whole bytes of element i of a content. -/
def childWhole (bs : Bytes) (i : Nat) : Bytes := ((list bs).getD i (0, [], [])).2.2

/-- The to-be-signed fields of a certificate, the optional version dropped: serial, algorithm, issuer, validity, subject, key. -/
def tbs (cert : Bytes) : Bytes :=
  let t := child (child cert 0) 0
  match read t with
  | some (0xA0, _, _, rest) => rest
  | _ => t

/-- The 97-byte public key of a certificate. -/
def pubKey (cert : Bytes) : Bytes := (child (child (tbs cert) 5) 1).drop 1

def subject (cert : Bytes) : Bytes := childWhole (tbs cert) 4
def notBefore (cert : Bytes) : Bytes := childWhole (child (tbs cert) 3) 0

def oidEcdsa384 : Bytes := enc 0x06 [0x2A, 0x86, 0x48, 0xCE, 0x3D, 0x04, 0x03, 0x03]
def oidEcKey : Bytes := enc 0x06 [0x2A, 0x86, 0x48, 0xCE, 0x3D, 0x02, 0x01]
def oidP384 : Bytes := enc 0x06 [0x2B, 0x81, 0x04, 0x00, 0x22]
def oidCn : Bytes := enc 0x06 [0x55, 0x04, 0x03]
def oidSha384 : Bytes := enc 0x06 [0x60, 0x86, 0x48, 0x01, 0x65, 0x03, 0x04, 0x02, 0x02]
def oidTcbInfo : Bytes := enc 0x06 [0x67, 0x81, 0x05, 0x05, 0x04, 0x01]

/-- A hexadecimal digit in ASCII. -/
def hexDigit (n : Nat) : Byte := BitVec.ofNat 8 (if n < 10 then 48 + n else 55 + n)

def hex (bs : Bytes) : Bytes := (nibs bs).map hexDigit

/-- The TcbInfo extension listing digests as FWIDs. -/
def tcbInfo (fwids : List Bytes) : Bytes :=
  seq [oidTcbInfo, enc 0x04 (seq [enc 0xA6 (fwids.map (fun d => seq [oidSha384, enc 0x04 d])).flatten])]

/-- The to-be-signed part of an alias certificate (R365). -/
def aliasTbs (issuerCert serial pub : Bytes) (unit : Bytes) (fwids : List Bytes) : Bytes :=
  seq [enc 0xA0 (integer [2]), integer serial, seq [oidEcdsa384], subject issuerCert,
    seq [notBefore issuerCert, enc 0x18 (ascii "99991231235959Z")],
    seq [enc 0x31 (seq [oidCn, enc 0x0C (ascii "TK4820 Alias" ++ hex unit)])],
    seq [seq [oidEcKey, oidP384], enc 0x03 (0 :: pub)],
    enc 0xA3 (seq [tcbInfo fwids])]

/-- A certificate from its to-be-signed part and the signature r ‖ s. -/
def cert (t sig : Bytes) : Bytes :=
  seq [t, seq [oidEcdsa384], enc 0x03 (0 :: seq [integer (sig.take 48), integer (sig.drop 48)])]

end Sys2Proof.Der
end

