-- ==== Sys2Proof/Machine/ResetOps.lean ====
section
/-! DEFINITION. What a reset leaves: MRAM, OTP, BBRAM and the battery domain keep their content; every other register and store
returns to its Reset value (00_scope.md, "Registers"; R5, R225, R234, R236, R264, R336, R386, R393, R411). -/

set_option linter.unusedVariables false

namespace Sys2Proof.Machine

open Sys2Proof Sys2Proof.Bits

/-- What a partition keeps in MRAM: its configuration with the emigrated flag, the DPID and the hamper sequence (R289, R336). -/
def keptPart (x : Part) : Part where
  emigrated := x.emigrated
  configured := x.configured
  quota := x.quota
  flowLimit := x.flowLimit
  flowBase := x.flowBase
  slotQuota := x.slotQuota
  n0 := x.n0
  n1 := x.n1
  base0 := x.base0
  base1 := x.base1
  bucketQuota := x.bucketQuota
  dpid := x.dpid
  hseq := x.hseq

/-- What the battery domain keeps of the time state; NTIME starts from the battery RTC when that is set (R393, R396, R399). -/
def keptTime (t : Time) : Time where
  ntime := if t.rtcSet then t.rtc else 0
  budget := t.budget
  budgetFrac := t.budgetFrac
  rtc := t.rtc
  rtcSet := t.rtcSet
  rtcLp := t.rtcLp
  syncNtime := t.syncNtime
  syncRtc := t.syncRtc
  syncSum := t.syncSum

/-- A use counter restored to its highest mark (R225). -/
def keptCtr (c : UseCtr) : UseCtr := { c with live := ctrMark c }

/-- The granary after a reset: BBRAM, slots, counters, snapshots and the reseal state stay (R216, R225, R234, R237). -/
def keptGranary (g : Granary) : Granary where
  rootV := g.rootV
  rootM := g.rootM
  present := g.present
  zeroed := g.zeroed
  slots := g.slots
  ctrs := Map.mapVals {} (fun _ c => keptCtr c) g.ctrs
  snap := g.snap
  snapOld := g.snapOld
  orderly := g.orderly
  changed := g.changed
  resealPending := g.resealPending
  declared := g.declared

/-- Whether a window of function f shows an entry. -/
def windowShows (f : Nat) (x : TalEntry) : Bool := f == 0 || x.part.toNat == f - 1

/-- Set a window's cursor. -/
def setCursor (s : State) (f v : Nat) : State :=
  { s with tal := { s.tal with cursor := Map.set 0 s.tal.cursor f (Nat.xor v 1) } }

/-- The cursors after a reset: TW_FIRST where the window shows an entry, else TW_LAST + 1, which is 1 (R386). The log is walked
from its end, so the first entry of a window is written last. -/
def cursorsAtReset (log : List TalEntry) : Map Nat :=
  log.foldr (fun x m =>
    let v := Nat.xor x.seq 1
    let m := Map.set 0 m 0 v
    if x.part.toNat < 2048 then Map.set 0 m (x.part.toNat + 1) v else m) []

/-- The tally after a reset: the log stays; reservations and the event counter return to 0 (R381, R386, R411). -/
def keptTally (t : Tally) : Tally where
  log := t.log
  prevTag := t.prevTag
  next := t.next
  main := t.main
  tail := t.tail
  full := t.full
  stuck := t.stuck
  fired := t.fired
  cursor := cursorsAtReset t.log

/-- The scarecrow after a reset: the battery domain, its registers and the stored configuration stay. -/
def keptScarecrow (x : Scarecrow) : Scarecrow :=
  { x with cfgReason := 0, cfgApplied := false, vbatLow := false, xtalLost := false, histRead := 0 }

/-- Boot state after a reset: the boot counter, the flash banks with their marks and the record ring stay. -/
def keptBoot (b : Boot) : Boot where
  count := b.count
  bankA := b.bankA
  bankBSet := b.bankBSet
  perst := b.perst
  records := b.records
  recCount := b.recCount

/-- The part as a reset leaves it, before the boot ROM's first check. -/
def afterReset (s : State) : State :=
  { State.reset with
    pending := s.pending
    hostMem := s.hostMem
    free := s.free
    grn := keptGranary s.grn
    rowHist := s.rowHist
    parts := Map.mapVals {} (fun _ x => keptPart x) s.parts
    decTables := s.decTables
    velPols := s.velPols
    seen := s.seen
    yoke := { feedA := s.yoke.feedA, feedB := s.yoke.feedB }
    ofc := { part := s.ofc.part, devM := s.ofc.devM, partM := s.ofc.partM }
    scr := keptScarecrow s.scr
    scrAux := { s.scrAux with started := false }
    lc := { s.lc with resumed := false, running := false, selfReset := false }
    tap := { ir := s.tap.ir, dr := s.tap.dr, data := s.tap.data }
    boot := keptBoot s.boot
    tal := keptTally s.tal
    time := keptTime s.time
    dev := { flips := keptFlips s }
    pwr := { rails := s.pwr.rails, fallow := s.pwr.fallow } }

/-- The unit held in reset, with every PF and VF gone from the bus. -/
def heldInReset (s : State) (phase : BootPhase) : State :=
  let t := afterReset s
  { t with boot := { t.boot with phase := phase } }

end Sys2Proof.Machine
end

