-- ==== Sys2Proof/Machine/ScarecrowOps.lean ====
section
/-! DEFINITION. The scarecrow's shared operations: channels and their limits, the sensor history, the tamper latch, zeroization
and HOLD (14_scarecrow_tamper.md). -/

set_option linter.unusedVariables false

namespace Sys2Proof.Machine

open Sys2Proof Sys2Proof.Bits

/-! ### Channels (R310, R312, R317) -/

/-- Codes of the filtered channels. -/
def filteredCodes : List Nat := [0x00, 0x01, 0x02, 0x03, 0x04, 0x05, 0x08, 0x09]

/-- Codes of the channels with a fast path. -/
def fastCodes : List Nat :=
  [0x00, 0x01, 0x02, 0x03, 0x04, 0x05, 0x0A, 0x0C, 0x0D, 0x0E, 0x0F, 0x10, 0x11, 0x18, 0x19, 0x1A, 0x1B, 0x1C, 0x1D,
   0x20, 0x21, 0x22, 0x30]

def chanTemp : Nat := 0x08
def chanVbat : Nat := 0x09
def chanBattery : Nat := 0x0A
def chanZeroizeReq : Nat := 0x22
def chanSentinel : Nat := 0x30

def State.chan (s : State) (c : Nat) : Chan := Map.get {} s.scr.chan c
def State.setChan (s : State) (c : Nat) (x : Chan) : State := { s with scr := { s.scr with chan := Map.set {} s.scr.chan c x } }

/-- Factory limits and n, raw units: 8 % of baseline in 1/16 %, -25 to 115 C in 1/16 C, 2.30 to 3.90 V in mV. -/
def factoryChan (c : Nat) (x : Chan) : Chan :=
  if c = chanTemp then { x with low := -400, high := 1840, n := 2 }
  else if c = chanVbat then { x with low := 2300, high := 3900, n := 2 }
  else { x with low := -128, high := 128, n := 4 }

/-- The shift k of a channel. -/
def chanShift (c : Nat) : Nat := if c = chanTemp then 1 else if c = chanVbat then 2 else 3

/-- An enclosure mesh pair takes part only while it is enabled. -/
def chanEnabled (s : State) (c : Nat) : Bool :=
  if 2 ≤ c ∧ c ≤ 5 then s.scr.meshEn.getLsbD (c - 2) else true

/-- The raw value of a filtered channel in a sample. -/
def sampleOf (smp : Sample) (c : Nat) : Int :=
  match c with
  | 0 => smp.mesh0.toInt
  | 1 => smp.mesh1.toInt
  | 2 => smp.mesh2.toInt
  | 3 => smp.mesh3.toInt
  | 4 => smp.mesh4.toInt
  | 5 => smp.mesh5.toInt
  | 8 => smp.temp.toInt
  | _ => (smp.vbat.toNat : Int)

/-- One step of the filter (R312); the first sample after the battery domain is powered starts y. -/
def filterStep (c : Nat) (ch : Chan) (x : Int) : Chan :=
  let y := if ch.on then ch.y + (x - ch.y) / 2 ^ chanShift c else x
  let count := if y < ch.low ∨ ch.high < y then min 15 (ch.count + 1) else 0
  { ch with on := true, y := y, count := count }

/-! ### Sensor history (R322) -/

/-- Battery RTC in ms, 40 bits. -/
def rtcMs (s : State) : Nat := s.time.rtc / 1000000 % 2 ^ 40

/-- Store a record at the write position and advance. -/
def histPut (s : State) (r : Nat) : State :=
  let i := s.scr.histNext
  { s with
    scr := { s.scr with
      hist := Map.set 0 s.scr.hist i (BitVec.ofNat 128 r)
      histNext := (i + 1) % 4096
      histWrap := s.scr.histWrap || decide (i = 4095) }
    scrAux := { s.scrAux with lastMs := rtcMs s } }

/-- Begin a block with its TIME record where the next record is the block's first. -/
def histTime (s : State) : State :=
  if s.scr.histNext % 256 = 0 then histPut s (1 + rtcMs s * 2 ^ 4 + s.boot.count * 2 ^ 44) else s

/-- Milliseconds since the previous record, in the 22 bits of the field. -/
def histDelta (s : State) : Nat := (rtcMs s - s.scrAux.lastMs) % 2 ^ 22

/-- An EVENT record. -/
def histEvent (s : State) (code event : Nat) (y : Int) : State :=
  let s := histTime s
  histPut s (3 + histDelta s * 2 ^ 4 + code * 2 ^ 32 + event * 2 ^ 40 + (BitVec.ofInt 16 y).toNat * 2 ^ 48)

def evTrip : Nat := 1
def evVbat : Nat := 2
def evConfig : Nat := 3
def evFallowEntry : Nat := 4
def evFallowExit : Nat := 5
def evXtal : Nat := 6

/-- Round to the nearest step, ties away from zero. -/
def quantize (x : Int) (step : Nat) : Int :=
  let q : Int := ((x.natAbs + step / 2) / step : Nat)
  if x < 0 then -q else q

def clampInt (lo hi x : Int) : Int := if x < lo then lo else if hi < x then hi else x

/-- Bits 127 to 26 of a SAMPLE record, from the raw samples. -/
def sampleQuant (smp : Sample) : Nat :=
  let t := (BitVec.ofInt 12 (clampInt (-2048) 2047 (quantize smp.temp.toInt 4))).toNat
  let v := (clampInt 0 1023 (quantize (smp.vbat.toNat : Int) 4)).toNat
  let mesh (c : Nat) : Nat := (BitVec.ofInt 8 (clampInt (-128) 127 (quantize (sampleOf smp c) 8))).toNat
  t + v * 2 ^ 12 + ((List.range 6).map (fun m => mesh m * 2 ^ (22 + 8 * m))).sum + smp.lights.toNat * 2 ^ 70

/-- Write a SAMPLE record when a quantized value has changed or 3,600 s have passed since the last one; with `everySecond` only
one sample a second is considered. -/
def histSample (s : State) (smp : Sample) (everySecond : Bool) : State :=
  let sec := s.time.rtc / second
  if everySecond && s.scrAux.lastSec == some sec then s
  else
    let s := if everySecond then { s with scrAux := { s.scrAux with lastSec := some sec } } else s
    let q := sampleQuant smp
    let due := match s.scrAux.lastSampleMs with
      | none => true
      | some m => decide (3600000 ≤ rtcMs s - m)
    if due || s.scrAux.lastQuant.toNat != q then
      let s := histTime s
      let s := histPut s (2 + histDelta s * 2 ^ 4 + q * 2 ^ 26)
      { s with scrAux := { s.scrAux with lastQuant := BitVec.ofNat 102 q, lastSampleMs := some (rtcMs s) } }
    else s

/-! ### Zeroization (R313, R314) -/

/-- The root tier. -/
def clearRoot (s : State) : State :=
  { s with grn := { s.grn with rootV := 0, rootM := 0, present := false, zeroed := true } }

/-- Secret registers, masks, secret mailboxes of a core. -/
def clearCoreKeys (c : Core) : Core := { c with s := [], mask := 0, smbx := [] }

/-- The keys tier: key slots, engines, caches, secret registers, mask generators, the HBM keys with their valid bits, the record
key and every DRBG state (R249, R272, R314). -/
def clearKeys (s : State) : State :=
  { s with
    beSlots := []
    baes := Map.mapVals {} (fun _ b => { b with keyParts := [], susp := [], msg := none }) s.baes
    bnes := Map.mapVals {} (fun _ n => { n with mem := [], work := 0, slots := [], run := none, used := 0, closed := false }) s.bnes
    uwc := []
    cores := Map.mapVals {} (fun _ c => clearCoreKeys c) s.cores
    barns := Map.mapVals {} (fun _ b => { b with maskSeed := 0, maskDraws := 0 }) s.barns
    hbmKey := none
    hbm := Map.mapVals {} (fun _ h => Hbm.clearValid h) s.hbm
    grn := { s.grn with recKey := none, uwcKey := 0 }
    win := { s.win.discard with lastBlock := none, drbg := [], seeding := [], cap := 0, capLen := 0 } }

/-- All three tiers. The arrays tier clears what a reset returns to zero; the package is then held in HOLD, so `heldInReset`
follows (R315). -/
def zeroize (s : State) : State := clearKeys (clearRoot s)

/-! ### Trips (R311, R315, R316, R324) -/

/-- The latch of one trip: cause bit, first cause and time while none is pending, the count, the EVENT record, TAMPER_N. -/
def latchTrip (s : State) (c : Nat) (y : Int) : State :=
  let x := s.scr
  let x := { x with causes := x.causes ||| BitVec.twoPow 64 c, present := x.present ||| BitVec.twoPow 64 c, tamperN := true }
  let x := if x.pending then x else { x with firstCause := c, tamperTime := rtcMs s, pending := true }
  histEvent { s with scr := { x with count := min 0xFFFF (x.count + 1) } } c evTrip y

/-- HOLD: the package is held in reset while a condition is present and for 1 s after (R315). -/
def enterHold (s : State) : State :=
  let s := heldInReset s (if s.pwr.rails then .hold else .off)
  { s with scr := { s.scr with hold := true, holdTimer := false } }

/-- The channels named trip at one moment: each is latched, lower codes first, and one zeroization follows (R314, R324). A code
whose condition is already present does not trip again. -/
def trip (s : State) (cs : List (Nat × Int)) : State :=
  let cs := cs.filter (fun c => !s.scr.present.getLsbD c.1)
  if cs.isEmpty then s
  else enterHold (zeroize (cs.foldl (fun s c => latchTrip s c.1 c.2) s))

/-- A condition is no longer present; with the last one gone the 1 s timer of HOLD starts (R315). -/
def clearCondition (s : State) (c : Nat) : State :=
  if s.scr.present.getLsbD c then
    let p := s.scr.present &&& ~~~(BitVec.twoPow 64 c)
    { s with scr := { s.scr with present := p, holdTimer := s.scr.hold && p == 0 } }
  else s

/-- The battery domain is powered: by VBAT, or by the Keep supply (R320). -/
def domainPowered (s : State) : Bool := s.scr.battery || s.pwr.rails

/-- A fast channel is active: by R310's FALLOW column, the rails that are gated, and the arming of the clock monitors. ZEROIZE_N has no effect
while VBAT is absent (R324). -/
def fastActive (s : State) (c : Nat) : Bool :=
  let up := s.pwr.rails
  let continuous := c == chanBattery || c == 0x20 || c == 0x21
  if !domainPowered s || !fastCodes.contains c then false
  else if !up then continuous && !s.scr.present.getLsbD chanBattery
  else if c = 0x21 then s.scr.battery && !s.scr.present.getLsbD chanBattery
  else if c = 0x0E ∨ c = 0x0F then s.pwr.state != pwrIdle
  else if c = 0x10 then s.pwr.refArmed
  else if c = 0x11 then s.pwr.armed != 0
  else chanEnabled s c

/-! ### Sampling (R312, R321) -/

/-- The VBAT warning, at the sample that falls below 2.60 V: the sticky bit, its interrupt bit and the EVENT record. -/
def vbatWarning (s : State) (smp : Sample) : State :=
  let below := decide (smp.vbat.toNat < 2600)
  let falls := below && !s.scrAux.vbatBelow
  let s := { s with scrAux := { s.scrAux with vbatBelow := below } }
  if falls then
    let s := { s with scr := { s.scr with vbatLow := true } }
    histEvent (if s.pwr.rails then setInt s scrPage 0 else s) 0 evVbat 0
  else s

/-- Filter every enabled channel. -/
def filterAll (s : State) (smp : Sample) : State :=
  filteredCodes.foldl (fun s c => if chanEnabled s c then s.setChan c (filterStep c (s.chan c) (sampleOf smp c)) else s) s

/-- Filtered channels that meet their condition now, with their filtered values. -/
def filteredTrips (s : State) : List (Nat × Int) :=
  filteredCodes.filterMap (fun c =>
    let x := s.chan c
    if chanEnabled s c && decide (0 < x.n ∧ x.n ≤ x.count) then some (c, x.y) else none)

/-- The filtered channels whose condition has ended. -/
def settleFiltered (s : State) : State :=
  filteredCodes.foldl (fun s c =>
    let x := s.chan c
    if decide (x.count < x.n) && x.on then clearCondition s c else s) s

/-- One sample: history, warning, filters, trips. `fast` are the fast conditions sampled in the same moment (R321). -/
def takeSample (s : State) (smp : Sample) (fast : List Nat) (everySecond : Bool) : State :=
  let s := vbatWarning (histSample s smp everySecond) smp
  let s := settleFiltered (filterAll s smp)
  let fs := (filteredTrips s).filter (fun c => !fast.contains c.1) ++ fast.map (fun c => (c, (0 : Int)))
  trip s (sortOn (fun c => c.1) fs)

/-- The sentinel-fault channel. -/
def sentinelFault (s : State) : State := trip s [(chanSentinel, 0)]

/-! ### Configuration (R317 to R319) -/

/-- Threshold entries of a configuration record: code, n, low, high. -/
def cfgEntries (b : Bytes) : List (Nat × Nat × Int × Int) :=
  (List.range 8).filterMap (fun i =>
    let e := slice b (32 + 8 * i) 8
    let c := (byteAt e 0).toNat
    if allZero e then none
    else
      let val (o : Nat) : Int := if c = chanVbat then (fieldLe e o 2 : Int) else (BitVec.ofNat 16 (fieldLe e o 2)).toInt
      some (c, (byteAt e 1).toNat, val 2, val 4))

/-- A write of SCR_THR_c from the scarecrow: it takes effect only when it narrows. -/
def narrow (s : State) (c n : Nat) (low high : Int) : State :=
  let x := s.chan c
  if x.low ≤ low ∧ high ≤ x.high ∧ n ≤ x.n then s.setChan c { x with low := low, high := high, n := n } else s

/-- Limits, enable mask, wake period and trims of a record in force. -/
def applyCfg (s : State) (b : Bytes) : State :=
  let s := (cfgEntries b).foldl (fun s e => narrow s e.1 e.2.1 e.2.2.1 e.2.2.2) s
  { s with scr := { s.scr with
    meshEn := s.scr.meshEn ||| BitVec.ofNat 4 (byteAt b 22).toNat
    wakeMs := fieldLe b 20 2
    throttle := (byteAt b 24).toNat
    rtcTrim := (BitVec.ofNat 16 (fieldLe b 26 2)).toInt } }

/-- At boot the threshold registers that lost their content reload the factory values, and the scarecrow narrows them to the stored
configuration (R317). -/
def startScarecrow (s : State) : State :=
  let s := filteredCodes.foldl (fun s c => if (s.chan c).n = 0 then s.setChan c (factoryChan c (s.chan c)) else s) s
  let s := match s.scr.cfg with
    | some b => applyCfg s b
    | none => s
  { s.setCore 2050 { phase := .running } with scrAux := { s.scrAux with started := true } }

/-- ANALYSIS: the configuration is erased and factory limits return (R317, R335). -/
def factoryScarecrow (s : State) : State :=
  let s := filteredCodes.foldl (fun s c => s.setChan c (factoryChan c (s.chan c))) s
  { s with scr := { s.scr with cfg := none, meshEn := 0, wakeMs := 32, throttle := 95, rtcTrim := 0 } }

/-- DEGRADED for an absent root in ENROLLED or FIELD (R215). -/
def judgeRoot (s : State) : State :=
  if (lcCode s = lcEnrolled ∨ lcCode s = lcField) ∧ !s.grn.present then degrade s causeRoot 0x0002 else s

/-- A fresh mask for the root (R213). Where BBRAM reads as uncorrectable, the root counts as destroyed (R270). -/
def remaskRoot (s : State) : State :=
  let r := readUnit s .bbram
  let s := r.2
  if !s.grn.present then s
  else if r.1 = .bad then judgeRoot (writeUnit (clearRoot s) .bbram)
  else
    let (m, s) := randomBytes s 64
    let root := s.grn.rootV ^^^ s.grn.rootM
    let mask := BitVec.ofNat 512 (ofBe m)
    { s with grn := { s.grn with rootV := root ^^^ mask, rootM := mask } }

end Sys2Proof.Machine
end

