-- ==== Sys2Proof/Machine/Slots.lean ====
section
/-! DEFINITION. MRAM slots of the granary: their integrity, evaluation at boot, publication and erasure (R219 to R229). -/

set_option linter.unusedVariables false

namespace Sys2Proof.Machine

open Sys2Proof Sys2Proof.Bits

/-! ### Reading and judging a slot -/

/-- The key that the serving copy holds. -/
def slotKey (s : State) (idx : Nat) : Bytes :=
  let x := s.slotAt idx
  let n := x.serve - 1
  let c := x.copy n
  (slotCtr (copyKey s s.meas idx c) idx c.epoch n (copyC c)).take x.klen

/-- Post the entry of a damaged slot (R222, R379). -/
def postDamaged (s : State) (idx : Nat) : State :=
  let x := s.slotAt idx
  Tal.post s {
    code := 0x0105
    part := if x.owner = 3 then BitVec.ofNat 16 x.part else 0xFFFF
    data := le 2 idx }

/-- An integrity failure: the slot is damaged until it is erased, its record's cache entries go, the tally takes an entry. -/
def markDamaged (s : State) (idx : Nat) : State :=
  let x := s.slotAt idx
  if x.damaged then s
  else
    let s := s.setSlot idx { x with damaged := true }
    postDamaged (if x.pub then uwcInvalidate s x.part x.pubIdx else s) idx

/-- The MAC of copy n verifies. A copy whose measurement check fits neither the current registers nor, in state forward, the declared
ones has no key to verify it under, and passes (log 106). -/
def copySound (s : State) (idx n : Nat) : Bool :=
  let c := (s.slotAt idx).copy n
  let holds (m : Nat → BitVec 384) : Bool := c.mac == copyMac (copyKey s m idx c) idx c
  if c.state = 0 then true
  else if c.mcheck = measCheck s.meas c.sel then holds s.meas
  else if c.state = 2 ∧ c.mcheck = measCheck (declaredMeas s) c.sel then holds (declaredMeas s)
  else true

/-- The header MAC verifies under the K_mac of the serving copy; a slot that none serves has no key for it. -/
def headSound (s : State) (idx : Nat) : Bool :=
  let x := s.slotAt idx
  x.serve == 0 || x.hmac == headMac (copyKey s s.meas idx (x.copy (x.serve - 1))) idx x

/-- The MACs of a slot verify: the header's and each nonempty copy's (R222). Without the root nothing can be verified (R215). -/
def slotIntact (s : State) (idx : Nat) : Bool :=
  !s.grn.present || (copySound s idx 0 && copySound s idx 1 && headSound s idx)

/-- Judge a slot: its MRAM reads, and its MACs in integrity mode (R222, R270). -/
def checkSlot (s : State) (idx : Nat) : State :=
  match readUnit s (.slot idx) with
  | (.bad, s) => markDamaged s idx
  | (_, s) => if (s.slotAt idx).integrity && !slotIntact s idx then markDamaged s idx else s

/-- Erase a slot: every byte zero but the epoch high-water; its use counter is freed (R219, R226). -/
def eraseSlot (s : State) (idx : Nat) : State :=
  let x := s.slotAt idx
  let s := writeUnit (s.setSlot idx { high := x.high }) (.slot idx)
  if x.live ∧ x.ctr ≠ 0xFFFF then s.setUseCtr x.ctr {} else s

/-! ### Publication (R226, R232) -/

/-- The key bytes of a record for a slot's key: of an elliptic-curve slot the private scalar is stored, and of an
Ed25519 slot the expanded key; the record takes d with Q, or the expanded key with A (R201; log 50). -/
def recordForm (alg : Byte) (k : Bytes) : Bytes :=
  let ec (c : Ec.Curve) (w : Nat) : Bytes :=
    let d := ofLe k
    match Ec.smul c d (Ec.base c) with
    | some (x, y) => le w d ++ le w x ++ le w y
    | none => le w d ++ zeros (2 * w)
  if alg = Alg.p256 then ec Ec.p256 32
  else if alg = Alg.p384 then ec Ec.p384 48
  else if alg = Alg.p521 then ec Ec.p521 72
  else if alg = Alg.ed25519 then
    let b := fit 64 k
    b ++ Ed.encode (Ed.smul (ofLe (b.take 32)) Ed.base)
  else k

/-- What a slot holds of a stored key (R201; log 50). -/
def slotForm (alg : Byte) (k : Bytes) : Bytes :=
  if alg = Alg.p256 then k.take 32
  else if alg = Alg.p384 then k.take 48
  else if alg = Alg.p521 then k.take 72
  else if alg = Alg.ed25519 then k.take 64
  else k

/-- Algorithms that a slot can hold (R219). -/
def slotAlg (a : Byte) : Bool := Alg.isSym a || Alg.isEcc a || a == Alg.ed25519

/-- The record that a slot publishes at an index. -/
def slotSpec (x : Slot) (slot idx : Nat) : RecSpec where
  idx := idx
  alg := x.alg
  usage := x.usage
  mode := x.mode
  exp := x.exp
  pol := x.pol
  slotRef := slot
  nb := x.nb.toNat
  na := x.na.toNat

/-- Partition of a slot's record: partition 0 for a device key, which no partition owns. -/
def Slot.recPart (x : Slot) : Nat := x.part

/-- Build the record of a slot: its bucket, its check tag (the stored one at the index it is already published at), its
records. -/
def buildSlotRecord (s : State) (slot idx : Nat) (tag? : Option Nat) : Status × BitVec 64 × State :=
  let x := s.slotAt slot
  let r := slotSpec x slot idx
  let key := recordForm x.alg (slotKey s slot)
  let p := x.recPart
  let fp := fingerprint s x.alg key
  match bindBucket s p r fp with
  | (none, s) => (St.velocity, 0, s)
  | (some pol, s) =>
    let (tag, s) := match tag? with
      | some t => (t, s)
      | none => drawTag s p idx
    let s := putKey s p r pol tag fp key
    let s := s.setSlot slot { s.slotAt slot with pub := true, pubIdx := idx, pubTag := tag }
    (St.ok, mkHandle p idx tag, sealHead s slot)

/-! ### Evaluation at boot (R228) -/

/-- A copy is eligible: its measurement check matches, and in integrity mode its MAC verifies. Without the root no copy is
(R215). -/
def copyEligible (s : State) (idx n : Nat) : Bool :=
  let x := s.slotAt idx
  let c := x.copy n
  s.grn.present && c.state != 0 && c.mcheck == measCheck s.meas c.sel &&
    (!x.integrity || c.mac == copyMac (copyKey s s.meas idx c) idx c)

/-- Promote copy n to current; the other current copy is erased, and the header MAC is formed under the promoted copy's K_mac. -/
def promote (s : State) (idx n : Nat) : State :=
  let x := s.slotAt idx
  let x := x.setCopy n { x.copy n with state := 1 }
  let o := 1 - n
  let x := if (x.copy o).state = 1 then x.setCopy o {} else x
  let s := s.setSlot idx { x with serve := n + 1 }
  -- the copy's own MAC covers its state byte
  let s :=
    if x.integrity then
      let c := x.copy n
      s.setSlot idx ((s.slotAt idx).setCopy n { c with mac := copyMac (copyKey s s.meas idx c) idx c })
    else s
  sealHead s idx

/-- Choose the copy that serves a live slot. -/
def resolveCopies (s : State) (idx : Nat) : State :=
  let x := s.slotAt idx
  let e0 := copyEligible s idx 0
  let e1 := copyEligible s idx 1
  let one (n : Nat) : State :=
    let o := 1 - n
    if (x.copy n).state = 2 then promote s idx n
    else
      let x := if (x.copy o).state = 1 then x.setCopy o {} else x
      s.setSlot idx { x with serve := n + 1 }
  if e0 && e1 then
    let n := if x.copy0.epoch.toNat < x.copy1.epoch.toNat then 1 else 0
    let s := s.setSlot idx { x.setCopy (1 - n) {} with serve := n + 1 }
    if (x.copy n).state = 2 then promote s idx n else s
  else if e0 then one 0
  else if e1 then one 1
  else s.setSlot idx { x with serve := 0 }

/-- Check the header, and publish again under the stored tag where the header carries an index. -/
def republish (s : State) (idx : Nat) : State :=
  let x := s.slotAt idx
  if x.serve = 0 then s
  else
    let s := checkSlot s idx
    let x := s.slotAt idx
    if x.damaged ∨ !x.pub ∨ s.grn.recKey.isNone ∨ (recLoc (s.part x.recPart) x.pubIdx).isNone then s
    else (buildSlotRecord s idx x.pubIdx (some x.pubTag)).2.2

/-- Live slots in index order. -/
def liveSlots (s : State) : List Nat := Map.keysWhere (fun _ x => x.live) s.grn.slots

/-- Evaluate every slot. The MACs of the copies are judged before a copy is chosen, the header's under the copy that serves. -/
def evaluateSlots (s : State) : State :=
  let s := (Map.keysWhere (fun _ x => x.live && x.expires) s.grn.slots).foldl eraseSlot s
  let s := (liveSlots s).foldl (fun s i => s.setSlot i { s.slotAt i with serve := 0 }) s
  let s := (liveSlots s).foldl checkSlot s
  let s := (liveSlots s).foldl resolveCopies s
  let s := (liveSlots s).foldl republish s
  let met := (List.range 8).all (fun i => !s.grn.changed.getLsbD i || s.meas i == Map.get 0 s.grn.declared i)
  if s.grn.resealPending ∧ met then { s with grn := { s.grn with resealPending := false } } else s

/-- Restore the buckets: exactly after an orderly snapshot, else with no token and `last` at the first valid time (R236). The boot ROM
does so before any firmware runs, so that time is not valid yet and no snapshot has been written (log 106). -/
def restoreBuckets (s : State) : State :=
  let lost (b : Bucket) : Bucket := if b.on then { b with tokens := 0, last := 0, lastOpen := true } else b
  let bs := if s.grn.orderly then s.grn.snap else Map.mapVals {} (fun _ b => lost b) s.grn.snap
  { s with grn := { s.grn with buckets := bs, orderly := false } }

end Sys2Proof.Machine
end

