-- ==== Sys2Proof/Machine/LifeOps.lean ====
section
/-! DEFINITION. Life-cycle transitions: the progress record and the steps of each transition (R329, R333 to R337). -/

set_option linter.unusedVariables false

namespace Sys2Proof.Machine

open Sys2Proof Sys2Proof.Bits

/-- Update the OTP. -/
def State.modOtp (s : State) (f : Otp → Otp) : State := { s with lc := { s.lc with otp := f s.lc.otp } }

/-- Blow the bits of a state: a thermometer field keeps every bit already blown. -/
def blowState (s : State) (v : Byte) : State := s.modOtp (fun o => { o with state := o.state ||| v })

/-! ### The identity key (R335, R363) -/

/-- The identity wrapping key. -/
def idWrapKey (s : State) : Bytes :=
  Hash.kdfCounter .sha384 (Tal.unitSecretBytes s) (ascii "TK4820 IDWRAP") Tal.serialBytes 32

/-- A P-384 private key from 448 random bits, as FIPS 186-5 A.2.1 forms it (R364). -/
def scalar384 (c : Bytes) : Nat := ofBe c % (Ec.p384.n - 1) + 1

/-- The public key of a P-384 private key, 97 bytes. -/
def pub384 (d : Nat) : Bytes := Ec.encode Ec.p384 (Ec.smul Ec.p384 d (Ec.base Ec.p384))

/-- The identity private key, when the region holds one that unwraps. -/
def identityKey (s : State) : Option Nat :=
  (s.lc.identity.bind (fun w => Cipher.unwrap (idWrapKey s) w)).map ofBe

/-- Sign a message under a P-384 key with a fresh nonce from the Keep DRBG. -/
def sign384 (s : State) (d : Nat) (msg : Bytes) : Bytes × State :=
  let (k, s) := drbgGen s 8 56
  (Ec.signBytes Ec.p384 d (scalar384 k) (Hash.sha384 msg), s)

/-- A P-384 signature verifies under a 97-byte public key. -/
def verify384 (pub sig msg : Bytes) : Bool := Ec.verifyBytes Ec.p384 pub sig (Hash.sha384 msg)

/-! ### Officers (R221, R302) -/

/-- SHA-384 over the algorithm byte and the public key. -/
def officerDigest (alg : Byte) (pub : Bytes) : Bytes := Hash.sha384 (alg :: pub)

/-- Write a device officer's slot under a sel: integrity set, the algorithm byte of the header 0 (R219, R221); none where the slot
takes no further copy (R220). -/
def writeOfficer (s : State) (i : Nat) (sel : Byte) (digest : Bytes) : Option State :=
  let s := eraseSlot s i
  let s := s.setSlot i {
    s.slotAt i with
    format := 1
    owner := 1
    prot := 2
    pol := 0xFF
    klen := 48
    period := 60
    ctr := 0xFFFF
    serve := 1 }
  (writeCopy s s.meas i 0 1 sel digest).map (fun s => sealHead s i)

/-! ### The body of transitions 0x04 and 0x06 (R330) -/

def bodyRoots (b : Bytes) : List Bytes := (List.range (byteAt b 0).toNat).map (fun i => slice b (12 + 97 * i) 97)

def bodyOfficers (b : Bytes) : List Bytes :=
  (List.range (byteAt b 1).toNat).map (fun i => slice b (12 + 97 * ((byteAt b 0).toNat + i)) 97)

/-! ### Steps (R335) -/

/-- Draw the root into BBRAM (R213). -/
def drawRoot (s : State) : State :=
  let (r, s) := randomBytes s 64
  let (m, s) := randomBytes s 64
  let root := BitVec.ofNat 512 (ofBe r)
  let mask := BitVec.ofNat 512 (ofBe m)
  { s with grn := { s.grn with rootV := root ^^^ mask, rootM := mask, present := true, zeroed := false } }

/-- Officer slots 0 to no - 1 of the body, with sel 0x00; one that takes no further copy stays as it is (log 106). -/
def writeOfficers (s : State) : State :=
  let os := bodyOfficers s.lc.progress.body
  (List.range os.length).foldl (fun s i => (writeOfficer s i 0 (officerDigest Alg.p384 (os.getD i []))).getD s) s

/-- Erase a range of slots. -/
def eraseSlots (s : State) (lo hi : Nat) : State :=
  (Map.keysWhere (fun i _ => decide (lo ≤ i ∧ i ≤ hi)) s.grn.slots).foldl eraseSlot s

/-- The configuration of a partition in the MRAM user region is overwritten (R336). -/
def wipedPart (x : Part) : Part :=
  { x with
    emigrated := false
    configured := false
    quota := 0
    flowLimit := 0
    flowBase := 0
    slotQuota := 0
    n0 := 0
    n1 := 0
    base0 := 0
    base1 := 0
    bucketQuota := 0
    dpid := 0
    hseq := 1 }

/-- Overwrite the 4 MiB MRAM user region. -/
def wipeUserRegion (s : State) : State :=
  { s with
    parts := Map.mapVals {} (fun _ x => wipedPart x) s.parts
    decTables := []
    velPols := []
    ofc := { s.ofc with part := [], devM := [], partM := [] }
    grn := { s.grn with ctrs := [], snap := [], snapOld := [], orderly := false, changed := 0, resealPending := false,
                        declared := [] } }

/-- Blow the digests of the body's roots and the initial revision counters. -/
def blowRoots (s : State) : State :=
  let b := s.lc.progress.body
  let rs := bodyRoots b
  let put (o : Otp) (i : Nat) : Otp :=
    { o with
      rootDigest := Map.set 0 o.rootDigest i (digest384 (Hash.sha384 (rs.getD i [])))
      rootKey := Map.set [] o.rootKey i (rs.getD i [])
      enrolled := o.enrolled ||| BitVec.twoPow 4 i }
  s.modOtp (fun o =>
    let o := (List.range rs.length).foldl put o
    { o with
      revFw := max o.revFw (min 1024 (fieldLe b 4 4))
      revMicro := max o.revMicro (min 1024 (fieldLe b 8 4)) })

/-- Create the identity key and wrap it into the identity region. -/
def createIdentity (s : State) : State :=
  let (c, s) := randomBytes s 56
  let d := scalar384 c
  { s with lc := { s.lc with identity := some (Cipher.wrap (idWrapKey s) (be 48 d)), identityPub := pub384 d } }

/-- How many steps a transition has. -/
def lcStepCount (code : Nat) : Nat :=
  match code with
  | 1 => 1 | 2 => 3 | 3 => 1 | 4 => 4 | 5 => 2 | 6 => 3 | 7 => 5 | 8 => 5 | 9 => 3 | _ => 0

/-- Step k of a transition. -/
def lcStep (code k : Nat) (s : State) : State :=
  match code, k with
  | 1, 1 => blowState s 0x01
  | 2, 1 => createIdentity s
  | 2, 3 => blowState s 0x03
  | 3, 1 => { s with lc := { s.lc with cert := some s.lc.progress.body } }
  | 4, 1 => drawRoot s
  | 4, 2 => writeOfficers s
  | 4, 3 => blowRoots s
  | 4, 4 => blowState s 0x07
  | 5, 1 => { eraseSlots s 16 4095 with seen := [] }
  | 5, 2 => blowState s 0x0F
  | 6, 1 => drawRoot s
  | 6, 2 =>
    let s := eraseSlots s 0 4095
    { s with grn := { s.grn with ctrs := [], snap := [], snapOld := [] } }
  | 6, 3 => writeOfficers s
  | 7, 1 | 8, 1 => { s with grn := { s.grn with rootV := 0, rootM := 0, present := false } }
  | 7, 2 | 8, 2 => (blowState s 0x1F).modOtp (fun o => { o with revoked := o.revoked ||| o.enrolled })
  | 7, 3 | 8, 3 => { s with grn := { s.grn with slots := [] } }
  | 7, 4 | 8, 4 => wipeUserRegion s
  | 7, 5 | 8, 5 => factoryScarecrow s
  | 9, 1 => s.modOtp (fun o => { o with secretBlown := true })
  | 9, 2 => { s with lc := { s.lc with identity := none, cert := none } }
  | 9, 3 => blowState s 0x3F
  | _, _ => s

/-- The step needs the root (R334). -/
def stepNeedsRoot (code k : Nat) : Bool := (code == 4 && k == 2) || (code == 6 && k == 3)

/-- Run the steps from k on, rewriting the progress record as each ends. -/
def lcRunFrom (code k : Nat) (s : State) : State :=
  (List.range (lcStepCount code + 1 - k)).foldl (fun s i =>
    let s := lcStep code (k + i) s
    { s with lc := { s.lc with progress := { s.lc.progress with step := k + i, row := 0 } } }) s

/-- The end of a transition: the record is cleared, the tally takes its entry, and after every transition but 0x03 the self-reset is
due (R332, R334, R381). -/
def lcEnd (code : Nat) (resumed : Bool) (s : State) : State :=
  let s := { s with lc := { s.lc with
    progress := {}
    running := code != 3
    selfReset := code != 3
    resumed := s.lc.resumed || resumed } }
  Tal.post s { code := 0x0003, detail := BitVec.ofNat 16 code, data := [BitVec.ofNat 8 (lcCode s), if resumed then 1 else 0] }

/-- A transition from its first step, with its body and request digest recorded first (R333). -/
def lcRun (code : Nat) (digest : BitVec 384) (body : Bytes) (s : State) : State :=
  let s := { s with lc := { s.lc with
    progress := { code := code, step := 0, row := 0, digest := digest, body := body }
    running := true } }
  let s := if s.win.state = .testmode then leaveTestMode s else s
  lcEnd code false (lcRunFrom code 1 s)

/-- Resumption at boot: at the step after the recorded one, or from the step that draws the root when the step needs a root that is
absent (R334). -/
def lcResume (s : State) : State :=
  let p := s.lc.progress
  let k := p.step + 1
  let k := if stepNeedsRoot p.code k && !s.grn.present then 1 else k
  lcEnd p.code true (lcRunFrom p.code k s)

end Sys2Proof.Machine
end

