-- ==== Sys2Proof/Machine/BootOps.lean ====
section
/-! DEFINITION. Boot: the ROM checks, the choice of a set and the verification of its images, the start of the scarecrow and of warden
firmware, the release sequence with the alias key and the boot record (17_boot_attestation.md). -/

set_option linter.unusedVariables false

namespace Sys2Proof.Machine

open Sys2Proof Sys2Proof.Bits

def State.setPhase (s : State) (p : BootPhase) : State := { s with boot := { s.boot with phase := p } }

/-! ### Images (R358 to R360) -/

/-- The root public key that an index names for images and banks: an enrolled, unrevoked OEM root, or the test root at index 0 in TEST
and ANALYSIS (R327, R359). -/
def imageRoot (s : State) (idx : Nat) : Option Bytes :=
  if lcCode s = lcTest ∨ lcCode s = lcAnalysis then (if idx = 0 then some Config.testRootKey else none)
  else if idx < 4 ∧ s.lc.otp.enrolled.getLsbD idx ∧ !s.lc.otp.revoked.getLsbD idx then
    some (Map.get [] s.lc.otp.rootKey idx)
  else none

/-- Body and signature of a signed structure. -/
def signedBody (b : Bytes) : Bytes := b.take (b.length - 96)
def signedSig (b : Bytes) : Bytes := b.drop (b.length - 96)

/-- A signature over everything before its last 96 bytes verifies under a key. -/
def signedBy (key : Option Bytes) (b : Bytes) : Bool :=
  match key with
  | some k => verify384 k (signedSig b) (signedBody b)
  | none => false

/-- The signed digest of an image, bank or manifest. -/
def signedDigest (b : Bytes) : Bytes := Hash.sha384 (signedBody b)

def imgVersion (b : Bytes) : Nat := fieldLe b 8 4
def imgCode (b : Bytes) : Nat := fieldLe b 12 4
def imgData (b : Bytes) : Nat := fieldLe b 16 4
def imgEntry (b : Bytes) : Nat := fieldLe b 20 4

/-- The header of a warden or scarecrow image is as R359 requires. -/
def imageForm (scare : Bool) (b : Bytes) : Bool :=
  b.take 4 == ascii (if scare then "KNSC" else "KNWF") && fieldLe b 4 2 == 1 &&
    decide ((byteAt b 6).toNat < (if scare then 1 else 4)) && byteAt b 7 == 0 && imgCode b % 4 == 0 &&
    decide (imgCode b ≤ (if scare then 65536 else 1048576)) && decide (imgData b ≤ (if scare then 16384 else 524288)) &&
    decide (imgEntry b < imgCode b) && allZero (slice b 24 40) && b.length == 64 + imgCode b + imgData b + 96

def scarecrowOk (s : State) (b : Bytes) : Bool :=
  imageForm true b && signedBy (some Config.imageKey) b && decide (s.lc.otp.revScr ≤ imgVersion b)

def firmwareOk (s : State) (b : Bytes) : Bool :=
  imageForm false b && signedBy (imageRoot s (byteAt b 6).toNat) b && decide (s.lc.otp.revFw ≤ imgVersion b)

def BootBank.image (b : BootBank) (k : Nat) : Bytes := b.images.getD k []

/-- Microprogram banks of a set, in boot order. -/
def BootBank.banks (b : BootBank) : List Bytes := b.images.drop 3

/-- States in which the boot ROM serves and no warden firmware runs (R328). -/
def romState (s : State) : Bool := lcCode s == lcBlank || lcCode s == lcMinted || lcCode s == lcScrap

/-- A set serves: its scarecrow image, and its firmware where firmware runs. -/
def setOk (s : State) (b : BootBank) : Bool := scarecrowOk s (b.image 0) && (romState s || firmwareOk s (b.image 1))

/-- The outcome of R360: whether bank B serves and the fallback flag, or the stall reason. -/
def chooseSet (s : State) : Except Nat (Bool × Bool) :=
  let a := s.boot.bankA
  let b := s.boot.bankBSet
  let candA := a.valid && decide (a.attempts < 3)
  let candB := b.valid && decide (b.attempts < 3)
  let passed := (a.valid && !candA) || (b.valid && !candB)
  let firstB := candB && (!candA || decide (a.seq.toNat < b.seq.toNat))
  let order := if candA && candB then [firstB, !firstB] else if candA then [false] else if candB then [true] else []
  let bank (x : Bool) : BootBank := if x then b else a
  match order.find? (fun x => setOk s (bank x)) with
  | some x => .ok (x, passed || order.head? != some x)
  | none => .error (if order.any (fun x => scarecrowOk s ((bank x).image 0)) then 6 else 5)

def bootedBank (s : State) : BootBank := if s.boot.bankB then s.boot.bankBSet else s.boot.bankA

def modBooted (s : State) (f : BootBank → BootBank) : State :=
  if s.boot.bankB then { s with boot := { s.boot with bankBSet := f s.boot.bankBSet } }
  else { s with boot := { s.boot with bankA := f s.boot.bankA } }

/-! ### Steps of the boot (R355, R361) -/

/-- The memory that a byte string initializes from address 0. -/
def memOf (bs : Bytes) : Map Byte := (((List.range bs.length).zip bs).filter (fun x => x.2 != 0))

/-- The OTP revision counters as the boot record writes them. -/
def otpCounters (s : State) : Bytes := le 4 s.lc.otp.revScr ++ le 4 s.lc.otp.revFw ++ le 4 s.lc.otp.revMicro

/-- MEAS_6 and MEAS_7 (R216). -/
def extendPlatform (s : State) : State :=
  let roots := ((List.range 4).filter (fun i => s.lc.otp.enrolled.getLsbD i)).flatMap
    (fun i => digestBytes (Map.get 0 s.lc.otp.rootDigest i))
  let s := extendMeas s 6 (Hash.sha384 (le 4 Config.romVersion.toNat ++ otpCounters s))
  extendMeas s 7 (Hash.sha384 (BitVec.ofNat 8 (lcCode s) :: roots))

/-- The entry for a latched tamper, which clears pending (R316). -/
def tamperEntry (s : State) : State :=
  if !s.scr.pending then s
  else
    let s := { s with
      scr := { s.scr with pending := false }
      boot := { s.boot with tamperLatched := true } }
    Tal.post s {
      code := 0x0002
      detail := BitVec.ofNat 16 s.scr.firstCause
      data := le 2 s.scr.count ++ zeros 2 ++ le 8 s.scr.tamperTime }

/-- Wardens in service at the start of a boot (R301, R357). -/
def startYoke (s : State) (a b : Bool) : State :=
  let y := { s.yoke with feedA := a, feedB := b }
  if a && b then { s with yoke := y }
  else
    let y := { y with
      solo := true
      batonB := b
      aState := if a then .active else .feedLost
      bState := if b then .active else .feedLost }
    degrade { s with yoke := y, boot := { s.boot with solo := true } } causeWarden 0x0008

/-- A Field die whose HBM PLL does not lock stays out of service until the next reset (R355). -/
def pllOut (s : State) (d : Nat) : State :=
  degrade { s with dev := { s.dev with out := s.dev.out ||| BitVec.twoPow 2 (d - 1) } } causeLink 0

/-- Load the warden firmware into the wardens that run (R361 step 4). -/
def startFirmware (s : State) (img : Bytes) : State :=
  let code := slice img 64 (imgCode img)
  let s := { s with sram := memOf (fit 0x100000 code ++ code) }
  let c : Core := { phase := .running, pc := imgEntry img, mem := memOf (slice img (64 + imgCode img) (imgData img)) }
  let s := if s.yoke.aState = .active ∨ s.yoke.aState = .standby then s.setCore 2048 c else s
  if s.yoke.bState = .active ∨ s.yoke.bState = .standby then s.setCore 2049 c else s

/-! ### The release sequence (R362 to R366) -/

/-- All eight measurement registers as bytes. -/
def allMeas (s : State) : Bytes := selected s.meas 0xFF

/-- The alias private key (R363, R364). -/
def aliasPrivate (s : State) : Nat :=
  scalar384 (Hash.kdfCounter .sha384 (Tal.unitSecretBytes s) (ascii "TK4820 ALIAS") (Tal.serialBytes ++ allMeas s) 56)

/-- Derive the alias key and issue its certificate where an identity certificate is stored. -/
def deriveAlias (s : State) : State :=
  let d := aliasPrivate s
  let pub := pub384 d
  let s := { s with boot := { s.boot with aliasKey := some d } }
  match s.lc.cert, identityKey s with
  | some ic, some idk =>
    let t := Der.aliasTbs ic ((Hash.sha384 pub).take 16) pub Tal.serialBytes ((List.range 8).map (fun i => digestBytes (s.meas i)))
    let (sig, s) := sign384 s idk t
    { s with boot := { s.boot with aliasCert := some (Der.cert t sig) } }
  | _, _ => s

/-- The chain of R365. -/
def certChain (s : State) : List Bytes := [Config.manufacturingCaCert] ++ s.lc.cert.toList ++ s.boot.aliasCert.toList

/-- Digests and measurement slots of the accepted banks, in load order. -/
def acceptedBanks (s : State) : List Bank := (List.range s.ldr.accepted).map (fun i => Map.get {} s.ldr.banks i)

/-- Flags of a boot record (R366). -/
def bootFlags (s : State) : Nat :=
  b2n s.boot.solo + 2 * b2n s.boot.bankB + 4 * b2n s.boot.fallback + 8 * b2n s.lc.resumed + 16 * b2n s.boot.tamperLatched +
    32 * b2n (s.dev.causes != 0) + 64 * b2n (s.boot.count == 2 ^ 32 - 1)

/-- The unsigned bytes of this boot's record. -/
def bootRecordBody (s : State) : Bytes :=
  let bs := acceptedBanks s
  let nb := bs.length
  let slots := ((List.range nb).map (fun i => (bs.getD i {}).slot.toNat * 4 ^ i)).sum
  [0x42, 0x52, 0x45, 0x43] ++ le 2 1 ++ le 2 (656 + 48 * nb) ++ le 4 s.boot.count ++ le 4 Config.romVersion.toNat ++
    [BitVec.ofNat 8 (lcCode s), BitVec.ofNat 8 (bootFlags s), if s.time.rtcSet then 1 else 0, BitVec.ofNat 8 nb] ++
    otpCounters s ++ le 8 (if s.time.rtcSet then s.time.rtc else 0) ++ le 8 Config.unitSerial.toNat ++ le 4 s.boot.fwVer ++
    le 4 s.boot.scrVer ++ le 4 (bootedBank s).seq.toNat ++ zeros 4 ++ allMeas s ++ digestBytes s.boot.scrDigest ++
    digestBytes s.boot.fwDigest ++ le 16 slots ++ bs.flatMap (fun b => digestBytes b.digest)

/-- Write and sign the boot record, and post the boot entry (R362 step 4, R368). -/
def writeBootRecord (s : State) : State :=
  match s.boot.aliasKey with
  | none => s
  | some d =>
    let body := bootRecordBody s
    let (sig, s) := sign384 s d body
    let rec_ := body ++ sig
    let k := s.boot.count % 256
    let s := { s with boot := { s.boot with
      records := Map.set [] s.boot.records k rec_
      recCount := Map.set 0 s.boot.recCount k (s.boot.count + 1) } }
    Tal.post s { code := 0x0001, data := le 4 s.boot.count ++ (Hash.sha384 rec_).take 16 }

/-- The identity key can be used (R337, R362). -/
def identityUsable (s : State) : Bool := !(lcCode s == lcBlank || lcCode s == lcTest || lcCode s == lcScrap)

/-- The release sequence of R362; the ROM service serves PF SQ 0 and CQ 0 alone, for which the boot ROM opens the host interface to the
endpoint's DMA (R328; log 96). -/
def release (s : State) : State :=
  let s := { s with grn := { s.grn with frozen := true } }
  let s := if identityUsable s then deriveAlias s else s
  let s := evaluateSlots s
  let s := if identityUsable s then writeBootRecord s else s
  let s := modBooted s (fun b => { b with attempts := 0, good := true })
  let rom := romState s
  let s := if rom then setCls s (keepGate 0) (clsCodeOf .hostDma) 7 else s
  { s with boot := { s.boot with phase := .released, pfEnabled := !rom, romService := rom } }

/-! ### The boot (R354 to R361) -/

/-- Steps 4 to 6 up to firmware entry, or the ROM service; the buckets are restored first (R236). -/
def enterFirmware (s : State) : State :=
  let s := restoreBuckets s
  if romState s then release (extendPlatform s)
  else
    let img := (bootedBank s).image 1
    let s := extendMeas s 1 (signedDigest img)
    let s := { s with boot := { s.boot with fwDigest := digest384 (signedDigest img), fwVer := imgVersion img } }
    let s := extendPlatform (startFirmware s img)
    let s := modBooted s (fun b => { b with attempts := b.attempts + 1 })
    { s with
      boot := { s.boot with phase := .firmware }
      pwr := { s.pwr with pllStarted := true } }

/-- The scarecrow core starts at its image's entry with its data space loaded (R361 step 3). -/
def loadScarecrow (img : Bytes) (s : State) : State :=
  s.modCore 2050 (fun c => { c with pc := imgEntry img, mem := memOf (slice img (64 + imgCode img) (imgData img)) })

/-- Step 3: the set, the scarecrow image and its gates. -/
def startSet (s : State) : State :=
  match chooseSet s with
  | .error r => bootStall s r
  | .ok (b, fb) =>
    let s := { s with boot := { s.boot with bankB := b, fallback := fb } }
    let img := (bootedBank s).image 0
    let s := extendMeas s 0 (signedDigest img)
    let s := { s with boot := { s.boot with scrDigest := digest384 (signedDigest img), scrVer := imgVersion img } }
    enterFirmware (judgeRoot (loadScarecrow img (startScarecrow (lockScarecrowGates s))))

/-- The identity region is unreadable or its key does not unwrap, in MINTED or a later state; after SCRAP nothing unwraps it (R337,
R356). -/
def identityLost (s : State) : Bool :=
  !(lcCode s == lcBlank || lcCode s == lcTest || lcCode s == lcScrap) && (identityKey s).isNone

/-- The flash's reset pulse, the read of its SFDP tables in 1S-1S-1S mode, and the mode and clock that they allow, with 4-byte addresses
(R441). -/
def xspiUp (octal : Bool) : Xspi where
  mode := if octal then .octal else .single
  clock := if octal then 200 else 25
  strobe := octal
  addrBytes := 4
  resetPulse := 10
  sfdp := some octal

/-- Step 2 and on: a recorded transition is resumed; one that ends with the self-reset leaves the boot waiting for it (R334). -/
def resumeBoot (env : BootEnv) (s : State) : State :=
  let code := s.lc.progress.code
  let needsSupply := code == 4 || code == 6
  if code ≠ 0 then
    if needsSupply && (!env.vbatOk || s.scr.present != 0) then
      { s.setPhase .hold with scr := { s.scr with hold := true, holdTimer := s.scr.present == 0 } }
    else
      let s := lcResume (s.setPhase .resumption)
      if s.lc.selfReset then s else if identityLost s then bootStall s 0xB else startSet (tamperEntry s)
  else if identityLost s then bootStall s 0xB
  else startSet (tamperEntry s)

/-- The checks of R355, in order, then step 1. -/
def romChecks (env : BootEnv) (s : State) : State :=
  let s := { s.setPhase .romChecks with boot := { s.boot with phase := .romChecks, beganAt := s.tmr.now } }
  if !env.feedA && !env.feedB then bootStall { s with yoke := { s.yoke with feedA := false, feedB := false } } 1
  else
    let s := startYoke s env.feedA env.feedB
    if !env.otpOk then bootStall s 2
    else
      let rom := romState s
      if !rom && env.refAttempt == 3 then
        let s := bootStall s 3
        { s with boot := { s.boot with detail := 3 } }
      else
        let s := if rom then s else { s with pwr := { s.pwr with refArmed := true } }
        if !rom && !env.pllF0 && !env.pllF1 then bootStall s 4
        else
          let s := if !rom && !env.pllF0 then pllOut s 1 else s
          let s := if !rom && !env.pllF1 then pllOut s 2 else s
          let s := { s with boot := { s.boot with count := min (2 ^ 32 - 1) (s.boot.count + 1), xspi := xspiUp env.octal } }
          resumeBoot env s

/-- The boot from its start: it waits while the package is held, and a trip condition present holds it in HOLD (R315, R354, R435,
R436). -/
def boot (env : BootEnv) (s : State) : State :=
  if !s.pwr.rails || s.boot.perst || !s.scrAux.vio || s.scrAux.scanHold then s.setPhase .off
  else if s.scr.hold || s.scr.present != 0 then { s.setPhase .hold with scr := { s.scr with hold := true } }
  else romChecks env s

/-- A warm reset and the boot that follows. -/
def warmBoot (env : BootEnv) (s : State) : State := boot env (afterReset s)

/-- The battery domain loses its supply: the root, the latches, the filters, the history, the RTC with its sync record and the
budget are gone (R213, R317, R322, R396, R399). -/
def loseDomain (s : State) : State :=
  { clearRoot s with
    scr := { cfg := s.scr.cfg }
    scrAux := { vio := s.scrAux.vio }
    time := {} }

end Sys2Proof.Machine
end

