-- ==== Sys2Proof/Machine/DieOps.lean ====
section
/-! DEFINITION. Field dies in service: DRAM dies marked failed, stacks and links that bring a die up or take it out (R19 to R21,
R254, R262). -/

set_option linter.unusedVariables false

namespace Sys2Proof.Machine

open Sys2Proof Sys2Proof.Bits

/-- Full width of a Sothen link, and the least width it works at (R19 to R21). -/
def fullLanes (l : Nat) : Nat := if l = 2 then 16 else 32
def leastLanes (l : Nat) : Nat := if l = 2 then 4 else 8

/-- The widest power of two of working lanes, 0 below the least width. -/
def linkWidth (l good : Nat) : Nat :=
  if fullLanes l ≤ good then fullLanes l
  else if fullLanes l / 2 ≤ good then fullLanes l / 2
  else if leastLanes l ≤ good then leastLanes l
  else 0

/-- A Field die is in service when its stack is, its link to the Keep die has trained, and nothing has taken it out (R20, R254). -/
def settleDie (s : State) (d : Nat) : State :=
  let up := (s.stack d).inService && decide (8 ≤ (s.link (d - 1)).lanes) && !s.dev.out.getLsbD (d - 1)
  noteStatus s { s with dev := { s.dev with
    f0 := if d = 1 then up else s.dev.f0
    f1 := if d = 2 then up else s.dev.f1 } }

/-- Take a die out of service; with both dies out before the release, the boot stalls (R20, R356). -/
def loseDie (s : State) (d cause : Nat) (src : BitVec 16) : State :=
  let s := dieOut s d cause src
  if s.dev.out == 3 && s.boot.phase == .firmware then bootStall s 8 else s

/-- How many DRAM dies of a stack are marked failed. -/
def failedDies (h : Hbm) : Nat := ((List.range 16).filter (fun k => h.failed.getLsbD k)).length

/-- Mark a DRAM die failed (R262): an entry; the first sets DEGRADED, the second takes the Field die out of service. -/
def markDramFailed (s : State) (d k : Nat) : State :=
  let h := s.stack d
  if h.failed.getLsbD k then s
  else
    let s := s.setStack d { h with failed := h.failed ||| BitVec.twoPow 16 k }
    let s := Tal.post s { code := 0x0007, die := BitVec.ofNat 8 d, detail := 1, data := [BitVec.ofNat 8 (d - 1), BitVec.ofNat 8 k] }
    let s := degrade s causeHbm 0x0007
    if failedDies h = 1 then
      loseDie (s.setStack d { s.stack d with inService := false }) d causeHbm 0x0007
    else s

/-- Erasure mode: one die is marked failed (R254, R274). -/
def erasure (h : Hbm) : Bool := failedDies h == 1

end Sys2Proof.Machine
end

