-- ==== Sys2Proof/Machine/Boot.lean ====
section
/-! DEFINITION. Boot, memory bring-up and links; the supplies that hold the package in reset (17_boot_attestation.md; R18, R19, R254, R406,
R435, R436). -/

set_option linter.unusedVariables false

namespace Sys2Proof.Machine

open Sys2Proof Sys2Proof.Bits

/-- COLD_RESET (R354): the Keep rails rise. A unit that lay in FALLOW records its exit; without VBAT the battery-loss channel holds its
condition from the start (R310, R315). -/
def execColdReset (env : BootEnv) (s : State) : Host.Outcome State Fault Refusal :=
  done (
    if s.pwr.rails then s
    else
      let wasFallow := s.pwr.fallow
      let t := afterReset s
      let t := { t with pwr := { t.pwr with rails := true, fallow := false } }
      let t := if wasFallow then histEvent t 0 evFallowExit 0 else t
      if s.scr.battery then boot env t else trip t [(chanBattery, 0)])

/-- PERST_N_ASSERT (R354, R436): a warm reset; the Keep die then waits at the start of the boot ROM. -/
def execPerstNAssert (s : State) : Host.Outcome State Fault Refusal :=
  done (
    if s.boot.perst then s
    else
      let t := { s with boot := { s.boot with perst := true } }
      if s.pwr.rails then heldInReset t .off else t)

/-- PERST_N_DEASSERT (R436): the boot begins. -/
def execPerstNDeassert (env : BootEnv) (s : State) : Host.Outcome State Fault Refusal :=
  done (if s.boot.perst then boot env { s with boot := { s.boot with perst := false } } else s)

/-- BOOT_RELEASE_WRITE (R362). Where the release signs, it waits for the Keep DRBG (R245). -/
def execBootReleaseWrite (s : State) : Host.Outcome State Fault Refusal :=
  done (if s.boot.phase = .firmware ∧ (identityUsable s = false ∨ drbgServes s 8 = true) then release s else s)

/-- BOOT_RELEASE_WATCHDOG (R360): the attempt stays counted. -/
def execBootReleaseWatchdog (env : BootEnv) (s : State) : Host.Outcome State Fault Refusal :=
  done (if s.boot.phase = .firmware then warmBoot env s else s)

/-- HBM_TRAINING_DONE (R254, R268): a pseudo-channel that fails marks its DRAM die failed, and the row history is applied again. -/
def execHbmTrainingDone (die : Fin 2) (pcPass : BitVec 32) (lanes : BitVec 8) (s : State) : Host.Outcome State Fault Refusal :=
  let d := die.val + 1
  done (
    if s.boot.phase = .firmware ∧ !(s.stack d).trained ∧ !s.dev.out.getLsbD (d - 1) then
      let bad := (List.range 16).filter (fun k => !(pcPass.getLsbD (2 * k) && pcPass.getLsbD (2 * k + 1)))
      let t := s.setStack d { s.stack d with
        trained := true
        inService := true
        lanes := lanes.toNat
        remap := rowMap s d
        pcTrain := pcPass }
      settleDie (bad.foldl (fun t k => markDramFailed t d k) t) d
    else s)

/-- FLIT_CRC_FAIL (R18): the eighth successive failure starts a retrain. -/
def execFlitCrcFail (link : Fin 3) (s : State) : Host.Outcome State Fault Refusal :=
  let x := s.link link
  done (
    if x.lanes = 0 ∨ x.retraining then s
    else if x.fails + 1 < 8 then s.setLink link { x with fails := x.fails + 1 }
    else s.setLink link { x with fails := 0, retraining := true })

/-- The error latches of a link's pages: code 0x0014 with the new width (R417). -/
def latchLink (s : State) (l w : Nat) : State :=
  if l = 2 then latchErr (latchErr s (fieldPage 1 4) 0x0014 w) (fieldPage 2 4) 0x0014 w
  else latchErr (latchErr s (keepPage (0x14 + l)) 0x0014 w) (fieldPage (l + 1) 3) 0x0014 w

/-- LINK_RETRAIN_DONE (R19 to R21): the width the working lanes give; below it the die leaves service, or the Keep die relays. -/
def execLinkRetrainDone (link : Fin 3) (goodLanes : Fin 33) (s : State) : Host.Outcome State Fault Refusal :=
  done (
    if !keepRuns s then s
    else
      let l := link.val
      let w := linkWidth l goodLanes
      let t := s.setLink l { lanes := w }
      let t := if w < fullLanes l then degrade (latchLink t l w) causeLink 0 else t
      if l = 2 then { t with dev := { t.dev with relay := w == 0 } }
      else if w = 0 then loseDie t (l + 1) causeLink 0
      else settleDie t (l + 1))

/-- KEEP_RAILS_FALL (R406): the battery domain goes on in FALLOW; without a battery it loses its supply too. -/
def execKeepRailsFall (s : State) : Host.Outcome State Fault Refusal :=
  done (
    if !s.pwr.rails then s
    else
      let t := { s with pwr := { s.pwr with rails := false } }
      let t := heldInReset t .off
      let t := { t with tap := {}, scrAux := { t.scrAux with scanHold := false } }
      if s.scr.battery && !s.scr.present.getLsbD chanBattery then
        histEvent { t with pwr := { t.pwr with fallow := true } } 0 evFallowEntry 0
      else loseDomain t)

/-- VIO_UNDERVOLTAGE (R435): the package is held in reset. -/
def execVioUndervoltage (s : State) : Host.Outcome State Fault Refusal :=
  done (
    if s.pwr.rails ∧ s.scrAux.vio then heldInReset { s with scrAux := { s.scrAux with vio := false } } .off else s)

/-- VIO_RETURN (R435). -/
def execVioReturn (env : BootEnv) (s : State) : Host.Outcome State Fault Refusal :=
  done (if s.scrAux.vio then s else warmBoot env { s with scrAux := { s.scrAux with vio := true } })

/-- LIFECYCLE_SELF_RESET (R332). -/
def execLifecycleSelfReset (env : BootEnv) (s : State) : Host.Outcome State Fault Refusal :=
  done (if s.lc.selfReset then warmBoot env s else s)

end Sys2Proof.Machine
end

