-- ==== Sys2Proof/Machine/Memory.lean ====
section
/-! DEFINITION. The HBM controllers' and the gleaner's rows (11_memory.md): held reads, page fills, merge timeouts, the gleaner and
row retirement. -/

set_option linter.unusedVariables false

namespace Sys2Proof.Machine

open Sys2Proof Sys2Proof.Bits

namespace Hbm

/-- The next line of a valid page at or above a position. -/
def nextLine (h : Hbm) (pos : Nat) : Option Nat :=
  (h.valid.find? (fun x => decide (pos < 64 * (x.1 + 1)))).map (fun x => max pos (64 * x.1))

/-- The cells of symbols have changed. -/
def upsetCells (h : Hbm) (cells : List (Nat × Nat × BitVec 72)) : Hbm :=
  { h with upset := cells.foldl (fun m c => Map.set 0 m (16 * c.1 + c.2.1) (Map.get 0 m (16 * c.1 + c.2.1) ^^^ c.2.2)) h.upset }

end Hbm

/-- Row-history entries of one DRAM die. -/
def rowsOfDie (s : State) (d k : Nat) : Nat :=
  Map.count (fun _ x => x.valid && x.stack == d - 1 && x.die == k) s.rowHist

/-- A die with 64 located corrections within 1 s, by readers and the gleaner, is marked failed (R262). The model judges it at the next row
of the die's controller (log 107). -/
def judgeDies (s : State) (d : Nat) : State :=
  (List.range 16).foldl (fun s k =>
    if withinSpan (Map.get [] (s.stack d).ceTimes k) 64 second then markDramFailed s d k else s) s

/-- The lines that an uncorrectable line takes with it: a line of the tag region covers eight lines (R258, R263). -/
def coveredLines (line : Nat) : List Nat :=
  let off := 64 * line
  if taggedEnd ≤ off ∧ off < reserveBase then
    let first := (stagingBase + 8 * (off - taggedEnd)) / 64
    line :: (List.range 8).map (first + ·)
  else [line]

/-- What a poisoned read does to its reader (R263); a context finds the poison when its fetch ends, the gleaner has no reader. -/
def poisonedReader (s : State) : UeReader → State
  | .staging e =>
    let x := s.entry e
    if x.state = .reserved ∧ (x.phase = .drafted ∨ x.phase = .posted) then endRequest s e St.faultAlarm else s
  | _ => s

/-- The readers held at a line. -/
def readersAt (h : Hbm) (l : Nat) : List UeReader := (h.held.filter (fun x => x.1 == l)).map (·.2)

/-- The held reads of a line are released. -/
def releaseLine (s : State) (d l : Nat) : State :=
  let h := s.stack d
  s.setStack d { h with held := h.held.filter (fun x => x.1 != l) }

/-- HBM_UE_RESOLVED (R261 to R263): the rereads give what is left, probes mark dies failed, and the line decodes again, or it is poisoned.
Every read held at the line is released. -/
def execHbmUeResolved (die : Fin 2) (line : Fin 268435456) (probe : BitVec 16) (left : List SymUpset) (ini : BitVec 4)
    (reader : UeReader) (s : State) : Host.Outcome State Fault Refusal :=
  done (
    let d := die.val + 1
    let l := line.val
    if !((s.stack d).inService && (s.stack d).held.contains (l, reader)) then s
    else
      let rs := readersAt (s.stack d) l
      let s := s.setStack d (Hbm.upsetCells (Hbm.restoreSymbols (s.stack d) l) (left.map (fun x => (l, x.1.val, x.2))))
      let s := (List.range 16).foldl (fun s k => if probe.getLsbD k then markDramFailed s d k else s) s
      let s :=
        if (Hbm.blocking (s.stack d) l).isEmpty then correctLine (releaseLine s d l) d l
        else
          let k := Hbm.firstBadDie (s.stack d) l
          let i := if reader = .gleaner then 15 else ini.toNat
          let s := (coveredLines l).foldl (fun s x => poisonLine s d x k i) (releaseLine s d l)
          rs.foldl poisonedReader s
      let s := if rs.contains .merge then completeMerge s d l else s
      lateWatchdogs (judgeDies s d))

/-- HBM_PAGE_FILL_DONE (R265): the page leaves the fill tracker. -/
def execHbmPageFillDone (die : Fin 2) (page : Fin 4194304) (s : State) : Host.Outcome State Fault Refusal :=
  done (
    let d := die.val + 1
    let h := s.stack d
    s.setStack d { h with fills := h.fills.filter (· != page.val) })

/-- MERGE_ENTRY_TIMEOUT (R266 rule 2). -/
def execMergeEntryTimeout (die : Fin 2) (line : Fin 268435456) (s : State) : Host.Outcome State Fault Refusal :=
  done (judgeDies (completeMerge s (die.val + 1) line.val) (die.val + 1))

/-- Changed cells of lines by symbol: of data symbols, of check symbols (the ninth of a line) and of CRC bytes (R259). -/
def lineCells (data : List (Fin 268435456 × Fin 8 × BitVec 64)) (check : List (Fin 268435456 × BitVec 64))
    (crc : List (Fin 268435456 × Fin 9 × BitVec 8)) : List (Fin 268435456 × SymUpset) :=
  let cell (line : Fin 268435456) (j : Fin 9) (x : BitVec 72) : Fin 268435456 × SymUpset := (line, j, x)
  data.map (fun x => cell x.1 x.2.1.castSucc (x.2.2.setWidth 72)) ++ check.map (fun x => cell x.1 8 (x.2.setWidth 72)) ++
    crc.map (fun x => cell x.1 x.2.1 ((x.2.2.setWidth 72).shiftLeft 64))

/-- End of a gleaner pass: it is counted, and its corrections become those of an earlier pass (R267, R268). -/
def endPass (s : State) (d : Nat) : State :=
  let h := s.stack d
  let old := h.rowNow.foldl (fun m x => Map.set false m x.1 true) h.rowOld
  evtCount (s.setStack d { h with pos := 0, rowNow := [], rowOld := old }) (hbmPage d) 0x0F0 30 0

/-- Blocks of a valid bitmap that parity finds uncorrectable: their 64 pages are valid, and their fills start (R270). -/
def scrubValid (s : State) (d : Nat) : State :=
  (s.dev.flips.map (·.1)).foldl (fun s c =>
    match c with
    | .validMap e k =>
      if e + 1 = d then
        match readUnit s c with
        | (.bad, s) => writeUnit (s.setStack d ((List.range 64).foldl (fun h i => Hbm.touch h (64 * (64 * k + i))) (s.stack d))) c
        | (_, s) => s
      else s
    | _ => s) s

/-- GLEANER_LINE_READ (R267, R268): the next line of a valid page in ascending order, decoded as any read is. Cells change in lines that
are stored. -/
def execGleanerLineRead (die : Fin 2) (data : List (Fin 268435456 × Fin 8 × BitVec 64)) (check : List (Fin 268435456 × BitVec 64))
    (crc : List (Fin 268435456 × Fin 9 × BitVec 8)) (s : State) : Host.Outcome State Fault Refusal :=
  done (
    let d := die.val + 1
    let s := if (s.stack d).inService && !(s.stack d).selfRefresh then scrubValid s d else s
    let h := s.stack d
    if !h.inService || h.selfRefresh then s
    else
      let stored := (lineCells data check crc).filter (fun c => Hbm.lineValid h c.1)
      let h := Hbm.upsetCells h (stored.map (fun c => (c.1.val, c.2.1.val, c.2.2)))
      match Hbm.nextLine h h.pos with
      | none => s.setStack d h
      | some l =>
        let s := s.setStack d { h with pos := l + 1 }
        let a := hbmBase d + 64 * l
        let s :=
          if !gateAllows s .gleaner a false then recordDenial s .gleaner a false
          else if (Hbm.blocking h l).isEmpty then readLine s d l
          else holdLines (perfCount s (hbmPage d) hbmRdLines 1) d (Hbm.blocking h l) .gleaner
        judgeDies (if (Hbm.nextLine h (l + 1)).isNone then endPass s d else s) d)

/-- ROW_RETIREMENT_DONE (R268): the row's symbols, corrected, are in the spare row, the row is remapped and enters the history; the 16th row of a die fails it (R262). The spec
does not say which spare row is taken (log 2). -/
def execRowRetirementDone (die : Fin 2) (s : State) : Host.Outcome State Fault Refusal :=
  done (
    let d := die.val + 1
    let h := s.stack d
    match h.retiring with
    | none => s
    | some (k, half, bank, row) =>
      let key := Hbm.rowKey k half bank row
      let n := Map.get 0 h.rowAll key
      let s := s.setStack d { h with
        retiring := none
        upset := h.upset.filter (fun x => Hbm.symRow (x.1 / 16) (x.1 % 16) != key)
        rowAll := Map.set 0 h.rowAll key 0
        rowNow := Map.set 0 h.rowNow key 0
        rowOld := Map.set false h.rowOld key false }
      let (spare, s) := s.draw 16
      match Map.findFrom {} s.rowHist (fun x => !x.valid) 64 0 with
      | none => s
      | some i =>
        let s := { s with rowHist := Map.set {} s.rowHist i {
          valid := true
          stack := d - 1
          die := k
          half := half
          bank := bank
          row := row
          spare := spare.toNat
          corr := min n 65535
          boot := BitVec.ofNat 32 s.boot.count } }
        let s := s.setStack d { s.stack d with remap := Map.set 0 (s.stack d).remap key spare.toNat }
        if 16 ≤ rowsOfDie s d k then markDramFailed s d k else s)

end Sys2Proof.Machine
end

