-- ==== Sys2Proof/Machine/Upkeep.lean ====
section
/-! DEFINITION. Small units with rows of their own: the root mask, slot period ticks and bucket snapshots (09_granary.md); tally
reservations and windows (18_tally.md); officer nonces (13_wardens_yoke.md); stook windows (05_transaction_units.md); bulk-engine
locks (07_block_and_bulk_ciphers.md). -/

set_option linter.unusedVariables false

namespace Sys2Proof.Machine

open Sys2Proof Sys2Proof.Bits

/-! ### Granary -/

/-- ROOT_MASK_REFRESH (R213): while the Keep die is powered, every second, in whatever state the boot or a reset is. -/
def execRootMaskRefresh (s : State) : Host.Outcome State Fault Refusal :=
  done (if s.pwr.rails then remaskRoot s else s)

/-- Replace Mk of every nonempty copy of a slot; C does not change (R222). -/
def remaskSlot (s : State) (idx : Nat) : State :=
  [0, 1].foldl (fun s n =>
    let c := (s.slotAt idx).copy n
    if c.state = 0 then s
    else
      let (r, s) := drbgGen s 8 80
      let m := BitVec.ofNat 640 (ofLe r)
      s.setSlot idx ((s.slotAt idx).setCopy n { c with shareA := c.shareA ^^^ c.shareB ^^^ m, shareB := m })) s

/-- SLOT_PERIOD_TICK (R222, R270): a slot whose MRAM read is uncorrectable is damaged; else its copies are re-masked, once the Keep
DRBG serves, and its MACs checked, as its protection byte asks. No tick comes before the measurements are final. -/
def execSlotPeriodTick (slot : Fin 4096) (flips : List Flip) (s : State) : Host.Outcome State Fault Refusal :=
  done (
    let s := flipCells s flips
    let x := s.slotAt slot
    if !keepRuns s || !s.grn.frozen || !x.live then s
    else
      let (par, s) := readUnit s (.slot slot)
      if par = .bad then markDamaged s slot
      else checkSlot (if x.remask && drbgServes s 8 then remaskSlot s slot else s) slot)

/-- BUCKET_SNAPSHOT (R236): every bucket is refilled and written to MRAM; only the snapshot at FALLOW entry is orderly. -/
def execBucketSnapshot (s : State) : Host.Outcome State Fault Refusal :=
  done (if keepRuns s then snapshotAll s else s)

/-! ### Tally -/

/-- TAL_RESV.take for n entries by warden firmware (R381, R391). -/
def takeResv (s : State) (n : Nat) : State :=
  match Tal.reserve s n with
  | some t => { t with tal := { t.tal with fwResv := t.tal.fwResv + n, refused := false } }
  | none => { s with tal := { s.tal with refused := true } }

/-- TAL_RESV_TAKE. -/
def execTalResvTake (s : State) : Host.Outcome State Fault Refusal := done (takeResv s 1)

/-- TAL_RESV_TAKE_PAIR. -/
def execTalResvTakePair (s : State) : Host.Outcome State Fault Refusal := done (takeResv s 2)

/-- TW_LAST of a window: the highest visible sequence, 0 when none (R386). -/
def twLast (s : State) (f : Nat) : Nat :=
  match (s.tal.log.filter (windowShows f)).getLast? with
  | some x => x.seq
  | none => 0

/-- A cursor as a write of v leaves it: the lowest visible sequence at or above v, else TW_LAST + 1 (R386). -/
def moveCursor (s : State) (f v : Nat) : State :=
  let s := { s with tal := { s.tal with cleared := s.tal.cleared.filter (fun g => g != f) } }
  match s.tal.log.find? (fun x => windowShows f x && decide (v ≤ x.seq)) with
  | some x => setCursor s f x.seq
  | none => setCursor s f ((twLast s f + 1) % 2 ^ 32)

/-- Sequence a window shows. -/
def cursorOf (s : State) (f : Nat) : Nat := Nat.xor (Map.get 0 s.tal.cursor f) 1

/-- A read of TW_STAT: after a clear has taken the entry that the window showed, the read finds present 0, and the cursor then moves to the
lowest visible sequence at or above its value (R390). -/
def settleCursor (s : State) (f : Nat) : State := if s.tal.cleared.contains f then moveCursor s f (cursorOf s f) else s

/-- TW_CURSOR_WRITE. -/
def execTwCursorWrite (f : Fin 2049) (v : Word) (s : State) : Host.Outcome State Fault Refusal :=
  done (moveCursor s f v.toNat)

/-- TW_ENTRY_READ: a read of TW_ENTRY_15 acts as a write of cursor + 1 (R386). -/
def execTwEntryRead (f : Fin 2049) (s : State) : Host.Outcome State Fault Refusal :=
  done (moveCursor s f (cursorOf s f + 1))

/-! ### Officer nonces -/

/-- OFC_NONCE_REQ (R308): a written 1 issues a nonce, at once or when the Keep DRBG serves. -/
def execOfcNonceReq (v : Word) (s : State) : Host.Outcome State Fault Refusal :=
  done (
    if !v.getLsbD 0 then s
    else if drbgServes s 8 then mailboxNonce s
    else { s with ofc := { s.ofc with
      waiting := if bit s.ofc.waiting 0 then s.ofc.waiting else s.ofc.waiting + 1
      ready := false } })

/-- NONCE_EXPIRY (R308): 30 minutes after its issue. -/
def execNonceExpiry (k : Fin 64) (s : State) : Host.Outcome State Fault Refusal :=
  done { s with ofc := { s.ofc with nonces := Map.set {} s.ofc.nonces k {} } }

/-! ### Stook windows -/

/-- STK_BANK_LOADING (R157): a copy of a bank into an EMPTY window starts. -/
def execStkBankLoading (k : Fin 32) (n : Fin 4) (bank : Fin 64) (s : State) : Host.Outcome State Fault Refusal :=
  done (if (s.window k n).state = 0 then s.setWindow k n { state := 1, bank := bank } else s)

/-- STK_BANK_DRAINING (R157): no new group is reserved for a RESIDENT window's functions. -/
def execStkBankDraining (k : Fin 32) (n : Fin 4) (s : State) : Host.Outcome State Fault Refusal :=
  done (if (s.window k n).state = 2 then s.setWindow k n { s.window k n with state := 3 } else s)

/-- BANK_COPY_DONE (R157): the copy verifies against the accepted digest and the window is RESIDENT, or it is EMPTY again. -/
def execBankCopyDone (k : Fin 32) (n : Fin 4) (ok : Bool) (s : State) : Host.Outcome State Fault Refusal :=
  done (
    let w := s.window k n
    let b := Map.get {} s.ldr.banks w.bank
    if w.state ≠ 1 then s
    else if ok && b.ok then
      s.setWindow k n {
        state := 2
        slot := b.slot
        bank := w.bank
        fnCount := b.fns.length
        secVer := b.secVer
        code := b.code }
    else s.setWindow k n { bank := w.bank })

/-- A group of a stook uses a window. -/
def windowInUse (s : State) (k n : Nat) : Bool :=
  s.entries.any (fun x => !x.2.group.isEmpty && stookOfCtx x.2.lead == k && x.2.window == n)

/-- BANK_DRAIN_DONE (R157): every group that used the window has ended. -/
def execBankDrainDone (k : Fin 32) (n : Fin 4) (s : State) : Host.Outcome State Fault Refusal :=
  done (
    let w := s.window k n
    if w.state = 3 ∧ !windowInUse s k n then s.setWindow k n { bank := w.bank } else s)

/-! ### Bulk-engine locks -/

/-- The warden holds the baton (R174, R290). -/
def holdsBaton (s : State) (w : Warden) : Bool := (w == .b) == s.yoke.batonB

/-- BAE_LOCK_ACQUIRE (R186). -/
def execBaeLockAcquire (b : Fin 8) (w : Warden) (s : State) : Host.Outcome State Fault Refusal :=
  done (
    let x := s.bae b
    if holdsBaton s w && x.owner == .free then s.setBae b { x with owner := .warden, keyParts := [] } else s)

/-- BAE_LOCK_RELEASE (R186): the key is erased. -/
def execBaeLockRelease (b : Fin 8) (w : Warden) (s : State) : Host.Outcome State Fault Refusal :=
  done (
    let x := s.bae b
    if holdsBaton s w && x.owner == .warden then
      s.setBae b { x with owner := .free, keyParts := [], msg := none, cntHi := false }
    else s)

end Sys2Proof.Machine
end

