-- ==== Sys2Proof/Machine/KxCode.lean ====
section
/-! DEFINITION. Knatrix instruction words and the loader (05_transaction_units.md, 06_knatrix_isa.md): which words are defined,
which ports take which direction, the schedule and bounded-loop checks, bank images, and the row of the loader's check
(R142, R155 to R157, R161 to R163, R173, R176, R177). -/

set_option linter.unusedVariables false

namespace Sys2Proof.Machine

open Sys2Proof Sys2Proof.Bits

namespace Kx

/-- Direction of a port access. -/
inductive Dir where
  | inp
  | out
  | sin
  | sout
deriving DecidableEq, Repr

/-- What the loader's checks need to know of an instruction. -/
inductive Cls where
  /-- no control transfer, no multiplier or accumulator access that R176 orders -/
  | plain
  /-- XS, SLDW, SEXT, SROLE -/
  | secret
  /-- conditional branch by a count of instructions -/
  | branch (off : Int)
  | jump (off : Int)
  | call (off : Int)
  | ret
  /-- LOOPI or LOOPR with a body length -/
  | loop (len : Nat)
  | port (d : Dir) (p : Nat)
  | mul
  | mac (a : Nat)
  | readM
  | readAcc (a : Nat)
  | writeAcc (a : Nat)
  /-- ERET, WFI, TRAP -/
  | sys
deriving DecidableEq, Repr

/-- Signed value of an n-bit field. -/
def sx (n v : Nat) : Int := (BitVec.ofNat n v).toInt

/-- SPOFS immediates that R172 does not exclude; it says nothing of bits [9:5]. -/
def spofsDefined (imm : Nat) : Bool :=
  decide (imm % 16 ≤ 11) && !(bit imm 4 && decide (imm % 16 + 1 ≤ 8))

/-- An SPOFS word whose immediate R172 excludes. -/
def spofsExcluded (w : Nat) : Bool := bits w 31 26 == 0x2A && bits w 12 10 == 4 && !spofsDefined (bits w 9 0)

/-- R format, opcode 0x01. -/
def alu (w : Nat) : Option Cls :=
  let fn := bits w 10 0
  let one := [0x22, 0x23, 0x30, 0x31].contains fn
  if [0, 1, 2, 3, 4, 5, 8, 9, 0xA, 0xB, 0x10, 0x11, 0x12, 0x13, 0x14, 0x15, 0x20, 0x21].contains fn then some .plain
  else if one && bits w 15 11 == 0 then some .plain
  else none

/-- R format, opcode 0x02. -/
def dec (w : Nat) : Option Cls :=
  let fn := bits w 10 0
  if fn ≤ 3 then some .plain
  else if fn ≤ 7 ∧ bits w 15 11 = 0 then some .plain
  else if fn = 8 ∧ bits w 25 21 = 0 then some .plain
  else none

/-- A format, opcodes 0x20 to 0x22. -/
def acc (op w : Nat) : Option Cls :=
  let fn := bits w 8 0
  let a := bits w 10 9
  if op = 0x20 then
    if (fn ≤ 1 ∧ a = 0) ∨ fn = 2 then some .mul
    else if (fn = 0x10 ∨ fn = 0x11) ∧ bits w 20 11 = 0 then some .readM
    else none
  else if op = 0x21 then (if fn ≤ 4 then some (.mac a) else none)
  else if fn ≤ 1 then some (.writeAcc a)
  else if fn ≤ 4 ∨ (0x40 ≤ fn ∧ fn ≤ 0x68) then some (.readAcc a)
  else none

/-- XS format. -/
def secretFn (w : Nat) : Option Cls :=
  let fn := bits w 13 0
  if fn ≤ 0xA ∨ (0x40 ≤ fn ∧ fn ≤ 0x5F) then some .secret else none

/-- XW format. -/
def extract (w : Nat) : Option Cls :=
  let sub := bits w 12 10
  if sub ≤ 3 then some .secret
  else if sub = 4 ∧ spofsDefined (bits w 9 0) then some .secret
  else none

/-- The class of a word under R161 to R163; none for an undefined word. -/
def classify (w : Nat) : Option Cls :=
  let op := bits w 31 26
  if op = 0x01 then alu w
  else if op = 0x02 then dec w
  else if op = 0x07 then (if bits w 20 16 = 0 then some .plain else none)
  else if op = 0x08 then (if bits w 13 5 = 0 then some .plain else none)
  else if 0x03 ≤ op ∧ op ≤ 0x12 then some .plain
  else if 0x13 ≤ op ∧ op ≤ 0x18 then some (.branch (sx 16 (bits w 15 0)))
  else if op = 0x19 then some (.jump (sx 26 (bits w 25 0)))
  else if op = 0x1A then some (.call (sx 26 (bits w 25 0)))
  else if op = 0x1B then (if bits w 25 0 = 0 then some .ret else none)
  else if op = 0x1C then some (.loop (bits w 25 16 + 1))
  else if op = 0x1D then some (.loop (bits w 20 11 + 1))
  else if op = 0x1E then (if bits w 20 16 = 0 then some (.port .inp (bits w 15 0)) else none)
  else if op = 0x1F then (if bits w 20 16 = 0 then some (.port .out (bits w 15 0)) else none)
  else if 0x20 ≤ op ∧ op ≤ 0x22 then acc op w
  else if op = 0x28 then secretFn w
  else if op = 0x29 then (if bits w 14 0 = 0 then some .secret else none)
  else if op = 0x2A then extract w
  else if op = 0x2B then (if bits w 17 8 = 0 then some .secret else none)
  else if op = 0x2C then (if bits w 21 16 = 0 then some (.port .sin (bits w 15 0)) else none)
  else if op = 0x2D then (if bits w 19 16 = 0 then some (.port .sout (bits w 15 0)) else none)
  else if op = 0x30 then (if 1 ≤ bits w 10 0 ∧ bits w 10 0 ≤ 3 then some .sys else none)
  else if op = 0x3E then (if bits w 25 0 = 0 then some .plain else none)
  else none

/-- Directions a block-engine window offset takes (R180, R187). -/
def beDirs (o : Nat) : List Dir :=
  if o = 0 ∨ o = 1 ∨ o = 3 ∨ o = 0xC then [.sout]
  else if o = 2 ∨ o = 6 ∨ o = 0xD then [.out]
  else if o = 4 then [.sin]
  else if o = 5 ∨ o = 0xE ∨ o = 0xF then [.inp]
  else []

/-- Directions a BNE window offset takes (R196). -/
def bnDirs (o : Nat) : List Dir :=
  if [0, 4, 8, 0xA, 0xD].contains o then [.inp]
  else if [1, 2, 3, 5, 6, 7, 9, 0xC].contains o then [.out]
  else if o = 0xB then [.sout]
  else []

/-- Directions a TU port takes (R142, R145, R173, R233, R382). -/
def portDirs (p : Nat) : List Dir :=
  if p ≤ 3 ∨ (8 ≤ p ∧ p ≤ 0xF) then [.inp]
  else if (0x10 ≤ p ∧ p ≤ 0x13) ∨ p = 0x1F then [.out]
  else if p = 0x40 ∨ p = 0x42 ∨ p = 0x80 ∨ p = 0x83 then [.out]
  else if p = 0x41 ∨ p = 0x81 ∨ p = 0x82 ∨ p = 0x94 then [.inp]
  else if p = 0x43 then [.out, .sout]
  else if 0x88 ≤ p ∧ p ≤ 0x8B then [.sout]
  else if p = 0x8C then [.sin]
  else if 0x90 ≤ p ∧ p ≤ 0x93 then [.out]
  else if 0x100 ≤ p ∧ p ≤ 0x13F then beDirs (p % 16)
  else if p = 0x200 ∨ p = 0x202 ∨ p = 0x210 ∨ p = 0x214 ∨ p = 0x218 then [.out]
  else if p = 0x201 ∨ p = 0x211 ∨ p = 0x215 then [.inp]
  else if 0x300 ≤ p ∧ p ≤ 0x35F then bnDirs (p % 16)
  else if (0x400 ≤ p ∧ p ≤ 0x403) ∨ (0x500 ≤ p ∧ p ≤ 0x502) then [.inp]
  else if p = 0x600 ∨ (0x700 ≤ p ∧ p ≤ 0x703) then [.out]
  else if p = 0x601 ∨ p = 0x801 then [.inp]
  else if p = 0x800 then [.inp, .out]
  else []

/-- Directions a port of a warden or of the scarecrow takes (R167, R174, R175). -/
def sysPortDirs (scarecrow : Bool) (p : Nat) : List Dir :=
  if p = 0x800 ∨ p = 0x8010 ∨ p = 0x8011 ∨ p = 0x8013 ∨ p = 0x8014 ∨ p = 0x8015 then [.inp, .out]
  else if p = 0x8012 then [.inp]
  else if 0x8000 ≤ p ∧ p ≤ 0x800F ∧ !scarecrow then [.inp, .out]
  else []

/-! ### The schedule check (R176) -/

/-- Target of a branch, jump or call at index i. -/
def target (i : Nat) : Option Cls → Option Int
  | some (.branch o) => some (i + o)
  | some (.jump o) => some (i + o)
  | some (.call o) => some (i + o)
  | _ => none

/-- A control transfer. -/
def transfers : Option Cls → Bool
  | some (.branch _) => true
  | some (.jump _) => true
  | some (.call _) => true
  | some .ret => true
  | _ => false

def isLoop : Option Cls → Bool
  | some (.loop _) => true
  | _ => false

/-- Length of the window that a writer opens. -/
def windowLen : Option Cls → Nat
  | some .mul => 2
  | some (.mac _) => 3
  | _ => 0

/-- Rule 4: x breaks the window of a writer. -/
def readsWindow : Option Cls → Option Cls → Bool
  | some .mul, some .readM => true
  | some (.mac a), some (.readAcc b) => a == b
  | some (.mac a), some (.writeAcc b) => a == b
  | _, _ => false

/-- Indices of a code with their classes. -/
abbrev Code := List (Nat × Option Cls)

def code (words : List Nat) : Code := (List.range words.length).zip (words.map classify)

/-- Last instructions of loop bodies. -/
def bodyEnds (c : Code) : List Nat :=
  c.filterMap (fun x => match x.2 with | some (.loop n) => some (x.1 + n) | _ => none)

/-- Branch, jump and call targets. -/
def targets (c : Code) : List Int := c.filterMap (fun x => target x.1 x.2)

/-- Rules 1 to 3 for one instruction. -/
def badWord (len : Nat) (i : Nat) (x : Option Cls) : Bool :=
  match x with
  | none => true
  | some .sys => true
  | some (.port d p) => !(portDirs p).contains d
  | _ =>
    match target i x with
    | some t => decide (t < 0) || decide ((len : Int) ≤ t)
    | none => false

/-- Rules 4 and 5: offending indices of the windows that open in a code. `marks` are body ends and targets. -/
def badWindows (len : Nat) (marks : List Int) : Code → List Nat
  | [] => []
  | (i, x) :: r =>
    let n := windowLen x
    let win := r.take n
    let bad (y : Nat × Option Cls) : Bool :=
      readsWindow x y.2 || transfers y.2 || isLoop y.2 || marks.contains (y.1 : Int)
    (if len < i + 1 + n then [i] else []) ++ (win.filter bad).map (·.1) ++ badWindows len marks r

/-- The least index of a list. -/
def least : List Nat → Option Nat
  | [] => none
  | a :: r => some (r.foldl min a)

/-- First instruction that breaks the schedule check; `entries` are the function table's word offsets. -/
def scheduleBreak (words entries : List Nat) : Option Nat :=
  let c := code words
  let n := words.length
  let marks := (bodyEnds c).map (fun (e : Nat) => (e : Int)) ++ targets c ++ entries.map (fun (e : Nat) => (e : Int))
  least ((c.filter (fun x => badWord n x.1 x.2)).map (·.1) ++ badWindows n marks c)

/-! ### The bounded-loop check (R177) -/

/-- Loop bodies as first and last index. -/
def bodies (c : Code) : List (Nat × Nat) :=
  c.filterMap (fun x => match x.2 with | some (.loop n) => some (x.1 + 1, x.1 + n) | _ => none)

def within (b : Nat × Nat) (i : Nat) : Bool := decide (b.1 ≤ i ∧ i ≤ b.2)

/-- Loop levels active at an instruction. -/
def depthAt (bs : List (Nat × Nat)) (i : Nat) : Nat := (bs.filter (fun b => within b i)).length

/-- Levels that a call keeps: bodies that hold both ends. -/
def common (bs : List (Nat × Nat)) (i j : Nat) : Nat := (bs.filter (fun b => within b i && within b j)).length

/-- Most loop levels and most call levels on any path from each index, from the last index back: every transfer leads
forward (rule 1). The list holds the pairs of the indices from i on. -/
def reach (bs : List (Nat × Nat)) : Code → List (Nat × Nat)
  | [] => []
  | (i, x) :: r =>
    let later := reach bs r
    let at_ (t : Int) : Nat × Nat := if (i : Int) < t then later.getD (t - i - 1).toNat (0, 0) else (0, 0)
    let next := later.headD (0, 0)
    let d := depthAt bs i
    let join (a b : Nat × Nat) : Nat × Nat := (max a.1 b.1, max a.2 b.2)
    let mine : Nat × Nat :=
      match x with
      | some (.branch o) => join (d, 0) (join next (at_ (i + o)))
      | some (.jump o) => join (d, 0) (at_ (i + o))
      | some .ret => (d, 0)
      | some (.call o) =>
        let t := at_ (i + o)
        join (d + t.1 - common bs i (i + o).toNat, 1 + t.2) next
      | _ => join (d, 0) next
    mine :: later

/-- Rules 1 and 2 for a transfer, and the level bound at it (rule 3). -/
def badTransfer (bs : List (Nat × Nat)) (i : Nat) (x : Option Cls) : Bool :=
  match target i x with
  | some t =>
    decide (t < (i : Int) + 1) || bs.any (fun b => within b t.toNat && !within b i)
  | none => false

/-- Rule 3 for a loop: its body lies in the code, nests in every body that holds the loop, ends in no transfer or loop, and
goes no deeper than 4 levels. -/
def badLoop (words : List Nat) (bs : List (Nat × Nat)) (i : Nat) (x : Option Cls) : Bool :=
  match x with
  | some (.loop n) =>
    let e := i + n
    let last := classify (words.getD e 0)
    decide (words.length ≤ e) || bs.any (fun b => within b i && decide (b.2 < e)) || transfers last || isLoop last ||
      decide (4 ≤ depthAt bs i)
  | _ => false

/-- First instruction that breaks the bounded-loop check. A chain of calls that is too deep is reported at the call that adds the
fifth loop level or at the entry that starts the chain. -/
def loopBreak (words entries : List Nat) : Option Nat :=
  let c := code words
  let bs := bodies c
  let rs := reach bs c
  let deepCall (x : Nat × Option Cls) : Bool :=
    match x.2 with
    | some (.call o) => decide (4 < depthAt bs x.1 + (rs.getD (x.1 + o).toNat (0, 0)).1 - common bs x.1 (x.1 + o).toNat)
    | _ => false
  least ((c.filter (fun x => badTransfer bs x.1 x.2 || badLoop words bs x.1 x.2 || deepCall x)).map (·.1) ++
    entries.filter (fun e => decide (16 < (rs.getD e (0, 0)).2)))

end Kx

/-! ### Bank images (R155, R156) -/

namespace BankImage

def size (b : Bytes) : Nat := fieldLe b 16 4
def fnCount (b : Bytes) : Nat := fieldLe b 20 2
def entryBytes (b : Bytes) (k : Nat) : Bytes := slice b (64 + 16 * k) 16
def codeBytes (b : Bytes) : Bytes := slice b (64 + 16 * fnCount b) (size b)
def words (b : Bytes) : List Nat := (chunks 4 (codeBytes b)).map ofLe

/-- Function-table entry of 16 bytes. -/
def fnOf (x : Bytes) : BankFn where
  fn := BitVec.ofNat 16 (fieldLe x 0 2)
  group := fieldLe x 2 1
  uses := BitVec.ofNat 3 (fieldLe x 3 1)
  entry := fieldLe x 4 4
  wdog := fieldLe x 8 2

def fns (b : Bytes) : List BankFn := (List.range (fnCount b)).map (fun k => fnOf (entryBytes b k))

/-- A table entry is within R155. -/
def fnOk (size : Nat) (x : Bytes) : Bool :=
  let f := fnOf x
  decide (1 ≤ f.group ∧ f.group ≤ 4) && decide (fieldLe x 3 1 < 8) && f.entry % 4 == 0 && decide (f.entry < size) &&
    (f.wdog == 0 || decide (10 ≤ f.wdog ∧ f.wdog ≤ 1600)) && allZero (slice x 10 6)

/-- Check 0x01: magic, format and reserved bytes. -/
def formOk (b : Bytes) : Bool :=
  b.take 4 == ascii "KNBK" && fieldLe b 4 2 == 1 && decide (fieldLe b 7 1 < 2) && allZero (slice b 9 3) &&
    allZero (slice b 22 10)

/-- Check 0x02: sizes and counts; the measurement slot is judged with them. -/
def sizesOk (b : Bytes) : Bool :=
  size b % 4 == 0 && decide (4 ≤ size b ∧ size b ≤ 65536) && decide (1 ≤ fnCount b ∧ fnCount b ≤ 64) &&
    decide (fieldLe b 6 1 < 4) && b.length == 64 + 16 * fnCount b + size b + 96

/-- Entry offsets in words. -/
def entries (b : Bytes) : List Nat := (fns b).map (fun f => f.entry / 4)

def waived (b : Bytes) : Bool := bit (fieldLe b 7 1) 0

/-- A function code of the bank is already served by an accepted bank. -/
def served (s : State) (b : Bytes) : Bool :=
  s.ldr.banks.any (fun x => x.2.ok && x.2.fns.any (fun f => (fns b).any (fun g => g.fn == f.fn)))

/-- First failing check of R156 and the word offset it reports; (0, 0) when the bank is accepted. -/
def judge (s : State) (b : Bytes) : Nat × Nat :=
  let root := imageRoot s (fieldLe b 8 1)
  let trial := lcCode s == lcTest || lcCode s == lcAnalysis
  if !formOk b then (1, 0)
  else if !sizesOk b then (2, 0)
  else if root.isNone then (3, 0)
  else if !signedBy root b then (4, 0)
  else if fieldLe b 12 4 < s.lc.otp.revMicro then (5, 0)
  else if !((List.range (fnCount b)).all (fun k => fnOk (size b) (entryBytes b k))) || served s b then (6, 0)
  else if waived b && !trial then (7, 0)
  else
    match Kx.scheduleBreak (words b) (entries b) with
    | some i => (8, i)
    | none =>
      if waived b then (0, 0)
      else
        match Kx.loopBreak (words b) (entries b) with
        | some i => (9, i)
        | none => (0, 0)

/-- The bank as the loader keeps it. -/
def accepted (b : Bytes) : Bank where
  ok := true
  slot := BitVec.ofNat 2 (fieldLe b 6 1)
  secVer := BitVec.ofNat 32 (fieldLe b 12 4)
  digest := digest384 (signedDigest b)
  fns := fns b
  code := codeBytes b

end BankImage

/-- LOADER_CHECK_DONE (R156): bank i of the booted set, during boot; an accepted bank extends MEAS_(2 + slot). -/
def execLoaderCheckDone (i : Fin 64) (s : State) : Host.Outcome State Fault Refusal :=
  done (
    match (bootedBank s).banks[i.val]? with
    | none => s
    | some b =>
      if s.boot.phase ≠ .firmware ∨ 64 ≤ s.ldr.accepted then s
      else
        let (reason, off) := BankImage.judge s b
        if reason ≠ 0 then
          { s with ldr := { s.ldr with busy := false, ok := false, reason := reason, offset := off } }
        else
          let x := BankImage.accepted b
          let s := extendMeas s (2 + x.slot.toNat) (signedDigest b)
          { s with ldr := { s.ldr with
            banks := Map.set {} s.ldr.banks s.ldr.accepted x
            accepted := s.ldr.accepted + 1
            busy := false
            ok := true
            reason := 0
            offset := 0 } })

end Sys2Proof.Machine
end

