-- ==== Sys2Proof/Machine/HamperOps.lean ====
section
/-! DEFINITION. What a hamper carries, and its length (R282, R289). -/

set_option linter.unusedVariables false

namespace Sys2Proof.Machine

open Sys2Proof Sys2Proof.Bits

/-- Serving slots of a partition: the slots a hamper can carry. -/
def partSlots (s : State) (p : Nat) : List Nat :=
  Map.keysWhere (fun _ x => x.live && x.owner == 3 && x.part == p && x.serve != 0 && !x.damaged) s.grn.slots

/-- All records of a partition's live keys, first and continuation records, by record index. -/
def partRecords (s : State) (p : Nat) : List Nat :=
  (liveRecords s p).flatMap (fun r => (List.range (max 1 (byteAt r.2 7).toNat)).map (fun k => r.1 + k))

/-- Buckets of a partition. -/
def partBuckets (s : State) (p : Nat) : List Nat := Map.keysWhere (fun _ b => b.on && b.part == p) s.grn.buckets

/-- Slots of a partition with a use counter. -/
def partCtrs (s : State) (p : Nat) : List Nat := (partSlots s p).filter (fun i => (s.slotAt i).ctr != 0xFFFF)

/-- Partition officers enrolled. -/
def partOfficers (s : State) (p : Nat) : List Nat :=
  (List.range 8).filter (fun i => (Map.get {} s.ofc.part (8 * p + i)).on)

/-- Entry sizes and counts of the nine sections, in type order (R282). -/
def hamperSizes (s : State) (p : Nat) : List (Nat × Nat) :=
  [(64, 1), (64, (partOfficers s p).length), (320, 1), (160, (partSlots s p).length), (136, (partRecords s p).length),
    (32, (partBuckets s p).length), (16, (partCtrs s p).length), (8, (s.part p).flowLimit), (32, 128)]

/-- DER certificate chain of the trailer. -/
def hamperChain (s : State) : Bytes := s.lc.cert.getD [] ++ s.boot.aliasCert.getD []

/-- Length of the hamper that a seal would write now. -/
def hamperLen (s : State) (p : Nat) : Nat :=
  256 + ((hamperSizes s p).map (fun x => 32 + x.1 * x.2)).sum + 2 + (hamperChain s).length + 96

/-- PART_HAMPER_SIZE_p (R289). -/
def hamperSize (s : State) (p : Nat) : Nat :=
  let x := s.part p
  if x.state = .frozen ∧ !x.emigrated ∧ inFlight s (p + 1) = 0 then hamperLen s p else 0

end Sys2Proof.Machine
end

