-- ==== Sys2Proof/Machine/RegMap.lean ====
section
/-! DEFINITION. Where a register access goes (20_register_map.md): block pages with their common header, gate pages, the window pages
of PF BAR0 and VF BAR0, the MSI-X tables, and the memory regions of the warden system space. -/

set_option linter.unusedVariables false

namespace Sys2Proof.Machine

open Sys2Proof Sys2Proof.Bits

/-- The block of a block page (R420, R421); arrays by package number. -/
inductive Blk where
  | hif | sch | rel | ldr | yoke | grn | win | scr | tal | lc | boot | pwr | clk | gln | pol | ksr | mrm
  | slk (i : Nat)
  | hbm (d : Nat)
  | dsc (d : Nat)
  | fslk (d i : Nat)
  | barn (b : Nat)
  | stook (k : Nat)
  | bne (n : Nat)
  | bae (b : Nat)
deriving DecidableEq, Repr

namespace Blk

/-- Keep block page n. -/
def keep (n : Nat) : Option Blk :=
  if n < 4 then some .hif
  else [sch, rel, ldr, yoke, grn, win, scr, tal, lc, boot, pwr, clk, gln, pol, ksr, mrm, slk 0, slk 1][n - 4]?

/-- Field block page n of die d. -/
def field (d n : Nat) : Option Blk :=
  let e := d - 1
  if n = 1 then some (.hbm d)
  else if n = 2 then some (.dsc d)
  else if n = 3 then some (.fslk d 2)
  else if n = 4 then some (.fslk d 3)
  else if 0x10 ≤ n ∧ n < 0x14 then some (.barn (4 * e + (n - 0x10)))
  else if 0x20 ≤ n ∧ n < 0x30 then some (.stook (16 * e + (n - 0x20)))
  else if 0x40 ≤ n ∧ n < 0x58 then some (.bne (24 * e + (n - 0x40)))
  else if 0x60 ≤ n ∧ n < 0x64 then some (.bae (4 * e + (n - 0x60)))
  else none

/-- System address of a block's page. -/
def page : Blk → Nat
  | hif => hifPage | sch => schPage | rel => relPage | ldr => ldrPage | yoke => yokePage | grn => grnPage
  | win => winPage | scr => scrPage | tal => talPage | lc => lcPage | boot => bootPage | pwr => pwrPage
  | clk => clkPage | gln => glnPage | pol => polPage | ksr => keepPage 0x12 | mrm => keepPage 0x13
  | slk i => keepPage (0x14 + i)
  | hbm d => hbmPage d
  | dsc d => fieldPage d 2
  | fslk d i => fieldPage d (i + 1)
  | barn b => barnPage b
  | stook k => stookPage k
  | bne n => bnePage n
  | bae b => baePage b

/-- Die code, die-local instance, type code, block_rev (R420, R421). -/
def info : Blk → Nat × Nat × Nat × Nat
  | hif => (0, 0, 0x01, 1) | sch => (0, 0, 0x02, 1) | rel => (0, 0, 0x03, 1) | ldr => (0, 0, 0x04, 1)
  | yoke => (0, 0, 0x05, 1) | grn => (0, 0, 0x06, 1) | win => (0, 0, 0x07, 1) | scr => (0, 0, 0x08, 1)
  | tal => (0, 0, 0x09, 1) | lc => (0, 0, 0x0A, 1) | boot => (0, 0, 0x0B, 1) | pwr => (0, 0, 0x0C, 1)
  | clk => (0, 0, 0x0D, 1) | gln => (0, 0, 0x0E, 1) | pol => (0, 0, 0x0F, 1) | ksr => (0, 0, 0x10, 1)
  | mrm => (0, 0, 0x11, 1)
  | slk i => (0, i, 0x12, 1)
  | hbm d => (d, 0, 0x20, 1)
  | dsc d => (d, 0, 0x21, 1)
  | fslk d i => (d, i, 0x12, 1)
  | barn b => (b / 4 + 1, b % 4, 0x22, 2)
  | stook k => (k / 16 + 1, k % 16, 0x23, 2)
  | bne n => (n / 24 + 1, n % 24, 0x24, 3)
  | bae b => (b / 4 + 1, b % 4, 0x25, 1)

/-- Offsets of the event-counter words at 0x040 to 0x07F. -/
def events : Blk → List Nat
  | grn | ksr | mrm | rel | scr | gln | dsc _ | barn _ | stook _ | bne _ => [0x078]
  | hbm _ => [0x040, 0x044, 0x078]
  | _ => []

/-- Offsets of the performance counters at 0x040 to 0x07F. -/
def perfs : Blk → List Nat
  | win => [0x040, 0x048]
  | barn _ => [0x040, 0x048, 0x050, 0x058]
  | hbm _ => [0x050, 0x058, 0x060]
  | bne _ | bae _ => [0x040, 0x048, 0x050]
  | _ => []

/-- Block-specific INT_RAW bits that a chapter names. -/
def intBits : Blk → Nat
  | win => 4
  | scr => 4
  | tal => 5
  | _ => 0

/-- Words at 0x080 and above whose bit 31 is a W1C saturation bit held in the stored word. -/
def sats : Blk → List Nat
  | sch => [0x088]
  | barn _ => [0x088]
  | stook _ => [0x0A4]
  | bae _ => [0x090]
  | bne _ => [0x084]
  | yoke => [0x084, 0x088]
  | hbm _ => [0x094, 0x0F0] ++ (List.range 16).map (fun k => 0x0A0 + 4 * k)
  | _ => []

end Blk

/-- What an access reaches. -/
inductive Place where
  /-- a block page -/
  | blk (b : Blk) (off : Nat)
  /-- a gate page -/
  | gate (page off : Nat)
  /-- the device-information page -/
  | dev (off : Nat)
  /-- doorbells and ring configuration of a function -/
  | ring (f off : Nat)
  /-- partition information, status and time of a VF -/
  | vf (p off : Nat)
  /-- the control page of a partition -/
  | part (p off : Nat)
  /-- a tally window -/
  | tally (f off : Nat)
  /-- the boot-record window -/
  | record (off : Nat)
  | time (off : Nat)
  /-- the officer mailbox -/
  | officer (off : Nat)
  /-- the MSI-X table and PBA of a function -/
  | msix (f off : Nat)
  /-- memory of the warden system space -/
  | mem (a : Nat)
  /-- an offset inside a page that defines nothing there -/
  | hole
  /-- an address outside every region -/
  | unmapped
deriving DecidableEq, Repr

/-- PF BAR0 offset x (R30, R425). -/
def placePf (x : Nat) : Place :=
  if x < 0x10000 then .dev x
  else if x < 0x14000 then
    let o := x - 0x10000
    if (0x100 ≤ o ∧ o < 0x140) ∨ (0x200 ≤ o ∧ o < 0x240) ∨ (0x1000 ≤ o ∧ o < 0x1200) ∨ (0x1800 ≤ o ∧ o < 0x1A00)
    then .ring 0 o else .hole
  else if 0x18000 ≤ x ∧ x < 0x1C000 then .blk .hif (x - 0x18000)
  else if 0x100000 ≤ x ∧ x < 0x900000 then .part ((x - 0x100000) / 0x1000) (x % 0x1000)
  else if 0x1000000 ≤ x ∧ x < 0x1001000 then .tally 0 (x - 0x1000000)
  else if 0x1800000 ≤ x ∧ x < 0x1900000 then .record (x - 0x1800000)
  else if 0x2000000 ≤ x ∧ x < 0x2001000 then .time (x - 0x2000000)
  else if 0x2010000 ≤ x ∧ x < 0x2020000 then .officer (x - 0x2010000)
  else .hole

/-- VF BAR0 offset x of partition p (R29). -/
def placeVf (p x : Nat) : Place :=
  if x < 0x100 then .vf p x
  else if x < 0x300 ∨ (0x1000 ≤ x ∧ x < 0x2000) then .ring (p + 1) x
  else if 0x2000 ≤ x ∧ x < 0x3000 then .tally (p + 1) (x - 0x2000)
  else if 0x3000 ≤ x ∧ x < 0x4000 then .vf p x
  else .hole

/-- Offset x of the window of Field die d (R424). -/
def placeField (d x a : Nat) : Place :=
  if x < 0x100000 then
    match Blk.field d (x / 0x1000) with
    | some b => .blk b (x % 0x1000)
    | none => .hole
  else if x < 0x300000 then .gate (a - a % 0x1000) (x % 0x1000)
  else if 0x1000000 ≤ x ∧ x < 0xC000000 then .mem a
  else .unmapped

/-- A warden system address (R422). -/
def placeSys (a : Nat) : Place :=
  if inRange a 0x30000000 0x300FFFFF then
    let n := (a - 0x30000000) / 0x1000
    match Blk.keep n with
    | some .hif => .blk .hif (a - 0x30000000)
    | some b => .blk b (a % 0x1000)
    | none => .hole
  else if inRange a 0x30100000 0x302FFFFF then .gate (a - a % 0x1000) (a % 0x1000)
  else if inRange a 0x34000000 0x37FFFFFF then placePf (a - 0x34000000)
  else if inHbm a 1 || inHbm a 2 then .mem a
  else
    match fieldOf a with
    | some (d, x) => placeField d x a
    | none =>
      if inRange a 0 0x1FFFF || inRange a 0x08000000 0x0807FFFF || inRange a 0x08100000 0x0817FFFF ||
        inRange a 0x0A000000 0x0A00FFFF || inRange a 0x0A010000 0x0A013FFF || inRange a 0x0A020000 0x0A02FFFF ||
        inRange a 0x0C000000 0x0C43FFFF || inRange a 0x10000000 0x107FFFFF || inRange a 0x20000000 0x20FFFFFF
      then .mem a
      else .unmapped

/-- Where a register row's target lies. -/
def placeOf : RegTarget → Place
  | .pfBar0 o => placePf o.toNat
  | .pfBar2 o => .msix 0 o.toNat
  | .vfBar0 p o => placeVf p o.toNat
  | .vfBar2 p o => .msix (p + 1) o.toNat
  | .sys _ a => placeSys a.toNat

/-! ### Memory of the system space -/

/-- What a byte of memory holds: a stated value, content whose layout the spec does not state, or nothing. -/
inductive MemByte where
  | val (b : Byte)
  | unstated
deriving DecidableEq, Repr

/-- The 512 bytes of an MRAM slot (R219). -/
def slotBytes (x : Slot) : Bytes :=
  let copy (c : SlotCopy) : Bytes :=
    copyHead c ++ le 8 c.mac.toNat ++ le 80 c.shareA.toNat ++ le 80 c.shareB.toNat
  slotHead x ++ le 8 x.hmac.toNat ++ copy x.copy0 ++ zeros 8 ++ copy x.copy1 ++ zeros 72

/-- The 16 bytes of a sensor-history record. -/
def histBytes (s : State) (i : Nat) : Bytes := le 16 (Map.get 0 s.scr.hist i).toNat

/-- A byte of MRAM by offset (R423): slots, the log, the boot-record ring and the scarecrow configuration have a stated layout. -/
def mramByte (s : State) (o : Nat) : MemByte :=
  if o < 0x200000 then .val (byteAt (slotBytes (s.slotAt (o / 512))) (o % 512))
  else if 0x600000 ≤ o ∧ o < 0xE00000 then
    match s.tal.log[(o - 0x600000) / 64]? with
    | some x => .val (byteAt (Tal.shown s x) (o % 64))
    | none => .unstated
  else if 0xE00000 ≤ o ∧ o < 0xF00000 then
    .val (byteAt (recordShown s ((o - 0xE00000) / 4096)) (o % 4096))
  else if 0xF16000 ≤ o ∧ o < 0xF160C0 then
    match s.scr.cfg with
    | some b => .val (byteAt b (o - 0xF16000))
    | none => .unstated
  else if 0xF17000 ≤ o then .val 0
  else .unstated

/-- A byte of a Field window above its pages (R424). -/
def fieldByte (s : State) (d x : Nat) : MemByte :=
  if 0x4000000 ≤ x ∧ x < 0x4400000 then
    let y := x - 0x4000000
    .val (byteAt (s.window (16 * (d - 1) + y / 0x40000) (y % 0x40000 / 0x10000)).code (y % 0x10000))
  else if 0x8000000 ≤ x ∧ x < 0x9000000 then
    let y := x - 0x8000000
    .val (Map.get 0 (s.core (1024 * (d - 1) + y / 0x4000)).mem (y % 0x4000))
  else if 0xA000000 ≤ x ∧ x < 0xA180000 then
    let y := x - 0xA000000
    let w := Map.get 0 (s.bne (24 * (d - 1) + y / 0x10000)).mem (y % 0x10000 / 8)
    .val (byteAt (le 8 w.toNat) (y % 8))
  else .unstated

/-- A byte of memory at a system address outside HBM. -/
def memByte (s : State) (a : Nat) : MemByte :=
  if inRange a 0x08000000 0x0807FFFF then .val (Map.get 0 (s.core 2048).mem (a - 0x08000000))
  else if inRange a 0x08100000 0x0817FFFF then .val (Map.get 0 (s.core 2049).mem (a - 0x08100000))
  else if inRange a 0x0A000000 0x0A00FFFF then
    let img := (bootedBank s).image 0
    .val (byteAt (slice img 64 (imgCode img)) (a - 0x0A000000))
  else if inRange a 0x0A010000 0x0A013FFF then .val (Map.get 0 (s.core 2050).mem (a - 0x0A010000))
  else if inRange a 0x0A020000 0x0A02FFFF then .val (byteAt (histBytes s ((a - 0x0A020000) / 16)) (a % 16))
  else if inRange a 0x10000000 0x101FFFFF || inRange a 0x10510000 0x107FFFFF then .val (Map.get 0 s.sram (a - 0x10000000))
  else if inRange a 0x20000000 0x20FFFFFF then mramByte s (a - 0x20000000)
  else
    match fieldOf a with
    | some (d, x) => fieldByte s d x
    | none => .unstated

/-- Write one byte of memory outside HBM: the local data spaces, the sensor-history ring, the stored scarecrow configuration, Keep SRAM, code
RAM, TU data spaces and BNE operand memory take it; structured contents, which the TK4820 itself writes, keep their value (log 53). -/
def memPut (s : State) (a : Nat) (v : Byte) : State :=
  let put (c o : Nat) : State := s.modCore c (fun x => { x with mem := Map.set 0 x.mem o v })
  if inRange a 0x08000000 0x0807FFFF then put 2048 (a - 0x08000000)
  else if inRange a 0x08100000 0x0817FFFF then put 2049 (a - 0x08100000)
  else if inRange a 0x0A010000 0x0A013FFF then put 2050 (a - 0x0A010000)
  else if inRange a 0x0A020000 0x0A02FFFF then
    let i := (a - 0x0A020000) / 16
    { s with scr := { s.scr with hist := Map.set 0 s.scr.hist i (block ((histBytes s i).set (a % 16) v)) } }
  else if inRange a 0x20F16000 0x20F160BF then
    { s with scr := { s.scr with cfg := some (((s.scr.cfg).getD (zeros 192)).set (a - 0x20F16000) v) } }
  else if inRange a 0x10000000 0x101FFFFF || inRange a 0x10510000 0x107FFFFF then
    { s with sram := Map.set 0 s.sram (a - 0x10000000) v }
  else
    match fieldOf a with
    | some (d, x) =>
      if 0x4000000 ≤ x ∧ x < 0x4400000 then
        let y := x - 0x4000000
        let k := 16 * (d - 1) + y / 0x40000
        let n := y % 0x40000 / 0x10000
        let w := s.window k n
        s.setWindow k n { w with code := (fit (max w.code.length (y % 0x10000 + 1)) w.code).set (y % 0x10000) v }
      else if 0x8000000 ≤ x ∧ x < 0x9000000 then
        let y := x - 0x8000000
        put (1024 * (d - 1) + y / 0x4000) (y % 0x4000)
      else if 0xA000000 ≤ x ∧ x < 0xA180000 then
        let y := x - 0xA000000
        let n := 24 * (d - 1) + y / 0x10000
        let z := s.bne n
        let k := y % 0x10000 / 8
        let w := setBits (Map.get 0 z.mem k).toNat (8 * (y % 8) + 7) (8 * (y % 8)) v.toNat
        s.setBne n { z with mem := Map.set 0 z.mem k (BitVec.ofNat 64 w) }
      else s
    | none => s

/-- Lines that hold up a read of n bytes at a system address, with their stack (R261). -/
def memUnread (s : State) (a n : Nat) : List (Nat × Nat) :=
  if inHbm a 1 then (Hbm.blockingRange (s.stack 1) (a - hbmBase 1) n).map (fun l => (1, l))
  else if inHbm a 2 then (Hbm.blockingRange (s.stack 2) (a - hbmBase 2) n).map (fun l => (2, l))
  else []

/-- n bytes of memory at a system address, read by a class of number c. A poisoned line of HBM reads all ones (R263); bytes whose layout the spec does not state
read as a free value (log 2). -/
def memRead (s : State) (c a n : Nat) : Bytes × State :=
  if inHbm a 1 || inHbm a 2 then
    let d := if inHbm a 1 then 1 else 2
    let o := a - hbmBase d
    if Hbm.poisoned (s.stack d) o n then (List.replicate n 0xFF, latchHbmErr s d (o / 64) (Hbm.firstBadDie (s.stack d) (o / 64)) c)
    else hbmRead s d o n
  else
    let bs := (List.range n).map (fun i => memByte s (a + i))
    if bs.contains .unstated then
      let (v, s) := s.draw (8 * n)
      (le n v.toNat, s)
    else (bs.map (fun b => match b with | .val v => v | .unstated => 0), s)

/-- Write bytes of memory. -/
def memWrite (s : State) (a : Nat) (bs : Bytes) : State :=
  if inHbm a 1 then hbmWrite s 1 (a - hbmBase 1) bs
  else if inHbm a 2 then hbmWrite s 2 (a - hbmBase 2) bs
  else ((List.range bs.length).zip bs).foldl (fun s x => memPut s (a + x.1) x.2) s

end Sys2Proof.Machine
end

