-- ==== Sys2Proof/Machine/Scarecrow.lean ====
section
/-! DEFINITION. The scarecrow's rows: trips, samples, HOLD, FALLOW wakes, the crystal, the battery (14_scarecrow_tamper.md; R396). -/

set_option linter.unusedVariables false

namespace Sys2Proof.Machine

open Sys2Proof Sys2Proof.Bits

/-- The conditions that active channels meet, lower codes first, each once. -/
def metNow (s : State) (chs : List (Fin 64)) : List (Nat × Int) :=
  ((List.range 64).filter (fun c => chs.any (fun x => x.val == c) && fastActive s c)).map (fun c => (c, 0))

/-- FAST_CHANNEL_TRIP (R311): the active channels that meet their conditions at one moment (R324). -/
def execFastChannelTrip (chs : List (Fin 64)) (s : State) : Host.Outcome State Fault Refusal := done (trip s (metNow s chs))

/-- HOLD_EXPIRY (R315): HOLD ends, and the Keep die boots as after a warm reset. -/
def execHoldExpiry (env : BootEnv) (s : State) : Host.Outcome State Fault Refusal :=
  done (
    if s.scr.hold ∧ s.scr.holdTimer ∧ s.scr.present = 0 then
      let t := { s with scr := { s.scr with hold := false, holdTimer := false } }
      if s.pwr.rails then warmBoot env t else t
    else s)

/-- SCARECROW_SAMPLE (R312): a cycle of the running image. -/
def execScarecrowSample (smp : Sample) (s : State) : Host.Outcome State Fault Refusal :=
  done (
    if s.scrAux.started ∧ s.pwr.rails then
      takeSample (s.modSys 2 (fun y => { y with lines := y.lines ||| 1 })) smp [] true
    else s)

/-- SAMPLE_CYCLE_OVERRUN (R312). -/
def execSampleCycleOverrun (s : State) : Host.Outcome State Fault Refusal :=
  done (if s.scrAux.started ∧ s.pwr.rails then sentinelFault s else s)

/-- The sequencer runs: FALLOW with the battery present (R320, R321). -/
def inFallow (s : State) : Bool := s.scr.battery && !s.pwr.rails && !s.scr.present.getLsbD chanBattery

/-- Fast conditions a wake samples: enabled meshes and the light sensors (R310). -/
def sampledFast (s : State) (smp : Sample) (fast : List (Fin 64)) : List Nat :=
  ((List.range 6).filter (fun c => fast.any (fun x => x.val == c) && chanEnabled s c)) ++
    ((List.range 6).filter (fun n => smp.lights.getLsbD n)).map (fun n => 0x18 + n)

/-- FALLOW_WAKE (R321): sample, apply the limits, re-mask the root, write history. -/
def execFallowWake (smp : Sample) (fast : List (Fin 64)) (s : State) : Host.Outcome State Fault Refusal :=
  done (if inFallow s then remaskRoot (takeSample s smp (sampledFast s smp fast) false) else s)

/-- FALLOW_HEARTBEAT_MISS (R321). -/
def execFallowHeartbeatMiss (s : State) : Host.Outcome State Fault Refusal :=
  done (if inFallow s then sentinelFault s else s)

/-- XTAL_LOST (R310, R399): no tamper; the RTC moves to the low-power oscillator. -/
def execXtalLost (s : State) : Host.Outcome State Fault Refusal :=
  done (
    if !domainPowered s ∨ s.scrAux.xtalStopped then s
    else
      let t := { s with
        scr := { s.scr with xtalLost := true }
        scrAux := { s.scrAux with xtalStopped := true }
        time := { s.time with rtcLp := true } }
      histEvent (if s.pwr.rails then setInt t scrPage 1 else t) 0 evXtal 0)

/-- SCR_TAMPER_RELEASE (R325). -/
def execScrTamperRelease (s : State) : Host.Outcome State Fault Refusal :=
  done (if s.scr.pending then s else { s with scr := { s.scr with tamperN := false, causes := 0 } })

/-- SCR_HIST_DATA_READ (R325). -/
def execScrHistDataRead (s : State) : Host.Outcome State Fault Refusal :=
  done { s with scr := { s.scr with histRead := (s.scr.histRead + 1) % 4096 } }

/-- TRIP_CONDITION_CLEAR (R315): a condition of a fast channel, or of a filtered one, is no longer present. -/
def execTripConditionClear (ch : Fin 64) (s : State) : Host.Outcome State Fault Refusal :=
  let s1 := clearCondition s ch
  done (
    if ch.val = chanBattery ∧ s.scr.present.getLsbD chanBattery then { s1 with scr := { s1.scr with battery := true } } else s1)

/-- BATTERY_ATTACH (R396): the battery domain is first powered: a full slew budget, factory limits, the first sample. -/
def execBatteryAttach (smp : Sample) (s : State) : Host.Outcome State Fault Refusal :=
  done (
    if !s.pwr.rails ∧ (!s.scr.battery ∨ s.scr.present.getLsbD chanBattery) then
      let t := loseDomain s
      let t := { t with
        scr := { t.scr with battery := true }
        time := { t.time with budget := 500000000 }
        pwr := { t.pwr with fallow := true } }
      let t := filteredCodes.foldl (fun t c => t.setChan c (factoryChan c (t.chan c))) t
      takeSample t smp [] false
    else s)

end Sys2Proof.Machine
end

