-- ==== Sys2Proof/Machine/Time.lean ====
section
/-! DEFINITION. The time family: host time sets, PPS, the RTC comparison and sync, reads of the time registers, and the
reference period that passes while no command waits (R392 to R401, R413, R414). -/

set_option linter.unusedVariables false

namespace Sys2Proof.Machine

open Sys2Proof Sys2Proof.Bits

/-- What an empty queue does: one 40 ns reference period passes, in which each noise source gives one raw bit (R240); nothing fixes the bits
(log 4). -/
def idleTick (s : State) : State :=
  let s := passPeriods s 1
  if keepRuns s then
    let (v, s) := s.draw 8
    takeInstant s v
  else s

/-- TIME_CMD.invalidate of the same write acts first (R394). -/
def invalidateFirst (s : State) (inv : Bool) : State := if inv then setTimeInvalid s else s

/-- TIME_CMD.go: a set judged at the write's arrival; it replaces a set that waits for an edge. -/
def execTimeCmdGo (inv : Bool) (s : State) : Host.Outcome State Fault Refusal :=
  if !keepRuns s then done s
  else
    let s := invalidateFirst s inv
    let s := { s with time := { s.time with atPps := false } }
    done (judgeSet s s.time.target.toNat).2

/-- TIME_CMD.at_pps: the set waits for the next accepted PPS edge. -/
def execTimeCmdAtPps (inv : Bool) (s : State) : Host.Outcome State Fault Refusal :=
  if !keepRuns s then done s
  else
    let s := invalidateFirst s inv
    done { s with time := { s.time with atPps := true } }

/-- TIME_CMD.invalidate (R393). -/
def execTimeCmdInvalidate (s : State) : Host.Outcome State Fault Refusal :=
  if !keepRuns s then done s else done (setTimeInvalid s)

/-- No edge was accepted within 1.5 s of an at_pps set: reason 0b110 (R394). -/
def execAtPpsTimeout (s : State) : Host.Outcome State Fault Refusal :=
  if keepRuns s && s.time.atPps then done (refuseSet { s with time := { s.time with atPps := false } } 6)
  else done s

/-- TIME_PPS.rejected counts up to its all-ones value, where sat sets (R411, R414). -/
def rejectPps (s : State) : State :=
  let n := s.time.ppsRej + 1
  { s with time := { s.time with ppsRej := min n 32767, ppsSat := s.time.ppsSat || decide (32767 ≤ n) } }

/-- e: NTIME mod 10^9, folded into -5 x 10^8 to 5 x 10^8 - 1 (R397). -/
def ppsPhase (ntime : Nat) : Int :=
  let m : Int := (ntime % second : Nat)
  if m < 500000000 then m else m - (second : Nat)

/-- An edge is accepted when it is the first since enable, or falls 1 s within 100 us of the last accepted one (R397). -/
def ppsAccepts (t : Time) : Bool :=
  match t.ppsLast with
  | none => true
  | some l => decide (((t.ntime : Int) - (l : Int) - (second : Nat)).natAbs ≤ 100000)

/-- The correction that an accepted edge judges: a failed one is counted in rejected, and sets no refused (R397). -/
def ppsCorrect (s : State) (e : Int) : State :=
  if s.time.valid ∧ e.natAbs ≤ 100000 then
    let target := (s.time.ntime : Int) - e
    if setReason s.time target = 0 then acceptSet s target else rejectPps s
  else s

/-- The lock: set by 4 consecutive accepted edges within 100 us, cleared by one beyond (R397). -/
def ppsLock (t : Time) (e : Int) : Time :=
  if e.natAbs ≤ 100000 then
    { t with ppsGood := min 4 (t.ppsGood + 1), ppsLocked := t.ppsLocked || decide (4 ≤ t.ppsGood + 1) }
  else { t with ppsGood := 0, ppsLocked := false }

/-- A rising edge of PPS_IN: the correction is judged first, then a host set that waits (R397, R413). -/
def execPpsEdge (s : State) : Host.Outcome State Fault Refusal :=
  if !keepRuns s || !s.time.ppsEn then done s
  else if !ppsAccepts s.time then done (rejectPps s)
  else
    let e := ppsPhase s.time.ntime
    let s := { s with time := { ppsLock s.time e with ppsErr := e, ppsLast := some s.time.ntime } }
    let s := ppsCorrect s e
    if s.time.atPps then
      done (judgeSet { s with time := { s.time with atPps := false } } s.time.target.toNat).2
    else done s

/-- 3 s without an accepted edge: the lock clears (R397). -/
def execPpsLockTimeout (s : State) : Host.Outcome State Fault Refusal :=
  if keepRuns s && s.time.ppsEn then done { s with time := { s.time with ppsLocked := false, ppsGood := 0 } }
  else done s

/-- The changes of NTIME and of the RTC since the last sync differ by more than p x (RTC change), the accepted |d| and
1 ms (R399). -/
def rtcDisagrees (t : Time) : Bool :=
  let dn : Int := (t.ntime : Int) - (t.syncNtime : Int)
  let dr : Int := (t.rtc : Int) - (t.syncRtc : Int)
  let p := if t.rtcLp then 1000 else 20
  decide (p * dr.toNat + (t.syncSum + 1000000) * 1000000 < (dn - dr).natAbs * 1000000)

/-- The comparison of every second of valid time. -/
def execRtcCompare (s : State) : Host.Outcome State Fault Refusal :=
  if keepRuns s && s.time.valid && rtcDisagrees s.time then
    let s := setTimeInvalid s
    done (raiseVec { s with time := { s.time with disagree := true } } 0 2)
  else done s

/-- The sync of every 3,600 s of valid time. -/
def execRtcSync (s : State) : Host.Outcome State Fault Refusal :=
  if keepRuns s && s.time.valid then done (rtcSyncNow s) else done s

/-- Key of a reader's latch. -/
def readerKey : TimeReader → Nat
  | .pf => 0
  | .vf p => p.val + 1
  | .wardenA => 3000
  | .wardenB => 3001
  | .debug => 3002

/-- A read of the low word returns NTIME and latches the high word for that reader alone (R414). -/
def execTimeNowRead (r : TimeReader) (s : State) : Host.Outcome State Fault Refusal :=
  if !keepRuns s then done s
  else
    let k := readerKey r
    let v := BitVec.ofNat 64 s.time.ntime
    done { s with tmr := { s.tmr with
      sample := Map.set 0 s.tmr.sample k v
      latch := Map.set 0 s.tmr.latch k (BitVec.ofNat 32 (s.time.ntime / 2 ^ 32)) } }

/-- Time passes until the slew has absorbed all of pending, which is then exactly 0 (R395). -/
def execSlewPendingZero (s : State) : Host.Outcome State Fault Refusal :=
  if keepRuns s && s.time.pending != 0 then done (passPeriods s (periodsToZero s.time)) else done s

end Sys2Proof.Machine
end

