-- ==== Sys2Proof/Machine/RegRead.lean ====
section
/-! DEFINITION. What the registers read (20_register_map.md and the register tables of every chapter): block pages, gate pages and
window pages, one 32-bit word at a time, with the reads that have an effect (R250, R252, R325, R386, R414). -/

set_option linter.unusedVariables false

namespace Sys2Proof.Machine

open Sys2Proof Sys2Proof.Bits

/-- A 32-bit word. -/
def w32 (n : Nat) : Word := BitVec.ofNat 32 n

/-- The low or the high word of a 64-bit register. -/
def half (v : Nat) (hi : Bool) : Nat := if hi then v / 2 ^ 32 % 2 ^ 32 else v % 2 ^ 32

/-- Word k of a value of 32-bit words. -/
def wordOf (v k : Nat) : Nat := v / 2 ^ (32 * k) % 2 ^ 32

/-! ### Computed status words -/

def WState.code : WState → Nat
  | .off => 0 | .active => 1 | .standby => 2 | .resyncing => 3 | .retired => 4 | .faulty => 5 | .feedLost => 6

/-- YOKE_STATE (R301). -/
def yokeStateWord (s : State) : Nat :=
  let y := s.yoke
  (if y.batonB then 2 else 1) + y.aState.code * 2 ^ 2 + y.bState.code * 2 ^ 5 + b2n y.solo * 2 ^ 8 + b2n y.halt * 2 ^ 9

/-- Phase byte of the status block (R373). -/
def BootPhase.code : BootPhase → Nat
  | .off => 1 | .romChecks => 1 | .resumption => 2 | .scarecrow => 3 | .wardenLoad => 4 | .firmware => 5
  | .released => 6 | .stall => 0x10 | .hold => 0x11 | .halt => 0x12

/-- BOOT_STATUS (R375). -/
def bootStatusWord (s : State) : Nat :=
  let b := s.boot
  b.phase.code + b.stall * 2 ^ 8 + b2n b.bankB * 2 ^ 16 + b2n b.fallback * 2 ^ 17 + b2n b.solo * 2 ^ 18

/-- LC_STATE (R339). -/
def lcStateWord (s : State) : Nat :=
  lcCode s + b2n s.lc.cert.isSome * 2 ^ 8 + b2n s.boot.romService * 2 ^ 9 + s.lc.otp.enrolled.toNat * 2 ^ 10 +
    s.lc.otp.revoked.toNat * 2 ^ 14 + b2n (lcCode s == lcTest || lcCode s == lcAnalysis) * 2 ^ 18

/-- LC_PROGRESS (R339). -/
def lcProgressWord (s : State) : Nat :=
  s.lc.progress.code + s.lc.progress.step * 2 ^ 8 + b2n s.lc.resumed * 2 ^ 16

/-- PWR_STATUS (R402, R415): TRIM shows while some stook's clock is gated in RUN. -/
def pwrStatusWord (s : State) : Nat :=
  let p := s.pwr
  let gated := p.gated.any (fun x => x.2)
  let st := if p.state = 0 ∧ gated then 1 else p.state.toNat
  st + p.last.toNat * 2 ^ 2 + p.agent * 2 ^ 4 + p.reason * 2 ^ 8 + Map.get 0 p.step 0 * 2 ^ 16 +
    Map.get 0 p.step 1 * 2 ^ 18 + b2n (Map.get false p.hot 0) * 2 ^ 20 + b2n (Map.get false p.hot 1) * 2 ^ 21

/-- Status nibble of a slot in GRN_SLOT_STAT_n (R239). -/
def slotStat (x : Slot) : Nat :=
  if !x.live then 0
  else if x.damaged then 4
  else if x.serve = 0 then 3
  else if (x.copy (2 - x.serve)).state = 2 then 2
  else 1

/-- TIME_STAT (R414). -/
def timeStatWord (s : State) : Nat :=
  let t := s.time
  b2n t.valid + 2 * b2n t.ppsLocked + 4 * b2n t.rtcSet + 8 * b2n t.rtcLp + 16 * b2n t.refused + t.reason.toNat * 2 ^ 5 +
    b2n t.disagree * 2 ^ 8

/-! ### Block pages -/

namespace Blk

/-- STATUS.out_of_service: the unit is retired, or its die is out of service (R417). -/
def outOfService (s : State) (b : Blk) : Bool :=
  let (die, _) := b.info
  let dieOut := die != 0 && s.dev.out.getLsbD (die - 1)
  dieOut ||
    match b with
    | .hbm d => (s.stack d).trained && !(s.stack d).inService
    | .bne n => (s.bne n).retired
    | .bae k => (s.bae k).owner == .retired
    | _ => false

/-- The common header and the counter words, offsets 0x000 to 0x07F (R417). -/
def readHeader (s : State) (b : Blk) (o : Nat) : Nat :=
  let (die, inst, type, rev) := b.info
  let p := b.page
  if o = 0x000 then die + inst * 2 ^ 8 + type * 2 ^ 16
  else if o = 0x004 then 0x4102 + rev * 2 ^ 16
  else if o = 0x008 then b.events.length + b.perfs.length * 2 ^ 8 + b.intBits * 2 ^ 16
  else if o = 0x010 then (s.reg (p + o)).toNat % 2
  else if o = 0x014 then
    b2n ((s.reg (errCodeOf p)).getLsbD 31) + 2 * b2n (b.outOfService s) + 4 * ((s.reg (p + 0x018)).toNat % 2)
  else if o = 0x018 then (s.reg (p + o)).toNat % 2
  else if o = 0x020 ∨ o = 0x024 then (s.reg (p + o)).toNat
  else if o = 0x028 then (intStat s p).toNat
  else if o = 0x030 ∨ o = 0x034 then (s.reg (p + o)).toNat
  else if 0x040 ≤ o then (s.reg (p + o)).toNat
  else 0

def readWin (s : State) (o : Nat) : Nat :=
  let w := s.win
  let bitsOf (f : Source → Bool) : Nat := ((List.range 8).map (fun i => b2n (f (s.source i)) * 2 ^ i)).sum
  let st := match w.state with | .starting => 0 | .run => 1 | .stopped => 2 | .testmode => 3
  if o = 0x080 then w.ratio
  else if o = 0x084 then
    st + bitsOf (fun x => x.state == 1) * 2 ^ 2 + bitsOf (fun x => x.state == 3) * 2 ^ 10 + b2n w.stoppedOnce * 2 ^ 18 +
      b2n w.randReady * 2 ^ 19
  else if 0x090 ≤ o ∧ o < 0x0B0 then
    let x := s.source ((o - 0x090) / 4)
    x.state + x.readmits * 2 ^ 2 + x.rct * 2 ^ 4 + x.apt * 2 ^ 14 + b2n x.sat * 2 ^ 31
  else if 0x0C0 ≤ o ∧ o < 0x0E4 then
    let i := (o - 0x0C0) / 4
    b2n (drbgServes s i) + 2 * b2n (s.drbg i).overdue
  else if o = 0x0F0 then b2n w.testEn + w.testSrc * 2 + b2n w.testTap * 2 ^ 4
  else if o = 0x0F4 then (w.fifo.headD 0).toNat
  else if o = 0x0F8 then w.fifo.length + b2n w.overflow * 2 ^ 15
  else if 0x100 ≤ o ∧ o < 0x110 then fieldLe w.rand (o - 0x100) 4
  else 0

def readScr (s : State) (o : Nat) : Nat :=
  let x := s.scr
  if o = 0x080 then
    b2n x.hold + 2 * b2n (x.present != 0) + 4 * b2n x.cfg.isSome + x.meshEn.toNat * 2 ^ 3 + x.wakeMs * 2 ^ 16
  else if o = 0x084 then
    x.firstCause + x.count * 2 ^ 8 + b2n x.pending * 2 ^ 24 + b2n x.tamperN * 2 ^ 25
  else if o = 0x088 ∨ o = 0x08C then half x.tamperTime (o == 0x08C)
  else if o = 0x090 ∨ o = 0x094 then half x.causes.toNat (o == 0x094)
  else if o = 0x098 then b2n x.vbatLow + 2 * b2n x.xtalLost
  else if o = 0x09C then (match x.cfg with | some b => fieldLe b 16 4 | none => 0)
  else if o = 0x0A0 then x.cfgReason + b2n x.cfgApplied * 2 ^ 8
  else if o = 0x0A8 then x.histRead + x.histNext * 2 ^ 16 + b2n x.histWrap * 2 ^ 28
  else if 0x0B0 ≤ o ∧ o < 0x0C0 then wordOf (Map.get 0 x.hist x.histRead).toNat ((o - 0x0B0) / 4)
  else if 0x100 ≤ o ∧ o < 0x150 then
    let c := s.chan ((o - 0x100) / 8)
    if o % 8 = 0 then (BitVec.ofInt 16 c.low).toNat + (BitVec.ofInt 16 c.high).toNat * 2 ^ 16 else c.n
  else if 0x180 ≤ o ∧ o < 0x1A8 then
    let c := s.chan ((o - 0x180) / 4)
    (BitVec.ofInt 16 c.y).toNat + c.count * 2 ^ 16
  else 0

/-- The granary page (R239). Slots and counters read 0 until the boot evaluates them. -/
def readGrn (s : State) (o : Nat) : Nat :=
  let g := s.grn
  if o = 0x080 then b2n g.present + 2 * b2n g.zeroed
  else if o = 0x084 then g.changed.toNat + b2n g.resealPending * 2 ^ 8
  else if o = 0x088 then
    b2n g.orderly + Map.count (fun _ b => b.on) g.buckets * 2 +
      (if g.frozen then Map.count (fun _ c => c.on) g.ctrs else 0) * 2 ^ 16
  else if 0x100 ≤ o ∧ o < 0x300 then
    let k := o % 0x40 / 4
    if k < 12 then fieldLe (digestBytes (s.meas ((o - 0x100) / 0x40))) (4 * k) 4 else 0
  else if 0x800 ≤ o ∧ g.frozen then
    let n := (o - 0x800) / 4
    ((List.range 8).map (fun j => slotStat (s.slotAt (8 * n + j)) * 2 ^ (4 * j))).sum
  else 0

def readTal (s : State) (o : Nat) : Nat :=
  let t := s.tal
  if o = 0x080 then b2n t.full + 2 * b2n t.stuck
  else if o = 0x084 then min t.next (2 ^ 32 - 1)
  else if o = 0x088 then (match t.log with | x :: _ => x.seq | [] => 0)
  else if o = 0x08C then t.main + t.tail * 2 ^ 17
  else if o = 0x090 then t.resv + b2n t.refused * 2 ^ 19
  else if o = 0x094 then t.lost + b2n t.lostSat * 2 ^ 31
  else 0

def readBoot (s : State) (o : Nat) : Nat :=
  let b := s.boot
  let set (x : BootBank) (hi : Bool) : Nat :=
    if hi then x.attempts + b2n x.good * 4 else if x.valid then x.seq.toNat else 0
  let r := s.lc.otp
  if o = 0x080 then bootStatusWord s
  else if o = 0x084 then b.count
  else if o = 0x088 then set b.bankA false
  else if o = 0x08C then set b.bankA true
  else if o = 0x090 then set b.bankBSet false
  else if o = 0x094 then set b.bankBSet true
  else if o = 0x0A0 then r.revScr + r.revFw * 2 ^ 16
  else if o = 0x0A4 then r.revMicro
  else if o = 0x0A8 then Config.romVersion.toNat
  else 0

def readHif (s : State) (o : Nat) : Nat :=
  if o = 0x100 then b2n s.hif.talAssist
  else if o = 0x104 then s.hif.histBase
  else if 0x2000 ≤ o ∧ o < 0x3000 then
    let i := 128 * ((o - 0x2000) / 0x400) + (o % 0x400) / 8
    half (Map.get 0 s.hif.hist i + b2n (Map.get false s.hif.histWrap i) * 2 ^ 48) (o % 8 == 4)
  else 0

def readHbm (s : State) (d o : Nat) : Nat :=
  let h := s.stack d
  if o = 0x080 then b2n h.trained + 2 * b2n h.inService + 4 * b2n (erasure h) + h.lanes * 2 ^ 8
  else if o = 0x084 then h.pcTrain.toNat
  else if o = 0x088 then h.failed.toNat
  else if o = 0x0E0 then h.fills.length
  else if o = 0x0F4 then (Hbm.nextLine h h.pos).getD ((Hbm.nextLine h 0).getD 0)
  else (s.reg (hbmPage d + o)).toNat

def readGln (s : State) (o : Nat) : Nat :=
  if o = 0x080 then Map.count (fun _ x => x.valid) s.rowHist
  else if 0x100 ≤ o ∧ o < 0x500 then
    let x := rowEntry s ((o - 0x100) / 16)
    let k := o % 16 / 4
    if k = 0 then
      b2n x.valid + x.stack * 2 + x.die * 2 ^ 2 + x.half * 2 ^ 6 + x.bank * 2 ^ 7 + x.row * 2 ^ 11
    else if k = 1 then x.spare + x.corr * 2 ^ 16
    else if k = 2 then x.boot.toNat
    else 0
  else 0

def readBae (s : State) (b o : Nat) : Nat :=
  let x := s.bae b
  let owner := match x.owner with | .free => 0 | .request => 1 | .warden => 2 | .retired => 3
  let n := x.susp.length
  if o = 0x080 then owner + (if x.owner = .request then x.entry else 0) * 2 ^ 8 + n * 2 ^ 25
  else if o = 0x088 ∨ o = 0x08C then
    let k := (o - 0x088) / 4
    if k < n then 1 + (x.susp.getD (n - 1 - k) {}).entry * 2 else 0
  else if o = 0x090 then (s.reg (baePage b + o)).toNat
  else 0

def readBne (s : State) (n o : Nat) : Nat :=
  let x := s.bne n
  if o = 0x080 then
    b2n x.owner.isSome + 2 * b2n x.run.isSome + 4 * b2n (x.wiping || x.clearing || x.selftest) + 8 * b2n x.retired + x.owner.getD 0 * 2 ^ 4
  else if o = 0x084 then (s.reg (bnePage n + o)).toNat
  else 0

def readStook (s : State) (k o : Nat) : Nat :=
  if 0x080 ≤ o ∧ o < 0x0A0 then
    let w := s.window k ((o - 0x080) / 8)
    if o % 8 = 0 then w.state.toNat + w.slot.toNat * 2 ^ 2 + w.bank * 2 ^ 4 + w.fnCount * 2 ^ 16 else w.secVer.toNat
  else if o = 0x0A0 then ((List.range 4).map (fun e => b2n (s.be (4 * k + e)).retired * 2 ^ e)).sum
  else if o = 0x0A4 then (s.reg (stookPage k + o)).toNat
  else 0

def readBarn (s : State) (b o : Nat) : Nat :=
  if o = 0x084 then ((List.range 32).map (fun t => b2n (tuRetired s (32 * b + t)) * 2 ^ t)).sum
  else if o = 0x080 ∨ o = 0x088 then (s.reg (barnPage b + o)).toNat
  else 0

/-- Block-specific registers at 0x080 and above. -/
def readBlock (s : State) (b : Blk) (o : Nat) : Nat :=
  match b with
  | .hif => readHif s o
  | .sch =>
    if o = 0x080 ∨ o = 0x088 then (s.reg (schPage + o)).toNat else if o = 0x084 then s.sched.trBlock else 0
  | .ldr =>
    let l := s.ldr
    if o = 0x080 then b2n l.busy + 2 * b2n l.ok + l.reason * 2 ^ 8 + l.offset * 2 ^ 16 else 0
  | .yoke =>
    if o = 0x080 then yokeStateWord s
    else if o = 0x084 ∨ o = 0x088 then (s.reg (yokePage + o)).toNat
    else if o = 0x08C then s.yoke.lastGap + s.yoke.maxGap * 2 ^ 16
    else 0
  | .grn => readGrn s o
  | .win => readWin s o
  | .scr => readScr s o
  | .tal => readTal s o
  | .lc =>
    if o = 0x080 then lcStateWord s
    else if o = 0x084 then lcProgressWord s
    else if o = 0x088 ∨ o = 0x08C then half Config.unitSerial.toNat (o == 0x08C)
    else 0
  | .boot => readBoot s o
  | .pwr =>
    if o = 0x080 then b2n s.pwr.trim + s.pwr.idleAfter * 2 ^ 16 else if o = 0x088 then pwrStatusWord s else 0
  | .clk =>
    let p := s.pwr
    if o = 0x080 then p.clkCtrl.toNat
    else if o = 0x084 then p.lock.toNat + (p.clkCtrl &&& p.lock).toNat * 2 ^ 4
    else 0
  | .gln => readGln s o
  | .hbm d => readHbm s d o
  | .barn k => readBarn s k o
  | .stook k => readStook s k o
  | .bne n => readBne s n o
  | .bae k => readBae s k o
  | _ => 0

def read (s : State) (b : Blk) (o : Nat) : Nat := if o < 0x080 then b.readHeader s o else b.readBlock s o

end Blk

/-! ### Gate pages -/

/-- A word of a range slot. -/
def rngWord (r : RangeSlot) (k : Nat) : Nat :=
  if k = 0 then b2n r.en + r.base % 2 ^ 20 * 2 ^ 12
  else if k = 1 then r.base / 2 ^ 20
  else if k = 2 then r.last % 2 ^ 20 * 2 ^ 12
  else r.last / 2 ^ 20 + r.perm.toNat * 2 ^ 8

/-- Every gate page: the header, the class slots, status, denials and, for a memory gate, the range slots (R353). -/
def readGate (s : State) (page o : Nat) : Nat :=
  let g := s.gate page
  if o = 0x000 then gateIdWord page
  else if o = 0x004 then 0x14102
  else if o = 0x00C then gateIndex page
  else if o = 0x010 then (s.reg (page + o)).toNat % 2
  else if o = 0x014 then b2n ((s.reg (errCodeOf page)).getLsbD 31) + 4 * b2n g.lock
  else if o = 0x018 then b2n g.lock
  else if o = 0x020 ∨ o = 0x024 ∨ o = 0x030 ∨ o = 0x034 then (s.reg (page + o)).toNat
  else if o = 0x028 then (intStat s page).toNat
  else if 0x080 ≤ o ∧ o < 0x0C0 then (Map.get 0 g.cls ((o - 0x080) / 4)).toNat
  else if o = 0x0C0 then b2n g.closed + g.faultSlot * 2 + b2n (gateMemory page) * 2 ^ 5
  else if o = 0x0C4 then g.debugDenials + g.otherDenials * 2 ^ 16 + b2n g.sat * 2 ^ 31
  else if o = 0x0C8 then g.lastAddr % 2 ^ 32
  else if o = 0x0CC then
    g.lastAddr / 2 ^ 32 + g.lastCls * 2 ^ 8 + b2n g.lastWrite * 2 ^ 12 + b2n g.lastValid * 2 ^ 31
  else if 0x100 ≤ o ∧ o < 0x200 ∧ gateMemory page then rngWord (Map.get {} g.rng ((o - 0x100) / 16)) (o % 16 / 4)
  else 0

/-! ### Window pages -/

/-- The device-information page (R287, R301, R339, R375, R415, R426). -/
def readDev (s : State) (o : Nat) : Nat :=
  if o = 0x000 then 0x48204102
  else if o = 0x010 then devStatus s
  else if o = 0x014 then s.dev.causes.toNat
  else if o = 0x100 then s.seen.length
  else if o = 0x104 then yokeStateWord s
  else if o = 0x110 then lcStateWord s
  else if o = 0x114 then lcProgressWord s
  else if o = 0x118 ∨ o = 0x11C then half Config.unitSerial.toNat (o == 0x11C)
  else if o = 0x120 then bootStatusWord s
  else if o = 0x124 then s.boot.count
  else if o = 0x204 then pwrStatusWord s
  else if 0x400 ≤ o ∧ o < 0x500 then
    ((List.range 32).map (fun j => b2n (Map.get false s.dev.partEvt (8 * (o - 0x400) + j)) * 2 ^ j)).sum
  else 0

/-- Ring configuration (R32, R33); doorbells read 0. -/
def readRing (s : State) (f o : Nat) : Nat :=
  let r := o % 32
  if 0x1000 ≤ o ∧ o < 0x1800 then
    let q := s.sq f ((o - 0x1000) / 32)
    if r = 0 ∨ r = 4 then half q.base.toNat (r == 4)
    else if r = 8 then
      b2n q.enable + 2 * b2n q.error + q.errKind.toNat * 4 + q.log2 * 2 ^ 8 + q.cq * 2 ^ 16
    else if r = 0xC then q.head
    else 0
  else if 0x1800 ≤ o ∧ o < 0x2000 then
    let q := s.cq f ((o - 0x1800) / 32)
    if r = 0 ∨ r = 4 then half q.base.toNat (r == 4)
    else if r = 8 then
      b2n q.enable + 2 * b2n q.error + 4 * b2n q.intEn + q.log2 * 2 ^ 8 + q.vector * 2 ^ 16
    else if r = 0xC then q.tail + b2n q.phase * 2 ^ 16
    else if r = 0x10 then q.modCount + q.modTimer * 2 ^ 16
    else 0
  else 0

/-- Partition information, status and time of a VF (R31, R414). -/
def readVf (s : State) (p o : Nat) : Nat :=
  let x := s.part p
  if o = 0x0000 then p + x.state.code * 2 ^ 16
  else if o = 0x0004 then x.gen.toNat
  else if o = 0x0008 then x.quota + x.fnSplit.toNat * 2 ^ 24
  else if o = 0x3000 then (s.reg (vfAddr (p + 1) 0x3000)).toNat
  else if o = 0x3004 then inFlight s (p + 1)
  else if o = 0x3018 then b2n s.time.valid + 2 * b2n s.time.ppsLocked
  else 0

/-- A partition's control page (R58, R117, R150, R239, R289). -/
def readPart (s : State) (p o : Nat) : Nat :=
  let x := s.part p
  if o = 0x080 then x.fnSplit.toNat
  else if o = 0x084 then x.weight + x.urgentMax * 2 ^ 8
  else if o = 0x088 then x.flowLimit
  else if o = 0x08C then x.uwcQuota
  else if o = 0x090 then x.n0
  else if o = 0x094 then x.n1
  else if o = 0x098 then x.bucketQuota + x.slotQuota * 2 ^ 16
  else if o = 0x0A0 then x.state.code + b2n x.emigrated * 2 ^ 3 + b2n x.configured * 2 ^ 4 + x.gen.toNat * 2 ^ 16
  else if o = 0x0A4 then inFlight s (p + 1)
  else if o = 0x0A8 ∨ o = 0x0AC then half x.dpid.toNat (o == 0x0AC)
  else if o = 0x0B0 then x.hseq
  else if o = 0x0B8 ∨ o = 0x0BC then half (hamperSize s p) (o == 0x0BC)
  else 0

/-- The entry a window shows, with the tag of the entry before it (R377, R386). -/
def shownEntry (s : State) (f : Nat) : Option (TalEntry × Bytes) :=
  let c := cursorOf s f
  let prev (x : TalEntry) : Bytes :=
    match (s.tal.log.takeWhile (fun y => decide (y.seq < x.seq))).getLast? with
    | some y => y.tag
    | none => s.tal.prevTag
  (s.tal.log.find? (fun x => x.seq == c && windowShows f x)).map (fun x => (x, prev x))

/-- A tally window (R386). -/
def readTally (s : State) (f o : Nat) : Nat :=
  let vis := s.tal.log.filter (windowShows f)
  if o = 0x000 then cursorOf s f
  else if o = 0x004 then
    let tail := b2n s.tal.full * 2 ^ 5 + b2n s.tal.stuck * 2 ^ 6
    match shownEntry s f with
    | none => tail
    | some (x, prev) =>
      let check :=
        if lcCode s = lcScrap then 8
        else if x.tag = Tal.tagOf (Tal.key s) prev x ∧ !Tal.unreadable s x then 2
        else 4
      1 + check + (if x.flags.getLsbD 2 then 16 else 0) + tail
  else if o = 0x008 then (match vis with | x :: _ => x.seq | [] => 0)
  else if o = 0x00C then twLast s f
  else if o = 0x010 then vis.length
  else if 0x040 ≤ o ∧ o < 0x080 then
    match shownEntry s f with
    | some (x, _) => fieldLe (Tal.shown s x) (o - 0x040) 4
    | none => 0
  else 0

/-- The time page but for the latched words of TIME_NOW (R414). -/
def readTime (s : State) (o : Nat) : Nat :=
  let t := s.time
  if o = 0x008 then timeStatWord s
  else if o = 0x010 ∨ o = 0x014 then half t.target.toNat (o == 0x014)
  else if o = 0x01C then (BitVec.ofInt 32 t.pending).toNat
  else if o = 0x020 then t.budget
  else if o = 0x024 then b2n t.ppsEn + t.ppsRej * 2 ^ 16 + b2n t.ppsSat * 2 ^ 31
  else if o = 0x028 then (BitVec.ofInt 32 t.ppsErr).toNat
  else 0

/-- The officer mailbox (R309). -/
def readOfficer (s : State) (o : Nat) : Nat :=
  let x := s.ofc
  if o = 0x0004 then b2n x.ready + 2 * b2n x.err + x.entry * 4
  else if o = 0x0008 ∨ o = 0x000C then (if x.ready then half x.nonce.toNat (o == 0x000C) else 0)
  else if o = 0x0010 then x.next
  else if 0x1000 ≤ o ∧ o < 0x1400 then fieldLe (Map.get [] x.pages ((o - 0x1000) / 64)) (o % 64) 4
  else 0

/-- The MSI-X table and its PBA (R29). -/
def readMsix (s : State) (f o : Nat) : Nat :=
  if o < 0x400 then
    let m := s.msix f (o / 16)
    let k := o % 16 / 4
    if k < 2 then half m.addr.toNat (k == 1) else if k = 2 then m.data.toNat else b2n m.masked
  else if o = 0x800 ∨ o = 0x804 then
    ((List.range 32).map (fun j => b2n (s.msix f (8 * (o - 0x800) + j)).pending * 2 ^ j)).sum
  else 0

/-! ### One read -/

/-- The state of an outcome. -/
def after (o : Host.Outcome State Fault Refusal) (s : State) : State :=
  match o with
  | .next t => t
  | _ => s

/-- TIME_NOW or VF_NTIME by word: the low word latches the high one for its reader (R414). -/
def readNow (s : State) (r : TimeReader) (hi : Bool) : Nat × State :=
  if hi then ((Map.get 0 s.tmr.latch (readerKey r)).toNat, s)
  else
    let t := after (execTimeNowRead r s) s
    (s.time.ntime % 2 ^ 32, t)

/-- A word of a place outside memory, with the read's effect. `who` names the reader of TIME_NOW. -/
def regRead (s : State) (who : TimeReader) (p : Place) : Word × State :=
  match p with
  | .blk .win o =>
    let t := if o = 0x0F4 then after (execWinRawRead s) s else if o = 0x10C then after (execWinRandRead s) s else s
    (w32 (Blk.win.read s o), t)
  | .blk .scr o =>
    (w32 (Blk.scr.read s o), if o = 0x0BC then after (execScrHistDataRead s) s else s)
  | .blk b o => (w32 (b.read s o), s)
  | .gate page o => (w32 (readGate s page o), s)
  | .dev o => (w32 (readDev s o), s)
  | .ring f o => (w32 (readRing s f o), s)
  | .vf q o =>
    if o = 0x3010 ∨ o = 0x3014 then
      let (v, t) := readNow s who (o == 0x3014)
      (w32 v, t)
    else (w32 (readVf s q o), s)
  | .part q o => (w32 (readPart s q o), s)
  | .tally f o =>
    let v := w32 (readTally s f o)
    (v, if o = 0x07C then moveCursor s f (cursorOf s f + 1) else if o = 0x004 then settleCursor s f else s)
  | .record o => (w32 (fieldLe (recordShown s (o / 4096)) (o % 4096) 4), s)
  | .time o =>
    if o = 0x000 ∨ o = 0x004 then
      let (v, t) := readNow s who (o == 0x004)
      (w32 v, t)
    else (w32 (readTime s o), s)
  | .officer o => (w32 (readOfficer s o), s)
  | .msix f o => (w32 (readMsix s f o), s)
  | .mem _ => (0, s)
  | .hole => (0, s)
  | .unmapped => (0, s)

end Sys2Proof.Machine
end

