-- ==== Sys2Proof/Machine/RegWrite.lean ====
section
/-! DEFINITION. What a register write does, one 32-bit word at a time, by the access types of its fields, and the rows of the common
header and of registers without a row of their own (R3, R4, R32 to R37, R353, R417 to R419, 20_register_map.md). -/

set_option linter.unusedVariables false

namespace Sys2Proof.Machine

open Sys2Proof Sys2Proof.Bits

/-! ### Parts of a write -/

/-- W1C: each 1 written clears the bit of the stored word, among the bits of a mask. -/
def w1c (s : State) (a : Nat) (mask v : Word) : State := s.setReg a (s.reg a &&& ~~~(v &&& mask))

/-- Replace the low or the high word of a 64-bit value. -/
def putHalf (old : BitVec 64) (hi : Bool) (v : Word) : BitVec 64 :=
  if hi then BitVec.ofNat 64 (half old.toNat false + v.toNat * 2 ^ 32)
  else BitVec.ofNat 64 (v.toNat + half old.toNat true * 2 ^ 32)

/-- Store INT_EN. The host-interface page's INT_STAT drives PF vector 0 when it becomes nonzero (R417, R427). -/
def setIntEn (s : State) (page : Nat) (v : Word) : State :=
  let t := s.setReg (intEnOf page) v
  if page = hifPage ∧ intStat s page = 0 ∧ intStat t page ≠ 0 then raiseVec t 0 0 else t

/-- CTRL.cnt_clear: the page's performance counters and their WRAP bits become 0 (R417). -/
def clearCounters (s : State) (b : Blk) : State :=
  let s := b.perfs.foldl (fun s o => (s.setReg (b.page + o) 0).setReg (b.page + o + 4) 0) s
  if b = .hif then clearHist s else s

/-- The words INT_RAW to ERR_CLR of any page with a header (R417, R418). -/
def writeErrInt (s : State) (page o : Nat) (v : Word) : State :=
  if o = 0x020 then setIntRaw s page (s.reg (intRawOf page) &&& ~~~v)
  else if o = 0x024 then setIntEn s page v
  else if o = 0x02C then (if lcCode s = lcTest then setIntRaw s page (s.reg (intRawOf page) ||| v) else s)
  else if o = 0x038 ∧ v.getLsbD 0 then (s.setReg (errCodeOf page) 0).setReg (errInfoOf page) 0
  else s

/-- The header of a block page and its counter words (R411, R417). -/
def writeHeader (s : State) (b : Blk) (o : Nat) (v : Word) : State :=
  let p := b.page
  if o = 0x010 then
    let s := s.setReg (p + o) (v &&& 1)
    if v.getLsbD 1 then clearCounters s b else s
  else if o = 0x018 then s.setReg (p + o) (s.reg (p + o) ||| (v &&& 1))
  else if b.events.contains o then w1c s (p + o) 0x80000000 v
  else if b.perfs.contains (o - 4) then w1c s (p + o) 0x00010000 v
  else writeErrInt s p o v

/-- LOCK of a block page is set: its RWL fields are read-only (R3, R417). -/
def pageLocked (s : State) (b : Blk) : Bool := (s.reg (b.page + 0x018)).getLsbD 0

/-! ### Block-specific registers -/

def writeHif (s : State) (o : Nat) (v : Word) : State :=
  if o = 0x100 then { s with hif := { s.hif with talAssist := v.getLsbD 0 } }
  else if o = 0x104 then
    let t := after (execHifHistBaseWrite v s) s
    if v.getLsbD 4 then clearHist t else t
  else if 0x2000 ≤ o ∧ o < 0x3000 ∧ o % 8 = 4 ∧ v.getLsbD 16 then
    let i := 128 * ((o - 0x2000) / 0x400) + o % 0x400 / 8
    { s with hif := { s.hif with histWrap := Map.set false s.hif.histWrap i false } }
  else s

def writeWin (s : State) (o : Nat) (v : Word) : State :=
  let n := v.toNat
  if o = 0x080 then
    let r := bits n 3 0
    if pageLocked s .win then s else { s with win := { s.win with ratio := if 2 ≤ r ∧ r ≤ 8 then r else 4 } }
  else if 0x090 ≤ o ∧ o < 0x0B0 ∧ v.getLsbD 31 then
    s.setSource ((o - 0x090) / 4) { s.source ((o - 0x090) / 4) with sat := false }
  else if o = 0x0F0 then
    if v.getLsbD 0 != s.win.testEn ∧ (!v.getLsbD 0 ∨ lcCode s = lcTest ∨ lcCode s = lcAnalysis) then
      if v.getLsbD 0 then after (execWinTestEnable v s) s else after (execWinTestDisable v s) s
    else winTestFields s v s.win.testEn
  else if o = 0x0F8 ∧ v.getLsbD 15 then { s with win := { s.win with overflow := false } }
  else s

/-- A write of a word of SCR_THR_c, which only the scarecrow's accesses reach: the low word carries the limits and the high word n, and each
takes effect where it narrows. A count outside 1 to 8 is none (R317, R323, R325; log 113). -/
def writeThr (s : State) (c : Nat) (high : Bool) (v : Word) : State :=
  let x := s.chan c
  let lim (hi lo : Nat) : Int := if c = chanVbat then (bits v.toNat hi lo : Int) else (BitVec.ofNat 16 (bits v.toNat hi lo)).toInt
  let n := bits v.toNat 3 0
  if !filteredCodes.contains c then s
  else if !high then narrow s c x.n (lim 15 0) (lim 31 16)
  else if 1 ≤ n then narrow s c n x.low x.high
  else s

def writeScr (s : State) (o : Nat) (v : Word) : State :=
  if 0x100 ≤ o ∧ o < 0x150 then writeThr s ((o - 0x100) / 8) (o % 8 == 4) v
  else if o = 0x084 ∧ v.getLsbD 26 then after (execScrTamperRelease s) s
  else if o = 0x098 then
    { s with scr := { s.scr with
      vbatLow := s.scr.vbatLow && !v.getLsbD 0
      xtalLost := s.scr.xtalLost && !v.getLsbD 1 } }
  else if o = 0x0A8 then { s with scr := { s.scr with histRead := bits v.toNat 11 0 } }
  else s

/-- PWR_CTRL and PWR_REQ (R402, R403, R415). -/
def writePwr (s : State) (o : Nat) (v : Word) : State :=
  if o = 0x080 then
    let trim := v.getLsbD 0
    { s with pwr := { s.pwr with
      trim := trim
      idleAfter := bits v.toNat 31 16
      gated := if trim then s.pwr.gated else [] } }
  else if o = 0x084 then
    match bits v.toNat 1 0 with
    | 1 => after (execPwrReqIdle s) s
    | 2 => after (execPwrReqRun s) s
    | 3 => after (execPwrReqFallowPreparation s) s
    | _ => s
  else s

/-- STK_BANK_n: bank is stored while the window is EMPTY; 0b01 starts a copy and 0b11 drains (R157). -/
def writeStook (s : State) (k o : Nat) (v : Word) : State :=
  if 0x080 ≤ o ∧ o < 0x0A0 ∧ o % 8 = 0 then
    let n := (o - 0x080) / 8
    let w := s.window k n
    let bank := bits v.toNat 9 4
    let s := if w.state = 0 then s.setWindow k n { w with bank := bank } else s
    match bits v.toNat 1 0 with
    | 1 => after (execStkBankLoading (Fin.ofNat 32 k) (Fin.ofNat 4 n) (Fin.ofNat 64 bank) s) s
    | 3 => after (execStkBankDraining (Fin.ofNat 32 k) (Fin.ofNat 4 n) s) s
    | _ => s
  else s

/-- BAE_LOCK: the write that reaches the block is the holder's (R174, R186). -/
def writeBae (s : State) (b o : Nat) (v : Word) : State :=
  let w := if s.yoke.batonB then Warden.b else Warden.a
  if o = 0x080 then
    let s := if v.getLsbD 2 then after (execBaeLockAcquire (Fin.ofNat 8 b) w s) s else s
    if v.getLsbD 3 then after (execBaeLockRelease (Fin.ofNat 8 b) w s) s else s
  else s

/-- Registers at 0x080 and above. -/
def writeBlock (s : State) (b : Blk) (o : Nat) (v : Word) : State :=
  if b.sats.contains o then w1c s (b.page + o) 0x80000000 v
  else
    match b with
    | .hif => writeHif s o v
    | .sch => if o = 0x080 then s.setReg (schPage + o) (v &&& 0x1FFF) else s
    | .win => writeWin s o v
    | .scr => writeScr s o v
    | .tal =>
      if o = 0x090 ∧ v.getLsbD 17 then after (if v.getLsbD 18 then execTalResvTakePair s else execTalResvTake s) s
      else if o = 0x094 ∧ v.getLsbD 31 then { s with tal := { s.tal with lostSat := false } }
      else s
    | .boot => if o = 0x098 ∧ v.getLsbD 0 then after (execBootReleaseWrite s) s else s
    | .pwr => writePwr s o v
    | .clk => if o = 0x080 then after (execClkCtrlSwitch v s) s else s
    | .barn k =>
      if o = 0x080 ∧ !pageLocked s b then
        let us := bits v.toNat 14 0
        s.setReg (b.page + o) (w32 (if 100 ≤ us ∧ us ≤ 16000 then us else 2000))
      else s
    | .stook k => writeStook s k o v
    | .bae k => writeBae s k o v
    | _ => s

def writeBlk (s : State) (b : Blk) (o : Nat) (v : Word) : State :=
  if o < 0x080 then writeHeader s b o v else writeBlock s b o v

/-! ### Gate pages (R345, R353) -/

/-- A range slot with word k replaced. -/
def putRngWord (r : RangeSlot) (k : Nat) (v : Word) : RangeSlot :=
  let n := v.toNat
  if k = 0 then { r with en := v.getLsbD 0, base := r.base / 2 ^ 20 * 2 ^ 20 + bits n 31 12 }
  else if k = 1 then { r with base := bits n 7 0 * 2 ^ 20 + r.base % 2 ^ 20 }
  else if k = 2 then { r with last := r.last / 2 ^ 20 * 2 ^ 20 + bits n 31 12 }
  else { r with last := bits n 7 0 * 2 ^ 20 + r.last % 2 ^ 20, perm := BitVec.ofNat 18 (bits n 25 8) }

def writeGate (s : State) (page o : Nat) (v : Word) : State :=
  let g := s.gate page
  if o = 0x010 then s.setReg (page + o) (v &&& 1)
  else if o = 0x018 then (if v.getLsbD 0 then lockGate s page else s)
  else if 0x080 ≤ o ∧ o < 0x0C0 then (if g.lock then s else setCls s page ((o - 0x080) / 4) (v.setWidth 3))
  else if o = 0x0C4 ∧ v.getLsbD 31 then s.setGate page { g with sat := false }
  else if o = 0x0CC ∧ v.getLsbD 31 then s.setGate page { g with lastValid := false }
  else if 0x100 ≤ o ∧ o < 0x200 ∧ gateMemory page then
    let n := (o - 0x100) / 16
    if g.lock then s else setRange s page n (putRngWord (Map.get {} g.rng n) (o % 16 / 4) v)
  else writeErrInt s page o v

/-! ### Window pages -/

/-- The device-information page (R415, R426). -/
def writeDev (s : State) (o : Nat) (v : Word) : State :=
  if o = 0x200 ∧ v.getLsbD 0 then after (execDevPwrReqShutdown s) s
  else if 0x400 ≤ o ∧ o < 0x500 then
    let clear (m : Map Bool) (j : Nat) : Map Bool := if v.getLsbD j then Map.set false m (8 * (o - 0x400) + j) false else m
    { s with dev := { s.dev with partEvt := (List.range 32).foldl clear s.dev.partEvt } }
  else s

/-- Doorbells and ring configuration (R32 to R37). -/
def writeRing (s : State) (f o : Nat) (v : Word) : State :=
  let r := o % 32
  if 0x0100 ≤ o ∧ o < 0x0200 then after (execSqDbWrite (Fin.ofNat 2049 f) (Fin.ofNat 64 ((o - 0x0100) / 4)) v s) s
  else if 0x0200 ≤ o ∧ o < 0x0300 then after (execCqDbWrite (Fin.ofNat 2049 f) (Fin.ofNat 64 ((o - 0x0200) / 4)) v s) s
  else if 0x1000 ≤ o ∧ o < 0x1800 then
    let n := (o - 0x1000) / 32
    let q := s.sq f n
    if !ringUp s f n then s
    else if r = 0 ∨ r = 4 then
      if q.enable then s
      else s.setSq f n { q with base := putHalf q.base (r == 4) (if r = 0 then v &&& 0xFFFFF000 else v) }
    else if r = 8 then writeSqCfg s f n v
    else s
  else if 0x1800 ≤ o ∧ o < 0x2000 then
    let n := (o - 0x1800) / 32
    let q := s.cq f n
    if !ringUp s f n then s
    else if r = 0 ∨ r = 4 then
      if q.enable then s
      else s.setCq f n { q with base := putHalf q.base (r == 4) (if r = 0 then v &&& 0xFFFFF000 else v) }
    else if r = 8 then writeCqCfg s f n v
    else if r = 0x10 then writeCqMod s f n v
    else s
  else s

/-- A partition's control page (R117, R150). -/
def writePart (s : State) (p o : Nat) (v : Word) : State :=
  let n := v.toNat
  if o = 0x084 then s.modPart p (fun x => { x with weight := max 1 (bits n 7 0), urgentMax := bits n 15 8 })
  else if o = 0x08C then s.modPart p (fun x => { x with uwcQuota := min 16 (bits n 4 0) })
  else s

/-- TIME_CMD: invalidate acts first, and go before at_pps (R394). -/
def timeCmd (s : State) (v : Word) : State :=
  if v.getLsbD 0 then after (execTimeCmdGo (v.getLsbD 2) s) s
  else if v.getLsbD 1 then after (execTimeCmdAtPps (v.getLsbD 2) s) s
  else if v.getLsbD 2 then after (execTimeCmdInvalidate s) s
  else s

/-- The time page (R414). -/
def writeTime (s : State) (o : Nat) (v : Word) : State :=
  let t := s.time
  if o = 0x008 then
    { s with time := { t with
      refused := t.refused && !v.getLsbD 4
      disagree := t.disagree && !v.getLsbD 8 } }
  else if o = 0x010 ∨ o = 0x014 then { s with time := { t with target := putHalf t.target (o == 0x014) v } }
  else if o = 0x018 then timeCmd s v
  else if o = 0x024 then { s with time := { t with ppsEn := v.getLsbD 0, ppsSat := t.ppsSat && !v.getLsbD 31 } }
  else s

/-- The MSI-X table of a function: an entry unmasked with its bit pending sends its message (R29, R57). -/
def writeMsix (s : State) (f o : Nat) (v : Word) : State :=
  if o < 0x400 then
    let n := o / 16
    let m := s.msix f n
    let k := o % 16 / 4
    if k < 2 then s.setMsix f n { m with addr := putHalf m.addr (k == 1) v }
    else if k = 2 then s.setMsix f n { m with data := v }
    else if !v.getLsbD 0 && m.pending then
      s.setMsix f n { m with masked := false, pending := false, sent := m.sent + 1 }
    else s.setMsix f n { m with masked := v.getLsbD 0 }
  else s

/-- A write of one word at a place. -/
def regWrite (s : State) (p : Place) (v : Word) : State :=
  match p with
  | .blk b o => writeBlk s b o v
  | .gate page o => writeGate s page o v
  | .dev o => writeDev s o v
  | .ring f o => writeRing s f o v
  | .vf p o => if o = 0x3000 then w1c s (vfAddr (p + 1) o) 0x80000000 v else s
  | .part p o => writePart s p o v
  | .tally f o => if o = 0x000 then moveCursor s f v.toNat else s
  | .time o => writeTime s o v
  | .officer o => if o = 0x0000 then after (execOfcNonceReq v s) s else s
  | .msix f o => writeMsix s f o v
  | .mem a => memWrite s a (le 4 v.toNat)
  | .record _ => s
  | .hole => s
  | .unmapped => s

/-! ### Arrival of a write -/

/-- The windows of the PF that answer: in SCRAP device information, tally and boot records alone, beside the rings that the ROM service serves
(R326, R328; log 112). -/
def windowOpen (s : State) (o : Nat) : Bool :=
  lcCode s != lcScrap || decide (o < 0x20000 ∨ (0x1000000 ≤ o ∧ o < 0x1001000) ∨ (0x1800000 ≤ o ∧ o < 0x1900000))

/-- The access reaches a function or the system space: the PF answers while it is enabled or the ROM service serves it, a VF while
enabled, and the system space while the Keep die runs a boot stage (R328, R354, R362). -/
def reachable (s : State) : RegTarget → Bool
  | .pfBar0 o => (s.boot.pfEnabled || s.boot.romService) && windowOpen s o.toNat
  | .pfBar2 _ => s.boot.pfEnabled || s.boot.romService
  | .vfBar0 _ _ => s.boot.pfEnabled
  | .vfBar2 _ _ => s.boot.pfEnabled
  | .sys _ _ => s.pwr.rails && s.boot.phase != .off && s.boot.phase != .hold

/-- The address of a target in its space. -/
def targetAddr : RegTarget → Nat
  | .pfBar0 o => o.toNat
  | .pfBar2 o => o.toNat
  | .vfBar0 _ o => o.toNat
  | .vfBar2 _ o => o.toNat
  | .sys _ a => a.toNat

/-- The next word of a target. -/
def nextWord : RegTarget → RegTarget
  | .pfBar0 o => .pfBar0 (o + 4)
  | .pfBar2 o => .pfBar2 (o + 4)
  | .vfBar0 p o => .vfBar0 p (o + 4)
  | .vfBar2 p o => .vfBar2 p (o + 4)
  | .sys c a => .sys c (a + 4)

def fromHost : RegTarget → Bool
  | .sys _ _ => false
  | _ => true

/-- The die of a system address outside the Keep die. -/
def dieOfAddr (a : Nat) : Option Nat :=
  if hbmWindow a 1 then some 1 else if hbmWindow a 2 then some 2 else (fieldOf a).map (fun x => x.1)

/-- An access to a die that is not in service gets an error response, which no gate counts (R347, R352). -/
def dieAnswers (s : State) (a : Nat) : Bool :=
  match dieOfAddr a with
  | some d => dieUp s d
  | none => true

/-- An access to a Field die that is power-gated in IDLE: a warden's waits for the wake, which it begins, and a debug access gets an error
response (R405, R424). -/
def dieGated (s : State) (a : Nat) : Bool :=
  s.pwr.state == pwrIdle &&
    (match dieOfAddr a with
    | some d => dieUp s d
    | none => false)

/-- An aligned 32-bit write that arrives at its target: an access of the system space passes the gate of its target (R341, R419). A die out of
service answers nothing; at a die gated in IDLE a warden's access begins the wake, and the write is made again when it has ended (R405, R424). A
denied access of the boot ROM stops the boot (R347). -/
def arriveWrite (s : State) (t : RegTarget) (v : Word) : State :=
  if !reachable s t || targetAddr t % 4 != 0 then s
  else
    match t with
    | .sys c a =>
      if !dieAnswers s a.toNat then s
      else if dieGated s a.toNat then (if c = .warden then startWake s else s)
      else
      let (ok, s) := gatePass s c a.toNat true
      if ok then regWrite s (placeOf t) v else if c = .bootRom then bootStall s 9 else s
    | _ => regWrite s (placeOf t) v

/-- A write at the offset of a header register of a block page or gate page. -/
def headerWrite (s : State) (off : Nat) (t : RegTarget) (v : Word) : State :=
  match placeOf t with
  | .blk _ o => if o = off then arriveWrite s t v else s
  | .gate _ o => if o = off then arriveWrite s t v else s
  | _ => s

/-- LOCK_WRITE (R345, R417). -/
def execLockWrite (t : RegTarget) (v : Word) (s : State) : Host.Outcome State Fault Refusal := done (headerWrite s 0x018 t v)

/-- ERR_CLR_WRITE (R417). -/
def execErrClrWrite (t : RegTarget) (v : Word) (s : State) : Host.Outcome State Fault Refusal := done (headerWrite s 0x038 t v)

/-- INT_SET_WRITE (R417): in life-cycle state TEST. -/
def execIntSetWrite (t : RegTarget) (v : Word) (s : State) : Host.Outcome State Fault Refusal := done (headerWrite s 0x02C t v)

/-- CNT_CLEAR (R417): a write of CTRL with cnt_clear. -/
def execCntClear (t : RegTarget) (v : Word) (s : State) : Host.Outcome State Fault Refusal :=
  done (if v.getLsbD 1 then headerWrite s 0x010 t v else s)

/-- REGISTER_WRITE (R3, R4, R419): a host write narrower than 4 bytes is discarded and latches ERR_CODE 0x0002; 8 bytes are two words,
the low one first. -/
def execRegisterWrite (t : RegTarget) (size : Fin 9) (v : BitVec 64) (s : State) : Host.Outcome State Fault Refusal :=
  done (
    let lo := v.setWidth 32
    let hi := (v >>> 32).setWidth 32
    if size.val = 8 ∧ fromHost t then arriveWrite (arriveWrite s t lo) (nextWord t) hi
    else if size.val = 4 then arriveWrite s t lo
    else if fromHost t ∧ (size.val = 1 ∨ size.val = 2) ∧ reachable s t then latchErr s hifPage 2 (targetAddr t % 0x1000)
    else s)

end Sys2Proof.Machine
end

