-- ==== Sys2Proof/Machine/Debug.lean ====
section
/-! DEFINITION. The TAP and the debug port: boundary scan, debug tokens, debug accesses (R348 to R352, R443). -/

set_option linter.unusedVariables false

namespace Sys2Proof.Machine

open Sys2Proof Sys2Proof.Bits

/-- Select a TAP instruction. -/
def selectIr (s : State) (ir : Byte) : State := { s with tap := { s.tap with ir := ir } }

/-- A bypass register captures 0 (log 25). -/
def bypassDr (s : State) : State := { s with tap := { s.tap with dr := 0 } }

/-- EXTEST, CLAMP and HIGHZ: in every state after BLANK the keys tier is cleared and the dies are held in reset (R349). -/
def scanSelect (s : State) (ir : Byte) : State :=
  let s := selectIr s ir
  if lcCode s = lcBlank then s
  else
    let s := clearKeys s
    heldInReset { s with scrAux := { s.scrAux with scanHold := true } } .off

/-- EXTEST (R349). -/
def execExtest (s : State) : Host.Outcome State Fault Refusal := done (scanSelect s 0x00)

/-- CLAMP (R349): the bypass register lies between TDI and TDO. -/
def execClamp (s : State) : Host.Outcome State Fault Refusal := done (bypassDr (scanSelect s 0x03))

/-- HIGHZ (R349). -/
def execHighz (s : State) : Host.Outcome State Fault Refusal := done (bypassDr (scanSelect s 0x04))

/-- SAMPLE/PRELOAD: the boundary register is selected; nothing else changes. -/
def execSamplePreload (s : State) : Host.Outcome State Fault Refusal := done (selectIr s 0x01)

/-- IDCODE (R443). -/
def execIdcode (s : State) : Host.Outcome State Fault Refusal :=
  done (let s := selectIr s 0x02
    { s with tap := { s.tap with dr := 0x24820A6F } })

/-- BYPASS: also any IR value outside the table. -/
def execBypass (s : State) : Host.Outcome State Fault Refusal := done (bypassDr (selectIr s 0xFF))

/-- Test-Logic-Reset: IDCODE is selected (log 25), and the hold of boundary scan ends in a warm reset (R349). -/
def execTapTestLogicReset (env : BootEnv) (s : State) : Host.Outcome State Fault Refusal :=
  done (
    let s := selectIr s 0x02
    if s.scrAux.scanHold then warmBoot env { s with scrAux := { s.scrAux with scanHold := false } } else s)

/-- The debug port answers: the Keep die runs a boot stage or firmware. -/
def debugUp (s : State) : Bool := s.pwr.rails && s.boot.phase != .off && s.boot.phase != .hold

/-- DBG_NONCE (R308, R350): a read issues a nonce, which waits while the Keep DRBG does not serve. -/
def execDbgNonce (s : State) : Host.Outcome State Fault Refusal :=
  done (
    let s := selectIr s 0x40
    if !debugUp s then s
    else if drbgServes s 8 then debugNonce s
    else { s with ofc := { s.ofc with waiting := if bit s.ofc.waiting 1 then s.ofc.waiting else s.ofc.waiting + 2 } })

/-- A state accepts a token of a signer and level (R351). -/
def tokenAllowed (lc signer level : Nat) : Bool :=
  if lc = lcTest ∨ lc = lcAnalysis then signer == 1 && level == 2
  else if lc = lcMinted ∨ lc = lcScrap then signer == 1 && level == 1
  else if lc = lcEnrolled ∨ lc = lcField then signer == 2 && level == 1
  else false

/-- Key of a token's signer: the Masidric manufacturing key, or an OEM root that is enrolled and not revoked. -/
def tokenKey (s : State) (signer root : Nat) : Option Bytes :=
  if signer = 1 then some Config.manufacturingKey
  else if signer = 2 ∧ root < 4 ∧ s.lc.otp.enrolled.getLsbD root ∧ !s.lc.otp.revoked.getLsbD root then
    some (Map.get [] s.lc.otp.rootKey root)
  else none

/-- An entry of the nonce table holds an outstanding nonce. -/
def nonceOf (s : State) (v : BitVec 64) : Option Nat := (s.ofc.nonces.find? (fun x => x.2.on && x.2.val == v)).map (fun x => x.1)

/-- Consume a nonce. -/
def consumeNonce (s : State) (k : Nat) : State := { s with ofc := { s.ofc with nonces := Map.set {} s.ofc.nonces k {} } }

/-- The checks of R350 on a token, with the table entry of its nonce. -/
def tokenEntry (s : State) (t : Bytes) : Option Nat :=
  let level := fieldLe t 2 1
  let signer := fieldLe t 3 1
  let root := fieldLe t 4 1
  let sound := t.length == 120 && fieldLe t 0 2 == 120 && fieldLe t 8 8 == Config.unitSerial.toNat && tokenAllowed (lcCode s) signer level
  match nonceOf s (BitVec.ofNat 64 (fieldLe t 16 8)), tokenKey s signer root with
  | some k, some key => if sound && verify384 key (slice t 24 96) (t.take 24) then some k else none
  | _, _ => none

/-- DBG_AUTH (R350): acceptance consumes the nonce, posts a tally entry and sets the level; a failure sets DBG_STAT[2]. -/
def execDbgAuth (token : Bytes) (s : State) : Host.Outcome State Fault Refusal :=
  done (
    let s := selectIr s 0x41
    if !debugUp s then s
    else
      match tokenEntry s token with
      | none => { s with tap := { s.tap with denied := true } }
      | some k =>
        let level := fieldLe token 2 1
        let s := consumeNonce s k
        let s := Tal.post s {
          code := 0x0103
          detail := BitVec.ofNat 16 level
          data := (token.drop 3).take 2 }
        { s with tap := { s.tap with level := level, denied := false } })

/-- One debug read: 32 bits of memory or a register (R351). -/
def debugRead (s : State) (a : Nat) : Word × State :=
  match placeSys a with
  | .mem a =>
    let (bs, s) := memRead s (clsCodeOf .debug) a 4
    (w32 (ofLe bs), s)
  | p => regRead s .debug p

/-- DEBUG_ACCESS (R351): DBG_ADDR with start makes one access as class DEBUG. A read held at an uncorrectable line is made again when the
line is resolved (R261). -/
def execDebugAccess (addr : BitVec 42) (data : Word) (s : State) : Host.Outcome State Fault Refusal :=
  done (
    let s := selectIr s 0x42
    let a := addr.toNat % 2 ^ 40
    let write := addr.getLsbD 40
    let deny (s : State) : State :=
      { s with tap := { s.tap with denied := true, data := if write then s.tap.data else 0 } }
    if !debugUp s || !addr.getLsbD 41 || a % 4 != 0 then s
    else if !write && gateAllows s .debug a false && !(memUnread s a 4).isEmpty then holdReads s (memUnread s a 4) .warden
    else if !dieAnswers s a || dieGated s a then deny s
    else
      match gatePass s .debug a write with
      | (false, s) => deny s
      | (true, s) =>
        let s := { s with tap := { s.tap with denied := false } }
        if write then
          let s := regWrite s (placeSys a) data
          { s with tap := { s.tap with data := data } }
        else
          let (v, s) := debugRead s a
          { s with tap := { s.tap with data := v } })

end Sys2Proof.Machine
end

