-- ==== Sys2Proof/Machine/CryptoPq.lean ====
section
/-! DEFINITION. The lattice schemes: ML-KEM-768 and -1024 (FIPS 203), ML-DSA-65 and -87 (FIPS 204), and the ring
primitives of R205, as the standards that the spec names give them (PRESUMED, log 10). A polynomial is a list of 256
coefficients below q. -/

namespace Sys2Proof.Ring

open Sys2Proof Sys2Proof.Bits

/-- Reverse the n low bits. -/
def brv : Nat → Nat → Nat
  | 0, _ => 0
  | n + 1, x => x % 2 * 2 ^ n + brv n (x / 2)

abbrev Poly := List Nat

def addP (q : Nat) (a b : Poly) : Poly := List.zipWith (fun x y => (x + y) % q) a b

def subP (q : Nat) (a b : Poly) : Poly := List.zipWith (fun x y => (x + (q - y % q)) % q) a b

/-- Pieces of n coefficients. -/
def pieces (n : Nat) : Nat → Poly → List Poly
  | 0, _ => []
  | f + 1, p => if p.isEmpty then [] else p.take n :: pieces n f (p.drop n)

/-- One forward layer with butterflies of span `len`; the first butterfly takes twiddle number i. -/
def layer (q : Nat) (zeta : Nat → Nat) (len i : Nat) (p : Poly) : Poly :=
  ((pieces (2 * len) 256 p).zipIdx i).flatMap (fun x =>
    let lo := x.1.take len
    let t := (x.1.drop len).map (fun v => zeta x.2 * v % q)
    addP q lo t ++ subP q lo t)

/-- One inverse layer; the first butterfly takes twiddle number i, the next i - 1. -/
def invLayer (q : Nat) (zeta : Nat → Nat) (len i : Nat) (p : Poly) : Poly :=
  ((pieces (2 * len) 256 p).zipIdx 0).flatMap (fun x =>
    let lo := x.1.take len
    let hi := x.1.drop len
    addP q lo hi ++ (subP q hi lo).map (fun v => zeta (i - x.2) * v % q))

def zeros256 : Poly := List.replicate 256 0

/-! ### ML-KEM ring -/

def qk : Nat := 3329

def powSmall (q a : Nat) : Nat → Nat
  | 0 => 1
  | n + 1 => a * powSmall q a n % q

def zetaK (i : Nat) : Nat := powSmall qk 17 (brv 7 i)

def nttK (p : Poly) : Poly :=
  [(128, 1), (64, 2), (32, 4), (16, 8), (8, 16), (4, 32), (2, 64)].foldl (fun p x => layer qk zetaK x.1 x.2 p) p

def inttK (p : Poly) : Poly :=
  ([(2, 127), (4, 63), (8, 31), (16, 15), (32, 7), (64, 3), (128, 1)].foldl
    (fun p x => invLayer qk zetaK x.1 x.2 p) p).map (fun v => v * 3303 % qk)

/-- Product in the NTT domain: 128 products modulo X^2 - 17^(2 brv(i) + 1). -/
def mulK (a b : Poly) : Poly :=
  (List.range 128).flatMap (fun i =>
    let a0 := a.getD (2 * i) 0
    let a1 := a.getD (2 * i + 1) 0
    let b0 := b.getD (2 * i) 0
    let b1 := b.getD (2 * i + 1) 0
    let g := powSmall qk 17 (2 * brv 7 i + 1)
    [(a0 * b0 + a1 * b1 % qk * g) % qk, (a0 * b1 + a1 * b0) % qk])

/-! ### ML-DSA ring -/

def qd : Nat := 8380417

/-- a ^ n mod q by squaring over the 8 low bits of n, highest first. -/
def pow8 (q a n : Nat) : Nat :=
  (List.range 8).foldl (fun r i => let s := r * r % q; if bit n (7 - i) then s * a % q else s) 1

def zetaD (i : Nat) : Nat := pow8 qd 1753 (brv 8 i)

def nttD (p : Poly) : Poly :=
  [(128, 1), (64, 2), (32, 4), (16, 8), (8, 16), (4, 32), (2, 64), (1, 128)].foldl
    (fun p x => layer qd zetaD x.1 x.2 p) p

/-- The inverse transform; FIPS 204 writes the same butterfly as zeta' (lo - hi) with zeta' = -zeta. -/
def inttD (p : Poly) : Poly :=
  ([(1, 255), (2, 127), (4, 63), (8, 31), (16, 15), (32, 7), (64, 3), (128, 1)].foldl
    (fun p x => invLayer qd zetaD x.1 x.2 p) p).map (fun v => v * 8347681 % qd)

def mulD (a b : Poly) : Poly := List.zipWith (fun x y => x * y % qd) a b

/-! ### Packing -/

/-- Pack coefficients of d bits each, little-endian bit order. -/
def pack (d : Nat) (p : Poly) : Bytes :=
  le (32 * d) ((p.reverse).foldl (fun acc v => acc * 2 ^ d + v % 2 ^ d) 0)

/-- Unpack 256 coefficients of d bits. -/
def unpack (d : Nat) (bs : Bytes) : Poly :=
  let v := ofLe (fit (32 * d) bs)
  (List.range 256).map (fun i => v / 2 ^ (d * i) % 2 ^ d)

end Sys2Proof.Ring

namespace Sys2Proof.MlKem

open Sys2Proof Sys2Proof.Bits Sys2Proof.Ring

/-- Parameters: module rank, and the two compression widths. -/
structure Par where
  k : Nat
  du : Nat
  dv : Nat

def par (p1024 : Bool) : Par := if p1024 then ⟨4, 11, 5⟩ else ⟨3, 10, 4⟩

/-- Rejection sampling of NTT coefficients from a byte stream. -/
def rejNtt : Nat → Bytes → Poly → Poly
  | 0, _, acc => acc
  | f + 1, bs, acc =>
    let b1 := (byteAt bs 1).toNat
    let d1 := (byteAt bs 0).toNat + 256 * (b1 % 16)
    let d2 := b1 / 16 + 16 * (byteAt bs 2).toNat
    let acc := if d1 < qk ∧ acc.length < 256 then acc ++ [d1] else acc
    let acc := if d2 < qk ∧ acc.length < 256 then acc ++ [d2] else acc
    if acc.length < 256 then rejNtt f (bs.drop 3) acc else acc

/-- Matrix element A[i][j] from rho; 1,344 bytes of the XOF are read. -/
def sampleNtt (rho : Bytes) (i j : Nat) : Poly :=
  (rejNtt 448 (Hash.shake128 (rho ++ [BitVec.ofNat 8 j, BitVec.ofNat 8 i]) 1344) [] ++ zeros256).take 256

/-- Centred binomial sampling with eta = 2. -/
def cbd (bs : Bytes) : Poly :=
  let v := ofLe bs
  (List.range 256).map (fun i =>
    (b2n (bit v (4 * i)) + b2n (bit v (4 * i + 1)) + qk - b2n (bit v (4 * i + 2)) - b2n (bit v (4 * i + 3))) % qk)

def noise (seed : Bytes) (n : Nat) : Poly := cbd (Hash.shake256 (seed ++ [BitVec.ofNat 8 n]) 128)

def compress (d v : Nat) : Nat := (v * 2 ^ (d + 1) + qk) / (2 * qk) % 2 ^ d

def decompress (d v : Nat) : Nat := (v * qk * 2 + 2 ^ d) / 2 ^ (d + 1)

def sum (ps : List Poly) : Poly := ps.foldl (addP qk) zeros256

/-- Deterministic key generation of the underlying scheme: encryption key and secret vector bytes. -/
def pkeKeygen (par : Par) (d : Bytes) : Bytes × Bytes :=
  let g := Hash.hash (.sha3 512) (d ++ [BitVec.ofNat 8 par.k])
  let rho := g.take 32
  let sigma := g.drop 32
  let s := (List.range par.k).map (fun n => nttK (noise sigma n))
  let e := (List.range par.k).map (fun n => nttK (noise sigma (par.k + n)))
  let t := (List.range par.k).map (fun i =>
    addP qk (sum (s.zipIdx.map (fun x => mulK (sampleNtt rho i x.2) x.1))) (e.getD i []))
  (t.flatMap (pack 12) ++ rho, s.flatMap (pack 12))

def polysOf (par : Par) (d : Nat) (bs : Bytes) : List Poly :=
  (List.range par.k).map (fun i => unpack d (slice bs (32 * d * i) (32 * d)))

def pkeEncrypt (par : Par) (ek m r : Bytes) : Bytes :=
  let t := polysOf par 12 ek
  let rho := ek.drop (384 * par.k)
  let y := (List.range par.k).map (fun n => nttK (noise r n))
  let u := (List.range par.k).map (fun i =>
    addP qk (inttK (sum (y.zipIdx.map (fun x => mulK (sampleNtt rho x.2 i) x.1)))) (noise r (par.k + i)))
  let mu := (unpack 1 m).map (decompress 1)
  let v := addP qk (addP qk (inttK (sum (List.zipWith mulK t y))) (noise r (2 * par.k))) mu
  u.flatMap (fun p => pack par.du (p.map (compress par.du))) ++ pack par.dv (v.map (compress par.dv))

def pkeDecrypt (par : Par) (dk c : Bytes) : Bytes :=
  let u := (polysOf par par.du c).map (fun p => p.map (decompress par.du))
  let v := (unpack par.dv (c.drop (32 * par.du * par.k))).map (decompress par.dv)
  let s := polysOf par 12 dk
  let w := subP qk v (inttK (sum (List.zipWith (fun a b => mulK a (nttK b)) s u)))
  pack 1 (w.map (compress 1))

/-- Key generation from seeds d and z: encapsulation key and decapsulation key. -/
def keygen (par : Par) (d z : Bytes) : Bytes × Bytes :=
  let r := pkeKeygen par d
  (r.1, r.2 ++ r.1 ++ Hash.hash (.sha3 256) r.1 ++ z)

/-- The modulus check of an encapsulation key. -/
def ekOk (par : Par) (ek : Bytes) : Bool :=
  decide (ek.length = 384 * par.k + 32) && (polysOf par 12 ek).all (fun p => p.all (fun v => decide (v < qk)))

/-- Encapsulation with message m: shared key and ciphertext. -/
def encaps (par : Par) (ek m : Bytes) : Bytes × Bytes :=
  let g := Hash.hash (.sha3 512) (m ++ Hash.hash (.sha3 256) ek)
  (g.take 32, pkeEncrypt par ek m (g.drop 32))

/-- Decapsulation, with implicit rejection. -/
def decaps (par : Par) (dk c : Bytes) : Bytes :=
  let dkP := dk.take (384 * par.k)
  let ek := slice dk (384 * par.k) (384 * par.k + 32)
  let h := slice dk (768 * par.k + 32) 32
  let z := slice dk (768 * par.k + 64) 32
  let m := pkeDecrypt par dkP c
  let g := Hash.hash (.sha3 512) (m ++ h)
  if pkeEncrypt par ek m (g.drop 32) = c then g.take 32 else Hash.shake256 (z ++ c) 32

end Sys2Proof.MlKem

namespace Sys2Proof.MlDsa

open Sys2Proof Sys2Proof.Bits Sys2Proof.Ring

/-- Parameters of FIPS 204. -/
structure Par where
  k : Nat
  l : Nat
  eta : Nat
  tau : Nat
  lambda : Nat
  omega : Nat

def par (p87 : Bool) : Par := if p87 then ⟨8, 7, 2, 60, 256, 75⟩ else ⟨6, 5, 4, 49, 192, 55⟩

def gamma1 : Nat := 2 ^ 19
def gamma2 : Nat := (qd - 1) / 32
def beta (p : Par) : Nat := p.tau * p.eta

def rejPoly : Nat → Bytes → Poly → Poly
  | 0, _, acc => acc
  | f + 1, bs, acc =>
    let v := (byteAt bs 0).toNat + 256 * (byteAt bs 1).toNat + 65536 * ((byteAt bs 2).toNat % 128)
    let acc := if v < qd then acc ++ [v] else acc
    if acc.length < 256 then rejPoly f (bs.drop 3) acc else acc

/-- Matrix element; 1,344 bytes of the XOF are read. -/
def matA (rho : Bytes) (r s : Nat) : Poly :=
  (rejPoly 448 (Hash.shake128 (rho ++ [BitVec.ofNat 8 s, BitVec.ofNat 8 r]) 1344) [] ++ zeros256).take 256

/-- The small coefficient of a nibble, none when rejected; as a residue modulo q. -/
def nibCoeff (eta z : Nat) : Option Nat :=
  if eta = 2 then (if z < 15 then some ((qd + 2 - z % 5) % qd) else none)
  else (if z < 9 then some ((qd + 4 - z) % qd) else none)

def rejBounded (eta : Nat) (rho : Bytes) (n : Nat) : Poly :=
  let ns := (Hash.shake256 (rho ++ le 2 n) 1088).flatMap (fun b => [b.toNat % 16, b.toNat / 16])
  (ns.filterMap (nibCoeff eta) ++ zeros256).take 256

/-- Centred representative: value in (-q/2, q/2]. -/
def centre (v : Nat) : Int := if v ≤ qd / 2 then (v : Int) else (v : Int) - qd

def ofInt (v : Int) : Nat := (v % (qd : Int)).toNat

def normOk (bound : Nat) (p : Poly) : Bool := p.all (fun v => decide ((centre v).natAbs < bound))

/-- Power2Round with d = 13. -/
def power2 (r : Nat) : Nat × Nat :=
  let m := r % 8192
  let r0 : Int := if m ≤ 4096 then (m : Int) else (m : Int) - 8192
  ((((r : Int) - r0) / 8192).toNat, ofInt r0)

/-- Decompose by 2 gamma2: high part and signed low part. -/
def decompose (r : Nat) : Nat × Int :=
  let m := r % (2 * gamma2)
  let r0 : Int := if m ≤ gamma2 then (m : Int) else (m : Int) - 2 * gamma2
  if (r : Int) - r0 = qd - 1 then (0, r0 - 1) else ((((r : Int) - r0) / (2 * gamma2)).toNat, r0)

def highBits (r : Nat) : Nat := (decompose r).1

def lowBits (r : Nat) : Nat := ofInt (decompose r).2

def useHint (h : Bool) (r : Nat) : Nat :=
  let d := decompose r
  if h then (if 0 < d.2 then (d.1 + 1) % 16 else (d.1 + 15) % 16) else d.1

/-- Pack a - v in d bits each. -/
def packSigned (d a : Nat) (p : Poly) : Bytes := pack d (p.map (fun v => ofInt ((a : Int) - centre v)))

def unpackSigned (d a : Nat) (bs : Bytes) : Poly := (unpack d bs).map (fun v => ofInt ((a : Int) - v))

def sum (ps : List Poly) : Poly := ps.foldl (addP qd) zeros256

def polysOf (n d : Nat) (bs : Bytes) (f : Bytes → Poly) : List Poly :=
  (List.range n).map (fun i => f (slice bs (32 * d * i) (32 * d)))

/-- Row i of A times a vector in the NTT domain. -/
def rowMul (rho : Bytes) (i : Nat) (v : List Poly) : Poly :=
  sum (v.zipIdx.map (fun x => mulD (matA rho i x.2) x.1))

def etaBits (p : Par) : Nat := if p.eta = 2 then 3 else 4

/-- Key generation from the seed: public key and private key. -/
def keygen (p : Par) (xi : Bytes) : Bytes × Bytes :=
  let h := Hash.shake256 (xi ++ [BitVec.ofNat 8 p.k, BitVec.ofNat 8 p.l]) 128
  let rho := h.take 32
  let rho' := slice h 32 64
  let kk := h.drop 96
  let s1 := (List.range p.l).map (rejBounded p.eta rho')
  let s2 := (List.range p.k).map (fun r => rejBounded p.eta rho' (r + p.l))
  let s1h := s1.map nttD
  let t := (List.range p.k).map (fun i => addP qd (inttD (rowMul rho i s1h)) (s2.getD i []))
  let pk := rho ++ t.flatMap (fun x => pack 10 (x.map (fun v => (power2 v).1)))
  let sk := rho ++ kk ++ Hash.shake256 pk 64 ++ s1.flatMap (packSigned (etaBits p) p.eta) ++
    s2.flatMap (packSigned (etaBits p) p.eta) ++
    t.flatMap (fun x => packSigned 13 4096 (x.map (fun v => (power2 v).2)))
  (pk, sk)

/-- One position of the challenge: the next byte not above i, and the rest of the stream. -/
def nextBelow : Nat → Nat → Bytes → Nat × Bytes
  | 0, _, bs => (0, bs)
  | f + 1, i, bs => if (byteAt bs 0).toNat ≤ i then ((byteAt bs 0).toNat, bs.drop 1) else nextBelow f i (bs.drop 1)

/-- The challenge polynomial; 1,088 bytes of the XOF are read. -/
def sampleInBall (p : Par) (rho : Bytes) : Poly :=
  let s := Hash.shake256 rho 1088
  let signs := ofLe (s.take 8)
  ((List.range p.tau).foldl (fun (st : Poly × Bytes) t =>
    let i := 256 - p.tau + t
    let jb := nextBelow 1088 i st.2
    let c := st.1.set i (st.1.getD jb.1 0)
    (c.set jb.1 (if bit signs t then qd - 1 else 1), jb.2)) (zeros256, s.drop 8)).1

def w1Encode (w : List Poly) : Bytes := w.flatMap (pack 4)

/-- Hints of a vector as positions and running totals (HintBitPack). -/
def hintPack (p : Par) (h : List (List Bool)) : Bytes :=
  let pos := h.map (fun r => (List.range 256).filter (fun j => r.getD j false))
  let tot := (List.range p.k).map (fun i => ((pos.take (i + 1)).map List.length).sum)
  fit p.omega (pos.flatten.map (BitVec.ofNat 8)) ++ tot.map (BitVec.ofNat 8)

/-- Positions strictly rising. -/
def rising : List Nat → Bool
  | a :: b :: r => decide (a < b) && rising (b :: r)
  | _ => true

/-- HintBitUnpack: none where the encoding is malformed. -/
def hintUnpack (p : Par) (bs : Bytes) : Option (List (List Bool)) :=
  let tot := 0 :: (List.range p.k).map (fun i => (byteAt bs (p.omega + i)).toNat)
  let segs := (List.range p.k).map (fun i =>
    (slice bs (tot.getD i 0) (tot.getD (i + 1) 0 - tot.getD i 0)).map BitVec.toNat)
  let okTot := (List.range p.k).all (fun i => decide (tot.getD i 0 ≤ tot.getD (i + 1) 0) &&
    decide (tot.getD (i + 1) 0 ≤ p.omega))
  let last := tot.getD p.k 0
  if okTot && segs.all rising && allZero ((bs.take p.omega).drop last) then
    some (segs.map (fun seg => (List.range 256).map (fun j => seg.contains j)))
  else none

/-- One attempt of the signing loop at counter kappa: the signature, or none when it is rejected. -/
def attempt (p : Par) (rho mu rho2 : Bytes) (s1h s2h t0h : List Poly) (kappa : Nat) : Option Bytes :=
  let y := (List.range p.l).map (fun r => unpackSigned 20 gamma1 (Hash.shake256 (rho2 ++ le 2 (kappa + r)) 640))
  let yh := y.map nttD
  let w := (List.range p.k).map (fun i => inttD (rowMul rho i yh))
  let ct := Hash.shake256 (mu ++ w1Encode (w.map (fun x => x.map highBits))) (p.lambda / 4)
  let ch := nttD (sampleInBall p ct)
  let z := List.zipWith (fun a s => addP qd a (inttD (mulD ch s))) y s1h
  let wc := List.zipWith (fun a s => subP qd a (inttD (mulD ch s))) w s2h
  let ct0 := t0h.map (fun t => inttD (mulD ch t))
  let h := List.zipWith (fun (a b : Poly) => List.zipWith (fun x y => decide (highBits x ≠ highBits ((x + y) % qd))) a b)
    wc ct0
  if z.all (normOk (gamma1 - beta p)) && wc.all (fun x => normOk (gamma2 - beta p) (x.map lowBits)) &&
      ct0.all (normOk gamma2) && decide ((h.map (fun r => r.countP id)).sum ≤ p.omega) then
    some (ct ++ z.flatMap (packSigned 20 gamma1) ++ hintPack p h)
  else none

/-- The signing loop; `fuel` bounds the attempts. -/
def signLoop (p : Par) (rho mu rho2 : Bytes) (s1h s2h t0h : List Poly) : Nat → Nat → Bytes
  | 0, _ => []
  | f + 1, kappa =>
    match attempt p rho mu rho2 s1h s2h t0h kappa with
    | some sig => sig
    | none => signLoop p rho mu rho2 s1h s2h t0h f (kappa + p.l)

/-- Message representative. -/
def mu (tr ctx msg : Bytes) : Bytes := Hash.shake256 (tr ++ [0, BitVec.ofNat 8 ctx.length] ++ ctx ++ msg) 64

/-- Sign a message representative with randomizer rnd. -/
def sign (p : Par) (sk muv rnd : Bytes) : Bytes :=
  let eb := 32 * etaBits p
  let rho := sk.take 32
  let s1 := polysOf p.l (etaBits p) (sk.drop 128) (unpackSigned (etaBits p) p.eta)
  let s2 := polysOf p.k (etaBits p) (sk.drop (128 + eb * p.l)) (unpackSigned (etaBits p) p.eta)
  let t0 := polysOf p.k 13 (sk.drop (128 + eb * (p.l + p.k))) (unpackSigned 13 4096)
  let rho2 := Hash.shake256 (slice sk 32 32 ++ rnd ++ muv) 64
  signLoop p rho muv rho2 (s1.map nttD) (s2.map nttD) (t0.map nttD) 1000 0

def trOf (pk : Bytes) : Bytes := Hash.shake256 pk 64

/-- Verify a signature of a message representative. -/
def verify (p : Par) (pk sig muv : Bytes) : Bool :=
  let lam := p.lambda / 4
  let rho := pk.take 32
  let t1 := polysOf p.k 10 (pk.drop 32) (unpack 10)
  let ct := sig.take lam
  let z := polysOf p.l 20 (sig.drop lam) (unpackSigned 20 gamma1)
  match hintUnpack p (sig.drop (lam + 640 * p.l)) with
  | none => false
  | some h =>
    let ch := nttD (sampleInBall p ct)
    let zh := z.map nttD
    let w := (List.range p.k).map (fun i =>
      inttD (subP qd (rowMul rho i zh) (mulD ch (nttD ((t1.getD i []).map (fun v => v * 8192 % qd))))))
    let w1 := List.zipWith (fun (a : List Bool) (b : Poly) => List.zipWith useHint a b) h w
    decide (sig.length = lam + 640 * p.l + p.omega + p.k) && z.all (normOk (gamma1 - beta p)) &&
      decide (ct = Hash.shake256 (muv ++ w1Encode w1) lam)

end Sys2Proof.MlDsa
end

