-- ==== Sys2Proof/Machine/AsymOps.lean ====
section
/-! DEFINITION. Asymmetric and lattice keys as records and operand memory hold them, and the operations on them that the functions of
R100 and the engines of R205 share (03_payment_functions.md R100 to R102; 08_bignum_engine.md R199, R201, R205, R206). -/

set_option linter.unusedVariables false

namespace Sys2Proof.Machine

open Sys2Proof Sys2Proof.Bits

/-! ### Key layouts (R201) -/

/-- Modulus bytes of an RSA key by its stored length: n, e, then five parts of ceil(k / 16) words. -/
def rsaModLen (total : Nat) : Nat := if (total - 8) % 56 = 0 then 16 * ((total - 8) / 56) else 16 * ((total - 56) / 56) + 8

/-- Words and labels of the slots of a key, in order. -/
def keyLayout (alg : Byte) (total : Nat) : List (Nat × Label) :=
  match alg.toNat with
  | 0x10 => [(4, .k), (8, .p)]
  | 0x11 => [(6, .k), (12, .p)]
  | 0x12 => [(9, .k), (18, .p)]
  | 0x13 => [(4, .k), (4, .k), (4, .p)]
  | 0x20 => [(300, .k)]
  | 0x21 => [(396, .k)]
  | 0x30 => [(504, .k), (244, .p)]
  | 0x31 => [(612, .k), (324, .p)]
  | 0x40 =>
    let k := rsaModLen total
    let h := (k + 15) / 16
    [(k / 8, .p), (1, .p), (h, .k), (h, .k), (h, .k), (h, .k), (h, .k)]
  | _ => []

/-- Cut bytes into pieces of the given words. -/
def cutWords : List Nat → Bytes → List Bytes
  | [], _ => []
  | n :: r, b => fit (8 * n) (b.take (8 * n)) :: cutWords r (b.drop (8 * n))

/-- The slots of a stored key. -/
def keyParts (alg : Byte) (key : Bytes) : List Bytes := cutWords ((keyLayout alg key.length).map (·.1)) key

/-- Part i of a key. -/
def partAt (ps : List Bytes) (i : Nat) : Bytes := ps.getD i []

/-- An integer of n words in word form. -/
def wordForm (n v : Nat) : Bytes := le (8 * n) v

/-! ### Curves -/

/-- The curve of an algorithm code. -/
def curveOf (alg : Byte) : Option Ec.Curve :=
  if alg = Alg.p256 then some Ec.p256 else if alg = Alg.p384 then some Ec.p384 else if alg = Alg.p521 then some Ec.p521 else none

/-- Words of a coordinate: 4, 6 or 9. -/
def curveWords (c : Ec.Curve) : Nat := (c.len + 7) / 8

/-- X then Y in word form; the point at infinity is all zeros. -/
def pointWords (c : Ec.Curve) (p : Ec.Pt) : Bytes :=
  match p with
  | none => zeros (16 * curveWords c)
  | some (x, y) => wordForm (curveWords c) x ++ wordForm (curveWords c) y

/-- The point of X then Y, when it lies on the curve and is not the all-zero encoding. -/
def wordsPoint (c : Ec.Curve) (b : Bytes) : Option (Nat × Nat) :=
  let n := 8 * curveWords c
  let x := ofLe (slice b 0 n)
  let y := ofLe (slice b n n)
  if (x ≠ 0 ∨ y ≠ 0) ∧ Ec.onCurve c x y then some (x, y) else none

/-! ### Random values (R69) -/

/-- A value in [1, n - 1] from a barn's DRBG: 64 bits more than n has, reduced (PRESUMED, log 10). -/
def randomBelow (s : State) (b n : Nat) : Nat × State :=
  let (r, s) := drbgGen s b ((Nat.log2 n + 1 + 64 + 7) / 8)
  (ofBe r % (n - 1) + 1, s)

/-- An ECDSA signature with nonces from the barn's DRBG: a nonce that gives r or s zero is drawn again, four times at most. -/
def ecdsaSign (c : Ec.Curve) (d : Nat) (digest : Bytes) : Nat → State → Nat → (Nat × Nat) × State
  | 0, s, _ => ((0, 0), s)
  | n + 1, s, b =>
    let (k, s) := randomBelow s b c.n
    match Ec.sign c d k digest with
    | some r => (r, s)
    | none => ecdsaSign c d digest n s b

/-- A prime of `bits` bits with its two top bits set, p - 1 prime to e (PRESUMED, log 10). -/
def randomPrime (s : State) (b bits e : Nat) : Nat × State :=
  let (r, s) := drbgGen s b (bits / 8)
  let v := Nat.lor (Nat.lor (ofBe r) (3 * 2 ^ (bits - 2))) 1
  (Num.nextPrime e (64 * bits) v % 2 ^ bits, s)

/-! ### Key generation (R205) -/

/-- A new key pair of an algorithm: the private key in the stored form of R201, the public key in the encoding of R100. -/
def generateKey (s : State) (b : Nat) (alg : Byte) (modBits exponent : Nat) : Bytes × Bytes × State :=
  match curveOf alg with
  | some c =>
    let (d, s) := randomBelow s b c.n
    let q := Ec.smul c d (Ec.base c)
    (wordForm (curveWords c) d ++ pointWords c q, Ec.encode c q, s)
  | none =>
    if alg = Alg.ed25519 then
      let (seed, s) := drbgGen s b 32
      let h := Hash.sha512 seed
      let a := Ed.encode (Ed.smul (Ed.clamp h) Ed.base)
      (le 32 (Ed.clamp h) ++ h.drop 32 ++ a, a, s)
    else if Alg.isMlkem alg then
      let (r, s) := drbgGen s b 64
      let (ek, dk) := MlKem.keygen (MlKem.par (alg == Alg.mlkem1024)) (r.take 32) (r.drop 32)
      (dk, ek, s)
    else if Alg.isMldsa alg then
      let (r, s) := drbgGen s b 32
      let (pk, sk) := MlDsa.keygen (MlDsa.par (alg == Alg.mldsa87)) r
      (sk ++ pk, pk, s)
    else
      let (p, s) := randomPrime s b (modBits / 2) exponent
      let (q, s) := randomPrime s b (modBits / 2) exponent
      let h := (modBits / 8 + 15) / 16
      let key := wordForm (modBits / 64) (p * q) ++ wordForm 1 exponent ++ wordForm h p ++ wordForm h q ++
        wordForm h (Num.invGeneral exponent (p - 1)) ++ wordForm h (Num.invGeneral exponent (q - 1)) ++
        wordForm h (Num.invMod q p)
      (key, be (modBits / 8) (p * q) ++ be 4 exponent, s)

/-- Hash bytes of R100. -/
def signHash (b : Byte) : Option Hash.Alg :=
  if [0x01, 0x02, 0x03, 0x11, 0x12, 0x13].contains b.toNat then Hash.ofByte b.toNat else none

/-! ### RSA (R100, R102) -/

/-- The RSA signature of a digest: none where the encoding does not fit or its value lies outside [1, n - 1]. -/
def rsaSignDigest (key : Bytes) (a : Hash.Alg) (pss : Bool) (digest salt : Bytes) : Option Bytes :=
  let ps := keyParts Alg.rsa key
  let v (i : Nat) : Nat := ofLe (partAt ps i)
  let n := v 0
  let k := rsaModLen key.length
  let em := if pss then Rsa.emsaPss a digest salt (Nat.log2 n + 1) else Rsa.emsaPkcs1 a digest k
  match em with
  | none => none
  | some e =>
    let m := ofBe e
    if m = 0 ∨ n ≤ m then none else some (be k (Rsa.crt m (v 2) (v 3) (v 4) (v 5) (v 6)))

/-- The checks of an RSA public key and signature (R102, R206). -/
def rsaPublicStatus (n e sig : Nat) : Status :=
  if n % 2 = 0 ∨ e % 2 = 0 ∨ e < 3 then St.badFormat
  else if sig = 0 ∨ n ≤ sig then St.degenerate
  else St.ok

/-- Whether a signature opens to the encoding of a digest; `salts` are the salt lengths accepted. -/
def rsaOpens (n e k sig : Nat) (a : Hash.Alg) (pss : Bool) (digest : Bytes) (salts : List Nat) : Bool :=
  let m := Num.powMod sig e n
  if pss then
    let bits := Nat.log2 n + 1
    salts.any (fun t => Rsa.pssVerify a digest (be ((bits + 6) / 8) m) bits t)
  else
    match Rsa.emsaPkcs1 a digest k with
    | some x => x == be k m
    | none => false

/-- Ed25519 verification with its statuses: POINT_INVALID, then SIGNATURE_INVALID (R102). -/
def edStatus (pub sig msg : Bytes) : Status :=
  if (Ed.decode pub).isNone then St.pointInvalid
  else if sig.length = 64 ∧ Ed.canonical (sig.take 32) ∧ Ed.verify pub sig msg then St.ok
  else St.signatureInvalid

end Sys2Proof.Machine
end

