-- ==== Sys2Proof/Machine/Flags.lean ====
section
/-! DEFINITION. Knatrix arithmetic: results of the word, fixed-point, accumulator and decimal instructions with the overflow flag each
one sets (06_knatrix_isa.md R163, R168 to R170), and PIN-field checks (R79, R87, R96, R172). -/

set_option linter.unusedVariables false

namespace Sys2Proof.Machine

open Sys2Proof Sys2Proof.Bits

namespace Kx

/-! ### Word results -/

/-- Shift or rotate by 0 to 31: kind 0 SHL, 1 SHR, 2 SRA, 3 ROL. -/
def shift (kind : Nat) (a : Word) (n : Nat) : Word :=
  match kind with
  | 0 => a <<< n
  | 1 => a >>> n
  | 2 => a.sshiftRight n
  | _ => a.rotateLeft n

def slt (a b : Word) : Bool := decide (a.toInt < b.toInt)
def sltu (a b : Word) : Bool := decide (a.toNat < b.toNat)

def bool (b : Bool) : Word := if b then 1 else 0

/-- Leading zeros, 0 to 32. -/
def clz (a : Word) : Word :=
  BitVec.ofNat 32 (((List.range 32).takeWhile (fun i => !a.getLsbD (31 - i))).length)

/-- One bits. -/
def popc (a : Word) : Word := BitVec.ofNat 32 (((List.range 32).filter (fun i => a.getLsbD i)).length)

/-! ### Fixed point (R168) -/

/-- Bring an exact value into w bits: the nearer bound with saturation, else the low bits; the flag tells an out-of-range value. -/
def limit (w : Nat) (sat : Bool) (v : Int) : BitVec w × Bool :=
  let lo : Int := -(2 ^ (w - 1) : Nat)
  let hi : Int := (2 ^ (w - 1) : Nat) - 1
  if v < lo then (if sat then BitVec.ofInt w lo else BitVec.ofInt w v, true)
  else if hi < v then (if sat then BitVec.ofInt w hi else BitVec.ofInt w v, true)
  else (BitVec.ofInt w v, false)

/-- The Q1.63 product. -/
def mulf (sat : Bool) (a b : Word) : BitVec 64 × Bool := limit 64 sat (2 * a.toInt * b.toInt)

/-- Rounding modes of CTX_MODE[2:1]. -/
def roundQ (mode : BitVec 2) (acc : Int) (k : Nat) : Int :=
  let d : Int := (2 ^ k : Nat)
  let f := acc / d
  let r := acc - f * d
  match mode.toNat with
  | 1 => if d ≤ 2 * r then f + 1 else f
  | 2 => if d < 2 * r then f + 1 else if 2 * r = d then (if f % 2 = 0 then f else f + 1) else f
  | _ => f

/-- ACCEX (R169). -/
def accex (sat : Bool) (mode : BitVec 2) (acc : BitVec 72) (k : Nat) : Word × Bool := limit 32 sat (roundQ mode acc.toInt k)

/-! ### Decimal (R170) -/

/-- Decimal digits of a packed BCD word, least significant first. -/
def digits (a : Word) : List Nat := (List.range 8).map (fun i => bits a.toNat (4 * i + 3) (4 * i))

def isBcd (a : Word) : Bool := (digits a).all (· ≤ 9)

/-- Value of digits listed least significant first. -/
def decValue : List Nat → Nat
  | [] => 0
  | d :: r => d + 10 * decValue r

/-- Packed BCD of the low eight digits of a number. -/
def toBcd (n : Nat) : Word :=
  BitVec.ofNat 32 (((List.range 8).map (fun i => n / 10 ^ i % 10 * 16 ^ i)).sum)

def bcdBad : Word := 0xFFFFFFFF

def bcdAdd (a b : Word) : Word :=
  if isBcd a && isBcd b then toBcd (decValue (digits a) + decValue (digits b)) else bcdBad

def bcdSub (a b : Word) : Word :=
  if isBcd a && isBcd b then toBcd (decValue (digits a) + 10 ^ 8 - decValue (digits b)) else bcdBad

def bcdToBin (a : Word) : Word := if isBcd a then BitVec.ofNat 32 (decValue (digits a)) else bcdBad

def binToBcd (a : Word) : Word := if a.toNat < 10 ^ 8 then toBcd a.toNat else bcdBad

/-- One nibble of a decimal sum or difference. -/
def nibOp (sub : Bool) (a b : Nat) : Nat :=
  if 9 < a ∨ 9 < b then 0xF else if sub then (a + 10 - b) % 10 else (a + b) % 10

/-- A per-nibble function over bytes. -/
def mapNibs (f : Nat → Nat) (a : Bytes) : Bytes := ofNibs ((nibs a).map f)
def zipNibs (f : Nat → Nat → Nat) (a b : Bytes) : Bytes := ofNibs (List.zipWith f (nibs a) (nibs b))

/-- DADD and DSUB. -/
def nibWord (sub : Bool) (a b : Word) : Word :=
  BitVec.ofNat 32 (ofLe (zipNibs (nibOp sub) (le 4 a.toNat) (le 4 b.toNat)))

/-- DT nibble n. -/
def dtNib (dt : BitVec 64) (n : Nat) : Nat := nib (le 8 dt.toNat) n

/-- DTLOOK: each nibble replaced by its DT nibble. -/
def dtLook (dt : BitVec 64) (a : Word) : Word := BitVec.ofNat 32 (ofLe (mapNibs (dtNib dt) (le 4 a.toNat)))

/-! ### PIN fields and digit scanning -/

/-- The PIN length of a field that is well formed in a format (R79, R84, R172). -/
def pinLen (fmt : Nat) (b : Bytes) : Option Nat :=
  let l := nib b 1
  let fill (j : Nat) : Bool :=
    match fmt with
    | 0 => nib b j == 0xF
    | 1 => true
    | 3 => decide (0xA ≤ nib b j)
    | _ => nib b j == 0xA
  let ok := nib b 0 == fmt && decide (4 ≤ l) && decide (l ≤ 12) &&
    (List.range l).all (fun j => decide (nib b (2 + j) ≤ 9)) && (List.range (14 - l)).all (fun j => fill (2 + l + j))
  if ok then some l else none

/-- The scanning rule: n digits from nibbles 0 to 15, the decimal ones first, then the others minus 10 (R87, R96). -/
def scan (b : Bytes) (n : Nat) : List Nat :=
  let xs := (List.range 16).map (nib b)
  (xs.filter (· ≤ 9) ++ (xs.filter (9 < ·)).map (· - 10)).take n

/-- Digits as a word for output: digit 0 in the high nibble of byte 0, the rest 0xF (R160, R172). -/
def digitWord (ds : List Nat) : Word :=
  BitVec.ofNat 32 (ofLe (ofNibs ((List.range 8).map (fun j => ds.getD j 0xF))))

end Kx

end Sys2Proof.Machine
end

