-- ==== Sys2Proof/Machine/PayOps.lean ====
section
/-! DEFINITION. The computations of the payment functions on bytes: PIN blocks, PAN fields, verification methods, MACs, DUKPT, EMV
cryptograms and card verification values (03_payment_functions.md R79 to R96). The DUKPT derivations and EMV option B follow the standards
that the rules name (PRESUMED, log 10). -/

set_option linter.unusedVariables false

namespace Sys2Proof.Pay

open Sys2Proof Sys2Proof.Bits Sys2Proof.Machine

/-- The cipher of a TDES or AES algorithm code. -/
def cipherOf (alg : Byte) : Cipher.Alg := if Alg.isAes alg then .aes else .tdes

/-! ### PAN fields (R80) -/

/-- Digits of a PAN field of a PIN function; none when it is malformed. -/
def panDigits (b : Bytes) : Option (List Nat) :=
  let n := nib b 0 + 12
  let ds := (List.range n).map (fun j => nib b (1 + j))
  if nib b 0 ≤ 7 ∧ ds.all (· ≤ 9) ∧ (List.range (31 - n)).all (fun j => nib b (1 + n + j) == 0) then some ds else none

/-- The last n elements. -/
def lastN (n : Nat) (ds : List Nat) : List Nat := ds.drop (ds.length - n)

/-- The 8-byte PAN field of formats 0 and 3. -/
def panField8 (ds : List Nat) : Bytes :=
  let tail := lastN 12 ds.dropLast
  ofNibs ([0, 0, 0, 0] ++ List.replicate (12 - tail.length) 0 ++ tail)

/-! ### PIN blocks (R79, R84) -/

/-- The PIN field inside an encrypted block. -/
def pinField (fmt : Nat) (alg : Byte) (key blk pan16 : Bytes) : Bytes :=
  let c := cipherOf alg
  let p8 := panField8 ((panDigits pan16).getD [])
  match fmt with
  | 1 => Cipher.dec c key (blk.take 8)
  | 4 => Cipher.dec c key (xor (Cipher.dec c key blk) pan16)
  | _ => xor (Cipher.dec c key (blk.take 8)) p8

/-- The PIN of an encrypted block, when its field passes the format. -/
def pinOf (fmt : Nat) (alg : Byte) (key blk pan16 : Bytes) : Option (List Nat) :=
  let f := pinField fmt alg key blk pan16
  (Kx.pinLen fmt f).map (fun l => (List.range l).map (fun j => nib f (2 + j)))

/-- A PIN enciphered in a format; `rnd` is fresh random fill of 16 bytes. Random fill of format 3 takes 0xA to 0xF from each drawn byte
modulo 6 (PRESUMED, log 10). -/
def pinBlock (fmt : Nat) (alg : Byte) (key pan16 rnd : Bytes) (pin : List Nat) : Bytes :=
  let c := cipherOf alg
  let fill (j : Nat) : Nat :=
    match fmt with
    | 0 => 0xF
    | 1 => (byteAt rnd j).toNat % 16
    | 3 => 0xA + (byteAt rnd j).toNat % 6
    | _ => 0xA
  let head := [fmt, pin.length] ++ pin
  let field := ofNibs (head ++ (List.range (16 - head.length)).map fill)
  match fmt with
  | 1 => Cipher.enc c key field
  | 4 => Cipher.enc c key (xor (Cipher.enc c key (field ++ slice rnd 8 8)) pan16)
  | _ => Cipher.enc c key (xor field (panField8 ((panDigits pan16).getD [])))

/-- PIN formats (R81). -/
def fmtOk (f : Nat) : Bool := f == 0 || f == 1 || f == 3 || f == 4

/-- The permitted moves (R81). -/
def moveOk (i o : Nat) : Bool :=
  fmtOk i && fmtOk o && (o == 4 || (i != 4 && (o != 1 || i == 1)))

/-! ### Verification methods (R86, R87) -/

/-- The validation block: the PAN without its check digit, leftmost 16 digits, 0xF after them. -/
def validation (ds : List Nat) : Bytes :=
  let v := ds.dropLast.take 16
  ofNibs (v ++ List.replicate (16 - v.length) 0xF)

/-- Decimalized digits of an enciphered validation block. -/
def naturalPin (alg : Byte) (pvk v : Bytes) (table : BitVec 64) (n : Nat) : List Nat :=
  let i := if Alg.isAes alg then (Aes.encrypt pvk (v ++ zeros 8)).take 8 else Cipher.enc .tdes pvk v
  (List.range n).map (fun j => nib (le 8 table.toNat) (nib i j))

/-- The PIN verification value (R87). -/
def pvv (pvk : Bytes) (ds : List Nat) (pvki : Nat) (pin : List Nat) : List Nat :=
  Kx.scan (Cipher.enc .tdes pvk (ofNibs (lastN 11 ds.dropLast ++ [pvki] ++ pin.take 4))) 4

/-! ### MACs (R90) -/

/-- ISO 9797-1 padding by method. -/
def pad (method n : Nat) (msg : Bytes) : Bytes :=
  let m := if method = 2 then msg ++ [0x80] else msg
  let m := if m.isEmpty then zeros n else m
  m ++ zeros ((n - m.length % n) % n)

/-- A message that arrives padded has the declared padding: whole blocks, one at least, and under method 2 a last block that ends in 0x80
and zeros (R60, R107). -/
def paddedOk (method n : Nat) (msg : Bytes) : Bool :=
  decide (msg.length ≠ 0 ∧ msg.length % n = 0) &&
    (method != 2 || (let t := (msg.drop (msg.length - n)).reverse.dropWhile (· == 0); t.head? == some 0x80))

/-- A MAC by algorithm byte over a padded message, or over the message itself for CMAC. -/
def mac (algByte : Nat) (c : Cipher.Alg) (key msg : Bytes) : Bytes :=
  match algByte with
  | 6 => Cipher.cmac .aes key msg
  | 3 =>
    let n := msg.length - 8
    Cipher.enc .tdes key (xor (fit 8 (msg.drop n)) (Cipher.cbcMac .des (key.take 8) (zeros 8) (msg.take n)))
  | _ => Cipher.cbcMac c key (zeros (Cipher.blockLen c)) msg

/-! ### DUKPT (R91, R92) -/

/-- Bits set in a number of n bits. -/
def ones (n v : Nat) : Nat := ((List.range n).filter (bit v)).length

/-- TDES DUKPT counter of a 10-byte KSN. -/
def tdesCounter (ksn : Bytes) : Nat := ofBe (slice ksn 7 3) % 2 ^ 21

/-- AES DUKPT counter of a 12-byte KSN. -/
def aesCounter (ksn : Bytes) : Nat := ofBe (slice ksn 8 4)

def counterOk (aes : Bool) (ksn : Bytes) : Bool :=
  if aes then decide (aesCounter ksn ≠ 0 ∧ ones 32 (aesCounter ksn) ≤ 16)
  else decide (tdesCounter ksn ≠ 0 ∧ ones 21 (tdesCounter ksn) ≤ 10)

/-- The mask C0C0C0C0 00000000 twice. -/
def c0mask : Bytes := [0xC0, 0xC0, 0xC0, 0xC0, 0, 0, 0, 0, 0xC0, 0xC0, 0xC0, 0xC0, 0, 0, 0, 0]

/-- The 10-byte KSN with a counter in its low 21 bits. -/
def ksnWith (ksn : Bytes) (ctr : Nat) : Bytes := be 10 (ofBe (ksn.take 10) / 2 ^ 21 * 2 ^ 21 + ctr)

/-- The initial key of TDES DUKPT. -/
def tdesInitial (bdk ksn : Bytes) : Bytes :=
  let k := (ksnWith ksn 0).take 8
  Cipher.enc .tdes bdk k ++ Cipher.enc .tdes (xor bdk c0mask) k

/-- One non-reversible step on a register of 8 bytes. -/
def tdesStep (key reg : Bytes) : Bytes :=
  let half (k : Bytes) : Bytes := xor (Des.encrypt (k.take 8) (xor reg (k.drop 8))) (k.drop 8)
  half (xor key c0mask) ++ half key

/-- The derived key of TDES DUKPT before its variant mask: one step per set counter bit, from the highest. -/
def tdesDerive (bdk ksn : Bytes) : Bytes :=
  let ctr := tdesCounter ksn
  ((List.range 21).foldl (fun (st : Bytes × Nat) i =>
    let b := 20 - i
    if bit ctr b then
      let c := st.2 + 2 ^ b
      (tdesStep st.1 ((ksnWith ksn c).drop 2), c)
    else st) (tdesInitial bdk ksn, 0)).1

/-- Variant masks of R92. -/
inductive Variant where
  | pin
  | macRequest
  | macResponse
deriving DecidableEq, Repr

def Variant.mask : Variant → Bytes
  | .pin => [0, 0, 0, 0, 0, 0, 0, 0xFF, 0, 0, 0, 0, 0, 0, 0, 0xFF]
  | .macRequest => [0, 0, 0, 0, 0, 0, 0xFF, 0, 0, 0, 0, 0, 0, 0, 0xFF, 0]
  | .macResponse => [0, 0, 0, 0, 0xFF, 0, 0, 0, 0, 0, 0, 0, 0xFF, 0, 0, 0]

/-- Key-usage indicators of AES DUKPT: PIN encryption, MAC generation, MAC verification. -/
def Variant.usage : Variant → Nat
  | .pin => 0x1000
  | .macRequest => 0x2000
  | .macResponse => 0x2001

/-- Key bytes of an AES working-key type byte. -/
def aesTypeLen (t : Nat) : Option Nat :=
  match t with
  | 2 => some 16
  | 3 => some 24
  | 4 => some 32
  | _ => none

/-- Derivation data of AES DUKPT. -/
def aesData (blk usage len : Nat) (ctx : Bytes) : Bytes := [1, BitVec.ofNat 8 blk] ++ be 2 usage ++ be 2 (len / 8) ++ be 2 (8 * len) ++ ctx

/-- A key of len bytes derived under AES. -/
def aesDeriveKey (key : Bytes) (usage len : Nat) (ctx : Bytes) : Bytes :=
  (Aes.encrypt key (aesData 1 usage len ctx) ++ Aes.encrypt key (aesData 2 usage len ctx)).take len

/-- The initial key of AES DUKPT. -/
def aesInitial (bdk ksn : Bytes) : Bytes := aesDeriveKey bdk 0x8001 bdk.length (ksn.take 8)

/-- The working key of AES DUKPT. -/
def aesWorking (bdk ksn : Bytes) (usage len : Nat) : Bytes :=
  let ctr := aesCounter ksn
  let ctx (c : Nat) : Bytes := slice ksn 4 4 ++ be 4 c
  let k := ((List.range 32).foldl (fun (st : Bytes × Nat) i =>
    let b := 31 - i
    if bit ctr b then
      let c := st.2 + 2 ^ b
      (aesDeriveKey st.1 0x8000 bdk.length (ctx c), c)
    else st) (aesInitial bdk ksn, 0)).1
  aesDeriveKey k usage len (ctx ctr)

/-- The working key of a DUKPT request. -/
def working (alg : Byte) (bdk ksn : Bytes) (v : Variant) (type : Nat) : Bytes :=
  if Alg.isAes alg then aesWorking bdk ksn v.usage ((aesTypeLen type).getD 16) else xor (tdesDerive bdk ksn) v.mask

/-- KSN and working-key type of a DUKPT request fit the variant and the counter lies in its range (R91). -/
def ksnOk (alg : Byte) (ksn : Bytes) (type : Nat) : Bool :=
  if Alg.isAes alg then (aesTypeLen type).isSome && counterOk true ksn
  else type == 0 && allZero (slice ksn 10 2) && counterOk false ksn

/-! ### Card functions (R93 to R96) -/

/-- Digits of a card PAN field: 12 to 19 digits, then 0xF. -/
def cardPan (b : Bytes) : Option (List Nat) :=
  let xs := nibs (b.take 10)
  let ds := xs.takeWhile (· ≤ 9)
  if 12 ≤ ds.length ∧ ds.length ≤ 19 ∧ (xs.drop ds.length).all (· == 0xF) then some ds else none

/-- Odd parity in every byte. -/
def parity (b : Bytes) : Bytes := b.map Des.oddParity

/-- Y of the card master key from PAN and sequence-number digits (option A or B). -/
def cardY (pan psn : List Nat) : Bytes :=
  let x := pan ++ psn
  if pan.length ≤ 16 then
    let t := lastN 16 x
    ofNibs (List.replicate (16 - t.length) 0 ++ t)
  else
    let h := nibs (Hash.hash .sha1 (ofNibs (List.replicate (x.length % 2) 0 ++ x)))
    ofNibs ((h.filter (· ≤ 9) ++ (h.filter (9 < ·)).map (· - 10)).take 16)

/-- Card master key. -/
def cardKey (imk : Bytes) (pan psn : List Nat) : Bytes :=
  let y := cardY pan psn
  parity (Cipher.enc .tdes imk y) ++ parity (Cipher.enc .tdes imk (y.map (~~~ ·)))

/-- Session key of an ATC. -/
def sessionKey (mk atc : Bytes) : Bytes :=
  Cipher.enc .tdes mk (atc ++ [0xF0, 0, 0, 0, 0, 0]) ++ Cipher.enc .tdes mk (atc ++ [0x0F, 0, 0, 0, 0, 0])

/-- ISO 9797-1 algorithm 3 with padding method 2 over TDES. -/
def mac3 (key msg : Bytes) : Bytes := mac 3 .tdes key (pad 2 8 msg)

/-- One BER-TLV: tag, value and the rest. -/
def tlv (b : Bytes) : Option (Nat × Bytes × Bytes) :=
  match b with
  | [] => none
  | t :: r =>
    let two := t.toNat % 32 == 31
    let tag := if two then 256 * t.toNat + (byteAt r 0).toNat else t.toNat
    let r' := if two then r.drop 1 else r
    if two ∧ r.isEmpty then none
    else
      match r' with
      | [] => none
      | l :: v =>
        let n := l.toNat
        if n < 0x80 then (if n ≤ v.length then some (tag, v.take n, v.drop n) else none)
        else if n = 0x81 then
          match v with
          | [] => none
          | m :: w => if m.toNat ≤ w.length then some (tag, w.take m.toNat, w.drop m.toNat) else none
        else if n = 0x82 then
          let m := ofBe (v.take 2)
          if 2 + m ≤ v.length then some (tag, (v.drop 2).take m, v.drop (2 + m)) else none
        else none

/-- All TLVs of a list; none when it does not parse to its end. -/
def tlvs : Nat → Bytes → Option (List (Nat × Bytes))
  | 0, _ => none
  | n + 1, b =>
    if b.isEmpty then some []
    else
      match tlv b with
      | none => none
      | some (t, v, r) => (tlvs n r).map (fun l => (t, v) :: l)

/-- Tags of the transaction data in their order (R95). -/
def arqcTags : List Nat := [0x9F02, 0x9F03, 0x9F1A, 0x95, 0x5F2A, 0x9A, 0x9C, 0x9F37, 0x82, 0x9F36, 0x9F10]

/-- Transaction data of a TLV list: every tag once, no other, and 9F36 equal to the ATC. -/
def arqcData (b atc : Bytes) : Option Bytes :=
  match tlvs (b.length + 1) b with
  | none => none
  | some l =>
    let val (t : Nat) : List Bytes := (l.filter (fun p => p.1 == t)).map (·.2)
    if l.length = arqcTags.length ∧ arqcTags.all (fun t => (val t).length == 1) ∧ val 0x9F36 = [atc] then
      some (arqcTags.flatMap (fun t => (val t).headD []))
    else none

/-- Card verification value: 3 digits (R96). -/
def cvv (cvk : Bytes) (pan yymm code : List Nat) : List Nat :=
  let d := pan ++ yymm ++ code
  let d := ofNibs (d ++ List.replicate (32 - d.length) 0)
  let ka := cvk.take 8
  let kb := slice cvk 8 8
  let t := xor (Des.encrypt ka (d.take 8)) (d.drop 8)
  Kx.scan (Des.encrypt ka (Des.decrypt kb (Des.encrypt ka t))) 3

end Sys2Proof.Pay
end

