-- ==== Sys2Proof/Machine/KeyBlock.lean ====
section
/-! DEFINITION. ASC X9.143 key blocks, versions B and D (03_payment_functions.md R97 to R99). The rules name the standard and give no layout:
header, key derivation, MAC and encipherment follow the standard (PRESUMED, log 65). -/

set_option linter.unusedVariables false

namespace Sys2Proof.KeyBlock

open Sys2Proof Sys2Proof.Bits Sys2Proof.Machine

/-! ### ASCII -/

/-- The value of a decimal or upper-case hexadecimal digit. -/
def digit (b : Byte) : Option Nat :=
  let v := b.toNat
  if 48 ≤ v ∧ v < 58 then some (v - 48) else if 65 ≤ v ∧ v < 71 then some (v - 55) else none

def hexChar (n : Nat) : Byte := BitVec.ofNat 8 (if n < 10 then 48 + n else 55 + n)

/-- Bytes as upper-case hexadecimal. -/
def hex (bs : Bytes) : Bytes := (nibs bs).map hexChar

/-- The bytes of hexadecimal characters; none where one is not. -/
def unhex (cs : Bytes) : Option Bytes :=
  let ds := cs.map digit
  if cs.length % 2 = 0 ∧ ds.all Option.isSome then some (ofNibs (ds.map (fun d => d.getD 0))) else none

/-- n decimal digits; the first runs on through letters from 10 (log 65). -/
def dec (n v : Nat) : Bytes :=
  let d (i : Nat) : Nat := v / 10 ^ (n - 1 - i) % (if i = 0 then 36 else 10)
  (List.range n).map (fun i => hexChar (d i))

/-- A number in the notation of `dec`. -/
def ofDec (cs : Bytes) : Option Nat :=
  let first := byteAt cs 0
  let v := first.toNat
  let d0 := if 48 ≤ v ∧ v < 58 then some (v - 48) else if 65 ≤ v ∧ v < 91 then some (v - 55) else none
  let rest := (cs.drop 1).map digit
  match d0 with
  | some a =>
    if rest.all (fun d => d.isSome && decide (d.getD 0 < 10)) then some (rest.foldl (fun a d => 10 * a + d.getD 0) a) else none
  | none => none

/-! ### Algorithms -/

/-- Algorithm character of a code: the standard's, and its proprietary digits for the algorithms it does not name (log 65). -/
def algChar (a : Byte) : Byte :=
  if Alg.isTdes a then chr 'T'
  else if Alg.isAes a then chr 'A'
  else if Alg.isHmac a then chr 'H'
  else if Alg.isEcc a then chr 'E'
  else if a = Alg.rsa then chr 'R'
  else if a = Alg.ed25519 then chr '1'
  else if a = Alg.mlkem768 then chr '2'
  else if a = Alg.mlkem1024 then chr '3'
  else if a = Alg.mldsa65 then chr '4'
  else if a = Alg.mldsa87 then chr '5'
  else if a = Alg.xts128 then chr '6'
  else chr '7'

/-- The algorithm code of a character and a key length. -/
def algOf (c : Byte) (len : Nat) : Option Byte :=
  let all : List Byte := [Alg.tdes2, Alg.tdes3, Alg.aes128, Alg.aes192, Alg.aes256, Alg.xts128, Alg.xts256, Alg.hmac32, Alg.hmac64,
    Alg.p256, Alg.p384, Alg.p521, Alg.ed25519, Alg.mlkem768, Alg.mlkem1024, Alg.mldsa65, Alg.mldsa87]
  if c = chr 'R' then
    let k := (List.range 225).map (fun i => 256 + 8 * i)
    if k.any (fun k => Alg.keyLen Alg.rsa k == len) then some Alg.rsa else none
  else all.find? (fun a => algChar a == c && Alg.keyLen a 0 == len)

/-! ### Keys of a block -/

/-- The two versions: B under TDES, D under AES. -/
structure Kbpk where
  aes : Bool
  key : Bytes

def Kbpk.cipher (k : Kbpk) : Cipher.Alg := if k.aes then .aes else .tdes

def Kbpk.blk (k : Kbpk) : Nat := if k.aes then 16 else 8

/-- Encryption key (usage 0) or MAC key (usage 1) derived from the KBPK. -/
def Kbpk.derive (k : Kbpk) (usage : Nat) : Bytes :=
  let n := k.key.length
  let ind := if k.aes then n / 8 else (if n = 16 then 0 else 1)
  let data (i : Nat) : Bytes := [BitVec.ofNat 8 i] ++ be 2 usage ++ [0] ++ be 2 ind ++ be 2 (8 * n)
  ((List.range 4).flatMap (fun i => Cipher.cmac k.cipher k.key (data (i + 1)))).take n

/-- MAC of header, optional blocks and plaintext. -/
def Kbpk.mac (k : Kbpk) (head plain : Bytes) : Bytes := Cipher.cmac k.cipher (k.derive 1) (head ++ plain)

/-! ### Fields of a block -/

/-- A block cut into its fields. -/
structure Fields where
  version : Byte
  usage : BitVec 16
  alg : Byte
  mode : Byte
  keyVer : Bytes
  exp : Byte
  opts : Nat
  /-- header with its optional blocks, in characters -/
  head : Bytes
  /-- enciphered key data -/
  data : Bytes
  mac : Bytes
deriving DecidableEq, Repr

/-- Length of n optional blocks from the start of a character string; none where they do not parse. -/
def optLen : Nat → Bytes → Option Nat
  | 0, _ => some 0
  | n + 1, cs =>
    let l2 := (unhex (slice cs 2 2)).map ofBe
    let len : Option Nat :=
      match l2 with
      | some 0 => (match (unhex (slice cs 4 2)).map ofBe with
        | some k => if k = 2 then (unhex (slice cs 6 4)).map ofBe else none
        | none => none)
      | r => r
    match len with
    | some l => if 4 ≤ l ∧ l ≤ cs.length then (optLen n (cs.drop l)).map (l + ·) else none
    | none => none

/-- Version of a block. -/
def version (b : Bytes) : Byte := byteAt b 0

/-- Parse a block of version B or D; none where the length field, the header, an optional block or the characters are malformed. -/
def parse (b : Bytes) : Option Fields :=
  let aes := version b == chr 'D'
  let n := if aes then 16 else 8
  let expc := byteAt b 11
  match ofDec (slice b 1 4), ofDec (slice b 12 2) with
  | some len, some opts =>
    match optLen opts (b.drop 16) with
    | some ol =>
      let h := 16 + ol
      let macLen := 2 * n
      let body := b.drop h
      match unhex (body.take (body.length - macLen)), unhex (body.drop (body.length - macLen)) with
      | some data, some mac =>
        if (version b == chr 'B' || aes) && len == b.length && slice b 14 2 == ascii "00" && ol % n == 0 &&
            mac.length == n && !data.isEmpty && data.length % n == 0 &&
            (expc == chr 'E' || expc == chr 'N' || expc == chr 'S') then
          some {
            version := version b
            usage := BitVec.ofNat 16 (fieldLe b 5 2)
            alg := byteAt b 7
            mode := byteAt b 8
            keyVer := slice b 9 2
            exp := expc
            opts := opts
            head := b.take h
            data := data
            mac := mac }
        else none
      | _, _ => none
    | none => none
  | _, _ => none

/-- The key of a parsed block, when its MAC verifies. -/
def openBlock (k : Kbpk) (f : Fields) : Option Bytes :=
  let plain := Cipher.cbcDec k.cipher (k.derive 0) f.mac f.data
  if k.mac f.head plain = f.mac then
    let bits := ofBe (plain.take 2)
    some ((plain.drop 2).take (bits / 8))
  else none

/-- The key data holds the whole key that its length field states. -/
def lengthOk (k : Kbpk) (f : Fields) : Bool :=
  let plain := Cipher.cbcDec k.cipher (k.derive 0) f.mac f.data
  let bits := ofBe (plain.take 2)
  bits % 8 == 0 && decide (2 + bits / 8 ≤ plain.length)

/-- The 16-byte parsed header that a host supplies (R97). -/
def parsedHeader (f : Fields) : Bytes :=
  [f.version] ++ le 2 f.usage.toNat ++ [f.alg, f.mode] ++ f.keyVer ++ [f.exp, BitVec.ofNat 8 f.opts, 0] ++ le 2 f.head.length ++ zeros 4

/-! ### Making a block -/

/-- Random padding bytes that a key takes. -/
def padLen (k : Kbpk) (key : Bytes) : Nat := (k.blk - (2 + key.length) % k.blk) % k.blk

/-- What a new block states of its key. -/
structure Spec where
  usage : BitVec 16
  alg : Byte
  mode : Byte
  keyVer : Bytes
  exp : Byte
  /-- the optional blocks, in characters, and how many they are -/
  opts : Bytes := []
  count : Nat := 0

/-- A key block. -/
def make (k : Kbpk) (x : Spec) (key pad : Bytes) : Bytes :=
  let plain := be 2 (8 * key.length) ++ key ++ pad
  let total := 16 + x.opts.length + 2 * plain.length + 2 * k.blk
  let head := [chr (if k.aes then 'D' else 'B')] ++ dec 4 total ++ le 2 x.usage.toNat ++ [algChar x.alg, x.mode] ++ x.keyVer ++
    [x.exp] ++ dec 2 x.count ++ ascii "00" ++ x.opts
  let m := k.mac head plain
  head ++ hex (Cipher.cbcEnc k.cipher (k.derive 0) m plain) ++ hex m

/-! ### The TS block -/

/-- Year, month and day of a day count from 1970-01-01, in the proleptic Gregorian calendar. -/
def civil (day : Nat) : Nat × Nat × Nat :=
  let z := day + 719468
  let era := z / 146097
  let doe := z % 146097
  let yoe := (doe - doe / 1460 + doe / 36524 - doe / 146096) / 365
  let doy := doe - (365 * yoe + yoe / 4 - yoe / 100)
  let mp := (5 * doy + 2) / 153
  let m := if mp < 10 then mp + 3 else mp - 9
  (yoe + 400 * era + (if m ≤ 2 then 1 else 0), m, doy - (153 * mp + 2) / 5 + 1)

/-- The TS optional block of a network time in ns, with a PB block that fills the optional blocks to a multiple of n. The time is the TAI
count as a calendar date (log 65). -/
def tsBlock (n ns : Nat) : Bytes :=
  let sec := ns / 1000000000
  let (y, m, d) := civil (sec / 86400)
  let t := sec % 86400
  let ts := ascii "TS13" ++ dec 4 y ++ dec 2 m ++ dec 2 d ++ dec 2 (t / 3600) ++ dec 2 (t / 60 % 60) ++ dec 2 (t % 60) ++ ascii "Z"
  let total := (ts.length + 4 + n - 1) / n * n
  let pb := total - ts.length
  ts ++ ascii "PB" ++ [hexChar (pb / 16), hexChar (pb % 16)] ++ List.replicate (pb - 4) (chr '0')

/-! ### Rules of R99 -/

/-- Rank of an exportability; R99 orders them S, E, N from the most permissive on. -/
def expRank (b : Byte) : Nat := if b = chr 'S' then 2 else if b = chr 'E' then 1 else 0

/-- Strength in bits that R99 gives a wrapped key; RSA by modulus bytes. -/
def strength (a : Byte) (k : Nat) : Nat :=
  if a = Alg.p256 ∨ a = Alg.mlkem768 ∨ (a = Alg.rsa ∧ 8 * k ≤ 3072) then 128
  else if a = Alg.p384 ∨ a = Alg.mldsa65 ∨ (a = Alg.rsa ∧ 8 * k ≤ 7680) then 192
  else 256

/-- A KBPK may wrap a key. -/
def mayWrap (kbpkAlg : Byte) (kbpkLen : Nat) (alg : Byte) (len modLen : Nat) : Bool :=
  if Alg.isTdes kbpkAlg then Alg.isTdes alg && decide (len ≤ kbpkLen)
  else decide (strength alg modLen ≤ 8 * kbpkLen)

end Sys2Proof.KeyBlock
end

