-- ==== Sys2Proof/Machine/Yoke.lean ====
section
/-! DEFINITION. The yoke: comparison of the wardens' items, judgement of mismatches, faults, switch-over, resynchronization, HALT
(13_wardens_yoke.md R290 to R301). -/

set_option linter.unusedVariables false

namespace Sys2Proof

def Warden.other : Warden → Warden
  | .a => .b
  | .b => .a

/-- Core number of a warden, and the number of its system side. -/
def Warden.core : Warden → Nat
  | .a => 2048
  | .b => 2049

end Sys2Proof

namespace Sys2Proof.Machine

open Sys2Proof Sys2Proof.Bits

/-! ### The two sides -/

/-- The warden that holds the baton. -/
def holder (s : State) : Warden := if s.yoke.batonB then .b else .a

def Yoke.stateOf (y : Yoke) : Warden → WState
  | .a => y.aState
  | .b => y.bState

def Yoke.held (y : Yoke) : Warden → List YokeItem
  | .a => y.heldA
  | .b => y.heldB

def Yoke.flag (y : Yoke) : Warden → Bool
  | .a => y.flagA
  | .b => y.flagB

def Yoke.feed (y : Yoke) : Warden → Bool
  | .a => y.feedA
  | .b => y.feedB

def Yoke.div (y : Yoke) : Warden → List Nat
  | .a => y.divA
  | .b => y.divB

def Yoke.setState (y : Yoke) (w : Warden) (x : WState) : Yoke :=
  match w with
  | .a => { y with aState := x }
  | .b => { y with bState := x }

def Yoke.setHeld (y : Yoke) (w : Warden) (x : List YokeItem) : Yoke :=
  match w with
  | .a => { y with heldA := x }
  | .b => { y with heldB := x }

def Yoke.setFeed (y : Yoke) (w : Warden) (x : Bool) : Yoke :=
  match w with
  | .a => { y with feedA := x }
  | .b => { y with feedB := x }

def Yoke.setDiv (y : Yoke) (w : Warden) (x : List Nat) : Yoke :=
  match w with
  | .a => { y with divA := x }
  | .b => { y with divB := x }

def Yoke.setFlag (y : Yoke) (w : Warden) : Yoke :=
  match w with
  | .a => { y with flagA := true }
  | .b => { y with flagB := true }

def State.modYoke (s : State) (f : Yoke → Yoke) : State := { s with yoke := f s.yoke }

/-- The wardens are compared: the other warden is standby (R290, R291). -/
def comparing (s : State) : Bool := s.yoke.stateOf (holder s).other == .standby

/-! ### Events and counters -/

/-- The tally entry of a yoke event, with YOKE_STATE (R301, R379). -/
def postYoke (s : State) (detail : Nat) : State :=
  Tal.post s {
    code := 0x0008
    detail := BitVec.ofNat 16 detail
    data := le 4 (yokeStateWord s) }

/-- Hold a warden in reset: it issues nothing (R292, R294). -/
def holdWarden (s : State) (w : Warden) : State := s.modCore w.core (fun c => { c with phase := .free })

/-- Drop the items of the non-holder that are not compared: each counts, and a burst posts one entry (R292, R301). -/
def dropItems (s : State) (n : Nat) : State :=
  if n = 0 then s
  else postYoke ((List.range n).foldl (fun s _ => evtCount s yokePage 0x088 30 0) s) 2

/-! ### Forwarding -/

/-- Write the enabled bytes of a word of memory. -/
def writeBytes (s : State) (a : Nat) (data : Word) (en : BitVec 4) : State :=
  (List.range 4).foldl (fun s i =>
    if en.getLsbD i then memWrite s (a + i) [BitVec.ofNat 8 (bits data.toNat (8 * i + 7) (8 * i))] else s) s

/-- A write of CTX_MODE: rounding 0b11 stores 0b00, and bit 3 clears OVF unless a write sets it in the same cycle (R167). -/
def Core.setMode (x : Core) (v : Word) : Core :=
  let r : BitVec 2 := BitVec.ofNat 2 (bits v.toNat 2 1)
  { x with
    sat := v.getLsbD 0
    rnd := if r = 3 then 0 else r
    ovf := x.ovf && (!v.getLsbD 3 || x.ovfNow) }

/-- A write of a system port of the W or S core `num` with system side `side`; none for a port that it has not (R167, R174, R175). -/
def setPort (s : State) (num side : Nat) (warden : Bool) (port : Nat) (v : Word) : Option State :=
  let y := s.sysCore side
  if port = 0x0800 then some (s.modCore num (fun x => x.setMode v))
  else if 0x8000 ≤ port ∧ port < 0x8010 ∧ warden then
    some (s.setSys side { y with apt := Map.set 0 y.apt (port - 0x8000) (v &&& 0x3FFFF) })
  else if port = 0x8010 then some (s.setSys side { y with tvec := v &&& ~~~3 })
  else if port = 0x8011 then some (s.setSys side { y with epc := v })
  else if port = 0x8013 then some (s.setSys side { y with ien := v.getLsbD 0 })
  else if port = 0x8014 then
    some (s.setSys side { y with imask := (y.imask >>> 32 <<< 32) ||| v.setWidth 64 })
  else if port = 0x8015 then
    some (s.setSys side { y with imask := (y.imask &&& 0xFFFFFFFF) ||| (v.setWidth 64 <<< 32) })
  else none

/-- A warden runs: it can issue, self-flag or lose its feed in service. -/
def inService (s : State) (w : Warden) : Bool := s.yoke.stateOf w == .active || s.yoke.stateOf w == .standby

/-- A port output reaches the port of a warden in service, which goes on (R290, R291). -/
def putPort (s : State) (port : Nat) (v : Word) (w : Warden) : State :=
  if inService s w then
    ((setPort s w.core (w.core - 2048) true port v).getD s).modCore w.core (fun c => { c with wait := if c.wait = .yoke then .none else c.wait })
  else s

/-- An item reaches its target: memory takes the enabled bytes, a register the whole word, a port output the port of each warden that runs
(R174, R290, R291, R419). -/
def forward (s : State) (x : YokeItem) : State :=
  if 2 ^ 40 ≤ x.addr then [Warden.a, Warden.b].foldl (fun s w => putPort s (x.addr - 2 ^ 40) x.data w) s
  else
    match placeSys x.addr with
    | .mem a => writeBytes s a x.data x.be
    | p => if x.be = 0xF then regWrite s p x.data else s

/-- Forward every held item of a warden, oldest first. -/
def forwardHeld (s : State) (w : Warden) : State :=
  let xs := s.yoke.held w
  xs.foldl forward (s.modYoke (fun y => y.setHeld w []))

/-- Compare the heads of the two queues: equal items go to the target once, and a difference waits for its judgement (R291). -/
def compareHeads (s : State) : State :=
  match s.yoke.heldA, s.yoke.heldB with
  | x :: xs, z :: zs =>
    if x = z then forward (s.modYoke (fun y => { y with heldA := xs, heldB := zs })) x
    else s.modYoke (fun y => { y with mismatch := true })
  | _, _ => s

/-- A warden issues an item (R291, R292, R296): nothing reaches a block in HALT; during a gap it waits; in solo operation the holder's
item goes through at once. A warden whose port output is held waits for it (log 80). One that does not hold the baton and is not compared is held
in reset at its first dropped item (R292). -/
def yokeIssue (s : State) (w : Warden) (x : YokeItem) : State :=
  let keep (s : State) : State :=
    let s := if 2 ^ 40 ≤ x.addr then s.modCore w.core (fun c => { c with wait := .yoke }) else s
    s.modYoke (fun y => y.setHeld w (y.held w ++ [x]))
  if s.yoke.halt then s
  else if s.yoke.gap || s.yoke.mismatch then keep s
  else if comparing s then compareHeads (keep s)
  else if w = holder s then forward s x
  else holdWarden (dropItems s 1) w

/-! ### HALT (R297) -/

/-- Enter HALT: FAULT_N, the reason in the status block, no more fetching, every PF request ABORTED. Reasons: 1 both faulty, 2 no
standby, 3 both feeds lost, 4 the check failed. -/
def enterHalt (s : State) (reason : Nat) : State :=
  if s.yoke.halt then s
  else
    let old := s
    let s := { s with
      yoke := { s.yoke with halt := true, gap := false, mismatch := false, flagA := false, flagB := false, heldA := [], heldB := [] }
      boot := { s.boot with phase := .halt, haltReason := reason, faultN := true } }
    let s := holdWarden (holdWarden s .a) .b
    let s := postYoke (noteStatus old s) 6
    (entriesWhere s (fun x => x.func == 0 && x.accepted && x.state == .reserved)).foldl (fun s e => endRequest s e St.aborted) s

/-! ### Out of service, switch-over (R295, R296) -/

/-- Items of a warden that are held and not under comparison: the first one is, while a mismatch waits for its judgement (R292, R293). -/
def uncompared (s : State) (w : Warden) : Nat := (s.yoke.held w).length - (if s.yoke.mismatch then 1 else 0)

/-- A mismatch ends, with the self-flags of its window. -/
def Yoke.settled (y : Yoke) : Yoke := { y with mismatch := false, flagA := false, flagB := false }

/-- The other warden leaves service in a state, and its items that are not compared are dropped: the holder runs solo and DEGRADED is set. -/
def goSolo (s : State) (x : WState) : State :=
  let w := (holder s).other
  let n := uncompared s w
  let s := holdWarden (s.modYoke (fun y => { ((y.setState w x).setHeld w []).settled with solo := true })) w
  let s := dropItems (forwardHeld s (holder s)) n
  let s := if x = .retired then postYoke s 5 else s
  degrade s causeWarden 0x0008

/-- The holder leaves service: its held items are discarded, and the switch-over gap begins, or HALT without a standby. -/
def loseHolder (s : State) (x : WState) : State :=
  let w := holder s
  let ready := comparing s
  let s := holdWarden (s.modYoke (fun y => (y.setState w x).setHeld w [])) w
  if ready then s.modYoke (fun y => { y.settled with gap := true }) else enterHalt s 2

/-- A warden is faulty (R293, R295 to R297). During a gap the standby's fault fails the check. -/
def makeFaulty (s : State) (w : Warden) : State :=
  if s.yoke.gap then (if w = holder s then s else enterHalt (s.modYoke (fun y => y.setState w .faulty)) 1)
  else if w = holder s then loseHolder s .faulty
  else goSolo s .faulty

/-- The yoke works: the wardens run firmware and the unit is not in HALT. -/
def yokeRuns (s : State) : Bool := keepRuns s && !s.yoke.halt

/-! ### Self-flags (R179, R293) -/

/-- Raise the self-flag of a warden: a pending mismatch is judged with it, and without one the warden is faulty. -/
def raiseSelfFlag (s : State) (w : Warden) : State :=
  if !yokeRuns s || !inService s w then s
  else
    let s := evtCount s yokePage 0x084 27 14
    if s.yoke.mismatch then s.modYoke (fun y => y.setFlag w) else makeFaulty s w

/-- WARDEN_SELF_FLAG (R293, R175). -/
def execWardenSelfFlag (w : Warden) (s : State) : Host.Outcome State Fault Refusal := done (raiseSelfFlag s w)

/-! ### Mismatches (R293) -/

/-- The other warden has diverged: it is resynchronized, or retired at its third divergence within 1 s (R294, R295, R300). -/
def diverged (s : State) : State :=
  let w := (holder s).other
  let times := noteTime (s.yoke.div w) s.tmr.now 3
  let s := evtCount (s.modYoke (fun y => y.setDiv w times)) yokePage 0x084 13 0
  let left := uncompared s w
  if withinSpan times 3 second then goSolo s .retired
  else
    let s := holdWarden (s.modYoke (fun y => { ((y.setState w .resyncing).setHeld w []).settled with solo := true })) w
    dropItems (forwardHeld s (holder s)) left

/-- YOKE_MISMATCH_JUDGED (R293): 64 cycles after the mismatch, by the self-flags. -/
def execYokeMismatchJudged (s : State) : Host.Outcome State Fault Refusal :=
  done (
    let y := s.yoke
    let h := holder s
    let fh := y.flag h
    let fo := y.flag h.other
    if !yokeRuns s || !y.mismatch then s
    else
      let s := postYoke s 1
      let s := s.modYoke (fun y => { y with flagA := false, flagB := false })
      if fh && fo then
        enterHalt (s.modYoke (fun y => (y.setState .a .faulty).setState .b .faulty)) 1
      else if fh then loseHolder s .faulty
      else if fo then goSolo s .faulty
      else diverged s)

/-- YOKE_COMPARE_TIMEOUT (R291): an item of this warden has waited 16 warden cycles, and the other's has not arrived. -/
def execYokeCompareTimeout (w : Warden) (s : State) : Host.Outcome State Fault Refusal :=
  done (
    if yokeRuns s && comparing s && !s.yoke.gap && !(s.yoke.held w).isEmpty && (s.yoke.held w.other).isEmpty then
      s.modYoke (fun y => { y with mismatch := true })
    else s)

/-! ### Feeds -/

/-- The state that a warden leaves service in at the loss of its feed: faulty where it has raised its self-flag in the window of a pending
mismatch (R293, R300). -/
def lostState (s : State) (w : Warden) : WState := if s.yoke.mismatch && s.yoke.flag w then .faulty else .feedLost

/-- FEED_LOSS (R296, R297, R300): judged before a mismatch of the same moment, which is not counted. The self-flags of the mismatch's window
stand: with a flag of the warden that keeps its feed, no warden is left. -/
def execFeedLoss (w : Warden) (s : State) : Host.Outcome State Fault Refusal :=
  done (
    let had := s.yoke.feed w
    let s := s.modYoke (fun y => y.setFeed w false)
    if !had || !yokeRuns s then s
    else if !s.yoke.feed w.other then enterHalt (s.modYoke (fun y => y.setState w .feedLost)) 3
    else if s.yoke.gap then
      (if w = holder s then s else enterHalt (s.modYoke (fun y => y.setState w .feedLost)) 2)
    else if s.yoke.mismatch && s.yoke.flag w.other then
      enterHalt (s.modYoke (fun y => (y.setState w (lostState s w)).setState w.other .faulty)) (if s.yoke.flag w then 1 else 2)
    else if w = holder s then loseHolder s (lostState s w)
    else if s.yoke.stateOf w = .standby ∨ s.yoke.stateOf w = .resyncing then goSolo s (lostState s w)
    else s)

/-- FEED_READMIT (R298): the feed has stood above threshold for 10 ms, and a warden in state feed lost is resynchronized. -/
def execFeedReadmit (w : Warden) (s : State) : Host.Outcome State Fault Refusal :=
  done (
    let s := s.modYoke (fun y => y.setFeed w true)
    if yokeRuns s && !s.yoke.gap && w != holder s && s.yoke.stateOf w == .feedLost && s.boot.phase == .released then
      s.modYoke (fun y => y.setState w .resyncing)
    else s)

/-- SWITCH_OVER_DONE (R296, R297): the standby passed its residue scan and takes the baton with the items it held, or HALT. -/
def execSwitchOverDone (checkOk : Bool) (gapNs : BitVec 16) (s : State) : Host.Outcome State Fault Refusal :=
  done (
    if !yokeRuns s || !s.yoke.gap then s
    else if !checkOk then enterHalt s 4
    else
      let new := (holder s).other
      let g := gapNs.toNat
      let s := s.modYoke (fun y => { y.setState new .active with
        batonB := new == .b
        solo := true
        gap := false
        lastGap := g
        maxGap := max y.maxGap g })
      let s := forwardHeld s new
      degrade (postYoke s 3) causeWarden 0x0008)

/-! ### Resynchronization (R294, R295, R298) -/

/-- Copy the holder's state into the other warden: its instruction space, local data, registers, ports and stacks. -/
def copyWarden (s : State) : State :=
  let h := holder s
  let o := h.other
  let k (w : Warden) : Nat := w.core - 2048
  let base (w : Warden) : Nat := 0x100000 * k w
  let code := (s.sram.filter (fun x => decide (base h ≤ x.1 ∧ x.1 < base h + 0x100000))).map
    (fun x => (x.1 - base h + base o, x.2))
  let rest := s.sram.filter (fun x => !decide (base o ≤ x.1 ∧ x.1 < base o + 0x100000))
  let s := { s with
    sram := code.foldl (fun (m : Map Byte) (x : Nat × Byte) => Map.set 0 m x.1 x.2) rest
    yoke := { s.yoke with reads := [] } }
  (s.setCore o.core (s.core h.core)).setSys (k o) (s.sysCore (k h))

/-- RESYNC_DONE (R294, R295): the copied warden is standby and solo clears, or it fails and leaves service. -/
def execResyncDone (ok : Bool) (s : State) : Host.Outcome State Fault Refusal :=
  done (
    let w := (holder s).other
    if !yokeRuns s || s.yoke.gap || s.yoke.stateOf w != .resyncing then s
    else if !ok then goSolo s .faulty
    else
      let s := copyWarden (forwardHeld s (holder s))
      postYoke (s.modYoke (fun y => { (y.setState w .standby) with solo := false })) 4)

/-- Move the baton to the standby warden at an instruction boundary (R299). The gap's length is a free value of at most 40 us
(log 2). -/
def moveBaton (s : State) : State :=
  let old := holder s
  let (g, s) := s.draw 16
  let gap := min g.toNat 40000
  let s := s.modYoke (fun y => { (y.setState old .standby).setState old.other .active with
    batonB := old.other == .b
    lastGap := gap
    maxGap := max y.maxGap gap })
  postYoke s 7

end Sys2Proof.Machine
end

