-- ==== Sys2Proof/Machine/Operands.lean ====
section
/-! DEFINITION. Operands of Knatrix instructions: registers of a core, pending multiplier writes, secret registers with their masks,
data space, control flow inside a core, traps and faults (05_transaction_units.md, 06_knatrix_isa.md R158 to R175). -/

set_option linter.unusedVariables false

namespace Sys2Proof

/-- Index of a core in the state. -/
def CoreId.num : CoreId → Nat
  | .tu c => c.val
  | .wardenA => 2048
  | .wardenB => 2049
  | .scarecrow => 2050

/-- Index of a core's system side. -/
def CoreId.side : CoreId → Nat
  | .tu _ => 3
  | .wardenA => 0
  | .wardenB => 1
  | .scarecrow => 2

/-- The warden of a core. -/
def CoreId.warden : CoreId → Option Warden
  | .wardenA => some .a
  | .wardenB => some .b
  | _ => none

def CoreId.isTu : CoreId → Bool
  | .tu _ => true
  | _ => false

end Sys2Proof

namespace Sys2Proof.Machine

open Sys2Proof Sys2Proof.Bits

/-! ### Cores -/

def Core.getW (x : Core) (r : Nat) : Word := Map.get 0 x.w r
def Core.setW (x : Core) (r : Nat) (v : Word) : Core := { x with w := Map.set 0 x.w r v }
def Core.getS (x : Core) (r : Nat) : SReg := Map.get {} x.s r
def Core.getAcc (x : Core) (a : Nat) : BitVec 72 := Map.get 0 x.acc a
def Core.setAcc (x : Core) (a : Nat) (v : BitVec 72) : Core := { x with acc := Map.set 0 x.acc a v }

/-- OVF is sticky. -/
def Core.setOvf (x : Core) (b : Bool) : Core := { x with ovf := x.ovf || b }

/-! ### Pending multiplier and accumulator writes (R165, R166) -/

/-- One pending write takes effect. -/
def Core.applyPend (x : Core) (p : PendWrite) : Core :=
  match p.target with
  | .mlohi => { x with mlo := p.val.setWidth 32, mhi := (p.val >>> 32).setWidth 32, ovf := x.ovf || p.ovf }
  | .acc a => { x with acc := Map.set 0 x.acc a p.val, ovf := x.ovf || p.ovf }

/-- Every pending write takes effect. -/
def Core.flush (x : Core) : Core := { x.pend.foldl Core.applyPend x with pend := [] }

/-- n cycles of the multiplier pass; a write that takes effect in the last of them sets OVF in the cycle of the instruction that issues (R167). -/
def Core.age (x : Core) (n : Nat) : Core :=
  let ps := x.pend.map (fun p => { p with left := p.left - n })
  let due := ps.filter (fun p => p.left = 0)
  { due.foldl Core.applyPend x with
    pend := ps.filter (fun p => p.left ≠ 0)
    ovfNow := x.pend.any (fun p => p.ovf && p.left == n) }

/-- A new pending write, and whether it sets OVF. -/
def Core.push (x : Core) (t : PendTarget) (v : BitVec 72) (n : Nat) (o : Bool) : Core :=
  { x with pend := x.pend ++ [{ target := t, val := v, left := n, ovf := o }] }

/-- The accumulator as a MAC-group instruction reads its addend: the newest write, pending or not (R166). -/
def Core.addend (x : Core) (a : Nat) : BitVec 72 :=
  match (x.pend.filter (fun p => decide (p.target = .acc a))).getLast? with
  | some p => p.val
  | none => x.getAcc a

/-- A write of an accumulator at once: earlier pending writes to it precede it (R166), with the OVF they set. -/
def Core.putAcc (x : Core) (a : Nat) (v : BitVec 72) : Core :=
  { x with
    acc := Map.set 0 x.acc a v
    ovf := x.ovf || x.pend.any (fun p => decide (p.target = .acc a) && p.ovf)
    pend := x.pend.filter (fun p => decide (p.target ≠ .acc a)) }

/-! ### Control flow (R164) -/

/-- The address after the instruction at pc: the loop back edge of the innermost level whose body ends here, else pc + 4; levels
whose last pass ends are popped. -/
def stepLoops : List LoopLevel → Nat → List LoopLevel × Nat
  | [], pc => ([], pc + 4)
  | l :: r, pc =>
    if pc = l.last then (if 1 < l.left then ({ l with left := l.left - 1 } :: r, l.first) else stepLoops r pc)
    else (l :: r, pc + 4)

/-- Go on after the instruction at pc. -/
def Core.nextFrom (x : Core) (pc : Nat) : Core :=
  let (ls, t) := stepLoops x.lstack pc
  { x with lstack := ls, pc := t }

/-- Go on after this instruction. -/
def Core.next (x : Core) : Core := x.nextFrom x.pc

/-- Levels that a taken transfer to t leaves: a body that does not hold t is left with every level inside it. -/
def keepLoops (t : Nat) : List LoopLevel → List LoopLevel
  | [] => []
  | l :: r =>
    let k := keepLoops t r
    if k.length = r.length ∧ l.first ≤ t ∧ t ≤ l.last then l :: r else k

/-- A taken transfer. -/
def Core.jump (x : Core) (t : Nat) : Core := { x with pc := t, lstack := keepLoops t x.lstack }

/-- Target of an offset counted in instructions. An address below 0 lies, as 32 bits, beyond every instruction space, so the fetch there
faults (R164). -/
def Core.target (x : Core) (off : Int) : Nat := (((x.pc : Int) + 4 * off) % 2 ^ 32).toNat

/-! ### Secret registers (R135, R139, R160, R171) -/

def Label.rank : Label → Nat
  | .p => 0 | .c => 1 | .t => 2 | .n => 3 | .k => 4

/-- The more restricted label. -/
def Label.max (a b : Label) : Label := if a.rank < b.rank then b else a

/-- Bytes of a secret register. -/
def SReg.bytes (r : SReg) : Bytes := ofBlock r.val

/-- Label, role and derived bit of a result under the rule of XOR, parity, merge and table operations (R171). -/
def mixTags (ops : List SReg) : Label × Byte × Bool :=
  let l := ops.foldl (fun l r => l.max r.label) .p
  let ks := ops.filter (fun r => r.label == .k)
  match ks with
  | k :: r =>
    let same := r.all (fun z => z.role == k.role && z.derived == k.derived)
    let rest := ops.all (fun z => z.label == .k || z.label == .p)
    if same && rest then (l, k.role, k.derived) else (l, 0, false)
  | [] =>
    match ops with
    | o :: r => (l, if r.all (fun z => z.role == o.role) then o.role else 0, false)
    | [] => (l, 0, false)

/-- As `mixTags`, but any K operand gives role 0x00 (SAND, SOR). -/
def mixLogic (ops : List SReg) : Label × Byte × Bool :=
  let (l, r, d) := mixTags ops
  if l = .k then (l, 0, false) else (l, r, d)

/-- A register from a value and its tags. -/
def SReg.of (bytes : Bytes) (t : Label × Byte × Bool) : SReg where
  val := block bytes
  label := t.1
  role := t.2.1
  derived := t.2.2

/-- A new mask M: from the barn's mask generator on a TU; on a warden a value the spec does not give (log 30). -/
def newMask (s : State) (c : CoreId) : BitVec 128 × State :=
  match c with
  | .tu n => drawMask s (barnOfCtx n)
  | _ => s.draw 128

/-- Write secret register i of a core: a new M re-masks every register (R135). -/
def writeSecret (s : State) (c : CoreId) (i : Nat) (r : SReg) : State :=
  let (m, s) := newMask s c
  s.modCore c.num (fun x => { x with s := Map.set {} x.s i r, mask := m })

/-! ### Faults and traps (R162, R164, R175) -/

/-- Conditions that end a TU request with FAULT_ALARM, or trap on the W and S variants. -/
inductive KxFault where
  /-- undefined encoding -/
  | undefined
  | misaligned
  | unmapped
  | aperture
  | denied
  | rstack
  | lstack
  | fetch
  /-- unlisted port -/
  | port
  /-- operands an extract or SROLE refuses: R175 lists no cause -/
  | operand
  | trap
deriving DecidableEq, Repr

/-- Trap cause of a condition (R175). -/
def KxFault.cause : KxFault → Option Byte
  | .undefined => some 0x01
  | .misaligned => some 0x02
  | .unmapped => some 0x03
  | .aperture => some 0x04
  | .denied => some 0x05
  | .rstack => some 0x07
  | .lstack => some 0x08
  | .fetch => some 0x09
  | .port => some 0x0A
  | .operand => none
  | .trap => some 0x0F

/-- Take a trap: pending writes complete, EPC and ECAUSE are saved, interrupts are disabled, and the core continues at TVEC. A trap
inside a handler raises the warden's self-flag, or a sensor fault of the scarecrow (R175). -/
def takeTrap (s : State) (c : CoreId) (cause : Byte) (epc : Nat) : State :=
  let y := s.sysCore c.side
  let s := s.modCore c.num (fun x => { x.flush with pc := y.tvec.toNat, wait := .none })
  let s := s.setSys c.side { y with
    epc := BitVec.ofNat 32 epc
    ecause := cause
    ien := false
    ienSaved := y.ien
    inTrap := true }
  if !y.inTrap then s
  else
    match c.warden with
    | some w => raiseSelfFlag s w
    | none => sentinelFault s

/-- A fault of the instruction a core issues: a port or extract error of a TU counts (R141, R142, R154), and a condition that the cause
table does not list leaves a free ECAUSE, the same on both wardens in step (R290; log 2). -/
def kxFault (s : State) (c : CoreId) (f : KxFault) : State :=
  match c with
  | .tu n => if f = .port ∨ f = .operand then portError s n else faultCtx s n
  | _ =>
    let epc := (s.core c.num).pc
    match f.cause with
    | some v => takeTrap s c v epc
    | none =>
      if c.warden.isSome then takeTrap s c (Config.freeCause (s.core c.num).slots) epc
      else
        let (v, s) := s.draw 8
        takeTrap s c v epc

/-! ### Issue -/

/-- Window n of a stook as a running request of a function uses it: RESIDENT, or DRAINING (R157). -/
def runWindow (s : State) (k n fn : Nat) : Option (Window × BankFn) :=
  let w := s.window k n
  if w.state = 2 ∨ w.state = 3 then
    (((Map.get {} s.ldr.banks w.bank).fns).find? (fun f => f.fn.toNat == fn)).map (fun f => (w, f))
  else none

/-- The window and the table entry that the request of a context runs. -/
def ctxWindow (s : State) (c : Nat) : Option (Window × BankFn) :=
  let x := s.entry (s.core c).entry
  runWindow s (stookOfCtx c) x.window x.desc.fn.toNat

/-- End of a core's instruction space (R158, R159). -/
def codeEnd (s : State) (c : CoreId) : Nat :=
  match c with
  | .tu n =>
    match ctxWindow s n with
    | some (w, _) => w.code.length
    | none => 0
  | .scarecrow => 0x10000
  | _ => 0x100000

/-! ### Interrupt lines (R428) -/

/-- Pages whose interrupt output drives a warden line. -/
def linePages (i : Nat) : List Nat :=
  let gates (base : Nat) : List Nat := (List.range 0x108).map (fun g => base + 0x100000 + 0x1000 * g)
  if i = 0 then [yokePage]
  else if i = 1 then [hifPage]
  else if i = 2 then [schPage, relPage]
  else if i = 3 then [ldrPage]
  else if i = 4 then [grnPage, polPage]
  else if i = 5 then [winPage]
  else if i = 6 then [scrPage]
  else if i = 7 then [talPage]
  else if i = 8 then [lcPage, bootPage]
  else if i = 9 then [pwrPage, clkPage]
  else if i = 10 then [glnPage, keepPage 0x12, keepPage 0x13]
  else if i = 11 then [keepPage 0x14, keepPage 0x15]
  else if i = 12 then gates (keepPage 0)
  else if 16 ≤ i ∧ i < 32 then
    let d := (i - 16) / 8 + 1
    let k := (i - 16) % 8
    if k = 0 then [hbmPage d]
    else if k = 1 then [fieldPage d 2, fieldPage d 3, fieldPage d 4]
    else if k ≤ 5 then
      let b := k - 2
      fieldPage d (0x10 + b) :: (List.range 4).map (fun j => fieldPage d (0x20 + 4 * b + j)) ++
        (List.range 6).map (fun j => fieldPage d (0x40 + 6 * b + j))
    else if k = 6 then (List.range 4).map (fun j => fieldPage d (0x60 + j))
    else gates (fieldPage d 0)
  else []

/-- Line i of a core is asserted: a page that drives it, or a pulse not yet taken. The scarecrow has no line from a page. -/
def lineUp (s : State) (c : CoreId) (i : Nat) : Bool :=
  (s.sysCore c.side).lines.getLsbD i ||
    (c.warden.isSome && (linePages i).any (fun p => intStat s p != 0))

/-- An enabled interrupt is pending on a core. -/
def lineWaiting (s : State) (c : CoreId) : Bool :=
  (List.range 64).any (fun i => (s.sysCore c.side).imask.getLsbD i && lineUp s c i)

/-! ### Issuing -/

/-- A core issues: it runs and waits for nothing. -/
def canIssue (x : Core) : Bool := x.phase == .running && x.wait == .none

/-- The core as its next instruction finds it: a WFI ends once an enabled interrupt is pending (R175). -/
def wake (s : State) (c : CoreId) (x : Core) : Core :=
  if x.wait = .wfi ∧ lineWaiting s c = true then { x.next with wait := .none } else x

/-- A TU reads the block of code RAM that holds its instruction (R270). -/
def codeRead (s : State) (c : CoreId) (x : Core) : Parity × State :=
  match c with
  | .tu n => readUnit s (.codeRam (4 * stookOfCtx n + (s.entry x.entry).window) (x.pc / 8))
  | _ => (.good, s)

/-- One issue slot: the multiplier advances, by the cycles that the other contexts of a TU leave open (R165, log 2); the lead's watchdog
starts at its first instruction (R154); the fetch address lies in instruction space, and a TU's code RAM reads (R270); then the instruction
acts. -/
def issue (s : State) (c : CoreId) (k : State → Core → State) : State :=
  let x := wake s c (s.core c.num)
  if !canIssue x then s
  else
    let (n, s) : Nat × State :=
      if c.isTu && !x.pend.isEmpty then
        let (v, s) := s.draw 2
        (1 + v.toNat, s)
      else (1, s)
    let x := x.age n
    let x := if c.isTu && x.started.isNone then { x with started := some s.tmr.now } else x
    let x := if c.warden.isSome then { x with slots := x.slots + 1 } else x
    let s := s.setCore c.num x
    if codeEnd s c ≤ x.pc then kxFault s c .fetch
    else
      match codeRead s c x with
      | (.bad, s) => kxFault s c .fetch
      | (_, s) => k s x

/-- An instruction that changes its own core alone. -/
def plain (s : State) (c : CoreId) (f : Core → Core) : State := issue s c (fun s x => s.setCore c.num (f x).next)

/-- A result in a word register. -/
def toReg (s : State) (c : CoreId) (rd : Nat) (f : Core → Word) : State := plain s c (fun x => x.setW rd (f x))

/-- A result that may set OVF. -/
def toRegOvf (s : State) (c : CoreId) (rd : Nat) (f : Core → Word × Bool) : State :=
  plain s c (fun x => (x.setW rd (f x).1).setOvf (f x).2)

/-- Advance a core past its instruction. -/
def goOn (s : State) (c : CoreId) : State := s.modCore c.num Core.next

/-- A secret instruction: undefined on the S variant (R162). -/
def issueSecret (s : State) (c : CoreId) (k : State → Core → State) : State :=
  issue s c (fun s x => if c = .scarecrow then kxFault s c .undefined else k s x)

/-- A secret result. -/
def toSecret (s : State) (c : CoreId) (sd : Nat) (f : Core → SReg) : State :=
  issueSecret s c (fun s x => goOn (writeSecret s c sd (f x)) c)

/-- An extract into a word register; refused operands fault (R172). -/
def extract (s : State) (c : CoreId) (rd : Nat) (ok : Core → Bool) (f : Core → Word) : State :=
  issueSecret s c (fun s x => if ok x then s.setCore c.num (x.setW rd (f x)).next else kxFault s c .operand)

/-- An instruction of the SYS group: undefined on a TU (R162). -/
def issueSys (s : State) (c : CoreId) (k : State → Core → State) : State :=
  issue s c (fun s x => if c.isTu then kxFault s c .undefined else k s x)

/-! ### Data space (R159, R164, R174) -/

/-- Where a data access lands. -/
inductive DataAt where
  | localMem (a : Nat)
  | ring (a : Nat)
  | sys (a : Nat)
  | bad (f : KxFault)
deriving DecidableEq, Repr

/-- Decode a data address: alignment first, then the map of the variant, then the aperture. -/
def dataAt (s : State) (c : CoreId) (a n : Nat) (write : Bool) : DataAt :=
  if a % n ≠ 0 then .bad .misaligned
  else
    match c with
    | .tu _ => if a < 0x4000 then .localMem a else .bad .unmapped
    | .scarecrow => if a < 0x4000 then .localMem a else if 0x10000 ≤ a ∧ a < 0x20000 then .ring (a - 0x10000) else .bad .unmapped
    | _ =>
      if a < 0x80000 then .localMem a
      else if a < 0xF0000000 then .bad .unmapped
      else
        let t := Map.get 0 (s.sysCore c.side).apt ((a - 0xF0000000) / 0x1000000)
        if !t.getLsbD 16 || (write && !t.getLsbD 17) then .bad .aperture
        else .sys (t.toNat % 2 ^ 16 * 2 ^ 24 + a % 0x1000000)

/-- n bytes of a core's local data space. -/
def localRead (x : Core) (a n : Nat) : Bytes := (List.range n).map (fun i => Map.get 0 x.mem (a + i))

def localWrite (x : Core) (a : Nat) (bs : Bytes) : Core :=
  { x with mem := ((List.range bs.length).zip bs).foldl (fun m p => Map.set 0 m (a + p.1) p.2) x.mem }

/-- A record of the sensor-history ring with bytes replaced. -/
def ringWrite (s : State) (a : Nat) (bs : Bytes) : State :=
  let i := a / 16
  let old := histBytes s i
  let new := old.take (a % 16) ++ bs ++ old.drop (a % 16 + bs.length)
  { s with scr := { s.scr with hist := Map.set 0 s.scr.hist i (block new) } }

/-- Read n bytes of the system space as a warden, after its gate: memory, or the word of a register that holds them (R419). -/
def systemRead (s : State) (w : Warden) (a n : Nat) : Nat × State :=
  match placeSys a with
  | .mem _ =>
    let (bs, s) := memRead s (clsCodeOf .warden) a n
    (ofLe bs, s)
  | _ =>
    let (v, s) := regRead s (if w = .a then .wardenA else .wardenB) (placeSys (a - a % 4))
    (v.toNat / 2 ^ (8 * (a % 4)) % 2 ^ (8 * n), s)

/-- A read by a warden. In step, one access serves both: the warden that comes second takes the response the first had (R290). -/
def wardenRead (s : State) (w : Warden) (a n : Nat) : Nat × State :=
  let lag := (w == .b) == s.yoke.readsB
  let fresh (s : State) (share : Bool) : Nat × State :=
    let (v, s) := systemRead s w a n
    if share then
      (v, s.modYoke (fun y => { y with
        reads := y.reads ++ [{ addr := a, data := BitVec.ofNat 32 v, be := BitVec.ofNat 4 n }]
        readsB := w == .a }))
    else (v, s)
  if !comparing s then fresh (s.modYoke (fun y => { y with reads := [] })) false
  else
    match s.yoke.reads with
    | [] => fresh s true
    | r :: rs =>
      if !lag then fresh s true
      else if r.addr = a ∧ r.be = BitVec.ofNat 4 n then (r.data.toNat, s.modYoke (fun y => { y with reads := rs }))
      else fresh s false

/-- The gate of a warden's access, and the die behind it. -/
def wardenPass (s : State) (a : Nat) (write : Bool) : Bool × State :=
  if dieAnswers s a then gatePass s .warden a write else (false, s)

/-- An access of a warden that waits: its instruction issues again (R261, R296, R405). -/
def standStill (s : State) (c : CoreId) : State := s.modCore c.num (fun x => { x with slots := x.slots - 1 })

/-- A load of n bytes at the address ra + imm, extended by f. It waits while its read is held (R261), during a switch-over gap
(R296), and while a Field die wakes from IDLE (R405). An uncorrectable block of a TU's data space ends the request, and one of Keep SRAM is a
residue mismatch of the warden (R270). -/
def load (s : State) (c : CoreId) (rd ra : Nat) (imm : BitVec 16) (n : Nat) (f : Nat → Word) : State :=
  issue s c (fun s x =>
    let a := (x.getW ra + imm.signExtend 32).toNat
    let put (s : State) (v : Nat) : State := s.modCore c.num (fun x => (x.setW rd (f v)).next)
    match dataAt s c a n false with
    | .bad e => kxFault s c e
    | .localMem o =>
      match c with
      | .tu t =>
        match readUnit s (.tuData t (o / 8)) with
        | (.bad, s) => faultCtx s t
        | (_, s) => put s (ofLe (localRead x o n))
      | _ => put s (ofLe (localRead x o n))
    | .ring o => put s (fieldLe (histBytes s (o / 16)) (o % 16) n)
    | .sys t =>
      let (ok, s) := if dieGated s t then (true, startWake s) else wardenPass s t false
      if dieGated s t then standStill s c
      else if !ok then kxFault s c .denied
      else if s.yoke.gap then standStill s c
      else if !(memUnread s t n).isEmpty then holdReads (standStill s c) (memUnread s t n) .warden
      else
        let w := c.warden.getD .a
        match (if inRange t 0x10000000 0x107FFFFF then readUnit s (.keepSram ((t - 0x10000000) / 8)) else (.good, s)) with
        | (.bad, s) => raiseSelfFlag s w
        | (_, s) =>
          let (v, s) := wardenRead s w t n
          put s v)

/-- A store of the low n bytes of rs at the address ra + imm. -/
def store (s : State) (c : CoreId) (rs ra : Nat) (imm : BitVec 16) (n : Nat) : State :=
  issue s c (fun s x =>
    let a := (x.getW ra + imm.signExtend 32).toNat
    let v := (x.getW rs).toNat
    match dataAt s c a n true with
    | .bad e => kxFault s c e
    | .localMem o => goOn (s.setCore c.num (localWrite x o (le n v))) c
    | .ring o => goOn (ringWrite s o (le n v)) c
    | .sys t =>
      let (ok, s) := if dieGated s t then (true, startWake s) else wardenPass s t true
      if dieGated s t then standStill s c
      else if !ok then kxFault s c .denied
      else
        let item : YokeItem := {
          addr := t - t % 4
          data := BitVec.ofNat 32 (v % 2 ^ (8 * n) * 2 ^ (8 * (t % 4)))
          be := BitVec.ofNat 4 ((2 ^ n - 1) * 2 ^ (t % 4)) }
        yokeIssue (goOn s c) (c.warden.getD .a) item)

end Sys2Proof.Machine
end

