-- ==== Sys2Proof/Machine/KxSys.lean ====
section
/-! DEFINITION. System ports, interrupts and traps of the W and S variants, WFI, ERET, TRAP and NOP, and residue mismatches
(05_transaction_units.md R152, R153; 06_knatrix_isa.md R162, R167, R174, R175; 20_register_map.md R428). -/

set_option linter.unusedVariables false

namespace Sys2Proof.Machine

open Sys2Proof Sys2Proof.Bits

/-! ### Interrupts -/

/-- A core takes an enabled line between instructions, with interrupts enabled and no multiplier write pending, as trap cause 0x80 + i. EPC is
the address of the next instruction; a WFI that waits has ended (R175). -/
def takeLine (s : State) (c : CoreId) (line : Fin 64) : State :=
  let x := wake s c (s.core c.num)
  let y := s.sysCore c.side
  if c.isTu || !canIssue x || !y.ien || !y.imask.getLsbD line || !lineUp s c line || !x.pend.isEmpty then s
  else
    let s := s.setSys c.side { y with lines := y.lines &&& ~~~(BitVec.twoPow 64 line) }
    takeTrap (s.setCore c.num x) c (BitVec.ofNat 8 (0x80 + line)) x.pc

/-- Both wardens stand at the same instruction boundary (R290). -/
def sameBoundary (s : State) : Bool := (s.core 2048).slots == (s.core 2049).slots

/-- INTERRUPT_ENTRY (R175). In step, the yoke delivers the line to both wardens at the same instruction boundary, so that the row waits until the
one behind has come to it (R290). -/
def execInterruptEntry (c : CoreId) (line : Fin 64) (s : State) : Host.Outcome State Fault Refusal :=
  done (
    if c.warden.isSome && comparing s then (if sameBoundary s then takeLine (takeLine s .wardenA line) .wardenB line else s)
    else takeLine s c line)

/-! ### Instructions of the SYS group (R163, R175) -/

/-- ERET: back to EPC with the interrupt enable restored. -/
def execKxEret (c : CoreId) (s : State) : Host.Outcome State Fault Refusal :=
  done (issueSys s c (fun s x =>
    let y := s.sysCore c.side
    (s.setCore c.num (x.jump y.epc.toNat)).setSys c.side { y with ien := y.ienSaved, inTrap := false }))

/-- WFI: wait until an enabled interrupt is pending. -/
def execKxWfi (c : CoreId) (s : State) : Host.Outcome State Fault Refusal :=
  done (issueSys s c (fun s x =>
    if lineWaiting s c then s.setCore c.num { x.next with wait := .none }
    else s.setCore c.num { x.flush with wait := .wfi }))

/-- TRAP: cause 0x0F. -/
def execKxTrap (c : CoreId) (s : State) : Host.Outcome State Fault Refusal :=
  done (issueSys s c (fun s x => kxFault s c .trap))

/-- NOP, and any word that R162 leaves undefined; an SPOFS word that R172 excludes counts as a port error on a TU. A defined word other than NOP is no operand of this row (log 1). -/
def execKxNop (c : CoreId) (word : Word) (s : State) : Host.Outcome State Fault Refusal :=
  if word = 0xF8000000 then done (plain s c (fun x => x))
  else if (Kx.classify word.toNat).isNone then
    done (issue s c (fun s x => kxFault s c (if c.isTu && Kx.spofsExcluded word.toNat then .operand else .undefined)))
  else done s

/-! ### System ports (R167, R174, R175) -/

/-- CTX_MODE as it reads. -/
def ctxMode (x : Core) : Word := BitVec.ofNat 32 (b2n x.sat + 2 * x.rnd.toNat + 8 * b2n x.ovf)

/-- What a system port of a W or S core reads; none for an unlisted port. -/
def sysPortIn (s : State) (c : CoreId) (x : Core) (port : Nat) : Option Word :=
  let y := s.sysCore c.side
  if port = 0x0800 then some (ctxMode x)
  else if 0x8000 ≤ port ∧ port < 0x8010 ∧ c.warden.isSome then some (Map.get 0 y.apt (port - 0x8000))
  else if port = 0x8010 then some y.tvec
  else if port = 0x8011 then some y.epc
  else if port = 0x8012 then some (y.ecause.setWidth 32)
  else if port = 0x8013 then some (BitVec.ofNat 32 (b2n y.ien))
  else if port = 0x8014 then some (y.imask.setWidth 32)
  else if port = 0x8015 then some ((y.imask >>> 32).setWidth 32)
  else none

/-- A write of a system port of a W or S core; none for an unlisted port. -/
def sysPortOut (s : State) (c : CoreId) (port : Nat) (v : Word) : Option State := setPort s c.num c.side c.warden.isSome port v

/-- An IN of a W or S core. -/
def coreIn (s : State) (c : CoreId) (x : Core) (r port : Nat) : State :=
  match sysPortIn s c x port with
  | some v => s.setCore c.num (x.setW r v).next
  | none => kxFault s c .port

/-- An OUT of a W or S core: the port is the core's own. A warden's output goes through the yoke, which holds it for comparison and forwards it
(R291). -/
def coreOut (s : State) (c : CoreId) (port : Nat) (v : Word) : State :=
  match sysPortOut s c port v with
  | none => kxFault s c .port
  | some t =>
    match c.warden with
    | some w => yokeIssue (goOn s c) w { addr := 2 ^ 40 + port, data := v, be := 0xF }
    | none => goOn t c

/-- CTX_MODE_WRITE (R167). -/
def execCtxModeWrite (c : CoreId) (v : Word) (s : State) : Host.Outcome State Fault Refusal :=
  done (issue s c (fun s x =>
    match c with
    | .tu _ => s.setCore c.num (x.setMode v).next
    | _ => coreOut s c 0x0800 v))

/-! ### Residue mismatches (R152, R153, R175) -/

/-- One residue mismatch of a TU context: its request ends and its TU is retired at the third within 1 s. -/
def tuResidue (s : State) (n : Nat) : State :=
  let t := tuOfCtx n
  let page := barnPage (barnOfCtx n)
  let s := evtCount s page 0x088 13 0
  let s := latchErr s page 0x0010 t
  let times := noteTime (Map.get [] s.dev.tuFaults t) s.tmr.now 3
  let s := { s with dev := { s.dev with tuFaults := Map.set [] s.dev.tuFaults t times } }
  let s := faultCtx s n
  if withinSpan times 3 second ∧ !tuRetired s t then
    let s := { s with dev := { s.dev with tuRetired := Map.set false s.dev.tuRetired t true } }
    let s := latchErr s page 0x0013 t
    checkUnits (postRetired s (dieOfCtx n) 1 t)
  else s

/-- RESIDUE_MISMATCH (R152). On a TU the request ends; a warden raises its self-flag; the scarecrow takes trap cause 0x06, and
its sentinel-fault channel trips, once (R310). -/
def execResidueMismatch (c : CoreId) (s : State) : Host.Outcome State Fault Refusal :=
  let x := s.core c.num
  if x.phase ≠ .running then done s
  else
    match c with
    | .tu n => done (tuResidue s n)
    | .scarecrow => done (takeTrap (if (s.sysCore c.side).inTrap then s else sentinelFault s) c 0x06 x.pc)
    | .wardenA => done (raiseSelfFlag s .a)
    | .wardenB => done (raiseSelfFlag s .b)

end Sys2Proof.Machine
end

