-- ==== Sys2Proof/Machine/Admission.lean ====
section
/-! DEFINITION. The arrival of a descriptor: its fields, the admission checks, rejection and acceptance (R37, R43, R44, R49, R59,
R65, R108 to R111, R118, R120, R124). -/

set_option linter.unusedVariables false

namespace Sys2Proof.Machine

open Sys2Proof Sys2Proof.Bits

/-- The fields of 128 descriptor bytes (R43). -/
def parseDesc (b : Bytes) : Desc where
  fn := BitVec.ofNat 16 (fieldLe b 0 2)
  flags := BitVec.ofNat 16 (fieldLe b 2 2)
  gen := BitVec.ofNat 16 (fieldLe b 4 2)
  inLen := fieldLe b 6 2
  flow := fieldLe b 8 4
  outCap := fieldLe b 12 4
  tag := BitVec.ofNat 64 (fieldLe b 16 8)
  handles := (List.range 4).map (fun k => BitVec.ofNat 64 (fieldLe b (24 + 8 * k) 8))
  outAddr := BitVec.ofNat 64 (fieldLe b 56 8)
  tailBytes := slice b 64 64

/-- Flags of the descriptor. -/
def Desc.isInline (d : Desc) : Bool := d.flags.getLsbD 0
def Desc.urgent (d : Desc) : Bool := d.flags.getLsbD 1
def Desc.ordered (d : Desc) : Bool := d.flags.getLsbD 2
def Desc.assisted (d : Desc) : Bool := d.flags.getLsbD 3

/-- Input address of a descriptor without inline input. -/
def Desc.inAddr (d : Desc) : Nat := fieldLe d.tailBytes 0 8

/-- Check 3 of R44: the code is defined, belongs to the function's classes, is served in the life-cycle state, and on a VF has a
RESIDENT window; in SCRAP no request is served, TALLY_EXPORT included (R28, R64, R157, R326, R328; log 112). -/
def opcodeOk (s : State) (f : Nat) (d : Desc) : Bool :=
  let fn := d.fn.toNat
  match fnRow fn with
  | none => false
  | some _ =>
    if f = 0 then
      decide (fnClass fn = 0xE) && lcCode s != lcScrap && (fn == 0xE060 || !(lcCode s == lcBlank || lcCode s == lcMinted))
    else decide (1 ≤ fnClass fn ∧ fnClass fn ≤ 7) && fnResident s fn

/-- The mode flag a descriptor has to carry: by the split in force when the descriptor arrives (R58, R59, R389; log 99). -/
def assistWanted (s : State) (f : Nat) (d : Desc) : Bool :=
  if f = 0 then d.fn == 0xE040 && s.hif.talAssist
  else (s.part (f - 1)).fnSplit.getLsbD (fnClass d.fn.toNat)

/-- Handles at positions that the function does not use are 0 (R46). -/
def unusedHandlesZero (d : Desc) : Bool :=
  match fnRow d.fn.toNat with
  | some r => (List.range 4).all (fun k => r.handles.contains k || d.handle k == 0)
  | none => true

/-- Check 4 of R44. -/
def formatOk (s : State) (f : Nat) (d : Desc) : Bool :=
  let limit := if f = 0 then 0 else (s.part (f - 1)).flowLimit
  decide (d.flags.toNat < 16) && (d.ordered == (d.flow != 0)) && (!d.ordered || decide (d.flow ≤ limit)) &&
    (d.assisted == assistWanted s f d) &&
    (if d.isInline then allZero (d.tailBytes.drop d.inLen) else allZero (d.tailBytes.drop 8)) &&
    (d.outCap != 0 || d.outAddr == 0) && (f != 0 || d.gen == 0) && unusedHandlesZero d

/-- Check 5 of R44. -/
def lengthOk (d : Desc) : Bool :=
  match fnRow d.fn.toNat with
  | some r =>
    (!d.isInline || decide (d.inLen ≤ 64)) && (if d.assisted then r.ha else r.len).ok d.inLen && decide (r.minOut ≤ d.outCap)
  | none => false

/-- Check 6 of R44. -/
def pointerOk (d : Desc) : Bool :=
  let needIn := decide (0 < d.inLen) && !d.isInline
  (!needIn || (d.inAddr != 0 && decide (d.inAddr + d.inLen ≤ 2 ^ 64))) &&
    (d.outCap == 0 || (d.outAddr != 0 && decide (d.outAddr.toNat + d.outCap ≤ 2 ^ 64)))

/-- The admission checks in order: the number of the first that fails with its status; 0 when all hold (R44). -/
def admitCheck (s : State) (f : Nat) (d : Desc) : Nat × Status :=
  if f ≠ 0 ∧ (s.part (f - 1)).state ≠ .active then (1, St.notActive)
  else if f ≠ 0 ∧ d.gen ≠ (s.part (f - 1)).gen then (2, St.notActive)
  else if !opcodeOk s f d then (3, St.badOpcode)
  else if !formatOk s f d then (4, St.badFormat)
  else if !lengthOk d then (5, St.badLength)
  else if !pointerOk d then (6, St.badPointer)
  else (0, St.ok)

/-- Move an entry to a free one of the 4,096-entry pool, where there is one (R124). Answers the entry's index. -/
def moveToSmall (s : State) (e : Nat) : Nat × State :=
  let x := s.entry e
  if x.small then (e, s)
  else
    match freeEntryOf s true with
    | some k => (k, (s.setEntry k { x with small := true }).setEntry e {})
    | none => (e, s)

/-- Reject a descriptor: it is not run, takes no flow sequence, gives its slot reservation back and is staged with its
status (R44, R47, R122, R124). -/
def rejectDesc (s : State) (e check : Nat) (status : Status) : State :=
  let x := s.entry e
  let cur := if x.func = 0 then 0 else (s.part (x.func - 1)).gen
  let s := s.setEntry e { x with
    status := status
    gen := if check = 1 then x.fetchGen else cur
    result := if check = 2 then BitVec.ofNat 64 x.desc.gen.toNat else 0
    slotResv := false }
  let (e, s) := moveToSmall s e
  grantFreed (stageEntry s e)

/-- An RSA private operation whose key has a modulus above 8,192 bits: the record of handle 0 says so (R73; log 43). -/
def rsaLong (s : State) (p : Nat) (d : Desc) : Bool :=
  let h := d.handle 0
  let b := recBytes s p (handleIdx h)
  isRsaPrivate d.fn.toNat && handlePart h == p && byteAt b 3 == Alg.rsa && decide (Alg.keyLen Alg.rsa 1024 < fieldLe b 44 4)

/-- Class of a request's function (R73). -/
def classOf (s : State) (f : Nat) (d : Desc) : Cls :=
  if f ≠ 0 ∧ rsaLong s (f - 1) d then .long
  else
    match fnRow d.fn.toNat with
    | some r => r.cls
    | none => .transaction

/-- Requests of f that entered the urgent class by flag and are not yet released, that is in WRITING, or dropped (R108, R131). -/
def urgentHeld (s : State) (f : Nat) : Nat := Map.count (fun _ x => x.func == f && x.byFlag && (x.state == .reserved || x.state == .staged)) s.entries

/-- Link an ordered request behind its flow's newest entry (R49, R120). -/
def linkFlow (s : State) (e : Nat) : State :=
  let x := s.entry e
  if !x.desc.ordered then s
  else
    let i := flowIdx (s.part (x.func - 1)) x.desc.flow
    let f := s.flow i
    let s := s.modEntry e (fun y => { y with flowSeq := f.next, pred := f.newest })
    s.setFlow i {
      next := if f.next = 0xFFFFFFFF then 1 else f.next + 1
      outstanding := f.outstanding + 1
      newest := some e }

/-- Accept a request: a PF request passes to warden firmware, or ends ABORTED in HALT (R297); a VF request takes its class, chain place, die and slot and
joins its ready list (R49, R108 to R111, R120, R256). -/
def acceptDesc (s : State) (e : Nat) : State :=
  let x := s.entry e
  let f := x.func
  let fc := classOf s f x.desc
  let flag := x.desc.urgent && f != 0 && decide (urgentHeld s f < (s.part (f - 1)).urgentMax)
  let s := s.setEntry e { x with
    accepted := true
    gen := if f = 0 then 0 else (s.part (f - 1)).gen
    fnCls := fc
    cls := if flag then .urgent else fc
    byFlag := flag
    acceptSeq := s.sched.acceptSeq
    acceptedAt := s.tmr.now
    waitSince := s.tmr.now
    phase := if f = 0 then .firmware else .waitSlot }
  let s := { s with sched := { s.sched with acceptSeq := s.sched.acceptSeq + 1 } }
  if f = 0 then
    let ring (s : State) (k : Nat) : State := s.modSys k (fun y => { y with lines := y.lines ||| BitVec.twoPow 64 13 })
    let s := Trace.event (ring (ring s 0) 1) e Trace.kAccept 0 x.desc.fn.toNat
    if s.yoke.halt then endRequest s e St.aborted else s
  else
    let s := linkFlow s e
    let waiting := (slotWaiters s).any (fun w => w != e)
    let s := if waiting then s else placeRequest s e
    Trace.event s e Trace.kAccept 0 x.desc.fn.toNat

/-- The descriptor of a fetch arrives: the head moves past it, and it is accepted or rejected. An access that fails, or that the HOSTDMA gate
denies, stops the SQ (R10, R37, R44). A descriptor whose flow has filled meanwhile stays in host memory (R55). -/
def execDescriptorArrival (e : Fin 69632) (dma : Dma) (s : State) : Host.Outcome State Fault Refusal :=
  let x := s.entry e
  if x.phase ≠ .fetching then done s
  else if dma ≠ .ok ∨ hostGate s false = false then
    let s := (if hostGate s false then s else hostDenied s false).setEntry e {}
    done (grantFreed (sqError s x.func x.sq 2))
  else if flowFull s x.func x.descAddr then done (grantFreed (s.setEntry e {}))
  else
    let q := s.sq x.func x.sq
    let s := if headAddr q = x.descAddr then s.setSq x.func x.sq { q with head := (q.head + 1) % q.size } else s
    let d := parseDesc (s.hostRead x.descAddr.toNat 128)
    let s := s.setEntry e { x with desc := d, phase := .done }
    let (check, status) := admitCheck s x.func d
    if check = 0 then done (acceptDesc s e) else done (rejectDesc s e check status)

end Sys2Proof.Machine
end

