-- ==== Sys2Proof/Machine/Dispatcher.lean ====
section
/-! DEFINITION. Aging and dispatch: weighted deficit round robin, the judgement of handles on a lost die, bulk engine binding, the
choice of a barn, the context group (R20, R112 to R116, R136, R186, R209). -/

set_option linter.unusedVariables false

namespace Sys2Proof.Machine

open Sys2Proof Sys2Proof.Bits

/-- The next higher class. -/
def Cls.up : Cls → Cls
  | .urgent => .urgent
  | .transaction => .urgent
  | .bulk => .transaction
  | .long => .bulk

/-- A request has waited 10 ms on a list: it moves to the next higher class, and its wait starts anew (R112). -/
def execRequestAging (e : Fin 69632) (s : State) : Host.Outcome State Fault Refusal :=
  let x := s.entry e
  if x.phase ≠ .ready ∨ x.cls = .urgent then done s
  else
    let s := s.setEntry e { x with cls := x.cls.up, waitSince := s.tmr.now }
    let s := settleDeficit s x.die x.cls (x.func - 1)
    done (Trace.event s e Trace.kAge 0 x.desc.fn.toNat)

/-- Used handle positions of a request. -/
def usedHandles (d : Desc) : List Nat :=
  match fnRow d.fn.toNat with
  | some r => r.handles
  | none => []

/-- The judgement of R20 while a die is out of service: the first used handle that fails its partition or allocation check, or
lies in an extent of the lost die. -/
def lostJudge (s : State) (x : Entry) : Option (Status × Nat) :=
  if dieUp s 1 && dieUp s 2 then none
  else
    let p := x.func - 1
    (usedHandles x.desc).findSome? (fun k =>
      let h := x.desc.handle k
      if h = 0 ∨ handlePart h ≠ p then some (St.keyNotFound, k)
      else
        match recLoc (s.part p) (handleIdx h) with
        | none => some (St.keyNotFound, k)
        | some (d, _) => if dieUp s d then none else some (St.degraded, 0))

/-- The die can never serve the request: it has lost every engine the function needs (R193, R209). -/
def enginesGone (s : State) (d : Nat) (fn : Nat) : Bool :=
  (fnClass fn == 6 && (List.range 4).all (fun i => (s.bae (4 * (d - 1) + i)).owner == .retired)) ||
    (fnUsesBne s fn && (List.range 4).all (fun i => !barnHasBne s (4 * (d - 1) + i)))

/-- A request that ends at its dispatch, with its status and the failing position. -/
def endsAtDispatch (s : State) (d : Nat) (x : Entry) : Option (Status × Nat) :=
  match lostJudge s x with
  | some r => some r
  | none => if enginesGone s d x.desc.fn.toNat then some (St.degraded, 0) else none

/-- A free bulk engine of die d. -/
def freeBae (s : State) (d : Nat) : Option Nat :=
  ((List.range 4).map (fun i => 4 * (d - 1) + i)).find? (fun b => (s.bae b).owner == .free && !(s.bae b).selftest)

/-- A busy engine of die d with a suspend slot that neither a message nor an urgent request bound before has taken (R116, R191). -/
def suspendableBae (s : State) (d : Nat) : Option Nat :=
  ((List.range 4).map (fun i => 4 * (d - 1) + i)).find? (fun b =>
    let x := s.bae b
    x.owner == .request && !x.selftest && decide (x.susp.length + x.urgent.length < 2))

/-- The engine a class 0x6 request would take, and whether by suspension. -/
def baeFor (s : State) (d : Nat) (x : Entry) : Option (Nat × Bool) :=
  match freeBae s d with
  | some b => some (b, false)
  | none => if x.cls = .urgent then (suspendableBae s d).map (fun b => (b, true)) else none

/-- Barns of die d that can accept a function now. -/
def acceptingBarns (s : State) (d fn : Nat) : List Nat :=
  ((List.range 4).map (fun i => 4 * (d - 1) + i)).filter (fun b => decide (0 < barnGroups s b fn))

/-- The barn of die d that last unwrapped handle 0, while its cache holds the entry (R115). -/
def cachedBarn (s : State) (d : Nat) (x : Entry) : Option Nat :=
  let h := x.desc.handle 0
  let b := Map.get 0 s.sched.unwrapped (unwrapKey d h)
  if h = 0 ∨ b = 0 ∨ (uwcFind s (b - 1) (handlePart h) (handleIdx h) (handleTag h) 0).isNone then none else some (b - 1)

/-- The barn for a request (R115). -/
def chooseBarn (s : State) (d : Nat) (x : Entry) : Option Nat :=
  let bs := acceptingBarns s d x.desc.fn.toNat
  match cachedBarn s d x with
  | some b => if bs.contains b then some b else argMax (fun b => barnGroups s b x.desc.fn.toNat) bs
  | none => argMax (fun b => barnGroups s b x.desc.fn.toNat) bs

/-- A request can run now (R113). -/
def canRun (s : State) (d : Nat) (x : Entry) : Bool :=
  (endsAtDispatch s d x).isSome ||
    ((chooseBarn s d x).isSome && (fnClass x.desc.fn.toNat != 6 || (baeFor s d x).isSome))

/-- The charge of a request (R114). The data length of a bulk request stands in its parameter block, which the HOSTDMA gate
lets the port read (R10). -/
def charge (s : State) (x : Entry) : Nat :=
  if fnClass x.desc.fn.toNat = 6 then
    min 4096 (1 + (if hostGate s false then fieldLe (s.hostRead x.desc.inAddr 8) 0 8 / 65536 else 0))
  else if x.fnCls = .long then 64
  else 1

/-- Partitions with a request on a class list of a die, ascending. -/
def listParts (s : State) (d : Nat) (c : Cls) : List Nat :=
  sortOn (fun p => p) (((s.entries.filter (fun x => x.2.phase == .ready && x.2.die == d && x.2.cls == c)).map (fun x => x.2.func - 1)).eraseDups)

/-- The head of a partition's sublist can run now. -/
def headRuns (s : State) (d : Nat) (c : Cls) (p : Nat) : Bool :=
  match subList s d c p with
  | e :: _ => canRun s d (s.entry e)
  | [] => false

/-- Some request of a partition's sublist can run now (R113). -/
def someRuns (s : State) (d : Nat) (c : Cls) (p : Nat) : Bool := (subList s d c p).any (fun e => canRun s d (s.entry e))

/-- The highest class of the die in which some partition has a request that can run now (R113). -/
def dispatchClass (s : State) (d : Nat) : Option Cls :=
  [Cls.urgent, .transaction, .bulk, .long].find? (fun c => (listParts s d c).any (someRuns s d c))

/-- The first partition of a list at or after a number, wrapping. -/
def fromPointer (ps : List Nat) (k : Nat) : Option Nat :=
  match ps.find? (fun p => decide (k ≤ p)) with
  | some p => some p
  | none => ps.head?

def setPointer (s : State) (key p : Nat) (visiting : Bool) : State :=
  { s with sched := { s.sched with
    pointer := Map.set 0 s.sched.pointer key p
    visiting := Map.set false s.sched.visiting key visiting } }

/-- The largest value of a deficit counter (R114). -/
def deficitCap : Nat := 2 * 4096 + 255

/-- Weighted deficit round robin over one class of one die: the request dispatched, with the counters and the pointer as the
visits leave them (R113, R114). `fuel` bounds the visits. -/
def wdrr (d : Nat) (c : Cls) : Nat → State → Option (Nat × State)
  | 0, _ => none
  | fuel + 1, s =>
    let key := 4 * (d - 1) + Trace.clsCode c
    let k := Map.get 0 s.sched.pointer key
    match fromPointer (listParts s d c) k with
    | none => none
    | some p =>
      if !headRuns s d c p then wdrr d c fuel (setPointer s key ((p + 1) % 2048) false)
      else
        match subList s d c p with
        | [] => none
        | e :: _ =>
          let begun := p == k && Map.get false s.sched.visiting key
          let v := s.deficit d c p
          let v := if begun then v else min deficitCap (v + (s.part p).weight)
          let s := setPointer (s.setDeficit d c p v) key p true
          let n := charge s (s.entry e)
          if n ≤ v then some (e, s.setDeficit d c p (v - n))
          else wdrr d c fuel (setPointer s key ((p + 1) % 2048) false)

/-- Give the contexts of a group to a request: every register cleared, a new mask, the lead running at the function's entry
(R134, R136). -/
def startGroup (s : State) (e : Nat) (entryOfs : Nat) (group : List Nat) : State :=
  ((List.range group.length).zip group).foldl (fun s m =>
    let (mask, s) := drawMask s (barnOfCtx m.2)
    s.setCore m.2 {
      phase := if m.1 = 0 then .running else .reserved
      entry := e
      member := m.1
      pc := if m.1 = 0 then entryOfs else 0
      mask := mask }) s

/-- Bind a bulk engine to a request (R116, R186). -/
def bindBae (s : State) (e : Nat) (b : Nat × Bool) : State :=
  let x := s.bae b.1
  if b.2 then s.setBae b.1 { x with urgent := x.urgent ++ [e] }
  else s.setBae b.1 { x with owner := .request, entry := e, keyParts := [], msg := none, cntHi := false }

/-- Ungate a stook; the power state is TRIM while some stook is gated (R402). -/
def ungateClock (s : State) (k : Nat) : State :=
  let g := Map.set false s.pwr.gated k false
  { s with pwr := { s.pwr with gated := g, state := if s.pwr.state = pwrTrim ∧ g.isEmpty then pwrRun else s.pwr.state } }

/-- Send a request to a barn: it leaves its list, its group is reserved in a stook, a bulk engine is bound (R115, R136). -/
def runRequest (s : State) (d e : Nat) : State :=
  let x := s.entry e
  let fn := x.desc.fn.toNat
  match chooseBarn s d x with
  | none => s
  | some b =>
    match pickStook s b fn with
    | none => s
    | some k =>
      match stookFn s k fn with
      | none => s
      | some (n, f) =>
        let s := leaveReady s e .running
        let group := placeMembers s k f.group []
        let s := ungateClock (startGroup s e f.entry group) k
        let s := s.modEntry e (fun y => { y with barn := b, lead := group.headD 0, group := group, window := n, ran := true })
        let s := if fnClass fn = 6 then (match baeFor s d x with | some a => bindBae s e a | none => s) else s
        Trace.event s e Trace.kDispatch (group.headD 0) fn

/-- Dispatch one chosen request: it ends by the judgement of R20 or for want of engines, or it runs. -/
def dispatchRequest (s : State) (d e : Nat) : State :=
  match endsAtDispatch s d (s.entry e) with
  | some (st, pos) => endRequestWith s e st (BitVec.ofNat 64 pos)
  | none => runRequest s d e

/-- A dispatch opportunity of a die's port (R113). A die held under R407 is sent no new work, nor is one whose link retrains (R19). A class whose
heads all wait gives the opportunity away. -/
def execRequestDispatch (die : Fin 2) (s : State) : Host.Outcome State Fault Refusal :=
  let d := die.val + 1
  if !keepRuns s || !dieUp s d || Map.get false s.pwr.hot die || s.pwr.state == pwrIdle || linkWaits s d then done s
  else
    match dispatchClass s d with
    | none => done s
    | some c =>
      match wdrr d c (4098 * ((listParts s d c).length + 1)) s with
      | none => done s
      | some (e, t) => done (dispatchRequest t d e)

end Sys2Proof.Machine
end

