-- ==== Sys2Proof/Machine/Staging.lean ====
section
/-! DEFINITION. Where the output of a request stands until it is released: the inline room of its descriptor slot, the slot's area of its
die's HBM staging region, or warden working memory for a request of the PF rings (R24, R143, R255, R256, R263, R342, R347; log 47). -/

set_option linter.unusedVariables false

namespace Sys2Proof.Machine

open Sys2Proof Sys2Proof.Bits

/-- Inline room of a descriptor slot in bytes (R143). -/
def outRoom : Nat := 96

/-- Warden working memory of a stack that serves as areas for the output of PF requests, and the size of an area: the largest output of a class
0xE function, in 4 KiB pages (R255, R256; log 108). -/
def workBase : Nat := 0x344000000
def areaSize : Nat := 0x401000
def areaCount : Nat := 175

/-- Largest output of a class 0xE function (R256). -/
def largestOut (fn : Nat) : Nat := if fn = 0xE040 then 160 + 64 * 65536 else if fn = 0xE060 then 97 else 0

/-- A free area, in H0, or in H1 while H0 is out of service (R256). -/
def freeArea (s : State) : Option Nat :=
  let d? : Option Nat := if dieUp s 1 then some 0 else if dieUp s 2 then some 1 else none
  d?.bind (fun d => ((List.range areaCount).map (1024 * d + ·)).find? (fun a => !s.entries.any (fun x => x.2.area == some a)))

/-- Die and window offset of the staging area of a request: die-local slot s has 32 KiB at 0x8000 × s of the staging region (R255); a request
of the PF rings has an area of warden working memory (R256). One that is not dispatched, and one that the boot ROM serves, have none. -/
def stagePlace (x : Entry) : Option (Nat × Nat) :=
  if x.func ≠ 0 then (if x.die = 1 ∨ x.die = 2 then some (x.die, stagingBase + 0x8000 * x.slot) else none)
  else x.area.map (fun a => (a / 1024 + 1, workBase + areaSize * (a % 1024)))

/-- Bytes of a request's output that its descriptor slot holds, and the class that stages the rest. -/
def inlineRoom (x : Entry) : Nat := if x.func = 0 then 0 else outRoom
def stageClass (x : Entry) : InitClass := if x.func = 0 then .warden else .tu

/-- A write of n output bytes at offset o that reaches beyond the output capacity: none of it is staged (R143). -/
def beyondCap (x : Entry) (o n : Nat) : Bool := decide (x.desc.outCap < o + n)

/-- First bytes of the pieces of an access of n bytes, split at each 4 KiB boundary (R342). -/
def gatePieces (a n : Nat) : List Nat :=
  if n = 0 then [] else a :: ((List.range ((a + n - 1) / 4096 - a / 4096)).map (fun k => 4096 * (a / 4096 + 1 + k)))

/-- The address at which the gate of the stack denies the staging class the part of an output write that lies beyond the inline room. -/
def stageDenied (s : State) (x : Entry) (o : Nat) (bs : Bytes) : Option Nat :=
  if beyondCap x o bs.length then none
  else
    match stagePlace x with
    | none => none
    | some (d, base) =>
      (gatePieces (hbmBase d + base + (o - inlineRoom x)) (bs.drop (inlineRoom x - o)).length).find?
        (fun a => !gateAllows s (stageClass x) a true)

/-- The part of an output write beyond the inline room goes to the staging area. -/
def stageBeyond (s : State) (x : Entry) (o : Nat) (bs : Bytes) : State :=
  if beyondCap x o bs.length then s
  else
    match stagePlace x with
    | none => s
    | some (d, base) => hbmWrite s d (base + (o - inlineRoom x)) (bs.drop (inlineRoom x - o))

/-- The part of an output write that the entry itself holds. Of a write that reaches beyond the capacity the entry notes the highest byte
attempted. -/
def stageInline (x : Entry) (o : Nat) (bs : Bytes) : Entry :=
  if bs.isEmpty then x
  else if beyondCap x o bs.length then { x with outOver := max x.outOver (o + bs.length) }
  else
    { x with out := ((List.range bs.length).zip bs).foldl (fun (m : Map Byte) (p : Nat × Byte) =>
        if (stagePlace x).isNone ∨ o + p.1 < inlineRoom x then Map.set 0 m (o + p.1) p.2 else m) x.out }

/-- Stage output bytes of request e at an offset. -/
def stageOutput (s : State) (e o : Nat) (bs : Bytes) : State :=
  (stageBeyond s (s.entry e) o bs).modEntry e (fun x => stageInline x o bs)

/-- Lines that hold up the transfer of a posted request's output (R261). -/
def stagedUnread (s : State) (e : Nat) : List Nat :=
  let x := s.entry e
  match stagePlace x with
  | none => []
  | some (d, base) => Hbm.blockingRange (s.stack d) base (x.outLen - inlineRoom x)

/-- The staged bytes beyond the inline room of a posted request come to the Keep die with its completion; none when a line that holds them
is poisoned (R263), or when the stack of a PF request's area has left service (log 108). -/
def transferOutput (s : State) (e : Nat) : Option State :=
  let x := s.entry e
  match stagePlace x with
  | none => some s
  | some (d, base) =>
    let n := x.outLen - inlineRoom x
    if n = 0 then some s
    else if Hbm.poisoned (s.stack d) base n || (x.func == 0 && !(s.stack d).inService) then none
    else
      let (bs, s) := hbmRead s d base n
      some (s.modEntry e (fun x => { x with
        out := ((List.range n).zip bs).foldl (fun (m : Map Byte) (p : Nat × Byte) => Map.set 0 m (inlineRoom x + p.1) p.2) x.out }))

end Sys2Proof.Machine
end

