-- ==== Sys2Proof/Machine/Release.lean ====
section
/-! DEFINITION. Watchdogs, the posting of a completion, staging, release order, the completion write and its interrupts; function-level
reset and the generation increment (R25, R38, R41, R42, R45, R47 to R54, R57, R121 to R128, R143, R144, R277, R412, R451). -/

set_option linter.unusedVariables false

namespace Sys2Proof.Machine

open Sys2Proof Sys2Proof.Bits

/-- The class watchdog expires before the completion is STAGED (R127). -/
def execClassWatchdogExpiry (e : Fin 69632) (s : State) : Host.Outcome State Fault Refusal := done (expireWatchdog s e)

/-- The TU watchdog of a dispatched request expires (R154). -/
def execTuWatchdogExpiry (e : Fin 69632) (s : State) : Host.Outcome State Fault Refusal :=
  let x := s.entry e
  if x.phase = .running ∨ x.phase = .drafted then done (expireWatchdog s e) else done s

/-- The result word that the table of R61 gives a status other than OK, of the word w that the request wrote: the handle position of a key
status, the capacity of BAD_LENGTH, the count of a class 0x6 request, else 0. -/
def statusWord (st : Status) (bulk : Bool) (w : BitVec 64) : BitVec 64 :=
  if St.isKey st then w &&& 3
  else if st = St.badLength then w &&& 0xFFFFFFFF
  else if bulk ∧ (st = St.tagFail ∨ st = St.aborted ∨ st = St.watchdog ∨ st = St.faultAlarm) then w
  else 0

/-- The status that a posted completion ends with, and its result word: an OK with output beyond capacity is BAD_LENGTH with the capacity it
took, an OK without the policy step its keys need is FAULT_ALARM, the policy unit's KEY_USE_EXHAUSTED carries the handle position, and a
value that R61 does not list is posted as FAULT_ALARM (R50, R61, R143, R144, R151; log 102). -/
def postedStatus (x : Entry) : Status × BitVec 64 :=
  let bulk := fnClass x.desc.fn.toNat == 6
  if x.status ≠ St.ok then
    if !St.listed.contains x.status then (St.faultAlarm, 0)
    else if x.status = St.keyUseExhausted ∧ x.polResult = St.keyUseExhausted then (x.status, BitVec.ofNat 64 x.failPos)
    else (x.status, statusWord x.status bulk x.result)
  else if x.polNeed ∧ ¬ (x.polPhase = .answered ∧ x.polResult = St.ok) then (St.faultAlarm, 0)
  else if x.outOver ≠ 0 then (St.badLength, BitVec.ofNat 64 x.outOver)
  else if x.desc.outCap < x.outLen then (St.badLength, BitVec.ofNat 64 x.outLen)
  else (St.ok, x.result)

/-- The lead of context n posts completion: the conversions, then the end of its context group (R142 to R144). -/
def postCompletion (s : State) (n : Nat) : State :=
  let e := (s.core n).entry
  let x := s.entry e
  let (st, r) := postedStatus x
  let keep := st == St.ok
  let s := s.setEntry e { x with
    status := st
    result := r
    outLen := if keep then x.outLen else 0
    out := if keep then x.out else []
    outOver := 0
    phase := .posted }
  clearGroup s e true

/-- REQ_COMPLETE (R142). A helper's write is a port error. -/
def execReqComplete (c : Fin 2048) (v : Word) (s : State) : Host.Outcome State Fault Refusal :=
  let k := s.core c
  if k.phase ≠ .running ∨ !(s.entry k.entry).group.contains c.val then done s
  else if k.member ≠ 0 then done (portError s c)
  else done (postCompletion s c)

/-- A posted completion reaches the Keep die with its output; the traffic waits while the link of its die retrains (R19, R263, R451). -/
def execCompletionStaged (e : Fin 69632) (s : State) : Host.Outcome State Fault Refusal :=
  let x := s.entry e
  if x.phase = .posted ∧ x.state = .reserved ∧ (x.die = 0 ∨ linkWaits s x.die = false) then
    match stagedUnread s e with
    | [] =>
      match transferOutput s e with
      | some s => done (stageEntry s e)
      | none => done (endRequest s e St.faultAlarm)
    | ls => done (holdLines s (((stagePlace x).map (·.1)).getD x.die) ls (.staging e))
  else done s

/-- An entry leaves its chain: its successor has no entry before it, and its flow no longer counts it. A notice goes to a successor on the other
Field die (R120, R121, R123, R125). -/
def leaveChain (s : State) (e : Nat) (notice : Bool) : State :=
  let x := s.entry e
  let told (y : Entry) : Bool := notice && x.die != 0 && y.die != 0 && x.die != y.die
  let s := { s with entries := Map.mapVals {} (fun _ y =>
      if y.pred = some e then { y with pred := none, notice := y.notice || told y } else y) s.entries }
  if x.func = 0 ∨ !x.accepted ∨ !x.desc.ordered ∨ x.gen ≠ (s.part (x.func - 1)).gen then s
  else
    let i := flowIdx (s.part (x.func - 1)) x.desc.flow
    let f := s.flow i
    s.setFlow i { f with
      outstanding := f.outstanding - 1
      newest := if f.newest = some e then none else f.newest }

/-- Count a dropped completion: VF_GEN_DROP with its sat bit, and the package total (R31, R52). -/
def countDrop (s : State) (n : Nat) : State :=
  let a := vfAddr n 0x3000
  let v := s.regBits a 30 0
  let s := if v < 2 ^ 31 - 1 then s.setRegBits a 30 0 (v + 1) else s
  let s := if 2 ^ 31 - 1 ≤ v + 1 then setInt (s.setRegBits a 31 31 1) hifPage 31 else s
  { s with hif := { s.hif with genDrops := (s.hif.genDrops + 1) % 2 ^ 32 } }

/-- A stale completion is dropped: nothing is written, the entry becomes FREE (R52). -/
def dropEntry (s : State) (e : Nat) : State :=
  let x := s.entry e
  let s := countDrop (Trace.event s e Trace.kDrop 0 x.status.toNat) x.func
  freeEntry (leaveChain (returnRecords s e) e false) e

/-- The 32 bytes of a completion, the phase bit and the degraded-device flag clear (R47). -/
def completionBytes (s : State) (x : Entry) : Bytes :=
  le 8 x.desc.tag.toNat ++ le 2 x.status.toNat ++ le 2 x.gen.toNat ++ le 3 x.outLen ++
    [BitVec.ofNat 8 (b2n x.untrusted)] ++ le 4 x.flowSeq.toNat ++
    le 4 (s.time.ntime / 1000) ++ le 8 x.result.toNat

/-- The entry enters WRITING: the completion is filled, with the timestamp of this moment (R47, R123, R125). -/
def enterWriting (s : State) (e : Nat) : State :=
  let s := if (s.entry e).status = St.ok then s else returnRecords s e
  let x := s.entry e
  let s := s.setEntry e { x with
    state := .writing
    passed := true
    comp := completionBytes s x
    writeSeq := s.sched.writeSeq }
  let s := { s with sched := { s.sched with writeSeq := s.sched.writeSeq + 1 } }
  Trace.event (leaveChain s e true) e Trace.kRelease 0 x.status.toNat

/-- The next generation value: after 0xFFFF comes 1 (R51). -/
def nextGen (g : BitVec 16) : BitVec 16 := if g = 0xFFFF then 1 else g + 1

/-- A staged entry at the head of its chain: while an increment is asked for it waits, but for one that carries the value to come, which is
dropped (R53; log 103); a stale generation is dropped; while its CQ is in error or not enabled it stays; else it enters WRITING (R38, R52,
R122, R123). -/
def execReleaseToWriting (e : Fin 69632) (s : State) : Host.Outcome State Fault Refusal :=
  let x := s.entry e
  if x.state ≠ .staged ∨ x.pred ≠ none then done s
  else if x.func ≠ 0 ∧ (s.part (x.func - 1)).incPending ≠ 0 ∧ x.gen ≠ nextGen (s.part (x.func - 1)).gen then done s
  else if x.func ≠ 0 ∧ x.gen ≠ (s.part (x.func - 1)).gen then done (dropEntry s e)
  else if (s.cq x.func x.cq).error ∨ !(s.cq x.func x.cq).enable then done s
  else done (enterWriting s e)

/-- The oldest WRITING entry of a CQ (R125). -/
def oldestWriting (s : State) (f n : Nat) : Option Nat :=
  let xs := s.entries.filter (fun x => x.2.state == .writing && x.2.func == f && x.2.cq == n)
  ((sortOn (fun x => x.2.writeSeq) xs).map (·.1)).head?

/-- Bin of a latency for base 2^k ns: the count of lower edges, floor(2^(k + b/8)) for b = 0 to 126, at or below it (R412). -/
def histBin (k lat : Nat) : Nat := ((List.range 127).filter (fun b => decide (2 ^ (8 * k + b) < (lat + 1) ^ 8))).length

/-- Add a completion to its latency histogram, a 48-bit performance counter (R411, R412). -/
def histAdd (s : State) (x : Entry) : State :=
  let c := if x.desc.urgent then 0 else Trace.clsCode x.fnCls
  let i := 128 * c + histBin s.hif.histBase (s.tmr.now - x.acceptedAt)
  let n := Map.get 0 s.hif.hist i + 1
  if (s.reg (hifPage + 0x10)).getLsbD 0 then s
  else
    { s with hif := { s.hif with
      hist := Map.set 0 s.hif.hist i (n % 2 ^ 48)
      histWrap := if n < 2 ^ 48 then s.hif.histWrap else Map.set false s.hif.histWrap i true } }

/-- The completion bytes as they go out: the phase bit of the CQ's pass, and the degraded-device flag while DEGRADED is set (R22, R41). -/
def withPhase (comp : Bytes) (phase degraded : Bool) : Bytes :=
  comp.mapIdx (fun i b => if i = 15 then b ||| (if phase then 0x80 else 0) ||| (if degraded then 2 else 0) else b)

/-- A completion whose output could not be written: BAD_POINTER with output length 0 and result word 0 (R45, R61). -/
def badPointerComp (comp : Bytes) : Bytes :=
  comp.take 8 ++ le 2 St.badPointer.toNat ++ slice comp 10 2 ++ zeros 3 ++ slice comp 15 9 ++ zeros 8

/-- Output bytes of an entry in order. -/
def outBytes (x : Entry) : Bytes := (List.range x.outLen).map (fun i => Map.get 0 x.out i)

/-- The completion TLP: output first, then the completion at the CQ's tail with the phase of its pass; the tail moves on, the
completion is counted, and the entry becomes FREE. An access that fails in the output changes the completion to
BAD_POINTER; one that fails in the completion loses it, and with a closed HOSTDMA gate nothing is written. In each of these cases no handle
has been issued, and the records the request made return to empty. A CQ in error is not written (R10, R22, R38, R41, R42, R45, R57, R70, R123,
R412). -/
def execCompletionTlpIssued (e : Fin 69632) (dma : Dma) (s : State) : Host.Outcome State Fault Refusal :=
  let x := s.entry e
  let q := s.cq x.func x.cq
  if x.state ≠ .writing ∨ oldestWriting s x.func x.cq ≠ some e.val ∨ q.error then done s
  else
    let open_ := hostGate s true
    let failed := dma != .ok || !open_
    let hasOut := decide (0 < x.outLen)
    let s := if failed then returnRecords s e else s
    let s := if open_ then s else hostDenied s true
    let s := if failed || !hasOut then s else s.hostWrite x.desc.outAddr.toNat (outBytes x)
    let comp := if failed && hasOut then badPointerComp x.comp else x.comp
    let s :=
      if !open_ || (failed && !hasOut) then s
      else s.hostWrite (q.base.toNat + 32 * q.tail) (withPhase comp q.phase (s.dev.causes != 0))
    let wrap := q.tail + 1 == q.size
    let s := s.setCq x.func x.cq { q with
      tail := if wrap then 0 else q.tail + 1
      phase := if wrap then !q.phase else q.phase }
    let s := countCompletion s x.func x.cq
    let s := if x.accepted then histAdd s x else s
    done (freeEntry s e)

/-! ### Generations (R51 to R54, R121, R277) -/

/-- No write of the partition that passed its check is in progress, and no accepted request carries the next value (R52, R53). An entry whose CQ
is in error has no write in progress (R38; log 103). -/
def incrementReady (s : State) (p : Nat) : Bool :=
  let g := nextGen (s.part p).gen
  !(s.entries.any (fun x => x.2.func == p + 1 &&
    ((x.2.state == .writing && !(s.cq x.2.func x.2.cq).error) || (x.2.accepted && x.2.gen == g))))

/-- Every ring register, recorded doorbell and MSI-X entry of a function at its Reset value (R54). -/
def resetRings (s : State) (f : Nat) : State :=
  { s with hif := { s.hif with
    sq := s.hif.sq.filter (fun x => !decide (64 * f ≤ x.1 ∧ x.1 < 64 * f + 64))
    cq := s.hif.cq.filter (fun x => !decide (64 * f ≤ x.1 ∧ x.1 < 64 * f + 64))
    msix := s.hif.msix.filter (fun x => !decide (64 * f ≤ x.1 ∧ x.1 < 64 * f + 64))
    rr := Map.set 0 s.hif.rr f 0 } }

/-- A new chain for every flow of the partition (R121). -/
def newChains (s : State) (p : Nat) : State :=
  let x := s.part p
  { s with flows := s.flows.filter (fun y => !decide (x.flowBase ≤ y.1 ∧ y.1 < x.flowBase + x.flowLimit)) }

/-- Stop and abort everything of the partition: descriptors in fetch are given up, and requests not yet STAGED end
ABORTED (R25, R54). -/
def abortPartition (s : State) (p : Nat) (undispatched : Status) : State :=
  let fs := entriesWhere s (fun x => x.func == p + 1 && x.phase == .fetching)
  let s := fs.foldl (fun s e => s.setEntry e {}) s
  let es := entriesWhere s (fun x => x.func == p + 1 && x.accepted && x.state == .reserved)
  es.foldl (fun s e =>
    let ph := (s.entry e).phase
    endRequest s e (if ph = .ready ∨ ph = .waitSlot then undispatched else St.aborted)) s

/-- A reset of the partition begins: RESETTING, everything in flight ends ABORTED, and an increment is asked for (R52, R54, R276). -/
def beginReset (s : State) (p : Nat) : State :=
  let s := s.modPart p (fun x => { x with wasActive := x.state == .active })
  let s := movePart s p .resetting
  let s := abortPartition s p St.aborted
  s.modPart p (fun x => { x with incPending := x.incPending + 1 })

/-- The PARTITION_RESET that waits for the increment completes with the new generation in bytes 24 and 25, unless it has ended
meanwhile (R280). -/
def endReset (s : State) (p : Nat) : State :=
  let x := s.part p
  match x.resetEntry with
  | none => s
  | some e =>
    let s := s.setPart p { x with resetEntry := none }
    let y := s.entry e
    if y.phase = .firmware ∧ y.state = .reserved ∧ y.desc.fn = 0xE002 then
      s.setEntry e { y with
        status := St.ok
        result := BitVec.ofNat 64 x.gen.toNat
        phase := .posted }
    else s

/-- Entries of an array outside [lo, lo + n). -/
def dropRange {α : Type} (m : Map α) (lo n : Nat) : Map α := m.filter (fun x => !decide (lo ≤ x.1 ∧ x.1 < lo + n))

/-- Every key record of a partition is zeroed as KEY_DELETE zeroes it, and its cache entries go (R150, R280). -/
def eraseRecords (s : State) (p : Nat) : State :=
  let drop (s : State) (r : Nat × Bytes) : State :=
    (List.range (max 1 (byteAt r.2 7).toNat)).foldl (fun s k => emptyRecord s p (r.1 + k)) s
  (liveRecords s p).foldl drop (uwcInvalidateAll s p)

/-- Slots that name a partition (R278). -/
def slotsOf (s : State) (p : Nat) : List Nat := Map.keysWhere (fun _ x => x.live && x.owner == 3 && x.part == p) s.grn.slots

/-- What a release erases before the partition becomes EMPTY (R280): generation, tally entries and hamper sequence stay. -/
def releaseItems (s : State) (p : Nat) : State :=
  let s := eraseRecords s p
  let s := if (s.part p).emigrated then (slotsOf s p).foldl eraseSlot s else s
  let x := s.part p
  let s := newChains s p
  let s := s.setPart p {
    state := x.state
    gen := x.gen
    hseq := x.hseq
    resetEntry := x.resetEntry }
  { s with
    grn := { s.grn with
      buckets := s.grn.buckets.filter (fun b => b.2.part != p)
      snap := s.grn.snap.filter (fun b => b.2.part != p)
      snapOld := s.grn.snapOld.filter (fun b => b.2.part != p) }
    decTables := dropRange s.decTables (8 * p) 8
    velPols := dropRange s.velPols (16 * p) 16
    ofc := { s.ofc with part := dropRange s.ofc.part (8 * p) 8, partM := dropRange s.ofc.partM (4 * p) 4 } }

/-- Entries of the partition that still stand in WRITING, on a CQ in error, are dropped: their generation is stale from now on (R38, R52). -/
def dropWriting (s : State) (p : Nat) : State :=
  (entriesWhere s (fun x => x.func == p + 1 && x.state == .writing)).foldl dropEntry s

/-- The increment: the new generation, new chains, ring registers at their Reset values; then, with no further increment asked for, the
state that R276 gives, and the completion of the request that began the reset (R53, R54, R276, R280). -/
def takeIncrement (s : State) (p : Nat) : State :=
  let s := dropWriting s p
  let s := newChains s p
  let s := s.modPart p (fun x => { x with gen := nextGen x.gen, incPending := x.incPending - 1 })
  let s := resetRings s (p + 1)
  let x := s.part p
  if x.incPending ≠ 0 then s
  else if x.releasing then endReset (movePart (releaseItems s p) p .empty) p
  else endReset (movePart s p (if x.wasActive then .active else .frozen)) p

/-- Take the increment now when nothing holds it. -/
def tryIncrement (s : State) (p : Nat) : State :=
  if (s.part p).incPending ≠ 0 ∧ incrementReady s p then grantFreed (takeIncrement s p) else s

/-- GENERATION_INCREMENT (R53): what held the partition's increment has ended. -/
def execGenerationIncrement (p : Fin 2048) (s : State) : Host.Outcome State Fault Refusal := done (tryIncrement s p)

/-- FLR of a VF (R54, R277): of an EMPTY partition it resets the VF's registers alone. -/
def execFlr (p : Fin 2048) (s : State) : Host.Outcome State Fault Refusal :=
  if !s.boot.pfEnabled then done s
  else
    match (s.part p).state with
    | .empty => done (resetRings s (p + 1))
    | .resetting => done (s.modPart p (fun x => { x with incPending := x.incPending + 1 }))
    | .active => done (tryIncrement (beginReset s p) p)
    | .quiescing => done (tryIncrement (beginReset s p) p)
    | .frozen => done (tryIncrement (beginReset s p) p)

end Sys2Proof.Machine
end

