-- ==== Sys2Proof/Machine/Ports.lean ====
section
/-! DEFINITION. I/O ports of a TU context other than the engines: groups and mailboxes, request input and output, random words, time,
the unwrap cache, key records, the policy port and the tally entry (05_transaction_units.md R137 to R151, R154; R69, R233, R382). Each
operation is the effect of one port access that a context issues; a port that has to wait leaves the instruction where it is, and the
same instruction issues again. -/

set_option linter.unusedVariables false

namespace Sys2Proof.Machine

open Sys2Proof Sys2Proof.Bits

/-! ### Shared steps -/

/-- The request of a context. -/
def State.request (s : State) (n : Nat) : Entry := s.entry (s.core n).entry

def State.modRequest (s : State) (n : Nat) (f : Entry → Entry) : State := s.modEntry (s.core n).entry f

/-- A port usable only by member 0 (R142). -/
def leadOnly (s : State) (n : Nat) (k : State → State) : State := if (s.core n).member = 0 then k s else portError s n

/-- The context waits at its instruction. -/
def waitOn (s : State) (n : Nat) (w : Wait) : State := s.modCore n (fun x => { x with wait := w })

/-- The context waits for a BNE or a bulk engine: its watchdog pauses (R154). -/
def waitPaused (s : State) (n : Nat) (w : Wait) : State :=
  s.modCore n (fun x =>
    let ran := match x.started with | some t => s.tmr.now - t | none => 0
    { x with wait := w, wdogUsed := x.wdogUsed + ran, started := none })

/-- A word read completes. -/
def answer (s : State) (n r : Nat) (v : Word) : State :=
  s.modCore n (fun x => ({ x with wait := .none }.setW r v).next)

/-- Go on after a port write. -/
def goNext (s : State) (n : Nat) : State := s.modCore n (fun x => { x with wait := .none }.next)

/-- A waiting instruction issues again. -/
def reissue (s : State) (n : Nat) (p : Wait → Bool) : State :=
  if p (s.core n).wait then s.modCore n (fun x => { x with wait := .none }) else s

/-- A row of a port: context c issues its instruction. -/
def portRow (c : Fin 2048) (w : Wait → Bool) (s : State) (k : State → State) : Host.Outcome State Fault Refusal :=
  done (issue (reissue s c w) (.tu c) (fun s x => k s))

def noWait : Wait → Bool := fun _ => false

/-- Write a secret register of a context and go on. -/
def putSecret (s : State) (n : Fin 2048) (i : Nat) (r : SReg) : State := goNext (writeSecret s (.tu n) i r) n

/-- Package context of member m of a context's group. -/
def memberCtx (s : State) (n m : Nat) : Option Nat := (s.request n).group[m]?

/-! ### Groups (R136, R137) -/

/-- Bank code length of the window that serves a context's request. -/
def bankLength (s : State) (n : Nat) : Nat :=
  match ctxWindow s n with
  | some (w, _) => w.code.length
  | none => 0

/-- A fork: [1:0] helper, [17:2] entry offset in words. The helper's mailboxes stay as they are (log 82). -/
def forkHelper (s : State) (n : Nat) (v : Word) : State :=
  leadOnly s n (fun s =>
    let h := bits v.toNat 1 0
    let ofs := 4 * bits v.toNat 17 2
    match (if h = 0 then none else memberCtx s n h) with
    | none => faultCtx s n
    | some c =>
      let x := s.core c
      if x.forked ∨ bankLength s n ≤ ofs then faultCtx s n
      else
        let w := (s.core n).w.filter (fun p => decide (p.1 < 8))
        let s := s.setCore c {
          phase := .running
          entry := x.entry
          member := x.member
          pc := ofs
          w := w
          mask := x.mask
          smbx := x.smbx
          wmbx := x.wmbx
          forked := true }
        goNext s n)

/-- A join: the lead waits until every forked helper has ended. -/
def joinHelpers (s : State) (n r : Nat) : State :=
  leadOnly s n (fun s =>
    if (s.request n).group.all (fun c => c == n || !(s.core c).forked || (s.core c).phase == .ended) then answer s n r 0
    else waitOn s n .join)

/-- GRP_END ends a helper. On the lead it has no helper to end (log 61). -/
def endHelper (s : State) (n : Nat) : State :=
  if (s.core n).member = 0 then goNext s n else s.modCore n (fun x => { x with phase := .ended })

/-! ### Mailboxes (R138) -/

/-- Send a secret register to a member: four entries, masked on the fabric. -/
def sendSecret (s : State) (n m sa : Nat) : State :=
  match memberCtx s n m with
  | none => portError s n
  | some c =>
    let x := s.core c
    if 4 ≤ x.smbx.length then waitOn s n (.smbxSend m)
    else goNext (s.setCore c { x with smbx := x.smbx ++ [(s.core n).getS sa] }) n

/-- Receive a secret value; it is re-masked and keeps its label and role. A mailbox that parity finds uncorrectable ends the request (R270). -/
def recvSecret (s : State) (n : Fin 2048) (sd : Nat) : State :=
  match (s.core n).smbx with
  | [] => waitOn s n .smbxIn
  | v :: r =>
    match readUnit s (.mailbox n) with
    | (.bad, s) => faultCtx s n
    | (_, s) => putSecret (s.modCore n (fun x => { x with smbx := r })) n sd v

/-- Send a word to a member: eight entries. -/
def sendWord (s : State) (n m : Nat) (v : Word) : State :=
  match memberCtx s n m with
  | none => portError s n
  | some c =>
    let x := s.core c
    if 8 ≤ x.wmbx.length then waitOn s n (.wmbxSend m)
    else goNext (s.setCore c { x with wmbx := x.wmbx ++ [v] }) n

def recvWord (s : State) (n r : Nat) : State :=
  match (s.core n).wmbx with
  | [] => waitOn s n .wmbxIn
  | v :: rest =>
    match readUnit s (.mailbox n) with
    | (.bad, s) => faultCtx s n
    | (_, s) => answer (s.modCore n (fun x => { x with wmbx := rest })) n r v

/-! ### Input and output (R45, R142, R143) -/

/-- The input of a request has still to be read from host memory. -/
def readsHost (x : Entry) : Bool := x.input.isNone && !x.desc.isInline && x.desc.inLen != 0

/-- The state and status with which a failed access to host memory leaves its request: FAULT_ALARM where the HOSTDMA gate denied it, else
BAD_POINTER (R45, R347). -/
def hostLost (s : State) (write : Bool) : Status × State :=
  if hostGate s write then (St.badPointer, s) else (St.faultAlarm, hostDenied s write)

/-- The input bytes of a request: inline, or read from host memory once through the HOSTDMA gate; none when that read fails (R10, R45). -/
def takeInput (s : State) (e : Nat) (dma : Dma) : Option (Bytes × State) :=
  let x := s.entry e
  match x.input with
  | some b => some (b, s)
  | none =>
    if x.desc.isInline ∨ x.desc.inLen = 0 then
      let b := x.desc.tailBytes.take x.desc.inLen
      some (b, s.setEntry e { x with input := some b })
    else if dma = .ok ∧ hostGate s false then
      let b := s.hostRead x.desc.inAddr x.desc.inLen
      some (b, s.setEntry e { x with input := some b })
    else none

/-- The functions whose microprograms store the key of a big-number engine under the template in input bytes 0 to 31 (R100, R202). -/
def storesKey (fn : Nat) : Bool := [0x5007, 0x5008, 0x5009, 0x500C].contains fn

/-- The operand step of a function that stores an engine's key: as its input b is first read, every index of the key that the template names is
reserved, an RSA key's by the modulus bits in bytes 32 and 33. Where R70 refuses the template or an index, the request has no reservation, and
its store finds none (R70, R202; log 64). -/
def reserveAtInput (s : State) (e : Nat) (b : Bytes) : State :=
  let x := s.entry e
  let t := b.take 32
  let spec := templateSpec t
  if !storesKey x.desc.fn.toNat || x.recResv.isSome || !templateOk s (x.func - 1) t then s
  else (reserveIndices s e (x.func - 1) spec.idx (recordsFor (Alg.keyLen spec.alg (fieldLe b 32 2 / 8)))).getD s

/-- An instruction of context n that takes the request's input: while the link of its die to the Keep die retrains, a read from host memory waits
(R19); a read that fails ends the request (R45). -/
def withInputRead (s : State) (n : Nat) (dma : Dma) (k : State → Bytes → State) : State :=
  let e := (s.core n).entry
  if readsHost (s.entry e) && linkWaits s (dieOfCtx n) then s
  else
    match takeInput s e dma with
    | some (b, t) => k (if (s.entry e).input.isNone then reserveAtInput t e b else t) b
    | none => endRequest (hostLost s false).2 e (hostLost s false).1

/-- IN_DATA: four input bytes; bytes at or above the input length read 0. -/
def readInput (s : State) (n r : Nat) (dma : Dma) : State :=
  withInputRead s n dma (fun s b =>
    let o := (s.core n).inOfs
    answer (s.modCore n (fun x => { x with inOfs := (o + 4) % 2 ^ 32 })) n r (BitVec.ofNat 32 (fieldLe b o 4)))

/-- Stage output bytes of the request of context n at an offset and go on; a gate that denies the write ends the request (R347). -/
def portOutput (s : State) (n o : Nat) (bs : Bytes) (k : State → State) : State :=
  match stageDenied s (s.request n) o bs with
  | some a => faultCtx (recordDenial s .tu a true) n
  | none => k (stageOutput s (s.core n).entry o bs)

/-- OUT_DATA. -/
def writeOutput (s : State) (n : Nat) (v : Word) : State :=
  leadOnly s n (fun s =>
    let o := (s.core n).outOfs
    portOutput s n o (le 4 v.toNat) (fun s => goNext (s.modCore n (fun x => { x with outOfs := (o + 4) % 2 ^ 32 })) n))

/-! ### Time, random words and the watchdog (R69, R142, R154) -/

/-- NTIME_LO latches the sample; NTIME_HI and NTIME_VALID read the latch. -/
def readNtime (s : State) (n r k : Nat) : State :=
  if k = 0 then
    let t := BitVec.ofNat 64 s.time.ntime
    answer (s.modCore n (fun x => { x with ntimeHi := (t >>> 32).setWidth 32, ntimeOk := s.time.valid })) n r (t.setWidth 32)
  else if k = 1 then answer s n r (s.core n).ntimeHi
  else answer s n r (BitVec.ofNat 32 (b2n (s.core n).ntimeOk))

/-- A random word of the barn's DRBG, waiting until it serves. -/
def readRandom (s : State) (n r : Nat) : State :=
  if drbgServes s (barnOfCtx n) then
    let (b, s) := drbgGen s (barnOfCtx n) 4
    answer s n r (BitVec.ofNat 32 (ofLe b))
  else waitOn s n .drbg

/-- TU watchdog limit of a request, in us (R154). -/
def wdogLimit (s : State) (n : Nat) : Nat :=
  let d := s.regBits (barnPage (barnOfCtx n) + 0x080) 14 0
  match ctxWindow s n with
  | some (_, f) => if f.wdog = 0 then d else 10 * f.wdog
  | none => d

/-- CTX_WDOG: what the lead has left, in us. -/
def wdogLeft (s : State) (n : Nat) : Nat :=
  let x := s.core (s.request n).lead
  let ran := match x.started with | some t => s.tmr.now - t | none => 0
  wdogLimit s n - (x.wdogUsed + ran) / 1000

/-! ### The unwrap cache (R145 to R149) -/

/-- Whether a lookup may give a key of usage u, mode m and algorithm a the role code at a handle position of a function (R74, R140, R146,
R188, R201). -/
def lookupRole (fn pos code : Nat) (u : BitVec 16) (m a : Byte) : Bool :=
  let has (rows : List KeyRole) : Bool := rows.any (fun r => r.ok u m a)
  match fn, pos, code with
  | 0x1001, 0, 0x01 | 0x1003, 0, 0x01 | 0x1004, 0, 0x01 | 0x1005, 0, 0x01 | 0x1006, 0, 0x01 => has [.pinIn none]
  | 0x1001, 1, 0x02 | 0x1002, 1, 0x02 => has [.pinOut none]
  | 0x1003, 1, 0x03 => has [.pvkOffset false]
  | 0x1004, 1, 0x03 => has [.pvkValue false]
  | 0x1005, 1, 0x04 => has [.pvkOffset true]
  | 0x1006, 1, 0x04 => has [.pvkValue true]
  | 0x2001, 0, 0x05 => has [.mac1 true, .mac3 true, .cmac true]
  | 0x2002, 0, 0x06 => has [.mac1 false, .mac3 false, .cmac false]
  | 0x1002, 0, 0x07 | 0x2003, 0, 0x07 | 0x2004, 0, 0x07 | 0x4005, 0, 0x07 => has [.bdk]
  | 0x3001, 0, 0x07 => has [.imk]
  | 0x3003, 0, 0x05 => has [.cvk true]
  | 0x3004, 0, 0x06 => has [.cvk false]
  | 0x4001, 0, 0x08 => has [.kbpk true]
  | 0x4002, 0, 0x09 | 0x4003, 0, 0x09 | 0x4005, 1, 0x09 => has [.kbpk false]
  | 0x4006, 0, 0x0B => Alg.isTdes a || Alg.isAes a
  | 0x6001, 0, 0x0D | 0x6003, 0, 0x0D => has [.bulk true] && Alg.isAes a
  | 0x6002, 0, 0x0D | 0x6004, 0, 0x0D => has [.bulk false] && Alg.isAes a
  | 0x6005, 0, 0x0D => has [.bulk true] && !Alg.isAes a
  | 0x6006, 0, 0x0D => has [.bulk false] && !Alg.isAes a
  | 0x7003, 0, 0x10 => has [.hmac true]
  | 0x7004, 0, 0x11 => has [.hmac false]
  | _, _, _ => false

/-- Place a key in secret registers from i on, 16 bytes each, with label K and a role. -/
def placeKey (s : State) (n : Fin 2048) (i : Nat) (code : Byte) (key : Bytes) : State :=
  ((List.range ((key.length + 15) / 16)).foldl (fun s k =>
    writeSecret s (.tu n) ((i + k) % 16) { val := block (slice key (16 * k) 16), label := .k, role := code }) s)

/-- UWC_RESULT value of a status and a hit. -/
def uwcWord (st : Status) (hit : Bool) : Word := BitVec.ofNat 32 (st.toNat + 65536 * b2n hit)

/-- The algorithm of the key that the request has loaded from a handle position (R188). -/
def noteAlg (s : State) (e pos : Nat) (k : Key) : State :=
  s.modEntry e (fun x => { x with lookAlg := Map.set 0 x.lookAlg pos k.alg })

def setUwcResult (s : State) (n : Nat) (w : Word) (ready : Bool) : State := s.modCore n (fun x => { x with uwc := some (w, ready) })

/-- A handle fails R46 against a partition: its fields, or the record itself where the stack can be read and its gate lets class TU read it. -/
def handleFails (s : State) (p : Nat) (h : BitVec 64) : Bool :=
  let idx := handleIdx h
  let b := recBytes s p idx
  h == 0 || handlePart h != p || (recLoc (s.part p) idx).isNone ||
    (!recLost s p idx && !recPoisoned s p idx && recGate s .tu p idx false &&
      (byteAt b 2 != 1 || fieldLe b 4 3 != handleTag h || recHidden s p idx))

/-- UWC_LOOKUP. -/
def lookupKey (s : State) (n : Fin 2048) (v : Word) : State :=
  let pos := bits v.toNat 1 0
  let code : Byte := BitVec.ofNat 8 (bits v.toNat 9 2)
  let e := (s.core n).entry
  let s := latchSnap s e
  let s := s.modEntry e (fun x => { x with lookRole := Map.set 0 x.lookRole pos code })
  let x := s.entry e
  let p := x.func - 1
  let h := x.desc.handle pos
  let idx := handleIdx h
  if handleFails s p h then
    goNext (setUwcResult s n (uwcWord St.keyNotFound false) false) n
  else
    let s := uwcScrub s x.barn p idx (handleTag h)
    match uwcHit s x.barn p idx (handleTag h) with
    | some (k, t) =>
      let s := perfCount s (barnPage x.barn) brnUwcHit 1
      let st := keyChecks s e (lookupRole x.desc.fn.toNat pos code.toNat k.usage k.mode k.alg) k
      if st = St.ok then
        let s := noteAlg (notePolicy (perfCount t (barnPage x.barn) brnUwcHit 1) e k) e pos k
        let s := placeKey s n (bits v.toNat 13 10) code k.bytes
        goNext (setUwcResult s n (uwcWord St.ok true) false) n
      else goNext (setUwcResult s n (uwcWord st true) false) n
    | none =>
      let s := perfCount s (barnPage x.barn) brnUwcMiss 1
      let s := s.modEntry e (fun x => { x with tickets := Map.set 0 x.tickets pos 1 })
      goNext (setUwcResult s n (uwcWord St.ok false) false) n

/-- UWC_FILL. The attribute block is record bytes 0 to 47, in the named register and the two after it (log 60). -/
def fillKey (s : State) (n : Fin 2048) (v : Word) : State :=
  let pos := bits v.toNat 1 0
  let kr := bits v.toNat 5 2
  let ar := bits v.toNat 9 6
  let c := s.core n
  let e := c.entry
  let x := s.entry e
  let p := x.func - 1
  let h := x.desc.handle pos
  let attr := (c.getS ar).bytes ++ (c.getS ((ar + 1) % 16)).bytes ++ (c.getS ((ar + 2) % 16)).bytes
  let k := recAttrs attr
  let code := Map.get 0 x.lookRole pos
  let bad (s : State) (st : Status) : State := goNext (setUwcResult s n (uwcWord st false) true) n
  if !c.recAuth ∨ k.part ≠ handlePart h ∨ k.idx ≠ handleIdx h ∨ k.tag ≠ handleTag h then bad s St.keyNotFound
  else
    let st := keyChecks s e (lookupRole x.desc.fn.toNat pos code.toNat k.usage k.mode k.alg) k
    if st ≠ St.ok then bad s st
    else
      let key := ((List.range 4).flatMap (fun j => (c.getS ((kr + j) % 16)).bytes)).take (Alg.symLen k.alg)
      let s := noteAlg (notePolicy s e k) e pos k
      let s := placeKey s n (bits v.toNat 13 10) code key
      let s := if Map.get 0 x.tickets pos = 2 then s else uwcFill s x.barn { k with part := p, bytes := key }
      goNext (setUwcResult s n (uwcWord St.ok false) true) n

/-- UWC_RESULT. -/
def readUwc (s : State) (n r : Nat) : State :=
  match (s.core n).uwc with
  | some (w, true) => answer s n r w
  | _ => waitOn s n .uwcResult

/-! ### Key records (R145, R147, R233) -/

/-- KREC_FETCH: the snapshot is latched and the record-authentication flag cleared. -/
def fetchRecord (s : State) (n : Nat) (v : Word) : State :=
  let s := latchSnap s (s.core n).entry
  goNext (s.modCore n (fun x => { x with fetch := some (bits v.toNat 1 0, v.getLsbD 2), krec := none, recAuth := false })) n

/-- The status of a fetch of the record at a handle position, or of the record after it. -/
def fetchStatus (s : State) (e pos : Nat) (second : Bool) : Status :=
  let x := s.entry e
  let p := x.func - 1
  let h := x.desc.handle pos
  let idx := handleIdx h
  let b := recBytes s p idx
  let at2 := idx + b2n second
  if h = 0 ∨ handlePart h ≠ p ∨ (recLoc (s.part p) idx).isNone ∨ (recLoc (s.part p) at2).isNone then St.keyNotFound
  else if recLost s p at2 ∨ recPoisoned s p at2 then St.degraded
  else if byteAt b 2 ≠ 1 ∨ fieldLe b 4 3 ≠ handleTag h ∨ recHidden s p idx then St.keyNotFound
  else if second ∧ byteAt (recBytes s p at2) 2 ≠ 2 then St.keyNotFound
  else St.ok

/-- The fetched record arrives: on OK in s8 to s15 with label P. The gate of the stack judges the read, which may be held (R261). -/
def recordArrives (s : State) (n : Fin 2048) : State :=
  match (s.core n).fetch with
  | none => s
  | some (pos, second) =>
    let e := (s.core n).entry
    let x := s.entry e
    let p := x.func - 1
    let idx := handleIdx (x.desc.handle pos) + b2n second
    let st := fetchStatus s e pos second
    let unread := recUnread s p (handleIdx (x.desc.handle pos)) ++ recUnread s p idx
    if handlePart (x.desc.handle pos) = p ∧ !unread.isEmpty then holdReads s unread.eraseDups (ctxReader n)
    else if st = St.ok ∧ !recGate s .tu p idx false then faultCtx (recordDenial s .tu (recAddr s p idx) false) n
    else
      let s :=
        if st = St.ok then
          (List.range 8).foldl (fun s k =>
            writeSecret s (.tu n) (8 + k) { val := block (slice (recBytes s p idx) (16 * k) 16) }) (readRecord s p idx)
        else s
      s.modCore n (fun x => { x with fetch := none, krec := some (st.setWidth 32) })

/-- REC_KEY: the per-boot record key, with label K and role 0x0C. -/
def loadRecordKey (s : State) (n : Fin 2048) (v : Word) : State :=
  putSecret s n (bits v.toNat 3 0) { val := s.grn.recKey.getD 0, label := .k, role := 0x0C }

/-- KREC_STORE: a record from key registers and a template. A key that two registers do not hold exactly is no operand of the port. -/
def storeRecord (s : State) (n : Nat) (v : Word) : State :=
  let c := s.core n
  let r (hi lo : Nat) : SReg := c.getS (bits v.toNat hi lo)
  let k0 := r 3 0
  let k1 := r 7 4
  let onePart := bits v.toNat 3 0 == bits v.toNat 7 4
  let t := (r 11 8).bytes ++ (r 15 12).bytes
  let len := Alg.symLen (byteAt t 4)
  let keyLabel (x : SReg) : Bool := x.label == .k || x.label == .p
  if bits v.toNat 31 16 ≠ 0 ∨ !keyLabel k0 ∨ !keyLabel k1 ∨ (r 11 8).label ≠ .p ∨ (r 15 12).label ≠ .p then faultCtx s n
  else if Alg.known (byteAt t 4) ∧ (len = 0 ∨ 32 < len ∨ (onePart ≠ decide (len ≤ 16))) then faultCtx s n
  else
    let e := c.entry
    let x := s.entry e
    let p := x.func - 1
    let spec := templateSpec t
    let key := (k0.bytes ++ k1.bytes).take len
    let finish (s : State) (st : Status) (h : BitVec 64) : State :=
      goNext (s.modCore n (fun x => { x with krec := none, storing := some st, newHandle := h, halfHi := false })) n
    if !templateOk s p t then finish s St.badFormat 0
    else
      match reserveIndices s e p spec.idx 1 with
      | none => finish s St.badFormat 0
      | some s =>
        let (st, h, s) := createRecord s .tu p spec key
        if st = St.faultAlarm then faultCtx s n
        else finish (if st = St.ok then s.modEntry e (fun x => { x with recMade := true }) else s) st h

/-- The record writer has finished. -/
def storeDone (s : State) (n : Nat) : State :=
  match (s.core n).storing with
  | none => s
  | some st => s.modCore n (fun x => { x with storing := none, krec := some (st.setWidth 32) })

/-- KREC_RESULT. -/
def readKrec (s : State) (n r : Nat) : State :=
  match (s.core n).krec with
  | some w => answer s n r w
  | none => waitOn s n .krecResult

/-- KREC_HANDLE: low word, then high word. -/
def readHandle (s : State) (n r : Nat) : State :=
  let x := s.core n
  let v : Word := if x.halfHi then (x.newHandle >>> 32).setWidth 32 else x.newHandle.setWidth 32
  answer (s.setCore n { x with halfHi := !x.halfHi }) n r v

/-! ### The policy port (R151) -/

/-- POL_REQ: the debit and the tally reservation, once per request, by any member: R142 does not mark the port lead (log 82). -/
def askPolicy (s : State) (n : Nat) (v : Word) : State :=
  let e := (s.core n).entry
  if (s.entry e).polPhase ≠ .idle then faultCtx s n
  else
    let positions := (List.range 4).filter (fun k => v.getLsbD k)
    let (st, pos, s) := policyDebit s e positions (v.getLsbD 4)
    goNext (s.modEntry e (fun x => { x with polPhase := .asked, polResult := st, failPos := pos })) n

/-- POL_RESULT. -/
def readPolicy (s : State) (n r : Nat) : State :=
  let x := s.request n
  if x.polPhase = .answered then answer s n r (x.polResult.setWidth 32) else waitOn s n .polResult

/-! ### The tally entry of a request (R382) -/

/-- TALLY_POST ports: only the lead of a request that holds a reservation. -/
def tallyPort (s : State) (n : Nat) (f : Entry → TallyDraft → TallyDraft) : State :=
  if (s.core n).member ≠ 0 ∨ !(s.request n).tally.held then faultCtx s n
  else goNext (s.modRequest n (fun x => { x with tally := f x x.tally })) n

/-- Words of the named handles, in position order. -/
def handleWords (x : Entry) (mask : Nat) : List Word :=
  ((List.range 4).filter (fun k => bit mask k)).flatMap (fun k =>
    [(x.desc.handle k).setWidth 32, (x.desc.handle k >>> 32).setWidth 32])

/-! ### Rows -/

def execGrpFork (c : Fin 2048) (v : Word) (s : State) : Host.Outcome State Fault Refusal :=
  portRow c noWait s (fun s => forkHelper s c v)

def execGrpJoin (c : Fin 2048) (r : Fin 32) (s : State) : Host.Outcome State Fault Refusal :=
  portRow c (· == .join) s (fun s => joinHelpers s c r)

def execGrpEnd (c : Fin 2048) (s : State) : Host.Outcome State Fault Refusal :=
  portRow c noWait s (fun s => endHelper s c)

def execSmbxSend (c : Fin 2048) (m : Fin 4) (sa : Fin 16) (s : State) : Host.Outcome State Fault Refusal :=
  portRow c (· == .smbxSend m) s (fun s => sendSecret s c m sa)

def execSmbxIn (c : Fin 2048) (sd : Fin 16) (s : State) : Host.Outcome State Fault Refusal :=
  portRow c (· == .smbxIn) s (fun s => recvSecret s c sd)

def execWmbxSend (c : Fin 2048) (m : Fin 4) (r : Fin 32) (s : State) : Host.Outcome State Fault Refusal :=
  portRow c (· == .wmbxSend m) s (fun s => sendWord s c m ((s.core c).getW r))

def execWmbxIn (c : Fin 2048) (r : Fin 32) (s : State) : Host.Outcome State Fault Refusal :=
  portRow c (· == .wmbxIn) s (fun s => recvWord s c r)

def execInData (c : Fin 2048) (r : Fin 32) (dma : Dma) (s : State) : Host.Outcome State Fault Refusal :=
  portRow c noWait s (fun s => readInput s c r dma)

def execOutData (c : Fin 2048) (v : Word) (s : State) : Host.Outcome State Fault Refusal :=
  portRow c noWait s (fun s => writeOutput s c v)

def execNtimeRead (c : Fin 2048) (r : Fin 32) (k : Fin 3) (s : State) : Host.Outcome State Fault Refusal :=
  portRow c noWait s (fun s => readNtime s c r k)

def execDrbgRead (c : Fin 2048) (r : Fin 32) (k : Fin 4) (s : State) : Host.Outcome State Fault Refusal :=
  portRow c (· == .drbg) s (fun s => readRandom s c r)

def execUwcLookup (c : Fin 2048) (v : Word) (s : State) : Host.Outcome State Fault Refusal :=
  portRow c noWait s (fun s => lookupKey s c v)

def execUwcFill (c : Fin 2048) (v : Word) (s : State) : Host.Outcome State Fault Refusal :=
  portRow c noWait s (fun s => fillKey s c v)

/-- UWC_RESULT_READY (R145): the lookup's latency ends; a waiting IN takes the result. -/
def execUwcResultReady (c : Fin 2048) (r : Fin 32) (s : State) : Host.Outcome State Fault Refusal :=
  match (s.core c).uwc with
  | some (w, false) =>
    let s := setUwcResult s c w true
    done (if (s.core c).wait = .uwcResult then answer s c r w else s)
  | _ => done s

def execKrecFetch (c : Fin 2048) (v : Word) (s : State) : Host.Outcome State Fault Refusal :=
  portRow c noWait s (fun s => fetchRecord s c v)

/-- A record in the other stack comes over a link that retrains (R19, R21). -/
def fetchWaits (s : State) (n : Nat) : Bool :=
  match (s.core n).fetch with
  | none => false
  | some (pos, second) =>
    let x := s.request n
    match recLoc (s.part (x.func - 1)) (handleIdx (x.desc.handle pos) + b2n second) with
    | some (d, _) => crossWaits s (dieOfCtx n) d
    | none => false

/-- KREC_FETCH_DONE (R147). -/
def execKrecFetchDone (c : Fin 2048) (r : Fin 32) (s : State) : Host.Outcome State Fault Refusal :=
  if (s.core c).phase ≠ .running ∨ (s.core c).fetch.isNone ∨ fetchWaits s c then done s
  else
    let s := recordArrives s c
    done (if (s.core c).wait = .krecResult then readKrec s c r else s)

def execRecKey (c : Fin 2048) (v : Word) (s : State) : Host.Outcome State Fault Refusal :=
  portRow c noWait s (fun s => loadRecordKey s c v)

def execKrecStore (c : Fin 2048) (v : Word) (s : State) : Host.Outcome State Fault Refusal :=
  portRow c noWait s (fun s => storeRecord s c v)

/-- KREC_STORE_DONE (R233). -/
def execKrecStoreDone (c : Fin 2048) (r : Fin 32) (s : State) : Host.Outcome State Fault Refusal :=
  if (s.core c).phase ≠ .running ∨ (s.core c).storing.isNone then done s
  else
    let s := storeDone s c
    done (if (s.core c).wait = .krecResult then readKrec s c r else s)

def execPolReq (c : Fin 2048) (v : Word) (s : State) : Host.Outcome State Fault Refusal :=
  portRow c noWait s (fun s => askPolicy s c v)

/-- POL_RESULT_READY (R151). -/
def execPolResultReady (c : Fin 2048) (r : Fin 32) (s : State) : Host.Outcome State Fault Refusal :=
  if (s.core c).phase ≠ .running ∨ (s.request c).polPhase ≠ .asked ∨ linkWaits s (dieOfCtx c) then done s
  else
    let s := s.modRequest c (fun x => { x with polPhase := .answered })
    done (if (s.core c).wait = .polResult then readPolicy s c r else s)

def execTpDetail (c : Fin 2048) (v : Word) (s : State) : Host.Outcome State Fault Refusal :=
  portRow c noWait s (fun s => tallyPort s c (fun _ t => { t with detail := v.setWidth 16 }))

def execTpOfs (c : Fin 2048) (v : Word) (s : State) : Host.Outcome State Fault Refusal :=
  portRow c noWait s (fun s => tallyPort s c (fun _ t => { t with ofs := bits v.toNat 2 0 }))

/-- One data word; the index advances and stops at 7. -/
def tallyData (v : Word) (t : TallyDraft) : TallyDraft := { t with data := Map.set 0 t.data t.ofs v, ofs := min 7 (t.ofs + 1) }

def execTpData (c : Fin 2048) (v : Word) (s : State) : Host.Outcome State Fault Refusal :=
  portRow c noWait s (fun s => tallyPort s c (fun _ t => tallyData v t))

/-- The named handles from byte 24 of the entry, which is word 0 of its data. -/
def tallyHandles (x : Entry) (v : Word) (t : TallyDraft) : TallyDraft :=
  let ws := handleWords x (bits v.toNat 3 0)
  { t with data := ((List.range ws.length).zip ws).foldl (fun (m : Map Word) (p : Nat × Word) => Map.set 0 m p.1 p.2) t.data }

def execTpHandles (c : Fin 2048) (v : Word) (s : State) : Host.Outcome State Fault Refusal :=
  portRow c noWait s (fun s => tallyPort s c (fun x t => tallyHandles x v t))

end Sys2Proof.Machine
end

