-- ==== Sys2Proof/Machine/FnRun.lean ====
section
/-! DEFINITION. How a request's function runs, as one step of its row: the key step, the policy step, the operand step and the
computation, in the order of R62 (02_host_interface.md R60 to R63; 03_payment_functions.md R65 to R72). What a row yields is the draft of
the completion; the lead's REQ_COMPLETE posts it. -/

set_option linter.unusedVariables false

namespace Sys2Proof.Machine

open Sys2Proof Sys2Proof.Bits

/-- What a function's own steps yield: a status, the inline result word and the output. -/
structure Draft where
  status : Status := St.ok
  result : BitVec 64 := 0
  out : Bytes := []
deriving DecidableEq, Repr

/-- How a function's row ends: with a draft, waiting for random output (R69), or waiting for something else. -/
inductive FnRes where
  | ended (d : Draft)
  | starved
  | waits
deriving DecidableEq, Repr

/-- The end of a chain of steps. -/
abbrev FnEnd := FnRes × State

/-- End with a status. -/
def ends (st : Status) (s : State) : FnEnd := (.ended { status := st }, s)

/-- End OK with a result word and an output. -/
def endsOk (s : State) (result : BitVec 64) (out : Bytes) : FnEnd := (.ended { result := result, out := out }, s)

/-- Bytes from byte 24 of a completion, as its result word. -/
def resultOf (bs : Bytes) : BitVec 64 := BitVec.ofNat 64 (ofLe (bs.take 8))

/-- End unless a condition holds. -/
def check (ok : Bool) (st : Status) (s : State) (k : FnEnd) : FnEnd := if ok then k else ends st s

/-! ### The key step (R62, R66, R67) -/

/-- A used handle position and the keys its role accepts. -/
structure KeyUse where
  pos : Nat
  role : BitVec 16 → Byte → Byte → Bool
  /-- the key leaves the part in a block: a record with exportability N is refused with KEY_USAGE (R99) -/
  leaves : Bool := false

/-- One used handle, or the key it already gave the request (R71). The exportability, which no cache holds, is the record's. -/
def oneKey (s : State) (e : Nat) (u : KeyUse) (k : State → Key → FnEnd) : FnEnd :=
  match (s.entry e).held.find? (fun h => h.1 == u.pos) with
  | some h => k s h.2
  | none =>
    let x := s.entry e
    let exp := (recAttrs (recBytes s (x.func - 1) (handleIdx (x.desc.handle u.pos)))).exp
    let (st, key, s) := resolveKey s e u.pos (fun usage mode alg => u.role usage mode alg && !(u.leaves && exp == chr 'N'))
    let key := { key with exp := exp }
    if st = St.ok then k (s.modEntry e (fun x => { x with held := x.held ++ [(u.pos, key)] })) key
    else (.ended { status := st, result := if St.isKey st then BitVec.ofNat 64 u.pos else 0 }, s)

/-- Used handles in position order. -/
def keyStep (s : State) (e : Nat) : List KeyUse → (State → List Key → FnEnd) → FnEnd
  | [], k => k (latchSnap s e) []
  | u :: r, k => oneKey s e u (fun s key => keyStep s e r (fun s ks => k s (key :: ks)))

/-! ### The policy step (R68, R151) -/

/-- FORMAT_RULE, then one debit and count for the request's keys with the tally reservation; once per request. -/
def policyStep (s : State) (e : Nat) (positions : List Nat) (rule : Bool) (k : State → FnEnd) : FnEnd :=
  let x := s.entry e
  let audit := fnAudited x.desc.fn.toNat
  match x.polPhase with
  | .idle =>
    if !rule then ends St.formatRule s
    else if positions.isEmpty ∧ !audit then k s
    else
      let (st, pos, s) := policyDebit s e positions audit
      let s := s.modEntry e (fun x => { x with polPhase := .answered, polResult := st, failPos := pos })
      if st = St.ok then k s else ends st s
  | _ => if x.polResult = St.ok then k s else ends x.polResult s

/-! ### Input and random output -/

/-- The input; BAD_POINTER where its read fails, FAULT_ALARM where the HOSTDMA gate denies it (R45, R347). -/
def withInput (s : State) (e : Nat) (dma : Dma) (k : State → Bytes → FnEnd) : FnEnd :=
  match takeInput s e dma with
  | some (b, s) => k s b
  | none => ends (hostLost s false).1 (hostLost s false).2

/-- An access of the row's own to host memory: the HOSTDMA gate decides first (R10, R45, R347). -/
def withHost (s : State) (write : Bool) (dma : Dma) (k : State → FnEnd) : FnEnd :=
  if hostGate s write && dma == .ok then k s else ends (hostLost s write).1 (hostLost s write).2

/-- Go on while the barn's DRBG serves, else wait for it (R69). -/
def whenRandom (s : State) (e : Nat) (k : State → FnEnd) : FnEnd :=
  if drbgServes s (s.entry e).barn then k s else (.starved, s)

/-- Random bytes of a function. -/
def withRandom (s : State) (e n : Nat) (k : State → Bytes → FnEnd) : FnEnd :=
  whenRandom s e (fun s =>
    let (r, s) := drbgGen s (s.entry e).barn n
    k s r)

/-! ### New records (R70, R232) -/

/-- Reserve the indices of a template at the operand step: BAD_FORMAT where the template or an index does not pass. -/
def reserveFor (s : State) (e : Nat) (t : Bytes) (ok : Bool) (n : Nat) (k : State → FnEnd) : FnEnd :=
  let p := (s.entry e).func - 1
  if (s.entry e).recResv.isSome then k s
  else if !ok then ends St.badFormat s
  else
    match reserveIndices s e p (templateSpec t).idx n with
    | some s => k s
    | none => ends St.badFormat s

/-- Make the record at the computation step and answer its handle. -/
def makeRecord (s : State) (e : Nat) (spec : RecSpec) (key : Bytes) (out : Bytes) : FnEnd :=
  let (st, h, s) := createRecord s (recClass (s.entry e).desc.fn.toNat) ((s.entry e).func - 1) spec key
  if st = St.ok then endsOk (s.modEntry e (fun x => { x with recMade := true })) h out else ends st s

/-! ### Rows -/

/-- The fields of a draft, with nothing staged. -/
def drafted (d : Draft) (x : Entry) : Entry :=
  { x with
    phase := .drafted
    status := d.status
    result := d.result
    outLen := d.out.length
    out := []
    outOver := 0 }

/-- The draft of a request: what its lead will post, with its output staged (R143, R144). A gate that denies the staging drafts FAULT_ALARM
(R347). -/
def putDraft (s : State) (e : Nat) (d : Draft) : State :=
  match stageDenied s (s.entry e) 0 d.out with
  | some a => (recordDenial s (stageClass (s.entry e)) a true).modEntry e (drafted { status := St.faultAlarm })
  | none => (stageBeyond s (s.entry e) 0 d.out).modEntry e (fun x => stageInline (drafted d x) 0 d.out)

/-- The row of a function: its request runs, and its steps end in a draft or wait. Its input, its policy step and its tally entry cross the link of
its die to the Keep die, so it waits while that link retrains, and it waits while a read of its keys is held (R19, R261). A descriptor slot that parity finds uncorrectable ends it (R270). -/
def runFn (fn e : Nat) (s : State) (body : State → FnEnd) : Host.Outcome State Fault Refusal :=
  let x := s.entry e
  if x.phase ≠ .running ∨ x.state ≠ .reserved ∨ x.desc.fn ≠ BitVec.ofNat 16 fn ∨ linkWaits s x.die then done s
  else
    let lead (s : State) (w : Wait) : State := if x.group.contains x.lead then waitOn s x.lead w else s
    match readUnit s (.descriptor e) with
    | (.bad, s) => done (endRequest s e St.faultAlarm)
    | (_, s) =>
    match requestUnread s e with
    | [] =>
      match body s with
      | (.ended d, s) => done (lead (putDraft s e d) .none)
      | (.waits, s) => done s
      | (.starved, s) => done (lead (s.modEntry e (fun x => { x with rngWait := true })) .drbg)
    | ls => done (holdReads s ls (ctxReader x.lead))

/-- Host-assisted mode of a request. -/
def assisted (s : State) (e : Nat) : Bool := (s.entry e).desc.assisted

end Sys2Proof.Machine
end

