-- ==== Sys2Proof/Machine/Payment.lean ====
section
/-! DEFINITION. The PIN, MAC and card functions, each as one step from its request to its draft (03_payment_functions.md R79 to R96,
R107). -/

set_option linter.unusedVariables false

namespace Sys2Proof.Machine

open Sys2Proof Sys2Proof.Bits

/-! ### PIN functions (R80 to R88) -/

/-- The rows' formats for a PIN key: none for a byte that is no format, which the key step does not judge (R81). -/
def fmtRole (f : Nat) : Option Bool := if Pay.fmtOk f then some (f == 4) else none

/-- A role of the table as a key use. -/
def use (pos : Nat) (r : KeyRole) : KeyUse := { pos := pos, role := r.ok }

/-- A BDK whose DUKPT variant fits the PIN format (R82). -/
def bdkFor (fmt : Nat) : KeyUse where
  pos := 0
  role u m a := KeyRole.bdk.ok u m a && (!Pay.fmtOk fmt || Alg.isAes a == (fmt == 4))

/-- The block of a PIN request lies in bytes 0 to 7 in the TDES formats. -/
def pinBlockOk (fmt : Nat) (b : Bytes) : Bool := fmt == 4 || allZero (slice b 8 8)

/-- The PIN translations: with a DUKPT base key when `dukpt` (R80 to R84, R91, R92). -/
def translate (dukpt : Bool) (e : Nat) (dma : Dma) (s : State) : FnEnd :=
  withInput s e dma (fun s b =>
    let fi := (byteAt b 32).toNat
    let fo := (byteAt b 33).toNat
    let pan := slice b 16 16
    let ksn := slice b 34 12
    let type := (byteAt b 46).toNat
    let first := if dukpt then bdkFor fi else use 0 (.pinIn (fmtRole fi))
    keyStep s e [first, use 1 (.pinOut (fmtRole fo))] (fun s ks =>
      let k0 := ks.getD 0 {}
      let k1 := ks.getD 1 {}
      policyStep s e [0, 1] (Pay.moveOk fi fo) (fun s =>
        let panUsed := fi != 1 || fo != 1
        let panOk := if panUsed then (Pay.panDigits pan).isSome else allZero pan
        let ksnOk := !dukpt || Pay.ksnOk k0.alg ksn type
        check (panOk && pinBlockOk fi b && ksnOk) St.badFormat s
          (let key := if dukpt then Pay.working k0.alg k0.bytes ksn .pin type else k0.bytes
          match Pay.pinOf fi k0.alg key (b.take 16) pan with
          | none => ends St.badFormat s
          | some pin =>
            if fo = 0 then endsOk s 0 (Pay.pinBlock fo k1.alg k1.bytes pan [] pin)
            else withRandom s e 16 (fun s rnd => endsOk s 0 (Pay.pinBlock fo k1.alg k1.bytes pan rnd pin))))))

/-- The shared steps of the verification and generation functions: PEK, PVK, format and further FORMAT_RULE check, operands; then k
on the PAN digits and the PIN. -/
def pinMethod (e : Nat) (dma : Dma) (pvk : KeyRole) (s : State) (rule operands : State → Bytes → Bool)
    (k : State → Bytes → Key → List Nat → List Nat → FnEnd) : FnEnd :=
  withInput s e dma (fun s b =>
    let f := (byteAt b 32).toNat
    let pan := slice b 16 16
    keyStep s e [use 0 (.pinIn (fmtRole f)), use 1 pvk] (fun s ks =>
      let k0 := ks.getD 0 {}
      policyStep s e [0, 1] (Pay.fmtOk f && rule s b) (fun s =>
        match Pay.panDigits pan with
        | none => ends St.badFormat s
        | some ds =>
          check (pinBlockOk f b && operands s b) St.badFormat s
            (match Pay.pinOf f k0.alg k0.bytes (b.take 16) pan with
            | none => ends St.badFormat s
            | some pin => k s b (ks.getD 1 {}) ds pin))))

/-- The decimalization table that byte 34 names. -/
def namedTable (s : State) (e : Nat) (b : Bytes) : Option (BitVec 64) :=
  let t := (byteAt b 34).toNat
  if t ≤ 7 then s.decTable ((s.entry e).func - 1) t else none

/-- Check length n, and in host-assisted mode the validation block at offset o against the PAN field (R60, R107). -/
def offsetOperands (e o : Nat) (s : State) (b : Bytes) : Bool :=
  let n := (byteAt b 33).toNat
  decide (4 ≤ n ∧ n ≤ 12) &&
    (!assisted s e || slice b o 8 == Pay.validation ((Pay.panDigits (slice b 16 16)).getD []))

/-- PVKI, and in host-assisted mode the 11 PAN digits with the PVKI at offset o. -/
def pvvOperands (e o : Nat) (s : State) (b : Bytes) : Bool :=
  let i := (byteAt b 33).toNat
  decide (i ≤ 6) &&
    (!assisted s e || slice b o 6 == ofNibs (Pay.lastN 11 ((Pay.panDigits (slice b 16 16)).getD []).dropLast ++ [i]))

/-- PIN_TRANSLATE (R85). -/
def execPinTranslate (e : Fin 69632) (dma : Dma) (s : State) : Host.Outcome State Fault Refusal :=
  runFn 0x1001 e s (translate false e dma)

/-- PIN_TRANSLATE_DUKPT (R85, R91). -/
def execPinTranslateDukpt (e : Fin 69632) (dma : Dma) (s : State) : Host.Outcome State Fault Refusal :=
  runFn 0x1002 e s (translate true e dma)

/-- PIN_VERIFY_OFFSET (R86). -/
def execPinVerifyOffset (e : Fin 69632) (dma : Dma) (s : State) : Host.Outcome State Fault Refusal :=
  runFn 0x1003 e s (fun s => pinMethod e dma (.pvkOffset false) s (fun s b => (namedTable s e b).isSome)
    (fun s b =>
      let n := (byteAt b 33).toNat
      let os := nibs (slice b 35 6)
      offsetOperands e 41 s b && (os.take n).all (· ≤ 9) && (os.drop n).all (· == 0xF))
    (fun s b pvk ds pin =>
      let n := (byteAt b 33).toNat
      let nat := Pay.naturalPin pvk.alg pvk.bytes (Pay.validation ds) ((namedTable s e b).getD 0) n
      let expected := List.zipWith (fun a o => (a + o) % 10) nat (nibs (slice b 35 6))
      check (decide (n ≤ pin.length) && expected == pin.take n) St.pinMismatch s (endsOk s 0 [])))

/-- PIN_VERIFY_PVV (R87). -/
def execPinVerifyPvv (e : Fin 69632) (dma : Dma) (s : State) : Host.Outcome State Fault Refusal :=
  runFn 0x1004 e s (fun s => pinMethod e dma (.pvkValue false) s (fun _ _ => true)
    (fun s b => pvvOperands e 36 s b && (nibs (slice b 34 2)).all (· ≤ 9))
    (fun s b pvk ds pin =>
      check (Pay.pvv pvk.bytes ds (byteAt b 33).toNat pin == nibs (slice b 34 2)) St.pinMismatch s (endsOk s 0 [])))

/-- PIN_OFFSET_GENERATE (R86). -/
def execPinOffsetGenerate (e : Fin 69632) (dma : Dma) (s : State) : Host.Outcome State Fault Refusal :=
  runFn 0x1005 e s (fun s => pinMethod e dma (.pvkOffset true) s (fun s b => (namedTable s e b).isSome)
    (fun s b => offsetOperands e 35 s b)
    (fun s b pvk ds pin =>
      let n := (byteAt b 33).toNat
      let nat := Pay.naturalPin pvk.alg pvk.bytes (Pay.validation ds) ((namedTable s e b).getD 0) n
      let ofs := List.zipWith (fun p a => (p + 10 - a) % 10) (pin.take n) nat
      check (decide (n ≤ pin.length)) St.pinMismatch s
        (endsOk s (resultOf (ofNibs (ofs ++ List.replicate (12 - n) 0xF))) [])))

/-- PVV_GENERATE (R87). -/
def execPvvGenerate (e : Fin 69632) (dma : Dma) (s : State) : Host.Outcome State Fault Refusal :=
  runFn 0x1006 e s (fun s => pinMethod e dma (.pvkValue true) s (fun _ _ => true) (fun s b => pvvOperands e 34 s b)
    (fun s b pvk ds pin => endsOk s (resultOf (ofNibs (Pay.pvv pvk.bytes ds (byteAt b 33).toNat pin))) []))

/-! ### MAC functions (R89, R90, R92) -/

/-- Role of MAC_GENERATE and MAC_VERIFY by algorithm byte; an unlisted byte names no role. -/
def macUse (a : Nat) (gen : Bool) : KeyUse where
  pos := 0
  role u m alg :=
    match a with
    | 1 => (KeyRole.mac1 gen).ok u m alg
    | 3 => (KeyRole.mac3 gen).ok u m alg
    | 6 => (KeyRole.cmac gen).ok u m alg
    | _ => false

/-- The four MAC functions: `at0` is where the MAC stands in a verification, or the message in a generation. -/
def macFn (dukpt verify : Bool) (e : Nat) (dma : Dma) (s : State) : FnEnd :=
  withInput s e dma (fun s b =>
    let a := (byteAt b 0).toNat
    let method := (byteAt b 1).toNat
    let len := (byteAt b 2).toNat
    let ksn := slice b 4 12
    let dir := (byteAt b 3).toNat
    let type := (byteAt b 16).toNat
    let o := if dukpt then 20 else 4
    let given := slice b o 8
    let msg := b.drop (if verify then o + 8 else o)
    keyStep s e [if dukpt then use 0 .bdk else macUse a (!verify)] (fun s ks =>
      let k0 := ks.getD 0 {}
      policyStep s e [0] true (fun s =>
        let aes := Alg.isAes k0.alg
        let c := Pay.cipherOf k0.alg
        let n := Cipher.blockLen c
        let head := if a = 6 then method == 0 else method == 1 || method == 2
        let rest :=
          if dukpt then
            decide (dir ≤ 1) && allZero (slice b 17 3) && a == (if aes then 6 else 3) && Pay.ksnOk k0.alg ksn type
          else byteAt b 3 == 0
        let field := !verify || allZero (given.drop len)
        let padding := !assisted s e || a == 6 || Pay.paddedOk method n msg
        check (decide (4 ≤ len ∧ len ≤ 8)) St.badLength s
          (check (head && rest && field && padding) St.badFormat s
            (let key := if dukpt then Pay.working k0.alg k0.bytes ksn (if dir = 0 then .macRequest else .macResponse) type
              else k0.bytes
            let m := if a = 6 ∨ assisted s e then msg else Pay.pad method n msg
            let t := (Pay.mac a c key m).take len
            if verify then check (t == given.take len) St.macMismatch s (endsOk s 0 []) else endsOk s (resultOf t) [])))))

/-- MAC_GENERATE (R90). -/
def execMacGenerate (e : Fin 69632) (dma : Dma) (s : State) : Host.Outcome State Fault Refusal :=
  runFn 0x2001 e s (macFn false false e dma)

/-- MAC_VERIFY (R90). -/
def execMacVerify (e : Fin 69632) (dma : Dma) (s : State) : Host.Outcome State Fault Refusal :=
  runFn 0x2002 e s (macFn false true e dma)

/-- MAC_GENERATE_DUKPT (R92). -/
def execMacGenerateDukpt (e : Fin 69632) (dma : Dma) (s : State) : Host.Outcome State Fault Refusal :=
  runFn 0x2003 e s (macFn true false e dma)

/-- MAC_VERIFY_DUKPT (R92). -/
def execMacVerifyDukpt (e : Fin 69632) (dma : Dma) (s : State) : Host.Outcome State Fault Refusal :=
  runFn 0x2004 e s (macFn true true e dma)

/-! ### Card functions (R93 to R96) -/

/-- Operand bytes of ARQC_VERIFY other than lengths: method, sequence number, and zero where the method does not use them. -/
def arqcFields (b : Bytes) : Bool :=
  let method := (byteAt b 21).toNat
  let n := (byteAt b 28).toNat
  (nibs [byteAt b 10]).all (· ≤ 9) &&
    (match method with
    | 0 => allZero (slice b 22 15)
    | 1 => allZero (slice b 24 13)
    | 2 => allZero (slice b 22 2) && allZero ((slice b 29 8).drop n)
    | _ => false)

/-- The ARPC of a method (R94). -/
def arpc (sk b : Bytes) : Bytes :=
  let arqc := slice b 13 8
  match (byteAt b 21).toNat with
  | 1 => Cipher.enc .tdes sk (xor arqc (slice b 22 2 ++ zeros 6))
  | 2 => (Pay.mac3 sk (arqc ++ slice b 24 4 ++ slice b 29 (byteAt b 28).toNat)).take 4
  | _ => []

/-- ARQC_VERIFY (R93 to R95). -/
def execArqcVerify (e : Fin 69632) (dma : Dma) (s : State) : Host.Outcome State Fault Refusal :=
  runFn 0x3001 e s (fun s => withInput s e dma (fun s b =>
    let d := fieldLe b 37 2
    let data := b.drop 39
    let atc := slice b 11 2
    keyStep s e [use 0 .imk] (fun s ks => policyStep s e [0] true (fun s =>
      check (decide ((byteAt b 28).toNat ≤ 8) && decide (1 ≤ d ∧ d ≤ 1024 ∧ d = data.length)) St.badLength s
        (match Pay.cardPan b, (if assisted s e then some data else Pay.arqcData data atc) with
        | some pan, some td =>
          check (arqcFields b) St.badFormat s
            (let mk := Pay.cardKey (ks.getD 0 {}).bytes pan (nibs [byteAt b 10])
            let sk := Pay.sessionKey mk atc
            check (Pay.mac3 sk td == slice b 13 8) St.cryptogramMismatch s (endsOk s (resultOf (arpc sk b)) []))
        | _, _ => ends St.badFormat s)))))

/-- The CVV functions. -/
def cvvFn (verify : Bool) (e : Nat) (dma : Dma) (s : State) : FnEnd :=
  withInput s e dma (fun s b =>
    keyStep s e [use 0 (.cvk (!verify))] (fun s ks => policyStep s e [0] true (fun s =>
      let code := nibs (slice b 12 2)
      let value := nibs (slice b 14 2)
      let bcd3 (v : List Nat) : Bool := (v.take 3).all (· ≤ 9) && v.getD 3 0 == 0xF
      let ok := (nibs (slice b 10 2)).all (· ≤ 9) && bcd3 code && (if verify then bcd3 value else allZero (slice b 14 2))
      match Pay.cardPan b with
      | none => ends St.badFormat s
      | some pan =>
        check ok St.badFormat s
          (let v := Pay.cvv (ks.getD 0 {}).bytes pan (nibs (slice b 10 2)) (code.take 3)
          if verify then check (v == value.take 3) St.cryptogramMismatch s (endsOk s 0 [])
          else endsOk s (resultOf (ofNibs (v ++ [0xF]))) []))))

/-- CVV_GENERATE (R96). -/
def execCvvGenerate (e : Fin 69632) (dma : Dma) (s : State) : Host.Outcome State Fault Refusal :=
  runFn 0x3003 e s (cvvFn false e dma)

/-- CVV_VERIFY (R96). -/
def execCvvVerify (e : Fin 69632) (dma : Dma) (s : State) : Host.Outcome State Fault Refusal :=
  runFn 0x3004 e s (cvvFn true e dma)

end Sys2Proof.Machine
end

