-- ==== Sys2Proof/Machine/KeyFns.lean ====
section
/-! DEFINITION. The key-management functions, each as one step from its request to its draft (03_payment_functions.md R70, R71, R97 to
R99). -/

set_option linter.unusedVariables false

namespace Sys2Proof.Machine

open Sys2Proof Sys2Proof.Bits

/-! ### Key-block protection keys -/

def kbpkOf (k : Key) : KeyBlock.Kbpk := { aes := Alg.isAes k.alg, key := k.bytes }

/-- Make a block with random padding and go on with it. -/
def withBlock (s : State) (e : Nat) (k : KeyBlock.Kbpk) (x : KeyBlock.Spec) (key : Bytes) (g : State → Bytes → FnEnd) : FnEnd :=
  withRandom s e (KeyBlock.padLen k key) (fun s pad => g s (KeyBlock.make k x key pad))

/-! ### Import (R98) -/

/-- The template of an import: bytes 4 to 8 zero, since the block gives them. -/
def importTemplateOk (s : State) (p : Nat) (t : Bytes) : Bool :=
  allZero (slice t 4 5) && templateOk s p (t.take 4 ++ [Alg.aes128, 0, 0, 0, chr 'N'] ++ t.drop 9)

/-- Checks 1 to 3 of a key block under a KBPK: the fields, or the status. -/
def blockOperand (k : Key) (b : Bytes) : Status × Option KeyBlock.Fields :=
  let v := KeyBlock.version b
  if v = chr 'A' ∨ v = chr 'C' then (St.formatRule, none)
  else if (v = chr 'B' ∧ !Alg.isTdes k.alg) ∨ (v = chr 'D' ∧ !Alg.isAes k.alg) then (St.keyUsage, none)
  else
    match KeyBlock.parse b with
    | some f => (St.ok, some f)
    | none => (St.badFormat, none)

/-- Checks 4 and 5: the key of a block and its algorithm code, or the status. -/
def blockKey (k : Key) (f : KeyBlock.Fields) : Status × Option (Byte × Bytes) :=
  let kb := kbpkOf k
  match KeyBlock.openBlock kb f with
  | none => (St.keyNotFound, none)
  | some key =>
    match KeyBlock.algOf f.alg key.length with
    | none => (St.formatRule, none)
    | some a =>
      if KeyBlock.lengthOk kb f ∧ KeyRole.all.any (fun r => r.usage == f.usage && r.alg a) then (St.ok, some (a, key))
      else (St.formatRule, none)

/-- Reserve every record of an imported key, its first being reserved already. -/
def reserveRest (s : State) (e idx n : Nat) (k : State → FnEnd) : FnEnd :=
  match reserveIndices s e ((s.entry e).func - 1) idx n with
  | some s => k s
  | none => ends St.badFormat s

/-- The reserved bytes of a parsed header are 0 (R65, R97). -/
def parsedOk (h : Bytes) : Bool := byteAt h 9 == 0 && allZero (slice h 12 4)

/-- KEYBLOCK_IMPORT (R98). The reserved bytes of the parsed header are judged with the input (R65). -/
def execKeyblockImport (e : Fin 69632) (dma : Dma) (s : State) : Host.Outcome State Fault Refusal :=
  runFn 0x4001 e s (fun s => withInput s e dma (fun s b =>
    let t := b.take 32
    let len := fieldLe b 32 2
    let blk := slice b 34 len
    keyStep s e [use 0 (.kbpk true)] (fun s ks => policyStep s e [0] true (fun s =>
      let k := ks.getD 0 {}
      check (decide (16 ≤ len ∧ len ≤ 16384 ∧ b.length = 34 + len + (if assisted s e then 16 else 0))) St.badLength s
        (check (!assisted s e || parsedOk (slice b (34 + len) 16)) St.badFormat s
        (match blockOperand k blk with
        | (_, some f) =>
          reserveFor s e t (importTemplateOk s ((s.entry e).func - 1) t) 1 (fun s =>
            match blockKey k f with
            | (_, some (a, key)) =>
              check (!assisted s e || slice b (34 + len) 16 == KeyBlock.parsedHeader f) St.badFormat s
                (let spec := { templateSpec t with alg := a, usage := f.usage, mode := f.mode, exp := f.exp }
                reserveRest s e spec.idx (recordsFor key.length) (fun s => makeRecord s e spec key []))
            | (st, none) => ends st s)
        | (st, none) => ends st s))))))

/-! ### Export (R99) -/

/-- Modulus bytes of an RSA key, 0 for another. -/
def modLen (k : Key) : Nat := if k.alg = Alg.rsa then rsaModLen k.bytes.length else 0

/-- KEYBLOCK_EXPORT (R99). -/
def execKeyblockExport (e : Fin 69632) (dma : Dma) (s : State) : Host.Outcome State Fault Refusal :=
  runFn 0x4002 e s (fun s => withInput s e dma (fun s b =>
    keyStep s e [use 0 (.kbpk false), { pos := 1, role := fun _ _ _ => true, leaves := true }] (fun s ks =>
      let k0 := ks.getD 0 {}
      let k1 := ks.getD 1 {}
      let flags := (byteAt b 0).toNat
      let exp := byteAt b 3
      let known := exp == chr 'E' || exp == chr 'N' || exp == chr 'S'
      let rule := KeyBlock.mayWrap k0.alg k0.bytes.length k1.alg k1.bytes.length (modLen k1) &&
        (!known || decide (KeyBlock.expRank exp ≤ KeyBlock.expRank k1.exp))
      policyStep s e [0, 1] rule (fun s =>
        check (decide (flags ≤ 1) && isAscii (slice b 1 2) && known) St.badFormat s
          (match flags, (s.entry e).snap with
          | 1, some (_, false) | 1, none => ends St.timeNotValid s
          | _, snap =>
            let kb := kbpkOf k0
            let ts := flags == 1
            withBlock s e kb {
              usage := k1.usage
              alg := k1.alg
              mode := k1.mode
              keyVer := slice b 1 2
              exp := exp
              opts := if ts then KeyBlock.tsBlock kb.blk ((snap.map (·.1.toNat)).getD 0) else []
              count := if ts then 2 else 0 } k1.bytes (fun s out => endsOk s 0 out))))))

/-- KEY_GENERATE (R97). Under a KBPK the new record leaves in a block: exportability N in its template is KEY_USAGE, before the policy step (R62, R99;
log 65). The block's key version is "00" (log 104). -/
def execKeyGenerate (e : Fin 69632) (dma : Dma) (s : State) : Host.Outcome State Fault Refusal :=
  runFn 0x4003 e s (fun s => withInput s e dma (fun s b =>
    let t := b.take 32
    let spec := templateSpec t
    let under := (s.entry e).desc.handle 0 != 0
    let len := Alg.symLen spec.alg
    keyStep s e (if under then [use 0 (.kbpk false)] else []) (fun s ks =>
      let k0 := ks.getD 0 {}
      let rule := !under || !Alg.isSym spec.alg || KeyBlock.mayWrap k0.alg k0.bytes.length spec.alg len 0
      check (!under || spec.exp != chr 'N') St.keyUsage s
        (policyStep s e (if under then [0] else []) rule (fun s =>
          reserveFor s e t (templateOk s ((s.entry e).func - 1) t && Alg.isSym spec.alg) (recordsFor len) (fun s =>
            withRandom s e len (fun s r =>
              let key := if Alg.isTdes spec.alg then Pay.parity r else r
              if under then
                withBlock s e (kbpkOf k0) {
                  usage := spec.usage
                  alg := spec.alg
                  mode := spec.mode
                  keyVer := ascii "00"
                  exp := spec.exp } key (fun s out => makeRecord s e spec key out)
              else makeRecord s e spec key [])))))))

/-- KEY_DELETE (R71). -/
def execKeyDelete (e : Fin 69632) (dma : Dma) (s : State) : Host.Outcome State Fault Refusal :=
  runFn 0x4004 e s (fun s => keyStep s e [{ pos := 0, role := fun _ _ _ => true }] (fun s ks =>
    policyStep s e [0] true (fun s =>
      let x := s.entry e
      endsOk (deleteKey s (x.func - 1) (handleIdx (x.desc.handle 0))) 0 [])))

/-- DUKPT_INITIAL_KEY_EXPORT (R97). The block takes the BDK's exportability (log 65), key version "00" and mode of use X (log 104). -/
def execDukptInitialKeyExport (e : Fin 69632) (dma : Dma) (s : State) : Host.Outcome State Fault Refusal :=
  runFn 0x4005 e s (fun s => withInput s e dma (fun s b =>
    keyStep s e [{ use 0 .bdk with leaves := true }, use 1 (.kbpk false)] (fun s ks =>
      let k0 := ks.getD 0 {}
      let k1 := ks.getD 1 {}
      let aes := Alg.isAes k0.alg
      policyStep s e [0, 1] (KeyBlock.mayWrap k1.alg k1.bytes.length k0.alg k0.bytes.length 0) (fun s =>
        check (aes || allZero (slice b 10 2)) St.badFormat s
          (withBlock s e (kbpkOf k1) {
            usage := use2 "B1"
            alg := k0.alg
            mode := chr 'X'
            keyVer := ascii "00"
            exp := k0.exp } (if aes then Pay.aesInitial k0.bytes b else Pay.tdesInitial k0.bytes b) (fun s out => endsOk s 0 out))))))

/-- KEY_CHECK_VALUE (R97, R183). -/
def execKeyCheckValue (e : Fin 69632) (dma : Dma) (s : State) : Host.Outcome State Fault Refusal :=
  runFn 0x4006 e s (fun s => keyStep s e [{ pos := 0, role := fun _ _ a => Alg.isTdes a || Alg.isAes a }] (fun s ks =>
    policyStep s e [0] true (fun s =>
      let k := ks.getD 0 {}
      endsOk s (resultOf (if Alg.isAes k.alg then (Cipher.cmac .aes k.bytes (zeros 16)).take 5
        else (Cipher.enc .tdes k.bytes (zeros 8)).take 3)) [])))

end Sys2Proof.Machine
end

