-- ==== Sys2Proof/Machine/Quorum.lean ====
section
/-! DEFINITION. Officer authorization (13_wardens_yoke.md R302 to R309): token sets, the quorum check, the quorum pages; and how a class
0xE request runs in warden firmware, as one step of its row (R72, R106, R381). -/

set_option linter.unusedVariables false

namespace Sys2Proof.Machine

open Sys2Proof Sys2Proof.Bits

/-! ### Classes and rosters (R302, R303) -/

/-- A class of R303: D0 to D6, or P0 to P3 of a partition. -/
inductive QClass where
  | dev (k : Nat)
  | part (k p : Nat)
deriving DecidableEq, Repr

/-- Byte 10 of a quorum page: [7] partition scope, [2:0] index (R309). -/
def QClass.code : QClass → Nat
  | .dev k => k
  | .part k _ => 128 + k

def QClass.partition : QClass → Nat
  | .dev _ => 0
  | .part _ p => p

/-- Who may sign: the m of a class, and the key digest of an enrolled officer of its scope. -/
structure Roster where
  m : QClass → Nat
  digest : QClass → Nat → Option Bytes

/-- The policy of a class in force. -/
def policyM (s : State) : QClass → Nat
  | .dev k => 2 + Map.get 0 s.ofc.devM k
  | .part k p => 2 + Map.get 0 s.ofc.partM (4 * p + k)

/-- Device officer i is enrolled: its slot holds a digest that serves. -/
def devOfficer (s : State) (i : Nat) : Bool :=
  let x := s.slotAt i
  decide (i < 16) && x.live && x.owner == 1 && x.serve != 0 && !x.damaged && s.grn.present

/-- Officers of a scope by index. -/
def officerKey (s : State) : QClass → Nat → Option Bytes
  | .dev _, i => if devOfficer s i then some (slotKey s i) else none
  | .part _ p, i =>
    let o := Map.get {} s.ofc.part (8 * p + i)
    if i < 8 ∧ o.on then some (digestBytes o.digest) else none

/-- The unit's own officers and policies. -/
def ownRoster (s : State) : Roster where
  m := policyM s
  digest := officerKey s

/-- Officers enrolled in a scope: of a partition, or of the device. -/
def officerCount (s : State) (part : Option Nat) : Nat :=
  match part with
  | some p => ((List.range 8).filter (fun i => (officerKey s (.part 0 p) i).isSome)).length
  | none => ((List.range 16).filter (fun i => devOfficer s i)).length

/-! ### Tokens (R306) -/

/-- Length rounded up to a multiple of 4. -/
def round4 (n : Nat) : Nat := (n + 3) / 4 * 4

/-- Offsets of n tokens of a set, the first at o: each starts at the next multiple of 4 after the one before. -/
def tokenOfs (b : Bytes) : Nat → Nat → List Nat
  | 0, _ => []
  | n + 1, o => o :: tokenOfs b n (o + round4 (fieldLe b o 2))

/-- Public key and signature lengths of an algorithm. -/
def tokenLens (alg : Byte) : Option (Nat × Nat) :=
  if alg = Alg.p384 then some (97, 96) else if alg = Alg.mldsa65 then some (1952, 3309) else none

/-- A token is well formed and lies within the bytes that hold it. The padding after it is no part of it (R306). -/
def tokenFormed (t : Bytes) : Bool :=
  let n := fieldLe t 0 2
  match tokenLens (byteAt t 2) with
  | none => false
  | some (pk, sg) =>
    n == 96 + pk + sg && fieldLe t 92 2 == pk && fieldLe t 94 2 == sg && decide (n ≤ t.length) &&
      (byteAt t 3 == 1 || byteAt t 3 == 3) && byteAt t 7 == 0 && allZero (slice t 18 2)

def tokenPub (t : Bytes) : Bytes := slice t 96 (fieldLe t 92 2)
def tokenNonce (t : Bytes) : BitVec 64 := BitVec.ofNat 64 (fieldLe t 20 8)

/-- The token's signature verifies. -/
def tokenSigned (t : Bytes) : Bool :=
  let n := 96 + fieldLe t 92 2
  let sig := slice t n (fieldLe t 94 2)
  if byteAt t 2 = Alg.p384 then verify384 (tokenPub t) sig (t.take n)
  else MlDsa.verify (MlDsa.par false) (tokenPub t) sig (MlDsa.mu (MlDsa.trOf (tokenPub t)) [] (t.take n))

/-- Scope and partition fit a class. -/
def tokenFits (t : Bytes) : QClass → Bool
  | .dev _ => byteAt t 3 == 1 && fieldLe t 4 2 == 0
  | .part _ p => byteAt t 3 == 3 && fieldLe t 4 2 == p

/-- The current time of token windows: network time, else the battery RTC, else none (R307). -/
def windowTime (s : State) : Option Nat :=
  if s.time.valid then some s.time.ntime else if s.time.rtcSet then some s.time.rtc else none

/-- The window is at most 24 h long and contains the current time. -/
def tokenWindow (s : State) (t : Bytes) : Bool :=
  let nb := fieldLe t 28 8
  let na := fieldLe t 36 8
  match windowTime s with
  | none => true
  | some now => decide (nb ≤ now ∧ now ≤ na ∧ na - nb ≤ 86400 * second)

/-- What a request's tokens are held against. -/
structure QRequest where
  classes : List QClass
  fn : Nat
  digest : Bytes
  nonce : BitVec 64

/-- Steps 4 to 8 of R307, with the reason code of the first that fails. -/
def tokenBound (s : State) (q : QRequest) (t : Bytes) : Nat :=
  if fieldLe t 8 8 ≠ Config.unitSerial.toNat then 4
  else if fieldLe t 16 2 ≠ q.fn ∨ slice t 44 48 ≠ q.digest then 5
  else if (nonceOf s (tokenNonce t)).isNone ∨ tokenNonce t ≠ q.nonce then 6
  else if !tokenWindow s t then 7
  else if !tokenSigned t then 8
  else 0

/-- The reason code of a token, 0 when it is counted; `seen` holds the classes and indices counted before it. -/
def tokenReason (s : State) (ro : Roster) (q : QRequest) (seen : List (QClass × Nat)) (t : Bytes) : Nat × Option (QClass × Nat) :=
  if !tokenFormed t then (1, none)
  else
    match q.classes.find? (tokenFits t) with
    | none => (2, none)
    | some c =>
      let i := (byteAt t 6).toNat
      if ro.digest c i ≠ some (officerDigest (byteAt t 2) (tokenPub t)) then (3, none)
      else
        let r := tokenBound s q t
        if r ≠ 0 then (r, none) else if seen.contains (c, i) then (9, none) else (0, some (c, i))

/-! ### The check (R307, R309) -/

/-- Reason codes and counted officers of the tokens of a set, eight at most. A malformed set counts its well-formed tokens all the same (R106). -/
def countTokens (s : State) (ro : Roster) (q : QRequest) (set : Bytes) : List Nat × List (QClass × Nat) :=
  (tokenOfs set (min 8 (byteAt set 0).toNat) 4).foldl (fun (acc : List Nat × List (QClass × Nat)) o =>
    let (r, c) := tokenReason s ro q acc.2 (set.drop o)
    (acc.1 ++ [r], acc.2 ++ c.toList)) ([], [])

def countedFor (seen : List (QClass × Nat)) (c : QClass) : List Nat := (seen.filter (fun x => x.1 == c)).map (·.2)

/-- The 64 bytes of a result. The bitmap is that of the first class (log 70). -/
def quorumPage (ro : Roster) (q : QRequest) (tag : Nat) (n : Byte) (reasons : List Nat) (seen : List (QClass × Nat)) : Bytes :=
  let c1 := q.classes.getD 0 (.dev 0)
  let i1 := countedFor seen c1
  let second : Bytes :=
    match q.classes[1]? with
    | some c => [BitVec.ofNat 8 (c.code + 64), BitVec.ofNat 8 (ro.m c), BitVec.ofNat 8 (countedFor seen c).length]
    | none => zeros 3
  let p := (q.classes.map QClass.partition).foldl max 0
  le 8 tag ++ le 2 q.fn ++ [BitVec.ofNat 8 c1.code, BitVec.ofNat 8 (ro.m c1), BitVec.ofNat 8 i1.length, n] ++ le 2 p ++
    le 2 ((i1.map (fun i => 2 ^ i)).sum) ++ zeros 2 ++ fit 8 (reasons.map (BitVec.ofNat 8)) ++ second ++ zeros 33

/-- Write the next quorum page and raise the mailbox vector. -/
def writePage (s : State) (b : Bytes) : State :=
  raiseVec { s with ofc := { s.ofc with
    pages := Map.set [] s.ofc.pages s.ofc.next b
    next := (s.ofc.next + 1) % 16 } } 0 3

/-- Count a request's tokens and write the page; a quorum that passes consumes the nonce. -/
def quorumRun (s : State) (e : Nat) (ro : Roster) (cs : List QClass) (digest set : Bytes) : Bool × State :=
  let x := s.entry e
  let q : QRequest := { classes := cs, fn := x.desc.fn.toNat, digest := digest, nonce := tokenNonce (set.drop 4) }
  let (reasons, seen) := countTokens s ro q set
  let ok := cs.all (fun c => decide (ro.m c ≤ (countedFor seen c).length))
  let s := writePage s (quorumPage ro q x.desc.tag.toNat (byteAt set 0) reasons seen)
  match ok, nonceOf s q.nonce with
  | true, some k => (true, consumeNonce s k)
  | ok, _ => (ok, s)

/-- QUORUM_REQUIRED unless the classes have their quorum; once per request, so that a row that waits does not check again. The digest
covers the input up to `body`, and the token set stands from `set` on. -/
def withQuorumOf (ro : Roster) (s : State) (e : Nat) (cs : List QClass) (body set : Nat) (k : State → FnEnd) : FnEnd :=
  let x := s.entry e
  match x.polPhase with
  | .idle =>
    let b := x.input.getD []
    let (ok, s) := quorumRun s e ro cs (Hash.sha384 (b.take body)) (b.drop set)
    if ok then k (s.modEntry e (fun x => { x with polPhase := .answered })) else ends St.quorumRequired s
  | _ => k s

/-- The quorum of the unit's own officers over the fixed fields of an input. -/
def withQuorum (s : State) (e : Nat) (cs : List QClass) (body : Nat) (k : State → FnEnd) : FnEnd :=
  withQuorumOf (ownRoster s) s e cs body body k

/-- Classes of a function listed under P3: D1 beside P3 once the partition has as many officers as its m, else D1 alone (R303). -/
def p3Classes (s : State) (p : Nat) : List QClass :=
  if policyM s (.part 3 p) ≤ officerCount s (some p) then [.part 3 p, .dev 1] else [.dev 1]

/-! ### A class 0xE request (R72, R106, R381) -/

/-- When a function's tally entry is reserved: before every other check, in the function's own order, or never. -/
inductive Audit where
  | first
  | own
  | none
deriving DecidableEq, Repr

/-- The 8 data words of 32 bytes. -/
def dataWords (b : Bytes) : Map Word :=
  (List.range 8).foldl (fun (m : Map Word) k => Map.set 0 m k (BitVec.ofNat 32 (fieldLe b (4 * k) 4))) []

/-- Reserve the request's entry, with its code, data and continuation (R379, R381). -/
def reserveEntry (s : State) (e : Nat) (code : BitVec 16) (data : Bytes) (more : Option Bytes) : Option State :=
  if (s.entry e).tally.held then some s
  else
    (Tal.reserve s (if more.isSome then 2 else 1)).map (fun s =>
      s.modEntry e (fun x => { x with tally := { held := true, code := code, more := more, data := dataWords data } }))

/-- The entry of a class 0xE request: the first 32 bytes of the SHA-384 of its input. -/
def reserveAdmin (s : State) (e : Nat) (b : Bytes) : Option State := reserveEntry s e 0x0201 ((Hash.sha384 b).take 32) none

/-- Post what a request's steps yielded, with the conversion of R50. -/
def postAdmin (s : State) (e : Nat) (d : Draft) : State :=
  let s := putDraft s e d
  let x := s.entry e
  let (st, r) := postedStatus x
  let keep := st == St.ok
  s.setEntry e { x with
    status := st
    result := r
    outLen := if keep then x.outLen else 0
    out := if keep then x.out else []
    outOver := 0
    phase := .posted }

/-- Go on with the tally entry reserved; AUDIT_FULL where it cannot be. -/
def withAudit (s : State) (e : Nat) (k : State → FnEnd) : FnEnd :=
  if (s.entry e).tally.held then k s else ends St.auditFull s

/-- Go on while the Keep DRBG serves, else wait for it. -/
def whenKeepRandom (s : State) (k : State → FnEnd) : FnEnd := if drbgServes s 8 then k s else (.starved, s)

/-- The state in which a PF request is taken from its ring: with room for its largest output; none while there is none. The boot ROM, which
serves before any stack is trained, holds what it puts out itself (R256, R328; log 108). -/
def takeRoom (s : State) (e : Nat) : Option State :=
  let x := s.entry e
  if largestOut x.desc.fn.toNat = 0 ∨ x.area.isSome ∨ s.boot.romService then some s
  else (freeArea s).map (fun a => s.modEntry e (fun x => { x with area := some a }))

/-- The row of a class 0xE function: its request runs in warden firmware with the input read, and waits during a switch-over gap (R296). `mine` says that the input is the row's
sub-operation. -/
def runAdmin (fn e : Nat) (dma : Dma) (audit : Audit) (s : State) (mine : Bytes → Bool) (body : State → Bytes → FnEnd) :
    Host.Outcome State Fault Refusal :=
  let x := s.entry e
  if x.phase ≠ .firmware ∨ x.state ≠ .reserved ∨ x.desc.fn ≠ BitVec.ofNat 16 fn ∨ s.yoke.gap then done s
  else
    match takeRoom s e with
    | none => done s
    | some s =>
    match takeInput s e dma with
    | none =>
      let s := if audit = .none then s else (reserveEntry s e 0x0201 [] none).getD s
      done (postAdmin (hostLost s false).2 e { status := (hostLost s false).1 })
    | some (b, t) =>
      if !mine b then done s
      else
        let run (t : State) : Host.Outcome State Fault Refusal :=
          match body t b with
          | (.ended d, t) => done (postAdmin t e d)
          | (.waits, t) => done t
          | (.starved, t) => done (t.modEntry e (fun x => { x with rngWait := true }))
        match audit with
        | .none => run t
        | .own => run ((reserveAdmin t e b).getD t)
        | .first =>
          match reserveAdmin t e b with
          | some t => run t
          | none => done (postAdmin t e { status := St.auditFull })

end Sys2Proof.Machine
end

