-- ==== Sys2Proof/Machine/AdminParts.lean ====
section
/-! DEFINITION. The administrative requests that configure, activate, freeze and reset partitions, and that install what a
partition's officers decide: function split, decimalization tables and velocity policies (R58, R78, R88, R276 to R281, R287). -/

set_option linter.unusedVariables false

namespace Sys2Proof.Machine

open Sys2Proof Sys2Proof.Bits

/-- Partition a request names in two bytes. -/
def partAtByte (b : Bytes) (o : Nat) : Nat := fieldLe b o 2

/-! ### PARTITION_CONFIGURE (R278) -/

/-- Configured partitions by number. -/
def configured (s : State) : List Nat := Map.keysWhere (fun _ x => x.configured) s.parts

/-- A sum of one field over every configured partition. -/
def sumOf (s : State) (f : Part → Nat) : Nat := ((configured s).map (fun p => f (s.part p))).sum

/-- Lowest base of a free run of n units within total, given the runs in use (R118, R230). -/
def findRun (used : List (Nat × Nat)) (total n : Nat) : Option Nat :=
  if n = 0 then some 0
  else
    let free (c : Nat) : Bool := decide (c + n ≤ total) && used.all (fun u => decide (u.2 = 0 ∨ c + n ≤ u.1 ∨ u.1 + u.2 ≤ c))
    (sortOn (fun c => c) (0 :: used.map (fun u => u.1 + u.2))).find? free

/-- Runs in use of one resource. -/
def runsOf (s : State) (base len : Part → Nat) : List (Nat × Nat) :=
  (configured s).map (fun p => (base (s.part p), len (s.part p)))

/-- Records one stack's extents hold together (R230). -/
def extentTotal : Nat := 100663296

/-- Reserved bytes of a PARTITION_CONFIGURE input are 0. -/
def configReserved (b : Bytes) : Bool := byteAt b 3 == 0 && allZero (slice b 22 2)

def quotaOk (q : Nat) : Bool := decide (1 ≤ q ∧ q ≤ 65536)

/-- The fields of a set within their ranges and sums. -/
def configFits (s : State) (b : Bytes) : Bool :=
  let dpid := fieldLe b 24 8
  quotaOk (fieldLe b 4 4) && decide (fieldLe b 10 2 ≤ 4032) && decide (fieldLe b 20 2 ≤ 16384) && dpid != 0 &&
    decide (sumOf s (·.flowLimit) + fieldLe b 8 2 ≤ 262144) && decide (sumOf s (·.n0) + fieldLe b 12 4 ≤ extentTotal) &&
    decide (sumOf s (·.n1) + fieldLe b 16 4 ≤ extentTotal) && decide (sumOf s (·.slotQuota) + fieldLe b 10 2 ≤ 4032) &&
    decide (sumOf s (·.bucketQuota) + fieldLe b 20 2 ≤ 16384) && (configured s).all (fun p => (s.part p).dpid.toNat != dpid)

/-- Store a configuration: every field, the flow-table run and both extents; none where no contiguous run is free. -/
def storeConfig (s : State) (p : Nat) (b : Bytes) : Option State :=
  match findRun (runsOf s (·.flowBase) (·.flowLimit)) 262144 (fieldLe b 8 2), findRun (runsOf s (·.base0) (·.n0)) extentTotal (fieldLe b 12 4),
      findRun (runsOf s (·.base1) (·.n1)) extentTotal (fieldLe b 16 4) with
  | some f, some e0, some e1 =>
    some (s.modPart p (fun x => { x with
      configured := true
      quota := fieldLe b 4 4
      flowLimit := fieldLe b 8 2
      flowBase := f
      slotQuota := fieldLe b 10 2
      n0 := fieldLe b 12 4
      n1 := fieldLe b 16 4
      base0 := e0
      base1 := e1
      bucketQuota := fieldLe b 20 2
      dpid := BitVec.ofNat 64 (fieldLe b 24 8) }))
  | _, _, _ => none

/-- The rows of PARTITION_CONFIGURE: D0 quorum, then the reserved bytes, then the sub-operation. -/
def runConfigure (e : Nat) (dma : Dma) (s : State) (mine : Byte → Bool) (act : State → Nat → Bytes → FnEnd) :
    Host.Outcome State Fault Refusal :=
  runAdmin 0xE001 e dma .first s (fun b => mine (byteAt b 2)) (fun s b =>
    withQuorum s e [.dev 0] 32 (fun s => check (configReserved b) St.badFormat s (act s (partAtByte b 0) b)))

/-- Sub-operation 0x01, set. An unlisted sub-operation ends here with BAD_FORMAT. -/
def execPartitionConfigureSet (e : Fin 69632) (dma : Dma) (s : State) : Host.Outcome State Fault Refusal :=
  runConfigure e dma s (fun k => k != 2 && k != 3 && k != 4) (fun s p b =>
    let x := s.part p
    check (byteAt b 2 == 1 && decide (p < 2048) && x.state == .empty && !x.configured && configFits s b) St.badFormat s
      (match storeConfig s p b with
      | some s => endsOk s 0 []
      | none => ends St.badFormat s))

/-- Sub-operation 0x02, purge slots: every MRAM slot that names the partition is erased, in any state. -/
def execPartitionConfigurePurgeSlots (e : Fin 69632) (dma : Dma) (s : State) : Host.Outcome State Fault Refusal :=
  runConfigure e dma s (· == 2) (fun s p _ =>
    check (decide (p < 2048)) St.badFormat s (endsOk ((slotsOf s p).foldl eraseSlot s) 0 []))

/-- Sub-operation 0x03, remove a seen-list entry (R287). A DPID that is not listed is BAD_FORMAT (log 71). -/
def execPartitionConfigureRemoveSeen (e : Fin 69632) (dma : Dma) (s : State) : Host.Outcome State Fault Refusal :=
  runConfigure e dma s (· == 3) (fun s _ b =>
    let d := BitVec.ofNat 64 (fieldLe b 24 8)
    check (s.seen.any (fun x => x.1 == d)) St.badFormat s (endsOk { s with seen := s.seen.filter (fun x => x.1 != d) } 0 []))

/-- Sub-operation 0x04, change the in-flight quota, in any state but EMPTY. -/
def execPartitionConfigureChangeQuota (e : Fin 69632) (dma : Dma) (s : State) : Host.Outcome State Fault Refusal :=
  runConfigure e dma s (· == 4) (fun s p b =>
    let q := fieldLe b 4 4
    check (decide (p < 2048) && (s.part p).state != .empty && quotaOk q) St.badFormat s
      (endsOk (s.modPart p (fun x => { x with quota := q })) 0 []))

/-! ### The order of freezes and resets (R288) -/

/-- A freeze or a reset of partition p accepted before request e has not ended, or has not named its partition yet (R288). -/
def earlierMove (s : State) (e p : Nat) : Bool :=
  s.entries.any (fun y => y.1 != e && y.2.phase == .firmware && y.2.state == .reserved && (y.2.desc.fn == 0xE002 || y.2.desc.fn == 0xE003) &&
    decide (y.2.acceptSeq < (s.entry e).acceptSeq) && y.2.input.all (fun b => partAtByte b 0 == p))

/-- A freeze or a reset waits for those of its partition that were accepted before it, and for a reset that has begun (R288). -/
def moveWaits (s : State) (e p : Nat) : Bool := (s.part p).resetEntry.isSome || earlierMove s e p

/-! ### PARTITION_ACTIVATE (R279) -/

/-- A partition becomes ACTIVE; the first time its generation becomes 1 (R51). -/
def makeActive (s : State) (p : Nat) : State :=
  movePart (s.modPart p (fun x => { x with gen := if x.gen = 0 then 1 else x.gen })) p .active

/-- PARTITION_ACTIVATE. A partition that a reset left EMPTY and emigrated stays so until its release (R285; log 110). -/
def execPartitionActivate (e : Fin 69632) (dma : Dma) (s : State) : Host.Outcome State Fault Refusal :=
  runAdmin 0xE004 e dma .first s (fun _ => true) (fun s b =>
    withQuorum s e [.dev 0] 2 (fun s =>
      let p := partAtByte b 0
      check (decide (p < 2048) && (s.part p).state == .empty && (s.part p).configured && !(s.part p).emigrated) St.badFormat s
        (endsOk (makeActive s p) 0 [])))

/-! ### PARTITION_FREEZE (R281) -/

/-- Byte 24: the state at that moment, a QUIESCING partition without a request in flight being FROZEN. -/
def endFreeze (s : State) (p : Nat) : FnEnd :=
  let s := if (s.part p).state = .quiescing ∧ inFlight s (p + 1) = 0 then movePart s p .frozen else s
  endsOk s (BitVec.ofNat 64 (s.part p).state.code) []

/-- Abort mode: requests not yet dispatched complete with PARTITION_FROZEN, dispatched ones end ABORTED, and a STAGED one keeps its
status (R25, R281). -/
def abortForFreeze (s : State) (p : Nat) : State :=
  (entriesWhere s (fun x => x.func == p + 1 && x.accepted && x.state == .reserved)).foldl (fun s e =>
    let ph := (s.entry e).phase
    endRequest s e (if ph = .ready ∨ ph = .waitSlot then St.partitionFrozen else St.aborted)) s

def runFreeze (e : Nat) (dma : Dma) (s : State) (mine : Byte → Bool) (act : State → Nat → Bytes → FnEnd) :
    Host.Outcome State Fault Refusal :=
  runAdmin 0xE003 e dma .first s (fun b => mine (byteAt b 2)) (fun s b =>
    let p := partAtByte b 0
    check (decide (p < 2048)) St.badFormat s (if moveWaits s e p then (.waits, s) else act s p b))

/-- Mode 0x00, drain. An unlisted mode ends here with BAD_FORMAT. -/
def execPartitionFreezeDrain (e : Fin 69632) (dma : Dma) (s : State) : Host.Outcome State Fault Refusal :=
  runFreeze e dma s (fun k => k != 1 && k != 2) (fun s p b =>
    check (byteAt b 2 == 0 && (s.part p).state == .active) St.badFormat s (endFreeze (movePart s p .quiescing) p))

/-- Mode 0x01, abort. -/
def execPartitionFreezeAbort (e : Fin 69632) (dma : Dma) (s : State) : Host.Outcome State Fault Refusal :=
  runFreeze e dma s (· == 1) (fun s p _ =>
    check ((s.part p).state == .active) St.badFormat s (endFreeze (abortForFreeze (movePart s p .quiescing) p) p))

/-- Mode 0x02, thaw. -/
def execPartitionFreezeThaw (e : Fin 69632) (dma : Dma) (s : State) : Host.Outcome State Fault Refusal :=
  runFreeze e dma s (· == 2) (fun s p _ =>
    check ((s.part p).state == .frozen && !(s.part p).emigrated) St.badFormat s (endFreeze (makeActive s p) p))

/-! ### PARTITION_RESET (R280) -/

/-- The reset began, and its request waits for the increment to complete it. -/
def awaitIncrement (s : State) (p e : Nat) : FnEnd :=
  (.waits, tryIncrement (s.modPart p (fun x => { x with resetEntry := some e })) p)

/-- A PARTITION_RESET row: one request of a partition at a time, in order (R288); without a quorum. -/
def runReset (e : Nat) (dma : Dma) (s : State) (mine : Byte → Bool) (act : State → Nat → Bytes → FnEnd) :
    Host.Outcome State Fault Refusal :=
  if s.parts.any (fun x => x.2.resetEntry == some e) then done s
  else
    runAdmin 0xE002 e dma .first s (fun b => mine (byteAt b 2)) (fun s b =>
      let p := partAtByte b 0
      check (decide (p < 2048)) St.badFormat s (if moveWaits s e p then (.waits, s) else act s p b))

/-- Mode 0x00, restart. An unlisted mode ends here with BAD_FORMAT. -/
def execPartitionResetRestart (e : Fin 69632) (dma : Dma) (s : State) : Host.Outcome State Fault Refusal :=
  runReset e dma s (· != 1) (fun s p b =>
    let x := s.part p
    check (byteAt b 2 == 0 && !x.emigrated && (x.state == .active || x.state == .quiescing || x.state == .frozen)) St.badFormat s
      (awaitIncrement (beginReset s p) p e))

/-- Mode 0x01, release: without an MRAM slot of the partition, unless it is emigrated, which a seal that ended after the request's admission
does not count for (R280, R288). A partition that a reset left EMPTY and emigrated is released too (R285; log 110). -/
def execPartitionResetRelease (e : Fin 69632) (dma : Dma) (s : State) : Host.Outcome State Fault Refusal :=
  runReset e dma s (· == 1) (fun s p _ =>
    let x := s.part p
    let gone := x.emigrated && !(s.entry e).preSeal.contains p
    check ((x.state != .empty || x.emigrated) && (gone || (slotsOf s p).isEmpty)) St.badFormat s
      (let s := if x.state = .resetting then s.modPart p (fun y => { y with incPending := y.incPending + 1 }) else beginReset s p
      awaitIncrement (s.modPart p (fun y => { y with releasing := true })) p e))

/-! ### Function split, decimalization tables, velocity policies (R58, R78, R88) -/

/-- FN_SPLIT_SET: bits [7:1] of PART_FN_SPLIT_p, for descriptors fetched after the change (R58, R59). -/
def execFnSplitSet (e : Fin 69632) (dma : Dma) (s : State) : Host.Outcome State Fault Refusal :=
  runAdmin 0xE010 e dma .first s (fun _ => true) (fun s b =>
    let p := partAtByte b 0
    withQuorum s e [.part 1 p] 3 (fun s =>
      check ((byteAt b 2).getLsbD 0 == false) St.badFormat s
        (endsOk (s.modPart p (fun x => { x with fnSplit := byteAt b 2 })) 0 [])))

/-- Every decimal digit appears in the table once or twice, and nothing else does (R88). -/
def tableOk (t : Bytes) : Bool :=
  let ns := nibs t
  ns.all (fun n => decide (n ≤ 9)) && (List.range 10).all (fun d => decide (1 ≤ ns.count d ∧ ns.count d ≤ 2))

/-- DECTABLE_INSTALL (R88). -/
def execDectableInstall (e : Fin 69632) (dma : Dma) (s : State) : Host.Outcome State Fault Refusal :=
  runAdmin 0xE011 e dma .first s (fun _ => true) (fun s b =>
    let p := partAtByte b 0
    let i := 8 * p + (byteAt b 2).toNat
    let t := slice b 4 8
    withQuorum s e [.part 1 p] 12 (fun s =>
      check (decide ((byteAt b 2).toNat < 8) && decide ((byteAt b 3).toNat ≤ 1)) St.badFormat s
        (if byteAt b 3 = 1 then endsOk { s with decTables := Map.set none s.decTables i none } 0 []
        else check (tableOk t) St.formatRule s
          (endsOk { s with decTables := Map.set none s.decTables i (some (BitVec.ofNat 64 (ofLe t))) } 0 []))))

/-- VELOCITY_POLICY_SET (R77, R78): in force for each of its buckets at that bucket's next refill event. -/
def execVelocityPolicySet (e : Fin 69632) (dma : Dma) (s : State) : Host.Outcome State Fault Refusal :=
  runAdmin 0xE012 e dma .first s (fun _ => true) (fun s b =>
    let p := partAtByte b 0
    let k := (byteAt b 2).toNat
    let cap := fieldLe b 4 4
    let ini := fieldLe b 12 4
    withQuorum s e [.part 1 p] 16 (fun s =>
      check (decide (k < 16) && byteAt b 3 == 0 && decide (oneToken ≤ cap ∧ cap ≤ 32767 * oneToken) && decide (ini ≤ cap))
        St.badFormat s
        (endsOk { s with velPols := Map.set {} s.velPols (16 * p + k) { on := true, cap := cap, rate := fieldLe b 8 4, init := ini } } 0 [])))

end Sys2Proof.Machine
end

