-- ==== Sys2Proof/Machine/BlockEngine.lean ====
section
/-! DEFINITION. The block engines: windows, key slots, commands, results, compare, and the datapath check (05_transaction_units.md R139,
R140; 06_knatrix_isa.md R171; 07_block_and_bulk_ciphers.md R178 to R185). -/

set_option linter.unusedVariables false

namespace Sys2Proof.Machine

open Sys2Proof Sys2Proof.Bits

/-- The engine that serves window e of a stook: the first in service of e, e + 1, … modulo 4 (R185). -/
def servingBe (s : State) (k e : Nat) : Nat :=
  4 * k + (((List.range 4).map (fun i => (e + i) % 4)).find? (fun i => !(s.be (4 * k + i)).retired)).getD e

/-- Index of a context's slot behind window e. -/
def beIdx (s : State) (n e : Nat) : Nat := 64 * servingBe s (stookOfCtx n) e + n % 64

def beGet (s : State) (n e : Nat) : BeSlot := s.beSlot (beIdx s n e)

def beMod (s : State) (n e : Nat) (f : BeSlot → BeSlot) : State := s.setBeSlot (beIdx s n e) (f (beGet s n e))

/-- Whether a role allows encryption (or decryption) and the label of its output (R140). -/
def beRole (role : Byte) (dec : Bool) : Option Label :=
  match role.toNat, dec with
  | 0x01, true => some .n
  | 0x02, false => some .c
  | 0x03, false => some .t
  | 0x04, false => some .c
  | 0x05, _ => some .c
  | 0x06, _ => some .t
  | 0x07, false => some .k
  | 0x08, _ => some .k
  | 0x09, false => some .k
  | 0x0A, false => some .c
  | 0x0C, false => some .c
  | 0x0C, true => some .k
  | _, _ => none

/-- Cipher, key length and key parts of an algorithm code (R178). -/
def beAlg (a : Nat) : Option (Cipher.Alg × Nat) :=
  match a with
  | 0 | 6 => some (.des, 1)
  | 1 => some (.tdes, 1)
  | 2 => some (.tdes, 2)
  | 3 => some (.aes, 1)
  | 4 => some (.aes, 2)
  | 5 => some (.aes, 2)
  | _ => none

/-- Key bytes that an algorithm code takes from the parts of a slot. -/
def beKeyBytes (a : Nat) (x : BeSlot) : Bytes :=
  let k0 := (x.key0.getD {}).bytes
  let k1 := (x.key1.getD {}).bytes
  match a with
  | 0 => k0.take 8
  | 6 => k0.drop 8
  | 2 => k0 ++ k1.take 8
  | 4 => k0 ++ k1.take 8
  | 5 => k0 ++ k1
  | _ => k0

/-- One block through the cipher; results of 8-byte algorithms have bytes 8 to 15 zero. -/
def beCrypt (a : Nat) (dec : Bool) (key blk : Bytes) : Bytes :=
  match beAlg a with
  | some (c, _) => fit 16 (if dec then Cipher.dec c key (blk.take (Cipher.blockLen c)) else Cipher.enc c key (blk.take (Cipher.blockLen c)))
  | none => zeros 16

/-- The check value: E(K, 0) for DES and TDES, AES-CMAC of one zero block for AES (R183). -/
def beCheck (a : Nat) (key : Bytes) : Bytes :=
  match beAlg a with
  | some (.aes, _) => Cipher.cmac .aes key (zeros 16)
  | some (c, _) => fit 16 (Cipher.enc c key (zeros 8))
  | none => zeros 16

/-- BE_KEY_0 and BE_KEY_1: only a register of label K that is not derived and has a role; part 1 only after part 0. -/
def beKey (s : State) (n e sa : Nat) (second : Bool) : State :=
  let r := (s.core n).getS sa
  if r.label ≠ .k then portError s n
  else if r.derived ∨ r.role = 0 then faultCtx s n
  else if second ∧ (beGet s n e).key0.isNone then faultCtx s n
  else goNext (beMod s n e (fun x => if second then { x with key1 := some r } else { x with key0 := some r, key1 := none })) n

/-- BE_DIN. -/
def beData (s : State) (n e sa : Nat) : State := goNext (beMod s n e (fun x => { x with din := (s.core n).getS sa })) n

/-- The key of a slot fits an algorithm: a key loaded, its parts as many as the algorithm's and of one role (R182). -/
def beKeyed (x : BeSlot) (a : Nat) : Bool :=
  match x.key0, beAlg a with
  | some k0, some (_, parts) =>
    match x.key1 with
    | none => parts == 1
    | some k1 => parts == 2 && k1.role == k0.role
  | _, _ => false

/-- Queue a result. -/
def beResult (s : State) (n e : Nat) (r : SReg) : State :=
  beMod s n e (fun x => { x with results := x.results ++ [{ reg := r, ready := false }] })

/-- An encrypt or decrypt command (R139, R140, R171, R182). -/
def beCommand (s : State) (n e a : Nat) (dec : Bool) : State :=
  let x := beGet s n e
  if 8 ≤ x.results.length then waitOn s n (.beIssue e)
  else if !beKeyed x a then faultCtx s n
  else
    let role := (x.key0.getD {}).role
    match beRole role dec with
    | none => portError s n
    | some out =>
      let v := block (beCrypt a dec (beKeyBytes a x) x.din.bytes)
      let l := out.max x.din.label
      let s := beResult s n e { val := v, label := l, role := role, derived := l == .k }
      goNext (if dec then s else beMod s n e (fun x => { x with lastEnc := some v, lastRole := role })) n

/-- The check-value command: role 0x0B, label C (R183). -/
def beCheckCommand (s : State) (n e a : Nat) : State :=
  let x := beGet s n e
  if 8 ≤ x.results.length then waitOn s n (.beIssue e)
  else if !beKeyed x a then faultCtx s n
  else
    let role := (x.key0.getD {}).role
    if role ≠ 0x0B then portError s n
    else goNext (beResult s n e { val := block (beCheck a (beKeyBytes a x)), label := .c, role := role }) n

/-- The compare command (R183); as a ninth command it waits (R181). -/
def beCompareCommand (s : State) (n e len : Nat) : State :=
  let x := beGet s n e
  if 8 ≤ x.results.length then waitOn s n (.beIssue e)
  else
    let eq := match x.lastEnc with
      | some v => x.din.bytes.take (len + 1) == (ofBlock v).take (len + 1)
      | none => false
    let s := beMod s n e (fun x => { x with eq := eq })
    goNext (if eq ∧ x.lastRole = 0x0C then s.modCore n (fun y => { y with recAuth := true }) else s) n

/-- BE_CMD as a word (R181): an op that is not listed, or a compare length with another op, ends the request. -/
def beCmdWord (s : State) (n e : Nat) (v : Word) : State :=
  let a := bits v.toNat 7 4
  let len := bits v.toNat 11 8
  match bits v.toNat 3 0 with
  | 1 => if len = 0 then beCommand s n e a false else faultCtx s n
  | 2 => if len = 0 then beCommand s n e a true else faultCtx s n
  | 3 => if len = 0 then beCheckCommand s n e a else faultCtx s n
  | 4 => beCompareCommand s n e len
  | _ => faultCtx s n

/-- BE_DOUT: the oldest result, when it is ready. -/
def beTake (s : State) (n : Fin 2048) (e sd : Nat) : State :=
  match (beGet s n e).results with
  | { reg := r, ready := true } :: rest => putSecret (beMod s n e (fun x => { x with results := rest })) n sd r
  | _ => waitOn s n (.beResult e)

/-- BE_STATUS. -/
def beStatus (s : State) (n e : Nat) : Word :=
  let x := beGet s n e
  BitVec.ofNat 32 (x.results.length + 16 * b2n x.eq + 32 * b2n x.key0.isSome + 64 * b2n x.key1.isSome)

/-- A key slot erased. -/
def BeSlot.keyless (x : BeSlot) : BeSlot := { x with key0 := none, key1 := none }

/-- BE_KEYCLR: the context's key slot in every engine of the stook (R179). -/
def beClear (s : State) (n : Nat) : State :=
  goNext ((List.range 4).foldl (fun s i =>
    let j := 64 * (4 * stookOfCtx n + i) + n % 64
    s.setBeSlot j (s.beSlot j).keyless) s) n

/-- The next result of a slot that is not ready becomes ready. -/
def readyNext : List BeRes → List BeRes
  | [] => []
  | r :: rest => if r.ready then r :: readyNext rest else { r with ready := true } :: rest

/-- A datapath mismatch in engine b of a context's stook: every key slot of the engine is erased (R185). -/
def beMismatch (s : State) (n b : Nat) : State :=
  let k := stookOfCtx n
  let s := latchErr (evtCount s (stookPage k) 0x0A4 15 0) (stookPage k) 0x0011 b
  let keyed := ((List.range 64).filter (fun i => (s.beSlot (64 * b + i)).key0.isSome)).map (fun i => 64 * k + i)
  let held := keyed.filter (fun c => (s.core c).phase == .running || (s.core c).phase == .ended)
  let s := (n :: held).map (fun c => (s.core c).entry) |>.foldl (fun s e => endRequest s e St.faultAlarm) s
  let s := (List.range 64).foldl (fun s i => s.setBeSlot (64 * b + i) (s.beSlot (64 * b + i)).keyless) s
  let x := s.be b
  let times := noteTime x.faults s.tmr.now 3
  if withinSpan times 3 second ∧ !x.retired then
    let s := s.setBe b { x with faults := times, retired := true }
    checkUnits (postRetired (latchErr s (stookPage k) 0x0013 b) (dieOfStook k) 2 b)
  else s.setBe b { x with faults := times }

/-! ### Rows -/

def execBeKey0 (c : Fin 2048) (e : Fin 4) (sa : Fin 16) (s : State) : Host.Outcome State Fault Refusal :=
  portRow c noWait s (fun s => beKey s c e sa false)

def execBeKey1 (c : Fin 2048) (e : Fin 4) (sa : Fin 16) (s : State) : Host.Outcome State Fault Refusal :=
  portRow c noWait s (fun s => beKey s c e sa true)

def execBeDin (c : Fin 2048) (e : Fin 4) (sa : Fin 16) (s : State) : Host.Outcome State Fault Refusal :=
  portRow c noWait s (fun s => beData s c e sa)

def execBeEncrypt (c : Fin 2048) (e : Fin 4) (alg : BitVec 4) (s : State) : Host.Outcome State Fault Refusal :=
  portRow c (· == .beIssue e) s (fun s => beCommand s c e alg.toNat false)

def execBeDecrypt (c : Fin 2048) (e : Fin 4) (alg : BitVec 4) (s : State) : Host.Outcome State Fault Refusal :=
  portRow c (· == .beIssue e) s (fun s => beCommand s c e alg.toNat true)

def execBeCheckValue (c : Fin 2048) (e : Fin 4) (alg : BitVec 4) (s : State) : Host.Outcome State Fault Refusal :=
  portRow c (· == .beIssue e) s (fun s => beCheckCommand s c e alg.toNat)

def execBeCompare (c : Fin 2048) (e : Fin 4) (cmpLen : BitVec 4) (s : State) : Host.Outcome State Fault Refusal :=
  portRow c (· == .beIssue e) s (fun s => beCompareCommand s c e cmpLen.toNat)

/-- BE_RESULT_READY (R184). -/
def execBeResultReady (c : Fin 2048) (e : Fin 4) (s : State) : Host.Outcome State Fault Refusal :=
  done (beMod s c e (fun x => { x with results := readyNext x.results }))

def execBeDout (c : Fin 2048) (e : Fin 4) (sd : Fin 16) (s : State) : Host.Outcome State Fault Refusal :=
  portRow c (· == .beResult e) s (fun s => beTake s c e sd)

def execBeKeyclr (c : Fin 2048) (e : Fin 4) (s : State) : Host.Outcome State Fault Refusal :=
  portRow c noWait s (fun s => beClear s c)

/-- BE_DATAPATH_MISMATCH (R185), on a block of a context that runs. -/
def execBeDatapathMismatch (c : Fin 2048) (e : Fin 4) (s : State) : Host.Outcome State Fault Refusal :=
  if (s.core c).phase ≠ .running then done s else done (beMismatch s c (servingBe s (stookOfCtx c) e))

end Sys2Proof.Machine
end

