-- ==== Sys2Proof/Machine/Bulk.lean ====
section
/-! DEFINITION. The bulk AEAD engines: the gateway, messages, suspension, alarms and self-test (03_payment_functions.md R103, R104;
07_block_and_bulk_ciphers.md R186 to R193). -/

set_option linter.unusedVariables false

namespace Sys2Proof.Machine

open Sys2Proof Sys2Proof.Bits

/-! ### Engines -/

/-- End the running message with a status; a decryption that wrote and that no tag vouched for marks the request (R190). -/
def bulkEndMsg (s : State) (b : Nat) (m : BulkMsg) (st : Status) : State :=
  let s := s.modBae b (fun x => { x with msg := some { m with ended := some st } })
  if isBulkDec m.fn.toNat ∧ (st = St.tagFail ∨ ((st = St.aborted ∨ st = St.badPointer) ∧ 0 < m.count)) then
    s.modEntry m.entry (fun x => { x with untrusted := true })
  else s

/-- The IV as the message uses it: drawn from the lead's barn DRBG where none was given; none while the DRBG does not serve. -/
def bulkIv (s : State) (m : BulkMsg) : Option (BulkMsg × State) :=
  if m.drawn ∧ m.iv.isEmpty then
    let b := (s.entry m.entry).barn
    if drbgServes s b then
      let (v, s) := drbgGen s b 12
      some ({ m with iv := v }, s)
    else none
  else some (m, s)

/-- Run the rest of a message: payload, then tag and drawn IV, or the comparison (R189, R190). An access that fails stops the stream
where nothing fixes; the count covers what was written before it (log 2). A stream that the HOSTDMA gate denies ends its request (R10, R347). -/
def bulkRest (s : State) (b : Nat) (m : BulkMsg) (dma : Dma) : State :=
  if bulkStale s m then bulkEndMsg s b m St.aborted
  else if !hostGate s false || !hostGate s true then endRequest (hostDenied s (hostGate s false)) m.entry St.faultAlarm
  else
    match bulkIv s m with
    | none => s
    | some (m, s) =>
      let (aad, data, s) := bulkRead s b m (m.len - m.pos)
      let (out, m) := bulkData (bulkHeader m aad) data
      let dec := isBulkDec m.fn.toNat
      let out := if dec then out else out ++ (bulkTag m).take m.tagLen ++ (if m.drawn then m.iv else [])
      if dma ≠ .ok then
        let (v, s) := s.draw 64
        let (s, m) := bulkWrite s b m (out.take (v.toNat % (out.length + 1)))
        bulkEndMsg s b m St.badPointer
      else
        let (s, m) := bulkWrite s b m out
        let bad := dec && (bulkTag m).take m.tagLen != m.tag.take m.tagLen
        bulkEndMsg s b m (if bad then St.tagFail else St.ok)

/-- Judge a message before it starts (R189): limits, then capacity. -/
def bulkStart (s : State) (b : Nat) (m : BulkMsg) : State :=
  let x := s.entry m.entry
  let m := { m with dst := x.desc.outAddr }
  let s := s.modBae b (fun y => { y with msg := some m, cntHi := false })
  if !bulkLimits m then bulkEndMsg s b m St.badLength
  else if x.desc.outCap < bulkOut m then bulkEndMsg s b { m with need := bulkOut m % 2 ^ 32 } St.badLength
  else
    match bulkIv s m with
    | some (m, s) => s.modBae b (fun y => { y with msg := some m })
    | none => s

/-! ### The gateway (R187, R188) -/

/-- An access to the gateway: the lead of a request with a bound engine. A request bound for an urgent run waits until the engine is its
own, and every request waits out the self-test (R191, R193). -/
def gateway (s : State) (n : Nat) (k : Nat → State) : State :=
  let e := (s.core n).entry
  if (s.core n).member ≠ 0 then portError s n
  else
    match baeOf s e with
    | none => portError s n
    | some b =>
      let x := s.bae b
      if x.owner = .request ∧ x.entry = e ∧ !(x.susp.any (fun m => m.entry == e)) ∧ !x.selftest then k b
      else waitPaused s n .bgWait

/-- BG_KEY. -/
def bulkKey (s : State) (n sa : Nat) : State :=
  gateway s n (fun b =>
    let r := (s.core n).getS sa
    if r.label ≠ .k ∨ r.derived ∨ r.role ≠ 0x0D then faultCtx s n
    else goNext (s.modBae b (fun x => { x with keyParts := x.keyParts ++ [r] })) n)

/-- Key parts of an algorithm (R187). -/
def bulkParts (a : Byte) : Nat :=
  if a = Alg.aes128 then 1 else if a = Alg.aes256 then 2 else if a = Alg.xts128 then 2 else if a = Alg.xts256 then 4 else 0

/-- BG_CMD: the staged parameter block, with every key part of the loaded key's algorithm. -/
def bulkCommand (s : State) (n : Nat) (dma : Dma) : State :=
  gateway s n (fun b =>
    let e := (s.core n).entry
    let x := s.entry e
    let y := s.bae b
    let alg := Map.get 0 x.lookAlg 0
    if y.msg.isSome ∨ y.keyParts.isEmpty ∨ y.keyParts.length ≠ bulkParts alg then faultCtx s n
    else
      withInputRead s n dma (fun s p =>
        goNext (bulkStart s b (parseBulk e x.desc.fn.toNat (y.keyParts.flatMap SReg.bytes) p)) n))

/-- BG_WAIT: the status once the message has ended. -/
def bulkWait (s : State) (n r : Nat) : State :=
  gateway s n (fun b =>
    match (s.bae b).msg with
    | some m =>
      match m.ended with
      | some st => answer s n r (st.setWidth 32)
      | none => waitPaused s n .bgWait
    | none => waitPaused s n .bgWait)

/-- BG_COUNT: low word, then high word; after a BAD_LENGTH for capacity, the capacity required (R189). -/
def bulkCount (s : State) (n r : Nat) : State :=
  gateway s n (fun b =>
    let (s, m) := match (s.bae b).msg with
      | some m => let (s, m) := bulkAdvance s b m; (s.modBae b (fun x => { x with msg := some m }), some m)
      | none => (s, none)
    let x := s.bae b
    let v := match m with
      | some m => if m.ended = some St.badLength then m.need else m.count
      | none => 0
    answer (s.modBae b (fun x => { x with cntHi := !x.cntHi })) n r (BitVec.ofNat 32 (if x.cntHi then v / 2 ^ 32 else v)))

def execBgKey (c : Fin 2048) (sa : Fin 16) (s : State) : Host.Outcome State Fault Refusal :=
  portRow c (· == .bgWait) s (fun s => bulkKey s c sa)

def execBgCmd (c : Fin 2048) (dma : Dma) (s : State) : Host.Outcome State Fault Refusal :=
  portRow c (· == .bgWait) s (fun s => bulkCommand s c dma)

def execBgCount (c : Fin 2048) (r : Fin 32) (s : State) : Host.Outcome State Fault Refusal :=
  portRow c (· == .bgWait) s (fun s => bulkCount s c r)

/-- BAE_MESSAGE_END (R190). The streams wait while the link of the die retrains (R19). -/
def execBaeMessageEnd (b : Fin 8) (dma : Dma) (s : State) : Host.Outcome State Fault Refusal :=
  match runningMsg (s.bae b) with
  | some m => if m.ended.isSome || linkWaits s (dieOfBae b) then done s else done (bulkRest s b m dma)
  | none => done s

/-! ### Suspension (R191, R192) -/

/-- Save what the engine holds of its owner into a suspend slot and give the engine to the urgent request. -/
def suspendInto (s : State) (b u : Nat) (m : BulkMsg) : State :=
  let s := s.modBae b (fun x => { x with
    susp := m :: x.susp
    entry := u
    urgent := x.urgent.drop 1
    msg := none
    keyParts := []
    cntHi := false })
  perfCount s (baePage b) 0x050 1

/-- An owner that has not started its message: its key parts stand in the slot, with no function. -/
def unstarted (x : Bae) : BulkMsg := { entry := x.entry, key := x.keyParts.flatMap SReg.bytes }

/-- BAE_SUSPEND: the running message is processed up to a 16-byte boundary and saved. A message that has issued its last block is not
suspended (R192). An owner whose message already stands in a slot and has not been resumed gives the engine back. -/
def execBaeSuspend (b : Fin 8) (blocks : Nat) (s : State) : Host.Outcome State Fault Refusal :=
  let x := s.bae b
  match x.urgent with
  | [] => done s
  | u :: rest =>
    if x.owner ≠ .request ∨ x.selftest ∨ linkWaits s (dieOfBae b) then done s
    else if x.msg.isNone ∧ x.susp.any (fun m => m.entry == x.entry) then done (s.setBae b { x with entry := u, urgent := rest, cntHi := false })
    else if 2 ≤ x.susp.length then done s
    else
      match x.msg with
      | none => done (suspendInto s b u (unstarted x))
      | some m =>
        if m.ended.isSome ∨ m.len ≤ m.pos + 16 * blocks then done s
        else if bulkStale s m then done (bulkEndMsg s b m St.aborted)
        else if !hostGate s false || !hostGate s true then done (endRequest (hostDenied s (hostGate s false)) m.entry St.faultAlarm)
        else
          match bulkIv s m with
          | none => done (suspendInto s b u m)
          | some (m, s) =>
            let (aad, data, s) := bulkRead s b m (16 * blocks)
            let (out, m) := bulkData (bulkHeader m aad) data
            let (s, m) := bulkWrite s b m out
            done (suspendInto s b u m)

/-- BAE_RESUME: the most recently suspended message runs again. -/
def execBaeResume (b : Fin 8) (s : State) : Host.Outcome State Fault Refusal :=
  let x := s.bae b
  match x.susp with
  | [] => done s
  | m :: rest =>
    if x.owner ≠ .request ∨ x.entry ≠ m.entry ∨ x.msg.isSome ∨ x.selftest then done s
    else if m.fn = 0 then
      done (s.setBae b { x with
        susp := rest
        keyParts := (chunks 16 m.key).map (fun k => { val := block k, label := .k, role := 0x0D }) })
    else done (s.setBae b { x with susp := rest, msg := some m })

/-! ### Alarms (R193) -/

/-- BAE_ALARM, on an engine that is not retired. -/
def execBaeAlarm (b : Fin 8) (s : State) : Host.Outcome State Fault Refusal :=
  if (s.bae b).owner = .retired then done s else done (bulkAlarm s b)

/-- BAE_SELFTEST_DONE. -/
def execBaeSelftestDone (b : Fin 8) (pass : Bool) (s : State) : Host.Outcome State Fault Refusal :=
  if !(s.bae b).selftest then done s
  else
    let s := s.setRegBits (baePage b + 0x090) 14 14 (b2n (!pass))
    let s := s.modBae b (fun x => { x with selftest := false })
    done (if pass then s else retireBae (latchErr s (baePage b) 0x0012 b) b)

end Sys2Proof.Machine
end

