-- ==== Sys2Proof/Machine/AsymFns.lean ====
section
/-! DEFINITION. The asymmetric and lattice functions, the bulk functions, RANDOM, HASH and HMAC, each as one step from its request to its
draft (03_payment_functions.md R100 to R105, R107; 08_bignum_engine.md R206, R207). -/

set_option linter.unusedVariables false

namespace Sys2Proof.Machine

open Sys2Proof Sys2Proof.Bits

/-! ### Hash bytes and messages -/

/-- The digest of a message, which in host-assisted mode replaces it; none where a supplied digest has not the hash's length. -/
def digestOf (s : State) (e : Nat) (h : Hash.Alg) (msg : Bytes) : Option Bytes :=
  if assisted s e then (if msg.length = Hash.digestLen h then some msg else none) else some (Hash.hash h msg)

/-- Go on with a hash and the digest of a message: BAD_FORMAT for an unlisted byte, BAD_LENGTH for a digest of another length. -/
def withDigest (s : State) (e : Nat) (b : Byte) (msg : Bytes) (k : Hash.Alg → Bytes → FnEnd) : FnEnd :=
  match signHash b with
  | none => ends St.badFormat s
  | some h =>
    match digestOf s e h msg with
    | none => ends St.badLength s
    | some d => k h d

/-- A private signature key of an algorithm class. -/
def signUse (alg : Byte → Bool) : KeyUse where
  pos := 0
  role u m a := KeyRole.sign.ok u m a && alg a

/-- An agreement or KEM private key of an algorithm class. -/
def agreeUse (alg : Byte → Bool) : KeyUse where
  pos := 0
  role u m a := KeyRole.agree.ok u m a && alg a

/-! ### RSA (R100, R102) -/

/-- RSA_SIGN. An encoding that does not fit the modulus is degenerate input (log 62). -/
def execRsaSign (e : Fin 69632) (dma : Dma) (s : State) : Host.Outcome State Fault Refusal :=
  runFn 0x5001 e s (fun s => withInput s e dma (fun s b =>
    keyStep s e [signUse (· == Alg.rsa)] (fun s ks => policyStep s e [0] true (fun s =>
      let scheme := (byteAt b 0).toNat
      let salt := (byteAt b 2).toNat
      let key := (ks.getD 0 {}).bytes
      check ((scheme == 1 || scheme == 2) && byteAt b 3 == 0) St.badFormat s
        (check (decide (salt ≤ 64)) St.badLength s
          (withDigest s e (byteAt b 1) (b.drop 4) (fun h d =>
            let finish (s : State) (salt : Bytes) : FnEnd :=
              match rsaSignDigest key h (scheme == 2) d salt with
              | some sig => endsOk s 0 sig
              | none => ends St.degenerate s
            if scheme = 2 then withRandom s e salt finish else finish s [])))))))

/-- RSA_VERIFY. Moduli of 4 to 256 words are taken, as R205 bounds operands (log 66). -/
def execRsaVerify (e : Fin 69632) (dma : Dma) (s : State) : Host.Outcome State Fault Refusal :=
  runFn 0x5002 e s (fun s => withInput s e dma (fun s b => keyStep s e [] (fun s _ => policyStep s e [] true (fun s =>
    let scheme := (byteAt b 0).toNat
    let salt := (byteAt b 2).toNat
    let p := fieldLe b 4 2
    let k := p - 4
    let n := ofBe (slice b 6 k)
    let x := ofBe (slice b (6 + k) 4)
    let sl := fieldLe b (6 + p) 2
    let sig := slice b (8 + p) sl
    let msg := b.drop (8 + p + sl)
    check ((scheme == 1 || scheme == 2) && byteAt b 3 == 0) St.badFormat s
      (check (decide (salt ≤ 64 ∧ 36 ≤ p ∧ k ≤ 2048 ∧ 8 + p + sl ≤ b.length ∧ sl = k)) St.badLength s
        (withDigest s e (byteAt b 1) msg (fun h d =>
          let st := rsaPublicStatus n x (ofBe sig)
          if st ≠ St.ok then ends st s
          else check (rsaOpens n x k (ofBe sig) h (scheme == 2) d [salt]) St.signatureInvalid s (endsOk s 0 []))))))))

/-! ### Elliptic curves -/

/-- ECDSA_SIGN. -/
def execEcdsaSign (e : Fin 69632) (dma : Dma) (s : State) : Host.Outcome State Fault Refusal :=
  runFn 0x5003 e s (fun s => withInput s e dma (fun s b =>
    keyStep s e [signUse Alg.isEcc] (fun s ks => policyStep s e [0] true (fun s =>
      let k := ks.getD 0 {}
      check (allZero (slice b 1 3)) St.badFormat s
        (withDigest s e (byteAt b 0) (b.drop 4) (fun h d =>
          match curveOf k.alg with
          | none => ends St.keyUsage s
          | some c =>
            whenRandom s e (fun s =>
              let (r, s) := ecdsaSign c (ofLe (partAt (keyParts k.alg k.bytes) 0)) d 4 s (s.entry e).barn
              endsOk s 0 (be c.len r.1 ++ be c.len r.2))))))))

/-- ECDSA_VERIFY. -/
def execEcdsaVerify (e : Fin 69632) (dma : Dma) (s : State) : Host.Outcome State Fault Refusal :=
  runFn 0x5004 e s (fun s => withInput s e dma (fun s b => keyStep s e [] (fun s _ => policyStep s e [] true (fun s =>
    match curveOf (byteAt b 0) with
    | none => ends St.badFormat s
    | some c =>
      let sl := fieldLe b 2 2
      let pl := 1 + 2 * c.len
      let sig := slice b (4 + pl) sl
      check (decide (sl = 2 * c.len ∧ 4 + pl + sl ≤ b.length)) St.badLength s
        (withDigest s e (byteAt b 1) (b.drop (4 + pl + sl)) (fun h d =>
          match Ec.decode c (slice b 4 pl) with
          | none => ends St.pointInvalid s
          | some q =>
            check (Ec.verify c (some q) (ofBe (sig.take c.len)) (ofBe (sig.drop c.len)) d) St.signatureInvalid s
              (endsOk s 0 [])))))))

/-- ED25519_SIGN. -/
def execEd25519Sign (e : Fin 69632) (dma : Dma) (s : State) : Host.Outcome State Fault Refusal :=
  runFn 0x5005 e s (fun s => withInput s e dma (fun s b =>
    keyStep s e [signUse (· == Alg.ed25519)] (fun s ks => policyStep s e [0] true (fun s =>
      let ps := keyParts Alg.ed25519 (ks.getD 0 {}).bytes
      endsOk s 0 (Ed.sign (ofLe (partAt ps 0)) (partAt ps 1) (partAt ps 2) b)))))

/-- ED25519_VERIFY. -/
def execEd25519Verify (e : Fin 69632) (dma : Dma) (s : State) : Host.Outcome State Fault Refusal :=
  runFn 0x5006 e s (fun s => withInput s e dma (fun s b => keyStep s e [] (fun s _ => policyStep s e [] true (fun s =>
    let st := edStatus (b.take 32) (slice b 32 64) (b.drop 96)
    if st = St.ok then endsOk s 0 [] else ends st s))))

/-- ECDH_DERIVE. -/
def execEcdhDerive (e : Fin 69632) (dma : Dma) (s : State) : Host.Outcome State Fault Refusal :=
  runFn 0x5007 e s (fun s => withInput s e dma (fun s b =>
    keyStep s e [agreeUse Alg.isEcc] (fun s ks => policyStep s e [0] true (fun s =>
      let k := ks.getD 0 {}
      let t := b.take 32
      let spec := templateSpec t
      let f := fieldLe b 33 2
      let len := Alg.symLen spec.alg
      match curveOf k.alg with
      | none => ends St.keyUsage s
      | some c =>
        check (decide (f ≤ 256 ∧ b.length = 35 + f + 1 + 2 * c.len)) St.badLength s
          (check (byteAt b 32 == 1) St.badFormat s
            (reserveFor s e t (templateOk s ((s.entry e).func - 1) t && Alg.isSym spec.alg && !Alg.isHmac spec.alg) (recordsFor len) (fun s =>
              match Ec.decode c (b.drop (35 + f)) with
              | none => ends St.pointInvalid s
              | some q =>
                match Ec.smul c (ofLe (partAt (keyParts k.alg k.bytes) 0)) (some q) with
                | none => ends St.degenerate s
                | some (z, _) => makeRecord s e spec (Hash.oneStep .sha256 (be c.len z) (slice b 35 f) len) [])))))))

/-! ### Lattice functions -/

/-- A template whose key is an AES-256 key. -/
def aes256Template (s : State) (e : Nat) (t : Bytes) : Bool :=
  templateOk s ((s.entry e).func - 1) t && byteAt t 4 == Alg.aes256

/-- MLKEM_ENCAPS. -/
def execMlkemEncaps (e : Fin 69632) (dma : Dma) (s : State) : Host.Outcome State Fault Refusal :=
  runFn 0x5008 e s (fun s => withInput s e dma (fun s b => keyStep s e [] (fun s _ => policyStep s e [] true (fun s =>
    let t := b.take 32
    let big := byteAt b 32 == Alg.mlkem1024
    let ek := b.drop 33
    let par := MlKem.par big
    check (Alg.isMlkem (byteAt b 32)) St.badFormat s
      (check (decide (ek.length = if big then 1568 else 1184)) St.badLength s
        (reserveFor s e t (aes256Template s e t) 1 (fun s =>
          check (MlKem.ekOk par ek) St.operandRange s
            (withRandom s e 32 (fun s m =>
              let (k, ct) := MlKem.encaps par ek m
              makeRecord s e (templateSpec t) k ct)))))))))

/-- MLKEM_DECAPS. -/
def execMlkemDecaps (e : Fin 69632) (dma : Dma) (s : State) : Host.Outcome State Fault Refusal :=
  runFn 0x5009 e s (fun s => withInput s e dma (fun s b =>
    keyStep s e [agreeUse Alg.isMlkem] (fun s ks => policyStep s e [0] true (fun s =>
      let k := ks.getD 0 {}
      let t := b.take 32
      let big := k.alg == Alg.mlkem1024
      check (decide (b.length = 32 + (if big then 1568 else 1088))) St.badLength s
        (reserveFor s e t (aes256Template s e t) 1 (fun s =>
          makeRecord s e (templateSpec t) (MlKem.decaps (MlKem.par big) k.bytes (b.drop 32)) []))))))

/-- MLDSA_SIGN. -/
def execMldsaSign (e : Fin 69632) (dma : Dma) (s : State) : Host.Outcome State Fault Refusal :=
  runFn 0x500A e s (fun s => withInput s e dma (fun s b =>
    keyStep s e [signUse Alg.isMldsa] (fun s ks => policyStep s e [0] true (fun s =>
      let k := ks.getD 0 {}
      let c := (byteAt b 0).toNat
      let ps := keyParts k.alg k.bytes
      let msg := b.drop (1 + c)
      check (!assisted s e || c == 0) St.badFormat s
        (check (decide (1 + c ≤ b.length) && (!assisted s e || msg.length == 64)) St.badLength s
          (let mu := if assisted s e then msg else MlDsa.mu (MlDsa.trOf (partAt ps 1)) (slice b 1 c) msg
          withRandom s e 32 (fun s rnd =>
            endsOk s 0 (MlDsa.sign (MlDsa.par (k.alg == Alg.mldsa87)) (partAt ps 0) mu rnd))))))))

/-- MLDSA_VERIFY. -/
def execMldsaVerify (e : Fin 69632) (dma : Dma) (s : State) : Host.Outcome State Fault Refusal :=
  runFn 0x500B e s (fun s => withInput s e dma (fun s b => keyStep s e [] (fun s _ => policyStep s e [] true (fun s =>
    let p87 := byteAt b 0 == Alg.mldsa87
    let c := (byteAt b 1).toNat
    let n := if p87 then 2592 else 1952
    let pk := slice b (2 + c) n
    let sl := fieldLe b (2 + c + n) 2
    let o := 4 + c + n
    let sig := slice b o sl
    let msg := b.drop (o + sl)
    check (Alg.isMldsa (byteAt b 0) && (!assisted s e || c == 0)) St.badFormat s
      (check (decide (o + sl ≤ b.length) && (!assisted s e || msg.length == 64)) St.badLength s
        (let mu := if assisted s e then msg else MlDsa.mu (MlDsa.trOf pk) (slice b 2 c) msg
        let ok := sl == (if p87 then 4627 else 3309) && MlDsa.verify (MlDsa.par p87) pk sig mu
        check ok St.signatureInvalid s (endsOk s 0 [])))))))

/-- KEYPAIR_GENERATE. -/
def execKeypairGenerate (e : Fin 69632) (dma : Dma) (s : State) : Host.Outcome State Fault Refusal :=
  runFn 0x500C e s (fun s => withInput s e dma (fun s b => keyStep s e [] (fun s _ => policyStep s e [] true (fun s =>
    let t := b.take 32
    let spec := templateSpec t
    let bits := fieldLe b 32 2
    let x := fieldLe b 34 4
    let ok :=
      if spec.alg = Alg.rsa then decide (2048 ≤ bits ∧ bits ≤ 16384 ∧ bits % 64 = 0 ∧ x % 2 = 1 ∧ 65537 ≤ x)
      else Alg.isAsym spec.alg && bits == 0 && x == 0
    reserveFor s e t (ok && templateOk s ((s.entry e).func - 1) t) (recordsFor (Alg.keyLen spec.alg (bits / 8))) (fun s =>
      whenRandom s e (fun s =>
        let (key, pub, s) := generateKey s (s.entry e).barn spec.alg bits x
        makeRecord s e spec key pub))))))

/-! ### Bulk functions (R103, R104) -/

/-- A bulk data key that the function can use. -/
def bulkUse (fn : Nat) : KeyUse where
  pos := 0
  role u m a := (KeyRole.bulk (!isBulkDec fn)).ok u m a && ((bulkMode fn == .xts) == !Alg.isAes a)

/-- Byte counts of a parameter block inside their ranges. -/
def bulkLengths (fn : Nat) (b : Bytes) : Bool :=
  let iv := (byteAt b 32).toNat
  let tag := (byteAt b 33).toNat
  let head := fieldLe b 16 8
  let drawn := !isBulkDec fn && iv == 0
  decide (head < 2 ^ 32) &&
    (match bulkMode fn with
    | .gcm => (iv == 12 || drawn) && decide (12 ≤ tag ∧ tag ≤ 16)
    | .ccm => (decide (7 ≤ iv ∧ iv ≤ 13) || drawn) && decide (4 ≤ tag ∧ tag ≤ 16 ∧ tag % 2 = 0)
    | .xts => iv == 16 && tag == 0 && head == 0)

/-- Other fields of a parameter block. -/
def bulkFields (fn : Nat) (b : Bytes) : Bool :=
  let u := (byteAt b 34).toNat
  (if bulkMode fn = .xts then decide (9 ≤ u ∧ u ≤ 12) else u == 0) && allZero (slice b 35 5) &&
    (isBulkDec fn || allZero (slice b 56 16))

/-- B0 and the encoded header length that a host supplies for CCM (R60, R103). A nonce still to be drawn stands as 12 zero bytes. -/
def ccmHost (b : Bytes) : Bytes :=
  let n := (byteAt b 32).toNat
  Ccm.b0 (if n = 0 then zeros 12 else slice b 40 n) (byteAt b 33).toNat (fieldLe b 16 8) (fieldLe b 0 8) ++ Ccm.encLen (fieldLe b 16 8)

/-- A source, header or destination range wraps, or starts at address zero where bytes are to be moved (R61). -/
def bulkPointers (b : Bytes) : Bool :=
  let ok (a n : Nat) : Bool := n == 0 || (a != 0 && decide (a + n ≤ 2 ^ 64))
  ok (fieldLe b 8 8) (fieldLe b 0 8) && ok (fieldLe b 24 8) (fieldLe b 16 8)

/-- A bulk function: the message runs in the engine bound to the request, whole. -/
def bulkFn (fn e : Nat) (dma : Dma) (s : State) : FnEnd :=
  withInput s e dma (fun s b =>
    keyStep s e [bulkUse fn] (fun s ks => policyStep s e [0] true (fun s =>
      let host := assisted s e && bulkMode fn == .ccm
      check (bulkLengths fn b && (!host || decide (b.length = 72 + (ccmHost b).length))) St.badLength s
        (check (bulkFields fn b && (!host || b.drop 72 == ccmHost b)) St.badFormat s
          (check (bulkPointers b) St.badPointer s
            (match baeOf s e with
            | none => ends St.faultAlarm s
            | some i =>
              let s := bulkStart s i (parseBulk e fn (ks.getD 0 {}).bytes b)
              let m (s : State) : BulkMsg := ((s.bae i).msg).getD {}
              let s := if (m s).ended.isSome then s else bulkRest s i (m s) .ok
              match (m s).ended with
              | none => (.starved, s)
              | some st =>
                let v := if st = St.badLength then (m s).need else (m s).count
                (.ended { status := st, result := BitVec.ofNat 64 v }, s)))))))

/-- The engine of a bulk request runs its message: bound, not suspended, its self-test passed. -/
def bulkReady (s : State) (e : Nat) : Bool :=
  match baeOf s e with
  | none => true
  | some i =>
    let x := s.bae i
    x.owner == .request && x.entry == e && !(x.susp.any (fun m => m.entry == e)) && !x.selftest

/-- The row of a bulk function: nothing happens before the engine is the request's own. -/
def bulkRow (fn e : Nat) (dma : Dma) (s : State) : Host.Outcome State Fault Refusal :=
  if bulkReady s e then runFn fn e s (bulkFn fn e dma) else done s

/-- GCM_ENCRYPT (R104). -/
def execGcmEncrypt (e : Fin 69632) (dma : Dma) (s : State) : Host.Outcome State Fault Refusal := bulkRow 0x6001 e dma s

/-- GCM_DECRYPT (R104). -/
def execGcmDecrypt (e : Fin 69632) (dma : Dma) (s : State) : Host.Outcome State Fault Refusal := bulkRow 0x6002 e dma s

/-- CCM_ENCRYPT (R104). -/
def execCcmEncrypt (e : Fin 69632) (dma : Dma) (s : State) : Host.Outcome State Fault Refusal := bulkRow 0x6003 e dma s

/-- CCM_DECRYPT (R104). -/
def execCcmDecrypt (e : Fin 69632) (dma : Dma) (s : State) : Host.Outcome State Fault Refusal := bulkRow 0x6004 e dma s

/-- XTS_ENCRYPT (R104). -/
def execXtsEncrypt (e : Fin 69632) (dma : Dma) (s : State) : Host.Outcome State Fault Refusal := bulkRow 0x6005 e dma s

/-- XTS_DECRYPT (R104). -/
def execXtsDecrypt (e : Fin 69632) (dma : Dma) (s : State) : Host.Outcome State Fault Refusal := bulkRow 0x6006 e dma s

/-! ### Random and hash functions (R105) -/

/-- RANDOM. -/
def execRandom (e : Fin 69632) (dma : Dma) (s : State) : Host.Outcome State Fault Refusal :=
  runFn 0x7001 e s (fun s => withInput s e dma (fun s b => keyStep s e [] (fun s _ => policyStep s e [] true (fun s =>
    let n := fieldLe b 0 2
    check (decide (1 ≤ n ∧ n ≤ 4096)) St.badLength s (withRandom s e n (fun s r => endsOk s 0 r))))))

/-- HASH: in host-assisted mode a SHA-2 hash goes on from the supplied chaining state. -/
def execHash (e : Fin 69632) (dma : Dma) (s : State) : Host.Outcome State Fault Refusal :=
  runFn 0x7002 e s (fun s => withInput s e dma (fun s b => keyStep s e [] (fun s _ => policyStep s e [] true (fun s =>
    match Hash.ofByte (byteAt b 0).toNat with
    | none => ends St.badFormat s
    | some h =>
      let resume := assisted s e && Hash.isSha2 h
      let count := fieldLe b 4 8
      let n := Hash.stateBytes h
      let w := if Hash.blockBytes h = 64 then 4 else 8
      check (allZero (slice b 1 3)) St.badFormat s
        (check (!resume || count % Hash.blockBytes h == 0) St.badLength s
          (if resume then
            check (allZero (slice b (12 + n) (64 - n))) St.badFormat s
              (endsOk s 0 (Hash.finishMd h ((chunks w (slice b 12 n)).map ofBe) count (b.drop 76)))
          else endsOk s 0 (Hash.hash h (b.drop 4))))))))

/-- The HMAC functions. -/
def hmacFn (verify : Bool) (e : Nat) (dma : Dma) (s : State) : FnEnd :=
  withInput s e dma (fun s b =>
    keyStep s e [use 0 (.hmac (!verify))] (fun s ks => policyStep s e [0] true (fun s =>
      let h := if (byteAt b 0).toNat ≤ 5 then Hash.ofByte (byteAt b 0).toNat else none
      match h with
      | none => ends St.badFormat s
      | some h =>
        let n := (byteAt b 1).toNat
        let given := slice b 4 64
        check (allZero (slice b 2 2)) St.badFormat s
          (check (decide (4 ≤ n ∧ n ≤ Hash.digestLen h)) St.badLength s
            (check (!verify || allZero (given.drop n)) St.badFormat s
              (let t := (Hash.hmac h (ks.getD 0 {}).bytes (b.drop (if verify then 68 else 4))).take n
              if verify then check (t == given.take n) St.macMismatch s (endsOk s 0 []) else endsOk s 0 t))))))

/-- HMAC_GENERATE (R105). -/
def execHmacGenerate (e : Fin 69632) (dma : Dma) (s : State) : Host.Outcome State Fault Refusal :=
  runFn 0x7003 e s (hmacFn false e dma)

/-- HMAC_VERIFY (R105). -/
def execHmacVerify (e : Fin 69632) (dma : Dma) (s : State) : Host.Outcome State Fault Refusal :=
  runFn 0x7004 e s (hmacFn true e dma)

end Sys2Proof.Machine
end

