-- ==== Sys2Proof/Machine/BnOps.lean ====
section
/-! DEFINITION. The operations of the big-number engines: what a command yields from operand memory, with its status and its
destinations (08_bignum_engine.md R203 to R207). -/

set_option linter.unusedVariables false

namespace Sys2Proof.Machine

open Sys2Proof Sys2Proof.Bits

/-- Operations of BN_CMD (R205). -/
inductive BnOp where
  | mmul | madd | msub | mexp | minv | mred | mul | pcheck | smul | smulg | rsaSign | rsaVerify | ecdsaSign | ecdsaVerify | ecdh
  | edSign | edVerify | ecKeygen | rsaKeygen | kemKeygen | encaps | decaps | dsaKeygen | dsaSign | dsaVerify | ntt | intt | pmul
  | padd | psub | hash | hmac
deriving DecidableEq, Repr

/-- The operation of an op value; param [1] tells INTT from NTT as it tells PSUB from PADD (DESIGN CHOICE, log 62). -/
def bnOpOf (op : Nat) (param : BitVec 8) : Option BnOp :=
  let alt := param.getLsbD 1
  match op with
  | 0x01 => some .mmul
  | 0x02 => some .madd
  | 0x03 => some .msub
  | 0x04 => some .mexp
  | 0x05 => some .minv
  | 0x06 => some .mred
  | 0x07 => some .mul
  | 0x10 => some .pcheck
  | 0x11 => some .smul
  | 0x12 => some .smulg
  | 0x20 => some .rsaSign
  | 0x21 => some .rsaVerify
  | 0x22 => some .ecdsaSign
  | 0x23 => some .ecdsaVerify
  | 0x24 => some .ecdh
  | 0x25 => some .edSign
  | 0x26 => some .edVerify
  | 0x27 => some .ecKeygen
  | 0x28 => some .rsaKeygen
  | 0x30 => some .kemKeygen
  | 0x31 => some .encaps
  | 0x32 => some .decaps
  | 0x33 => some .dsaKeygen
  | 0x34 => some .dsaSign
  | 0x35 => some .dsaVerify
  | 0x38 => some (if alt then .intt else .ntt)
  | 0x39 => some .pmul
  | 0x3A => some (if alt then .psub else .padd)
  | 0x40 => some .hash
  | 0x41 => some .hmac
  | _ => none

/-- Operations that draw from the barn DRBG (R69, R205). -/
def BnOp.draws : BnOp → Bool
  | .rsaSign | .ecdsaSign | .ecKeygen | .rsaKeygen | .kemKeygen | .encaps | .dsaKeygen | .dsaSign => true
  | _ => false

/-- What a command writes to one slot. -/
structure BnWrite where
  slot : Nat
  bytes : Bytes
  label : Label
  storable : Bool := false
  alg : Byte := 0
deriving DecidableEq, Repr

/-- Result of a command: none ends the request with FAULT_ALARM (R204), else a status and the destinations. With a status other than OK
the destinations stay unwritten, and their bytes tell their lengths only. -/
abbrev BnRes := Option (Status × List BnWrite)

/-! ### Operand memory -/

def Bne.slot (y : Bne) (i : Nat) : BnSlot := Map.get {} y.slots i

/-- Bytes of a slot. -/
def Bne.bytes (y : Bne) (i : Nat) : Bytes :=
  (List.range (y.slot i).len).flatMap (fun j => le 8 (Map.get 0 y.mem ((y.slot i).start + j)).toNat)

def Bne.int (y : Bne) (i : Nat) : Nat := ofLe (y.bytes i)

def Bne.label (y : Bne) (i : Nat) : Label := (y.slot i).label

/-- Word 0 of a slot. -/
def Bne.word0 (y : Bne) (i : Nat) : Nat := ofLe ((y.bytes i).take 8)

/-- Bytes of n consecutive slots. -/
def Bne.group (y : Bne) (i n : Nat) : Bytes := (List.range n).flatMap (fun j => y.bytes (i + j))

/-- A long integer has 4 to 256 words (R205). -/
def longInt (n : Nat) : Bool := decide (4 ≤ n ∧ n ≤ 256)

/-- The key slot at k holds a key of the role, of an algorithm that passes. -/
def Bne.keyOk (y : Bne) (k : Nat) (role : Byte) (alg : Byte → Bool) : Bool := (y.slot k).on && (y.slot k).role == role && alg (y.slot k).alg

def okWrite (d : Nat) (b : Bytes) (l : Label) : BnRes := some (St.ok, [{ slot := d, bytes := b, label := l }])

/-! ### Primitives (R205 to R207) -/

/-- Modular operations over m = the k slot: operands below m, then m odd. -/
def bnModular (y : Bne) (op : BnOp) (x : BneArgs) : BnRes :=
  let n := (y.slot x.k).len
  let m := y.int x.k
  let a := y.int x.a
  let b := y.int x.b
  let aOk := (y.slot x.a).len == n
  let bOk := (y.slot x.b).len == n
  let two := op == .mmul || op == .madd || op == .msub
  if !longInt n || !aOk || (two && !bOk) then none
  else
    let l := ((y.label x.a).max (y.label x.k)).max (if op = .minv then .p else y.label x.b)
    let range := m ≤ a || (two && decide (m ≤ b))
    let st := if range then St.operandRange else if m % 2 = 0 then St.degenerate else St.ok
    let v := match op with
      | .mmul => a * b % m
      | .madd => (a + b) % m
      | .msub => Num.subMod a b m
      | .mexp => Num.powMod a b m
      | _ => Num.powMod a (m - 2) m
    some (st, [{ slot := x.d, bytes := wordForm n v, label := l }])

def bnReduce (y : Bne) (x : BneArgs) : BnRes :=
  let n := (y.slot x.k).len
  let m := y.int x.k
  if !longInt n || decide (2 * n < (y.slot x.a).len) then none
  else
    some (if m % 2 = 0 then St.degenerate else St.ok,
      [{ slot := x.d, bytes := wordForm n (y.int x.a % m), label := (y.label x.a).max (y.label x.k) }])

def bnMul (y : Bne) (x : BneArgs) : BnRes :=
  let na := (y.slot x.a).len
  let nb := (y.slot x.b).len
  if !longInt na || !longInt nb then none
  else okWrite x.d (wordForm (na + nb) (y.int x.a * y.int x.b)) ((y.label x.a).max (y.label x.b))

/-- Curve of param [1:0]: P-256, P-384, P-521. -/
def bnCurve (param : BitVec 8) : Option Ec.Curve :=
  match bits param.toNat 1 0 with
  | 0 => some Ec.p256
  | 1 => some Ec.p384
  | 2 => some Ec.p521
  | _ => none

/-- Point operations. -/
def bnPoint (y : Bne) (op : BnOp) (x : BneArgs) : BnRes :=
  match bnCurve x.param with
  | none => none
  | some c =>
    let n := curveWords c
    let short (i k : Nat) : Bool := decide ((y.slot i).len < k)
    match op with
    | .pcheck =>
      if short x.a (2 * n) then none
      else some (if (wordsPoint c (y.bytes x.a)).isSome then St.ok else St.pointInvalid, [])
    | .smulg => okWrite x.d (pointWords c (Ec.smul c (y.int x.b) (Ec.base c))) (y.label x.b)
    | _ =>
      if short x.a (2 * n) then none
      else
        let l := (y.label x.a).max (y.label x.b)
        match wordsPoint c (y.bytes x.a) with
        | none => some (St.pointInvalid, [{ slot := x.d, bytes := zeros (16 * n), label := l }])
        | some p => okWrite x.d (pointWords c (Ec.smul c (y.int x.b) (some p))) l

/-! ### Ring operations -/

/-- Coefficients of a ring slot, reduced modulo q. -/
def coeffs (q : Nat) (b : Bytes) : List Nat := (chunks 4 b).map (fun w => ofLe w % q)

/-- Polynomials of 256 coefficients. -/
def ringPolys (q : Nat) (b : Bytes) : List (List Nat) := (chunks 1024 b).map (coeffs q)

def ringBytes (ps : List (List Nat)) : Bytes := ps.flatMap (fun p => p.flatMap (le 4))

def bnRing (y : Bne) (op : BnOp) (x : BneArgs) : BnRes :=
  let q := if x.param.getLsbD 0 then Ring.qd else Ring.qk
  let big := x.param.getLsbD 0
  let n := (y.slot x.a).len
  let a := ringPolys q (y.bytes x.a)
  let b := ringPolys q (y.bytes x.b)
  if n = 0 ∨ n % 128 ≠ 0 then none
  else
    let one (f : List Nat → List Nat) : BnRes := okWrite x.d (ringBytes (a.map f)) (y.label x.a)
    let two (f : List Nat → List Nat → List Nat) : BnRes :=
      if (y.slot x.b).len ≠ n then none
      else okWrite x.d (ringBytes (List.zipWith f a b)) ((y.label x.a).max (y.label x.b))
    match op with
    | .ntt => one (if big then Ring.nttD else Ring.nttK)
    | .intt => one (if big then Ring.inttD else Ring.inttK)
    | .pmul => two (if big then Ring.mulD else Ring.mulK)
    | .padd => two (Ring.addP q)
    | _ => two (Ring.subP q)

/-! ### Signatures, agreement, hashes -/

/-- The hash of param [4:0], one that R100 lists, and the digest of a message: the message itself when param [5] says that it is hashed. -/
def bnDigest (param : BitVec 8) (msg : Bytes) : Option (Hash.Alg × Bytes) :=
  (signHash (BitVec.ofNat 8 (bits param.toNat 4 0))).map (fun h => (h, if param.getLsbD 5 then fit (Hash.digestLen h) msg else Hash.hash h msg))

/-- RSA_SIGN with its salt; RSA_VERIFY, which accepts every salt length of R100 (log 62). -/
def bnRsaSign (y : Bne) (x : BneArgs) (msg salt : Bytes) : BnRes :=
  if !y.keyOk x.k 0x0E (· == Alg.rsa) then none
  else
    match bnDigest x.param msg with
    | none => none
    | some (h, dg) =>
      let n := (y.slot x.k).len
      match rsaSignDigest (y.group x.k 7) h (x.param.getLsbD 6) dg salt with
      | none => some (St.degenerate, [{ slot := x.d, bytes := zeros (8 * n), label := .c }])
      | some sig => okWrite x.d (wordForm n (ofBe sig)) .c

def bnRsaVerify (y : Bne) (x : BneArgs) (msg : Bytes) : BnRes :=
  if !(y.slot (x.k.val + 1)).on then none
  else
    match bnDigest x.param msg with
    | none => none
    | some (h, dg) =>
      let n := y.int x.k
      let e := y.int (x.k.val + 1)
      let sig := y.int x.a
      let st := rsaPublicStatus n e sig
      if st ≠ St.ok then some (st, [])
      else
        let ok := rsaOpens n e (8 * (y.slot x.k).len) sig h (x.param.getLsbD 6) dg (List.range 65)
        some (if ok then St.ok else St.signatureInvalid, [])

def bnEcdsaVerify (y : Bne) (x : BneArgs) (msg : Bytes) : BnRes :=
  let curve := match (y.slot x.d).len with
    | 4 => some Ec.p256
    | 6 => some Ec.p384
    | 9 => some Ec.p521
    | _ => none
  match curve, bnDigest x.param msg with
  | some c, some (_, dg) =>
    let n := curveWords c
    if (y.slot x.k).len < 2 * n ∨ (y.slot x.b).len < 2 * n then none
    else
      match wordsPoint c (y.bytes x.k) with
      | none => some (St.pointInvalid, [])
      | some q =>
        let r := ofLe (slice (y.bytes x.b) 0 (8 * n))
        let t := ofLe (slice (y.bytes x.b) (8 * n) (8 * n))
        some (if Ec.verify c (some q) r t dg then St.ok else St.signatureInvalid, [])
  | _, _ => none

/-- Marks a slot that holds a shared key of n words, whose algorithm the template gives (R202). -/
def sharedAlg (n : Nat) : Byte := BitVec.ofNat 8 (0x80 + n)

def bnEcdh (y : Bne) (x : BneArgs) : BnRes :=
  let len := x.param.toNat
  match curveOf (y.slot x.k).alg with
  | none => none
  | some c =>
    let n := curveWords c
    if !y.keyOk x.k 0x0F Alg.isEcc || (y.slot x.a).len < 2 * n || !([16, 24, 32, 64].contains len) then none
    else
      let w (b : Bytes) : BnWrite := { slot := x.d, bytes := b, label := .k, storable := true, alg := sharedAlg (len / 8) }
      match wordsPoint c (y.bytes x.a) with
      | none => some (St.pointInvalid, [w (zeros len)])
      | some p =>
        match Ec.smul c (y.int x.k) (some p) with
        | none => some (St.degenerate, [w (zeros len)])
        | some (z, _) => some (St.ok, [w (Hash.oneStep .sha256 (be c.len z) (y.bytes x.b) len)])

def bnEdSign (y : Bne) (x : BneArgs) (msg : Bytes) : BnRes :=
  if !y.keyOk x.k 0x0E (· == Alg.ed25519) then none
  else okWrite x.d (Ed.sign (y.int x.k) (y.bytes (x.k.val + 1)) (y.bytes (x.k.val + 2)) msg) .c

def bnEdVerify (y : Bne) (x : BneArgs) (msg : Bytes) : BnRes :=
  if (y.slot x.k).len < 4 ∨ (y.slot x.b).len < 8 then none
  else some (edStatus ((y.bytes x.k).take 32) ((y.bytes x.b).take 64) msg, [])

def bnDecaps (y : Bne) (x : BneArgs) : BnRes :=
  if !y.keyOk x.k 0x0F Alg.isMlkem then none
  else
    let big := (y.slot x.k).alg == Alg.mlkem1024
    let len := if big then 1568 else 1088
    if 8 * (y.slot x.a).len < len then none
    else
      some (St.ok, [{
        slot := x.d
        bytes := MlKem.decaps (MlKem.par big) (y.bytes x.k) ((y.bytes x.a).take len)
        label := .k
        storable := true
        alg := sharedAlg 4 }])

def bnDsaVerify (y : Bne) (x : BneArgs) (msg : Bytes) (sig : Bytes) : BnRes :=
  let p87 := x.param.getLsbD 0
  let pk := (y.bytes x.k).take (if p87 then 2592 else 1952)
  let mu := if x.param.getLsbD 5 then fit 64 msg else MlDsa.mu (MlDsa.trOf pk) (y.bytes x.b) msg
  some (if MlDsa.verify (MlDsa.par p87) pk sig mu then St.ok else St.signatureInvalid, [])

/-- Hash of a message; with param [5], the resumption of a SHA-2 hash from a count and a chaining state in b (R105). -/
def bnHash (y : Bne) (x : BneArgs) (msg : Bytes) : BnRes :=
  match Hash.ofByte (bits x.param.toNat 4 0) with
  | none => none
  | some h =>
    if x.param.getLsbD 5 then
      if !(y.slot x.b).on || !Hash.isSha2 h then none
      else
        let w := if Hash.blockBytes h = 64 then 4 else 8
        let st := (chunks w (slice (y.bytes x.b) 8 (Hash.stateBytes h))).map ofBe
        okWrite x.d (Hash.finishMd h st (y.word0 x.b) msg) .p
    else okWrite x.d (Hash.hash h msg) .p

/-- HMAC: generation under role 0x10, verification under role 0x11; b holds the tag length in word 0 and the expected tag from word 1 on
(DEDUCED, log 62). -/
def bnHmac (y : Bne) (x : BneArgs) (msg : Bytes) : BnRes :=
  match Hash.ofByte (bits x.param.toNat 4 0) with
  | none => none
  | some h =>
    if !(y.slot x.b).on || !(y.slot x.k).on then none
    else
      let len := y.word0 x.b % 256
      let t := (Hash.hmac h (y.bytes x.k) msg).take len
      if (y.slot x.k).role = 0x10 then okWrite x.d t .c
      else if (y.slot x.k).role = 0x11 then
        some (if t == slice (y.bytes x.b) 8 t.length ∧ t.length = len then St.ok else St.macMismatch, [])
      else none

/-- The operations that draw nothing. -/
def bnEval (y : Bne) (op : BnOp) (x : BneArgs) (msg : Bytes) : BnRes :=
  match op with
  | .mmul | .madd | .msub | .mexp | .minv => bnModular y op x
  | .mred => bnReduce y x
  | .mul => bnMul y x
  | .pcheck | .smul | .smulg => bnPoint y op x
  | .rsaVerify => bnRsaVerify y x msg
  | .ecdsaVerify => bnEcdsaVerify y x msg
  | .ecdh => bnEcdh y x
  | .edSign => bnEdSign y x msg
  | .edVerify => bnEdVerify y x msg
  | .decaps => bnDecaps y x
  | .dsaVerify =>
    bnDsaVerify y x msg (slice (y.bytes x.d) 0 (if x.param.getLsbD 0 then 4627 else 3309))
  | .ntt | .intt | .pmul | .padd | .psub => bnRing y op x
  | .hash => bnHash y x msg
  | .hmac => bnHmac y x msg
  | _ => none

/-! ### Operations that draw (R69) -/

/-- Writes of a generated key: its slots of R201 from d on, storable; public parts have label P. -/
def keyWrites (d : Nat) (alg : Byte) (key : Bytes) : List BnWrite :=
  let ls := keyLayout alg key.length
  let ps := keyParts alg key
  (List.range ls.length).map (fun i =>
    { slot := d + i
      bytes := partAt ps i
      label := (ls.getD i (0, .p)).2
      storable := i == 0 || (ls.getD i (0, .p)).2 == .k
      alg := if i = 0 then alg else 0 })

/-- The operations that draw from barn DRBG b. A salt longer than the modulus fits no encoding (log 62). -/
def bnDraw (s : State) (b : Nat) (y : Bne) (op : BnOp) (x : BneArgs) (msg : Bytes) : BnRes × State :=
  match op with
  | .rsaSign =>
    let pss := x.param.getLsbD 6
    if pss ∧ !(y.slot x.b).on then (none, s)
    else if pss ∧ 8 * (y.slot x.k).len < y.word0 x.b then
      (some (St.degenerate, [{ slot := x.d, bytes := zeros (8 * (y.slot x.k).len), label := .c }]), s)
    else
      let (salt, s) := if pss then drbgGen s b (y.word0 x.b) else ([], s)
      (bnRsaSign y x msg salt, s)
  | .ecdsaSign =>
    match curveOf (y.slot x.k).alg, bnDigest x.param msg with
    | some c, some (_, dg) =>
      if !y.keyOk x.k 0x0E Alg.isEcc then (none, s)
      else
        let (r, s) := ecdsaSign c (y.int x.k) dg 4 s b
        (okWrite x.d (wordForm (curveWords c) r.1 ++ wordForm (curveWords c) r.2) .c, s)
    | _, _ => (none, s)
  | .ecKeygen =>
    let alg := BitVec.ofNat 8 (0x10 + bits x.param.toNat 1 0)
    let (key, _, s) := generateKey s b alg 0 0
    (some (St.ok, keyWrites x.d alg key), s)
  | .rsaKeygen =>
    let n := y.word0 x.a
    let e := y.word0 x.b
    if !(y.slot x.a).on ∨ !(y.slot x.b).on ∨ n < 2048 ∨ 16384 < n ∨ n % 64 ≠ 0 ∨ e % 2 = 0 ∨ e < 65537 then (none, s)
    else
      let (key, _, s) := generateKey s b Alg.rsa n e
      (some (St.ok, keyWrites x.d Alg.rsa key), s)
  | .kemKeygen =>
    let alg := if x.param.getLsbD 0 then Alg.mlkem1024 else Alg.mlkem768
    let (dk, ek, s) := generateKey s b alg 0 0
    (some (St.ok, keyWrites x.d alg dk ++ [{ slot := x.d.val + 1, bytes := ek, label := .p }]), s)
  | .encaps =>
    let big := x.param.getLsbD 0
    let par := MlKem.par big
    let ek := (y.bytes x.a).take (if big then 1568 else 1184)
    let w (ct k : Bytes) : List BnWrite :=
      [{ slot := x.d, bytes := ct, label := .c }, { slot := x.d.val + 1, bytes := k, label := .k, storable := true, alg := sharedAlg 4 }]
    if !MlKem.ekOk par ek then (some (St.operandRange, w (zeros (if big then 1568 else 1088)) (zeros 32)), s)
    else
      let (m, s) := drbgGen s b 32
      let (k, ct) := MlKem.encaps par ek m
      (some (St.ok, w ct k), s)
  | .dsaKeygen =>
    let alg := if x.param.getLsbD 0 then Alg.mldsa87 else Alg.mldsa65
    let (key, _, s) := generateKey s b alg 0 0
    (some (St.ok, keyWrites x.d alg key), s)
  | .dsaSign =>
    if !y.keyOk x.k 0x0E Alg.isMldsa then (none, s)
    else
      let p87 := (y.slot x.k).alg == Alg.mldsa87
      let pk := (y.bytes (x.k.val + 1)).take (if p87 then 2592 else 1952)
      let mu := if x.param.getLsbD 5 then fit 64 msg else MlDsa.mu (MlDsa.trOf pk) (y.bytes x.b) msg
      let (rnd, s) := drbgGen s b 32
      (okWrite x.d (MlDsa.sign (MlDsa.par p87) (y.bytes x.k) mu rnd) .c, s)
  | _ => (none, s)

/-! ### Second computations (R208) -/

/-- The value that byte writes give one slot. -/
def writeTo (ws : List BnWrite) (d : Nat) : Bytes := ((ws.find? (fun w => w.slot == d)).map (·.bytes)).getD []

/-- Whether the second computation of an operation confirms its result; `test` is the random value that a new key is tested with. A
computation that is repeated as it is confirms itself: what makes it fail is an event (BNE_FAULT). -/
def bnConfirms (y : Bne) (op : BnOp) (x : BneArgs) (msg : Bytes) (ws : List BnWrite) (test : Nat) : Bool :=
  match op with
  | .rsaSign =>
    match bnDigest x.param msg with
    | some (h, dg) =>
      rsaOpens (y.int x.k) (y.int (x.k.val + 1)) (8 * (y.slot x.k).len) (ofLe (writeTo ws x.d)) h (x.param.getLsbD 6) dg [y.word0 x.b]
    | none => false
  | .rsaKeygen =>
    let v (i : Nat) : Nat := ofLe (writeTo ws (x.d + i))
    let m := test % v 0
    Num.powMod (Rsa.crt m (v 2) (v 3) (v 4) (v 5) (v 6)) (v 1) (v 0) == m
  | .dsaSign =>
    let p87 := (y.slot x.k).alg == Alg.mldsa87
    let pk := (y.bytes (x.k.val + 1)).take (if p87 then 2592 else 1952)
    let mu := if x.param.getLsbD 5 then fit 64 msg else MlDsa.mu (MlDsa.trOf pk) (y.bytes x.b) msg
    MlDsa.verify (MlDsa.par p87) pk (writeTo ws x.d) mu
  | .dsaKeygen =>
    let par := MlDsa.par (x.param.getLsbD 0)
    let mu := fit 64 (le 64 test)
    MlDsa.verify par (writeTo ws (x.d + 1)) (MlDsa.sign par (writeTo ws x.d) mu (zeros 32)) mu
  | _ => true

end Sys2Proof.Machine
end

