-- ==== Sys2Proof/Machine/BigNum.lean ====
section
/-! DEFINITION. The big-number engines: claims, operand memory, keys, commands, stores, release, faults and self-test
(08_bignum_engine.md R194 to R212). -/

set_option linter.unusedVariables false

namespace Sys2Proof.Machine

open Sys2Proof Sys2Proof.Bits

def State.modBne (s : State) (n : Nat) (f : Bne → Bne) : State := s.setBne n (f (s.bne n))

/-- Engine behind window b of a context's barn. -/
def bneOf (n b : Nat) : Nat := 6 * barnOfCtx n + b

/-! ### Claims (R195) -/

def bneFree (y : Bne) : Bool := y.owner.isNone && !y.wiping && !y.clearing && !y.selftest && !y.needTest && !y.retired

/-- A job starts: operand memory is zero and no slot is configured. -/
def startJob (s : State) (k n : Nat) : State :=
  let y := s.bne k
  perfCount (s.setBne k { owner := some n, retired := y.retired, faults := y.faults }) (bnePage k) 0x040 1

/-- Claim engine b or the first free one after it; a context that an engine was kept for takes it. -/
def claimBne (s : State) (n b r : Nat) (waited : Bool) : State :=
  if (s.core n).member ≠ 0 then portError s n
  else
    match ownedBne s n with
    | some k => if waited then answer s n r (BitVec.ofNat 32 (k % 6)) else faultCtx s n
    | none =>
      match ((List.range 6).map (fun i => (b + i) % 6)).find? (fun e => bneFree (s.bne (bneOf n e))) with
      | some e => answer (startJob s (bneOf n e) n) n r (BitVec.ofNat 32 e)
      | none =>
        let k := barnOfCtx n
        let x := s.barn k
        let s := if x.claims.any (fun c => c.1 == n) then s else s.setBarn k { x with claims := x.claims ++ [(n, b)] }
        waitPaused s n (.bnClaim b)

/-- A counter of cycles advances by a free count, since timing is left out (R212; log 95). -/
def countCycles (s : State) (page off : Nat) : State :=
  let (n, s) := s.draw 32
  perfCount s page off n.toNat

/-- BNE_CLAIM_WAIT of every engine of a barn, when a wait for one ends (R212). -/
def countClaimWait (s : State) (barn : Nat) : State :=
  (List.range 6).foldl (fun s i => countCycles s (bnePage (6 * barn + i)) 0x050) s

/-- An engine that has become free goes to the barn's first waiting claim. -/
def serveClaim (s : State) (k : Nat) : State :=
  let b := barnOfBne k
  let x := s.barn b
  if !bneFree (s.bne k) then s
  else
    match x.claims with
    | [] => s
    | (n, _) :: rest => startJob (countClaimWait (s.setBarn b { x with claims := rest }) b) k n

/-! ### The window (R194, R196) -/

/-- Use of window b: only the lead that owns its engine. -/
def bnWindow (s : State) (n b : Nat) (f : Nat → State) : State :=
  let k := bneOf n b
  if (s.core n).member ≠ 0 ∨ (s.bne k).owner ≠ some n then portError s n else f k

/-- As `bnWindow`, waiting while the engine is busy. -/
def bnIdle (s : State) (n b : Nat) (f : Nat → State) : State :=
  bnWindow s n b (fun k => if (s.bne k).run.isSome then waitPaused s n .bnBusy else f k)

/-- Configure a slot after those before it (R197). R196 does not list BN_SLOT among the ports that wait while the engine is busy. -/
def bnConfig (s : State) (n b : Nat) (v : Word) : State :=
  bnWindow s n b (fun k =>
    let y := s.bne k
    let i := bits v.toNat 3 0
    let len := bits v.toNat 17 4
    if y.closed ∨ (y.slot i).on ∨ len = 0 ∨ 8192 < y.used + len then faultCtx s n
    else
      goNext (s.setBne k { y with
        slots := Map.set {} y.slots i { on := true, start := y.used, len := len }
        used := y.used + len }) n)

/-- BN_PTR. -/
def bnPointer (s : State) (n b : Nat) (v : Word) : State :=
  bnWindow s n b (fun k =>
    let i := bits v.toNat 3 0
    if !((s.bne k).slot i).on then faultCtx s n
    else goNext (s.modBne k (fun y => { y with ptrSlot := i, ptrPos := bits v.toNat 17 4 })) n)

/-- Bytes of operand memory from byte o of a slot replaced. -/
def Bne.putBytes (y : Bne) (i o : Nat) (bs : Bytes) : Bne :=
  let old := y.bytes i
  let new := old.take o ++ bs ++ old.drop (o + bs.length)
  let st := (y.slot i).start
  { y with mem := ((List.range (y.slot i).len).foldl (fun (m : Map (BitVec 64)) (j : Nat) =>
      Map.set 0 m (st + j) (BitVec.ofNat 64 (fieldLe new (8 * j) 8))) y.mem) }

/-- Labels after a write by BN_WR or BN_XFER (R198): a part of a slot of label K or C makes the whole slot K; else the slot is P. The
slot is no key and not storable. -/
def BnSlot.written (x : BnSlot) (whole : Bool) : BnSlot :=
  { x with label := if x.label = .p ∨ whole then .p else .k, storable := false, role := 0, alg := 0 }

def Bne.mark (y : Bne) (i : Nat) (f : BnSlot → BnSlot) : Bne := { y with slots := Map.set {} y.slots i (f (y.slot i)) }

/-- BN_WR. -/
def bnWrite (s : State) (n b : Nat) (v : Word) : State :=
  bnIdle s n b (fun k =>
    let y := s.bne k
    let i := y.ptrSlot
    if !(y.slot i).on ∨ 2 * (y.slot i).len ≤ y.ptrPos then faultCtx s n
    else
      let y := (y.putBytes i (4 * y.ptrPos) (le 4 v.toNat)).mark i (fun x => x.written false)
      goNext (s.setBne k { y with ptrPos := y.ptrPos + 1 }) n)

/-- BN_RD: only slots of label P or C. -/
def bnRead (s : State) (n b r : Nat) : State :=
  bnIdle s n b (fun k =>
    let y := s.bne k
    let i := y.ptrSlot
    if !(y.slot i).on ∨ 2 * (y.slot i).len ≤ y.ptrPos then faultCtx s n
    else if (y.slot i).label ≠ .p ∧ (y.slot i).label ≠ .c then portError s n
    else
      answer (s.setBne k { y with ptrPos := y.ptrPos + 1 }) n r (BitVec.ofNat 32 (fieldLe (y.bytes i) (4 * y.ptrPos) 4)))

/-- BN_XFER (R199). The pointer advances by the count in 32-bit units, rounded up (log 63). -/
def bnTransfer (s : State) (n b : Nat) (v : Word) (dma : Dma) : State :=
  bnIdle s n b (fun k =>
    let y := s.bne k
    let i := y.ptrSlot
    let out := v.getLsbD 0
    let big := v.getLsbD 1
    let count := bits v.toNat 17 2
    let o := 4 * y.ptrPos
    let span := if big then 8 * ((count + 7) / 8) else count
    let y' := { y with ptrPos := y.ptrPos + (count + 3) / 4 }
    if !(y.slot i).on ∨ count = 0 ∨ 8 * (y.slot i).len < o + span then faultCtx s n
    else if out then
      if (y.slot i).label ≠ .p ∧ (y.slot i).label ≠ .c then portError s n
      else
        let raw := slice (y.bytes i) o span
        let bs := if big then (raw.take count).reverse else raw
        let at0 := (s.core n).outOfs
        portOutput s n at0 bs (fun s => goNext ((s.setBne k y').modCore n (fun x => { x with outOfs := (at0 + count) % 2 ^ 32 })) n)
    else
      withInputRead s n dma (fun s input =>
        let at0 := (s.core n).inOfs
        let got := slice input at0 count
        let bs := if big then fit span got.reverse else got
        let y' := (y'.putBytes i o bs).mark i (fun x => x.written (o == 0 && span == 8 * x.len))
        goNext ((s.setBne k y').modCore n (fun x => { x with inOfs := (at0 + count) % 2 ^ 32 })) n))

/-- BN_SKEY (R201). -/
def bnSecret (s : State) (n b sa : Nat) : State :=
  bnIdle s n b (fun k =>
    let y := s.bne k
    let i := y.ptrSlot
    let r := (s.core n).getS sa
    if r.label ≠ .k ∨ r.derived ∨ (r.role ≠ 0x10 ∧ r.role ≠ 0x11) ∨ !(y.slot i).on ∨ 8 * (y.slot i).len < 4 * y.ptrPos + 16 then
      faultCtx s n
    else
      let y := (y.putBytes i (4 * y.ptrPos) r.bytes).mark i (fun x => { x with label := .k, storable := false, role := r.role, alg := 0 })
      goNext (s.setBne k { y with ptrPos := y.ptrPos + 4 }) n)

/-! ### Work that takes time (R196, R200, R202, R204) -/

/-- Start work whose outcome is p. -/
def bnStart (s : State) (n k : Nat) (p : BnPend) : State := goNext (s.modBne k (fun y => { y with run := some p })) n

/-- Words that bytes fill from a word on; a last partial word is filled with zeros. -/
def bnWords (start : Nat) (bs : Bytes) : List (Nat × BitVec 64) :=
  (List.range ((bs.length + 7) / 8)).map (fun j => (start + j, BitVec.ofNat 64 (fieldLe bs (8 * j) 8)))

/-- The private key that a function reads at a handle position (R74, R100). -/
def bnKeyRole (fn pos : Nat) (u : BitVec 16) (m a : Byte) : Bool :=
  pos == 0 &&
    match fn with
    | 0x5001 => KeyRole.sign.ok u m a && a == Alg.rsa
    | 0x5003 => KeyRole.sign.ok u m a && Alg.isEcc a
    | 0x5005 => KeyRole.sign.ok u m a && a == Alg.ed25519
    | 0x5007 => KeyRole.agree.ok u m a && Alg.isEcc a
    | 0x5009 => KeyRole.agree.ok u m a && Alg.isMlkem a
    | 0x500A => KeyRole.sign.ok u m a && Alg.isMldsa a
    | _ => false

/-- Slots for a key from slot i on: their records with numbers, and the word after them; none where they do not fit (R197). -/
def placeSlots (y : Bne) (role alg : Byte) : Nat → Nat → Bool → List (Nat × Label) → Option (List (Nat × BnSlot))
  | _, _, _, [] => some []
  | i, w, first, (len, l) :: rest =>
    if 16 ≤ i ∨ (y.slot i).on ∨ 8192 < w + len then none
    else
      let x : BnSlot := {
        on := true
        start := w
        len := len
        label := l
        role := if first then role else 0
        alg := if first then alg else 0 }
      (placeSlots y role alg (i + 1) (w + len) false rest).map (fun r => (i, x) :: r)

/-- BN_KEY. The slots of the key are allocated as it is issued, in the order of R197, and filled when the engine has finished. -/
def bnFetchKey (s : State) (n b : Nat) (v : Word) : State :=
  bnIdle s n b (fun k =>
    let y := s.bne k
    let e := (s.core n).entry
    let s := latchSnap s e
    let x := s.entry e
    let p := x.func - 1
    let pos := bits v.toNat 1 0
    let h := x.desc.handle pos
    if y.closed then faultCtx s n
    else if h ≠ 0 ∧ (recLoc (s.part p) (handleIdx h)).isSome ∧ handlePart h = p ∧ !recGate s .bne p (handleIdx h) false then
      faultCtx (recordDenial s .bne (recAddr s p (handleIdx h)) false) n
    else if !(keyUnread s p h).isEmpty then holdReads s (keyUnread s p h).eraseDups (ctxReader n)
    else
      let (st, key) := recordKeyOf s p h
      let s := if st = St.ok then readKey s p h else s
      let st := if st = St.ok then keyChecks s e (bnKeyRole x.desc.fn.toNat pos key.usage key.mode key.alg) key else st
      if st ≠ St.ok then bnStart s n k { status := st }
      else
        let role : Byte := if key.usage = use2 "K3" then 0x0F else 0x0E
        match placeSlots y role key.alg (bits v.toNat 5 2) y.used true (keyLayout key.alg key.bytes.length) with
        | none => faultCtx s n
        | some slots =>
          let s := s.setBne k { y with
            slots := slots.foldl (fun m w => Map.set {} m w.1 w.2) y.slots
            used := slots.foldl (fun u w => max u (w.2.start + w.2.len)) y.used }
          bnStart (notePolicy s e key) n k { words := bnWords y.used key.bytes, slots := slots })

/-- The operand that may be the request input (R203): the second of RSA_VERIFY, the first of the other message operations. -/
def bnMessageArg (op : BnOp) (x : BneArgs) : Option (Fin 16) :=
  match op with
  | .rsaSign | .ecdsaSign | .ecdsaVerify | .edSign | .edVerify | .dsaSign | .dsaVerify | .hash | .hmac => some x.a
  | .rsaVerify => some x.b
  | _ => none

/-- Slots that an operation names beside its message. -/
def bnNamed (y : Bne) (op : BnOp) (x : BneArgs) : List (Fin 16) :=
  match op with
  | .mmul | .madd | .msub | .mexp => [x.a, x.b, x.k, x.d]
  | .minv | .mred => [x.a, x.k, x.d]
  | .mul | .pmul | .padd | .psub | .smul | .rsaKeygen => [x.a, x.b, x.d]
  | .pcheck => [x.a]
  | .smulg => [x.b, x.d]
  | .rsaSign => if x.param.getLsbD 6 then [x.b, x.k, x.d] else [x.k, x.d]
  | .rsaVerify => [x.a, x.k]
  | .ecdsaSign | .edSign => [x.k, x.d]
  | .ecdsaVerify | .dsaVerify => [x.b, x.k, x.d]
  | .ecdh => [x.a, x.b, x.k, x.d]
  | .edVerify => [x.b, x.k]
  | .ecKeygen | .kemKeygen | .dsaKeygen => [x.d]
  | .encaps | .ntt | .intt => [x.a, x.d]
  | .decaps => [x.a, x.k, x.d]
  | .dsaSign => if x.param.getLsbD 5 then [x.k, x.d] else [x.b, x.k, x.d]
  | .hash => [x.d]
  | .hmac => if (y.slot x.k).role = 0x10 then [x.b, x.k, x.d] else [x.b, x.k]

/-- The outcome of a command as the engine will write it: on OK each destination takes its bytes, zeros after them, and its label; on any
other status it takes label K alone (R204, R205). -/
def bnOutcome (y : Bne) (st : Status) (ws : List BnWrite) : BnPend where
  status := st
  words := if st = St.ok then ws.flatMap (fun w => bnWords (y.slot w.slot).start (fit (8 * (y.slot w.slot).len) w.bytes)) else []
  slots := ws.map (fun w =>
    let x := y.slot w.slot
    (w.slot,
      if st = St.ok then { x with label := w.label, storable := w.storable, role := 0, alg := w.alg }
      else { x with label := .k, storable := false, role := 0, alg := 0 }))

/-- What a command of engine k will write, from a message; none where it ends the request (R204). A random value serves the tests of R208. -/
def bnJudge (s : State) (k : Nat) (op : BnOp) (x : BneArgs) (msg : Bytes) : Option BnPend × State :=
  let y := s.bne k
  let (r, s) := if op.draws then bnDraw s (barnOfBne k) y op x msg else (bnEval y op x msg, s)
  match r with
  | none => (none, s)
  | some (st, ws) =>
    if !ws.all (fun w => (y.slot w.slot).on && decide (w.bytes.length ≤ 8 * (y.slot w.slot).len)) then (none, s)
    else if st ≠ St.ok then (some (bnOutcome y st ws), s)
    else
      let (test, s) : BitVec 64 × State := if op = .rsaKeygen ∨ op = .dsaKeygen then s.draw 64 else (0, s)
      (some { bnOutcome y st ws with bad := !bnConfirms y op x msg ws test.toNat }, s)

/-- Op value of an operation that draws. -/
def BnOp.drawCode : BnOp → Nat
  | .rsaSign => 0x20
  | .ecdsaSign => 0x22
  | .ecKeygen => 0x27
  | .rsaKeygen => 0x28
  | .kemKeygen => 0x30
  | .encaps => 0x31
  | .dsaKeygen => 0x33
  | .dsaSign => 0x34
  | _ => 0

/-- The outcome of a command that gets no random output: RNG_UNAVAILABLE, its destinations unwritten and labelled K (R69, R204, R205). -/
def BnPend.starved (p : BnPend) (op : BnOp) (x : BneArgs) (msg : Bytes) : BnPend where
  status := St.rngUnavailable
  slots := p.slots.map (fun w => (w.1, { w.2 with label := .k, storable := false, role := 0, alg := 0 }))
  draw := some (op.drawCode, x, msg)

/-- The units of an engine's operand memory and workspace whose bits have changed (R269). -/
def bneFlips (s : State) (k : Nat) : List ArrayCell :=
  (s.dev.flips.map (·.1)).filter (fun c => match c with
    | .bneMem j _ => j == k
    | _ => false)

/-- Retire an engine; a die without an engine in service sets DEGRADED. -/
def retireBne (s : State) (k : Nat) : State :=
  let d := dieOfBarn (barnOfBne k)
  let s := s.modBne k (fun y => { y with retired := true, selftest := false, needTest := false, wiping := false, clearing := false })
  let s := postRetired (latchErr s (bnePage k) 0x0013 k) d 4 k
  if (List.range 4).all (fun i => !barnHasBne s (4 * (d - 1) + i)) then degrade s causeUnits 0x0005 else s

/-- Count a fault: the third within 1 s retires the engine; else the self-test follows the clearing. -/
def bneFaultCount (s : State) (k : Nat) (check : Bool) : State :=
  let s := if check then evtCount s (bnePage k) 0x084 27 14 else evtCount s (bnePage k) 0x084 13 0
  let s := latchErr s (bnePage k) 0x0010 k
  let times := noteTime (s.bne k).faults s.tmr.now 3
  let s := s.modBne k (fun y => { y with faults := times, needTest := true })
  if withinSpan times 3 second then retireBne s k else s

/-- A fault of an engine (R209): the owner's request ends, whose engine is cleared. -/
def bneFaulted (s : State) (k : Nat) (check : Bool) : State :=
  let s := match (s.bne k).owner with | some c => faultCtx s c | none => s
  bneFaultCount s k check

/-- Start a command from its message. One that draws runs until the barn DRBG serves, or until the wait of R69 ends (log 85). -/
def bnRun (s : State) (n k : Nat) (op : BnOp) (x : BneArgs) (msg : Bytes) : State :=
  let waits := op.draws && (op != .rsaSign || x.param.getLsbD 6) && !drbgServes s (barnOfBne k)
  let (r, t) := bnJudge s k op x msg
  let go (s : State) (p : BnPend) : State := bnStart (s.modBne k (fun y => { y with closed := true })) n k p
  match r with
  | none => faultCtx s n
  | some p => if waits && p.status == St.ok then go s (p.starved op x msg) else go t p

/-- A BN_CMD (R203, R204). Operand memory that parity finds uncorrectable is a fault of the engine (R209, R270). -/
def bnCommand (s : State) (n b : Nat) (op : BnOp) (x : BneArgs) : State :=
  bnIdle s n b (fun k =>
    let y := s.bne k
    let (bad, s) := readUnits s (bneFlips s k)
    let named := match bnMessageArg op x with
      | some i => if i = 15 then bnNamed y op x else i :: bnNamed y op x
      | none => bnNamed y op x
    if !named.all (fun i => (y.slot i).on) then faultCtx s n
    else if bad then bneFaulted s k false
    else
      match bnMessageArg op x with
      | none => bnRun s n k op x []
      | some i =>
        if i = 15 then withInputRead s n .ok (fun s b => bnRun s n k op x (b.drop (s.core n).inOfs)) else bnRun s n k op x (y.bytes i))

/-- The bytes of a stored key from its slots, with the algorithm they are of (R201, R202). -/
def storedKey (y : Bne) (i : Nat) (alg : Byte) : Option Bytes :=
  let a := (y.slot i).alg
  if a.toNat ≥ 0x80 then
    let len := 8 * (a.toNat - 0x80)
    if Alg.isSym alg ∧ Alg.symLen alg = len then some ((y.bytes i).take len) else none
  else if a = alg then
    let ls := if alg = Alg.rsa then
        let n := (y.slot i).len
        [n, 1, (n + 1) / 2, (n + 1) / 2, (n + 1) / 2, (n + 1) / 2, (n + 1) / 2]
      else (keyLayout alg 0).map (·.1)
    some ((List.range ls.length).flatMap (fun j => fit (8 * ls.getD j 0) (y.bytes (i + j))))
  else none

/-- BN_STORE: the template stands in input bytes 0 to 31, and the key goes into the index that the request reserved when its input was
read (log 64); a request without a reservation ends with FAULT_ALARM (R202). -/
def bnStoreKey (s : State) (n b : Nat) (v : Word) : State :=
  bnIdle s n b (fun k =>
    let y := s.bne k
    let e := (s.core n).entry
    let x := s.entry e
    let p := x.func - 1
    let i := bits v.toNat 3 0
    let spec := templateSpec ((x.input.getD []).take 32)
    if x.recResv.isNone ∨ !(y.slot i).on ∨ !(y.slot i).storable then faultCtx s n
    else
      match storedKey y i spec.alg with
      | none => faultCtx s n
      | some key =>
        let (st, h, s) := createRecord s .bne p spec key
        if st = St.faultAlarm then faultCtx s n
        else
          let s := if st = St.ok then s.modEntry e (fun x => { x with recMade := true }) else s
          bnStart s n k { status := st, handle := h })

/-- BN_WAIT. -/
def bnWait (s : State) (n b r : Nat) : State :=
  bnWindow s n b (fun k =>
    let y := s.bne k
    if y.run.isSome then waitPaused s n .bnWait else answer s n r (y.last.setWidth 32))

/-- BN_HANDLE. -/
def bnHandle (s : State) (n b r : Nat) : State :=
  bnWindow s n b (fun k =>
    let y := s.bne k
    let v : Word := if y.handleHi then (y.handle >>> 32).setWidth 32 else y.handle.setWidth 32
    answer (s.setBne k { y with handleHi := !y.handleHi }) n r v)

/-- BN_STAT. -/
def bnStat (s : State) (n b r : Nat) : State :=
  bnWindow s n b (fun k =>
    let y := s.bne k
    let cnt := ((List.range 16).filter (fun i => (y.slot i).on)).length
    answer s n r (BitVec.ofNat 32 (b2n y.run.isSome + 2 * (cnt % 16) + 32 * b2n y.closed)))

/-- BN_RELEASE. -/
def bnRelease (s : State) (n b : Nat) : State := bnWindow s n b (fun k => goNext (releaseBne s n true) n)

/-- What finished work leaves: its words and slots are written, the workspace holds what the spec does not give (log 85), and the context
issues again (R196). BNE_BUSY_CYCLES advances (R212). -/
def bnWriteBack (s : State) (k : Nat) (p : BnPend) : State :=
  let s := countCycles s (bnePage k) 0x048
  let (work, s) := s.draw 262144
  let y := s.bne k
  let mem := p.words.foldl (fun (m : Map (BitVec 64)) (w : Nat × BitVec 64) => Map.set 0 m w.1 w.2) y.mem
  let slots := p.slots.foldl (fun (m : Map BnSlot) (w : Nat × BnSlot) => Map.set {} m w.1 w.2) y.slots
  let s := s.setBne k { y with
    mem := mem
    slots := slots
    work := work
    run := none
    last := p.status
    handle := if p.handle = 0 then y.handle else p.handle
    handleHi := false }
  match y.owner with
  | some n => reissue s n (fun w => w == .bnWait || w == .bnBusy)
  | none => s

/-! ### Faults, self-test, wipes (R209 to R211) -/

/-- After a wipe or a clearing, which leave operand memory and workspace zero: the self-test where a fault calls for it, else the next
claim. -/
def bneCleared (s : State) (k : Nat) : State :=
  let y := s.bne k
  let s := (bneFlips s k).foldl writeUnit s
  let s := s.setBne k { selftest := y.needTest, retired := y.retired, faults := y.faults }
  serveClaim s k

/-- The engine finishes its work. A command that waits for random output computes now, if the barn DRBG serves; a failed second
computation is a fault, and no result is written (R208, R209). -/
def bnFinish (s : State) (k : Nat) : State :=
  let y := s.bne k
  let settle (s : State) (p : BnPend) : State := if p.bad then bneFaulted s k true else bnWriteBack s k p
  match y.run with
  | none => s
  | some p =>
    match p.draw with
    | none => settle s p
    | some (code, x, msg) =>
      if !drbgServes s (barnOfBne k) then s
      else
        match bnOpOf code x.param with
        | none => s
        | some op =>
          let (r, s) := bnJudge s k op x msg
          match r with
          | some p => settle s p
          | none =>
            match y.owner with
            | some n => faultCtx s n
            | none => s

/-! ### Rows -/

def bnWaits : Wait → Bool := fun w => w == .bnBusy

def execBnClaim (c : Fin 2048) (b : Fin 6) (r : Fin 32) (s : State) : Host.Outcome State Fault Refusal :=
  portRow c (· == .bnClaim b) s (fun t => claimBne t c b r ((s.core c).wait == .bnClaim b))

def execBnSlot (c : Fin 2048) (b : Fin 6) (v : Word) (s : State) : Host.Outcome State Fault Refusal :=
  portRow c noWait s (fun s => bnConfig s c b v)

def execBnWr (c : Fin 2048) (b : Fin 6) (v : Word) (s : State) : Host.Outcome State Fault Refusal :=
  portRow c bnWaits s (fun s => bnWrite s c b v)

def execBnRd (c : Fin 2048) (b : Fin 6) (r : Fin 32) (s : State) : Host.Outcome State Fault Refusal :=
  portRow c bnWaits s (fun s => bnRead s c b r)

def execBnXfer (c : Fin 2048) (b : Fin 6) (v : Word) (dma : Dma) (s : State) : Host.Outcome State Fault Refusal :=
  portRow c bnWaits s (fun s => bnTransfer s c b v dma)

def execBnKey (c : Fin 2048) (b : Fin 6) (v : Word) (s : State) : Host.Outcome State Fault Refusal :=
  portRow c bnWaits s (fun s => bnFetchKey s c b v)

def execBnSkey (c : Fin 2048) (b : Fin 6) (sa : Fin 16) (s : State) : Host.Outcome State Fault Refusal :=
  portRow c bnWaits s (fun s => bnSecret s c b sa)

def execBnStore (c : Fin 2048) (b : Fin 6) (v : Word) (s : State) : Host.Outcome State Fault Refusal :=
  portRow c bnWaits s (fun s => bnStoreKey s c b v)

def execBnRelease (c : Fin 2048) (b : Fin 6) (s : State) : Host.Outcome State Fault Refusal :=
  portRow c noWait s (fun s => bnRelease s c b)

/-- A command row: context c gives window n of its barn an operation. -/
def bneRow (c : Fin 2048) (n : Fin 6) (op : BnOp) (x : BneArgs) (s : State) : Host.Outcome State Fault Refusal :=
  portRow c bnWaits s (fun s => bnCommand s c n op x)

def execBneMmul (c : Fin 2048) (n : Fin 6) (x : BneArgs) (s : State) : Host.Outcome State Fault Refusal := bneRow c n .mmul x s

def execBneMadd (c : Fin 2048) (n : Fin 6) (x : BneArgs) (s : State) : Host.Outcome State Fault Refusal := bneRow c n .madd x s

def execBneMsub (c : Fin 2048) (n : Fin 6) (x : BneArgs) (s : State) : Host.Outcome State Fault Refusal := bneRow c n .msub x s

def execBneMexp (c : Fin 2048) (n : Fin 6) (x : BneArgs) (s : State) : Host.Outcome State Fault Refusal := bneRow c n .mexp x s

def execBneMinv (c : Fin 2048) (n : Fin 6) (x : BneArgs) (s : State) : Host.Outcome State Fault Refusal := bneRow c n .minv x s

def execBneMred (c : Fin 2048) (n : Fin 6) (x : BneArgs) (s : State) : Host.Outcome State Fault Refusal := bneRow c n .mred x s

def execBneMul (c : Fin 2048) (n : Fin 6) (x : BneArgs) (s : State) : Host.Outcome State Fault Refusal := bneRow c n .mul x s

def execBnePcheck (c : Fin 2048) (n : Fin 6) (x : BneArgs) (s : State) : Host.Outcome State Fault Refusal := bneRow c n .pcheck x s

def execBneSmul (c : Fin 2048) (n : Fin 6) (x : BneArgs) (s : State) : Host.Outcome State Fault Refusal := bneRow c n .smul x s

def execBneSmulg (c : Fin 2048) (n : Fin 6) (x : BneArgs) (s : State) : Host.Outcome State Fault Refusal := bneRow c n .smulg x s

def execBneRsaSign (c : Fin 2048) (n : Fin 6) (x : BneArgs) (s : State) : Host.Outcome State Fault Refusal := bneRow c n .rsaSign x s

def execBneRsaVerify (c : Fin 2048) (n : Fin 6) (x : BneArgs) (s : State) : Host.Outcome State Fault Refusal := bneRow c n .rsaVerify x s

def execBneEcdsaSign (c : Fin 2048) (n : Fin 6) (x : BneArgs) (s : State) : Host.Outcome State Fault Refusal := bneRow c n .ecdsaSign x s

def execBneEcdsaVerify (c : Fin 2048) (n : Fin 6) (x : BneArgs) (s : State) : Host.Outcome State Fault Refusal := bneRow c n .ecdsaVerify x s

def execBneEcdh (c : Fin 2048) (n : Fin 6) (x : BneArgs) (s : State) : Host.Outcome State Fault Refusal := bneRow c n .ecdh x s

def execBneEd25519Sign (c : Fin 2048) (n : Fin 6) (x : BneArgs) (s : State) : Host.Outcome State Fault Refusal := bneRow c n .edSign x s

def execBneEd25519Verify (c : Fin 2048) (n : Fin 6) (x : BneArgs) (s : State) : Host.Outcome State Fault Refusal := bneRow c n .edVerify x s

def execBneEcKeygen (c : Fin 2048) (n : Fin 6) (x : BneArgs) (s : State) : Host.Outcome State Fault Refusal := bneRow c n .ecKeygen x s

def execBneRsaKeygen (c : Fin 2048) (n : Fin 6) (x : BneArgs) (s : State) : Host.Outcome State Fault Refusal := bneRow c n .rsaKeygen x s

def execBneMlkemKeygen (c : Fin 2048) (n : Fin 6) (x : BneArgs) (s : State) : Host.Outcome State Fault Refusal := bneRow c n .kemKeygen x s

def execBneMlkemEncaps (c : Fin 2048) (n : Fin 6) (x : BneArgs) (s : State) : Host.Outcome State Fault Refusal := bneRow c n .encaps x s

def execBneMlkemDecaps (c : Fin 2048) (n : Fin 6) (x : BneArgs) (s : State) : Host.Outcome State Fault Refusal := bneRow c n .decaps x s

def execBneMldsaKeygen (c : Fin 2048) (n : Fin 6) (x : BneArgs) (s : State) : Host.Outcome State Fault Refusal := bneRow c n .dsaKeygen x s

def execBneMldsaSign (c : Fin 2048) (n : Fin 6) (x : BneArgs) (s : State) : Host.Outcome State Fault Refusal := bneRow c n .dsaSign x s

def execBneMldsaVerify (c : Fin 2048) (n : Fin 6) (x : BneArgs) (s : State) : Host.Outcome State Fault Refusal := bneRow c n .dsaVerify x s

def execBneNtt (c : Fin 2048) (n : Fin 6) (x : BneArgs) (s : State) : Host.Outcome State Fault Refusal := bneRow c n .ntt x s

def execBneIntt (c : Fin 2048) (n : Fin 6) (x : BneArgs) (s : State) : Host.Outcome State Fault Refusal := bneRow c n .intt x s

def execBnePmul (c : Fin 2048) (n : Fin 6) (x : BneArgs) (s : State) : Host.Outcome State Fault Refusal := bneRow c n .pmul x s

def execBnePadd (c : Fin 2048) (n : Fin 6) (x : BneArgs) (s : State) : Host.Outcome State Fault Refusal := bneRow c n .padd x s

def execBnePsub (c : Fin 2048) (n : Fin 6) (x : BneArgs) (s : State) : Host.Outcome State Fault Refusal := bneRow c n .psub x s

def execBneHash (c : Fin 2048) (n : Fin 6) (x : BneArgs) (s : State) : Host.Outcome State Fault Refusal := bneRow c n .hash x s

def execBneHmac (c : Fin 2048) (n : Fin 6) (x : BneArgs) (s : State) : Host.Outcome State Fault Refusal := bneRow c n .hmac x s

/-- BNE_OPERATION_DONE (R196). -/
def execBneOperationDone (n : Fin 48) (s : State) : Host.Outcome State Fault Refusal := done (bnFinish s n)

/-- BNE_FAULT (R209): the owner's request ends, whose engine is cleared; a fault during a wipe waits for its end. -/
def execBneFault (n : Fin 48) (check : Bool) (s : State) : Host.Outcome State Fault Refusal :=
  let y := s.bne n
  if y.retired ∨ (y.owner.isNone ∧ !y.wiping ∧ !y.clearing) then done s else done (bneFaulted s n check)

/-- BNE_SELFTEST_DONE (R209). -/
def execBneSelftestDone (n : Fin 48) (pass : Bool) (s : State) : Host.Outcome State Fault Refusal :=
  if !(s.bne n).selftest then done s
  else
    let s := s.setRegBits (bnePage n + 0x084) 28 28 (b2n (!pass))
    let s := s.modBne n (fun y => { y with selftest := false })
    done (if pass then serveClaim s n else retireBne (latchErr s (bnePage n) 0x0012 n) n)

/-- BNE_WIPE_DONE (R210): a nonzero word on the read-back is a fault. -/
def execBneWipeDone (n : Fin 48) (clean : Bool) (s : State) : Host.Outcome State Fault Refusal :=
  if !(s.bne n).wiping then done s
  else
    let s := if clean then s else bneFaultCount s n true
    done (if (s.bne n).retired then s else bneCleared s n)

/-- BNE_CLEAR_DONE (R210). -/
def execBneClearDone (n : Fin 48) (s : State) : Host.Outcome State Fault Refusal :=
  if (s.bne n).clearing then done (bneCleared s n) else done s

end Sys2Proof.Machine
end

