-- ==== Sys2Proof/Machine/Hampers.lean ====
section
/-! DEFINITION. Hampers (12_partitions_hampers.md R282 to R287): the sealed image of a partition, its key, HAMPER_SEAL and HAMPER_RESTORE.
Where R282 names the fields of an entry and not their places, the places are those of log 72. -/

set_option linter.unusedVariables false

namespace Sys2Proof.Machine

open Sys2Proof Sys2Proof.Bits

/-! ### The hamper key (R283) -/

/-- The domain transport key in a slot 16 to 63: a serving AES-256 key of usage K0. -/
def transportKey (s : State) (i : Nat) : Option Bytes :=
  let x := s.slotAt i
  if 16 ≤ i ∧ i < 64 ∧ x.live ∧ x.owner = 2 ∧ x.alg = Alg.aes256 ∧ x.usage = use2 "K0" ∧ x.serve ≠ 0 ∧ !x.damaged ∧ s.grn.present then
    some (slotKey s i)
  else none

/-- SP 800-108 counter mode with AES-256-CMAC as PRF. -/
def hamperKey (dtk : Bytes) (dpid seq : Nat) (salt : Bytes) : Bytes :=
  let block (i : Nat) : Bytes :=
    Cipher.cmac .aes dtk (be 4 i ++ ascii "TK4820 HAMPER" ++ [0] ++ be 8 dpid ++ be 4 seq ++ salt ++ be 4 256)
  block 1 ++ block 2

/-! ### Section bodies (R282) -/

/-- 0x01: the fields of R278 bytes 4 to 31, PART_FN_SPLIT_p, the m of P0 to P3. -/
def configBody (s : State) (p : Nat) : Bytes :=
  let x := s.part p
  fit 64 (le 4 x.quota ++ le 2 x.flowLimit ++ le 2 x.slotQuota ++ le 4 x.n0 ++ le 4 x.n1 ++ le 2 x.bucketQuota ++ zeros 2 ++
    le 8 x.dpid.toNat ++ le 4 x.fnSplit.toNat ++ (List.range 4).map (fun k => BitVec.ofNat 8 (policyM s (.part k p))))

/-- 0x02: byte 0 the index, bytes 16 to 63 the key digest. -/
def officersBody (s : State) (p : Nat) : Bytes :=
  (partOfficers s p).flatMap (fun i =>
    let o := Map.get {} s.ofc.part (8 * p + i)
    [BitVec.ofNat 8 i, o.alg] ++ zeros 14 ++ digestBytes o.digest)

/-- 0x03: decimalization tables, then velocity policies. -/
def tablesBody (s : State) (p : Nat) : Bytes :=
  (List.range 8).flatMap (fun i => le 8 ((s.decTable p i).getD 0).toNat) ++
    (List.range 16).flatMap (fun k =>
      let v := s.velPol p k
      le 4 v.cap ++ le 4 v.rate ++ le 4 v.init ++ zeros 4)

/-- 0x04: index, sel, header bytes 4 to 47, key length, key. -/
def slotsBody (s : State) (p : Nat) : Bytes :=
  (partSlots s p).flatMap (fun i =>
    let x := s.slotAt i
    le 2 i ++ [(x.copy (x.serve - 1)).sel, 0] ++ slice (slotHead x) 4 44 ++ [BitVec.ofNat 8 x.klen] ++ zeros 7 ++
      fit 80 (slotKey s i) ++ zeros 24)

/-- A record with its key bytes in clear and bytes 112 to 127 zero. -/
def clearRecord (key b : Bytes) : Bytes :=
  if byteAt b 2 = 1 then b.take 48 ++ openFirst key b ++ zeros 16 else b.take 16 ++ openCont key b ++ zeros 16

/-- 0x05: index, then the record. -/
def recordsBody (s : State) (p : Nat) : Bytes :=
  let key := (recordKey s).getD []
  (partRecords s p).flatMap (fun i => le 4 i ++ zeros 4 ++ clearRecord key (recBytes s p i))

/-- 0x06: partition, policy, fingerprint, tokens, last. -/
def bucketsBody (s : State) (p : Nat) : Bytes :=
  (partBuckets s p).flatMap (fun i =>
    let b := s.bucket i
    le 2 p ++ [BitVec.ofNat 8 b.pol] ++ zeros 5 ++ le 8 b.fp.toNat ++ le 4 b.tokens ++ zeros 4 ++ le 8 b.last)

/-- 0x07: slot index, exact count, limit. -/
def ctrsBody (s : State) (p : Nat) : Bytes :=
  (partCtrs s p).flatMap (fun i =>
    let c := s.useCtr (s.slotAt i).ctr
    le 2 i ++ zeros 2 ++ le 4 c.live ++ le 4 c.limit ++ zeros 4)

/-- 0x08: the next flow sequence of each flow ID. -/
def flowsBody (s : State) (p : Nat) : Bytes :=
  let x := s.part p
  (List.range x.flowLimit).flatMap (fun k => le 4 (s.flow (x.flowBase + k)).next.toNat ++ zeros 4)

/-- 0x09: base, CFG with enable 0, head or tail, phase, recorded doorbell index. -/
def ringsBody (s : State) (p : Nat) : Bytes :=
  let sq (n : Nat) : Bytes :=
    let q := s.sq (p + 1) n
    le 8 q.base.toNat ++ le 4 (2 * b2n q.error + 4 * q.errKind.toNat + q.log2 * 2 ^ 8 + q.cq * 2 ^ 16) ++ le 2 q.head ++ zeros 2 ++
      le 2 q.tail ++ zeros 14
  let cq (n : Nat) : Bytes :=
    let q := s.cq (p + 1) n
    le 8 q.base.toNat ++ le 4 (2 * b2n q.error + 4 * b2n q.intEn + q.log2 * 2 ^ 8 + q.vector * 2 ^ 16) ++ le 2 q.tail ++
      [BitVec.ofNat 8 (b2n q.phase), 0] ++ le 2 q.head ++ zeros 14
  (List.range 64).flatMap sq ++ (List.range 64).flatMap cq

/-- The bodies in type order, 1 to 9. -/
def hamperBodies (s : State) (p : Nat) : List Bytes :=
  [configBody s p, officersBody s p, tablesBody s p, slotsBody s p, recordsBody s p, bucketsBody s p, ctrsBody s p, flowsBody s p,
    ringsBody s p]

/-- Entry sizes in type order. -/
def entrySizes : List Nat := [64, 64, 320, 160, 136, 32, 16, 8, 32]

def sectionIv (ty : Nat) : Bytes := le 2 ty ++ zeros 10

/-- A section: header, encrypted body, tag. -/
def sealSection (key : Bytes) (ty size : Nat) (body : Bytes) : Bytes :=
  let head := le 2 ty ++ zeros 2 ++ le 4 (body.length / size) ++ le 8 body.length
  let (c, t) := Gcm.encrypt key (sectionIv ty) head body
  head ++ c ++ t

/-- The header (R282). -/
def hamperHead (s : State) (p seq validity : Nat) (salt : Bytes) : Bytes :=
  fit 256 (ascii "HMPR" ++ le 2 1 ++ le 2 9 ++ le 8 (s.part p).dpid.toNat ++ le 4 seq ++ le 2 p ++ zeros 2 ++
    le 8 Config.unitSerial.toNat ++ le 8 s.time.ntime ++ le 8 (s.time.ntime + validity * second) ++ le 8 (hamperLen s p) ++ zeros 8 ++
    salt)

/-- The hamper of partition p, signed under the alias key. -/
def sealHamper (s : State) (p seq validity signer : Nat) (dtk : Bytes) : Bytes × State :=
  let (salt, s) := drbgGen s 8 16
  let key := hamperKey dtk (s.part p).dpid.toNat seq salt
  let secs := ((hamperBodies s p).zip entrySizes).mapIdx (fun i x => sealSection key (i + 1) x.2 x.1)
  let chain := hamperChain s
  let b := hamperHead s p seq validity salt ++ secs.flatten ++ le 2 chain.length ++ chain
  let (sig, s) := sign384 s signer b
  (b ++ sig, s)

/-! ### The seen list (R287) -/

def seenOf (s : State) (d : BitVec 64) : Option Nat := (s.seen.find? (fun x => x.1 == d)).map (·.2)

def seenRoom (s : State) (d : BitVec 64) : Bool := (seenOf s d).isSome || decide (s.seen.length < 4096)

/-- Raise the entry of a DPID, or take a free one. -/
def seenRaise (s : State) (d : BitVec 64) (seq : Nat) : State :=
  match seenOf s d with
  | some _ => { s with seen := s.seen.map (fun x => if x.1 = d then (d, max x.2 seq) else x) }
  | none => { s with seen := s.seen ++ [(d, seq)] }

/-! ### HAMPER_SEAL (R284) -/

/-- The record of a hamper request: DPID and sequence (R379). -/
def hamperRecord (s : State) (e dpid seq : Nat) : State :=
  if (s.entry e).tally.held then
    s.modEntry e (fun x => { x with tally := { x.tally with code := 0x0202, data := dataWords (le 8 dpid ++ le 4 seq ++ zeros 20) } })
  else s

/-- The least count of bytes that a failed write left in host memory is not stated: a free prefix of the hamper (log 73). -/
def writePrefix (s : State) (a : Nat) (b : Bytes) : State :=
  let (n, s) := s.draw 64
  s.hostWrite a (b.take (n.toNat % (b.length + 1)))

/-- The release requests in flight were admitted before partition p emigrated (R288). -/
def markReleases (s : State) (p : Nat) : State :=
  (entriesWhere s (fun x => x.accepted && x.state == .reserved && x.desc.fn == 0xE002)).foldl (fun s e =>
    s.modEntry e (fun x => { x with preSeal := p :: x.preSeal })) s

/-- The steps of a seal: the sequence, the caches, the write, the seen list, emigrated. A write that fails, or that the HOSTDMA gate
denies, leaves the partition emigrated (R285, R347). -/
def doSeal (s : State) (p validity addr key : Nat) (dtk : Bytes) (image : Dma) : FnEnd :=
  let x := s.part p
  let s := (partBuckets s p).foldl refillBucket s
  let (b, s) := sealHamper s p x.hseq validity key dtk
  let s := uwcInvalidateAll (s.modPart p (fun y => { y with hseq := y.hseq + 1 })) p
  let gone (s : State) : State := (markReleases s p).modPart p (fun y => { y with emigrated := true })
  if !hostGate s true then ends St.faultAlarm (gone (hostDenied s true))
  else if image ≠ .ok then ends St.badPointer (gone (writePrefix s addr b))
  else
    let s := seenRaise (s.hostWrite addr b) x.dpid x.hseq
    endsOk (movePart (gone s) p .frozen) (BitVec.ofNat 64 b.length) []

/-- HAMPER_SEAL. -/
def execHamperSeal (e : Fin 69632) (dma image : Dma) (s : State) : Host.Outcome State Fault Refusal :=
  runAdmin 0xE005 e dma .own s (fun _ => true) (fun s b =>
    let p := partAtByte b 0
    let x := s.part p
    let validity := fieldLe b 4 4
    let addr := fieldLe b 8 8
    let s := hamperRecord s e x.dpid.toNat x.hseq
    let len := hamperLen s p
    check (decide (p < 2048 ∧ 60 ≤ validity ∧ validity ≤ 604800 ∧ x.hseq < 2 ^ 32 - 1) && x.state == .frozen && !x.emigrated &&
        inFlight s (p + 1) == 0) St.badFormat s
      (match transportKey s (fieldLe b 2 2) with
      | none => ends St.keyNotFound s
      | some dtk =>
        withQuorum s e [.part 2 p] 24 (fun s =>
          check s.time.valid St.timeNotValid s
            (withAudit s e (fun s =>
              check (seenRoom s x.dpid) St.auditFull s
                (if fieldLe b 16 8 < len then (.ended { status := St.badLength, result := BitVec.ofNat 64 len }, s)
                else
                  check (addr != 0 && decide (addr + len ≤ 2 ^ 64)) St.badPointer s
                    (match s.boot.aliasKey with
                    | none => ends St.degraded s
                    | some key => whenKeepRandom s (fun s => doSeal s p validity addr key dtk image))))))))

/-! ### A hamper read back (R286) -/

/-- A section as it lies in a hamper. -/
structure Section where
  head : Bytes
  cipher : Bytes
  tag : Bytes
deriving DecidableEq, Repr

/-- Sections ty, ty + 1, ... of the listed entry sizes from the front of the bytes, with the rest; none when one is malformed. -/
def sections : Nat → List Nat → Bytes → Option (List Section × Bytes)
  | _, [], b => some ([], b)
  | ty, size :: r, b =>
    let n := fieldLe b 8 8
    if 32 + n ≤ b.length ∧ fieldLe b 0 2 = ty ∧ n = fieldLe b 4 4 * size then
      (sections (ty + 1) r (b.drop (32 + n))).map (fun x =>
        ({ head := b.take 16, cipher := slice b 16 n, tag := slice b (16 + n) 16 } :: x.1, x.2))
    else none

/-- A hamper in its parts: the sections, the two certificates, the signature. -/
structure Hamper where
  secs : List Section
  identity : Bytes
  leaf : Bytes
  sig : Bytes
deriving DecidableEq, Repr

/-- Check 2: magic, format, section count, total length, and the parts. -/
def parseHamper (b : Bytes) : Option Hamper :=
  if b.take 4 = ascii "HMPR" ∧ fieldLe b 4 2 = 1 ∧ fieldLe b 6 2 = 9 ∧ fieldLe b 48 8 = b.length then
    match sections 1 entrySizes (b.drop 256) with
    | none => none
    | some (secs, t) =>
      let l := fieldLe t 0 2
      if t.length ≠ 98 + l then none
      else
        match Der.read (slice t 2 l) with
        | some (_, _, identity, leaf) => some { secs := secs, identity := identity, leaf := leaf, sig := t.drop (2 + l) }
        | none => none
  else none

/-- The signature r ‖ s of a certificate; none when an integer is longer than 48 bytes. -/
def certSig (cert : Bytes) : Option Bytes :=
  let v := Der.child ((Der.child (Der.child cert 0) 2).drop 1) 0
  let r := Der.strip (Der.child v 0)
  let t := Der.strip (Der.child v 1)
  if r.length ≤ 48 ∧ t.length ≤ 48 then some (be 48 (ofBe r) ++ be 48 (ofBe t)) else none

/-- A certificate is signed under a key. -/
def certSigned (key cert : Bytes) : Bool :=
  match certSig cert with
  | some sig => verify384 key sig (Der.childWhole (Der.child cert 0) 0)
  | none => false

/-- Check 3: the chain to Masidric's manufacturing CA, the serial, the signature. -/
def hamperSigned (b : Bytes) (h : Hamper) : Bool :=
  certSigned Config.manufacturingCaKey h.identity && certSigned (Der.pubKey h.identity) h.leaf &&
    (Config.certSerial h.identity).toNat == fieldLe b 24 8 &&
    verify384 (Der.pubKey h.leaf) h.sig (b.take (b.length - 96))

/-- Check 6: the bodies in clear, when every tag verifies. -/
def openSections (key : Bytes) (secs : List Section) : Option (List Bytes) :=
  let opened := secs.mapIdx (fun i x => (Gcm.decrypt key (sectionIv (i + 1)) x.head x.cipher, x.tag))
  if opened.all (fun x => x.1.2 == x.2) then some (opened.map (fun x => x.1.1)) else none

/-- What a hamper carries, by entries of each section. -/
structure Cargo where
  config : Bytes
  officers : List Bytes
  tables : Bytes
  slots : List Bytes
  records : List Bytes
  buckets : List Bytes
  ctrs : List Bytes
  flows : List Bytes
  rings : List Bytes
deriving DecidableEq, Repr

def cargoOf (bodies : List Bytes) : Cargo where
  config := bodies.getD 0 []
  officers := chunks 64 (bodies.getD 1 [])
  tables := bodies.getD 2 []
  slots := chunks 160 (bodies.getD 3 [])
  records := chunks 136 (bodies.getD 4 [])
  buckets := chunks 32 (bodies.getD 5 [])
  ctrs := chunks 16 (bodies.getD 6 [])
  flows := chunks 8 (bodies.getD 7 [])
  rings := chunks 32 (bodies.getD 8 [])

/-- Check 7: the hamper's officers and policies. -/
def cargoRoster (c : Cargo) : Roster where
  m
    | .part k _ => (byteAt c.config (32 + k)).toNat
    | .dev _ => 0
  digest _ i := (c.officers.find? (fun o => (byteAt o 0).toNat == i)).map (fun o => o.drop 16)

/-- Free partition slots that a copy can still be written to, never written ones first (log 74). -/
def neverSlots (s : State) : List Nat :=
  let xs := (List.range 4032).map (· + 64)
  xs.filter (fun i => !(s.slotAt i).live && (s.slotAt i).high == 0) ++
    xs.filter (fun i => !(s.slotAt i).live && (s.slotAt i).high != 0 && (s.slotAt i).high != 0xFFFFFFFF)

def freeCtrs (s : State) : List Nat := (List.range 512).filter (fun i => !(s.useCtr i).on)

/-- Check 8. -/
def cargoFits (s : State) (p : Nat) (c : Cargo) : Bool :=
  let x := s.part p
  let hn0 := fieldLe c.config 8 4
  let covers (i : Nat) : Bool := if i < hn0 then decide (i < x.n0) else decide (x.n0 ≤ i ∧ i < x.n0 + x.n1)
  x.dpid.toNat == fieldLe c.config 20 8 && c.records.all (fun r => covers (fieldLe r 0 4)) &&
    decide (fieldLe c.config 6 2 ≤ x.slotQuota) && decide (fieldLe c.config 16 2 ≤ x.bucketQuota) &&
    decide (fieldLe c.config 4 2 ≤ x.flowLimit) && decide (c.slots.length ≤ (neverSlots s).length) &&
    decide (c.ctrs.length ≤ (freeCtrs s).length)

/-! ### HAMPER_RESTORE (R286) -/

/-- Slot numbers: the hamper's and the new one. -/
def slotMap (s : State) (c : Cargo) : List (Nat × Nat) := (c.slots.map (fun x => fieldLe x 0 2)).zip (neverSlots s)

/-- Step 1: a slot under this unit's root, as copy 0, current; its counter, when it has one, holds the exact count. -/
def restoreSlot (s : State) (p : Nat) (c : Cargo) (x : Bytes) (new : Nat) : State :=
  let h := x.drop 4
  let (ctr, s) :=
    match c.ctrs.find? (fun y => fieldLe y 0 2 == fieldLe x 0 2), freeCtrs s with
    | some y, k :: _ =>
      (k, s.setUseCtr k { writeMark { on := true, live := fieldLe y 4 4, limit := fieldLe y 8 4 } (fieldLe y 4 4) with on := true })
    | _, _ => (0xFFFF, s)
  let s := s.setSlot new {
    format := 1
    owner := 3
    part := p
    prot := byteAt h 2
    alg := byteAt h 3
    usage := BitVec.ofNat 16 (fieldLe h 4 2)
    mode := byteAt h 6
    exp := byteAt h 7
    pol := byteAt h 8
    klen := (byteAt h 9).toNat
    period := fieldLe h 10 2
    limit := fieldLe h 12 4
    ctr := ctr
    nb := BitVec.ofNat 64 (fieldLe h 20 8)
    na := BitVec.ofNat 64 (fieldLe h 28 8)
    pub := bit (fieldLe h 36 4) 31
    pubIdx := fieldLe h 36 4 % 2 ^ 29
    pubTag := fieldLe h 40 3
    high := (s.slotAt new).high
    serve := 1 }
  match writeCopy s s.meas new 0 1 (byteAt x 2) (slice x 56 (byteAt x 48).toNat) with
  | some s => sealHead s new
  | none => s

/-- Step 2: a record under this unit's record key, with the new number in its slot reference. -/
def restoreRecord (s : State) (p : Nat) (slots : List (Nat × Nat)) (x : Bytes) : State :=
  let b := x.drop 8
  let rk := (recordKey s).getD []
  let first := byteAt b 2 == 1
  let head := le 2 p ++ slice b 2 (if first then 46 else 14)
  let head :=
    if first then
      match slots.find? (fun y => y.1 == fieldLe b 14 2) with
      | some y => head.take 14 ++ le 2 y.2 ++ head.drop 16
      | none => head
    else head
  putRecord s p (fieldLe x 0 4) (sealRecord rk head (slice b head.length (112 - head.length)))

/-- Step 3: a bucket. -/
def restoreBucket (s : State) (p : Nat) (x : Bytes) : State :=
  match Map.findFrom {} s.grn.buckets (fun b => !b.on) (s.grn.buckets.length + 1) 0 with
  | none => s
  | some i => s.setBucket i {
      on := true
      part := p
      pol := (byteAt x 2).toNat
      fp := BitVec.ofNat 64 (fieldLe x 8 8)
      tokens := fieldLe x 16 4
      last := fieldLe x 24 8 }

def restoreOfficer (s : State) (p : Nat) (x : Bytes) : State :=
  let o : Officer := {
    on := true
    alg := byteAt x 1
    digest := digest384 (x.drop 16) }
  { s with ofc := { s.ofc with part := Map.set {} s.ofc.part (8 * p + (byteAt x 0).toNat % 8) o } }

def restorePolicy (s : State) (p : Nat) (c : Cargo) (k : Nat) : State :=
  { s with ofc := { s.ofc with partM := Map.set 0 s.ofc.partM (4 * p + k) ((byteAt c.config (32 + k)).toNat - 2) } }

def restoreDecTable (s : State) (p : Nat) (c : Cargo) (i : Nat) : State :=
  let v := fieldLe c.tables (8 * i) 8
  { s with decTables := Map.set none s.decTables (8 * p + i) (if v = 0 then none else some (BitVec.ofNat 64 v)) }

def restoreVelPol (s : State) (p : Nat) (c : Cargo) (k : Nat) : State :=
  let o := 64 + 16 * k
  let cap := fieldLe c.tables o 4
  let v : VelPolicy := if cap = 0 then {} else { on := true, cap := cap, rate := fieldLe c.tables (o + 4) 4, init := fieldLe c.tables (o + 8) 4 }
  { s with velPols := Map.set {} s.velPols (16 * p + k) v }

def restoreRing (s : State) (p i : Nat) (x : Bytes) : State :=
  let cfg := fieldLe x 8 4
  let base := BitVec.ofNat 64 (fieldLe x 0 8)
  if i < 64 then
    s.setSq (p + 1) i {
      base := base
      error := bit cfg 1
      errKind := BitVec.ofNat 2 (bits cfg 3 2)
      log2 := bits cfg 12 8
      cq := bits cfg 21 16
      head := fieldLe x 12 2
      tail := fieldLe x 16 2 }
  else
    s.setCq (p + 1) (i - 64) { s.cq (p + 1) (i - 64) with
      enable := false
      base := base
      error := bit cfg 1
      intEn := bit cfg 2
      log2 := bits cfg 12 8
      vector := bits cfg 21 16
      tail := fieldLe x 12 2
      phase := bit (fieldLe x 14 1) 0
      head := fieldLe x 16 2 }

def restoreFlow (s : State) (p k : Nat) (x : Bytes) : State :=
  let i := (s.part p).flowBase + k
  s.setFlow i { s.flow i with next := BitVec.ofNat 32 (fieldLe x 0 4) }

/-- Fold over a list with positions. -/
def foldIdx {α : Type} (f : State → Nat → α → State) (s : State) (xs : List α) : State :=
  ((List.range xs.length).zip xs).foldl (fun s y => f s y.1 y.2) s

/-- The steps of a restore. -/
def doRestore (s : State) (p seq : Nat) (c : Cargo) : FnEnd :=
  let sm := slotMap s c
  let s := (c.slots.zip (sm.map (·.2))).foldl (fun s y => restoreSlot s p c y.1 y.2) s
  let s := c.records.foldl (fun s x => restoreRecord s p sm x) s
  let s := c.buckets.foldl (fun s x => restoreBucket s p x) s
  let s := { s with ofc := { s.ofc with part := dropRange s.ofc.part (8 * p) 8 } }
  let s := c.officers.foldl (fun s x => restoreOfficer s p x) s
  let s := (List.range 4).foldl (fun s k => restorePolicy s p c k) s
  let s := (List.range 8).foldl (fun s i => restoreDecTable s p c i) s
  let s := (List.range 16).foldl (fun s k => restoreVelPol s p c k) s
  let s := foldIdx (fun s k x => restoreFlow s p k x) s c.flows
  let s := foldIdx (fun s i x => restoreRing s p i x) s c.rings
  let s := s.modPart p (fun x => { x with fnSplit := byteAt c.config 28, hseq := min (2 ^ 32 - 1) (seq + 1) })
  endsOk (movePart (seenRaise s (s.part p).dpid seq) p .frozen) 0 []

/-- Checks 6 to 9 and the restore. -/
def openRestore (s : State) (e p seq : Nat) (dtk b : Bytes) (h : Hamper) : FnEnd :=
  match openSections (hamperKey dtk (fieldLe b 8 8) seq (slice b 64 16)) h.secs with
  | none => ends St.macMismatch s
  | some bodies =>
    let c := cargoOf bodies
    withQuorumOf (cargoRoster c) s e [.part 2 p] 24 24 (fun s =>
      check (cargoFits s p c) St.badFormat s
        (withAudit s e (fun s =>
          check (seenRoom s (s.part p).dpid) St.badFormat s (doRestore s p seq c))))

/-- HAMPER_RESTORE. -/
def execHamperRestore (e : Fin 69632) (dma image : Dma) (s : State) : Host.Outcome State Fault Refusal :=
  runAdmin 0xE006 e dma .own s (fun _ => true) (fun s b =>
    let p := partAtByte b 0
    let addr := fieldLe b 8 8
    let len := fieldLe b 16 8
    let s := hamperRecord s e 0 0
    check (decide (p < 2048) && allZero (slice b 4 4) && (s.part p).state == .empty && (s.part p).configured && !(s.part p).emigrated) St.badFormat s
      (match transportKey s (fieldLe b 2 2) with
      | none => ends St.keyNotFound s
      | some dtk =>
        check (addr != 0 && decide (addr + len ≤ 2 ^ 64)) St.badPointer s (withHost s false image (fun s =>
          let b := s.hostRead addr len
          let seq := fieldLe b 16 4
          let s := hamperRecord s e (fieldLe b 8 8) seq
          match parseHamper b with
          | none => ends St.badFormat s
          | some h =>
            check (hamperSigned b h) St.signatureInvalid s
              (check s.time.valid St.timeNotValid s
                (check (decide (s.time.ntime ≤ fieldLe b 40 8)) St.formatRule s
                  (check ((seenOf s (BitVec.ofNat 64 (fieldLe b 8 8))).all (fun n => decide (n < seq))) St.formatRule s
                    (openRestore s e p seq dtk b h))))))))

end Sys2Proof.Machine
end

