-- ==== Sys2Proof/Machine/SlotManage.lean ====
section
/-! DEFINITION. SLOT_MANAGE (09_granary.md R221 to R226, R229) and RESEAL_FORWARD (R227). -/

set_option linter.unusedVariables false

namespace Sys2Proof.Machine

open Sys2Proof Sys2Proof.Bits

/-! ### The request (R226) -/

/-- Fields of a SLOT_MANAGE input. -/
structure SlotReq where
  op : Nat
  owner : Nat
  slot : Nat
  part : Nat
  prot : Byte
  sel : Byte
  period : Nat
  limit : Nat
  template : Bytes
deriving DecidableEq, Repr

def slotReq (b : Bytes) : SlotReq where
  op := (byteAt b 0).toNat
  owner := (byteAt b 1).toNat
  slot := fieldLe b 2 2
  part := fieldLe b 4 2
  prot := byteAt b 6
  sel := if byteAt b 7 = 0 then 0x3F else byteAt b 7
  period := fieldLe b 8 2
  limit := fieldLe b 10 4
  template := slice b 16 32

/-- Slots of an owner class (R221). -/
def ownerRange (owner slot : Nat) : Bool :=
  match owner with
  | 1 => decide (slot < 16)
  | 2 => decide (16 ≤ slot ∧ slot < 64)
  | 3 => decide (64 ≤ slot ∧ slot < 4096)
  | _ => false

/-- Owner, slot and partition fit together, and the reserved bytes are 0. -/
def slotReqOk (r : SlotReq) (b : Bytes) : Bool :=
  ownerRange r.owner r.slot && allZero (slice b 14 2) && (if r.owner = 3 then decide (r.part < 2048) else r.part == 0)

/-- Protection byte and period within their ranges (R219); a device officer's slot has integrity (R221). -/
def protOk (r : SlotReq) : Bool :=
  decide (r.prot.toNat < 8) && r.prot.toNat % 4 != 0 && decide (1 ≤ r.period ∧ r.period ≤ 1440) &&
    (r.owner != 1 || r.prot.getLsbD 1)

/-- The algorithm of an owner's slot: 0x00 of a device officer's (R219). -/
def ownerAlg (owner : Nat) (a : Byte) : Bool := if owner = 1 then a == 0 else slotAlg a

/-- The quorum class of an owner: D2, or P0 of the partition. -/
def slotClass (r : SlotReq) : QClass := if r.owner = 3 then .part 0 r.part else .dev 2

/-- The slot belongs to the owner and partition that the request names. -/
def ownsSlot (s : State) (r : SlotReq) : Bool :=
  let x := s.slotAt r.slot
  x.live && x.owner.toNat == r.owner && (r.owner != 3 || x.part == r.part)

/-- A SLOT_MANAGE row without key block: the handle, the quorum of the owner, the fields. -/
def runSlot (e : Nat) (dma : Dma) (s : State) (mine : Nat → Bool) (act : State → SlotReq → FnEnd) : Host.Outcome State Fault Refusal :=
  runAdmin 0xE013 e dma .first s (fun b => mine (byteAt b 0).toNat) (fun s b =>
    let r := slotReq b
    check ((s.entry e).desc.handle 0 == 0 && decide (1 ≤ r.owner ∧ r.owner ≤ 3)) St.badFormat s
      (withQuorum s e [slotClass r] 48 (fun s => check (slotReqOk r b) St.badFormat s (act s r))))

/-! ### Create and import -/

/-- A counter for a use limit: none when the pool is full (R225, R226). -/
def allocCtr (s : State) (limit : Nat) : Option (Nat × State) :=
  if limit = 0 then some (0xFFFF, s)
  else
    match (List.range 512).find? (fun i => !(s.useCtr i).on) with
    | some i => some (i, s.setUseCtr i { on := true, limit := limit })
    | none => none

/-- An empty slot within the owner's quota, its protection and period allowed (R219, R221, R226). -/
def slotFree (s : State) (r : SlotReq) : Bool :=
  !(s.slotAt r.slot).live && protOk r &&
    (r.owner != 3 || (s.part r.part).configured && decide ((slotsOf s r.part).length < (s.part r.part).slotQuota))

/-- The forward copy of a slot under the pending manifest, when its sel shares a bit with the changed mask (R229). -/
def forwardNew (s : State) (idx : Nat) (sel : Byte) (key : Bytes) : Option State :=
  if s.grn.resealPending ∧ sel &&& s.grn.changed ≠ 0 then writeCopy s (declaredMeas s) idx 1 2 sel key else some s

/-- Fill an empty slot: its header, copy 0, its forward copy. -/
def fillSlot (s : State) (r : SlotReq) (t : RecSpec) (key : Bytes) : FnEnd :=
  match allocCtr s r.limit with
  | none => ends St.badFormat s
  | some (ctr, s') =>
    let k := slotForm t.alg key
    let s' := s'.setSlot r.slot {
      format := 1
      owner := BitVec.ofNat 8 r.owner
      part := r.part
      prot := r.prot
      alg := t.alg
      usage := t.usage
      mode := t.mode
      exp := t.exp
      pol := t.pol
      klen := k.length
      period := r.period
      limit := r.limit
      ctr := ctr
      nb := BitVec.ofNat 64 t.nb
      na := BitVec.ofNat 64 t.na
      high := (s.slotAt r.slot).high
      serve := 1 }
    match (writeCopy s' s'.meas r.slot 0 1 r.sel k).bind (fun t => forwardNew t r.slot r.sel k) with
    | some t => endsOk (sealHead t r.slot) 0 []
    | none => ends St.badFormat s

/-- A template without its index. -/
def attrTemplate (r : SlotReq) : Bytes := zeros 4 ++ r.template.drop 4

/-- The attributes of a request are allowed: the ranges of R70, with the algorithm byte 0x00 of a device officer's slot. -/
def attrsOk (s : State) (r : SlotReq) : Bool :=
  let t := attrTemplate r
  ownerAlg r.owner (byteAt t 4) && templateOk s r.part (if r.owner = 1 then t.take 4 ++ [Alg.aes128] ++ t.drop 5 else t)

/-- The barn whose DRBG a create draws from: the lowest that serves (log 75). -/
def createBarn (s : State) : Option Nat := (List.range 8).find? (fun d => drbgServes s d)

/-- The key of a new slot, from a DRBG: of a device officer's slot the 48 bytes of a digest (log 76). -/
def newSlotKey (s : State) (d : Nat) (alg : Byte) : Bytes × State :=
  if alg = 0 then drbgGen s d 48
  else if Alg.isSym alg then
    let (k, s) := drbgGen s d (Alg.symLen alg)
    (if Alg.isTdes alg then Pay.parity k else k, s)
  else
    let (k, _, s) := generateKey s d alg 0 0
    (k, s)

/-- Sub-operation 0x01, create: the key comes from a barn DRBG, for which the row waits while none serves. An unlisted sub-operation ends
here with BAD_FORMAT. -/
def execSlotManageCreate (e : Fin 69632) (dma : Dma) (s : State) : Host.Outcome State Fault Refusal :=
  runSlot e dma s (fun k => k = 0 || decide (5 < k) || k = 1) (fun s r =>
    let t := templateSpec (attrTemplate r)
    check (r.op == 1 && attrsOk s r && slotFree s r) St.badFormat s
      (check s.grn.present St.degraded s
        (match createBarn s with
        | some d =>
          let (k, s) := newSlotKey s d t.alg
          fillSlot s r t k
        | none => (.starved, s))))

/-- The KBPK of an import: the record that handle 0 names in the partition of bytes 4 and 5, with the checks of the key step (R46,
R62, R67). -/
def slotKbpk (s : State) (e p : Nat) : Status × Key × State :=
  let s := latchSnap s e
  let (st, k) := recordKeyOf s p ((s.entry e).desc.handle 0)
  let s := readKey s p ((s.entry e).desc.handle 0)
  if st ≠ St.ok then (st, k, s) else (keyChecks s e (KeyRole.ok (.kbpk true) k.usage k.mode k.alg) k, k, s)

/-- Debit the bucket of a KBPK and count its use (R68). -/
def debitKbpk (s : State) (p : Nat) (h : BitVec 64) : Status × State :=
  let bs := (handleBucket s p h).toList
  let s := bs.foldl refillBucket s
  if bs.any (fun i => decide ((s.bucket i).tokens < oneToken)) then (St.velocity, s)
  else
    let s := bs.foldl (fun s i => s.setBucket i { s.bucket i with tokens := (s.bucket i).tokens - oneToken }) s
    (St.ok, (handleCtr s p h).toList.foldl bumpCounter s)

/-- Length that a key block states of itself. -/
def statedLen (b : Bytes) : Nat := (KeyBlock.ofDec (slice b 1 4)).getD 0

/-- Checks 4 and 5 of R98; usage K0 of the domain transport key, which no row of the key-role table has, passes for a device key
(R283, R336; log 76). -/
def slotBlockKey (k : Key) (owner : Nat) (f : KeyBlock.Fields) : Status × Option (Byte × Bytes) :=
  if owner = 2 ∧ f.usage = use2 "K0" then
    match KeyBlock.openBlock (kbpkOf k) f with
    | none => (St.keyNotFound, none)
    | some key =>
      match KeyBlock.algOf f.alg key.length with
      | some a => if a = Alg.aes256 then (St.ok, some (a, key)) else (St.formatRule, none)
      | none => (St.formatRule, none)
  else blockKey k f

/-- Import with the block's fields: a slot for the key, or the status. -/
def importSlot (s : State) (r : SlotReq) (k : Key) (blk : Bytes) : FnEnd :=
  match blockOperand k blk with
  | (st, none) => ends st s
  | (_, some f) =>
    match slotBlockKey k r.owner f with
    | (st, none) => ends st s
    | (_, some (a, key)) =>
      check (ownerAlg r.owner a) St.formatRule s
        (fillSlot s r { templateSpec (attrTemplate r) with alg := a, usage := f.usage, mode := f.mode, exp := f.exp } key)

/-- Sub-operation 0x02, import (R98): the KBPK, its debit with the tally reservation, the quorum, the fields, the block. -/
def execSlotManageImport (e : Fin 69632) (dma : Dma) (s : State) : Host.Outcome State Fault Refusal :=
  runAdmin 0xE013 e dma .own s (fun b => byteAt b 0 == 2) (fun s b =>
    let r := slotReq b
    let n := statedLen (b.drop 48)
    let held := keyUnread s r.part ((s.entry e).desc.handle 0)
    if !held.isEmpty then (.waits, holdReads s held .warden)
    else
    let (st, k, s) := slotKbpk s e r.part
    if st ≠ St.ok then ends st s
    else
      withAudit s e (fun s =>
        check (decide (1 ≤ r.owner ∧ r.owner ≤ 3)) St.badFormat s
          (withQuorum s e [slotClass r] (48 + n) (fun s =>
            let (st, s) := debitKbpk s r.part ((s.entry e).desc.handle 0)
            if st ≠ St.ok then ends st s
            else
              check (slotReqOk r b && importTemplateOk s r.part (attrTemplate r) && slotFree s r) St.badFormat s
                (check s.grn.present St.degraded s (importSlot s r k (slice b 48 n)))))))

/-! ### Publish, change, erase -/

/-- The slot serves its key, or the status that says why not (R223, R238). -/
def slotServes (s : State) (i : Nat) : Status :=
  let x := s.slotAt i
  if x.damaged then St.keySlotDamaged else if x.serve = 0 then St.keyNotFound else St.ok

/-- Sub-operation 0x03, publish: a record under R232, its index and tag in the header; at the index it is already published at it
keeps its tag. -/
def publishSlot (s : State) (e : Nat) (r : SlotReq) : FnEnd :=
  let x := s.slotAt r.slot
  let p := x.recPart
  let idx := fieldLe r.template 0 4
  let n := recordsFor (recordForm x.alg (slotKey s r.slot)).length
  let again := x.pub && x.pubIdx == idx && fieldLe (recBytes s p idx) 14 2 == r.slot
  let s := checkSlot s r.slot
  if (s.slotAt r.slot).damaged then ends St.keySlotDamaged s
  else
    check (slotAlg x.alg && decide (idx < 2 ^ 29) && (again || indicesFree s e p idx n)) St.badFormat s
      (if again then
        let (st, h, s) := buildSlotRecord s r.slot idx (some x.pubTag)
        if st = St.ok then endsOk s h [] else ends st s
      else
        whenKeepRandom s (fun s =>
          let (st, h, s) := buildSlotRecord s r.slot idx none
          if st = St.ok then endsOk s h [] else ends st s))

def execSlotManagePublish (e : Fin 69632) (dma : Dma) (s : State) : Host.Outcome State Fault Refusal :=
  runSlot e dma s (· = 3) (fun s r =>
    check (ownsSlot s r) St.badFormat s
      (check (s.grn.present && s.grn.recKey.isSome) St.degraded s
        (let st := slotServes s r.slot
        if st ≠ St.ok then ends st s else publishSlot s e r)))

/-- A bound that may only narrow: 0 is no bound. -/
def narrowsLow (old new : Nat) : Bool := decide (old ≤ new)
def narrowsHigh (old new : Nat) : Bool := old == 0 || (new != 0 && decide (new ≤ old))

/-- The directions of R224, and the ranges of the protection byte and the period. -/
def changeOk (s : State) (x : Slot) (r : SlotReq) (t : RecSpec) : Bool :=
  let old := KeyRole.rolesOf x.usage x.mode x.alg
  let new := KeyRole.rolesOf t.usage t.mode x.alg
  let keep := t.usage == x.usage && t.mode == x.mode
  protOk r && t.alg == x.alg && (keep || (!new.isEmpty && new.all (fun a => old.contains a))) &&
    narrowsLow x.nb.toNat t.nb && narrowsHigh x.na.toNat t.na &&
    (if x.limit = 0 then r.limit == 0 else decide ((s.useCtr x.ctr).live ≤ r.limit ∧ r.limit ≤ x.limit ∧ r.limit ≠ 0)) &&
    decide (KeyBlock.expRank t.exp ≤ KeyBlock.expRank x.exp) && r.prot.toNat / 4 == x.prot.toNat / 4

/-- Copy MACs as the protection byte asks for them. -/
def remac (s : State) (i : Nat) : State :=
  let x := s.slotAt i
  let fix (x : Slot) (n : Nat) : Slot :=
    let c := x.copy n
    if c.state = 0 then x
    else x.setCopy n { c with mac := if x.integrity then copyMac (copyKey s s.meas i c) i c else 0 }
  let x := fix (fix x 0) 1
  sealHead (s.setSlot i { x with hmac := if x.integrity then x.hmac else 0 }) i

/-- Sub-operation 0x04, change (R224): row 0 with a new header MAC, and the record published again. -/
def execSlotManageChange (e : Fin 69632) (dma : Dma) (s : State) : Host.Outcome State Fault Refusal :=
  runSlot e dma s (· = 4) (fun s r =>
    let x := s.slotAt r.slot
    let t := templateSpec (attrTemplate r)
    let sel := (x.copy (x.serve - 1)).sel
    check (ownsSlot s r && attrsOk s r && x.copy0.state != 2 && x.copy1.state != 2) St.badFormat s
      (let st := slotServes s r.slot
      if st ≠ St.ok then ends st s
      else
        check (changeOk s x r t && (r.sel == sel || r.sel == 0x3F)) St.formatRule s
          (let s := s.setSlot r.slot { x with
            prot := r.prot
            usage := t.usage
            mode := t.mode
            exp := t.exp
            pol := t.pol
            period := r.period
            limit := r.limit
            nb := BitVec.ofNat 64 t.nb
            na := BitVec.ofNat 64 t.na }
          let s := if x.ctr = 0xFFFF then s else s.setUseCtr x.ctr { s.useCtr x.ctr with limit := r.limit }
          let s := remac s r.slot
          if !x.pub then endsOk s 0 []
          else
            let (st, _, s) := buildSlotRecord (uwcInvalidate s x.recPart x.pubIdx) r.slot x.pubIdx (some x.pubTag)
            if st = St.ok then endsOk s 0 [] else ends st s)))

/-- Sub-operation 0x05, erase: the slot, its counter, its record and the record's cache entries. -/
def execSlotManageErase (e : Fin 69632) (dma : Dma) (s : State) : Host.Outcome State Fault Refusal :=
  runSlot e dma s (· = 5) (fun s r =>
    let x := s.slotAt r.slot
    let s' := if x.pub ∧ fieldLe (recBytes s x.recPart x.pubIdx) 14 2 = r.slot then deleteKey s x.recPart x.pubIdx else s
    check (ownsSlot s r) St.badFormat s (endsOk (eraseSlot s' r.slot) 0 []))

/-! ### Manifests (R227, R369) -/

/-- Length of a manifest. -/
def manifestLen (b : Bytes) : Nat := 32 + 48 * ((List.range 8).filter (fun i => (byteAt b 8).getLsbD i)).length + 96

/-- The declared value of register i, for a changed register. -/
def manifestValue (b : Bytes) (i : Nat) : BitVec 384 :=
  digest384 (slice b (32 + 48 * ((List.range i).filter (fun j => (byteAt b 8).getLsbD j)).length) 48)

/-- Magic, format, reserved bytes, and bits 6 and 7 of the mask. -/
def manifestForm (b : Bytes) : Bool :=
  b.take 4 == ascii "KMNF" && fieldLe b 4 2 == 1 && decide ((byteAt b 8).toNat < 64) && allZero (slice b 9 3) &&
    allZero (slice b 24 8) && b.length == manifestLen b

/-- It verifies under Masidric's image key when bit 0 of the mask is set, and otherwise under an OEM root. -/
def manifestSigned (s : State) (b : Bytes) : Bool :=
  if (byteAt b 8).getLsbD 0 then byteAt b 6 == 1 && signedBy (some Config.imageKey) b
  else byteAt b 6 == 2 && signedBy (imageRoot s (byteAt b 7).toNat) b

/-- Its security versions are at least the OTP counters. -/
def manifestVersions (s : State) (b : Bytes) : Bool :=
  decide (s.lc.otp.revScr ≤ fieldLe b 12 4) && decide (s.lc.otp.revFw ≤ fieldLe b 16 4) && decide (s.lc.otp.revMicro ≤ fieldLe b 20 4)

/-- Declared values by register. -/
def manifestDeclared (b : Bytes) : Map (BitVec 384) :=
  (List.range 8).foldl (fun (m : Map (BitVec 384)) i =>
    if (byteAt b 8).getLsbD i then Map.set 0 m i (manifestValue b i) else m) []

/-! ### RESEAL_FORWARD (R227) -/

/-- Erase every forward copy. -/
def dropForward (s : State) : State :=
  (liveSlots s).foldl (fun s i =>
    let x := s.slotAt i
    let x := if x.copy0.state = 2 then { x with copy0 := {} } else x
    let x := if x.copy1.state = 2 then { x with copy1 := {} } else x
    s.setSlot i x) s

/-- A slot whose sel shares a bit with the mask. -/
def selShares (x : Slot) (mask : Byte) : Bool :=
  (x.copy0.state != 0 && x.copy0.sel &&& mask != 0) || (x.copy1.state != 0 && x.copy1.sel &&& mask != 0)

/-- A slot that RESEAL_FORWARD writes, and one of these that takes no further copy (R220, R227). -/
def resealsSlot (s : State) (mask : Byte) (i : Nat) : Bool :=
  let x := s.slotAt i
  selShares x mask && !x.damaged && x.serve != 0
def resealStuck (s : State) (mask : Byte) : Bool :=
  (liveSlots s).any (fun i => resealsSlot s mask i && (s.slotAt i).high == 0xFFFFFFFF)

/-- Write one slot's forward copy: the state and whether it was written. -/
def resealSlot (s : State) (i : Nat) : Bool × State :=
  let x := s.slotAt i
  if x.damaged ∨ x.serve = 0 then (false, s)
  else
    let c := x.copy (x.serve - 1)
    match writeCopy s (declaredMeas s) i (2 - x.serve) 2 c.sel (slotKey s i) with
    | some s => (true, sealHead s i)
    | none => (false, s)

/-- RESEAL_FORWARD. Where a slot to be written takes no further copy, nothing is written (log 106). -/
def execResealForward (e : Fin 69632) (dma : Dma) (s : State) : Host.Outcome State Fault Refusal :=
  runAdmin 0xE050 e dma .own s (fun _ => true) (fun s b =>
    let n := manifestLen b
    let m := b.take n
    let mask := byteAt b 8
    withQuorum s e [.dev 3] n (fun s =>
      check (manifestForm m && manifestSigned s m && manifestVersions s m) St.formatRule s
        (withAudit s e (fun s =>
          if mask = 0 then
            let s := dropForward s
            endsOk { s with grn := { s.grn with changed := 0, resealPending := false, declared := [] } } 0 []
          else if resealStuck s mask then ends St.badFormat s
          else
            let s := { s with grn := { s.grn with changed := mask, resealPending := true, declared := manifestDeclared m } }
            let (w, k, s) := ((liveSlots s).filter (fun i => selShares (s.slotAt i) mask)).foldl
              (fun (acc : Nat × Nat × State) i =>
                let (ok, s) := resealSlot acc.2.2 i
                if ok then (acc.1 + 1, acc.2.1, s) else (acc.1, acc.2.1 + 1, s)) (0, 0, s)
            endsOk s (BitVec.ofNat 64 (w + k * 2 ^ 16)) []))))

end Sys2Proof.Machine
end

