-- ==== Sys2Proof/Machine/Images.lean ====
section
/-! DEFINITION. IMAGE_INSTALL: image sets, scarecrow configuration records, revision commits (17_boot_attestation.md R358, R369, R370;
14_scarecrow_tamper.md R318, R319). -/

set_option linter.unusedVariables false

namespace Sys2Proof.Machine

open Sys2Proof Sys2Proof.Bits

/-! ### Image sets (R358) -/

namespace ImageSet

def count (b : Bytes) : Nat := fieldLe b 6 2
def entry (b : Bytes) (k : Nat) : Bytes := slice b (64 + 16 * k) 16
def entries (b : Bytes) : List Bytes := (List.range (count b)).map (entry b)
def component (b e : Bytes) : Bytes := slice b (fieldLe e 4 4) (fieldLe e 8 4)
def components (b : Bytes) : List Bytes := (entries b).map (component b)

/-- Type that entry k must have. -/
def typeAt (k : Nat) : Nat := if k < 3 then k + 1 else 4

/-- Set header and component table. -/
def formOk (b : Bytes) : Bool :=
  b.take 4 == ascii "KSET" && fieldLe b 4 2 == 1 && decide (3 ≤ count b ∧ count b ≤ 67) && decide (1 ≤ fieldLe b 8 4) &&
    fieldLe b 12 4 == b.length && allZero (slice b 16 48) && decide (64 + 16 * count b ≤ b.length) &&
    ((List.range (count b)).zip (entries b)).all (fun x =>
      (byteAt x.2 0).toNat == typeAt x.1 && allZero (slice x.2 1 3) && allZero (slice x.2 12 4) &&
        decide (64 + 16 * count b ≤ fieldLe x.2 4 4 ∧ fieldLe x.2 4 4 + fieldLe x.2 8 4 ≤ b.length))

def scare (b : Bytes) : Bytes := (components b).getD 0 []
def firmware (b : Bytes) : Bytes := (components b).getD 1 []
def manifest (b : Bytes) : Bytes := (components b).getD 2 []
def banks (b : Bytes) : List Bytes := (components b).drop 3

/-- Every component is well formed and its signature verifies. -/
def signed (s : State) (b : Bytes) : Bool :=
  imageForm true (scare b) && signedBy (some Config.imageKey) (scare b) && imageForm false (firmware b) &&
    signedBy (imageRoot s (byteAt (firmware b) 6).toNat) (firmware b) && manifestForm (manifest b) && manifestSigned s (manifest b) &&
    (banks b).all (fun x => BankImage.formOk x && BankImage.sizesOk x && signedBy (imageRoot s (fieldLe x 8 1)) x)

/-- Every security version is at least its OTP counter. -/
def versionsOk (s : State) (b : Bytes) : Bool :=
  decide (s.lc.otp.revScr ≤ imgVersion (scare b)) && decide (s.lc.otp.revFw ≤ imgVersion (firmware b)) &&
    (banks b).all (fun x => decide (s.lc.otp.revMicro ≤ fieldLe x 12 4)) && manifestVersions s (manifest b)

/-- A register extended from zero by digests. -/
def extended (ds : List Bytes) : BitVec 384 := ds.foldl (fun v d => digest384 (Hash.sha384 (digestBytes v ++ d))) 0

/-- MEAS_i, i from 0 to 5, that a boot of the set gives (R216). -/
def meas (b : Bytes) (i : Nat) : BitVec 384 :=
  if i = 0 then extended [signedDigest (scare b)]
  else if i = 1 then extended [signedDigest (firmware b)]
  else extended (((banks b).filter (fun x => fieldLe x 6 1 == i - 2)).map signedDigest)

/-- The manifest declares what the set gives. -/
def measOk (s : State) (b : Bytes) : Bool :=
  let m := manifest b
  (List.range 6).all (fun i => meas b i == (if (byteAt m 8).getLsbD i then manifestValue m i else s.meas i))

/-- No live slot selects a changed register, or the change is pending as declared (R227). -/
def slotsOk (s : State) (b : Bytes) : Bool :=
  let m := manifest b
  let mask := byteAt m 8
  !(liveSlots s).any (fun i => selShares (s.slotAt i) mask) ||
    (s.grn.resealPending && s.grn.changed == mask && s.grn.declared == manifestDeclared m)

/-- The bank the set becomes. -/
def bank (b : Bytes) (seq : Word) : BootBank where
  valid := true
  seq := seq
  attempts := 0
  good := false
  types := (entries b).map (fun x => (byteAt x 0).toNat)
  images := components b

end ImageSet

/-- Write the inactive bank: the one not booted in this boot. -/
def writeInactive (s : State) (x : BootBank) : State :=
  if s.boot.bankB then { s with boot := { s.boot with bankA := x } } else { s with boot := { s.boot with bankBSet := x } }

/-- Sub-operation 0x01, an image set. An unlisted sub-operation ends here with BAD_FORMAT. -/
def execImageInstallSet (e : Fin 69632) (dma image : Dma) (s : State) : Host.Outcome State Fault Refusal :=
  runAdmin 0xE051 e dma .own s (fun b => byteAt b 0 != 2 && byteAt b 0 != 3) (fun s b =>
    withQuorum s e [.dev 3] 68 (fun s =>
      let addr := fieldLe b 8 8
      let len := fieldLe b 16 4
      check (byteAt b 0 == 1 && allZero (slice b 1 7) && decide (len ≤ 0x1000000)) St.badFormat s
        (check (addr != 0 && decide (addr + len ≤ 2 ^ 64)) St.badPointer s (withHost s false image (fun s =>
          let set := s.hostRead addr len
          check (ImageSet.formOk set && Hash.sha384 set == slice b 20 48) St.badFormat s
            (check (ImageSet.signed s set) St.signatureInvalid s
              (check (ImageSet.versionsOk s set && ImageSet.measOk s set && ImageSet.slotsOk s set) St.formatRule s
                (withAudit s e (fun s =>
                  let seq := (bootedBank s).seq + 1
                  endsOk (writeInactive s (ImageSet.bank set seq)) (BitVec.ofNat 64 seq.toNat) [])))))))))

/-! ### The scarecrow configuration record (R318, R319) -/

/-- Codes that a threshold entry may name. -/
def cfgCodes : List Nat := [0, 1, 2, 3, 4, 5, 8, 9]

/-- Magic, format, reserved bytes and value ranges. An entry of zeros is no entry. -/
def cfgForm (r : Bytes) : Bool :=
  let trim := (BitVec.ofNat 16 (fieldLe r 26 2)).toInt
  let codes := (cfgEntries r).map (·.1)
  r.take 4 == ascii "SCFG" && fieldLe r 4 2 == 1 && decide ((byteAt r 6).toNat < 4) && byteAt r 7 == 0 &&
    decide (4 ≤ fieldLe r 20 2 ∧ fieldLe r 20 2 ≤ 250) && decide ((byteAt r 22).toNat < 16) && byteAt r 23 == 0 &&
    decide (85 ≤ (byteAt r 24).toNat ∧ (byteAt r 24).toNat ≤ 105) && byteAt r 25 == 0 && decide (-200 ≤ trim ∧ trim ≤ 200) &&
    allZero (slice r 28 4) && codes.all (fun c => cfgCodes.contains c) && decide codes.Nodup &&
    (cfgEntries r).all (fun x => decide (1 ≤ x.2.1 ∧ x.2.1 ≤ 8)) && (List.range 8).all (fun i => allZero (slice r (38 + 8 * i) 2))

/-- Sequence of the stored record: SCR_CFG.sequence. -/
def cfgSeq (s : State) : Nat := fieldLe (s.scr.cfg.getD []) 16 4

/-- Every entry is no wider than its channel's limits, and every enabled pair stays enabled. -/
def cfgNarrows (s : State) (r : Bytes) : Bool :=
  (cfgEntries r).all (fun x =>
    let c := s.chan x.1
    decide (c.low ≤ x.2.2.1 ∧ x.2.2.2 ≤ c.high ∧ x.2.1 ≤ c.n)) &&
    s.scr.meshEn &&& ~~~(BitVec.ofNat 4 (byteAt r 22).toNat) == 0

/-- Reason and status of the first check that fails. -/
def cfgJudge (s : State) (e : Nat) (r : Bytes) : Nat × Status :=
  if !cfgForm r then (1, St.badFormat)
  else if !signedBy (tokenKey s 2 (byteAt r 6).toNat) r then (2, St.signatureInvalid)
  else if fieldLe r 8 8 ≠ 0 ∧ fieldLe r 8 8 ≠ Config.unitSerial.toNat then (3, St.badFormat)
  else if fieldLe r 16 4 ≤ cfgSeq s then (4, St.formatRule)
  else if !cfgNarrows s r then (5, St.formatRule)
  else if !(s.entry e).tally.held then (6, St.auditFull)
  else (0, St.ok)

/-- Set SCR_CFG_STATUS, and the page's interrupt bit for a configuration applied or refused (R325). -/
def setCfgStatus (s : State) (reason : Nat) : State :=
  setInt { s with scr := { s.scr with cfgReason := reason, cfgApplied := reason == 0 } } scrPage (if reason = 0 then 2 else 3)

/-- An accepted record replaces the stored one and applies at once, with an EVENT record and a tally entry. -/
def acceptCfg (s : State) (r : Bytes) : State :=
  let s := applyCfg s r
  let s := histEvent { s with scr := { s.scr with cfg := some r } } 0 evConfig 0
  Tal.post s { code := 0x0009, data := slice r 16 4 }

/-- Sub-operation 0x02, a scarecrow configuration record. -/
def execImageInstallScarecrowConfig (e : Fin 69632) (dma : Dma) (s : State) : Host.Outcome State Fault Refusal :=
  runAdmin 0xE051 e dma .own s (fun b => byteAt b 0 == 2) (fun s b =>
    withQuorum s e [.dev 3] 260 (fun s =>
      check (allZero (slice b 1 67)) St.badFormat s
        (let r := slice b 68 192
        let (reason, st) := cfgJudge s e r
        let s := setCfgStatus s reason
        if reason = 0 then endsOk (acceptCfg s r) 0 [] else ends st s)))

/-! ### Revisions (R370) -/

/-- Security versions that the running set declares. -/
def declaredRevs (s : State) : List Nat :=
  let m := (bootedBank s).image 2
  [fieldLe m 12 4, fieldLe m 16 4, fieldLe m 20 4]

/-- Raise the three counters; none is lowered. -/
def raiseRevs (s : State) : State :=
  let v := declaredRevs s
  s.modOtp (fun o => { o with
    revScr := max o.revScr (v.getD 0 0)
    revFw := max o.revFw (v.getD 1 0)
    revMicro := max o.revMicro (v.getD 2 0) })

/-- Sub-operation 0x03, commit revisions. -/
def execImageInstallCommitRevisions (e : Fin 69632) (dma : Dma) (s : State) : Host.Outcome State Fault Refusal :=
  runAdmin 0xE051 e dma .first s (fun b => byteAt b 0 == 3) (fun s b =>
    withQuorum s e [.dev 3] 68 (fun s =>
      check (allZero (slice b 1 67)) St.badFormat s
        (check (!s.boot.fallback && (declaredRevs s).all (fun v => decide (v ≤ 1024))) St.formatRule s
          (endsOk (raiseRevs s) 0 []))))

end Sys2Proof.Machine
end

