-- ==== Sys2Proof/Machine/KxAlu.lean ====
section
/-! DEFINITION. Knatrix word, decimal and immediate instructions, loads and stores (06_knatrix_isa.md R163, R164, R168, R170). -/

set_option linter.unusedVariables false

namespace Sys2Proof.Machine

open Sys2Proof Sys2Proof.Bits

/-! ### Word instructions -/

/-- ADD (R163): modulo 2^32, without OVF (R168). -/
def execKxAdd (c : CoreId) (rd ra rb : Fin 32) (s : State) : Host.Outcome State Fault Refusal :=
  done (toReg s c rd (fun x => x.getW ra + x.getW rb))

/-- SUB (R163). -/
def execKxSub (c : CoreId) (rd ra rb : Fin 32) (s : State) : Host.Outcome State Fault Refusal :=
  done (toReg s c rd (fun x => x.getW ra - x.getW rb))

/-- AND (R163). -/
def execKxAnd (c : CoreId) (rd ra rb : Fin 32) (s : State) : Host.Outcome State Fault Refusal :=
  done (toReg s c rd (fun x => x.getW ra &&& x.getW rb))

/-- OR (R163). -/
def execKxOr (c : CoreId) (rd ra rb : Fin 32) (s : State) : Host.Outcome State Fault Refusal :=
  done (toReg s c rd (fun x => x.getW ra ||| x.getW rb))

/-- XOR (R163). -/
def execKxXor (c : CoreId) (rd ra rb : Fin 32) (s : State) : Host.Outcome State Fault Refusal :=
  done (toReg s c rd (fun x => x.getW ra ^^^ x.getW rb))

/-- ANDN (R163): ra AND NOT rb. -/
def execKxAndn (c : CoreId) (rd ra rb : Fin 32) (s : State) : Host.Outcome State Fault Refusal :=
  done (toReg s c rd (fun x => x.getW ra &&& ~~~(x.getW rb)))

/-- SHL (R163): by rb[4:0]. -/
def execKxShl (c : CoreId) (rd ra rb : Fin 32) (s : State) : Host.Outcome State Fault Refusal :=
  done (toReg s c rd (fun x => Kx.shift 0 (x.getW ra) ((x.getW rb).toNat % 32)))

/-- SHR (R163): by rb[4:0]. -/
def execKxShr (c : CoreId) (rd ra rb : Fin 32) (s : State) : Host.Outcome State Fault Refusal :=
  done (toReg s c rd (fun x => Kx.shift 1 (x.getW ra) ((x.getW rb).toNat % 32)))

/-- SRA (R163): by rb[4:0]. -/
def execKxSra (c : CoreId) (rd ra rb : Fin 32) (s : State) : Host.Outcome State Fault Refusal :=
  done (toReg s c rd (fun x => Kx.shift 2 (x.getW ra) ((x.getW rb).toNat % 32)))

/-- ROL (R163): by rb[4:0]. -/
def execKxRol (c : CoreId) (rd ra rb : Fin 32) (s : State) : Host.Outcome State Fault Refusal :=
  done (toReg s c rd (fun x => Kx.shift 3 (x.getW ra) ((x.getW rb).toNat % 32)))

/-- SLT (R163): signed. -/
def execKxSlt (c : CoreId) (rd ra rb : Fin 32) (s : State) : Host.Outcome State Fault Refusal :=
  done (toReg s c rd (fun x => Kx.bool (Kx.slt (x.getW ra) (x.getW rb))))

/-- SLTU (R163): unsigned. -/
def execKxSltu (c : CoreId) (rd ra rb : Fin 32) (s : State) : Host.Outcome State Fault Refusal :=
  done (toReg s c rd (fun x => Kx.bool (Kx.sltu (x.getW ra) (x.getW rb))))

/-- MIN (R163): signed. -/
def execKxMin (c : CoreId) (rd ra rb : Fin 32) (s : State) : Host.Outcome State Fault Refusal :=
  done (toReg s c rd (fun x => if Kx.slt (x.getW ra) (x.getW rb) then x.getW ra else x.getW rb))

/-- MAX (R163): signed. -/
def execKxMax (c : CoreId) (rd ra rb : Fin 32) (s : State) : Host.Outcome State Fault Refusal :=
  done (toReg s c rd (fun x => if Kx.slt (x.getW ra) (x.getW rb) then x.getW rb else x.getW ra))

/-- MINU (R163): unsigned. -/
def execKxMinu (c : CoreId) (rd ra rb : Fin 32) (s : State) : Host.Outcome State Fault Refusal :=
  done (toReg s c rd (fun x => if Kx.sltu (x.getW ra) (x.getW rb) then x.getW ra else x.getW rb))

/-- MAXU (R163): unsigned. -/
def execKxMaxu (c : CoreId) (rd ra rb : Fin 32) (s : State) : Host.Outcome State Fault Refusal :=
  done (toReg s c rd (fun x => if Kx.sltu (x.getW ra) (x.getW rb) then x.getW rb else x.getW ra))

/-- ADDQ (R168): the Q1.31 sum, clamped with saturation on; OVF when out of range. -/
def execKxAddq (c : CoreId) (rd ra rb : Fin 32) (s : State) : Host.Outcome State Fault Refusal :=
  done (toRegOvf s c rd (fun x => Kx.limit 32 x.sat ((x.getW ra).toInt + (x.getW rb).toInt)))

/-- SUBQ (R168). -/
def execKxSubq (c : CoreId) (rd ra rb : Fin 32) (s : State) : Host.Outcome State Fault Refusal :=
  done (toRegOvf s c rd (fun x => Kx.limit 32 x.sat ((x.getW ra).toInt - (x.getW rb).toInt)))

/-- NEGQ (R168). -/
def execKxNegq (c : CoreId) (rd ra : Fin 32) (s : State) : Host.Outcome State Fault Refusal :=
  done (toRegOvf s c rd (fun x => Kx.limit 32 x.sat (-(x.getW ra).toInt)))

/-- ABSQ (R168). -/
def execKxAbsq (c : CoreId) (rd ra : Fin 32) (s : State) : Host.Outcome State Fault Refusal :=
  done (toRegOvf s c rd (fun x => Kx.limit 32 x.sat (((x.getW ra).toInt.natAbs : Int))))

/-- CLZ (R163). -/
def execKxClz (c : CoreId) (rd ra : Fin 32) (s : State) : Host.Outcome State Fault Refusal :=
  done (toReg s c rd (fun x => Kx.clz (x.getW ra)))

/-- POPC (R163). -/
def execKxPopc (c : CoreId) (rd ra : Fin 32) (s : State) : Host.Outcome State Fault Refusal :=
  done (toReg s c rd (fun x => Kx.popc (x.getW ra)))

/-! ### Decimal instructions -/

/-- BCDADD (R170): eight packed digits modulo 10^8. -/
def execKxBcdadd (c : CoreId) (rd ra rb : Fin 32) (s : State) : Host.Outcome State Fault Refusal :=
  done (toReg s c rd (fun x => Kx.bcdAdd (x.getW ra) (x.getW rb)))

/-- BCDSUB (R170): the ten's complement when rb > ra. -/
def execKxBcdsub (c : CoreId) (rd ra rb : Fin 32) (s : State) : Host.Outcome State Fault Refusal :=
  done (toReg s c rd (fun x => Kx.bcdSub (x.getW ra) (x.getW rb)))

/-- DADD (R170): per nibble, no carry. -/
def execKxDadd (c : CoreId) (rd ra rb : Fin 32) (s : State) : Host.Outcome State Fault Refusal :=
  done (toReg s c rd (fun x => Kx.nibWord false (x.getW ra) (x.getW rb)))

/-- DSUB (R170). -/
def execKxDsub (c : CoreId) (rd ra rb : Fin 32) (s : State) : Host.Outcome State Fault Refusal :=
  done (toReg s c rd (fun x => Kx.nibWord true (x.getW ra) (x.getW rb)))

/-- BCD2BIN (R170). -/
def execKxBcd2bin (c : CoreId) (rd ra : Fin 32) (s : State) : Host.Outcome State Fault Refusal :=
  done (toReg s c rd (fun x => Kx.bcdToBin (x.getW ra)))

/-- BIN2BCD (R170). -/
def execKxBin2bcd (c : CoreId) (rd ra : Fin 32) (s : State) : Host.Outcome State Fault Refusal :=
  done (toReg s c rd (fun x => Kx.binToBcd (x.getW ra)))

/-- BCDCHK (R163). -/
def execKxBcdchk (c : CoreId) (rd ra : Fin 32) (s : State) : Host.Outcome State Fault Refusal :=
  done (toReg s c rd (fun x => Kx.bool (Kx.isBcd (x.getW ra))))

/-- DT belongs to a TU and to Knatrix-W: on the S variant the instructions that use it are undefined (R159; log 54). -/
def withDt (s : State) (c : CoreId) (f : Core → Core) : State :=
  issue s c (fun s x => if c = .scarecrow then kxFault s c .undefined else s.setCore c.num (f x).next)

/-- DTLOOK (R170): each nibble replaced by its DT nibble. -/
def execKxDtlook (c : CoreId) (rd ra : Fin 32) (s : State) : Host.Outcome State Fault Refusal :=
  done (withDt s c (fun x => x.setW rd (Kx.dtLook x.dt (x.getW ra))))

/-- DTSET (R163): bytes 0 to 3 from ra, 4 to 7 from rb. -/
def execKxDtset (c : CoreId) (ra rb : Fin 32) (s : State) : Host.Outcome State Fault Refusal :=
  done (withDt s c (fun x => { x with dt := (x.getW rb) ++ (x.getW ra), dtLoaded := true }))

/-! ### Immediates -/

/-- ADDI (R161, R163): the immediate sign-extended. -/
def execKxAddi (c : CoreId) (rd ra : Fin 32) (imm : BitVec 16) (s : State) : Host.Outcome State Fault Refusal :=
  done (toReg s c rd (fun x => x.getW ra + imm.signExtend 32))

/-- ANDI (R161): the immediate zero-extended. -/
def execKxAndi (c : CoreId) (rd ra : Fin 32) (imm : BitVec 16) (s : State) : Host.Outcome State Fault Refusal :=
  done (toReg s c rd (fun x => x.getW ra &&& imm.setWidth 32))

/-- ORI (R161). -/
def execKxOri (c : CoreId) (rd ra : Fin 32) (imm : BitVec 16) (s : State) : Host.Outcome State Fault Refusal :=
  done (toReg s c rd (fun x => x.getW ra ||| imm.setWidth 32))

/-- XORI (R161). -/
def execKxXori (c : CoreId) (rd ra : Fin 32) (imm : BitVec 16) (s : State) : Host.Outcome State Fault Refusal :=
  done (toReg s c rd (fun x => x.getW ra ^^^ imm.setWidth 32))

/-- LUI (R163). -/
def execKxLui (c : CoreId) (rd : Fin 32) (imm : BitVec 16) (s : State) : Host.Outcome State Fault Refusal :=
  done (toReg s c rd (fun x => imm.setWidth 32 <<< 16))

/-- SHI (R163): kind 0 SHL, 1 SHR, 2 SRA, 3 ROL. -/
def execKxShi (c : CoreId) (rd ra : Fin 32) (kind : BitVec 2) (amt : BitVec 5) (s : State) : Host.Outcome State Fault Refusal :=
  done (toReg s c rd (fun x => Kx.shift kind.toNat (x.getW ra) amt.toNat))

/-- SLTI (R163). -/
def execKxSlti (c : CoreId) (rd ra : Fin 32) (imm : BitVec 16) (s : State) : Host.Outcome State Fault Refusal :=
  done (toReg s c rd (fun x => Kx.bool (Kx.slt (x.getW ra) (imm.signExtend 32))))

/-- SLTIU (R161, R163): the sign-extended immediate compared as unsigned. -/
def execKxSltiu (c : CoreId) (rd ra : Fin 32) (imm : BitVec 16) (s : State) : Host.Outcome State Fault Refusal :=
  done (toReg s c rd (fun x => Kx.bool (Kx.sltu (x.getW ra) (imm.signExtend 32))))

/-! ### Loads and stores -/

/-- LDW (R164). -/
def execKxLdw (c : CoreId) (rd ra : Fin 32) (imm : BitVec 16) (s : State) : Host.Outcome State Fault Refusal :=
  done (load s c rd ra imm 4 (BitVec.ofNat 32))

/-- LDH (R163): zero-extended. -/
def execKxLdh (c : CoreId) (rd ra : Fin 32) (imm : BitVec 16) (s : State) : Host.Outcome State Fault Refusal :=
  done (load s c rd ra imm 2 (BitVec.ofNat 32))

/-- LDHS (R163): sign-extended. -/
def execKxLdhs (c : CoreId) (rd ra : Fin 32) (imm : BitVec 16) (s : State) : Host.Outcome State Fault Refusal :=
  done (load s c rd ra imm 2 (fun v => (BitVec.ofNat 16 v).signExtend 32))

/-- LDB (R163): zero-extended. -/
def execKxLdb (c : CoreId) (rd ra : Fin 32) (imm : BitVec 16) (s : State) : Host.Outcome State Fault Refusal :=
  done (load s c rd ra imm 1 (BitVec.ofNat 32))

/-- LDBS (R163): sign-extended. -/
def execKxLdbs (c : CoreId) (rd ra : Fin 32) (imm : BitVec 16) (s : State) : Host.Outcome State Fault Refusal :=
  done (load s c rd ra imm 1 (fun v => (BitVec.ofNat 8 v).signExtend 32))

/-- STW (R164). -/
def execKxStw (c : CoreId) (rs ra : Fin 32) (imm : BitVec 16) (s : State) : Host.Outcome State Fault Refusal :=
  done (store s c rs ra imm 4)

/-- STH (R164). -/
def execKxSth (c : CoreId) (rs ra : Fin 32) (imm : BitVec 16) (s : State) : Host.Outcome State Fault Refusal :=
  done (store s c rs ra imm 2)

/-- STB (R164). -/
def execKxStb (c : CoreId) (rs ra : Fin 32) (imm : BitVec 16) (s : State) : Host.Outcome State Fault Refusal :=
  done (store s c rs ra imm 1)

end Sys2Proof.Machine
end

