-- ==== Sys2Proof/Machine/KxFlow.lean ====
section
/-! DEFINITION. Knatrix control flow, hardware loops, the multiplier and the accumulators (06_knatrix_isa.md R164 to R169). -/

set_option linter.unusedVariables false

namespace Sys2Proof.Machine

open Sys2Proof Sys2Proof.Bits

/-! ### Control flow -/

/-- A conditional branch to own address + 4 x off (R163, R164). -/
def branch (s : State) (c : CoreId) (ra rb : Fin 32) (off : BitVec 16) (p : Word → Word → Bool) : State :=
  issue s c (fun s x =>
    s.setCore c.num (if p (x.getW ra) (x.getW rb) then x.jump (x.target off.toInt) else x.next))

/-- BEQ (R163). -/
def execKxBeq (c : CoreId) (ra rb : Fin 32) (off : BitVec 16) (s : State) : Host.Outcome State Fault Refusal :=
  done (branch s c ra rb off (fun a b => a == b))

/-- BNE (R163). -/
def execKxBne (c : CoreId) (ra rb : Fin 32) (off : BitVec 16) (s : State) : Host.Outcome State Fault Refusal :=
  done (branch s c ra rb off (fun a b => a != b))

/-- BLT (R163). -/
def execKxBlt (c : CoreId) (ra rb : Fin 32) (off : BitVec 16) (s : State) : Host.Outcome State Fault Refusal :=
  done (branch s c ra rb off (Kx.slt))

/-- BGE (R163). -/
def execKxBge (c : CoreId) (ra rb : Fin 32) (off : BitVec 16) (s : State) : Host.Outcome State Fault Refusal :=
  done (branch s c ra rb off (fun a b => !Kx.slt a b))

/-- BLTU (R163). -/
def execKxBltu (c : CoreId) (ra rb : Fin 32) (off : BitVec 16) (s : State) : Host.Outcome State Fault Refusal :=
  done (branch s c ra rb off (Kx.sltu))

/-- BGEU (R163). -/
def execKxBgeu (c : CoreId) (ra rb : Fin 32) (off : BitVec 16) (s : State) : Host.Outcome State Fault Refusal :=
  done (branch s c ra rb off (fun a b => !Kx.sltu a b))

/-- JMP (R163). -/
def execKxJmp (c : CoreId) (off : BitVec 26) (s : State) : Host.Outcome State Fault Refusal :=
  done (issue s c (fun s x => s.setCore c.num (x.jump (x.target off.toInt))))

/-- Entries of the return stack (R159). -/
def rstackSize (c : CoreId) : Nat := if c = .scarecrow then 8 else 16

/-- CALL (R163, R164): the return address is pushed; a full stack faults. -/
def execKxCall (c : CoreId) (off : BitVec 26) (s : State) : Host.Outcome State Fault Refusal :=
  done (issue s c (fun s x =>
    if rstackSize c ≤ x.rstack.length then kxFault s c .rstack
    else s.setCore c.num (({ x with rstack := (x.pc + 4) :: x.rstack }).jump (x.target off.toInt))))

/-- RET (R164): an empty stack faults. -/
def execKxRet (c : CoreId) (s : State) : Host.Outcome State Fault Refusal :=
  done (issue s c (fun s x =>
    match x.rstack with
    | [] => kxFault s c .rstack
    | t :: r => s.setCore c.num (({ x with rstack := r }).jump t)))

/-- Begin a hardware loop of `n` instructions after this one (R164): a count of 0 goes on as after the body, and a fifth level
faults. -/
def loopStart (s : State) (c : CoreId) (x : Core) (n count : Nat) : State :=
  let last := x.pc + 4 * n
  if count = 0 then s.setCore c.num (x.nextFrom last)
  else if 4 ≤ x.lstack.length then kxFault s c .lstack
  else
    s.setCore c.num { x with
      pc := x.pc + 4
      lstack := { first := x.pc + 4, last := last, left := count } :: x.lstack }

/-- LOOPI (R161, R164): the length field holds the body length minus 1. -/
def execKxLoopi (c : CoreId) (len : BitVec 10) (count : BitVec 16) (s : State) : Host.Outcome State Fault Refusal :=
  done (issue s c (fun s x => loopStart s c x (len.toNat + 1) count.toNat))

/-- LOOPR (R163, R164): count min(u(w[rc]), bound), read once at issue. -/
def execKxLoopr (c : CoreId) (rc : Fin 32) (len : BitVec 10) (bound : BitVec 11) (s : State) : Host.Outcome State Fault Refusal :=
  done (issue s c (fun s x => loopStart s c x (len.toNat + 1) (min (x.getW rc).toNat bound.toNat)))

/-! ### Multiplier and accumulators -/

/-- Multiplier and accumulator latencies (R165). -/
def mulLatency : Nat := 3
def macLatency : Nat := 4

/-- A product written to MHI:MLO, with its OVF, after 3 issue slots (R165, R167). -/
def mulOp (s : State) (c : CoreId) (ra rb : Fin 32) (f : Core → Word → Word → BitVec 64 × Bool) : State :=
  plain s c (fun x =>
    let (v, o) := f x (x.getW ra) (x.getW rb)
    x.push .mlohi (v.setWidth 72) mulLatency o)

/-- A product added into an accumulator, with its OVF, after 4 issue slots (R165 to R168). -/
def macOp (s : State) (c : CoreId) (a : Fin 4) (ra rb : Fin 32) (f : Word → Word → Int) : State :=
  plain s c (fun x =>
    let (v, o) := Kx.limit 72 x.sat ((x.addend a).toInt + f (x.getW ra) (x.getW rb))
    x.push (.acc a) v macLatency o)

/-- MUL (R163): the signed product. -/
def execKxMul (c : CoreId) (ra rb : Fin 32) (s : State) : Host.Outcome State Fault Refusal :=
  done (mulOp s c ra rb (fun _ a b => (BitVec.ofInt 64 (a.toInt * b.toInt), false)))

/-- MULU (R163): the unsigned product. -/
def execKxMulu (c : CoreId) (ra rb : Fin 32) (s : State) : Host.Outcome State Fault Refusal :=
  done (mulOp s c ra rb (fun _ a b => (BitVec.ofNat 64 (a.toNat * b.toNat), false)))

/-- MULF (R168): the Q1.63 product. -/
def execKxMulf (c : CoreId) (ra rb : Fin 32) (s : State) : Host.Outcome State Fault Refusal :=
  done (mulOp s c ra rb (fun x a b => Kx.mulf x.sat a b))

/-- MFLO (R163, R165): MLO as visible now. -/
def execKxMflo (c : CoreId) (rd : Fin 32) (s : State) : Host.Outcome State Fault Refusal :=
  done (toReg s c rd (fun x => x.mlo))

/-- MFHI (R163, R165). -/
def execKxMfhi (c : CoreId) (rd : Fin 32) (s : State) : Host.Outcome State Fault Refusal :=
  done (toReg s c rd (fun x => x.mhi))

/-- MAC (R163). -/
def execKxMac (c : CoreId) (a : Fin 4) (ra rb : Fin 32) (s : State) : Host.Outcome State Fault Refusal :=
  done (macOp s c a ra rb (fun a b => a.toInt * b.toInt))

/-- MACU (R163). -/
def execKxMacu (c : CoreId) (a : Fin 4) (ra rb : Fin 32) (s : State) : Host.Outcome State Fault Refusal :=
  done (macOp s c a ra rb (fun a b => ((a.toNat * b.toNat : Nat) : Int)))

/-- MACF (R168): 2 x ra x rb. -/
def execKxMacf (c : CoreId) (a : Fin 4) (ra rb : Fin 32) (s : State) : Host.Outcome State Fault Refusal :=
  done (macOp s c a ra rb (fun a b => 2 * a.toInt * b.toInt))

/-- MSUB (R163). -/
def execKxMsub (c : CoreId) (a : Fin 4) (ra rb : Fin 32) (s : State) : Host.Outcome State Fault Refusal :=
  done (macOp s c a ra rb (fun a b => -(a.toInt * b.toInt)))

/-- MSUBF (R168). -/
def execKxMsubf (c : CoreId) (a : Fin 4) (ra rb : Fin 32) (s : State) : Host.Outcome State Fault Refusal :=
  done (macOp s c a ra rb (fun a b => -(2 * a.toInt * b.toInt)))

/-- ACCCLR (R163): visible to the next instruction, after every earlier write (R165, R166). -/
def execKxAccclr (c : CoreId) (a : Fin 4) (s : State) : Host.Outcome State Fault Refusal :=
  done (plain s c (fun x => x.putAcc a 0))

/-- ACCSET (R163): rb:ra sign-extended. -/
def execKxAccset (c : CoreId) (a : Fin 4) (ra rb : Fin 32) (s : State) : Host.Outcome State Fault Refusal :=
  done (plain s c (fun x => x.putAcc a ((x.getW rb ++ x.getW ra).signExtend 72)))

/-- ACCGL (R163). -/
def execKxAccgl (c : CoreId) (rd : Fin 32) (a : Fin 4) (s : State) : Host.Outcome State Fault Refusal :=
  done (toReg s c rd (fun x => (x.getAcc a).setWidth 32))

/-- ACCGH (R163). -/
def execKxAccgh (c : CoreId) (rd : Fin 32) (a : Fin 4) (s : State) : Host.Outcome State Fault Refusal :=
  done (toReg s c rd (fun x => (x.getAcc a >>> 32).setWidth 32))

/-- ACCGG (R163): bits [71:64], sign-extended. -/
def execKxAccgg (c : CoreId) (rd : Fin 32) (a : Fin 4) (s : State) : Host.Outcome State Fault Refusal :=
  done (toReg s c rd (fun x => ((x.getAcc a >>> 64).setWidth 8).signExtend 32))

/-- ACCEX (R169). -/
def execKxAccex (c : CoreId) (rd : Fin 32) (a : Fin 4) (k : Fin 41) (s : State) : Host.Outcome State Fault Refusal :=
  done (toRegOvf s c rd (fun x => Kx.accex x.sat x.rnd (x.getAcc a) k))

end Sys2Proof.Machine
end

