-- ==== Sys2Proof/Machine/KxIo.lean ====
section
/-! DEFINITION. IN, OUT, SIN and SOUT by port number: each listed port calls the operation that the port's own command calls
(05_transaction_units.md R137 to R154; 06_knatrix_isa.md R173, R174; 07_block_and_bulk_ciphers.md R180, R187; 08_bignum_engine.md R196). -/

set_option linter.unusedVariables false

namespace Sys2Proof.Machine

open Sys2Proof Sys2Proof.Bits

/-- A TU port as its group and number: block-engine windows from 0x0100, BNE windows from 0x0300. -/
inductive TuPort where
  | plain (p : Nat)
  | be (e off : Nat)
  | bn (b off : Nat)
deriving DecidableEq, Repr

def tuPort (p : Nat) : TuPort :=
  if 0x100 ≤ p ∧ p < 0x140 then .be ((p - 0x100) / 16) (p % 16)
  else if 0x300 ≤ p ∧ p < 0x360 then .bn ((p - 0x300) / 16) (p % 16)
  else .plain p

/-- What a context waits for at its instruction on a port; such an instruction issues again. -/
def portWaits (p : Nat) : Wait → Bool :=
  match tuPort p with
  | .plain 0x81 => (· == .join)
  | .plain 0x8C => (· == .smbxIn)
  | .plain 0x94 => (· == .wmbxIn)
  | .plain 0x201 => (· == .uwcResult)
  | .plain 0x211 => (· == .krecResult)
  | .plain 0x601 => (· == .polResult)
  | .plain p =>
    if 0x88 ≤ p ∧ p < 0x8C then (· == .smbxSend (p - 0x88))
    else if 0x90 ≤ p ∧ p < 0x94 then (· == .wmbxSend (p - 0x90))
    else if 0x400 ≤ p ∧ p < 0x404 then (· == .drbg)
    else noWait
  | .be e 2 => (· == .beIssue e)
  | .be e 4 => (· == .beResult e)
  | .be _ off => if 0xC ≤ off then (· == .bgWait) else noWait
  | .bn b 0 => (· == .bnClaim b)
  | .bn _ 8 => (· == .bnWait)
  | .bn _ off => if [3, 4, 5, 6, 7, 9, 0xB].contains off then (· == .bnBusy) else noWait

/-- REQ_FN, REQ_PART, REQ_LEN, REQ_OUTCAP and the handle words (R142). -/
def requestWord (s : State) (n p : Nat) : Option Word :=
  let x := s.request n
  if p = 0 then some (x.desc.flags ++ x.desc.fn)
  else if p = 1 then some (BitVec.ofNat 32 (x.func - 1 + 65536 * x.gen.toNat))
  else if p = 2 then some (BitVec.ofNat 32 x.desc.inLen)
  else if p = 3 then some (BitVec.ofNat 32 x.desc.outCap)
  else if 8 ≤ p ∧ p < 16 then
    let h := x.desc.handle ((p - 8) / 2)
    some (if p % 2 = 0 then h.setWidth 32 else (h >>> 32).setWidth 32)
  else none

/-- An IN of a TU context. `waited`: the instruction waited before. -/
def tuIn (s : State) (n : Fin 2048) (r p : Nat) (waited : Bool) : State :=
  match tuPort p with
  | .plain 0x41 => readInput s n r .ok
  | .plain 0x81 => joinHelpers s n r
  | .plain 0x82 => answer s n r (BitVec.ofNat 32 (s.core n).member)
  | .plain 0x94 => recvWord s n r
  | .plain 0x201 => readUwc s n r
  | .plain 0x211 => readKrec s n r
  | .plain 0x215 => readHandle s n r
  | .plain 0x601 => readPolicy s n r
  | .plain 0x800 => answer s n r (ctxMode (s.core n))
  | .plain 0x801 => answer s n r (BitVec.ofNat 32 (wdogLeft s n))
  | .plain p =>
    match requestWord s n p with
    | some v => answer s n r v
    | none =>
      if 0x400 ≤ p ∧ p < 0x404 then readRandom s n r
      else if 0x500 ≤ p ∧ p < 0x503 then readNtime s n r (p - 0x500)
      else portError s n
  | .be e 5 => answer s n r (beStatus s n e)
  | .be _ 0xE => bulkWait s n r
  | .be _ 0xF => bulkCount s n r
  | .be _ _ => portError s n
  | .bn b 0 => claimBne s n b r waited
  | .bn b 4 => bnRead s n b r
  | .bn b 8 => bnWait s n b r
  | .bn b 0xA => bnHandle s n b r
  | .bn b 0xD => bnStat s n b r
  | .bn _ _ => portError s n

/-- A BN_CMD word (R203); an op that R205 does not list ends the request. -/
def bnCmdWord (s : State) (n b : Nat) (v : Word) : State :=
  let f (lo : Nat) : Fin 16 := Fin.ofNat 16 (bits v.toNat (lo + 3) lo)
  let param := BitVec.ofNat 8 (bits v.toNat 31 24)
  match bnOpOf (bits v.toNat 7 0) param with
  | none => bnWindow s n b (fun _ => faultCtx s n)
  | some op => bnCommand s n b op { a := f 8, b := f 12, k := f 16, d := f 20, param := param }

/-- An OUT of a TU context. -/
def tuOut (s : State) (n : Fin 2048) (p : Nat) (v : Word) : State :=
  match tuPort p with
  | .plain 0x10 => leadOnly s n (fun s => goNext (s.modRequest n (fun x => { x with status := v.setWidth 16 })) n)
  | .plain 0x11 => leadOnly s n (fun s => goNext (s.modRequest n (fun x => { x with outLen := v.toNat })) n)
  | .plain 0x12 => leadOnly s n (fun s => goNext (s.modRequest n (fun x => { x with
      result := (x.result >>> 32 <<< 32) ||| v.setWidth 64 })) n)
  | .plain 0x13 => leadOnly s n (fun s => goNext (s.modRequest n (fun x => { x with
      result := (x.result &&& 0xFFFFFFFF) ||| (v.setWidth 64 <<< 32) })) n)
  | .plain 0x1F => leadOnly s n (fun s => postCompletion s n)
  | .plain 0x40 => goNext (s.modCore n (fun x => { x with inOfs := v.toNat })) n
  | .plain 0x42 => leadOnly s n (fun s => goNext (s.modCore n (fun x => { x with outOfs := v.toNat })) n)
  | .plain 0x43 => writeOutput s n v
  | .plain 0x80 => forkHelper s n v
  | .plain 0x83 => endHelper s n
  | .plain 0x200 => lookupKey s n v
  | .plain 0x202 => fillKey s n v
  | .plain 0x210 => fetchRecord s n v
  | .plain 0x214 => storeRecord s n v
  | .plain 0x218 => loadRecordKey s n v
  | .plain 0x600 => askPolicy s n v
  | .plain 0x700 => tallyPort s n (fun _ t => { t with detail := v.setWidth 16 })
  | .plain 0x701 => tallyPort s n (fun _ t => { t with ofs := bits v.toNat 2 0 })
  | .plain 0x702 => tallyPort s n (fun _ t => tallyData v t)
  | .plain 0x703 => tallyPort s n (fun x t => tallyHandles x v t)
  | .plain 0x800 => goNext (s.modCore n (fun x => x.setMode v)) n
  | .plain p => if 0x90 ≤ p ∧ p < 0x94 then sendWord s n (p - 0x90) v else portError s n
  | .be e 2 => beCmdWord s n e v
  | .be _ 6 => beClear s n
  | .be _ 0xD => bulkCommand s n .ok
  | .be _ _ => portError s n
  | .bn b 1 => bnConfig s n b v
  | .bn b 2 => bnPointer s n b v
  | .bn b 3 => bnWrite s n b v
  | .bn b 5 => bnTransfer s n b v .ok
  | .bn b 6 => bnFetchKey s n b v
  | .bn b 7 => bnCmdWord s n b v
  | .bn b 9 => bnStoreKey s n b v
  | .bn b 0xC => bnRelease s n b
  | .bn _ _ => portError s n

/-- A SIN of a TU context. -/
def tuSin (s : State) (n : Fin 2048) (sd p : Nat) : State :=
  match tuPort p with
  | .plain 0x8C => recvSecret s n sd
  | .be e 4 => beTake s n e sd
  | _ => portError s n

/-- A SOUT of a TU context: OUT_DATA takes quarter q of a register of label P or C (R141, R173). -/
def tuSout (s : State) (n : Fin 2048) (sa q p : Nat) : State :=
  match tuPort p with
  | .plain 0x43 =>
    let r := (s.core n).getS sa
    if r.label = .p ∨ r.label = .c then writeOutput s n (BitVec.ofNat 32 (fieldLe r.bytes (4 * q) 4)) else portError s n
  | .plain p => if 0x88 ≤ p ∧ p < 0x8C then sendSecret s n (p - 0x88) sa else portError s n
  | .be e 0 => beKey s n e sa false
  | .be e 1 => beKey s n e sa true
  | .be e 3 => beData s n e sa
  | .be _ 0xC => bulkKey s n sa
  | .be _ _ => portError s n
  | .bn b 0xB => bnSecret s n b sa
  | .bn _ _ => portError s n

/-! ### Rows -/

/-- IN (R142, R174). -/
def execKxIn (c : CoreId) (r : Fin 32) (port : BitVec 16) (s : State) : Host.Outcome State Fault Refusal :=
  let p := port.toNat
  match c with
  | .tu n =>
    let waited := portWaits p (s.core n).wait
    done (issue (reissue s n (portWaits p)) c (fun s x => tuIn s n r p waited))
  | _ => done (issue s c (fun s x => coreIn s c x r p))

/-- OUT (R142, R174). -/
def execKxOut (c : CoreId) (r : Fin 32) (port : BitVec 16) (s : State) : Host.Outcome State Fault Refusal :=
  let p := port.toNat
  match c with
  | .tu n => done (issue (reissue s n (portWaits p)) c (fun s x => tuOut s n p (x.getW r)))
  | _ => done (issue s c (fun s x => coreOut s c p (x.getW r)))

/-- SIN (R173). No system port takes a secret operand. -/
def execKxSin (c : CoreId) (sd : Fin 16) (port : BitVec 16) (s : State) : Host.Outcome State Fault Refusal :=
  let p := port.toNat
  match c with
  | .tu n => done (issue (reissue s n (portWaits p)) c (fun s x => tuSin s n sd p))
  | _ => done (issueSecret s c (fun s x => kxFault s c .port))

/-- SOUT (R173). -/
def execKxSout (c : CoreId) (sa : Fin 16) (q : Fin 4) (port : BitVec 16) (s : State) : Host.Outcome State Fault Refusal :=
  let p := port.toNat
  match c with
  | .tu n => done (issue (reissue s n (portWaits p)) c (fun s x => tuSout s n sa q p))
  | _ => done (issueSecret s c (fun s x => kxFault s c .port))

end Sys2Proof.Machine
end

