-- ==== Sys2Proof/Machine/KxSecret.lean ====
section
/-! DEFINITION. Knatrix secret instructions and extracts (06_knatrix_isa.md R139 to R141, R160, R170 to R172). -/

set_option linter.unusedVariables false

namespace Sys2Proof.Machine

open Sys2Proof Sys2Proof.Bits

/-- SMOV (R171). -/
def execKxSmov (c : CoreId) (sd sa : Fin 16) (s : State) : Host.Outcome State Fault Refusal :=
  done (toSecret s c sd (fun x => x.getS sa))

/-- SCLR (R163): 0 with label P and role 0x00. -/
def execKxSclr (c : CoreId) (sd : Fin 16) (s : State) : Host.Outcome State Fault Refusal :=
  done (toSecret s c sd (fun _ => {}))

/-- SXOR (R171). -/
def execKxSxor (c : CoreId) (sd sa sb : Fin 16) (s : State) : Host.Outcome State Fault Refusal :=
  done (toSecret s c sd (fun x => SReg.of (xor (x.getS sa).bytes (x.getS sb).bytes) (mixTags [x.getS sa, x.getS sb])))

/-- SAND (R171): any K operand loses its role. -/
def execKxSand (c : CoreId) (sd sa sb : Fin 16) (s : State) : Host.Outcome State Fault Refusal :=
  done (toSecret s c sd (fun x => SReg.of (List.zipWith (· &&& ·) (x.getS sa).bytes (x.getS sb).bytes) (mixLogic [x.getS sa, x.getS sb])))

/-- SOR (R171). -/
def execKxSor (c : CoreId) (sd sa sb : Fin 16) (s : State) : Host.Outcome State Fault Refusal :=
  done (toSecret s c sd (fun x => SReg.of (List.zipWith (· ||| ·) (x.getS sa).bytes (x.getS sb).bytes) (mixLogic [x.getS sa, x.getS sb])))

/-- SMERGE (R163): bytes 0 to 7 of sa, then bytes 0 to 7 of sb. -/
def execKxSmerge (c : CoreId) (sd sa sb : Fin 16) (s : State) : Host.Outcome State Fault Refusal :=
  done (toSecret s c sd (fun x => SReg.of ((x.getS sa).bytes.take 8 ++ (x.getS sb).bytes.take 8) (mixTags [x.getS sa, x.getS sb])))

/-- SHIGH (R163, R171): bytes 8 to 15, the rest 0. -/
def execKxShigh (c : CoreId) (sd sa : Fin 16) (s : State) : Host.Outcome State Fault Refusal :=
  done (toSecret s c sd (fun x => { x.getS sa with val := (x.getS sa).val >>> 64 }))

/-- A byte with bit 0 set so that its count of ones is odd. -/
def oddParity (b : Byte) : Byte :=
  let n := ((List.range 7).filter (fun i => b.getLsbD (i + 1))).length
  if n % 2 = 1 then b &&& 0xFE else b ||| 0x01

/-- SPARITY (R163): odd parity in every byte. -/
def execKxSparity (c : CoreId) (sd sa : Fin 16) (s : State) : Host.Outcome State Fault Refusal :=
  done (toSecret s c sd (fun x => SReg.of ((x.getS sa).bytes.map oddParity) (mixTags [x.getS sa])))

/-- SDTAB (R170): each nibble replaced by its DT nibble. -/
def execKxSdtab (c : CoreId) (sd sa : Fin 16) (s : State) : Host.Outcome State Fault Refusal :=
  done (toSecret s c sd (fun x => SReg.of (Kx.mapNibs (Kx.dtNib x.dt) (x.getS sa).bytes) (mixTags [x.getS sa])))

/-- SDADD (R170): per nibble. -/
def execKxSdadd (c : CoreId) (sd sa sb : Fin 16) (s : State) : Host.Outcome State Fault Refusal :=
  done (toSecret s c sd (fun x => SReg.of (Kx.zipNibs (Kx.nibOp false) (x.getS sa).bytes (x.getS sb).bytes) (mixTags [x.getS sa, x.getS sb])))

/-- SDSUB (R170). -/
def execKxSdsub (c : CoreId) (sd sa sb : Fin 16) (s : State) : Host.Outcome State Fault Refusal :=
  done (toSecret s c sd (fun x => SReg.of (Kx.zipNibs (Kx.nibOp true) (x.getS sa).bytes (x.getS sb).bytes) (mixTags [x.getS sa, x.getS sb])))

/-- SNSH (R163, R171): nibble j takes nibble j + k, or 0. -/
def execKxSnsh (c : CoreId) (sd sa : Fin 16) (k : Fin 32) (s : State) : Host.Outcome State Fault Refusal :=
  done (toSecret s c sd (fun x => { x.getS sa with val := block (ofNibs (((nibs (x.getS sa).bytes).drop k) ++ List.replicate k 0)) }))

/-- Quarter q of a secret register replaced by a word; a K register loses its role (R163, R171). -/
def loadQuarter (r : SReg) (q : Nat) (v : Word) : SReg :=
  { r with
    val := BitVec.ofNat 128 (setBits r.val.toNat (32 * q + 31) (32 * q) v.toNat)
    role := if r.label = .k then 0 else r.role }

/-- Quarter q of a secret register (R160). -/
def quarter (r : SReg) (q : Nat) : Word := BitVec.ofNat 32 (bits r.val.toNat (32 * q + 31) (32 * q))

/-- SLDW (R163, R171). -/
def execKxSldw (c : CoreId) (sd : Fin 16) (ra : Fin 32) (q : Fin 4) (s : State) : Host.Outcome State Fault Refusal :=
  done (toSecret s c sd (fun x => loadQuarter (x.getS sd) q (x.getW ra)))

/-- SMVW (R172): label P or C. -/
def execKxSmvw (c : CoreId) (rd : Fin 32) (sa : Fin 16) (q : Fin 4) (s : State) : Host.Outcome State Fault Refusal :=
  done (extract s c rd
    (fun x => (x.getS sa).label == .p || (x.getS sa).label == .c)
    (fun x => quarter (x.getS sa) q))

/-- SCMP (R172): nibbles 0 to last. -/
def execKxScmp (c : CoreId) (rd : Fin 32) (sa sb : Fin 16) (last : Fin 32) (s : State) : Host.Outcome State Fault Refusal :=
  done (extract s c rd (fun _ => true)
    (fun x => Kx.bool (((nibs (x.getS sa).bytes).take (last.val + 1)) == ((nibs (x.getS sb).bytes).take (last.val + 1)))))

/-- SPINCHK (R172): label N, format 0, 1, 3 or 4. -/
def execKxSpinchk (c : CoreId) (rd : Fin 32) (sa : Fin 16) (fmt : BitVec 3) (s : State) : Host.Outcome State Fault Refusal :=
  done (extract s c rd
    (fun x => (x.getS sa).label == .n && (fmt == 0 || fmt == 1 || fmt == 3 || fmt == 4))
    (fun x => match Kx.pinLen fmt.toNat (x.getS sa).bytes with
      | some l => BitVec.ofNat 32 (1 + 2 * l)
      | none => 0))

/-- SDEC (R172): label C; count + 1 digits by the scanning rule. -/
def execKxSdec (c : CoreId) (rd : Fin 32) (sa : Fin 16) (cnt : BitVec 3) (s : State) : Host.Outcome State Fault Refusal :=
  done (extract s c rd
    (fun x => (x.getS sa).label == .c)
    (fun x => Kx.digitWord (Kx.scan (x.getS sa).bytes (cnt.toNat + 1))))

/-- Digits of SPOFS (R172). -/
def pinOffset (dt : BitVec 64) (pin table : Bytes) (imm : BitVec 5) : Word :=
  let lo := if imm.getLsbD 4 then 8 else 0
  let n := imm.toNat % 16 + 1
  Kx.digitWord ((List.range (min (n - lo) 8)).map (fun k =>
    (((nib pin (2 + lo + k) : Int) - Kx.dtNib dt (nib table (lo + k))) % 10).toNat))

/-- SPOFS (R172): an excluded immediate is undefined and counts as a port error on a TU; sa of label N, sb of label C with role 0x04, and DT
loaded. -/
def execKxSpofs (c : CoreId) (rd : Fin 32) (sa sb : Fin 16) (imm : BitVec 5) (s : State) : Host.Outcome State Fault Refusal :=
  done (issueSecret s c (fun s x =>
    if !Kx.spofsDefined imm.toNat then kxFault s c (if c.isTu then .operand else .undefined)
    else if (x.getS sa).label == .n && (x.getS sb).label == .c && (x.getS sb).role == 0x04 && x.dtLoaded then
      s.setCore c.num (x.setW rd (pinOffset x.dt (x.getS sa).bytes (x.getS sb).bytes imm)).next
    else kxFault s c .operand))

/-- Roles that a key of a role may be given (R140). -/
def assignable (r : Byte) : List Byte :=
  match r.toNat with
  | 0x07 => [0x01, 0x05, 0x06, 0x07]
  | 0x08 => [0x06, 0x08]
  | 0x09 => [0x05, 0x0A]
  | _ => []

/-- SROLE (R140, R171): a derived K register takes a role that its own role may assign. -/
def execKxSrole (c : CoreId) (sd sa : Fin 16) (role : BitVec 8) (s : State) : Host.Outcome State Fault Refusal :=
  done (issueSecret s c (fun s x =>
    let r := x.getS sa
    if r.label == .k && r.derived && (assignable r.role).contains role then
      goOn (writeSecret s c sd { r with role := role, derived := false }) c
    else kxFault s c .operand))

end Sys2Proof.Machine
end

