-- ==== Sys2Proof/Machine/Officers.lean ====
section
/-! DEFINITION. OFFICER_ENROLL, QUORUM_POLICY_SET, YOKE_SWITCH and TIME_ADJUST (13_wardens_yoke.md R299, R302 to R305;
19_time_power_clocks.md R398). -/

set_option linter.unusedVariables false

namespace Sys2Proof.Machine

open Sys2Proof Sys2Proof.Bits

/-! ### Scopes -/

/-- The scope an input names in bytes 1 and 2 to 3: the device (none) or a partition. -/
def scopePart (scope p : Nat) : Option (Option Nat) :=
  if scope = 1 then some none else if scope = 3 ∧ p < 2048 then some (some p) else none

/-- Classes that must sign a change to a scope's officers or policies (R303). -/
def scopeClasses (s : State) (part : Option Nat) : List QClass :=
  match part with
  | none => [.dev 1]
  | some p => p3Classes s p

/-- Every class of a scope. -/
def allClasses (part : Option Nat) : List QClass :=
  match part with
  | none => (List.range 7).map QClass.dev
  | some p => (List.range 4).map (fun k => .part k p)

/-- Officer indices of a scope. -/
def officerRoom (part : Option Nat) : Nat := if part.isSome then 8 else 16

/-! ### OFFICER_ENROLL (R305) -/

/-- Fields of an OFFICER_ENROLL input. -/
structure Enroll where
  op : Nat
  scope : Nat
  part : Nat
  idx : Nat
  alg : Byte
  plen : Nat
  pub : Bytes
deriving DecidableEq, Repr

def enrollOf (b : Bytes) : Enroll where
  op := (byteAt b 0).toNat
  scope := (byteAt b 1).toNat
  part := fieldLe b 2 2
  idx := (byteAt b 4).toNat
  alg := byteAt b 5
  plen := fieldLe b 6 2
  pub := slice b 8 (fieldLe b 6 2)

def Enroll.where (r : Enroll) : Option (Option Nat) := scopePart r.scope r.part

/-- A class that stands for a scope. -/
def scopeClass : Option Nat → QClass
  | none => .dev 1
  | some p => .part 3 p

/-- The officer at the index of the request. -/
def Enroll.holder (r : Enroll) (s : State) : Option Bytes := r.where.bind (fun w => officerKey s (scopeClass w) r.idx)

/-- The key digest that the request's entry carries: of the key added, or of the officer removed. -/
def Enroll.digest (r : Enroll) (s : State) : Bytes :=
  if r.op = 2 then (r.holder s).getD (zeros 48) else officerDigest r.alg r.pub

/-- Data of the 0x0202 entry, without its continuation (R379). -/
def Enroll.data (r : Enroll) (s : State) : Bytes :=
  [BitVec.ofNat 8 r.scope, BitVec.ofNat 8 r.idx, BitVec.ofNat 8 r.op, 0] ++ (r.digest s).take 28

/-- The proof token of an add is counted: R307 without the roster check. -/
def proofCounts (s : State) (q : QRequest) (r : Enroll) (part : Option Nat) (t : Bytes) : Bool :=
  tokenFormed t && tokenFits t (scopeClass part) && byteAt t 2 == r.alg && tokenPub t == r.pub && tokenBound s q t == 0

/-- The entry of an enrollment in a partition is one of that partition's, so that its VF window shows it (R305, R386; log 111). -/
def entryFor (s : State) (e : Nat) (part : Option Nat) : State :=
  s.modEntry e (fun x => { x with tally := { x.tally with part := part.map (BitVec.ofNat 16) } })

/-- The rows of OFFICER_ENROLL: the entry, the quorum of the scope, with the proof token that `proof` asks for, then the fields. -/
def runEnroll (e : Nat) (dma : Dma) (s : State) (mine : Nat → Bool) (proof : State → QRequest → Enroll → Option Nat → Bytes → Bool)
    (act : State → Enroll → Option Nat → FnEnd) : Host.Outcome State Fault Refusal :=
  runAdmin 0xE020 e dma .none s (fun b => mine (byteAt b 0).toNat) (fun s b =>
    let r := enrollOf b
    match reserveEntry s e 0x0202 (r.data s) (some ((r.digest s).drop 28)) with
    | none => ends St.auditFull s
    | some s =>
      match r.where with
      | none => ends St.badFormat s
      | some w =>
        let s := entryFor s e w
        let body := 8 + r.plen
        let tok := if r.op = 2 then [] else b.drop body
        let set := body + round4Free r b
        let q : QRequest := {
          classes := scopeClasses s w
          fn := 0xE020
          digest := Hash.sha384 (b.take body)
          nonce := tokenNonce ((b.drop set).drop 4) }
        let proven := proof s q r w tok
        withQuorumOf (ownRoster s) s e (scopeClasses s w) body set (fun s =>
          check proven St.quorumRequired s (act s r w)))
where
  /-- Bytes of the proof token, which the token set follows. -/
  round4Free (r : Enroll) (b : Bytes) : Nat := if r.op = 2 then 0 else fieldLe b (8 + r.plen) 2

/-- Store an officer of a scope. -/
def enrollOfficer (s : State) (r : Enroll) (part : Option Nat) : FnEnd :=
  let d := officerDigest r.alg r.pub
  match part with
  | some p =>
    endsOk { s with ofc := { s.ofc with part := Map.set {} s.ofc.part (8 * p + r.idx) {
      on := true
      alg := r.alg
      digest := digest384 d } } } 0 []
  | none =>
    if !s.grn.present then ends St.degraded s
    else
      match writeOfficer s r.idx 0 d with
      | some s => endsOk s 0 []
      | none => ends St.badFormat s

/-- Sub-operation 0x01, add. An unlisted sub-operation ends here with BAD_FORMAT. A proof token that does not count fails the request
with QUORUM_REQUIRED (log 70). -/
def execOfficerEnrollAdd (e : Fin 69632) (dma : Dma) (s : State) : Host.Outcome State Fault Refusal :=
  runEnroll e dma s (· != 2) proofCounts (fun s r w =>
    let lens := (tokenLens r.alg).map (·.1)
    check (r.op == 1 && decide (r.idx < officerRoom w) && (r.holder s).isNone && lens == some r.plen && slotIsFree s w r.idx) St.badFormat s
      (enrollOfficer s r w))
where
  /-- A device officer's slot holds nothing. -/
  slotIsFree (s : State) (w : Option Nat) (i : Nat) : Bool := w.isSome || !(s.slotAt i).live

/-- Remove an officer of a scope. -/
def removeOfficer (s : State) (part : Option Nat) (i : Nat) : State :=
  match part with
  | some p => { s with ofc := { s.ofc with part := Map.set {} s.ofc.part (8 * p + i) {} } }
  | none => eraseSlot s i

/-- Sub-operation 0x02, remove. -/
def execOfficerEnrollRemove (e : Fin 69632) (dma : Dma) (s : State) : Host.Outcome State Fault Refusal :=
  runEnroll e dma s (· == 2) (fun _ _ _ _ _ => true) (fun s r w =>
    let most := ((allClasses w).map (policyM s)).foldl max 0
    check (r.alg == 0 && r.plen == 0 && (r.holder s).isSome && decide (most ≤ officerCount s w - 1)) St.badFormat s
      (endsOk (removeOfficer s w r.idx) 0 []))

/-! ### QUORUM_POLICY_SET (R304) -/

/-- Set the m of a class. -/
def setPolicy (s : State) (c : QClass) (m : Nat) : State :=
  match c with
  | .dev k => { s with ofc := { s.ofc with devM := Map.set 0 s.ofc.devM k (m - 2) } }
  | .part k p => { s with ofc := { s.ofc with partM := Map.set 0 s.ofc.partM (4 * p + k) (m - 2) } }

/-- QUORUM_POLICY_SET: the current policies govern its own quorum. -/
def execQuorumPolicySet (e : Fin 69632) (dma : Dma) (s : State) : Host.Outcome State Fault Refusal :=
  runAdmin 0xE021 e dma .first s (fun _ => true) (fun s b =>
    match scopePart (byteAt b 0).toNat (fieldLe b 2 2) with
    | none => ends St.badFormat s
    | some w =>
      let m := (byteAt b 4).toNat
      withQuorum s e (scopeClasses s w) 8 (fun s =>
        match (allClasses w)[(byteAt b 1).toNat]? with
        | some c => check (allZero (slice b 5 3) && decide (2 ≤ m ∧ m ≤ officerCount s w)) St.badFormat s (endsOk (setPolicy s c m) 0 [])
        | none => ends St.badFormat s))

/-! ### YOKE_SWITCH (R299) -/

/-- YOKE_SWITCH: the target must be standby and not hold the baton. -/
def execYokeSwitch (e : Fin 69632) (dma : Dma) (s : State) : Host.Outcome State Fault Refusal :=
  runAdmin 0xE022 e dma .first s (fun _ => true) (fun s b =>
    if s.yoke.mismatch then (.waits, s) else
    withQuorum s e [.dev 1] 4 (fun s =>
      let w : Warden := if byteAt b 0 = 2 then .b else .a
      let listed := byteAt b 0 == 1 || byteAt b 0 == 2
      check (listed && allZero (slice b 1 3) && s.yoke.stateOf w == .standby && holder s != w) St.badFormat s
        (endsOk (moveBaton s) 0 [])))

/-! ### TIME_ADJUST (R398) -/

/-- The rows of TIME_ADJUST: without tokens a judged set, with a D5 quorum a step. -/
def runAdjust (e : Nat) (dma : Dma) (s : State) (mine : Byte → Bool) (offset : Bool) : Host.Outcome State Fault Refusal :=
  runAdmin 0xE030 e dma .first s (fun b => mine (byteAt b 0)) (fun s b =>
    let target (s : State) : Int := if offset then (s.time.ntime : Int) + signed64 (fieldLe b 8 8) else (fieldLe b 8 8 : Int)
    let fields := byteAt b 0 == (if offset then 1 else 2) && allZero (slice b 1 7)
    let valid := !offset || s.time.valid
    if b.length = 16 then
      check fields St.badFormat s (check valid St.timeNotValid s (
        match judgeSet s (target s) with
        | (true, s) => endsOk s (BitVec.ofNat 64 s.time.ntime) []
        | (false, s) => ends St.quorumRequired s))
    else
      withQuorum s e [.dev 5] 16 (fun s =>
        check fields St.badFormat s (check valid St.timeNotValid s (
          let s := setTimeTo s ((target s) % 2 ^ 64).toNat
          endsOk s (BitVec.ofNat 64 s.time.ntime) []))))

/-- Mode 0x01, offset. An unlisted mode ends here with BAD_FORMAT. -/
def execTimeAdjustOffset (e : Fin 69632) (dma : Dma) (s : State) : Host.Outcome State Fault Refusal :=
  runAdjust e dma s (· != 2) true

/-- Mode 0x02, absolute. -/
def execTimeAdjustAbsolute (e : Fin 69632) (dma : Dma) (s : State) : Host.Outcome State Fault Refusal :=
  runAdjust e dma s (· == 2) false

end Sys2Proof.Machine
end

