-- ==== Sys2Proof/Machine/Spdm.lean ====
section
/-! DEFINITION. The SPDM 1.3 responder on DOE and MCTP and the I3C target (17_boot_attestation.md R371 to R373). The message layouts, the
transcripts and the key schedule are those of DMTF DSP0274 1.3 (log 10). -/

set_option linter.unusedVariables false

namespace Sys2Proof.Machine

open Sys2Proof Sys2Proof.Bits

namespace Responder

/-- Request codes of the subset. -/
def reqVersion : Byte := 0x84
def reqCapabilities : Byte := 0xE1
def reqAlgorithms : Byte := 0xE3
def reqDigests : Byte := 0x81
def reqCertificate : Byte := 0x82
def reqChallenge : Byte := 0x83
def reqMeasurements : Byte := 0xE0
def reqKeyExchange : Byte := 0xE4
def reqFinish : Byte := 0xE5

/-- Error codes. -/
def errInvalid : Byte := 0x01
def errSession : Byte := 0x02
def errBusy : Byte := 0x03
def errUnexpected : Byte := 0x04
def errUnspecified : Byte := 0x05
def errDecrypt : Byte := 0x06
def errUnsupported : Byte := 0x07
def errVersion : Byte := 0x41

/-- ERROR. -/
def error (code data : Byte) : Bytes := [0x13, 0x7F, code, data]

def key : Transport → Nat
  | .doe => 0
  | .mctp => 1

/-! ### The responder -/

/-- The PF answers on DOE from step 6 of the release sequence on (R362). -/
def released (s : State) : Bool := s.boot.phase == .released || s.boot.phase == .halt

/-- The Keep die's rails are up. -/
def powered (s : State) : Bool := s.pwr.rails && s.boot.phase != .off

/-- Give a response on a transport. -/
def respond (s : State) (t : Transport) (r : Bytes) : State :=
  match t with
  | .doe => { s with spdm := { s.spdm with respDoe := r } }
  | .mctp => { s with spdm := { s.spdm with respMctp := r } }

/-- The row of a request: on MCTP before release ERROR Busy; on DOE before release it is not seen (R371, R374). -/
def row (s : State) (t : Transport) (req : Bytes) (mine : Bool) (act : State → Bytes × State) : Host.Outcome State Fault Refusal :=
  done (
    if !mine || !powered s then s
    else if !released s then
      match t with
      | .mctp => respond s .mctp (error errBusy 0)
      | .doe => s
    else
      let (r, s) := act s
      respond s t r)

/-- Messages of a transport's transcripts. -/
def vca (s : State) (t : Transport) : Bytes := Map.get [] s.spdm.vca (key t)
def chal (s : State) (t : Transport) : Bytes := Map.get [] s.spdm.chal (key t)
def measured (s : State) (t : Transport) : Bytes := Map.get [] s.spdm.meas (key t)

def setVca (s : State) (t : Transport) (b : Bytes) : State := { s with spdm := { s.spdm with vca := Map.set [] s.spdm.vca (key t) b } }
def setChal (s : State) (t : Transport) (b : Bytes) : State := { s with spdm := { s.spdm with chal := Map.set [] s.spdm.chal (key t) b } }
def setMeas (s : State) (t : Transport) (b : Bytes) : State := { s with spdm := { s.spdm with meas := Map.set [] s.spdm.meas (key t) b } }
def setConn (s : State) (t : Transport) (n : Nat) : State := { s with spdm := { s.spdm with conn := Map.set 0 s.spdm.conn (key t) n } }
def connected (s : State) (t : Transport) : Nat := Map.get 0 s.spdm.conn (key t)

/-- A request after VERSION: its version byte, its least length and the connection's state. -/
def expect (s : State) (t : Transport) (req : Bytes) (len conn : Nat) (k : Bytes × State) : Bytes × State :=
  if byteAt req 0 ≠ 0x13 then (error errVersion 0, s)
  else if req.length < len then (error errInvalid 0, s)
  else if connected s t < conn then (error errUnexpected 0, s)
  else k

/-! ### Connection (GET_VERSION, GET_CAPABILITIES, NEGOTIATE_ALGORITHMS) -/

/-- VERSION: version 1.3 only. -/
def versionRsp : Bytes := [0x10, 0x04, 0, 0, 0, 1, 0x00, 0x13]

/-- CERT_CAP, CHAL_CAP, MEAS_CAP with signature, ENCRYPT_CAP, MAC_CAP, KEY_EX_CAP. -/
def capFlags : Nat := 0x02 + 0x04 + 0x10 + 0x40 + 0x80 + 0x200

/-- The algorithm structures of a request, n of them: type and supported bits. -/
def algStructs : Nat → Bytes → List (Byte × Nat)
  | 0, _ => []
  | n + 1, b => (byteAt b 0, fieldLe b 2 2) :: algStructs n (b.drop (4 + 4 * ((byteAt b 1).toNat % 16)))

/-- The bits that the responder supports of an algorithm structure: secp384r1, AES-256-GCM, the SPDM key schedule. -/
def algMask (ty : Byte) : Nat := if ty = 2 then 0x10 else if ty = 3 then 0x02 else if ty = 5 then 0x01 else 0

/-- ALGORITHMS for a request. -/
def algorithmsRsp (req : Bytes) : Bytes :=
  let ext := 4 * ((byteAt req 28).toNat + (byteAt req 29).toNat)
  let ss := (algStructs (byteAt req 2).toNat (req.drop (32 + ext))).filter (fun x => x.1 == 2 || x.1 == 3 || x.1 == 5)
  let tail := ss.flatMap (fun x => [x.1, 0x20] ++ le 2 (Nat.land x.2 (algMask x.1)))
  [0x13, 0x63, BitVec.ofNat 8 ss.length, 0] ++ le 2 (36 + tail.length) ++ [byteAt req 6 &&& 1, byteAt req 7 &&& 2] ++ le 4 4 ++
    le 4 0x80 ++ le 4 2 ++ zeros 12 ++ zeros 4 ++ tail

/-! ### Certificates -/

/-- The chain of slot 0, none before an identity certificate is stored. -/
def chain (s : State) : Option Bytes :=
  if s.lc.cert.isSome ∧ s.boot.aliasCert.isSome then
    let cs := (certChain s).flatten
    some (le 2 (52 + cs.length) ++ zeros 2 ++ Hash.sha384 Config.manufacturingCaCert ++ cs)
  else none

def chainHash (s : State) : Bytes := Hash.sha384 ((chain s).getD [])

/-- A signature under the alias key over the prefix and context of DSP0274 and a transcript hash. -/
def sign (s : State) (d : Nat) (context : String) (transcript : Bytes) : Bytes × State :=
  let pre := (List.replicate 4 (ascii "dmtf-spdm-v1.3.*")).flatten
  let c := ascii context
  sign384 s d (pre ++ zeros (36 - c.length) ++ c ++ Hash.sha384 transcript)

/-! ### Measurements (R372) -/

/-- The stored record with a counter. -/
def recordAt (s : State) (c : Nat) : Option Bytes :=
  if Map.get 0 s.boot.recCount (c % 256) = c + 1 then some (recordShown s (c % 256)) else none

/-- Value type and value of an index. -/
def measValue (s : State) (i : Nat) : Option (Nat × Bytes) :=
  let c := s.boot.count
  if 1 ≤ i ∧ i ≤ 6 then some (1, digestBytes (s.meas (i - 1)))
  else if i = 7 then some (0, digestBytes (s.meas 6))
  else if i = 8 then some (2, digestBytes (s.meas 7))
  else if i = 9 then some (0x84, (recordAt s c).getD [])
  else if 0x10 ≤ i ∧ i ≤ 0x1F then
    some (0x84, (List.range 16).flatMap (fun k =>
      let back := 16 * (i - 0x10) + k
      if back ≤ c then (recordAt s (c - back)).getD [] else []))
  else none

/-- A measurement block with the DMTF specification. -/
def measBlock (s : State) (i : Nat) : Bytes :=
  match measValue s i with
  | none => []
  | some (ty, v) => [BitVec.ofNat 8 i, 1] ++ le 2 (3 + v.length) ++ [BitVec.ofNat 8 ty] ++ le 2 v.length ++ v

/-- Indices of an operation: none where it is unlisted. -/
def measIndices (op : Nat) : Option (List Nat) :=
  if op = 0 then some []
  else if op = 0xFF then some ((List.range 9).map (· + 1))
  else if op ≤ 9 ∨ (0x10 ≤ op ∧ op ≤ 0x1F) then some [op]
  else none

/-- The summary hash that a request asks for: none, the registers, or every block of 0xFF; an unlisted type is refused. -/
def summary (s : State) (ty : Byte) : Option Bytes :=
  if ty = 0 then some []
  else if ty = 1 then some (Hash.sha384 ((List.range 8).flatMap (fun i => measBlock s (i + 1))))
  else if ty = 0xFF then some (Hash.sha384 ((List.range 9).flatMap (fun i => measBlock s (i + 1))))
  else none

/-! ### Key schedule -/

/-- HKDF-Expand with HMAC-SHA-384, at most 48 bytes. -/
def expand (k info : Bytes) : Bytes := Hash.hmac .sha384 k (info ++ [1])

/-- BinConcat for a 48-byte output. -/
def binConcat (label : String) (context : Bytes) : Bytes := le 2 48 ++ ascii "spdm1.3 " ++ ascii label ++ context

def finishedKey (secret : Bytes) (label : String) (th1 : Bytes) : Bytes :=
  expand (expand secret (binConcat label th1)) (binConcat "finished" [])

end Responder

open Responder

/-! ### Rows -/

/-- GET_VERSION: the connection starts over, and its sessions end. -/
def execGetVersion (t : Transport) (req : Bytes) (s : State) : Host.Outcome State Fault Refusal :=
  row s t req (byteAt req 1 == reqVersion) (fun s =>
    if byteAt req 0 ≠ 0x10 then (error errVersion 0, s)
    else if req.length < 4 then (error errInvalid 0, s)
    else
      let s := setMeas (setChal (setVca (setConn s t 1) t (req.take 4 ++ versionRsp)) t []) t []
      (versionRsp, if t = .doe then { s with spdm := { s.spdm with sessions := [] } } else s))

/-- GET_CAPABILITIES. The timing exponent and the message sizes are not stated: free values. -/
def execGetCapabilities (t : Transport) (req : Bytes) (s : State) : Host.Outcome State Fault Refusal :=
  row s t req (byteAt req 1 == reqCapabilities) (fun s =>
    expect s t req 20 1 (
      if connected s t ≠ 1 then (error errUnexpected 0, s)
      else
        let (v, s) := s.draw 72
        let rsp := [0x13, 0x61, 0, 0, 0, BitVec.ofNat 8 v.toNat, 0, 0] ++ le 4 capFlags ++ le 8 (v.toNat / 256)
        (rsp, setConn (setVca s t (vca s t ++ req ++ rsp)) t 2)))

/-- NEGOTIATE_ALGORITHMS. -/
def execNegotiateAlgorithms (t : Transport) (req : Bytes) (s : State) : Host.Outcome State Fault Refusal :=
  row s t req (byteAt req 1 == reqAlgorithms) (fun s =>
    expect s t req 32 2 (
      if connected s t ≠ 2 then (error errUnexpected 0, s)
      else if !bit (fieldLe req 8 4) 7 || !bit (fieldLe req 12 4) 1 || fieldLe req 4 2 != req.length then (error errInvalid 0, s)
      else
        let rsp := algorithmsRsp req
        (rsp, setConn (setVca s t (vca s t ++ req ++ rsp)) t 3)))

/-- GET_DIGESTS: slot 0, or no slot. -/
def execGetDigests (t : Transport) (req : Bytes) (s : State) : Host.Outcome State Fault Refusal :=
  row s t req (byteAt req 1 == reqDigests) (fun s =>
    expect s t req 4 3 (
      let mask : Byte := if (chain s).isSome then 1 else 0
      let rsp := [0x13, 0x01, 1, mask] ++ (if (chain s).isSome then chainHash s else [])
      (rsp, setChal s t (chal s t ++ req ++ rsp))))

/-- GET_CERTIFICATE: a portion of slot 0's chain, or its size. -/
def execGetCertificate (t : Transport) (req : Bytes) (s : State) : Host.Outcome State Fault Refusal :=
  row s t req (byteAt req 1 == reqCertificate) (fun s =>
    expect s t req 8 3 (
      match chain s with
      | none => (error errInvalid 0, s)
      | some c =>
        let ofs := fieldLe req 4 2
        let sizeOnly := (byteAt req 3).getLsbD 0
        if (byteAt req 2).toNat % 16 ≠ 0 ∨ (!sizeOnly ∧ c.length ≤ ofs) then (error errInvalid 0, s)
        else
          let part := if sizeOnly then [] else (c.drop ofs).take (fieldLe req 6 2)
          let rest := if sizeOnly then c.length else c.length - ofs - part.length
          let rsp := [0x13, 0x02, 0, 0] ++ le 2 part.length ++ le 2 rest ++ part
          (rsp, setChal s t (chal s t ++ req ++ rsp))))

/-- CHALLENGE. The answer waits for the Keep DRBG (R245). -/
def execChallenge (t : Transport) (req : Bytes) (s : State) : Host.Outcome State Fault Refusal :=
  if released s && !drbgServes s 8 then done s
  else row s t req (byteAt req 1 == reqChallenge) (fun s =>
    expect s t req 44 3 (
      match chain s, s.boot.aliasKey, summary s (byteAt req 3) with
      | some c, some d, some sum =>
        if byteAt req 2 ≠ 0 then (error errInvalid 0, s)
        else
          let (n, s) := drbgGen s 8 32
          let body := [0x13, 0x03, 0, 1] ++ Hash.sha384 c ++ n ++ sum ++ le 2 0 ++ slice req 36 8
          let (sig, s) := sign s d "responder-challenge_auth signing" (vca s t ++ chal s t ++ req ++ body)
          (body ++ sig, setChal s t [])
      | _, _, _ => (error errInvalid 0, s)))

/-- GET_MEASUREMENTS (R372). The answer waits for the Keep DRBG (R245). -/
def execGetMeasurements (t : Transport) (req : Bytes) (s : State) : Host.Outcome State Fault Refusal :=
  if released s && !drbgServes s 8 then done s
  else row s t req (byteAt req 1 == reqMeasurements) (fun s =>
    let signed := (byteAt req 2).getLsbD 0
    expect s t req (if signed then 45 else 12) 3 (
      let op := (byteAt req 3).toNat
      let context := if signed then slice req 37 8 else slice req 4 8
      match measIndices op with
      | none => (error errInvalid 0, s)
      | some is =>
        let blocks := is.flatMap (measBlock s)
        let (n, s) := drbgGen s 8 32
        let body := [0x13, 0x60, if op = 0 then 25 else 0, 0, BitVec.ofNat 8 is.length] ++ le 3 blocks.length ++ blocks ++ n ++
          le 2 0 ++ context
        let l := measured s t ++ req ++ body
        if !signed then (body, setMeas s t l)
        else
          match s.boot.aliasKey with
          | none => (error errUnspecified 0, s)
          | some d =>
            if (byteAt req 36).toNat % 16 ≠ 0 then (error errInvalid 0, s)
            else
              let (sig, s) := sign s d "responder-measurements signing" (vca s t ++ l)
              (body ++ sig, setMeas s t [])))

/-- KEY_EXCHANGE, on DOE; the answer waits for the Keep DRBG (R245). At most two sessions, of which the older is evicted. -/
def execKeyExchange (t : Transport) (req : Bytes) (s : State) : Host.Outcome State Fault Refusal :=
  if released s && !drbgServes s 8 then done s
  else row s t req (byteAt req 1 == reqKeyExchange && t == .doe) (fun s =>
    expect s t req 138 3 (
      match chain s, s.boot.aliasKey, summary s (byteAt req 2), Ec.decode Ec.p384 (0x04 :: slice req 40 96) with
      | some c, some d, some sum, some peer =>
        if byteAt req 3 ≠ 0 ∨ req.length ≠ 138 + fieldLe req 136 2 then (error errInvalid 0, s)
        else
          let (rnd, s) := drbgGen s 8 32
          let (eph, s) := drbgGen s 8 56
          let x := scalar384 eph
          let own := (pub384 x).drop 1
          let shared := slice (Ec.encode Ec.p384 (Ec.smul Ec.p384 x (some peer))) 1 48
          let rspId := s.spdm.issued % 65535 + 1
          let body := [0x13, 0x64, 0, 0] ++ le 2 rspId ++ [0, 0] ++ rnd ++ own ++ sum ++ le 2 0
          let th := vca s t ++ Hash.sha384 c ++ req ++ body
          let (sig, s) := sign s d "responder-key_exchange_rsp signing" th
          let th := th ++ sig
          let secret := Hash.hmac .sha384 (zeros 48) shared
          let verify := Hash.hmac .sha384 (finishedKey secret "rsp hs data" (Hash.sha384 th)) (Hash.sha384 th)
          let ses : SpdmSession := {
            id := BitVec.ofNat 32 (fieldLe req 4 2 + rspId * 65536)
            transcript := th ++ verify
            reqFinished := finishedKey secret "req hs data" (Hash.sha384 th)
            secret := secret }
          let keep := if s.spdm.sessions.length < 2 then s.spdm.sessions else s.spdm.sessions.drop (s.spdm.sessions.length - 1)
          (body ++ sig ++ verify, { s with spdm := { s.spdm with
            sessions := keep ++ [ses]
            issued := s.spdm.issued + 1 } })
      | _, _, _, _ => (error errInvalid 0, s)))

/-- FINISH in the session that it names: a verify data that fails ends the session. -/
def execFinish (t : Transport) (session : BitVec 32) (req : Bytes) (s : State) : Host.Outcome State Fault Refusal :=
  row s t req (byteAt req 1 == reqFinish && t == .doe) (fun s =>
    expect s t req 52 3 (
      let others := s.spdm.sessions.filter (fun x => x.id != session)
      match s.spdm.sessions.find? (fun x => x.id == session) with
      | none => (error errSession 0, s)
      | some x =>
        if x.established then (error errUnexpected 0, s)
        else if (byteAt req 2).getLsbD 0 then (error errInvalid 0, s)
        else if Hash.hmac .sha384 x.reqFinished (Hash.sha384 (x.transcript ++ req.take 4)) ≠ slice req 4 48 then
          (error errDecrypt 0, { s with spdm := { s.spdm with sessions := others } })
        else
          let rsp : Bytes := [0x13, 0x65, 0, 0]
          let y := { x with
            established := true
            transcript := x.transcript ++ req.take 52 ++ rsp }
          (rsp, { s with spdm := { s.spdm with
            sessions := s.spdm.sessions.map (fun z => if z.id == session then y else z) } })))

/-- Codes of the subset on a transport: KEY_EXCHANGE and FINISH on DOE only. -/
def spdmServes (t : Transport) (code : Byte) : Bool :=
  [reqVersion, reqCapabilities, reqAlgorithms, reqDigests, reqCertificate, reqChallenge, reqMeasurements].contains code ||
    (t == .doe && (code == reqKeyExchange || code == reqFinish))

/-- Any other request: ERROR UnsupportedRequest; on MCTP before release any request: ERROR Busy. -/
def execSpdmUnsupportedRequest (t : Transport) (req : Bytes) (s : State) : Host.Outcome State Fault Refusal :=
  row s t req (!spdmServes t (byteAt req 1) || !released s) (fun s => (error errUnsupported (byteAt req 1), s))

/-! ### I3C (R373) -/

/-- The 64-byte status block. -/
def statusBlock (s : State) : Bytes :=
  let b := s.boot
  let flags := b2n (s.dev.causes != 0) + 2 * b2n b.solo + 4 * b2n b.faultN + 8 * b2n s.scr.tamperN + 16 * b2n b.bankB +
    32 * b2n b.fallback
  [1, BitVec.ofNat 8 b.phase.code, BitVec.ofNat 8 (if b.phase = .stall then b.stall else 0), BitVec.ofNat 8 b.detail,
    BitVec.ofNat 8 b.haltReason, BitVec.ofNat 8 (if b.phase = .hold then s.scr.firstCause else 0), BitVec.ofNat 8 flags, 0] ++
    le 8 Config.unitSerial.toNat ++ le 4 (lcStateWord s) ++ le 4 (lcProgressWord s) ++ le 4 b.count ++ le 4 (yokeStateWord s) ++
    le 4 Config.romVersion.toNat ++ le 4 ((s.tmr.now - b.beganAt) / 1000000) ++ zeros 24

/-- I3C_PRIVATE_WRITE: one byte sets the read offset. -/
def execI3cPrivateWrite (b : Byte) (s : State) : Host.Outcome State Fault Refusal :=
  done (if s.pwr.rails then { s with spdm := { s.spdm with i3cOfs := b.toNat } } else s)

/-- I3C_PRIVATE_READ: bytes of the block from the offset; beyond its end nothing is stated, and the bytes are free values. -/
def execI3cPrivateRead (len : Nat) (s : State) : Host.Outcome State Fault Refusal :=
  done (
    if !s.pwr.rails then s
    else
      let known := ((statusBlock s).drop s.spdm.i3cOfs).take len
      let (v, s) := s.draw (8 * (len - known.length))
      { s with spdm := { s.spdm with i3cData := known ++ le (len - known.length) v.toNat } })

/-- I3C_DYNAMIC_ADDRESS: SETDASA or ENTDAA. -/
def execI3cDynamicAddress (addr : BitVec 7) (s : State) : Host.Outcome State Fault Refusal :=
  done (if s.pwr.rails then { s with spdm := { s.spdm with i3cAddr := some addr } } else s)

end Sys2Proof.Machine
end

