-- ==== Sys2Proof/Machine/TallyFns.lean ====
section
/-! DEFINITION. TALLY_EXPORT and TALLY_CLEAR (18_tally.md R387 to R389). -/

set_option linter.unusedVariables false

namespace Sys2Proof.Machine

open Sys2Proof Sys2Proof.Bits

/-! ### TALLY_EXPORT (R388, R389) -/

/-- Fields of a TALLY_EXPORT input. -/
structure ExportReq where
  first : Nat
  limit : Nat
  filter : Nat
deriving DecidableEq, Repr

def exportReq (b : Bytes) : ExportReq where
  first := fieldLe b 0 4
  limit := fieldLe b 4 4
  filter := fieldLe b 8 2

/-- The selected entries: in the log at or above the first sequence, through the filter, up to the limit. -/
def exportSel (t : Tally) (r : ExportReq) : List TalEntry :=
  (t.log.filter (fun x => decide (r.first ≤ x.seq) && (r.filter == 0xFFFF || x.part.toNat == r.filter))).take r.limit

/-- Failed tags among the entries from sequence lo to hi, each against the stored tag of the entry before it. An entry that MRAM reads as uncorrectable fails (R270). -/
def chainFails (s : State) (k : Bytes) (lo hi : Nat) (prev : Bytes) : List TalEntry → Nat
  | [] => 0
  | x :: xs =>
    (if lo ≤ x.seq ∧ x.seq ≤ hi ∧ (Tal.tagOf k prev x ≠ x.tag ∨ Tal.unreadable s x) then 1 else 0) + chainFails s k lo hi x.tag xs

/-- The 64-byte header. -/
def exportHeader (s : State) (r : ExportReq) (assisted : Bool) (sel : List TalEntry) : Bytes :=
  let lo := ((sel.head?).map (·.seq)).getD 0
  let hi := ((sel.getLast?).map (·.seq)).getD 0
  let bad := if sel.isEmpty then 0 else chainFails s (Tal.key s) lo hi s.tal.prevTag s.tal.log
  let last := (sel.getLast?).isSome && hi + 1 == s.tal.next
  let flags := b2n (r.filter != 0xFFFF) + 2 * b2n assisted + 4 * b2n last
  [0x54, 0x53, 0x45, 0x47] ++ le 2 1 ++ [BitVec.ofNat 8 flags, 0] ++ le 8 Config.unitSerial.toNat ++ le 4 s.boot.count ++
    le 4 sel.length ++ le 4 lo ++ le 4 hi ++ le 4 bad ++ le 2 r.filter ++ zeros 2 ++ le 8 (Tal.stamp s).1.toNat ++ zeros 16

/-- TALLY_EXPORT: DEGRADED without an alias key. In host-assisted form the host's header, but for its time of export (log 76), and
its entries are compared, and only the signature is returned. -/
def execTallyExport (e : Fin 69632) (dma : Dma) (s : State) : Host.Outcome State Fault Refusal :=
  runAdmin 0xE040 e dma .own s (fun _ => true) (fun s b =>
    let assist := assisted s e
    let r := exportReq b
    let sel := exportSel s.tal r
    let head := exportHeader s r assist sel
    let body := sel.flatMap (Tal.shown s)
    let rest := b.drop 16
    let host := rest.take 64
    let fields := decide (1 ≤ r.limit ∧ r.limit ≤ 65536) && allZero (slice b 10 6)
    match s.boot.aliasKey with
    | none => ends St.degraded s
    | some d =>
      check (b.length == 16 + (if assist then 64 + 64 * sel.length else 0)) St.badLength s
        (check fields St.badFormat s
          (check (!assist || (host.take 40 == head.take 40 && host.drop 48 == head.drop 48 && rest.drop 64 == body)) St.badFormat s
            (whenKeepRandom s (fun s =>
              let seg := (if assist then host else head) ++ body
              let (sig, s) := sign384 s d seg
              endsOk s 0 (if assist then sig else seg ++ sig))))))

/-! ### TALLY_CLEAR (R387) -/

/-- Windows that show an entry of the log: the PF's and those of the entries' partitions, where the cursor stands on it (R386). -/
def showingWindows (s : State) : List Nat :=
  s.tal.log.flatMap (fun x =>
    ([0] ++ (if x.part.toNat < 2048 then [x.part.toNat + 1] else [])).filter (fun f => cursorOf s f == x.seq))

/-- The log restarts empty: its start, its counters and its thresholds. A window that shows an entry no longer has it (R390). -/
def emptyLog (s : State) : State :=
  setIntRaw { s with tal := { s.tal with
    cleared := showingWindows s
    log := []
    prevTag := Tal.lastTag s.tal
    main := 0
    tail := 0
    full := false
    lost := 0
    lostSat := false
    fired := 0 } } talPage (s.reg (intRawOf talPage) &&& 0xFFFFFFF0)

/-- The clear record is the first entry of the new log. -/
def clearLog (s : State) : State :=
  let log := s.tal.log
  let first := ((log.head?).map (·.seq)).getD s.tal.next
  let d : Tal.Draft := {
    code := 0x0104
    fn := 0xE041
    data := le 4 first ++ le 4 log.length ++ (Hash.sha384 (log.flatMap (Tal.shown s))).take 24 }
  Tal.checkFill (Tal.write (emptyLog s) d d.data false false)

/-- TALLY_CLEAR: the D4 quorum, the expected last sequence, the sequence not stuck; then hash, record and restart. -/
def execTallyClear (e : Fin 69632) (dma : Dma) (s : State) : Host.Outcome State Fault Refusal :=
  runAdmin 0xE041 e dma .none s (fun _ => true) (fun s b =>
    withQuorum s e [.dev 4] 8 (fun s =>
      check (allZero (slice b 4 4)) St.badFormat s
        (check (fieldLe b 0 4 + 1 == s.tal.next) St.formatRule s
          (check (!s.tal.stuck) St.auditFull s
            (endsOk (clearLog s) (BitVec.ofNat 64 s.tal.next) [])))))

end Sys2Proof.Machine
end

