-- ==== Sys2Proof/Machine/Transitions.lean ====
section
/-! DEFINITION. LIFECYCLE_TRANSITION, one row per transition (15_life_cycle.md R329 to R337). -/

set_option linter.unusedVariables false

namespace Sys2Proof.Machine

open Sys2Proof Sys2Proof.Bits

/-! ### The input (R330) -/

/-- Fields of a LIFECYCLE_TRANSITION input. -/
structure LcReq where
  code : Nat
  signer : Nat
  root : Nat
  nonce : BitVec 64
  len : Nat
  body : Bytes
  sig : Bytes
deriving DecidableEq, Repr

def lcReq (b : Bytes) : LcReq where
  code := (byteAt b 0).toNat
  signer := (byteAt b 1).toNat
  root := (byteAt b 2).toNat
  nonce := BitVec.ofNat 64 (fieldLe b 12 8)
  len := fieldLe b 20 2
  body := slice b 32 (fieldLe b 20 2)
  sig := slice b (32 + fieldLe b 20 2) 96

/-- Bytes before the token set. -/
def LcReq.fixed (r : LcReq) : Nat := 128 + r.len

/-! ### The checks (R331) -/

/-- Check 1: states from which a transition is made (R329). -/
def lcFrom (s : State) (code : Nat) : Bool :=
  let c := lcCode s
  match code with
  | 1 => c == lcBlank
  | 2 => c == lcTest
  | 3 | 4 => c == lcMinted
  | 5 => c == lcEnrolled
  | 6 => (c == lcEnrolled || c == lcField) && !s.grn.present
  | 7 => c == lcTest || c == lcMinted
  | 8 => c == lcEnrolled || c == lcField
  | 9 => c == lcTest || c == lcMinted || c == lcAnalysis
  | _ => false

/-- A transition needs the D6 quorum. -/
def lcNeedsQuorum (s : State) (code : Nat) : Bool := code == 5 || (code == 8 && s.grn.present)

/-- Check 2: reserved bytes, the body's length, and the input's. -/
def lcForm (s : State) (r : LcReq) (b : Bytes) : Bool :=
  let nr := (byteAt r.body 0).toNat
  let no := (byteAt r.body 1).toNat
  let keys := 2 ≤ no ∧ no ≤ 16 ∧ fieldLe r.body 2 2 = 0 ∧ r.len = 12 + 97 * (nr + no)
  let bodyOk : Bool :=
    match r.code with
    | 3 => decide (1 ≤ r.len ∧ r.len ≤ 2048)
    | 4 => decide (12 ≤ r.len ∧ keys ∧ 1 ≤ nr ∧ nr ≤ 4)
    | 6 => decide (12 ≤ r.len ∧ keys ∧ nr = 0 ∧ fieldLe r.body 4 8 = 0)
    | _ => r.len == 0
  byteAt b 3 == 0 && allZero (slice b 22 10) && (r.signer == 2 || r.root == 0) && bodyOk &&
    (if lcNeedsQuorum s r.code then decide (r.fixed ≤ b.length) else b.length == r.fixed)

/-- The key of check 5: that of a signer which the transition allows. -/
def lcKey (s : State) (r : LcReq) : Option Bytes :=
  let oem : Option Bytes :=
    if r.signer = 2 ∧ r.root < 4 ∧ s.lc.otp.enrolled.getLsbD r.root then some (Map.get [] s.lc.otp.rootKey r.root) else none
  let masidric : Option Bytes := if r.signer = 1 ∧ r.root = 0 then some Config.manufacturingKey else none
  match r.code with
  | 1 | 2 | 3 | 7 => masidric
  | 4 => if r.signer = 2 ∧ r.root = 0 then (bodyRoots r.body).head? else none
  | 9 => if lcCode s = lcAnalysis ∧ r.signer = 2 then oem else masidric
  | _ => if s.lc.otp.revoked.getLsbD r.root then none else oem

/-- VBAT in its operating range, on the filtered channel. -/
def vbatInRange (s : State) : Bool :=
  let x := s.chan chanVbat
  x.on && decide (2500 ≤ x.y ∧ x.y ≤ 3600)

/-- Check 7: preconditions. -/
def lcReady (s : State) (r : LcReq) : Bool :=
  match r.code with
  | 3 => s.lc.cert.isNone && Der.pubKey r.body == s.lc.identityPub
  | 4 | 6 => vbatInRange s && s.scr.present == 0
  | 5 => s.parts.all (fun x => x.2.state == .empty && !x.2.configured)
  | _ => true

/-- Checks 4 to 6. The nonce is consumed once check 5 passes, and the tokens of the quorum may name it (R331). -/
def lcAuthorize (s : State) (e : Nat) (r : LcReq) (b : Bytes) (k : State → FnEnd) : FnEnd :=
  match (s.entry e).polPhase, nonceOf s r.nonce with
  | .answered, _ => k s
  | _, none => ends St.formatRule s
  | _, some n =>
    match lcKey s r with
    | none => ends St.signatureInvalid s
    | some key =>
      check (verify384 key r.sig (b.take (32 + r.len))) St.signatureInvalid s
        (if lcNeedsQuorum s r.code then
          let (ok, s) := quorumRun s e (ownRoster s) [.dev 6] (Hash.sha384 (b.take r.fixed)) (b.drop r.fixed)
          let s := consumeNonce s n
          if ok then k (answered s) else ends St.quorumRequired s
        else k (answered (consumeNonce s n)))
where
  answered (s : State) : State := s.modEntry e (fun x => { x with polPhase := .answered })

/-- The steps run, and the completion: the identity public key of 0x02, else the new state code (R332). -/
def lcPerform (s : State) (r : LcReq) (b : Bytes) : FnEnd :=
  let s := lcRun r.code (digest384 (Hash.sha384 (b.take r.fixed))) r.body s
  if r.code = 2 then endsOk s 0 s.lc.identityPub else endsOk s (BitVec.ofNat 64 (lcCode s)) []

/-- Wait for random output where the steps draw keys or a root. -/
def lcRandom (code : Nat) (s : State) (k : State → FnEnd) : FnEnd :=
  if code = 2 ∨ code = 4 ∨ code = 6 then whenKeepRandom s k else k s

/-- The row of a transition. -/
def runLc (e : Nat) (dma : Dma) (s : State) (mine : Nat → Bool) : Host.Outcome State Fault Refusal :=
  runAdmin 0xE060 e dma .none s (fun b => mine (byteAt b 0).toNat) (fun s b =>
    let r := lcReq b
    check (decide (r.code ≠ 2) || decide (97 ≤ (s.entry e).desc.outCap)) St.badLength s
      (check (lcFrom s r.code) St.formatRule s
        (check (lcForm s r b) St.badFormat s
          (check (fieldLe b 4 8 == Config.unitSerial.toNat) St.formatRule s
            (lcAuthorize s e r b (fun s =>
              check (lcReady s r) St.formatRule s (lcRandom r.code s (fun s => lcPerform s r b))))))))

/-- Transition 0x01. A code that R329 does not list ends here with FORMAT_RULE. -/
def execLifecycleBlankToTest (e : Fin 69632) (dma : Dma) (s : State) : Host.Outcome State Fault Refusal :=
  runLc e dma s (fun c => decide (c < 2 ∨ 9 < c))

/-- Transition 0x02. -/
def execLifecycleTestToMinted (e : Fin 69632) (dma : Dma) (s : State) : Host.Outcome State Fault Refusal := runLc e dma s (· == 2)

/-- Transition 0x03. -/
def execLifecycleCertInstall (e : Fin 69632) (dma : Dma) (s : State) : Host.Outcome State Fault Refusal := runLc e dma s (· == 3)

/-- Transition 0x04. -/
def execLifecycleMintedToEnrolled (e : Fin 69632) (dma : Dma) (s : State) : Host.Outcome State Fault Refusal := runLc e dma s (· == 4)

/-- Transition 0x05. -/
def execLifecycleEnrolledToField (e : Fin 69632) (dma : Dma) (s : State) : Host.Outcome State Fault Refusal := runLc e dma s (· == 5)

/-- Transition 0x06. -/
def execLifecycleReenrollment (e : Fin 69632) (dma : Dma) (s : State) : Host.Outcome State Fault Refusal := runLc e dma s (· == 6)

/-- Transition 0x07. -/
def execLifecycleToAnalysisMasidric (e : Fin 69632) (dma : Dma) (s : State) : Host.Outcome State Fault Refusal := runLc e dma s (· == 7)

/-- Transition 0x08. -/
def execLifecycleToAnalysisOem (e : Fin 69632) (dma : Dma) (s : State) : Host.Outcome State Fault Refusal := runLc e dma s (· == 8)

/-- Transition 0x09. -/
def execLifecycleToScrap (e : Fin 69632) (dma : Dma) (s : State) : Host.Outcome State Fault Refusal := runLc e dma s (· == 9)

end Sys2Proof.Machine
end

