-- ==== Sys2Proof/Machine/Dispatch.lean ====
section
/-! DEFINITION. One arm per command: a direct call of its meaning, or a rejection by name. -/

namespace Sys2Proof.Machine

def exec (i : Instr) (s : State) : Host.Outcome State Fault Refusal :=
  match i with
  | .coldReset env => Sys2Proof.Machine.execColdReset env s
  | .perstNAssert => Sys2Proof.Machine.execPerstNAssert s
  | .perstNDeassert env => Sys2Proof.Machine.execPerstNDeassert env s
  | .bootReleaseWrite => Sys2Proof.Machine.execBootReleaseWrite s
  | .bootReleaseWatchdog env => Sys2Proof.Machine.execBootReleaseWatchdog env s
  | .hbmTrainingDone die pcPass lanes => Sys2Proof.Machine.execHbmTrainingDone die pcPass lanes s
  | .winnowerStartupDone start => Sys2Proof.Machine.execWinnowerStartupDone start s
  | .winnowerStartupTimeout start katFail => Sys2Proof.Machine.execWinnowerStartupTimeout start katFail s
  | .flitCrcFail link => Sys2Proof.Machine.execFlitCrcFail link s
  | .linkRetrainDone link goodLanes => Sys2Proof.Machine.execLinkRetrainDone link goodLanes s
  | .sqDbWrite f n v => Sys2Proof.Machine.execSqDbWrite f n v s
  | .cqDbWrite f n v => Sys2Proof.Machine.execCqDbWrite f n v s
  | .sqEnable f n v => Sys2Proof.Machine.execSqEnable f n v s
  | .sqDisable f n v => Sys2Proof.Machine.execSqDisable f n v s
  | .cqEnable f n v => Sys2Proof.Machine.execCqEnable f n v s
  | .cqDisable f n v => Sys2Proof.Machine.execCqDisable f n v s
  | .descriptorFetch f n => Sys2Proof.Machine.execDescriptorFetch f n s
  | .descriptorArrival e dma => Sys2Proof.Machine.execDescriptorArrival e dma s
  | .requestAging e => Sys2Proof.Machine.execRequestAging e s
  | .requestDispatch die => Sys2Proof.Machine.execRequestDispatch die s
  | .classWatchdogExpiry e => Sys2Proof.Machine.execClassWatchdogExpiry e s
  | .tuWatchdogExpiry e => Sys2Proof.Machine.execTuWatchdogExpiry e s
  | .reqComplete c v => Sys2Proof.Machine.execReqComplete c v s
  | .completionStaged e => Sys2Proof.Machine.execCompletionStaged e s
  | .releaseToWriting e => Sys2Proof.Machine.execReleaseToWriting e s
  | .completionTlpIssued e dma => Sys2Proof.Machine.execCompletionTlpIssued e dma s
  | .cqModTimerExpiry f n => Sys2Proof.Machine.execCqModTimerExpiry f n s
  | .flr p => Sys2Proof.Machine.execFlr p s
  | .generationIncrement p => Sys2Proof.Machine.execGenerationIncrement p s
  | .pinTranslate e dma => Sys2Proof.Machine.execPinTranslate e dma s
  | .pinTranslateDukpt e dma => Sys2Proof.Machine.execPinTranslateDukpt e dma s
  | .pinVerifyOffset e dma => Sys2Proof.Machine.execPinVerifyOffset e dma s
  | .pinVerifyPvv e dma => Sys2Proof.Machine.execPinVerifyPvv e dma s
  | .pinOffsetGenerate e dma => Sys2Proof.Machine.execPinOffsetGenerate e dma s
  | .pvvGenerate e dma => Sys2Proof.Machine.execPvvGenerate e dma s
  | .macGenerate e dma => Sys2Proof.Machine.execMacGenerate e dma s
  | .macVerify e dma => Sys2Proof.Machine.execMacVerify e dma s
  | .macGenerateDukpt e dma => Sys2Proof.Machine.execMacGenerateDukpt e dma s
  | .macVerifyDukpt e dma => Sys2Proof.Machine.execMacVerifyDukpt e dma s
  | .arqcVerify e dma => Sys2Proof.Machine.execArqcVerify e dma s
  | .cvvGenerate e dma => Sys2Proof.Machine.execCvvGenerate e dma s
  | .cvvVerify e dma => Sys2Proof.Machine.execCvvVerify e dma s
  | .keyblockImport e dma => Sys2Proof.Machine.execKeyblockImport e dma s
  | .keyblockExport e dma => Sys2Proof.Machine.execKeyblockExport e dma s
  | .keyGenerate e dma => Sys2Proof.Machine.execKeyGenerate e dma s
  | .keyDelete e dma => Sys2Proof.Machine.execKeyDelete e dma s
  | .dukptInitialKeyExport e dma => Sys2Proof.Machine.execDukptInitialKeyExport e dma s
  | .keyCheckValue e dma => Sys2Proof.Machine.execKeyCheckValue e dma s
  | .rsaSign e dma => Sys2Proof.Machine.execRsaSign e dma s
  | .rsaVerify e dma => Sys2Proof.Machine.execRsaVerify e dma s
  | .ecdsaSign e dma => Sys2Proof.Machine.execEcdsaSign e dma s
  | .ecdsaVerify e dma => Sys2Proof.Machine.execEcdsaVerify e dma s
  | .ed25519Sign e dma => Sys2Proof.Machine.execEd25519Sign e dma s
  | .ed25519Verify e dma => Sys2Proof.Machine.execEd25519Verify e dma s
  | .ecdhDerive e dma => Sys2Proof.Machine.execEcdhDerive e dma s
  | .mlkemEncaps e dma => Sys2Proof.Machine.execMlkemEncaps e dma s
  | .mlkemDecaps e dma => Sys2Proof.Machine.execMlkemDecaps e dma s
  | .mldsaSign e dma => Sys2Proof.Machine.execMldsaSign e dma s
  | .mldsaVerify e dma => Sys2Proof.Machine.execMldsaVerify e dma s
  | .keypairGenerate e dma => Sys2Proof.Machine.execKeypairGenerate e dma s
  | .gcmEncrypt e dma => Sys2Proof.Machine.execGcmEncrypt e dma s
  | .gcmDecrypt e dma => Sys2Proof.Machine.execGcmDecrypt e dma s
  | .ccmEncrypt e dma => Sys2Proof.Machine.execCcmEncrypt e dma s
  | .ccmDecrypt e dma => Sys2Proof.Machine.execCcmDecrypt e dma s
  | .xtsEncrypt e dma => Sys2Proof.Machine.execXtsEncrypt e dma s
  | .xtsDecrypt e dma => Sys2Proof.Machine.execXtsDecrypt e dma s
  | .random e dma => Sys2Proof.Machine.execRandom e dma s
  | .hash e dma => Sys2Proof.Machine.execHash e dma s
  | .hmacGenerate e dma => Sys2Proof.Machine.execHmacGenerate e dma s
  | .hmacVerify e dma => Sys2Proof.Machine.execHmacVerify e dma s
  | .partitionConfigureSet e dma => Sys2Proof.Machine.execPartitionConfigureSet e dma s
  | .partitionConfigurePurgeSlots e dma => Sys2Proof.Machine.execPartitionConfigurePurgeSlots e dma s
  | .partitionConfigureRemoveSeen e dma => Sys2Proof.Machine.execPartitionConfigureRemoveSeen e dma s
  | .partitionConfigureChangeQuota e dma => Sys2Proof.Machine.execPartitionConfigureChangeQuota e dma s
  | .partitionResetRestart e dma => Sys2Proof.Machine.execPartitionResetRestart e dma s
  | .partitionResetRelease e dma => Sys2Proof.Machine.execPartitionResetRelease e dma s
  | .partitionFreezeDrain e dma => Sys2Proof.Machine.execPartitionFreezeDrain e dma s
  | .partitionFreezeAbort e dma => Sys2Proof.Machine.execPartitionFreezeAbort e dma s
  | .partitionFreezeThaw e dma => Sys2Proof.Machine.execPartitionFreezeThaw e dma s
  | .partitionActivate e dma => Sys2Proof.Machine.execPartitionActivate e dma s
  | .hamperSeal e dma image => Sys2Proof.Machine.execHamperSeal e dma image s
  | .hamperRestore e dma image => Sys2Proof.Machine.execHamperRestore e dma image s
  | .fnSplitSet e dma => Sys2Proof.Machine.execFnSplitSet e dma s
  | .dectableInstall e dma => Sys2Proof.Machine.execDectableInstall e dma s
  | .velocityPolicySet e dma => Sys2Proof.Machine.execVelocityPolicySet e dma s
  | .slotManageCreate e dma => Sys2Proof.Machine.execSlotManageCreate e dma s
  | .slotManageImport e dma => Sys2Proof.Machine.execSlotManageImport e dma s
  | .slotManagePublish e dma => Sys2Proof.Machine.execSlotManagePublish e dma s
  | .slotManageChange e dma => Sys2Proof.Machine.execSlotManageChange e dma s
  | .slotManageErase e dma => Sys2Proof.Machine.execSlotManageErase e dma s
  | .officerEnrollAdd e dma => Sys2Proof.Machine.execOfficerEnrollAdd e dma s
  | .officerEnrollRemove e dma => Sys2Proof.Machine.execOfficerEnrollRemove e dma s
  | .quorumPolicySet e dma => Sys2Proof.Machine.execQuorumPolicySet e dma s
  | .yokeSwitch e dma => Sys2Proof.Machine.execYokeSwitch e dma s
  | .timeAdjustOffset e dma => Sys2Proof.Machine.execTimeAdjustOffset e dma s
  | .timeAdjustAbsolute e dma => Sys2Proof.Machine.execTimeAdjustAbsolute e dma s
  | .tallyExport e dma => Sys2Proof.Machine.execTallyExport e dma s
  | .tallyClear e dma => Sys2Proof.Machine.execTallyClear e dma s
  | .resealForward e dma => Sys2Proof.Machine.execResealForward e dma s
  | .imageInstallSet e dma image => Sys2Proof.Machine.execImageInstallSet e dma image s
  | .imageInstallScarecrowConfig e dma => Sys2Proof.Machine.execImageInstallScarecrowConfig e dma s
  | .imageInstallCommitRevisions e dma => Sys2Proof.Machine.execImageInstallCommitRevisions e dma s
  | .lifecycleBlankToTest e dma => Sys2Proof.Machine.execLifecycleBlankToTest e dma s
  | .lifecycleTestToMinted e dma => Sys2Proof.Machine.execLifecycleTestToMinted e dma s
  | .lifecycleCertInstall e dma => Sys2Proof.Machine.execLifecycleCertInstall e dma s
  | .lifecycleMintedToEnrolled e dma => Sys2Proof.Machine.execLifecycleMintedToEnrolled e dma s
  | .lifecycleEnrolledToField e dma => Sys2Proof.Machine.execLifecycleEnrolledToField e dma s
  | .lifecycleReenrollment e dma => Sys2Proof.Machine.execLifecycleReenrollment e dma s
  | .lifecycleToAnalysisMasidric e dma => Sys2Proof.Machine.execLifecycleToAnalysisMasidric e dma s
  | .lifecycleToAnalysisOem e dma => Sys2Proof.Machine.execLifecycleToAnalysisOem e dma s
  | .lifecycleToScrap e dma => Sys2Proof.Machine.execLifecycleToScrap e dma s
  | .lifecycleSelfReset env => Sys2Proof.Machine.execLifecycleSelfReset env s
  | .kxAdd c rd ra rb => Sys2Proof.Machine.execKxAdd c rd ra rb s
  | .kxSub c rd ra rb => Sys2Proof.Machine.execKxSub c rd ra rb s
  | .kxAnd c rd ra rb => Sys2Proof.Machine.execKxAnd c rd ra rb s
  | .kxOr c rd ra rb => Sys2Proof.Machine.execKxOr c rd ra rb s
  | .kxXor c rd ra rb => Sys2Proof.Machine.execKxXor c rd ra rb s
  | .kxAndn c rd ra rb => Sys2Proof.Machine.execKxAndn c rd ra rb s
  | .kxShl c rd ra rb => Sys2Proof.Machine.execKxShl c rd ra rb s
  | .kxShr c rd ra rb => Sys2Proof.Machine.execKxShr c rd ra rb s
  | .kxSra c rd ra rb => Sys2Proof.Machine.execKxSra c rd ra rb s
  | .kxRol c rd ra rb => Sys2Proof.Machine.execKxRol c rd ra rb s
  | .kxSlt c rd ra rb => Sys2Proof.Machine.execKxSlt c rd ra rb s
  | .kxSltu c rd ra rb => Sys2Proof.Machine.execKxSltu c rd ra rb s
  | .kxMin c rd ra rb => Sys2Proof.Machine.execKxMin c rd ra rb s
  | .kxMax c rd ra rb => Sys2Proof.Machine.execKxMax c rd ra rb s
  | .kxMinu c rd ra rb => Sys2Proof.Machine.execKxMinu c rd ra rb s
  | .kxMaxu c rd ra rb => Sys2Proof.Machine.execKxMaxu c rd ra rb s
  | .kxAddq c rd ra rb => Sys2Proof.Machine.execKxAddq c rd ra rb s
  | .kxSubq c rd ra rb => Sys2Proof.Machine.execKxSubq c rd ra rb s
  | .kxNegq c rd ra => Sys2Proof.Machine.execKxNegq c rd ra s
  | .kxAbsq c rd ra => Sys2Proof.Machine.execKxAbsq c rd ra s
  | .kxClz c rd ra => Sys2Proof.Machine.execKxClz c rd ra s
  | .kxPopc c rd ra => Sys2Proof.Machine.execKxPopc c rd ra s
  | .kxBcdadd c rd ra rb => Sys2Proof.Machine.execKxBcdadd c rd ra rb s
  | .kxBcdsub c rd ra rb => Sys2Proof.Machine.execKxBcdsub c rd ra rb s
  | .kxDadd c rd ra rb => Sys2Proof.Machine.execKxDadd c rd ra rb s
  | .kxDsub c rd ra rb => Sys2Proof.Machine.execKxDsub c rd ra rb s
  | .kxBcd2bin c rd ra => Sys2Proof.Machine.execKxBcd2bin c rd ra s
  | .kxBin2bcd c rd ra => Sys2Proof.Machine.execKxBin2bcd c rd ra s
  | .kxBcdchk c rd ra => Sys2Proof.Machine.execKxBcdchk c rd ra s
  | .kxDtlook c rd ra => Sys2Proof.Machine.execKxDtlook c rd ra s
  | .kxDtset c ra rb => Sys2Proof.Machine.execKxDtset c ra rb s
  | .kxAddi c rd ra imm => Sys2Proof.Machine.execKxAddi c rd ra imm s
  | .kxAndi c rd ra imm => Sys2Proof.Machine.execKxAndi c rd ra imm s
  | .kxOri c rd ra imm => Sys2Proof.Machine.execKxOri c rd ra imm s
  | .kxXori c rd ra imm => Sys2Proof.Machine.execKxXori c rd ra imm s
  | .kxLui c rd imm => Sys2Proof.Machine.execKxLui c rd imm s
  | .kxShi c rd ra kind amt => Sys2Proof.Machine.execKxShi c rd ra kind amt s
  | .kxSlti c rd ra imm => Sys2Proof.Machine.execKxSlti c rd ra imm s
  | .kxSltiu c rd ra imm => Sys2Proof.Machine.execKxSltiu c rd ra imm s
  | .kxLdw c rd ra imm => Sys2Proof.Machine.execKxLdw c rd ra imm s
  | .kxLdh c rd ra imm => Sys2Proof.Machine.execKxLdh c rd ra imm s
  | .kxLdhs c rd ra imm => Sys2Proof.Machine.execKxLdhs c rd ra imm s
  | .kxLdb c rd ra imm => Sys2Proof.Machine.execKxLdb c rd ra imm s
  | .kxLdbs c rd ra imm => Sys2Proof.Machine.execKxLdbs c rd ra imm s
  | .kxStw c rs ra imm => Sys2Proof.Machine.execKxStw c rs ra imm s
  | .kxSth c rs ra imm => Sys2Proof.Machine.execKxSth c rs ra imm s
  | .kxStb c rs ra imm => Sys2Proof.Machine.execKxStb c rs ra imm s
  | .kxBeq c ra rb off => Sys2Proof.Machine.execKxBeq c ra rb off s
  | .kxBne c ra rb off => Sys2Proof.Machine.execKxBne c ra rb off s
  | .kxBlt c ra rb off => Sys2Proof.Machine.execKxBlt c ra rb off s
  | .kxBge c ra rb off => Sys2Proof.Machine.execKxBge c ra rb off s
  | .kxBltu c ra rb off => Sys2Proof.Machine.execKxBltu c ra rb off s
  | .kxBgeu c ra rb off => Sys2Proof.Machine.execKxBgeu c ra rb off s
  | .kxJmp c off => Sys2Proof.Machine.execKxJmp c off s
  | .kxCall c off => Sys2Proof.Machine.execKxCall c off s
  | .kxRet c => Sys2Proof.Machine.execKxRet c s
  | .kxLoopi c len count => Sys2Proof.Machine.execKxLoopi c len count s
  | .kxLoopr c rc len bound => Sys2Proof.Machine.execKxLoopr c rc len bound s
  | .kxIn c r port => Sys2Proof.Machine.execKxIn c r port s
  | .kxOut c r port => Sys2Proof.Machine.execKxOut c r port s
  | .kxMul c ra rb => Sys2Proof.Machine.execKxMul c ra rb s
  | .kxMulu c ra rb => Sys2Proof.Machine.execKxMulu c ra rb s
  | .kxMulf c ra rb => Sys2Proof.Machine.execKxMulf c ra rb s
  | .kxMflo c rd => Sys2Proof.Machine.execKxMflo c rd s
  | .kxMfhi c rd => Sys2Proof.Machine.execKxMfhi c rd s
  | .kxMac c a ra rb => Sys2Proof.Machine.execKxMac c a ra rb s
  | .kxMacu c a ra rb => Sys2Proof.Machine.execKxMacu c a ra rb s
  | .kxMacf c a ra rb => Sys2Proof.Machine.execKxMacf c a ra rb s
  | .kxMsub c a ra rb => Sys2Proof.Machine.execKxMsub c a ra rb s
  | .kxMsubf c a ra rb => Sys2Proof.Machine.execKxMsubf c a ra rb s
  | .kxAccclr c a => Sys2Proof.Machine.execKxAccclr c a s
  | .kxAccset c a ra rb => Sys2Proof.Machine.execKxAccset c a ra rb s
  | .kxAccgl c rd a => Sys2Proof.Machine.execKxAccgl c rd a s
  | .kxAccgh c rd a => Sys2Proof.Machine.execKxAccgh c rd a s
  | .kxAccgg c rd a => Sys2Proof.Machine.execKxAccgg c rd a s
  | .kxAccex c rd a k => Sys2Proof.Machine.execKxAccex c rd a k s
  | .kxSmov c sd sa => Sys2Proof.Machine.execKxSmov c sd sa s
  | .kxSclr c sd => Sys2Proof.Machine.execKxSclr c sd s
  | .kxSxor c sd sa sb => Sys2Proof.Machine.execKxSxor c sd sa sb s
  | .kxSand c sd sa sb => Sys2Proof.Machine.execKxSand c sd sa sb s
  | .kxSor c sd sa sb => Sys2Proof.Machine.execKxSor c sd sa sb s
  | .kxSmerge c sd sa sb => Sys2Proof.Machine.execKxSmerge c sd sa sb s
  | .kxShigh c sd sa => Sys2Proof.Machine.execKxShigh c sd sa s
  | .kxSparity c sd sa => Sys2Proof.Machine.execKxSparity c sd sa s
  | .kxSdtab c sd sa => Sys2Proof.Machine.execKxSdtab c sd sa s
  | .kxSdadd c sd sa sb => Sys2Proof.Machine.execKxSdadd c sd sa sb s
  | .kxSdsub c sd sa sb => Sys2Proof.Machine.execKxSdsub c sd sa sb s
  | .kxSnsh c sd sa k => Sys2Proof.Machine.execKxSnsh c sd sa k s
  | .kxSldw c sd ra q => Sys2Proof.Machine.execKxSldw c sd ra q s
  | .kxSmvw c rd sa q => Sys2Proof.Machine.execKxSmvw c rd sa q s
  | .kxScmp c rd sa sb last => Sys2Proof.Machine.execKxScmp c rd sa sb last s
  | .kxSpinchk c rd sa fmt => Sys2Proof.Machine.execKxSpinchk c rd sa fmt s
  | .kxSdec c rd sa cnt => Sys2Proof.Machine.execKxSdec c rd sa cnt s
  | .kxSpofs c rd sa sb imm => Sys2Proof.Machine.execKxSpofs c rd sa sb imm s
  | .kxSrole c sd sa role => Sys2Proof.Machine.execKxSrole c sd sa role s
  | .kxSin c sd port => Sys2Proof.Machine.execKxSin c sd port s
  | .kxSout c sa q port => Sys2Proof.Machine.execKxSout c sa q port s
  | .kxEret c => Sys2Proof.Machine.execKxEret c s
  | .kxWfi c => Sys2Proof.Machine.execKxWfi c s
  | .kxTrap c => Sys2Proof.Machine.execKxTrap c s
  | .kxNop c word => Sys2Proof.Machine.execKxNop c word s
  | .interruptEntry c line => Sys2Proof.Machine.execInterruptEntry c line s
  | .residueMismatch c => Sys2Proof.Machine.execResidueMismatch c s
  | .grpFork c v => Sys2Proof.Machine.execGrpFork c v s
  | .grpJoin c r => Sys2Proof.Machine.execGrpJoin c r s
  | .grpEnd c => Sys2Proof.Machine.execGrpEnd c s
  | .smbxSend c m sa => Sys2Proof.Machine.execSmbxSend c m sa s
  | .smbxIn c sd => Sys2Proof.Machine.execSmbxIn c sd s
  | .wmbxSend c m r => Sys2Proof.Machine.execWmbxSend c m r s
  | .wmbxIn c r => Sys2Proof.Machine.execWmbxIn c r s
  | .inData c r dma => Sys2Proof.Machine.execInData c r dma s
  | .outData c v => Sys2Proof.Machine.execOutData c v s
  | .ntimeRead c r k => Sys2Proof.Machine.execNtimeRead c r k s
  | .drbgRead c r k => Sys2Proof.Machine.execDrbgRead c r k s
  | .ctxModeWrite c v => Sys2Proof.Machine.execCtxModeWrite c v s
  | .uwcLookup c v => Sys2Proof.Machine.execUwcLookup c v s
  | .uwcFill c v => Sys2Proof.Machine.execUwcFill c v s
  | .krecFetch c v => Sys2Proof.Machine.execKrecFetch c v s
  | .krecFetchDone c r => Sys2Proof.Machine.execKrecFetchDone c r s
  | .recKey c v => Sys2Proof.Machine.execRecKey c v s
  | .krecStore c v => Sys2Proof.Machine.execKrecStore c v s
  | .polReq c v => Sys2Proof.Machine.execPolReq c v s
  | .polResultReady c r => Sys2Proof.Machine.execPolResultReady c r s
  | .tpDetail c v => Sys2Proof.Machine.execTpDetail c v s
  | .tpOfs c v => Sys2Proof.Machine.execTpOfs c v s
  | .tpData c v => Sys2Proof.Machine.execTpData c v s
  | .tpHandles c v => Sys2Proof.Machine.execTpHandles c v s
  | .beKey0 c e sa => Sys2Proof.Machine.execBeKey0 c e sa s
  | .beKey1 c e sa => Sys2Proof.Machine.execBeKey1 c e sa s
  | .beDin c e sa => Sys2Proof.Machine.execBeDin c e sa s
  | .beEncrypt c e alg => Sys2Proof.Machine.execBeEncrypt c e alg s
  | .beDecrypt c e alg => Sys2Proof.Machine.execBeDecrypt c e alg s
  | .beCheckValue c e alg => Sys2Proof.Machine.execBeCheckValue c e alg s
  | .beCompare c e cmpLen => Sys2Proof.Machine.execBeCompare c e cmpLen s
  | .beResultReady c e => Sys2Proof.Machine.execBeResultReady c e s
  | .beDout c e sd => Sys2Proof.Machine.execBeDout c e sd s
  | .beKeyclr c e => Sys2Proof.Machine.execBeKeyclr c e s
  | .beDatapathMismatch c e => Sys2Proof.Machine.execBeDatapathMismatch c e s
  | .bgKey c sa => Sys2Proof.Machine.execBgKey c sa s
  | .bgCmd c dma => Sys2Proof.Machine.execBgCmd c dma s
  | .bgCount c r => Sys2Proof.Machine.execBgCount c r s
  | .baeMessageEnd b dma => Sys2Proof.Machine.execBaeMessageEnd b dma s
  | .baeSuspend b blocks => Sys2Proof.Machine.execBaeSuspend b blocks s
  | .baeResume b => Sys2Proof.Machine.execBaeResume b s
  | .baeAlarm b => Sys2Proof.Machine.execBaeAlarm b s
  | .baeSelftestDone b pass => Sys2Proof.Machine.execBaeSelftestDone b pass s
  | .baeLockAcquire b w => Sys2Proof.Machine.execBaeLockAcquire b w s
  | .baeLockRelease b w => Sys2Proof.Machine.execBaeLockRelease b w s
  | .bnClaim c b r => Sys2Proof.Machine.execBnClaim c b r s
  | .bnSlot c b v => Sys2Proof.Machine.execBnSlot c b v s
  | .bnWr c b v => Sys2Proof.Machine.execBnWr c b v s
  | .bnRd c b r => Sys2Proof.Machine.execBnRd c b r s
  | .bnXfer c b v dma => Sys2Proof.Machine.execBnXfer c b v dma s
  | .bnKey c b v => Sys2Proof.Machine.execBnKey c b v s
  | .bnSkey c b sa => Sys2Proof.Machine.execBnSkey c b sa s
  | .bnStore c b v => Sys2Proof.Machine.execBnStore c b v s
  | .bnRelease c b => Sys2Proof.Machine.execBnRelease c b s
  | .bneMmul c n x => Sys2Proof.Machine.execBneMmul c n x s
  | .bneMadd c n x => Sys2Proof.Machine.execBneMadd c n x s
  | .bneMsub c n x => Sys2Proof.Machine.execBneMsub c n x s
  | .bneMexp c n x => Sys2Proof.Machine.execBneMexp c n x s
  | .bneMinv c n x => Sys2Proof.Machine.execBneMinv c n x s
  | .bneMred c n x => Sys2Proof.Machine.execBneMred c n x s
  | .bneMul c n x => Sys2Proof.Machine.execBneMul c n x s
  | .bnePcheck c n x => Sys2Proof.Machine.execBnePcheck c n x s
  | .bneSmul c n x => Sys2Proof.Machine.execBneSmul c n x s
  | .bneSmulg c n x => Sys2Proof.Machine.execBneSmulg c n x s
  | .bneRsaSign c n x => Sys2Proof.Machine.execBneRsaSign c n x s
  | .bneRsaVerify c n x => Sys2Proof.Machine.execBneRsaVerify c n x s
  | .bneEcdsaSign c n x => Sys2Proof.Machine.execBneEcdsaSign c n x s
  | .bneEcdsaVerify c n x => Sys2Proof.Machine.execBneEcdsaVerify c n x s
  | .bneEcdh c n x => Sys2Proof.Machine.execBneEcdh c n x s
  | .bneEd25519Sign c n x => Sys2Proof.Machine.execBneEd25519Sign c n x s
  | .bneEd25519Verify c n x => Sys2Proof.Machine.execBneEd25519Verify c n x s
  | .bneEcKeygen c n x => Sys2Proof.Machine.execBneEcKeygen c n x s
  | .bneRsaKeygen c n x => Sys2Proof.Machine.execBneRsaKeygen c n x s
  | .bneMlkemKeygen c n x => Sys2Proof.Machine.execBneMlkemKeygen c n x s
  | .bneMlkemEncaps c n x => Sys2Proof.Machine.execBneMlkemEncaps c n x s
  | .bneMlkemDecaps c n x => Sys2Proof.Machine.execBneMlkemDecaps c n x s
  | .bneMldsaKeygen c n x => Sys2Proof.Machine.execBneMldsaKeygen c n x s
  | .bneMldsaSign c n x => Sys2Proof.Machine.execBneMldsaSign c n x s
  | .bneMldsaVerify c n x => Sys2Proof.Machine.execBneMldsaVerify c n x s
  | .bneNtt c n x => Sys2Proof.Machine.execBneNtt c n x s
  | .bneIntt c n x => Sys2Proof.Machine.execBneIntt c n x s
  | .bnePmul c n x => Sys2Proof.Machine.execBnePmul c n x s
  | .bnePadd c n x => Sys2Proof.Machine.execBnePadd c n x s
  | .bnePsub c n x => Sys2Proof.Machine.execBnePsub c n x s
  | .bneHash c n x => Sys2Proof.Machine.execBneHash c n x s
  | .bneHmac c n x => Sys2Proof.Machine.execBneHmac c n x s
  | .bneOperationDone n => Sys2Proof.Machine.execBneOperationDone n s
  | .bneFault n check => Sys2Proof.Machine.execBneFault n check s
  | .bneSelftestDone n pass => Sys2Proof.Machine.execBneSelftestDone n pass s
  | .bneWipeDone n clean => Sys2Proof.Machine.execBneWipeDone n clean s
  | .bneClearDone n => Sys2Proof.Machine.execBneClearDone n s
  | .loaderCheckDone idx => Sys2Proof.Machine.execLoaderCheckDone idx s
  | .stkBankLoading k n bank => Sys2Proof.Machine.execStkBankLoading k n bank s
  | .stkBankDraining k n => Sys2Proof.Machine.execStkBankDraining k n s
  | .bankCopyDone k n ok => Sys2Proof.Machine.execBankCopyDone k n ok s
  | .bankDrainDone k n => Sys2Proof.Machine.execBankDrainDone k n s
  | .maskGeneratorReseed barn => Sys2Proof.Machine.execMaskGeneratorReseed barn s
  | .rngWaitTimeout w => Sys2Proof.Machine.execRngWaitTimeout w s
  | .drbgReseed d raw condFail drbgFail => Sys2Proof.Machine.execDrbgReseed d raw condFail drbgFail s
  | .drbgReseedOverdue d => Sys2Proof.Machine.execDrbgReseedOverdue d s
  | .sourceHealthFail raw last => Sys2Proof.Machine.execSourceHealthFail raw last s
  | .sourceRetest src samples raw => Sys2Proof.Machine.execSourceRetest src samples raw s
  | .winTestEnable v => Sys2Proof.Machine.execWinTestEnable v s
  | .winTestDisable v => Sys2Proof.Machine.execWinTestDisable v s
  | .winRawRead => Sys2Proof.Machine.execWinRawRead s
  | .winRandRead => Sys2Proof.Machine.execWinRandRead s
  | .rootMaskRefresh => Sys2Proof.Machine.execRootMaskRefresh s
  | .slotPeriodTick slot flips => Sys2Proof.Machine.execSlotPeriodTick slot flips s
  | .bucketSnapshot => Sys2Proof.Machine.execBucketSnapshot s
  | .hbmUeResolved die line probe left ini reader => Sys2Proof.Machine.execHbmUeResolved die line probe left ini reader s
  | .hbmPageFillDone die page => Sys2Proof.Machine.execHbmPageFillDone die page s
  | .mergeEntryTimeout die line => Sys2Proof.Machine.execMergeEntryTimeout die line s
  | .gleanerLineRead die data check crc => Sys2Proof.Machine.execGleanerLineRead die data check crc s
  | .rowRetirementDone die => Sys2Proof.Machine.execRowRetirementDone die s
  | .feedLoss w => Sys2Proof.Machine.execFeedLoss w s
  | .switchOverDone checkOk gapNs => Sys2Proof.Machine.execSwitchOverDone checkOk gapNs s
  | .yokeCompareTimeout w => Sys2Proof.Machine.execYokeCompareTimeout w s
  | .wardenSelfFlag w => Sys2Proof.Machine.execWardenSelfFlag w s
  | .yokeMismatchJudged => Sys2Proof.Machine.execYokeMismatchJudged s
  | .resyncDone ok => Sys2Proof.Machine.execResyncDone ok s
  | .feedReadmit w => Sys2Proof.Machine.execFeedReadmit w s
  | .ofcNonceReq v => Sys2Proof.Machine.execOfcNonceReq v s
  | .nonceExpiry k => Sys2Proof.Machine.execNonceExpiry k s
  | .fastChannelTrip chs => Sys2Proof.Machine.execFastChannelTrip chs s
  | .holdExpiry env => Sys2Proof.Machine.execHoldExpiry env s
  | .scarecrowSample smp => Sys2Proof.Machine.execScarecrowSample smp s
  | .sampleCycleOverrun => Sys2Proof.Machine.execSampleCycleOverrun s
  | .fallowWake smp fast => Sys2Proof.Machine.execFallowWake smp fast s
  | .fallowHeartbeatMiss => Sys2Proof.Machine.execFallowHeartbeatMiss s
  | .xtalLost => Sys2Proof.Machine.execXtalLost s
  | .scrTamperRelease => Sys2Proof.Machine.execScrTamperRelease s
  | .scrHistDataRead => Sys2Proof.Machine.execScrHistDataRead s
  | .extest => Sys2Proof.Machine.execExtest s
  | .clamp => Sys2Proof.Machine.execClamp s
  | .highz => Sys2Proof.Machine.execHighz s
  | .samplePreload => Sys2Proof.Machine.execSamplePreload s
  | .idcode => Sys2Proof.Machine.execIdcode s
  | .bypass => Sys2Proof.Machine.execBypass s
  | .tapTestLogicReset env => Sys2Proof.Machine.execTapTestLogicReset env s
  | .dbgNonce => Sys2Proof.Machine.execDbgNonce s
  | .dbgAuth token => Sys2Proof.Machine.execDbgAuth token s
  | .debugAccess addr data => Sys2Proof.Machine.execDebugAccess addr data s
  | .lockWrite t v => Sys2Proof.Machine.execLockWrite t v s
  | .errClrWrite t v => Sys2Proof.Machine.execErrClrWrite t v s
  | .intSetWrite t v => Sys2Proof.Machine.execIntSetWrite t v s
  | .cntClear t v => Sys2Proof.Machine.execCntClear t v s
  | .registerWrite t size v => Sys2Proof.Machine.execRegisterWrite t size v s
  | .talResvTake => Sys2Proof.Machine.execTalResvTake s
  | .talResvTakePair => Sys2Proof.Machine.execTalResvTakePair s
  | .twCursorWrite f v => Sys2Proof.Machine.execTwCursorWrite f v s
  | .twEntryRead f => Sys2Proof.Machine.execTwEntryRead f s
  | .timeCmdGo invalidate => Sys2Proof.Machine.execTimeCmdGo invalidate s
  | .timeCmdAtPps invalidate => Sys2Proof.Machine.execTimeCmdAtPps invalidate s
  | .timeCmdInvalidate => Sys2Proof.Machine.execTimeCmdInvalidate s
  | .atPpsTimeout => Sys2Proof.Machine.execAtPpsTimeout s
  | .ppsEdge => Sys2Proof.Machine.execPpsEdge s
  | .ppsLockTimeout => Sys2Proof.Machine.execPpsLockTimeout s
  | .rtcCompare => Sys2Proof.Machine.execRtcCompare s
  | .rtcSync => Sys2Proof.Machine.execRtcSync s
  | .timeNowRead r => Sys2Proof.Machine.execTimeNowRead r s
  | .pwrReqIdle => Sys2Proof.Machine.execPwrReqIdle s
  | .pwrReqRun => Sys2Proof.Machine.execPwrReqRun s
  | .pwrReqFallowPreparation => Sys2Proof.Machine.execPwrReqFallowPreparation s
  | .devPwrReqShutdown => Sys2Proof.Machine.execDevPwrReqShutdown s
  | .idleAfterExpiry => Sys2Proof.Machine.execIdleAfterExpiry s
  | .pwrAgentAnswer ans => Sys2Proof.Machine.execPwrAgentAnswer ans s
  | .pwrDelayExpiry => Sys2Proof.Machine.execPwrDelayExpiry s
  | .pwrHandshakeTimeout => Sys2Proof.Machine.execPwrHandshakeTimeout s
  | .idleWakeDone => Sys2Proof.Machine.execIdleWakeDone s
  | .wakeDieTimeout die => Sys2Proof.Machine.execWakeDieTimeout die s
  | .keepRailsFall => Sys2Proof.Machine.execKeepRailsFall s
  | .stookClockGate k => Sys2Proof.Machine.execStookClockGate k s
  | .thermalSample die tj => Sys2Proof.Machine.execThermalSample die tj s
  | .fieldRailUndervoltage die => Sys2Proof.Machine.execFieldRailUndervoltage die s
  | .vioUndervoltage => Sys2Proof.Machine.execVioUndervoltage s
  | .vioReturn env => Sys2Proof.Machine.execVioReturn env s
  | .clkCtrlSwitch v => Sys2Proof.Machine.execClkCtrlSwitch v s
  | .hifHistBaseWrite v => Sys2Proof.Machine.execHifHistBaseWrite v s
  | .hifHistClear v => Sys2Proof.Machine.execHifHistClear v s
  | .getVersion t req => Sys2Proof.Machine.execGetVersion t req s
  | .getCapabilities t req => Sys2Proof.Machine.execGetCapabilities t req s
  | .negotiateAlgorithms t req => Sys2Proof.Machine.execNegotiateAlgorithms t req s
  | .getDigests t req => Sys2Proof.Machine.execGetDigests t req s
  | .getCertificate t req => Sys2Proof.Machine.execGetCertificate t req s
  | .challenge t req => Sys2Proof.Machine.execChallenge t req s
  | .getMeasurements t req => Sys2Proof.Machine.execGetMeasurements t req s
  | .keyExchange t req => Sys2Proof.Machine.execKeyExchange t req s
  | .finish t session req => Sys2Proof.Machine.execFinish t session req s
  | .spdmUnsupportedRequest t req => Sys2Proof.Machine.execSpdmUnsupportedRequest t req s
  | .i3cPrivateWrite b => Sys2Proof.Machine.execI3cPrivateWrite b s
  | .i3cPrivateRead len => Sys2Proof.Machine.execI3cPrivateRead len s
  | .i3cDynamicAddress addr => Sys2Proof.Machine.execI3cDynamicAddress addr s
  | .tripConditionClear ch => Sys2Proof.Machine.execTripConditionClear ch s
  | .batteryAttach smp => Sys2Proof.Machine.execBatteryAttach smp s
  | .pllLock k => Sys2Proof.Machine.execPllLock k s
  | .uwcResultReady c r => Sys2Proof.Machine.execUwcResultReady c r s
  | .krecStoreDone c r => Sys2Proof.Machine.execKrecStoreDone c r s
  | .slewPendingZero => Sys2Proof.Machine.execSlewPendingZero s
  | .winRandRefill => Sys2Proof.Machine.execWinRandRefill s

end Sys2Proof.Machine
end

