-- ==== Sys2Proof/Safety.lean ====
section
/-! DEFINITION. The terms in which claims are stated: a command that runs, the conditions under which a core issues, and what a claim
calls unchanged. -/

namespace Sys2Proof.Machine

open Sys2Proof Sys2Proof.Bits

/-- The command answers a next state, and P holds of it. -/
def Runs (i : Instr) (s : State) (P : State → Prop) : Prop := ∃ t, exec i s = .next t ∧ P t

/-- The core runs, waits for nothing, and its pc lies in its instruction space, in a block of code RAM whose parity holds (R137, R164,
R269). -/
def Issues (s : State) (c : CoreId) : Prop :=
  (s.core c.num).phase = .running ∧ (s.core c.num).wait = .none ∧ (s.core c.num).pc < codeEnd s c ∧
    (codeRead s c (s.core c.num)).1 = .good

/-- The core as its next instruction finds it: n cycles of the multiplier have passed, one on the W and S variants, one to four on a TU, whose
other contexts leave the count open (R165); a TU's first instruction starts its watchdog (R154), and a warden counts its issue slots (R290). -/
def Found (s : State) (c : CoreId) (x : Core) : Prop :=
  ∃ n, 1 ≤ n ∧ n ≤ 4 ∧ (c.isTu = false → n = 1) ∧
    x = { (s.core c.num).age n with
      started := if c.isTu && (s.core c.num).started.isNone then some s.tmr.now else (s.core c.num).started
      slots := if c.warden.isSome then (s.core c.num).slots + 1 else (s.core c.num).slots }

/-- Nothing but core c, the count of free values and the pin levels differs. -/
def OnlyCore (s t : State) (c : CoreId) : Prop :=
  t = { s with cores := t.cores, free := t.free, pins := t.pins } ∧ ∀ k, k ≠ c.num → t.core k = s.core k

/-- An issuing core runs the instruction: from the core x that it finds, it goes on as E x, and nothing outside the core changes. -/
def CoreRuns (i : Instr) (s : State) (c : CoreId) (E : Core → Core) : Prop :=
  Issues s c → ∃ x, Found s c x ∧ Runs i s (fun t => OnlyCore s t c ∧ t.core c.num = E x)

/-- As `CoreRuns`, for an instruction that writes the value f x to word register rd and goes on to the next address. -/
def WritesWord (i : Instr) (s : State) (c : CoreId) (rd : Fin 32) (f : Core → Word) : Prop :=
  CoreRuns i s c (fun x => ({ x with w := Map.set 0 x.w rd (f x) }).next)

/-- As `WritesWord`, for a value that P describes. -/
def WritesSome (i : Instr) (s : State) (c : CoreId) (rd : Fin 32) (P : Core → Word → Prop) : Prop :=
  Issues s c → ∃ x v, Found s c x ∧ P x v ∧
    Runs i s (fun t => OnlyCore s t c ∧ t.core c.num = ({ x with w := Map.set 0 x.w rd v }).next)

/-- v lies outside the signed range of w bits. -/
def outside (w : Nat) (v : Int) : Bool := decide (v < -2 ^ (w - 1)) || decide (2 ^ (w - 1) - 1 < v)

/-- An exact result brought into w bits (R168): the nearer bound with saturation on, the low w bits with it off. -/
def limited (w : Nat) (sat : Bool) (v : Int) : BitVec w :=
  BitVec.ofInt w (if sat then max (-2 ^ (w - 1)) (min v (2 ^ (w - 1) - 1)) else v)

/-- acc x 2^-k rounded by CTX_MODE[2:1] (R169): half up, half even, or truncation. -/
def rounded (mode : BitVec 2) (acc : Int) (k : Nat) : Int :=
  let f := acc / 2 ^ k
  let twice := 2 * (acc - f * 2 ^ k)
  if mode = 1 then (if (2 ^ k : Int) ≤ twice then f + 1 else f)
  else if mode = 2 then (if (2 ^ k : Int) < twice ∨ (twice = 2 ^ k ∧ f % 2 = 1) then f + 1 else f)
  else f

/-- Nibble j of a word, the least significant first. -/
def wordNib (a : Word) (j : Nat) : Nat := a.toNat / 16 ^ j % 16

/-- The word in packed BCD whose digits are those of n, least significant in the low nibble (R170). -/
def packedBcd (n : Nat) : Word := BitVec.ofNat 32 (((List.range 8).map (fun i => n / 10 ^ i % 10 * 16 ^ i)).sum)

/-- End of the local data space of a core (R159). -/
def localEnd : CoreId → Nat
  | .tu _ => 0x4000
  | .scarecrow => 0x4000
  | _ => 0x80000

/-- The address of a load or store (R163). -/
def dataAddr (x : Core) (ra : Fin 32) (imm : BitVec 16) : Nat := (x.getW ra + imm.signExtend 32).toNat

/-- A load of n bytes from the local data space, whose parity holds in a TU (R270), writes the value that f makes of them. -/
def LoadsLocal (i : Instr) (s : State) (c : CoreId) (rd ra : Fin 32) (imm : BitVec 16) (n : Nat) (f : Nat → Word) : Prop :=
  let a := dataAddr (s.core c.num) ra imm
  a % n = 0 → a + n ≤ localEnd c → (∀ k : Fin 2048, c = .tu k → (readUnit s (.tuData k (a / 8))).1 = .good) →
    WritesWord i s c rd (fun x => f (ofLe ((List.range n).map (fun k => Map.get 0 x.mem (a + k)))))

/-- A store of the low n bytes of rs into the local data space: those n bytes, and no other, take the value. -/
def StoresLocal (i : Instr) (s : State) (c : CoreId) (rs ra : Fin 32) (imm : BitVec 16) (n : Nat) : Prop :=
  let a := dataAddr (s.core c.num) ra imm
  a % n = 0 → a + n ≤ localEnd c → Issues s c →
    ∃ x m, Found s c x ∧
      (∀ k, k < n → Map.get 0 m (a + k) = BitVec.ofNat 8 ((x.getW rs).toNat / 256 ^ k)) ∧
      (∀ b, (b < a ∨ a + n ≤ b) → Map.get 0 m b = Map.get 0 x.mem b) ∧
      Runs i s (fun t => OnlyCore s t c ∧ t.core c.num = ({ x with mem := m }).next)

/-- A conditional branch: to own address + 4 x off, as 32 bits, when the comparison holds, with the loop levels left that do not hold the target; else to
the next address (R163, R164). -/
def Branches (i : Instr) (s : State) (c : CoreId) (ra rb : Fin 32) (off : BitVec 16) (p : Word → Word → Prop) [DecidableRel p] : Prop :=
  CoreRuns i s c (fun x => if p (x.getW ra) (x.getW rb) then x.jump ((((x.pc : Int) + 4 * off.toInt) % 2 ^ 32).toNat) else x.next)

/-- Nothing but core c, the barn's mask generator, the count of free values and the pin levels differs. -/
def OnlyCoreMasked (s t : State) (c : CoreId) : Prop :=
  t = { s with cores := t.cores, barns := t.barns, free := t.free, pins := t.pins } ∧ ∀ k, k ≠ c.num → t.core k = s.core k

/-- An instruction of a TU or a warden that writes secret register sd: the value and tags f gives, and a new mask (R135). -/
def WritesSecret (i : Instr) (s : State) (c : CoreId) (sd : Fin 16) (f : Core → SReg) : Prop :=
  Issues s c → c ≠ .scarecrow → ∃ x m, Found s c x ∧
    Runs i s (fun t => OnlyCoreMasked s t c ∧ t.core c.num = ({ x with s := Map.set {} x.s sd (f x), mask := m }).next)

/-- An extract: with the labels R172 asks for, the value in rd; else the fault of a refused operand (R141, R172). -/
def Extracts (i : Instr) (s : State) (c : CoreId) (rd : Fin 32) (ok : Core → Prop) (f : Core → Word) : Prop :=
  c ≠ .scarecrow → ok (s.core c.num) → WritesWord i s c rd f

/-- The state u as the instruction that core c issues finds it. -/
def AtIssue (s : State) (c : CoreId) (u : State) : Prop := OnlyCore s u c ∧ Found s c (u.core c.num)

/-- The state u as the instruction of a TU context finds it. -/
def AtPort (s : State) (c : Fin 2048) (u : State) : Prop := AtIssue s (.tu c) u

/-- Context c goes on past its instruction, with its other fields as f makes them. -/
def Onward (u : State) (c : Nat) (f : Core → Core) : State := u.setCore c ({ f (u.core c) with wait := .none }).next

/-- Context c goes on with v in word register r. -/
def Reads (u : State) (c r : Nat) (v : Word) : State := Onward u c (fun x => { x with w := Map.set 0 x.w r v })

/-- The core takes a trap (R175): every pending multiplier write completes, EPC and ECAUSE are saved, interrupts are disabled, and the core goes
on at TVEC. -/
def Trapped (s t : State) (c : CoreId) (x : Core) (cause : Byte) (epc : Nat) : Prop :=
  (t.core c.num).pc = (s.sysCore c.side).tvec.toNat ∧ (t.core c.num).pend = [] ∧
  (t.core c.num).acc = x.flush.acc ∧ (t.core c.num).mlo = x.flush.mlo ∧ (t.core c.num).mhi = x.flush.mhi ∧
  (t.core c.num).w = x.w ∧
  (t.sysCore c.side).epc = BitVec.ofNat 32 epc ∧ (t.sysCore c.side).ecause = cause ∧ (t.sysCore c.side).ien = false ∧
  (t.sysCore c.side).ienSaved = (s.sysCore c.side).ien ∧ (t.sysCore c.side).inTrap = true

/-- Nothing but SQ n of function f, the MSI-X table and the pin levels differs. -/
def OnlySq (s t : State) (f n : Nat) : Prop :=
  t = { s with hif := { s.hif with sq := t.hif.sq, msix := t.hif.msix }, pins := t.pins } ∧
    ∀ g m, 64 * g + m ≠ 64 * f + n → t.sq g m = s.sq g m

/-- Nothing but CQ n of function f and the pin levels differs. -/
def OnlyCq (s t : State) (f n : Nat) : Prop :=
  t = { s with hif := { s.hif with cq := t.hif.cq }, pins := t.pins } ∧ ∀ g m, 64 * g + m ≠ 64 * f + n → t.cq g m = s.cq g m

/-- Vector v of function f is raised: its message is sent, or pends while the entry or the function is masked (R57). -/
def Raised (s t : State) (f v : Nat) : Prop :=
  t.msix f v = if (s.msix f v).masked || Map.get false s.hif.fnMask f then { s.msix f v with pending := true } else { s.msix f v with sent := (s.msix f v).sent + 1 }

/-- The gate of the stack lets the staging class write every byte that the request's output may take beyond its slot (R143, R255, R340). -/
def StagesOut (s : State) (x : Entry) : Prop :=
  ∀ d base, stagePlace x = some (d, base) →
    ∀ a, hbmBase d + base ≤ a → a < hbmBase d + base + x.desc.outCap → gateAllows s (stageClass x) a true = true

/-- Request e stands at the operand step of function fn (R62): it runs, its input is read, the keys of its used handles, position k
holding key k, and its time snapshot are held (R67, R71), its policy step has passed, or asks for nothing (R68), and nothing outside the
function stops it: the link of its die works, its descriptor slot is sound, no read of its keys is held, its output can be staged (R19, R261,
R270, R340). -/
structure Computing (s : State) (e : Nat) (fn : Nat) (b : Bytes) (ks : List Key) : Prop where
  running : (s.entry e).phase = .running
  reserved : (s.entry e).state = .reserved
  code : (s.entry e).desc.fn = BitVec.ofNat 16 fn
  input : (s.entry e).input = some b
  keys : (s.entry e).held = (List.range ks.length).zip ks
  snap : (s.entry e).snap.isSome = true
  passed : ((s.entry e).polPhase = .answered ∧ (s.entry e).polResult = St.ok) ∨
    ((s.entry e).polPhase = .idle ∧ ks = [] ∧ fnAudited fn = false)
  link : linkWaits s (s.entry e).die = false
  sound : (readUnit s (.descriptor e)).1 = .good
  reads : requestUnread s e = []
  staging : StagesOut s (s.entry e)

/-- Class c can make the key's records at a reserved index: the root is there, the gate of each record's stack passes its writes, and the velocity
bucket can be had (R215, R235, R340). -/
def CanCreate (s : State) (c : InitClass) (p : Nat) (r : RecSpec) (key : Bytes) : Prop :=
  s.grn.present = true ∧ (∀ k, k < recordsFor key.length → recGate s c p (r.idx + k) true = true) ∧
    (bindBucket s p r (fingerprint s r.alg key)).1.isSome = true

/-- Nothing but request e, the waits of cores and the pin levels differs. -/
def OnlyRequest (u t : State) (e : Nat) : Prop :=
  t = { u with entries := t.entries, cores := t.cores, pins := t.pins } ∧ (∀ k, k ≠ e → t.entry k = u.entry k) ∧
    ∀ c, t.core c = { u.core c with wait := (t.core c).wait }

/-- The command drafts the completion of request e: status, inline result word and output. Output that fits in the capacity is staged, its
bytes from 96 on in the staging area of the slot; output beyond the capacity is not staged (R143, R255). Nothing else of u changes, the state
as the function's own draws and writes leave it. -/
def Drafts (i : Instr) (s u : State) (e : Nat) (st : Status) (r : BitVec 64) (out : Bytes) : Prop :=
  let x := s.entry e
  let fits := decide (out.length ≤ x.desc.outCap)
  Runs i s (fun t =>
    OnlyRequest (stageBeyond u x 0 out) t e ∧ (t.entry e).phase = .drafted ∧ (t.entry e).state = .reserved ∧
    (t.entry e).desc = x.desc ∧ (t.entry e).status = st ∧ (t.entry e).result = r ∧ (t.entry e).outLen = out.length ∧
    (t.entry e).outOver = (if fits then 0 else out.length) ∧
    ∀ k, Map.get 0 (t.entry e).out k = if fits ∧ ((stagePlace x).isNone ∨ k < 96) then out.getD k 0 else 0)

/-- The lead of request e waits at its instruction; the request notes that it waits for random output (R69, R247). -/
def AwaitsRandom (i : Instr) (s : State) (e : Nat) : Prop :=
  Runs i s (fun t =>
    ((s.entry e).group.contains (s.entry e).lead = true → (t.core (s.entry e).lead).wait = .drbg) ∧
    t = { s.modEntry e (fun x => { x with rngWait := true }) with cores := t.cores, pins := t.pins })

/-- Request e of the PF runs in warden firmware with its input read, outside a switch-over gap, with room for its output, which can be staged
(R72, R256, R296, R340). -/
structure Administering (s : State) (e : Nat) (fn : Nat) (b : Bytes) : Prop where
  firmware : (s.entry e).phase = .firmware
  reserved : (s.entry e).state = .reserved
  code : (s.entry e).desc.fn = BitVec.ofNat 16 fn
  input : (s.entry e).input = some b
  own : (s.entry e).func = 0
  need : (s.entry e).polNeed = false
  runs : s.yoke.gap = false
  room : largestOut fn = 0 ∨ (s.entry e).area.isSome = true ∨ s.boot.romService = true
  staging : StagesOut s (s.entry e)

/-- The classes have their quorum in the token set that starts at byte `set`, over the SHA-384 of the bytes before `body`: u is s with the result
page written and the nonce consumed (R307 to R309). A row that waited has its quorum already. -/
def QuorateOf (ro : Roster) (s : State) (e : Nat) (b : Bytes) (cs : List QClass) (body set : Nat) (u : State) : Prop :=
  ((s.entry e).polPhase ≠ .idle ∧ u = s) ∨
    ((s.entry e).polPhase = .idle ∧ ∃ w, quorumRun s e ro cs (Hash.sha384 (b.take body)) (b.drop set) = (true, w) ∧
      u = w.modEntry e (fun x => { x with polPhase := .answered }))

/-- As `QuorateOf`, with the unit's own officers and the token set behind the fixed fields. -/
def Quorate (s : State) (e : Nat) (b : Bytes) (cs : List QClass) (body : Nat) (u : State) : Prop :=
  QuorateOf (ownRoster s) s e b cs body body u

/-- The row posts the completion of request e: status, inline result word and output, which stands in the request's area where it has one (R256).
Nothing else of u changes, the state as the row's steps leave it. -/
def Posts (i : Instr) (s u : State) (e : Nat) (st : Status) (r : BitVec 64) (out : Bytes) : Prop :=
  let x := s.entry e
  Runs i s (fun t =>
    t = { stageBeyond u x 0 out with entries := t.entries, pins := t.pins } ∧ (∀ k, k ≠ e → t.entry k = u.entry k) ∧
    (t.entry e).phase = .posted ∧ (t.entry e).status = st ∧ (t.entry e).result = r ∧ (t.entry e).outLen = out.length ∧
    ∀ k, Map.get 0 (t.entry e).out k = if (stagePlace x).isNone then out.getD k 0 else 0)

/-- Request e is posted with status OK and no output, and P holds. -/
def PostsOk (i : Instr) (s : State) (e : Nat) (P : State → Prop) : Prop :=
  Runs i s (fun t => (t.entry e).phase = .posted ∧ (t.entry e).status = St.ok ∧ (t.entry e).outLen = 0 ∧ P t)

/-- A slot as SLOT_MANAGE fills it (R219, R225, R226, R229): the request's owner, partition, protection, period and use limit, with a free counter for
a limit, the key's attributes, one current copy with the next epoch, and, `forward`, the pending manifest's copy with the epoch after; not published. -/
def SlotFilled (w t : State) (r : SlotReq) (a : RecSpec) (forward : Bool) : Prop :=
  let x := t.slotAt r.slot
  x.format = 1 ∧ x.owner.toNat = r.owner ∧ x.part = r.part ∧ x.prot = r.prot ∧ x.alg = a.alg ∧ x.usage = a.usage ∧ x.mode = a.mode ∧
  x.exp = a.exp ∧ x.pol = a.pol ∧ x.period = r.period ∧ x.limit = r.limit ∧ x.pub = false ∧ x.serve = 1 ∧ x.damaged = false ∧
  (if r.limit = 0 then x.ctr = 0xFFFF
   else x.ctr < 512 ∧ (w.useCtr x.ctr).on = false ∧ t.useCtr x.ctr = { on := true, limit := r.limit }) ∧
  x.high = (w.slotAt r.slot).high + (if forward then 2 else 1) ∧ x.copy0.state = 1 ∧ x.copy0.sel = r.sel ∧ x.copy0.epoch = (w.slotAt r.slot).high + 1 ∧
  x.copy1.state = (if forward then 2 else 0) ∧ ∀ k, k ≠ r.slot → t.slotAt k = w.slotAt k

/-- A state in which context c is the lead that owns window n's idle engine (R194, R196). -/
structure OwnsBne (s : State) (c : Fin 2048) (n : Fin 6) : Prop where
  issues : Issues s (.tu c)
  lead : (s.core c).member = 0
  owner : (s.bne (bneOf c n)).owner = some c.val
  idle : (s.bne (bneOf c n)).run = none

/-- The engine takes a command, which closes its layout; when it finishes it will write each result over its slot from the first byte, zeros
after it, with the result's label and storable bit, and give status OK (R196, R197, R205), unless its second computation does not confirm it: `bad` (R208). D
is what the draws of the command leave. -/
def BneGivesFrom (i : Instr) (s : State) (c : Fin 2048) (n : Fin 6) (D : State → State) (ws : State → List BnWrite)
    (bad : State → Bool := fun _ => false) : Prop :=
  ∃ u, AtPort s c u ∧ exec i s = done (
    let y := s.bne (bneOf c n)
    Onward ((D u).setBne (bneOf c n) { y with
      closed := true
      run := some {
        status := St.ok
        words := (ws u).flatMap (fun w => bnWords (y.slot w.slot).start (fit (8 * (y.slot w.slot).len) w.bytes))
        slots := (ws u).map (fun w =>
          (w.slot, { y.slot w.slot with label := w.label, storable := w.storable, role := 0, alg := w.alg }))
        bad := bad u } }) c (fun x => x))

/-- As `BneGivesFrom`, for a command that draws nothing. -/
def BneGives (i : Instr) (s : State) (c : Fin 2048) (n : Fin 6) (ws : List BnWrite) : Prop := BneGivesFrom i s c n (fun u => u) (fun _ => ws)

/-- The engine takes a command that will end with another status: its destinations stay unwritten and take label K (R204). -/
def BneEnds (i : Instr) (s : State) (c : Fin 2048) (n : Fin 6) (st : Status) (ds : List Nat) : Prop :=
  ∃ u, AtPort s c u ∧ exec i s = done (
    let y := s.bne (bneOf c n)
    Onward (u.setBne (bneOf c n) { y with
      closed := true
      run := some {
        status := st
        slots := ds.map (fun d => (d, { y.slot d with label := .k, storable := false, role := 0, alg := 0 })) } }) c (fun x => x))

/-- The engine takes a command that needs random output while its barn's DRBG does not serve: its status is RNG_UNAVAILABLE, its destinations take
label K, and the command, with op value, operands and message, computes once the DRBG serves (R69, R204, R205; log 85). -/
def BneStarves (i : Instr) (s : State) (c : Fin 2048) (n : Fin 6) (draw : Nat × BneArgs × Bytes) (ds : List Nat) : Prop :=
  ∃ u, AtPort s c u ∧ exec i s = done (
    let y := s.bne (bneOf c n)
    Onward (u.setBne (bneOf c n) { y with
      closed := true
      run := some {
        status := St.rngUnavailable
        slots := ds.map (fun d => (d, { y.slot d with label := .k, storable := false, role := 0, alg := 0 }))
        draw := some draw } }) c (fun x => x))

/-- Context c owns window n's idle engine, in which the named slots are configured and whose memory passes its parity (R270). -/
def BneReady (s : State) (c : Fin 2048) (n : Fin 6) (named : List (Fin 16)) : Prop :=
  OwnsBne s c n ∧ (∀ f ∈ bneFlips s (bneOf c n), (readUnit s f).1 = .good) ∧ ∀ i ∈ named, ((s.bne (bneOf c n)).slot i).on = true

/-- The destinations of results are configured and long enough (R204). -/
def BneFits (y : Bne) (ws : List BnWrite) : Prop := ∀ w ∈ ws, (y.slot w.slot).on = true ∧ w.bytes.length ≤ 8 * (y.slot w.slot).len

/-- The message of an operation marked M: the slot named, or, for 0xF, the request input from IN_OFS on (R203). -/
def BneMessage (s : State) (c : Fin 2048) (n : Fin 6) (i : Fin 16) (msg : Bytes) : Prop :=
  (i ≠ 15 ∧ ((s.bne (bneOf c n)).slot i).on = true ∧ msg = (s.bne (bneOf c n)).bytes i) ∨
    (i = 15 ∧ ∃ b, (s.request c).input = some b ∧ msg = b.drop (s.core c).inOfs)

/-- The digest that a signature takes: of the message under hash h, or the message itself when param [5] says it is prehashed (R203). -/
def BneDigest (param : BitVec 8) (h : Hash.Alg) (msg dg : Bytes) : Prop :=
  signHash (BitVec.ofNat 8 (param.toNat % 32)) = some h ∧ dg = if param.getLsbD 5 then fit (Hash.digestLen h) msg else Hash.hash h msg

/-- A register access at t arrives as an aligned word: its function or space answers, and the gate of a system address passes it, on a die that is
in service and not power-gated (R328, R341, R347, R405, R419). -/
def Arrives (s : State) (t : RegTarget) (write : Bool) : Prop :=
  reachable s t = true ∧ targetAddr t % 4 = 0 ∧ ∀ c a, t = .sys c a →
    dieAnswers s a.toNat = true ∧ dieGated s a.toNat = false ∧ gateAllows s c a.toNat write = true

/-- Sources that will be healthy after the start-up tests: not dead, and their 4,096 samples pass both tests (R245). -/
def passing (s : State) (start : List Samples) : Nat :=
  ((List.range 8).filter (fun i => (s.source i).state ≠ 3 && (startVerdict (s.source i) (start.getD i 0)).1.isNone)).length

/-- The test that the next raw bit of each source, bit i of v, makes it fail (R244). -/
def failsOn (s : State) (v : Byte) (i : Nat) : Option Bool := ((s.source i).take (v.getLsbD i)).failing

/-- The compressor register after a bit of each of the sources, in order (R241). -/
def shifted (sources : List Nat) (v : Byte) (l : BitVec 64) : BitVec 64 :=
  sources.foldl (fun l i =>
    (l <<< 1) ||| (BitVec.ofBool (((l.getLsbD 63 != l.getLsbD 3) != (l.getLsbD 2 != l.getLsbD 0)) != v.getLsbD i)).setWidth 64) l

/-- The chain stands STOPPED after a failed self-check, and nothing is served (R242, R247). -/
def ChainFailed (t : State) : Prop := t.win.state = .stopped ∧ t.win.selfFail = true ∧ ∀ e, drbgServes t e = false

/-- No DRAM die of a stack comes to 64 located corrections within 1 s by the next one or two (R262). -/
def Unhurried (s : State) (h : Hbm) : Prop :=
  ∀ k, k < 16 → ∀ n, n ≤ 2 → withinSpan ((List.replicate n s.tmr.now ++ Map.get [] h.ceTimes k).take 64) 64 1000000000 = false

/-- The unit is in HALT for a reason: FAULT_N is driven, and every accepted PF request has ended ABORTED (R297). -/
def Halted (s t : State) (reason : Nat) : Prop :=
  t.yoke.halt = true ∧ t.boot.phase = .halt ∧ t.boot.haltReason = reason ∧ t.boot.faultN = true ∧
  ∀ e, (s.entry e).func = 0 → (s.entry e).accepted = true → (s.entry e).state = .reserved →
    (t.entry e).state = .staged ∧ (t.entry e).status = St.aborted

/-- DEGRADED has the warden cause and the warden is held in reset (R292, R295). -/
def Alone (t : State) (w : Warden) : Prop :=
  t.dev.causes.getLsbD causeWarden = true ∧ (t.core w.core).phase = .free

/-- An item of a warden that stores to memory at address a (R291). -/
def StoresAt (x : YokeItem) (a : Nat) : Prop := x.addr < 2 ^ 40 ∧ placeSys x.addr = .mem a

/-- The keys tier is clear: key slots, caches, secret registers, secret mailboxes, generators, the HBM key with every valid bit, the record key and
every DRBG state (R314). -/
def KeysGone (t : State) : Prop :=
  t.beSlots = [] ∧ t.uwc = [] ∧ t.hbmKey = none ∧ t.grn.recKey = none ∧ t.win.drbg = [] ∧
  (∀ c, (t.core c).s = [] ∧ (t.core c).mask = 0 ∧ (t.core c).smbx = []) ∧ (∀ b, (t.bae b).keyParts = []) ∧
  (∀ b, (t.bne b).mem = [] ∧ (t.bne b).slots = []) ∧ ∀ d l, Hbm.lineValid (t.stack d) l = false

/-- The unit is held in reset: no function answers on the bus, no core runs and no Field die is in service (R315, R349, R435). -/
def HeldInReset (t : State) : Prop :=
  t.boot.pfEnabled = false ∧ t.boot.romService = false ∧ t.entries = [] ∧ (∀ c, (t.core c).phase = .free) ∧ t.dev.f0 = false ∧ t.dev.f1 = false

/-- A debug token that a state accepts for a level (R351). -/
def TokenListed (s : State) (signer root level : Nat) (key : Bytes) : Prop :=
  (lcCode s ∈ [lcTest, lcAnalysis] ∧ signer = 1 ∧ level = 2 ∧ key = Config.manufacturingKey) ∨
  (lcCode s ∈ [lcMinted, lcScrap] ∧ signer = 1 ∧ level = 1 ∧ key = Config.manufacturingKey) ∨
  (lcCode s ∈ [lcEnrolled, lcField] ∧ signer = 2 ∧ level = 1 ∧ root < 4 ∧ s.lc.otp.enrolled.getLsbD root = true ∧
    s.lc.otp.revoked.getLsbD root = false ∧ key = Map.get [] s.lc.otp.rootKey root)

/-- A trip of channel c: the latch (R316), zeroization of the root and the keys (R314), and HOLD (R315). What survives is as s has it. -/
def TripLatched (s t : State) (c : Nat) : Prop :=
  t.scr.causes = s.scr.causes ||| BitVec.twoPow 64 c ∧ t.scr.present.getLsbD c = true ∧
  t.scr.count = min 0xFFFF (s.scr.count + 1) ∧ t.scr.pending = true ∧ t.scr.tamperN = true ∧
  t.scr.firstCause = (if s.scr.pending then s.scr.firstCause else c) ∧
  t.scr.tamperTime = (if s.scr.pending then s.scr.tamperTime else s.time.rtc / 1000000 % 2 ^ 40) ∧
  t.scr.hold = true ∧ t.scr.holdTimer = false ∧
  t.grn.rootV = 0 ∧ t.grn.rootM = 0 ∧ t.grn.present = false ∧ t.grn.zeroed = true ∧ KeysGone t ∧ HeldInReset t ∧
  t.sram = [] ∧ t.ofc.nonces = [] ∧
  t.grn.slots = s.grn.slots ∧ t.tal.log = s.tal.log ∧ t.boot.records = s.boot.records ∧ t.rowHist = s.rowHist ∧ t.scr.cfg = s.scr.cfg ∧
  t.lc.otp = s.lc.otp ∧ t.hostMem = s.hostMem

/-- A filtered channel after a sample (R312). -/
def sampledChan (s : State) (smp : Sample) (c : Nat) : Chan :=
  if chanEnabled s c then filterStep c (s.chan c) (sampleOf smp c) else s.chan c

/-- The filtered channel meets its trip condition after a sample (R312). -/
def Meets (s : State) (smp : Sample) (c : Nat) : Prop :=
  chanEnabled s c = true ∧ 0 < (sampledChan s smp c).n ∧ (sampledChan s smp c).n ≤ (sampledChan s smp c).count

/-- Nothing keeps a boot from its first check (R315, R349, R435, R436). -/
def BootStarts (s : State) : Prop :=
  s.pwr.rails = true ∧ s.boot.perst = false ∧ s.scrAux.vio = true ∧ s.scrAux.scanHold = false ∧ s.scr.hold = false ∧ s.scr.present = 0

/-- The unit stalls in the boot ROM for a reason (R356). -/
def Stalled (t : State) (reason : Nat) : Prop :=
  t.boot.phase = .stall ∧ t.boot.stall = reason ∧ t.boot.faultN = true ∧ t.boot.pfEnabled = false ∧ t.boot.romService = false

/-- The checks of R355 pass in full, and no transition is resumed (R334). -/
def ChecksPass (env : BootEnv) (s : State) : Prop :=
  env.feedA = true ∧ env.feedB = true ∧ env.otpOk = true ∧ (romState s = true ∨ (env.refAttempt ≠ 3 ∧ env.pllF0 = true ∧ env.pllF1 = true)) ∧
  s.lc.progress.code = 0 ∧ identityLost (afterReset s) = false

/-- The width at which a link comes up with so many working lanes (R19 to R21): of full width f, at least a quarter of it, else none. -/
def widest (f good : Nat) : Nat := if f ≤ good then f else if f / 2 ≤ good then f / 2 else if f / 4 ≤ good then f / 4 else 0

/-- The last response on a transport. -/
def answered (s : State) : Transport → Bytes
  | .doe => s.spdm.respDoe
  | .mctp => s.spdm.respMctp

/-- The responder serves: the Keep die is up and the PF is released (R371, R374). -/
def SpdmServes (s : State) : Prop := Responder.powered s = true ∧ Responder.released s = true

/-- A request of SPDM 1.3 with a code of the subset and at least n bytes. -/
def SpdmReq (req : Bytes) (code : Byte) (n : Nat) : Prop := byteAt req 0 = 0x13 ∧ byteAt req 1 = code ∧ n ≤ req.length

/-- The row answers r on transport t and leaves the state outside the responder, the random chain and the counters of free values and events as it
is. -/
def SpdmAnswers (i : Instr) (s : State) (t : Transport) (r : Bytes) (P : State → Prop) : Prop :=
  Runs i s (fun u => answered u t = r ∧ u = { s with spdm := u.spdm, win := u.win, free := u.free, regs := u.regs, pins := u.pins } ∧ P u)

end Sys2Proof.Machine
end

