-- ==== Sys2Proof/Certificates/Slice0/Obligations.lean ====
section
/-! DEFINITION. The statements for the provers: what the commands do, from the numbered rules of spec/. -/

set_option linter.unusedVariables false

open Sys2Proof Sys2Proof.Machine Sys2Proof.Bits

/-! ### The queue of commands, reset, and what every step keeps -/

/-- For every command at the front of the queue, a step is that command's effect on the state with the queue's rest. -/
def Obligations.StepRunsFront : Prop :=
  ∀ (s : State) (c : Instr) (rest : List Instr), step { s with pending := c :: rest } = exec c { s with pending := rest }

/-- With nothing queued one 40 ns reference period passes (R392, R399, R401): the clocks advance; while the winnower runs no chain and no source is
healthy, nothing else changes but the sources' tests, which take a raw bit of each, a free value. That an empty queue stands for a reference period,
in which each source gives one bit, is the model's choice (log 4). -/
def Obligations.EmptyQueueTick : Prop :=
  ∀ (s : State), s.pending = [] →
    (keepRuns s = true → s.win.state ≠ .run → s.win.state ≠ .testmode → (∀ n, (s.source n).state ≠ 1) → s.time.pending = 0 →
      ∃ t, step s = .next t ∧
      t.time.ntime = (s.time.ntime + 40) % 2 ^ 64 ∧ t.tmr.now = s.tmr.now + 40 ∧
      ((s.scr.battery || s.pwr.rails) = true → t.time.rtc = (s.time.rtc + 40) % 2 ^ 64 ∧ t.time.budget ≤ 500000000) ∧
      t.win = { s.win with src := t.win.src } ∧
      t = { s with time := t.time, tmr := t.tmr, win := t.win, free := t.free, pins := t.pins }) ∧
    (s.scr.battery = false → s.pwr.rails = false → keepRuns s = false → step s = done s)

/-- R7, R32, R216, R219, R252, R289, R301, R393, R414, R415: the state after reset has no command queued, no request, ring, session or core in use,
and the registers at the values that their tables give. -/
def Obligations.ResetValues : Prop :=
  let s := State.reset
  s.pending = [] ∧ s.entries = [] ∧ (∀ c, (s.core c).phase = .free ∧ (s.core c).w = []) ∧
  (∀ f n, (s.sq f n).enable = false ∧ (s.sq f n).log2 = 6 ∧ (s.cq f n).enable = false) ∧
  (∀ p, (s.part p).state = .empty ∧ (s.part p).gen = 0) ∧ s.spdm.sessions = [] ∧ s.tap.level = 0 ∧
  s.reg (schPage + 0x080) = 1 ∧ (∀ b, b < 8 → s.reg (barnPage b + 0x080) = 2000) ∧
  s.win.state = .starting ∧ (∀ i, (s.source i).state = 0 ∧ (s.drbg i).serving = false) ∧
  s.grn.frozen = false ∧ (∀ i, s.meas i = 0) ∧ s.grn.present = false ∧
  s.yoke.batonB = false ∧ s.yoke.aState = .active ∧ s.yoke.bState = .standby ∧ s.yoke.solo = false ∧ s.yoke.halt = false ∧
  s.time.ntime = 0 ∧ s.time.valid = false ∧ s.time.pending = 0 ∧ s.time.ppsEn = false ∧
  s.pwr.trim = true ∧ s.pwr.idleAfter = 0 ∧ s.pwr.state = 0 ∧ s.pwr.clkCtrl = 0 ∧ s.hif.histBase = 8 ∧ Map.wf 0 s.hostMem = true

/-- R297, R316, R349, R356: after reset the status pins show their latches. -/
def Obligations.PinsAtReset : Prop :=
  State.reset.pins = pinLevels State.reset

/-- R297, R316, R349, R356: every step answers, and leaves the pins as the latches drive them: TAMPER_N only while VIO is present, FAULT_N for the
boundary scan while EXTEST, CLAMP or HIGHZ is selected. The boundary-scan clause is the model's reading (log 26). -/
def Obligations.PinsFollowLatches : Prop :=
  (∀ s : State, ∃ t, step s = .next t) ∧
  ∀ s t : State, s.pins = pinLevels s → step s = .next t →
    t.pins = pinLevels t ∧ (t.scrAux.vio = false → t.pins.tamperN = false) ∧ (t.pins.tamperN = true → t.scr.tamperN = true) ∧
    (t.pins.faultN = none ↔ (t.tap.ir = 0x00 ∨ t.tap.ir = 0x03 ∨ t.tap.ir = 0x04))

/-! ### Knatrix (06_knatrix_isa.md) -/

/-- R163: the register and immediate instructions of the word group write the value that the table gives, to rd alone, and the core goes on to the
next address. R163: CLZ counts the zeros above the highest one bit, 32 when there is none; POPC counts the one bits. R165, R166: what the multiplier's
own registers and the accumulators read, and what ACCCLR and ACCSET write at once; a product pushed with latency n shows in MHI:MLO after n cycles and
not before; the addend of an accumulation is the newest write, pending or not. -/
def Obligations.WordInstructions : Prop :=
  (∀ (s : State) (c : CoreId) (rd ra rb : Fin 32) (imm : BitVec 16) (amt : BitVec 5),
     WritesWord (.kxAdd c rd ra rb) s c rd (fun x => x.getW ra + x.getW rb) ∧
     WritesWord (.kxSub c rd ra rb) s c rd (fun x => x.getW ra - x.getW rb) ∧
     WritesWord (.kxAnd c rd ra rb) s c rd (fun x => x.getW ra &&& x.getW rb) ∧
     WritesWord (.kxOr c rd ra rb) s c rd (fun x => x.getW ra ||| x.getW rb) ∧
     WritesWord (.kxXor c rd ra rb) s c rd (fun x => x.getW ra ^^^ x.getW rb) ∧
     WritesWord (.kxAndn c rd ra rb) s c rd (fun x => x.getW ra &&& ~~~(x.getW rb)) ∧
     WritesWord (.kxShl c rd ra rb) s c rd (fun x => x.getW ra <<< (x.getW rb &&& 31)) ∧
     WritesWord (.kxShr c rd ra rb) s c rd (fun x => x.getW ra >>> (x.getW rb &&& 31)) ∧
     WritesWord (.kxSra c rd ra rb) s c rd (fun x => (x.getW ra).sshiftRight (x.getW rb &&& 31).toNat) ∧
     WritesWord (.kxRol c rd ra rb) s c rd (fun x => (x.getW ra).rotateLeft (x.getW rb &&& 31).toNat) ∧
     WritesWord (.kxSlt c rd ra rb) s c rd (fun x => if (x.getW ra).toInt < (x.getW rb).toInt then 1 else 0) ∧
     WritesWord (.kxSltu c rd ra rb) s c rd (fun x => if x.getW ra < x.getW rb then 1 else 0) ∧
     WritesWord (.kxMin c rd ra rb) s c rd (fun x => BitVec.ofInt 32 (min (x.getW ra).toInt (x.getW rb).toInt)) ∧
     WritesWord (.kxMax c rd ra rb) s c rd (fun x => BitVec.ofInt 32 (max (x.getW ra).toInt (x.getW rb).toInt)) ∧
     WritesWord (.kxMinu c rd ra rb) s c rd (fun x => BitVec.ofNat 32 (min (x.getW ra).toNat (x.getW rb).toNat)) ∧
     WritesWord (.kxMaxu c rd ra rb) s c rd (fun x => BitVec.ofNat 32 (max (x.getW ra).toNat (x.getW rb).toNat)) ∧
     WritesWord (.kxAddi c rd ra imm) s c rd (fun x => x.getW ra + imm.signExtend 32) ∧
     WritesWord (.kxAndi c rd ra imm) s c rd (fun x => x.getW ra &&& imm.zeroExtend 32) ∧
     WritesWord (.kxOri c rd ra imm) s c rd (fun x => x.getW ra ||| imm.zeroExtend 32) ∧
     WritesWord (.kxXori c rd ra imm) s c rd (fun x => x.getW ra ^^^ imm.zeroExtend 32) ∧
     WritesWord (.kxLui c rd imm) s c rd (fun _ => BitVec.ofNat 32 (imm.toNat * 2 ^ 16)) ∧
     WritesWord (.kxSlti c rd ra imm) s c rd (fun x => if (x.getW ra).toInt < imm.toInt then 1 else 0) ∧
     WritesWord (.kxSltiu c rd ra imm) s c rd (fun x => if x.getW ra < imm.signExtend 32 then 1 else 0) ∧
     WritesWord (.kxShi c rd ra 0 amt) s c rd (fun x => x.getW ra <<< amt.toNat) ∧
     WritesWord (.kxShi c rd ra 1 amt) s c rd (fun x => x.getW ra >>> amt.toNat) ∧
     WritesWord (.kxShi c rd ra 2 amt) s c rd (fun x => (x.getW ra).sshiftRight amt.toNat) ∧
     WritesWord (.kxShi c rd ra 3 amt) s c rd (fun x => (x.getW ra).rotateLeft amt.toNat)) ∧
  (∀ (s : State) (c : CoreId) (rd ra : Fin 32),
     WritesSome (.kxClz c rd ra) s c rd (fun x v =>
       v.toNat ≤ 32 ∧ (∀ j, 32 - v.toNat ≤ j → j < 32 → (x.getW ra).getLsbD j = false) ∧
         (v.toNat < 32 → (x.getW ra).getLsbD (31 - v.toNat) = true)) ∧
     WritesWord (.kxPopc c rd ra) s c rd (fun x => BitVec.ofNat 32 ((List.range 32).countP (fun j => (x.getW ra).getLsbD j)))) ∧
  ((∀ (s : State) (c : CoreId) (rd ra rb : Fin 32) (a : Fin 4),
     WritesWord (.kxMflo c rd) s c rd (fun x => x.mlo) ∧
     WritesWord (.kxMfhi c rd) s c rd (fun x => x.mhi) ∧
     WritesWord (.kxAccgl c rd a) s c rd (fun x => BitVec.ofNat 32 (x.getAcc a).toNat) ∧
     WritesWord (.kxAccgh c rd a) s c rd (fun x => BitVec.ofNat 32 ((x.getAcc a).toNat / 2 ^ 32)) ∧
     WritesWord (.kxAccgg c rd a) s c rd (fun x => BitVec.ofInt 32 ((x.getAcc a).toInt / 2 ^ 64)) ∧
     CoreRuns (.kxAccclr c a) s c (fun x => ({ x with
       acc := Map.set 0 x.acc a 0
       ovf := x.ovf || x.pend.any (fun p => decide (p.target = PendTarget.acc a) && p.ovf)
       pend := x.pend.filter (fun p => decide (p.target ≠ PendTarget.acc a)) }).next) ∧
     CoreRuns (.kxAccset c a ra rb) s c (fun x => ({ x with
       acc := Map.set 0 x.acc a (BitVec.ofInt 72 ((x.getW rb ++ x.getW ra).toInt))
       ovf := x.ovf || x.pend.any (fun p => decide (p.target = PendTarget.acc a) && p.ovf)
       pend := x.pend.filter (fun p => decide (p.target ≠ PendTarget.acc a)) }).next)) ∧
   (∀ (x : Core) (v : BitVec 72) (n k : Nat) (o : Bool), x.pend = [] → 0 < n →
     let y := (x.push .mlohi v n o).age k
     (k < n → y.mlo = x.mlo ∧ y.mhi = x.mhi ∧ y.ovf = x.ovf) ∧
     (n ≤ k → y.mlo = v.setWidth 32 ∧ y.mhi = (v >>> 32).setWidth 32 ∧ y.ovf = (x.ovf || o))) ∧
   (∀ (x : Core) (a : Nat) (v : BitVec 72) (n : Nat) (o : Bool), (x.push (.acc a) v n o).addend a = v))

/-- R168: the fixed-point instructions and the accumulator range. An exact result outside the range clamps to the nearer bound with saturation on,
keeps its low bits with saturation off, and sets OVF in both cases; a product or an accumulation lands after 3 or 4 issue slots, with the OVF it
sets (R165, R167). ADD, SUB,
ADDI, MUL and MULU leave OVF and never saturate. -/
def Obligations.FixedPointLimits : Prop :=
  ∀ (s : State) (c : CoreId) (rd ra rb : Fin 32) (a : Fin 4) (imm : BitVec 16),
    CoreRuns (.kxMulf c ra rb) s c (fun x =>
      let v := 2 * (x.getW ra).toInt * (x.getW rb).toInt
      ({ x with
        pend := x.pend ++ [PendWrite.mk (.mlohi) ((limited 64 x.sat v).setWidth 72) 3
          (x.getW ra == 0x80000000 && x.getW rb == 0x80000000)] }).next) ∧
    CoreRuns (.kxAddq c rd ra rb) s c (fun x =>
      let v := (x.getW ra).toInt + (x.getW rb).toInt
      ({ x with w := Map.set 0 x.w rd (limited 32 x.sat v), ovf := x.ovf || outside 32 v }).next) ∧
    CoreRuns (.kxSubq c rd ra rb) s c (fun x =>
      let v := (x.getW ra).toInt - (x.getW rb).toInt
      ({ x with w := Map.set 0 x.w rd (limited 32 x.sat v), ovf := x.ovf || outside 32 v }).next) ∧
    CoreRuns (.kxNegq c rd ra) s c (fun x =>
      let v := -(x.getW ra).toInt
      ({ x with w := Map.set 0 x.w rd (limited 32 x.sat v), ovf := x.ovf || outside 32 v }).next) ∧
    CoreRuns (.kxAbsq c rd ra) s c (fun x =>
      let v : Int := |(x.getW ra).toInt|
      ({ x with w := Map.set 0 x.w rd (limited 32 x.sat v), ovf := x.ovf || outside 32 v }).next) ∧
    (∀ (i : Instr) (f : Word → Word → Int),
      (i = .kxMac c a ra rb ∧ f = fun p q => p.toInt * q.toInt) ∨
      (i = .kxMacu c a ra rb ∧ f = fun p q => (p.toNat * q.toNat : Int)) ∨
      (i = .kxMacf c a ra rb ∧ f = fun p q => 2 * p.toInt * q.toInt) ∨
      (i = .kxMsub c a ra rb ∧ f = fun p q => -(p.toInt * q.toInt)) ∨
      (i = .kxMsubf c a ra rb ∧ f = fun p q => -(2 * p.toInt * q.toInt)) →
      CoreRuns i s c (fun x =>
        let v := (x.addend a).toInt + f (x.getW ra) (x.getW rb)
        ({ x with
          pend := x.pend ++ [PendWrite.mk (.acc a) (limited 72 x.sat v) 4 (outside 72 v)] }).next)) ∧
    CoreRuns (.kxMul c ra rb) s c (fun x =>
      ({ x with pend := x.pend ++ [PendWrite.mk .mlohi ((BitVec.ofInt 64 ((x.getW ra).toInt * (x.getW rb).toInt)).setWidth 72) 3 false] }).next) ∧
    CoreRuns (.kxMulu c ra rb) s c (fun x =>
      ({ x with pend := x.pend ++ [PendWrite.mk .mlohi ((BitVec.ofNat 64 ((x.getW ra).toNat * (x.getW rb).toNat)).setWidth 72) 3 false] }).next) ∧
    WritesWord (.kxAdd c rd ra rb) s c rd (fun x => x.getW ra + x.getW rb) ∧
    WritesWord (.kxSub c rd ra rb) s c rd (fun x => x.getW ra - x.getW rb) ∧
    WritesWord (.kxAddi c rd ra imm) s c rd (fun x => x.getW ra + imm.signExtend 32)

/-- R169: ACCEX writes acc x 2^-k rounded by the context's mode and limited to 32 bits, and sets OVF when the rounded value is out of range. -/
def Obligations.AccumulatorExtractRounds : Prop :=
  ∀ (s : State) (c : CoreId) (rd : Fin 32) (a : Fin 4) (k : Fin 41),
    CoreRuns (.kxAccex c rd a k) s c (fun x =>
      let r := rounded x.rnd (x.getAcc a).toInt k
      ({ x with w := Map.set 0 x.w rd (limited 32 x.sat r), ovf := x.ovf || outside 32 r }).next)

/-- R170: the decimal instructions on packed BCD numbers, nibble by nibble, and through the decimalization register. -/
def Obligations.DecimalArithmetic : Prop :=
  ∀ (s : State) (c : CoreId) (rd ra rb : Fin 32),
    WritesSome (.kxBcdadd c rd ra rb) s c rd (fun x v =>
      (∀ m n, m < 10 ^ 8 → n < 10 ^ 8 → x.getW ra = packedBcd m → x.getW rb = packedBcd n → v = packedBcd ((m + n) % 10 ^ 8)) ∧
      ((∃ j < 8, 9 < wordNib (x.getW ra) j ∨ 9 < wordNib (x.getW rb) j) → v = 0xFFFFFFFF)) ∧
    WritesSome (.kxBcdsub c rd ra rb) s c rd (fun x v =>
      (∀ m n, m < 10 ^ 8 → n < 10 ^ 8 → x.getW ra = packedBcd m → x.getW rb = packedBcd n →
        v = packedBcd ((m + 10 ^ 8 - n) % 10 ^ 8)) ∧
      ((∃ j < 8, 9 < wordNib (x.getW ra) j ∨ 9 < wordNib (x.getW rb) j) → v = 0xFFFFFFFF)) ∧
    WritesSome (.kxDadd c rd ra rb) s c rd (fun x v => ∀ j < 8,
      wordNib v j = if 9 < wordNib (x.getW ra) j ∨ 9 < wordNib (x.getW rb) j then 15
        else (wordNib (x.getW ra) j + wordNib (x.getW rb) j) % 10) ∧
    WritesSome (.kxDsub c rd ra rb) s c rd (fun x v => ∀ j < 8,
      wordNib v j = if 9 < wordNib (x.getW ra) j ∨ 9 < wordNib (x.getW rb) j then 15
        else (wordNib (x.getW ra) j + 10 - wordNib (x.getW rb) j) % 10) ∧
    WritesSome (.kxBcd2bin c rd ra) s c rd (fun x v =>
      (∀ m, m < 10 ^ 8 → x.getW ra = packedBcd m → v = BitVec.ofNat 32 m) ∧
      ((∃ j < 8, 9 < wordNib (x.getW ra) j) → v = 0xFFFFFFFF)) ∧
    WritesWord (.kxBin2bcd c rd ra) s c rd (fun x =>
      if (x.getW ra).toNat < 10 ^ 8 then packedBcd (x.getW ra).toNat else 0xFFFFFFFF) ∧
    WritesSome (.kxBcdchk c rd ra) s c rd (fun x v => v = if ∀ j : Fin 8, wordNib (x.getW ra) j ≤ 9 then 1 else 0) ∧
    (c ≠ .scarecrow →
      WritesSome (.kxDtlook c rd ra) s c rd (fun x v => ∀ j < 8,
        wordNib v j = nib (le 8 x.dt.toNat) (wordNib (x.getW ra) j)) ∧
      CoreRuns (.kxDtset c ra rb) s c (fun x => ({ x with
        dt := BitVec.ofNat 64 ((x.getW ra).toNat + (x.getW rb).toNat * 2 ^ 32)
        dtLoaded := true }).next))

/-- R163, R164: loads and stores of the local data space. A load gives the bytes at ra + imm, extended as its name says; a store changes the n bytes
at ra + imm and no other byte of the data space. R164: a data access that is misaligned, or that leaves the mapped data space, ends the request of a
TU with FAULT_ALARM and takes trap cause 0x02 or 0x03 on the W and S variants. -/
def Obligations.LocalLoadsAndStores : Prop :=
  (∀ (s : State) (c : CoreId) (rd rs ra : Fin 32) (imm : BitVec 16),
     LoadsLocal (.kxLdw c rd ra imm) s c rd ra imm 4 (fun v => BitVec.ofNat 32 v) ∧
     LoadsLocal (.kxLdh c rd ra imm) s c rd ra imm 2 (fun v => BitVec.ofNat 32 v) ∧
     LoadsLocal (.kxLdhs c rd ra imm) s c rd ra imm 2 (fun v => (BitVec.ofNat 16 v).signExtend 32) ∧
     LoadsLocal (.kxLdb c rd ra imm) s c rd ra imm 1 (fun v => BitVec.ofNat 32 v) ∧
     LoadsLocal (.kxLdbs c rd ra imm) s c rd ra imm 1 (fun v => (BitVec.ofNat 8 v).signExtend 32) ∧
     StoresLocal (.kxStw c rs ra imm) s c rs ra imm 4 ∧
     StoresLocal (.kxSth c rs ra imm) s c rs ra imm 2 ∧
     StoresLocal (.kxStb c rs ra imm) s c rs ra imm 1) ∧
  (∀ (s : State) (c : CoreId) (r ra : Fin 32) (imm : BitVec 16) (i : Instr) (n : Nat),
     (i = .kxLdw c r ra imm ∨ i = .kxStw c r ra imm) ∧ n = 4 ∨ (i = .kxLdh c r ra imm ∨ i = .kxLdhs c r ra imm ∨ i = .kxSth c r ra imm) ∧ n = 2 ∨
       (i = .kxLdb c r ra imm ∨ i = .kxLdbs c r ra imm ∨ i = .kxStb c r ra imm) ∧ n = 1 →
     Issues s c →
     let a := dataAddr (s.core c.num) ra imm
     (a % n ≠ 0 →
       (∀ k : Fin 2048, c = .tu k → ∃ u, AtIssue s c u ∧ exec i s = done (faultCtx u k)) ∧
       (c.isTu = false → (s.sysCore c.side).inTrap = false →
         ∃ x, Found s c x ∧ Runs i s (fun t => Trapped s t c x 0x02 (s.core c.num).pc))) ∧
     (a % n = 0 → localEnd c ≤ a →
       (∀ k : Fin 2048, c = .tu k → ∃ u, AtIssue s c u ∧ exec i s = done (faultCtx u k)) ∧
       (c = .scarecrow → (a < 0x10000 ∨ 0x20000 ≤ a) → (s.sysCore c.side).inTrap = false →
         ∃ x, Found s c x ∧ Runs i s (fun t => Trapped s t c x 0x03 (s.core c.num).pc)) ∧
       (c.warden ≠ none → a < 0xF0000000 → (s.sysCore c.side).inTrap = false →
         ∃ x, Found s c x ∧ Runs i s (fun t => Trapped s t c x 0x03 (s.core c.num).pc))))

/-- R163, R164: branches, jumps, the return stack and the loop stack. R164: the body of a hardware loop runs as often as its count says: after an
instruction inside the body the next address follows; after its last instruction the first follows while passes remain, and the level pops after the
last pass. -/
def Obligations.ControlFlow : Prop :=
  (∀ (s : State) (c : CoreId) (ra rb : Fin 32) (off : BitVec 16) (far : BitVec 26) (len : BitVec 10) (count : BitVec 16) (bound : BitVec 11),
     Branches (.kxBeq c ra rb off) s c ra rb off (fun a b => a = b) ∧
     Branches (.kxBne c ra rb off) s c ra rb off (fun a b => a ≠ b) ∧
     Branches (.kxBlt c ra rb off) s c ra rb off (fun a b => a.toInt < b.toInt) ∧
     Branches (.kxBge c ra rb off) s c ra rb off (fun a b => b.toInt ≤ a.toInt) ∧
     Branches (.kxBltu c ra rb off) s c ra rb off (fun a b => a.toNat < b.toNat) ∧
     Branches (.kxBgeu c ra rb off) s c ra rb off (fun a b => b.toNat ≤ a.toNat) ∧
     CoreRuns (.kxJmp c far) s c (fun x => x.jump ((((x.pc : Int) + 4 * far.toInt) % 2 ^ 32).toNat)) ∧
     ((s.core c.num).rstack.length < (if c = .scarecrow then 8 else 16) →
       CoreRuns (.kxCall c far) s c (fun x =>
         ({ x with rstack := (x.pc + 4) :: x.rstack }).jump ((((x.pc : Int) + 4 * far.toInt) % 2 ^ 32).toNat))) ∧
     (∀ t r, (s.core c.num).rstack = t :: r → CoreRuns (.kxRet c) s c (fun x => ({ x with rstack := r }).jump t)) ∧
     ((s.core c.num).lstack.length < 4 →
       (count ≠ 0 → CoreRuns (.kxLoopi c len count) s c (fun x => { x with
         pc := x.pc + 4
         lstack := { first := x.pc + 4, last := x.pc + 4 * (len.toNat + 1), left := count.toNat } :: x.lstack })) ∧
       (min ((s.core c.num).getW ra).toNat bound.toNat ≠ 0 → CoreRuns (.kxLoopr c ra len bound) s c (fun x => { x with
         pc := x.pc + 4
         lstack := { first := x.pc + 4, last := x.pc + 4 * (len.toNat + 1), left := min (x.getW ra).toNat bound.toNat } :: x.lstack }))) ∧
     CoreRuns (.kxLoopi c len 0) s c (fun x => x.nextFrom (x.pc + 4 * (len.toNat + 1)))) ∧
  (∀ (x : Core) (l : LoopLevel) (r : List LoopLevel), x.lstack = l :: r →
     (x.pc ≠ l.last → x.next = { x with pc := x.pc + 4 }) ∧
     (x.pc = l.last → 1 < l.left → x.next = { x with pc := l.first, lstack := { l with left := l.left - 1 } :: r }) ∧
     (x.pc = l.last → l.left ≤ 1 → x.next = ({ x with lstack := r }).next))

/-- R163, R171: the instructions that write a secret register, with the label, the role and the derived bit of their results, on a TU and on a warden;
each draws a new mask (R135). R171: the tags of a mixed result. Its label is the most restricted of the operands'; a K result keeps role and derived
bit only when every K operand carries the same ones and every other operand has label P; under SAND and SOR a K result has role 0x00. -/
def Obligations.SecretRegisters : Prop :=
  (∀ (s : State) (c : CoreId) (sd sa sb : Fin 16) (ra : Fin 32) (q : Fin 4) (k : Fin 32) (role : BitVec 8),
     WritesSecret (.kxSmov c sd sa) s c sd (fun x => x.getS sa) ∧
     WritesSecret (.kxSclr c sd) s c sd (fun _ => { val := 0, label := .p, role := 0x00, derived := false }) ∧
     WritesSecret (.kxSxor c sd sa sb) s c sd (fun x =>
       let t := mixTags [x.getS sa, x.getS sb]
       { val := (x.getS sa).val ^^^ (x.getS sb).val, label := t.1, role := t.2.1, derived := t.2.2 }) ∧
     WritesSecret (.kxSand c sd sa sb) s c sd (fun x =>
       let t := mixLogic [x.getS sa, x.getS sb]
       { val := (x.getS sa).val &&& (x.getS sb).val, label := t.1, role := t.2.1, derived := t.2.2 }) ∧
     WritesSecret (.kxSor c sd sa sb) s c sd (fun x =>
       let t := mixLogic [x.getS sa, x.getS sb]
       { val := (x.getS sa).val ||| (x.getS sb).val, label := t.1, role := t.2.1, derived := t.2.2 }) ∧
     WritesSecret (.kxSmerge c sd sa sb) s c sd (fun x =>
       let t := mixTags [x.getS sa, x.getS sb]
       { val := (x.getS sb).val.setWidth 64 ++ (x.getS sa).val.setWidth 64, label := t.1, role := t.2.1, derived := t.2.2 }) ∧
     WritesSecret (.kxShigh c sd sa) s c sd (fun x => { x.getS sa with val := (x.getS sa).val >>> 64 }) ∧
     WritesSecret (.kxSparity c sd sa) s c sd (fun x =>
       let t := mixTags [x.getS sa]
       { val := block ((x.getS sa).bytes.map oddParity), label := t.1, role := t.2.1, derived := t.2.2 }) ∧
     WritesSecret (.kxSdtab c sd sa) s c sd (fun x =>
       let t := mixTags [x.getS sa]
       { val := block (Kx.mapNibs (fun n => nib (le 8 x.dt.toNat) n) (x.getS sa).bytes), label := t.1, role := t.2.1, derived := t.2.2 }) ∧
     WritesSecret (.kxSdadd c sd sa sb) s c sd (fun x =>
       let t := mixTags [x.getS sa, x.getS sb]
       { val := block (Kx.zipNibs (fun a b => if 9 < a ∨ 9 < b then 15 else (a + b) % 10) (x.getS sa).bytes (x.getS sb).bytes)
         label := t.1, role := t.2.1, derived := t.2.2 }) ∧
     WritesSecret (.kxSdsub c sd sa sb) s c sd (fun x =>
       let t := mixTags [x.getS sa, x.getS sb]
       { val := block (Kx.zipNibs (fun a b => if 9 < a ∨ 9 < b then 15 else (a + 10 - b) % 10) (x.getS sa).bytes (x.getS sb).bytes)
         label := t.1, role := t.2.1, derived := t.2.2 }) ∧
     WritesSecret (.kxSnsh c sd sa k) s c sd (fun x =>
       { x.getS sa with val := block (ofNibs ((List.range 32).map (fun j => (nibs (x.getS sa).bytes).getD (j + k) 0))) }) ∧
     WritesSecret (.kxSldw c sd ra q) s c sd (fun x => { x.getS sd with
       val := block ((x.getS sd).bytes.take (4 * q) ++ le 4 (x.getW ra).toNat ++ (x.getS sd).bytes.drop (4 * q + 4))
       role := if (x.getS sd).label = .k then 0x00 else (x.getS sd).role }) ∧
     (((s.core c.num).getS sa).label = .k → ((s.core c.num).getS sa).derived = true →
       (assignable ((s.core c.num).getS sa).role).contains role = true →
       WritesSecret (.kxSrole c sd sa role) s c sd (fun x => { x.getS sa with role := role, derived := false }))) ∧
  (∀ a b : SReg,
     (mixTags [a, b]).1.rank = max a.label.rank b.label.rank ∧
     (a.label = .k → b.label = .k → a.role = b.role → a.derived = b.derived → mixTags [a, b] = (.k, a.role, a.derived)) ∧
     (a.label = .k → b.label = .k → (a.role ≠ b.role ∨ a.derived ≠ b.derived) → mixTags [a, b] = (.k, 0x00, false)) ∧
     (a.label = .k → b.label = .p → mixTags [a, b] = (.k, a.role, a.derived) ∧ mixTags [b, a] = (.k, a.role, a.derived)) ∧
     (a.label = .k → b.label ≠ .k → b.label ≠ .p → mixTags [a, b] = (.k, 0x00, false) ∧ mixTags [b, a] = (.k, 0x00, false)) ∧
     (a.label ≠ .k → b.label ≠ .k → (mixTags [a, b]).2.1 = if a.role = b.role then a.role else 0x00) ∧
     (a.label = .k ∨ b.label = .k → (mixLogic [a, b]).2.1 = 0x00))

/-- R172: the extracts with the operands that the table allows. R141, R172: an extract whose operands the table does not allow ends the request of a
TU with FAULT_ALARM and increments BRN_FAULT.port_err. -/
def Obligations.SecretExtracts : Prop :=
  (∀ (s : State) (c : CoreId) (rd : Fin 32) (sa sb : Fin 16) (q : Fin 4) (last : Fin 32) (fmt cnt : BitVec 3) (imm : BitVec 5),
     Extracts (.kxSmvw c rd sa q) s c rd
       (fun x => (x.getS sa).label = .p ∨ (x.getS sa).label = .c)
       (fun x => BitVec.ofNat 32 (fieldLe (x.getS sa).bytes (4 * q) 4)) ∧
     Extracts (.kxScmp c rd sa sb last) s c rd (fun _ => True)
       (fun x => if ∀ j : Fin 32, j ≤ last → nib (x.getS sa).bytes j = nib (x.getS sb).bytes j then 1 else 0) ∧
     Extracts (.kxSpinchk c rd sa fmt) s c rd
       (fun x => (x.getS sa).label = .n ∧ (fmt = 0 ∨ fmt = 1 ∨ fmt = 3 ∨ fmt = 4))
       (fun x => match Kx.pinLen fmt.toNat (x.getS sa).bytes with
         | some l => BitVec.ofNat 32 (1 + 2 * l)
         | none => 0) ∧
     Extracts (.kxSdec c rd sa cnt) s c rd
       (fun x => (x.getS sa).label = .c)
       (fun x => Kx.digitWord (Kx.scan (x.getS sa).bytes (cnt.toNat + 1))) ∧
     Extracts (.kxSpofs c rd sa sb imm) s c rd
       (fun x => (x.getS sa).label = .n ∧ (x.getS sb).label = .c ∧ (x.getS sb).role = 0x04 ∧ x.dtLoaded = true ∧
         imm.toNat % 16 ≤ 11 ∧ (imm.toNat < 16 ∨ 8 < imm.toNat % 16 + 1))
       (fun x =>
         let lo := 8 * (imm.toNat / 16)
         let n := imm.toNat % 16 + 1
         Kx.digitWord ((List.range (min n (lo + 8) - lo)).map (fun k =>
           (((nib (x.getS sa).bytes (2 + (lo + k)) : Int) -
             nib (le 8 x.dt.toNat) (nib (x.getS sb).bytes (lo + k))) % 10).toNat)))) ∧
  (∀ (s : State) (c : Fin 2048) (rd : Fin 32) (sa sb : Fin 16) (q : Fin 4) (cnt : BitVec 3) (imm : BitVec 5) (role : BitVec 8) (sd : Fin 16) (i : Instr),
     Issues s (.tu c) →
     (i = .kxSmvw (.tu c) rd sa q ∧ ((s.core c).getS sa).label ≠ .p ∧ ((s.core c).getS sa).label ≠ .c) ∨
     (i = .kxSdec (.tu c) rd sa cnt ∧ ((s.core c).getS sa).label ≠ .c) ∨
     (i = .kxSpofs (.tu c) rd sa sb imm ∧ (((s.core c).getS sa).label ≠ .n ∨ (s.core c).dtLoaded = false ∨ 11 < imm.toNat % 16)) ∨
     (i = .kxSrole (.tu c) sd sa role ∧ (((s.core c).getS sa).label ≠ .k ∨ ((s.core c).getS sa).derived = false)) →
     ∃ u, AtPort s c u ∧ exec i s = done (faultCtx (evtCount u (barnPage (barnOfCtx c)) 0x088 27 14) c))

/-- R163, R167, R174, R175: ERET, WFI, TRAP, NOP, and CTX_MODE writes. R175: an enabled interrupt is taken between instructions, when no multiplier
write is pending, as trap cause 0x80 + i, with EPC the address of the next instruction; wardens in step take it together (R290). R152, R153, R175: a residue mismatch ends the request of a TU,
raises a warden's self-flag, and takes trap cause 0x06 on the scarecrow, whose channel 0x30 trips unless its condition is present already (R310);
BRN_FAULT.residue counts it. -/
def Obligations.TrapsInterruptsAndResidues : Prop :=
  (∀ (s : State) (c : CoreId) (v : Word),
     (Issues s c → c.isTu = false →
       (∃ u, AtIssue s c u ∧
         exec (.kxEret c) s = done ((u.setCore c.num ((u.core c.num).jump (s.sysCore c.side).epc.toNat)).setSys c.side
           { s.sysCore c.side with ien := (s.sysCore c.side).ienSaved, inTrap := false })) ∧
       (∃ u, AtIssue s c u ∧ exec (.kxWfi c) s = done (u.setCore c.num
         (if lineWaiting s c then { (u.core c.num).next with wait := .none } else { (u.core c.num).flush with wait := .wfi }))) ∧
       ((s.sysCore c.side).inTrap = false → ∃ x, Found s c x ∧ Runs (.kxTrap c) s (fun t => Trapped s t c x 0x0F (s.core c.num).pc))) ∧
     CoreRuns (.kxNop c 0xF8000000) s c (fun x => x.next) ∧
     (c.warden = none → CoreRuns (.ctxModeWrite c v) s c (fun x => ({ x with
       sat := v.getLsbD 0
       rnd := if v.toNat / 2 % 4 = 3 then 0 else BitVec.ofNat 2 (v.toNat / 2)
       ovf := x.ovf && (!v.getLsbD 3 || x.ovfNow) }).next))) ∧
  (∀ (s : State) (line : Fin 64),
     let takes (c : CoreId) : Prop := (s.core c.num).phase = .running ∧ (s.core c.num).wait = .none ∧ (s.core c.num).pend = [] ∧
       (s.sysCore c.side).ien = true ∧ (s.sysCore c.side).imask.getLsbD line = true ∧ lineUp s c line = true ∧
       (s.sysCore c.side).inTrap = false
     let taken (t : State) (c : CoreId) : Prop :=
       Trapped s t c (s.core c.num) (BitVec.ofNat 8 (0x80 + line)) (s.core c.num).pc ∧ (t.sysCore c.side).lines.getLsbD line = false
     (∀ c : CoreId, c.isTu = false → (c = .scarecrow ∨ comparing s = false) → takes c → Runs (.interruptEntry c line) s (fun t => taken t c)) ∧
     (∀ c : CoreId, c.warden ≠ none → comparing s = true →
       ((s.core 2048).slots = (s.core 2049).slots → takes .wardenA → takes .wardenB →
         Runs (.interruptEntry c line) s (fun t => taken t .wardenA ∧ taken t .wardenB)) ∧
       ((s.core 2048).slots ≠ (s.core 2049).slots → exec (.interruptEntry c line) s = done s))) ∧
  (∀ (s : State),
     (∀ c : Fin 2048, (s.core c).phase = .running → Runs (.residueMismatch (.tu c)) s (fun t => t = (tuResidue s c).drive)) ∧
     ((s.core 2048).phase = .running → exec (.residueMismatch .wardenA) s = exec (.wardenSelfFlag .a) s) ∧
     ((s.core 2049).phase = .running → exec (.residueMismatch .wardenB) s = exec (.wardenSelfFlag .b) s) ∧
     ((s.core 2050).phase = .running → (s.sysCore 2).inTrap = false →
       (s.scr.present.getLsbD 0x30 = true →
         Runs (.residueMismatch .scarecrow) s (fun t => Trapped s t .scarecrow (s.core 2050) 0x06 (s.core 2050).pc)) ∧
       (s.scr.present.getLsbD 0x30 = false → Runs (.residueMismatch .scarecrow) s (fun t => TripLatched s t 0x30))))

/-- R142, R167, R174, R175: IN and OUT of the system ports of a core that is no TU read and write the core's own port registers. R142, R173: IN and
OUT of a TU's request ports, with SIN and SOUT of the mailboxes; a port that a context may not use ends its request with FAULT_ALARM and increments
BRN_FAULT.port_err. -/
def Obligations.SystemAndTuPorts : Prop :=
  (∀ (s : State) (c : CoreId) (r : Fin 32) (n : Fin 16),
     Issues s c → c.isTu = false →
     WritesWord (.kxIn c r 0x8010) s c r (fun _ => (s.sysCore c.side).tvec) ∧
     WritesWord (.kxIn c r 0x8011) s c r (fun _ => (s.sysCore c.side).epc) ∧
     WritesWord (.kxIn c r 0x8012) s c r (fun _ => (s.sysCore c.side).ecause.zeroExtend 32) ∧
     WritesWord (.kxIn c r 0x8013) s c r (fun _ => if (s.sysCore c.side).ien then 1 else 0) ∧
     WritesWord (.kxIn c r 0x8014) s c r (fun _ => BitVec.ofNat 32 (s.sysCore c.side).imask.toNat) ∧
     WritesWord (.kxIn c r 0x8015) s c r (fun _ => BitVec.ofNat 32 ((s.sysCore c.side).imask.toNat / 2 ^ 32)) ∧
     (c.warden ≠ none → WritesWord (.kxIn c r (BitVec.ofNat 16 (0x8000 + n))) s c r (fun _ => Map.get 0 (s.sysCore c.side).apt n)) ∧
     (c = .scarecrow → ∃ u, AtIssue s c u ∧
       let x := u.core c.num
       exec (.kxOut c r 0x8010) s = done ((u.setSys c.side { s.sysCore c.side with tvec := x.getW r &&& 0xFFFFFFFC }).setCore c.num x.next) ∧
       exec (.kxOut c r 0x8011) s = done ((u.setSys c.side { s.sysCore c.side with epc := x.getW r }).setCore c.num x.next) ∧
       exec (.kxOut c r 0x8013) s = done ((u.setSys c.side { s.sysCore c.side with ien := (x.getW r).getLsbD 0 }).setCore c.num x.next))) ∧
  (∀ (s : State) (c : Fin 2048) (r : Fin 32) (sd : Fin 16) (q : Fin 4), Issues s (.tu c) →
     (∃ u, AtPort s c u ∧ exec (.kxIn (.tu c) r 0x0000) s = done (Reads u c r ((s.request c).desc.flags ++ (s.request c).desc.fn))) ∧
     (∃ u, AtPort s c u ∧ exec (.kxIn (.tu c) r 0x0002) s = done (Reads u c r (BitVec.ofNat 32 (s.request c).desc.inLen))) ∧
     (∃ u, AtPort s c u ∧ exec (.kxIn (.tu c) r 0x0003) s = done (Reads u c r (BitVec.ofNat 32 (s.request c).desc.outCap))) ∧
     (∃ u, AtPort s c u ∧ exec (.kxIn (.tu c) r 0x0082) s = done (Reads u c r (BitVec.ofNat 32 (s.core c).member))) ∧
     (∃ u, AtPort s c u ∧ exec (.kxOut (.tu c) r 0x0040) s = done (Onward u c (fun x => { x with inOfs := (x.getW r).toNat }))) ∧
     ((s.core c).member = 0 → ∃ u, AtPort s c u ∧ exec (.kxOut (.tu c) r 0x0010) s =
       done (Onward (u.setEntry (s.core c).entry { s.request c with status := ((s.core c).getW r).setWidth 16 }) c (fun x => x))) ∧
     (∀ v rest, (s.core c).smbx = v :: rest → (readUnit s (.mailbox c)).1 = .good → ∃ u m, AtPort s c u ∧ Runs (.kxSin (.tu c) sd 0x008C) s (fun t =>
       OnlyCoreMasked s t (.tu c) ∧
       t.core c = (Onward u c (fun x => { x with smbx := rest, s := Map.set {} x.s sd v, mask := m })).core c)) ∧
     (((s.core c).getS sd).label = .k → (s.core c).member = 0 →
       ∃ u, AtPort s c u ∧ exec (.kxSout (.tu c) sd q 0x0043) s =
         done (faultCtx (evtCount u (barnPage (barnOfCtx c)) 0x088 27 14) c)) ∧
     (((s.core c).getS sd).label = .p → (s.core c).member = 0 → ∃ u, AtPort s c u ∧
       let bs := slice ((s.core c).getS sd).bytes (4 * q) 4
       (stageDenied s (s.request c) (s.core c).outOfs bs = none → exec (.kxSout (.tu c) sd q 0x0043) s =
         done (Onward (stageOutput u (s.core c).entry (s.core c).outOfs bs) c (fun x => { x with outOfs := (x.outOfs + 4) % 2 ^ 32 })))) ∧
     (∃ u, AtPort s c u ∧ exec (.kxIn (.tu c) r 0xFFFF) s = done (faultCtx (evtCount u (barnPage (barnOfCtx c)) 0x088 27 14) c)))

/-! ### The ports of transaction units (05_transaction_units.md) -/

/-- R136, R137: a lead forks a helper, which starts at the entry offset with the lead's words 0 to 7 and every other register zero; a join ends once every
forked helper has ended, and waits until then; GRP_END ends a helper. R138: a mailbox takes values in order, four secret registers or eight words,
from another member of the group; a sender waits while it is full, a receiver while it is empty. R142, R45: IN_DATA reads four input bytes at IN_OFS
and advances it by 4, bytes past the input reading 0; the read from host memory waits while the link of the die retrains (R19), a failed one ends
the request with BAD_POINTER, and one that the HOSTDMA gate denies with FAULT_ALARM (R10, R347); OUT_DATA of the lead stages four bytes at
OUT_OFS, none of a write that reaches beyond the capacity, and advances it by 4; from byte 96 on they go to the staging area of the slot
(R255), where a gate that denies them ends the request (R347). R69, R142: NTIME_LO latches one sample of the network time, whose high word and
validity NTIME_HI and NTIME_VALID read; a DRBG word comes from the barn's DRBG, and the context waits while that does not serve. -/
def Obligations.GroupsMailboxesAndStaging : Prop :=
  (∀ (s : State) (c : Fin 2048) (v : Word) (r : Fin 32) (h : Nat), Issues s (.tu c) →
     ((s.core c).member = 0 → v.toNat % 4 ≠ 0 → (s.request c).group[v.toNat % 4]? = some h → h ≠ c → (s.core h).forked = false →
       4 * (v.toNat / 4 % 2 ^ 16) < bankLength s c →
       ∃ u, AtPort s c u ∧ exec (.grpFork c v) s = done (Onward (u.setCore h {
         phase := .running
         entry := (s.core h).entry
         member := (s.core h).member
         pc := 4 * (v.toNat / 4 % 2 ^ 16)
         w := (s.core c).w.filter (fun p => decide (p.1 < 8))
         mask := (s.core h).mask
         smbx := (s.core h).smbx
         wmbx := (s.core h).wmbx
         forked := true }) c (fun x => x))) ∧
     ((s.core c).member = 0 →
       ((∀ k ∈ (s.request c).group, k ≠ c → (s.core k).forked = true → (s.core k).phase = .ended) →
         ∃ u, AtPort s c u ∧ exec (.grpJoin c r) s = done (Reads u c r 0)) ∧
       ((∃ k ∈ (s.request c).group, k ≠ c ∧ (s.core k).forked = true ∧ (s.core k).phase ≠ .ended) →
         ∃ u, AtPort s c u ∧ exec (.grpJoin c r) s = done (u.setCore c { u.core c with wait := .join }))) ∧
     ((s.core c).member ≠ 0 →
       ∃ u, AtPort s c u ∧ exec (.grpEnd c) s = done (u.setCore c { u.core c with phase := .ended }))) ∧
  (∀ (s : State) (c : Fin 2048) (m : Fin 4) (sa sd : Fin 16) (r : Fin 32) (h : Nat), Issues s (.tu c) →
     ((s.request c).group[m.val]? = some h → h ≠ c →
       ((s.core h).smbx.length < 4 → ∃ u, AtPort s c u ∧ exec (.smbxSend c m sa) s =
         done (Onward (u.setCore h { s.core h with smbx := (s.core h).smbx ++ [(s.core c).getS sa] }) c (fun x => x))) ∧
       (4 ≤ (s.core h).smbx.length → ∃ u, AtPort s c u ∧ exec (.smbxSend c m sa) s =
         done (u.setCore c { u.core c with wait := .smbxSend m })) ∧
       ((s.core h).wmbx.length < 8 → ∃ u, AtPort s c u ∧ exec (.wmbxSend c m r) s =
         done (Onward (u.setCore h { s.core h with wmbx := (s.core h).wmbx ++ [(s.core c).getW r] }) c (fun x => x))) ∧
       (8 ≤ (s.core h).wmbx.length → ∃ u, AtPort s c u ∧ exec (.wmbxSend c m r) s =
         done (u.setCore c { u.core c with wait := .wmbxSend m }))) ∧
     (∀ v rest, (s.core c).smbx = v :: rest → (readUnit s (.mailbox c)).1 = .good → ∃ u k, AtPort s c u ∧ Runs (.smbxIn c sd) s (fun t =>
       OnlyCoreMasked s t (.tu c) ∧
       t.core c = (Onward u c (fun x => { x with smbx := rest, s := Map.set {} x.s sd v, mask := k })).core c)) ∧
     ((s.core c).smbx = [] → ∃ u, AtPort s c u ∧ exec (.smbxIn c sd) s = done (u.setCore c { u.core c with wait := .smbxIn })) ∧
     (∀ v rest, (s.core c).wmbx = v :: rest → (readUnit s (.mailbox c)).1 = .good → ∃ u, AtPort s c u ∧ exec (.wmbxIn c r) s =
       done (Onward u c (fun x => { x with wmbx := rest, w := Map.set 0 x.w r v }))) ∧
     ((s.core c).wmbx = [] → ∃ u, AtPort s c u ∧ exec (.wmbxIn c r) s = done (u.setCore c { u.core c with wait := .wmbxIn }))) ∧
  (∀ (s : State) (c : Fin 2048) (r : Fin 32) (v : Word) (b : Bytes), Issues s (.tu c) →
     ((s.request c).input = some b → ∃ u, AtPort s c u ∧ exec (.inData c r .ok) s =
       done (Onward u c (fun x => { x with
         inOfs := (x.inOfs + 4) % 2 ^ 32
         w := Map.set 0 x.w r (BitVec.ofNat 32 (ofLe ((List.range 4).map (fun k => b.getD ((s.core c).inOfs + k) 0)))) }))) ∧
     ((s.request c).input = none → (s.request c).desc.isInline = false → (s.request c).desc.inLen ≠ 0 → ∀ dma, ∃ u, AtPort s c u ∧
       (linkWaits s (dieOfCtx c) = true → exec (.inData c r dma) s = done u) ∧
       (linkWaits s (dieOfCtx c) = false → dma ≠ .ok → hostGate s false = true →
         exec (.inData c r dma) s = done (endRequest u (s.core c).entry St.badPointer)) ∧
       (linkWaits s (dieOfCtx c) = false → hostGate s false = false →
         exec (.inData c r dma) s = done (endRequest (hostDenied u false) (s.core c).entry St.faultAlarm))) ∧
     ((s.core c).member = 0 → ∃ u, AtPort s c u ∧
       let x := s.request c
       let o := (s.core c).outOfs
       let bs := (List.range 4).map (fun k => BitVec.ofNat 8 (v.toNat / 256 ^ k))
       let onward (w : State) (y : Entry) : Prop :=
         exec (.outData c v) s = done (Onward (w.setEntry (s.core c).entry y) c (fun z => { z with outOfs := (z.outOfs + 4) % 2 ^ 32 }))
       (stageDenied s x o bs = none → exec (.outData c v) s =
         done (Onward (stageOutput u (s.core c).entry o bs) c (fun z => { z with outOfs := (z.outOfs + 4) % 2 ^ 32 }))) ∧
       (x.desc.outCap < o + 4 → onward u { x with outOver := max x.outOver (o + 4) }) ∧
       (o + 4 ≤ x.desc.outCap → ((o + 4 ≤ 96 ∧ x.func ≠ 0) ∨ stagePlace x = none) → ∃ m, onward u { x with out := m } ∧
         ∀ k, Map.get 0 m k = if o ≤ k ∧ k < o + 4 then bs.getD (k - o) 0 else Map.get 0 x.out k) ∧
       ∀ d : Fin 2, x.die = d.val + 1 → x.func ≠ 0 → o + 4 ≤ x.desc.outCap → 96 ≤ o →
         let at0 := 0x300000000 + 0x8000 * x.slot + (o - 96)
         (gateAllows u .tu (hbmBase (d.val + 1) + at0) true = true → at0 % 4096 ≤ 4092 → onward (hbmWrite u (d.val + 1) at0 bs) x) ∧
         (gateAllows u .tu (hbmBase (d.val + 1) + at0) true = false →
           exec (.outData c v) s = done (faultCtx (recordDenial u .tu (hbmBase (d.val + 1) + at0) true) c)))) ∧
  (∀ (s : State) (c : Fin 2048) (r : Fin 32) (k : Fin 4), Issues s (.tu c) →
     (∃ u, AtPort s c u ∧ exec (.ntimeRead c r 0) s = done (Onward u c (fun x => { x with
       ntimeHi := BitVec.ofNat 32 (s.time.ntime / 2 ^ 32 % 2 ^ 32)
       ntimeOk := s.time.valid
       w := Map.set 0 x.w r (BitVec.ofNat 32 s.time.ntime) }))) ∧
     (∃ u, AtPort s c u ∧ exec (.ntimeRead c r 1) s = done (Reads u c r (s.core c).ntimeHi)) ∧
     (∃ u, AtPort s c u ∧ exec (.ntimeRead c r 2) s = done (Reads u c r (if (s.core c).ntimeOk then 1 else 0))) ∧
     (drbgServes s (barnOfCtx c) = true → ∃ u, AtPort s c u ∧ exec (.drbgRead c r k) s =
       done (Reads (drbgGen u (barnOfCtx c) 4).2 c r (BitVec.ofNat 32 (ofLe (drbgGen u (barnOfCtx c) 4).1)))) ∧
     (drbgServes s (barnOfCtx c) = false → ∃ u, AtPort s c u ∧ exec (.drbgRead c r k) s =
       done (u.setCore c { u.core c with wait := .drbg })))

/-- R145 to R149: a lookup of a handle that fails R46 gives KEY_NOT_FOUND and no key; the result stays unreadable until
its latency ends; a fill whose record was not authenticated by the context, or whose block does not match the handle, gives KEY_NOT_FOUND and places
no key. R146 to R149: a hit whose checks pass places the key, 16 bytes a register from the named one on, with label K, the named role and the derived
bit clear, and gives OK with hit 1; a miss gives OK with hit 0 and no key; a fill of a record that the context authenticated places its key and gives
OK. -/
def Obligations.UnwrapCache : Prop :=
  (∀ (s : State) (c : Fin 2048) (v : Word) (r : Fin 32), Issues s (.tu c) →
     (handleFails s ((s.request c).func - 1) ((s.request c).desc.handle (v.toNat % 4)) = true → Runs (.uwcLookup c v) s (fun t =>
         (t.core c).uwc = some (BitVec.ofNat 32 St.keyNotFound.toNat, false) ∧ (t.core c).s = (s.core c).s ∧ t.uwc = s.uwc)) ∧
     ((s.core c).recAuth = false → Runs (.uwcFill c v) s (fun t =>
       (t.core c).uwc = some (BitVec.ofNat 32 St.keyNotFound.toNat, true) ∧ (t.core c).s = (s.core c).s ∧ t.uwc = s.uwc)) ∧
     (∀ w, (s.core c).uwc = some (w, false) → exec (.uwcResultReady c r) s =
       done (s.setCore c { s.core c with uwc := some (w, true) })) ∧
     (∀ (d : Fin 2048) w, (s.core d).uwc = some (w, false) → (s.core d).wait = .uwcResult →
       exec (.uwcResultReady d r) s = done (Reads (s.setCore d { s.core d with uwc := some (w, true) }) d r w))) ∧
  (∀ (s : State) (c : Fin 2048) (v : Word), Issues s (.tu c) →
     let e := (s.core c).entry
     let x := s.request c
     let pos := v.toNat % 4
     let d := v.toNat / 1024 % 16
     let h := x.desc.handle pos
     let p := x.func - 1
     let snap := if x.snap.isSome then x.snap else some (BitVec.ofNat 64 s.time.ntime, s.time.valid)
     let placed (t : State) (code : Byte) (key : Bytes) : Prop :=
       (∀ j, 16 * j < key.length → (t.core c).getS ((d + j) % 16) =
         { val := block (slice key (16 * j) 16), label := .k, role := code, derived := false }) ∧
       ∀ k, k < 16 → (∀ j, 16 * j < key.length → k ≠ (d + j) % 16) → (t.core c).getS k = (s.core c).getS k
     (handleFails s p h = false →
       (∀ half i, uwcFind s x.barn p (handleIdx h) (handleTag h) half = some i → (readUnit s (.uwc i)).1 = .good) →
       (∀ w, uwcFind s x.barn p (handleIdx h) (handleTag h) 0 = some w →
         let y := s.uwcAt w
         y.alg ≠ Alg.hmac64 → y.klen ≤ 32 → lookupRole x.desc.fn.toNat pos (v.toNat / 4 % 256) y.usage y.mode y.alg = true →
         windowStatus y.nb.toNat y.na.toNat snap = St.ok → counterStatus s y.slotRef = St.ok → slotStatus s y.slotRef = St.ok →
         Runs (.uwcLookup c v) s (fun t => (t.core c).uwc = some (0x10000, false) ∧ (t.entry e).snap = snap ∧
           placed t (BitVec.ofNat 8 (v.toNat / 4)) (uwcKeyBytes y))) ∧
       (uwcFind s x.barn p (handleIdx h) (handleTag h) 0 = none → Runs (.uwcLookup c v) s (fun t =>
         (t.core c).uwc = some (0, false) ∧ (t.core c).s = (s.core c).s ∧ (t.entry e).snap = snap ∧ t.uwc = s.uwc))) ∧
     (let reg (n : Nat) : Bytes := ((s.core c).getS (n % 16)).bytes
      let kr := v.toNat / 4 % 16
      let ar := v.toNat / 64 % 16
      let k := recAttrs (reg ar ++ reg (ar + 1) ++ reg (ar + 2))
      let code := Map.get 0 x.lookRole pos
      (s.core c).recAuth = true → k.part = handlePart h → k.idx = handleIdx h → k.tag = handleTag h →
       lookupRole x.desc.fn.toNat pos code.toNat k.usage k.mode k.alg = true → windowStatus k.nb k.na x.snap = St.ok →
       counterStatus s k.slotRef = St.ok → slotStatus s k.slotRef = St.ok →
       Runs (.uwcFill c v) s (fun t => (t.core c).uwc = some (0, true) ∧
         placed t code ((reg kr ++ reg (kr + 1) ++ reg (kr + 2) ++ reg (kr + 3)).take (Alg.symLen k.alg)))))

/-- R145, R147, R233: a key-record fetch is remembered and clears the record-authentication flag; the record arrives with its status, which a waiting
KREC_RESULT takes; REC_KEY places the per-boot record key with label K and role 0x0C; a finished store gives its status. R145, R147, R233: a fetched
record that is there arrives in s8 to s15 with label P and status OK; a record store makes the key of its registers under its template, whose handle
and status wait for the record writer. -/
def Obligations.KeyRecordTransfers : Prop :=
  (∀ (s : State) (c : Fin 2048) (v : Word) (r : Fin 32),
     (Issues s (.tu c) → Runs (.krecFetch c v) s (fun t =>
       (t.core c).fetch = some (v.toNat % 4, v.getLsbD 2) ∧ (t.core c).krec = none ∧ (t.core c).recAuth = false ∧
       (t.core c).w = (s.core c).w ∧ (t.core c).s = (s.core c).s)) ∧
     (Issues s (.tu c) → ∃ m, Runs (.recKey c v) s (fun t =>
       OnlyCoreMasked s t (.tu c) ∧ (t.core c).mask = m ∧
       (t.core c).s = Map.set {} (s.core c).s (v.toNat % 16) { val := s.grn.recKey.getD 0, label := .k, role := 0x0C, derived := false })) ∧
     ((s.core c).phase = .running → (s.core c).wait ≠ .krecResult → ∀ pos second, (s.core c).fetch = some (pos, second) →
       let p := (s.request c).func - 1
       let at1 := handleIdx ((s.request c).desc.handle pos)
       fetchWaits s c = false → recUnread s p at1 = [] → recUnread s p (at1 + (if second then 1 else 0)) = [] →
       fetchStatus s (s.core c).entry pos second ≠ St.ok →
       exec (.krecFetchDone c r) s = done (s.setCore c { s.core c with
         fetch := none
         krec := some ((fetchStatus s (s.core c).entry pos second).zeroExtend 32) })) ∧
     ((s.core c).phase = .running → (s.core c).wait ≠ .krecResult → ∀ st, (s.core c).storing = some st →
       exec (.krecStoreDone c r) s = done (s.setCore c { s.core c with storing := none, krec := some (st.zeroExtend 32) })) ∧
     (Issues s (.tu c) → v.toNat / 2 ^ 16 ≠ 0 → ∃ u, AtPort s c u ∧ exec (.krecStore c v) s = done (faultCtx u c))) ∧
  (∀ (s : State) (c : Fin 2048) (v : Word) (r : Fin 32),
     let x := s.request c
     let p := x.func - 1
     (∀ pos second, (s.core c).phase = .running → (s.core c).wait ≠ .krecResult → (s.core c).fetch = some (pos, second) →
       let idx := handleIdx (x.desc.handle pos) + (if second then 1 else 0)
       fetchWaits s c = false → recUnread s p (handleIdx (x.desc.handle pos)) = [] → recUnread s p idx = [] →
       fetchStatus s (s.core c).entry pos second = St.ok → recGate s .tu p idx false = true →
       Runs (.krecFetchDone c r) s (fun t => (t.core c).krec = some 0 ∧ (t.core c).fetch = none ∧
         (∀ k, k < 8 → (t.core c).getS (8 + k) =
           { val := block (slice (recBytes s p idx) (16 * k) 16), label := .p, role := 0, derived := false }) ∧
         ∀ k, k < 8 → (t.core c).getS k = (s.core c).getS k)) ∧
     (let reg (n : Nat) : SReg := (s.core c).getS (v.toNat / 16 ^ n % 16)
      let t := (reg 2).bytes ++ (reg 3).bytes
      let spec := templateSpec t
      let key := ((reg 0).bytes ++ (reg 1).bytes).take (Alg.symLen spec.alg)
      Issues s (.tu c) → v.toNat < 2 ^ 16 → ((reg 0).label = .k ∨ (reg 0).label = .p) → ((reg 1).label = .k ∨ (reg 1).label = .p) →
       (reg 2).label = .p → (reg 3).label = .p → templateOk s p t = true → 0 < Alg.symLen spec.alg → Alg.symLen spec.alg ≤ 32 →
       ((v.toNat % 16 = v.toNat / 16 % 16) ↔ Alg.symLen spec.alg ≤ 16) →
       indicesFree s (s.core c).entry p spec.idx 1 = true → CanCreate s .tu p spec key →
       ∃ u h y, AtPort s c u ∧
         createRecord (u.modEntry (s.core c).entry (fun z => { z with recResv := some (spec.idx, 1) })) .tu p spec key = (St.ok, h, y) ∧
         exec (.krecStore c v) s = done (Onward (y.modEntry (s.core c).entry (fun z => { z with recMade := true })) c
           (fun z => { z with krec := none, storing := some St.ok, newHandle := h, halfHi := false }))))

/-- R151: a policy request judges and debits once, in the handle positions it names, and a second one ends the request; the result becomes
readable when it is ready. R382: the tally ports of a lead that holds a reservation set the detail, the index, a data word with the index advancing to
at most 7, and the named handles; without a reservation the request ends with FAULT_ALARM. R381, R386, R391: warden firmware reserves one or two tally
entries while the main area has room; a window's cursor goes to the lowest visible sequence at or above the value written, else behind the last
visible one, and a read of the entry's last word moves it on. -/
def Obligations.PolicyAndTallyPorts : Prop :=
  (∀ (s : State) (c : Fin 2048) (v : Word) (r : Fin 32),
     (Issues s (.tu c) → (s.request c).polPhase = .idle →
       ∃ u, AtPort s c u ∧
         let d := policyDebit u (s.core c).entry ((List.range 4).filter (fun k => v.getLsbD k)) (v.getLsbD 4)
         exec (.polReq c v) s = done (Onward (d.2.2.setEntry (s.core c).entry { d.2.2.entry (s.core c).entry with
           polPhase := .asked
           polResult := d.1
           failPos := d.2.1 }) c (fun x => x))) ∧
     (Issues s (.tu c) → (s.request c).polPhase ≠ .idle →
       ∃ u, AtPort s c u ∧ exec (.polReq c v) s = done (faultCtx u c)) ∧
     ((s.core c).phase = .running → (s.request c).polPhase = .asked → (s.core c).wait ≠ .polResult →
       exec (.polResultReady c r) s = done (s.setEntry (s.core c).entry { s.request c with polPhase := .answered })) ∧
     ((s.core c).phase = .running → (s.request c).polPhase = .asked → (s.core c).wait = .polResult →
       exec (.polResultReady c r) s = done (Reads (s.setEntry (s.core c).entry { s.request c with polPhase := .answered }) c r
         ((s.request c).polResult.zeroExtend 32)))) ∧
  (∀ (s : State) (c : Fin 2048) (v : Word), Issues s (.tu c) →
     let e := (s.core c).entry
     let x := s.request c
     let y := x.tally
     ((s.core c).member = 0 → y.held = true →
       (∃ u, AtPort s c u ∧ exec (.tpDetail c v) s =
         done (Onward (u.setEntry e { x with tally := { y with detail := v.setWidth 16 } }) c (fun z => z))) ∧
       (∃ u, AtPort s c u ∧ exec (.tpOfs c v) s =
         done (Onward (u.setEntry e { x with tally := { y with ofs := v.toNat % 8 } }) c (fun z => z))) ∧
       (∃ u, AtPort s c u ∧ exec (.tpData c v) s =
         done (Onward (u.setEntry e { x with tally := { y with data := Map.set 0 y.data y.ofs v, ofs := min 7 (y.ofs + 1) } }) c (fun z => z))) ∧
       (v = 1 → ∃ u, AtPort s c u ∧ exec (.tpHandles c v) s =
         done (Onward (u.setEntry e { x with tally := { y with
           data := Map.set 0 (Map.set 0 y.data 0 ((x.desc.handle 0).setWidth 32)) 1 ((x.desc.handle 0 >>> 32).setWidth 32) } })
           c (fun z => z)))) ∧
     (y.held = false → ∀ i ∈ [Instr.tpDetail c v, .tpOfs c v, .tpData c v, .tpHandles c v],
       ∃ u, AtPort s c u ∧ exec i s = done (faultCtx u c))) ∧
  (∀ (s : State) (f : Fin 2049) (v : Word),
     (∀ (i : Instr) (n : Nat), (i, n) ∈ [(Instr.talResvTake, 1), (.talResvTakePair, 2)] →
       (s.tal.stuck = false → s.tal.main + s.tal.resv + n ≤ 131008 → Runs i s (fun t =>
         t.tal.resv = s.tal.resv + n ∧ t.tal.fwResv = s.tal.fwResv + n ∧ t.tal.refused = false ∧ t.tal.log = s.tal.log)) ∧
       ((s.tal.stuck = true ∨ 131008 < s.tal.main + s.tal.resv + n) →
         exec i s = done { s with tal := { s.tal with refused := true } })) ∧
     (∀ (i : Instr) (n : Nat), (i, n) ∈ [(Instr.twCursorWrite f v, v.toNat), (.twEntryRead f, cursorOf s f + 1)] →
       let visible (x : TalEntry) : Prop := f.val = 0 ∨ x.part.toNat + 1 = f
       (∀ pre x post, s.tal.log = pre ++ x :: post → visible x → n ≤ x.seq → (∀ y ∈ pre, visible y → y.seq < n) →
         Runs i s (fun t => cursorOf t f = x.seq ∧ ∀ g, g ≠ f.val → cursorOf t g = cursorOf s g)) ∧
       (∀ pre x post, s.tal.log = pre ++ x :: post → visible x → (∀ y ∈ post, ¬visible y) → (∀ y ∈ s.tal.log, visible y → y.seq < n) →
         Runs i s (fun t => cursorOf t f = (x.seq + 1) % 2 ^ 32 ∧ ∀ g, g ≠ f.val → cursorOf t g = cursorOf s g)) ∧
       ((∀ y ∈ s.tal.log, ¬visible y) → Runs i s (fun t => cursorOf t f = 1 ∧ ∀ g, g ≠ f.val → cursorOf t g = cursorOf s g))))

/-! ### Rings, descriptors, dispatch and completions (02_host_interface.md, 04_scheduling.md) -/

/-- R36, R40: a doorbell beyond the ring, or of an enabled ring past its head or tail, is ignored and sets the ring's error, which raises vector 0 and
disables an SQ; any other doorbell is recorded. -/
def Obligations.RingDoorbells : Prop :=
  ∀ (s : State) (f : Fin 2049) (n : Fin 64) (v : Word), ringUp s f n = true → s.pwr.state ≠ pwrIdle → s.pwr.target ≠ .idle →
    let i : Nat := v.toNat % 2 ^ 16
    (let q := s.sq f n
     let N : Int := 2 ^ q.log2
     let passes : Prop := N - 1 - (q.tail - q.head) % N < ((i : Int) - q.tail) % N
     q.head < 2 ^ q.log2 →
       ((2 ^ q.log2 ≤ i ∨ (q.enable = true ∧ passes)) → exec (.sqDbWrite f n v) s =
         done (raiseVec (s.setSq f n { q with error := true, errKind := 1, enable := false, queued := 0 }) f 0)) ∧
       (i < 2 ^ q.log2 → (q.enable = true → ¬passes) → exec (.sqDbWrite f n v) s = done (s.setSq f n { q with tail := i }))) ∧
    (let c := s.cq f n
     let N : Int := 2 ^ c.log2
     let passes : Prop := (c.tail - c.head) % N < ((i : Int) - c.head) % N
     c.head < 2 ^ c.log2 →
       ((2 ^ c.log2 ≤ i ∨ (c.enable = true ∧ passes)) → exec (.cqDbWrite f n v) s =
         done (raiseVec (s.setCq f n { c with error := true }) f 0)) ∧
       (i < 2 ^ c.log2 → (c.enable = true → ¬passes) → exec (.cqDbWrite f n v) s = done (s.setCq f n { c with head := i })))

/-- R32, R33, R37: what the writes of SQ_CFG_n and CQ_CFG_n do, by the value of enable before the write and the one written. -/
def Obligations.RingConfigurationWrites : Prop :=
  ∀ (s : State) (f : Fin 2049) (n : Fin 64) (v : Word), ringUp s f n = true →
    let l := v.toNat / 2 ^ 8 % 2 ^ 5
    let log := if 6 ≤ l ∧ l ≤ 16 then l else 6
    let k := v.toNat / 2 ^ 16 % 2 ^ 6
    let q := s.sq f n
    let c := s.cq f n
    let err := q.error && !v.getLsbD 1
    let kind : BitVec 2 := if v.getLsbD 1 then 0 else q.errKind
    let cerr := c.error && !v.getLsbD 1
    (v.getLsbD 0 = true → q.enable = false → (s.cq f k).enable = true → Runs (.sqEnable f n v) s (fun t =>
      OnlySq s t f n ∧ t.sq f n = { q with
        error := err
        errKind := kind
        log2 := log
        cq := k
        enable := true
        head := 0
        tail := if q.tail < 2 ^ log then q.tail else 0 })) ∧
    (v.getLsbD 0 = true → q.enable = false → (s.cq f k).enable = false → Runs (.sqEnable f n v) s (fun t =>
      OnlySq s t f n ∧ t.sq f n = { q with error := true, errKind := 3, log2 := log, cq := k, enable := false, queued := 0 } ∧
      Raised s t f 0)) ∧
    (v.getLsbD 0 = false → q.enable = true → Runs (.sqDisable f n v) s (fun t =>
      OnlySq s t f n ∧ t.sq f n = { q with error := err, errKind := kind, enable := false, queued := 0 })) ∧
    (v.getLsbD 0 = false → q.enable = false → Runs (.sqDisable f n v) s (fun t =>
      OnlySq s t f n ∧ t.sq f n = { q with error := err, errKind := kind, log2 := log, cq := k })) ∧
    (v.getLsbD 0 = true → c.enable = false → Runs (.cqEnable f n v) s (fun t =>
      OnlyCq s t f n ∧ t.cq f n = { c with
        error := cerr
        intEn := v.getLsbD 2
        vector := k
        log2 := log
        enable := true
        tail := 0
        head := 0
        phase := true })) ∧
    (v.getLsbD 0 = false → c.enable = true → (cqNamed s f n = true ∨ 0 < cqBound s f n) → Runs (.cqDisable f n v) s (fun t =>
      OnlyCq s t f n ∧ t.cq f n = { c with error := true, intEn := v.getLsbD 2, vector := k })) ∧
    (v.getLsbD 0 = false → c.enable = true → cqNamed s f n = false → cqBound s f n = 0 → Runs (.cqDisable f n v) s (fun t =>
      OnlyCq s t f n ∧ t.cq f n = { c with error := cerr, intEn := v.getLsbD 2, vector := k, enable := false }))

/-- R42, R55, R56, R119, R124: the ring whose turn it is has a descriptor and is blocked by no condition of its own; its fetch reserves an entry of
its pool for its CQ and leaves the head; with the pool empty, or another ring in its queue, the ring joins the waiting queue; of the queue the ring
that has waited longest fetches; a ring visited 8 times gives way. R10, R37, R43, R44, R55, R120, R256, R297: a fetch that fails, or that the HOSTDMA
gate denies, stops its SQ with kind 2; a descriptor of a full flow stays where it is; one that a check of R44 refuses is staged with the status of the
first check that fails; an accepted one moves the head on, and takes its generation, class and flow sequence; in HALT one of the PF ends ABORTED. -/
def Obligations.DescriptorsFetchedAndJudged : Prop :=
  (∀ (s : State) (f : Fin 2049) (n : Fin 64),
     (turnSq s f = some n.val →
       ((s.sq f n).enable = true ∧ (s.sq f n).head ≠ (s.sq f n).tail ∧ functionFetches s f = true ∧ cqRoom s f (s.sq f n).cq = true ∧
         (f ≠ 0 → quotaUse s f < (s.part (f.val - 1)).quota))) ∧
     (∀ m < 64, ∀ k, Map.get 0 s.hif.rr f = 16 * k + 8 → m ≠ k → sqWants s f m = true → ownBlocked s f m = false →
       turnSq s f ≠ some k) ∧
     (∀ e, turnSq s f = some n.val → freeEntryOf s (f == 0) = some e → (f ≠ 0 → canReserveSlot s = true) →
       (if (s.sq f n).queued = 0 then poolQueued s (f == 0) = false
        else ∀ w ∈ ableWaiters s (f == 0), (s.sq f n).queued ≤ (s.sq w.1 w.2).queued) → Runs (.descriptorFetch f n) s (fun t =>
         (t.entry e).state = .reserved ∧ (t.entry e).phase = .fetching ∧ (t.entry e).func = f ∧ (t.entry e).cq = (s.sq f n).cq ∧
         (t.entry e).slotResv = decide (f ≠ 0) ∧
         (t.entry e).descAddr.toNat = ((s.sq f n).base.toNat + 128 * (s.sq f n).head) % 2 ^ 64 ∧
         (∀ k, k ≠ e → t.entry k = s.entry k) ∧ t.sq f n = { s.sq f n with queued := 0 } ∧
         (∀ g m, 64 * g + m ≠ 64 * f.val + n.val → t.sq g m = s.sq g m) ∧ t.hostMem = s.hostMem)) ∧
     (turnSq s f = some n.val → (poolFree s f = false ∨ poolQueued s (f == 0) = true) → (s.sq f n).queued = 0 → Runs (.descriptorFetch f n) s (fun t =>
       t.sq f n = { s.sq f n with queued := s.sched.waitSeq } ∧ t.entries = s.entries))) ∧
  (∀ (s : State) (e : Fin 69632) (dma : Dma),
     let x := s.entry e
     let q := s.sq x.func x.sq
     let d := parseDesc (s.hostRead x.descAddr.toNat 128)
     let ahead := if headAddr q = x.descAddr then { q with head := (q.head + 1) % 2 ^ q.log2 } else q
     let u := (if headAddr q = x.descAddr then s.setSq x.func x.sq ahead else s).setEntry e { x with desc := d, phase := .done }
     x.phase = .fetching → x.sq < 64 →
     let arrived : Prop := dma = .ok ∧ hostGate s false = true ∧ flowFull s x.func x.descAddr = false
     ((dma ≠ .ok ∨ hostGate s false = false) → Runs (.descriptorArrival e dma) s (fun t =>
       t.sq x.func x.sq = { q with error := true, errKind := 2, enable := false, queued := 0 } ∧ Raised s t x.func 0)) ∧
     (dma = .ok → hostGate s false = true → flowFull s x.func x.descAddr = true → Runs (.descriptorArrival e dma) s (fun t =>
       (t.sq x.func x.sq).head = q.head ∧ (t.entry e).accepted = false ∧ t.hostMem = s.hostMem)) ∧
     (arrived → (admitCheck u x.func d).1 ≠ 0 → Runs (.descriptorArrival e dma) s (fun t => ∃ k,
       (t.entry k).state = .staged ∧ (t.entry k).status = (admitCheck u x.func d).2 ∧ (t.entry k).desc = d ∧
       (t.entry k).slotResv = false ∧ (t.entry k).flowSeq = x.flowSeq)) ∧
     (arrived → (admitCheck u x.func d).1 = 0 → x.func ≠ 0 → Runs (.descriptorArrival e dma) s (fun t =>
       (t.entry e).accepted = true ∧ (t.entry e).desc = d ∧ (t.entry e).gen = (s.part (x.func - 1)).gen ∧
       (t.entry e).acceptSeq = s.sched.acceptSeq ∧ t.sched.acceptSeq = s.sched.acceptSeq + 1 ∧
       ((t.entry e).phase = .ready ∨ (t.entry e).phase = .waitSlot) ∧
       (d.ordered = true →
         (t.entry e).flowSeq = (s.flow (flowIdx (s.part (x.func - 1)) d.flow)).next ∧
         (t.flow (flowIdx (s.part (x.func - 1)) d.flow)).outstanding =
           (s.flow (flowIdx (s.part (x.func - 1)) d.flow)).outstanding + 1 ∧
         (t.flow (flowIdx (s.part (x.func - 1)) d.flow)).newest = some e.val))) ∧
     (arrived → (admitCheck u x.func d).1 = 0 → x.func = 0 → s.yoke.halt = true → x.state = .reserved →
       Runs (.descriptorArrival e dma) s (fun t => (t.entry e).state = .staged ∧ (t.entry e).status = St.aborted)) ∧
     (arrived → (admitCheck u x.func d).1 = 0 → x.func = 0 → s.yoke.halt = false → Runs (.descriptorArrival e dma) s (fun t =>
       (t.entry e).phase = .firmware ∧ (t.sysCore 0).lines.getLsbD 13 = true ∧ (t.sysCore 1).lines.getLsbD 13 = true)) ∧
     (x.func ≠ 0 → (s.part (x.func - 1)).state ≠ .active → admitCheck u x.func d = (1, St.notActive)) ∧
     (x.func ≠ 0 → (s.part (x.func - 1)).state = .active → d.gen ≠ (s.part (x.func - 1)).gen → admitCheck u x.func d = (2, St.notActive)) ∧
     ((admitCheck u x.func d).1 = 0 → d.flags.toNat < 16 ∧ (d.ordered = true ↔ d.flow ≠ 0) ∧ (d.isInline = true → d.inLen ≤ 64) ∧
       (0 < d.inLen → d.isInline = false → d.inAddr ≠ 0 ∧ d.inAddr + d.inLen ≤ 2 ^ 64) ∧
       (0 < d.outCap → d.outAddr ≠ 0 ∧ d.outAddr.toNat + d.outCap ≤ 2 ^ 64)))

/-- R112: a request that has waited on its list joins the next higher class and waits anew. R113, R114: a dispatch opportunity takes the highest class
in which a request can run, and within it a head that can run, of a partition whose deficit counter covers the head's charge; no counter passes 8,447.
R115, R136: the request runs with a group in a stook of the barn chosen. R19: while the link of the die retrains nothing is sent to it. R127, R154,
R273: a watchdog ends its request with WATCHDOG, and nothing that it staged is released; during a held read of the request it takes effect later. R51 to R54, R276, R277: a function-level reset aborts what the partition has in flight and increments its generation; the
increment gives every ring register of the VF its reset value. -/
def Obligations.AgingDispatchAndWatchdogs : Prop :=
  (∀ (s : State),
     (∀ e : Fin 69632, (s.entry e).phase = .ready → (s.entry e).cls ≠ .urgent → Runs (.requestAging e) s (fun t =>
       t.entry e = { s.entry e with cls := (s.entry e).cls.up, waitSince := s.tmr.now } ∧ ∀ k, k ≠ e.val → t.entry k = s.entry k)) ∧
     (∀ (d : Nat) (c : Cls), dispatchClass s d = some c →
       (∃ p ∈ listParts s d c, ∃ e ∈ subList s d c p, canRun s d (s.entry e) = true) ∧
       ∀ b, Trace.clsCode b < Trace.clsCode c → ∀ p ∈ listParts s d b, ∀ e ∈ subList s d b p, canRun s d (s.entry e) = false) ∧
     (∀ die : Fin 2, linkWaits s (die.val + 1) = true → exec (.requestDispatch die) s = done s) ∧
     (∀ (d : Nat) (c : Cls) (fuel : Nat) (e : Nat) (t : State), wdrr d c fuel s = some (e, t) →
       t = { s with sched := t.sched } ∧
       (∃ p r, subList s d c p = e :: r ∧ canRun s d (s.entry e) = true ∧
         ((∀ k, s.deficit d c k ≤ 8447) → t.deficit d c p + charge s (s.entry e) ≤ 8447)) ∧
       ((∀ k, s.deficit d c k ≤ 8447) → ∀ k, t.deficit d c k ≤ 8447)) ∧
     (∀ (die : Fin 2) (c : Cls) (e : Nat) (t : State) (b k n : Nat) (g : BankFn),
       keepRuns s = true → dieUp s (die.val + 1) = true → Map.get false s.pwr.hot die = false → s.pwr.state ≠ pwrIdle →
       linkWaits s (die.val + 1) = false → dispatchClass s (die.val + 1) = some c → wdrr (die.val + 1) c (4098 * ((listParts s (die.val + 1) c).length + 1)) s = some (e, t) →
       (∀ st pos, endsAtDispatch t (die.val + 1) (t.entry e) = some (st, pos) → (t.entry e).state = .reserved → (t.entry e).accepted = true →
         Runs (.requestDispatch die) s (fun u => (u.entry e).state = .staged ∧ (u.entry e).status = st ∧ (u.entry e).outLen = 0)) ∧
       (endsAtDispatch t (die.val + 1) (t.entry e) = none → chooseBarn t (die.val + 1) (t.entry e) = some b →
         pickStook t b (t.entry e).desc.fn.toNat = some k → stookFn t k (t.entry e).desc.fn.toNat = some (n, g) →
         Runs (.requestDispatch die) s (fun u =>
           (u.entry e).phase = .running ∧ (u.entry e).barn = b ∧ (u.entry e).group = placeMembers t k g.group [] ∧
           (u.entry e).lead = (placeMembers t k g.group []).headD 0)))) ∧
  (∀ (s : State),
     (∀ (e : Fin 69632) (i : Instr), i = .classWatchdogExpiry e ∨
         (i = .tuWatchdogExpiry e ∧ ((s.entry e).phase = .running ∨ (s.entry e).phase = .drafted)) →
       (readHeld s e = true → exec i s = done (s.modEntry e (fun x => { x with dogLate := true }))) ∧
       (readHeld s e = false → (s.entry e).state = .reserved → (s.entry e).accepted = true → Runs i s (fun t =>
         (t.entry e).state = .staged ∧ (t.entry e).status = St.watchdog ∧ (t.entry e).outLen = 0 ∧ (t.entry e).out = [] ∧
         (fnClass (s.entry e).desc.fn.toNat ≠ 6 → (t.entry e).result = 0) ∧ (baeOf s e = none → t.hostMem = s.hostMem)))) ∧
     (∀ (p : Fin 2048), s.boot.pfEnabled = true →
       ((s.part p).state = .empty → exec (.flr p) s = done (resetRings s (p.val + 1))) ∧
       ((s.part p).state = .resetting → exec (.flr p) s = done (s.modPart p (fun x => { x with incPending := x.incPending + 1 }))) ∧
       ((s.part p).state = .active ∨ (s.part p).state = .quiescing ∨ (s.part p).state = .frozen →
         exec (.flr p) s = done (tryIncrement (beginReset s p) p) ∧
         ((beginReset s p).part p).state = .resetting ∧ ((beginReset s p).part p).incPending = (s.part p).incPending + 1 ∧
         ((beginReset s p).part p).wasActive = decide ((s.part p).state = .active) ∧
         (Map.wf {} s.entries = true → ∀ e, (s.entry e).func = p.val + 1 → (s.entry e).accepted = true → (s.entry e).state = .reserved → (s.entry e).phase ≠ .fetching →
           ((beginReset s p).entry e).state = .staged ∧ ((beginReset s p).entry e).status = St.aborted))) ∧
     (∀ (p : Fin 2048), (s.part p).incPending = 1 → (s.part p).releasing = false → incrementReady s p = true →
       Runs (.generationIncrement p) s (fun t =>
         (t.part p).gen = (if (s.part p).gen = 0xFFFF then 1 else (s.part p).gen + 1) ∧
         (t.part p).state = (if (s.part p).wasActive then .active else .frozen) ∧
         ∀ n < 64, t.sq (p.val + 1) n = {} ∧ t.cq (p.val + 1) n = {} ∧ t.msix (p.val + 1) n = {})))

/-- R50, R61, R142 to R144: the lead's post ends its group; an OK without the policy step its keys need is FAULT_ALARM, an OK with more output
than capacity BAD_LENGTH with the capacity it took in the result word, and only OK keeps output; of another status the result word is as R61 lists it,
and a value that is no status is posted as FAULT_ALARM (the model's choice, log 102). R451, R123: the posted completion is staged, R255 with the output
of the slot's staging area, R263 of which a poisoned line ends the request with FAULT_ALARM; R19, R261 it waits for a link that retrains, and for a
held line. R38, R52, R53, R120, R122: a staged head of its chain is dropped when its generation is stale, stays while its CQ takes nothing or an
increment is asked for, but for one that carries the value to come (the model's choice, log 103), and else enters WRITING, which frees its successor.
R10, R22, R38, R41, R42, R45, R57, R125: the oldest WRITING entry of a CQ that is not in error writes its output and then its completion with the phase
of the pass and the degraded flag of that moment; the tail moves on, and its wrap inverts the phase; an output that cannot be written makes the
completion BAD_POINTER; a completion that cannot be written, and each that the HOSTDMA gate denies, is lost. The moderation timer raises the vector. -/
def Obligations.CompletionsPostedAndWritten : Prop :=
  (∀ (s : State),
     (∀ (c : Fin 2048) (v : Word), (s.core c).phase = .running → (s.request c).group.contains c.val = true → (s.core c).member = 0 →
       let x := s.request c
       let post (st : Status) (r : BitVec 64) (keep : Bool) : Prop := Runs (.reqComplete c v) s (fun t =>
         t.entry (s.core c).entry = { x with
           status := st
           result := r
           outLen := if keep then x.outLen else 0
           out := if keep then x.out else []
           outOver := 0
           phase := .posted
           group := [] } ∧ ∀ m ∈ x.group, t.core m = {})
       let served := x.polNeed = true → x.polPhase = .answered ∧ x.polResult = St.ok
       (x.status ≠ St.ok → x.status ∉ St.listed → post St.faultAlarm 0 false) ∧
       (x.status = St.keyUseExhausted → x.polResult = St.keyUseExhausted → post x.status (BitVec.ofNat 64 x.failPos) false) ∧
       (x.status ≠ St.ok → x.status ∈ St.listed → (x.status = St.keyUseExhausted → x.polResult ≠ St.keyUseExhausted) →
         post x.status
           (if x.status.toNat / 2 ^ 8 = 2 then x.result &&& 3
            else if x.status = St.badLength then x.result &&& 0xFFFFFFFF
            else if fnClass x.desc.fn.toNat = 6 ∧ x.status ∈ [St.tagFail, St.aborted, St.watchdog, St.faultAlarm] then x.result
            else 0) false) ∧
       (x.status = St.ok → ¬served → post St.faultAlarm 0 false) ∧
       (x.status = St.ok → served → (x.outOver ≠ 0 ∨ x.desc.outCap < x.outLen) →
         post St.badLength (BitVec.ofNat 64 (if x.outOver ≠ 0 then x.outOver else x.outLen)) false) ∧
       (x.status = St.ok → served → x.outOver = 0 → x.outLen ≤ x.desc.outCap → post St.ok x.result true)) ∧
     (∀ (c : Fin 2048) (v : Word), (s.core c).phase = .running → (s.request c).group.contains c.val = true → (s.core c).member ≠ 0 →
       exec (.reqComplete c v) s = done (portError s c)) ∧
     (∀ e : Fin 69632, (s.entry e).phase = .posted → (s.entry e).state = .reserved →
       let x := s.entry e
       let crosses : Prop := x.die = 0 ∨ linkWaits s x.die = false
       let staged (m : Map Byte) : Prop := Runs (.completionStaged e) s (fun t =>
         (t.entry e).state = .staged ∧ (t.entry e).phase = .done ∧ (t.entry e).status = x.status ∧
         (t.entry e).out = m ∧ (t.entry e).outLen = x.outLen ∧ (t.entry e).result = x.result)
       (x.die ≠ 0 → linkWaits s x.die = true → exec (.completionStaged e) s = done s) ∧
       (crosses → stagedUnread s e ≠ [] → Runs (.completionStaged e) s (fun t => t.entries = s.entries)) ∧
       (crosses → stagedUnread s e = [] → (stagePlace x = none ∨ x.outLen ≤ inlineRoom x) → staged x.out) ∧
       (∀ d : Fin 2, crosses → stagedUnread s e = [] → x.die = d.val + 1 → x.func ≠ 0 → x.slot < 32768 → 96 < x.outLen →
         let base := 0x300000000 + 0x8000 * x.slot
         (Hbm.poisoned (s.stack (d.val + 1)) base (x.outLen - 96) = false → ∃ m, staged m ∧
           ∀ k, Map.get 0 m k =
             if 96 ≤ k ∧ k < x.outLen then Hbm.byte (s.stack (d.val + 1)) (base + (k - 96)) else Map.get 0 x.out k) ∧
         (Hbm.poisoned (s.stack (d.val + 1)) base (x.outLen - 96) = true →
           exec (.completionStaged e) s = done (endRequest s e St.faultAlarm))) ∧
       ∀ a, crosses → stagedUnread s e = [] → x.func = 0 → x.area = some a → a % 1024 < 175 → 0 < x.outLen →
         let h := s.stack (a / 1024 + 1)
         let base := 0x344000000 + 0x401000 * (a % 1024)
         (Hbm.poisoned h base x.outLen = false → h.inService = true → ∃ m, staged m ∧
           ∀ k, Map.get 0 m k = if k < x.outLen then Hbm.byte h (base + k) else Map.get 0 x.out k) ∧
         ((Hbm.poisoned h base x.outLen = true ∨ h.inService = false) →
           exec (.completionStaged e) s = done (endRequest s e St.faultAlarm))) ∧
     (∀ e : Fin 69632, (s.entry e).state = .staged → (s.entry e).pred = none →
       let x := s.entry e
       let cur := (s.part (x.func - 1)).gen
       let held := x.func ≠ 0 ∧ (s.part (x.func - 1)).incPending ≠ 0
       let carries := x.gen = (if cur = 0xFFFF then 1 else cur + 1)
       let stale := x.func ≠ 0 ∧ x.gen ≠ cur
       (held → ¬carries → exec (.releaseToWriting e) s = done s) ∧
       ((held → carries) → stale → Runs (.releaseToWriting e) s (fun t =>
         t.hostMem = s.hostMem ∧ t.hif.genDrops = (s.hif.genDrops + 1) % 2 ^ 32 ∧
         ((t.entry e).state = .free ∨ (t.entry e).state = .reserved))) ∧
       (¬held → ¬stale → ((s.cq x.func x.cq).error = true ∨ (s.cq x.func x.cq).enable = false) → exec (.releaseToWriting e) s = done s) ∧
       (¬held → ¬stale → (s.cq x.func x.cq).error = false → (s.cq x.func x.cq).enable = true → (x.status = St.ok ∨ x.recResv = none) →
         Runs (.releaseToWriting e) s (fun t =>
           (t.entry e).state = .writing ∧ (t.entry e).passed = true ∧ (t.entry e).comp = completionBytes s x ∧
           (t.entry e).writeSeq = s.sched.writeSeq ∧ t.hostMem = s.hostMem ∧
           ∀ k, k ≠ e.val → (t.entry k).pred = if (s.entry k).pred = some e.val then none else (s.entry k).pred)))) ∧
  (∀ (s : State),
     (∀ (e : Fin 69632) (dma : Dma),
       let x := s.entry e
       let q := s.cq x.func x.cq
       let at_ := q.base.toNat + 32 * q.tail
       let out := (List.range x.outLen).map (fun i => Map.get 0 x.out i)
       let last (c : Bytes) : Bytes := withPhase c q.phase (s.dev.causes != 0)
       x.state = .writing → (q.error = true → exec (.completionTlpIssued e dma) s = done s) ∧
       (oldestWriting s x.func x.cq = some e.val → q.error = false → Runs (.completionTlpIssued e dma) s (fun t =>
         (t.cq x.func x.cq).tail = (if q.tail + 1 = 2 ^ q.log2 then 0 else q.tail + 1) ∧
         (t.cq x.func x.cq).phase = (if q.tail + 1 = 2 ^ q.log2 then !q.phase else q.phase) ∧
         ((t.entry e).state = .free ∨ (t.entry e).state = .reserved) ∧
         (hostGate s true = false → t.hostMem = s.hostMem) ∧
         (hostGate s true = true →
           (dma = .ok → t.hostMem = hostWriteMem (hostWriteMem s.hostMem x.desc.outAddr.toNat out) at_ (last x.comp)) ∧
           (dma ≠ .ok → 0 < x.outLen → t.hostMem = hostWriteMem s.hostMem at_ (last (badPointerComp x.comp))) ∧
           (dma ≠ .ok → x.outLen = 0 → t.hostMem = s.hostMem))))) ∧
     (∀ (f : Fin 2049) (n : Fin 64), (s.cq f n).timerOn = true → (s.cq f n).intEn = true → 0 < (s.cq f n).counted →
       0 < (s.cq f n).modTimer →
       exec (.cqModTimerExpiry f n) s =
         done (raiseVec (s.setCq f n { s.cq f n with counted := 0, timerOn := false }) f (s.cq f n).vector)))

/-! ### Functions (03_payment_functions.md) -/

/-- R80 to R88, R91: the PIN functions at their operand step. A translation gives the PIN of the block in the output format, under the output key,
with random fill where the format has it; a block that holds no PIN is BAD_FORMAT. A verification compares against the offset, or the value, of the
PIN; a generation gives the offset or the value in the result word. -/
def Obligations.PinFunctions : Prop :=
  ∀ (s : State) (e : Fin 69632) (dma : Dma) (b : Bytes) (k0 k1 : Key),
    let fi := (byteAt b 32).toNat
    let fo := (byteAt b 33).toNat
    let pan := slice b 16 16
    let ksn := slice b 34 12
    let type := (byteAt b 46).toNat
    let rnd := drbgGen s (s.entry e).barn 16
    let operands : Prop := (fi ≠ 1 ∨ fo ≠ 1 → (Pay.panDigits pan).isSome = true) ∧ (fi = 1 → fo = 1 → allZero pan = true) ∧
      (fi ≠ 4 → allZero (slice b 8 8) = true)
    let translates (i : Instr) (key : Bytes) : Prop := operands →
      (Pay.pinOf fi k0.alg key (b.take 16) pan = none → Drafts i s s e St.badFormat 0 []) ∧
      ∀ pin, Pay.pinOf fi k0.alg key (b.take 16) pan = some pin →
        (fo = 0 → Drafts i s s e St.ok 0 (Pay.pinBlock 0 k1.alg k1.bytes pan [] pin)) ∧
        (fo ≠ 0 → drbgServes s (s.entry e).barn = true → Drafts i s rnd.2 e St.ok 0 (Pay.pinBlock fo k1.alg k1.bytes pan rnd.1 pin)) ∧
        (fo ≠ 0 → drbgServes s (s.entry e).barn = false → AwaitsRandom i s e)
    (Computing s e 0x1001 b [k0, k1] → translates (.pinTranslate e dma) k0.bytes) ∧
    (Computing s e 0x1002 b [k0, k1] → Pay.ksnOk k0.alg ksn type = true →
      translates (.pinTranslateDukpt e dma) (Pay.working k0.alg k0.bytes ksn .pin type)) ∧
    (∀ (ds pin : List Nat) (tab : BitVec 64), Pay.panDigits pan = some ds → (fi ≠ 4 → allZero (slice b 8 8) = true) →
      Pay.pinOf fi k0.alg k0.bytes (b.take 16) pan = some pin →
      let n := (byteAt b 33).toNat
      let nat := Pay.naturalPin k1.alg k1.bytes (Pay.validation ds) tab n
      (4 ≤ n → n ≤ 12 → namedTable s e b = some tab →
        (Computing s e 0x1003 b [k0, k1] → (assisted s e = true → slice b 41 8 = Pay.validation ds) →
          let os := nibs (slice b 35 6)
          (∀ o ∈ os.take n, o ≤ 9) → (∀ o ∈ os.drop n, o = 0xF) →
          Drafts (.pinVerifyOffset e dma) s s e
            (if n ≤ pin.length ∧ List.zipWith (fun a o => (a + o) % 10) nat os = pin.take n then St.ok else St.pinMismatch) 0 []) ∧
        (Computing s e 0x1005 b [k0, k1] → (assisted s e = true → slice b 35 8 = Pay.validation ds) →
          (n ≤ pin.length → Drafts (.pinOffsetGenerate e dma) s s e St.ok (resultOf (ofNibs
            (List.zipWith (fun p a => (p + 10 - a) % 10) (pin.take n) nat ++ List.replicate (12 - n) 0xF))) []) ∧
          (pin.length < n → Drafts (.pinOffsetGenerate e dma) s s e St.pinMismatch 0 []))) ∧
      (n ≤ 6 →
        let given (o : Nat) : Prop := assisted s e = true → slice b o 6 = ofNibs (Pay.lastN 11 ds.dropLast ++ [n])
        (Computing s e 0x1004 b [k0, k1] → given 36 → (∀ d ∈ nibs (slice b 34 2), d ≤ 9) →
          Drafts (.pinVerifyPvv e dma) s s e
            (if Pay.pvv k1.bytes ds n pin = nibs (slice b 34 2) then St.ok else St.pinMismatch) 0 []) ∧
        (Computing s e 0x1006 b [k0, k1] → given 34 →
          Drafts (.pvvGenerate e dma) s s e St.ok (resultOf (ofNibs (Pay.pvv k1.bytes ds n pin))) [])))

/-- R89 to R96: the MAC and card functions at their operand step. A generation gives the MAC or the value in the result word; a verification ends OK
or with its own mismatch status; ARQC_VERIFY gives the ARPC of the method when the cryptogram is right. -/
def Obligations.MacAndCardFunctions : Prop :=
  ∀ (s : State) (e : Fin 69632) (dma : Dma) (b : Bytes) (k0 : Key),
    let a := (byteAt b 0).toNat
    let method := (byteAt b 1).toNat
    let len := (byteAt b 2).toNat
    let dir := (byteAt b 3).toNat
    let ksn := slice b 4 12
    let type := (byteAt b 16).toNat
    let c := Pay.cipherOf k0.alg
    let n := Cipher.blockLen c
    let shape (msg : Bytes) : Prop := 4 ≤ len ∧ len ≤ 8 ∧ (if a = 6 then method = 0 else method = 1 ∨ method = 2) ∧
      (assisted s e = true → a ≠ 6 → Pay.paddedOk method n msg = true)
    let tag (key msg : Bytes) : Bytes := (Pay.mac a c key (if a = 6 ∨ assisted s e then msg else Pay.pad method n msg)).take len
    let dukptKey := Pay.working k0.alg k0.bytes ksn (if dir = 0 then .macRequest else .macResponse) type
    let dukptOk : Prop := dir ≤ 1 ∧ allZero (slice b 17 3) = true ∧ a = (if Alg.isAes k0.alg then 6 else 3) ∧ Pay.ksnOk k0.alg ksn type = true
    (Computing s e 0x2001 b [k0] → shape (b.drop 4) → dir = 0 →
      Drafts (.macGenerate e dma) s s e St.ok (resultOf (tag k0.bytes (b.drop 4))) []) ∧
    (Computing s e 0x2002 b [k0] → shape (b.drop 12) → dir = 0 → allZero ((slice b 4 8).drop len) = true →
      Drafts (.macVerify e dma) s s e (if tag k0.bytes (b.drop 12) = (slice b 4 8).take len then St.ok else St.macMismatch) 0 []) ∧
    (Computing s e 0x2003 b [k0] → shape (b.drop 20) → dukptOk →
      Drafts (.macGenerateDukpt e dma) s s e St.ok (resultOf (tag dukptKey (b.drop 20))) []) ∧
    (Computing s e 0x2004 b [k0] → shape (b.drop 28) → dukptOk → allZero ((slice b 20 8).drop len) = true →
      Drafts (.macVerifyDukpt e dma) s s e (if tag dukptKey (b.drop 28) = (slice b 20 8).take len then St.ok else St.macMismatch) 0 []) ∧
    (∀ (pan : List Nat), Pay.cardPan b = some pan →
      (∀ data, Computing s e 0x3001 b [k0] → (byteAt b 28).toNat ≤ 8 → 1 ≤ fieldLe b 37 2 → fieldLe b 37 2 ≤ 1024 →
        fieldLe b 37 2 = (b.drop 39).length → arqcFields b = true →
        (if assisted s e then some (b.drop 39) else Pay.arqcData (b.drop 39) (slice b 11 2)) = some data →
        let sk := Pay.sessionKey (Pay.cardKey k0.bytes pan (nibs [byteAt b 10])) (slice b 11 2)
        (Pay.mac3 sk data = slice b 13 8 → Drafts (.arqcVerify e dma) s s e St.ok (resultOf (arpc sk b)) []) ∧
        (Pay.mac3 sk data ≠ slice b 13 8 → Drafts (.arqcVerify e dma) s s e St.cryptogramMismatch 0 [])) ∧
      (let date := nibs (slice b 10 2)
       let code := nibs (slice b 12 2)
       let given := nibs (slice b 14 2)
       let v := Pay.cvv k0.bytes pan date (code.take 3)
       (∀ d ∈ date, d ≤ 9) → (∀ d ∈ code.take 3, d ≤ 9) → code.getD 3 0 = 0xF →
       (Computing s e 0x3003 b [k0] → allZero (slice b 14 2) = true →
         Drafts (.cvvGenerate e dma) s s e St.ok (resultOf (ofNibs (v ++ [0xF]))) []) ∧
       (Computing s e 0x3004 b [k0] → (∀ d ∈ given.take 3, d ≤ 9) → given.getD 3 0 = 0xF →
         Drafts (.cvvVerify e dma) s s e (if v = given.take 3 then St.ok else St.cryptogramMismatch) 0 [])))

/-- R70, R71, R97 to R99: the key functions. An import and a generation make the record of the template and give its handle in the result word, a
generation under a KBPK its block too; an export gives a block of the key, with the time under its flag, never of a key that may not be exported; a
deletion empties the record; a check value is 3 bytes of the TDES, 5 of the AES key. (The key version of the blocks that the generations make and the
mode of use of the B1 block are the model's choice, log 104.) -/
def Obligations.KeyFunctions : Prop :=
  ∀ (s : State) (e : Fin 69632) (dma : Dma) (b : Bytes) (k0 k1 : Key),
    let x := s.entry e
    let p := x.func - 1
    let kb : KeyBlock.Kbpk := { aes := Alg.isAes k0.alg, key := k0.bytes }
    let gives (i : Instr) (u : State) (spec : KeyBlock.Spec) (key : Bytes) : Prop :=
      let r := drbgGen u x.barn (KeyBlock.padLen kb key)
      Drafts i s r.2 e St.ok 0 (KeyBlock.make kb spec key r.1)
    (Computing s e 0x4006 b [k0] → Drafts (.keyCheckValue e dma) s s e St.ok
      (resultOf (if Alg.isAes k0.alg then (Cipher.cmac .aes k0.bytes (zeros 16)).take 5 else (Cipher.enc .tdes k0.bytes (zeros 8)).take 3)) []) ∧
    (Computing s e 0x4004 b [k0] →
      Drafts (.keyDelete e dma) s (deleteKey s p (handleIdx (x.desc.handle 0))) e St.ok 0 []) ∧
    (x.phase = .running → x.state = .reserved → x.desc.fn = 0x4002 → x.input = some b → x.held = [(0, k0)] → linkWaits s x.die = false →
      (readUnit s (.descriptor e)).1 = .good → requestUnread s e = [] →
      (recAttrs (recBytes s p (handleIdx (x.desc.handle 1)))).exp = chr 'N' → Runs (.keyblockExport e dma) s (fun t =>
        (t.entry e).phase = .drafted ∧ (t.entry e).status ≠ St.ok ∧ (t.entry e).outLen = 0)) ∧
    (Computing s e 0x4002 b [k0, k1] → (byteAt b 3 = chr 'E' ∨ byteAt b 3 = chr 'N' ∨ byteAt b 3 = chr 'S') → isAscii (slice b 1 2) = true →
      let block (opts : Bytes) (count : Nat) : KeyBlock.Spec := {
        usage := k1.usage
        alg := k1.alg
        mode := k1.mode
        keyVer := slice b 1 2
        exp := byteAt b 3
        opts := opts
        count := count }
      (byteAt b 0 = 0 → drbgServes s x.barn = true → gives (.keyblockExport e dma) s (block [] 0) k1.bytes) ∧
      (∀ v, byteAt b 0 = 1 → x.snap = some (v, true) → drbgServes s x.barn = true →
        gives (.keyblockExport e dma) s (block (KeyBlock.tsBlock kb.blk v.toNat) 2) k1.bytes) ∧
      (∀ v, byteAt b 0 = 1 → x.snap = some (v, false) → Drafts (.keyblockExport e dma) s s e St.timeNotValid 0 []) ∧
      (byteAt b 0 = 0 → drbgServes s x.barn = false → AwaitsRandom (.keyblockExport e dma) s e)) ∧
    (Computing s e 0x4005 b [k0, k1] → k0.exp ≠ chr 'N' → (Alg.isAes k0.alg = false → allZero (slice b 10 2) = true) →
      let w : KeyBlock.Kbpk := { aes := Alg.isAes k1.alg, key := k1.bytes }
      let key := if Alg.isAes k0.alg then Pay.aesInitial k0.bytes b else Pay.tdesInitial k0.bytes b
      let r := drbgGen s x.barn (KeyBlock.padLen w key)
      drbgServes s x.barn = true → Drafts (.dukptInitialKeyExport e dma) s r.2 e St.ok 0 (KeyBlock.make w {
        usage := use2 "B1"
        alg := k0.alg
        mode := chr 'X'
        keyVer := ascii "00"
        exp := k0.exp } key r.1)) ∧
    (let spec := templateSpec (b.take 32)
     let r := drbgGen s x.barn (Alg.symLen spec.alg)
     let key := if Alg.isTdes spec.alg then Pay.parity r.1 else r.1
     x.recResv.isSome = true → drbgServes s x.barn = true →
     CanCreate s .tu p spec key →
     (Computing s e 0x4003 b [] → x.desc.handle 0 = 0 → ∃ h u, createRecord r.2 .tu p spec key = (St.ok, h, u) ∧
       Drafts (.keyGenerate e dma) s u e St.ok h []) ∧
     (let q := drbgGen r.2 x.barn (KeyBlock.padLen kb key)
      Computing s e 0x4003 b [k0] → x.desc.handle 0 ≠ 0 → spec.exp ≠ chr 'N' → ∃ h u, createRecord q.2 .tu p spec key = (St.ok, h, u) ∧
        Drafts (.keyGenerate e dma) s u e St.ok h (KeyBlock.make kb {
          usage := spec.usage
          alg := spec.alg
          mode := spec.mode
          keyVer := ascii "00"
          exp := spec.exp } key q.1))) ∧
    (Computing s e 0x4003 b [k0] → x.desc.handle 0 ≠ 0 → (templateSpec (b.take 32)).exp = chr 'N' →
      Drafts (.keyGenerate e dma) s s e St.keyUsage 0 []) ∧
    (let blk := slice b 34 (fieldLe b 32 2)
     let parsed := slice b (34 + fieldLe b 32 2) 16
     ∀ f a key, Computing s e 0x4001 b [k0] → 16 ≤ fieldLe b 32 2 → fieldLe b 32 2 ≤ 16384 →
       b.length = 34 + fieldLe b 32 2 + (if assisted s e then 16 else 0) →
       (assisted s e = true → byteAt parsed 9 = 0 ∧ allZero (slice parsed 12 4) = true ∧ parsed = KeyBlock.parsedHeader f) →
       x.recResv.isSome = true → blockOperand k0 blk = (St.ok, some f) → blockKey k0 f = (St.ok, some (a, key)) →
       let spec := { templateSpec (b.take 32) with alg := a, usage := f.usage, mode := f.mode, exp := f.exp }
       indicesFree s e p spec.idx (recordsFor key.length) = true → CanCreate s .tu p spec key →
       ∃ h u v, reserveIndices s e p spec.idx (recordsFor key.length) = some v ∧ createRecord v .tu p spec key = (St.ok, h, u) ∧
         Drafts (.keyblockImport e dma) s u e St.ok h [])

/-- R100 to R102, R206: the asymmetric and lattice functions on operands in their ranges. A signature goes to the output, a verification ends OK or
SIGNATURE_INVALID, an agreement or an encapsulation makes a record of the derived key and gives its handle. -/
def Obligations.AsymmetricFunctions : Prop :=
  ∀ (s : State) (e : Fin 69632) (dma : Dma) (b : Bytes) (k0 : Key),
    let x := s.entry e
    let p := x.func - 1
    let spec := templateSpec (b.take 32)
    let parts := keyParts k0.alg k0.bytes
    let verdict (ok : Bool) : Status := if ok then St.ok else St.signatureInvalid
    (∀ (h : Hash.Alg) (d : Bytes), signHash (byteAt b 1) = some h → (byteAt b 2).toNat ≤ 64 → byteAt b 3 = 0 →
      (Computing s e 0x5001 b [k0] → digestOf s e h (b.drop 4) = some d →
        (∀ sig, byteAt b 0 = 1 → rsaSignDigest k0.bytes h false d [] = some sig → Drafts (.rsaSign e dma) s s e St.ok 0 sig) ∧
        (let r := drbgGen s x.barn (byteAt b 2).toNat
         ∀ sig, byteAt b 0 = 2 → drbgServes s x.barn = true → rsaSignDigest k0.bytes h true d r.1 = some sig →
           Drafts (.rsaSign e dma) s r.2 e St.ok 0 sig)) ∧
      (let q := fieldLe b 4 2
       let n := ofBe (slice b 6 (q - 4))
       let y := ofBe (slice b (6 + (q - 4)) 4)
       let sl := fieldLe b (6 + q) 2
       let sig := ofBe (slice b (8 + q) sl)
       Computing s e 0x5002 b [] → (byteAt b 0 = 1 ∨ byteAt b 0 = 2) → 36 ≤ q → q - 4 ≤ 2048 → 8 + q + sl ≤ b.length → sl = q - 4 →
       digestOf s e h (b.drop (8 + q + sl)) = some d → rsaPublicStatus n y sig = St.ok →
       Drafts (.rsaVerify e dma) s s e
         (verdict (rsaOpens n y (q - 4) sig h (byteAt b 0 == 2) d [(byteAt b 2).toNat])) 0 [])) ∧
    (∀ (h : Hash.Alg) (d : Bytes) (c : Ec.Curve), Computing s e 0x5003 b [k0] → allZero (slice b 1 3) = true →
      signHash (byteAt b 0) = some h → digestOf s e h (b.drop 4) = some d → curveOf k0.alg = some c → drbgServes s x.barn = true →
      let r := ecdsaSign c (ofLe (partAt parts 0)) d 4 s x.barn
      Drafts (.ecdsaSign e dma) s r.2 e St.ok 0 (be c.len r.1.1 ++ be c.len r.1.2)) ∧
    (∀ (h : Hash.Alg) (d : Bytes) (c : Ec.Curve) (q : Nat × Nat), Computing s e 0x5004 b [] → curveOf (byteAt b 0) = some c →
      fieldLe b 2 2 = 2 * c.len → 4 + (1 + 2 * c.len) + 2 * c.len ≤ b.length → signHash (byteAt b 1) = some h →
      digestOf s e h (b.drop (4 + (1 + 2 * c.len) + 2 * c.len)) = some d → Ec.decode c (slice b 4 (1 + 2 * c.len)) = some q →
      let sig := slice b (4 + (1 + 2 * c.len)) (2 * c.len)
      Drafts (.ecdsaVerify e dma) s s e (verdict (Ec.verify c (some q) (ofBe (sig.take c.len)) (ofBe (sig.drop c.len)) d)) 0 []) ∧
    (Computing s e 0x5005 b [k0] →
      let ps := keyParts Alg.ed25519 k0.bytes
      Drafts (.ed25519Sign e dma) s s e St.ok 0 (Ed.sign (ofLe (partAt ps 0)) (partAt ps 1) (partAt ps 2) b)) ∧
    (Computing s e 0x5006 b [] → Drafts (.ed25519Verify e dma) s s e (edStatus (b.take 32) (slice b 32 64) (b.drop 96)) 0 []) ∧
    (∀ (c : Ec.Curve) (q : Nat × Nat) (z y : Nat), Computing s e 0x5007 b [k0] → curveOf k0.alg = some c →
      fieldLe b 33 2 ≤ 256 → b.length = 35 + fieldLe b 33 2 + 1 + 2 * c.len → byteAt b 32 = 1 → x.recResv.isSome = true →
      Ec.decode c (b.drop (35 + fieldLe b 33 2)) = some q → Ec.smul c (ofLe (partAt parts 0)) (some q) = some (z, y) →
      let key := Hash.oneStep .sha256 (be c.len z) (slice b 35 (fieldLe b 33 2)) (Alg.symLen spec.alg)
      CanCreate s .bne p spec key → ∃ h u, createRecord s .bne p spec key = (St.ok, h, u) ∧ Drafts (.ecdhDerive e dma) s u e St.ok h []) ∧
    (∀ big : Bool, x.recResv.isSome = true →
      (Computing s e 0x5008 b [] → byteAt b 32 = (if big then Alg.mlkem1024 else Alg.mlkem768) →
        (b.drop 33).length = (if big then 1568 else 1184) → MlKem.ekOk (MlKem.par big) (b.drop 33) = true → drbgServes s x.barn = true →
        let r := drbgGen s x.barn 32
        let m := MlKem.encaps (MlKem.par big) (b.drop 33) r.1
        CanCreate s .bne p spec m.1 → ∃ h u, createRecord r.2 .bne p spec m.1 = (St.ok, h, u) ∧ Drafts (.mlkemEncaps e dma) s u e St.ok h m.2) ∧
      (Computing s e 0x5009 b [k0] → (k0.alg = Alg.mlkem1024 ↔ big = true) → b.length = 32 + (if big then 1568 else 1088) →
        let key := MlKem.decaps (MlKem.par big) k0.bytes (b.drop 32)
        CanCreate s .bne p spec key → ∃ h u, createRecord s .bne p spec key = (St.ok, h, u) ∧
          Drafts (.mlkemDecaps e dma) s u e St.ok h [])) ∧
    (let c := (byteAt b 0).toNat
     let mu := if assisted s e then b.drop (1 + c) else MlDsa.mu (MlDsa.trOf (partAt parts 1)) (slice b 1 c) (b.drop (1 + c))
     Computing s e 0x500A b [k0] → (assisted s e = true → c = 0 ∧ (b.drop (1 + c)).length = 64) → 1 + c ≤ b.length →
     drbgServes s x.barn = true →
     let r := drbgGen s x.barn 32
     Drafts (.mldsaSign e dma) s r.2 e St.ok 0 (MlDsa.sign (MlDsa.par (k0.alg == Alg.mldsa87)) (partAt parts 0) mu r.1)) ∧
    (∀ big : Bool, byteAt b 0 = (if big then Alg.mldsa87 else Alg.mldsa65) →
      let c := (byteAt b 1).toNat
      let n := if big then 2592 else 1952
      let sl := fieldLe b (2 + c + n) 2
      let pk := slice b (2 + c) n
      let msg := b.drop (4 + c + n + sl)
      let mu := if assisted s e then msg else MlDsa.mu (MlDsa.trOf pk) (slice b 2 c) msg
      Computing s e 0x500B b [] → (assisted s e = true → c = 0 ∧ msg.length = 64) → 4 + c + n + sl ≤ b.length →
      Drafts (.mldsaVerify e dma) s s e (verdict (sl == (if big then 4627 else 3309) &&
        MlDsa.verify (MlDsa.par big) pk (slice b (4 + c + n) sl) mu)) 0 []) ∧
    (Computing s e 0x500C b [] → x.recResv.isSome = true → drbgServes s x.barn = true →
      let g := generateKey s x.barn spec.alg (fieldLe b 32 2) (fieldLe b 34 4)
      CanCreate s .bne p spec g.1 → ∃ h u, createRecord g.2.2 .bne p spec g.1 = (St.ok, h, u) ∧
        Drafts (.keypairGenerate e dma) s u e St.ok h g.2.1)

/-- R103, R104, R189, R190: a bulk function within its limits and capacity writes its whole output to host memory, an encryption with the tag and a
drawn IV behind it; a decryption whose tag differs ends TAG_FAIL after writing. The result word counts the bytes written. R189: a message that breaks
a limit or the capacity, and one of a stale generation, writes nothing (a required capacity is reported modulo 2^32, the model's choice, log 84). R69, R105: RANDOM gives as many bytes of the barn's DRBG as asked, and waits while that does not serve; HASH gives the digest of the message,
HMAC_GENERATE the leftmost bytes of the HMAC, HMAC_VERIFY its verdict. -/
def Obligations.BulkRandomAndHashFunctions : Prop :=
  (∀ (s : State) (e : Fin 69632) (dma : Dma) (b : Bytes) (k0 : Key) (i : Instr) (fn j : Nat),
     (i, fn) ∈ [(Instr.gcmEncrypt e dma, 0x6001), (.gcmDecrypt e dma, 0x6002), (.ccmEncrypt e dma, 0x6003), (.ccmDecrypt e dma, 0x6004),
       (.xtsEncrypt e dma, 0x6005), (.xtsDecrypt e dma, 0x6006)] →
     Computing s e fn b [k0] →
     (assisted s e = true → bulkMode fn = .ccm → b.length = 72 + (ccmHost b).length ∧ b.drop 72 = ccmHost b) →
     bulkLengths fn b = true → bulkFields fn b = true → bulkPointers b = true → hostGate s false = true → hostGate s true = true →
     baeOf s e = some j → (s.bae j).owner = .request → (s.bae j).entry = e → (s.bae j).selftest = false →
     (∀ m ∈ (s.bae j).susp, m.entry ≠ e) →
     let x := s.entry e
     let head := { parseBulk e fn k0.bytes b with dst := x.desc.outAddr }
     let m := if head.drawn then { head with iv := (drbgGen s x.barn 12).1 } else head
     let d := bulkData (bulkHeader m (s.hostRead m.aadAddr.toNat m.aadLen)) (s.hostRead m.src.toNat m.len)
     let out := if isBulkDec fn then d.1 else d.1 ++ (bulkTag d.2).take m.tagLen ++ (if head.drawn then m.iv else [])
     ((head.drawn = true → drbgServes s x.barn = true) → bulkLimits head = true → bulkOut head ≤ x.desc.outCap → x.gen = (s.part (x.func - 1)).gen → Runs i s (fun t =>
       t.hostMem = hostWriteMem s.hostMem x.desc.outAddr.toNat out ∧ (t.entry e).phase = .drafted ∧
       (t.entry e).result = BitVec.ofNat 64 out.length ∧
       (t.entry e).status = if isBulkDec fn = true ∧ (bulkTag d.2).take m.tagLen ≠ m.tag.take m.tagLen then St.tagFail else St.ok)) ∧
     (bulkLimits head = false → Runs i s (fun t =>
       t.hostMem = s.hostMem ∧ (t.entry e).phase = .drafted ∧ (t.entry e).status = St.badLength ∧ (t.entry e).result = 0)) ∧
     (bulkLimits head = true → x.desc.outCap < bulkOut head → Runs i s (fun t =>
       t.hostMem = s.hostMem ∧ (t.entry e).phase = .drafted ∧ (t.entry e).status = St.badLength ∧
       (t.entry e).result = BitVec.ofNat 64 (bulkOut head % 2 ^ 32))) ∧
     (bulkLimits head = true → bulkOut head ≤ x.desc.outCap → x.gen ≠ (s.part (x.func - 1)).gen → Runs i s (fun t =>
       t.hostMem = s.hostMem ∧ (t.entry e).phase = .drafted ∧ (t.entry e).status = St.aborted ∧ (t.entry e).result = 0)) ∧
     (bulkLimits head = true → bulkOut head ≤ x.desc.outCap → x.gen = (s.part (x.func - 1)).gen → head.drawn = true →
       drbgServes s x.barn = false → Runs i s (fun t =>
         t.hostMem = s.hostMem ∧ (t.entry e).phase = .running ∧ (t.entry e).rngWait = true))) ∧
  (∀ (s : State) (e : Fin 69632) (dma : Dma) (b : Bytes) (k0 : Key) (h : Hash.Alg),
     let n := fieldLe b 0 2
     let l := (byteAt b 1).toNat
     (Computing s e 0x7001 b [] → 1 ≤ n → n ≤ 4096 →
       (drbgServes s (s.entry e).barn = true →
         Drafts (.random e dma) s (drbgGen s (s.entry e).barn n).2 e St.ok 0 (drbgGen s (s.entry e).barn n).1) ∧
       (drbgServes s (s.entry e).barn = false → AwaitsRandom (.random e dma) s e)) ∧
     (Computing s e 0x7001 b [] → (n = 0 ∨ 4096 < n) → Drafts (.random e dma) s s e St.badLength 0 []) ∧
     (Computing s e 0x7002 b [] → (assisted s e = false ∨ Hash.isSha2 h = false) → Hash.ofByte (byteAt b 0).toNat = some h →
       allZero (slice b 1 3) = true → Drafts (.hash e dma) s s e St.ok 0 (Hash.hash h (b.drop 4))) ∧
     (let n := Hash.stateBytes h
      Computing s e 0x7002 b [] → assisted s e = true → Hash.isSha2 h = true → Hash.ofByte (byteAt b 0).toNat = some h →
       allZero (slice b 1 3) = true → fieldLe b 4 8 % Hash.blockBytes h = 0 → allZero (slice b (12 + n) (64 - n)) = true →
       Drafts (.hash e dma) s s e St.ok 0 (Hash.finishMd h ((chunks (if Hash.blockBytes h = 64 then 4 else 8) (slice b 12 n)).map ofBe)
         (fieldLe b 4 8) (b.drop 76))) ∧
     (∀ verify : Bool, Computing s e (if verify then 0x7004 else 0x7003) b [k0] → (byteAt b 0).toNat ≤ 5 →
       Hash.ofByte (byteAt b 0).toNat = some h → allZero (slice b 2 2) = true → 4 ≤ l → l ≤ Hash.digestLen h →
       (verify = false → Drafts (.hmacGenerate e dma) s s e St.ok 0 ((Hash.hmac h k0.bytes (b.drop 4)).take l)) ∧
       (verify = true → allZero ((slice b 4 64).drop l) = true → Drafts (.hmacVerify e dma) s s e
         (if (Hash.hmac h k0.bytes (b.drop 68)).take l = (slice b 4 64).take l then St.ok else St.macMismatch) 0 [])))

/-! ### Administration functions (09_granary.md, 12_partitions_hampers.md, 13_wardens_yoke.md, 15_life_cycle.md, 17_boot_attestation.md, 18_tally.md) -/

/-- R58, R78, R88, R118, R230, R276 to R281, R381: the requests that configure, activate, freeze and reset partitions and set their split, tables and
policies. R288: a freeze or a reset waits for those of its partition that were accepted before it. A run found for a partition's flows or records
overlaps none in use. (That a partition which a reset left EMPTY and emigrated can be released is the model's choice, log 110.) Without a tally entry a request ends AUDIT_FULL, without its quorum
QUORUM_REQUIRED, and neither changes the partition. -/
def Obligations.PartitionAdministration : Prop :=
  (∀ (used : List (Nat × Nat)) (total n c : Nat), findRun used total n = some c → 0 < n →
    c + n ≤ total ∧ ∀ x ∈ used, x.2 = 0 ∨ c + n ≤ x.1 ∨ x.1 + x.2 ≤ c) ∧
  ∀ (s v w : State) (e : Fin 69632) (dma : Dma) (b : Bytes),
    let p := fieldLe b 0 2
    let x := w.part p
    let act : Prop := Administering s e 0xE001 b ∧ reserveAdmin s e b = some v ∧ byteAt b 3 = 0 ∧ allZero (slice b 22 2) = true ∧
      Quorate v e b [.dev 0] 32 w
    (act → byteAt b 2 = 1 → p < 2048 → x.state = .empty → x.configured = false → configFits w b = true → (storeConfig w p b).isSome = true →
      ∃ u, storeConfig w p b = some u ∧ Posts (.partitionConfigureSet e dma) s u e St.ok 0 [] ∧ (u.part p).configured = true ∧ (u.part p).quota = fieldLe b 4 4 ∧
      (u.part p).flowLimit = fieldLe b 8 2 ∧ (u.part p).slotQuota = fieldLe b 10 2 ∧ (u.part p).n0 = fieldLe b 12 4 ∧
      (u.part p).n1 = fieldLe b 16 4 ∧ (u.part p).bucketQuota = fieldLe b 20 2 ∧ ∀ k, k ≠ p → u.part k = w.part k) ∧
    (act → byteAt b 2 = 2 → p < 2048 → Posts (.partitionConfigurePurgeSlots e dma) s ((slotsOf w p).foldl eraseSlot w) e St.ok 0 []) ∧
    (let d := BitVec.ofNat 64 (fieldLe b 24 8)
     act → byteAt b 2 = 3 → w.seen.any (fun y => y.1 == d) = true →
       Posts (.partitionConfigureRemoveSeen e dma) s { w with seen := w.seen.filter (fun y => y.1 != d) } e St.ok 0 []) ∧
    (act → byteAt b 2 = 4 → p < 2048 → x.state ≠ .empty → 1 ≤ fieldLe b 4 4 → fieldLe b 4 4 ≤ 65536 →
      Posts (.partitionConfigureChangeQuota e dma) s (w.setPart p { x with quota := fieldLe b 4 4 }) e St.ok 0 []) ∧
    (Administering s e 0xE004 b → reserveAdmin s e b = some v → Quorate v e b [.dev 0] 2 w → p < 2048 → x.state = .empty →
      x.configured = true → x.emigrated = false → Posts (.partitionActivate e dma) s (makeActive w p) e St.ok 0 [] ∧
        (makeActive w p).part p = { x with gen := if x.gen = 0 then 1 else x.gen, state := .active }) ∧
    (let q := movePart v p .quiescing
     let a := abortForFreeze q p
     Administering s e 0xE003 b → reserveAdmin s e b = some v → p < 2048 →
      (moveWaits v e p = true → ∀ (i : Instr) (m : Byte), (i, m) ∈ [(Instr.partitionFreezeDrain e dma, 0), (.partitionFreezeAbort e dma, 1),
        (.partitionFreezeThaw e dma, 2)] → byteAt b 2 = m → exec i s = done v) ∧
      (moveWaits v e p = false →
      (byteAt b 2 = 0 → (v.part p).state = .active → inFlight v (p + 1) ≠ 0 → Posts (.partitionFreezeDrain e dma) s q e St.ok 2 []) ∧
      (byteAt b 2 = 0 → (v.part p).state = .active → inFlight v (p + 1) = 0 →
        Posts (.partitionFreezeDrain e dma) s (movePart q p .frozen) e St.ok 3 []) ∧
      (byteAt b 2 = 1 → (v.part p).state = .active →
        Posts (.partitionFreezeAbort e dma) s (if inFlight a (p + 1) = 0 then movePart a p .frozen else a) e St.ok
          (if inFlight a (p + 1) = 0 then 3 else 2) [] ∧
        ∀ k, (v.entry k).func = p + 1 → (v.entry k).accepted = true → (v.entry k).state = .reserved →
          (a.entry k).state = .staged ∧ (a.entry k).status =
            if (v.entry k).phase = .ready ∨ (v.entry k).phase = .waitSlot then St.partitionFrozen else St.aborted) ∧
      (byteAt b 2 = 2 → (v.part p).state = .frozen → (v.part p).emigrated = false →
        Posts (.partitionFreezeThaw e dma) s (makeActive v p) e St.ok 1 []))) ∧
    (let y := v.part p
     let waits (u : State) : State := tryIncrement (u.modPart p (fun z => { z with resetEntry := some e.val })) p
     Administering s e 0xE002 b → reserveAdmin s e b = some v → p < 2048 → s.parts.any (fun z => z.2.resetEntry == some e.val) = false →
      (moveWaits v e p = true → ∀ (i : Instr) (m : Byte), (i, m) ∈ [(Instr.partitionResetRestart e dma, 0), (.partitionResetRelease e dma, 1)] →
        byteAt b 2 = m → exec i s = done v) ∧
      (moveWaits v e p = false →
      (byteAt b 2 = 0 → y.emigrated = false → (y.state = .active ∨ y.state = .quiescing ∨ y.state = .frozen) →
        exec (.partitionResetRestart e dma) s = done (waits (beginReset v p))) ∧
      (byteAt b 2 = 1 → (y.state ≠ .empty ∨ y.emigrated = true) →
        ((y.emigrated = true ∧ (v.entry e).preSeal.contains p = false) ∨ slotsOf v p = []) →
        exec (.partitionResetRelease e dma) s = done (waits ((if y.state = .resetting
          then v.modPart p (fun z => { z with incPending := z.incPending + 1 }) else beginReset v p).modPart p
            (fun z => { z with releasing := true })))))) ∧
    (Administering s e 0xE010 b → reserveAdmin s e b = some v → Quorate v e b [.part 1 p] 3 w → (byteAt b 2).getLsbD 0 = false →
      Posts (.fnSplitSet e dma) s (w.setPart p { x with fnSplit := byteAt b 2 }) e St.ok 0 []) ∧
    (Administering s e 0xE011 b → reserveAdmin s e b = some v → Quorate v e b [.part 1 p] 12 w → (byteAt b 2).toNat < 8 →
      let i := 8 * p + (byteAt b 2).toNat
      (byteAt b 3 = 1 → Posts (.dectableInstall e dma) s { w with decTables := Map.set none w.decTables i none } e St.ok 0 []) ∧
      (byteAt b 3 = 0 → tableOk (slice b 4 8) = true → Posts (.dectableInstall e dma) s
        { w with decTables := Map.set none w.decTables i (some (BitVec.ofNat 64 (ofLe (slice b 4 8)))) } e St.ok 0 []) ∧
      (byteAt b 3 = 0 → tableOk (slice b 4 8) = false → Posts (.dectableInstall e dma) s w e St.formatRule 0 [])) ∧
    (Administering s e 0xE012 b → reserveAdmin s e b = some v → Quorate v e b [.part 1 p] 16 w → (byteAt b 2).toNat < 16 → byteAt b 3 = 0 →
      2 ^ 16 ≤ fieldLe b 4 4 → fieldLe b 4 4 ≤ 32767 * 2 ^ 16 → fieldLe b 12 4 ≤ fieldLe b 4 4 →
      Posts (.velocityPolicySet e dma) s { w with velPols := Map.set {} w.velPols (16 * p + (byteAt b 2).toNat) {
        on := true
        cap := fieldLe b 4 4
        rate := fieldLe b 8 4
        init := fieldLe b 12 4 } } e St.ok 0 []) ∧
    (∀ (i : Instr) (fn body : Nat) (cs : List QClass), (i, fn, body, cs) ∈ [(Instr.partitionActivate e dma, 0xE004, 2, [QClass.dev 0]),
        (.fnSplitSet e dma, 0xE010, 3, [.part 1 p]), (.dectableInstall e dma, 0xE011, 12, [.part 1 p]),
        (.velocityPolicySet e dma, 0xE012, 16, [.part 1 p])] → Administering s e fn b →
      (reserveAdmin s e b = none → Posts i s s e St.auditFull 0 []) ∧
      (reserveAdmin s e b = some v → (v.entry e).polPhase = .idle →
        quorumRun v e (ownRoster v) cs (Hash.sha384 (b.take body)) (b.drop body) = (false, w) → Posts i s w e St.quorumRequired 0 []))

/-- R282 to R287, R347: a seal writes the hamper to host memory, raises the sequence, and leaves the partition FROZEN and emigrated; a write that fails
leaves it emigrated with BAD_POINTER, one that the HOSTDMA gate denies with FAULT_ALARM. A restore of a hamper that passes its checks leaves the partition FROZEN with the next sequence. -/
def Obligations.HamperSealAndRestore : Prop :=
  ∀ (s v w : State) (e : Fin 69632) (dma image : Dma) (b dtk : Bytes),
    let p := fieldLe b 0 2
    let addr := fieldLe b 8 8
    reserveAdmin s e b = some v → p < 2048 →
    (∀ key, let x := v.part p
      let r := hamperRecord v e x.dpid.toNat x.hseq
      Administering s e 0xE005 b → 60 ≤ fieldLe b 4 4 → fieldLe b 4 4 ≤ 604800 → x.hseq < 2 ^ 32 - 1 → x.state = .frozen →
      x.emigrated = false → inFlight r (p + 1) = 0 → transportKey r (fieldLe b 2 2) = some dtk → Quorate r e b [.part 2 p] 24 w →
      w.time.valid = true → seenRoom w x.dpid = true → hamperLen r p ≤ fieldLe b 16 8 → addr ≠ 0 → addr + hamperLen r p ≤ 2 ^ 64 →
      w.boot.aliasKey = some key → drbgServes w 8 = true →
      let bts := (sealHamper ((partBuckets w p).foldl refillBucket w) p x.hseq (fieldLe b 4 4) key dtk).1
      (hostGate s true = false → Runs (.hamperSeal e dma image) s (fun t =>
        t.hostMem = s.hostMem ∧ (t.part p).emigrated = true ∧ (t.part p).hseq = x.hseq + 1 ∧ (t.entry e).phase = .posted ∧
        (t.entry e).status = St.faultAlarm)) ∧
      (image = .ok → hostGate s true = true → Runs (.hamperSeal e dma image) s (fun t =>
        t.hostMem = hostWriteMem s.hostMem addr bts ∧ (t.part p).state = .frozen ∧ (t.part p).emigrated = true ∧
        (t.part p).hseq = x.hseq + 1 ∧ (t.entry e).phase = .posted ∧ (t.entry e).status = St.ok ∧
        (t.entry e).result = BitVec.ofNat 64 bts.length)) ∧
      (image ≠ .ok → hostGate s true = true → Runs (.hamperSeal e dma image) s (fun t =>
        (t.part p).emigrated = true ∧ (t.part p).hseq = x.hseq + 1 ∧ (t.entry e).phase = .posted ∧ (t.entry e).status = St.badPointer))) ∧
    (let raw := v.hostRead addr (fieldLe b 16 8)
     let seq := fieldLe raw 16 4
     let r := hamperRecord (hamperRecord v e 0 0) e (fieldLe raw 8 8) seq
     ∀ h bodies, Administering s e 0xE006 b → image = .ok → hostGate s false = true → allZero (slice b 4 4) = true → (v.part p).state = .empty →
      (v.part p).configured = true → (v.part p).emigrated = false → transportKey v (fieldLe b 2 2) = some dtk → addr ≠ 0 → addr + fieldLe b 16 8 ≤ 2 ^ 64 →
      parseHamper raw = some h → hamperSigned raw h = true → v.time.valid = true → v.time.ntime ≤ fieldLe raw 40 8 →
      (∀ n, seenOf v (BitVec.ofNat 64 (fieldLe raw 8 8)) = some n → n < seq) →
      openSections (hamperKey dtk (fieldLe raw 8 8) seq (slice raw 64 16)) h.secs = some bodies →
      QuorateOf (cargoRoster (cargoOf bodies)) r e b [.part 2 p] 24 24 w → cargoFits w p (cargoOf bodies) = true →
      seenRoom w (v.part p).dpid = true →
      PostsOk (.hamperRestore e dma image) s e (fun t =>
        (t.part p).state = .frozen ∧ (t.part p).hseq = min (2 ^ 32 - 1) (seq + 1) ∧
        (t.part p).fnSplit = byteAt (bodies.getD 0 []) 28 ∧ (t.part p).configured = true ∧ (t.part p).dpid = (v.part p).dpid ∧
        ∀ k, k ≠ p → t.part k = s.part k))

/-- R219, R221 to R227, R229: SLOT_MANAGE creates a key in an empty slot, for which it waits while no barn's DRBG serves, imports one, publishes it as
a record, changes its attributes and erases it; RESEAL_FORWARD declares the measurements of a manifest, or withdraws the pending one (that it writes
nothing where a slot takes no further copy is the model's choice, log 106). -/
def Obligations.SlotAdministration : Prop :=
  ∀ (s v w : State) (e : Fin 69632) (dma : Dma) (b : Bytes),
    let r := slotReq b
    let a := templateSpec (attrTemplate r)
    let x := w.slotAt r.slot
    let act : Prop := Administering s e 0xE013 b ∧ reserveAdmin s e b = some v ∧ (s.entry e).desc.handle 0 = 0 ∧ 1 ≤ r.owner ∧ r.owner ≤ 3 ∧
      Quorate v e b [slotClass r] 48 w ∧ slotReqOk r b = true
    let forward (u : State) : Bool := u.grn.resealPending && (r.sel &&& u.grn.changed) != 0
    let writable (u : State) : Prop := ((u.slotAt r.slot).high ≠ 0xFFFFFFFF) ∧ (forward u = true → (u.slotAt r.slot).high ≠ 0xFFFFFFFE) ∧
      (r.limit = 0 ∨ ∃ j < 512, (u.useCtr j).on = false)
    (act → r.op = 1 → attrsOk w r = true → slotFree w r = true → w.grn.present = true → (createBarn w).isSome = true → writable w →
      PostsOk (.slotManageCreate e dma) s e (fun t => SlotFilled w t r a (forward w))) ∧
    (act → r.op = 1 → attrsOk w r = true → slotFree w r = true → w.grn.present = true → createBarn w = none →
      Runs (.slotManageCreate e dma) s (fun t => t = { w with entries := t.entries, pins := t.pins } ∧ (t.entry e).rngWait = true)) ∧
    (let blk := slice b 48 (statedLen (b.drop 48))
     let h := (s.entry e).desc.handle 0
     let k := (slotKbpk v e r.part).2.1
     let q := (slotKbpk v e r.part).2.2
     let u := (debitKbpk w r.part h).2
     ∀ f alg key, Administering s e 0xE013 b → reserveAdmin s e b = some v → r.op = 2 → keyUnread v r.part h = [] →
      (slotKbpk v e r.part).1 = St.ok → 1 ≤ r.owner → r.owner ≤ 3 → Quorate q e b [slotClass r] (48 + statedLen (b.drop 48)) w →
      (debitKbpk w r.part h).1 = St.ok → slotReqOk r b = true → importTemplateOk u r.part (attrTemplate r) = true → slotFree u r = true →
      u.grn.present = true → blockOperand k blk = (St.ok, some f) → slotBlockKey k r.owner f = (St.ok, some (alg, key)) →
      ownerAlg r.owner alg = true → writable u →
      PostsOk (.slotManageImport e dma) s e (fun t =>
        SlotFilled u t r { a with alg := alg, usage := f.usage, mode := f.mode, exp := f.exp } (forward u))) ∧
    (let k := checkSlot w r.slot
     let idx := fieldLe r.template 0 4
     let key := recordForm x.alg (slotKey w r.slot)
     let again := x.pub && x.pubIdx == idx && fieldLe (recBytes w x.recPart idx) 14 2 == r.slot
     act → r.op = 3 → ownsSlot w r = true → w.grn.present = true → w.grn.recKey.isSome = true → slotServes w r.slot = St.ok →
      (k.slotAt r.slot).damaged = false → slotAlg x.alg = true → idx < 2 ^ 29 →
      (again = true ∨ (indicesFree k e x.recPart idx (recordsFor key.length) = true ∧ drbgServes k 8 = true)) →
      (bindBucket k x.recPart (slotSpec x r.slot idx) (fingerprint k x.alg key)).1.isSome = true →
      ∃ h u, buildSlotRecord k r.slot idx (if again then some x.pubTag else none) = (St.ok, h, u) ∧
        Posts (.slotManagePublish e dma) s u e St.ok h [] ∧ (u.slotAt r.slot).pub = true ∧ (u.slotAt r.slot).pubIdx = idx) ∧
    (act → r.op = 4 → ownsSlot w r = true → attrsOk w r = true → x.copy0.state ≠ 2 → x.copy1.state ≠ 2 → slotServes w r.slot = St.ok →
      changeOk w x r a = true → (r.sel = (x.copy (x.serve - 1)).sel ∨ r.sel = 0x3F) → Runs (.slotManageChange e dma) s (fun t =>
        (t.entry e).phase = .posted ∧ (x.pub = false → (t.entry e).status = St.ok ∧ (t.entry e).outLen = 0) ∧
        let y := t.slotAt r.slot
        y.prot = r.prot ∧ y.usage = a.usage ∧ y.mode = a.mode ∧ y.exp = a.exp ∧ y.pol = a.pol ∧ y.period = r.period ∧ y.limit = r.limit ∧
        y.nb.toNat = a.nb % 2 ^ 64 ∧ y.na.toNat = a.na % 2 ^ 64 ∧ y.owner = x.owner ∧ y.alg = x.alg ∧ y.serve = x.serve ∧
        ∀ k, k ≠ r.slot → t.slotAt k = w.slotAt k)) ∧
    (act → r.op = 5 → ownsSlot w r = true → PostsOk (.slotManageErase e dma) s e (fun t =>
      t.slotAt r.slot = { high := x.high } ∧ ∀ k, k ≠ r.slot → t.slotAt k = w.slotAt k)) ∧
    (let m := b.take (manifestLen b)
     Administering s e 0xE050 b → reserveAdmin s e b = some v → Quorate v e b [.dev 3] (manifestLen b) w → manifestForm m = true →
      manifestSigned w m = true → manifestVersions w m = true →
      (byteAt b 8 = 0 → PostsOk (.resealForward e dma) s e (fun t =>
        t.grn.resealPending = false ∧ t.grn.changed = 0 ∧ t.grn.declared = [])) ∧
      (byteAt b 8 ≠ 0 → resealStuck w (byteAt b 8) = true → Posts (.resealForward e dma) s w e St.badFormat 0 []) ∧
      (byteAt b 8 ≠ 0 → resealStuck w (byteAt b 8) = false → PostsOk (.resealForward e dma) s e (fun t =>
        t.grn.resealPending = true ∧ t.grn.changed = byteAt b 8 ∧ t.grn.declared = manifestDeclared m)))

/-- R299, R300, R302 to R305, R398: an officer of a partition enters the roster with its key digest and leaves it, one of the device its slot; a policy
sets the m of its class; the baton moves to a standby, once a pending mismatch has been judged; a time set without tokens is judged, and one with a D5 quorum steps network time. R308: a written 1 draws a nonce from the
Keep DRBG into the nonce table, at once while it serves and otherwise when it serves; a nonce expires alone. -/
def Obligations.OfficersNoncesAndAuthority : Prop :=
  (∀ (s v w : State) (e : Fin 69632) (dma : Dma) (b : Bytes),
     (let r := enrollOf b
      let body := 8 + r.plen
      ∀ where_, Administering s e 0xE020 b → scopePart r.scope r.part = some where_ →
       reserveEntry s e 0x0202 (r.data s) (some ((r.digest s).drop 28)) = some v →
       (r.op = 1 → QuorateOf (ownRoster v) v e b (scopeClasses v where_) body (body + fieldLe b body 2) w →
         proofCounts v {
           classes := scopeClasses v where_
           fn := 0xE020
           digest := Hash.sha384 (b.take body)
           nonce := tokenNonce ((b.drop (body + fieldLe b body 2)).drop 4) } r where_ (b.drop body) = true →
         r.holder w = none → (tokenLens r.alg).map (·.1) = some r.plen →
         (∀ p, where_ = some p → r.idx < 8 → PostsOk (.officerEnrollAdd e dma) s e (fun t =>
           Map.get {} t.ofc.part (8 * p + r.idx) = { on := true, alg := r.alg, digest := digest384 (officerDigest r.alg r.pub) } ∧
           ∀ k, k ≠ 8 * p + r.idx → Map.get {} t.ofc.part k = Map.get {} s.ofc.part k)) ∧
         (where_ = none → r.idx < 16 → (w.slotAt r.idx).live = false → w.grn.present = true → (w.slotAt r.idx).high ≠ 0xFFFFFFFF →
           PostsOk (.officerEnrollAdd e dma) s e (fun t =>
             let y := t.slotAt r.idx
             y.live = true ∧ y.owner = 1 ∧ y.serve = 1 ∧ y.klen = 48 ∧ y.copy0.state = 1 ∧ y.high = (w.slotAt r.idx).high + 1 ∧
             ∀ k, k ≠ r.idx → t.slotAt k = w.slotAt k))) ∧
       (r.op = 2 → Quorate v e b (scopeClasses v where_) body w → r.alg = 0 → r.plen = 0 → (r.holder w).isSome = true →
         (∀ c ∈ allClasses where_, policyM w c ≤ officerCount w where_ - 1) →
         PostsOk (.officerEnrollRemove e dma) s e (fun t =>
           (∀ p, where_ = some p → Map.get {} t.ofc.part (8 * p + r.idx) = {}) ∧
           (where_ = none → t.slotAt r.idx = { high := (w.slotAt r.idx).high })))) ∧
     (∀ where_ c, let m := (byteAt b 4).toNat
       Administering s e 0xE021 b → reserveAdmin s e b = some v → scopePart (byteAt b 0).toNat (fieldLe b 2 2) = some where_ →
       Quorate v e b (scopeClasses v where_) 8 w → (allClasses where_)[(byteAt b 1).toNat]? = some c → allZero (slice b 5 3) = true →
       2 ≤ m → m ≤ officerCount w where_ → PostsOk (.quorumPolicySet e dma) s e (fun t => policyM t c = m)) ∧
     (Administering s e 0xE022 b → reserveAdmin s e b = some v → v.yoke.mismatch = true → exec (.yokeSwitch e dma) s = done v) ∧
     (Administering s e 0xE022 b → reserveAdmin s e b = some v → v.yoke.mismatch = false → Quorate v e b [.dev 1] 4 w → allZero (slice b 1 3) = true →
       byteAt b 0 = (if w.yoke.batonB then 1 else 2) → (if w.yoke.batonB then w.yoke.aState else w.yoke.bState) = .standby →
       PostsOk (.yokeSwitch e dma) s e (fun t => t.yoke.batonB = !w.yoke.batonB)) ∧
     (∀ (i : Instr) (offset : Bool), (i, offset) ∈ [(Instr.timeAdjustOffset e dma, true), (.timeAdjustAbsolute e dma, false)] →
       Administering s e 0xE030 b → reserveAdmin s e b = some v → byteAt b 0 = (if offset then 1 else 2) → allZero (slice b 1 7) = true →
       let target (u : State) : Int := if offset then (u.time.ntime : Int) + signed64 (fieldLe b 8 8) else (fieldLe b 8 8 : Int)
       (b.length = 16 → (offset = true → v.time.valid = true) →
         (setReason v.time (target v) = 0 →
           Posts i s (acceptSet v (target v)) e St.ok (BitVec.ofNat 64 (acceptSet v (target v)).time.ntime) []) ∧
         (setReason v.time (target v) ≠ 0 → Posts i s (refuseSet v (setReason v.time (target v))) e St.quorumRequired 0 [])) ∧
       (b.length ≠ 16 → Quorate v e b [.dev 5] 16 w → (offset = true → w.time.valid = true) → Runs i s (fun t =>
         (t.entry e).phase = .posted ∧ (t.entry e).status = St.ok ∧ t.time.valid = true ∧ t.time.pending = 0 ∧
         (t.time.ntime : Int) = target w % 2 ^ 64 ∧ t.time.rtc = t.time.ntime ∧ (t.entry e).result = BitVec.ofNat 64 t.time.ntime)))) ∧
  (∀ (s : State),
     (∀ v : Word, v.getLsbD 0 = true → drbgServes s 8 = true → Runs (.ofcNonceReq v) s (fun t =>
       let n : BitVec 64 := BitVec.ofNat 64 (ofLe (drbgGen s 8 8).1)
       t.ofc = { s.ofc with
         nonces := Map.set {} s.ofc.nonces (nonceEntry s.ofc) { on := true, val := n, seq := s.ofc.issued }
         issued := s.ofc.issued + 1
         nonce := n
         entry := nonceEntry s.ofc
         ready := true
         err := false } ∧
       t.drbg 8 = (drbgGen s 8 8).2.drbg 8 ∧ ∀ i, i ≠ 8 → t.drbg i = s.drbg i)) ∧
     (∀ k, (Map.get {} s.ofc.nonces k : Nonce).on = false → (∀ j, j < k → (Map.get {} s.ofc.nonces j : Nonce).on = true) → k < 64 →
       nonceEntry s.ofc = k) ∧
     (∀ v : Word, v.getLsbD 0 = true → drbgServes s 8 = false → s.ofc.waiting % 2 = 0 → exec (.ofcNonceReq v) s =
       done { s with ofc := { s.ofc with waiting := s.ofc.waiting + 1, ready := false } }) ∧
     (∀ v : Word, v.getLsbD 0 = false → exec (.ofcNonceReq v) s = done s) ∧
     (∀ k : Fin 64, exec (.nonceExpiry k) s = done { s with ofc := { s.ofc with nonces := Map.set {} s.ofc.nonces k {} } }))

/-- R256, R318, R319, R325, R358, R369, R370, R387 to R389: TALLY_EXPORT gives the selected entries signed under the alias key, or in host-assisted form
the signature alone, once an area for its output is free; TALLY_CLEAR leaves the clear record
alone in the log, chained to the last entry; an image set goes to the inactive bank; a scarecrow configuration record is judged and stored; a commit
raises the revision counters and lowers none. -/
def Obligations.TallyAndImages : Prop :=
  ∀ (s v w : State) (e : Fin 69632) (dma image : Dma) (b : Bytes),
    (∀ key, let r := exportReq b
      let sel := exportSel v.tal r
      let body := sel.flatMap (Tal.shown v)
      let host := (b.drop 16).take 64
      let head := exportHeader v r (assisted s e) sel
      let z := sign384 v key ((if assisted s e then host else head) ++ body)
      let out := if assisted s e then z.1 else head ++ body ++ z.1
      Administering s e 0xE040 b → (reserveAdmin s e b).getD s = v → v.boot.aliasKey = some key →
      b.length = 16 + (if assisted s e then 64 + 64 * sel.length else 0) →
      (assisted s e = true → host.take 40 = head.take 40 ∧ host.drop 48 = head.drop 48 ∧ (b.drop 16).drop 64 = body) →
      1 ≤ r.limit → r.limit ≤ 65536 → allZero (slice b 10 6) = true → drbgServes v 8 = true →
      out.length ≤ (s.entry e).desc.outCap → Posts (.tallyExport e dma) s z.2 e St.ok 0 out) ∧
    ((s.entry e).phase = .firmware → (s.entry e).state = .reserved → (s.entry e).desc.fn = 0xE040 → s.yoke.gap = false →
      (s.entry e).area = none → s.boot.romService = false →
      (freeArea s = none → exec (.tallyExport e dma) s = done s) ∧
      (∀ a, freeArea s = some a →
        exec (.tallyExport e dma) s = exec (.tallyExport e dma) (s.modEntry e (fun x => { x with area := some a })))) ∧
    (Administering s e 0xE041 b → Quorate s e b [.dev 4] 8 w → allZero (slice b 4 4) = true → fieldLe b 0 4 + 1 = w.tal.next →
      w.tal.stuck = false → PostsOk (.tallyClear e dma) s e (fun t =>
        t.tal.log.length = 1 ∧ t.tal.next = w.tal.next + 1 ∧ t.tal.main = 1 ∧ t.tal.tail = 0 ∧ t.tal.lost = 0 ∧
        t.tal.prevTag = Tal.lastTag w.tal ∧ (∀ y ∈ t.tal.log, y.seq = w.tal.next ∧ y.code = 0x0104) ∧
        (t.entry e).result = BitVec.ofNat 64 (w.tal.next + 1))) ∧
    (let addr := fieldLe b 8 8
     let len := fieldLe b 16 4
     let set := w.hostRead addr len
     let seq := (bootedBank w).seq + 1
     Administering s e 0xE051 b → reserveAdmin s e b = some v → byteAt b 0 = 1 → Quorate v e b [.dev 3] 68 w → allZero (slice b 1 7) = true →
      len ≤ 0x1000000 → addr ≠ 0 → addr + len ≤ 2 ^ 64 → image = .ok → hostGate s false = true → ImageSet.formOk set = true → Hash.sha384 set = slice b 20 48 →
      ImageSet.signed w set = true → ImageSet.versionsOk w set = true → ImageSet.measOk w set = true → ImageSet.slotsOk w set = true →
      Posts (.imageInstallSet e dma image) s (if w.boot.bankB then { w with boot := { w.boot with bankA := ImageSet.bank set seq } }
        else { w with boot := { w.boot with bankBSet := ImageSet.bank set seq } }) e St.ok (BitVec.ofNat 64 seq.toNat) []) ∧
    (let r := slice b 68 192
     Administering s e 0xE051 b → reserveAdmin s e b = some v → byteAt b 0 = 2 → Quorate v e b [.dev 3] 260 w → allZero (slice b 1 67) = true →
      (cfgJudge w e r = (0, St.ok) → PostsOk (.imageInstallScarecrowConfig e dma) s e (fun t =>
        t.scr.cfg = some r ∧ t.scr.cfgReason = 0 ∧ t.scr.cfgApplied = true ∧ t.scr.wakeMs = fieldLe r 20 2 ∧
        t.scr.meshEn = w.scr.meshEn ||| BitVec.ofNat 4 (byteAt r 22).toNat)) ∧
      (∀ k st, cfgJudge w e r = (k, st) → k ≠ 0 → Posts (.imageInstallScarecrowConfig e dma) s
        (setInt { w with scr := { w.scr with cfgReason := k, cfgApplied := false } } scrPage 3) e st 0 [])) ∧
    (Administering s e 0xE051 b → reserveAdmin s e b = some v → byteAt b 0 = 3 → Quorate v e b [.dev 3] 68 w → allZero (slice b 1 67) = true →
      w.boot.fallback = false → (∀ k ∈ declaredRevs w, k ≤ 1024) → PostsOk (.imageInstallCommitRevisions e dma) s e (fun t =>
        w.lc.otp.revScr ≤ t.lc.otp.revScr ∧ w.lc.otp.revFw ≤ t.lc.otp.revFw ∧ w.lc.otp.revMicro ≤ t.lc.otp.revMicro ∧
        t.lc.otp.revScr = max w.lc.otp.revScr ((declaredRevs w).getD 0 0) ∧ t.lc.otp.revFw = max w.lc.otp.revFw ((declaredRevs w).getD 1 0) ∧
        t.lc.otp.revMicro = max w.lc.otp.revMicro ((declaredRevs w).getD 2 0)))

/-- R256, R329 to R336: a transition from a state that R329 does not list ends FORMAT_RULE with nothing changed; one that passes the checks of R331 runs its
steps, ends in its target state with its progress record cleared, and asks for the self-reset, 0x03 excepted. -/
def Obligations.LifecycleTransitions : Prop :=
  ∀ (s u : State) (e : Fin 69632) (dma : Dma) (b : Bytes) (i : Instr) (code target : Nat),
    (i, code, target) ∈ [(Instr.lifecycleBlankToTest e dma, 1, lcTest), (.lifecycleTestToMinted e dma, 2, lcMinted),
      (.lifecycleCertInstall e dma, 3, lcMinted), (.lifecycleMintedToEnrolled e dma, 4, lcEnrolled),
      (.lifecycleEnrolledToField e dma, 5, lcField), (.lifecycleReenrollment e dma, 6, lcCode u),
      (.lifecycleToAnalysisMasidric e dma, 7, lcAnalysis), (.lifecycleToAnalysisOem e dma, 8, lcAnalysis),
      (.lifecycleToScrap e dma, 9, lcScrap)] →
    ((s.entry e).phase = .firmware → (s.entry e).state = .reserved → (s.entry e).desc.fn = 0xE060 → s.yoke.gap = false →
      (s.entry e).area = none → s.boot.romService = false →
      (freeArea s = none → exec i s = done s) ∧
      (∀ a, freeArea s = some a → exec i s = exec i (s.modEntry e (fun x => { x with area := some a })))) ∧
    (Administering s e 0xE060 b → (byteAt b 0).toNat = code → (code = 2 → 97 ≤ (s.entry e).desc.outCap) →
    let r := lcReq b
    let answered (t : State) : State := t.modEntry e (fun x => { x with polPhase := .answered })
    (lcFrom s code = false → Posts i s s e St.formatRule 0 []) ∧
    (lcFrom s code = true → lcForm s r b = true → fieldLe b 4 8 = Config.unitSerial.toNat →
      (((s.entry e).polPhase = .answered ∧ u = s) ∨
        ((s.entry e).polPhase ≠ .answered ∧ ∃ n key, nonceOf s r.nonce = some n ∧ lcKey s r = some key ∧
          verify384 key r.sig (b.take (32 + r.len)) = true ∧
          ((lcNeedsQuorum s code = false ∧ u = answered (consumeNonce s n)) ∨
            (lcNeedsQuorum s code = true ∧ ∃ w, quorumRun s e (ownRoster s) [.dev 6] (Hash.sha384 (b.take r.fixed)) (b.drop r.fixed) = (true, w) ∧
              u = answered (consumeNonce w n))))) →
      lcReady u r = true → (code = 2 ∨ code = 4 ∨ code = 6 → drbgServes u 8 = true) → Runs i s (fun t =>
        (t.entry e).phase = .posted ∧ lcCode t = target ∧ t.lc.progress = {} ∧ t.lc.selfReset = decide (code ≠ 3) ∧
        (code ≠ 2 → (t.entry e).status = St.ok ∧ (t.entry e).result = BitVec.ofNat 64 target) ∧
        (code = 3 → t.lc.cert = some r.body))))

/-! ### Block, bulk and big-number engines (07_block_and_bulk_ciphers.md, 08_bignum_engine.md) -/

/-- R140, R171, R178 to R184: the key parts, the data block and the commands of a block engine: a ready key of a role that allows the operation
encrypts or decrypts one block, whose result has the role's label, or the data's where that is more restricted, the key's role, and the derived bit
when it is K; a key that is derived or has no role, or a role that allows no such operation, ends the request. R180, R183, R184, R185: a compare
writes eq over its first cmp_len + 1 bytes, and sets the record-authentication flag only on a match of a result that role 0x0C produced; results
become ready in command order, and BE_DOUT takes the oldest once it is ready; R179, R181: BE_KEYCLR erases the context's key slot in every engine of
the stook, and a command waits while eight results stand; a datapath mismatch ends the request of its context with FAULT_ALARM, erases the key of
every slot of the engine, and retires the engine at the third within 1 s. -/
def Obligations.BlockEngines : Prop :=
  (∀ (s : State) (c : Fin 2048) (e : Fin 4) (sa sd : Fin 16) (alg : BitVec 4), Issues s (.tu c) →
     let i := beIdx s c e
     let x := beGet s c e
     let r := (s.core c).getS sa
     let sets (u : State) (y : BeSlot) : State := Onward (u.setBeSlot i y) c (fun z => z)
     (r.label = .k → r.derived = false → r.role ≠ 0 →
       (∃ u, AtPort s c u ∧ exec (.beKey0 c e sa) s = done (sets u { x with key0 := some r, key1 := none })) ∧
       (x.key0.isSome = true → ∃ u, AtPort s c u ∧ exec (.beKey1 c e sa) s = done (sets u { x with key1 := some r })) ∧
       (x.key0 = none → ∃ u, AtPort s c u ∧ exec (.beKey1 c e sa) s = done (faultCtx u c))) ∧
     (r.label = .k → (r.derived = true ∨ r.role = 0) → ∀ j ∈ [Instr.beKey0 c e sa, .beKey1 c e sa],
       ∃ u, AtPort s c u ∧ exec j s = done (faultCtx u c)) ∧
     (r.label ≠ .k → ∀ j ∈ [Instr.beKey0 c e sa, .beKey1 c e sa], ∃ u, AtPort s c u ∧ exec j s = done (portError u c)) ∧
     (∃ u, AtPort s c u ∧ exec (.beDin c e sa) s = done (sets u { x with din := r })) ∧
     (∃ u, AtPort s c u ∧ Runs (.beKeyclr c e) s (fun t =>
       t = { Onward u c (fun z => z) with beSlots := t.beSlots } ∧
       ∀ j, t.beSlot j = if j / 256 = stookOfCtx c ∧ j % 64 = c % 64 then { s.beSlot j with key0 := none, key1 := none } else s.beSlot j)) ∧
     (∀ k0 k1 cipher key, x.key0 = some k0 → x.key1 = k1 → x.results.length < 8 →
       (alg.toNat, k1.isSome, cipher, key) ∈ [(0, false, Cipher.Alg.des, k0.bytes.take 8), (1, false, .tdes, k0.bytes),
         (2, true, .tdes, k0.bytes ++ (k1.getD {}).bytes.take 8), (3, false, .aes, k0.bytes),
         (4, true, .aes, k0.bytes ++ (k1.getD {}).bytes.take 8), (5, true, .aes, k0.bytes ++ (k1.getD {}).bytes),
         (6, false, .des, k0.bytes.drop 8)] → (∀ k, k1 = some k → k.role = k0.role) →
       let blk := x.din.bytes.take (Cipher.blockLen cipher)
       let out (v : BitVec 128) (l : Label) : BeRes := { reg := { val := v, label := l, role := k0.role, derived := l == .k }, ready := false }
       (∀ l, (k0.role.toNat, l) ∈ [(2, Label.c), (3, .t), (4, .c), (5, .c), (6, .t), (7, .k), (8, .k), (9, .k), (0xA, .c), (0xC, .c)] →
         let v := block (fit 16 (Cipher.enc cipher key blk))
         ∃ u, AtPort s c u ∧ exec (.beEncrypt c e alg) s = done (sets u { x with
           results := x.results ++ [out v (l.max x.din.label)]
           lastEnc := some v
           lastRole := k0.role })) ∧
       (∀ l, (k0.role.toNat, l) ∈ [(1, Label.n), (5, .c), (6, .t), (8, .k), (0xC, .k)] →
         ∃ u, AtPort s c u ∧ exec (.beDecrypt c e alg) s = done (sets u { x with
           results := x.results ++ [out (block (fit 16 (Cipher.dec cipher key blk))) (l.max x.din.label)] })) ∧
       (k0.role = 0xB → ∃ u, AtPort s c u ∧ exec (.beCheckValue c e alg) s = done (sets u { x with
         results := x.results ++ [{
           reg := {
             val := block (if cipher = .aes then Cipher.cmac .aes key (zeros 16) else fit 16 (Cipher.enc cipher key (zeros 8)))
             label := .c
             role := 0xB }
           ready := false }] })) ∧
       ((k0.role = 1 ∨ k0.role = 0xB) → ∃ u, AtPort s c u ∧ exec (.beEncrypt c e alg) s = done (portError u c)) ∧
       (k0.role ∈ [(2 : Byte), 3, 4, 7, 9, 0xA, 0xB] → ∃ u, AtPort s c u ∧ exec (.beDecrypt c e alg) s = done (portError u c)) ∧
       (k0.role ≠ 0xB → ∃ u, AtPort s c u ∧ exec (.beCheckValue c e alg) s = done (portError u c))) ∧
     (x.results.length < 8 → x.key0 = none → ∀ j ∈ [Instr.beEncrypt c e alg, .beDecrypt c e alg, .beCheckValue c e alg],
       ∃ u, AtPort s c u ∧ exec j s = done (faultCtx u c)) ∧
     (8 ≤ x.results.length → ∀ j ∈ [Instr.beEncrypt c e alg, .beDecrypt c e alg, .beCheckValue c e alg, .beCompare c e alg],
       ∃ u, AtPort s c u ∧ exec j s = done (u.setCore c { u.core c with wait := .beIssue e }))) ∧
  (∀ (s : State) (c : Fin 2048) (e : Fin 4) (sd : Fin 16) (len : BitVec 4),
     let i := beIdx s c e
     let x := beGet s c e
     (Issues s (.tu c) →
       (∀ v, x.results.length < 8 → x.lastEnc = some v → x.din.bytes.take (len.toNat + 1) = (ofBlock v).take (len.toNat + 1) →
         ∃ u, AtPort s c u ∧ exec (.beCompare c e len) s = done (Onward (u.setBeSlot i { x with eq := true }) c
           (fun y => { y with recAuth := y.recAuth || decide (x.lastRole = 0xC) }))) ∧
       (x.results.length < 8 → (∀ v, x.lastEnc = some v → x.din.bytes.take (len.toNat + 1) ≠ (ofBlock v).take (len.toNat + 1)) →
         ∃ u, AtPort s c u ∧ exec (.beCompare c e len) s = done (Onward (u.setBeSlot i { x with eq := false }) c (fun y => y))) ∧
       (∀ r rest, x.results = { reg := r, ready := true } :: rest → ∃ u b f m, AtPort s c u ∧ exec (.beDout c e sd) s =
         done (Onward (State.setBeSlot { u with barns := b, free := f } i { x with results := rest }) c
           (fun y => { y with s := Map.set {} y.s sd r, mask := m }))) ∧
       ((x.results = [] ∨ ∃ r rest, x.results = { reg := r, ready := false } :: rest) → ∃ u, AtPort s c u ∧ exec (.beDout c e sd) s =
         done (u.setCore c { u.core c with wait := .beResult e }))) ∧
     (∀ old r rest, x.results = old ++ { reg := r, ready := false } :: rest → (∀ y ∈ old, y.ready = true) →
       exec (.beResultReady c e) s = done (s.setBeSlot i { x with results := old ++ { reg := r, ready := true } :: rest })) ∧
     (let b := servingBe s (stookOfCtx c) e
      let times := noteTime (s.be b).faults s.tmr.now 3
      (s.core c).phase = .running → (s.request c).state = .reserved → (s.request c).accepted = true →
       Runs (.beDatapathMismatch c e) s (fun t =>
         (t.entry (s.core c).entry).state = .staged ∧ (t.entry (s.core c).entry).status = St.faultAlarm ∧ (t.entry (s.core c).entry).out = [] ∧
         (∀ j, j < 64 → (t.beSlot (64 * b + j)).key0 = none ∧ (t.beSlot (64 * b + j)).key1 = none) ∧ (t.be b).faults = times ∧
         (t.be b).retired = ((s.be b).retired || withinSpan times 3 1000000000))))

/-- R187 to R190: through the gateway the lead of a bulk request loads key parts, starts its message, which its limits and the output capacity are
checked for first, and reads the count, which grows by the writes made; a running message ends with its output written and counted, and a
decryption whose tag differs ends TAG_FAIL_OUTPUT_UNTRUSTED. R10, R19: its streams wait while their link retrains, and a gate that denies them ends
the request. A request without an engine, or a helper, has no gateway. (How much of a message has been written when BG_COUNT or a failed access finds
it is open, log 100 and log 2.) -/
def Obligations.BulkMessages : Prop :=
  ∀ (s : State) (c : Fin 2048) (b : Fin 8) (sa : Fin 16) (r : Fin 32) (dma : Dma),
    let e := (s.core c).entry
    let y := s.bae b
    let k := (s.core c).getS sa
    (Issues s (.tu c) → (s.core c).member = 0 → baeOf s e = some b.val → y.owner = .request → y.entry = e →
      (∀ m ∈ y.susp, m.entry ≠ e) → y.selftest = false →
      (k.label = .k → k.derived = false → k.role = 0xD → ∃ u, AtPort s c u ∧ exec (.bgKey c sa) s =
        done (Onward (u.setBae b { y with keyParts := y.keyParts ++ [k] }) c (fun x => x))) ∧
      ((k.label ≠ .k ∨ k.derived = true ∨ k.role ≠ 0xD) → ∃ u, AtPort s c u ∧ exec (.bgKey c sa) s = done (faultCtx u c)) ∧
      (∀ n, (y.msg = none ∧ n = 0 ∨ ∃ m st, y.msg = some m ∧ m.ended = some st ∧ n = if st = St.badLength then m.need else m.count) →
        ∃ u, AtPort s c u ∧ exec (.bgCount c r) s = done (Reads (u.setBae b { y with cntHi := !y.cntHi }) c r
          (BitVec.ofNat 32 (if y.cntHi then n / 2 ^ 32 else n)))) ∧
      (∀ m, y.msg = some m → m.ended = none → ∃ u m' bs, AtPort s c u ∧ Runs (.bgCount c r) s (fun t =>
        t.bae b = { y with msg := some m', cntHi := !y.cntHi } ∧ m'.ended = none ∧ m'.count = m.count + bs.length ∧
        t.hostMem = hostWriteMem s.hostMem (m.dst.toNat + m.count) bs ∧
        t.core c = (Reads u c r (BitVec.ofNat 32 (if y.cntHi then m'.count / 2 ^ 32 else m'.count))).core c)) ∧
      (∀ p, (s.request c).input = some p → (y.msg.isSome = true ∨ y.keyParts = []) →
        ∃ u, AtPort s c u ∧ exec (.bgCmd c dma) s = done (faultCtx u c)) ∧
      (∀ p, (s.request c).input = some p → y.msg = none → y.keyParts ≠ [] →
        let a := Map.get 0 (s.request c).lookAlg 0
        let m : BulkMsg := { parseBulk e (s.request c).desc.fn.toNat (y.keyParts.flatMap SReg.bytes) p with dst := (s.request c).desc.outAddr }
        let starting (drawn : State → State) (m : BulkMsg) : Prop := ∃ u, AtPort s c u ∧ exec (.bgCmd c dma) s =
          done (Onward ((drawn u).setBae b { y with msg := some m, cntHi := false }) c (fun x => x))
        let starts (m : BulkMsg) : Prop := starting (fun u => u) m
        let barn := (s.request c).barn
        (y.keyParts.length ≠ bulkParts a → ∃ u, AtPort s c u ∧ exec (.bgCmd c dma) s = done (faultCtx u c)) ∧
        (y.keyParts.length = bulkParts a →
          (bulkLimits m = false → starts { m with ended := some St.badLength }) ∧
          (bulkLimits m = true → (s.request c).desc.outCap < bulkOut m →
            starts { m with need := bulkOut m % 2 ^ 32, ended := some St.badLength }) ∧
          (bulkLimits m = true → bulkOut m ≤ (s.request c).desc.outCap →
            (m.drawn = false ∨ drbgServes s barn = false → starts m) ∧
            (m.drawn = true → drbgServes s barn = true →
              starting (fun u => (drbgGen u barn 12).2) { m with iv := (drbgGen s barn 12).1 }))))) ∧
    (Issues s (.tu c) → ((s.core c).member ≠ 0 ∨ baeOf s e = none) → ∀ i ∈ [Instr.bgKey c sa, .bgCmd c dma, .bgCount c r],
      ∃ u, AtPort s c u ∧ exec i s = done (portError u c)) ∧
    (y.owner = .request → linkWaits s (dieOfBae b) = true → exec (.baeMessageEnd b dma) s = done s) ∧
    (∀ m0, y.owner = .request → y.msg = some m0 → m0.ended = none → linkWaits s (dieOfBae b) = false →
      let draws := m0.drawn = true ∧ m0.iv = []
      let barn := (s.entry m0.entry).barn
      let m := if draws then { m0 with iv := (drbgGen s barn 12).1 } else m0
      (bulkStale s m = true → Runs (.baeMessageEnd b dma) s (fun t =>
        t.hostMem = s.hostMem ∧ (t.bae b).msg = some { m0 with ended := some St.aborted })) ∧
      (bulkStale s m = false → (hostGate s false = false ∨ hostGate s true = false) →
        (s.entry m.entry).state = .reserved → (s.entry m.entry).accepted = true → Runs (.baeMessageEnd b dma) s (fun t =>
          t.hostMem = s.hostMem ∧ (t.entry m.entry).state = .staged ∧ (t.entry m.entry).status = St.faultAlarm)) ∧
      (bulkStale s m = false → hostGate s false = true → hostGate s true = true → draws → drbgServes s barn = false →
        exec (.baeMessageEnd b dma) s = done s) ∧
      (bulkStale s m = false → hostGate s false = true → hostGate s true = true → (draws → drbgServes s barn = true) →
        let w := bulkData (bulkHeader m (if m.aadDone then [] else s.hostRead m.aadAddr.toNat m.aadLen))
          (s.hostRead (m.src.toNat + m.pos) (m.len - m.pos))
        let dec := isBulkDec m.fn.toNat
        let out := if dec then w.1 else w.1 ++ (bulkTag w.2).take m.tagLen ++ (if m.drawn then m.iv else [])
        let st := if dec = true ∧ (bulkTag w.2).take m.tagLen ≠ m.tag.take m.tagLen then St.tagFail else St.ok
        (dma ≠ .ok → ∃ bs, bs <+: out ∧ Runs (.baeMessageEnd b dma) s (fun t =>
          t.hostMem = hostWriteMem s.hostMem (m.dst.toNat + m.count) bs ∧
          (t.bae b).msg = some { w.2 with count := w.2.count + bs.length, ended := some St.badPointer } ∧
          (t.entry m.entry).untrusted = ((s.entry m.entry).untrusted || (dec && decide (0 < m.count + bs.length))))) ∧
        (dma = .ok → Runs (.baeMessageEnd b dma) s (fun t =>
          t.hostMem = hostWriteMem s.hostMem (m.dst.toNat + m.count) out ∧
          (t.bae b).msg = some { w.2 with count := w.2.count + out.length, ended := some st } ∧
          (t.entry m.entry).untrusted = ((s.entry m.entry).untrusted || decide (st = St.tagFail)) ∧ ∀ j, j ≠ b.val → t.bae j = s.bae j))))

/-- R186, R191 to R193: an urgent request suspends the running message at a block boundary, and the engine goes on with the most recently suspended
message; an alarm erases the key, ends the running and the suspended messages' requests with FAULT_ALARM, and the third within 1 s, or a failed
self-test, retires the engine; a warden that holds the baton acquires a free engine and releases it. -/
def Obligations.BulkEngineOwnership : Prop :=
  ∀ (s : State) (b : Fin 8) (n : Nat) (w : Warden),
    let x := s.bae b
    ((x.urgent = [] ∨ linkWaits s (dieOfBae b) = true) → exec (.baeSuspend b n) s = done s) ∧
    (∀ v rest, x.urgent = v :: rest → x.owner = .request → x.selftest = false → linkWaits s (dieOfBae b) = false → x.msg = none →
      (∀ m ∈ x.susp, m.entry = x.entry → exec (.baeSuspend b n) s = done (s.setBae b { x with entry := v, urgent := rest, cntHi := false })) ∧
      ((∀ m ∈ x.susp, m.entry ≠ x.entry) → x.susp.length < 2 → Runs (.baeSuspend b n) s (fun t =>
        t.hostMem = s.hostMem ∧ t.bae b = { x with
          susp := { entry := x.entry, key := x.keyParts.flatMap SReg.bytes } :: x.susp
          entry := v
          urgent := rest
          keyParts := []
          cntHi := false }))) ∧
    (∀ v rest, x.urgent = v :: rest → x.owner = .request → x.susp.length < 2 → x.selftest = false → linkWaits s (dieOfBae b) = false →
      hostGate s false = true → hostGate s true = true →
      (∀ m, x.msg = some m → m.ended = none → m.pos + 16 * n < m.len → bulkStale s m = false → (m.drawn = false ∨ m.iv ≠ []) →
        let d := bulkData (bulkHeader m (if m.aadDone then [] else s.hostRead m.aadAddr.toNat m.aadLen))
          (s.hostRead (m.src.toNat + m.pos) (16 * n))
        Runs (.baeSuspend b n) s (fun t =>
          t.bae b = { x with
            susp := { d.2 with count := d.2.count + d.1.length } :: x.susp
            entry := v
            urgent := rest
            msg := none
            keyParts := []
            cntHi := false } ∧
          t.hostMem = hostWriteMem s.hostMem (m.dst.toNat + m.count) d.1)) ∧
      (∀ m, x.msg = some m → (m.ended.isSome = true ∨ m.len ≤ m.pos + 16 * n) → exec (.baeSuspend b n) s = done s)) ∧
    (∀ m rest, x.susp = m :: rest → x.owner = .request → x.entry = m.entry → x.msg = none → x.selftest = false → m.fn ≠ 0 →
      exec (.baeResume b) s = done (s.setBae b { x with susp := rest, msg := some m })) ∧
    (∀ m rest, x.susp = m :: rest → x.owner = .request → x.entry = m.entry → x.msg = none → x.selftest = false → m.fn = 0 →
      exec (.baeResume b) s = done (s.setBae b { x with
        susp := rest
        keyParts := (chunks 16 m.key).map (fun k => { val := block k, label := .k, role := 0xD }) })) ∧
    (x.owner ≠ .retired →
      let times := noteTime x.alarms s.tmr.now 3
      let hit (k : Nat) : Prop := (x.owner = .request ∧ ∃ m, x.msg = some m ∧ m.entry = k) ∨ ∃ m ∈ x.susp, m.entry = k
      Runs (.baeAlarm b) s (fun t =>
        (t.bae b).keyParts = [] ∧ (t.bae b).alarms = times ∧
        (withinSpan times 3 1000000000 = true → (t.bae b).owner = .retired ∧ (t.bae b).selftest = false) ∧
        (withinSpan times 3 1000000000 = false → (t.bae b).selftest = true) ∧
        ∀ k, hit k → (s.entry k).state = .reserved → (s.entry k).accepted = true →
          (t.entry k).state = .staged ∧ (t.entry k).status = St.faultAlarm)) ∧
    (x.selftest = true →
      Runs (.baeSelftestDone b true) s (fun t => t.bae b = { x with selftest := false }) ∧
      Runs (.baeSelftestDone b false) s (fun t => (t.bae b).owner = .retired ∧ (t.bae b).selftest = false ∧ (t.bae b).keyParts = [])) ∧
    (x.owner = .free → (w = .b ↔ s.yoke.batonB = true) →
      exec (.baeLockAcquire b w) s = done (s.setBae b { x with owner := .warden, keyParts := [] })) ∧
    (x.owner = .warden → (w = .b ↔ s.yoke.batonB = true) →
      exec (.baeLockRelease b w) s = done (s.setBae b { x with owner := .free, keyParts := [], msg := none, cntHi := false })) ∧
    (¬(w = .b ↔ s.yoke.batonB = true) → exec (.baeLockAcquire b w) s = done s ∧ exec (.baeLockRelease b w) s = done s)

/-- R194, R195, R197, R198, R209, R210: a claim takes the first free engine from the named one on; slots are laid out in order; words go in and out at
the pointer, and a slot of label T, N or K, or with a written part, is never read; the engine is wiped at its release and goes to the first waiting
claim; a fault ends the request, and the third within 1 s, or a failed self-test, retires the engine. R196: a busy engine makes its window's reads,
writes and commands wait, and its slots can be configured meanwhile. R210: the wipe of a finished job and the clearing of a job cut short each end with
their own row. -/
def Obligations.BigNumberJobs : Prop :=
  ∀ (s : State) (c : Fin 2048) (n : Fin 6) (r : Fin 32) (v : Word),
    let k := bneOf c n
    let y := s.bne k
    let i := y.ptrSlot
    let sets (u : State) (z : Bne) : State := Onward (u.setBne k z) c (fun x => x)
    (Issues s (.tu c) → (s.core c).member = 0 → (∀ m, m < 6 → (s.bne (bneOf c m)).owner ≠ some c.val) →
      (∀ j, j < 6 → bneFree (s.bne (bneOf c ((n + j) % 6))) = true →
        (∀ l, l < j → bneFree (s.bne (bneOf c ((n + l) % 6))) = false) →
        let e := (n.val + j) % 6
        let z := s.bne (bneOf c e)
        ∃ u, AtPort s c u ∧ exec (.bnClaim c n r) s = done (Reads (perfCount (u.setBne (bneOf c e) {
          owner := some c.val
          retired := z.retired
          faults := z.faults }) (bnePage (bneOf c e)) 0x040 1) c r (BitVec.ofNat 32 e))) ∧
      ((∀ j, j < 6 → bneFree (s.bne (bneOf c ((n + j) % 6))) = false) → Runs (.bnClaim c n r) s (fun t =>
        (t.core c).wait = .bnClaim n ∧ (t.core c).pc = (s.core c).pc ∧ t.bnes = s.bnes ∧
        ∃ b, (c.val, b) ∈ (t.barn (barnOfCtx c)).claims))) ∧
    (Issues s (.tu c) → (s.core c).member = 0 → y.owner = some c.val → ∃ u, AtPort s c u ∧ exec (.bnClaim c n r) s = done (faultCtx u c)) ∧
    (Issues s (.tu c) → ((s.core c).member ≠ 0 ∨ y.owner ≠ some c.val) → ∀ j ∈ [Instr.bnSlot c n v, .bnWr c n v, .bnRd c n r, .bnRelease c n],
      ∃ u, AtPort s c u ∧ exec j s = done (portError u c)) ∧
    (Issues s (.tu c) → (s.core c).member = 0 → y.owner = some c.val →
      (∀ x : BneArgs, y.run.isSome = true → ∀ j ∈ [Instr.bnWr c n v, .bnRd c n r, .bnXfer c n v .ok, .bnKey c n v, .bnStore c n v, .bneMmul c n x],
        Runs j s (fun t => (t.core c).wait = .bnBusy ∧ (t.core c).pc = (s.core c).pc ∧ t.bnes = s.bnes)) ∧
      (let a := v.toNat % 16
       let len := v.toNat / 16 % 2 ^ 14
       let ok := y.closed = false ∧ (y.slot a).on = false ∧ len ≠ 0 ∧ y.used + len ≤ 8192
       (ok → ∃ u, AtPort s c u ∧ exec (.bnSlot c n v) s = done (sets u { y with
         slots := Map.set {} y.slots a { on := true, start := y.used, len := len }
         used := y.used + len })) ∧
       (¬ok → ∃ u, AtPort s c u ∧ exec (.bnSlot c n v) s = done (faultCtx u c))) ∧
      ((∀ m, m < 6 → m ≠ n.val → (s.bne (bneOf c m)).owner ≠ some c.val) → Runs (.bnRelease c n) s (fun t =>
        t.bne k = { y with owner := none, run := none, wiping := true, clearing := false } ∧ ∀ j, j ≠ k → t.bne j = s.bne j))) ∧
    (OwnsBne s c n →
      ((y.slot i).on = true → y.ptrPos < 2 * (y.slot i).len →
        Runs (.bnWr c n v) s (fun t =>
          let z := t.bne k
          z.bytes i = (y.bytes i).take (4 * y.ptrPos) ++ le 4 v.toNat ++ (y.bytes i).drop (4 * y.ptrPos + 4) ∧ z.ptrPos = y.ptrPos + 1 ∧
          (z.slot i).label = (if (y.slot i).label = .p then .p else .k) ∧ (z.slot i).storable = false ∧
          (∀ j, j ≠ i → z.slot j = y.slot j) ∧
          ∀ a, (a < (y.slot i).start ∨ (y.slot i).start + (y.slot i).len ≤ a) → Map.get 0 z.mem a = Map.get 0 y.mem a) ∧
        (((y.slot i).label = .p ∨ (y.slot i).label = .c) → ∃ u, AtPort s c u ∧ exec (.bnRd c n r) s =
          done (Reads (u.setBne k { y with ptrPos := y.ptrPos + 1 }) c r (BitVec.ofNat 32 (fieldLe (y.bytes i) (4 * y.ptrPos) 4)))) ∧
        ((y.slot i).label ≠ .p → (y.slot i).label ≠ .c → ∃ u, AtPort s c u ∧ exec (.bnRd c n r) s = done (portError u c))) ∧
      (((y.slot i).on = false ∨ 2 * (y.slot i).len ≤ y.ptrPos) → ∀ j ∈ [Instr.bnWr c n v, .bnRd c n r],
        ∃ u, AtPort s c u ∧ exec j s = done (faultCtx u c))) ∧
    (∀ (e : Fin 48) (check : Bool), let z := s.bne e
      let times := noteTime z.faults s.tmr.now 3
      z.retired = false → (z.wiping = true ∨ z.clearing = true ∨ z.owner.isSome = true) →
      Runs (.bneFault e check) s (fun t =>
        (t.bne e).faults = times ∧ (t.bne e).retired = withinSpan times 3 1000000000 ∧
        (withinSpan times 3 1000000000 = false → (t.bne e).needTest = true) ∧
        ∀ d, z.owner = some d → (s.request d).state = .reserved → (s.request d).accepted = true →
          (t.entry (s.core d).entry).state = .staged ∧ (t.entry (s.core d).entry).status = St.faultAlarm)) ∧
    (∀ (e : Fin 48), let z := s.bne e
      let b := barnOfBne e
      z.selftest = true →
        (((s.barn b).claims = [] → Runs (.bneSelftestDone e true) s (fun t => t.bne e = { z with selftest := false })) ∧
        (∀ m p rest, (s.barn b).claims = (m, p) :: rest → z.owner = none → z.wiping = false → z.clearing = false → z.needTest = false →
          z.retired = false →
          Runs (.bneSelftestDone e true) s (fun t => (t.bne e).owner = some m ∧ (t.bne e).mem = [] ∧ (t.bne e).slots = [] ∧
            (t.barn b).claims = rest)) ∧
        Runs (.bneSelftestDone e false) s (fun t => (t.bne e).retired = true ∧ (t.bne e).selftest = false))) ∧
    (∀ (e : Fin 48), let z := s.bne e
      (z.wiping = false → ∀ clean, exec (.bneWipeDone e clean) s = done s) ∧ (z.clearing = false → exec (.bneClearDone e) s = done s)) ∧
    (∀ (e : Fin 48) (j : Instr), let z := s.bne e
      let b := barnOfBne e
      (j = .bneWipeDone e true ∧ z.wiping = true ∨ j = .bneClearDone e ∧ z.clearing = true) → z.retired = false →
        (z.needTest = true → Runs j s (fun t => t.bne e = { selftest := true, faults := z.faults })) ∧
        (z.needTest = false → (s.barn b).claims = [] → Runs j s (fun t => t.bne e = { faults := z.faults })) ∧
        (∀ m p rest, z.needTest = false → (s.barn b).claims = (m, p) :: rest → Runs j s (fun t =>
          t.bne e = { owner := some m, faults := z.faults } ∧ (t.barn b).claims = rest))) ∧
    (∀ (e : Fin 48), let z := s.bne e
      let times := noteTime z.faults s.tmr.now 3
      z.wiping = true → z.retired = false → Runs (.bneWipeDone e false) s (fun t =>
        (t.bne e).faults = times ∧ (t.bne e).wiping = false ∧ (t.bne e).retired = withinSpan times 3 1000000000 ∧
        (t.bne e).selftest = !withinSpan times 3 1000000000))

/-- R196, R199 to R202: a transfer copies bytes between a slot and the request's input or output; a private key goes to the slots of R201 with its
role; a secret register of role 0x10 or 0x11 goes to a slot; a storable key becomes a record; and when the engine finishes, what it computed is
written, its status can be read, and its waiting context issues again. R205: a command that waits for random output computes once the barn's DRBG
serves; R208, R209: a result that its second computation does not confirm is not written, and is a fault of the engine. R143, R347: an output or a key
record that a gate denies ends the request. -/
def Obligations.BigNumberTransfers : Prop :=
  ∀ (s : State) (c : Fin 2048) (n : Fin 6) (v : Word) (sa : Fin 16) (dma : Dma),
    let k := bneOf c n
    let y := s.bne k
    let i := y.ptrSlot
    let x := s.request c
    let p := x.func - 1
    let old := y.bytes i
    let works (u : State) (q : BnPend) : State := Onward (u.setBne k { y with run := some q }) c (fun z => z)
    (OwnsBne s c n →
    (let o := 4 * y.ptrPos
     let count := v.toNat / 4 % 2 ^ 16
     let span := if v.getLsbD 1 then 8 * ((count + 7) / 8) else count
     (y.slot i).on = true → 0 < count → o + span ≤ 8 * (y.slot i).len →
      (∀ b, v.getLsbD 0 = false → x.input = some b →
        let got := slice b (s.core c).inOfs count
        Runs (.bnXfer c n v dma) s (fun t =>
          let z := t.bne k
          z.bytes i = old.take o ++ (if v.getLsbD 1 then fit span got.reverse else got) ++ old.drop (o + span) ∧
          z.ptrPos = y.ptrPos + (count + 3) / 4 ∧ (t.core c).inOfs = ((s.core c).inOfs + count) % 2 ^ 32 ∧
          (z.slot i).storable = false ∧
          (z.slot i).label = (if (y.slot i).label = .p ∨ (o = 0 ∧ span = 8 * (y.slot i).len) then .p else .k))) ∧
      (v.getLsbD 0 = true → ((y.slot i).label = .p ∨ (y.slot i).label = .c) →
        let raw := slice old o span
        let bs := if v.getLsbD 1 then (raw.take count).reverse else raw
        let o := (s.core c).outOfs
        let next (t : State) : Prop :=
          (t.bne k).mem = y.mem ∧ (t.bne k).ptrPos = y.ptrPos + (count + 3) / 4 ∧ (t.core c).outOfs = (o + count) % 2 ^ 32
        (x.desc.outCap < o + count → Runs (.bnXfer c n v dma) s (fun t =>
          next t ∧ (t.request c).out = x.out ∧ (t.request c).outOver = max x.outOver (o + count))) ∧
        (o + count ≤ x.desc.outCap → ((o + count ≤ 96 ∧ x.func ≠ 0) ∨ stagePlace x = none) → Runs (.bnXfer c n v dma) s (fun t =>
          next t ∧ ∀ a, Map.get 0 (t.request c).out a =
            if o ≤ a ∧ a < o + count then bs.getD (a - o) 0 else Map.get 0 x.out a)) ∧
        ∃ u, AtPort s c u ∧ (stageDenied s x o bs = none → exec (.bnXfer c n v dma) s =
          done (Onward ((stageOutput u (s.core c).entry o bs).setBne k { y with ptrPos := y.ptrPos + (count + 3) / 4 }) c
            (fun z => { z with outOfs := (o + count) % 2 ^ 32 }))) ∧
          ∀ a, stageDenied s x o bs = some a → exec (.bnXfer c n v dma) s = done (faultCtx (recordDenial u .tu a true) c)) ∧
      (v.getLsbD 0 = true → (y.slot i).label ≠ .p → (y.slot i).label ≠ .c →
        ∃ u, AtPort s c u ∧ exec (.bnXfer c n v dma) s = done (portError u c))) ∧
    (let pos := v.toNat % 4
     let first := v.toNat / 4 % 16
     let h := x.desc.handle pos
     let snap := if x.snap.isSome then x.snap else some (BitVec.ofNat 64 s.time.ntime, s.time.valid)
     (y.closed = true → ∃ u, AtPort s c u ∧ exec (.bnKey c n v) s = done (faultCtx (latchSnap u (s.core c).entry) c)) ∧
     (y.closed = false → h = 0 → Runs (.bnKey c n v) s (fun t => t.bne k = { y with run := some { status := St.keyNotFound } })) ∧
     (y.closed = false → h ≠ 0 → (recLoc (s.part p) (handleIdx h)).isSome = true → handlePart h = p → recGate s .bne p (handleIdx h) false = false →
       ∃ u, AtPort s c u ∧ exec (.bnKey c n v) s =
         done (faultCtx (recordDenial (latchSnap u (s.core c).entry) .bne (recAddr s p (handleIdx h)) false) c)) ∧
     (y.closed = false → h ≠ 0 → recGate s .bne p (handleIdx h) false = true → keyUnread s p h ≠ [] → ∃ u, AtPort s c u ∧
       exec (.bnKey c n v) s = done (holdReads (latchSnap u (s.core c).entry) (keyUnread s p h).eraseDups (ctxReader c))) ∧
     ∀ key, y.closed = false → recGate s .bne p (handleIdx h) false = true → keyUnread s p h = [] → recordKeyOf s p h = (St.ok, key) →
      bnKeyRole x.desc.fn.toNat pos key.usage key.mode key.alg = true → windowStatus key.nb key.na snap = St.ok →
      counterStatus s key.slotRef = St.ok → slotStatus s key.slotRef = St.ok →
      let ls := keyLayout key.alg key.bytes.length
      let start (j : Nat) : Nat := y.used + ((ls.take j).map (·.1)).sum
      start ls.length ≤ 8192 → (∀ j, j < ls.length → first + j < 16 ∧ (y.slot (first + j)).on = false) →
      let placed : List (Nat × BnSlot) := (List.range ls.length).map (fun j => (first + j, {
          on := true
          start := start j
          len := (ls.getD j (0, .p)).1
          label := (ls.getD j (0, .p)).2
          role := if j = 0 then (if key.usage = use2 "K3" then 0x0F else 0x0E) else 0
          alg := if j = 0 then key.alg else 0 }))
      Runs (.bnKey c n v) s (fun t => (t.entry (s.core c).entry).snap = snap ∧ t.bne k = { y with
        slots := placed.foldl (fun m w => Map.set {} m w.1 w.2) y.slots
        used := start ls.length
        run := some { status := St.ok, words := bnWords y.used key.bytes, slots := placed } })) ∧
    (let r := (s.core c).getS sa
     (r.label = .k → r.derived = false → (r.role = 0x10 ∨ r.role = 0x11) → (y.slot i).on = true → 4 * y.ptrPos + 16 ≤ 8 * (y.slot i).len →
      Runs (.bnSkey c n sa) s (fun t => let z := t.bne k
        z.bytes i = old.take (4 * y.ptrPos) ++ r.bytes ++ old.drop (4 * y.ptrPos + 16) ∧ z.ptrPos = y.ptrPos + 4 ∧
        (z.slot i).label = .k ∧ (z.slot i).role = r.role ∧ (z.slot i).storable = false)) ∧
     ((r.label ≠ .k ∨ r.derived = true ∨ (r.role ≠ 0x10 ∧ r.role ≠ 0x11)) →
      ∃ u, AtPort s c u ∧ exec (.bnSkey c n sa) s = done (faultCtx u c))) ∧
    (let a := v.toNat % 16
     (((y.slot a).storable = false ∨ (y.slot a).on = false ∨ x.recResv = none) →
       ∃ u, AtPort s c u ∧ exec (.bnStore c n v) s = done (faultCtx u c)) ∧
     ∀ b, x.input = some b → let spec := templateSpec (b.take 32)
      ∀ key, (y.slot a).on = true → (y.slot a).storable = true → x.recResv.isSome = true → storedKey y a spec.alg = some key →
      CanCreate s .bne p spec key → ∃ u h w, AtPort s c u ∧ createRecord u .bne p spec key = (St.ok, h, w) ∧
        exec (.bnStore c n v) s = done (works (w.modEntry (s.core c).entry (fun z => { z with recMade := true })) { status := St.ok, handle := h }))) ∧
    (∀ (e : Fin 48) (q0 q : BnPend) (w : State), let z := s.bne e
      let draws := ∃ code a m op, q0.draw = some (code, a, m) ∧ bnOpOf code a.param = some op ∧ bnJudge s e op a m = (some q, w)
      z.run = some q0 → ((q0.draw = none ∧ q = q0) ∨ (draws ∧ drbgServes s (barnOfBne e) = true)) →
      (q.bad = true → Runs (.bneOperationDone e) s (fun t =>
        (t.bne e).mem = z.mem ∧ (t.bne e).slots = z.slots ∧ (t.bne e).faults = noteTime z.faults s.tmr.now 3 ∧
        ∀ d, z.owner = some d → (s.request d).state = .reserved → (s.request d).accepted = true →
          (t.entry (s.core d).entry).state = .staged ∧ (t.entry (s.core d).entry).status = St.faultAlarm)) ∧
      (q.bad = false → q.words.Pairwise (fun a b => a.1 ≠ b.1) → q.slots.Pairwise (fun a b => a.1 ≠ b.1) →
      Runs (.bneOperationDone e) s (fun t =>
        (t.bne e).run = none ∧ (t.bne e).last = q.status ∧ (q.handle ≠ 0 → (t.bne e).handle = q.handle) ∧
        (∀ w ∈ q.words, Map.get 0 (t.bne e).mem w.1 = w.2) ∧
        (∀ a, (∀ w ∈ q.words, w.1 ≠ a) → Map.get 0 (t.bne e).mem a = Map.get 0 z.mem a) ∧
        (∀ w ∈ q.slots, (t.bne e).slot w.1 = w.2) ∧ (∀ a, (∀ w ∈ q.slots, w.1 ≠ a) → (t.bne e).slot a = z.slot a) ∧
        ∀ d, z.owner = some d → ((s.core d).wait = .bnWait ∨ (s.core d).wait = .bnBusy) → t.core d = { s.core d with wait := .none }))) ∧
    (∀ (e : Fin 48) (q : BnPend), (s.bne e).run = some q → q.draw.isSome = true → drbgServes s (barnOfBne e) = false →
      exec (.bneOperationDone e) s = done s)

/-- R204 to R207: the modular and long-integer primitives over integers of 4 to 256 words: results in the destination with the most restricted label
of the operands, OPERAND_RANGE for an operand not below the modulus, DEGENERATE for an even modulus. R205 to R207: point check, scalar multiplication
and the ring operations: the curve of param [1:0], the modulus of param [0]; a point off the curve gives POINT_INVALID; the point at infinity is all
zeros. -/
def Obligations.BigNumberPrimitivesPointsAndRings : Prop :=
  (∀ (s : State) (c : Fin 2048) (n : Fin 6) (x : BneArgs),
     let y := s.bne (bneOf c n)
     let L := (y.slot x.k).len
     let m := y.int x.k
     let a := y.int x.a
     let b := y.int x.b
     let put (w : Nat) (v : Nat) (l : Label) : List BnWrite := [{ slot := x.d, bytes := le (8 * w) v, label := l }]
     let lab := ((y.label x.a).max (y.label x.k)).max (y.label x.b)
     let three := [Instr.bneMmul c n x, .bneMadd c n x, .bneMsub c n x]
     (4 ≤ L → L ≤ 256 → (y.slot x.a).len = L → L ≤ (y.slot x.d).len →
       (BneReady s c n [x.a, x.b, x.k, x.d] → (y.slot x.b).len = L →
         (a < m → b < m → m % 2 = 1 →
           BneGives (.bneMmul c n x) s c n (put L (a * b % m) lab) ∧ BneGives (.bneMadd c n x) s c n (put L ((a + b) % m) lab) ∧
           BneGives (.bneMsub c n x) s c n (put L ((a + m - b) % m) lab)) ∧
         ((m ≤ a ∨ m ≤ b) → ∀ i ∈ three, BneEnds i s c n St.operandRange [x.d]) ∧
         (a < m → b < m → m % 2 = 0 → ∀ i ∈ three, BneEnds i s c n St.degenerate [x.d])) ∧
       (BneReady s c n [x.a, x.b, x.k, x.d] →
         (a < m → m % 2 = 1 → BneGives (.bneMexp c n x) s c n (put L (a ^ b % m) lab)) ∧
         (m ≤ a → BneEnds (.bneMexp c n x) s c n St.operandRange [x.d]) ∧
         (a < m → m % 2 = 0 → BneEnds (.bneMexp c n x) s c n St.degenerate [x.d])) ∧
       (BneReady s c n [x.a, x.k, x.d] →
         (a < m → m % 2 = 1 → BneGives (.bneMinv c n x) s c n (put L (a ^ (m - 2) % m) ((y.label x.a).max (y.label x.k)))) ∧
         (m ≤ a → BneEnds (.bneMinv c n x) s c n St.operandRange [x.d]) ∧
         (a < m → m % 2 = 0 → BneEnds (.bneMinv c n x) s c n St.degenerate [x.d]))) ∧
     (BneReady s c n [x.a, x.k, x.d] → 4 ≤ L → L ≤ 256 → (y.slot x.a).len ≤ 2 * L → L ≤ (y.slot x.d).len →
       (m % 2 = 1 → BneGives (.bneMred c n x) s c n (put L (a % m) ((y.label x.a).max (y.label x.k)))) ∧
       (m % 2 = 0 → BneEnds (.bneMred c n x) s c n St.degenerate [x.d])) ∧
     (let la := (y.slot x.a).len
      let lb := (y.slot x.b).len
      BneReady s c n [x.a, x.b, x.d] → 4 ≤ la → la ≤ 256 → 4 ≤ lb → lb ≤ 256 → la + lb ≤ (y.slot x.d).len →
       BneGives (.bneMul c n x) s c n (put (la + lb) (a * b) ((y.label x.a).max (y.label x.b)))) ∧
     (BneReady s c n [x.a, x.b, x.k, x.d] → ((y.slot x.a).len ≠ L ∨ (y.slot x.b).len ≠ L ∨ (y.slot x.d).len < L) →
       ∀ i ∈ three, ∃ u, AtPort s c u ∧ exec i s = done (faultCtx u c))) ∧
  (∀ (s : State) (c : Fin 2048) (n : Fin 6) (x : BneArgs),
     let y := s.bne (bneOf c n)
     let put (b : Bytes) (l : Label) : List BnWrite := [{ slot := x.d, bytes := b, label := l }]
     let both := (y.label x.a).max (y.label x.b)
     (∀ cv w, (x.param.toNat % 4, cv, w) ∈ [(0, Ec.p256, 4), (1, Ec.p384, 6), (2, Ec.p521, 9)] →
       let infinity : Bytes := List.replicate (16 * w) 0
       let bytesOf (q : Ec.Pt) : Bytes := match q with
         | none => infinity
         | some (px, py) => le (8 * w) px ++ le (8 * w) py
       let px := ofLe ((y.bytes x.a).take (8 * w))
       let py := ofLe (((y.bytes x.a).drop (8 * w)).take (8 * w))
       let valid := (px ≠ 0 ∨ py ≠ 0) ∧ Ec.onCurve cv px py = true
       (BneReady s c n [x.a] → 2 * w ≤ (y.slot x.a).len →
         (valid → BneGives (.bnePcheck c n x) s c n []) ∧ (¬valid → BneEnds (.bnePcheck c n x) s c n St.pointInvalid [])) ∧
       (BneReady s c n [x.a, x.b, x.d] → 2 * w ≤ (y.slot x.a).len → 2 * w ≤ (y.slot x.d).len →
         (valid → BneGives (.bneSmul c n x) s c n (put (bytesOf (Ec.smul cv (y.int x.b) (some (px, py)))) both)) ∧
         (¬valid → BneEnds (.bneSmul c n x) s c n St.pointInvalid [x.d])) ∧
       (BneReady s c n [x.b, x.d] → 2 * w ≤ (y.slot x.d).len →
         BneGives (.bneSmulg c n x) s c n (put (bytesOf (Ec.smul cv (y.int x.b) (Ec.base cv))) (y.label x.b)))) ∧
     (let big := x.param.getLsbD 0
      let q := if big then 8380417 else 3329
      let polys (i : Fin 16) : List (List Nat) := (chunks 1024 (y.bytes i)).map (fun p => (chunks 4 p).map (fun w => ofLe w % q))
      let out (ps : List (List Nat)) (l : Label) : List BnWrite := put (ps.flatMap (fun p => p.flatMap (le 4))) l
      (y.slot x.a).len ≠ 0 → (y.slot x.a).len % 128 = 0 →
       (BneReady s c n [x.a, x.d] →
         (BneFits y (out ((polys x.a).map (if big then Ring.nttD else Ring.nttK)) (y.label x.a)) →
           BneGives (.bneNtt c n x) s c n (out ((polys x.a).map (if big then Ring.nttD else Ring.nttK)) (y.label x.a))) ∧
         (BneFits y (out ((polys x.a).map (if big then Ring.inttD else Ring.inttK)) (y.label x.a)) →
           BneGives (.bneIntt c n x) s c n (out ((polys x.a).map (if big then Ring.inttD else Ring.inttK)) (y.label x.a)))) ∧
       (BneReady s c n [x.a, x.b, x.d] → (y.slot x.b).len = (y.slot x.a).len →
         ∀ i f, (i, f) ∈ [(Instr.bnePmul c n x, if big then Ring.mulD else Ring.mulK), (.bnePadd c n x, Ring.addP q),
             (.bnePsub c n x, Ring.subP q)] →
           BneFits y (out (List.zipWith f (polys x.a) (polys x.b)) both) →
           BneGives i s c n (out (List.zipWith f (polys x.a) (polys x.b)) both))))

/-- R204 to R206: signatures, verification, agreement, hashes and MACs inside the engine: a key slot needs its role; a signature has label C, a shared
key label K and storable, a digest label P. R208: an RSA signature is checked with the public exponent before it is written. -/
def Obligations.BigNumberSignatures : Prop :=
  ∀ (s : State) (c : Fin 2048) (n : Fin 6) (x : BneArgs) (msg dg : Bytes) (h : Hash.Alg),
    let y := s.bne (bneOf c n)
    let put (b : Bytes) (l : Label) : List BnWrite := [{ slot := x.d, bytes := b, label := l }]
    let key (role : Byte) (ok : Byte → Bool) : Prop := (y.slot x.k).role = role ∧ ok (y.slot x.k).alg = true
    let barn := barnOfCtx c
    let result (i : Instr) (st : Status) : Prop := (st = St.ok → BneGives i s c n []) ∧ (st ≠ St.ok → BneEnds i s c n st [])
    let opens (sig : Bytes) : Bool :=
      rsaOpens (y.int x.k) (y.int (x.k.val + 1)) (8 * (y.slot x.k).len) (ofLe sig) h (x.param.getLsbD 6) dg [y.word0 x.b]
    (BneMessage s c n x.a msg → BneDigest x.param h msg dg →
      (BneReady s c n [x.k, x.d] → key 0x0E (· == Alg.rsa) →
        (∀ sig, x.param.getLsbD 6 = false → rsaSignDigest (y.group x.k 7) h false dg [] = some sig →
          BneFits y (put (le (8 * (y.slot x.k).len) (ofBe sig)) .c) →
          BneGivesFrom (.bneRsaSign c n x) s c n (fun u => u) (fun _ => put (le (8 * (y.slot x.k).len) (ofBe sig)) .c)
            (fun _ => !opens (le (8 * (y.slot x.k).len) (ofBe sig)))) ∧
        (x.param.getLsbD 6 = false → rsaSignDigest (y.group x.k 7) h false dg [] = none → (y.slot x.k).len ≤ (y.slot x.d).len →
          BneEnds (.bneRsaSign c n x) s c n St.degenerate [x.d])) ∧
      (BneReady s c n [x.b, x.k, x.d] → key 0x0E (· == Alg.rsa) → x.param.getLsbD 6 = true →
        let salt := y.word0 x.b
        (8 * (y.slot x.k).len < salt → (y.slot x.k).len ≤ (y.slot x.d).len → BneEnds (.bneRsaSign c n x) s c n St.degenerate [x.d]) ∧
        (∀ sig, salt ≤ 8 * (y.slot x.k).len → rsaSignDigest (y.group x.k 7) h true dg (drbgGen s barn salt).1 = some sig →
          let out := le (8 * (y.slot x.k).len) (ofBe sig)
          BneFits y (put out .c) →
          (drbgServes s barn = true → BneGivesFrom (.bneRsaSign c n x) s c n (fun u => (drbgGen u barn salt).2) (fun _ => put out .c)
            (fun _ => !opens out)) ∧
          (drbgServes s barn = false → BneStarves (.bneRsaSign c n x) s c n (0x20, x, msg) [x.d]))) ∧
      (∀ cv, BneReady s c n [x.k, x.d] → key 0x0E Alg.isEcc → curveOf (y.slot x.k).alg = some cv →
        2 * curveWords cv ≤ (y.slot x.d).len →
        (drbgServes s barn = true →
          let r (u : State) := ecdsaSign cv (y.int x.k) dg 4 u barn
          BneGivesFrom (.bneEcdsaSign c n x) s c n (fun u => (r u).2)
            (fun u => put (le (8 * curveWords cv) (r u).1.1 ++ le (8 * curveWords cv) (r u).1.2) .c)) ∧
        (drbgServes s barn = false → BneStarves (.bneEcdsaSign c n x) s c n (0x22, x, msg) [x.d])) ∧
      (∀ cv, BneReady s c n [x.b, x.k, x.d] → ((y.slot x.d).len, cv) ∈ [(4, Ec.p256), (6, Ec.p384), (9, Ec.p521)] →
        let w := curveWords cv
        2 * w ≤ (y.slot x.k).len → 2 * w ≤ (y.slot x.b).len →
        result (.bneEcdsaVerify c n x) (match wordsPoint cv (y.bytes x.k) with
          | none => St.pointInvalid
          | some q => if Ec.verify cv (some q) (ofLe ((y.bytes x.b).take (8 * w))) (ofLe (((y.bytes x.b).drop (8 * w)).take (8 * w))) dg
              then St.ok else St.signatureInvalid))) ∧
    (BneMessage s c n x.b msg → BneDigest x.param h msg dg → BneReady s c n [x.a, x.k] → (y.slot (x.k.val + 1)).on = true →
      let m := y.int x.k
      let e := y.int (x.k.val + 1)
      let sig := y.int x.a
      result (.bneRsaVerify c n x) (if m % 2 = 0 ∨ e % 2 = 0 ∨ e < 3 then St.badFormat else if sig = 0 ∨ m ≤ sig then St.degenerate
        else if rsaOpens m e (8 * (y.slot x.k).len) sig h (x.param.getLsbD 6) dg (List.range 65) then St.ok else St.signatureInvalid)) ∧
    (∀ cv, BneReady s c n [x.a, x.b, x.k, x.d] → key 0x0F Alg.isEcc → curveOf (y.slot x.k).alg = some cv →
      2 * curveWords cv ≤ (y.slot x.a).len → x.param.toNat ∈ [16, 24, 32, 64] → x.param.toNat ≤ 8 * (y.slot x.d).len →
      (wordsPoint cv (y.bytes x.a) = none → BneEnds (.bneEcdh c n x) s c n St.pointInvalid [x.d]) ∧
      (∀ p, wordsPoint cv (y.bytes x.a) = some p →
        (Ec.smul cv (y.int x.k) (some p) = none → BneEnds (.bneEcdh c n x) s c n St.degenerate [x.d]) ∧
        (∀ z, Ec.smul cv (y.int x.k) (some p) = some z → let w : BnWrite := {
            slot := x.d
            bytes := Hash.oneStep .sha256 (be cv.len z.1) (y.bytes x.b) x.param.toNat
            label := .k
            storable := true
            alg := sharedAlg (x.param.toNat / 8) }
          BneFits y [w] → BneGives (.bneEcdh c n x) s c n [w]))) ∧
    (BneMessage s c n x.a msg →
      (let out := put (Ed.sign (y.int x.k) (y.bytes (x.k.val + 1)) (y.bytes (x.k.val + 2)) msg) .c
       BneReady s c n [x.k, x.d] → key 0x0E (· == Alg.ed25519) → BneFits y out → BneGives (.bneEd25519Sign c n x) s c n out) ∧
      (BneReady s c n [x.b, x.k] → 4 ≤ (y.slot x.k).len → 8 ≤ (y.slot x.b).len →
        let pk := (y.bytes x.k).take 32
        let sig := (y.bytes x.b).take 64
        result (.bneEd25519Verify c n x) (if (Ed.decode pk).isNone then St.pointInvalid
          else if Ed.canonical (sig.take 32) = true ∧ Ed.verify pk sig msg = true then St.ok else St.signatureInvalid)) ∧
      (∀ g, Hash.ofByte (x.param.toNat % 32) = some g →
        (BneReady s c n [x.d] → x.param.getLsbD 5 = false → BneFits y (put (Hash.hash g msg) .p) →
          BneGives (.bneHash c n x) s c n (put (Hash.hash g msg) .p)) ∧
        (BneReady s c n [x.b, x.d] → x.param.getLsbD 5 = true → Hash.isSha2 g = true →
          let w := if Hash.blockBytes g = 64 then 4 else 8
          let out := put (Hash.finishMd g ((chunks w (slice (y.bytes x.b) 8 (Hash.stateBytes g))).map ofBe) (y.word0 x.b) msg) .p
          BneFits y out → BneGives (.bneHash c n x) s c n out) ∧
        (BneReady s c n [x.b, x.k, x.d] → (y.slot x.k).role = 0x10 →
          let tag := (Hash.hmac g (y.bytes x.k) msg).take (y.word0 x.b % 256)
          BneFits y (put tag .c) → BneGives (.bneHmac c n x) s c n (put tag .c)) ∧
        (BneReady s c n [x.b, x.k] → (y.slot x.k).role = 0x11 →
          let len := y.word0 x.b % 256
          let tag := (Hash.hmac g (y.bytes x.k) msg).take len
          result (.bneHmac c n x) (if tag.length = len ∧ tag = slice (y.bytes x.b) 8 len then St.ok else St.macMismatch)))) ∧
    (BneMessage s c n x.a msg → BneDigest x.param h msg dg → BneReady s c n [x.k, x.d] → (y.slot x.k).role ≠ 0x0E →
      x.param.getLsbD 6 = false → ∃ u, AtPort s c u ∧ exec (.bneRsaSign c n x) s = done (faultCtx u c))

/-- R205, R206: key generation, and the lattice operations: a generated key goes to the slots of R201, its private parts storable with label K; an
encapsulation key that fails the modulus check gives OPERAND_RANGE. R69, R208: each that draws waits in the engine while the DRBG does not serve; a
new RSA or ML-DSA key is tested with a random value, and an ML-DSA signature is verified, before anything is written. -/
def Obligations.BigNumberKeysAndLattices : Prop :=
  ∀ (s : State) (c : Fin 2048) (n : Fin 6) (x : BneArgs) (msg : Bytes),
    let y := s.bne (bneOf c n)
    let barn := barnOfCtx c
    let big := x.param.getLsbD 0
    let after (i : Instr) (code : Nat) (m : Bytes) (D : State → State) (ws : State → List BnWrite) (bad : State → Bool) : Prop :=
      (drbgServes s barn = true → BneGivesFrom i s c n D ws bad) ∧
      (drbgServes s barn = false → BneStarves i s c n (code, x, m) ((ws s).map (·.slot)))
    let room (ls : List Nat) : Prop := ∀ j, j < ls.length → (y.slot (x.d + j)).on = true ∧ ls.getD j 0 ≤ (y.slot (x.d + j)).len
    let sure (_ : State) : Bool := false
    let part (key : Bytes) (alg : Byte) (j : Nat) : Bytes := (keyParts alg key).getD j []
    let keyAt (alg : Byte) (key : Bytes) : List BnWrite :=
      let ls := keyLayout alg key.length
      (List.range ls.length).map (fun j => {
        slot := x.d + j
        bytes := (keyParts alg key).getD j []
        label := (ls.getD j (0, .p)).2
        storable := decide (j = 0) || decide ((ls.getD j (0, .p)).2 = .k)
        alg := if j = 0 then alg else 0 })
    ((∀ alg, (x.param.toNat % 4, alg) ∈ [(0, Alg.p256), (1, Alg.p384), (2, Alg.p521), (3, Alg.ed25519)] → BneReady s c n [x.d] →
        room ((keyLayout alg 0).map (·.1)) →
        let g (u : State) := generateKey u barn alg 0 0
        after (.bneEcKeygen c n x) 0x27 [] (fun u => (g u).2.2) (fun u => keyAt alg (g u).1) sure) ∧
      (let bits := y.word0 x.a
       let e := y.word0 x.b
       BneReady s c n [x.a, x.b, x.d] → 2048 ≤ bits → bits ≤ 16384 → bits % 64 = 0 → e % 2 = 1 → 65537 ≤ e →
        let h := (bits / 8 + 15) / 16
        room [bits / 64, 1, h, h, h, h, h] →
        let g (u : State) := generateKey u barn Alg.rsa bits e
        let test (u : State) := (g u).2.2.draw 64
        after (.bneRsaKeygen c n x) 0x28 [] (fun u => (test u).2) (fun u => keyAt Alg.rsa (g u).1) (fun u =>
          let v (j : Nat) : Nat := ofLe (part (g u).1 Alg.rsa j)
          let m := (test u).1.toNat % v 0
          !(Num.powMod (Rsa.crt m (v 2) (v 3) (v 4) (v 5) (v 6)) (v 1) (v 0) == m))) ∧
      (BneReady s c n [x.d] →
        (let alg := if big then Alg.mlkem1024 else Alg.mlkem768
         let g (u : State) := generateKey u barn alg 0 0
         let ws (u : State) : List BnWrite := keyAt alg (g u).1 ++ [{ slot := x.d + 1, bytes := (g u).2.1, label := .p }]
         BneFits y (ws s) → after (.bneMlkemKeygen c n x) 0x30 [] (fun u => (g u).2.2) ws sure) ∧
        (let alg := if big then Alg.mldsa87 else Alg.mldsa65
         let g (u : State) := generateKey u barn alg 0 0
         let test (u : State) := (g u).2.2.draw 64
         room ((keyLayout alg 0).map (·.1)) →
         after (.bneMldsaKeygen c n x) 0x33 [] (fun u => (test u).2) (fun u => keyAt alg (g u).1) (fun u =>
           let par := MlDsa.par big
           let mu := fit 64 (le 64 (test u).1.toNat)
           !MlDsa.verify par (part (g u).1 alg 1) (MlDsa.sign par (part (g u).1 alg 0) mu (zeros 32)) mu))) ∧
      (let par := MlKem.par big
       let ek := (y.bytes x.a).take (if big then 1568 else 1184)
       BneReady s c n [x.a, x.d] →
        (MlKem.ekOk par ek = true →
          let g (u : State) := MlKem.encaps par ek (drbgGen u barn 32).1
          let ws (u : State) : List BnWrite :=
            [{ slot := x.d, bytes := (g u).2, label := .c },
             { slot := x.d + 1, bytes := (g u).1, label := .k, storable := true, alg := sharedAlg 4 }]
          BneFits y (ws s) → after (.bneMlkemEncaps c n x) 0x31 [] (fun u => (drbgGen u barn 32).2) ws sure) ∧
        (MlKem.ekOk par ek = false → (y.slot (x.d + 1)).on = true → (if big then 196 else 136) ≤ (y.slot x.d).len →
          4 ≤ (y.slot (x.d + 1)).len → BneEnds (.bneMlkemEncaps c n x) s c n St.operandRange [x.d, x.d + 1])) ∧
      (let p87 := (y.slot x.k).alg == Alg.mldsa87
       let mu := if x.param.getLsbD 5 then fit 64 msg
         else MlDsa.mu (MlDsa.trOf ((y.bytes (x.k.val + 1)).take (if p87 then 2592 else 1952))) (y.bytes x.b) msg
       BneMessage s c n x.a msg → BneReady s c n (if x.param.getLsbD 5 then [x.k, x.d] else [x.b, x.k, x.d]) → (y.slot x.k).role = 0x0E →
       Alg.isMldsa (y.slot x.k).alg = true →
        let sig (u : State) : Bytes := MlDsa.sign (MlDsa.par p87) (y.bytes x.k) mu (drbgGen u barn 32).1
        let ws (u : State) : List BnWrite := [{ slot := x.d, bytes := sig u, label := .c }]
        let pk := (y.bytes (x.k.val + 1)).take (if p87 then 2592 else 1952)
        BneFits y (ws s) → after (.bneMldsaSign c n x) 0x34 msg (fun u => (drbgGen u barn 32).2) ws
          (fun u => !MlDsa.verify (MlDsa.par p87) pk (sig u) mu))) ∧
    (OwnsBne s c n → (∀ i ∈ [x.a, x.b, x.k, x.d], (y.slot i).on = true) → x.a ≠ 15 → (readUnits s (bneFlips s (bneOf c n))).1 = true →
      (s.request c).state = .reserved → (s.request c).accepted = true →
      ∀ i ∈ [Instr.bneMmul c n x, .bneEcKeygen c n x, .bneMldsaSign c n x], Runs i s (fun t =>
        (t.entry (s.core c).entry).state = .staged ∧ (t.entry (s.core c).entry).status = St.faultAlarm ∧
        (t.bne (bneOf c n)).faults = noteTime y.faults s.tmr.now 3)) ∧
    (let kbig := (y.slot x.k).alg == Alg.mlkem1024
     BneReady s c n [x.a, x.k, x.d] → (y.slot x.k).role = 0x0F → Alg.isMlkem (y.slot x.k).alg = true →
      (if kbig then 1568 else 1088) ≤ 8 * (y.slot x.a).len →
      let w : BnWrite := {
        slot := x.d
        bytes := MlKem.decaps (MlKem.par kbig) (y.bytes x.k) ((y.bytes x.a).take (if kbig then 1568 else 1088))
        label := .k
        storable := true
        alg := sharedAlg 4 }
      BneFits y [w] → BneGives (.bneMlkemDecaps c n x) s c n [w]) ∧
    (BneMessage s c n x.a msg → BneReady s c n [x.b, x.k, x.d] →
      let pk := (y.bytes x.k).take (if big then 2592 else 1952)
      let mu := if x.param.getLsbD 5 then fit 64 msg else MlDsa.mu (MlDsa.trOf pk) (y.bytes x.b) msg
      let ok := MlDsa.verify (MlDsa.par big) pk (slice (y.bytes x.d) 0 (if big then 4627 else 3309)) mu
      (ok = true → BneGives (.bneMldsaVerify c n x) s c n []) ∧
      (ok = false → BneEnds (.bneMldsaVerify c n x) s c n St.signatureInvalid []))

/-! ### Registers, microprogram banks and the random-number chain (20_register_map.md, 05_transaction_units.md, 10_winnower_rng.md) -/

/-- R3, R345, R417, R419: a write that arrives sets LOCK, clears a latched error, sets INT_RAW bits in TEST only, clears a page's performance counters
and no event counter; an RW register takes the word, a W1C register loses the bits written 1, a locked RWL register keeps its value; 8 bytes from the
host are two words; a narrower host write is discarded with error 0x0002. R347, R424: at a die out of service nothing is written, nor, by any but a
warden, at one that is power-gated. -/
def Obligations.RegisterWrites : Prop :=
  ∀ (s : State) (t : RegTarget) (v : Word),
    (Arrives s t true →
      (∀ b, placeOf t = .blk b 0x018 →
        exec (.lockWrite t v) s = done (s.setReg (b.page + 0x018) (s.reg (b.page + 0x018) ||| (v &&& 1)))) ∧
      (∀ page, placeOf t = .gate page 0x018 → v.getLsbD 0 = true →
        exec (.lockWrite t v) s = done (s.setGate page { s.gate page with lock := true })) ∧
      (∀ page b, (placeOf t = .gate page 0x038 ∨ (placeOf t = .blk b 0x038 ∧ page = b.page)) → v.getLsbD 0 = true →
        exec (.errClrWrite t v) s = done ((s.setReg (page + 0x30) 0).setReg (page + 0x34) 0)) ∧
      (∀ page b, (placeOf t = .gate page 0x02C ∨ (placeOf t = .blk b 0x02C ∧ page = b.page)) →
        (lcCode s = lcTest → Runs (.intSetWrite t v) s (fun u => u.reg (page + 0x20) = s.reg (page + 0x20) ||| v ∧
          ∀ a, a ≠ page + 0x20 → u.reg a = s.reg a)) ∧
        (lcCode s ≠ lcTest → exec (.intSetWrite t v) s = done s)) ∧
      (∀ b, placeOf t = .blk b 0x010 → v.getLsbD 1 = true → Runs (.cntClear t v) s (fun u =>
        u.reg (b.page + 0x010) = v &&& 1 ∧
        (∀ o ∈ b.perfs, u.reg (b.page + o) = 0 ∧ u.reg (b.page + o + 4) = 0) ∧
        ∀ a, a ≠ b.page + 0x010 → (∀ o ∈ b.perfs, a ≠ b.page + o ∧ a ≠ b.page + o + 4) → u.reg a = s.reg a)) ∧
      (let w : BitVec 64 := v.setWidth 64
       (∀ b, placeOf t = .blk b 0x024 → Runs (.registerWrite t 4 w) s (fun u => u.reg (b.page + 0x24) = v ∧
         ∀ a, a ≠ b.page + 0x24 → u.reg a = s.reg a)) ∧
       (∀ b, placeOf t = .blk b 0x020 → Runs (.registerWrite t 4 w) s (fun u => u.reg (b.page + 0x20) = s.reg (b.page + 0x20) &&& ~~~v ∧
         ∀ a, a ≠ b.page + 0x20 → u.reg a = s.reg a)) ∧
       (∀ k, placeOf t = .blk (.barn k) 0x080 → let a := barnPage k + 0x080
         ((s.reg (barnPage k + 0x018)).getLsbD 0 = true → exec (.registerWrite t 4 w) s = done s) ∧
         ((s.reg (barnPage k + 0x018)).getLsbD 0 = false → exec (.registerWrite t 4 w) s = done (s.setReg a (BitVec.ofNat 32
           (if 100 ≤ v.toNat % 2 ^ 15 ∧ v.toNat % 2 ^ 15 ≤ 16000 then v.toNat % 2 ^ 15 else 2000))))) ∧
       (∀ p, placeOf t = .part p 0x084 → exec (.registerWrite t 4 w) s = done (s.setPart p { s.part p with
         weight := max 1 (v.toNat % 256)
         urgentMax := v.toNat / 256 % 256 })) ∧
       (∀ f n, n < 64 → placeOf t = .msix f (16 * n + 8) → exec (.registerWrite t 4 w) s = done (s.setMsix f n { s.msix f n with data := v })) ∧
       ((placeOf t = .hole ∨ placeOf t = .unmapped ∨ (∃ o, placeOf t = .record o)) → exec (.registerWrite t 4 w) s = done s))) ∧
    (targetAddr t % 4 ≠ 0 → exec (.registerWrite t 4 (v.setWidth 64)) s = done s) ∧
    (∀ c a, t = .sys c a → (dieAnswers s a.toNat = false ∨ (dieGated s a.toNat = true ∧ c ≠ .warden)) →
      exec (.registerWrite t 4 (v.setWidth 64)) s = done s) ∧
    (∀ (o : BitVec 12) (x : BitVec 64) n, s.boot.pfEnabled = true → n < 64 → o.toNat = 16 * n →
      Runs (.registerWrite (.pfBar2 o) 8 x) s (fun u => u.msix 0 n = { s.msix 0 n with addr := x } ∧
        ∀ m, m < 64 → m ≠ n → u.msix 0 m = s.msix 0 m)) ∧
    (fromHost t = true → reachable s t = true → (s.reg (hifPage + 0x30)).getLsbD 31 = false → ∀ size, (size = 1 ∨ size = 2) →
      ∀ x, Runs (.registerWrite t size x) s (fun u => u.reg (hifPage + 0x30) = 0x80000002 ∧ (u.reg (hifPage + 0x20)).getLsbD 30 = true ∧
        ∀ a, a ≠ hifPage + 0x20 → a ≠ hifPage + 0x30 → a ≠ hifPage + 0x34 → u.reg a = s.reg a))

/-- R156, R157: the loader accepts a bank of the booted set whose checks pass and extends its slot's measurement, and reports the first failing check
of one that does not; a window goes EMPTY, LOADING, RESIDENT, DRAINING and back to EMPTY when its groups have ended. -/
def Obligations.MicroprogramBanks : Prop :=
  ∀ (s : State) (idx : Fin 64) (k : Fin 32) (n : Fin 4),
    let w := s.window k n
    let sets (x : Window) : Host.Outcome State Fault Refusal := done (s.setWindow k n x)
    (∀ b, (bootedBank s).banks[idx.val]? = some b → s.boot.phase = .firmware → s.ldr.accepted < 64 →
      (∀ off, BankImage.judge s b = (0, off) → Runs (.loaderCheckDone idx) s (fun t =>
        let x := Map.get {} t.ldr.banks s.ldr.accepted
        t.ldr.accepted = s.ldr.accepted + 1 ∧ t.ldr.ok = true ∧ t.ldr.busy = false ∧ t.ldr.reason = 0 ∧
        x.ok = true ∧ x.code = slice b (64 + 16 * fieldLe b 20 2) (fieldLe b 16 4) ∧ x.fns.length = fieldLe b 20 2 ∧
        (s.grn.frozen = false → t.meas (2 + fieldLe b 6 1 % 4) =
          digest384 (Hash.sha384 (digestBytes (s.meas (2 + fieldLe b 6 1 % 4)) ++ signedDigest b))) ∧
        ∀ j, j ≠ 2 + fieldLe b 6 1 % 4 → t.meas j = s.meas j)) ∧
      (∀ r off, BankImage.judge s b = (r, off) → r ≠ 0 → exec (.loaderCheckDone idx) s =
        done { s with ldr := { s.ldr with busy := false, ok := false, reason := r, offset := off } })) ∧
    (∀ b, (w.state = 0 → exec (.stkBankLoading k n b) s = sets { state := 1, bank := b }) ∧
      (w.state ≠ 0 → exec (.stkBankLoading k n b) s = done s)) ∧
    (w.state = 2 → exec (.stkBankDraining k n) s = sets { w with state := 3 }) ∧
    (w.state = 1 → (let b := Map.get {} s.ldr.banks w.bank
      (b.ok = true → exec (.bankCopyDone k n true) s = sets {
        state := 2
        slot := b.slot
        bank := w.bank
        fnCount := b.fns.length
        secVer := b.secVer
        code := b.code }) ∧
      exec (.bankCopyDone k n false) s = sets { bank := w.bank })) ∧
    (w.state = 3 → Map.wf {} s.entries = true → (∀ e, (s.entry e).group ≠ [] → stookOfCtx (s.entry e).lead = k → (s.entry e).window ≠ n) → exec (.bankDrainDone k n) s = sets { bank := w.bank }) ∧
    (w.state = 3 → (∃ e, (s.entry e).group ≠ [] ∧ stookOfCtx (s.entry e).lead = k ∧ (s.entry e).window = n) → exec (.bankDrainDone k n) s = done s)

/-- R135, R242 to R248: the chain starts when the 4,096 samples of 4 sources have passed, and instantiates the DRBGs in order as blocks form; with
fewer, or after a failed known-answer test, it stops, and a boot stalls with reason 0x07; a reseed absorbs two blocks, and equal blocks stop the chain
until reset; a source that fails a continuous test is excluded, its bits and every undelivered block are discarded, and it is dead at its fourth
failure; fewer than 4 healthy sources stop the chain, and it returns when 4 are healthy again. R240, R241: only the bits of healthy sources shift into
the compressor. R69, R205, R250, R252, R308: a wait for random output that reaches its limit ends with RNG_UNAVAILABLE, or the nonce request with its
error; test mode starts only in TEST and ANALYSIS, delivers nothing, captures the tapped source, and ends in a restart from the start-up tests; a read
of the last word of WIN_RAND consumes it, and the Keep DRBG refills it. -/
def Obligations.RandomNumberChain : Prop :=
  (∀ (s : State) (start : List Samples) (raw : Raw) (v : Byte) (d : Fin 9) (src barn : Fin 8) (cond kat : Bool), keepRuns s = true →
     let x := s.source src
     let tick : Instr := .sourceHealthFail [] v
     let healthy := (List.range 8).filter (fun i => (s.source i).state == 1)
     (s.win.state = .starting →
       (4 ≤ passing s start → s.win.selfFail = false → ∃ u, exec (.winnowerStartupDone ⟨start, []⟩) s = done u ∧
         exec (.winnowerStartupDone ⟨start, raw⟩) s = done (takeRaw u raw) ∧
         u.win.state = .run ∧ u.win.seeding = [8, 0, 1, 2, 3, 4, 5, 6, 7] ∧ (∀ b, drbgServes u b = false) ∧
         ∀ n, n < 8 → (s.source n).state ≠ 3 →
           ((u.source n).state = 1 ↔ (startVerdict (s.source n) (start.getD n 0)).1 = none)) ∧
       ((kat = true ∨ passing s start < 4) → Runs (.winnowerStartupTimeout start kat) s (fun t =>
         t.win.state = .stopped ∧ t.win.selfFail = (s.win.selfFail || kat) ∧ t.win.stoppedOnce = true ∧
         t.dev.causes.getLsbD causeRng = true ∧
         (s.win.retest = false → t.boot.phase = .stall ∧ t.boot.stall = 7) ∧ (s.win.retest = true → t.boot.phase = s.boot.phase)))) ∧
     (dieUp s (barn / 4 + 1) = true → drbgServes s barn = true → Runs (.maskGeneratorReseed barn) s (fun t =>
       (t.barn barn).maskSeed = BitVec.ofNat 256 (ofBe (drbgGen s barn 32).1) ∧ (t.barn barn).maskDraws = 0)) ∧
     (drbgServes s barn = false → exec (.maskGeneratorReseed barn) s = done s) ∧
     (keepRuns (takeRaw s raw) = true →
       exec (.drbgReseed d raw cond kat) s = exec (.drbgReseed d [] cond kat) (takeRaw s raw) ∧
       exec (.sourceHealthFail raw v) s = exec (.sourceHealthFail [] v) (takeRaw s raw)) ∧
     (s.win.seeding = [] →
       ((winRuns s = false ∨ (s.drbg d).serving = false) → exec (.drbgReseed d [] cond kat) s = done s) ∧
       (winRuns s = true → (s.drbg d).serving = true →
         (∀ a b rest, s.win.blocks = a :: b :: rest → s.ofc.waiting = 0 → Runs (.drbgReseed d [] false false) s (fun t =>
           t.drbg d = { drbgUpdate (s.drbg d) (drbgDf (ofBlock a ++ ofBlock b)) with ctr := 0, overdue := false } ∧
           t.win.blocks = rest ∧ ∀ e, e ≠ d.val → t.drbg e = s.drbg e)) ∧
         (s.win.blocks.length < 2 → exec (.drbgReseed d [] false false) s = done s) ∧
         ((cond || kat) = true → Runs (.drbgReseed d [] cond kat) s ChainFailed))) ∧
     ((s.drbg d).serving = true → exec (.drbgReseedOverdue d) s = done (s.setDrbg d { s.drbg d with overdue := true })) ∧
     ((∀ n ∈ healthy, failsOn s v n = none) →
       (∀ n, n < 8 → Runs tick s (fun t => t.source n = (s.source n).take (v.getLsbD n))) ∧
       ((s.win.state = .run ∨ s.win.state = .testmode) → Runs tick s (fun t => t.win.lfsr = shifted healthy v s.win.lfsr) ∧
         ((compressInstant s v).repeats = true → Runs tick s ChainFailed)) ∧
       (winRuns s = true → (compressInstant s v).repeats = false →
         ((compressInstant s v).blocks.length < 4 ∨ s.win.seeding = [] → Runs tick s (fun t =>
           t.win = { compressInstant s v with src := t.win.src })) ∧
         (∀ i rest b0 b1 b2 b3, s.win.seeding = i :: rest → i ≤ 8 → (compressInstant s v).blocks = [b0, b1, b2, b3] → Runs tick s (fun t =>
           drbgServes t i = true ∧ t.win.seeding = rest ∧ t.win.blocks = [] ∧ (i = 8 → t.grn.recKey.isSome = true)))) ∧
       (s.win.state = .testmode → s.win.testTap = false →
         (s.win.capLen < 31 → Runs tick s (fun t => t.win.capLen = s.win.capLen + 1 ∧ t.win.fifo = s.win.fifo)) ∧
         (s.win.capLen = 31 → s.win.fifo.length < 16384 → Runs tick s (fun t => t.win.capLen = 0 ∧ t.win.fifo =
           s.win.fifo ++ [s.win.cap ||| ((BitVec.ofBool (v.getLsbD s.win.testSrc)).setWidth 32 <<< 31)])))) ∧
     (∀ rct, s.win.state = .run → x.state = 1 → failsOn s v src = some rct → (∀ n ∈ healthy, n ≠ src.val → failsOn s v n = none) →
       Runs tick s (fun t =>
         let y := t.source src
         y.state = (if 4 ≤ x.fails + 1 then 3 else 2) ∧ y.fails = min 4 (x.fails + 1) ∧
         y.rct = (if rct then min 1023 (x.rct + 1) else x.rct) ∧ y.apt = (if rct then x.apt else min 1023 (x.apt + 1)) ∧
         t.win.blocks = [] ∧ (∀ n, n < 8 → n ≠ src.val → (t.source n).state = (s.source n).state) ∧
         (healthy.length < 5 → t.win.state = .stopped ∧ t.win.lfsr = 0) ∧
         (5 ≤ healthy.length → t.win.state = .run ∧ t.win.lfsr = shifted (healthy.filter (· ≠ src.val)) v 0))) ∧
     (∀ samples, x.state = 2 → (∃ u, exec (.sourceRetest src samples []) s = done u ∧ exec (.sourceRetest src samples raw) s = done (takeRaw u raw)) ∧
       ((startVerdict x samples).1 = none → Runs (.sourceRetest src samples []) s (fun t =>
         (t.source src).state = 1 ∧ (t.source src).readmits = min 3 (x.readmits + 1) ∧
         (s.win.state = .stopped → s.win.selfFail = false → 3 ≤ healthy.length →
           t.win.state = .run ∧ t.win.seeding = [8, 0, 1, 2, 3, 4, 5, 6, 7] ∧ ∀ b, drbgServes t b = false))) ∧
       ((startVerdict x samples).1 ≠ none → Runs (.sourceRetest src samples []) s (fun t =>
         (t.source src).state = (if 4 ≤ x.fails + 1 then 3 else 2) ∧ t.win.lfsr = 0 ∧ t.win.blocks = []))) ∧
     (x.state ≠ 2 → ∀ samples, exec (.sourceRetest src samples []) s = done s)) ∧
  (∀ (s : State) (v : Word) (e : Fin 69632),
     (starvedBne s e = none →
       (waitsRandom s e = true → (s.entry e).accepted = true → Runs (.rngWaitTimeout (.request e)) s (fun t =>
         (t.entry e).state = .staged ∧ (t.entry e).status = St.rngUnavailable ∧ (t.entry e).out = [])) ∧
       (waitsRandom s e = false → exec (.rngWaitTimeout (.request e)) s = done s)) ∧
     (∀ k, starvedBne s e = some k → exec (.rngWaitTimeout (.request e)) s =
       done (s.setBne k { s.bne k with run := (s.bne k).run.map (fun p => { p with draw := none }) })) ∧
     (drbgServes s 8 = false →
       (s.ofc.waiting % 2 = 1 → exec (.rngWaitTimeout .mailbox) s = done { s with ofc := { s.ofc with
         waiting := s.ofc.waiting - 1
         ready := false
         err := true } }) ∧
       (s.ofc.waiting / 2 % 2 = 1 → exec (.rngWaitTimeout .debug) s =
         done { s with ofc := { s.ofc with waiting := s.ofc.waiting - 2 } })) ∧
     (keepRuns s = true → s.win.testEn = false → v.getLsbD 0 = true →
       ((lcCode s = lcTest ∨ lcCode s = lcAnalysis) → Runs (.winTestEnable v) s (fun t =>
         t.win.state = .testmode ∧ t.win.testEn = true ∧ t.win.testSrc = v.toNat / 2 % 8 ∧ t.win.testTap = v.getLsbD 4 ∧
         ∀ n, drbgServes t n = false)) ∧
       (lcCode s ≠ lcTest → lcCode s ≠ lcAnalysis → exec (.winTestEnable v) s = done s)) ∧
     (keepRuns s = true → s.win.testEn = true → v.getLsbD 0 = false → Runs (.winTestDisable v) s (fun t =>
       t.win.state = (if s.win.selfFail then .stopped else .starting) ∧ t.win.retest = true ∧ t.win.testEn = false ∧ t.win.drbg = [] ∧
       t.win.lfsr = 0 ∧ t.win.blocks = [] ∧ t.win.lastBlock = none)) ∧
     exec .winRawRead s = done { s with win := { s.win with fifo := s.win.fifo.drop 1 } } ∧
     exec .winRandRead s = done { s with win := { s.win with rand := [], randReady := false } } ∧
     (keepRuns s = true → drbgServes s 8 = true → s.win.randReady = false → Runs .winRandRefill s (fun t =>
       t.win.rand = (drbgGen s 8 16).1 ∧ t.win.randReady = true)))

/-! ### The granary between requests, and the HBM controllers (09_granary.md, 11_memory.md) -/

/-- R213, R222, R235, R236: the root's mask and a slot's masks are replaced and neither the root nor a wrapped key changes; a slot whose MRAM read is
uncorrectable, or whose MACs fail, is damaged, from the tick on that follows the final measurements; a snapshot refills every bucket, frees one that
no record references and that is full, and keeps the one before it. R270: a root that reads as uncorrectable counts as destroyed. -/
def Obligations.GranaryUpkeep : Prop :=
  ∀ (s : State),
    (s.pwr.rails = true → s.grn.present = true →
      ((readUnit s .bbram).1 ≠ .bad → Runs .rootMaskRefresh s (fun t =>
        t.grn = { s.grn with rootV := t.grn.rootV, rootM := t.grn.rootM } ∧
        t.grn.rootM = BitVec.ofNat 512 (ofBe (randomBytes s 64).1) ∧ t.grn.rootV ^^^ t.grn.rootM = s.grn.rootV ^^^ s.grn.rootM)) ∧
      ((readUnit s .bbram).1 = .bad → Runs .rootMaskRefresh s (fun t => t.grn.present = false ∧ t.grn.rootV = 0 ∧ t.grn.rootM = 0))) ∧
    ((s.pwr.rails = false ∨ (s.grn.present = false ∧ (readUnit s .bbram).1 = .good)) → exec .rootMaskRefresh s = done s) ∧
    (∀ (k : Fin 4096) (flips : List Flip), exec (.slotPeriodTick k flips) s = exec (.slotPeriodTick k []) (flipCells s flips)) ∧
    (∀ (k : Fin 4096), let x := s.slotAt k
      let masks := x.remask && drbgServes s 8
      let others (t : State) : Prop := ∀ j, j ≠ k.val → t.slotAt j = s.slotAt j
      ((keepRuns s = false ∨ s.grn.frozen = false ∨ x.live = false) → exec (.slotPeriodTick k []) s = done s) ∧
      (keepRuns s = true → s.grn.frozen = true → x.live = true →
        (masks = true → x.integrity = false → (readUnit s (.slot k)).1 ≠ .bad → Runs (.slotPeriodTick k []) s (fun t =>
          ∃ m0 m1 : BitVec 640,
            t.slotAt k = { x with
              copy0 := if x.copy0.state = 0 then x.copy0 else { x.copy0 with shareA := x.copy0.shareA ^^^ x.copy0.shareB ^^^ m0, shareB := m0 }
              copy1 := if x.copy1.state = 0 then x.copy1 else { x.copy1 with shareA := x.copy1.shareA ^^^ x.copy1.shareB ^^^ m1, shareB := m1 } } ∧
            m0 = BitVec.ofNat 640 (ofLe (drbgGen s 8 80).1) ∧ others t)) ∧
        (masks = false → (readUnit s (.slot k)).1 = .good → (x.integrity = true → slotIntact s k = true) →
          exec (.slotPeriodTick k []) s = done s) ∧
        (x.integrity = true → (readUnit s (.slot k)).1 ≠ .bad → Runs (.slotPeriodTick k []) s (fun t =>
          (t.slotAt k).damaged = (x.damaged || !slotIntact s k) ∧ (masks = false → t.slotAt k = { x with damaged := (t.slotAt k).damaged }) ∧
          others t)) ∧
        ((readUnit s (.slot k)).1 = .bad → Runs (.slotPeriodTick k []) s (fun t =>
          t.slotAt k = { x with damaged := true } ∧ others t)))) ∧
    (keepRuns s = true → Map.wf {} s.grn.buckets = true → Runs .bucketSnapshot s (fun t =>
      t.grn = { s.grn with buckets := t.grn.buckets, snapOld := s.grn.snap, snap := t.grn.buckets } ∧
      ∀ j, let b := s.bucket j
        let r := (refillBucket s j).bucket j
        t.bucket j = if b.on = false then b
          else if bucketLive s b.part b.fp = false ∧ r.tokens = (s.velPol b.part b.pol).cap then {} else r))

/-- R259 to R263, R265, R266: a held line that decodes again, after the rereads and with the dies whose probe failed treated as lost, is released
unpoisoned; else it is poisoned with the lines that its tags cover, and a request whose staged output is read from it ends with FAULT_ALARM. A merge
entry that times out is completed: its bytes over the stored line, once that decodes; on a poisoned line it is discarded. A finished fill leaves the
tracker. R262, R267, R268, R270: the gleaner reads the next line of a valid page in ascending order and begins again after the last; a line it cannot
decode is held; a row with a correction in an earlier pass is retired; a retired row is remapped and enters the history, and the 16th of a die marks
the die failed; an uncorrectable block of a valid bitmap makes its pages valid. -/
def Obligations.HbmControllers : Prop :=
  (∀ (s : State) (d : Fin 2) (line : Fin 268435456) (probe : BitVec 16) (left : List SymUpset) (ini : BitVec 4) (r : UeReader),
     let h := s.stack (d.val + 1)
     let now (t : State) : Hbm := t.stack (d.val + 1)
     let i : Instr := .hbmUeResolved d line probe left ini r
     let h1 := { Hbm.upsetCells (Hbm.restoreSymbols h line) (left.map (fun x => (line.val, x.1.val, x.2))) with failed := h.failed ||| probe }
     ((h.inService = false ∨ (line.val, r) ∉ h.held) → exec i s = done s) ∧
     (h.inService = true → (line.val, r) ∈ h.held → (∀ p ∈ s.entries, p.2.dogLate = false) → failedDies h1 ≤ 1 → Unhurried s h →
       (Hbm.blocking h1 line = [] → (line.val, .merge) ∉ h.held → Runs i s (fun t =>
         (now t).poison = h.poison ∧ (now t).held = h.held.filter (fun x => x.1 != line.val) ∧ (now t).lines = h.lines)) ∧
       (Hbm.blocking h1 line ≠ [] →
         ((line.val, .merge) ∉ h.held → (∀ e, (line.val, .staging e) ∉ h.held) → Runs i s (fun t =>
           (∀ l, Map.get false (now t).poison l = (decide (l ∈ coveredLines line) || Map.get false h.poison l)) ∧
           (now t).held = h.held.filter (fun x => x.1 != line.val) ∧ (now t).lines = h.lines)) ∧
         ∀ e : Fin 69632, (line.val, .staging e) ∈ h.held → (s.entry e).state = .reserved → (s.entry e).accepted = true →
           ((s.entry e).phase = .drafted ∨ (s.entry e).phase = .posted) → Runs i s (fun t =>
             (t.entry e).status = St.faultAlarm ∧ (t.entry e).outLen = 0 ∧ (t.entry e).out = [])))) ∧
  (∀ (s : State) (d : Fin 2) (line : Fin 268435456),
     let h := s.stack (d.val + 1)
     let now (t : State) : Hbm := t.stack (d.val + 1)
     (∀ p : Fin 4194304, exec (.hbmPageFillDone d p) s =
       done (s.setStack (d.val + 1) { h with fills := h.fills.filter (· != p.val) })) ∧
     (∀ m : MergeEntry, h.merge.find? (fun m => m.line == line.val) = some m → Unhurried s h →
       let rest := h.merge.filter (fun m => m.line != line.val)
       ((m.mask = BitVec.allOnes 64 ∨ (Map.get false h.poison line = false ∧ Hbm.blocking h line = [])) → Runs (.mergeEntryTimeout d line) s (fun t =>
         (now t).merge = rest ∧ Map.get 0 (now t).lines line = Hbm.ofLine (Hbm.mergedBytes h line) ∧
         (∀ l, l ≠ line.val → Map.get 0 (now t).lines l = Map.get 0 h.lines l) ∧
         Map.get false (now t).poison line = false ∧ Map.get false (now t).valid (Hbm.pageOf line) = true)) ∧
       (m.mask ≠ BitVec.allOnes 64 → Map.get false h.poison line = false → Hbm.blocking h line ≠ [] → Runs (.mergeEntryTimeout d line) s (fun t =>
         (now t).merge = h.merge ∧ (now t).lines = h.lines ∧ ∀ l ∈ Hbm.blocking h line, (l, .merge) ∈ (now t).held)) ∧
       (m.mask ≠ BitVec.allOnes 64 → Map.get false h.poison line = true → Runs (.mergeEntryTimeout d line) s (fun t =>
         (now t).merge = rest ∧ (now t).lines = h.lines ∧ (now t).poison = h.poison))) ∧
     ((∀ m ∈ h.merge, m.line ≠ line.val) → Unhurried s h →
       exec (.mergeEntryTimeout d line) s = done s)) ∧
  (∀ (s : State) (d : Fin 2) (data : List (Fin 268435456 × Fin 8 × BitVec 64)) (check : List (Fin 268435456 × BitVec 64))
     (crc : List (Fin 268435456 × Fin 9 × BitVec 8)),
     let h := s.stack (d.val + 1)
     let now (t : State) : Hbm := t.stack (d.val + 1)
     let i : Instr := .gleanerLineRead d data check crc
     let cells := lineCells data check crc
     let h1 := Hbm.upsetCells h ((cells.filter (fun c => Hbm.lineValid h c.1)).map (fun c => (c.1.val, c.2.1.val, c.2.2)))
     ((h.inService = false ∨ h.selfRefresh = true) → exec i s = done s) ∧
     (∀ k p, h.inService = true → h.selfRefresh = false → s.dev.flips = [(.validMap d k, p)] → judgeFlip p = .bad → Unhurried s h → Runs i s (fun t =>
       t.dev.flips = [] ∧ ∀ j, j < 64 → Map.get false (now t).valid (64 * k + j) = true)) ∧
     (h.inService = true → h.selfRefresh = false → (∀ x ∈ s.dev.flips, ∀ e k, x.1 ≠ .validMap e k) →
       (Hbm.nextLine h h.pos = none → exec i s = done (s.setStack (d.val + 1) h1)) ∧
       ∀ l, Hbm.nextLine h h.pos = some l → Unhurried s h →
         let last := Hbm.nextLine h (l + 1) = none
         let plain (x : Nat) : Prop := ∃ y, Hbm.readOutcome h1 x = some (none, y)
         (gateAllows s .gleaner (hbmBase (d.val + 1) + 64 * l) false = false → ¬last → Runs i s (fun t => now t = { h1 with pos := l + 1 })) ∧
         (gateAllows s .gleaner (hbmBase (d.val + 1) + 64 * l) false = true →
           (Hbm.blocking h1 l = [] → plain l → (Hbm.tagged l = true → plain (Hbm.tagLineOf l)) →
             (¬last → Runs i s (fun t => now t = { h1 with pos := l + 1 })) ∧
             (last → Runs i s (fun t =>
               (now t).pos = 0 ∧ (now t).rowNow = [] ∧ (now t).held = h.held ∧ (now t).poison = h.poison ∧
               (∀ r, Map.get false (now t).rowOld r = (h.rowNow.any (fun x => x.1 == r) || Map.get false h.rowOld r)) ∧
               t.stack (2 - d.val) = s.stack (2 - d.val)))) ∧
           (Hbm.blocking h1 l ≠ [] → ¬last → Runs i s (fun t =>
             (now t).pos = l + 1 ∧ (now t).poison = h.poison ∧ (now t).lines = h.lines ∧ ∀ x ∈ Hbm.blocking h1 l, (x, .gleaner) ∈ (now t).held)) ∧
           (∀ j y, Hbm.blocking h1 l = [] → Map.get false h.poison l = false → Hbm.lineValid h l = true → Hbm.tagged l = false →
             Hbm.readOutcome h1 l = some (some j, y) → ¬last →
             let k := Hbm.dieOfSym l j
             h.failed = 0 → Map.get [] h.ceTimes k = [] → Map.get false h.rowOld (Hbm.symRow l j) = true → rowsUsed s < 64 →
             rowsOfBank s (d.val + 1) k (Hbm.halfOf l) (Hbm.bankOf l j) < Config.spareRows → h.retiring = none → Runs i s (fun t =>
               (now t).retiring = some (k, Hbm.halfOf l, Hbm.bankOf l j, Hbm.rowOf l j) ∧ (now t).pos = l + 1 ∧
               (∀ n, n < 9 → Hbm.upsetOf (now t) l n = 0) ∧ (now t).ceTimes = Map.set [] h.ceTimes k [s.tmr.now] ∧
               (now t).held = h.held ∧ (now t).poison = h.poison)))) ∧
     (∀ k half bank row n, h.retiring = some (k, half, bank, row) → Map.findFrom {} s.rowHist (fun x => !x.valid) 64 0 = some n →
       Map.wf {} s.rowHist = true →
       let key := Hbm.rowKey k half bank row
       (rowsOfDie s (d.val + 1) k < 15 → Runs (.rowRetirementDone d) s (fun t =>
         let e : RowHist := Map.get {} t.rowHist n
         e.valid = true ∧ e.stack = d.val ∧ e.die = k ∧ e.half = half ∧ e.bank = bank ∧ e.row = row ∧
         e.corr = min (Map.get 0 h.rowAll key) 65535 ∧ e.boot = BitVec.ofNat 32 s.boot.count ∧
         (∀ j, j ≠ n → Map.get {} t.rowHist j = (Map.get {} s.rowHist j : RowHist)) ∧
         (now t).retiring = none ∧ (now t).failed = h.failed ∧ Map.get 0 (now t).remap key = e.spare ∧
         Map.get false (now t).rowOld key = false ∧ t.stack (2 - d.val) = s.stack (2 - d.val))) ∧
       (rowsOfDie s (d.val + 1) k = 15 → k < 16 → Runs (.rowRetirementDone d) s (fun t => (now t).failed.getLsbD k = true))) ∧
     (h.retiring = none → exec (.rowRetirementDone d) s = done s))

/-! ### The wardens and the yoke (13_wardens_yoke.md) -/

/-- R291, R293, R294, R295, R297: an item that waits alone for 16 cycles makes a mismatch, which the self-flags judge: none, and the other warden is
resynchronized, or retired at its third divergence within 1 s; one, and that warden is faulty; both, and the unit halts. A self-flag without a
mismatch makes its warden faulty. -/
def Obligations.YokeFaults : Prop :=
  ∀ (s : State), yokeRuns s = true →
    let h := holder s
    let o := h.other
    (∀ w, comparing s = true → s.yoke.gap = false → s.yoke.held w ≠ [] → s.yoke.held w.other = [] →
      exec (.yokeCompareTimeout w) s = done { s with yoke := { s.yoke with mismatch := true } }) ∧
    (∀ w, inService s w = true → s.yoke.mismatch = true → Runs (.wardenSelfFlag w) s (fun t => t.yoke = s.yoke.setFlag w)) ∧
    (∀ w, inService s w = false → exec (.wardenSelfFlag w) s = done s) ∧
    (s.yoke.mismatch = false → s.yoke.gap = false →
      (inService s h = true → comparing s = true → Runs (.wardenSelfFlag h) s (fun t =>
        t.yoke = { ((s.yoke.setState h .faulty).setHeld h []).settled with gap := true } ∧ (t.core h.core).phase = .free)) ∧
      (inService s h = true → comparing s = false → Runs (.wardenSelfFlag h) s (fun t => Halted s t 2)) ∧
      (inService s o = true → s.yoke.held h = [] → Runs (.wardenSelfFlag o) s (fun t =>
        t.yoke = { ((s.yoke.setState o .faulty).setHeld o []).settled with solo := true } ∧ Alone t o ∧ t.boot.phase = s.boot.phase))) ∧
    (s.yoke.mismatch = true →
      let y := { s.yoke with flagA := false, flagB := false }
      (s.yoke.flag h = true → s.yoke.flag o = true → Runs .yokeMismatchJudged s (fun t =>
        Halted s t 1 ∧ t.yoke.aState = .faulty ∧ t.yoke.bState = .faulty)) ∧
      (s.yoke.flag h = true → s.yoke.flag o = false → comparing s = true → Runs .yokeMismatchJudged s (fun t =>
        t.yoke = { (y.setState h .faulty).setHeld h [] with gap := true, mismatch := false } ∧ (t.core h.core).phase = .free)) ∧
      (∀ x z a, s.yoke.held h = [x] → s.yoke.held o = [z] → StoresAt x a →
        (s.yoke.flag h = false → s.yoke.flag o = true → Runs .yokeMismatchJudged s (fun t =>
          t.yoke = { ((y.setState o .faulty).setHeld o []).setHeld h [] with solo := true, mismatch := false } ∧ Alone t o ∧
          t.sram = (writeBytes s a x.data x.be).sram)) ∧
        (s.yoke.flag h = false → s.yoke.flag o = false →
          let times := noteTime (s.yoke.div o) s.tmr.now 3
          (withinSpan times 3 second = false → Runs .yokeMismatchJudged s (fun t =>
            t.yoke = { (((y.setDiv o times).setState o .resyncing).setHeld o []).setHeld h [] with solo := true, mismatch := false } ∧
            (t.core o.core).phase = .free ∧ t.sram = (writeBytes s a x.data x.be).sram)) ∧
          (withinSpan times 3 second = true → Runs .yokeMismatchJudged s (fun t =>
            t.yoke = { (((y.setDiv o times).setState o .retired).setHeld o []).setHeld h [] with solo := true, mismatch := false } ∧
            Alone t o ∧ t.sram = (writeBytes s a x.data x.be).sram))))) ∧
    (s.yoke.mismatch = false → exec .yokeMismatchJudged s = done s)

/-- R294, R296 to R298, R300: the loss of the holder's feed begins the switch-over gap, or HALT with no standby or no other feed, or where the
warden that keeps its feed has raised its self-flag in the window of a mismatch; the standby that passes
its check takes the baton with the items it held; a readmitted warden is resynchronized, and the copy makes it standby again. -/
def Obligations.SwitchOverAndResync : Prop :=
  ∀ (s : State), yokeRuns s = true →
    let h := holder s
    let o := h.other
    (∀ w, s.yoke.feed w = true → s.yoke.feed w.other = false → Runs (.feedLoss w) s (fun t => Halted s t 3 ∧ t.yoke.stateOf w = .feedLost)) ∧
    (s.yoke.feed h = true → s.yoke.feed o = true → s.yoke.gap = false →
      let flagged (w : Warden) : Prop := s.yoke.mismatch = true ∧ s.yoke.flag w = true
      let lost (w : Warden) : WState := if s.yoke.mismatch && s.yoke.flag w then .faulty else .feedLost
      (¬flagged o → comparing s = true → Runs (.feedLoss h) s (fun t =>
        t.yoke = { (((s.yoke.setFeed h false).setState h (lost h)).setHeld h []).settled with gap := true } ∧
        (t.core h.core).phase = .free)) ∧
      (¬flagged o → comparing s = false → Runs (.feedLoss h) s (fun t => Halted s t 2)) ∧
      (¬flagged h → (s.yoke.stateOf o = .standby ∨ s.yoke.stateOf o = .resyncing) → s.yoke.held h = [] → Runs (.feedLoss o) s (fun t =>
        t.yoke = { (((s.yoke.setFeed o false).setState o (lost o)).setHeld o []).settled with solo := true } ∧ Alone t o)) ∧
      (∀ w, flagged w.other → Runs (.feedLoss w) s (fun t => Halted s t (if s.yoke.flag w then 1 else 2) ∧ t.yoke.stateOf w.other = .faulty))) ∧
    (s.yoke.gap = true → s.yoke.feed o = true → s.yoke.feed h = true → Runs (.feedLoss o) s (fun t => Halted s t 2)) ∧
    (∀ g : BitVec 16, s.yoke.gap = true →
      Runs (.switchOverDone false g) s (fun t => Halted s t 4) ∧
      (s.yoke.held o = [] → Runs (.switchOverDone true g) s (fun t =>
        t.yoke = { s.yoke.setState o .active with
          batonB := o == .b
          solo := true
          gap := false
          lastGap := g.toNat
          maxGap := max s.yoke.maxGap g.toNat } ∧
        t.dev.causes.getLsbD causeWarden = true)) ∧
      (∀ x a, s.yoke.held o = [x] → StoresAt x a → Runs (.switchOverDone true g) s (fun t =>
        t.yoke.batonB = (o == .b) ∧ t.yoke.held o = [] ∧ t.sram = (writeBytes s a x.data x.be).sram))) ∧
    (∀ g : BitVec 16, s.yoke.gap = false → ∀ ok, exec (.switchOverDone ok g) s = done s) ∧
    (∀ w, let y := s.yoke.setFeed w true
      ((s.yoke.gap = false ∧ w ≠ h ∧ s.yoke.stateOf w = .feedLost ∧ s.boot.phase = .released) →
        exec (.feedReadmit w) s = done { s with yoke := y.setState w .resyncing }) ∧
      ((s.yoke.gap = true ∨ w = h ∨ s.yoke.stateOf w ≠ .feedLost ∨ s.boot.phase ≠ .released) →
        exec (.feedReadmit w) s = done { s with yoke := y })) ∧
    (s.yoke.gap = false → s.yoke.stateOf o = .resyncing → s.yoke.held h = [] →
      (Map.wf 0 s.sram = true → Runs (.resyncDone true) s (fun t =>
        t.yoke = { s.yoke.setState o .standby with solo := false, reads := [] } ∧
        t.core o.core = s.core h.core ∧ t.core h.core = s.core h.core ∧ t.sysCore (o.core - 2048) = s.sysCore (h.core - 2048) ∧
        (∀ i, i < 0x100000 → Map.get 0 t.sram (0x100000 * (o.core - 2048) + i) = Map.get 0 s.sram (0x100000 * (h.core - 2048) + i)) ∧
        ∀ i, i / 0x100000 ≠ o.core - 2048 → Map.get 0 t.sram i = Map.get 0 s.sram i)) ∧
      Runs (.resyncDone false) s (fun t =>
        t.yoke = { ((s.yoke.setState o .faulty).setHeld o []).settled with solo := true } ∧ Alone t o))

/-! ### The TAP and the debug port (16_gates_debug.md) -/

/-- R349, R443: IDCODE captures 0x24820A6F; SAMPLE/PRELOAD and BYPASS change the TAP alone. After BLANK, selecting EXTEST, CLAMP or HIGHZ clears the
keys tier, leaves the root and holds the unit in reset until Test-Logic-Reset, which resets it warm. What a bypass register captures is the model's
(log 25). R308, R350, R351: DBG_NONCE issues a nonce; a token is accepted exactly when length, serial, nonce, signer, level and signature hold, and
then sets the level and consumes its nonce; a debug access makes one 32-bit read or write that the gate passes. Without a token DEBUG reaches nothing
but in BLANK. R261, R347, R424: a read of an uncorrectable line is held; a die out of service, or power-gated, gives an error response. -/
def Obligations.ScanAndDebug : Prop :=
  (∀ (s : State),
     exec .samplePreload s = done { s with tap := { s.tap with ir := 0x01 } } ∧
     exec .idcode s = done { s with tap := { s.tap with ir := 0x02, dr := 0x24820A6F } } ∧
     exec .bypass s = done { s with tap := { s.tap with ir := 0xFF, dr := 0 } } ∧
     (lcCode s = lcBlank →
       exec .extest s = done { s with tap := { s.tap with ir := 0x00 } } ∧
       exec .clamp s = done { s with tap := { s.tap with ir := 0x03, dr := 0 } } ∧
       exec .highz s = done { s with tap := { s.tap with ir := 0x04, dr := 0 } }) ∧
     (lcCode s ≠ lcBlank →
       let kept (ir : Byte) (t : State) : Prop :=
         t.tap.ir = ir ∧ t.scrAux.scanHold = true ∧ KeysGone t ∧ HeldInReset t ∧
         t.grn.rootV = s.grn.rootV ∧ t.grn.rootM = s.grn.rootM ∧ t.grn.present = s.grn.present ∧ t.grn.slots = s.grn.slots ∧ lcCode t = lcCode s
       Runs .extest s (kept 0x00) ∧ Runs .clamp s (kept 0x03) ∧ Runs .highz s (kept 0x04)) ∧
     (∀ env, s.scrAux.scanHold = false → exec (.tapTestLogicReset env) s = done { s with tap := { s.tap with ir := 0x02 } }) ∧
     (∀ env, s.scrAux.scanHold = true → exec (.tapTestLogicReset env) s =
       done (boot env (afterReset { s with tap := { s.tap with ir := 0x02 }, scrAux := { s.scrAux with scanHold := false } })))) ∧
  (∀ (s : State), debugUp s = true →
     (drbgServes s 8 = true → Runs .dbgNonce s (fun t =>
       let n : BitVec 64 := BitVec.ofNat 64 (ofLe (drbgGen s 8 8).1)
       t.tap = { s.tap with ir := 0x40, dr := n } ∧
       t.ofc = { s.ofc with
         nonces := Map.set {} s.ofc.nonces (nonceEntry s.ofc) { on := true, val := n, seq := s.ofc.issued }
         issued := s.ofc.issued + 1 })) ∧
     (drbgServes s 8 = false → s.ofc.waiting < 2 → exec .dbgNonce s =
       done { s with tap := { s.tap with ir := 0x40 }, ofc := { s.ofc with waiting := s.ofc.waiting + 2 } }) ∧
     (∀ (b : Bytes) (k : Nat) (key : Bytes),
       let level := (byteAt b 2).toNat
       let sound := b.length = 120 ∧ fieldLe b 0 2 = 120 ∧ fieldLe b 8 8 = Config.unitSerial.toNat ∧
         nonceOf s (BitVec.ofNat 64 (fieldLe b 16 8)) = some k ∧ TokenListed s (byteAt b 3).toNat (byteAt b 4).toNat level key ∧
         verify384 key (slice b 24 96) (b.take 24) = true
       sound → Runs (.dbgAuth b) s (fun t =>
         t.tap = { s.tap with ir := 0x41, level := level, denied := false } ∧
         t.ofc.nonces = Map.set {} s.ofc.nonces k {} ∧ t.boot = s.boot)) ∧
     (∀ (b : Bytes),
       (b.length ≠ 120 ∨ fieldLe b 0 2 ≠ 120 ∨ fieldLe b 8 8 ≠ Config.unitSerial.toNat ∨
         nonceOf s (BitVec.ofNat 64 (fieldLe b 16 8)) = none ∨
         ∀ key, TokenListed s (byteAt b 3).toNat (byteAt b 4).toNat (byteAt b 2).toNat key → verify384 key (slice b 24 96) (b.take 24) = false) →
       exec (.dbgAuth b) s = done { s with tap := { s.tap with ir := 0x41, denied := true } }) ∧
     (∀ (a : Nat) (data : Word), a < 2 ^ 40 → a % 4 = 0 → memUnread s a 4 = [] → (dieAnswers s a = false ∨ dieGated s a = true) →
       exec (.debugAccess (BitVec.ofNat 42 (a + 2 ^ 41)) data) s =
         done { s with tap := { s.tap with ir := 0x42, denied := true, data := 0 } }) ∧
     (∀ (a : Nat) (data : Word), a < 2 ^ 40 → a % 4 = 0 → gateAllows s .debug a false = true → memUnread s a 4 ≠ [] →
       exec (.debugAccess (BitVec.ofNat 42 (a + 2 ^ 41)) data) s =
         done (holdReads { s with tap := { s.tap with ir := 0x42 } } (memUnread s a 4) .warden)) ∧
     (∀ (a : Nat) (data : Word), a < 2 ^ 40 → a % 4 = 0 → dieAnswers s a = true → dieGated s a = false → memUnread s a 4 = [] →
       let rd : BitVec 42 := BitVec.ofNat 42 (a + 2 ^ 41)
       let wr : BitVec 42 := BitVec.ofNat 42 (a + 2 ^ 40 + 2 ^ 41)
       (gateAllows s .debug a false = true → ∀ b, placeSys a = .blk b 0x024 → exec (.debugAccess rd data) s =
         done { s with tap := { s.tap with ir := 0x42, denied := false, data := s.reg (b.page + 0x024) } }) ∧
       (gateAllows s .debug a true = true → ∀ b, placeSys a = .blk b 0x024 → Runs (.debugAccess wr data) s (fun t =>
         t.tap = { s.tap with ir := 0x42, denied := false, data := data } ∧ t.reg (b.page + 0x024) = data ∧
         ∀ r, r ≠ b.page + 0x024 → t.reg r = s.reg r)) ∧
       (gateAllows s .debug a false = true → inRange a 0x10000000 0x101FFFFF = true → placeSys a = .mem a → Runs (.debugAccess rd data) s (fun t =>
         t = { s with tap := { s.tap with
           ir := 0x42
           denied := false
           data := BitVec.ofNat 32 (ofLe ((List.range 4).map (fun i => Map.get 0 s.sram (a - 0x10000000 + i)))) }, pins := t.pins })) ∧
       (gateAllows s .debug a false = false → Runs (.debugAccess rd data) s (fun t =>
         t.tap = { s.tap with ir := 0x42, denied := true, data := 0 } ∧ t.sram = s.sram)) ∧
       (gateAllows s .debug a true = false → Runs (.debugAccess wr data) s (fun t =>
         t.tap = { s.tap with ir := 0x42, denied := true } ∧ t.sram = s.sram ∧ ∀ c, t.core c = s.core c))) ∧
     (lcCode s ≠ lcBlank → s.tap.level = 0 → ∀ a write, gateAllows s .debug a write = false))

/-! ### The scarecrow (14_scarecrow_tamper.md) -/

/-- R311, R313 to R316, R321: an active fast channel whose condition is not yet present trips: latch, zeroization, HOLD; so do an overrun sample cycle
and a missed FALLOW heartbeat, as the sentinel fault; nothing trips on a channel that is inactive or already present. R324: of two that trip at one
moment the lower code is the first cause; ZEROIZE_N has no effect while VBAT is absent. R312, R317, R321, R396: a sample
filters every enabled channel, y := y + ((x - y) asr k), and counts; a count that reaches n trips; a FALLOW wake also replaces the root mask. When the
battery domain is first powered, its budget is full and its limits are the factory values. R310, R315, R316, R325: HOLD ends 1 s after the last
condition clears, and the unit boots as after a warm reset; a lost crystal is no tamper; a release clears TAMPER_N and the causes while nothing is
pending; a read of the history data advances the pointer. -/
def Obligations.TamperAndSensors : Prop :=
  (∀ (s : State),
     (∀ (ch : Fin 64) (others : List (Fin 64)), fastActive s ch = true → s.scr.present.getLsbD ch = false →
       (∀ o ∈ others, o = ch ∨ fastActive s o = false ∨ s.scr.present.getLsbD o = true) → Runs (.fastChannelTrip (ch :: others)) s (fun t =>
       TripLatched s t ch ∧ t.scr.present = s.scr.present ||| BitVec.twoPow 64 ch ∧
       (s.scr.histNext % 256 ≠ 0 → t.scr.histNext = (s.scr.histNext + 1) % 4096 ∧
         Map.get 0 t.scr.hist s.scr.histNext = BitVec.ofNat 128 (3 + histDelta s * 2 ^ 4 + ch.val * 2 ^ 32 + 1 * 2 ^ 40)))) ∧
     (∀ ch o : Fin 64, ch ≠ o → (∀ x ∈ [ch, o], fastActive s x = true ∧ s.scr.present.getLsbD x = false) →
       Runs (.fastChannelTrip [ch, o]) s (fun t =>
         let both : BitVec 64 := BitVec.twoPow 64 ch ||| BitVec.twoPow 64 o
         t.scr.causes = s.scr.causes ||| both ∧ t.scr.present = s.scr.present ||| both ∧ t.scr.count = min 0xFFFF (s.scr.count + 2) ∧
         t.scr.firstCause = (if s.scr.pending then s.scr.firstCause else min ch.val o.val) ∧ t.scr.tamperN = true ∧ t.scr.hold = true ∧
         t.grn.present = false ∧ KeysGone t ∧ HeldInReset t)) ∧
     (∀ (ch : Fin 64) (others : List (Fin 64)), (∀ o ∈ ch :: others, fastActive s o = false ∨ s.scr.present.getLsbD o = true) →
       exec (.fastChannelTrip (ch :: others)) s = done s) ∧
     (s.scr.battery = false → fastActive s 0x21 = false) ∧
     (s.scrAux.started = true → s.pwr.rails = true → s.scr.present.getLsbD 0x30 = false → Runs .sampleCycleOverrun s (fun t => TripLatched s t 0x30)) ∧
     (inFallow s = true → s.scr.present.getLsbD 0x30 = false → Runs .fallowHeartbeatMiss s (fun t => TripLatched s t 0x30))) ∧
  (∀ (s : State) (smp : Sample),
     (s.scrAux.started = true → s.pwr.rails = true →
       ((∀ c ∈ filteredCodes, ¬ Meets s smp c) → Runs (.scarecrowSample smp) s (fun t =>
         (∀ c ∈ filteredCodes, t.chan c = sampledChan s smp c) ∧ t.grn = s.grn ∧ t.scr.causes = s.scr.causes ∧ t.scr.count = s.scr.count ∧
         t.scr.vbatLow = (s.scr.vbatLow || (decide (smp.vbat.toNat < 2600) && !s.scrAux.vbatBelow)) ∧
         (t.sysCore 2).lines = (s.sysCore 2).lines ||| 1 ∧ t.entries = s.entries)) ∧
       (∀ c ∈ filteredCodes, Meets s smp c → (∀ d ∈ filteredCodes, d ≠ c → ¬ Meets s smp d) → s.scr.present.getLsbD c = false →
         Runs (.scarecrowSample smp) s (fun t => TripLatched s t c))) ∧
     (∀ fast, inFallow s = true → sampledFast s smp fast = [] → (readUnit s .bbram).1 ≠ .bad →
       ((∀ c ∈ filteredCodes, ¬ Meets s smp c) → Runs (.fallowWake smp fast) s (fun t =>
         (∀ c ∈ filteredCodes, t.chan c = sampledChan s smp c) ∧ t.scr.causes = s.scr.causes ∧
         t.grn.rootV ^^^ t.grn.rootM = s.grn.rootV ^^^ s.grn.rootM ∧ t.grn.present = s.grn.present)) ∧
       (∀ c ∈ filteredCodes, Meets s smp c → (∀ d ∈ filteredCodes, d ≠ c → ¬ Meets s smp d) → s.scr.present.getLsbD c = false →
         Runs (.fallowWake smp fast) s (fun t => TripLatched s t c))) ∧
     (∀ fast n, inFallow s = true → sampledFast s smp fast = [n] → s.scr.present.getLsbD n = false → (∀ c ∈ filteredCodes, ¬ Meets s smp c) →
       Runs (.fallowWake smp fast) s (fun t => TripLatched s t n)) ∧
     (∀ (ch : Chan) (c : Nat) (x : Int), ch.on = true →
       let k : Nat := if c = 8 then 1 else if c = 9 then 2 else 3
       let y := ch.y + (x - ch.y) / 2 ^ k
       filterStep c ch x = { ch with y := y, count := if y < ch.low ∨ ch.high < y then min 15 (ch.count + 1) else 0 }) ∧
     (s.pwr.rails = false → s.scr.battery = false → Runs (.batteryAttach smp) s (fun t =>
       t.scr.battery = true ∧ t.time.budget = 500000000 ∧ t.time.rtcSet = false ∧ t.scr.causes = 0 ∧ t.scr.cfg = s.scr.cfg ∧
       t.grn.present = false ∧ t.grn.slots = s.grn.slots ∧
       ∀ c ∈ filteredCodes,
         (c < 8 → (t.chan c).low = -128 ∧ (t.chan c).high = 128 ∧ (t.chan c).n = 4) ∧
         (c = 8 → (t.chan c).low = -400 ∧ (t.chan c).high = 1840 ∧ (t.chan c).n = 2) ∧
         (c = 9 → (t.chan c).low = 2300 ∧ (t.chan c).high = 3900 ∧ (t.chan c).n = 2) ∧
         ((c < 2 ∨ 8 ≤ c) → (t.chan c).on = true ∧ (t.chan c).y = sampleOf smp c)))) ∧
  (∀ (s : State),
     (s.scr.hold = true → s.scr.holdTimer = true → s.scr.present = 0 → ∀ env,
       let u := { s with scr := { s.scr with hold := false, holdTimer := false } }
       (s.pwr.rails = true → exec (.holdExpiry env) s = done (boot env (afterReset u))) ∧
       (s.pwr.rails = false → exec (.holdExpiry env) s = done u)) ∧
     (∀ ch : Fin 64, s.scr.present.getLsbD ch = true →
       let rest := s.scr.present &&& ~~~(BitVec.twoPow 64 ch)
       exec (.tripConditionClear ch) s = done { s with scr := { s.scr with
         present := rest
         holdTimer := s.scr.hold && rest == 0
         battery := s.scr.battery || ch.val == 0x0A } }) ∧
     (∀ ch : Fin 64, s.scr.present.getLsbD ch = false → exec (.tripConditionClear ch) s = done s) ∧
     ((s.scr.battery || s.pwr.rails) = true → s.scrAux.xtalStopped = false → Runs .xtalLost s (fun t =>
       t.scr.xtalLost = true ∧ t.time.rtcLp = true ∧ t.scr.causes = s.scr.causes ∧ t.scr.hold = s.scr.hold ∧ t.grn = s.grn ∧
       (s.scr.histNext % 256 ≠ 0 →
         Map.get 0 t.scr.hist s.scr.histNext = BitVec.ofNat 128 (3 + histDelta s * 2 ^ 4 + 6 * 2 ^ 40)))) ∧
     (s.scr.pending = false → exec .scrTamperRelease s = done { s with scr := { s.scr with tamperN := false, causes := 0 } }) ∧
     (s.scr.pending = true → exec .scrTamperRelease s = done s) ∧
     exec .scrHistDataRead s = done { s with scr := { s.scr with histRead := (s.scr.histRead + 1) % 4096 } })

/-! ### Resets, boot, links and memory training (00_scope.md, 01_architecture.md, 11_memory.md, 17_boot_attestation.md, 21_package_electrical.md) -/

/-- R5, R315, R332, R354, R406, R435, R436: the events that hold the package in reset, and those that boot it: each boot starts from what a reset
leaves. A rail fall with a battery enters FALLOW; without one the battery domain's content is gone. -/
def Obligations.Resets : Prop :=
  ∀ (s : State) (env : BootEnv),
    let r := afterReset s
    let up := { r with pwr := { r.pwr with rails := true, fallow := false } }
    (s.pwr.rails = false →
      (s.scr.battery = true → s.pwr.fallow = false → exec (.coldReset env) s = done (boot env up)) ∧
      (s.scr.battery = true → s.pwr.fallow = true → exec (.coldReset env) s = done (boot env (histEvent up 0 5 0))) ∧
      (s.scr.battery = false → s.scr.present.getLsbD 0x0A = false → Runs (.coldReset env) s (fun t => TripLatched s t 0x0A))) ∧
    (s.pwr.rails = true → exec (.coldReset env) s = done s) ∧
    (s.boot.perst = false → s.pwr.rails = true → Runs .perstNAssert s (fun t =>
      HeldInReset t ∧ t.boot.perst = true ∧ t.boot.phase = .off ∧ t.grn.slots = s.grn.slots ∧ t.tal.log = s.tal.log)) ∧
    (s.boot.perst = false → s.pwr.rails = false → exec .perstNAssert s = done { s with boot := { s.boot with perst := true } }) ∧
    (s.boot.perst = true → exec .perstNAssert s = done s ∧
      exec (.perstNDeassert env) s = done (boot env { s with boot := { s.boot with perst := false } })) ∧
    (s.boot.perst = false → exec (.perstNDeassert env) s = done s) ∧
    (s.pwr.rails = true → s.scrAux.vio = true → Runs .vioUndervoltage s (fun t =>
      HeldInReset t ∧ t.scrAux.vio = false ∧ t.boot.phase = .off ∧ t.scr.causes = s.scr.causes)) ∧
    (s.scrAux.vio = false → exec (.vioReturn env) s = done (boot env (afterReset { s with scrAux := { s.scrAux with vio := true } }))) ∧
    (s.lc.selfReset = true → exec (.lifecycleSelfReset env) s = done (boot env r)) ∧
    (s.pwr.rails = true → s.scr.battery = true → s.scr.present.getLsbD 0x0A = false → Runs .keepRailsFall s (fun t =>
      t.pwr.rails = false ∧ t.pwr.fallow = true ∧ HeldInReset t ∧ t.tap = {} ∧ t.scr.chan = s.scr.chan ∧ t.scr.causes = s.scr.causes ∧
      t.grn.rootV = s.grn.rootV ∧ t.grn.rootM = s.grn.rootM ∧ t.grn.present = s.grn.present ∧
      (s.scr.histNext % 256 ≠ 0 → Map.get 0 t.scr.hist s.scr.histNext = BitVec.ofNat 128 (3 + histDelta s * 2 ^ 4 + 4 * 2 ^ 40)))) ∧
    (s.pwr.rails = true → (s.scr.battery = false ∨ s.scr.present.getLsbD 0x0A = true) → Runs .keepRailsFall s (fun t =>
      t.pwr.rails = false ∧ HeldInReset t ∧ t.grn.present = false ∧ t.grn.rootV = 0 ∧ t.grn.slots = s.grn.slots ∧
      t.scr = { cfg := s.scr.cfg } ∧ t.time = {})) ∧
    (r.hostMem = s.hostMem ∧ r.grn.slots = s.grn.slots ∧ r.grn.rootV = s.grn.rootV ∧ r.grn.rootM = s.grn.rootM ∧ r.tal.log = s.tal.log ∧
      r.boot.records = s.boot.records ∧ r.boot.count = s.boot.count ∧ r.rowHist = s.rowHist ∧ r.seen = s.seen ∧ r.scr.causes = s.scr.causes ∧
      r.scr.hist = s.scr.hist ∧ r.scr.cfg = s.scr.cfg ∧ r.time.rtc = s.time.rtc ∧ r.time.budget = s.time.budget ∧
      r.time.ntime = (if s.time.rtcSet then s.time.rtc else 0) ∧ r.lc.otp = s.lc.otp ∧ r.tap.level = 0 ∧ r.regs = [] ∧ r.entries = [] ∧
      r.cores = [] ∧ r.hif = {} ∧ r.uwc = [] ∧ r.sram = [] ∧ r.hbm = [] ∧ r.hbmKey = none ∧ r.gates = [] ∧ r.ofc.nonces = [] ∧
      (∀ p, (r.part p).configured = (s.part p).configured ∧ (r.part p).dpid = (s.part p).dpid ∧ (r.part p).hseq = (s.part p).hseq ∧
        (r.part p).emigrated = (s.part p).emigrated ∧ (r.part p).gen = 0) ∧
      ∀ c, (r.useCtr c).live = ctrMark (s.useCtr c))

/-- R315, R354 to R356, R360, R361, R367: a boot waits while the package is held, stalls at the first check that fails with that check's reason, and
else counts itself, brings the flash port up, chooses a set, restores the buckets, measures its images and starts both wardens at the image's entry; in
BLANK, MINTED and SCRAP the ROM serves the PF, with the host-interface gate open to it (log 96). R216, R360, R362, R364, R366, R367: a write of
BOOT_RELEASE freezes the measurements, derives the alias key, signs and keeps the boot record, marks the set good and enables the PF and the VFs; where it
signs, it waits for the Keep DRBG (R245). The watchdog resets a boot that is not released. R441: the flash runs 8D-8D-8D or 1S-1S-1S as its SFDP
tables say (the registers' form and the clock at its upper bound are the model's choice, log 114). -/
def Obligations.BootChecksAndRelease : Prop :=
  (∀ (s : State) (env : BootEnv),
     let u := afterReset s
     let t := boot env u
     ((s.pwr.rails = false ∨ s.boot.perst = true ∨ s.scrAux.vio = false ∨ s.scrAux.scanHold = true) →
       t = { u with boot := { u.boot with phase := .off } }) ∧
     (s.pwr.rails = true → s.boot.perst = false → s.scrAux.vio = true → s.scrAux.scanHold = false → (s.scr.hold = true ∨ s.scr.present ≠ 0) →
       t.boot.phase = .hold ∧ t.scr.hold = true ∧ t.boot.count = s.boot.count) ∧
     (BootStarts s →
       (env.feedA = false → env.feedB = false → Stalled t 1) ∧
       ((env.feedA = true ∨ env.feedB = true) → env.otpOk = false → Stalled t 2) ∧
       ((env.feedA = true ∨ env.feedB = true) → env.otpOk = true → romState s = false → env.refAttempt = 3 → Stalled t 3) ∧
       ((env.feedA = true ∨ env.feedB = true) → env.otpOk = true → romState s = false → env.refAttempt ≠ 3 → env.pllF0 = false →
         env.pllF1 = false → Stalled t 4) ∧
       (ChecksPass env s → ∀ r, chooseSet u = .error r → Stalled t r) ∧
       (ChecksPass env s → ∀ b fb, chooseSet u = .ok (b, fb) →
         let bank := if b then s.boot.bankBSet else s.boot.bankA
         let bank' := if b then t.boot.bankBSet else t.boot.bankA
         let scr := bank.image 0
         let fw := bank.image 1
         t.boot.count = min (2 ^ 32 - 1) (s.boot.count + 1) ∧ t.boot.bankB = b ∧ t.boot.fallback = fb ∧ t.boot.scrVer = imgVersion scr ∧
         t.boot.beganAt = s.tmr.now ∧ t.boot.xspi = (if env.octal then
           { mode := .octal, clock := 200, strobe := true, addrBytes := 4, resetPulse := 10, sfdp := some true }
           else { mode := .single, clock := 25, strobe := false, addrBytes := 4, resetPulse := 10, sfdp := some false }) ∧
         t.meas 0 = digest384 (Hash.sha384 (zeros 48 ++ signedDigest scr)) ∧ t.scr.pending = false ∧
         (t.core 2050).phase = .running ∧ (t.core 2050).pc = imgEntry scr ∧
         t.grn.orderly = false ∧ (s.grn.orderly = true → t.grn.buckets = s.grn.snap) ∧
         (s.grn.orderly = false → ∀ i, t.bucket i =
           let b : Bucket := Map.get {} s.grn.snap i
           if b.on then { b with tokens := 0, last := 0, lastOpen := true } else b) ∧
         (romState s = false →
           let c : Core := { phase := .running, pc := imgEntry fw, mem := memOf (slice fw (64 + imgCode fw) (imgData fw)) }
           t.boot.phase = .firmware ∧ t.boot.pfEnabled = false ∧ bank'.attempts = bank.attempts + 1 ∧ t.boot.fwVer = imgVersion fw ∧
           t.meas 1 = digest384 (Hash.sha384 (zeros 48 ++ signedDigest fw)) ∧ t.core 2048 = c ∧ t.core 2049 = c ∧
           t.yoke.aState = .active ∧ t.yoke.bState = .standby) ∧
         (romState s = true → t.boot.phase = .released ∧ t.boot.romService = true ∧ t.boot.pfEnabled = false ∧ t.meas 1 = 0 ∧
           bank'.good = true ∧ bank'.attempts = 0 ∧ Map.get 0 (t.gate (keepGate 0)).cls (clsCodeOf .hostDma) = 7)))) ∧
  (∀ (s : State),
     (s.boot.phase = .firmware → romState s = false → s.grn.slots = [] → (identityUsable s = false ∨ drbgServes s 8 = true) →
       Runs .bootReleaseWrite s (fun t =>
       t.boot.phase = .released ∧ t.boot.pfEnabled = true ∧ t.boot.romService = false ∧ t.grn.frozen = true ∧ t.grn.meas = s.grn.meas ∧
       (if s.boot.bankB then t.boot.bankBSet = { s.boot.bankBSet with attempts := 0, good := true } ∧ t.boot.bankA = s.boot.bankA
        else t.boot.bankA = { s.boot.bankA with attempts := 0, good := true } ∧ t.boot.bankBSet = s.boot.bankBSet) ∧
       t.grn.buckets = s.grn.buckets ∧
       (identityUsable s = true →
         let rec_ := Map.get [] t.boot.records (s.boot.count % 256)
         t.boot.aliasKey = some (aliasPrivate s) ∧ rec_.take 4 = ascii "BREC" ∧ fieldLe rec_ 8 4 = s.boot.count % 2 ^ 32 ∧
         byteAt rec_ 16 = BitVec.ofNat 8 (lcCode s) ∧ Map.get 0 t.boot.recCount (s.boot.count % 256) = s.boot.count + 1) ∧
       (identityUsable s = false → t.boot.records = s.boot.records ∧ t.boot.aliasKey = s.boot.aliasKey))) ∧
     ((s.boot.phase ≠ .firmware ∨ (identityUsable s = true ∧ drbgServes s 8 = false)) → exec .bootReleaseWrite s = done s) ∧
     (∀ env, s.boot.phase = .firmware → exec (.bootReleaseWatchdog env) s = done (boot env (afterReset s))) ∧
     (∀ env, s.boot.phase ≠ .firmware → exec (.bootReleaseWatchdog env) s = done s))

/-- R18 to R21, R254, R262: the eighth failure of a flit retrains its link; a link comes up at the widest power of two of working lanes, a narrow one
sets DEGRADED, a dead one takes its die out of service with the requests dispatched there ABORTED, or relays; a stack trains with at most one failed
die. -/
def Obligations.LinksAndTraining : Prop :=
  ∀ (s : State),
    (∀ l : Fin 3, let x := s.link l
      ((x.lanes = 0 ∨ x.retraining = true) → exec (.flitCrcFail l) s = done s) ∧
      (x.lanes ≠ 0 → x.retraining = false → x.fails < 7 → exec (.flitCrcFail l) s = done (s.setLink l { x with fails := x.fails + 1 })) ∧
      (x.lanes ≠ 0 → x.retraining = false → 7 ≤ x.fails → exec (.flitCrcFail l) s =
        done (s.setLink l { x with fails := 0, retraining := true }))) ∧
    (keepRuns s = true → ∀ good : Fin 33,
      (∀ l : Fin 3, Runs (.linkRetrainDone l good) s (fun t =>
        let f := if l = 2 then 16 else 32
        t.link l = { lanes := widest f good } ∧ (widest f good < f → t.dev.causes.getLsbD causeLink = true) ∧
        (∀ k, k ≠ l.val → t.link k = s.link k))) ∧
      Runs (.linkRetrainDone 2 good) s (fun t => t.dev.relay = decide (good.val < 4) ∧ t.dev.out = s.dev.out) ∧
      (∀ d : Fin 2, let l : Fin 3 := d.castSucc
        (8 ≤ good.val → Runs (.linkRetrainDone l good) s (fun t =>
          (if d = 0 then t.dev.f0 else t.dev.f1) = ((s.stack (d.val + 1)).inService && !s.dev.out.getLsbD d) ∧ t.dev.out = s.dev.out)) ∧
        (good.val < 8 → Runs (.linkRetrainDone l good) s (fun t =>
          (if d = 0 then t.dev.f0 else t.dev.f1) = false ∧ t.dev.out.getLsbD d = true ∧
          (∀ e, (s.entry e).die = d.val + 1 → (s.entry e).phase = .running → (s.entry e).state = .reserved → (s.entry e).accepted = true →
            (t.entry e).state = .staged ∧ (t.entry e).status = St.aborted) ∧
          ∀ e, (s.entry e).die = d.val + 1 → (s.entry e).ran = true → (s.entry e).state = .staged →
            (t.entry e).state = .staged ∧ (t.entry e).status = St.aborted ∧ (t.entry e).out = [])))) ∧
    (∀ (d : Fin 2) (lanes : BitVec 8),
      let h := s.stack (d.val + 1)
      let ready := s.boot.phase = .firmware ∧ h.trained = false ∧ s.dev.out.getLsbD d = false
      (ready → Runs (.hbmTrainingDone d (BitVec.allOnes 32) lanes) s (fun t =>
        t.stack (d.val + 1) = { h with trained := true, inService := true, lanes := lanes.toNat, remap := rowMap s (d.val + 1), pcTrain := BitVec.allOnes 32 } ∧
        (if d = 0 then t.dev.f0 else t.dev.f1) = decide (8 ≤ (s.link d).lanes))) ∧
      (ready → h.failed = 0 → ∀ k, k < 16 →
        let one := BitVec.allOnes 32 ^^^ BitVec.twoPow 32 (2 * k)
        Runs (.hbmTrainingDone d one lanes) s (fun t =>
          (t.stack (d.val + 1)).failed = BitVec.twoPow 16 k ∧ (t.stack (d.val + 1)).inService = true ∧
          t.dev.causes.getLsbD causeHbm = true) ∧
        (∀ j, j < k → Runs (.hbmTrainingDone d (one ^^^ BitVec.twoPow 32 (2 * j)) lanes) s (fun t =>
          (t.stack (d.val + 1)).inService = false ∧ t.dev.out.getLsbD d = true ∧ (if d = 0 then t.dev.f0 else t.dev.f1) = false))) ∧
      ((s.boot.phase ≠ .firmware ∨ h.trained = true ∨ s.dev.out.getLsbD d = true) → ∀ pass, exec (.hbmTrainingDone d pass lanes) s = done s))

/-! ### Network time, power, clocks and histograms (19_time_power_clocks.md) -/

/-- R393, R394: a host set is judged at its moment against pending, the budget or the battery RTC; accepted, it becomes slew or the first valid time;
refused, it changes nothing but the reason and raises the PF time interrupt; invalidate acts before a go of the same write. R395, R397, R399, R414:
the slew ends with pending exactly 0 at 500 ppm, a
period's slew rounded to the nearest 2^-32 ns (the model's choice, log 4); PPS edges are accepted, counted, judged and lock; the RTC syncs, and a disagreement makes time not
valid; a read of the low word latches the high word for its reader alone. -/
def Obligations.TimeAndSlew : Prop :=
  (∀ (s : State), keepRuns s = true →
     let m := s.time
     let target : Int := m.target.toNat
     let d := target - m.ntime - m.pending
     let refused (why : BitVec 3) (t : State) : Prop :=
       t.time = { m with valid := t.time.valid, atPps := false, refused := true, reason := why } ∧ Raised s t 0 2
     (m.valid = true →
       (d.natAbs ≤ 2000000 → (m.pending + d).natAbs ≤ 2000000 → d.natAbs ≤ m.budget → exec (.timeCmdGo false) s =
         done { s with time := { m with
           atPps := false
           pending := m.pending + d
           budget := m.budget - d.natAbs
           syncSum := m.syncSum + d.natAbs } }) ∧
       (2000000 < d.natAbs → Runs (.timeCmdGo false) s (fun t => refused 1 t ∧ t.time.valid = true)) ∧
       (d.natAbs ≤ 2000000 → 2000000 < (m.pending + d).natAbs → Runs (.timeCmdGo false) s (fun t => refused 5 t ∧ t.time.valid = true)) ∧
       (d.natAbs ≤ 2000000 → (m.pending + d).natAbs ≤ 2000000 → m.budget < d.natAbs →
         Runs (.timeCmdGo false) s (fun t => refused 2 t ∧ t.time.valid = true))) ∧
     (∀ inv, (inv = true ∨ m.valid = false) →
       let near := (target - m.rtc).natAbs * 1000000 ≤ 20 * (m.rtc - m.syncRtc) + 2000000 * 1000000
       ((m.rtcSet = false ∨ m.rtcLp = true) → Runs (.timeCmdGo inv) s (fun t => refused 4 t ∧ t.time.valid = false)) ∧
       (m.rtcSet = true → m.rtcLp = false → ¬ near → Runs (.timeCmdGo inv) s (fun t => refused 3 t ∧ t.time.valid = false)) ∧
       (m.rtcSet = true → m.rtcLp = false → near → Runs (.timeCmdGo inv) s (fun t =>
         t.time.valid = true ∧ t.time.ntime = m.target.toNat ∧ t.time.pending = 0 ∧ t.time.budget = m.budget ∧ t.time.rtc = m.target.toNat ∧
         t.time.syncRtc = m.target.toNat ∧ t.time.syncNtime = m.target.toNat ∧ t.time.syncSum = 0 ∧
         ∀ i, (s.bucket i).on = true → (t.bucket i).last = m.target.toNat ∧ (t.bucket i).tokens = (s.bucket i).tokens))) ∧
     exec (.timeCmdAtPps false) s = done { s with time := { m with atPps := true } } ∧
     Runs (.timeCmdAtPps true) s (fun t => t.time = { m with atPps := true, valid := false }) ∧
     Runs .timeCmdInvalidate s (fun t => t.time = { m with valid := false } ∧ t.grn = s.grn) ∧
     (m.atPps = true → Runs .atPpsTimeout s (fun t => refused 6 t ∧ t.time.valid = m.valid)) ∧
     (m.atPps = false → exec .atPpsTimeout s = done s)) ∧
  (∀ (s : State), keepRuns s = true →
     let m := s.time
     let e : Int := if m.ntime % 1000000000 < 500000000 then (m.ntime % 1000000000 : Nat) else (m.ntime % 1000000000 : Nat) - 1000000000
     (m.pending ≠ 0 → m.frac < 2 ^ 32 → Runs .slewPendingZero s (fun t =>
       t.time.pending = 0 ∧ ∃ k : Nat, t.tmr.now = s.tmr.now + 40 * k ∧ (t.time.ntime : Int) = (m.ntime + 40 * k + m.pending) % 2 ^ 64 ∧
         m.pending.natAbs * 2 ^ 32 < 85899346 * k + 2 ^ 32 ∧ 85899346 * k < m.pending.natAbs * 2 ^ 32 + 85899346)) ∧
     (m.pending = 0 → exec .slewPendingZero s = done s) ∧
     (m.ppsEn = false → exec .ppsEdge s = done s) ∧
     (m.ppsEn = true →
       (∀ l, m.ppsLast = some l → 100000 < ((m.ntime : Int) - l - 1000000000).natAbs → exec .ppsEdge s =
         done { s with time := { m with ppsRej := min (m.ppsRej + 1) 32767, ppsSat := m.ppsSat || decide (32767 ≤ m.ppsRej + 1) } }) ∧
       ((m.ppsLast = none ∨ ∃ l, m.ppsLast = some l ∧ ((m.ntime : Int) - l - 1000000000).natAbs ≤ 100000) → m.atPps = false →
         (100000 < e.natAbs → exec .ppsEdge s =
           done { s with time := { m with ppsErr := e, ppsLast := some m.ntime, ppsGood := 0, ppsLocked := false } }) ∧
         (e.natAbs ≤ 100000 →
           let seen := { m with
             ppsErr := e
             ppsLast := some m.ntime
             ppsGood := min 4 (m.ppsGood + 1)
             ppsLocked := m.ppsLocked || decide (4 ≤ m.ppsGood + 1) }
           let d := -e - m.pending
           (m.valid = false → exec .ppsEdge s = done { s with time := seen }) ∧
           (m.valid = true → d.natAbs ≤ 2000000 → d.natAbs ≤ m.budget → exec .ppsEdge s = done { s with time := { seen with
             pending := -e
             budget := m.budget - d.natAbs
             syncSum := m.syncSum + d.natAbs } }) ∧
           (m.valid = true → (2000000 < d.natAbs ∨ m.budget < d.natAbs) → exec .ppsEdge s = done { s with time := { seen with
             ppsRej := min (m.ppsRej + 1) 32767
             ppsSat := m.ppsSat || decide (32767 ≤ m.ppsRej + 1) } }))) ∧
       exec .ppsLockTimeout s = done { s with time := { m with ppsLocked := false, ppsGood := 0 } }) ∧
     (m.valid = true →
       let dn : Int := (m.ntime : Int) - m.syncNtime
       let dr : Int := (m.rtc : Int) - m.syncRtc
       let far := (if m.rtcLp then 1000 else 20) * dr.toNat + (m.syncSum + 1000000) * 1000000 < (dn - dr).natAbs * 1000000
       (far → Runs .rtcCompare s (fun t => t.time = { m with valid := false, disagree := true } ∧ Raised s t 0 2)) ∧
       (¬ far → exec .rtcCompare s = done s) ∧
       exec .rtcSync s = done { s with time := { m with
         rtc := m.ntime
         syncNtime := m.ntime
         syncRtc := m.ntime
         syncSum := 0
         rtcSet := true
         rtcLp := m.rtcLp && s.scrAux.xtalStopped } }) ∧
     (m.valid = false → exec .rtcCompare s = done s ∧ exec .rtcSync s = done s) ∧
     (∀ r, exec (.timeNowRead r) s = done { s with tmr := { s.tmr with
       sample := Map.set 0 s.tmr.sample (readerKey r) (BitVec.ofNat 64 m.ntime)
       latch := Map.set 0 s.tmr.latch (readerKey r) (BitVec.ofNat 32 (m.ntime / 2 ^ 32)) } }) ∧
     ∀ r r', r ≠ r' → readerKey r ≠ readerKey r')

/-- R403, R404, R406, R415: a request begins a handshake that stops fetching and asks the agents in table order; an ACK goes on, a DELAY waits and
asks again, a REFUSE or 10 ms abandon it with the agent and its reason. R236, R243, R399, R404 to R406: the IDLE commit clears caches, masks, TU data
and barn DRBGs and puts the stacks in self-refresh; the FALLOW commit writes the orderly snapshot and the exact counts and syncs the RTC; a wake ends
with fetching resumed and the stacks keyed again, and the barn DRBGs are instantiated from raw bits that nothing fixes (log 2), without a die
that is late. -/
def Obligations.PowerHandshakesAndCommits : Prop :=
  (∀ (s : State),
     let p := s.pwr
     let start (t : PwrTarget) : State := { s with pwr := { p with target := t, asking := 1, delay := false, fetchStop := true } }
     let free := keepRuns s = true ∧ (p.state = 0 ∨ p.state = 1) ∧ p.target = .none
     let ended (last : BitVec 2) (agent reason : Nat) : State := { s with pwr := { p with
       target := .none
       asking := 0
       delay := false
       fetchStop := false
       last := last
       agent := agent
       reason := reason } }
     (free → exec .pwrReqIdle s = done (start .idle) ∧ exec .pwrReqFallowPreparation s = done (start .fallow) ∧
       (s.boot.pfEnabled = true → exec .devPwrReqShutdown s = done (start .fallow)) ∧
       (p.idleAfter ≠ 0 → quiet s = true → exec .idleAfterExpiry s = done (start .idle))) ∧
     (¬ free → exec .pwrReqIdle s = done s ∧ exec .pwrReqFallowPreparation s = done s ∧ exec .devPwrReqShutdown s = done s) ∧
     ((p.idleAfter = 0 ∨ quiet s = false) → exec .idleAfterExpiry s = done s) ∧
     (p.target ≠ .none → p.delay = false →
       (agentAnswer s p.asking = .ack → p.asking < 9 →
         exec (.pwrAgentAnswer .ack) s = done { s with pwr := { p with asking := p.asking + 1 } }) ∧
       (∀ r : Byte,
         ((p.asking = 3 ∧ s.win.state = .testmode ∧ r = 2) ∨ (p.asking = 5 ∧ s.yoke.halt = true ∧ r = 3) ∨
           (p.asking = 8 ∧ s.lc.running = true ∧ r = 6) ∨ (p.asking = 9 ∧ r = 7 ∧ ∃ b, b < 8 ∧ (s.bae b).owner = .warden)) →
         exec (.pwrAgentAnswer (.refuse r)) s = done (ended 2 p.asking r.toNat)) ∧
       (∀ us : Fin 65536,
         ((p.asking = 1 ∧ quiet s = false ∧ us = 500) ∨
           (p.asking = 5 ∧ s.yoke.halt = false ∧ (s.yoke.aState = .resyncing ∨ s.yoke.bState = .resyncing) ∧ us = 2000) ∨
           (∃ d, p.asking = d + 5 ∧ (d = 1 ∨ d = 2) ∧ us = 50 ∧
             ((s.stack d).retiring ≠ none ∨ (s.stack d).fills ≠ [] ∨ (s.stack d).held ≠ []))) →
         exec (.pwrAgentAnswer (.delay us)) s = done { s with pwr := { p with delay := true } }) ∧
       exec .pwrHandshakeTimeout s = done (ended 3 p.asking 0)) ∧
     (p.target = .none → (∀ a, exec (.pwrAgentAnswer a) s = done s) ∧ exec .pwrHandshakeTimeout s = done s) ∧
     exec .pwrDelayExpiry s = done { s with pwr := { p with delay := false } }) ∧
  (∀ (s : State),
     let p := s.pwr
     (p.target = .idle → p.delay = false → p.asking = 9 → agentAnswer s 9 = .ack → (s.stack 1).merge = [] → (s.stack 2).merge = [] →
       Runs (.pwrAgentAnswer .ack) s (fun t =>
         t.pwr = { p with
           state := 2
           gated := []
           target := .none
           asking := 0
           last := 1
           agent := 0
           reason := 0 } ∧
         t.uwc = [] ∧ (∀ b, (t.barn b).maskSeed = 0) ∧ (∀ c, c < 2048 → t.core c = { s.core c with mem := [] }) ∧
         (∀ c, 2048 ≤ c → t.core c = s.core c) ∧ (∀ d, t.stack d = { s.stack d with selfRefresh := (s.stack d).inService, keys := none }) ∧
         (∀ i, i < 8 → t.drbg i = {}) ∧ t.drbg 8 = s.drbg 8 ∧ t.hbmKey = s.hbmKey)) ∧
     (p.target = .fallow → p.delay = false → p.asking = 9 → agentAnswer s 9 = .ack → Map.wf {} s.grn.buckets = true →
       Runs (.pwrAgentAnswer .ack) s (fun t =>
         t.pwr = { p with
           state := 3
           target := .none
           asking := 0
           last := 1
           agent := 0
           reason := 0 } ∧
         t.grn.orderly = true ∧ t.grn.snap = t.grn.buckets ∧ t.grn.snapOld = s.grn.snap ∧
         (∀ j, let b := s.bucket j
           let r := (refillBucket s j).bucket j
           t.bucket j = if b.on = false then b
             else if bucketLive s b.part b.fp = false ∧ r.tokens = (s.velPol b.part b.pol).cap then {} else r) ∧
         (∀ c, (s.useCtr c).on = true → (t.useCtr c).live = (s.useCtr c).live ∧
           Map.get 0 (t.useCtr c).marks (s.useCtr c).next = BitVec.ofNat 32 (s.useCtr c).live) ∧
         (s.time.valid = true → t.time.rtc = s.time.ntime ∧ t.time.rtcSet = true ∧ t.time.syncRtc = s.time.ntime) ∧
         (s.time.valid = false → t.time = s.time))) ∧
     (keepRuns s = true → p.state = 2 → p.waking = false → exec .pwrReqRun s = done { s with pwr := { p with waking := true, awake := 0 } }) ∧
     (p.state ≠ 2 → exec .pwrReqRun s = done s) ∧
     (p.waking = true → ∃ t : State,
       t = { s with hbm := t.hbm, pwr := { p with
         state := 0
         waking := false
         awake := 3
         fetchStop := false } } ∧
       (∀ d, s.stack d ≠ {} → t.stack d = { s.stack d with selfRefresh := false, keys := s.hbmKey }) ∧ (∀ d, s.stack d = {} → t.stack d = {}) ∧
       (winRuns s = false → exec .idleWakeDone s = done t) ∧
       (winRuns s = true → exec .idleWakeDone s = done (takeRaw { (seedingRaw t).2 with
         win := { s.win with seeding := s.win.seeding.filter (fun i => decide (i = 8)) ++ [0, 1, 2, 3, 4, 5, 6, 7] } } (seedingRaw t).1))) ∧
     (p.waking = false → exec .idleWakeDone s = done s) ∧
     (∀ d : Fin 2, p.waking = true → dieUp s (d.val + 1) = true → Runs (.wakeDieTimeout d) s (fun t =>
       dieUp t (d.val + 1) = false ∧ t.dev.out.getLsbD d = true ∧ t.dev.causes.getLsbD causeLink = true)) ∧
     (∀ d : Fin 2, (p.waking = false ∨ dieUp s (d.val + 1) = false) → exec (.wakeDieTimeout d) s = done s))

/-- R402, R407, R408, R410, R412: clock gating of an idle stook in TRIM, the throttle steps and the dispatch hold, a Field rail below its limit, the
switch of the domains onto their PLLs and its failure exits, and the latency histograms' base and clear. -/
def Obligations.ClocksAndThrottling : Prop :=
  ∀ (s : State), keepRuns s = true →
    let p := s.pwr
    (∀ k : Fin 32, p.trim = true → (p.state = 0 ∨ p.state = 1) → dieUp s (dieOfStook k) = true →
      ((∀ i, i < 64 → (s.core (64 * k.val + i)).phase = .free) → exec (.stookClockGate k) s =
        done { s with pwr := { p with gated := Map.set false p.gated k true, state := 1 } }) ∧
      (∀ i, i < 64 → (s.core (64 * k.val + i)).phase ≠ .free → exec (.stookClockGate k) s = done s)) ∧
    (∀ (d : Fin 2) (tj : Int), dieUp s (d.val + 1) = true → p.state ≠ 2 →
      let point : Int := s.scr.throttle
      let step := Map.get 0 p.step d
      let cool := Map.get 0 p.cool d
      let slow := Map.get 0 p.slow d
      let hot := Map.get false p.hot d
      let next (a b c : Nat) (h : Bool) : State := { s with pwr := { p with
        step := Map.set 0 p.step d a
        cool := Map.set 0 p.cool d b
        slow := Map.set 0 p.slow d c
        hot := Map.set false p.hot d h } }
      (point < tj → step < 3 → exec (.thermalSample d tj) s = done (next (step + 1) 0 0 hot)) ∧
      (point < tj → 3 ≤ step → exec (.thermalSample d tj) s =
        done (next step 0 (min 1000 (slow + 1)) (hot || decide (1000 ≤ slow + 1)))) ∧
      (tj < point - 5 → 0 < step → 99 ≤ cool → exec (.thermalSample d tj) s = done (next (step - 1) 0 0 false)) ∧
      (tj < point - 5 → (step = 0 ∨ cool < 99) → exec (.thermalSample d tj) s = done (next step (min 100 (cool + 1)) 0 false)) ∧
      (point - 5 ≤ tj → tj < point → exec (.thermalSample d tj) s = done (next step 0 0 false)) ∧
      (tj = point → exec (.thermalSample d tj) s = done (next step 0 0 hot))) ∧
    (∀ d : Fin 2, (p.state = 0 ∨ p.state = 1) → dieUp s (d.val + 1) = true → Runs (.fieldRailUndervoltage d) s (fun t =>
      dieUp t (d.val + 1) = false ∧ t.dev.out.getLsbD d = true ∧ t.dev.causes.getLsbD causeLink = true ∧
      ∀ e, (s.entry e).die = d.val + 1 → (s.entry e).phase = .running → (s.entry e).state = .reserved → (s.entry e).accepted = true →
        (t.entry e).state = .staged ∧ (t.entry e).status = St.aborted)) ∧
    (∀ v : Word,
      let on : BitVec 4 := v.setWidth 4
      let new := on &&& ~~~p.clkCtrl
      (new &&& ~~~p.lock = 0 → exec (.clkCtrlSwitch v) s =
        done { s with pwr := { p with clkCtrl := p.clkCtrl ||| new, armed := p.armed ||| new } }) ∧
      (∀ i, i < 2 → new = BitVec.twoPow 4 i → p.lock.getLsbD i = false → Runs (.clkCtrlSwitch v) s (fun t =>
        t.pwr = p ∧ t.dev.causes.getLsbD causeClock = true)) ∧
      (∀ d : Fin 2, new = BitVec.twoPow 4 (d.val + 2) → p.lock.getLsbD (d.val + 2) = false → dieUp s (d.val + 1) = true →
        Runs (.clkCtrlSwitch v) s (fun t => t.pwr = p ∧ dieUp t (d.val + 1) = false ∧ t.dev.out.getLsbD d = true))) ∧
    (p.pllStarted = true → ∀ k : Fin 4, exec (.pllLock k) s = done { s with pwr := { p with lock := p.lock ||| BitVec.twoPow 4 k } }) ∧
    (∀ v : Word,
      let cleared := { s with hif := { s.hif with hist := [], histWrap := [], histBase := v.toNat % 16 } }
      (v.toNat % 16 ≠ s.hif.histBase → exec (.hifHistBaseWrite v) s = done cleared) ∧
      (v.toNat % 16 = s.hif.histBase → exec (.hifHistBaseWrite v) s = done s) ∧
      (v.getLsbD 4 = true → exec (.hifHistClear v) s = done cleared))

/-! ### The SPDM responder and the I3C target (17_boot_attestation.md); the message layouts are those of DSP0274 (log 10) -/

/-- R371, R374: before release MCTP answers Busy and DOE sees nothing; version 1.3 alone, the stated capabilities and algorithms; slot 0 alone, empty
before an identity certificate is stored; every other request is unsupported. Layouts are the model's (log 10). R373: a 1-byte private write sets the
read offset, a private read returns the 64-byte status block from it, and SETDASA or ENTDAA give an address. What a read beyond the block returns is
free. -/
def Obligations.SpdmConnectionAndI3c : Prop :=
  (∀ (s : State) (t : Transport) (req : Bytes),
     let conn := Map.get 0 s.spdm.conn (Responder.key t)
     let joins (r : Bytes) (u : State) : Prop :=
       Map.get [] u.spdm.vca (Responder.key t) = Map.get [] s.spdm.vca (Responder.key t) ++ req ++ r
     (Responder.powered s = true → Responder.released s = false →
       (let busy := done { s with spdm := { s.spdm with respMctp := [0x13, 0x7F, 0x03, 0] } }
        exec (.spdmUnsupportedRequest .mctp req) s = busy ∧ (byteAt req 1 = 0x84 → exec (.getVersion .mctp req) s = busy) ∧
        (byteAt req 1 = 0xE1 → exec (.getCapabilities .mctp req) s = busy) ∧ (byteAt req 1 = 0xE0 → exec (.getMeasurements .mctp req) s = busy)) ∧
       exec (.getVersion .doe req) s = done s ∧ exec (.spdmUnsupportedRequest .doe req) s = done s) ∧
     (SpdmServes s →
       (byteAt req 0 = 0x10 → byteAt req 1 = 0x84 → 4 ≤ req.length →
         SpdmAnswers (.getVersion t req) s t [0x10, 0x04, 0, 0, 0, 1, 0x00, 0x13] (fun u =>
           Map.get 0 u.spdm.conn (Responder.key t) = 1 ∧ u.spdm.sessions = if t = .doe then [] else s.spdm.sessions)) ∧
       (SpdmReq req 0xE1 20 → conn = 1 → ∃ r, SpdmAnswers (.getCapabilities t req) s t r (fun u =>
         r.length = 20 ∧ r.take 2 = [0x13, 0x61] ∧ fieldLe r 8 4 = 0x2D6 ∧ Map.get 0 u.spdm.conn (Responder.key t) = 2 ∧ joins r u)) ∧
       (SpdmReq req 0xE3 32 → conn = 2 → bit (fieldLe req 8 4) 7 = true → bit (fieldLe req 12 4) 1 = true → fieldLe req 4 2 = req.length →
         ∃ r, SpdmAnswers (.negotiateAlgorithms t req) s t r (fun u =>
           r.take 2 = [0x13, 0x63] ∧ fieldLe r 8 4 = 4 ∧ fieldLe r 12 4 = 0x80 ∧ fieldLe r 16 4 = 2 ∧
           Map.get 0 u.spdm.conn (Responder.key t) = 3 ∧ joins r u)) ∧
       (SpdmReq req 0x81 4 → 3 ≤ conn →
         (Responder.chain s = none → SpdmAnswers (.getDigests t req) s t [0x13, 0x01, 1, 0] (fun u => u.spdm.sessions = s.spdm.sessions)) ∧
         (∀ c, Responder.chain s = some c → SpdmAnswers (.getDigests t req) s t ([0x13, 0x01, 1, 1] ++ Hash.sha384 c) (fun u =>
           u.spdm.sessions = s.spdm.sessions))) ∧
       (SpdmReq req 0x82 8 → 3 ≤ conn →
         (Responder.chain s = none → SpdmAnswers (.getCertificate t req) s t [0x13, 0x7F, 0x01, 0] (fun u => u.spdm = { s.spdm with
           respDoe := u.spdm.respDoe
           respMctp := u.spdm.respMctp })) ∧
         (∀ c, Responder.chain s = some c → (byteAt req 2).toNat % 16 = 0 → (byteAt req 3).getLsbD 0 = false → fieldLe req 4 2 < c.length →
           let part := (c.drop (fieldLe req 4 2)).take (fieldLe req 6 2)
           SpdmAnswers (.getCertificate t req) s t
             ([0x13, 0x02, 0, 0] ++ le 2 part.length ++ le 2 (c.length - fieldLe req 4 2 - part.length) ++ part)
             (fun u => u.spdm.sessions = s.spdm.sessions))) ∧
       (spdmServes t (byteAt req 1) = false → SpdmAnswers (.spdmUnsupportedRequest t req) s t [0x13, 0x7F, 0x07, byteAt req 1] (fun u =>
         u.spdm.sessions = s.spdm.sessions ∧ u.spdm.conn = s.spdm.conn))) ∧
     (spdmServes t (byteAt req 1) = true ↔
       (byteAt req 1 ∈ [0x84, 0xE1, 0xE3, 0x81, 0x82, 0x83, 0xE0] ∨ (t = .doe ∧ byteAt req 1 ∈ [0xE4, 0xE5])))) ∧
  (∀ (s : State), s.pwr.rails = true →
     (∀ b : Byte, exec (.i3cPrivateWrite b) s = done { s with spdm := { s.spdm with i3cOfs := b.toNat } }) ∧
     (∀ a, exec (.i3cDynamicAddress a) s = done { s with spdm := { s.spdm with i3cAddr := some a } }) ∧
     (∀ n, Runs (.i3cPrivateRead n) s (fun t =>
       t = { s with spdm := { s.spdm with i3cData := t.spdm.i3cData }, free := t.free, pins := t.pins } ∧ t.spdm.i3cData.length = n ∧
       ∀ k, k < n → s.spdm.i3cOfs + k < 64 → t.spdm.i3cData.getD k 0 = byteAt (statusBlock s) (s.spdm.i3cOfs + k))) ∧
     (let b := statusBlock s
      b.length = 64 ∧ byteAt b 0 = 1 ∧ (s.boot.phase = .stall → byteAt b 1 = 0x10 ∧ byteAt b 2 = BitVec.ofNat 8 s.boot.stall) ∧
      (s.boot.phase = .hold → byteAt b 1 = 0x11 ∧ byteAt b 5 = BitVec.ofNat 8 s.scr.firstCause) ∧
      (s.boot.phase = .halt → byteAt b 1 = 0x12) ∧ (s.boot.phase = .released → byteAt b 1 = 0x06) ∧ byteAt b 4 = BitVec.ofNat 8 s.boot.haltReason ∧
      (byteAt b 6).getLsbD 0 = (s.dev.causes != 0) ∧ (byteAt b 6).getLsbD 1 = s.boot.solo ∧ (byteAt b 6).getLsbD 2 = s.boot.faultN ∧
      (byteAt b 6).getLsbD 3 = s.scr.tamperN ∧ (byteAt b 6).getLsbD 4 = s.boot.bankB ∧ (byteAt b 6).getLsbD 5 = s.boot.fallback ∧
      fieldLe b 8 8 = Config.unitSerial.toNat ∧ fieldLe b 24 4 = s.boot.count % 2 ^ 32 ∧ slice b 40 24 = zeros 24))

/-- R371, R372: CHALLENGE and GET_MEASUREMENTS are answered with the measurement blocks and a signature under the alias key; a third KEY_EXCHANGE
evicts the older session; FINISH establishes its session or ends it. R245: an answer that draws waits for the Keep DRBG. Layouts, transcripts and the
key schedule are the model's (log 10). -/
def Obligations.SpdmAuthentication : Prop :=
  ∀ (s : State) (t : Transport) (req : Bytes), SpdmServes s →
    (drbgServes s 8 = false → exec (.challenge t req) s = done s ∧ exec (.getMeasurements t req) s = done s ∧ exec (.keyExchange t req) s = done s) ∧
    (3 ≤ Map.get 0 s.spdm.conn (Responder.key t) →
    let vca := Map.get [] s.spdm.vca (Responder.key t)
    (∀ c d sum, drbgServes s 8 = true → SpdmReq req 0x83 44 → byteAt req 2 = 0 → Responder.chain s = some c → s.boot.aliasKey = some d →
      Responder.summary s (byteAt req 3) = some sum →
      let body := [0x13, 0x03, 0, 1] ++ Hash.sha384 c ++ (drbgGen s 8 32).1 ++ sum ++ le 2 0 ++ slice req 36 8
      let script := vca ++ Map.get [] s.spdm.chal (Responder.key t) ++ req ++ body
      SpdmAnswers (.challenge t req) s t
        (body ++ (Responder.sign (drbgGen s 8 32).2 d "responder-challenge_auth signing" script).1) (fun u => u.spdm.sessions = s.spdm.sessions)) ∧
    (∀ is, drbgServes s 8 = true → byteAt req 0 = 0x13 → byteAt req 1 = 0xE0 → Responder.measIndices (byteAt req 3).toNat = some is →
      let blocks := is.flatMap (Responder.measBlock s)
      let body (ctx : Bytes) : Bytes :=
        [0x13, 0x60, if byteAt req 3 = 0 then 25 else 0, 0, BitVec.ofNat 8 is.length] ++ le 3 blocks.length ++ blocks ++
          (drbgGen s 8 32).1 ++ le 2 0 ++ ctx
      ((byteAt req 2).getLsbD 0 = false → 12 ≤ req.length →
        SpdmAnswers (.getMeasurements t req) s t (body (slice req 4 8)) (fun u => u.spdm.sessions = s.spdm.sessions)) ∧
      (∀ d, (byteAt req 2).getLsbD 0 = true → 45 ≤ req.length → (byteAt req 36).toNat % 16 = 0 → s.boot.aliasKey = some d →
        let b := body (slice req 37 8)
        let script := vca ++ (Map.get [] s.spdm.meas (Responder.key t) ++ req ++ b)
        SpdmAnswers (.getMeasurements t req) s t
          (b ++ (Responder.sign (drbgGen s 8 32).2 d "responder-measurements signing" script).1) (fun u => u.spdm.sessions = s.spdm.sessions))) ∧
    (t = .doe → drbgServes s 8 = true → SpdmReq req 0xE4 138 → byteAt req 3 = 0 → req.length = 138 + fieldLe req 136 2 → Responder.chain s ≠ none → s.boot.aliasKey ≠ none →
      Responder.summary s (byteAt req 2) ≠ none → (∃ p, Ec.decode Ec.p384 (0x04 :: slice req 40 96) = some p) →
      ∃ r x, SpdmAnswers (.keyExchange t req) s t r (fun u =>
        r.take 4 = [0x13, 0x64, 0, 0] ∧ x.established = false ∧
        x.id = BitVec.ofNat 32 (fieldLe req 4 2 + (s.spdm.issued % 65535 + 1) * 65536) ∧
        u.spdm.sessions = (if s.spdm.sessions.length < 2 then s.spdm.sessions else s.spdm.sessions.drop (s.spdm.sessions.length - 1)) ++ [x])) ∧
    (∀ (n : BitVec 32) x, t = .doe → SpdmReq req 0xE5 52 → (byteAt req 2).getLsbD 0 = false → s.spdm.sessions.find? (fun x => x.id == n) = some x →
      x.established = false →
      let good := Hash.hmac .sha384 x.reqFinished (Hash.sha384 (x.transcript ++ req.take 4))
      (slice req 4 48 = good → SpdmAnswers (.finish t n req) s t [0x13, 0x65, 0, 0] (fun u =>
        u.spdm.sessions = s.spdm.sessions.map (fun z =>
          if z.id == n then { x with established := true, transcript := x.transcript ++ req.take 52 ++ [0x13, 0x65, 0, 0] } else z))) ∧
      (slice req 4 48 ≠ good → SpdmAnswers (.finish t n req) s t [0x13, 0x7F, 0x06, 0] (fun u =>
        u.spdm.sessions = s.spdm.sessions.filter (fun x => x.id != n)))) ∧
    (∀ i, (1 ≤ i ∧ i ≤ 6 → Responder.measValue s i = some (1, digestBytes (s.meas (i - 1)))) ∧
      (i = 7 → Responder.measValue s i = some (0, digestBytes (s.meas 6))) ∧
      (i = 8 → Responder.measValue s i = some (2, digestBytes (s.meas 7))) ∧
      (i = 9 → Map.get 0 s.boot.recCount (s.boot.count % 256) = s.boot.count + 1 →
        Responder.measValue s i = some (0x84, recordShown s (s.boot.count % 256)))))
end

