-- ==== Sys2Proof/Laws/Map.lean ====
section
/-! SUPPORT. Sparse arrays: what a read gives after a write, and that every operation keeps the canonical form. -/

namespace Sys2Proof

variable {α : Type}

@[simp] theorem Map.get_nil (d : α) (k : Nat) : Map.get d [] k = d := rfl

theorem Map.get_del_self (d : α) (m : Map α) (k : Nat) : Map.get d (Map.del m k) k = d := by
  induction m with
  | nil => rfl
  | cons p r ih =>
    by_cases h : p.1 = k
    · simp [Map.del, h, ih]
    · simp [Map.del, h, Map.get, ih]

theorem Map.get_del_ne (d : α) (m : Map α) (k j : Nat) (h : j ≠ k) : Map.get d (Map.del m k) j = Map.get d m j := by
  induction m with
  | nil => rfl
  | cons p r ih =>
    by_cases hk : p.1 = k
    · have hj2 : ¬ k = j := fun e => h e.symm
      simp [Map.del, Map.get, hk, ih, hj2]
    · by_cases hj : p.1 = j <;> simp [Map.del, Map.get, hk, hj, ih, h]

theorem Map.get_put_self (d : α) (m : Map α) (k : Nat) (a : α) : Map.get d (Map.put m k a) k = a := by
  induction m with
  | nil => simp [Map.put, Map.get]
  | cons p r ih =>
    simp only [Map.put]
    split
    · simp [Map.get]
    · split
      · simp [Map.get]
      · next h => simp [Map.get, h, ih]

theorem Map.get_put_ne (d : α) (m : Map α) (k j : Nat) (a : α) (h : j ≠ k) : Map.get d (Map.put m k a) j = Map.get d m j := by
  have h' : ¬ k = j := fun e => h e.symm
  induction m with
  | nil => simp [Map.put, Map.get, h']
  | cons p r ih =>
    simp only [Map.put]
    split
    · simp [Map.get, h']
    · split
      · next e => simp [Map.get, h', e]
      · by_cases hj : p.1 = j <;> simp [Map.get, hj, ih]

variable [DecidableEq α]

/-- A read after a write to the same index gives the value written. -/
@[simp] theorem Map.get_set_self (d : α) (m : Map α) (k : Nat) (a : α) : Map.get d (Map.set d m k a) k = a := by
  unfold Map.set
  split
  · next h => rw [h]; exact Map.get_del_self d m k
  · exact Map.get_put_self d m k a

/-- A write leaves every other index alone. -/
theorem Map.get_set_ne (d : α) (m : Map α) (k j : Nat) (a : α) (h : j ≠ k) : Map.get d (Map.set d m k a) j = Map.get d m j := by
  unfold Map.set
  split
  · exact Map.get_del_ne d m k j h
  · exact Map.get_put_ne d m k j a h

theorem Map.get_set (d : α) (m : Map α) (k j : Nat) (a : α) :
    Map.get d (Map.set d m k a) j = if j = k then a else Map.get d m j := by
  split
  · next h => rw [h, Map.get_set_self]
  · next h => exact Map.get_set_ne d m k j a h

theorem Map.wfFrom_mono (d : α) (m : Map α) (lo lo' : Nat) (h : lo' ≤ lo) (hw : Map.wfFrom d lo m = true) :
    Map.wfFrom d lo' m = true := by
  cases m with
  | nil => rfl
  | cons p r =>
    simp only [Map.wfFrom, Bool.and_eq_true, decide_eq_true_eq] at hw ⊢
    exact ⟨⟨Nat.le_trans h hw.1.1, hw.1.2⟩, hw.2⟩

theorem Map.wfFrom_del (d : α) (m : Map α) (k lo : Nat) (hw : Map.wfFrom d lo m = true) :
    Map.wfFrom d lo (Map.del m k) = true := by
  induction m generalizing lo with
  | nil => rfl
  | cons p r ih =>
    simp only [Map.wfFrom, Bool.and_eq_true, decide_eq_true_eq] at hw
    simp only [Map.del]
    split
    · exact Map.wfFrom_mono d _ (p.1 + 1) lo (by omega) (ih (p.1 + 1) hw.2)
    · simp only [Map.wfFrom, Bool.and_eq_true, decide_eq_true_eq]
      exact ⟨hw.1, ih (p.1 + 1) hw.2⟩

theorem Map.wfFrom_put (d : α) (m : Map α) (k lo : Nat) (a : α) (ha : a ≠ d) (hk : lo ≤ k) (hw : Map.wfFrom d lo m = true) :
    Map.wfFrom d lo (Map.put m k a) = true := by
  induction m generalizing lo with
  | nil => simp [Map.put, Map.wfFrom, ha, hk]
  | cons p r ih =>
    simp only [Map.wfFrom, Bool.and_eq_true, decide_eq_true_eq] at hw
    simp only [Map.put]
    split
    · next h =>
      simp only [Map.wfFrom, Bool.and_eq_true, decide_eq_true_eq]
      exact ⟨⟨hk, ha⟩, ⟨h, hw.1.2⟩, hw.2⟩
    · split
      · next h e =>
        simp only [Map.wfFrom, Bool.and_eq_true, decide_eq_true_eq]
        exact ⟨⟨hk, ha⟩, e ▸ hw.2⟩
      · next h e =>
        simp only [Map.wfFrom, Bool.and_eq_true, decide_eq_true_eq]
        exact ⟨hw.1, ih (p.1 + 1) (by omega) hw.2⟩

/-- A write keeps the canonical form. -/
theorem Map.wf_set (d : α) (m : Map α) (k : Nat) (a : α) (hw : Map.wf d m = true) : Map.wf d (Map.set d m k a) = true := by
  unfold Map.wf at *
  unfold Map.set
  split
  · exact Map.wfFrom_del d m k 0 hw
  · next h => exact Map.wfFrom_put d m k 0 a h (Nat.zero_le k) hw

/-- A change of every element keeps the canonical form. -/
theorem Map.wf_mapVals (d : α) (f : Nat → α → α) (m : Map α) : Map.wf d (Map.mapVals d f m) = true := by
  induction m with
  | nil => rfl
  | cons p r ih => exact Map.wf_set d _ _ _ ih

end Sys2Proof
end

