-- ==== Sys2Proof/Laws/State.lean ====
section
/-! SUPPORT. What each update of one unit leaves: every field of the state but the one that holds the unit, and the unit read back. -/

set_option linter.unusedVariables false

namespace Sys2Proof.Machine

open Sys2Proof

variable (s : State)

/-! ### setCore -/

@[simp] theorem State.setCore_pending (c : Nat) (x : Core) : (s.setCore c x).pending = s.pending := rfl
@[simp] theorem State.setCore_hostMem (c : Nat) (x : Core) : (s.setCore c x).hostMem = s.hostMem := rfl
@[simp] theorem State.setCore_sram (c : Nat) (x : Core) : (s.setCore c x).sram = s.sram := rfl
@[simp] theorem State.setCore_free (c : Nat) (x : Core) : (s.setCore c x).free = s.free := rfl
@[simp] theorem State.setCore_regs (c : Nat) (x : Core) : (s.setCore c x).regs = s.regs := rfl
@[simp] theorem State.setCore_hif (c : Nat) (x : Core) : (s.setCore c x).hif = s.hif := rfl
@[simp] theorem State.setCore_entries (c : Nat) (x : Core) : (s.setCore c x).entries = s.entries := rfl
@[simp] theorem State.setCore_flows (c : Nat) (x : Core) : (s.setCore c x).flows = s.flows := rfl
@[simp] theorem State.setCore_sched (c : Nat) (x : Core) : (s.setCore c x).sched = s.sched := rfl
@[simp] theorem State.setCore_sys (c : Nat) (x : Core) : (s.setCore c x).sys = s.sys := rfl
@[simp] theorem State.setCore_uwc (c : Nat) (x : Core) : (s.setCore c x).uwc = s.uwc := rfl
@[simp] theorem State.setCore_uwcAge (c : Nat) (x : Core) : (s.setCore c x).uwcAge = s.uwcAge := rfl
@[simp] theorem State.setCore_barns (c : Nat) (x : Core) : (s.setCore c x).barns = s.barns := rfl
@[simp] theorem State.setCore_bes (c : Nat) (x : Core) : (s.setCore c x).bes = s.bes := rfl
@[simp] theorem State.setCore_beSlots (c : Nat) (x : Core) : (s.setCore c x).beSlots = s.beSlots := rfl
@[simp] theorem State.setCore_baes (c : Nat) (x : Core) : (s.setCore c x).baes = s.baes := rfl
@[simp] theorem State.setCore_bnes (c : Nat) (x : Core) : (s.setCore c x).bnes = s.bnes := rfl
@[simp] theorem State.setCore_grn (c : Nat) (x : Core) : (s.setCore c x).grn = s.grn := rfl
@[simp] theorem State.setCore_win (c : Nat) (x : Core) : (s.setCore c x).win = s.win := rfl
@[simp] theorem State.setCore_hbm (c : Nat) (x : Core) : (s.setCore c x).hbm = s.hbm := rfl
@[simp] theorem State.setCore_hbmKey (c : Nat) (x : Core) : (s.setCore c x).hbmKey = s.hbmKey := rfl
@[simp] theorem State.setCore_rowHist (c : Nat) (x : Core) : (s.setCore c x).rowHist = s.rowHist := rfl
@[simp] theorem State.setCore_parts (c : Nat) (x : Core) : (s.setCore c x).parts = s.parts := rfl
@[simp] theorem State.setCore_decTables (c : Nat) (x : Core) : (s.setCore c x).decTables = s.decTables := rfl
@[simp] theorem State.setCore_velPols (c : Nat) (x : Core) : (s.setCore c x).velPols = s.velPols := rfl
@[simp] theorem State.setCore_seen (c : Nat) (x : Core) : (s.setCore c x).seen = s.seen := rfl
@[simp] theorem State.setCore_yoke (c : Nat) (x : Core) : (s.setCore c x).yoke = s.yoke := rfl
@[simp] theorem State.setCore_ofc (c : Nat) (x : Core) : (s.setCore c x).ofc = s.ofc := rfl
@[simp] theorem State.setCore_scr (c : Nat) (x : Core) : (s.setCore c x).scr = s.scr := rfl
@[simp] theorem State.setCore_scrAux (c : Nat) (x : Core) : (s.setCore c x).scrAux = s.scrAux := rfl
@[simp] theorem State.setCore_lc (c : Nat) (x : Core) : (s.setCore c x).lc = s.lc := rfl
@[simp] theorem State.setCore_gates (c : Nat) (x : Core) : (s.setCore c x).gates = s.gates := rfl
@[simp] theorem State.setCore_tap (c : Nat) (x : Core) : (s.setCore c x).tap = s.tap := rfl
@[simp] theorem State.setCore_boot (c : Nat) (x : Core) : (s.setCore c x).boot = s.boot := rfl
@[simp] theorem State.setCore_ldr (c : Nat) (x : Core) : (s.setCore c x).ldr = s.ldr := rfl
@[simp] theorem State.setCore_spdm (c : Nat) (x : Core) : (s.setCore c x).spdm = s.spdm := rfl
@[simp] theorem State.setCore_tal (c : Nat) (x : Core) : (s.setCore c x).tal = s.tal := rfl
@[simp] theorem State.setCore_time (c : Nat) (x : Core) : (s.setCore c x).time = s.time := rfl
@[simp] theorem State.setCore_tmr (c : Nat) (x : Core) : (s.setCore c x).tmr = s.tmr := rfl
@[simp] theorem State.setCore_pwr (c : Nat) (x : Core) : (s.setCore c x).pwr = s.pwr := rfl
@[simp] theorem State.setCore_links (c : Nat) (x : Core) : (s.setCore c x).links = s.links := rfl
@[simp] theorem State.setCore_dev (c : Nat) (x : Core) : (s.setCore c x).dev = s.dev := rfl
@[simp] theorem State.setCore_pins (c : Nat) (x : Core) : (s.setCore c x).pins = s.pins := rfl
@[simp] theorem State.setCore_entry' (c : Nat) (x : Core) (e' : Nat) : (s.setCore c x).entry e' = s.entry e' := rfl
@[simp] theorem State.setCore_sysCore' (c : Nat) (x : Core) (k' : Nat) : (s.setCore c x).sysCore k' = s.sysCore k' := rfl
@[simp] theorem State.setCore_part' (c : Nat) (x : Core) (p' : Nat) : (s.setCore c x).part p' = s.part p' := rfl
@[simp] theorem State.setCore_flow' (c : Nat) (x : Core) (i' : Nat) : (s.setCore c x).flow i' = s.flow i' := rfl
@[simp] theorem State.setCore_barn' (c : Nat) (x : Core) (b' : Nat) : (s.setCore c x).barn b' = s.barn b' := rfl
@[simp] theorem State.setCore_be' (c : Nat) (x : Core) (e' : Nat) : (s.setCore c x).be e' = s.be e' := rfl
@[simp] theorem State.setCore_beSlot' (c : Nat) (x : Core) (i' : Nat) : (s.setCore c x).beSlot i' = s.beSlot i' := rfl
@[simp] theorem State.setCore_bae' (c : Nat) (x : Core) (b' : Nat) : (s.setCore c x).bae b' = s.bae b' := rfl
@[simp] theorem State.setCore_bne' (c : Nat) (x : Core) (n' : Nat) : (s.setCore c x).bne n' = s.bne n' := rfl
@[simp] theorem State.setCore_stack' (c : Nat) (x : Core) (d' : Nat) : (s.setCore c x).stack d' = s.stack d' := rfl
@[simp] theorem State.setCore_gate' (c : Nat) (x : Core) (a' : Nat) : (s.setCore c x).gate a' = s.gate a' := rfl
@[simp] theorem State.setCore_link' (c : Nat) (x : Core) (l' : Nat) : (s.setCore c x).link l' = s.link l' := rfl
@[simp] theorem State.setCore_sq' (c : Nat) (x : Core) (f' n' : Nat) : (s.setCore c x).sq f' n' = s.sq f' n' := rfl
@[simp] theorem State.setCore_cq' (c : Nat) (x : Core) (f' n' : Nat) : (s.setCore c x).cq f' n' = s.cq f' n' := rfl
@[simp] theorem State.setCore_msix' (c : Nat) (x : Core) (f' v' : Nat) : (s.setCore c x).msix f' v' = s.msix f' v' := rfl
@[simp] theorem State.setCore_window' (c : Nat) (x : Core) (k' n' : Nat) : (s.setCore c x).window k' n' = s.window k' n' := rfl
@[simp] theorem State.setCore_slotAt' (c : Nat) (x : Core) (i' : Nat) : (s.setCore c x).slotAt i' = s.slotAt i' := rfl
@[simp] theorem State.setCore_useCtr' (c : Nat) (x : Core) (i' : Nat) : (s.setCore c x).useCtr i' = s.useCtr i' := rfl
@[simp] theorem State.setCore_bucket' (c : Nat) (x : Core) (i' : Nat) : (s.setCore c x).bucket i' = s.bucket i' := rfl
@[simp] theorem State.setCore_source' (c : Nat) (x : Core) (i' : Nat) : (s.setCore c x).source i' = s.source i' := rfl
@[simp] theorem State.setCore_drbg' (c : Nat) (x : Core) (i' : Nat) : (s.setCore c x).drbg i' = s.drbg i' := rfl
@[simp] theorem State.setCore_reg' (c : Nat) (x : Core) (a' : Nat) : (s.setCore c x).reg a' = s.reg a' := rfl
@[simp] theorem State.setCore_self (c : Nat) (x : Core) : (s.setCore c x).core c = x := Map.get_set_self _ _ _ _
theorem State.setCore_ne (c c' : Nat) (x : Core) (h : c' ≠ c) : (s.setCore c x).core c' = s.core c' := Map.get_set_ne _ _ _ _ _ h

/-! ### setEntry -/

@[simp] theorem State.setEntry_pending (e : Nat) (x : Entry) : (s.setEntry e x).pending = s.pending := rfl
@[simp] theorem State.setEntry_hostMem (e : Nat) (x : Entry) : (s.setEntry e x).hostMem = s.hostMem := rfl
@[simp] theorem State.setEntry_sram (e : Nat) (x : Entry) : (s.setEntry e x).sram = s.sram := rfl
@[simp] theorem State.setEntry_free (e : Nat) (x : Entry) : (s.setEntry e x).free = s.free := rfl
@[simp] theorem State.setEntry_regs (e : Nat) (x : Entry) : (s.setEntry e x).regs = s.regs := rfl
@[simp] theorem State.setEntry_hif (e : Nat) (x : Entry) : (s.setEntry e x).hif = s.hif := rfl
@[simp] theorem State.setEntry_flows (e : Nat) (x : Entry) : (s.setEntry e x).flows = s.flows := rfl
@[simp] theorem State.setEntry_sched (e : Nat) (x : Entry) : (s.setEntry e x).sched = s.sched := rfl
@[simp] theorem State.setEntry_cores (e : Nat) (x : Entry) : (s.setEntry e x).cores = s.cores := rfl
@[simp] theorem State.setEntry_sys (e : Nat) (x : Entry) : (s.setEntry e x).sys = s.sys := rfl
@[simp] theorem State.setEntry_uwc (e : Nat) (x : Entry) : (s.setEntry e x).uwc = s.uwc := rfl
@[simp] theorem State.setEntry_uwcAge (e : Nat) (x : Entry) : (s.setEntry e x).uwcAge = s.uwcAge := rfl
@[simp] theorem State.setEntry_barns (e : Nat) (x : Entry) : (s.setEntry e x).barns = s.barns := rfl
@[simp] theorem State.setEntry_bes (e : Nat) (x : Entry) : (s.setEntry e x).bes = s.bes := rfl
@[simp] theorem State.setEntry_beSlots (e : Nat) (x : Entry) : (s.setEntry e x).beSlots = s.beSlots := rfl
@[simp] theorem State.setEntry_baes (e : Nat) (x : Entry) : (s.setEntry e x).baes = s.baes := rfl
@[simp] theorem State.setEntry_bnes (e : Nat) (x : Entry) : (s.setEntry e x).bnes = s.bnes := rfl
@[simp] theorem State.setEntry_grn (e : Nat) (x : Entry) : (s.setEntry e x).grn = s.grn := rfl
@[simp] theorem State.setEntry_win (e : Nat) (x : Entry) : (s.setEntry e x).win = s.win := rfl
@[simp] theorem State.setEntry_hbm (e : Nat) (x : Entry) : (s.setEntry e x).hbm = s.hbm := rfl
@[simp] theorem State.setEntry_hbmKey (e : Nat) (x : Entry) : (s.setEntry e x).hbmKey = s.hbmKey := rfl
@[simp] theorem State.setEntry_rowHist (e : Nat) (x : Entry) : (s.setEntry e x).rowHist = s.rowHist := rfl
@[simp] theorem State.setEntry_parts (e : Nat) (x : Entry) : (s.setEntry e x).parts = s.parts := rfl
@[simp] theorem State.setEntry_decTables (e : Nat) (x : Entry) : (s.setEntry e x).decTables = s.decTables := rfl
@[simp] theorem State.setEntry_velPols (e : Nat) (x : Entry) : (s.setEntry e x).velPols = s.velPols := rfl
@[simp] theorem State.setEntry_seen (e : Nat) (x : Entry) : (s.setEntry e x).seen = s.seen := rfl
@[simp] theorem State.setEntry_yoke (e : Nat) (x : Entry) : (s.setEntry e x).yoke = s.yoke := rfl
@[simp] theorem State.setEntry_ofc (e : Nat) (x : Entry) : (s.setEntry e x).ofc = s.ofc := rfl
@[simp] theorem State.setEntry_scr (e : Nat) (x : Entry) : (s.setEntry e x).scr = s.scr := rfl
@[simp] theorem State.setEntry_scrAux (e : Nat) (x : Entry) : (s.setEntry e x).scrAux = s.scrAux := rfl
@[simp] theorem State.setEntry_lc (e : Nat) (x : Entry) : (s.setEntry e x).lc = s.lc := rfl
@[simp] theorem State.setEntry_gates (e : Nat) (x : Entry) : (s.setEntry e x).gates = s.gates := rfl
@[simp] theorem State.setEntry_tap (e : Nat) (x : Entry) : (s.setEntry e x).tap = s.tap := rfl
@[simp] theorem State.setEntry_boot (e : Nat) (x : Entry) : (s.setEntry e x).boot = s.boot := rfl
@[simp] theorem State.setEntry_ldr (e : Nat) (x : Entry) : (s.setEntry e x).ldr = s.ldr := rfl
@[simp] theorem State.setEntry_spdm (e : Nat) (x : Entry) : (s.setEntry e x).spdm = s.spdm := rfl
@[simp] theorem State.setEntry_tal (e : Nat) (x : Entry) : (s.setEntry e x).tal = s.tal := rfl
@[simp] theorem State.setEntry_time (e : Nat) (x : Entry) : (s.setEntry e x).time = s.time := rfl
@[simp] theorem State.setEntry_tmr (e : Nat) (x : Entry) : (s.setEntry e x).tmr = s.tmr := rfl
@[simp] theorem State.setEntry_pwr (e : Nat) (x : Entry) : (s.setEntry e x).pwr = s.pwr := rfl
@[simp] theorem State.setEntry_links (e : Nat) (x : Entry) : (s.setEntry e x).links = s.links := rfl
@[simp] theorem State.setEntry_dev (e : Nat) (x : Entry) : (s.setEntry e x).dev = s.dev := rfl
@[simp] theorem State.setEntry_pins (e : Nat) (x : Entry) : (s.setEntry e x).pins = s.pins := rfl
@[simp] theorem State.setEntry_core' (e : Nat) (x : Entry) (c' : Nat) : (s.setEntry e x).core c' = s.core c' := rfl
@[simp] theorem State.setEntry_sysCore' (e : Nat) (x : Entry) (k' : Nat) : (s.setEntry e x).sysCore k' = s.sysCore k' := rfl
@[simp] theorem State.setEntry_part' (e : Nat) (x : Entry) (p' : Nat) : (s.setEntry e x).part p' = s.part p' := rfl
@[simp] theorem State.setEntry_flow' (e : Nat) (x : Entry) (i' : Nat) : (s.setEntry e x).flow i' = s.flow i' := rfl
@[simp] theorem State.setEntry_barn' (e : Nat) (x : Entry) (b' : Nat) : (s.setEntry e x).barn b' = s.barn b' := rfl
@[simp] theorem State.setEntry_be' (e : Nat) (x : Entry) (e' : Nat) : (s.setEntry e x).be e' = s.be e' := rfl
@[simp] theorem State.setEntry_beSlot' (e : Nat) (x : Entry) (i' : Nat) : (s.setEntry e x).beSlot i' = s.beSlot i' := rfl
@[simp] theorem State.setEntry_bae' (e : Nat) (x : Entry) (b' : Nat) : (s.setEntry e x).bae b' = s.bae b' := rfl
@[simp] theorem State.setEntry_bne' (e : Nat) (x : Entry) (n' : Nat) : (s.setEntry e x).bne n' = s.bne n' := rfl
@[simp] theorem State.setEntry_stack' (e : Nat) (x : Entry) (d' : Nat) : (s.setEntry e x).stack d' = s.stack d' := rfl
@[simp] theorem State.setEntry_gate' (e : Nat) (x : Entry) (a' : Nat) : (s.setEntry e x).gate a' = s.gate a' := rfl
@[simp] theorem State.setEntry_link' (e : Nat) (x : Entry) (l' : Nat) : (s.setEntry e x).link l' = s.link l' := rfl
@[simp] theorem State.setEntry_sq' (e : Nat) (x : Entry) (f' n' : Nat) : (s.setEntry e x).sq f' n' = s.sq f' n' := rfl
@[simp] theorem State.setEntry_cq' (e : Nat) (x : Entry) (f' n' : Nat) : (s.setEntry e x).cq f' n' = s.cq f' n' := rfl
@[simp] theorem State.setEntry_msix' (e : Nat) (x : Entry) (f' v' : Nat) : (s.setEntry e x).msix f' v' = s.msix f' v' := rfl
@[simp] theorem State.setEntry_window' (e : Nat) (x : Entry) (k' n' : Nat) : (s.setEntry e x).window k' n' = s.window k' n' := rfl
@[simp] theorem State.setEntry_slotAt' (e : Nat) (x : Entry) (i' : Nat) : (s.setEntry e x).slotAt i' = s.slotAt i' := rfl
@[simp] theorem State.setEntry_useCtr' (e : Nat) (x : Entry) (i' : Nat) : (s.setEntry e x).useCtr i' = s.useCtr i' := rfl
@[simp] theorem State.setEntry_bucket' (e : Nat) (x : Entry) (i' : Nat) : (s.setEntry e x).bucket i' = s.bucket i' := rfl
@[simp] theorem State.setEntry_source' (e : Nat) (x : Entry) (i' : Nat) : (s.setEntry e x).source i' = s.source i' := rfl
@[simp] theorem State.setEntry_drbg' (e : Nat) (x : Entry) (i' : Nat) : (s.setEntry e x).drbg i' = s.drbg i' := rfl
@[simp] theorem State.setEntry_reg' (e : Nat) (x : Entry) (a' : Nat) : (s.setEntry e x).reg a' = s.reg a' := rfl
@[simp] theorem State.setEntry_self (e : Nat) (x : Entry) : (s.setEntry e x).entry e = x := Map.get_set_self _ _ _ _
theorem State.setEntry_ne (e e' : Nat) (x : Entry) (h : e' ≠ e) : (s.setEntry e x).entry e' = s.entry e' := Map.get_set_ne _ _ _ _ _ h

/-! ### setSys -/

@[simp] theorem State.setSys_pending (k : Nat) (x : SysCore) : (s.setSys k x).pending = s.pending := rfl
@[simp] theorem State.setSys_hostMem (k : Nat) (x : SysCore) : (s.setSys k x).hostMem = s.hostMem := rfl
@[simp] theorem State.setSys_sram (k : Nat) (x : SysCore) : (s.setSys k x).sram = s.sram := rfl
@[simp] theorem State.setSys_free (k : Nat) (x : SysCore) : (s.setSys k x).free = s.free := rfl
@[simp] theorem State.setSys_regs (k : Nat) (x : SysCore) : (s.setSys k x).regs = s.regs := rfl
@[simp] theorem State.setSys_hif (k : Nat) (x : SysCore) : (s.setSys k x).hif = s.hif := rfl
@[simp] theorem State.setSys_entries (k : Nat) (x : SysCore) : (s.setSys k x).entries = s.entries := rfl
@[simp] theorem State.setSys_flows (k : Nat) (x : SysCore) : (s.setSys k x).flows = s.flows := rfl
@[simp] theorem State.setSys_sched (k : Nat) (x : SysCore) : (s.setSys k x).sched = s.sched := rfl
@[simp] theorem State.setSys_cores (k : Nat) (x : SysCore) : (s.setSys k x).cores = s.cores := rfl
@[simp] theorem State.setSys_uwc (k : Nat) (x : SysCore) : (s.setSys k x).uwc = s.uwc := rfl
@[simp] theorem State.setSys_uwcAge (k : Nat) (x : SysCore) : (s.setSys k x).uwcAge = s.uwcAge := rfl
@[simp] theorem State.setSys_barns (k : Nat) (x : SysCore) : (s.setSys k x).barns = s.barns := rfl
@[simp] theorem State.setSys_bes (k : Nat) (x : SysCore) : (s.setSys k x).bes = s.bes := rfl
@[simp] theorem State.setSys_beSlots (k : Nat) (x : SysCore) : (s.setSys k x).beSlots = s.beSlots := rfl
@[simp] theorem State.setSys_baes (k : Nat) (x : SysCore) : (s.setSys k x).baes = s.baes := rfl
@[simp] theorem State.setSys_bnes (k : Nat) (x : SysCore) : (s.setSys k x).bnes = s.bnes := rfl
@[simp] theorem State.setSys_grn (k : Nat) (x : SysCore) : (s.setSys k x).grn = s.grn := rfl
@[simp] theorem State.setSys_win (k : Nat) (x : SysCore) : (s.setSys k x).win = s.win := rfl
@[simp] theorem State.setSys_hbm (k : Nat) (x : SysCore) : (s.setSys k x).hbm = s.hbm := rfl
@[simp] theorem State.setSys_hbmKey (k : Nat) (x : SysCore) : (s.setSys k x).hbmKey = s.hbmKey := rfl
@[simp] theorem State.setSys_rowHist (k : Nat) (x : SysCore) : (s.setSys k x).rowHist = s.rowHist := rfl
@[simp] theorem State.setSys_parts (k : Nat) (x : SysCore) : (s.setSys k x).parts = s.parts := rfl
@[simp] theorem State.setSys_decTables (k : Nat) (x : SysCore) : (s.setSys k x).decTables = s.decTables := rfl
@[simp] theorem State.setSys_velPols (k : Nat) (x : SysCore) : (s.setSys k x).velPols = s.velPols := rfl
@[simp] theorem State.setSys_seen (k : Nat) (x : SysCore) : (s.setSys k x).seen = s.seen := rfl
@[simp] theorem State.setSys_yoke (k : Nat) (x : SysCore) : (s.setSys k x).yoke = s.yoke := rfl
@[simp] theorem State.setSys_ofc (k : Nat) (x : SysCore) : (s.setSys k x).ofc = s.ofc := rfl
@[simp] theorem State.setSys_scr (k : Nat) (x : SysCore) : (s.setSys k x).scr = s.scr := rfl
@[simp] theorem State.setSys_scrAux (k : Nat) (x : SysCore) : (s.setSys k x).scrAux = s.scrAux := rfl
@[simp] theorem State.setSys_lc (k : Nat) (x : SysCore) : (s.setSys k x).lc = s.lc := rfl
@[simp] theorem State.setSys_gates (k : Nat) (x : SysCore) : (s.setSys k x).gates = s.gates := rfl
@[simp] theorem State.setSys_tap (k : Nat) (x : SysCore) : (s.setSys k x).tap = s.tap := rfl
@[simp] theorem State.setSys_boot (k : Nat) (x : SysCore) : (s.setSys k x).boot = s.boot := rfl
@[simp] theorem State.setSys_ldr (k : Nat) (x : SysCore) : (s.setSys k x).ldr = s.ldr := rfl
@[simp] theorem State.setSys_spdm (k : Nat) (x : SysCore) : (s.setSys k x).spdm = s.spdm := rfl
@[simp] theorem State.setSys_tal (k : Nat) (x : SysCore) : (s.setSys k x).tal = s.tal := rfl
@[simp] theorem State.setSys_time (k : Nat) (x : SysCore) : (s.setSys k x).time = s.time := rfl
@[simp] theorem State.setSys_tmr (k : Nat) (x : SysCore) : (s.setSys k x).tmr = s.tmr := rfl
@[simp] theorem State.setSys_pwr (k : Nat) (x : SysCore) : (s.setSys k x).pwr = s.pwr := rfl
@[simp] theorem State.setSys_links (k : Nat) (x : SysCore) : (s.setSys k x).links = s.links := rfl
@[simp] theorem State.setSys_dev (k : Nat) (x : SysCore) : (s.setSys k x).dev = s.dev := rfl
@[simp] theorem State.setSys_pins (k : Nat) (x : SysCore) : (s.setSys k x).pins = s.pins := rfl
@[simp] theorem State.setSys_core' (k : Nat) (x : SysCore) (c' : Nat) : (s.setSys k x).core c' = s.core c' := rfl
@[simp] theorem State.setSys_entry' (k : Nat) (x : SysCore) (e' : Nat) : (s.setSys k x).entry e' = s.entry e' := rfl
@[simp] theorem State.setSys_part' (k : Nat) (x : SysCore) (p' : Nat) : (s.setSys k x).part p' = s.part p' := rfl
@[simp] theorem State.setSys_flow' (k : Nat) (x : SysCore) (i' : Nat) : (s.setSys k x).flow i' = s.flow i' := rfl
@[simp] theorem State.setSys_barn' (k : Nat) (x : SysCore) (b' : Nat) : (s.setSys k x).barn b' = s.barn b' := rfl
@[simp] theorem State.setSys_be' (k : Nat) (x : SysCore) (e' : Nat) : (s.setSys k x).be e' = s.be e' := rfl
@[simp] theorem State.setSys_beSlot' (k : Nat) (x : SysCore) (i' : Nat) : (s.setSys k x).beSlot i' = s.beSlot i' := rfl
@[simp] theorem State.setSys_bae' (k : Nat) (x : SysCore) (b' : Nat) : (s.setSys k x).bae b' = s.bae b' := rfl
@[simp] theorem State.setSys_bne' (k : Nat) (x : SysCore) (n' : Nat) : (s.setSys k x).bne n' = s.bne n' := rfl
@[simp] theorem State.setSys_stack' (k : Nat) (x : SysCore) (d' : Nat) : (s.setSys k x).stack d' = s.stack d' := rfl
@[simp] theorem State.setSys_gate' (k : Nat) (x : SysCore) (a' : Nat) : (s.setSys k x).gate a' = s.gate a' := rfl
@[simp] theorem State.setSys_link' (k : Nat) (x : SysCore) (l' : Nat) : (s.setSys k x).link l' = s.link l' := rfl
@[simp] theorem State.setSys_sq' (k : Nat) (x : SysCore) (f' n' : Nat) : (s.setSys k x).sq f' n' = s.sq f' n' := rfl
@[simp] theorem State.setSys_cq' (k : Nat) (x : SysCore) (f' n' : Nat) : (s.setSys k x).cq f' n' = s.cq f' n' := rfl
@[simp] theorem State.setSys_msix' (k : Nat) (x : SysCore) (f' v' : Nat) : (s.setSys k x).msix f' v' = s.msix f' v' := rfl
@[simp] theorem State.setSys_window' (k : Nat) (x : SysCore) (k' n' : Nat) : (s.setSys k x).window k' n' = s.window k' n' := rfl
@[simp] theorem State.setSys_slotAt' (k : Nat) (x : SysCore) (i' : Nat) : (s.setSys k x).slotAt i' = s.slotAt i' := rfl
@[simp] theorem State.setSys_useCtr' (k : Nat) (x : SysCore) (i' : Nat) : (s.setSys k x).useCtr i' = s.useCtr i' := rfl
@[simp] theorem State.setSys_bucket' (k : Nat) (x : SysCore) (i' : Nat) : (s.setSys k x).bucket i' = s.bucket i' := rfl
@[simp] theorem State.setSys_source' (k : Nat) (x : SysCore) (i' : Nat) : (s.setSys k x).source i' = s.source i' := rfl
@[simp] theorem State.setSys_drbg' (k : Nat) (x : SysCore) (i' : Nat) : (s.setSys k x).drbg i' = s.drbg i' := rfl
@[simp] theorem State.setSys_reg' (k : Nat) (x : SysCore) (a' : Nat) : (s.setSys k x).reg a' = s.reg a' := rfl
@[simp] theorem State.setSys_self (k : Nat) (x : SysCore) : (s.setSys k x).sysCore k = x := Map.get_set_self _ _ _ _
theorem State.setSys_ne (k k' : Nat) (x : SysCore) (h : k' ≠ k) : (s.setSys k x).sysCore k' = s.sysCore k' := Map.get_set_ne _ _ _ _ _ h

/-! ### setPart -/

@[simp] theorem State.setPart_pending (p : Nat) (x : Part) : (s.setPart p x).pending = s.pending := rfl
@[simp] theorem State.setPart_hostMem (p : Nat) (x : Part) : (s.setPart p x).hostMem = s.hostMem := rfl
@[simp] theorem State.setPart_sram (p : Nat) (x : Part) : (s.setPart p x).sram = s.sram := rfl
@[simp] theorem State.setPart_free (p : Nat) (x : Part) : (s.setPart p x).free = s.free := rfl
@[simp] theorem State.setPart_regs (p : Nat) (x : Part) : (s.setPart p x).regs = s.regs := rfl
@[simp] theorem State.setPart_hif (p : Nat) (x : Part) : (s.setPart p x).hif = s.hif := rfl
@[simp] theorem State.setPart_entries (p : Nat) (x : Part) : (s.setPart p x).entries = s.entries := rfl
@[simp] theorem State.setPart_flows (p : Nat) (x : Part) : (s.setPart p x).flows = s.flows := rfl
@[simp] theorem State.setPart_sched (p : Nat) (x : Part) : (s.setPart p x).sched = s.sched := rfl
@[simp] theorem State.setPart_cores (p : Nat) (x : Part) : (s.setPart p x).cores = s.cores := rfl
@[simp] theorem State.setPart_sys (p : Nat) (x : Part) : (s.setPart p x).sys = s.sys := rfl
@[simp] theorem State.setPart_uwc (p : Nat) (x : Part) : (s.setPart p x).uwc = s.uwc := rfl
@[simp] theorem State.setPart_uwcAge (p : Nat) (x : Part) : (s.setPart p x).uwcAge = s.uwcAge := rfl
@[simp] theorem State.setPart_barns (p : Nat) (x : Part) : (s.setPart p x).barns = s.barns := rfl
@[simp] theorem State.setPart_bes (p : Nat) (x : Part) : (s.setPart p x).bes = s.bes := rfl
@[simp] theorem State.setPart_beSlots (p : Nat) (x : Part) : (s.setPart p x).beSlots = s.beSlots := rfl
@[simp] theorem State.setPart_baes (p : Nat) (x : Part) : (s.setPart p x).baes = s.baes := rfl
@[simp] theorem State.setPart_bnes (p : Nat) (x : Part) : (s.setPart p x).bnes = s.bnes := rfl
@[simp] theorem State.setPart_grn (p : Nat) (x : Part) : (s.setPart p x).grn = s.grn := rfl
@[simp] theorem State.setPart_win (p : Nat) (x : Part) : (s.setPart p x).win = s.win := rfl
@[simp] theorem State.setPart_hbm (p : Nat) (x : Part) : (s.setPart p x).hbm = s.hbm := rfl
@[simp] theorem State.setPart_hbmKey (p : Nat) (x : Part) : (s.setPart p x).hbmKey = s.hbmKey := rfl
@[simp] theorem State.setPart_rowHist (p : Nat) (x : Part) : (s.setPart p x).rowHist = s.rowHist := rfl
@[simp] theorem State.setPart_decTables (p : Nat) (x : Part) : (s.setPart p x).decTables = s.decTables := rfl
@[simp] theorem State.setPart_velPols (p : Nat) (x : Part) : (s.setPart p x).velPols = s.velPols := rfl
@[simp] theorem State.setPart_seen (p : Nat) (x : Part) : (s.setPart p x).seen = s.seen := rfl
@[simp] theorem State.setPart_yoke (p : Nat) (x : Part) : (s.setPart p x).yoke = s.yoke := rfl
@[simp] theorem State.setPart_ofc (p : Nat) (x : Part) : (s.setPart p x).ofc = s.ofc := rfl
@[simp] theorem State.setPart_scr (p : Nat) (x : Part) : (s.setPart p x).scr = s.scr := rfl
@[simp] theorem State.setPart_scrAux (p : Nat) (x : Part) : (s.setPart p x).scrAux = s.scrAux := rfl
@[simp] theorem State.setPart_lc (p : Nat) (x : Part) : (s.setPart p x).lc = s.lc := rfl
@[simp] theorem State.setPart_gates (p : Nat) (x : Part) : (s.setPart p x).gates = s.gates := rfl
@[simp] theorem State.setPart_tap (p : Nat) (x : Part) : (s.setPart p x).tap = s.tap := rfl
@[simp] theorem State.setPart_boot (p : Nat) (x : Part) : (s.setPart p x).boot = s.boot := rfl
@[simp] theorem State.setPart_ldr (p : Nat) (x : Part) : (s.setPart p x).ldr = s.ldr := rfl
@[simp] theorem State.setPart_spdm (p : Nat) (x : Part) : (s.setPart p x).spdm = s.spdm := rfl
@[simp] theorem State.setPart_tal (p : Nat) (x : Part) : (s.setPart p x).tal = s.tal := rfl
@[simp] theorem State.setPart_time (p : Nat) (x : Part) : (s.setPart p x).time = s.time := rfl
@[simp] theorem State.setPart_tmr (p : Nat) (x : Part) : (s.setPart p x).tmr = s.tmr := rfl
@[simp] theorem State.setPart_pwr (p : Nat) (x : Part) : (s.setPart p x).pwr = s.pwr := rfl
@[simp] theorem State.setPart_links (p : Nat) (x : Part) : (s.setPart p x).links = s.links := rfl
@[simp] theorem State.setPart_dev (p : Nat) (x : Part) : (s.setPart p x).dev = s.dev := rfl
@[simp] theorem State.setPart_pins (p : Nat) (x : Part) : (s.setPart p x).pins = s.pins := rfl
@[simp] theorem State.setPart_core' (p : Nat) (x : Part) (c' : Nat) : (s.setPart p x).core c' = s.core c' := rfl
@[simp] theorem State.setPart_entry' (p : Nat) (x : Part) (e' : Nat) : (s.setPart p x).entry e' = s.entry e' := rfl
@[simp] theorem State.setPart_sysCore' (p : Nat) (x : Part) (k' : Nat) : (s.setPart p x).sysCore k' = s.sysCore k' := rfl
@[simp] theorem State.setPart_flow' (p : Nat) (x : Part) (i' : Nat) : (s.setPart p x).flow i' = s.flow i' := rfl
@[simp] theorem State.setPart_barn' (p : Nat) (x : Part) (b' : Nat) : (s.setPart p x).barn b' = s.barn b' := rfl
@[simp] theorem State.setPart_be' (p : Nat) (x : Part) (e' : Nat) : (s.setPart p x).be e' = s.be e' := rfl
@[simp] theorem State.setPart_beSlot' (p : Nat) (x : Part) (i' : Nat) : (s.setPart p x).beSlot i' = s.beSlot i' := rfl
@[simp] theorem State.setPart_bae' (p : Nat) (x : Part) (b' : Nat) : (s.setPart p x).bae b' = s.bae b' := rfl
@[simp] theorem State.setPart_bne' (p : Nat) (x : Part) (n' : Nat) : (s.setPart p x).bne n' = s.bne n' := rfl
@[simp] theorem State.setPart_stack' (p : Nat) (x : Part) (d' : Nat) : (s.setPart p x).stack d' = s.stack d' := rfl
@[simp] theorem State.setPart_gate' (p : Nat) (x : Part) (a' : Nat) : (s.setPart p x).gate a' = s.gate a' := rfl
@[simp] theorem State.setPart_link' (p : Nat) (x : Part) (l' : Nat) : (s.setPart p x).link l' = s.link l' := rfl
@[simp] theorem State.setPart_sq' (p : Nat) (x : Part) (f' n' : Nat) : (s.setPart p x).sq f' n' = s.sq f' n' := rfl
@[simp] theorem State.setPart_cq' (p : Nat) (x : Part) (f' n' : Nat) : (s.setPart p x).cq f' n' = s.cq f' n' := rfl
@[simp] theorem State.setPart_msix' (p : Nat) (x : Part) (f' v' : Nat) : (s.setPart p x).msix f' v' = s.msix f' v' := rfl
@[simp] theorem State.setPart_window' (p : Nat) (x : Part) (k' n' : Nat) : (s.setPart p x).window k' n' = s.window k' n' := rfl
@[simp] theorem State.setPart_slotAt' (p : Nat) (x : Part) (i' : Nat) : (s.setPart p x).slotAt i' = s.slotAt i' := rfl
@[simp] theorem State.setPart_useCtr' (p : Nat) (x : Part) (i' : Nat) : (s.setPart p x).useCtr i' = s.useCtr i' := rfl
@[simp] theorem State.setPart_bucket' (p : Nat) (x : Part) (i' : Nat) : (s.setPart p x).bucket i' = s.bucket i' := rfl
@[simp] theorem State.setPart_source' (p : Nat) (x : Part) (i' : Nat) : (s.setPart p x).source i' = s.source i' := rfl
@[simp] theorem State.setPart_drbg' (p : Nat) (x : Part) (i' : Nat) : (s.setPart p x).drbg i' = s.drbg i' := rfl
@[simp] theorem State.setPart_reg' (p : Nat) (x : Part) (a' : Nat) : (s.setPart p x).reg a' = s.reg a' := rfl
@[simp] theorem State.setPart_self (p : Nat) (x : Part) : (s.setPart p x).part p = x := Map.get_set_self _ _ _ _
theorem State.setPart_ne (p p' : Nat) (x : Part) (h : p' ≠ p) : (s.setPart p x).part p' = s.part p' := Map.get_set_ne _ _ _ _ _ h

/-! ### setFlow -/

@[simp] theorem State.setFlow_pending (i : Nat) (x : Flow) : (s.setFlow i x).pending = s.pending := rfl
@[simp] theorem State.setFlow_hostMem (i : Nat) (x : Flow) : (s.setFlow i x).hostMem = s.hostMem := rfl
@[simp] theorem State.setFlow_sram (i : Nat) (x : Flow) : (s.setFlow i x).sram = s.sram := rfl
@[simp] theorem State.setFlow_free (i : Nat) (x : Flow) : (s.setFlow i x).free = s.free := rfl
@[simp] theorem State.setFlow_regs (i : Nat) (x : Flow) : (s.setFlow i x).regs = s.regs := rfl
@[simp] theorem State.setFlow_hif (i : Nat) (x : Flow) : (s.setFlow i x).hif = s.hif := rfl
@[simp] theorem State.setFlow_entries (i : Nat) (x : Flow) : (s.setFlow i x).entries = s.entries := rfl
@[simp] theorem State.setFlow_sched (i : Nat) (x : Flow) : (s.setFlow i x).sched = s.sched := rfl
@[simp] theorem State.setFlow_cores (i : Nat) (x : Flow) : (s.setFlow i x).cores = s.cores := rfl
@[simp] theorem State.setFlow_sys (i : Nat) (x : Flow) : (s.setFlow i x).sys = s.sys := rfl
@[simp] theorem State.setFlow_uwc (i : Nat) (x : Flow) : (s.setFlow i x).uwc = s.uwc := rfl
@[simp] theorem State.setFlow_uwcAge (i : Nat) (x : Flow) : (s.setFlow i x).uwcAge = s.uwcAge := rfl
@[simp] theorem State.setFlow_barns (i : Nat) (x : Flow) : (s.setFlow i x).barns = s.barns := rfl
@[simp] theorem State.setFlow_bes (i : Nat) (x : Flow) : (s.setFlow i x).bes = s.bes := rfl
@[simp] theorem State.setFlow_beSlots (i : Nat) (x : Flow) : (s.setFlow i x).beSlots = s.beSlots := rfl
@[simp] theorem State.setFlow_baes (i : Nat) (x : Flow) : (s.setFlow i x).baes = s.baes := rfl
@[simp] theorem State.setFlow_bnes (i : Nat) (x : Flow) : (s.setFlow i x).bnes = s.bnes := rfl
@[simp] theorem State.setFlow_grn (i : Nat) (x : Flow) : (s.setFlow i x).grn = s.grn := rfl
@[simp] theorem State.setFlow_win (i : Nat) (x : Flow) : (s.setFlow i x).win = s.win := rfl
@[simp] theorem State.setFlow_hbm (i : Nat) (x : Flow) : (s.setFlow i x).hbm = s.hbm := rfl
@[simp] theorem State.setFlow_hbmKey (i : Nat) (x : Flow) : (s.setFlow i x).hbmKey = s.hbmKey := rfl
@[simp] theorem State.setFlow_rowHist (i : Nat) (x : Flow) : (s.setFlow i x).rowHist = s.rowHist := rfl
@[simp] theorem State.setFlow_parts (i : Nat) (x : Flow) : (s.setFlow i x).parts = s.parts := rfl
@[simp] theorem State.setFlow_decTables (i : Nat) (x : Flow) : (s.setFlow i x).decTables = s.decTables := rfl
@[simp] theorem State.setFlow_velPols (i : Nat) (x : Flow) : (s.setFlow i x).velPols = s.velPols := rfl
@[simp] theorem State.setFlow_seen (i : Nat) (x : Flow) : (s.setFlow i x).seen = s.seen := rfl
@[simp] theorem State.setFlow_yoke (i : Nat) (x : Flow) : (s.setFlow i x).yoke = s.yoke := rfl
@[simp] theorem State.setFlow_ofc (i : Nat) (x : Flow) : (s.setFlow i x).ofc = s.ofc := rfl
@[simp] theorem State.setFlow_scr (i : Nat) (x : Flow) : (s.setFlow i x).scr = s.scr := rfl
@[simp] theorem State.setFlow_scrAux (i : Nat) (x : Flow) : (s.setFlow i x).scrAux = s.scrAux := rfl
@[simp] theorem State.setFlow_lc (i : Nat) (x : Flow) : (s.setFlow i x).lc = s.lc := rfl
@[simp] theorem State.setFlow_gates (i : Nat) (x : Flow) : (s.setFlow i x).gates = s.gates := rfl
@[simp] theorem State.setFlow_tap (i : Nat) (x : Flow) : (s.setFlow i x).tap = s.tap := rfl
@[simp] theorem State.setFlow_boot (i : Nat) (x : Flow) : (s.setFlow i x).boot = s.boot := rfl
@[simp] theorem State.setFlow_ldr (i : Nat) (x : Flow) : (s.setFlow i x).ldr = s.ldr := rfl
@[simp] theorem State.setFlow_spdm (i : Nat) (x : Flow) : (s.setFlow i x).spdm = s.spdm := rfl
@[simp] theorem State.setFlow_tal (i : Nat) (x : Flow) : (s.setFlow i x).tal = s.tal := rfl
@[simp] theorem State.setFlow_time (i : Nat) (x : Flow) : (s.setFlow i x).time = s.time := rfl
@[simp] theorem State.setFlow_tmr (i : Nat) (x : Flow) : (s.setFlow i x).tmr = s.tmr := rfl
@[simp] theorem State.setFlow_pwr (i : Nat) (x : Flow) : (s.setFlow i x).pwr = s.pwr := rfl
@[simp] theorem State.setFlow_links (i : Nat) (x : Flow) : (s.setFlow i x).links = s.links := rfl
@[simp] theorem State.setFlow_dev (i : Nat) (x : Flow) : (s.setFlow i x).dev = s.dev := rfl
@[simp] theorem State.setFlow_pins (i : Nat) (x : Flow) : (s.setFlow i x).pins = s.pins := rfl
@[simp] theorem State.setFlow_core' (i : Nat) (x : Flow) (c' : Nat) : (s.setFlow i x).core c' = s.core c' := rfl
@[simp] theorem State.setFlow_entry' (i : Nat) (x : Flow) (e' : Nat) : (s.setFlow i x).entry e' = s.entry e' := rfl
@[simp] theorem State.setFlow_sysCore' (i : Nat) (x : Flow) (k' : Nat) : (s.setFlow i x).sysCore k' = s.sysCore k' := rfl
@[simp] theorem State.setFlow_part' (i : Nat) (x : Flow) (p' : Nat) : (s.setFlow i x).part p' = s.part p' := rfl
@[simp] theorem State.setFlow_barn' (i : Nat) (x : Flow) (b' : Nat) : (s.setFlow i x).barn b' = s.barn b' := rfl
@[simp] theorem State.setFlow_be' (i : Nat) (x : Flow) (e' : Nat) : (s.setFlow i x).be e' = s.be e' := rfl
@[simp] theorem State.setFlow_beSlot' (i : Nat) (x : Flow) (i' : Nat) : (s.setFlow i x).beSlot i' = s.beSlot i' := rfl
@[simp] theorem State.setFlow_bae' (i : Nat) (x : Flow) (b' : Nat) : (s.setFlow i x).bae b' = s.bae b' := rfl
@[simp] theorem State.setFlow_bne' (i : Nat) (x : Flow) (n' : Nat) : (s.setFlow i x).bne n' = s.bne n' := rfl
@[simp] theorem State.setFlow_stack' (i : Nat) (x : Flow) (d' : Nat) : (s.setFlow i x).stack d' = s.stack d' := rfl
@[simp] theorem State.setFlow_gate' (i : Nat) (x : Flow) (a' : Nat) : (s.setFlow i x).gate a' = s.gate a' := rfl
@[simp] theorem State.setFlow_link' (i : Nat) (x : Flow) (l' : Nat) : (s.setFlow i x).link l' = s.link l' := rfl
@[simp] theorem State.setFlow_sq' (i : Nat) (x : Flow) (f' n' : Nat) : (s.setFlow i x).sq f' n' = s.sq f' n' := rfl
@[simp] theorem State.setFlow_cq' (i : Nat) (x : Flow) (f' n' : Nat) : (s.setFlow i x).cq f' n' = s.cq f' n' := rfl
@[simp] theorem State.setFlow_msix' (i : Nat) (x : Flow) (f' v' : Nat) : (s.setFlow i x).msix f' v' = s.msix f' v' := rfl
@[simp] theorem State.setFlow_window' (i : Nat) (x : Flow) (k' n' : Nat) : (s.setFlow i x).window k' n' = s.window k' n' := rfl
@[simp] theorem State.setFlow_slotAt' (i : Nat) (x : Flow) (i' : Nat) : (s.setFlow i x).slotAt i' = s.slotAt i' := rfl
@[simp] theorem State.setFlow_useCtr' (i : Nat) (x : Flow) (i' : Nat) : (s.setFlow i x).useCtr i' = s.useCtr i' := rfl
@[simp] theorem State.setFlow_bucket' (i : Nat) (x : Flow) (i' : Nat) : (s.setFlow i x).bucket i' = s.bucket i' := rfl
@[simp] theorem State.setFlow_source' (i : Nat) (x : Flow) (i' : Nat) : (s.setFlow i x).source i' = s.source i' := rfl
@[simp] theorem State.setFlow_drbg' (i : Nat) (x : Flow) (i' : Nat) : (s.setFlow i x).drbg i' = s.drbg i' := rfl
@[simp] theorem State.setFlow_reg' (i : Nat) (x : Flow) (a' : Nat) : (s.setFlow i x).reg a' = s.reg a' := rfl
@[simp] theorem State.setFlow_self (i : Nat) (x : Flow) : (s.setFlow i x).flow i = x := Map.get_set_self _ _ _ _
theorem State.setFlow_ne (i i' : Nat) (x : Flow) (h : i' ≠ i) : (s.setFlow i x).flow i' = s.flow i' := Map.get_set_ne _ _ _ _ _ h

/-! ### setBarn -/

@[simp] theorem State.setBarn_pending (b : Nat) (x : Barn) : (s.setBarn b x).pending = s.pending := rfl
@[simp] theorem State.setBarn_hostMem (b : Nat) (x : Barn) : (s.setBarn b x).hostMem = s.hostMem := rfl
@[simp] theorem State.setBarn_sram (b : Nat) (x : Barn) : (s.setBarn b x).sram = s.sram := rfl
@[simp] theorem State.setBarn_free (b : Nat) (x : Barn) : (s.setBarn b x).free = s.free := rfl
@[simp] theorem State.setBarn_regs (b : Nat) (x : Barn) : (s.setBarn b x).regs = s.regs := rfl
@[simp] theorem State.setBarn_hif (b : Nat) (x : Barn) : (s.setBarn b x).hif = s.hif := rfl
@[simp] theorem State.setBarn_entries (b : Nat) (x : Barn) : (s.setBarn b x).entries = s.entries := rfl
@[simp] theorem State.setBarn_flows (b : Nat) (x : Barn) : (s.setBarn b x).flows = s.flows := rfl
@[simp] theorem State.setBarn_sched (b : Nat) (x : Barn) : (s.setBarn b x).sched = s.sched := rfl
@[simp] theorem State.setBarn_cores (b : Nat) (x : Barn) : (s.setBarn b x).cores = s.cores := rfl
@[simp] theorem State.setBarn_sys (b : Nat) (x : Barn) : (s.setBarn b x).sys = s.sys := rfl
@[simp] theorem State.setBarn_uwc (b : Nat) (x : Barn) : (s.setBarn b x).uwc = s.uwc := rfl
@[simp] theorem State.setBarn_uwcAge (b : Nat) (x : Barn) : (s.setBarn b x).uwcAge = s.uwcAge := rfl
@[simp] theorem State.setBarn_bes (b : Nat) (x : Barn) : (s.setBarn b x).bes = s.bes := rfl
@[simp] theorem State.setBarn_beSlots (b : Nat) (x : Barn) : (s.setBarn b x).beSlots = s.beSlots := rfl
@[simp] theorem State.setBarn_baes (b : Nat) (x : Barn) : (s.setBarn b x).baes = s.baes := rfl
@[simp] theorem State.setBarn_bnes (b : Nat) (x : Barn) : (s.setBarn b x).bnes = s.bnes := rfl
@[simp] theorem State.setBarn_grn (b : Nat) (x : Barn) : (s.setBarn b x).grn = s.grn := rfl
@[simp] theorem State.setBarn_win (b : Nat) (x : Barn) : (s.setBarn b x).win = s.win := rfl
@[simp] theorem State.setBarn_hbm (b : Nat) (x : Barn) : (s.setBarn b x).hbm = s.hbm := rfl
@[simp] theorem State.setBarn_hbmKey (b : Nat) (x : Barn) : (s.setBarn b x).hbmKey = s.hbmKey := rfl
@[simp] theorem State.setBarn_rowHist (b : Nat) (x : Barn) : (s.setBarn b x).rowHist = s.rowHist := rfl
@[simp] theorem State.setBarn_parts (b : Nat) (x : Barn) : (s.setBarn b x).parts = s.parts := rfl
@[simp] theorem State.setBarn_decTables (b : Nat) (x : Barn) : (s.setBarn b x).decTables = s.decTables := rfl
@[simp] theorem State.setBarn_velPols (b : Nat) (x : Barn) : (s.setBarn b x).velPols = s.velPols := rfl
@[simp] theorem State.setBarn_seen (b : Nat) (x : Barn) : (s.setBarn b x).seen = s.seen := rfl
@[simp] theorem State.setBarn_yoke (b : Nat) (x : Barn) : (s.setBarn b x).yoke = s.yoke := rfl
@[simp] theorem State.setBarn_ofc (b : Nat) (x : Barn) : (s.setBarn b x).ofc = s.ofc := rfl
@[simp] theorem State.setBarn_scr (b : Nat) (x : Barn) : (s.setBarn b x).scr = s.scr := rfl
@[simp] theorem State.setBarn_scrAux (b : Nat) (x : Barn) : (s.setBarn b x).scrAux = s.scrAux := rfl
@[simp] theorem State.setBarn_lc (b : Nat) (x : Barn) : (s.setBarn b x).lc = s.lc := rfl
@[simp] theorem State.setBarn_gates (b : Nat) (x : Barn) : (s.setBarn b x).gates = s.gates := rfl
@[simp] theorem State.setBarn_tap (b : Nat) (x : Barn) : (s.setBarn b x).tap = s.tap := rfl
@[simp] theorem State.setBarn_boot (b : Nat) (x : Barn) : (s.setBarn b x).boot = s.boot := rfl
@[simp] theorem State.setBarn_ldr (b : Nat) (x : Barn) : (s.setBarn b x).ldr = s.ldr := rfl
@[simp] theorem State.setBarn_spdm (b : Nat) (x : Barn) : (s.setBarn b x).spdm = s.spdm := rfl
@[simp] theorem State.setBarn_tal (b : Nat) (x : Barn) : (s.setBarn b x).tal = s.tal := rfl
@[simp] theorem State.setBarn_time (b : Nat) (x : Barn) : (s.setBarn b x).time = s.time := rfl
@[simp] theorem State.setBarn_tmr (b : Nat) (x : Barn) : (s.setBarn b x).tmr = s.tmr := rfl
@[simp] theorem State.setBarn_pwr (b : Nat) (x : Barn) : (s.setBarn b x).pwr = s.pwr := rfl
@[simp] theorem State.setBarn_links (b : Nat) (x : Barn) : (s.setBarn b x).links = s.links := rfl
@[simp] theorem State.setBarn_dev (b : Nat) (x : Barn) : (s.setBarn b x).dev = s.dev := rfl
@[simp] theorem State.setBarn_pins (b : Nat) (x : Barn) : (s.setBarn b x).pins = s.pins := rfl
@[simp] theorem State.setBarn_core' (b : Nat) (x : Barn) (c' : Nat) : (s.setBarn b x).core c' = s.core c' := rfl
@[simp] theorem State.setBarn_entry' (b : Nat) (x : Barn) (e' : Nat) : (s.setBarn b x).entry e' = s.entry e' := rfl
@[simp] theorem State.setBarn_sysCore' (b : Nat) (x : Barn) (k' : Nat) : (s.setBarn b x).sysCore k' = s.sysCore k' := rfl
@[simp] theorem State.setBarn_part' (b : Nat) (x : Barn) (p' : Nat) : (s.setBarn b x).part p' = s.part p' := rfl
@[simp] theorem State.setBarn_flow' (b : Nat) (x : Barn) (i' : Nat) : (s.setBarn b x).flow i' = s.flow i' := rfl
@[simp] theorem State.setBarn_be' (b : Nat) (x : Barn) (e' : Nat) : (s.setBarn b x).be e' = s.be e' := rfl
@[simp] theorem State.setBarn_beSlot' (b : Nat) (x : Barn) (i' : Nat) : (s.setBarn b x).beSlot i' = s.beSlot i' := rfl
@[simp] theorem State.setBarn_bae' (b : Nat) (x : Barn) (b' : Nat) : (s.setBarn b x).bae b' = s.bae b' := rfl
@[simp] theorem State.setBarn_bne' (b : Nat) (x : Barn) (n' : Nat) : (s.setBarn b x).bne n' = s.bne n' := rfl
@[simp] theorem State.setBarn_stack' (b : Nat) (x : Barn) (d' : Nat) : (s.setBarn b x).stack d' = s.stack d' := rfl
@[simp] theorem State.setBarn_gate' (b : Nat) (x : Barn) (a' : Nat) : (s.setBarn b x).gate a' = s.gate a' := rfl
@[simp] theorem State.setBarn_link' (b : Nat) (x : Barn) (l' : Nat) : (s.setBarn b x).link l' = s.link l' := rfl
@[simp] theorem State.setBarn_sq' (b : Nat) (x : Barn) (f' n' : Nat) : (s.setBarn b x).sq f' n' = s.sq f' n' := rfl
@[simp] theorem State.setBarn_cq' (b : Nat) (x : Barn) (f' n' : Nat) : (s.setBarn b x).cq f' n' = s.cq f' n' := rfl
@[simp] theorem State.setBarn_msix' (b : Nat) (x : Barn) (f' v' : Nat) : (s.setBarn b x).msix f' v' = s.msix f' v' := rfl
@[simp] theorem State.setBarn_window' (b : Nat) (x : Barn) (k' n' : Nat) : (s.setBarn b x).window k' n' = s.window k' n' := rfl
@[simp] theorem State.setBarn_slotAt' (b : Nat) (x : Barn) (i' : Nat) : (s.setBarn b x).slotAt i' = s.slotAt i' := rfl
@[simp] theorem State.setBarn_useCtr' (b : Nat) (x : Barn) (i' : Nat) : (s.setBarn b x).useCtr i' = s.useCtr i' := rfl
@[simp] theorem State.setBarn_bucket' (b : Nat) (x : Barn) (i' : Nat) : (s.setBarn b x).bucket i' = s.bucket i' := rfl
@[simp] theorem State.setBarn_source' (b : Nat) (x : Barn) (i' : Nat) : (s.setBarn b x).source i' = s.source i' := rfl
@[simp] theorem State.setBarn_drbg' (b : Nat) (x : Barn) (i' : Nat) : (s.setBarn b x).drbg i' = s.drbg i' := rfl
@[simp] theorem State.setBarn_reg' (b : Nat) (x : Barn) (a' : Nat) : (s.setBarn b x).reg a' = s.reg a' := rfl
@[simp] theorem State.setBarn_self (b : Nat) (x : Barn) : (s.setBarn b x).barn b = x := Map.get_set_self _ _ _ _
theorem State.setBarn_ne (b b' : Nat) (x : Barn) (h : b' ≠ b) : (s.setBarn b x).barn b' = s.barn b' := Map.get_set_ne _ _ _ _ _ h

/-! ### setBe -/

@[simp] theorem State.setBe_pending (e : Nat) (x : Be) : (s.setBe e x).pending = s.pending := rfl
@[simp] theorem State.setBe_hostMem (e : Nat) (x : Be) : (s.setBe e x).hostMem = s.hostMem := rfl
@[simp] theorem State.setBe_sram (e : Nat) (x : Be) : (s.setBe e x).sram = s.sram := rfl
@[simp] theorem State.setBe_free (e : Nat) (x : Be) : (s.setBe e x).free = s.free := rfl
@[simp] theorem State.setBe_regs (e : Nat) (x : Be) : (s.setBe e x).regs = s.regs := rfl
@[simp] theorem State.setBe_hif (e : Nat) (x : Be) : (s.setBe e x).hif = s.hif := rfl
@[simp] theorem State.setBe_entries (e : Nat) (x : Be) : (s.setBe e x).entries = s.entries := rfl
@[simp] theorem State.setBe_flows (e : Nat) (x : Be) : (s.setBe e x).flows = s.flows := rfl
@[simp] theorem State.setBe_sched (e : Nat) (x : Be) : (s.setBe e x).sched = s.sched := rfl
@[simp] theorem State.setBe_cores (e : Nat) (x : Be) : (s.setBe e x).cores = s.cores := rfl
@[simp] theorem State.setBe_sys (e : Nat) (x : Be) : (s.setBe e x).sys = s.sys := rfl
@[simp] theorem State.setBe_uwc (e : Nat) (x : Be) : (s.setBe e x).uwc = s.uwc := rfl
@[simp] theorem State.setBe_uwcAge (e : Nat) (x : Be) : (s.setBe e x).uwcAge = s.uwcAge := rfl
@[simp] theorem State.setBe_barns (e : Nat) (x : Be) : (s.setBe e x).barns = s.barns := rfl
@[simp] theorem State.setBe_beSlots (e : Nat) (x : Be) : (s.setBe e x).beSlots = s.beSlots := rfl
@[simp] theorem State.setBe_baes (e : Nat) (x : Be) : (s.setBe e x).baes = s.baes := rfl
@[simp] theorem State.setBe_bnes (e : Nat) (x : Be) : (s.setBe e x).bnes = s.bnes := rfl
@[simp] theorem State.setBe_grn (e : Nat) (x : Be) : (s.setBe e x).grn = s.grn := rfl
@[simp] theorem State.setBe_win (e : Nat) (x : Be) : (s.setBe e x).win = s.win := rfl
@[simp] theorem State.setBe_hbm (e : Nat) (x : Be) : (s.setBe e x).hbm = s.hbm := rfl
@[simp] theorem State.setBe_hbmKey (e : Nat) (x : Be) : (s.setBe e x).hbmKey = s.hbmKey := rfl
@[simp] theorem State.setBe_rowHist (e : Nat) (x : Be) : (s.setBe e x).rowHist = s.rowHist := rfl
@[simp] theorem State.setBe_parts (e : Nat) (x : Be) : (s.setBe e x).parts = s.parts := rfl
@[simp] theorem State.setBe_decTables (e : Nat) (x : Be) : (s.setBe e x).decTables = s.decTables := rfl
@[simp] theorem State.setBe_velPols (e : Nat) (x : Be) : (s.setBe e x).velPols = s.velPols := rfl
@[simp] theorem State.setBe_seen (e : Nat) (x : Be) : (s.setBe e x).seen = s.seen := rfl
@[simp] theorem State.setBe_yoke (e : Nat) (x : Be) : (s.setBe e x).yoke = s.yoke := rfl
@[simp] theorem State.setBe_ofc (e : Nat) (x : Be) : (s.setBe e x).ofc = s.ofc := rfl
@[simp] theorem State.setBe_scr (e : Nat) (x : Be) : (s.setBe e x).scr = s.scr := rfl
@[simp] theorem State.setBe_scrAux (e : Nat) (x : Be) : (s.setBe e x).scrAux = s.scrAux := rfl
@[simp] theorem State.setBe_lc (e : Nat) (x : Be) : (s.setBe e x).lc = s.lc := rfl
@[simp] theorem State.setBe_gates (e : Nat) (x : Be) : (s.setBe e x).gates = s.gates := rfl
@[simp] theorem State.setBe_tap (e : Nat) (x : Be) : (s.setBe e x).tap = s.tap := rfl
@[simp] theorem State.setBe_boot (e : Nat) (x : Be) : (s.setBe e x).boot = s.boot := rfl
@[simp] theorem State.setBe_ldr (e : Nat) (x : Be) : (s.setBe e x).ldr = s.ldr := rfl
@[simp] theorem State.setBe_spdm (e : Nat) (x : Be) : (s.setBe e x).spdm = s.spdm := rfl
@[simp] theorem State.setBe_tal (e : Nat) (x : Be) : (s.setBe e x).tal = s.tal := rfl
@[simp] theorem State.setBe_time (e : Nat) (x : Be) : (s.setBe e x).time = s.time := rfl
@[simp] theorem State.setBe_tmr (e : Nat) (x : Be) : (s.setBe e x).tmr = s.tmr := rfl
@[simp] theorem State.setBe_pwr (e : Nat) (x : Be) : (s.setBe e x).pwr = s.pwr := rfl
@[simp] theorem State.setBe_links (e : Nat) (x : Be) : (s.setBe e x).links = s.links := rfl
@[simp] theorem State.setBe_dev (e : Nat) (x : Be) : (s.setBe e x).dev = s.dev := rfl
@[simp] theorem State.setBe_pins (e : Nat) (x : Be) : (s.setBe e x).pins = s.pins := rfl
@[simp] theorem State.setBe_core' (e : Nat) (x : Be) (c' : Nat) : (s.setBe e x).core c' = s.core c' := rfl
@[simp] theorem State.setBe_entry' (e : Nat) (x : Be) (e' : Nat) : (s.setBe e x).entry e' = s.entry e' := rfl
@[simp] theorem State.setBe_sysCore' (e : Nat) (x : Be) (k' : Nat) : (s.setBe e x).sysCore k' = s.sysCore k' := rfl
@[simp] theorem State.setBe_part' (e : Nat) (x : Be) (p' : Nat) : (s.setBe e x).part p' = s.part p' := rfl
@[simp] theorem State.setBe_flow' (e : Nat) (x : Be) (i' : Nat) : (s.setBe e x).flow i' = s.flow i' := rfl
@[simp] theorem State.setBe_barn' (e : Nat) (x : Be) (b' : Nat) : (s.setBe e x).barn b' = s.barn b' := rfl
@[simp] theorem State.setBe_beSlot' (e : Nat) (x : Be) (i' : Nat) : (s.setBe e x).beSlot i' = s.beSlot i' := rfl
@[simp] theorem State.setBe_bae' (e : Nat) (x : Be) (b' : Nat) : (s.setBe e x).bae b' = s.bae b' := rfl
@[simp] theorem State.setBe_bne' (e : Nat) (x : Be) (n' : Nat) : (s.setBe e x).bne n' = s.bne n' := rfl
@[simp] theorem State.setBe_stack' (e : Nat) (x : Be) (d' : Nat) : (s.setBe e x).stack d' = s.stack d' := rfl
@[simp] theorem State.setBe_gate' (e : Nat) (x : Be) (a' : Nat) : (s.setBe e x).gate a' = s.gate a' := rfl
@[simp] theorem State.setBe_link' (e : Nat) (x : Be) (l' : Nat) : (s.setBe e x).link l' = s.link l' := rfl
@[simp] theorem State.setBe_sq' (e : Nat) (x : Be) (f' n' : Nat) : (s.setBe e x).sq f' n' = s.sq f' n' := rfl
@[simp] theorem State.setBe_cq' (e : Nat) (x : Be) (f' n' : Nat) : (s.setBe e x).cq f' n' = s.cq f' n' := rfl
@[simp] theorem State.setBe_msix' (e : Nat) (x : Be) (f' v' : Nat) : (s.setBe e x).msix f' v' = s.msix f' v' := rfl
@[simp] theorem State.setBe_window' (e : Nat) (x : Be) (k' n' : Nat) : (s.setBe e x).window k' n' = s.window k' n' := rfl
@[simp] theorem State.setBe_slotAt' (e : Nat) (x : Be) (i' : Nat) : (s.setBe e x).slotAt i' = s.slotAt i' := rfl
@[simp] theorem State.setBe_useCtr' (e : Nat) (x : Be) (i' : Nat) : (s.setBe e x).useCtr i' = s.useCtr i' := rfl
@[simp] theorem State.setBe_bucket' (e : Nat) (x : Be) (i' : Nat) : (s.setBe e x).bucket i' = s.bucket i' := rfl
@[simp] theorem State.setBe_source' (e : Nat) (x : Be) (i' : Nat) : (s.setBe e x).source i' = s.source i' := rfl
@[simp] theorem State.setBe_drbg' (e : Nat) (x : Be) (i' : Nat) : (s.setBe e x).drbg i' = s.drbg i' := rfl
@[simp] theorem State.setBe_reg' (e : Nat) (x : Be) (a' : Nat) : (s.setBe e x).reg a' = s.reg a' := rfl
@[simp] theorem State.setBe_self (e : Nat) (x : Be) : (s.setBe e x).be e = x := Map.get_set_self _ _ _ _
theorem State.setBe_ne (e e' : Nat) (x : Be) (h : e' ≠ e) : (s.setBe e x).be e' = s.be e' := Map.get_set_ne _ _ _ _ _ h

/-! ### setBeSlot -/

@[simp] theorem State.setBeSlot_pending (i : Nat) (x : BeSlot) : (s.setBeSlot i x).pending = s.pending := rfl
@[simp] theorem State.setBeSlot_hostMem (i : Nat) (x : BeSlot) : (s.setBeSlot i x).hostMem = s.hostMem := rfl
@[simp] theorem State.setBeSlot_sram (i : Nat) (x : BeSlot) : (s.setBeSlot i x).sram = s.sram := rfl
@[simp] theorem State.setBeSlot_free (i : Nat) (x : BeSlot) : (s.setBeSlot i x).free = s.free := rfl
@[simp] theorem State.setBeSlot_regs (i : Nat) (x : BeSlot) : (s.setBeSlot i x).regs = s.regs := rfl
@[simp] theorem State.setBeSlot_hif (i : Nat) (x : BeSlot) : (s.setBeSlot i x).hif = s.hif := rfl
@[simp] theorem State.setBeSlot_entries (i : Nat) (x : BeSlot) : (s.setBeSlot i x).entries = s.entries := rfl
@[simp] theorem State.setBeSlot_flows (i : Nat) (x : BeSlot) : (s.setBeSlot i x).flows = s.flows := rfl
@[simp] theorem State.setBeSlot_sched (i : Nat) (x : BeSlot) : (s.setBeSlot i x).sched = s.sched := rfl
@[simp] theorem State.setBeSlot_cores (i : Nat) (x : BeSlot) : (s.setBeSlot i x).cores = s.cores := rfl
@[simp] theorem State.setBeSlot_sys (i : Nat) (x : BeSlot) : (s.setBeSlot i x).sys = s.sys := rfl
@[simp] theorem State.setBeSlot_uwc (i : Nat) (x : BeSlot) : (s.setBeSlot i x).uwc = s.uwc := rfl
@[simp] theorem State.setBeSlot_uwcAge (i : Nat) (x : BeSlot) : (s.setBeSlot i x).uwcAge = s.uwcAge := rfl
@[simp] theorem State.setBeSlot_barns (i : Nat) (x : BeSlot) : (s.setBeSlot i x).barns = s.barns := rfl
@[simp] theorem State.setBeSlot_bes (i : Nat) (x : BeSlot) : (s.setBeSlot i x).bes = s.bes := rfl
@[simp] theorem State.setBeSlot_baes (i : Nat) (x : BeSlot) : (s.setBeSlot i x).baes = s.baes := rfl
@[simp] theorem State.setBeSlot_bnes (i : Nat) (x : BeSlot) : (s.setBeSlot i x).bnes = s.bnes := rfl
@[simp] theorem State.setBeSlot_grn (i : Nat) (x : BeSlot) : (s.setBeSlot i x).grn = s.grn := rfl
@[simp] theorem State.setBeSlot_win (i : Nat) (x : BeSlot) : (s.setBeSlot i x).win = s.win := rfl
@[simp] theorem State.setBeSlot_hbm (i : Nat) (x : BeSlot) : (s.setBeSlot i x).hbm = s.hbm := rfl
@[simp] theorem State.setBeSlot_hbmKey (i : Nat) (x : BeSlot) : (s.setBeSlot i x).hbmKey = s.hbmKey := rfl
@[simp] theorem State.setBeSlot_rowHist (i : Nat) (x : BeSlot) : (s.setBeSlot i x).rowHist = s.rowHist := rfl
@[simp] theorem State.setBeSlot_parts (i : Nat) (x : BeSlot) : (s.setBeSlot i x).parts = s.parts := rfl
@[simp] theorem State.setBeSlot_decTables (i : Nat) (x : BeSlot) : (s.setBeSlot i x).decTables = s.decTables := rfl
@[simp] theorem State.setBeSlot_velPols (i : Nat) (x : BeSlot) : (s.setBeSlot i x).velPols = s.velPols := rfl
@[simp] theorem State.setBeSlot_seen (i : Nat) (x : BeSlot) : (s.setBeSlot i x).seen = s.seen := rfl
@[simp] theorem State.setBeSlot_yoke (i : Nat) (x : BeSlot) : (s.setBeSlot i x).yoke = s.yoke := rfl
@[simp] theorem State.setBeSlot_ofc (i : Nat) (x : BeSlot) : (s.setBeSlot i x).ofc = s.ofc := rfl
@[simp] theorem State.setBeSlot_scr (i : Nat) (x : BeSlot) : (s.setBeSlot i x).scr = s.scr := rfl
@[simp] theorem State.setBeSlot_scrAux (i : Nat) (x : BeSlot) : (s.setBeSlot i x).scrAux = s.scrAux := rfl
@[simp] theorem State.setBeSlot_lc (i : Nat) (x : BeSlot) : (s.setBeSlot i x).lc = s.lc := rfl
@[simp] theorem State.setBeSlot_gates (i : Nat) (x : BeSlot) : (s.setBeSlot i x).gates = s.gates := rfl
@[simp] theorem State.setBeSlot_tap (i : Nat) (x : BeSlot) : (s.setBeSlot i x).tap = s.tap := rfl
@[simp] theorem State.setBeSlot_boot (i : Nat) (x : BeSlot) : (s.setBeSlot i x).boot = s.boot := rfl
@[simp] theorem State.setBeSlot_ldr (i : Nat) (x : BeSlot) : (s.setBeSlot i x).ldr = s.ldr := rfl
@[simp] theorem State.setBeSlot_spdm (i : Nat) (x : BeSlot) : (s.setBeSlot i x).spdm = s.spdm := rfl
@[simp] theorem State.setBeSlot_tal (i : Nat) (x : BeSlot) : (s.setBeSlot i x).tal = s.tal := rfl
@[simp] theorem State.setBeSlot_time (i : Nat) (x : BeSlot) : (s.setBeSlot i x).time = s.time := rfl
@[simp] theorem State.setBeSlot_tmr (i : Nat) (x : BeSlot) : (s.setBeSlot i x).tmr = s.tmr := rfl
@[simp] theorem State.setBeSlot_pwr (i : Nat) (x : BeSlot) : (s.setBeSlot i x).pwr = s.pwr := rfl
@[simp] theorem State.setBeSlot_links (i : Nat) (x : BeSlot) : (s.setBeSlot i x).links = s.links := rfl
@[simp] theorem State.setBeSlot_dev (i : Nat) (x : BeSlot) : (s.setBeSlot i x).dev = s.dev := rfl
@[simp] theorem State.setBeSlot_pins (i : Nat) (x : BeSlot) : (s.setBeSlot i x).pins = s.pins := rfl
@[simp] theorem State.setBeSlot_core' (i : Nat) (x : BeSlot) (c' : Nat) : (s.setBeSlot i x).core c' = s.core c' := rfl
@[simp] theorem State.setBeSlot_entry' (i : Nat) (x : BeSlot) (e' : Nat) : (s.setBeSlot i x).entry e' = s.entry e' := rfl
@[simp] theorem State.setBeSlot_sysCore' (i : Nat) (x : BeSlot) (k' : Nat) : (s.setBeSlot i x).sysCore k' = s.sysCore k' := rfl
@[simp] theorem State.setBeSlot_part' (i : Nat) (x : BeSlot) (p' : Nat) : (s.setBeSlot i x).part p' = s.part p' := rfl
@[simp] theorem State.setBeSlot_flow' (i : Nat) (x : BeSlot) (i' : Nat) : (s.setBeSlot i x).flow i' = s.flow i' := rfl
@[simp] theorem State.setBeSlot_barn' (i : Nat) (x : BeSlot) (b' : Nat) : (s.setBeSlot i x).barn b' = s.barn b' := rfl
@[simp] theorem State.setBeSlot_be' (i : Nat) (x : BeSlot) (e' : Nat) : (s.setBeSlot i x).be e' = s.be e' := rfl
@[simp] theorem State.setBeSlot_bae' (i : Nat) (x : BeSlot) (b' : Nat) : (s.setBeSlot i x).bae b' = s.bae b' := rfl
@[simp] theorem State.setBeSlot_bne' (i : Nat) (x : BeSlot) (n' : Nat) : (s.setBeSlot i x).bne n' = s.bne n' := rfl
@[simp] theorem State.setBeSlot_stack' (i : Nat) (x : BeSlot) (d' : Nat) : (s.setBeSlot i x).stack d' = s.stack d' := rfl
@[simp] theorem State.setBeSlot_gate' (i : Nat) (x : BeSlot) (a' : Nat) : (s.setBeSlot i x).gate a' = s.gate a' := rfl
@[simp] theorem State.setBeSlot_link' (i : Nat) (x : BeSlot) (l' : Nat) : (s.setBeSlot i x).link l' = s.link l' := rfl
@[simp] theorem State.setBeSlot_sq' (i : Nat) (x : BeSlot) (f' n' : Nat) : (s.setBeSlot i x).sq f' n' = s.sq f' n' := rfl
@[simp] theorem State.setBeSlot_cq' (i : Nat) (x : BeSlot) (f' n' : Nat) : (s.setBeSlot i x).cq f' n' = s.cq f' n' := rfl
@[simp] theorem State.setBeSlot_msix' (i : Nat) (x : BeSlot) (f' v' : Nat) : (s.setBeSlot i x).msix f' v' = s.msix f' v' := rfl
@[simp] theorem State.setBeSlot_window' (i : Nat) (x : BeSlot) (k' n' : Nat) : (s.setBeSlot i x).window k' n' = s.window k' n' := rfl
@[simp] theorem State.setBeSlot_slotAt' (i : Nat) (x : BeSlot) (i' : Nat) : (s.setBeSlot i x).slotAt i' = s.slotAt i' := rfl
@[simp] theorem State.setBeSlot_useCtr' (i : Nat) (x : BeSlot) (i' : Nat) : (s.setBeSlot i x).useCtr i' = s.useCtr i' := rfl
@[simp] theorem State.setBeSlot_bucket' (i : Nat) (x : BeSlot) (i' : Nat) : (s.setBeSlot i x).bucket i' = s.bucket i' := rfl
@[simp] theorem State.setBeSlot_source' (i : Nat) (x : BeSlot) (i' : Nat) : (s.setBeSlot i x).source i' = s.source i' := rfl
@[simp] theorem State.setBeSlot_drbg' (i : Nat) (x : BeSlot) (i' : Nat) : (s.setBeSlot i x).drbg i' = s.drbg i' := rfl
@[simp] theorem State.setBeSlot_reg' (i : Nat) (x : BeSlot) (a' : Nat) : (s.setBeSlot i x).reg a' = s.reg a' := rfl
@[simp] theorem State.setBeSlot_self (i : Nat) (x : BeSlot) : (s.setBeSlot i x).beSlot i = x := Map.get_set_self _ _ _ _
theorem State.setBeSlot_ne (i i' : Nat) (x : BeSlot) (h : i' ≠ i) : (s.setBeSlot i x).beSlot i' = s.beSlot i' := Map.get_set_ne _ _ _ _ _ h

/-! ### setBae -/

@[simp] theorem State.setBae_pending (b : Nat) (x : Bae) : (s.setBae b x).pending = s.pending := rfl
@[simp] theorem State.setBae_hostMem (b : Nat) (x : Bae) : (s.setBae b x).hostMem = s.hostMem := rfl
@[simp] theorem State.setBae_sram (b : Nat) (x : Bae) : (s.setBae b x).sram = s.sram := rfl
@[simp] theorem State.setBae_free (b : Nat) (x : Bae) : (s.setBae b x).free = s.free := rfl
@[simp] theorem State.setBae_regs (b : Nat) (x : Bae) : (s.setBae b x).regs = s.regs := rfl
@[simp] theorem State.setBae_hif (b : Nat) (x : Bae) : (s.setBae b x).hif = s.hif := rfl
@[simp] theorem State.setBae_entries (b : Nat) (x : Bae) : (s.setBae b x).entries = s.entries := rfl
@[simp] theorem State.setBae_flows (b : Nat) (x : Bae) : (s.setBae b x).flows = s.flows := rfl
@[simp] theorem State.setBae_sched (b : Nat) (x : Bae) : (s.setBae b x).sched = s.sched := rfl
@[simp] theorem State.setBae_cores (b : Nat) (x : Bae) : (s.setBae b x).cores = s.cores := rfl
@[simp] theorem State.setBae_sys (b : Nat) (x : Bae) : (s.setBae b x).sys = s.sys := rfl
@[simp] theorem State.setBae_uwc (b : Nat) (x : Bae) : (s.setBae b x).uwc = s.uwc := rfl
@[simp] theorem State.setBae_uwcAge (b : Nat) (x : Bae) : (s.setBae b x).uwcAge = s.uwcAge := rfl
@[simp] theorem State.setBae_barns (b : Nat) (x : Bae) : (s.setBae b x).barns = s.barns := rfl
@[simp] theorem State.setBae_bes (b : Nat) (x : Bae) : (s.setBae b x).bes = s.bes := rfl
@[simp] theorem State.setBae_beSlots (b : Nat) (x : Bae) : (s.setBae b x).beSlots = s.beSlots := rfl
@[simp] theorem State.setBae_bnes (b : Nat) (x : Bae) : (s.setBae b x).bnes = s.bnes := rfl
@[simp] theorem State.setBae_grn (b : Nat) (x : Bae) : (s.setBae b x).grn = s.grn := rfl
@[simp] theorem State.setBae_win (b : Nat) (x : Bae) : (s.setBae b x).win = s.win := rfl
@[simp] theorem State.setBae_hbm (b : Nat) (x : Bae) : (s.setBae b x).hbm = s.hbm := rfl
@[simp] theorem State.setBae_hbmKey (b : Nat) (x : Bae) : (s.setBae b x).hbmKey = s.hbmKey := rfl
@[simp] theorem State.setBae_rowHist (b : Nat) (x : Bae) : (s.setBae b x).rowHist = s.rowHist := rfl
@[simp] theorem State.setBae_parts (b : Nat) (x : Bae) : (s.setBae b x).parts = s.parts := rfl
@[simp] theorem State.setBae_decTables (b : Nat) (x : Bae) : (s.setBae b x).decTables = s.decTables := rfl
@[simp] theorem State.setBae_velPols (b : Nat) (x : Bae) : (s.setBae b x).velPols = s.velPols := rfl
@[simp] theorem State.setBae_seen (b : Nat) (x : Bae) : (s.setBae b x).seen = s.seen := rfl
@[simp] theorem State.setBae_yoke (b : Nat) (x : Bae) : (s.setBae b x).yoke = s.yoke := rfl
@[simp] theorem State.setBae_ofc (b : Nat) (x : Bae) : (s.setBae b x).ofc = s.ofc := rfl
@[simp] theorem State.setBae_scr (b : Nat) (x : Bae) : (s.setBae b x).scr = s.scr := rfl
@[simp] theorem State.setBae_scrAux (b : Nat) (x : Bae) : (s.setBae b x).scrAux = s.scrAux := rfl
@[simp] theorem State.setBae_lc (b : Nat) (x : Bae) : (s.setBae b x).lc = s.lc := rfl
@[simp] theorem State.setBae_gates (b : Nat) (x : Bae) : (s.setBae b x).gates = s.gates := rfl
@[simp] theorem State.setBae_tap (b : Nat) (x : Bae) : (s.setBae b x).tap = s.tap := rfl
@[simp] theorem State.setBae_boot (b : Nat) (x : Bae) : (s.setBae b x).boot = s.boot := rfl
@[simp] theorem State.setBae_ldr (b : Nat) (x : Bae) : (s.setBae b x).ldr = s.ldr := rfl
@[simp] theorem State.setBae_spdm (b : Nat) (x : Bae) : (s.setBae b x).spdm = s.spdm := rfl
@[simp] theorem State.setBae_tal (b : Nat) (x : Bae) : (s.setBae b x).tal = s.tal := rfl
@[simp] theorem State.setBae_time (b : Nat) (x : Bae) : (s.setBae b x).time = s.time := rfl
@[simp] theorem State.setBae_tmr (b : Nat) (x : Bae) : (s.setBae b x).tmr = s.tmr := rfl
@[simp] theorem State.setBae_pwr (b : Nat) (x : Bae) : (s.setBae b x).pwr = s.pwr := rfl
@[simp] theorem State.setBae_links (b : Nat) (x : Bae) : (s.setBae b x).links = s.links := rfl
@[simp] theorem State.setBae_dev (b : Nat) (x : Bae) : (s.setBae b x).dev = s.dev := rfl
@[simp] theorem State.setBae_pins (b : Nat) (x : Bae) : (s.setBae b x).pins = s.pins := rfl
@[simp] theorem State.setBae_core' (b : Nat) (x : Bae) (c' : Nat) : (s.setBae b x).core c' = s.core c' := rfl
@[simp] theorem State.setBae_entry' (b : Nat) (x : Bae) (e' : Nat) : (s.setBae b x).entry e' = s.entry e' := rfl
@[simp] theorem State.setBae_sysCore' (b : Nat) (x : Bae) (k' : Nat) : (s.setBae b x).sysCore k' = s.sysCore k' := rfl
@[simp] theorem State.setBae_part' (b : Nat) (x : Bae) (p' : Nat) : (s.setBae b x).part p' = s.part p' := rfl
@[simp] theorem State.setBae_flow' (b : Nat) (x : Bae) (i' : Nat) : (s.setBae b x).flow i' = s.flow i' := rfl
@[simp] theorem State.setBae_barn' (b : Nat) (x : Bae) (b' : Nat) : (s.setBae b x).barn b' = s.barn b' := rfl
@[simp] theorem State.setBae_be' (b : Nat) (x : Bae) (e' : Nat) : (s.setBae b x).be e' = s.be e' := rfl
@[simp] theorem State.setBae_beSlot' (b : Nat) (x : Bae) (i' : Nat) : (s.setBae b x).beSlot i' = s.beSlot i' := rfl
@[simp] theorem State.setBae_bne' (b : Nat) (x : Bae) (n' : Nat) : (s.setBae b x).bne n' = s.bne n' := rfl
@[simp] theorem State.setBae_stack' (b : Nat) (x : Bae) (d' : Nat) : (s.setBae b x).stack d' = s.stack d' := rfl
@[simp] theorem State.setBae_gate' (b : Nat) (x : Bae) (a' : Nat) : (s.setBae b x).gate a' = s.gate a' := rfl
@[simp] theorem State.setBae_link' (b : Nat) (x : Bae) (l' : Nat) : (s.setBae b x).link l' = s.link l' := rfl
@[simp] theorem State.setBae_sq' (b : Nat) (x : Bae) (f' n' : Nat) : (s.setBae b x).sq f' n' = s.sq f' n' := rfl
@[simp] theorem State.setBae_cq' (b : Nat) (x : Bae) (f' n' : Nat) : (s.setBae b x).cq f' n' = s.cq f' n' := rfl
@[simp] theorem State.setBae_msix' (b : Nat) (x : Bae) (f' v' : Nat) : (s.setBae b x).msix f' v' = s.msix f' v' := rfl
@[simp] theorem State.setBae_window' (b : Nat) (x : Bae) (k' n' : Nat) : (s.setBae b x).window k' n' = s.window k' n' := rfl
@[simp] theorem State.setBae_slotAt' (b : Nat) (x : Bae) (i' : Nat) : (s.setBae b x).slotAt i' = s.slotAt i' := rfl
@[simp] theorem State.setBae_useCtr' (b : Nat) (x : Bae) (i' : Nat) : (s.setBae b x).useCtr i' = s.useCtr i' := rfl
@[simp] theorem State.setBae_bucket' (b : Nat) (x : Bae) (i' : Nat) : (s.setBae b x).bucket i' = s.bucket i' := rfl
@[simp] theorem State.setBae_source' (b : Nat) (x : Bae) (i' : Nat) : (s.setBae b x).source i' = s.source i' := rfl
@[simp] theorem State.setBae_drbg' (b : Nat) (x : Bae) (i' : Nat) : (s.setBae b x).drbg i' = s.drbg i' := rfl
@[simp] theorem State.setBae_reg' (b : Nat) (x : Bae) (a' : Nat) : (s.setBae b x).reg a' = s.reg a' := rfl
@[simp] theorem State.setBae_self (b : Nat) (x : Bae) : (s.setBae b x).bae b = x := Map.get_set_self _ _ _ _
theorem State.setBae_ne (b b' : Nat) (x : Bae) (h : b' ≠ b) : (s.setBae b x).bae b' = s.bae b' := Map.get_set_ne _ _ _ _ _ h

/-! ### setBne -/

@[simp] theorem State.setBne_pending (n : Nat) (x : Bne) : (s.setBne n x).pending = s.pending := rfl
@[simp] theorem State.setBne_hostMem (n : Nat) (x : Bne) : (s.setBne n x).hostMem = s.hostMem := rfl
@[simp] theorem State.setBne_sram (n : Nat) (x : Bne) : (s.setBne n x).sram = s.sram := rfl
@[simp] theorem State.setBne_free (n : Nat) (x : Bne) : (s.setBne n x).free = s.free := rfl
@[simp] theorem State.setBne_regs (n : Nat) (x : Bne) : (s.setBne n x).regs = s.regs := rfl
@[simp] theorem State.setBne_hif (n : Nat) (x : Bne) : (s.setBne n x).hif = s.hif := rfl
@[simp] theorem State.setBne_entries (n : Nat) (x : Bne) : (s.setBne n x).entries = s.entries := rfl
@[simp] theorem State.setBne_flows (n : Nat) (x : Bne) : (s.setBne n x).flows = s.flows := rfl
@[simp] theorem State.setBne_sched (n : Nat) (x : Bne) : (s.setBne n x).sched = s.sched := rfl
@[simp] theorem State.setBne_cores (n : Nat) (x : Bne) : (s.setBne n x).cores = s.cores := rfl
@[simp] theorem State.setBne_sys (n : Nat) (x : Bne) : (s.setBne n x).sys = s.sys := rfl
@[simp] theorem State.setBne_uwc (n : Nat) (x : Bne) : (s.setBne n x).uwc = s.uwc := rfl
@[simp] theorem State.setBne_uwcAge (n : Nat) (x : Bne) : (s.setBne n x).uwcAge = s.uwcAge := rfl
@[simp] theorem State.setBne_barns (n : Nat) (x : Bne) : (s.setBne n x).barns = s.barns := rfl
@[simp] theorem State.setBne_bes (n : Nat) (x : Bne) : (s.setBne n x).bes = s.bes := rfl
@[simp] theorem State.setBne_beSlots (n : Nat) (x : Bne) : (s.setBne n x).beSlots = s.beSlots := rfl
@[simp] theorem State.setBne_baes (n : Nat) (x : Bne) : (s.setBne n x).baes = s.baes := rfl
@[simp] theorem State.setBne_grn (n : Nat) (x : Bne) : (s.setBne n x).grn = s.grn := rfl
@[simp] theorem State.setBne_win (n : Nat) (x : Bne) : (s.setBne n x).win = s.win := rfl
@[simp] theorem State.setBne_hbm (n : Nat) (x : Bne) : (s.setBne n x).hbm = s.hbm := rfl
@[simp] theorem State.setBne_hbmKey (n : Nat) (x : Bne) : (s.setBne n x).hbmKey = s.hbmKey := rfl
@[simp] theorem State.setBne_rowHist (n : Nat) (x : Bne) : (s.setBne n x).rowHist = s.rowHist := rfl
@[simp] theorem State.setBne_parts (n : Nat) (x : Bne) : (s.setBne n x).parts = s.parts := rfl
@[simp] theorem State.setBne_decTables (n : Nat) (x : Bne) : (s.setBne n x).decTables = s.decTables := rfl
@[simp] theorem State.setBne_velPols (n : Nat) (x : Bne) : (s.setBne n x).velPols = s.velPols := rfl
@[simp] theorem State.setBne_seen (n : Nat) (x : Bne) : (s.setBne n x).seen = s.seen := rfl
@[simp] theorem State.setBne_yoke (n : Nat) (x : Bne) : (s.setBne n x).yoke = s.yoke := rfl
@[simp] theorem State.setBne_ofc (n : Nat) (x : Bne) : (s.setBne n x).ofc = s.ofc := rfl
@[simp] theorem State.setBne_scr (n : Nat) (x : Bne) : (s.setBne n x).scr = s.scr := rfl
@[simp] theorem State.setBne_scrAux (n : Nat) (x : Bne) : (s.setBne n x).scrAux = s.scrAux := rfl
@[simp] theorem State.setBne_lc (n : Nat) (x : Bne) : (s.setBne n x).lc = s.lc := rfl
@[simp] theorem State.setBne_gates (n : Nat) (x : Bne) : (s.setBne n x).gates = s.gates := rfl
@[simp] theorem State.setBne_tap (n : Nat) (x : Bne) : (s.setBne n x).tap = s.tap := rfl
@[simp] theorem State.setBne_boot (n : Nat) (x : Bne) : (s.setBne n x).boot = s.boot := rfl
@[simp] theorem State.setBne_ldr (n : Nat) (x : Bne) : (s.setBne n x).ldr = s.ldr := rfl
@[simp] theorem State.setBne_spdm (n : Nat) (x : Bne) : (s.setBne n x).spdm = s.spdm := rfl
@[simp] theorem State.setBne_tal (n : Nat) (x : Bne) : (s.setBne n x).tal = s.tal := rfl
@[simp] theorem State.setBne_time (n : Nat) (x : Bne) : (s.setBne n x).time = s.time := rfl
@[simp] theorem State.setBne_tmr (n : Nat) (x : Bne) : (s.setBne n x).tmr = s.tmr := rfl
@[simp] theorem State.setBne_pwr (n : Nat) (x : Bne) : (s.setBne n x).pwr = s.pwr := rfl
@[simp] theorem State.setBne_links (n : Nat) (x : Bne) : (s.setBne n x).links = s.links := rfl
@[simp] theorem State.setBne_dev (n : Nat) (x : Bne) : (s.setBne n x).dev = s.dev := rfl
@[simp] theorem State.setBne_pins (n : Nat) (x : Bne) : (s.setBne n x).pins = s.pins := rfl
@[simp] theorem State.setBne_core' (n : Nat) (x : Bne) (c' : Nat) : (s.setBne n x).core c' = s.core c' := rfl
@[simp] theorem State.setBne_entry' (n : Nat) (x : Bne) (e' : Nat) : (s.setBne n x).entry e' = s.entry e' := rfl
@[simp] theorem State.setBne_sysCore' (n : Nat) (x : Bne) (k' : Nat) : (s.setBne n x).sysCore k' = s.sysCore k' := rfl
@[simp] theorem State.setBne_part' (n : Nat) (x : Bne) (p' : Nat) : (s.setBne n x).part p' = s.part p' := rfl
@[simp] theorem State.setBne_flow' (n : Nat) (x : Bne) (i' : Nat) : (s.setBne n x).flow i' = s.flow i' := rfl
@[simp] theorem State.setBne_barn' (n : Nat) (x : Bne) (b' : Nat) : (s.setBne n x).barn b' = s.barn b' := rfl
@[simp] theorem State.setBne_be' (n : Nat) (x : Bne) (e' : Nat) : (s.setBne n x).be e' = s.be e' := rfl
@[simp] theorem State.setBne_beSlot' (n : Nat) (x : Bne) (i' : Nat) : (s.setBne n x).beSlot i' = s.beSlot i' := rfl
@[simp] theorem State.setBne_bae' (n : Nat) (x : Bne) (b' : Nat) : (s.setBne n x).bae b' = s.bae b' := rfl
@[simp] theorem State.setBne_stack' (n : Nat) (x : Bne) (d' : Nat) : (s.setBne n x).stack d' = s.stack d' := rfl
@[simp] theorem State.setBne_gate' (n : Nat) (x : Bne) (a' : Nat) : (s.setBne n x).gate a' = s.gate a' := rfl
@[simp] theorem State.setBne_link' (n : Nat) (x : Bne) (l' : Nat) : (s.setBne n x).link l' = s.link l' := rfl
@[simp] theorem State.setBne_sq' (n : Nat) (x : Bne) (f' n' : Nat) : (s.setBne n x).sq f' n' = s.sq f' n' := rfl
@[simp] theorem State.setBne_cq' (n : Nat) (x : Bne) (f' n' : Nat) : (s.setBne n x).cq f' n' = s.cq f' n' := rfl
@[simp] theorem State.setBne_msix' (n : Nat) (x : Bne) (f' v' : Nat) : (s.setBne n x).msix f' v' = s.msix f' v' := rfl
@[simp] theorem State.setBne_window' (n : Nat) (x : Bne) (k' n' : Nat) : (s.setBne n x).window k' n' = s.window k' n' := rfl
@[simp] theorem State.setBne_slotAt' (n : Nat) (x : Bne) (i' : Nat) : (s.setBne n x).slotAt i' = s.slotAt i' := rfl
@[simp] theorem State.setBne_useCtr' (n : Nat) (x : Bne) (i' : Nat) : (s.setBne n x).useCtr i' = s.useCtr i' := rfl
@[simp] theorem State.setBne_bucket' (n : Nat) (x : Bne) (i' : Nat) : (s.setBne n x).bucket i' = s.bucket i' := rfl
@[simp] theorem State.setBne_source' (n : Nat) (x : Bne) (i' : Nat) : (s.setBne n x).source i' = s.source i' := rfl
@[simp] theorem State.setBne_drbg' (n : Nat) (x : Bne) (i' : Nat) : (s.setBne n x).drbg i' = s.drbg i' := rfl
@[simp] theorem State.setBne_reg' (n : Nat) (x : Bne) (a' : Nat) : (s.setBne n x).reg a' = s.reg a' := rfl
@[simp] theorem State.setBne_self (n : Nat) (x : Bne) : (s.setBne n x).bne n = x := Map.get_set_self _ _ _ _
theorem State.setBne_ne (n n' : Nat) (x : Bne) (h : n' ≠ n) : (s.setBne n x).bne n' = s.bne n' := Map.get_set_ne _ _ _ _ _ h

/-! ### setStack -/

@[simp] theorem State.setStack_pending (d : Nat) (x : Hbm) : (s.setStack d x).pending = s.pending := rfl
@[simp] theorem State.setStack_hostMem (d : Nat) (x : Hbm) : (s.setStack d x).hostMem = s.hostMem := rfl
@[simp] theorem State.setStack_sram (d : Nat) (x : Hbm) : (s.setStack d x).sram = s.sram := rfl
@[simp] theorem State.setStack_free (d : Nat) (x : Hbm) : (s.setStack d x).free = s.free := rfl
@[simp] theorem State.setStack_regs (d : Nat) (x : Hbm) : (s.setStack d x).regs = s.regs := rfl
@[simp] theorem State.setStack_hif (d : Nat) (x : Hbm) : (s.setStack d x).hif = s.hif := rfl
@[simp] theorem State.setStack_entries (d : Nat) (x : Hbm) : (s.setStack d x).entries = s.entries := rfl
@[simp] theorem State.setStack_flows (d : Nat) (x : Hbm) : (s.setStack d x).flows = s.flows := rfl
@[simp] theorem State.setStack_sched (d : Nat) (x : Hbm) : (s.setStack d x).sched = s.sched := rfl
@[simp] theorem State.setStack_cores (d : Nat) (x : Hbm) : (s.setStack d x).cores = s.cores := rfl
@[simp] theorem State.setStack_sys (d : Nat) (x : Hbm) : (s.setStack d x).sys = s.sys := rfl
@[simp] theorem State.setStack_uwc (d : Nat) (x : Hbm) : (s.setStack d x).uwc = s.uwc := rfl
@[simp] theorem State.setStack_uwcAge (d : Nat) (x : Hbm) : (s.setStack d x).uwcAge = s.uwcAge := rfl
@[simp] theorem State.setStack_barns (d : Nat) (x : Hbm) : (s.setStack d x).barns = s.barns := rfl
@[simp] theorem State.setStack_bes (d : Nat) (x : Hbm) : (s.setStack d x).bes = s.bes := rfl
@[simp] theorem State.setStack_beSlots (d : Nat) (x : Hbm) : (s.setStack d x).beSlots = s.beSlots := rfl
@[simp] theorem State.setStack_baes (d : Nat) (x : Hbm) : (s.setStack d x).baes = s.baes := rfl
@[simp] theorem State.setStack_bnes (d : Nat) (x : Hbm) : (s.setStack d x).bnes = s.bnes := rfl
@[simp] theorem State.setStack_grn (d : Nat) (x : Hbm) : (s.setStack d x).grn = s.grn := rfl
@[simp] theorem State.setStack_win (d : Nat) (x : Hbm) : (s.setStack d x).win = s.win := rfl
@[simp] theorem State.setStack_hbmKey (d : Nat) (x : Hbm) : (s.setStack d x).hbmKey = s.hbmKey := rfl
@[simp] theorem State.setStack_rowHist (d : Nat) (x : Hbm) : (s.setStack d x).rowHist = s.rowHist := rfl
@[simp] theorem State.setStack_parts (d : Nat) (x : Hbm) : (s.setStack d x).parts = s.parts := rfl
@[simp] theorem State.setStack_decTables (d : Nat) (x : Hbm) : (s.setStack d x).decTables = s.decTables := rfl
@[simp] theorem State.setStack_velPols (d : Nat) (x : Hbm) : (s.setStack d x).velPols = s.velPols := rfl
@[simp] theorem State.setStack_seen (d : Nat) (x : Hbm) : (s.setStack d x).seen = s.seen := rfl
@[simp] theorem State.setStack_yoke (d : Nat) (x : Hbm) : (s.setStack d x).yoke = s.yoke := rfl
@[simp] theorem State.setStack_ofc (d : Nat) (x : Hbm) : (s.setStack d x).ofc = s.ofc := rfl
@[simp] theorem State.setStack_scr (d : Nat) (x : Hbm) : (s.setStack d x).scr = s.scr := rfl
@[simp] theorem State.setStack_scrAux (d : Nat) (x : Hbm) : (s.setStack d x).scrAux = s.scrAux := rfl
@[simp] theorem State.setStack_lc (d : Nat) (x : Hbm) : (s.setStack d x).lc = s.lc := rfl
@[simp] theorem State.setStack_gates (d : Nat) (x : Hbm) : (s.setStack d x).gates = s.gates := rfl
@[simp] theorem State.setStack_tap (d : Nat) (x : Hbm) : (s.setStack d x).tap = s.tap := rfl
@[simp] theorem State.setStack_boot (d : Nat) (x : Hbm) : (s.setStack d x).boot = s.boot := rfl
@[simp] theorem State.setStack_ldr (d : Nat) (x : Hbm) : (s.setStack d x).ldr = s.ldr := rfl
@[simp] theorem State.setStack_spdm (d : Nat) (x : Hbm) : (s.setStack d x).spdm = s.spdm := rfl
@[simp] theorem State.setStack_tal (d : Nat) (x : Hbm) : (s.setStack d x).tal = s.tal := rfl
@[simp] theorem State.setStack_time (d : Nat) (x : Hbm) : (s.setStack d x).time = s.time := rfl
@[simp] theorem State.setStack_tmr (d : Nat) (x : Hbm) : (s.setStack d x).tmr = s.tmr := rfl
@[simp] theorem State.setStack_pwr (d : Nat) (x : Hbm) : (s.setStack d x).pwr = s.pwr := rfl
@[simp] theorem State.setStack_links (d : Nat) (x : Hbm) : (s.setStack d x).links = s.links := rfl
@[simp] theorem State.setStack_dev (d : Nat) (x : Hbm) : (s.setStack d x).dev = s.dev := rfl
@[simp] theorem State.setStack_pins (d : Nat) (x : Hbm) : (s.setStack d x).pins = s.pins := rfl
@[simp] theorem State.setStack_core' (d : Nat) (x : Hbm) (c' : Nat) : (s.setStack d x).core c' = s.core c' := rfl
@[simp] theorem State.setStack_entry' (d : Nat) (x : Hbm) (e' : Nat) : (s.setStack d x).entry e' = s.entry e' := rfl
@[simp] theorem State.setStack_sysCore' (d : Nat) (x : Hbm) (k' : Nat) : (s.setStack d x).sysCore k' = s.sysCore k' := rfl
@[simp] theorem State.setStack_part' (d : Nat) (x : Hbm) (p' : Nat) : (s.setStack d x).part p' = s.part p' := rfl
@[simp] theorem State.setStack_flow' (d : Nat) (x : Hbm) (i' : Nat) : (s.setStack d x).flow i' = s.flow i' := rfl
@[simp] theorem State.setStack_barn' (d : Nat) (x : Hbm) (b' : Nat) : (s.setStack d x).barn b' = s.barn b' := rfl
@[simp] theorem State.setStack_be' (d : Nat) (x : Hbm) (e' : Nat) : (s.setStack d x).be e' = s.be e' := rfl
@[simp] theorem State.setStack_beSlot' (d : Nat) (x : Hbm) (i' : Nat) : (s.setStack d x).beSlot i' = s.beSlot i' := rfl
@[simp] theorem State.setStack_bae' (d : Nat) (x : Hbm) (b' : Nat) : (s.setStack d x).bae b' = s.bae b' := rfl
@[simp] theorem State.setStack_bne' (d : Nat) (x : Hbm) (n' : Nat) : (s.setStack d x).bne n' = s.bne n' := rfl
@[simp] theorem State.setStack_gate' (d : Nat) (x : Hbm) (a' : Nat) : (s.setStack d x).gate a' = s.gate a' := rfl
@[simp] theorem State.setStack_link' (d : Nat) (x : Hbm) (l' : Nat) : (s.setStack d x).link l' = s.link l' := rfl
@[simp] theorem State.setStack_sq' (d : Nat) (x : Hbm) (f' n' : Nat) : (s.setStack d x).sq f' n' = s.sq f' n' := rfl
@[simp] theorem State.setStack_cq' (d : Nat) (x : Hbm) (f' n' : Nat) : (s.setStack d x).cq f' n' = s.cq f' n' := rfl
@[simp] theorem State.setStack_msix' (d : Nat) (x : Hbm) (f' v' : Nat) : (s.setStack d x).msix f' v' = s.msix f' v' := rfl
@[simp] theorem State.setStack_window' (d : Nat) (x : Hbm) (k' n' : Nat) : (s.setStack d x).window k' n' = s.window k' n' := rfl
@[simp] theorem State.setStack_slotAt' (d : Nat) (x : Hbm) (i' : Nat) : (s.setStack d x).slotAt i' = s.slotAt i' := rfl
@[simp] theorem State.setStack_useCtr' (d : Nat) (x : Hbm) (i' : Nat) : (s.setStack d x).useCtr i' = s.useCtr i' := rfl
@[simp] theorem State.setStack_bucket' (d : Nat) (x : Hbm) (i' : Nat) : (s.setStack d x).bucket i' = s.bucket i' := rfl
@[simp] theorem State.setStack_source' (d : Nat) (x : Hbm) (i' : Nat) : (s.setStack d x).source i' = s.source i' := rfl
@[simp] theorem State.setStack_drbg' (d : Nat) (x : Hbm) (i' : Nat) : (s.setStack d x).drbg i' = s.drbg i' := rfl
@[simp] theorem State.setStack_reg' (d : Nat) (x : Hbm) (a' : Nat) : (s.setStack d x).reg a' = s.reg a' := rfl
@[simp] theorem State.setStack_self (d : Nat) (x : Hbm) : (s.setStack d x).stack d = x := Map.get_set_self _ _ _ _
theorem State.setStack_ne (d d' : Nat) (x : Hbm) (h : d' ≠ d) : (s.setStack d x).stack d' = s.stack d' := Map.get_set_ne _ _ _ _ _ h

/-! ### setGate -/

@[simp] theorem State.setGate_pending (a : Nat) (x : Gate) : (s.setGate a x).pending = s.pending := rfl
@[simp] theorem State.setGate_hostMem (a : Nat) (x : Gate) : (s.setGate a x).hostMem = s.hostMem := rfl
@[simp] theorem State.setGate_sram (a : Nat) (x : Gate) : (s.setGate a x).sram = s.sram := rfl
@[simp] theorem State.setGate_free (a : Nat) (x : Gate) : (s.setGate a x).free = s.free := rfl
@[simp] theorem State.setGate_regs (a : Nat) (x : Gate) : (s.setGate a x).regs = s.regs := rfl
@[simp] theorem State.setGate_hif (a : Nat) (x : Gate) : (s.setGate a x).hif = s.hif := rfl
@[simp] theorem State.setGate_entries (a : Nat) (x : Gate) : (s.setGate a x).entries = s.entries := rfl
@[simp] theorem State.setGate_flows (a : Nat) (x : Gate) : (s.setGate a x).flows = s.flows := rfl
@[simp] theorem State.setGate_sched (a : Nat) (x : Gate) : (s.setGate a x).sched = s.sched := rfl
@[simp] theorem State.setGate_cores (a : Nat) (x : Gate) : (s.setGate a x).cores = s.cores := rfl
@[simp] theorem State.setGate_sys (a : Nat) (x : Gate) : (s.setGate a x).sys = s.sys := rfl
@[simp] theorem State.setGate_uwc (a : Nat) (x : Gate) : (s.setGate a x).uwc = s.uwc := rfl
@[simp] theorem State.setGate_uwcAge (a : Nat) (x : Gate) : (s.setGate a x).uwcAge = s.uwcAge := rfl
@[simp] theorem State.setGate_barns (a : Nat) (x : Gate) : (s.setGate a x).barns = s.barns := rfl
@[simp] theorem State.setGate_bes (a : Nat) (x : Gate) : (s.setGate a x).bes = s.bes := rfl
@[simp] theorem State.setGate_beSlots (a : Nat) (x : Gate) : (s.setGate a x).beSlots = s.beSlots := rfl
@[simp] theorem State.setGate_baes (a : Nat) (x : Gate) : (s.setGate a x).baes = s.baes := rfl
@[simp] theorem State.setGate_bnes (a : Nat) (x : Gate) : (s.setGate a x).bnes = s.bnes := rfl
@[simp] theorem State.setGate_grn (a : Nat) (x : Gate) : (s.setGate a x).grn = s.grn := rfl
@[simp] theorem State.setGate_win (a : Nat) (x : Gate) : (s.setGate a x).win = s.win := rfl
@[simp] theorem State.setGate_hbm (a : Nat) (x : Gate) : (s.setGate a x).hbm = s.hbm := rfl
@[simp] theorem State.setGate_hbmKey (a : Nat) (x : Gate) : (s.setGate a x).hbmKey = s.hbmKey := rfl
@[simp] theorem State.setGate_rowHist (a : Nat) (x : Gate) : (s.setGate a x).rowHist = s.rowHist := rfl
@[simp] theorem State.setGate_parts (a : Nat) (x : Gate) : (s.setGate a x).parts = s.parts := rfl
@[simp] theorem State.setGate_decTables (a : Nat) (x : Gate) : (s.setGate a x).decTables = s.decTables := rfl
@[simp] theorem State.setGate_velPols (a : Nat) (x : Gate) : (s.setGate a x).velPols = s.velPols := rfl
@[simp] theorem State.setGate_seen (a : Nat) (x : Gate) : (s.setGate a x).seen = s.seen := rfl
@[simp] theorem State.setGate_yoke (a : Nat) (x : Gate) : (s.setGate a x).yoke = s.yoke := rfl
@[simp] theorem State.setGate_ofc (a : Nat) (x : Gate) : (s.setGate a x).ofc = s.ofc := rfl
@[simp] theorem State.setGate_scr (a : Nat) (x : Gate) : (s.setGate a x).scr = s.scr := rfl
@[simp] theorem State.setGate_scrAux (a : Nat) (x : Gate) : (s.setGate a x).scrAux = s.scrAux := rfl
@[simp] theorem State.setGate_lc (a : Nat) (x : Gate) : (s.setGate a x).lc = s.lc := rfl
@[simp] theorem State.setGate_tap (a : Nat) (x : Gate) : (s.setGate a x).tap = s.tap := rfl
@[simp] theorem State.setGate_boot (a : Nat) (x : Gate) : (s.setGate a x).boot = s.boot := rfl
@[simp] theorem State.setGate_ldr (a : Nat) (x : Gate) : (s.setGate a x).ldr = s.ldr := rfl
@[simp] theorem State.setGate_spdm (a : Nat) (x : Gate) : (s.setGate a x).spdm = s.spdm := rfl
@[simp] theorem State.setGate_tal (a : Nat) (x : Gate) : (s.setGate a x).tal = s.tal := rfl
@[simp] theorem State.setGate_time (a : Nat) (x : Gate) : (s.setGate a x).time = s.time := rfl
@[simp] theorem State.setGate_tmr (a : Nat) (x : Gate) : (s.setGate a x).tmr = s.tmr := rfl
@[simp] theorem State.setGate_pwr (a : Nat) (x : Gate) : (s.setGate a x).pwr = s.pwr := rfl
@[simp] theorem State.setGate_links (a : Nat) (x : Gate) : (s.setGate a x).links = s.links := rfl
@[simp] theorem State.setGate_dev (a : Nat) (x : Gate) : (s.setGate a x).dev = s.dev := rfl
@[simp] theorem State.setGate_pins (a : Nat) (x : Gate) : (s.setGate a x).pins = s.pins := rfl
@[simp] theorem State.setGate_core' (a : Nat) (x : Gate) (c' : Nat) : (s.setGate a x).core c' = s.core c' := rfl
@[simp] theorem State.setGate_entry' (a : Nat) (x : Gate) (e' : Nat) : (s.setGate a x).entry e' = s.entry e' := rfl
@[simp] theorem State.setGate_sysCore' (a : Nat) (x : Gate) (k' : Nat) : (s.setGate a x).sysCore k' = s.sysCore k' := rfl
@[simp] theorem State.setGate_part' (a : Nat) (x : Gate) (p' : Nat) : (s.setGate a x).part p' = s.part p' := rfl
@[simp] theorem State.setGate_flow' (a : Nat) (x : Gate) (i' : Nat) : (s.setGate a x).flow i' = s.flow i' := rfl
@[simp] theorem State.setGate_barn' (a : Nat) (x : Gate) (b' : Nat) : (s.setGate a x).barn b' = s.barn b' := rfl
@[simp] theorem State.setGate_be' (a : Nat) (x : Gate) (e' : Nat) : (s.setGate a x).be e' = s.be e' := rfl
@[simp] theorem State.setGate_beSlot' (a : Nat) (x : Gate) (i' : Nat) : (s.setGate a x).beSlot i' = s.beSlot i' := rfl
@[simp] theorem State.setGate_bae' (a : Nat) (x : Gate) (b' : Nat) : (s.setGate a x).bae b' = s.bae b' := rfl
@[simp] theorem State.setGate_bne' (a : Nat) (x : Gate) (n' : Nat) : (s.setGate a x).bne n' = s.bne n' := rfl
@[simp] theorem State.setGate_stack' (a : Nat) (x : Gate) (d' : Nat) : (s.setGate a x).stack d' = s.stack d' := rfl
@[simp] theorem State.setGate_link' (a : Nat) (x : Gate) (l' : Nat) : (s.setGate a x).link l' = s.link l' := rfl
@[simp] theorem State.setGate_sq' (a : Nat) (x : Gate) (f' n' : Nat) : (s.setGate a x).sq f' n' = s.sq f' n' := rfl
@[simp] theorem State.setGate_cq' (a : Nat) (x : Gate) (f' n' : Nat) : (s.setGate a x).cq f' n' = s.cq f' n' := rfl
@[simp] theorem State.setGate_msix' (a : Nat) (x : Gate) (f' v' : Nat) : (s.setGate a x).msix f' v' = s.msix f' v' := rfl
@[simp] theorem State.setGate_window' (a : Nat) (x : Gate) (k' n' : Nat) : (s.setGate a x).window k' n' = s.window k' n' := rfl
@[simp] theorem State.setGate_slotAt' (a : Nat) (x : Gate) (i' : Nat) : (s.setGate a x).slotAt i' = s.slotAt i' := rfl
@[simp] theorem State.setGate_useCtr' (a : Nat) (x : Gate) (i' : Nat) : (s.setGate a x).useCtr i' = s.useCtr i' := rfl
@[simp] theorem State.setGate_bucket' (a : Nat) (x : Gate) (i' : Nat) : (s.setGate a x).bucket i' = s.bucket i' := rfl
@[simp] theorem State.setGate_source' (a : Nat) (x : Gate) (i' : Nat) : (s.setGate a x).source i' = s.source i' := rfl
@[simp] theorem State.setGate_drbg' (a : Nat) (x : Gate) (i' : Nat) : (s.setGate a x).drbg i' = s.drbg i' := rfl
@[simp] theorem State.setGate_reg' (a : Nat) (x : Gate) (a' : Nat) : (s.setGate a x).reg a' = s.reg a' := rfl
@[simp] theorem State.setGate_self (a : Nat) (x : Gate) : (s.setGate a x).gate a = x := Map.get_set_self _ _ _ _
theorem State.setGate_ne (a a' : Nat) (x : Gate) (h : a' ≠ a) : (s.setGate a x).gate a' = s.gate a' := Map.get_set_ne _ _ _ _ _ h

/-! ### setLink -/

@[simp] theorem State.setLink_pending (l : Nat) (x : Link) : (s.setLink l x).pending = s.pending := rfl
@[simp] theorem State.setLink_hostMem (l : Nat) (x : Link) : (s.setLink l x).hostMem = s.hostMem := rfl
@[simp] theorem State.setLink_sram (l : Nat) (x : Link) : (s.setLink l x).sram = s.sram := rfl
@[simp] theorem State.setLink_free (l : Nat) (x : Link) : (s.setLink l x).free = s.free := rfl
@[simp] theorem State.setLink_regs (l : Nat) (x : Link) : (s.setLink l x).regs = s.regs := rfl
@[simp] theorem State.setLink_hif (l : Nat) (x : Link) : (s.setLink l x).hif = s.hif := rfl
@[simp] theorem State.setLink_entries (l : Nat) (x : Link) : (s.setLink l x).entries = s.entries := rfl
@[simp] theorem State.setLink_flows (l : Nat) (x : Link) : (s.setLink l x).flows = s.flows := rfl
@[simp] theorem State.setLink_sched (l : Nat) (x : Link) : (s.setLink l x).sched = s.sched := rfl
@[simp] theorem State.setLink_cores (l : Nat) (x : Link) : (s.setLink l x).cores = s.cores := rfl
@[simp] theorem State.setLink_sys (l : Nat) (x : Link) : (s.setLink l x).sys = s.sys := rfl
@[simp] theorem State.setLink_uwc (l : Nat) (x : Link) : (s.setLink l x).uwc = s.uwc := rfl
@[simp] theorem State.setLink_uwcAge (l : Nat) (x : Link) : (s.setLink l x).uwcAge = s.uwcAge := rfl
@[simp] theorem State.setLink_barns (l : Nat) (x : Link) : (s.setLink l x).barns = s.barns := rfl
@[simp] theorem State.setLink_bes (l : Nat) (x : Link) : (s.setLink l x).bes = s.bes := rfl
@[simp] theorem State.setLink_beSlots (l : Nat) (x : Link) : (s.setLink l x).beSlots = s.beSlots := rfl
@[simp] theorem State.setLink_baes (l : Nat) (x : Link) : (s.setLink l x).baes = s.baes := rfl
@[simp] theorem State.setLink_bnes (l : Nat) (x : Link) : (s.setLink l x).bnes = s.bnes := rfl
@[simp] theorem State.setLink_grn (l : Nat) (x : Link) : (s.setLink l x).grn = s.grn := rfl
@[simp] theorem State.setLink_win (l : Nat) (x : Link) : (s.setLink l x).win = s.win := rfl
@[simp] theorem State.setLink_hbm (l : Nat) (x : Link) : (s.setLink l x).hbm = s.hbm := rfl
@[simp] theorem State.setLink_hbmKey (l : Nat) (x : Link) : (s.setLink l x).hbmKey = s.hbmKey := rfl
@[simp] theorem State.setLink_rowHist (l : Nat) (x : Link) : (s.setLink l x).rowHist = s.rowHist := rfl
@[simp] theorem State.setLink_parts (l : Nat) (x : Link) : (s.setLink l x).parts = s.parts := rfl
@[simp] theorem State.setLink_decTables (l : Nat) (x : Link) : (s.setLink l x).decTables = s.decTables := rfl
@[simp] theorem State.setLink_velPols (l : Nat) (x : Link) : (s.setLink l x).velPols = s.velPols := rfl
@[simp] theorem State.setLink_seen (l : Nat) (x : Link) : (s.setLink l x).seen = s.seen := rfl
@[simp] theorem State.setLink_yoke (l : Nat) (x : Link) : (s.setLink l x).yoke = s.yoke := rfl
@[simp] theorem State.setLink_ofc (l : Nat) (x : Link) : (s.setLink l x).ofc = s.ofc := rfl
@[simp] theorem State.setLink_scr (l : Nat) (x : Link) : (s.setLink l x).scr = s.scr := rfl
@[simp] theorem State.setLink_scrAux (l : Nat) (x : Link) : (s.setLink l x).scrAux = s.scrAux := rfl
@[simp] theorem State.setLink_lc (l : Nat) (x : Link) : (s.setLink l x).lc = s.lc := rfl
@[simp] theorem State.setLink_gates (l : Nat) (x : Link) : (s.setLink l x).gates = s.gates := rfl
@[simp] theorem State.setLink_tap (l : Nat) (x : Link) : (s.setLink l x).tap = s.tap := rfl
@[simp] theorem State.setLink_boot (l : Nat) (x : Link) : (s.setLink l x).boot = s.boot := rfl
@[simp] theorem State.setLink_ldr (l : Nat) (x : Link) : (s.setLink l x).ldr = s.ldr := rfl
@[simp] theorem State.setLink_spdm (l : Nat) (x : Link) : (s.setLink l x).spdm = s.spdm := rfl
@[simp] theorem State.setLink_tal (l : Nat) (x : Link) : (s.setLink l x).tal = s.tal := rfl
@[simp] theorem State.setLink_time (l : Nat) (x : Link) : (s.setLink l x).time = s.time := rfl
@[simp] theorem State.setLink_tmr (l : Nat) (x : Link) : (s.setLink l x).tmr = s.tmr := rfl
@[simp] theorem State.setLink_pwr (l : Nat) (x : Link) : (s.setLink l x).pwr = s.pwr := rfl
@[simp] theorem State.setLink_dev (l : Nat) (x : Link) : (s.setLink l x).dev = s.dev := rfl
@[simp] theorem State.setLink_pins (l : Nat) (x : Link) : (s.setLink l x).pins = s.pins := rfl
@[simp] theorem State.setLink_core' (l : Nat) (x : Link) (c' : Nat) : (s.setLink l x).core c' = s.core c' := rfl
@[simp] theorem State.setLink_entry' (l : Nat) (x : Link) (e' : Nat) : (s.setLink l x).entry e' = s.entry e' := rfl
@[simp] theorem State.setLink_sysCore' (l : Nat) (x : Link) (k' : Nat) : (s.setLink l x).sysCore k' = s.sysCore k' := rfl
@[simp] theorem State.setLink_part' (l : Nat) (x : Link) (p' : Nat) : (s.setLink l x).part p' = s.part p' := rfl
@[simp] theorem State.setLink_flow' (l : Nat) (x : Link) (i' : Nat) : (s.setLink l x).flow i' = s.flow i' := rfl
@[simp] theorem State.setLink_barn' (l : Nat) (x : Link) (b' : Nat) : (s.setLink l x).barn b' = s.barn b' := rfl
@[simp] theorem State.setLink_be' (l : Nat) (x : Link) (e' : Nat) : (s.setLink l x).be e' = s.be e' := rfl
@[simp] theorem State.setLink_beSlot' (l : Nat) (x : Link) (i' : Nat) : (s.setLink l x).beSlot i' = s.beSlot i' := rfl
@[simp] theorem State.setLink_bae' (l : Nat) (x : Link) (b' : Nat) : (s.setLink l x).bae b' = s.bae b' := rfl
@[simp] theorem State.setLink_bne' (l : Nat) (x : Link) (n' : Nat) : (s.setLink l x).bne n' = s.bne n' := rfl
@[simp] theorem State.setLink_stack' (l : Nat) (x : Link) (d' : Nat) : (s.setLink l x).stack d' = s.stack d' := rfl
@[simp] theorem State.setLink_gate' (l : Nat) (x : Link) (a' : Nat) : (s.setLink l x).gate a' = s.gate a' := rfl
@[simp] theorem State.setLink_sq' (l : Nat) (x : Link) (f' n' : Nat) : (s.setLink l x).sq f' n' = s.sq f' n' := rfl
@[simp] theorem State.setLink_cq' (l : Nat) (x : Link) (f' n' : Nat) : (s.setLink l x).cq f' n' = s.cq f' n' := rfl
@[simp] theorem State.setLink_msix' (l : Nat) (x : Link) (f' v' : Nat) : (s.setLink l x).msix f' v' = s.msix f' v' := rfl
@[simp] theorem State.setLink_window' (l : Nat) (x : Link) (k' n' : Nat) : (s.setLink l x).window k' n' = s.window k' n' := rfl
@[simp] theorem State.setLink_slotAt' (l : Nat) (x : Link) (i' : Nat) : (s.setLink l x).slotAt i' = s.slotAt i' := rfl
@[simp] theorem State.setLink_useCtr' (l : Nat) (x : Link) (i' : Nat) : (s.setLink l x).useCtr i' = s.useCtr i' := rfl
@[simp] theorem State.setLink_bucket' (l : Nat) (x : Link) (i' : Nat) : (s.setLink l x).bucket i' = s.bucket i' := rfl
@[simp] theorem State.setLink_source' (l : Nat) (x : Link) (i' : Nat) : (s.setLink l x).source i' = s.source i' := rfl
@[simp] theorem State.setLink_drbg' (l : Nat) (x : Link) (i' : Nat) : (s.setLink l x).drbg i' = s.drbg i' := rfl
@[simp] theorem State.setLink_reg' (l : Nat) (x : Link) (a' : Nat) : (s.setLink l x).reg a' = s.reg a' := rfl
@[simp] theorem State.setLink_self (l : Nat) (x : Link) : (s.setLink l x).link l = x := Map.get_set_self _ _ _ _
theorem State.setLink_ne (l l' : Nat) (x : Link) (h : l' ≠ l) : (s.setLink l x).link l' = s.link l' := Map.get_set_ne _ _ _ _ _ h

/-! ### setSq -/

@[simp] theorem State.setSq_pending (f n : Nat) (x : SqRing) : (s.setSq f n x).pending = s.pending := rfl
@[simp] theorem State.setSq_hostMem (f n : Nat) (x : SqRing) : (s.setSq f n x).hostMem = s.hostMem := rfl
@[simp] theorem State.setSq_sram (f n : Nat) (x : SqRing) : (s.setSq f n x).sram = s.sram := rfl
@[simp] theorem State.setSq_free (f n : Nat) (x : SqRing) : (s.setSq f n x).free = s.free := rfl
@[simp] theorem State.setSq_regs (f n : Nat) (x : SqRing) : (s.setSq f n x).regs = s.regs := rfl
@[simp] theorem State.setSq_entries (f n : Nat) (x : SqRing) : (s.setSq f n x).entries = s.entries := rfl
@[simp] theorem State.setSq_flows (f n : Nat) (x : SqRing) : (s.setSq f n x).flows = s.flows := rfl
@[simp] theorem State.setSq_sched (f n : Nat) (x : SqRing) : (s.setSq f n x).sched = s.sched := rfl
@[simp] theorem State.setSq_cores (f n : Nat) (x : SqRing) : (s.setSq f n x).cores = s.cores := rfl
@[simp] theorem State.setSq_sys (f n : Nat) (x : SqRing) : (s.setSq f n x).sys = s.sys := rfl
@[simp] theorem State.setSq_uwc (f n : Nat) (x : SqRing) : (s.setSq f n x).uwc = s.uwc := rfl
@[simp] theorem State.setSq_uwcAge (f n : Nat) (x : SqRing) : (s.setSq f n x).uwcAge = s.uwcAge := rfl
@[simp] theorem State.setSq_barns (f n : Nat) (x : SqRing) : (s.setSq f n x).barns = s.barns := rfl
@[simp] theorem State.setSq_bes (f n : Nat) (x : SqRing) : (s.setSq f n x).bes = s.bes := rfl
@[simp] theorem State.setSq_beSlots (f n : Nat) (x : SqRing) : (s.setSq f n x).beSlots = s.beSlots := rfl
@[simp] theorem State.setSq_baes (f n : Nat) (x : SqRing) : (s.setSq f n x).baes = s.baes := rfl
@[simp] theorem State.setSq_bnes (f n : Nat) (x : SqRing) : (s.setSq f n x).bnes = s.bnes := rfl
@[simp] theorem State.setSq_grn (f n : Nat) (x : SqRing) : (s.setSq f n x).grn = s.grn := rfl
@[simp] theorem State.setSq_win (f n : Nat) (x : SqRing) : (s.setSq f n x).win = s.win := rfl
@[simp] theorem State.setSq_hbm (f n : Nat) (x : SqRing) : (s.setSq f n x).hbm = s.hbm := rfl
@[simp] theorem State.setSq_hbmKey (f n : Nat) (x : SqRing) : (s.setSq f n x).hbmKey = s.hbmKey := rfl
@[simp] theorem State.setSq_rowHist (f n : Nat) (x : SqRing) : (s.setSq f n x).rowHist = s.rowHist := rfl
@[simp] theorem State.setSq_parts (f n : Nat) (x : SqRing) : (s.setSq f n x).parts = s.parts := rfl
@[simp] theorem State.setSq_decTables (f n : Nat) (x : SqRing) : (s.setSq f n x).decTables = s.decTables := rfl
@[simp] theorem State.setSq_velPols (f n : Nat) (x : SqRing) : (s.setSq f n x).velPols = s.velPols := rfl
@[simp] theorem State.setSq_seen (f n : Nat) (x : SqRing) : (s.setSq f n x).seen = s.seen := rfl
@[simp] theorem State.setSq_yoke (f n : Nat) (x : SqRing) : (s.setSq f n x).yoke = s.yoke := rfl
@[simp] theorem State.setSq_ofc (f n : Nat) (x : SqRing) : (s.setSq f n x).ofc = s.ofc := rfl
@[simp] theorem State.setSq_scr (f n : Nat) (x : SqRing) : (s.setSq f n x).scr = s.scr := rfl
@[simp] theorem State.setSq_scrAux (f n : Nat) (x : SqRing) : (s.setSq f n x).scrAux = s.scrAux := rfl
@[simp] theorem State.setSq_lc (f n : Nat) (x : SqRing) : (s.setSq f n x).lc = s.lc := rfl
@[simp] theorem State.setSq_gates (f n : Nat) (x : SqRing) : (s.setSq f n x).gates = s.gates := rfl
@[simp] theorem State.setSq_tap (f n : Nat) (x : SqRing) : (s.setSq f n x).tap = s.tap := rfl
@[simp] theorem State.setSq_boot (f n : Nat) (x : SqRing) : (s.setSq f n x).boot = s.boot := rfl
@[simp] theorem State.setSq_ldr (f n : Nat) (x : SqRing) : (s.setSq f n x).ldr = s.ldr := rfl
@[simp] theorem State.setSq_spdm (f n : Nat) (x : SqRing) : (s.setSq f n x).spdm = s.spdm := rfl
@[simp] theorem State.setSq_tal (f n : Nat) (x : SqRing) : (s.setSq f n x).tal = s.tal := rfl
@[simp] theorem State.setSq_time (f n : Nat) (x : SqRing) : (s.setSq f n x).time = s.time := rfl
@[simp] theorem State.setSq_tmr (f n : Nat) (x : SqRing) : (s.setSq f n x).tmr = s.tmr := rfl
@[simp] theorem State.setSq_pwr (f n : Nat) (x : SqRing) : (s.setSq f n x).pwr = s.pwr := rfl
@[simp] theorem State.setSq_links (f n : Nat) (x : SqRing) : (s.setSq f n x).links = s.links := rfl
@[simp] theorem State.setSq_dev (f n : Nat) (x : SqRing) : (s.setSq f n x).dev = s.dev := rfl
@[simp] theorem State.setSq_pins (f n : Nat) (x : SqRing) : (s.setSq f n x).pins = s.pins := rfl
@[simp] theorem State.setSq_core' (f n : Nat) (x : SqRing) (c' : Nat) : (s.setSq f n x).core c' = s.core c' := rfl
@[simp] theorem State.setSq_entry' (f n : Nat) (x : SqRing) (e' : Nat) : (s.setSq f n x).entry e' = s.entry e' := rfl
@[simp] theorem State.setSq_sysCore' (f n : Nat) (x : SqRing) (k' : Nat) : (s.setSq f n x).sysCore k' = s.sysCore k' := rfl
@[simp] theorem State.setSq_part' (f n : Nat) (x : SqRing) (p' : Nat) : (s.setSq f n x).part p' = s.part p' := rfl
@[simp] theorem State.setSq_flow' (f n : Nat) (x : SqRing) (i' : Nat) : (s.setSq f n x).flow i' = s.flow i' := rfl
@[simp] theorem State.setSq_barn' (f n : Nat) (x : SqRing) (b' : Nat) : (s.setSq f n x).barn b' = s.barn b' := rfl
@[simp] theorem State.setSq_be' (f n : Nat) (x : SqRing) (e' : Nat) : (s.setSq f n x).be e' = s.be e' := rfl
@[simp] theorem State.setSq_beSlot' (f n : Nat) (x : SqRing) (i' : Nat) : (s.setSq f n x).beSlot i' = s.beSlot i' := rfl
@[simp] theorem State.setSq_bae' (f n : Nat) (x : SqRing) (b' : Nat) : (s.setSq f n x).bae b' = s.bae b' := rfl
@[simp] theorem State.setSq_bne' (f n : Nat) (x : SqRing) (n' : Nat) : (s.setSq f n x).bne n' = s.bne n' := rfl
@[simp] theorem State.setSq_stack' (f n : Nat) (x : SqRing) (d' : Nat) : (s.setSq f n x).stack d' = s.stack d' := rfl
@[simp] theorem State.setSq_gate' (f n : Nat) (x : SqRing) (a' : Nat) : (s.setSq f n x).gate a' = s.gate a' := rfl
@[simp] theorem State.setSq_link' (f n : Nat) (x : SqRing) (l' : Nat) : (s.setSq f n x).link l' = s.link l' := rfl
@[simp] theorem State.setSq_cq' (f n : Nat) (x : SqRing) (f' n' : Nat) : (s.setSq f n x).cq f' n' = s.cq f' n' := rfl
@[simp] theorem State.setSq_msix' (f n : Nat) (x : SqRing) (f' v' : Nat) : (s.setSq f n x).msix f' v' = s.msix f' v' := rfl
@[simp] theorem State.setSq_window' (f n : Nat) (x : SqRing) (k' n' : Nat) : (s.setSq f n x).window k' n' = s.window k' n' := rfl
@[simp] theorem State.setSq_slotAt' (f n : Nat) (x : SqRing) (i' : Nat) : (s.setSq f n x).slotAt i' = s.slotAt i' := rfl
@[simp] theorem State.setSq_useCtr' (f n : Nat) (x : SqRing) (i' : Nat) : (s.setSq f n x).useCtr i' = s.useCtr i' := rfl
@[simp] theorem State.setSq_bucket' (f n : Nat) (x : SqRing) (i' : Nat) : (s.setSq f n x).bucket i' = s.bucket i' := rfl
@[simp] theorem State.setSq_source' (f n : Nat) (x : SqRing) (i' : Nat) : (s.setSq f n x).source i' = s.source i' := rfl
@[simp] theorem State.setSq_drbg' (f n : Nat) (x : SqRing) (i' : Nat) : (s.setSq f n x).drbg i' = s.drbg i' := rfl
@[simp] theorem State.setSq_reg' (f n : Nat) (x : SqRing) (a' : Nat) : (s.setSq f n x).reg a' = s.reg a' := rfl
@[simp] theorem State.setSq_self (f n : Nat) (x : SqRing) : (s.setSq f n x).sq f n = x := Map.get_set_self _ _ _ _

/-! ### setCq -/

@[simp] theorem State.setCq_pending (f n : Nat) (x : CqRing) : (s.setCq f n x).pending = s.pending := rfl
@[simp] theorem State.setCq_hostMem (f n : Nat) (x : CqRing) : (s.setCq f n x).hostMem = s.hostMem := rfl
@[simp] theorem State.setCq_sram (f n : Nat) (x : CqRing) : (s.setCq f n x).sram = s.sram := rfl
@[simp] theorem State.setCq_free (f n : Nat) (x : CqRing) : (s.setCq f n x).free = s.free := rfl
@[simp] theorem State.setCq_regs (f n : Nat) (x : CqRing) : (s.setCq f n x).regs = s.regs := rfl
@[simp] theorem State.setCq_entries (f n : Nat) (x : CqRing) : (s.setCq f n x).entries = s.entries := rfl
@[simp] theorem State.setCq_flows (f n : Nat) (x : CqRing) : (s.setCq f n x).flows = s.flows := rfl
@[simp] theorem State.setCq_sched (f n : Nat) (x : CqRing) : (s.setCq f n x).sched = s.sched := rfl
@[simp] theorem State.setCq_cores (f n : Nat) (x : CqRing) : (s.setCq f n x).cores = s.cores := rfl
@[simp] theorem State.setCq_sys (f n : Nat) (x : CqRing) : (s.setCq f n x).sys = s.sys := rfl
@[simp] theorem State.setCq_uwc (f n : Nat) (x : CqRing) : (s.setCq f n x).uwc = s.uwc := rfl
@[simp] theorem State.setCq_uwcAge (f n : Nat) (x : CqRing) : (s.setCq f n x).uwcAge = s.uwcAge := rfl
@[simp] theorem State.setCq_barns (f n : Nat) (x : CqRing) : (s.setCq f n x).barns = s.barns := rfl
@[simp] theorem State.setCq_bes (f n : Nat) (x : CqRing) : (s.setCq f n x).bes = s.bes := rfl
@[simp] theorem State.setCq_beSlots (f n : Nat) (x : CqRing) : (s.setCq f n x).beSlots = s.beSlots := rfl
@[simp] theorem State.setCq_baes (f n : Nat) (x : CqRing) : (s.setCq f n x).baes = s.baes := rfl
@[simp] theorem State.setCq_bnes (f n : Nat) (x : CqRing) : (s.setCq f n x).bnes = s.bnes := rfl
@[simp] theorem State.setCq_grn (f n : Nat) (x : CqRing) : (s.setCq f n x).grn = s.grn := rfl
@[simp] theorem State.setCq_win (f n : Nat) (x : CqRing) : (s.setCq f n x).win = s.win := rfl
@[simp] theorem State.setCq_hbm (f n : Nat) (x : CqRing) : (s.setCq f n x).hbm = s.hbm := rfl
@[simp] theorem State.setCq_hbmKey (f n : Nat) (x : CqRing) : (s.setCq f n x).hbmKey = s.hbmKey := rfl
@[simp] theorem State.setCq_rowHist (f n : Nat) (x : CqRing) : (s.setCq f n x).rowHist = s.rowHist := rfl
@[simp] theorem State.setCq_parts (f n : Nat) (x : CqRing) : (s.setCq f n x).parts = s.parts := rfl
@[simp] theorem State.setCq_decTables (f n : Nat) (x : CqRing) : (s.setCq f n x).decTables = s.decTables := rfl
@[simp] theorem State.setCq_velPols (f n : Nat) (x : CqRing) : (s.setCq f n x).velPols = s.velPols := rfl
@[simp] theorem State.setCq_seen (f n : Nat) (x : CqRing) : (s.setCq f n x).seen = s.seen := rfl
@[simp] theorem State.setCq_yoke (f n : Nat) (x : CqRing) : (s.setCq f n x).yoke = s.yoke := rfl
@[simp] theorem State.setCq_ofc (f n : Nat) (x : CqRing) : (s.setCq f n x).ofc = s.ofc := rfl
@[simp] theorem State.setCq_scr (f n : Nat) (x : CqRing) : (s.setCq f n x).scr = s.scr := rfl
@[simp] theorem State.setCq_scrAux (f n : Nat) (x : CqRing) : (s.setCq f n x).scrAux = s.scrAux := rfl
@[simp] theorem State.setCq_lc (f n : Nat) (x : CqRing) : (s.setCq f n x).lc = s.lc := rfl
@[simp] theorem State.setCq_gates (f n : Nat) (x : CqRing) : (s.setCq f n x).gates = s.gates := rfl
@[simp] theorem State.setCq_tap (f n : Nat) (x : CqRing) : (s.setCq f n x).tap = s.tap := rfl
@[simp] theorem State.setCq_boot (f n : Nat) (x : CqRing) : (s.setCq f n x).boot = s.boot := rfl
@[simp] theorem State.setCq_ldr (f n : Nat) (x : CqRing) : (s.setCq f n x).ldr = s.ldr := rfl
@[simp] theorem State.setCq_spdm (f n : Nat) (x : CqRing) : (s.setCq f n x).spdm = s.spdm := rfl
@[simp] theorem State.setCq_tal (f n : Nat) (x : CqRing) : (s.setCq f n x).tal = s.tal := rfl
@[simp] theorem State.setCq_time (f n : Nat) (x : CqRing) : (s.setCq f n x).time = s.time := rfl
@[simp] theorem State.setCq_tmr (f n : Nat) (x : CqRing) : (s.setCq f n x).tmr = s.tmr := rfl
@[simp] theorem State.setCq_pwr (f n : Nat) (x : CqRing) : (s.setCq f n x).pwr = s.pwr := rfl
@[simp] theorem State.setCq_links (f n : Nat) (x : CqRing) : (s.setCq f n x).links = s.links := rfl
@[simp] theorem State.setCq_dev (f n : Nat) (x : CqRing) : (s.setCq f n x).dev = s.dev := rfl
@[simp] theorem State.setCq_pins (f n : Nat) (x : CqRing) : (s.setCq f n x).pins = s.pins := rfl
@[simp] theorem State.setCq_core' (f n : Nat) (x : CqRing) (c' : Nat) : (s.setCq f n x).core c' = s.core c' := rfl
@[simp] theorem State.setCq_entry' (f n : Nat) (x : CqRing) (e' : Nat) : (s.setCq f n x).entry e' = s.entry e' := rfl
@[simp] theorem State.setCq_sysCore' (f n : Nat) (x : CqRing) (k' : Nat) : (s.setCq f n x).sysCore k' = s.sysCore k' := rfl
@[simp] theorem State.setCq_part' (f n : Nat) (x : CqRing) (p' : Nat) : (s.setCq f n x).part p' = s.part p' := rfl
@[simp] theorem State.setCq_flow' (f n : Nat) (x : CqRing) (i' : Nat) : (s.setCq f n x).flow i' = s.flow i' := rfl
@[simp] theorem State.setCq_barn' (f n : Nat) (x : CqRing) (b' : Nat) : (s.setCq f n x).barn b' = s.barn b' := rfl
@[simp] theorem State.setCq_be' (f n : Nat) (x : CqRing) (e' : Nat) : (s.setCq f n x).be e' = s.be e' := rfl
@[simp] theorem State.setCq_beSlot' (f n : Nat) (x : CqRing) (i' : Nat) : (s.setCq f n x).beSlot i' = s.beSlot i' := rfl
@[simp] theorem State.setCq_bae' (f n : Nat) (x : CqRing) (b' : Nat) : (s.setCq f n x).bae b' = s.bae b' := rfl
@[simp] theorem State.setCq_bne' (f n : Nat) (x : CqRing) (n' : Nat) : (s.setCq f n x).bne n' = s.bne n' := rfl
@[simp] theorem State.setCq_stack' (f n : Nat) (x : CqRing) (d' : Nat) : (s.setCq f n x).stack d' = s.stack d' := rfl
@[simp] theorem State.setCq_gate' (f n : Nat) (x : CqRing) (a' : Nat) : (s.setCq f n x).gate a' = s.gate a' := rfl
@[simp] theorem State.setCq_link' (f n : Nat) (x : CqRing) (l' : Nat) : (s.setCq f n x).link l' = s.link l' := rfl
@[simp] theorem State.setCq_sq' (f n : Nat) (x : CqRing) (f' n' : Nat) : (s.setCq f n x).sq f' n' = s.sq f' n' := rfl
@[simp] theorem State.setCq_msix' (f n : Nat) (x : CqRing) (f' v' : Nat) : (s.setCq f n x).msix f' v' = s.msix f' v' := rfl
@[simp] theorem State.setCq_window' (f n : Nat) (x : CqRing) (k' n' : Nat) : (s.setCq f n x).window k' n' = s.window k' n' := rfl
@[simp] theorem State.setCq_slotAt' (f n : Nat) (x : CqRing) (i' : Nat) : (s.setCq f n x).slotAt i' = s.slotAt i' := rfl
@[simp] theorem State.setCq_useCtr' (f n : Nat) (x : CqRing) (i' : Nat) : (s.setCq f n x).useCtr i' = s.useCtr i' := rfl
@[simp] theorem State.setCq_bucket' (f n : Nat) (x : CqRing) (i' : Nat) : (s.setCq f n x).bucket i' = s.bucket i' := rfl
@[simp] theorem State.setCq_source' (f n : Nat) (x : CqRing) (i' : Nat) : (s.setCq f n x).source i' = s.source i' := rfl
@[simp] theorem State.setCq_drbg' (f n : Nat) (x : CqRing) (i' : Nat) : (s.setCq f n x).drbg i' = s.drbg i' := rfl
@[simp] theorem State.setCq_reg' (f n : Nat) (x : CqRing) (a' : Nat) : (s.setCq f n x).reg a' = s.reg a' := rfl
@[simp] theorem State.setCq_self (f n : Nat) (x : CqRing) : (s.setCq f n x).cq f n = x := Map.get_set_self _ _ _ _

/-! ### setMsix -/

@[simp] theorem State.setMsix_pending (f v : Nat) (x : MsixEntry) : (s.setMsix f v x).pending = s.pending := rfl
@[simp] theorem State.setMsix_hostMem (f v : Nat) (x : MsixEntry) : (s.setMsix f v x).hostMem = s.hostMem := rfl
@[simp] theorem State.setMsix_sram (f v : Nat) (x : MsixEntry) : (s.setMsix f v x).sram = s.sram := rfl
@[simp] theorem State.setMsix_free (f v : Nat) (x : MsixEntry) : (s.setMsix f v x).free = s.free := rfl
@[simp] theorem State.setMsix_regs (f v : Nat) (x : MsixEntry) : (s.setMsix f v x).regs = s.regs := rfl
@[simp] theorem State.setMsix_entries (f v : Nat) (x : MsixEntry) : (s.setMsix f v x).entries = s.entries := rfl
@[simp] theorem State.setMsix_flows (f v : Nat) (x : MsixEntry) : (s.setMsix f v x).flows = s.flows := rfl
@[simp] theorem State.setMsix_sched (f v : Nat) (x : MsixEntry) : (s.setMsix f v x).sched = s.sched := rfl
@[simp] theorem State.setMsix_cores (f v : Nat) (x : MsixEntry) : (s.setMsix f v x).cores = s.cores := rfl
@[simp] theorem State.setMsix_sys (f v : Nat) (x : MsixEntry) : (s.setMsix f v x).sys = s.sys := rfl
@[simp] theorem State.setMsix_uwc (f v : Nat) (x : MsixEntry) : (s.setMsix f v x).uwc = s.uwc := rfl
@[simp] theorem State.setMsix_uwcAge (f v : Nat) (x : MsixEntry) : (s.setMsix f v x).uwcAge = s.uwcAge := rfl
@[simp] theorem State.setMsix_barns (f v : Nat) (x : MsixEntry) : (s.setMsix f v x).barns = s.barns := rfl
@[simp] theorem State.setMsix_bes (f v : Nat) (x : MsixEntry) : (s.setMsix f v x).bes = s.bes := rfl
@[simp] theorem State.setMsix_beSlots (f v : Nat) (x : MsixEntry) : (s.setMsix f v x).beSlots = s.beSlots := rfl
@[simp] theorem State.setMsix_baes (f v : Nat) (x : MsixEntry) : (s.setMsix f v x).baes = s.baes := rfl
@[simp] theorem State.setMsix_bnes (f v : Nat) (x : MsixEntry) : (s.setMsix f v x).bnes = s.bnes := rfl
@[simp] theorem State.setMsix_grn (f v : Nat) (x : MsixEntry) : (s.setMsix f v x).grn = s.grn := rfl
@[simp] theorem State.setMsix_win (f v : Nat) (x : MsixEntry) : (s.setMsix f v x).win = s.win := rfl
@[simp] theorem State.setMsix_hbm (f v : Nat) (x : MsixEntry) : (s.setMsix f v x).hbm = s.hbm := rfl
@[simp] theorem State.setMsix_hbmKey (f v : Nat) (x : MsixEntry) : (s.setMsix f v x).hbmKey = s.hbmKey := rfl
@[simp] theorem State.setMsix_rowHist (f v : Nat) (x : MsixEntry) : (s.setMsix f v x).rowHist = s.rowHist := rfl
@[simp] theorem State.setMsix_parts (f v : Nat) (x : MsixEntry) : (s.setMsix f v x).parts = s.parts := rfl
@[simp] theorem State.setMsix_decTables (f v : Nat) (x : MsixEntry) : (s.setMsix f v x).decTables = s.decTables := rfl
@[simp] theorem State.setMsix_velPols (f v : Nat) (x : MsixEntry) : (s.setMsix f v x).velPols = s.velPols := rfl
@[simp] theorem State.setMsix_seen (f v : Nat) (x : MsixEntry) : (s.setMsix f v x).seen = s.seen := rfl
@[simp] theorem State.setMsix_yoke (f v : Nat) (x : MsixEntry) : (s.setMsix f v x).yoke = s.yoke := rfl
@[simp] theorem State.setMsix_ofc (f v : Nat) (x : MsixEntry) : (s.setMsix f v x).ofc = s.ofc := rfl
@[simp] theorem State.setMsix_scr (f v : Nat) (x : MsixEntry) : (s.setMsix f v x).scr = s.scr := rfl
@[simp] theorem State.setMsix_scrAux (f v : Nat) (x : MsixEntry) : (s.setMsix f v x).scrAux = s.scrAux := rfl
@[simp] theorem State.setMsix_lc (f v : Nat) (x : MsixEntry) : (s.setMsix f v x).lc = s.lc := rfl
@[simp] theorem State.setMsix_gates (f v : Nat) (x : MsixEntry) : (s.setMsix f v x).gates = s.gates := rfl
@[simp] theorem State.setMsix_tap (f v : Nat) (x : MsixEntry) : (s.setMsix f v x).tap = s.tap := rfl
@[simp] theorem State.setMsix_boot (f v : Nat) (x : MsixEntry) : (s.setMsix f v x).boot = s.boot := rfl
@[simp] theorem State.setMsix_ldr (f v : Nat) (x : MsixEntry) : (s.setMsix f v x).ldr = s.ldr := rfl
@[simp] theorem State.setMsix_spdm (f v : Nat) (x : MsixEntry) : (s.setMsix f v x).spdm = s.spdm := rfl
@[simp] theorem State.setMsix_tal (f v : Nat) (x : MsixEntry) : (s.setMsix f v x).tal = s.tal := rfl
@[simp] theorem State.setMsix_time (f v : Nat) (x : MsixEntry) : (s.setMsix f v x).time = s.time := rfl
@[simp] theorem State.setMsix_tmr (f v : Nat) (x : MsixEntry) : (s.setMsix f v x).tmr = s.tmr := rfl
@[simp] theorem State.setMsix_pwr (f v : Nat) (x : MsixEntry) : (s.setMsix f v x).pwr = s.pwr := rfl
@[simp] theorem State.setMsix_links (f v : Nat) (x : MsixEntry) : (s.setMsix f v x).links = s.links := rfl
@[simp] theorem State.setMsix_dev (f v : Nat) (x : MsixEntry) : (s.setMsix f v x).dev = s.dev := rfl
@[simp] theorem State.setMsix_pins (f v : Nat) (x : MsixEntry) : (s.setMsix f v x).pins = s.pins := rfl
@[simp] theorem State.setMsix_core' (f v : Nat) (x : MsixEntry) (c' : Nat) : (s.setMsix f v x).core c' = s.core c' := rfl
@[simp] theorem State.setMsix_entry' (f v : Nat) (x : MsixEntry) (e' : Nat) : (s.setMsix f v x).entry e' = s.entry e' := rfl
@[simp] theorem State.setMsix_sysCore' (f v : Nat) (x : MsixEntry) (k' : Nat) : (s.setMsix f v x).sysCore k' = s.sysCore k' := rfl
@[simp] theorem State.setMsix_part' (f v : Nat) (x : MsixEntry) (p' : Nat) : (s.setMsix f v x).part p' = s.part p' := rfl
@[simp] theorem State.setMsix_flow' (f v : Nat) (x : MsixEntry) (i' : Nat) : (s.setMsix f v x).flow i' = s.flow i' := rfl
@[simp] theorem State.setMsix_barn' (f v : Nat) (x : MsixEntry) (b' : Nat) : (s.setMsix f v x).barn b' = s.barn b' := rfl
@[simp] theorem State.setMsix_be' (f v : Nat) (x : MsixEntry) (e' : Nat) : (s.setMsix f v x).be e' = s.be e' := rfl
@[simp] theorem State.setMsix_beSlot' (f v : Nat) (x : MsixEntry) (i' : Nat) : (s.setMsix f v x).beSlot i' = s.beSlot i' := rfl
@[simp] theorem State.setMsix_bae' (f v : Nat) (x : MsixEntry) (b' : Nat) : (s.setMsix f v x).bae b' = s.bae b' := rfl
@[simp] theorem State.setMsix_bne' (f v : Nat) (x : MsixEntry) (n' : Nat) : (s.setMsix f v x).bne n' = s.bne n' := rfl
@[simp] theorem State.setMsix_stack' (f v : Nat) (x : MsixEntry) (d' : Nat) : (s.setMsix f v x).stack d' = s.stack d' := rfl
@[simp] theorem State.setMsix_gate' (f v : Nat) (x : MsixEntry) (a' : Nat) : (s.setMsix f v x).gate a' = s.gate a' := rfl
@[simp] theorem State.setMsix_link' (f v : Nat) (x : MsixEntry) (l' : Nat) : (s.setMsix f v x).link l' = s.link l' := rfl
@[simp] theorem State.setMsix_sq' (f v : Nat) (x : MsixEntry) (f' n' : Nat) : (s.setMsix f v x).sq f' n' = s.sq f' n' := rfl
@[simp] theorem State.setMsix_cq' (f v : Nat) (x : MsixEntry) (f' n' : Nat) : (s.setMsix f v x).cq f' n' = s.cq f' n' := rfl
@[simp] theorem State.setMsix_window' (f v : Nat) (x : MsixEntry) (k' n' : Nat) : (s.setMsix f v x).window k' n' = s.window k' n' := rfl
@[simp] theorem State.setMsix_slotAt' (f v : Nat) (x : MsixEntry) (i' : Nat) : (s.setMsix f v x).slotAt i' = s.slotAt i' := rfl
@[simp] theorem State.setMsix_useCtr' (f v : Nat) (x : MsixEntry) (i' : Nat) : (s.setMsix f v x).useCtr i' = s.useCtr i' := rfl
@[simp] theorem State.setMsix_bucket' (f v : Nat) (x : MsixEntry) (i' : Nat) : (s.setMsix f v x).bucket i' = s.bucket i' := rfl
@[simp] theorem State.setMsix_source' (f v : Nat) (x : MsixEntry) (i' : Nat) : (s.setMsix f v x).source i' = s.source i' := rfl
@[simp] theorem State.setMsix_drbg' (f v : Nat) (x : MsixEntry) (i' : Nat) : (s.setMsix f v x).drbg i' = s.drbg i' := rfl
@[simp] theorem State.setMsix_reg' (f v : Nat) (x : MsixEntry) (a' : Nat) : (s.setMsix f v x).reg a' = s.reg a' := rfl
@[simp] theorem State.setMsix_self (f v : Nat) (x : MsixEntry) : (s.setMsix f v x).msix f v = x := Map.get_set_self _ _ _ _

/-! ### setWindow -/

@[simp] theorem State.setWindow_pending (k n : Nat) (x : Window) : (s.setWindow k n x).pending = s.pending := rfl
@[simp] theorem State.setWindow_hostMem (k n : Nat) (x : Window) : (s.setWindow k n x).hostMem = s.hostMem := rfl
@[simp] theorem State.setWindow_sram (k n : Nat) (x : Window) : (s.setWindow k n x).sram = s.sram := rfl
@[simp] theorem State.setWindow_free (k n : Nat) (x : Window) : (s.setWindow k n x).free = s.free := rfl
@[simp] theorem State.setWindow_regs (k n : Nat) (x : Window) : (s.setWindow k n x).regs = s.regs := rfl
@[simp] theorem State.setWindow_hif (k n : Nat) (x : Window) : (s.setWindow k n x).hif = s.hif := rfl
@[simp] theorem State.setWindow_entries (k n : Nat) (x : Window) : (s.setWindow k n x).entries = s.entries := rfl
@[simp] theorem State.setWindow_flows (k n : Nat) (x : Window) : (s.setWindow k n x).flows = s.flows := rfl
@[simp] theorem State.setWindow_sched (k n : Nat) (x : Window) : (s.setWindow k n x).sched = s.sched := rfl
@[simp] theorem State.setWindow_cores (k n : Nat) (x : Window) : (s.setWindow k n x).cores = s.cores := rfl
@[simp] theorem State.setWindow_sys (k n : Nat) (x : Window) : (s.setWindow k n x).sys = s.sys := rfl
@[simp] theorem State.setWindow_uwc (k n : Nat) (x : Window) : (s.setWindow k n x).uwc = s.uwc := rfl
@[simp] theorem State.setWindow_uwcAge (k n : Nat) (x : Window) : (s.setWindow k n x).uwcAge = s.uwcAge := rfl
@[simp] theorem State.setWindow_barns (k n : Nat) (x : Window) : (s.setWindow k n x).barns = s.barns := rfl
@[simp] theorem State.setWindow_bes (k n : Nat) (x : Window) : (s.setWindow k n x).bes = s.bes := rfl
@[simp] theorem State.setWindow_beSlots (k n : Nat) (x : Window) : (s.setWindow k n x).beSlots = s.beSlots := rfl
@[simp] theorem State.setWindow_baes (k n : Nat) (x : Window) : (s.setWindow k n x).baes = s.baes := rfl
@[simp] theorem State.setWindow_bnes (k n : Nat) (x : Window) : (s.setWindow k n x).bnes = s.bnes := rfl
@[simp] theorem State.setWindow_grn (k n : Nat) (x : Window) : (s.setWindow k n x).grn = s.grn := rfl
@[simp] theorem State.setWindow_win (k n : Nat) (x : Window) : (s.setWindow k n x).win = s.win := rfl
@[simp] theorem State.setWindow_hbm (k n : Nat) (x : Window) : (s.setWindow k n x).hbm = s.hbm := rfl
@[simp] theorem State.setWindow_hbmKey (k n : Nat) (x : Window) : (s.setWindow k n x).hbmKey = s.hbmKey := rfl
@[simp] theorem State.setWindow_rowHist (k n : Nat) (x : Window) : (s.setWindow k n x).rowHist = s.rowHist := rfl
@[simp] theorem State.setWindow_parts (k n : Nat) (x : Window) : (s.setWindow k n x).parts = s.parts := rfl
@[simp] theorem State.setWindow_decTables (k n : Nat) (x : Window) : (s.setWindow k n x).decTables = s.decTables := rfl
@[simp] theorem State.setWindow_velPols (k n : Nat) (x : Window) : (s.setWindow k n x).velPols = s.velPols := rfl
@[simp] theorem State.setWindow_seen (k n : Nat) (x : Window) : (s.setWindow k n x).seen = s.seen := rfl
@[simp] theorem State.setWindow_yoke (k n : Nat) (x : Window) : (s.setWindow k n x).yoke = s.yoke := rfl
@[simp] theorem State.setWindow_ofc (k n : Nat) (x : Window) : (s.setWindow k n x).ofc = s.ofc := rfl
@[simp] theorem State.setWindow_scr (k n : Nat) (x : Window) : (s.setWindow k n x).scr = s.scr := rfl
@[simp] theorem State.setWindow_scrAux (k n : Nat) (x : Window) : (s.setWindow k n x).scrAux = s.scrAux := rfl
@[simp] theorem State.setWindow_lc (k n : Nat) (x : Window) : (s.setWindow k n x).lc = s.lc := rfl
@[simp] theorem State.setWindow_gates (k n : Nat) (x : Window) : (s.setWindow k n x).gates = s.gates := rfl
@[simp] theorem State.setWindow_tap (k n : Nat) (x : Window) : (s.setWindow k n x).tap = s.tap := rfl
@[simp] theorem State.setWindow_boot (k n : Nat) (x : Window) : (s.setWindow k n x).boot = s.boot := rfl
@[simp] theorem State.setWindow_spdm (k n : Nat) (x : Window) : (s.setWindow k n x).spdm = s.spdm := rfl
@[simp] theorem State.setWindow_tal (k n : Nat) (x : Window) : (s.setWindow k n x).tal = s.tal := rfl
@[simp] theorem State.setWindow_time (k n : Nat) (x : Window) : (s.setWindow k n x).time = s.time := rfl
@[simp] theorem State.setWindow_tmr (k n : Nat) (x : Window) : (s.setWindow k n x).tmr = s.tmr := rfl
@[simp] theorem State.setWindow_pwr (k n : Nat) (x : Window) : (s.setWindow k n x).pwr = s.pwr := rfl
@[simp] theorem State.setWindow_links (k n : Nat) (x : Window) : (s.setWindow k n x).links = s.links := rfl
@[simp] theorem State.setWindow_dev (k n : Nat) (x : Window) : (s.setWindow k n x).dev = s.dev := rfl
@[simp] theorem State.setWindow_pins (k n : Nat) (x : Window) : (s.setWindow k n x).pins = s.pins := rfl
@[simp] theorem State.setWindow_core' (k n : Nat) (x : Window) (c' : Nat) : (s.setWindow k n x).core c' = s.core c' := rfl
@[simp] theorem State.setWindow_entry' (k n : Nat) (x : Window) (e' : Nat) : (s.setWindow k n x).entry e' = s.entry e' := rfl
@[simp] theorem State.setWindow_sysCore' (k n : Nat) (x : Window) (k' : Nat) : (s.setWindow k n x).sysCore k' = s.sysCore k' := rfl
@[simp] theorem State.setWindow_part' (k n : Nat) (x : Window) (p' : Nat) : (s.setWindow k n x).part p' = s.part p' := rfl
@[simp] theorem State.setWindow_flow' (k n : Nat) (x : Window) (i' : Nat) : (s.setWindow k n x).flow i' = s.flow i' := rfl
@[simp] theorem State.setWindow_barn' (k n : Nat) (x : Window) (b' : Nat) : (s.setWindow k n x).barn b' = s.barn b' := rfl
@[simp] theorem State.setWindow_be' (k n : Nat) (x : Window) (e' : Nat) : (s.setWindow k n x).be e' = s.be e' := rfl
@[simp] theorem State.setWindow_beSlot' (k n : Nat) (x : Window) (i' : Nat) : (s.setWindow k n x).beSlot i' = s.beSlot i' := rfl
@[simp] theorem State.setWindow_bae' (k n : Nat) (x : Window) (b' : Nat) : (s.setWindow k n x).bae b' = s.bae b' := rfl
@[simp] theorem State.setWindow_bne' (k n : Nat) (x : Window) (n' : Nat) : (s.setWindow k n x).bne n' = s.bne n' := rfl
@[simp] theorem State.setWindow_stack' (k n : Nat) (x : Window) (d' : Nat) : (s.setWindow k n x).stack d' = s.stack d' := rfl
@[simp] theorem State.setWindow_gate' (k n : Nat) (x : Window) (a' : Nat) : (s.setWindow k n x).gate a' = s.gate a' := rfl
@[simp] theorem State.setWindow_link' (k n : Nat) (x : Window) (l' : Nat) : (s.setWindow k n x).link l' = s.link l' := rfl
@[simp] theorem State.setWindow_sq' (k n : Nat) (x : Window) (f' n' : Nat) : (s.setWindow k n x).sq f' n' = s.sq f' n' := rfl
@[simp] theorem State.setWindow_cq' (k n : Nat) (x : Window) (f' n' : Nat) : (s.setWindow k n x).cq f' n' = s.cq f' n' := rfl
@[simp] theorem State.setWindow_msix' (k n : Nat) (x : Window) (f' v' : Nat) : (s.setWindow k n x).msix f' v' = s.msix f' v' := rfl
@[simp] theorem State.setWindow_slotAt' (k n : Nat) (x : Window) (i' : Nat) : (s.setWindow k n x).slotAt i' = s.slotAt i' := rfl
@[simp] theorem State.setWindow_useCtr' (k n : Nat) (x : Window) (i' : Nat) : (s.setWindow k n x).useCtr i' = s.useCtr i' := rfl
@[simp] theorem State.setWindow_bucket' (k n : Nat) (x : Window) (i' : Nat) : (s.setWindow k n x).bucket i' = s.bucket i' := rfl
@[simp] theorem State.setWindow_source' (k n : Nat) (x : Window) (i' : Nat) : (s.setWindow k n x).source i' = s.source i' := rfl
@[simp] theorem State.setWindow_drbg' (k n : Nat) (x : Window) (i' : Nat) : (s.setWindow k n x).drbg i' = s.drbg i' := rfl
@[simp] theorem State.setWindow_reg' (k n : Nat) (x : Window) (a' : Nat) : (s.setWindow k n x).reg a' = s.reg a' := rfl
@[simp] theorem State.setWindow_self (k n : Nat) (x : Window) : (s.setWindow k n x).window k n = x := Map.get_set_self _ _ _ _

/-! ### setSlot -/

@[simp] theorem State.setSlot_pending (i : Nat) (x : Slot) : (s.setSlot i x).pending = s.pending := rfl
@[simp] theorem State.setSlot_hostMem (i : Nat) (x : Slot) : (s.setSlot i x).hostMem = s.hostMem := rfl
@[simp] theorem State.setSlot_sram (i : Nat) (x : Slot) : (s.setSlot i x).sram = s.sram := rfl
@[simp] theorem State.setSlot_free (i : Nat) (x : Slot) : (s.setSlot i x).free = s.free := rfl
@[simp] theorem State.setSlot_regs (i : Nat) (x : Slot) : (s.setSlot i x).regs = s.regs := rfl
@[simp] theorem State.setSlot_hif (i : Nat) (x : Slot) : (s.setSlot i x).hif = s.hif := rfl
@[simp] theorem State.setSlot_entries (i : Nat) (x : Slot) : (s.setSlot i x).entries = s.entries := rfl
@[simp] theorem State.setSlot_flows (i : Nat) (x : Slot) : (s.setSlot i x).flows = s.flows := rfl
@[simp] theorem State.setSlot_sched (i : Nat) (x : Slot) : (s.setSlot i x).sched = s.sched := rfl
@[simp] theorem State.setSlot_cores (i : Nat) (x : Slot) : (s.setSlot i x).cores = s.cores := rfl
@[simp] theorem State.setSlot_sys (i : Nat) (x : Slot) : (s.setSlot i x).sys = s.sys := rfl
@[simp] theorem State.setSlot_uwc (i : Nat) (x : Slot) : (s.setSlot i x).uwc = s.uwc := rfl
@[simp] theorem State.setSlot_uwcAge (i : Nat) (x : Slot) : (s.setSlot i x).uwcAge = s.uwcAge := rfl
@[simp] theorem State.setSlot_barns (i : Nat) (x : Slot) : (s.setSlot i x).barns = s.barns := rfl
@[simp] theorem State.setSlot_bes (i : Nat) (x : Slot) : (s.setSlot i x).bes = s.bes := rfl
@[simp] theorem State.setSlot_beSlots (i : Nat) (x : Slot) : (s.setSlot i x).beSlots = s.beSlots := rfl
@[simp] theorem State.setSlot_baes (i : Nat) (x : Slot) : (s.setSlot i x).baes = s.baes := rfl
@[simp] theorem State.setSlot_bnes (i : Nat) (x : Slot) : (s.setSlot i x).bnes = s.bnes := rfl
@[simp] theorem State.setSlot_win (i : Nat) (x : Slot) : (s.setSlot i x).win = s.win := rfl
@[simp] theorem State.setSlot_hbm (i : Nat) (x : Slot) : (s.setSlot i x).hbm = s.hbm := rfl
@[simp] theorem State.setSlot_hbmKey (i : Nat) (x : Slot) : (s.setSlot i x).hbmKey = s.hbmKey := rfl
@[simp] theorem State.setSlot_rowHist (i : Nat) (x : Slot) : (s.setSlot i x).rowHist = s.rowHist := rfl
@[simp] theorem State.setSlot_parts (i : Nat) (x : Slot) : (s.setSlot i x).parts = s.parts := rfl
@[simp] theorem State.setSlot_decTables (i : Nat) (x : Slot) : (s.setSlot i x).decTables = s.decTables := rfl
@[simp] theorem State.setSlot_velPols (i : Nat) (x : Slot) : (s.setSlot i x).velPols = s.velPols := rfl
@[simp] theorem State.setSlot_seen (i : Nat) (x : Slot) : (s.setSlot i x).seen = s.seen := rfl
@[simp] theorem State.setSlot_yoke (i : Nat) (x : Slot) : (s.setSlot i x).yoke = s.yoke := rfl
@[simp] theorem State.setSlot_ofc (i : Nat) (x : Slot) : (s.setSlot i x).ofc = s.ofc := rfl
@[simp] theorem State.setSlot_scr (i : Nat) (x : Slot) : (s.setSlot i x).scr = s.scr := rfl
@[simp] theorem State.setSlot_scrAux (i : Nat) (x : Slot) : (s.setSlot i x).scrAux = s.scrAux := rfl
@[simp] theorem State.setSlot_lc (i : Nat) (x : Slot) : (s.setSlot i x).lc = s.lc := rfl
@[simp] theorem State.setSlot_gates (i : Nat) (x : Slot) : (s.setSlot i x).gates = s.gates := rfl
@[simp] theorem State.setSlot_tap (i : Nat) (x : Slot) : (s.setSlot i x).tap = s.tap := rfl
@[simp] theorem State.setSlot_boot (i : Nat) (x : Slot) : (s.setSlot i x).boot = s.boot := rfl
@[simp] theorem State.setSlot_ldr (i : Nat) (x : Slot) : (s.setSlot i x).ldr = s.ldr := rfl
@[simp] theorem State.setSlot_spdm (i : Nat) (x : Slot) : (s.setSlot i x).spdm = s.spdm := rfl
@[simp] theorem State.setSlot_tal (i : Nat) (x : Slot) : (s.setSlot i x).tal = s.tal := rfl
@[simp] theorem State.setSlot_time (i : Nat) (x : Slot) : (s.setSlot i x).time = s.time := rfl
@[simp] theorem State.setSlot_tmr (i : Nat) (x : Slot) : (s.setSlot i x).tmr = s.tmr := rfl
@[simp] theorem State.setSlot_pwr (i : Nat) (x : Slot) : (s.setSlot i x).pwr = s.pwr := rfl
@[simp] theorem State.setSlot_links (i : Nat) (x : Slot) : (s.setSlot i x).links = s.links := rfl
@[simp] theorem State.setSlot_dev (i : Nat) (x : Slot) : (s.setSlot i x).dev = s.dev := rfl
@[simp] theorem State.setSlot_pins (i : Nat) (x : Slot) : (s.setSlot i x).pins = s.pins := rfl
@[simp] theorem State.setSlot_core' (i : Nat) (x : Slot) (c' : Nat) : (s.setSlot i x).core c' = s.core c' := rfl
@[simp] theorem State.setSlot_entry' (i : Nat) (x : Slot) (e' : Nat) : (s.setSlot i x).entry e' = s.entry e' := rfl
@[simp] theorem State.setSlot_sysCore' (i : Nat) (x : Slot) (k' : Nat) : (s.setSlot i x).sysCore k' = s.sysCore k' := rfl
@[simp] theorem State.setSlot_part' (i : Nat) (x : Slot) (p' : Nat) : (s.setSlot i x).part p' = s.part p' := rfl
@[simp] theorem State.setSlot_flow' (i : Nat) (x : Slot) (i' : Nat) : (s.setSlot i x).flow i' = s.flow i' := rfl
@[simp] theorem State.setSlot_barn' (i : Nat) (x : Slot) (b' : Nat) : (s.setSlot i x).barn b' = s.barn b' := rfl
@[simp] theorem State.setSlot_be' (i : Nat) (x : Slot) (e' : Nat) : (s.setSlot i x).be e' = s.be e' := rfl
@[simp] theorem State.setSlot_beSlot' (i : Nat) (x : Slot) (i' : Nat) : (s.setSlot i x).beSlot i' = s.beSlot i' := rfl
@[simp] theorem State.setSlot_bae' (i : Nat) (x : Slot) (b' : Nat) : (s.setSlot i x).bae b' = s.bae b' := rfl
@[simp] theorem State.setSlot_bne' (i : Nat) (x : Slot) (n' : Nat) : (s.setSlot i x).bne n' = s.bne n' := rfl
@[simp] theorem State.setSlot_stack' (i : Nat) (x : Slot) (d' : Nat) : (s.setSlot i x).stack d' = s.stack d' := rfl
@[simp] theorem State.setSlot_gate' (i : Nat) (x : Slot) (a' : Nat) : (s.setSlot i x).gate a' = s.gate a' := rfl
@[simp] theorem State.setSlot_link' (i : Nat) (x : Slot) (l' : Nat) : (s.setSlot i x).link l' = s.link l' := rfl
@[simp] theorem State.setSlot_sq' (i : Nat) (x : Slot) (f' n' : Nat) : (s.setSlot i x).sq f' n' = s.sq f' n' := rfl
@[simp] theorem State.setSlot_cq' (i : Nat) (x : Slot) (f' n' : Nat) : (s.setSlot i x).cq f' n' = s.cq f' n' := rfl
@[simp] theorem State.setSlot_msix' (i : Nat) (x : Slot) (f' v' : Nat) : (s.setSlot i x).msix f' v' = s.msix f' v' := rfl
@[simp] theorem State.setSlot_window' (i : Nat) (x : Slot) (k' n' : Nat) : (s.setSlot i x).window k' n' = s.window k' n' := rfl
@[simp] theorem State.setSlot_useCtr' (i : Nat) (x : Slot) (i' : Nat) : (s.setSlot i x).useCtr i' = s.useCtr i' := rfl
@[simp] theorem State.setSlot_bucket' (i : Nat) (x : Slot) (i' : Nat) : (s.setSlot i x).bucket i' = s.bucket i' := rfl
@[simp] theorem State.setSlot_source' (i : Nat) (x : Slot) (i' : Nat) : (s.setSlot i x).source i' = s.source i' := rfl
@[simp] theorem State.setSlot_drbg' (i : Nat) (x : Slot) (i' : Nat) : (s.setSlot i x).drbg i' = s.drbg i' := rfl
@[simp] theorem State.setSlot_reg' (i : Nat) (x : Slot) (a' : Nat) : (s.setSlot i x).reg a' = s.reg a' := rfl
@[simp] theorem State.setSlot_self (i : Nat) (x : Slot) : (s.setSlot i x).slotAt i = x := Map.get_set_self _ _ _ _
theorem State.setSlot_ne (i i' : Nat) (x : Slot) (h : i' ≠ i) : (s.setSlot i x).slotAt i' = s.slotAt i' := Map.get_set_ne _ _ _ _ _ h

/-! ### setUseCtr -/

@[simp] theorem State.setUseCtr_pending (i : Nat) (x : UseCtr) : (s.setUseCtr i x).pending = s.pending := rfl
@[simp] theorem State.setUseCtr_hostMem (i : Nat) (x : UseCtr) : (s.setUseCtr i x).hostMem = s.hostMem := rfl
@[simp] theorem State.setUseCtr_sram (i : Nat) (x : UseCtr) : (s.setUseCtr i x).sram = s.sram := rfl
@[simp] theorem State.setUseCtr_free (i : Nat) (x : UseCtr) : (s.setUseCtr i x).free = s.free := rfl
@[simp] theorem State.setUseCtr_regs (i : Nat) (x : UseCtr) : (s.setUseCtr i x).regs = s.regs := rfl
@[simp] theorem State.setUseCtr_hif (i : Nat) (x : UseCtr) : (s.setUseCtr i x).hif = s.hif := rfl
@[simp] theorem State.setUseCtr_entries (i : Nat) (x : UseCtr) : (s.setUseCtr i x).entries = s.entries := rfl
@[simp] theorem State.setUseCtr_flows (i : Nat) (x : UseCtr) : (s.setUseCtr i x).flows = s.flows := rfl
@[simp] theorem State.setUseCtr_sched (i : Nat) (x : UseCtr) : (s.setUseCtr i x).sched = s.sched := rfl
@[simp] theorem State.setUseCtr_cores (i : Nat) (x : UseCtr) : (s.setUseCtr i x).cores = s.cores := rfl
@[simp] theorem State.setUseCtr_sys (i : Nat) (x : UseCtr) : (s.setUseCtr i x).sys = s.sys := rfl
@[simp] theorem State.setUseCtr_uwc (i : Nat) (x : UseCtr) : (s.setUseCtr i x).uwc = s.uwc := rfl
@[simp] theorem State.setUseCtr_uwcAge (i : Nat) (x : UseCtr) : (s.setUseCtr i x).uwcAge = s.uwcAge := rfl
@[simp] theorem State.setUseCtr_barns (i : Nat) (x : UseCtr) : (s.setUseCtr i x).barns = s.barns := rfl
@[simp] theorem State.setUseCtr_bes (i : Nat) (x : UseCtr) : (s.setUseCtr i x).bes = s.bes := rfl
@[simp] theorem State.setUseCtr_beSlots (i : Nat) (x : UseCtr) : (s.setUseCtr i x).beSlots = s.beSlots := rfl
@[simp] theorem State.setUseCtr_baes (i : Nat) (x : UseCtr) : (s.setUseCtr i x).baes = s.baes := rfl
@[simp] theorem State.setUseCtr_bnes (i : Nat) (x : UseCtr) : (s.setUseCtr i x).bnes = s.bnes := rfl
@[simp] theorem State.setUseCtr_win (i : Nat) (x : UseCtr) : (s.setUseCtr i x).win = s.win := rfl
@[simp] theorem State.setUseCtr_hbm (i : Nat) (x : UseCtr) : (s.setUseCtr i x).hbm = s.hbm := rfl
@[simp] theorem State.setUseCtr_hbmKey (i : Nat) (x : UseCtr) : (s.setUseCtr i x).hbmKey = s.hbmKey := rfl
@[simp] theorem State.setUseCtr_rowHist (i : Nat) (x : UseCtr) : (s.setUseCtr i x).rowHist = s.rowHist := rfl
@[simp] theorem State.setUseCtr_parts (i : Nat) (x : UseCtr) : (s.setUseCtr i x).parts = s.parts := rfl
@[simp] theorem State.setUseCtr_decTables (i : Nat) (x : UseCtr) : (s.setUseCtr i x).decTables = s.decTables := rfl
@[simp] theorem State.setUseCtr_velPols (i : Nat) (x : UseCtr) : (s.setUseCtr i x).velPols = s.velPols := rfl
@[simp] theorem State.setUseCtr_seen (i : Nat) (x : UseCtr) : (s.setUseCtr i x).seen = s.seen := rfl
@[simp] theorem State.setUseCtr_yoke (i : Nat) (x : UseCtr) : (s.setUseCtr i x).yoke = s.yoke := rfl
@[simp] theorem State.setUseCtr_ofc (i : Nat) (x : UseCtr) : (s.setUseCtr i x).ofc = s.ofc := rfl
@[simp] theorem State.setUseCtr_scr (i : Nat) (x : UseCtr) : (s.setUseCtr i x).scr = s.scr := rfl
@[simp] theorem State.setUseCtr_scrAux (i : Nat) (x : UseCtr) : (s.setUseCtr i x).scrAux = s.scrAux := rfl
@[simp] theorem State.setUseCtr_lc (i : Nat) (x : UseCtr) : (s.setUseCtr i x).lc = s.lc := rfl
@[simp] theorem State.setUseCtr_gates (i : Nat) (x : UseCtr) : (s.setUseCtr i x).gates = s.gates := rfl
@[simp] theorem State.setUseCtr_tap (i : Nat) (x : UseCtr) : (s.setUseCtr i x).tap = s.tap := rfl
@[simp] theorem State.setUseCtr_boot (i : Nat) (x : UseCtr) : (s.setUseCtr i x).boot = s.boot := rfl
@[simp] theorem State.setUseCtr_ldr (i : Nat) (x : UseCtr) : (s.setUseCtr i x).ldr = s.ldr := rfl
@[simp] theorem State.setUseCtr_spdm (i : Nat) (x : UseCtr) : (s.setUseCtr i x).spdm = s.spdm := rfl
@[simp] theorem State.setUseCtr_tal (i : Nat) (x : UseCtr) : (s.setUseCtr i x).tal = s.tal := rfl
@[simp] theorem State.setUseCtr_time (i : Nat) (x : UseCtr) : (s.setUseCtr i x).time = s.time := rfl
@[simp] theorem State.setUseCtr_tmr (i : Nat) (x : UseCtr) : (s.setUseCtr i x).tmr = s.tmr := rfl
@[simp] theorem State.setUseCtr_pwr (i : Nat) (x : UseCtr) : (s.setUseCtr i x).pwr = s.pwr := rfl
@[simp] theorem State.setUseCtr_links (i : Nat) (x : UseCtr) : (s.setUseCtr i x).links = s.links := rfl
@[simp] theorem State.setUseCtr_dev (i : Nat) (x : UseCtr) : (s.setUseCtr i x).dev = s.dev := rfl
@[simp] theorem State.setUseCtr_pins (i : Nat) (x : UseCtr) : (s.setUseCtr i x).pins = s.pins := rfl
@[simp] theorem State.setUseCtr_core' (i : Nat) (x : UseCtr) (c' : Nat) : (s.setUseCtr i x).core c' = s.core c' := rfl
@[simp] theorem State.setUseCtr_entry' (i : Nat) (x : UseCtr) (e' : Nat) : (s.setUseCtr i x).entry e' = s.entry e' := rfl
@[simp] theorem State.setUseCtr_sysCore' (i : Nat) (x : UseCtr) (k' : Nat) : (s.setUseCtr i x).sysCore k' = s.sysCore k' := rfl
@[simp] theorem State.setUseCtr_part' (i : Nat) (x : UseCtr) (p' : Nat) : (s.setUseCtr i x).part p' = s.part p' := rfl
@[simp] theorem State.setUseCtr_flow' (i : Nat) (x : UseCtr) (i' : Nat) : (s.setUseCtr i x).flow i' = s.flow i' := rfl
@[simp] theorem State.setUseCtr_barn' (i : Nat) (x : UseCtr) (b' : Nat) : (s.setUseCtr i x).barn b' = s.barn b' := rfl
@[simp] theorem State.setUseCtr_be' (i : Nat) (x : UseCtr) (e' : Nat) : (s.setUseCtr i x).be e' = s.be e' := rfl
@[simp] theorem State.setUseCtr_beSlot' (i : Nat) (x : UseCtr) (i' : Nat) : (s.setUseCtr i x).beSlot i' = s.beSlot i' := rfl
@[simp] theorem State.setUseCtr_bae' (i : Nat) (x : UseCtr) (b' : Nat) : (s.setUseCtr i x).bae b' = s.bae b' := rfl
@[simp] theorem State.setUseCtr_bne' (i : Nat) (x : UseCtr) (n' : Nat) : (s.setUseCtr i x).bne n' = s.bne n' := rfl
@[simp] theorem State.setUseCtr_stack' (i : Nat) (x : UseCtr) (d' : Nat) : (s.setUseCtr i x).stack d' = s.stack d' := rfl
@[simp] theorem State.setUseCtr_gate' (i : Nat) (x : UseCtr) (a' : Nat) : (s.setUseCtr i x).gate a' = s.gate a' := rfl
@[simp] theorem State.setUseCtr_link' (i : Nat) (x : UseCtr) (l' : Nat) : (s.setUseCtr i x).link l' = s.link l' := rfl
@[simp] theorem State.setUseCtr_sq' (i : Nat) (x : UseCtr) (f' n' : Nat) : (s.setUseCtr i x).sq f' n' = s.sq f' n' := rfl
@[simp] theorem State.setUseCtr_cq' (i : Nat) (x : UseCtr) (f' n' : Nat) : (s.setUseCtr i x).cq f' n' = s.cq f' n' := rfl
@[simp] theorem State.setUseCtr_msix' (i : Nat) (x : UseCtr) (f' v' : Nat) : (s.setUseCtr i x).msix f' v' = s.msix f' v' := rfl
@[simp] theorem State.setUseCtr_window' (i : Nat) (x : UseCtr) (k' n' : Nat) : (s.setUseCtr i x).window k' n' = s.window k' n' := rfl
@[simp] theorem State.setUseCtr_slotAt' (i : Nat) (x : UseCtr) (i' : Nat) : (s.setUseCtr i x).slotAt i' = s.slotAt i' := rfl
@[simp] theorem State.setUseCtr_bucket' (i : Nat) (x : UseCtr) (i' : Nat) : (s.setUseCtr i x).bucket i' = s.bucket i' := rfl
@[simp] theorem State.setUseCtr_source' (i : Nat) (x : UseCtr) (i' : Nat) : (s.setUseCtr i x).source i' = s.source i' := rfl
@[simp] theorem State.setUseCtr_drbg' (i : Nat) (x : UseCtr) (i' : Nat) : (s.setUseCtr i x).drbg i' = s.drbg i' := rfl
@[simp] theorem State.setUseCtr_reg' (i : Nat) (x : UseCtr) (a' : Nat) : (s.setUseCtr i x).reg a' = s.reg a' := rfl
@[simp] theorem State.setUseCtr_self (i : Nat) (x : UseCtr) : (s.setUseCtr i x).useCtr i = x := Map.get_set_self _ _ _ _
theorem State.setUseCtr_ne (i i' : Nat) (x : UseCtr) (h : i' ≠ i) : (s.setUseCtr i x).useCtr i' = s.useCtr i' := Map.get_set_ne _ _ _ _ _ h

/-! ### setBucket -/

@[simp] theorem State.setBucket_pending (i : Nat) (x : Bucket) : (s.setBucket i x).pending = s.pending := rfl
@[simp] theorem State.setBucket_hostMem (i : Nat) (x : Bucket) : (s.setBucket i x).hostMem = s.hostMem := rfl
@[simp] theorem State.setBucket_sram (i : Nat) (x : Bucket) : (s.setBucket i x).sram = s.sram := rfl
@[simp] theorem State.setBucket_free (i : Nat) (x : Bucket) : (s.setBucket i x).free = s.free := rfl
@[simp] theorem State.setBucket_regs (i : Nat) (x : Bucket) : (s.setBucket i x).regs = s.regs := rfl
@[simp] theorem State.setBucket_hif (i : Nat) (x : Bucket) : (s.setBucket i x).hif = s.hif := rfl
@[simp] theorem State.setBucket_entries (i : Nat) (x : Bucket) : (s.setBucket i x).entries = s.entries := rfl
@[simp] theorem State.setBucket_flows (i : Nat) (x : Bucket) : (s.setBucket i x).flows = s.flows := rfl
@[simp] theorem State.setBucket_sched (i : Nat) (x : Bucket) : (s.setBucket i x).sched = s.sched := rfl
@[simp] theorem State.setBucket_cores (i : Nat) (x : Bucket) : (s.setBucket i x).cores = s.cores := rfl
@[simp] theorem State.setBucket_sys (i : Nat) (x : Bucket) : (s.setBucket i x).sys = s.sys := rfl
@[simp] theorem State.setBucket_uwc (i : Nat) (x : Bucket) : (s.setBucket i x).uwc = s.uwc := rfl
@[simp] theorem State.setBucket_uwcAge (i : Nat) (x : Bucket) : (s.setBucket i x).uwcAge = s.uwcAge := rfl
@[simp] theorem State.setBucket_barns (i : Nat) (x : Bucket) : (s.setBucket i x).barns = s.barns := rfl
@[simp] theorem State.setBucket_bes (i : Nat) (x : Bucket) : (s.setBucket i x).bes = s.bes := rfl
@[simp] theorem State.setBucket_beSlots (i : Nat) (x : Bucket) : (s.setBucket i x).beSlots = s.beSlots := rfl
@[simp] theorem State.setBucket_baes (i : Nat) (x : Bucket) : (s.setBucket i x).baes = s.baes := rfl
@[simp] theorem State.setBucket_bnes (i : Nat) (x : Bucket) : (s.setBucket i x).bnes = s.bnes := rfl
@[simp] theorem State.setBucket_win (i : Nat) (x : Bucket) : (s.setBucket i x).win = s.win := rfl
@[simp] theorem State.setBucket_hbm (i : Nat) (x : Bucket) : (s.setBucket i x).hbm = s.hbm := rfl
@[simp] theorem State.setBucket_hbmKey (i : Nat) (x : Bucket) : (s.setBucket i x).hbmKey = s.hbmKey := rfl
@[simp] theorem State.setBucket_rowHist (i : Nat) (x : Bucket) : (s.setBucket i x).rowHist = s.rowHist := rfl
@[simp] theorem State.setBucket_parts (i : Nat) (x : Bucket) : (s.setBucket i x).parts = s.parts := rfl
@[simp] theorem State.setBucket_decTables (i : Nat) (x : Bucket) : (s.setBucket i x).decTables = s.decTables := rfl
@[simp] theorem State.setBucket_velPols (i : Nat) (x : Bucket) : (s.setBucket i x).velPols = s.velPols := rfl
@[simp] theorem State.setBucket_seen (i : Nat) (x : Bucket) : (s.setBucket i x).seen = s.seen := rfl
@[simp] theorem State.setBucket_yoke (i : Nat) (x : Bucket) : (s.setBucket i x).yoke = s.yoke := rfl
@[simp] theorem State.setBucket_ofc (i : Nat) (x : Bucket) : (s.setBucket i x).ofc = s.ofc := rfl
@[simp] theorem State.setBucket_scr (i : Nat) (x : Bucket) : (s.setBucket i x).scr = s.scr := rfl
@[simp] theorem State.setBucket_scrAux (i : Nat) (x : Bucket) : (s.setBucket i x).scrAux = s.scrAux := rfl
@[simp] theorem State.setBucket_lc (i : Nat) (x : Bucket) : (s.setBucket i x).lc = s.lc := rfl
@[simp] theorem State.setBucket_gates (i : Nat) (x : Bucket) : (s.setBucket i x).gates = s.gates := rfl
@[simp] theorem State.setBucket_tap (i : Nat) (x : Bucket) : (s.setBucket i x).tap = s.tap := rfl
@[simp] theorem State.setBucket_boot (i : Nat) (x : Bucket) : (s.setBucket i x).boot = s.boot := rfl
@[simp] theorem State.setBucket_ldr (i : Nat) (x : Bucket) : (s.setBucket i x).ldr = s.ldr := rfl
@[simp] theorem State.setBucket_spdm (i : Nat) (x : Bucket) : (s.setBucket i x).spdm = s.spdm := rfl
@[simp] theorem State.setBucket_tal (i : Nat) (x : Bucket) : (s.setBucket i x).tal = s.tal := rfl
@[simp] theorem State.setBucket_time (i : Nat) (x : Bucket) : (s.setBucket i x).time = s.time := rfl
@[simp] theorem State.setBucket_tmr (i : Nat) (x : Bucket) : (s.setBucket i x).tmr = s.tmr := rfl
@[simp] theorem State.setBucket_pwr (i : Nat) (x : Bucket) : (s.setBucket i x).pwr = s.pwr := rfl
@[simp] theorem State.setBucket_links (i : Nat) (x : Bucket) : (s.setBucket i x).links = s.links := rfl
@[simp] theorem State.setBucket_dev (i : Nat) (x : Bucket) : (s.setBucket i x).dev = s.dev := rfl
@[simp] theorem State.setBucket_pins (i : Nat) (x : Bucket) : (s.setBucket i x).pins = s.pins := rfl
@[simp] theorem State.setBucket_core' (i : Nat) (x : Bucket) (c' : Nat) : (s.setBucket i x).core c' = s.core c' := rfl
@[simp] theorem State.setBucket_entry' (i : Nat) (x : Bucket) (e' : Nat) : (s.setBucket i x).entry e' = s.entry e' := rfl
@[simp] theorem State.setBucket_sysCore' (i : Nat) (x : Bucket) (k' : Nat) : (s.setBucket i x).sysCore k' = s.sysCore k' := rfl
@[simp] theorem State.setBucket_part' (i : Nat) (x : Bucket) (p' : Nat) : (s.setBucket i x).part p' = s.part p' := rfl
@[simp] theorem State.setBucket_flow' (i : Nat) (x : Bucket) (i' : Nat) : (s.setBucket i x).flow i' = s.flow i' := rfl
@[simp] theorem State.setBucket_barn' (i : Nat) (x : Bucket) (b' : Nat) : (s.setBucket i x).barn b' = s.barn b' := rfl
@[simp] theorem State.setBucket_be' (i : Nat) (x : Bucket) (e' : Nat) : (s.setBucket i x).be e' = s.be e' := rfl
@[simp] theorem State.setBucket_beSlot' (i : Nat) (x : Bucket) (i' : Nat) : (s.setBucket i x).beSlot i' = s.beSlot i' := rfl
@[simp] theorem State.setBucket_bae' (i : Nat) (x : Bucket) (b' : Nat) : (s.setBucket i x).bae b' = s.bae b' := rfl
@[simp] theorem State.setBucket_bne' (i : Nat) (x : Bucket) (n' : Nat) : (s.setBucket i x).bne n' = s.bne n' := rfl
@[simp] theorem State.setBucket_stack' (i : Nat) (x : Bucket) (d' : Nat) : (s.setBucket i x).stack d' = s.stack d' := rfl
@[simp] theorem State.setBucket_gate' (i : Nat) (x : Bucket) (a' : Nat) : (s.setBucket i x).gate a' = s.gate a' := rfl
@[simp] theorem State.setBucket_link' (i : Nat) (x : Bucket) (l' : Nat) : (s.setBucket i x).link l' = s.link l' := rfl
@[simp] theorem State.setBucket_sq' (i : Nat) (x : Bucket) (f' n' : Nat) : (s.setBucket i x).sq f' n' = s.sq f' n' := rfl
@[simp] theorem State.setBucket_cq' (i : Nat) (x : Bucket) (f' n' : Nat) : (s.setBucket i x).cq f' n' = s.cq f' n' := rfl
@[simp] theorem State.setBucket_msix' (i : Nat) (x : Bucket) (f' v' : Nat) : (s.setBucket i x).msix f' v' = s.msix f' v' := rfl
@[simp] theorem State.setBucket_window' (i : Nat) (x : Bucket) (k' n' : Nat) : (s.setBucket i x).window k' n' = s.window k' n' := rfl
@[simp] theorem State.setBucket_slotAt' (i : Nat) (x : Bucket) (i' : Nat) : (s.setBucket i x).slotAt i' = s.slotAt i' := rfl
@[simp] theorem State.setBucket_useCtr' (i : Nat) (x : Bucket) (i' : Nat) : (s.setBucket i x).useCtr i' = s.useCtr i' := rfl
@[simp] theorem State.setBucket_source' (i : Nat) (x : Bucket) (i' : Nat) : (s.setBucket i x).source i' = s.source i' := rfl
@[simp] theorem State.setBucket_drbg' (i : Nat) (x : Bucket) (i' : Nat) : (s.setBucket i x).drbg i' = s.drbg i' := rfl
@[simp] theorem State.setBucket_reg' (i : Nat) (x : Bucket) (a' : Nat) : (s.setBucket i x).reg a' = s.reg a' := rfl
@[simp] theorem State.setBucket_self (i : Nat) (x : Bucket) : (s.setBucket i x).bucket i = x := Map.get_set_self _ _ _ _
theorem State.setBucket_ne (i i' : Nat) (x : Bucket) (h : i' ≠ i) : (s.setBucket i x).bucket i' = s.bucket i' := Map.get_set_ne _ _ _ _ _ h

/-! ### setSource -/

@[simp] theorem State.setSource_pending (i : Nat) (x : Source) : (s.setSource i x).pending = s.pending := rfl
@[simp] theorem State.setSource_hostMem (i : Nat) (x : Source) : (s.setSource i x).hostMem = s.hostMem := rfl
@[simp] theorem State.setSource_sram (i : Nat) (x : Source) : (s.setSource i x).sram = s.sram := rfl
@[simp] theorem State.setSource_free (i : Nat) (x : Source) : (s.setSource i x).free = s.free := rfl
@[simp] theorem State.setSource_regs (i : Nat) (x : Source) : (s.setSource i x).regs = s.regs := rfl
@[simp] theorem State.setSource_hif (i : Nat) (x : Source) : (s.setSource i x).hif = s.hif := rfl
@[simp] theorem State.setSource_entries (i : Nat) (x : Source) : (s.setSource i x).entries = s.entries := rfl
@[simp] theorem State.setSource_flows (i : Nat) (x : Source) : (s.setSource i x).flows = s.flows := rfl
@[simp] theorem State.setSource_sched (i : Nat) (x : Source) : (s.setSource i x).sched = s.sched := rfl
@[simp] theorem State.setSource_cores (i : Nat) (x : Source) : (s.setSource i x).cores = s.cores := rfl
@[simp] theorem State.setSource_sys (i : Nat) (x : Source) : (s.setSource i x).sys = s.sys := rfl
@[simp] theorem State.setSource_uwc (i : Nat) (x : Source) : (s.setSource i x).uwc = s.uwc := rfl
@[simp] theorem State.setSource_uwcAge (i : Nat) (x : Source) : (s.setSource i x).uwcAge = s.uwcAge := rfl
@[simp] theorem State.setSource_barns (i : Nat) (x : Source) : (s.setSource i x).barns = s.barns := rfl
@[simp] theorem State.setSource_bes (i : Nat) (x : Source) : (s.setSource i x).bes = s.bes := rfl
@[simp] theorem State.setSource_beSlots (i : Nat) (x : Source) : (s.setSource i x).beSlots = s.beSlots := rfl
@[simp] theorem State.setSource_baes (i : Nat) (x : Source) : (s.setSource i x).baes = s.baes := rfl
@[simp] theorem State.setSource_bnes (i : Nat) (x : Source) : (s.setSource i x).bnes = s.bnes := rfl
@[simp] theorem State.setSource_grn (i : Nat) (x : Source) : (s.setSource i x).grn = s.grn := rfl
@[simp] theorem State.setSource_hbm (i : Nat) (x : Source) : (s.setSource i x).hbm = s.hbm := rfl
@[simp] theorem State.setSource_hbmKey (i : Nat) (x : Source) : (s.setSource i x).hbmKey = s.hbmKey := rfl
@[simp] theorem State.setSource_rowHist (i : Nat) (x : Source) : (s.setSource i x).rowHist = s.rowHist := rfl
@[simp] theorem State.setSource_parts (i : Nat) (x : Source) : (s.setSource i x).parts = s.parts := rfl
@[simp] theorem State.setSource_decTables (i : Nat) (x : Source) : (s.setSource i x).decTables = s.decTables := rfl
@[simp] theorem State.setSource_velPols (i : Nat) (x : Source) : (s.setSource i x).velPols = s.velPols := rfl
@[simp] theorem State.setSource_seen (i : Nat) (x : Source) : (s.setSource i x).seen = s.seen := rfl
@[simp] theorem State.setSource_yoke (i : Nat) (x : Source) : (s.setSource i x).yoke = s.yoke := rfl
@[simp] theorem State.setSource_ofc (i : Nat) (x : Source) : (s.setSource i x).ofc = s.ofc := rfl
@[simp] theorem State.setSource_scr (i : Nat) (x : Source) : (s.setSource i x).scr = s.scr := rfl
@[simp] theorem State.setSource_scrAux (i : Nat) (x : Source) : (s.setSource i x).scrAux = s.scrAux := rfl
@[simp] theorem State.setSource_lc (i : Nat) (x : Source) : (s.setSource i x).lc = s.lc := rfl
@[simp] theorem State.setSource_gates (i : Nat) (x : Source) : (s.setSource i x).gates = s.gates := rfl
@[simp] theorem State.setSource_tap (i : Nat) (x : Source) : (s.setSource i x).tap = s.tap := rfl
@[simp] theorem State.setSource_boot (i : Nat) (x : Source) : (s.setSource i x).boot = s.boot := rfl
@[simp] theorem State.setSource_ldr (i : Nat) (x : Source) : (s.setSource i x).ldr = s.ldr := rfl
@[simp] theorem State.setSource_spdm (i : Nat) (x : Source) : (s.setSource i x).spdm = s.spdm := rfl
@[simp] theorem State.setSource_tal (i : Nat) (x : Source) : (s.setSource i x).tal = s.tal := rfl
@[simp] theorem State.setSource_time (i : Nat) (x : Source) : (s.setSource i x).time = s.time := rfl
@[simp] theorem State.setSource_tmr (i : Nat) (x : Source) : (s.setSource i x).tmr = s.tmr := rfl
@[simp] theorem State.setSource_pwr (i : Nat) (x : Source) : (s.setSource i x).pwr = s.pwr := rfl
@[simp] theorem State.setSource_links (i : Nat) (x : Source) : (s.setSource i x).links = s.links := rfl
@[simp] theorem State.setSource_dev (i : Nat) (x : Source) : (s.setSource i x).dev = s.dev := rfl
@[simp] theorem State.setSource_pins (i : Nat) (x : Source) : (s.setSource i x).pins = s.pins := rfl
@[simp] theorem State.setSource_core' (i : Nat) (x : Source) (c' : Nat) : (s.setSource i x).core c' = s.core c' := rfl
@[simp] theorem State.setSource_entry' (i : Nat) (x : Source) (e' : Nat) : (s.setSource i x).entry e' = s.entry e' := rfl
@[simp] theorem State.setSource_sysCore' (i : Nat) (x : Source) (k' : Nat) : (s.setSource i x).sysCore k' = s.sysCore k' := rfl
@[simp] theorem State.setSource_part' (i : Nat) (x : Source) (p' : Nat) : (s.setSource i x).part p' = s.part p' := rfl
@[simp] theorem State.setSource_flow' (i : Nat) (x : Source) (i' : Nat) : (s.setSource i x).flow i' = s.flow i' := rfl
@[simp] theorem State.setSource_barn' (i : Nat) (x : Source) (b' : Nat) : (s.setSource i x).barn b' = s.barn b' := rfl
@[simp] theorem State.setSource_be' (i : Nat) (x : Source) (e' : Nat) : (s.setSource i x).be e' = s.be e' := rfl
@[simp] theorem State.setSource_beSlot' (i : Nat) (x : Source) (i' : Nat) : (s.setSource i x).beSlot i' = s.beSlot i' := rfl
@[simp] theorem State.setSource_bae' (i : Nat) (x : Source) (b' : Nat) : (s.setSource i x).bae b' = s.bae b' := rfl
@[simp] theorem State.setSource_bne' (i : Nat) (x : Source) (n' : Nat) : (s.setSource i x).bne n' = s.bne n' := rfl
@[simp] theorem State.setSource_stack' (i : Nat) (x : Source) (d' : Nat) : (s.setSource i x).stack d' = s.stack d' := rfl
@[simp] theorem State.setSource_gate' (i : Nat) (x : Source) (a' : Nat) : (s.setSource i x).gate a' = s.gate a' := rfl
@[simp] theorem State.setSource_link' (i : Nat) (x : Source) (l' : Nat) : (s.setSource i x).link l' = s.link l' := rfl
@[simp] theorem State.setSource_sq' (i : Nat) (x : Source) (f' n' : Nat) : (s.setSource i x).sq f' n' = s.sq f' n' := rfl
@[simp] theorem State.setSource_cq' (i : Nat) (x : Source) (f' n' : Nat) : (s.setSource i x).cq f' n' = s.cq f' n' := rfl
@[simp] theorem State.setSource_msix' (i : Nat) (x : Source) (f' v' : Nat) : (s.setSource i x).msix f' v' = s.msix f' v' := rfl
@[simp] theorem State.setSource_window' (i : Nat) (x : Source) (k' n' : Nat) : (s.setSource i x).window k' n' = s.window k' n' := rfl
@[simp] theorem State.setSource_slotAt' (i : Nat) (x : Source) (i' : Nat) : (s.setSource i x).slotAt i' = s.slotAt i' := rfl
@[simp] theorem State.setSource_useCtr' (i : Nat) (x : Source) (i' : Nat) : (s.setSource i x).useCtr i' = s.useCtr i' := rfl
@[simp] theorem State.setSource_bucket' (i : Nat) (x : Source) (i' : Nat) : (s.setSource i x).bucket i' = s.bucket i' := rfl
@[simp] theorem State.setSource_drbg' (i : Nat) (x : Source) (i' : Nat) : (s.setSource i x).drbg i' = s.drbg i' := rfl
@[simp] theorem State.setSource_reg' (i : Nat) (x : Source) (a' : Nat) : (s.setSource i x).reg a' = s.reg a' := rfl
@[simp] theorem State.setSource_self (i : Nat) (x : Source) : (s.setSource i x).source i = x := Map.get_set_self _ _ _ _
theorem State.setSource_ne (i i' : Nat) (x : Source) (h : i' ≠ i) : (s.setSource i x).source i' = s.source i' := Map.get_set_ne _ _ _ _ _ h

/-! ### setDrbg -/

@[simp] theorem State.setDrbg_pending (i : Nat) (x : Drbg) : (s.setDrbg i x).pending = s.pending := rfl
@[simp] theorem State.setDrbg_hostMem (i : Nat) (x : Drbg) : (s.setDrbg i x).hostMem = s.hostMem := rfl
@[simp] theorem State.setDrbg_sram (i : Nat) (x : Drbg) : (s.setDrbg i x).sram = s.sram := rfl
@[simp] theorem State.setDrbg_free (i : Nat) (x : Drbg) : (s.setDrbg i x).free = s.free := rfl
@[simp] theorem State.setDrbg_regs (i : Nat) (x : Drbg) : (s.setDrbg i x).regs = s.regs := rfl
@[simp] theorem State.setDrbg_hif (i : Nat) (x : Drbg) : (s.setDrbg i x).hif = s.hif := rfl
@[simp] theorem State.setDrbg_entries (i : Nat) (x : Drbg) : (s.setDrbg i x).entries = s.entries := rfl
@[simp] theorem State.setDrbg_flows (i : Nat) (x : Drbg) : (s.setDrbg i x).flows = s.flows := rfl
@[simp] theorem State.setDrbg_sched (i : Nat) (x : Drbg) : (s.setDrbg i x).sched = s.sched := rfl
@[simp] theorem State.setDrbg_cores (i : Nat) (x : Drbg) : (s.setDrbg i x).cores = s.cores := rfl
@[simp] theorem State.setDrbg_sys (i : Nat) (x : Drbg) : (s.setDrbg i x).sys = s.sys := rfl
@[simp] theorem State.setDrbg_uwc (i : Nat) (x : Drbg) : (s.setDrbg i x).uwc = s.uwc := rfl
@[simp] theorem State.setDrbg_uwcAge (i : Nat) (x : Drbg) : (s.setDrbg i x).uwcAge = s.uwcAge := rfl
@[simp] theorem State.setDrbg_barns (i : Nat) (x : Drbg) : (s.setDrbg i x).barns = s.barns := rfl
@[simp] theorem State.setDrbg_bes (i : Nat) (x : Drbg) : (s.setDrbg i x).bes = s.bes := rfl
@[simp] theorem State.setDrbg_beSlots (i : Nat) (x : Drbg) : (s.setDrbg i x).beSlots = s.beSlots := rfl
@[simp] theorem State.setDrbg_baes (i : Nat) (x : Drbg) : (s.setDrbg i x).baes = s.baes := rfl
@[simp] theorem State.setDrbg_bnes (i : Nat) (x : Drbg) : (s.setDrbg i x).bnes = s.bnes := rfl
@[simp] theorem State.setDrbg_grn (i : Nat) (x : Drbg) : (s.setDrbg i x).grn = s.grn := rfl
@[simp] theorem State.setDrbg_hbm (i : Nat) (x : Drbg) : (s.setDrbg i x).hbm = s.hbm := rfl
@[simp] theorem State.setDrbg_hbmKey (i : Nat) (x : Drbg) : (s.setDrbg i x).hbmKey = s.hbmKey := rfl
@[simp] theorem State.setDrbg_rowHist (i : Nat) (x : Drbg) : (s.setDrbg i x).rowHist = s.rowHist := rfl
@[simp] theorem State.setDrbg_parts (i : Nat) (x : Drbg) : (s.setDrbg i x).parts = s.parts := rfl
@[simp] theorem State.setDrbg_decTables (i : Nat) (x : Drbg) : (s.setDrbg i x).decTables = s.decTables := rfl
@[simp] theorem State.setDrbg_velPols (i : Nat) (x : Drbg) : (s.setDrbg i x).velPols = s.velPols := rfl
@[simp] theorem State.setDrbg_seen (i : Nat) (x : Drbg) : (s.setDrbg i x).seen = s.seen := rfl
@[simp] theorem State.setDrbg_yoke (i : Nat) (x : Drbg) : (s.setDrbg i x).yoke = s.yoke := rfl
@[simp] theorem State.setDrbg_ofc (i : Nat) (x : Drbg) : (s.setDrbg i x).ofc = s.ofc := rfl
@[simp] theorem State.setDrbg_scr (i : Nat) (x : Drbg) : (s.setDrbg i x).scr = s.scr := rfl
@[simp] theorem State.setDrbg_scrAux (i : Nat) (x : Drbg) : (s.setDrbg i x).scrAux = s.scrAux := rfl
@[simp] theorem State.setDrbg_lc (i : Nat) (x : Drbg) : (s.setDrbg i x).lc = s.lc := rfl
@[simp] theorem State.setDrbg_gates (i : Nat) (x : Drbg) : (s.setDrbg i x).gates = s.gates := rfl
@[simp] theorem State.setDrbg_tap (i : Nat) (x : Drbg) : (s.setDrbg i x).tap = s.tap := rfl
@[simp] theorem State.setDrbg_boot (i : Nat) (x : Drbg) : (s.setDrbg i x).boot = s.boot := rfl
@[simp] theorem State.setDrbg_ldr (i : Nat) (x : Drbg) : (s.setDrbg i x).ldr = s.ldr := rfl
@[simp] theorem State.setDrbg_spdm (i : Nat) (x : Drbg) : (s.setDrbg i x).spdm = s.spdm := rfl
@[simp] theorem State.setDrbg_tal (i : Nat) (x : Drbg) : (s.setDrbg i x).tal = s.tal := rfl
@[simp] theorem State.setDrbg_time (i : Nat) (x : Drbg) : (s.setDrbg i x).time = s.time := rfl
@[simp] theorem State.setDrbg_tmr (i : Nat) (x : Drbg) : (s.setDrbg i x).tmr = s.tmr := rfl
@[simp] theorem State.setDrbg_pwr (i : Nat) (x : Drbg) : (s.setDrbg i x).pwr = s.pwr := rfl
@[simp] theorem State.setDrbg_links (i : Nat) (x : Drbg) : (s.setDrbg i x).links = s.links := rfl
@[simp] theorem State.setDrbg_dev (i : Nat) (x : Drbg) : (s.setDrbg i x).dev = s.dev := rfl
@[simp] theorem State.setDrbg_pins (i : Nat) (x : Drbg) : (s.setDrbg i x).pins = s.pins := rfl
@[simp] theorem State.setDrbg_core' (i : Nat) (x : Drbg) (c' : Nat) : (s.setDrbg i x).core c' = s.core c' := rfl
@[simp] theorem State.setDrbg_entry' (i : Nat) (x : Drbg) (e' : Nat) : (s.setDrbg i x).entry e' = s.entry e' := rfl
@[simp] theorem State.setDrbg_sysCore' (i : Nat) (x : Drbg) (k' : Nat) : (s.setDrbg i x).sysCore k' = s.sysCore k' := rfl
@[simp] theorem State.setDrbg_part' (i : Nat) (x : Drbg) (p' : Nat) : (s.setDrbg i x).part p' = s.part p' := rfl
@[simp] theorem State.setDrbg_flow' (i : Nat) (x : Drbg) (i' : Nat) : (s.setDrbg i x).flow i' = s.flow i' := rfl
@[simp] theorem State.setDrbg_barn' (i : Nat) (x : Drbg) (b' : Nat) : (s.setDrbg i x).barn b' = s.barn b' := rfl
@[simp] theorem State.setDrbg_be' (i : Nat) (x : Drbg) (e' : Nat) : (s.setDrbg i x).be e' = s.be e' := rfl
@[simp] theorem State.setDrbg_beSlot' (i : Nat) (x : Drbg) (i' : Nat) : (s.setDrbg i x).beSlot i' = s.beSlot i' := rfl
@[simp] theorem State.setDrbg_bae' (i : Nat) (x : Drbg) (b' : Nat) : (s.setDrbg i x).bae b' = s.bae b' := rfl
@[simp] theorem State.setDrbg_bne' (i : Nat) (x : Drbg) (n' : Nat) : (s.setDrbg i x).bne n' = s.bne n' := rfl
@[simp] theorem State.setDrbg_stack' (i : Nat) (x : Drbg) (d' : Nat) : (s.setDrbg i x).stack d' = s.stack d' := rfl
@[simp] theorem State.setDrbg_gate' (i : Nat) (x : Drbg) (a' : Nat) : (s.setDrbg i x).gate a' = s.gate a' := rfl
@[simp] theorem State.setDrbg_link' (i : Nat) (x : Drbg) (l' : Nat) : (s.setDrbg i x).link l' = s.link l' := rfl
@[simp] theorem State.setDrbg_sq' (i : Nat) (x : Drbg) (f' n' : Nat) : (s.setDrbg i x).sq f' n' = s.sq f' n' := rfl
@[simp] theorem State.setDrbg_cq' (i : Nat) (x : Drbg) (f' n' : Nat) : (s.setDrbg i x).cq f' n' = s.cq f' n' := rfl
@[simp] theorem State.setDrbg_msix' (i : Nat) (x : Drbg) (f' v' : Nat) : (s.setDrbg i x).msix f' v' = s.msix f' v' := rfl
@[simp] theorem State.setDrbg_window' (i : Nat) (x : Drbg) (k' n' : Nat) : (s.setDrbg i x).window k' n' = s.window k' n' := rfl
@[simp] theorem State.setDrbg_slotAt' (i : Nat) (x : Drbg) (i' : Nat) : (s.setDrbg i x).slotAt i' = s.slotAt i' := rfl
@[simp] theorem State.setDrbg_useCtr' (i : Nat) (x : Drbg) (i' : Nat) : (s.setDrbg i x).useCtr i' = s.useCtr i' := rfl
@[simp] theorem State.setDrbg_bucket' (i : Nat) (x : Drbg) (i' : Nat) : (s.setDrbg i x).bucket i' = s.bucket i' := rfl
@[simp] theorem State.setDrbg_source' (i : Nat) (x : Drbg) (i' : Nat) : (s.setDrbg i x).source i' = s.source i' := rfl
@[simp] theorem State.setDrbg_reg' (i : Nat) (x : Drbg) (a' : Nat) : (s.setDrbg i x).reg a' = s.reg a' := rfl
@[simp] theorem State.setDrbg_self (i : Nat) (x : Drbg) : (s.setDrbg i x).drbg i = x := Map.get_set_self _ _ _ _
theorem State.setDrbg_ne (i i' : Nat) (x : Drbg) (h : i' ≠ i) : (s.setDrbg i x).drbg i' = s.drbg i' := Map.get_set_ne _ _ _ _ _ h

/-! ### setReg -/

@[simp] theorem State.setReg_pending (a : Nat) (x : Word) : (s.setReg a x).pending = s.pending := rfl
@[simp] theorem State.setReg_hostMem (a : Nat) (x : Word) : (s.setReg a x).hostMem = s.hostMem := rfl
@[simp] theorem State.setReg_sram (a : Nat) (x : Word) : (s.setReg a x).sram = s.sram := rfl
@[simp] theorem State.setReg_free (a : Nat) (x : Word) : (s.setReg a x).free = s.free := rfl
@[simp] theorem State.setReg_hif (a : Nat) (x : Word) : (s.setReg a x).hif = s.hif := rfl
@[simp] theorem State.setReg_entries (a : Nat) (x : Word) : (s.setReg a x).entries = s.entries := rfl
@[simp] theorem State.setReg_flows (a : Nat) (x : Word) : (s.setReg a x).flows = s.flows := rfl
@[simp] theorem State.setReg_sched (a : Nat) (x : Word) : (s.setReg a x).sched = s.sched := rfl
@[simp] theorem State.setReg_cores (a : Nat) (x : Word) : (s.setReg a x).cores = s.cores := rfl
@[simp] theorem State.setReg_sys (a : Nat) (x : Word) : (s.setReg a x).sys = s.sys := rfl
@[simp] theorem State.setReg_uwc (a : Nat) (x : Word) : (s.setReg a x).uwc = s.uwc := rfl
@[simp] theorem State.setReg_uwcAge (a : Nat) (x : Word) : (s.setReg a x).uwcAge = s.uwcAge := rfl
@[simp] theorem State.setReg_barns (a : Nat) (x : Word) : (s.setReg a x).barns = s.barns := rfl
@[simp] theorem State.setReg_bes (a : Nat) (x : Word) : (s.setReg a x).bes = s.bes := rfl
@[simp] theorem State.setReg_beSlots (a : Nat) (x : Word) : (s.setReg a x).beSlots = s.beSlots := rfl
@[simp] theorem State.setReg_baes (a : Nat) (x : Word) : (s.setReg a x).baes = s.baes := rfl
@[simp] theorem State.setReg_bnes (a : Nat) (x : Word) : (s.setReg a x).bnes = s.bnes := rfl
@[simp] theorem State.setReg_grn (a : Nat) (x : Word) : (s.setReg a x).grn = s.grn := rfl
@[simp] theorem State.setReg_win (a : Nat) (x : Word) : (s.setReg a x).win = s.win := rfl
@[simp] theorem State.setReg_hbm (a : Nat) (x : Word) : (s.setReg a x).hbm = s.hbm := rfl
@[simp] theorem State.setReg_hbmKey (a : Nat) (x : Word) : (s.setReg a x).hbmKey = s.hbmKey := rfl
@[simp] theorem State.setReg_rowHist (a : Nat) (x : Word) : (s.setReg a x).rowHist = s.rowHist := rfl
@[simp] theorem State.setReg_parts (a : Nat) (x : Word) : (s.setReg a x).parts = s.parts := rfl
@[simp] theorem State.setReg_decTables (a : Nat) (x : Word) : (s.setReg a x).decTables = s.decTables := rfl
@[simp] theorem State.setReg_velPols (a : Nat) (x : Word) : (s.setReg a x).velPols = s.velPols := rfl
@[simp] theorem State.setReg_seen (a : Nat) (x : Word) : (s.setReg a x).seen = s.seen := rfl
@[simp] theorem State.setReg_yoke (a : Nat) (x : Word) : (s.setReg a x).yoke = s.yoke := rfl
@[simp] theorem State.setReg_ofc (a : Nat) (x : Word) : (s.setReg a x).ofc = s.ofc := rfl
@[simp] theorem State.setReg_scr (a : Nat) (x : Word) : (s.setReg a x).scr = s.scr := rfl
@[simp] theorem State.setReg_scrAux (a : Nat) (x : Word) : (s.setReg a x).scrAux = s.scrAux := rfl
@[simp] theorem State.setReg_lc (a : Nat) (x : Word) : (s.setReg a x).lc = s.lc := rfl
@[simp] theorem State.setReg_gates (a : Nat) (x : Word) : (s.setReg a x).gates = s.gates := rfl
@[simp] theorem State.setReg_tap (a : Nat) (x : Word) : (s.setReg a x).tap = s.tap := rfl
@[simp] theorem State.setReg_boot (a : Nat) (x : Word) : (s.setReg a x).boot = s.boot := rfl
@[simp] theorem State.setReg_ldr (a : Nat) (x : Word) : (s.setReg a x).ldr = s.ldr := rfl
@[simp] theorem State.setReg_spdm (a : Nat) (x : Word) : (s.setReg a x).spdm = s.spdm := rfl
@[simp] theorem State.setReg_tal (a : Nat) (x : Word) : (s.setReg a x).tal = s.tal := rfl
@[simp] theorem State.setReg_time (a : Nat) (x : Word) : (s.setReg a x).time = s.time := rfl
@[simp] theorem State.setReg_tmr (a : Nat) (x : Word) : (s.setReg a x).tmr = s.tmr := rfl
@[simp] theorem State.setReg_pwr (a : Nat) (x : Word) : (s.setReg a x).pwr = s.pwr := rfl
@[simp] theorem State.setReg_links (a : Nat) (x : Word) : (s.setReg a x).links = s.links := rfl
@[simp] theorem State.setReg_dev (a : Nat) (x : Word) : (s.setReg a x).dev = s.dev := rfl
@[simp] theorem State.setReg_pins (a : Nat) (x : Word) : (s.setReg a x).pins = s.pins := rfl
@[simp] theorem State.setReg_core' (a : Nat) (x : Word) (c' : Nat) : (s.setReg a x).core c' = s.core c' := rfl
@[simp] theorem State.setReg_entry' (a : Nat) (x : Word) (e' : Nat) : (s.setReg a x).entry e' = s.entry e' := rfl
@[simp] theorem State.setReg_sysCore' (a : Nat) (x : Word) (k' : Nat) : (s.setReg a x).sysCore k' = s.sysCore k' := rfl
@[simp] theorem State.setReg_part' (a : Nat) (x : Word) (p' : Nat) : (s.setReg a x).part p' = s.part p' := rfl
@[simp] theorem State.setReg_flow' (a : Nat) (x : Word) (i' : Nat) : (s.setReg a x).flow i' = s.flow i' := rfl
@[simp] theorem State.setReg_barn' (a : Nat) (x : Word) (b' : Nat) : (s.setReg a x).barn b' = s.barn b' := rfl
@[simp] theorem State.setReg_be' (a : Nat) (x : Word) (e' : Nat) : (s.setReg a x).be e' = s.be e' := rfl
@[simp] theorem State.setReg_beSlot' (a : Nat) (x : Word) (i' : Nat) : (s.setReg a x).beSlot i' = s.beSlot i' := rfl
@[simp] theorem State.setReg_bae' (a : Nat) (x : Word) (b' : Nat) : (s.setReg a x).bae b' = s.bae b' := rfl
@[simp] theorem State.setReg_bne' (a : Nat) (x : Word) (n' : Nat) : (s.setReg a x).bne n' = s.bne n' := rfl
@[simp] theorem State.setReg_stack' (a : Nat) (x : Word) (d' : Nat) : (s.setReg a x).stack d' = s.stack d' := rfl
@[simp] theorem State.setReg_gate' (a : Nat) (x : Word) (a' : Nat) : (s.setReg a x).gate a' = s.gate a' := rfl
@[simp] theorem State.setReg_link' (a : Nat) (x : Word) (l' : Nat) : (s.setReg a x).link l' = s.link l' := rfl
@[simp] theorem State.setReg_sq' (a : Nat) (x : Word) (f' n' : Nat) : (s.setReg a x).sq f' n' = s.sq f' n' := rfl
@[simp] theorem State.setReg_cq' (a : Nat) (x : Word) (f' n' : Nat) : (s.setReg a x).cq f' n' = s.cq f' n' := rfl
@[simp] theorem State.setReg_msix' (a : Nat) (x : Word) (f' v' : Nat) : (s.setReg a x).msix f' v' = s.msix f' v' := rfl
@[simp] theorem State.setReg_window' (a : Nat) (x : Word) (k' n' : Nat) : (s.setReg a x).window k' n' = s.window k' n' := rfl
@[simp] theorem State.setReg_slotAt' (a : Nat) (x : Word) (i' : Nat) : (s.setReg a x).slotAt i' = s.slotAt i' := rfl
@[simp] theorem State.setReg_useCtr' (a : Nat) (x : Word) (i' : Nat) : (s.setReg a x).useCtr i' = s.useCtr i' := rfl
@[simp] theorem State.setReg_bucket' (a : Nat) (x : Word) (i' : Nat) : (s.setReg a x).bucket i' = s.bucket i' := rfl
@[simp] theorem State.setReg_source' (a : Nat) (x : Word) (i' : Nat) : (s.setReg a x).source i' = s.source i' := rfl
@[simp] theorem State.setReg_drbg' (a : Nat) (x : Word) (i' : Nat) : (s.setReg a x).drbg i' = s.drbg i' := rfl
@[simp] theorem State.setReg_self (a : Nat) (x : Word) : (s.setReg a x).reg a = x := by simp [State.setReg, State.reg]
theorem State.setReg_ne (a a' : Nat) (x : Word) (h : a' ≠ a) : (s.setReg a x).reg a' = s.reg a' := by
  simp [State.setReg, State.reg, Map.get_set_ne _ _ _ _ _ h]

/-! ### draw and drive -/

@[simp] theorem State.draw_pending (w : Nat) : (s.draw w).2.pending = s.pending := rfl
@[simp] theorem State.drive_pending : s.drive.pending = s.pending := rfl
@[simp] theorem State.draw_hostMem (w : Nat) : (s.draw w).2.hostMem = s.hostMem := rfl
@[simp] theorem State.drive_hostMem : s.drive.hostMem = s.hostMem := rfl
@[simp] theorem State.draw_sram (w : Nat) : (s.draw w).2.sram = s.sram := rfl
@[simp] theorem State.drive_sram : s.drive.sram = s.sram := rfl
@[simp] theorem State.drive_free : s.drive.free = s.free := rfl
@[simp] theorem State.draw_regs (w : Nat) : (s.draw w).2.regs = s.regs := rfl
@[simp] theorem State.drive_regs : s.drive.regs = s.regs := rfl
@[simp] theorem State.draw_hif (w : Nat) : (s.draw w).2.hif = s.hif := rfl
@[simp] theorem State.drive_hif : s.drive.hif = s.hif := rfl
@[simp] theorem State.draw_entries (w : Nat) : (s.draw w).2.entries = s.entries := rfl
@[simp] theorem State.drive_entries : s.drive.entries = s.entries := rfl
@[simp] theorem State.draw_flows (w : Nat) : (s.draw w).2.flows = s.flows := rfl
@[simp] theorem State.drive_flows : s.drive.flows = s.flows := rfl
@[simp] theorem State.draw_sched (w : Nat) : (s.draw w).2.sched = s.sched := rfl
@[simp] theorem State.drive_sched : s.drive.sched = s.sched := rfl
@[simp] theorem State.draw_cores (w : Nat) : (s.draw w).2.cores = s.cores := rfl
@[simp] theorem State.drive_cores : s.drive.cores = s.cores := rfl
@[simp] theorem State.draw_sys (w : Nat) : (s.draw w).2.sys = s.sys := rfl
@[simp] theorem State.drive_sys : s.drive.sys = s.sys := rfl
@[simp] theorem State.draw_uwc (w : Nat) : (s.draw w).2.uwc = s.uwc := rfl
@[simp] theorem State.drive_uwc : s.drive.uwc = s.uwc := rfl
@[simp] theorem State.draw_uwcAge (w : Nat) : (s.draw w).2.uwcAge = s.uwcAge := rfl
@[simp] theorem State.drive_uwcAge : s.drive.uwcAge = s.uwcAge := rfl
@[simp] theorem State.draw_barns (w : Nat) : (s.draw w).2.barns = s.barns := rfl
@[simp] theorem State.drive_barns : s.drive.barns = s.barns := rfl
@[simp] theorem State.draw_bes (w : Nat) : (s.draw w).2.bes = s.bes := rfl
@[simp] theorem State.drive_bes : s.drive.bes = s.bes := rfl
@[simp] theorem State.draw_beSlots (w : Nat) : (s.draw w).2.beSlots = s.beSlots := rfl
@[simp] theorem State.drive_beSlots : s.drive.beSlots = s.beSlots := rfl
@[simp] theorem State.draw_baes (w : Nat) : (s.draw w).2.baes = s.baes := rfl
@[simp] theorem State.drive_baes : s.drive.baes = s.baes := rfl
@[simp] theorem State.draw_bnes (w : Nat) : (s.draw w).2.bnes = s.bnes := rfl
@[simp] theorem State.drive_bnes : s.drive.bnes = s.bnes := rfl
@[simp] theorem State.draw_grn (w : Nat) : (s.draw w).2.grn = s.grn := rfl
@[simp] theorem State.drive_grn : s.drive.grn = s.grn := rfl
@[simp] theorem State.draw_win (w : Nat) : (s.draw w).2.win = s.win := rfl
@[simp] theorem State.drive_win : s.drive.win = s.win := rfl
@[simp] theorem State.draw_hbm (w : Nat) : (s.draw w).2.hbm = s.hbm := rfl
@[simp] theorem State.drive_hbm : s.drive.hbm = s.hbm := rfl
@[simp] theorem State.draw_hbmKey (w : Nat) : (s.draw w).2.hbmKey = s.hbmKey := rfl
@[simp] theorem State.drive_hbmKey : s.drive.hbmKey = s.hbmKey := rfl
@[simp] theorem State.draw_rowHist (w : Nat) : (s.draw w).2.rowHist = s.rowHist := rfl
@[simp] theorem State.drive_rowHist : s.drive.rowHist = s.rowHist := rfl
@[simp] theorem State.draw_parts (w : Nat) : (s.draw w).2.parts = s.parts := rfl
@[simp] theorem State.drive_parts : s.drive.parts = s.parts := rfl
@[simp] theorem State.draw_decTables (w : Nat) : (s.draw w).2.decTables = s.decTables := rfl
@[simp] theorem State.drive_decTables : s.drive.decTables = s.decTables := rfl
@[simp] theorem State.draw_velPols (w : Nat) : (s.draw w).2.velPols = s.velPols := rfl
@[simp] theorem State.drive_velPols : s.drive.velPols = s.velPols := rfl
@[simp] theorem State.draw_seen (w : Nat) : (s.draw w).2.seen = s.seen := rfl
@[simp] theorem State.drive_seen : s.drive.seen = s.seen := rfl
@[simp] theorem State.draw_yoke (w : Nat) : (s.draw w).2.yoke = s.yoke := rfl
@[simp] theorem State.drive_yoke : s.drive.yoke = s.yoke := rfl
@[simp] theorem State.draw_ofc (w : Nat) : (s.draw w).2.ofc = s.ofc := rfl
@[simp] theorem State.drive_ofc : s.drive.ofc = s.ofc := rfl
@[simp] theorem State.draw_scr (w : Nat) : (s.draw w).2.scr = s.scr := rfl
@[simp] theorem State.drive_scr : s.drive.scr = s.scr := rfl
@[simp] theorem State.draw_scrAux (w : Nat) : (s.draw w).2.scrAux = s.scrAux := rfl
@[simp] theorem State.drive_scrAux : s.drive.scrAux = s.scrAux := rfl
@[simp] theorem State.draw_lc (w : Nat) : (s.draw w).2.lc = s.lc := rfl
@[simp] theorem State.drive_lc : s.drive.lc = s.lc := rfl
@[simp] theorem State.draw_gates (w : Nat) : (s.draw w).2.gates = s.gates := rfl
@[simp] theorem State.drive_gates : s.drive.gates = s.gates := rfl
@[simp] theorem State.draw_tap (w : Nat) : (s.draw w).2.tap = s.tap := rfl
@[simp] theorem State.drive_tap : s.drive.tap = s.tap := rfl
@[simp] theorem State.draw_boot (w : Nat) : (s.draw w).2.boot = s.boot := rfl
@[simp] theorem State.drive_boot : s.drive.boot = s.boot := rfl
@[simp] theorem State.draw_ldr (w : Nat) : (s.draw w).2.ldr = s.ldr := rfl
@[simp] theorem State.drive_ldr : s.drive.ldr = s.ldr := rfl
@[simp] theorem State.draw_spdm (w : Nat) : (s.draw w).2.spdm = s.spdm := rfl
@[simp] theorem State.drive_spdm : s.drive.spdm = s.spdm := rfl
@[simp] theorem State.draw_tal (w : Nat) : (s.draw w).2.tal = s.tal := rfl
@[simp] theorem State.drive_tal : s.drive.tal = s.tal := rfl
@[simp] theorem State.draw_time (w : Nat) : (s.draw w).2.time = s.time := rfl
@[simp] theorem State.drive_time : s.drive.time = s.time := rfl
@[simp] theorem State.draw_tmr (w : Nat) : (s.draw w).2.tmr = s.tmr := rfl
@[simp] theorem State.drive_tmr : s.drive.tmr = s.tmr := rfl
@[simp] theorem State.draw_pwr (w : Nat) : (s.draw w).2.pwr = s.pwr := rfl
@[simp] theorem State.drive_pwr : s.drive.pwr = s.pwr := rfl
@[simp] theorem State.draw_links (w : Nat) : (s.draw w).2.links = s.links := rfl
@[simp] theorem State.drive_links : s.drive.links = s.links := rfl
@[simp] theorem State.draw_dev (w : Nat) : (s.draw w).2.dev = s.dev := rfl
@[simp] theorem State.drive_dev : s.drive.dev = s.dev := rfl
@[simp] theorem State.draw_pins (w : Nat) : (s.draw w).2.pins = s.pins := rfl
@[simp] theorem State.draw_core' (w : Nat) (c : Nat) : (s.draw w).2.core c = s.core c := rfl
@[simp] theorem State.drive_core' (c : Nat) : s.drive.core c = s.core c := rfl
@[simp] theorem State.draw_entry' (w : Nat) (e : Nat) : (s.draw w).2.entry e = s.entry e := rfl
@[simp] theorem State.drive_entry' (e : Nat) : s.drive.entry e = s.entry e := rfl
@[simp] theorem State.draw_sysCore' (w : Nat) (k : Nat) : (s.draw w).2.sysCore k = s.sysCore k := rfl
@[simp] theorem State.drive_sysCore' (k : Nat) : s.drive.sysCore k = s.sysCore k := rfl
@[simp] theorem State.draw_part' (w : Nat) (p : Nat) : (s.draw w).2.part p = s.part p := rfl
@[simp] theorem State.drive_part' (p : Nat) : s.drive.part p = s.part p := rfl
@[simp] theorem State.draw_flow' (w : Nat) (i : Nat) : (s.draw w).2.flow i = s.flow i := rfl
@[simp] theorem State.drive_flow' (i : Nat) : s.drive.flow i = s.flow i := rfl
@[simp] theorem State.draw_barn' (w : Nat) (b : Nat) : (s.draw w).2.barn b = s.barn b := rfl
@[simp] theorem State.drive_barn' (b : Nat) : s.drive.barn b = s.barn b := rfl
@[simp] theorem State.draw_be' (w : Nat) (e : Nat) : (s.draw w).2.be e = s.be e := rfl
@[simp] theorem State.drive_be' (e : Nat) : s.drive.be e = s.be e := rfl
@[simp] theorem State.draw_beSlot' (w : Nat) (i : Nat) : (s.draw w).2.beSlot i = s.beSlot i := rfl
@[simp] theorem State.drive_beSlot' (i : Nat) : s.drive.beSlot i = s.beSlot i := rfl
@[simp] theorem State.draw_bae' (w : Nat) (b : Nat) : (s.draw w).2.bae b = s.bae b := rfl
@[simp] theorem State.drive_bae' (b : Nat) : s.drive.bae b = s.bae b := rfl
@[simp] theorem State.draw_bne' (w : Nat) (n : Nat) : (s.draw w).2.bne n = s.bne n := rfl
@[simp] theorem State.drive_bne' (n : Nat) : s.drive.bne n = s.bne n := rfl
@[simp] theorem State.draw_stack' (w : Nat) (d : Nat) : (s.draw w).2.stack d = s.stack d := rfl
@[simp] theorem State.drive_stack' (d : Nat) : s.drive.stack d = s.stack d := rfl
@[simp] theorem State.draw_gate' (w : Nat) (a : Nat) : (s.draw w).2.gate a = s.gate a := rfl
@[simp] theorem State.drive_gate' (a : Nat) : s.drive.gate a = s.gate a := rfl
@[simp] theorem State.draw_link' (w : Nat) (l : Nat) : (s.draw w).2.link l = s.link l := rfl
@[simp] theorem State.drive_link' (l : Nat) : s.drive.link l = s.link l := rfl
@[simp] theorem State.draw_sq' (w : Nat) (f n : Nat) : (s.draw w).2.sq f n = s.sq f n := rfl
@[simp] theorem State.drive_sq' (f n : Nat) : s.drive.sq f n = s.sq f n := rfl
@[simp] theorem State.draw_cq' (w : Nat) (f n : Nat) : (s.draw w).2.cq f n = s.cq f n := rfl
@[simp] theorem State.drive_cq' (f n : Nat) : s.drive.cq f n = s.cq f n := rfl
@[simp] theorem State.draw_msix' (w : Nat) (f v : Nat) : (s.draw w).2.msix f v = s.msix f v := rfl
@[simp] theorem State.drive_msix' (f v : Nat) : s.drive.msix f v = s.msix f v := rfl
@[simp] theorem State.draw_window' (w : Nat) (k n : Nat) : (s.draw w).2.window k n = s.window k n := rfl
@[simp] theorem State.drive_window' (k n : Nat) : s.drive.window k n = s.window k n := rfl
@[simp] theorem State.draw_slotAt' (w : Nat) (i : Nat) : (s.draw w).2.slotAt i = s.slotAt i := rfl
@[simp] theorem State.drive_slotAt' (i : Nat) : s.drive.slotAt i = s.slotAt i := rfl
@[simp] theorem State.draw_useCtr' (w : Nat) (i : Nat) : (s.draw w).2.useCtr i = s.useCtr i := rfl
@[simp] theorem State.drive_useCtr' (i : Nat) : s.drive.useCtr i = s.useCtr i := rfl
@[simp] theorem State.draw_bucket' (w : Nat) (i : Nat) : (s.draw w).2.bucket i = s.bucket i := rfl
@[simp] theorem State.drive_bucket' (i : Nat) : s.drive.bucket i = s.bucket i := rfl
@[simp] theorem State.draw_source' (w : Nat) (i : Nat) : (s.draw w).2.source i = s.source i := rfl
@[simp] theorem State.drive_source' (i : Nat) : s.drive.source i = s.source i := rfl
@[simp] theorem State.draw_drbg' (w : Nat) (i : Nat) : (s.draw w).2.drbg i = s.drbg i := rfl
@[simp] theorem State.drive_drbg' (i : Nat) : s.drive.drbg i = s.drbg i := rfl
@[simp] theorem State.draw_reg' (w : Nat) (a : Nat) : (s.draw w).2.reg a = s.reg a := rfl
@[simp] theorem State.drive_reg' (a : Nat) : s.drive.reg a = s.reg a := rfl
@[simp] theorem State.draw_free (w : Nat) : (s.draw w).2.free = s.free + 1 := rfl
@[simp] theorem State.drive_pins : s.drive.pins = pinLevels s := rfl

end Sys2Proof.Machine
end

