-- ==== Sys2Proof/Laws/Knatrix.lean ====
section
/-! SUPPORT. What issuing an instruction does: one lemma for `issue`, and one for each shape of instruction built on it. -/

set_option linter.unusedVariables false

namespace Sys2Proof.Machine

open Sys2Proof Sys2Proof.Bits

theorem Core.applyPend_same (x : Core) (p : PendWrite) :
    x.applyPend p =
      { x with acc := (x.applyPend p).acc, mlo := (x.applyPend p).mlo, mhi := (x.applyPend p).mhi, ovf := (x.applyPend p).ovf } := by
  cases h : p.target <;> simp [Core.applyPend, h]

theorem Core.foldPend_same (ps : List PendWrite) (x : Core) :
    ps.foldl Core.applyPend x =
      { x with
        acc := (ps.foldl Core.applyPend x).acc
        mlo := (ps.foldl Core.applyPend x).mlo
        mhi := (ps.foldl Core.applyPend x).mhi
        ovf := (ps.foldl Core.applyPend x).ovf } := by
  induction ps generalizing x with
  | nil => rfl
  | cons p r ih =>
    have h := ih (x.applyPend p)
    rw [List.foldl_cons, h, Core.applyPend_same x p]

/-- The multiplier passing touches MHI:MLO, the accumulators, OVF and the pending writes, and nothing else of a core. -/
theorem Core.age_same (x : Core) (n : Nat) :
    x.age n =
      { x with
        acc := (x.age n).acc
        mlo := (x.age n).mlo
        mhi := (x.age n).mhi
        ovf := (x.age n).ovf
        ovfNow := (x.age n).ovfNow
        pend := (x.age n).pend } := by
  unfold Core.age
  simp only
  rw [Core.foldPend_same]

theorem Core.age_pc (x : Core) (n : Nat) : (x.age n).pc = x.pc := by rw [Core.age_same]
theorem Core.age_w (x : Core) (n : Nat) : (x.age n).w = x.w := by rw [Core.age_same]
theorem Core.age_s (x : Core) (n : Nat) : (x.age n).s = x.s := by rw [Core.age_same]
theorem Core.age_entry (x : Core) (n : Nat) : (x.age n).entry = x.entry := by rw [Core.age_same]
theorem Core.age_started (x : Core) (n : Nat) : (x.age n).started = x.started := by rw [Core.age_same]
theorem Core.age_slots (x : Core) (n : Nat) : (x.age n).slots = x.slots := by rw [Core.age_same]

/-- What the instruction finds differs from the core before only in the multiplier's registers and the start of the watchdog. -/
theorem Found.same {s : State} {c : CoreId} {x : Core} (h : Found s c x) :
    x =
      { s.core c.num with
        acc := x.acc
        mlo := x.mlo
        mhi := x.mhi
        ovf := x.ovf
        ovfNow := x.ovfNow
        pend := x.pend
        started := x.started
        slots := x.slots } := by
  obtain ⟨n, -, -, -, rfl⟩ := h
  rw [Core.age_same]

theorem codeEnd_congr {s t : State} {c : CoreId} (h : (t.core c.num).entry = (s.core c.num).entry) (he : t.entries = s.entries)
    (hl : t.ldr = s.ldr) : codeEnd t c = codeEnd s c := by
  have hw : ∀ k n fn, runWindow t k n fn = runWindow s k n fn := by
    intro k n fn
    unfold runWindow State.window
    rw [hl]
  cases c with
  | wardenA => rfl
  | wardenB => rfl
  | scarecrow => rfl
  | tu m =>
    have h' : (t.core m.val).entry = (s.core m.val).entry := h
    unfold codeEnd ctxWindow State.entry
    dsimp only
    rw [h', he, hw]

theorem flipOf_congr {s t : State} (h : t.dev = s.dev) (k : ArrayCell) : flipOf t k = flipOf s k := by
  unfold flipOf
  rw [h]

/-- A unit whose parity holds reads as it is, and nothing changes. -/
theorem readUnit_good {s t : State} {k : ArrayCell} (h : t.dev = s.dev) (hg : (readUnit s k).1 = .good) : readUnit t k = (.good, t) := by
  unfold readUnit at hg ⊢
  rw [h, flipOf_congr h]
  split
  · rfl
  · next hf =>
    rw [if_neg hf] at hg
    split at hg
    · rfl
    · cases hg
    · cases hg

theorem codeRead_good {s t : State} {c : CoreId} {x y : Core} (hd : t.dev = s.dev) (he : t.entries = s.entries) (hy : y.entry = x.entry)
    (hp : y.pc = x.pc) (hg : (codeRead s c x).1 = .good) : codeRead t c y = (.good, t) := by
  cases c with
  | tu n =>
    unfold codeRead State.entry at hg ⊢
    dsimp only at hg ⊢
    rw [he, hy, hp]
    exact readUnit_good hd hg
  | wardenA => rfl
  | wardenB => rfl
  | scarecrow => rfl

/-- An issuing core hands its instruction the state u, which differs only in the core, and the core x. -/
theorem issue_runs {s : State} {c : CoreId} (h : Issues s c) :
    ∃ u x, Found s c x ∧ OnlyCore s u c ∧ u.pins = s.pins ∧ u.core c.num = x ∧ ∀ k, issue s c k = k u x := by
  obtain ⟨hp, hw, hc, hg⟩ := h
  have hi : canIssue (s.core c.num) = true := by simp [canIssue, hp, hw]
  have hwk : wake s c (s.core c.num) = s.core c.num := by simp [wake, hw]
  have key : ∀ (f n : Nat), 1 ≤ n → n ≤ 4 → (c.isTu = false → n = 1) →
      ∃ u x, Found s c x ∧ OnlyCore s u c ∧ u.pins = s.pins ∧ u.core c.num = x ∧ ∀ k : State → Core → State,
        (let x := (s.core c.num).age n
         let x := if c.isTu && x.started.isNone then { x with started := some s.tmr.now } else x
         let x := if c.warden.isSome then { x with slots := x.slots + 1 } else x
         let t := ({ s with free := f } : State).setCore c.num x
         if codeEnd t c ≤ x.pc then kxFault t c .fetch
         else
           match codeRead t c x with
           | (.bad, t) => kxFault t c .fetch
           | (_, t) => k t x) = k u x := by
    intro f n h1 h4 hn
    let x : Core := { (s.core c.num).age n with
      started := if c.isTu && (s.core c.num).started.isNone then some s.tmr.now else (s.core c.num).started
      slots := if c.warden.isSome then (s.core c.num).slots + 1 else (s.core c.num).slots }
    have hx : (let y := if c.isTu && ((s.core c.num).age n).started.isNone then { (s.core c.num).age n with started := some s.tmr.now }
        else (s.core c.num).age n
        if c.warden.isSome then { y with slots := y.slots + 1 } else y) = x := by
      simp only [x, Core.age_started]
      rw [Core.age_same]
      split <;> split <;> rfl
    refine ⟨({ s with free := f } : State).setCore c.num x, x, ⟨n, h1, h4, hn, rfl⟩, ⟨rfl, ?_⟩, rfl, State.setCore_self _ _ _, ?_⟩
    · intro k hk; exact State.setCore_ne _ _ _ _ hk
    · intro k
      dsimp only at hx ⊢
      rw [hx]
      have he : codeEnd (({ s with free := f } : State).setCore c.num x) c = codeEnd s c := by
        apply codeEnd_congr
        · rw [State.setCore_self]; exact Core.age_entry _ _
        · rfl
        · rfl
      have hpc : x.pc = (s.core c.num).pc := Core.age_pc _ _
      have hr : codeRead (({ s with free := f } : State).setCore c.num x) c x =
          (.good, ({ s with free := f } : State).setCore c.num x) :=
        codeRead_good (s := s) (x := s.core c.num) rfl rfl (Core.age_entry _ _) hpc hg
      rw [he, hpc, if_neg (by omega), hr]
  unfold issue
  simp only [hwk, hi, Bool.not_true, Bool.false_eq_true, if_false]
  split
  · next hd =>
    simp only [Bool.and_eq_true] at hd
    have hb := (s.draw 2).1.isLt
    obtain ⟨u, x, h1, h2, h3, h4, h5⟩ := key (s.free + 1) (1 + (s.draw 2).1.toNat) (by omega) (by omega) (by simp [hd.1])
    exact ⟨u, x, h1, h2, h3, h4, fun k => h5 k⟩
  · obtain ⟨u, x, h1, h2, h3, h4, h5⟩ := key s.free 1 (by omega) (by omega) (fun _ => rfl)
    exact ⟨u, x, h1, h2, h3, h4, fun k => h5 k⟩

theorem OnlyCore.put {s u : State} {c : CoreId} (h : OnlyCore s u c) (x : Core) : OnlyCore s (u.setCore c.num x).drive c := by
  obtain ⟨h1, h2⟩ := h
  refine ⟨?_, fun k hk => ?_⟩
  · obtain ⟨a, b, d, rfl⟩ : ∃ a b d, u = { s with cores := a, free := b, pins := d } := ⟨_, _, _, h1⟩
    rfl
  · exact (State.setCore_ne u c.num k x hk).trans (h2 k hk)

/-- An instruction that changes its own core alone. -/
theorem plain_core {i : Instr} {s : State} {c : CoreId} {f E : Core → Core} (hi : exec i s = done (plain s c f))
    (hE : ∀ x, (f x).next = E x) : CoreRuns i s c E := by
  intro h
  obtain ⟨u, x, hf, ho, -, hu, hk⟩ := issue_runs h
  refine ⟨x, hf, _, hi, ?_, ?_⟩
  · unfold plain
    rw [hk]
    exact ho.put _
  · unfold plain
    rw [hk, hE]
    exact State.setCore_self _ _ _

/-- A result in a word register. -/
theorem toReg_word {i : Instr} {s : State} {c : CoreId} {rd : Fin 32} {g f : Core → Word} (hi : exec i s = done (toReg s c rd g))
    (hv : ∀ x, g x = f x) : WritesWord i s c rd f :=
  plain_core hi (fun x => by rw [hv]; rfl)

/-- An instruction that ends in a write of its own core. -/
theorem issue_core {i : Instr} {s : State} {c : CoreId} {f : State → Core → Core}
    (hi : exec i s = done (issue s c (fun s x => s.setCore c.num (f s x)))) (E : Core → Core)
    (hE : ∀ u x, Found s c x → f u x = E x) : CoreRuns i s c E := by
  intro h
  obtain ⟨u, x, hf, ho, -, hu, hk⟩ := issue_runs h
  refine ⟨x, hf, _, hi, ?_, ?_⟩
  · rw [hk]
    exact ho.put _
  · rw [hk, hE u x hf]
    exact State.setCore_self _ _ _

end Sys2Proof.Machine
end

