-- ==== Sys2Proof/Laws/Ops.lean ====
section
/-! SUPPORT. What each shared operation can do, once: host memory keeps its canonical form, and the errors, counters, tally entries, indications
and random output touch the parts of the state named here and no other. -/

set_option linter.unusedVariables false

namespace Sys2Proof.Machine

open Sys2Proof Sys2Proof.Bits

/-! ### Bytes -/

/-- Byte strings of one length with one little-endian value are equal. -/
theorem ofLe_inj : ∀ {a b : Bytes}, ofLe a = ofLe b → a.length = b.length → a = b
  | [], [], _, _ => rfl
  | x :: a, y :: b, h, n => by
    simp only [ofLe] at h
    have hx := x.isLt
    have hy := y.isLt
    have e : x.toNat = y.toNat := by omega
    rw [BitVec.eq_of_toNat_eq e, ofLe_inj (a := a) (b := b) (by omega) (by simpa using n)]

/-- The value of the n low bytes of a number. -/
theorem ofLe_le : ∀ (n v : Nat), ofLe (le n v) = v % 256 ^ n
  | 0, v => by simp [le, ofLe, Nat.mod_one]
  | n + 1, v => by
    simp only [le, ofLe, ofLe_le n, BitVec.toNat_ofNat, Nat.pow_succ (n := 256)]
    rw [Nat.mul_comm (256 ^ n) 256]
    exact (Nat.mod_mul (x := v) (a := 256) (b := 256 ^ n)).symm

/-! ### Host memory -/

theorem hostWriteMem_wf (m : List Host.Cell) (a : Nat) (bs : Bytes) (h : Map.wf 0 m = true) : Map.wf 0 (hostWriteMem m a bs) = true := by
  induction bs generalizing m a with
  | nil => exact h
  | cons b r ih => exact ih _ _ (Map.wf_set 0 m _ b h)

/-- A write keeps the canonical form of host memory. -/
theorem hostWrite_wf (s : State) (a : Nat) (bs : Bytes) (h : Map.wf 0 s.hostMem = true) : Map.wf 0 (s.hostWrite a bs).hostMem = true :=
  hostWriteMem_wf _ _ _ h

/-- Reset memory has the canonical form. -/
theorem reset_hostMem_wf : Map.wf 0 State.reset.hostMem = true := rfl

/-- An address outside the bytes written reads as before. -/
theorem hostWriteMem_get_out (m : List Host.Cell) (a x : Nat) (bs : Bytes) (h : ∀ k, k < bs.length → (a + k) % 2 ^ 64 ≠ x) :
    Map.get 0 (hostWriteMem m a bs) x = Map.get 0 m x := by
  induction bs generalizing m a with
  | nil => rfl
  | cons b r ih =>
    show Map.get 0 (hostWriteMem _ (a + 1) r) x = _
    rw [ih _ _ (fun k hk => by have := h (k + 1) (by simp; omega); rwa [show a + (k + 1) = a + 1 + k by omega] at this)]
    have h0 := h 0 (by simp)
    rw [Map.get_set_ne]
    intro e
    exact h0 (by rw [Nat.add_zero]; exact e.symm)

/-- A write of no more than the address space reads back. -/
theorem hostWriteMem_get_in (m : List Host.Cell) (a k : Nat) (bs : Bytes) (hl : bs.length ≤ 2 ^ 64) (hk : k < bs.length) :
    Map.get 0 (hostWriteMem m a bs) ((a + k) % 2 ^ 64) = bs.getD k 0 := by
  induction bs generalizing m a k with
  | nil => simp at hk
  | cons b r ih =>
    simp only [List.length_cons] at hl hk
    cases k with
    | zero =>
      show Map.get 0 (hostWriteMem _ (a + 1) r) _ = _
      rw [hostWriteMem_get_out]
      · simp
      · intro j hj; omega
    | succ k =>
      show Map.get 0 (hostWriteMem _ (a + 1) r) _ = _
      rw [show a + (k + 1) = a + 1 + k by omega, ih _ _ _ (by omega) (by omega)]
      simp

/-! ### Errors, counters, tally entries -/

/-- t differs from s at most in the tally, the stored register words and the MSI-X table. -/
def TallyOnly (s t : State) : Prop := t = { s with tal := t.tal, regs := t.regs, hif := { s.hif with msix := t.hif.msix } }

theorem TallyOnly.refl (s : State) : TallyOnly s s := rfl

theorem TallyOnly.trans {s t u : State} (h : TallyOnly s t) (k : TallyOnly t u) : TallyOnly s u := by
  unfold TallyOnly at h k ⊢
  rw [h] at k
  exact k

theorem TallyOnly.ite {s t u : State} {c : Prop} [Decidable c] (h : TallyOnly s t) (k : TallyOnly s u) : TallyOnly s (if c then t else u) := by
  split <;> assumption

theorem setReg_only (s : State) (a : Nat) (v : Word) : TallyOnly s (s.setReg a v) := rfl
theorem setRegBits_only (s : State) (a hi lo x : Nat) : TallyOnly s (s.setRegBits a hi lo x) := rfl
theorem tal_only (s : State) (t : Tally) : TallyOnly s { s with tal := t } := rfl

theorem raiseVec_only (s : State) (f v : Nat) : TallyOnly s (raiseVec s f v) := by
  unfold raiseVec
  exact TallyOnly.ite rfl rfl

theorem setIntRaw_only (s : State) (p : Nat) (v : Word) : TallyOnly s (setIntRaw s p v) := by
  unfold setIntRaw
  exact TallyOnly.ite ((setReg_only s _ v).trans (raiseVec_only _ 0 0)) (setReg_only s _ v)

theorem setInt_only (s : State) (p n : Nat) : TallyOnly s (setInt s p n) := setIntRaw_only s p _

theorem latchErr_only (s : State) (p c i : Nat) : TallyOnly s (latchErr s p c i) := by
  unfold latchErr
  exact TallyOnly.ite (setInt_only s p 30) (((setInt_only s p 30).trans (setReg_only _ _ _)).trans (setReg_only _ _ _))

theorem evtCount_only (s : State) (p o hi lo : Nat) : TallyOnly s (evtCount s p o hi lo) := by
  unfold evtCount
  have h : TallyOnly s (if s.regBits (p + o) hi lo < 2 ^ (hi + 1 - lo) - 1 then s.setRegBits (p + o) hi lo (s.regBits (p + o) hi lo + 1) else s) :=
    TallyOnly.ite (setRegBits_only s _ _ _ _) (TallyOnly.refl s)
  exact TallyOnly.ite ((h.trans (setRegBits_only _ _ _ _ _)).trans (setInt_only _ _ _)) h

theorem perfCount_only (s : State) (p o n : Nat) : TallyOnly s (perfCount s p o n) := by
  unfold perfCount
  exact TallyOnly.ite (TallyOnly.refl s)
    (TallyOnly.ite (((setReg_only s _ _).trans (setRegBits_only _ _ _ _ _)).trans (setRegBits_only _ _ _ _ _))
      ((setReg_only s _ _).trans (setRegBits_only _ _ _ _ _)))

namespace Tal

theorem fire_only (s : State) (k : Nat) : TallyOnly s (fire s k) := by
  unfold fire
  exact TallyOnly.ite (TallyOnly.refl s) (((tal_only s _).trans (setInt_only _ _ _)).trans (raiseVec_only _ _ _))

theorem checkFill_only (s : State) : TallyOnly s (checkFill s) := by
  unfold checkFill
  have h : TallyOnly s (if 98256 ≤ s.tal.main + s.tal.resv then fire s 0 else s) := TallyOnly.ite (fire_only s 0) (TallyOnly.refl s)
  exact TallyOnly.ite (h.trans (fire_only _ 1)) h

theorem lose_only (s : State) (n : Nat) : TallyOnly s (lose s n) := by
  unfold lose
  exact TallyOnly.ite (((tal_only s _).trans (tal_only _ _)).trans (setInt_only _ _ _)) (tal_only s _)

theorem write_only (s : State) (d : Draft) (data : Bytes) (tail cont : Bool) : TallyOnly s (write s d data tail cont) := by
  unfold write
  dsimp only
  have step : ∀ (c : Prop) [Decidable c] (u v : State) (t : State), TallyOnly s u → (TallyOnly u v → TallyOnly s v) := fun c _ u v t h => h.trans
  refine TallyOnly.ite ?_ ?_ <;> (try refine TallyOnly.trans ?_ (fire_only _ _)) <;> (try refine TallyOnly.trans ?_ (tal_only _ _)) <;>
    refine TallyOnly.ite ?_ ?_ <;> (try refine TallyOnly.trans ?_ (fire_only _ _)) <;> (try refine TallyOnly.trans ?_ (tal_only _ _)) <;>
    refine TallyOnly.ite ?_ ?_ <;> (try refine TallyOnly.trans ?_ (fire_only _ _)) <;> exact tal_only s _

theorem writeAll_only (s : State) (d : Draft) (tail : Bool) : TallyOnly s (writeAll s d tail) := by
  unfold writeAll
  cases d.cont with
  | none => exact write_only _ _ _ _ _
  | some x => exact (write_only _ _ _ _ _).trans (write_only _ _ _ _ _)

/-- Posting an entry touches the tally, register words and the MSI-X table alone. -/
theorem post_only (s : State) (d : Draft) : TallyOnly s (post s d) := by
  unfold post
  exact TallyOnly.ite (lose_only _ _) (TallyOnly.ite ((writeAll_only _ _ _).trans (checkFill_only _))
    (TallyOnly.ite (TallyOnly.ite (writeAll_only _ _ _) (lose_only _ _)) (lose_only _ _)))

theorem redeem_only (s : State) (n : Nat) (d : Draft) : TallyOnly s (redeem s n d) := by
  unfold redeem
  exact TallyOnly.ite ((tal_only s _).trans (lose_only _ _)) (((tal_only s _).trans (writeAll_only _ _ _)).trans (checkFill_only _))

end Tal

theorem noteStatus_only (old s : State) : TallyOnly s (noteStatus old s) := by
  unfold noteStatus
  exact TallyOnly.ite (TallyOnly.refl s) (raiseVec_only _ _ _)

/-- Setting DEGRADED adds a cause, and touches the tally, register words and the MSI-X table. -/
theorem degrade_only (s : State) (c : Nat) (src : BitVec 16) :
    TallyOnly { s with dev := { s.dev with causes := s.dev.causes ||| (if s.dev.causes.getLsbD c then 0 else BitVec.twoPow 7 c) } }
      (degrade s c src) := by
  unfold degrade
  split
  · simp [TallyOnly]
  · exact (Tal.post_only _ _).trans (noteStatus_only _ _)

/-! ### Random output -/

/-- A generate call changes its DRBG and the counter words. -/
theorem drbgCall_only (s : State) (i n : Nat) :
    TallyOnly (s.setDrbg i ((drbgCall s i n).2.drbg i)) (drbgCall s i n).2 := by
  unfold drbgCall
  dsimp only
  have h := perfCount_only (s.setDrbg i { (drbgUpdate { s.drbg i with v := (s.drbg i).v + BitVec.ofNat 128 ((n + 15) / 16) } []) with
    ctr := (drbgUpdate { s.drbg i with v := (s.drbg i).v + BitVec.ofNat 128 ((n + 15) / 16) } []).ctr + 1 }) winPage 0x048 n
  have e : ∀ u : State, TallyOnly u (perfCount u winPage 0x048 n) → (perfCount u winPage 0x048 n).drbg i = u.drbg i := by
    intro u hu
    unfold TallyOnly at hu
    rw [hu]
    rfl
  rw [e _ h]
  simpa [State.drbg, State.setDrbg] using h

/-- A draw of up to 4,096 bytes is one call (R243). -/
theorem drbgGen_call (s : State) (i n : Nat) (h : n ≤ 4096) : drbgGen s i n = drbgCall s i n := by
  unfold drbgGen
  cases n / 4096 <;> simp [drbgCalls, h]

end Sys2Proof.Machine
end

