-- ==== Sys2Proof/WellFormed.lean ====
section
/-! DEFINITION. Which commands are well formed. An index is bounded by its type; what is left is the length of a message, and that a row of
the SPDM responder carries the request the row is about. The meanings do not rely on it: a command that is not well formed is one that the
part never sees. -/

namespace Sys2Proof

/-- A debug token as DBG_AUTH takes it: 120 bytes (R350). -/
def tokenSized (token : Bytes) : Bool := token.length == 120

/-- An SPDM request of a code: a header of 4 bytes, the code in the second (R371). -/
def spdmOf (code : Byte) (req : Bytes) : Bool := decide (4 ≤ req.length) && req[1]? == some code

/-- A private read takes at least one byte (R373). -/
def readSized (len : Nat) : Bool := decide (1 ≤ len)

/-- A die's hottest sensor reads between absolute zero and 1,000 degrees (R407). -/
def plausibleTj (tj : Int) : Bool := decide (-273 ≤ tj ∧ tj ≤ 1000)

/-- Well-formed commands. -/
def WellFormed (i : Instr) : Bool :=
  match i with
  | .dbgAuth token => tokenSized token
  | .thermalSample _ tj => plausibleTj tj
  | .getVersion _ req => spdmOf 0x84 req
  | .getCapabilities _ req => spdmOf 0xE1 req
  | .negotiateAlgorithms _ req => spdmOf 0xE3 req
  | .getDigests _ req => spdmOf 0x81 req
  | .getCertificate _ req => spdmOf 0x82 req
  | .challenge _ req => spdmOf 0x83 req
  | .getMeasurements _ req => spdmOf 0xE0 req
  | .keyExchange t req => t == .doe && spdmOf 0xE4 req
  | .finish t _ req => t == .doe && spdmOf 0xE5 req
  | .spdmUnsupportedRequest _ req => decide (4 ≤ req.length)
  | .i3cPrivateRead len => readSized len
  | _ => true

end Sys2Proof
end

