-- ==== Sys2Proof/Laws/PerInstr.lean ====
section
/-! SUPPORT. The family Operands: a well-formed command that carries an SPDM request carries the request's header (R371). -/

namespace Sys2Proof.Laws.Operands

open Sys2Proof

/-- The SPDM request that a command carries. -/
def requestOf : Instr → Option Bytes
  | .getVersion _ req => some req
  | .getCapabilities _ req => some req
  | .negotiateAlgorithms _ req => some req
  | .getDigests _ req => some req
  | .getCertificate _ req => some req
  | .challenge _ req => some req
  | .getMeasurements _ req => some req
  | .keyExchange _ req => some req
  | .finish _ _ req => some req
  | .spdmUnsupportedRequest _ req => some req
  | _ => none

/-- A well-formed command that carries an SPDM request carries at least its header of four bytes. -/
def Statement (i : Instr) : Prop := WellFormed i = true → ∀ r, requestOf i = some r → 4 ≤ r.length

theorem spdmOf_length (code : Byte) (req : Bytes) (h : spdmOf code req = true) : 4 ≤ req.length := by
  simp only [spdmOf, Bool.and_eq_true, decide_eq_true_eq] at h
  exact h.1

theorem of_none (i : Instr) (h : requestOf i = none) : Statement i := fun _ _ hr => by simp [h] at hr

theorem coldReset (x0) : Statement (.coldReset x0) := of_none _ rfl
theorem perstNAssert : Statement (.perstNAssert) := of_none _ rfl
theorem perstNDeassert (x0) : Statement (.perstNDeassert x0) := of_none _ rfl
theorem bootReleaseWrite : Statement (.bootReleaseWrite) := of_none _ rfl
theorem bootReleaseWatchdog (x0) : Statement (.bootReleaseWatchdog x0) := of_none _ rfl
theorem hbmTrainingDone (x0) (x1) (x2) : Statement (.hbmTrainingDone x0 x1 x2) := of_none _ rfl
theorem winnowerStartupDone (x0) : Statement (.winnowerStartupDone x0) := of_none _ rfl
theorem winnowerStartupTimeout (x0) (x1) : Statement (.winnowerStartupTimeout x0 x1) := of_none _ rfl
theorem flitCrcFail (x0) : Statement (.flitCrcFail x0) := of_none _ rfl
theorem linkRetrainDone (x0) (x1) : Statement (.linkRetrainDone x0 x1) := of_none _ rfl
theorem sqDbWrite (x0) (x1) (x2) : Statement (.sqDbWrite x0 x1 x2) := of_none _ rfl
theorem cqDbWrite (x0) (x1) (x2) : Statement (.cqDbWrite x0 x1 x2) := of_none _ rfl
theorem sqEnable (x0) (x1) (x2) : Statement (.sqEnable x0 x1 x2) := of_none _ rfl
theorem sqDisable (x0) (x1) (x2) : Statement (.sqDisable x0 x1 x2) := of_none _ rfl
theorem cqEnable (x0) (x1) (x2) : Statement (.cqEnable x0 x1 x2) := of_none _ rfl
theorem cqDisable (x0) (x1) (x2) : Statement (.cqDisable x0 x1 x2) := of_none _ rfl
theorem descriptorFetch (x0) (x1) : Statement (.descriptorFetch x0 x1) := of_none _ rfl
theorem descriptorArrival (x0) (x1) : Statement (.descriptorArrival x0 x1) := of_none _ rfl
theorem requestAging (x0) : Statement (.requestAging x0) := of_none _ rfl
theorem requestDispatch (x0) : Statement (.requestDispatch x0) := of_none _ rfl
theorem classWatchdogExpiry (x0) : Statement (.classWatchdogExpiry x0) := of_none _ rfl
theorem tuWatchdogExpiry (x0) : Statement (.tuWatchdogExpiry x0) := of_none _ rfl
theorem reqComplete (x0) (x1) : Statement (.reqComplete x0 x1) := of_none _ rfl
theorem completionStaged (x0) : Statement (.completionStaged x0) := of_none _ rfl
theorem releaseToWriting (x0) : Statement (.releaseToWriting x0) := of_none _ rfl
theorem completionTlpIssued (x0) (x1) : Statement (.completionTlpIssued x0 x1) := of_none _ rfl
theorem cqModTimerExpiry (x0) (x1) : Statement (.cqModTimerExpiry x0 x1) := of_none _ rfl
theorem flr (x0) : Statement (.flr x0) := of_none _ rfl
theorem generationIncrement (x0) : Statement (.generationIncrement x0) := of_none _ rfl
theorem pinTranslate (x0) (x1) : Statement (.pinTranslate x0 x1) := of_none _ rfl
theorem pinTranslateDukpt (x0) (x1) : Statement (.pinTranslateDukpt x0 x1) := of_none _ rfl
theorem pinVerifyOffset (x0) (x1) : Statement (.pinVerifyOffset x0 x1) := of_none _ rfl
theorem pinVerifyPvv (x0) (x1) : Statement (.pinVerifyPvv x0 x1) := of_none _ rfl
theorem pinOffsetGenerate (x0) (x1) : Statement (.pinOffsetGenerate x0 x1) := of_none _ rfl
theorem pvvGenerate (x0) (x1) : Statement (.pvvGenerate x0 x1) := of_none _ rfl
theorem macGenerate (x0) (x1) : Statement (.macGenerate x0 x1) := of_none _ rfl
theorem macVerify (x0) (x1) : Statement (.macVerify x0 x1) := of_none _ rfl
theorem macGenerateDukpt (x0) (x1) : Statement (.macGenerateDukpt x0 x1) := of_none _ rfl
theorem macVerifyDukpt (x0) (x1) : Statement (.macVerifyDukpt x0 x1) := of_none _ rfl
theorem arqcVerify (x0) (x1) : Statement (.arqcVerify x0 x1) := of_none _ rfl
theorem cvvGenerate (x0) (x1) : Statement (.cvvGenerate x0 x1) := of_none _ rfl
theorem cvvVerify (x0) (x1) : Statement (.cvvVerify x0 x1) := of_none _ rfl
theorem keyblockImport (x0) (x1) : Statement (.keyblockImport x0 x1) := of_none _ rfl
theorem keyblockExport (x0) (x1) : Statement (.keyblockExport x0 x1) := of_none _ rfl
theorem keyGenerate (x0) (x1) : Statement (.keyGenerate x0 x1) := of_none _ rfl
theorem keyDelete (x0) (x1) : Statement (.keyDelete x0 x1) := of_none _ rfl
theorem dukptInitialKeyExport (x0) (x1) : Statement (.dukptInitialKeyExport x0 x1) := of_none _ rfl
theorem keyCheckValue (x0) (x1) : Statement (.keyCheckValue x0 x1) := of_none _ rfl
theorem rsaSign (x0) (x1) : Statement (.rsaSign x0 x1) := of_none _ rfl
theorem rsaVerify (x0) (x1) : Statement (.rsaVerify x0 x1) := of_none _ rfl
theorem ecdsaSign (x0) (x1) : Statement (.ecdsaSign x0 x1) := of_none _ rfl
theorem ecdsaVerify (x0) (x1) : Statement (.ecdsaVerify x0 x1) := of_none _ rfl
theorem ed25519Sign (x0) (x1) : Statement (.ed25519Sign x0 x1) := of_none _ rfl
theorem ed25519Verify (x0) (x1) : Statement (.ed25519Verify x0 x1) := of_none _ rfl
theorem ecdhDerive (x0) (x1) : Statement (.ecdhDerive x0 x1) := of_none _ rfl
theorem mlkemEncaps (x0) (x1) : Statement (.mlkemEncaps x0 x1) := of_none _ rfl
theorem mlkemDecaps (x0) (x1) : Statement (.mlkemDecaps x0 x1) := of_none _ rfl
theorem mldsaSign (x0) (x1) : Statement (.mldsaSign x0 x1) := of_none _ rfl
theorem mldsaVerify (x0) (x1) : Statement (.mldsaVerify x0 x1) := of_none _ rfl
theorem keypairGenerate (x0) (x1) : Statement (.keypairGenerate x0 x1) := of_none _ rfl
theorem gcmEncrypt (x0) (x1) : Statement (.gcmEncrypt x0 x1) := of_none _ rfl
theorem gcmDecrypt (x0) (x1) : Statement (.gcmDecrypt x0 x1) := of_none _ rfl
theorem ccmEncrypt (x0) (x1) : Statement (.ccmEncrypt x0 x1) := of_none _ rfl
theorem ccmDecrypt (x0) (x1) : Statement (.ccmDecrypt x0 x1) := of_none _ rfl
theorem xtsEncrypt (x0) (x1) : Statement (.xtsEncrypt x0 x1) := of_none _ rfl
theorem xtsDecrypt (x0) (x1) : Statement (.xtsDecrypt x0 x1) := of_none _ rfl
theorem random (x0) (x1) : Statement (.random x0 x1) := of_none _ rfl
theorem hash (x0) (x1) : Statement (.hash x0 x1) := of_none _ rfl
theorem hmacGenerate (x0) (x1) : Statement (.hmacGenerate x0 x1) := of_none _ rfl
theorem hmacVerify (x0) (x1) : Statement (.hmacVerify x0 x1) := of_none _ rfl
theorem partitionConfigureSet (x0) (x1) : Statement (.partitionConfigureSet x0 x1) := of_none _ rfl
theorem partitionConfigurePurgeSlots (x0) (x1) : Statement (.partitionConfigurePurgeSlots x0 x1) := of_none _ rfl
theorem partitionConfigureRemoveSeen (x0) (x1) : Statement (.partitionConfigureRemoveSeen x0 x1) := of_none _ rfl
theorem partitionConfigureChangeQuota (x0) (x1) : Statement (.partitionConfigureChangeQuota x0 x1) := of_none _ rfl
theorem partitionResetRestart (x0) (x1) : Statement (.partitionResetRestart x0 x1) := of_none _ rfl
theorem partitionResetRelease (x0) (x1) : Statement (.partitionResetRelease x0 x1) := of_none _ rfl
theorem partitionFreezeDrain (x0) (x1) : Statement (.partitionFreezeDrain x0 x1) := of_none _ rfl
theorem partitionFreezeAbort (x0) (x1) : Statement (.partitionFreezeAbort x0 x1) := of_none _ rfl
theorem partitionFreezeThaw (x0) (x1) : Statement (.partitionFreezeThaw x0 x1) := of_none _ rfl
theorem partitionActivate (x0) (x1) : Statement (.partitionActivate x0 x1) := of_none _ rfl
theorem hamperSeal (x0) (x1) (x2) : Statement (.hamperSeal x0 x1 x2) := of_none _ rfl
theorem hamperRestore (x0) (x1) (x2) : Statement (.hamperRestore x0 x1 x2) := of_none _ rfl
theorem fnSplitSet (x0) (x1) : Statement (.fnSplitSet x0 x1) := of_none _ rfl
theorem dectableInstall (x0) (x1) : Statement (.dectableInstall x0 x1) := of_none _ rfl
theorem velocityPolicySet (x0) (x1) : Statement (.velocityPolicySet x0 x1) := of_none _ rfl
theorem slotManageCreate (x0) (x1) : Statement (.slotManageCreate x0 x1) := of_none _ rfl
theorem slotManageImport (x0) (x1) : Statement (.slotManageImport x0 x1) := of_none _ rfl
theorem slotManagePublish (x0) (x1) : Statement (.slotManagePublish x0 x1) := of_none _ rfl
theorem slotManageChange (x0) (x1) : Statement (.slotManageChange x0 x1) := of_none _ rfl
theorem slotManageErase (x0) (x1) : Statement (.slotManageErase x0 x1) := of_none _ rfl
theorem officerEnrollAdd (x0) (x1) : Statement (.officerEnrollAdd x0 x1) := of_none _ rfl
theorem officerEnrollRemove (x0) (x1) : Statement (.officerEnrollRemove x0 x1) := of_none _ rfl
theorem quorumPolicySet (x0) (x1) : Statement (.quorumPolicySet x0 x1) := of_none _ rfl
theorem yokeSwitch (x0) (x1) : Statement (.yokeSwitch x0 x1) := of_none _ rfl
theorem timeAdjustOffset (x0) (x1) : Statement (.timeAdjustOffset x0 x1) := of_none _ rfl
theorem timeAdjustAbsolute (x0) (x1) : Statement (.timeAdjustAbsolute x0 x1) := of_none _ rfl
theorem tallyExport (x0) (x1) : Statement (.tallyExport x0 x1) := of_none _ rfl
theorem tallyClear (x0) (x1) : Statement (.tallyClear x0 x1) := of_none _ rfl
theorem resealForward (x0) (x1) : Statement (.resealForward x0 x1) := of_none _ rfl
theorem imageInstallSet (x0) (x1) (x2) : Statement (.imageInstallSet x0 x1 x2) := of_none _ rfl
theorem imageInstallScarecrowConfig (x0) (x1) : Statement (.imageInstallScarecrowConfig x0 x1) := of_none _ rfl
theorem imageInstallCommitRevisions (x0) (x1) : Statement (.imageInstallCommitRevisions x0 x1) := of_none _ rfl
theorem lifecycleBlankToTest (x0) (x1) : Statement (.lifecycleBlankToTest x0 x1) := of_none _ rfl
theorem lifecycleTestToMinted (x0) (x1) : Statement (.lifecycleTestToMinted x0 x1) := of_none _ rfl
theorem lifecycleCertInstall (x0) (x1) : Statement (.lifecycleCertInstall x0 x1) := of_none _ rfl
theorem lifecycleMintedToEnrolled (x0) (x1) : Statement (.lifecycleMintedToEnrolled x0 x1) := of_none _ rfl
theorem lifecycleEnrolledToField (x0) (x1) : Statement (.lifecycleEnrolledToField x0 x1) := of_none _ rfl
theorem lifecycleReenrollment (x0) (x1) : Statement (.lifecycleReenrollment x0 x1) := of_none _ rfl
theorem lifecycleToAnalysisMasidric (x0) (x1) : Statement (.lifecycleToAnalysisMasidric x0 x1) := of_none _ rfl
theorem lifecycleToAnalysisOem (x0) (x1) : Statement (.lifecycleToAnalysisOem x0 x1) := of_none _ rfl
theorem lifecycleToScrap (x0) (x1) : Statement (.lifecycleToScrap x0 x1) := of_none _ rfl
theorem lifecycleSelfReset (x0) : Statement (.lifecycleSelfReset x0) := of_none _ rfl
theorem kxAdd (x0) (x1) (x2) (x3) : Statement (.kxAdd x0 x1 x2 x3) := of_none _ rfl
theorem kxSub (x0) (x1) (x2) (x3) : Statement (.kxSub x0 x1 x2 x3) := of_none _ rfl
theorem kxAnd (x0) (x1) (x2) (x3) : Statement (.kxAnd x0 x1 x2 x3) := of_none _ rfl
theorem kxOr (x0) (x1) (x2) (x3) : Statement (.kxOr x0 x1 x2 x3) := of_none _ rfl
theorem kxXor (x0) (x1) (x2) (x3) : Statement (.kxXor x0 x1 x2 x3) := of_none _ rfl
theorem kxAndn (x0) (x1) (x2) (x3) : Statement (.kxAndn x0 x1 x2 x3) := of_none _ rfl
theorem kxShl (x0) (x1) (x2) (x3) : Statement (.kxShl x0 x1 x2 x3) := of_none _ rfl
theorem kxShr (x0) (x1) (x2) (x3) : Statement (.kxShr x0 x1 x2 x3) := of_none _ rfl
theorem kxSra (x0) (x1) (x2) (x3) : Statement (.kxSra x0 x1 x2 x3) := of_none _ rfl
theorem kxRol (x0) (x1) (x2) (x3) : Statement (.kxRol x0 x1 x2 x3) := of_none _ rfl
theorem kxSlt (x0) (x1) (x2) (x3) : Statement (.kxSlt x0 x1 x2 x3) := of_none _ rfl
theorem kxSltu (x0) (x1) (x2) (x3) : Statement (.kxSltu x0 x1 x2 x3) := of_none _ rfl
theorem kxMin (x0) (x1) (x2) (x3) : Statement (.kxMin x0 x1 x2 x3) := of_none _ rfl
theorem kxMax (x0) (x1) (x2) (x3) : Statement (.kxMax x0 x1 x2 x3) := of_none _ rfl
theorem kxMinu (x0) (x1) (x2) (x3) : Statement (.kxMinu x0 x1 x2 x3) := of_none _ rfl
theorem kxMaxu (x0) (x1) (x2) (x3) : Statement (.kxMaxu x0 x1 x2 x3) := of_none _ rfl
theorem kxAddq (x0) (x1) (x2) (x3) : Statement (.kxAddq x0 x1 x2 x3) := of_none _ rfl
theorem kxSubq (x0) (x1) (x2) (x3) : Statement (.kxSubq x0 x1 x2 x3) := of_none _ rfl
theorem kxNegq (x0) (x1) (x2) : Statement (.kxNegq x0 x1 x2) := of_none _ rfl
theorem kxAbsq (x0) (x1) (x2) : Statement (.kxAbsq x0 x1 x2) := of_none _ rfl
theorem kxClz (x0) (x1) (x2) : Statement (.kxClz x0 x1 x2) := of_none _ rfl
theorem kxPopc (x0) (x1) (x2) : Statement (.kxPopc x0 x1 x2) := of_none _ rfl
theorem kxBcdadd (x0) (x1) (x2) (x3) : Statement (.kxBcdadd x0 x1 x2 x3) := of_none _ rfl
theorem kxBcdsub (x0) (x1) (x2) (x3) : Statement (.kxBcdsub x0 x1 x2 x3) := of_none _ rfl
theorem kxDadd (x0) (x1) (x2) (x3) : Statement (.kxDadd x0 x1 x2 x3) := of_none _ rfl
theorem kxDsub (x0) (x1) (x2) (x3) : Statement (.kxDsub x0 x1 x2 x3) := of_none _ rfl
theorem kxBcd2bin (x0) (x1) (x2) : Statement (.kxBcd2bin x0 x1 x2) := of_none _ rfl
theorem kxBin2bcd (x0) (x1) (x2) : Statement (.kxBin2bcd x0 x1 x2) := of_none _ rfl
theorem kxBcdchk (x0) (x1) (x2) : Statement (.kxBcdchk x0 x1 x2) := of_none _ rfl
theorem kxDtlook (x0) (x1) (x2) : Statement (.kxDtlook x0 x1 x2) := of_none _ rfl
theorem kxDtset (x0) (x1) (x2) : Statement (.kxDtset x0 x1 x2) := of_none _ rfl
theorem kxAddi (x0) (x1) (x2) (x3) : Statement (.kxAddi x0 x1 x2 x3) := of_none _ rfl
theorem kxAndi (x0) (x1) (x2) (x3) : Statement (.kxAndi x0 x1 x2 x3) := of_none _ rfl
theorem kxOri (x0) (x1) (x2) (x3) : Statement (.kxOri x0 x1 x2 x3) := of_none _ rfl
theorem kxXori (x0) (x1) (x2) (x3) : Statement (.kxXori x0 x1 x2 x3) := of_none _ rfl
theorem kxLui (x0) (x1) (x2) : Statement (.kxLui x0 x1 x2) := of_none _ rfl
theorem kxShi (x0) (x1) (x2) (x3) (x4) : Statement (.kxShi x0 x1 x2 x3 x4) := of_none _ rfl
theorem kxSlti (x0) (x1) (x2) (x3) : Statement (.kxSlti x0 x1 x2 x3) := of_none _ rfl
theorem kxSltiu (x0) (x1) (x2) (x3) : Statement (.kxSltiu x0 x1 x2 x3) := of_none _ rfl
theorem kxLdw (x0) (x1) (x2) (x3) : Statement (.kxLdw x0 x1 x2 x3) := of_none _ rfl
theorem kxLdh (x0) (x1) (x2) (x3) : Statement (.kxLdh x0 x1 x2 x3) := of_none _ rfl
theorem kxLdhs (x0) (x1) (x2) (x3) : Statement (.kxLdhs x0 x1 x2 x3) := of_none _ rfl
theorem kxLdb (x0) (x1) (x2) (x3) : Statement (.kxLdb x0 x1 x2 x3) := of_none _ rfl
theorem kxLdbs (x0) (x1) (x2) (x3) : Statement (.kxLdbs x0 x1 x2 x3) := of_none _ rfl
theorem kxStw (x0) (x1) (x2) (x3) : Statement (.kxStw x0 x1 x2 x3) := of_none _ rfl
theorem kxSth (x0) (x1) (x2) (x3) : Statement (.kxSth x0 x1 x2 x3) := of_none _ rfl
theorem kxStb (x0) (x1) (x2) (x3) : Statement (.kxStb x0 x1 x2 x3) := of_none _ rfl
theorem kxBeq (x0) (x1) (x2) (x3) : Statement (.kxBeq x0 x1 x2 x3) := of_none _ rfl
theorem kxBne (x0) (x1) (x2) (x3) : Statement (.kxBne x0 x1 x2 x3) := of_none _ rfl
theorem kxBlt (x0) (x1) (x2) (x3) : Statement (.kxBlt x0 x1 x2 x3) := of_none _ rfl
theorem kxBge (x0) (x1) (x2) (x3) : Statement (.kxBge x0 x1 x2 x3) := of_none _ rfl
theorem kxBltu (x0) (x1) (x2) (x3) : Statement (.kxBltu x0 x1 x2 x3) := of_none _ rfl
theorem kxBgeu (x0) (x1) (x2) (x3) : Statement (.kxBgeu x0 x1 x2 x3) := of_none _ rfl
theorem kxJmp (x0) (x1) : Statement (.kxJmp x0 x1) := of_none _ rfl
theorem kxCall (x0) (x1) : Statement (.kxCall x0 x1) := of_none _ rfl
theorem kxRet (x0) : Statement (.kxRet x0) := of_none _ rfl
theorem kxLoopi (x0) (x1) (x2) : Statement (.kxLoopi x0 x1 x2) := of_none _ rfl
theorem kxLoopr (x0) (x1) (x2) (x3) : Statement (.kxLoopr x0 x1 x2 x3) := of_none _ rfl
theorem kxIn (x0) (x1) (x2) : Statement (.kxIn x0 x1 x2) := of_none _ rfl
theorem kxOut (x0) (x1) (x2) : Statement (.kxOut x0 x1 x2) := of_none _ rfl
theorem kxMul (x0) (x1) (x2) : Statement (.kxMul x0 x1 x2) := of_none _ rfl
theorem kxMulu (x0) (x1) (x2) : Statement (.kxMulu x0 x1 x2) := of_none _ rfl
theorem kxMulf (x0) (x1) (x2) : Statement (.kxMulf x0 x1 x2) := of_none _ rfl
theorem kxMflo (x0) (x1) : Statement (.kxMflo x0 x1) := of_none _ rfl
theorem kxMfhi (x0) (x1) : Statement (.kxMfhi x0 x1) := of_none _ rfl
theorem kxMac (x0) (x1) (x2) (x3) : Statement (.kxMac x0 x1 x2 x3) := of_none _ rfl
theorem kxMacu (x0) (x1) (x2) (x3) : Statement (.kxMacu x0 x1 x2 x3) := of_none _ rfl
theorem kxMacf (x0) (x1) (x2) (x3) : Statement (.kxMacf x0 x1 x2 x3) := of_none _ rfl
theorem kxMsub (x0) (x1) (x2) (x3) : Statement (.kxMsub x0 x1 x2 x3) := of_none _ rfl
theorem kxMsubf (x0) (x1) (x2) (x3) : Statement (.kxMsubf x0 x1 x2 x3) := of_none _ rfl
theorem kxAccclr (x0) (x1) : Statement (.kxAccclr x0 x1) := of_none _ rfl
theorem kxAccset (x0) (x1) (x2) (x3) : Statement (.kxAccset x0 x1 x2 x3) := of_none _ rfl
theorem kxAccgl (x0) (x1) (x2) : Statement (.kxAccgl x0 x1 x2) := of_none _ rfl
theorem kxAccgh (x0) (x1) (x2) : Statement (.kxAccgh x0 x1 x2) := of_none _ rfl
theorem kxAccgg (x0) (x1) (x2) : Statement (.kxAccgg x0 x1 x2) := of_none _ rfl
theorem kxAccex (x0) (x1) (x2) (x3) : Statement (.kxAccex x0 x1 x2 x3) := of_none _ rfl
theorem kxSmov (x0) (x1) (x2) : Statement (.kxSmov x0 x1 x2) := of_none _ rfl
theorem kxSclr (x0) (x1) : Statement (.kxSclr x0 x1) := of_none _ rfl
theorem kxSxor (x0) (x1) (x2) (x3) : Statement (.kxSxor x0 x1 x2 x3) := of_none _ rfl
theorem kxSand (x0) (x1) (x2) (x3) : Statement (.kxSand x0 x1 x2 x3) := of_none _ rfl
theorem kxSor (x0) (x1) (x2) (x3) : Statement (.kxSor x0 x1 x2 x3) := of_none _ rfl
theorem kxSmerge (x0) (x1) (x2) (x3) : Statement (.kxSmerge x0 x1 x2 x3) := of_none _ rfl
theorem kxShigh (x0) (x1) (x2) : Statement (.kxShigh x0 x1 x2) := of_none _ rfl
theorem kxSparity (x0) (x1) (x2) : Statement (.kxSparity x0 x1 x2) := of_none _ rfl
theorem kxSdtab (x0) (x1) (x2) : Statement (.kxSdtab x0 x1 x2) := of_none _ rfl
theorem kxSdadd (x0) (x1) (x2) (x3) : Statement (.kxSdadd x0 x1 x2 x3) := of_none _ rfl
theorem kxSdsub (x0) (x1) (x2) (x3) : Statement (.kxSdsub x0 x1 x2 x3) := of_none _ rfl
theorem kxSnsh (x0) (x1) (x2) (x3) : Statement (.kxSnsh x0 x1 x2 x3) := of_none _ rfl
theorem kxSldw (x0) (x1) (x2) (x3) : Statement (.kxSldw x0 x1 x2 x3) := of_none _ rfl
theorem kxSmvw (x0) (x1) (x2) (x3) : Statement (.kxSmvw x0 x1 x2 x3) := of_none _ rfl
theorem kxScmp (x0) (x1) (x2) (x3) (x4) : Statement (.kxScmp x0 x1 x2 x3 x4) := of_none _ rfl
theorem kxSpinchk (x0) (x1) (x2) (x3) : Statement (.kxSpinchk x0 x1 x2 x3) := of_none _ rfl
theorem kxSdec (x0) (x1) (x2) (x3) : Statement (.kxSdec x0 x1 x2 x3) := of_none _ rfl
theorem kxSpofs (x0) (x1) (x2) (x3) (x4) : Statement (.kxSpofs x0 x1 x2 x3 x4) := of_none _ rfl
theorem kxSrole (x0) (x1) (x2) (x3) : Statement (.kxSrole x0 x1 x2 x3) := of_none _ rfl
theorem kxSin (x0) (x1) (x2) : Statement (.kxSin x0 x1 x2) := of_none _ rfl
theorem kxSout (x0) (x1) (x2) (x3) : Statement (.kxSout x0 x1 x2 x3) := of_none _ rfl
theorem kxEret (x0) : Statement (.kxEret x0) := of_none _ rfl
theorem kxWfi (x0) : Statement (.kxWfi x0) := of_none _ rfl
theorem kxTrap (x0) : Statement (.kxTrap x0) := of_none _ rfl
theorem kxNop (x0) (x1) : Statement (.kxNop x0 x1) := of_none _ rfl
theorem interruptEntry (x0) (x1) : Statement (.interruptEntry x0 x1) := of_none _ rfl
theorem residueMismatch (x0) : Statement (.residueMismatch x0) := of_none _ rfl
theorem grpFork (x0) (x1) : Statement (.grpFork x0 x1) := of_none _ rfl
theorem grpJoin (x0) (x1) : Statement (.grpJoin x0 x1) := of_none _ rfl
theorem grpEnd (x0) : Statement (.grpEnd x0) := of_none _ rfl
theorem smbxSend (x0) (x1) (x2) : Statement (.smbxSend x0 x1 x2) := of_none _ rfl
theorem smbxIn (x0) (x1) : Statement (.smbxIn x0 x1) := of_none _ rfl
theorem wmbxSend (x0) (x1) (x2) : Statement (.wmbxSend x0 x1 x2) := of_none _ rfl
theorem wmbxIn (x0) (x1) : Statement (.wmbxIn x0 x1) := of_none _ rfl
theorem inData (x0) (x1) (x2) : Statement (.inData x0 x1 x2) := of_none _ rfl
theorem outData (x0) (x1) : Statement (.outData x0 x1) := of_none _ rfl
theorem ntimeRead (x0) (x1) (x2) : Statement (.ntimeRead x0 x1 x2) := of_none _ rfl
theorem drbgRead (x0) (x1) (x2) : Statement (.drbgRead x0 x1 x2) := of_none _ rfl
theorem ctxModeWrite (x0) (x1) : Statement (.ctxModeWrite x0 x1) := of_none _ rfl
theorem uwcLookup (x0) (x1) : Statement (.uwcLookup x0 x1) := of_none _ rfl
theorem uwcFill (x0) (x1) : Statement (.uwcFill x0 x1) := of_none _ rfl
theorem krecFetch (x0) (x1) : Statement (.krecFetch x0 x1) := of_none _ rfl
theorem krecFetchDone (x0) (x1) : Statement (.krecFetchDone x0 x1) := of_none _ rfl
theorem recKey (x0) (x1) : Statement (.recKey x0 x1) := of_none _ rfl
theorem krecStore (x0) (x1) : Statement (.krecStore x0 x1) := of_none _ rfl
theorem polReq (x0) (x1) : Statement (.polReq x0 x1) := of_none _ rfl
theorem polResultReady (x0) (x1) : Statement (.polResultReady x0 x1) := of_none _ rfl
theorem tpDetail (x0) (x1) : Statement (.tpDetail x0 x1) := of_none _ rfl
theorem tpOfs (x0) (x1) : Statement (.tpOfs x0 x1) := of_none _ rfl
theorem tpData (x0) (x1) : Statement (.tpData x0 x1) := of_none _ rfl
theorem tpHandles (x0) (x1) : Statement (.tpHandles x0 x1) := of_none _ rfl
theorem beKey0 (x0) (x1) (x2) : Statement (.beKey0 x0 x1 x2) := of_none _ rfl
theorem beKey1 (x0) (x1) (x2) : Statement (.beKey1 x0 x1 x2) := of_none _ rfl
theorem beDin (x0) (x1) (x2) : Statement (.beDin x0 x1 x2) := of_none _ rfl
theorem beEncrypt (x0) (x1) (x2) : Statement (.beEncrypt x0 x1 x2) := of_none _ rfl
theorem beDecrypt (x0) (x1) (x2) : Statement (.beDecrypt x0 x1 x2) := of_none _ rfl
theorem beCheckValue (x0) (x1) (x2) : Statement (.beCheckValue x0 x1 x2) := of_none _ rfl
theorem beCompare (x0) (x1) (x2) : Statement (.beCompare x0 x1 x2) := of_none _ rfl
theorem beResultReady (x0) (x1) : Statement (.beResultReady x0 x1) := of_none _ rfl
theorem beDout (x0) (x1) (x2) : Statement (.beDout x0 x1 x2) := of_none _ rfl
theorem beKeyclr (x0) (x1) : Statement (.beKeyclr x0 x1) := of_none _ rfl
theorem beDatapathMismatch (x0) (x1) : Statement (.beDatapathMismatch x0 x1) := of_none _ rfl
theorem bgKey (x0) (x1) : Statement (.bgKey x0 x1) := of_none _ rfl
theorem bgCmd (x0) (x1) : Statement (.bgCmd x0 x1) := of_none _ rfl
theorem bgCount (x0) (x1) : Statement (.bgCount x0 x1) := of_none _ rfl
theorem baeMessageEnd (x0) (x1) : Statement (.baeMessageEnd x0 x1) := of_none _ rfl
theorem baeSuspend (x0) (x1) : Statement (.baeSuspend x0 x1) := of_none _ rfl
theorem baeResume (x0) : Statement (.baeResume x0) := of_none _ rfl
theorem baeAlarm (x0) : Statement (.baeAlarm x0) := of_none _ rfl
theorem baeSelftestDone (x0) (x1) : Statement (.baeSelftestDone x0 x1) := of_none _ rfl
theorem baeLockAcquire (x0) (x1) : Statement (.baeLockAcquire x0 x1) := of_none _ rfl
theorem baeLockRelease (x0) (x1) : Statement (.baeLockRelease x0 x1) := of_none _ rfl
theorem bnClaim (x0) (x1) (x2) : Statement (.bnClaim x0 x1 x2) := of_none _ rfl
theorem bnSlot (x0) (x1) (x2) : Statement (.bnSlot x0 x1 x2) := of_none _ rfl
theorem bnWr (x0) (x1) (x2) : Statement (.bnWr x0 x1 x2) := of_none _ rfl
theorem bnRd (x0) (x1) (x2) : Statement (.bnRd x0 x1 x2) := of_none _ rfl
theorem bnXfer (x0) (x1) (x2) (x3) : Statement (.bnXfer x0 x1 x2 x3) := of_none _ rfl
theorem bnKey (x0) (x1) (x2) : Statement (.bnKey x0 x1 x2) := of_none _ rfl
theorem bnSkey (x0) (x1) (x2) : Statement (.bnSkey x0 x1 x2) := of_none _ rfl
theorem bnStore (x0) (x1) (x2) : Statement (.bnStore x0 x1 x2) := of_none _ rfl
theorem bnRelease (x0) (x1) : Statement (.bnRelease x0 x1) := of_none _ rfl
theorem bneMmul (x0) (x1) (x2) : Statement (.bneMmul x0 x1 x2) := of_none _ rfl
theorem bneMadd (x0) (x1) (x2) : Statement (.bneMadd x0 x1 x2) := of_none _ rfl
theorem bneMsub (x0) (x1) (x2) : Statement (.bneMsub x0 x1 x2) := of_none _ rfl
theorem bneMexp (x0) (x1) (x2) : Statement (.bneMexp x0 x1 x2) := of_none _ rfl
theorem bneMinv (x0) (x1) (x2) : Statement (.bneMinv x0 x1 x2) := of_none _ rfl
theorem bneMred (x0) (x1) (x2) : Statement (.bneMred x0 x1 x2) := of_none _ rfl
theorem bneMul (x0) (x1) (x2) : Statement (.bneMul x0 x1 x2) := of_none _ rfl
theorem bnePcheck (x0) (x1) (x2) : Statement (.bnePcheck x0 x1 x2) := of_none _ rfl
theorem bneSmul (x0) (x1) (x2) : Statement (.bneSmul x0 x1 x2) := of_none _ rfl
theorem bneSmulg (x0) (x1) (x2) : Statement (.bneSmulg x0 x1 x2) := of_none _ rfl
theorem bneRsaSign (x0) (x1) (x2) : Statement (.bneRsaSign x0 x1 x2) := of_none _ rfl
theorem bneRsaVerify (x0) (x1) (x2) : Statement (.bneRsaVerify x0 x1 x2) := of_none _ rfl
theorem bneEcdsaSign (x0) (x1) (x2) : Statement (.bneEcdsaSign x0 x1 x2) := of_none _ rfl
theorem bneEcdsaVerify (x0) (x1) (x2) : Statement (.bneEcdsaVerify x0 x1 x2) := of_none _ rfl
theorem bneEcdh (x0) (x1) (x2) : Statement (.bneEcdh x0 x1 x2) := of_none _ rfl
theorem bneEd25519Sign (x0) (x1) (x2) : Statement (.bneEd25519Sign x0 x1 x2) := of_none _ rfl
theorem bneEd25519Verify (x0) (x1) (x2) : Statement (.bneEd25519Verify x0 x1 x2) := of_none _ rfl
theorem bneEcKeygen (x0) (x1) (x2) : Statement (.bneEcKeygen x0 x1 x2) := of_none _ rfl
theorem bneRsaKeygen (x0) (x1) (x2) : Statement (.bneRsaKeygen x0 x1 x2) := of_none _ rfl
theorem bneMlkemKeygen (x0) (x1) (x2) : Statement (.bneMlkemKeygen x0 x1 x2) := of_none _ rfl
theorem bneMlkemEncaps (x0) (x1) (x2) : Statement (.bneMlkemEncaps x0 x1 x2) := of_none _ rfl
theorem bneMlkemDecaps (x0) (x1) (x2) : Statement (.bneMlkemDecaps x0 x1 x2) := of_none _ rfl
theorem bneMldsaKeygen (x0) (x1) (x2) : Statement (.bneMldsaKeygen x0 x1 x2) := of_none _ rfl
theorem bneMldsaSign (x0) (x1) (x2) : Statement (.bneMldsaSign x0 x1 x2) := of_none _ rfl
theorem bneMldsaVerify (x0) (x1) (x2) : Statement (.bneMldsaVerify x0 x1 x2) := of_none _ rfl
theorem bneNtt (x0) (x1) (x2) : Statement (.bneNtt x0 x1 x2) := of_none _ rfl
theorem bneIntt (x0) (x1) (x2) : Statement (.bneIntt x0 x1 x2) := of_none _ rfl
theorem bnePmul (x0) (x1) (x2) : Statement (.bnePmul x0 x1 x2) := of_none _ rfl
theorem bnePadd (x0) (x1) (x2) : Statement (.bnePadd x0 x1 x2) := of_none _ rfl
theorem bnePsub (x0) (x1) (x2) : Statement (.bnePsub x0 x1 x2) := of_none _ rfl
theorem bneHash (x0) (x1) (x2) : Statement (.bneHash x0 x1 x2) := of_none _ rfl
theorem bneHmac (x0) (x1) (x2) : Statement (.bneHmac x0 x1 x2) := of_none _ rfl
theorem bneOperationDone (x0) : Statement (.bneOperationDone x0) := of_none _ rfl
theorem bneFault (x0) (x1) : Statement (.bneFault x0 x1) := of_none _ rfl
theorem bneSelftestDone (x0) (x1) : Statement (.bneSelftestDone x0 x1) := of_none _ rfl
theorem bneWipeDone (x0) (x1) : Statement (.bneWipeDone x0 x1) := of_none _ rfl
theorem bneClearDone (x0) : Statement (.bneClearDone x0) := of_none _ rfl
theorem loaderCheckDone (x0) : Statement (.loaderCheckDone x0) := of_none _ rfl
theorem stkBankLoading (x0) (x1) (x2) : Statement (.stkBankLoading x0 x1 x2) := of_none _ rfl
theorem stkBankDraining (x0) (x1) : Statement (.stkBankDraining x0 x1) := of_none _ rfl
theorem bankCopyDone (x0) (x1) (x2) : Statement (.bankCopyDone x0 x1 x2) := of_none _ rfl
theorem bankDrainDone (x0) (x1) : Statement (.bankDrainDone x0 x1) := of_none _ rfl
theorem maskGeneratorReseed (x0) : Statement (.maskGeneratorReseed x0) := of_none _ rfl
theorem rngWaitTimeout (x0) : Statement (.rngWaitTimeout x0) := of_none _ rfl
theorem drbgReseed (x0) (x1) (x2) (x3) : Statement (.drbgReseed x0 x1 x2 x3) := of_none _ rfl
theorem drbgReseedOverdue (x0) : Statement (.drbgReseedOverdue x0) := of_none _ rfl
theorem sourceHealthFail (x0) (x1) : Statement (.sourceHealthFail x0 x1) := of_none _ rfl
theorem sourceRetest (x0) (x1) (x2) : Statement (.sourceRetest x0 x1 x2) := of_none _ rfl
theorem winTestEnable (x0) : Statement (.winTestEnable x0) := of_none _ rfl
theorem winTestDisable (x0) : Statement (.winTestDisable x0) := of_none _ rfl
theorem winRawRead : Statement (.winRawRead) := of_none _ rfl
theorem winRandRead : Statement (.winRandRead) := of_none _ rfl
theorem rootMaskRefresh : Statement (.rootMaskRefresh) := of_none _ rfl
theorem slotPeriodTick (x0) (x1) : Statement (.slotPeriodTick x0 x1) := of_none _ rfl
theorem bucketSnapshot : Statement (.bucketSnapshot) := of_none _ rfl
theorem hbmUeResolved (x0) (x1) (x2) (x3) (x4) (x5) : Statement (.hbmUeResolved x0 x1 x2 x3 x4 x5) := of_none _ rfl
theorem hbmPageFillDone (x0) (x1) : Statement (.hbmPageFillDone x0 x1) := of_none _ rfl
theorem mergeEntryTimeout (x0) (x1) : Statement (.mergeEntryTimeout x0 x1) := of_none _ rfl
theorem gleanerLineRead (x0) (x1) (x2) (x3) : Statement (.gleanerLineRead x0 x1 x2 x3) := of_none _ rfl
theorem rowRetirementDone (x0) : Statement (.rowRetirementDone x0) := of_none _ rfl
theorem feedLoss (x0) : Statement (.feedLoss x0) := of_none _ rfl
theorem switchOverDone (x0) (x1) : Statement (.switchOverDone x0 x1) := of_none _ rfl
theorem yokeCompareTimeout (x0) : Statement (.yokeCompareTimeout x0) := of_none _ rfl
theorem wardenSelfFlag (x0) : Statement (.wardenSelfFlag x0) := of_none _ rfl
theorem yokeMismatchJudged : Statement (.yokeMismatchJudged) := of_none _ rfl
theorem resyncDone (x0) : Statement (.resyncDone x0) := of_none _ rfl
theorem feedReadmit (x0) : Statement (.feedReadmit x0) := of_none _ rfl
theorem ofcNonceReq (x0) : Statement (.ofcNonceReq x0) := of_none _ rfl
theorem nonceExpiry (x0) : Statement (.nonceExpiry x0) := of_none _ rfl
theorem fastChannelTrip (x0) : Statement (.fastChannelTrip x0) := of_none _ rfl
theorem holdExpiry (x0) : Statement (.holdExpiry x0) := of_none _ rfl
theorem scarecrowSample (x0) : Statement (.scarecrowSample x0) := of_none _ rfl
theorem sampleCycleOverrun : Statement (.sampleCycleOverrun) := of_none _ rfl
theorem fallowWake (x0) (x1) : Statement (.fallowWake x0 x1) := of_none _ rfl
theorem fallowHeartbeatMiss : Statement (.fallowHeartbeatMiss) := of_none _ rfl
theorem xtalLost : Statement (.xtalLost) := of_none _ rfl
theorem scrTamperRelease : Statement (.scrTamperRelease) := of_none _ rfl
theorem scrHistDataRead : Statement (.scrHistDataRead) := of_none _ rfl
theorem extest : Statement (.extest) := of_none _ rfl
theorem clamp : Statement (.clamp) := of_none _ rfl
theorem highz : Statement (.highz) := of_none _ rfl
theorem samplePreload : Statement (.samplePreload) := of_none _ rfl
theorem idcode : Statement (.idcode) := of_none _ rfl
theorem bypass : Statement (.bypass) := of_none _ rfl
theorem tapTestLogicReset (x0) : Statement (.tapTestLogicReset x0) := of_none _ rfl
theorem dbgNonce : Statement (.dbgNonce) := of_none _ rfl
theorem dbgAuth (x0) : Statement (.dbgAuth x0) := of_none _ rfl
theorem debugAccess (x0) (x1) : Statement (.debugAccess x0 x1) := of_none _ rfl
theorem lockWrite (x0) (x1) : Statement (.lockWrite x0 x1) := of_none _ rfl
theorem errClrWrite (x0) (x1) : Statement (.errClrWrite x0 x1) := of_none _ rfl
theorem intSetWrite (x0) (x1) : Statement (.intSetWrite x0 x1) := of_none _ rfl
theorem cntClear (x0) (x1) : Statement (.cntClear x0 x1) := of_none _ rfl
theorem registerWrite (x0) (x1) (x2) : Statement (.registerWrite x0 x1 x2) := of_none _ rfl
theorem talResvTake : Statement (.talResvTake) := of_none _ rfl
theorem talResvTakePair : Statement (.talResvTakePair) := of_none _ rfl
theorem twCursorWrite (x0) (x1) : Statement (.twCursorWrite x0 x1) := of_none _ rfl
theorem twEntryRead (x0) : Statement (.twEntryRead x0) := of_none _ rfl
theorem timeCmdGo (x0) : Statement (.timeCmdGo x0) := of_none _ rfl
theorem timeCmdAtPps (x0) : Statement (.timeCmdAtPps x0) := of_none _ rfl
theorem timeCmdInvalidate : Statement (.timeCmdInvalidate) := of_none _ rfl
theorem atPpsTimeout : Statement (.atPpsTimeout) := of_none _ rfl
theorem ppsEdge : Statement (.ppsEdge) := of_none _ rfl
theorem ppsLockTimeout : Statement (.ppsLockTimeout) := of_none _ rfl
theorem rtcCompare : Statement (.rtcCompare) := of_none _ rfl
theorem rtcSync : Statement (.rtcSync) := of_none _ rfl
theorem timeNowRead (x0) : Statement (.timeNowRead x0) := of_none _ rfl
theorem pwrReqIdle : Statement (.pwrReqIdle) := of_none _ rfl
theorem pwrReqRun : Statement (.pwrReqRun) := of_none _ rfl
theorem pwrReqFallowPreparation : Statement (.pwrReqFallowPreparation) := of_none _ rfl
theorem devPwrReqShutdown : Statement (.devPwrReqShutdown) := of_none _ rfl
theorem idleAfterExpiry : Statement (.idleAfterExpiry) := of_none _ rfl
theorem pwrAgentAnswer (x0) : Statement (.pwrAgentAnswer x0) := of_none _ rfl
theorem pwrDelayExpiry : Statement (.pwrDelayExpiry) := of_none _ rfl
theorem pwrHandshakeTimeout : Statement (.pwrHandshakeTimeout) := of_none _ rfl
theorem idleWakeDone : Statement (.idleWakeDone) := of_none _ rfl
theorem wakeDieTimeout (x0) : Statement (.wakeDieTimeout x0) := of_none _ rfl
theorem keepRailsFall : Statement (.keepRailsFall) := of_none _ rfl
theorem stookClockGate (x0) : Statement (.stookClockGate x0) := of_none _ rfl
theorem thermalSample (x0) (x1) : Statement (.thermalSample x0 x1) := of_none _ rfl
theorem fieldRailUndervoltage (x0) : Statement (.fieldRailUndervoltage x0) := of_none _ rfl
theorem vioUndervoltage : Statement (.vioUndervoltage) := of_none _ rfl
theorem vioReturn (x0) : Statement (.vioReturn x0) := of_none _ rfl
theorem clkCtrlSwitch (x0) : Statement (.clkCtrlSwitch x0) := of_none _ rfl
theorem hifHistBaseWrite (x0) : Statement (.hifHistBaseWrite x0) := of_none _ rfl
theorem hifHistClear (x0) : Statement (.hifHistClear x0) := of_none _ rfl
theorem getVersion (x0) (x1) : Statement (.getVersion x0 x1) := by
  intro h r hr
  obtain rfl := Option.some.inj hr
  simp only [WellFormed] at h
  exact spdmOf_length _ _ h
theorem getCapabilities (x0) (x1) : Statement (.getCapabilities x0 x1) := by
  intro h r hr
  obtain rfl := Option.some.inj hr
  simp only [WellFormed] at h
  exact spdmOf_length _ _ h
theorem negotiateAlgorithms (x0) (x1) : Statement (.negotiateAlgorithms x0 x1) := by
  intro h r hr
  obtain rfl := Option.some.inj hr
  simp only [WellFormed] at h
  exact spdmOf_length _ _ h
theorem getDigests (x0) (x1) : Statement (.getDigests x0 x1) := by
  intro h r hr
  obtain rfl := Option.some.inj hr
  simp only [WellFormed] at h
  exact spdmOf_length _ _ h
theorem getCertificate (x0) (x1) : Statement (.getCertificate x0 x1) := by
  intro h r hr
  obtain rfl := Option.some.inj hr
  simp only [WellFormed] at h
  exact spdmOf_length _ _ h
theorem challenge (x0) (x1) : Statement (.challenge x0 x1) := by
  intro h r hr
  obtain rfl := Option.some.inj hr
  simp only [WellFormed] at h
  exact spdmOf_length _ _ h
theorem getMeasurements (x0) (x1) : Statement (.getMeasurements x0 x1) := by
  intro h r hr
  obtain rfl := Option.some.inj hr
  simp only [WellFormed] at h
  exact spdmOf_length _ _ h
theorem keyExchange (x0) (x1) : Statement (.keyExchange x0 x1) := by
  intro h r hr
  obtain rfl := Option.some.inj hr
  simp only [WellFormed, Bool.and_eq_true] at h
  exact spdmOf_length _ _ h.2
theorem finish (x0) (x1) (x2) : Statement (.finish x0 x1 x2) := by
  intro h r hr
  obtain rfl := Option.some.inj hr
  simp only [WellFormed, Bool.and_eq_true] at h
  exact spdmOf_length _ _ h.2
theorem spdmUnsupportedRequest (x0) (x1) : Statement (.spdmUnsupportedRequest x0 x1) := by
  intro h r hr
  obtain rfl := Option.some.inj hr
  simpa [WellFormed] using h
theorem i3cPrivateWrite (x0) : Statement (.i3cPrivateWrite x0) := of_none _ rfl
theorem i3cPrivateRead (x0) : Statement (.i3cPrivateRead x0) := of_none _ rfl
theorem i3cDynamicAddress (x0) : Statement (.i3cDynamicAddress x0) := of_none _ rfl
theorem tripConditionClear (x0) : Statement (.tripConditionClear x0) := of_none _ rfl
theorem batteryAttach (x0) : Statement (.batteryAttach x0) := of_none _ rfl
theorem pllLock (x0) : Statement (.pllLock x0) := of_none _ rfl
theorem uwcResultReady (x0) (x1) : Statement (.uwcResultReady x0 x1) := of_none _ rfl
theorem krecStoreDone (x0) (x1) : Statement (.krecStoreDone x0 x1) := of_none _ rfl
theorem slewPendingZero : Statement (.slewPendingZero) := of_none _ rfl
theorem winRandRefill : Statement (.winRandRefill) := of_none _ rfl

end Sys2Proof.Laws.Operands
end

