-- ==== Sys2Proof/Machine/KxDecode.lean ====
section
/-! DEFINITION. The instruction that a Knatrix code word spells, with its fields (06_knatrix_isa.md R161 to R163). -/

set_option linter.unusedVariables false

namespace Sys2Proof.Machine

open Sys2Proof Sys2Proof.Bits

namespace Kx

/-- Word register named at bit lo. -/
def wreg (w lo : Nat) : Fin 32 := Fin.ofNat 32 (w / 2 ^ lo)

/-- Secret register named at bit lo. -/
def sreg (w lo : Nat) : Fin 16 := Fin.ofNat 16 (w / 2 ^ lo)

/-- n bits from bit lo. -/
def field (n w lo : Nat) : BitVec n := BitVec.ofNat n (w / 2 ^ lo)

/-- R format, opcode 0x01 (R163). -/
def aluRow (c : CoreId) (w : Nat) : Option Instr :=
  let rd := wreg w 21
  let ra := wreg w 16
  let rb := wreg w 11
  match bits w 10 0 with
  | 0x000 => some (.kxAdd c rd ra rb)
  | 0x001 => some (.kxSub c rd ra rb)
  | 0x002 => some (.kxAnd c rd ra rb)
  | 0x003 => some (.kxOr c rd ra rb)
  | 0x004 => some (.kxXor c rd ra rb)
  | 0x005 => some (.kxAndn c rd ra rb)
  | 0x008 => some (.kxShl c rd ra rb)
  | 0x009 => some (.kxShr c rd ra rb)
  | 0x00A => some (.kxSra c rd ra rb)
  | 0x00B => some (.kxRol c rd ra rb)
  | 0x010 => some (.kxSlt c rd ra rb)
  | 0x011 => some (.kxSltu c rd ra rb)
  | 0x012 => some (.kxMin c rd ra rb)
  | 0x013 => some (.kxMax c rd ra rb)
  | 0x014 => some (.kxMinu c rd ra rb)
  | 0x015 => some (.kxMaxu c rd ra rb)
  | 0x020 => some (.kxAddq c rd ra rb)
  | 0x021 => some (.kxSubq c rd ra rb)
  | 0x022 => some (.kxNegq c rd ra)
  | 0x023 => some (.kxAbsq c rd ra)
  | 0x030 => some (.kxClz c rd ra)
  | 0x031 => some (.kxPopc c rd ra)
  | _ => none

/-- R format, opcode 0x02 (R163). -/
def decRow (c : CoreId) (w : Nat) : Option Instr :=
  let rd := wreg w 21
  let ra := wreg w 16
  let rb := wreg w 11
  match bits w 10 0 with
  | 0 => some (.kxBcdadd c rd ra rb)
  | 1 => some (.kxBcdsub c rd ra rb)
  | 2 => some (.kxDadd c rd ra rb)
  | 3 => some (.kxDsub c rd ra rb)
  | 4 => some (.kxBcd2bin c rd ra)
  | 5 => some (.kxBin2bcd c rd ra)
  | 6 => some (.kxBcdchk c rd ra)
  | 7 => some (.kxDtlook c rd ra)
  | 8 => some (.kxDtset c ra rb)
  | _ => none

/-- I format: the immediates, loads and stores (R163). -/
def immRow (c : CoreId) (op w : Nat) : Option Instr :=
  let rd := wreg w 21
  let ra := wreg w 16
  let imm := field 16 w 0
  match op with
  | 0x03 => some (.kxAddi c rd ra imm)
  | 0x04 => some (.kxAndi c rd ra imm)
  | 0x05 => some (.kxOri c rd ra imm)
  | 0x06 => some (.kxXori c rd ra imm)
  | 0x07 => some (.kxLui c rd imm)
  | 0x08 => some (.kxShi c rd ra (field 2 w 14) (field 5 w 0))
  | 0x09 => some (.kxSlti c rd ra imm)
  | 0x0A => some (.kxSltiu c rd ra imm)
  | 0x0B => some (.kxLdw c rd ra imm)
  | 0x0C => some (.kxLdh c rd ra imm)
  | 0x0D => some (.kxLdhs c rd ra imm)
  | 0x0E => some (.kxLdb c rd ra imm)
  | 0x0F => some (.kxLdbs c rd ra imm)
  | 0x10 => some (.kxStw c rd ra imm)
  | 0x11 => some (.kxSth c rd ra imm)
  | 0x12 => some (.kxStb c rd ra imm)
  | _ => none

/-- B, J, LI, LR and P formats: branches, jumps, loops and ports (R163). -/
def flowRow (c : CoreId) (op w : Nat) : Option Instr :=
  let ra := wreg w 21
  let rb := wreg w 16
  let off := field 16 w 0
  match op with
  | 0x13 => some (.kxBeq c ra rb off)
  | 0x14 => some (.kxBne c ra rb off)
  | 0x15 => some (.kxBlt c ra rb off)
  | 0x16 => some (.kxBge c ra rb off)
  | 0x17 => some (.kxBltu c ra rb off)
  | 0x18 => some (.kxBgeu c ra rb off)
  | 0x19 => some (.kxJmp c (field 26 w 0))
  | 0x1A => some (.kxCall c (field 26 w 0))
  | 0x1B => some (.kxRet c)
  | 0x1C => some (.kxLoopi c (field 10 w 16) off)
  | 0x1D => some (.kxLoopr c ra (field 10 w 11) (field 11 w 0))
  | 0x1E => some (.kxIn c ra off)
  | 0x1F => some (.kxOut c ra off)
  | _ => none

/-- A format (R163). -/
def accRow (c : CoreId) (op w : Nat) : Option Instr :=
  let rd := wreg w 21
  let ra := wreg w 16
  let rb := wreg w 11
  let a : Fin 4 := Fin.ofNat 4 (w / 2 ^ 9)
  let fn := bits w 8 0
  if op = 0x20 then
    match fn with
    | 0x00 => some (.kxMul c ra rb)
    | 0x01 => some (.kxMulu c ra rb)
    | 0x02 => some (.kxMulf c ra rb)
    | 0x10 => some (.kxMflo c rd)
    | 0x11 => some (.kxMfhi c rd)
    | _ => none
  else if op = 0x21 then
    match fn with
    | 0 => some (.kxMac c a ra rb)
    | 1 => some (.kxMacu c a ra rb)
    | 2 => some (.kxMacf c a ra rb)
    | 3 => some (.kxMsub c a ra rb)
    | 4 => some (.kxMsubf c a ra rb)
    | _ => none
  else
    match fn with
    | 0 => some (.kxAccclr c a)
    | 1 => some (.kxAccset c a ra rb)
    | 2 => some (.kxAccgl c rd a)
    | 3 => some (.kxAccgh c rd a)
    | 4 => some (.kxAccgg c rd a)
    | _ => if 0x40 ≤ fn ∧ fn ≤ 0x68 then some (.kxAccex c rd a (Fin.ofNat 41 (fn - 0x40))) else none

/-- XS format (R163). -/
def secretRow (c : CoreId) (w : Nat) : Option Instr :=
  let sd := sreg w 22
  let sa := sreg w 18
  let sb := sreg w 14
  let fn := bits w 13 0
  match fn with
  | 0x0 => some (.kxSmov c sd sa)
  | 0x1 => some (.kxSclr c sd)
  | 0x2 => some (.kxSxor c sd sa sb)
  | 0x3 => some (.kxSand c sd sa sb)
  | 0x4 => some (.kxSor c sd sa sb)
  | 0x5 => some (.kxSmerge c sd sa sb)
  | 0x6 => some (.kxShigh c sd sa)
  | 0x7 => some (.kxSparity c sd sa)
  | 0x8 => some (.kxSdtab c sd sa)
  | 0x9 => some (.kxSdadd c sd sa sb)
  | 0xA => some (.kxSdsub c sd sa sb)
  | _ => if 0x40 ≤ fn ∧ fn ≤ 0x5F then some (.kxSnsh c sd sa (Fin.ofNat 32 (fn - 0x40))) else none

/-- XW format (R163, R172). -/
def extractRow (c : CoreId) (w : Nat) : Option Instr :=
  let rd := wreg w 21
  let sa := sreg w 17
  let sb := sreg w 13
  match bits w 12 10 with
  | 0 => some (.kxSmvw c rd sa (Fin.ofNat 4 w))
  | 1 => some (.kxScmp c rd sa sb (Fin.ofNat 32 w))
  | 2 => some (.kxSpinchk c rd sa (field 3 w 0))
  | 3 => some (.kxSdec c rd sa (field 3 w 0))
  | 4 => some (.kxSpofs c rd sa sb (field 5 w 0))
  | _ => none

/-- SYS group (R163). -/
def sysRow (c : CoreId) (w : Nat) : Option Instr :=
  match bits w 10 0 with
  | 1 => some (.kxEret c)
  | 2 => some (.kxWfi c)
  | 3 => some (.kxTrap c)
  | _ => none

/-- The row that a word's opcode and function codes pick, reserved fields aside. -/
def row (c : CoreId) (w : Nat) : Option Instr :=
  let op := bits w 31 26
  if op = 0x01 then aluRow c w
  else if op = 0x02 then decRow c w
  else if op ≤ 0x12 then immRow c op w
  else if op ≤ 0x1F then flowRow c op w
  else if op ≤ 0x22 then accRow c op w
  else if op = 0x28 then secretRow c w
  else if op = 0x29 then some (.kxSldw c (sreg w 22) (wreg w 17) (Fin.ofNat 4 (w / 2 ^ 15)))
  else if op = 0x2A then extractRow c w
  else if op = 0x2B then some (.kxSrole c (sreg w 22) (sreg w 18) (field 8 w 0))
  else if op = 0x2C then some (.kxSin c (sreg w 22) (field 16 w 0))
  else if op = 0x2D then some (.kxSout c (sreg w 22) (Fin.ofNat 4 (w / 2 ^ 20)) (field 16 w 0))
  else if op = 0x30 then sysRow c w
  else if op = 0x3E then some (.kxNop c (BitVec.ofNat 32 w))
  else none

/-- The instruction a core decodes from a code word; none for a word that R162 leaves undefined. -/
def decode (c : CoreId) (w : Word) : Option Instr := if (classify w.toNat).isSome then row c w.toNat else none

/-- The command with which a core issues a code word: an undefined word is issued by the row NOP with that word (log 1). -/
def issued (c : CoreId) (w : Word) : Instr := (decode c w).getD (.kxNop c w)

end Kx

end Sys2Proof.Machine
end

