-- ==== Sys2Proof/Tests/Slice0.lean ====
section
/-! SUPPORT. Tests: an ill-formed command for each check of WellFormed, a state and operands that meet the hypotheses of each obligation, known
answers of the algorithms, and single steps. Clauses that ask for a signature under a key that Config leaves without a body, or for the
result of a lattice algorithm, have no evaluated witness here (NOTES.md says which). -/

set_option linter.unusedVariables false
set_option Elab.async false

namespace Sys2Proof.Tests

open Sys2Proof Sys2Proof.Machine Sys2Proof.Bits

/-! ### Well-formed commands, and one ill-formed command for each check -/

theorem test_wf_dbgAuth : WellFormed (.dbgAuth (zeros 120)) = true ∧ WellFormed (.dbgAuth (zeros 119)) = false := by decide
theorem test_wf_thermalSample :
    WellFormed (.thermalSample 0 (-273)) = true ∧ WellFormed (.thermalSample 0 1000) = true ∧
    WellFormed (.thermalSample 0 (-274)) = false ∧ WellFormed (.thermalSample 0 1001) = false := by decide
theorem test_wf_spdmCode :
    WellFormed (.getVersion .mctp [0x10, 0x84, 0, 0]) = true ∧ WellFormed (.getVersion .mctp [0x10, 0xE1, 0, 0]) = false ∧
    WellFormed (.getCapabilities .doe [0x13, 0x84, 0, 0]) = false ∧ WellFormed (.negotiateAlgorithms .doe [0x13, 0xE1, 0, 0]) = false ∧
    WellFormed (.getDigests .doe [0x13, 0x82, 0, 0]) = false ∧ WellFormed (.getCertificate .doe [0x13, 0x81, 0, 0]) = false ∧
    WellFormed (.challenge .doe [0x13, 0xE0, 0, 0]) = false ∧ WellFormed (.getMeasurements .doe [0x13, 0x83, 0, 0]) = false := by decide
theorem test_wf_spdmShort : WellFormed (.getVersion .doe [0x10, 0x84, 0]) = false ∧ WellFormed (.spdmUnsupportedRequest .doe [0x13, 0, 0]) = false ∧
    WellFormed (.spdmUnsupportedRequest .doe [0x13, 0, 0, 0]) = true := by decide
theorem test_wf_spdmDoeOnly :
    WellFormed (.keyExchange .doe [0x13, 0xE4, 0, 0]) = true ∧ WellFormed (.keyExchange .mctp [0x13, 0xE4, 0, 0]) = false ∧
    WellFormed (.finish .doe 0 [0x13, 0xE5, 0, 0]) = true ∧ WellFormed (.finish .mctp 0 [0x13, 0xE5, 0, 0]) = false ∧
    WellFormed (.keyExchange .doe [0x13, 0xE5, 0, 0]) = false := by decide
theorem test_wf_i3cPrivateRead : WellFormed (.i3cPrivateRead 1) = true ∧ WellFormed (.i3cPrivateRead 0) = false := by decide

/-- The table gives no row bits. -/
theorem test_decodeTableWord : decodeTableWord 8 0 = none ∧ decodeTableWord 32 0xFFFFFFFF = none := by decide

/-! ### States of which the checks below speak -/

/-- TU context 0 runs, the lead of request 0 of VF 1, with 64 bytes of code resident. -/
def tu : State := { State.reset with
  cores := [(0, { phase := .running })]
  entries := [(0, { state := .reserved, phase := .running, func := 1, accepted := true, group := [0, 1], desc := { outCap := 8 } })]
  ldr := {
    banks := [(0, { ok := true, fns := [⟨0, 2, 0, 0, 100⟩], code := zeros 64 })]
    windows := [(0, { state := 2, code := zeros 64 })] } }

/-- Context 0 of `tu` with fields changed. -/
def tuCore (f : Core → Core) : State := tu.modCore 0 f

/-- Request 0 of `tu` with fields changed. -/
def tuEntry (f : Entry → Entry) : State := tu.modEntry 0 f

/-- The three cores that are no TU run. -/
def sysRun : State := { State.reset with cores := [(2048, { phase := .running }), (2049, { phase := .running }), (2050, { phase := .running })] }

/-- The unit is released: the Keep die, both Field dies, the random chain, the PF and the gate of host DMA are up. -/
def up : State := { State.reset with
  boot := { State.reset.boot with phase := .released, pfEnabled := true, perst := false }
  pwr := { rails := true }
  dev := { f0 := true, f1 := true }
  win := { state := .run, src := (List.range 8).map (fun i => (i, { state := 1 })), drbg := (List.range 9).map (fun i => (i, { serving := true })) }
  scr := { battery := true }
  gates := [(keepGate 0, { cls := [(clsCodeOf .hostDma, 7)] })] }

/-! ### Every statement with hypotheses: a state and operands that meet them -/

theorem test_meets_EmptyQueueTick :
    (let s : State := { up with win := {} }
     s.pending = [] ∧ keepRuns s = true ∧ s.win.state ≠ .run ∧ s.win.state ≠ .testmode ∧ s.time.pending = 0 ∧
     (s.scr.battery || s.pwr.rails) = true) ∧ (∀ n, (({ up with win := {} } : State).source n).state ≠ 1) ∧
    State.reset.pending = [] ∧ State.reset.scr.battery = false ∧ State.reset.pwr.rails = false ∧ keepRuns State.reset = false :=
  ⟨by decide, fun n => nofun, by decide, by decide, by decide, by decide⟩

theorem test_meets_PinsFollowLatches : State.reset.pins = pinLevels State.reset ∧ ∃ t, step State.reset = .next t := ⟨by decide, _, rfl⟩

theorem test_meets_WordInstructions :
    Issues tu (.tu 0) ∧ Issues sysRun .wardenA ∧ Issues sysRun .wardenB ∧ Issues sysRun .scarecrow ∧ ({} : Core).pend = [] := by
  unfold Issues; decide

theorem test_meets_FixedPointLimits : Issues tu (.tu 0) ∧ Issues sysRun .scarecrow := by unfold Issues; decide

theorem test_meets_AccumulatorExtractRounds : Issues tu (.tu 0) ∧ Issues sysRun .wardenA := by unfold Issues; decide

theorem test_meets_DecimalArithmetic :
    Issues tu (.tu 0) ∧ Issues sysRun .wardenA ∧ CoreId.wardenA ≠ .scarecrow ∧
    (let x : Core := { w := [(1, packedBcd 99999999), (2, packedBcd 0), (3, 0xA)] }
     x.getW 1 = packedBcd (10 ^ 8 - 1) ∧ x.getW 2 = packedBcd 0 ∧ ∃ j < 8, 9 < wordNib (x.getW 3) j) := by
  unfold Issues; decide

theorem test_meets_LocalLoadsAndStores :
    (let s := tuCore (fun x => { x with w := [(1, 0x3FFC), (2, 0x4000), (3, 1)] })
     Issues s (.tu 0) ∧ (readUnit s (.tuData 0 (dataAddr (s.core 0) 1 0 / 8))).1 = .good ∧ dataAddr (s.core 0) 1 0 % 4 = 0 ∧ dataAddr (s.core 0) 1 0 + 4 = localEnd (.tu 0) ∧
     dataAddr (s.core 0) 3 0 % 2 ≠ 0 ∧ dataAddr (s.core 0) 2 0 % 4 = 0 ∧ localEnd (.tu 0) = dataAddr (s.core 0) 2 0) ∧
    (let s := sysRun.modCore 2050 (fun x => { x with w := [(1, 0x4000), (2, 0x20000), (3, 0x4002)] })
     Issues s .scarecrow ∧ (s.sysCore 2).inTrap = false ∧ dataAddr (s.core 2050) 1 0 < 0x10000 ∧ 0x20000 ≤ dataAddr (s.core 2050) 2 0 ∧
     dataAddr (s.core 2050) 3 0 % 4 ≠ 0) ∧
    (let s := sysRun.modCore 2048 (fun x => { x with w := [(1, 0x80000)] })
     Issues s .wardenA ∧ (s.sysCore 0).inTrap = false ∧ localEnd .wardenA ≤ dataAddr (s.core 2048) 1 0 ∧
     dataAddr (s.core 2048) 1 0 < 0xF0000000) := by
  unfold Issues; decide

theorem test_meets_ControlFlow :
    (let s := tuCore (fun x => { x with rstack := [8], lstack := [⟨4, 8, 2⟩], w := [(1, 3)] })
     Issues s (.tu 0) ∧ (s.core 0).rstack.length < 16 ∧ (s.core 0).rstack = 8 :: [] ∧ (s.core 0).lstack.length < 4 ∧
     min ((s.core 0).getW 1).toNat (2 : BitVec 11).toNat ≠ 0) ∧
    Issues sysRun .scarecrow ∧ (sysRun.core 2050).rstack.length < 8 ∧
    (let x (pc left : Nat) : Core := { pc := pc, lstack := [⟨4, 8, left⟩] }
     (x 4 2).lstack = ⟨4, 8, 2⟩ :: [] ∧ (x 4 2).pc ≠ 8 ∧ (x 8 2).pc = 8 ∧ (x 8 1).pc = 8) := by
  unfold Issues; decide

/-- A secret register of a label and role. -/
def secret (l : Label) (role : Byte) (derived : Bool := false) : SReg := { val := 0x0123456789, label := l, role := role, derived := derived }

theorem test_meets_SecretRegisters :
    (let s := tuCore (fun x => { x with s := [(1, secret .k 0x07 true)] })
     Issues s (.tu 0) ∧ CoreId.tu 0 ≠ .scarecrow ∧ ((s.core 0).getS 1).label = .k ∧ ((s.core 0).getS 1).derived = true ∧
     (assignable ((s.core 0).getS 1).role) ≠ []) ∧ Issues sysRun .wardenA ∧
    (let k1 := secret .k 1; let k2 := secret .k 2; let p := secret .p 0; let c := secret .c 0
     (k1.label = .k ∧ k1.role = k1.role ∧ k1.derived = k1.derived) ∧ (k2.label = .k ∧ k1.role ≠ k2.role) ∧ p.label = .p ∧
     (c.label ≠ .k ∧ c.label ≠ .p)) := by
  unfold Issues; decide

theorem test_meets_SecretExtracts :
    (let s := tuCore (fun x => { x with dtLoaded := true, s := [(1, secret .n 0), (2, secret .c 0x04), (3, secret .k 1)] })
     Issues s (.tu 0) ∧ (s.core 0).dtLoaded = true ∧ (tu.core 0).dtLoaded = false ∧ ((s.core 0).getS 1).label = .n ∧ ((s.core 0).getS 2).label = .c ∧ ((s.core 0).getS 2).role = 0x04 ∧
     (11 : BitVec 5).toNat % 16 ≤ 11 ∧ (11 : BitVec 5).toNat < 16 ∧ (24 : BitVec 5).toNat % 16 ≤ 11 ∧ 8 < (24 : BitVec 5).toNat % 16 + 1 ∧
     ((s.core 0).getS 3).label ≠ .p ∧ ((s.core 0).getS 3).label ≠ .c ∧ 11 < (12 : BitVec 5).toNat % 16 ∧
     ((s.core 0).getS 3).label = .k ∧ ((s.core 0).getS 3).derived = false) := by
  unfold Issues; decide

theorem test_meets_TrapsInterruptsAndResidues :
    Issues sysRun .wardenA ∧ CoreId.isTu .wardenA = false ∧ (sysRun.sysCore 0).inTrap = false ∧ CoreId.warden .scarecrow = none ∧
    Issues sysRun .scarecrow ∧ (tu.core 0).phase = .running ∧ (sysRun.core 2048).phase = .running ∧ (sysRun.core 2049).phase = .running ∧
    (sysRun.core 2050).phase = .running ∧ (sysRun.sysCore 2).inTrap = false ∧
    (let s := sysRun.setSys 2 { ien := true, imask := 1, lines := 1 }
     (s.core 2050).wait = .none ∧ (s.core 2050).pend = [] ∧ (s.sysCore 2).ien = true ∧ (s.sysCore 2).imask.getLsbD 0 = true ∧
     lineUp s .scarecrow 0 = true ∧ s.scr.present.getLsbD 0x30 = false ∧
     ({ s with scr := { present := BitVec.twoPow 64 0x30 } } : State).scr.present.getLsbD 0x30 = true) ∧
    (let s := (sysRun.setSys 0 { ien := true, imask := 1, lines := 1 }).setSys 1 { ien := true, imask := 1, lines := 1 }
     comparing s = true ∧ (s.core 2048).slots = (s.core 2049).slots ∧ ((s.modCore 2048 (fun x => { x with slots := 1 })).core 2048).slots ≠ (s.core 2049).slots ∧
     comparing { s with yoke := { bState := .faulty } } = false ∧
     ∀ c ∈ [CoreId.wardenA, .wardenB], (s.core c.num).phase = .running ∧ (s.core c.num).wait = .none ∧ (s.core c.num).pend = [] ∧
       (s.sysCore c.side).ien = true ∧ (s.sysCore c.side).imask.getLsbD 0 = true ∧ lineUp s c 0 = true ∧ (s.sysCore c.side).inTrap = false) := by
  unfold Issues; decide

theorem test_meets_SystemAndTuPorts :
    Issues sysRun .scarecrow ∧ CoreId.isTu .scarecrow = false ∧ CoreId.warden .wardenB ≠ none ∧ Issues sysRun .wardenB ∧
    (let s := tuCore (fun x => { x with smbx := [secret .k 1], s := [(1, secret .k 1), (2, secret .p 0)] })
     Issues s (.tu 0) ∧ (s.core 0).member = 0 ∧ (s.core 0).smbx = secret .k 1 :: [] ∧ (readUnit s (.mailbox 0)).1 = .good ∧
     ((s.core 0).getS 1).label = .k ∧ ((s.core 0).getS 2).label = .p ∧
     stageDenied s (s.request 0) (s.core 0).outOfs (slice ((s.core 0).getS 2).bytes 0 4) = none) := by
  unfold Issues; decide

theorem test_meets_GroupsMailboxesAndStaging :
    (Issues tu (.tu 0) ∧ (tu.core 0).member = 0 ∧ (0x3D : Word).toNat % 4 ≠ 0 ∧ (tu.request 0).group[(0x3D : Word).toNat % 4]? = some 1 ∧
     (tu.core 1).forked = false ∧ 4 * ((0x3D : Word).toNat / 4 % 2 ^ 16) = 60 ∧ 60 < bankLength tu 0) ∧
    (∀ k ∈ (tu.request 0).group, k ≠ 0 → (tu.core k).forked = true → (tu.core k).phase = .ended) ∧
    (let s := tu.setCore 1 { phase := .running, forked := true, member := 1, smbx := List.replicate 4 {}, wmbx := List.replicate 8 0 }
     (∃ k ∈ (s.request 0).group, k ≠ 0 ∧ (s.core k).forked = true ∧ (s.core k).phase ≠ .ended) ∧
     Issues s (.tu 1) ∧ (s.core 1).member ≠ 0 ∧ 4 ≤ (s.core 1).smbx.length ∧ 8 ≤ (s.core 1).wmbx.length) ∧
    (let s := tu.setCore 1 { smbx := List.replicate 3 {}, wmbx := List.replicate 7 0 }
     (s.core 1).smbx.length < 4 ∧ (s.core 1).wmbx.length < 8 ∧ (s.core 0).smbx = [] ∧ (s.core 0).wmbx = []) ∧
    (let s := tuCore (fun x => { x with smbx := [{}], wmbx := [5] })
     Issues s (.tu 0) ∧ (s.core 0).smbx = {} :: [] ∧ (s.core 0).wmbx = 5 :: [] ∧ (readUnit s (.mailbox 0)).1 = .good) ∧
    (let s := tuEntry (fun x => { x with input := some [1, 2] }); Issues s (.tu 0) ∧ (s.request 0).input = some [1, 2]) ∧
    (let s := tuEntry (fun x => { x with desc := { inLen := 8 } })
     Issues s (.tu 0) ∧ (s.request 0).input = none ∧ (s.request 0).desc.isInline = false ∧ (s.request 0).desc.inLen ≠ 0 ∧
     linkWaits s (dieOfCtx 0) = false ∧ hostGate s false = false ∧ hostGate { s with gates := up.gates } false = true ∧
     linkWaits (s.setLink 0 { retraining := true }) (dieOfCtx 0) = true) ∧
    (stageDenied tu (tu.request 0) 0 (zeros 4) = none ∧ stagePlace (tu.request 0) = none) ∧
    drbgServes { tu with win := up.win } (barnOfCtx 0) = true ∧ drbgServes tu (barnOfCtx 0) = false := by
  unfold Issues; decide


/-- The request of `tu` names record 5 of its partition, tag 7, whose bytes stand in H0 and whose HBM gate serves TUs. -/
def rec5 : Bytes := le 2 0 ++ [1, 0x02] ++ le 4 7 ++ ascii "P0" ++ [chr 'B', chr 'E', 0xFF, 0] ++ le 2 0xFFFF ++ zeros 24 ++ le 4 5 ++ zeros 84

/-- `tu` with that handle and record, and both Field dies up. -/
def tuRec : State := { tuEntry (fun x => { x with desc := { fn := 0x1001, handles := [mkHandle 0 5 7], outCap := 8 } }) with
  ldr := { tu.ldr with banks := [(0, { ok := true, fns := [⟨0x1001, 2, 0, 0, 100⟩], code := zeros 64 })] }
  parts := [(0, { state := .active, gen := 1, n0 := 16 })]
  dev := up.dev
  gates := up.gates ++ [(fieldGate 1 0x100, {
    cls := [(clsCodeOf .tu, 4), (clsCodeOf .bne, 4)]
    rng := [(0, { en := true, base := hbmBase 1 / 4096, last := hbmBase 1 / 4096, perm := BitVec.allOnes 18 }),
      (1, { en := true, base := (hbmBase 1 + stagingBase) / 4096, last := (hbmBase 1 + stagingBase) / 4096, perm := BitVec.allOnes 18 })] })]
  hbm := [(1, {
    inService := true
    valid := [(0, true)]
    lines := [(10, Hbm.ofLine (rec5.take 64)), (11, Hbm.ofLine (rec5.drop 64))] })] }

theorem test_meets_UnwrapCache :
    (Issues tu (.tu 0) ∧ handleFails tu 0 ((tu.request 0).desc.handle 0) = true ∧ (tu.core 0).recAuth = false) ∧
    (let s := tuCore (fun x => { x with uwc := some (5, false), wait := .uwcResult })
     (s.core 0).uwc = some (5, false) ∧ (s.core 0).wait = .uwcResult) ∧
    (Issues tuRec (.tu 0) ∧ (tuRec.request 0).func - 1 = 0 ∧ handleFails tuRec 0 ((tuRec.request 0).desc.handle 0) = false) ∧
    (let s := tuRec.modCore 0 (fun x => { x with recAuth := true, s := (List.range 8).map (fun k => (k, { val := block (slice rec5 (16 * k) 16) })) })
     let k := recAttrs (rec5.take 48)
     (s.core 0).recAuth = true ∧ k.part = handlePart (mkHandle 0 5 7) ∧ k.idx = handleIdx (mkHandle 0 5 7) ∧
     k.tag = handleTag (mkHandle 0 5 7) ∧ lookupRole 0x1001 0 1 k.usage k.mode k.alg = true ∧ windowStatus k.nb k.na none = St.ok ∧
     counterStatus s k.slotRef = St.ok ∧ slotStatus s k.slotRef = St.ok) := by
  unfold Issues; decide +kernel

theorem test_meets_UnwrapCache_hit :
    (let s := { tuRec with uwc := [(uwcSet tuRec 0 0 5, { valid := true, idx := 5, tag := 7, alg := 0x02, usage := use2 "P0", mode := chr 'B', klen := 24, slotRef := 0xFFFF })] }
     uwcFind s 0 0 5 7 0 = some (uwcSet s 0 0 5)) ∧ uwcFind tuRec 0 0 5 7 0 = none := by
  constructor
  · simp [uwcFind, State.uwcAt, Map.get, uwcSet, List.range, List.range.loop]
  · simp [uwcFind, State.uwcAt, tuRec, tuEntry, State.modEntry, State.setEntry, tu, State.reset]

theorem test_meets_UnwrapCache_sound : ∀ i, (readUnit tuRec (.uwc i)).1 = .good := fun _ => rfl

/-- `tuRec` with the request in slot 0 of F0. -/
def tuStage (g : List (Nat × Gate)) (f : Entry → Entry) : State :=
  { tuRec with gates := g }.modEntry 0 (fun x => f { x with die := 1, slot := 0, desc := { x.desc with outCap := 200 } })

theorem test_meets_Staging :
    (let s := (tuStage tuRec.gates id).modCore 0 (fun x => { x with outOfs := 96 })
     Issues s (.tu 0) ∧ (s.core 0).member = 0 ∧ (s.request 0).die = 1 ∧ (s.request 0).func ≠ 0 ∧
     (s.core 0).outOfs + 4 ≤ (s.request 0).desc.outCap ∧ 96 ≤ (s.core 0).outOfs ∧ gateAllows s .tu (hbmBase 1 + 0x300000000) true = true ∧
     stageDenied s (s.request 0) 94 (zeros 4) = none ∧ stageDenied s (s.request 0) 0 (zeros 200) = none ∧
     gateAllows (tuStage [] id) .tu (hbmBase 1 + 0x300000000) true = false) ∧
    (let s := tuStage tuRec.gates (fun x => { x with phase := .posted, outLen := 200 })
     (s.entry 0).phase = .posted ∧ (s.entry 0).state = .reserved ∧ (s.entry 0).die = 1 ∧ (s.entry 0).func ≠ 0 ∧ 96 < (s.entry 0).outLen ∧
     Hbm.poisoned (s.stack 1) 0x300000000 104 = false ∧
     Hbm.poisoned { s.stack 1 with poison := [(0xC000000, true)] } 0x300000000 104 = true) := by
  unfold Issues; decide +kernel

theorem test_meets_KeyRecordTransfers :
    (Issues tuRec (.tu 0) ∧ (tuRec.core 0).wait ≠ .krecResult ∧ (0x10000 : Word).toNat / 2 ^ 16 ≠ 0) ∧
    (let s := tuRec.modCore 0 (fun x => { x with fetch := some (1, false), storing := some 0 })
     (s.core 0).phase = .running ∧ (s.core 0).fetch = some (1, false) ∧ fetchWaits s 0 = false ∧
     recUnread s 0 (handleIdx ((s.request 0).desc.handle 1)) = [] ∧ fetchStatus s (s.core 0).entry 1 false ≠ St.ok ∧ (s.core 0).storing = some 0) ∧
    (let s := tuRec.modCore 0 (fun x => { x with fetch := some (0, false) })
     (s.core 0).fetch = some (0, false) ∧ fetchWaits s 0 = false ∧ recUnread s 0 (handleIdx ((s.request 0).desc.handle 0)) = [] ∧
     fetchStatus s 0 0 false = St.ok ∧ recGate s .tu 0 5 false = true) := by
  unfold Issues; decide +kernel

theorem test_meets_KeyRecordTransfers_store :
    (let t : Bytes := le 4 6 ++ [0x03] ++ ascii "P0" ++ [chr 'B', chr 'E', 0xFF] ++ zeros 22
     let s := { tuRec with grn := { present := true } }.modCore 0 (fun x => { x with s := [(0, secret .k 1), (2, { val := block t }), (3, { val := block (t.drop 16) })] })
     let v : Word := 0x3200
     Issues s (.tu 0) ∧ v.toNat < 2 ^ 16 ∧ v.toNat % 16 = v.toNat / 16 % 16 ∧ ((s.core 0).getS 0).label = .k ∧ ((s.core 0).getS 2).label = .p ∧ ((s.core 0).getS 3).label = .p ∧
     templateOk s 0 t = true ∧ 0 < Alg.symLen (templateSpec t).alg ∧ Alg.symLen (templateSpec t).alg ≤ 16 ∧
     indicesFree s 0 0 (templateSpec t).idx 1 = true ∧ CanCreate s .tu 0 (templateSpec t) ((s.core 0).getS 0).bytes) := by
  unfold Issues CanCreate; decide +kernel

theorem test_meets_PolicyAndTallyPorts :
    (Issues tu (.tu 0) ∧ (tu.core 0).member = 0 ∧ (tu.request 0).polPhase = .idle ∧ (tu.request 0).tally.held = false) ∧
    (let s := (tuCore (fun x => { x with wait := .polResult })).modEntry 0 (fun x => { x with polPhase := .asked })
     (s.core 0).phase = .running ∧ (s.request 0).polPhase = .asked ∧ (s.core 0).wait = .polResult) ∧
    (let s := tuEntry (fun x => { x with tally := { held := true } }); Issues s (.tu 0) ∧ (s.request 0).tally.held = true) ∧
    (State.reset.tal.stuck = false ∧ State.reset.tal.main + State.reset.tal.resv + 2 ≤ 131008) ∧
    (let s := { State.reset with tal := { main := 131007 } }; 131008 < s.tal.main + s.tal.resv + 2 ∧ s.tal.main + s.tal.resv + 1 = 131008) ∧
    (let s := { State.reset with tal := { log := [{ seq := 1, part := 0 }, { seq := 2, part := 1 }] } }
     s.tal.log = [{ seq := 1, part := 0 }] ++ { seq := 2, part := 1 } :: [] ∧ (∀ y ∈ [({ seq := 1, part := 0 } : TalEntry)], ¬(y.part.toNat + 1 = 2)) ∧
     State.reset.tal.log = []) := by
  unfold Issues; decide +kernel

/-- `up` with ring 0 of VF 1 enabled, 64 entries, one descriptor waiting, of an ACTIVE partition that may have one request in flight. -/
def ringed : State := { up with
  parts := [(0, { state := .active, gen := 1, quota := 1, flowLimit := 4 })]
  hif := { sq := [(64, { enable := true, tail := 1, base := 0x10000 })], cq := [(64, { enable := true, base := 0x20000 })] } }

theorem test_meets_RingDoorbells :
    ringUp ringed 1 0 = true ∧ ringed.pwr.state ≠ pwrIdle ∧ ringed.pwr.target ≠ .idle ∧ (ringed.sq 1 0).head < 2 ^ (ringed.sq 1 0).log2 ∧
    (let q := ringed.sq 1 0
     let room : Int := 2 ^ q.log2 - 1 - (q.tail - q.head) % 2 ^ q.log2
     2 ^ q.log2 ≤ 64 ∧ 63 < 2 ^ q.log2 ∧ q.enable = true ∧ ¬ room < ((63 : Int) - q.tail) % 2 ^ q.log2 ∧ room < ((0 : Int) - q.tail) % 2 ^ q.log2) ∧
    (let c := ringed.cq 1 0
     c.enable = true ∧ c.head < 2 ^ c.log2 ∧ ((c.tail : Int) - c.head) % 2 ^ c.log2 < ((1 : Int) - c.head) % 2 ^ c.log2 ∧
     ¬ ((c.tail : Int) - c.head) % 2 ^ c.log2 < ((0 : Int) - c.head) % 2 ^ c.log2) := by decide +kernel

theorem test_meets_RingConfigurationWrites :
    ringUp ringed 1 0 = true ∧ (ringed.sq 1 0).enable = true ∧ (ringed.sq 1 1).enable = false ∧ (ringed.cq 1 0).enable = true ∧
    (ringed.cq 1 1).enable = false ∧ (1 : Word).getLsbD 0 = true ∧ (0 : Word).getLsbD 0 = false ∧ cqNamed ringed 1 0 = true ∧
    (let s := { ringed with hif := { ringed.hif with sq := [] } }; cqNamed s 1 0 = false ∧ cqBound s 1 0 = 0) := by decide +kernel

theorem test_meets_DescriptorsFetchedAndJudged :
    (turnSq ringed 1 = some 0 ∧ freeEntryOf ringed false = some 0 ∧ canReserveSlot ringed = true ∧ (ringed.sq 1 0).queued = 0 ∧
     poolQueued ringed false = false) ∧
    (let s := ringed.setSq 1 0 { ringed.sq 1 0 with queued := 3 }
     turnSq s 1 = some 0 ∧ (s.sq 1 0).queued ≠ 0 ∧ poolQueued s false = true ∧ ∀ w ∈ ableWaiters s false, (s.sq 1 0).queued ≤ (s.sq w.1 w.2).queued) ∧
    (let s := { ringed with hif := { ringed.hif with
       rr := [(1, 8)], sq := [(64, { enable := true, tail := 1 }), (65, { enable := true, tail := 1 })] } }
     Map.get 0 s.hif.rr 1 = 16 * 0 + 8 ∧ sqWants s 1 1 = true ∧ ownBlocked s 1 1 = false ∧ turnSq s 1 = some 1) ∧
    (let s := { ringed with dev := {} }; turnSq s 1 = some 0 ∧ poolFree s 1 = false ∧ (s.sq 1 0).queued = 0) := by decide +kernel

/-- `ringed` with the descriptor of a RANDOM request of 1 byte fetched from ring 0, a stook serving the function. -/
def fetched : State := { ringed with
  hostMem := (Map.set 0 (Map.set 0 (Map.set 0 (Map.set 0 (Map.set 0 (Map.set 0 (Map.set 0 (Map.set 0 [] 0x10000 0x01) 0x10001 0x70) 0x10002 0x01)
    0x10004 0x01) 0x10006 0x02) 0x1000C 0x01) 0x10038 0x40) 0x10040 0x01)
  entries := [(0, { state := .reserved, phase := .fetching, func := 1, descAddr := 0x10000, slotResv := true })]
  ldr := {
    banks := [(0, { ok := true, fns := [⟨0x7001, 1, 0, 0, 100⟩], code := zeros 64 })]
    windows := [(0, { state := 2, code := zeros 64 })] } }

theorem test_meets_DescriptorsFetchedAndJudged_arrival :
    ((fetched.entry 0).phase = .fetching ∧ (fetched.entry 0).sq < 64 ∧ hostGate fetched false = true ∧ hostGate { fetched with gates := [] } false = false ∧
     flowFull fetched 1 (fetched.entry 0).descAddr = false ∧
     (let d := parseDesc (fetched.hostRead (fetched.entry 0).descAddr.toNat 128)
      admitCheck fetched 1 d = (0, St.ok) ∧ admitCheck fetched 1 { d with gen := 2 } = (2, St.notActive) ∧
      admitCheck fetched 2 d = (1, St.notActive) ∧ admitCheck fetched 1 { d with flags := 0x11 } = (4, St.badFormat))) ∧
    (let s := { fetched with
       hostMem := [(0x10000, 0x60), (0x10001, 0xE0), (0x10002, 0x01), (0x10006, 0x20)]
       entries := [(65536, { state := .reserved, phase := .fetching, small := true, descAddr := 0x10000 })] }
     let d := parseDesc (s.hostRead (s.entry 65536).descAddr.toNat 128)
     (s.entry 65536).phase = .fetching ∧ (s.entry 65536).func = 0 ∧ (s.entry 65536).state = .reserved ∧ (admitCheck s 0 d).1 = 0 ∧
     s.yoke.halt = false ∧ flowFull s 0 (s.entry 65536).descAddr = false ∧ ({ s with yoke := { halt := true } } : State).yoke.halt = true) ∧
    (let s := { fetched with
       hostMem := Map.set 0 (Map.set 0 (Map.set 0 fetched.hostMem 0x10002 0x05) 0x10004 0x01) 0x10008 0x01
       flows := (List.range 4).map (fun i => (i, { outstanding := 256 })) }
     flowFull s 1 (s.entry 0).descAddr = true) := by decide +kernel

theorem test_meets_AgingDispatchAndWatchdogs :
    (let s := { fetched with entries := [(0, { state := .reserved, phase := .ready, func := 1, accepted := true, die := 1, desc := { fn := 0x7001 } })] }
     (s.entry 0).phase = .ready ∧ (s.entry 0).cls ≠ .urgent ∧ keepRuns s = true ∧ dieUp s 1 = true ∧ Map.get false s.pwr.hot 0 = false ∧
     s.pwr.state ≠ pwrIdle ∧ dispatchClass s 1 = some .transaction ∧ (wdrr 1 .transaction 10 s).isSome = true ∧
     linkWaits s 1 = false ∧ linkWaits (s.setLink 0 { retraining := true }) 1 = true ∧
     endsAtDispatch s 1 (s.entry 0) = none ∧ chooseBarn s 1 (s.entry 0) = some 0 ∧ pickStook s 0 0x7001 = some 0 ∧
     (stookFn s 0 0x7001).isSome = true) ∧
    ((tu.entry 0).phase = .running ∧ (tu.entry 0).state = .reserved ∧ (tu.entry 0).accepted = true ∧ readHeld tu 0 = false ∧ baeOf tu 0 = none ∧
     readHeld { tu with hbm := [(1, { held := [(3, .staging 0)] })] } 0 = true) ∧
    (up.boot.pfEnabled = true ∧ (up.part 0).state = .empty ∧ (ringed.part 0).state = .active ∧ Map.wf {} tu.entries = true) ∧
    (let s := ringed.modPart 0 (fun x => { x with state := .resetting, incPending := 1 })
     (s.part 0).state = .resetting ∧ (s.part 0).incPending = 1 ∧ (s.part 0).releasing = false ∧ incrementReady s 0 = true) := by decide +kernel

theorem test_meets_CompletionsPostedAndWritten :
    ((tu.core 0).phase = .running ∧ (tu.request 0).group.contains 0 = true ∧ (tu.core 0).member = 0 ∧ (tu.request 0).status = St.ok ∧
     St.macMismatch ∈ St.listed ∧ (0x7777 : Status) ∉ St.listed ∧ (tu.request 0).polNeed = false ∧ (tu.request 0).outOver = 0 ∧ (tu.request 0).outLen ≤ (tu.request 0).desc.outCap) ∧
    (let s := tuEntry (fun x => { x with status := St.macMismatch }); (s.request 0).status ≠ St.ok ∧ (s.request 0).status ≠ St.keyUseExhausted) ∧
    (let s := tuEntry (fun x => { x with status := St.keyUseExhausted, polResult := St.keyUseExhausted })
     (s.request 0).status = St.keyUseExhausted ∧ (s.request 0).polResult = St.keyUseExhausted) ∧
    (let s := tuEntry (fun x => { x with polNeed := true }); (s.request 0).polNeed = true ∧ (s.request 0).polPhase = .idle) ∧
    (let s := tuEntry (fun x => { x with outLen := 9 }); (s.request 0).desc.outCap < (s.request 0).outLen) ∧
    (let s := tu.setCore 1 { phase := .running, member := 1 }
     (s.core 1).phase = .running ∧ (s.request 1).group.contains 1 = true ∧ (s.core 1).member ≠ 0) ∧
    (let s := tuEntry (fun x => { x with phase := .posted }); (s.entry 0).phase = .posted ∧ (s.entry 0).state = .reserved ∧ (s.entry 0).die = 0 ∧ stagedUnread s 0 = [] ∧ stagePlace (s.entry 0) = none) ∧
    (let s (o : Bool) : State := { up with
       hbm := [(1, { inService := o })]
       entries := [(65536, { state := .reserved, phase := .posted, small := true, area := some 2, outLen := 64 })] }
     ((s true).entry 65536).phase = .posted ∧ stagedUnread (s true) 65536 = [] ∧ ((s true).entry 65536).func = 0 ∧
     ((s true).entry 65536).area = some 2 ∧ Hbm.poisoned ((s true).stack 1) (0x344000000 + 0x401000 * 2) 64 = false ∧
     ((s true).stack 1).inService = true ∧ ((s false).stack 1).inService = false) ∧
    (let s (g : BitVec 16) := ringed.setEntry 0 { state := .staged, func := 1, gen := g }
     (s 1).entry 0 = { state := .staged, func := 1, gen := 1 } ∧ ((s 1).part 0).incPending = 0 ∧ ((s 1).part 0).gen = 1 ∧
     ((s 2).entry 0).gen ≠ ((s 2).part 0).gen ∧ ((s 1).entry 0).pred = none ∧ ((s 1).entry 0).recResv = none ∧
     (let t := (s 2).modPart 0 (fun x => { x with incPending := 1 })
      (t.part 0).incPending ≠ 0 ∧ (t.entry 0).gen = (t.part 0).gen + 1) ∧
     (((s 1).modPart 0 (fun x => { x with incPending := 1 })).entry 0).gen ≠ ((s 1).part 0).gen + 1 ∧ ((s 1).cq 1 0).error = false ∧ ((s 1).cq 1 0).enable = true ∧ ((s 1).cq 1 1).enable = false) ∧
    (let s := ringed.setEntry 0 { state := .writing, func := 1, outLen := 1 }
     (s.entry 0).state = .writing ∧ oldestWriting s 1 0 = some 0 ∧ 0 < (s.entry 0).outLen ∧ (s.cq 1 0).error = false ∧ hostGate s true = true ∧
     hostGate { s with gates := [] } true = false ∧ ((s.setCq 1 0 { error := true }).cq 1 0).error = true) ∧
    (let s := ringed.setCq 1 0 { enable := true, timerOn := true, intEn := true, counted := 1, modTimer := 1 }
     (s.cq 1 0).timerOn = true ∧ 0 < (s.cq 1 0).modTimer ∧ (s.cq 1 0).intEn = true ∧ 0 < (s.cq 1 0).counted) := by decide +kernel

/-- Request 0 of VF 1 at the operand step of function fn, with its input, its keys held and its policy step passed. -/
def atOperands (fn : Nat) (b : Bytes) (ks : List Key) : State := { up with
  grn := { present := true }
  gates := tuRec.gates
  parts := [(0, { state := .active, gen := 1, n0 := 64 })]
  cores := tu.cores
  entries := [(0, {
    state := .reserved
    phase := .running
    func := 1
    accepted := true
    group := [0]
    desc := { fn := BitVec.ofNat 16 fn, outCap := 8 }
    input := some b
    held := (List.range ks.length).zip ks
    snap := some (0, false)
    polPhase := .answered
    recResv := some (0, 1) })] }

theorem computing (fn : Nat) (b : Bytes) (ks : List Key) : Computing (atOperands fn b ks) 0 fn b ks where
  running := rfl
  reserved := rfl
  code := rfl
  input := rfl
  keys := rfl
  snap := rfl
  passed := .inl ⟨rfl, rfl⟩
  link := rfl
  sound := rfl
  reads := rfl
  staging := fun _ _ h => nomatch h

/-- Keys, a PAN field, and the input of a PIN function before byte 32. -/
def tdesKey : Key := { alg := Alg.tdes2, exp := chr 'E', usage := use2 "P0", mode := chr 'B', bytes := (List.range 16).map (fun k => BitVec.ofNat 8 (7 * k + 1)) }
def aesKey : Key := { tdesKey with alg := Alg.aes128 }
def panBytes : Bytes := ofNibs ([0, 1, 2, 3, 4, 5, 6, 7, 8, 9, 0, 1, 2] ++ List.replicate 19 0)
def pinInput (tail : Bytes) : Bytes := zeros 16 ++ panBytes ++ tail

/-- The block of PIN 1234 in format 1 under `tdesKey`, zeros as fill: its one TDES decryption serves the checks below. -/
def pinBlk : Bytes := [0x64, 0xC8, 0x35, 0xB4, 0xB6, 0xBC, 0x96, 0x0F]
theorem test_pinBlk : ofLe (Cipher.dec .tdes tdesKey.bytes pinBlk) = ofLe [0x14, 0x12, 0x34, 0, 0, 0, 0, 0] ∧
    (Cipher.dec .tdes tdesKey.bytes pinBlk).length = 8 := by decide +kernel
theorem test_pinBlk_bytes : Cipher.dec .tdes tdesKey.bytes pinBlk = [0x14, 0x12, 0x34, 0, 0, 0, 0, 0] :=
  ofLe_inj test_pinBlk.1 (test_pinBlk.2.trans rfl)

theorem test_meets_PinFunctions :
    (let b := pinBlk ++ zeros 8 ++ zeros 16 ++ [1, 1]
     Computing (atOperands 0x1001 b [tdesKey, tdesKey]) 0 0x1001 b [tdesKey, tdesKey] ∧ allZero (slice b 16 16) = true ∧
     allZero (slice b 8 8) = true ∧ Pay.pinOf 1 tdesKey.alg tdesKey.bytes (b.take 16) (slice b 16 16) = some [1, 2, 3, 4]) ∧
    (let b := pinBlk ++ zeros 8 ++ panBytes ++ [0, 0]
     Computing (atOperands 0x1001 b [tdesKey, tdesKey]) 0 0x1001 b [tdesKey, tdesKey] ∧ (Pay.panDigits (slice b 16 16)).isSome = true ∧
     Pay.pinOf 0 tdesKey.alg tdesKey.bytes (b.take 16) (slice b 16 16) = none) ∧
    (drbgServes (atOperands 0x1001 [] []) 0 = true ∧ drbgServes { atOperands 0x1001 [] [] with win := {} } 0 = false) ∧
    (let b := pinInput ([0, 0] ++ zeros 9 ++ [1] ++ zeros 3)
     Computing (atOperands 0x1002 b [tdesKey, tdesKey]) 0 0x1002 b [tdesKey, tdesKey] ∧
     Pay.ksnOk tdesKey.alg (slice b 34 12) (byteAt b 46).toNat = true) := by
  have h1 (x y : Bytes) : Pay.pinField 1 tdesKey.alg tdesKey.bytes ((pinBlk ++ zeros 8 ++ x ++ y).take 16) (zeros 16) =
      [0x14, 0x12, 0x34, 0, 0, 0, 0, 0] := test_pinBlk_bytes
  have h0 (x y : Bytes) : Pay.pinField 0 tdesKey.alg tdesKey.bytes ((pinBlk ++ zeros 8 ++ x ++ y).take 16) panBytes =
      xor [0x14, 0x12, 0x34, 0, 0, 0, 0, 0] (Pay.panField8 ((Pay.panDigits panBytes).getD [])) :=
    congrArg (fun y => xor y (Pay.panField8 ((Pay.panDigits panBytes).getD []))) test_pinBlk_bytes
  refine ⟨⟨computing _ _ _, by decide +kernel, by decide +kernel, ?_⟩, ⟨computing _ _ _, by decide +kernel, ?_⟩, by decide +kernel,
    computing _ _ _, by decide +kernel⟩
  · exact (show Pay.pinOf 1 tdesKey.alg tdesKey.bytes _ (zeros 16) = _ by rw [Pay.pinOf, h1 (zeros 16) [1, 1]]; decide)
  · exact (show Pay.pinOf 0 tdesKey.alg tdesKey.bytes _ panBytes = _ by rw [Pay.pinOf, h0 panBytes [0, 0]]; decide)

theorem test_meets_PinFunctions_verify :
    (let b := pinInput ([0, 4, 0] ++ [0x12, 0x34, 0xFF, 0xFF, 0xFF, 0xFF])
     let s := { atOperands 0x1003 b [tdesKey, tdesKey] with decTables := [(0, some 0x0123456789012345)] }
     namedTable s 0 b = some 0x0123456789012345 ∧ 4 ≤ (byteAt b 33).toNat ∧ (byteAt b 33).toNat ≤ 12 ∧ assisted s 0 = false ∧
     (∀ o ∈ (nibs (slice b 35 6)).take 4, o ≤ 9) ∧ (∀ o ∈ (nibs (slice b 35 6)).drop 4, o = 0xF)) ∧
    (let b := pinInput [0, 6, 0x12, 0x34]
     Computing (atOperands 0x1004 b [tdesKey, tdesKey]) 0 0x1004 b [tdesKey, tdesKey] ∧ (byteAt b 33).toNat ≤ 6 ∧
     (∀ d ∈ nibs (slice b 34 2), d ≤ 9)) ∧
    Computing (atOperands 0x1005 (pinInput [0, 12, 0]) [tdesKey, tdesKey]) 0 0x1005 (pinInput [0, 12, 0]) [tdesKey, tdesKey] ∧
    Computing (atOperands 0x1006 (pinInput [0, 0]) [tdesKey, tdesKey]) 0 0x1006 (pinInput [0, 0]) [tdesKey, tdesKey] := by
  refine ⟨?_, ⟨computing _ _ _, ?_⟩, computing _ _ _, computing _ _ _⟩ <;> decide +kernel

theorem test_meets_MacAndCardFunctions :
    (let b : Bytes := [6, 0, 4, 0, 0xAB]
     Computing (atOperands 0x2001 b [aesKey]) 0 0x2001 b [aesKey] ∧ 4 ≤ (byteAt b 2).toNat ∧ (byteAt b 2).toNat ≤ 8 ∧ byteAt b 3 = 0) ∧
    (let b : Bytes := [1, 2, 8, 0] ++ zeros 8 ++ [0xAB]
     Computing (atOperands 0x2002 b [tdesKey]) 0 0x2002 b [tdesKey] ∧ (byteAt b 1).toNat = 2 ∧ (byteAt b 2).toNat ≤ 8 ∧
     allZero ((slice b 4 8).drop 8) = true) ∧
    (let b : Bytes := [3, 1, 8, 1] ++ zeros 9 ++ [1] ++ zeros 6 ++ [0xAB]
     Computing (atOperands 0x2003 b [tdesKey]) 0 0x2003 b [tdesKey] ∧ (byteAt b 3).toNat ≤ 1 ∧ allZero (slice b 17 3) = true ∧
     (byteAt b 0).toNat = (if Alg.isAes tdesKey.alg then 6 else 3) ∧ Pay.ksnOk tdesKey.alg (slice b 4 12) (byteAt b 16).toNat = true) ∧
    (let b : Bytes := [3, 1, 4, 0] ++ zeros 9 ++ [1] ++ zeros 6 ++ zeros 8
     Computing (atOperands 0x2004 b [tdesKey]) 0 0x2004 b [tdesKey] ∧ allZero ((slice b 20 8).drop 4) = true ∧
     Pay.ksnOk tdesKey.alg (slice b 4 12) (byteAt b 16).toNat = true) := by
  refine ⟨⟨computing _ _ _, ?_⟩, ⟨computing _ _ _, ?_⟩, ⟨computing _ _ _, ?_⟩, computing _ _ _, ?_⟩ <;> decide +kernel

/-- A card PAN field of 12 digits. -/
def cardBytes : Bytes := [0x12, 0x34, 0x56, 0x78, 0x90, 0x12, 0xFF, 0xFF, 0xFF, 0xFF]

theorem test_meets_MacAndCardFunctions_cards :
    (let b (len : Bytes) : Bytes := cardBytes ++ [0x01, 0x00, 0x01] ++ zeros 8 ++ [0] ++ zeros 15 ++ len ++ [0xAA]
     let s := (atOperands 0x3001 (b [1, 0]) [tdesKey]).modEntry 0 (fun x => { x with desc := { x.desc with flags := 8 } })
     (Pay.cardPan (b [1, 0])).isSome = true ∧ (byteAt (b [1, 0]) 28).toNat ≤ 8 ∧ 1 ≤ fieldLe (b [1, 0]) 37 2 ∧
     fieldLe (b [1, 0]) 37 2 = ((b [1, 0]).drop 39).length ∧ arqcFields (b [1, 0]) = true ∧ assisted s 0 = true) ∧
    (let b : Bytes := cardBytes ++ [0x29, 0x12, 0x20, 0x1F, 0, 0]
     Computing (atOperands 0x3003 b [tdesKey]) 0 0x3003 b [tdesKey] ∧ (∀ d ∈ nibs (slice b 10 2), d ≤ 9) ∧
     (∀ d ∈ (nibs (slice b 12 2)).take 3, d ≤ 9) ∧ (nibs (slice b 12 2)).getD 3 0 = 0xF ∧ allZero (slice b 14 2) = true) ∧
    (let b : Bytes := cardBytes ++ [0x29, 0x12, 0x20, 0x1F, 0x12, 0x3F]
     Computing (atOperands 0x3004 b [tdesKey]) 0 0x3004 b [tdesKey] ∧ (∀ d ∈ (nibs (slice b 14 2)).take 3, d ≤ 9) ∧
     (nibs (slice b 14 2)).getD 3 0 = 0xF) := by
  refine ⟨?_, ⟨computing _ _ _, ?_⟩, computing _ _ _, ?_⟩ <;> decide +kernel

theorem test_meets_KeyFunctions :
    Computing (atOperands 0x4006 [] [aesKey]) 0 0x4006 [] [aesKey] ∧ Computing (atOperands 0x4004 [] [aesKey]) 0 0x4004 [] [aesKey] ∧
    (let b : Bytes := [0, 0x30, 0x30, chr 'E']
     let k := { aesKey with exp := chr 'N' }
     Computing (atOperands 0x4002 b [aesKey, k]) 0 0x4002 b [aesKey, k] ∧ k.exp = chr 'N' ∧ aesKey.exp ≠ chr 'N' ∧ byteAt b 3 = chr 'E' ∧
     byteAt b 0 = 0 ∧ isAscii (slice b 1 2) = true ∧ drbgServes (atOperands 0x4002 b [aesKey, k]) 0 = true ∧
     drbgServes { atOperands 0x4002 b [aesKey, k] with win := {} } 0 = false ∧ byteAt [1, 0x30, 0x30, chr 'E'] 0 = 1) ∧
    (let b := zeros 12
     Computing (atOperands 0x4005 b [tdesKey, tdesKey]) 0 0x4005 b [tdesKey, tdesKey] ∧ tdesKey.exp ≠ chr 'N' ∧ allZero (slice b 10 2) = true) ∧
    (let b : Bytes := le 4 0 ++ [Alg.aes128] ++ ascii "P0" ++ [chr 'B', chr 'E', 0xFF] ++ zeros 22
     let s := atOperands 0x4003 b []
     Computing s 0 0x4003 b [] ∧ (s.entry 0).recResv.isSome = true ∧ (s.entry 0).desc.handle 0 = 0 ∧ drbgServes s 0 = true ∧
     CanCreate s .tu 0 (templateSpec (b.take 32)) (zeros 16)) := by
  unfold CanCreate
  refine ⟨computing _ _ _, computing _ _ _, ⟨computing _ _ _, ?_⟩, ⟨computing _ _ _, ?_⟩, ⟨computing _ _ _, ?_⟩⟩ <;>
    decide +kernel

/-- A version D block under `aesKey`: the AES key 1, 2, ..., 16 for PIN encryption. -/
def importBlk : Bytes := ascii "D0112P0AB00N00007A7D3B35841B1A0005EAA69B70485C33D064C3EC9A4BD9EB28BD5ABA23D4B049491922D6D87B055D9E8E0423576A4BA1"

/-- The operands of its import into record 5. -/
def importInput : Bytes := le 4 5 ++ zeros 5 ++ [0xFF] ++ zeros 22 ++ le 2 112 ++ importBlk

theorem test_meets_KeyFunctions_block :
    (KeyBlock.parse importBlk).map (blockKey aesKey) = some (St.ok, some (Alg.aes128, (List.range 16).map (fun k => BitVec.ofNat 8 (k + 1)))) := by
  decide +kernel

theorem test_meets_KeyFunctions_import :
    (let b := importInput
     let s := { atOperands 0x4001 b [aesKey] with parts := [(0, { state := .active, gen := 1, n0 := 64 })] }
     16 ≤ fieldLe b 32 2 ∧ fieldLe b 32 2 ≤ 16384 ∧ b.length = 34 + fieldLe b 32 2 ∧ assisted s 0 = false ∧ (s.entry 0).recResv.isSome = true ∧
     blockOperand aesKey (slice b 34 112) = (St.ok, KeyBlock.parse importBlk) ∧
     (let spec := { templateSpec (b.take 32) with alg := Alg.aes128, usage := use2 "P0", mode := chr 'B', exp := chr 'N' }
      indicesFree s 0 0 spec.idx 1 = true ∧ CanCreate s .tu 0 spec (zeros 16))) ∧
    (let s := atOperands 0x4002 [1, 0x30, 0x30, chr 'E'] [aesKey]
     let r : Bytes := le 2 0 ++ [1, Alg.aes128] ++ le 4 7 ++ ascii "P0" ++ [chr 'B', chr 'N', 0xFF, 0] ++ le 2 0xFFFF
     let t := { s with hbm := [(1, { inService := true, valid := [(0, true)], lines := [(10, Hbm.ofLine (fit 64 r))] })] }.modEntry 0 (fun x =>
       { x with desc := { x.desc with handles := [mkHandle 0 4 1, mkHandle 0 5 7] } })
     (t.entry 0).phase = .running ∧ (t.entry 0).state = .reserved ∧ (t.entry 0).desc.fn = 0x4002 ∧ (t.entry 0).held = [(0, aesKey)] ∧
     linkWaits t (t.entry 0).die = false ∧ (readUnit t (.descriptor 0)).1 = .good ∧ requestUnread t 0 = [] ∧
     (recAttrs (recBytes t 0 (handleIdx ((t.entry 0).desc.handle 1)))).exp = chr 'N') ∧
    (let b : Bytes := le 4 0 ++ [Alg.tdes2] ++ ascii "P0" ++ [chr 'B', chr 'E', 0xFF] ++ zeros 22
     let s (h : List (BitVec 64)) := (atOperands 0x4003 b [aesKey]).modEntry 0 (fun x => { x with desc := { x.desc with handles := h } })
     let spec := templateSpec (b.take 32)
     ((s [5]).entry 0).desc.handle 0 ≠ 0 ∧ spec.exp ≠ chr 'N' ∧ ((s [5]).entry 0).recResv.isSome = true ∧ drbgServes (s [5]) 0 = true ∧
     CanCreate (s [5]) .tu 0 spec (zeros 16) ∧ Alg.isTdes spec.alg = true) := by
  unfold CanCreate
  refine ⟨by decide +kernel, by decide +kernel, by decide +kernel⟩

theorem test_meets_AsymmetricFunctions :
    (let b : Bytes := [1, 0x01, 0, 0] ++ le 2 36 ++ List.replicate 32 0xFF ++ be 4 65537 ++ le 2 32 ++ zeros 31 ++ [2] ++ [0xAB]
     Computing (atOperands 0x5002 b []) 0 0x5002 b [] ∧ (signHash (byteAt b 1)).isSome = true ∧ fieldLe b 4 2 = 36 ∧
     8 + 36 + 32 ≤ b.length ∧ fieldLe b 42 2 = 32 ∧ rsaPublicStatus (ofBe (slice b 6 32)) (ofBe (slice b 38 4)) (ofBe (slice b 44 32)) = St.ok) ∧
    (let b : Bytes := [0x01, 0, 0, 0, 0xAB]
     let k : Key := { alg := Alg.p256, bytes := le 32 1 ++ zeros 64 }
     Computing (atOperands 0x5003 b [k]) 0 0x5003 b [k] ∧ allZero (slice b 1 3) = true ∧ (signHash (byteAt b 0)).isSome = true ∧
     (curveOf k.alg).isSome = true ∧ drbgServes (atOperands 0x5003 b [k]) 0 = true) ∧
    (let b : Bytes := [Alg.p256, 0x01] ++ le 2 64 ++ ([4] ++ be 32 Ec.p256.gx ++ be 32 Ec.p256.gy) ++ zeros 64
     Computing (atOperands 0x5004 b []) 0 0x5004 b [] ∧ (curveOf (byteAt b 0)).isSome = true ∧ fieldLe b 2 2 = 2 * Ec.p256.len ∧
     4 + 65 + 64 ≤ b.length ∧ (signHash (byteAt b 1)).isSome = true ∧ (Ec.decode Ec.p256 (slice b 4 65)).isSome = true) ∧
    Computing (atOperands 0x5005 [0xAB] [{ alg := Alg.ed25519, bytes := zeros 96 }]) 0 0x5005 [0xAB] [{ alg := Alg.ed25519, bytes := zeros 96 }] ∧
    Computing (atOperands 0x5006 (zeros 96) []) 0 0x5006 (zeros 96) [] := by
  refine ⟨⟨computing _ _ _, ?_⟩, ⟨computing _ _ _, ?_⟩, ⟨computing _ _ _, ?_⟩, computing _ _ _, computing _ _ _⟩ <;> decide +kernel

theorem test_meets_AsymmetricFunctions_lattices :
    (let b : Bytes := zeros 32 ++ [Alg.mlkem768] ++ zeros 1184
     Computing (atOperands 0x5008 b []) 0 0x5008 b [] ∧ byteAt b 32 = Alg.mlkem768 ∧ (b.drop 33).length = 1184 ∧
     MlKem.ekOk (MlKem.par false) (b.drop 33) = true) ∧
    (let k : Key := { alg := Alg.mlkem1024 }
     Computing (atOperands 0x5009 (zeros 1600) [k]) 0 0x5009 (zeros 1600) [k] ∧ (zeros 1600).length = 32 + 1568) ∧
    (let k : Key := { alg := Alg.mldsa65, bytes := zeros 5984 }
     Computing (atOperands 0x500A [0, 0xAB] [k]) 0 0x500A [0, 0xAB] [k] ∧ assisted (atOperands 0x500A [0, 0xAB] [k]) 0 = false ∧
     1 + (byteAt [0, 0xAB] 0).toNat ≤ [0, 0xAB].length) ∧
    (let b : Bytes := [Alg.mldsa65, 0] ++ zeros 1952 ++ le 2 3309 ++ zeros 3309
     Computing (atOperands 0x500B b []) 0 0x500B b [] ∧ byteAt b 0 = Alg.mldsa65 ∧ 4 + 0 + 1952 + fieldLe b 1954 2 ≤ b.length) := by
  refine ⟨⟨computing _ _ _, ?_⟩, ⟨computing _ _ _, ?_⟩, ⟨computing _ _ _, ?_⟩, computing _ _ _, ?_⟩ <;> decide +kernel

theorem test_meets_BulkRandomAndHashFunctions :
    (let b : Bytes := le 8 16 ++ le 8 0x1000 ++ zeros 16 ++ [12, 12, 0] ++ zeros 5 ++ zeros 16 ++ zeros 16
     let s := { atOperands 0x6001 b [aesKey] with baes := [(0, { owner := .request })] }
     Computing (atOperands 0x6001 b [aesKey]) 0 0x6001 b [aesKey] ∧ assisted s 0 = false ∧ bulkLengths 0x6001 b = true ∧
     bulkFields 0x6001 b = true ∧ bulkPointers b = true ∧ baeOf s 0 = some 0 ∧ (s.bae 0).owner = .request ∧ (s.bae 0).entry = 0 ∧
     (s.bae 0).selftest = false ∧ (s.bae 0).susp = [] ∧ bulkLimits (parseBulk 0 0x6001 aesKey.bytes b) = true ∧
     (parseBulk 0 0x6001 aesKey.bytes b).drawn = false ∧ bulkOut (parseBulk 0 0x6001 aesKey.bytes b) = 28) ∧
    (let b : Bytes := le 8 0 ++ le 8 0x1000 ++ zeros 16 ++ [16, 0, 9] ++ zeros 37
     bulkLengths 0x6005 b = true ∧ bulkFields 0x6005 b = true ∧ bulkPointers b = true ∧ bulkLimits (parseBulk 0 0x6005 [] b) = false) ∧
    (Computing (atOperands 0x7001 (le 2 1) []) 0 0x7001 (le 2 1) [] ∧ 1 ≤ fieldLe (le 2 1) 0 2 ∧ fieldLe (le 2 4096) 0 2 ≤ 4096 ∧
     4096 < fieldLe (le 2 4097) 0 2) ∧
    (Computing (atOperands 0x7002 [0x01, 0, 0, 0] []) 0 0x7002 [0x01, 0, 0, 0] [] ∧ (Hash.ofByte 1).isSome = true ∧
     allZero (slice [0x01, 0, 0, 0] 1 3) = true) ∧
    (let b : Bytes := [0x01, 4, 0, 0] ++ zeros 64
     Computing (atOperands 0x7003 b [tdesKey]) 0 0x7003 b [tdesKey] ∧ Computing (atOperands 0x7004 b [tdesKey]) 0 0x7004 b [tdesKey] ∧
     4 ≤ (byteAt b 1).toNat ∧ (byteAt b 1).toNat ≤ Hash.digestLen ((Hash.ofByte 1).getD .sha1) ∧ allZero ((slice b 4 64).drop 4) = true) := by
  refine ⟨⟨computing _ _ _, ?_⟩, ?_, ⟨computing _ _ _, ?_⟩, ⟨computing _ _ _, ?_⟩, computing _ _ _, computing _ _ _, ?_⟩ <;> decide +kernel

/-- Request 65536 of the PF in warden firmware, in the state u: its tally entry is reserved, and its quorum stands. -/
def atAdmin (u : State) (fn : Nat) (b : Bytes) : State := { u with
  entries := [(65536, {
    state := .reserved
    phase := .firmware
    accepted := true
    small := true
    desc := { fn := BitVec.ofNat 16 fn, outCap := 4096 }
    input := some b
    polPhase := .answered
    tally := { held := true } })] }

theorem administering (u : State) (fn : Nat) (b : Bytes) (hg : u.yoke.gap = false) (hr : largestOut fn = 0 ∨ u.boot.romService = true) :
    Administering (atAdmin u fn b) 65536 fn b ∧ reserveAdmin (atAdmin u fn b) 65536 b = some (atAdmin u fn b) ∧
    ∀ ro cs n k, QuorateOf ro (atAdmin u fn b) 65536 b cs n k (atAdmin u fn b) :=
  ⟨⟨rfl, rfl, rfl, rfl, rfl, rfl, hg, hr.imp id .inr, fun _ _ h => nomatch h⟩, rfl, fun _ _ _ _ => .inl ⟨(fun h => nomatch h), rfl⟩⟩

/-- `up` in ROM service, where a request of the PF needs no area. -/
def romUp : State := { up with boot := { up.boot with romService := true } }

theorem test_meets_Administering : up.yoke.gap = false ∧ romUp.yoke.gap = false ∧ romUp.boot.romService = true ∧
    ∀ fn ∈ [0xE001, 0xE002, 0xE003, 0xE004, 0xE005, 0xE006, 0xE010, 0xE011, 0xE012, 0xE013, 0xE020, 0xE021, 0xE022, 0xE030, 0xE041, 0xE050, 0xE051],
      largestOut fn = 0 := by decide

theorem test_meets_PartitionAdministration :
    (findRun [(0, 4)] 8 4 = some 4 ∧ findRun [(0, 4)] 7 4 = none) ∧
    (let b := le 2 2047 ++ [1, 0] ++ le 4 1 ++ le 2 4 ++ le 2 0 ++ le 4 16 ++ le 4 0 ++ le 2 0 ++ zeros 2 ++ le 8 9
     let s := atAdmin up 0xE001 b
     byteAt b 3 = 0 ∧ allZero (slice b 22 2) = true ∧ byteAt b 2 = 1 ∧ fieldLe b 0 2 < 2048 ∧ (s.part 2047).state = .empty ∧
     (s.part 2047).configured = false ∧ configFits s b = true ∧ (storeConfig s 2047 b).isSome = true) ∧
    (let s := atAdmin { up with seen := [(9, 1)] } 0xE001 []
     s.seen.any (fun y => y.1 == BitVec.ofNat 64 (fieldLe (zeros 24 ++ le 8 9) 24 8)) = true) ∧
    (let s := atAdmin { up with parts := [(0, { configured := true })] } 0xE004 (le 2 0)
     (s.part 0).state = .empty ∧ (s.part 0).configured = true ∧ (s.part 0).emigrated = false) ∧
    (let s := atAdmin ringed 0xE003 (le 2 0)
     (s.part 0).state = .active ∧ (s.part 0).state ≠ .empty ∧ (s.part 0).emigrated = false ∧ inFlight s 1 = 0 ∧ slotsOf s 0 = [] ∧
     s.parts.any (fun z => z.2.resetEntry == some 65536) = false ∧ (s.part 0).resetEntry = none ∧
     moveWaits s 65536 0 = false ∧ inFlight (s.setEntry 0 { state := .reserved, accepted := true, func := 1 }) 1 ≠ 0 ∧
     moveWaits (s.modPart 0 (fun x => { x with resetEntry := some 65537 })) 65536 0 = true) ∧
    (let s := atAdmin { up with parts := [(0, { state := .frozen })] } 0xE003 (le 2 0 ++ [2])
     (s.part 0).state = .frozen ∧ (s.part 0).emigrated = false ∧ (s.part 0).configured = false) ∧
    ((0xFE : Byte).getLsbD 0 = false ∧ tableOk [0x01, 0x23, 0x45, 0x67, 0x89, 0x01, 0x23, 0x45] = true ∧ tableOk (zeros 8) = false) ∧
    (let b := le 2 0 ++ [15, 0] ++ le 4 (32767 * 2 ^ 16) ++ le 4 0 ++ le 4 (32767 * 2 ^ 16)
     (byteAt b 2).toNat < 16 ∧ 2 ^ 16 ≤ fieldLe b 4 4 ∧ fieldLe b 4 4 ≤ 32767 * 2 ^ 16 ∧ fieldLe b 12 4 ≤ fieldLe b 4 4) ∧
    (let s := { up with tal := { stuck := true } }; (reserveAdmin s 65536 []).isNone = true) ∧
    (let s := (atAdmin up 0xE004 (le 2 0)).modEntry 65536 (fun x => { x with polPhase := .idle })
     (s.entry 65536).polPhase = .idle ∧ (quorumRun s 65536 (ownRoster s) [.dev 0] (zeros 48) []).1 = false) := by decide +kernel

/-- A slot of owner 2 that holds an AES-256 transport key. -/
def slot16 : Slot := {
  format := 1
  owner := 2
  prot := 1
  alg := Alg.aes256
  usage := use2 "K0"
  mode := chr 'B'
  exp := chr 'E'
  pol := 0xFF
  klen := 32
  period := 1
  ctr := 0xFFFF
  serve := 1
  copy0 := { state := 1, sel := 0x3F, epoch := 1 } }

theorem test_meets_HamperSealAndRestore :
    (let b := le 2 0 ++ le 2 16 ++ le 4 60 ++ le 8 0x1000 ++ le 8 0x100000
     let u := { up with
       parts := [(0, { state := .frozen, configured := true, dpid := 9 })]
       grn := { present := true, slots := [(16, slot16)] }
       boot := { up.boot with aliasKey := some 1, aliasCert := some [] }
       lc := { up.lc with cert := some [] }
       time := { valid := true } }
     let s := atAdmin u 0xE005 b
     60 ≤ fieldLe b 4 4 ∧ fieldLe b 4 4 ≤ 604800 ∧ (s.part 0).hseq < 2 ^ 32 - 1 ∧ (s.part 0).state = .frozen ∧ (s.part 0).emigrated = false ∧
     inFlight (hamperRecord s 65536 9 1) 1 = 0 ∧ (transportKey (hamperRecord s 65536 9 1) (fieldLe b 2 2)).isSome = true ∧
     (hamperRecord s 65536 9 1).time.valid = true ∧ seenRoom s 9 = true ∧ hamperLen (hamperRecord s 65536 9 1) 0 ≤ fieldLe b 16 8 ∧
     fieldLe b 8 8 + hamperLen s 0 ≤ 2 ^ 64 ∧ (hamperRecord s 65536 9 1).boot.aliasKey = some 1 ∧ drbgServes (hamperRecord s 65536 9 1) 8 = true ∧
     hostGate s true = true ∧ hostGate { s with gates := [] } true = false ∧ fieldLe b 8 8 ≠ 0 ∧
     ((hamperRecord s 65536 9 1).entry 65536).polPhase ≠ .idle) := by decide +kernel

/-- The input of SLOT_MANAGE on slot 16. -/
def slotInput (op : Byte) : Bytes :=
  [op, 2] ++ le 2 16 ++ le 2 0 ++ [1, 0] ++ le 2 1 ++ le 4 0 ++ zeros 2 ++ zeros 4 ++ [Alg.aes256] ++ ascii "K0" ++ [chr 'B', chr 'E', 0xFF] ++ zeros 22

theorem test_meets_SlotAdministration :
    (let r := slotReq (slotInput 1)
     let s := atAdmin { up with grn := { present := true } } 0xE013 (slotInput 1)
     r.op = 1 ∧ 1 ≤ r.owner ∧ r.owner ≤ 3 ∧ slotReqOk r (slotInput 1) = true ∧ (s.entry 65536).desc.handle 0 = 0 ∧
     attrsOk s r = true ∧ slotFree s r = true ∧ s.grn.present = true ∧ (createBarn s).isSome = true ∧ createBarn { s with win := {} } = none ∧
     r.limit = 0 ∧ s.grn.resealPending = false ∧
     (s.slotAt r.slot).high ≠ 0xFFFFFFFF ∧ (s.slotAt r.slot).pub = false) ∧
    (let r := slotReq (slotInput 4)
     let s := atAdmin { up with grn := { present := true, slots := [(16, slot16)], recKey := some 1 }, parts := [(0, { n0 := 64 })] } 0xE013 (slotInput 4)
     r.op = 4 ∧ ownsSlot s r = true ∧ attrsOk s r = true ∧ slot16.copy0.state ≠ 2 ∧
     slot16.copy1.state ≠ 2 ∧ slotServes s r.slot = St.ok ∧ changeOk s slot16 r (templateSpec (attrTemplate r)) = true ∧
     r.sel = (slot16.copy (slot16.serve - 1)).sel ∧ (s.slotAt r.slot).pub = false ∧ slot16.integrity = false ∧ slotAlg slot16.alg = true ∧
     s.grn.present = true ∧ s.grn.recKey.isSome = true ∧ (slotReq (slotInput 5)).op = 5 ∧ (slotReq (slotInput 3)).op = 3 ∧
     ((checkSlot s 16).slotAt 16).damaged = false ∧ drbgServes (checkSlot s 16) 8 = true ∧
     fieldLe r.template 0 4 = 0 ∧ indicesFree (checkSlot s 16) 65536 slot16.recPart 0 1 = true ∧
     (bindBucket (checkSlot s 16) slot16.recPart (slotSpec slot16 16 0) 0).1.isSome = true) ∧
    (resealStuck { up with grn := { slots := [(16, { slot16 with high := 0xFFFFFFFF })] } } 0x3F = true ∧
     resealStuck { up with grn := { slots := [(16, slot16)] } } 0x3F = false) := by decide +kernel

theorem test_meets_OfficersNoncesAndAuthority :
    (let s := atAdmin { up with ofc := { part := (List.range 3).map (fun i => (i, { on := true, alg := 0x11, digest := 1 })) } } 0xE020 []
     let r := enrollOf ([2, 3] ++ le 2 0 ++ [2, 0] ++ le 2 0)
     r.scope = 3 ∧ r.part < 2048 ∧ r.op = 2 ∧ r.alg = 0 ∧ r.plen = 0 ∧ (r.holder s).isSome = true ∧
     (∀ c ∈ allClasses (some r.part), policyM s c ≤ officerCount s (some r.part) - 1) ∧
     (reserveEntry s 65536 0x0202 (r.data s) (some ((r.digest s).drop 28))).isSome = true) ∧
    (let s := atAdmin { up with ofc := { part := (List.range 2).map (fun i => (i, { on := true, alg := 0x11, digest := 1 })) } } 0xE021 []
     let b : Bytes := [3, 3, 0, 0, 2, 0, 0, 0]
     scopePart (byteAt b 0).toNat (fieldLe b 2 2) = some (some 0) ∧ (allClasses (some 0))[(byteAt b 1).toNat]? = some (.part 3 0) ∧
     allZero (slice b 5 3) = true ∧ 2 ≤ (byteAt b 4).toNat ∧ (byteAt b 4).toNat ≤ officerCount s (some 0)) ∧
    (let s := atAdmin up 0xE022 [2, 0, 0, 0]
     s.yoke.mismatch = false ∧ ({ s with yoke := { mismatch := true } } : State).yoke.mismatch = true ∧
     byteAt [2, 0, 0, 0] 0 = (if s.yoke.batonB then 1 else 2) ∧ (if s.yoke.batonB then s.yoke.aState else s.yoke.bState) = .standby) ∧
    (let b : Bytes := [1] ++ zeros 7 ++ le 8 2000000
     let s := atAdmin { up with time := { valid := true, budget := 2000000 } } 0xE030 b
     b.length = 16 ∧ s.time.valid = true ∧ setReason s.time ((s.time.ntime : Int) + signed64 (fieldLe b 8 8)) = 0 ∧
     setReason s.time ((s.time.ntime : Int) + 2000001) ≠ 0) ∧
    (drbgServes up 8 = true ∧ drbgServes State.reset 8 = false ∧ State.reset.ofc.waiting % 2 = 0 ∧ (1 : Word).getLsbD 0 = true ∧
     (Map.get {} State.reset.ofc.nonces 0 : Nonce).on = false) := by decide +kernel

theorem signBytes_length (c : Ec.Curve) (d k : Nat) (x : Bytes) : (Ec.signBytes c d k x).length = 2 * c.len := by
  have hb (n v : Nat) : (Bits.be n v).length = n := by
    have h : ∀ n v, (le n v).length = n := fun n => n.rec (fun _ => rfl) (fun m ih v => congrArg (· + 1) (ih (v / 256)))
    exact (List.length_reverse).trans (h n v)
  unfold Ec.signBytes
  split
  · simp [zeros]
  · rw [List.length_append, hb, hb]; omega

theorem signed_fits {n : Nat} (s : State) (seg : Bytes) (h : seg.length + 96 ≤ n) : (seg ++ (sign384 s 1 seg).1).length ≤ n := by
  rw [List.length_append, sign384, signBytes_length]
  exact h

theorem test_meets_TallyAndImages :
    (let b := le 4 0 ++ le 4 1 ++ zeros 8
     let r := exportReq b
     let s := atAdmin { romUp with boot := { romUp.boot with aliasKey := some 1 } } 0xE040 b
     let seg := exportHeader s r false (exportSel s.tal r) ++ (exportSel s.tal r).flatMap (Tal.shown s)
     assisted s 65536 = false ∧ s.boot.aliasKey = some 1 ∧ b.length = 16 ∧ 1 ≤ r.limit ∧ r.limit ≤ 65536 ∧ allZero (slice b 10 6) = true ∧
     drbgServes s 8 = true ∧ (seg ++ (sign384 s 1 seg).1).length ≤ (s.entry 65536).desc.outCap) ∧
    (let b := le 4 0 ++ zeros 4
     let s := atAdmin { up with tal := { next := 1 } } 0xE041 b
     allZero (slice b 4 4) = true ∧ fieldLe b 0 4 + 1 = s.tal.next ∧ s.tal.stuck = false) ∧
    (let b : Bytes := [2] ++ zeros 259
     let s := atAdmin up 0xE051 b
     byteAt b 0 = 2 ∧ allZero (slice b 1 67) = true ∧ (cfgJudge s 65536 (slice b 68 192)).1 ≠ 0) ∧
    (let s := atAdmin up 0xE051 ([3] ++ zeros 67)
     byteAt ([3] ++ zeros 67) 0 = 3 ∧ allZero (slice ([3] ++ zeros 67) 1 67) = true ∧ s.boot.fallback = false ∧
     (∀ k ∈ declaredRevs s, k ≤ 1024)) ∧
    (let s := atAdmin up 0xE040 []
     (s.entry 65536).phase = .firmware ∧ (s.entry 65536).area = none ∧ s.boot.romService = false ∧ s.yoke.gap = false ∧ (freeArea s).isSome = true ∧
     freeArea { s with dev := {} } = none) := by
  refine ⟨⟨by decide +kernel, by decide +kernel, by decide +kernel, by decide +kernel, by decide +kernel, by decide +kernel, by decide +kernel, ?_⟩,
    by decide +kernel⟩
  exact signed_fits _ _ (by decide +kernel)

/-- The input of a transition from MINTED to SCRAP for this unit. -/
def scrapInput : Bytes := [9, 1, 0, 0] ++ le 8 Config.unitSerial.toNat ++ zeros 116

theorem test_scrapInput_serial : fieldLe scrapInput 4 8 = Config.unitSerial.toNat := by
  have hl (a : Bytes) (h : a.length = 8) (z : Bytes) : fieldLe ([9, 1, 0, 0] ++ a ++ z) 4 8 = ofLe a := by
    show ofLe (fit 8 (([9, 1, 0, 0] ++ a ++ z).drop 4)) = ofLe a
    have e : ([9, 1, 0, 0] ++ a ++ z).drop 4 = a ++ z := by simp
    rw [fit, e, List.length_append, h, ← h, List.take_left, Nat.sub_eq_zero_of_le (by omega)]
    simp [zeros]
  have h := hl (le 8 Config.unitSerial.toNat) rfl (zeros 116)
  rw [ofLe_le] at h
  exact h.trans (Nat.mod_eq_of_lt Config.unitSerial.isLt)

theorem test_meets_LifecycleTransitions :
    (lcFrom (atAdmin romUp 0xE060 [1]) 1 = false ∧ (byteAt [1] 0).toNat = 1) ∧ (byteAt scrapInput 0).toNat = 9 ∧
    fieldLe scrapInput 4 8 = Config.unitSerial.toNat ∧
    (let s := atAdmin romUp 0xE060 scrapInput
     lcFrom s 9 = true ∧ lcForm s (lcReq scrapInput) scrapInput = true ∧ (s.entry 65536).polPhase = .answered ∧
     lcReady s (lcReq scrapInput) = true) := by
  refine ⟨by decide +kernel, by decide +kernel, test_scrapInput_serial, by decide +kernel⟩

/-- `tu` with one block-engine slot of context 0 behind window 0. -/
def beTu (x : BeSlot) (f : Core → Core := fun y => y) : State := { tuCore f with beSlots := [(0, x)] }

theorem test_meets_BlockEngines :
    (let s := tuCore (fun x => { x with s := [(1, secret .k 2), (2, secret .k 2 true), (3, secret .c 0)] })
     Issues s (.tu 0) ∧ ((s.core 0).getS 1).label = .k ∧ ((s.core 0).getS 1).derived = false ∧ ((s.core 0).getS 1).role ≠ 0 ∧
     ((s.core 0).getS 2).derived = true ∧ ((s.core 0).getS 3).label ≠ .k ∧ (beGet s 0 0).key0 = none ∧ (beGet s 0 0).results.length < 8) ∧
    (∀ role ∈ [(1 : Byte), 2, 3, 4, 5, 6, 7, 8, 9, 0xA, 0xB, 0xC], let k := secret .k role
     let s := beTu { key0 := some k }
     Issues s (.tu 0) ∧ (beGet s 0 0).key0 = some k ∧ (beGet s 0 0).key1 = none ∧ (beGet s 0 0).results.length < 8 ∧
     ((3 : BitVec 4).toNat, (beGet s 0 0).key1.isSome, Cipher.Alg.aes, k.bytes) ∈ [(0, false, Cipher.Alg.des, k.bytes.take 8),
       (1, false, .tdes, k.bytes), (3, false, .aes, k.bytes), (6, false, .des, k.bytes.drop 8)]) ∧
    (let k := secret .k 2
     let s := beTu { key0 := some k, key1 := some k }
     (beGet s 0 0).key1 = some k ∧ k.role = k.role ∧
     ((5 : BitVec 4).toNat, (beGet s 0 0).key1.isSome, Cipher.Alg.aes, k.bytes ++ ((beGet s 0 0).key1.getD {}).bytes) ∈
       [(2, true, Cipher.Alg.tdes, k.bytes ++ k.bytes.take 8), (4, true, .aes, k.bytes ++ k.bytes.take 8), (5, true, .aes, k.bytes ++ k.bytes)]) ∧
    (let s := beTu { results := List.replicate 8 { reg := {}, ready := false } }
     Issues s (.tu 0) ∧ 8 ≤ (beGet s 0 0).results.length) ∧
    (let s := beTu { lastEnc := some 7, lastRole := 0x0C, din := { val := 7 } }
     (beGet s 0 0).lastEnc = some 7 ∧ (beGet s 0 0).results.length < 8 ∧ (beGet s 0 0).din.bytes.take 16 = (ofBlock 7).take 16) ∧
    (let s := beTu { lastEnc := some 7, din := { val := 6 } }
     (beGet s 0 0).din.bytes.take 1 ≠ (ofBlock 7).take 1) ∧
    (let s := beTu { results := [{ reg := {}, ready := true }] }
     (beGet s 0 0).results = { reg := {}, ready := true } :: []) ∧
    (let s := beTu { results := [{ reg := {}, ready := true }, { reg := {}, ready := false }] }
     (beGet s 0 0).results = [BeRes.mk {} true] ++ BeRes.mk {} false :: []) ∧
    ((tu.core 0).phase = .running ∧ (tu.request 0).state = .reserved ∧ (tu.request 0).accepted = true) := by
  unfold Issues
  refine ⟨by decide +kernel, by decide +kernel, by decide +kernel, by decide +kernel, by decide +kernel, by decide +kernel, by decide +kernel,
    by decide +kernel, by decide +kernel⟩

/-- `tu`, whose request has bulk engine 0. -/
def bulkTu (y : Bae) (f : Core → Core := fun x => x) : State := { tuCore f with baes := [(0, { y with owner := .request })] }

/-- An AES-GCM parameter block: so many payload bytes from address 0x1000, a 12-byte IV and a 16-byte tag. -/
def gcmBlock (len : Nat) : Bytes := le 8 len ++ le 8 0x1000 ++ zeros 16 ++ [12, 16, 0, 0, 0, 0, 0, 0] ++ zeros 32

/-- A message that waits for its end: no payload, drawn by none. -/
def gcmMsg : BulkMsg := { fn := 0x6001, key := zeros 16, iv := zeros 12, tagLen := 16, len := 32 }

theorem test_meets_BulkMessages :
    (let s := bulkTu {} (fun x => { x with s := [(1, secret .k 0xD), (2, secret .k 1)] })
     Issues s (.tu 0) ∧ (s.core 0).member = 0 ∧ baeOf s 0 = some 0 ∧ (s.bae 0).owner = .request ∧ (s.bae 0).entry = 0 ∧
     (∀ m ∈ (s.bae 0).susp, m.entry ≠ 0) ∧ (s.bae 0).selftest = false ∧ ((s.core 0).getS 1).role = 0xD ∧ ((s.core 0).getS 1).label = .k ∧
     ((s.core 0).getS 1).derived = false ∧ ((s.core 0).getS 2).role ≠ 0xD) ∧
    (∀ len ∈ [0, 2 ^ 36 - 31, 2 ^ 20],
     let s := { bulkTu { keyParts := [secret .k 0xD] } with
       entries := [(0, { state := .reserved, phase := .running, func := 1, accepted := true, group := [0], input := some (gcmBlock len),
                         desc := { fn := 0x6001, handles := [mkHandle 0 5 7], outCap := 64 }, lookAlg := [(0, Alg.aes128)] })]
       parts := tuRec.parts }
     let m := parseBulk 0 0x6001 (secret .k 0xD).bytes (gcmBlock len)
     (s.request 0).input = some (gcmBlock len) ∧ (s.bae 0).msg = none ∧ (s.bae 0).keyParts ≠ [] ∧
     (s.bae 0).keyParts.length = bulkParts (Map.get 0 (s.request 0).lookAlg 0) ∧
     bulkLimits m = decide (len ≠ 2 ^ 36 - 31) ∧ (len = 0 → bulkOut m ≤ (s.request 0).desc.outCap) ∧
     (len = 2 ^ 20 → (s.request 0).desc.outCap < bulkOut m) ∧ m.drawn = false) ∧
    (let s := tuRec; (s.bae 0).keyParts.length ≠ bulkParts Alg.aes128) ∧
    (Issues tu (.tu 0) ∧ baeOf tu 0 = none) ∧
    (let s := bulkTu { msg := some gcmMsg }
     (s.bae 0).owner = .request ∧ (s.bae 0).msg = some gcmMsg ∧ gcmMsg.ended = none ∧ bulkStale s gcmMsg = false ∧ gcmMsg.drawn = false ∧
     linkWaits s (dieOfBae 0) = false ∧ linkWaits (s.setLink 0 { retraining := true }) (dieOfBae 0) = true ∧ hostGate s false = false ∧
     hostGate { s with gates := up.gates } false = true ∧ hostGate { s with gates := up.gates } true = true ∧
     (s.entry gcmMsg.entry).state = .reserved ∧ (s.entry gcmMsg.entry).accepted = true ∧
     bulkStale (s.modEntry 0 (fun x => { x with gen := 1 })) gcmMsg = true) := by
  unfold Issues; decide +kernel

theorem test_meets_BulkEngineOwnership :
    (let s := bulkTu { urgent := [5], msg := none }
     (s.bae 0).urgent = 5 :: [] ∧ (s.bae 0).owner = .request ∧ (s.bae 0).selftest = false ∧ linkWaits s (dieOfBae 0) = false ∧ (s.bae 0).msg = none ∧
     (∀ m ∈ (s.bae 0).susp, m.entry ≠ (s.bae 0).entry) ∧ (s.bae 0).susp.length < 2 ∧ ((bulkTu {}).bae 0).urgent = [] ∧
     linkWaits (s.setLink 0 { retraining := true }) (dieOfBae 0) = true ∧ gcmMsg.entry = ((bulkTu { urgent := [5], susp := [gcmMsg] }).bae 0).entry) ∧
    (let s := { bulkTu { urgent := [1], msg := some gcmMsg } with gates := up.gates }
     (s.bae 0).urgent = 1 :: [] ∧ (s.bae 0).owner = .request ∧ (s.bae 0).susp.length < 2 ∧ (s.bae 0).selftest = false ∧
     linkWaits s (dieOfBae 0) = false ∧ hostGate s false = true ∧ hostGate s true = true ∧
     gcmMsg.ended = none ∧ gcmMsg.pos + 16 * 1 < gcmMsg.len ∧ gcmMsg.len ≤ gcmMsg.pos + 16 * 2 ∧ bulkStale s gcmMsg = false ∧ gcmMsg.drawn = false) ∧
    (let s := bulkTu { susp := [gcmMsg] }
     (s.bae 0).susp = gcmMsg :: [] ∧ (s.bae 0).entry = gcmMsg.entry ∧ (s.bae 0).msg = none ∧ gcmMsg.fn ≠ 0) ∧
    (let s := bulkTu { msg := some gcmMsg, alarms := [0, 0] }
     (s.bae 0).owner ≠ .retired ∧ withinSpan (noteTime (s.bae 0).alarms s.tmr.now 3) 3 1000000000 = true ∧
     withinSpan (noteTime ((bulkTu {}).bae 0).alarms s.tmr.now 3) 3 1000000000 = false ∧ (s.entry 0).state = .reserved ∧ (s.entry 0).accepted = true) ∧
    ((bulkTu { selftest := true }).bae 0).selftest = true ∧ (tu.bae 0).owner = .free ∧ tu.yoke.batonB = false ∧
    (({ tu with baes := [(0, { owner := .warden })] } : State).bae 0).owner = .warden := by decide +kernel

/-! Big-number engine 0 in the hands of context 0 -/

def bnTu (y : Bne) (w : Winnower := up.win) : State := { tu with win := w, bnes := [(0, { y with owner := some 0 })] }

theorem ownsBn (y : Bne) (h : y.run = none) {w : Winnower} : OwnsBne (bnTu y w) 0 0 where
  issues := ⟨rfl, rfl, (by decide : 0 < codeEnd tu (.tu 0)), rfl⟩
  lead := rfl
  owner := rfl
  idle := h

theorem bnReady (y : Bne) (named : List (Fin 16)) (h : y.run = none) (hs : ∀ i ∈ named, (y.slot i).on = true) {w : Winnower} :
    BneReady (bnTu y w) 0 0 named :=
  ⟨ownsBn y h, (fun f hf => nomatch hf), hs⟩

/-- Operand memory with numbers in slots of the given words, laid out in order; each slot has its label, role and algorithm. -/
def bnWith (xs : List (Nat × Nat × BnSlot)) : Bne :=
  let starts := xs.foldl (fun (p : Nat × List Nat) x => (p.1 + x.1, p.2 ++ [p.1])) (0, [])
  let st (i : Nat) : Nat := starts.2.getD i 0
  let ns := xs.zip (List.range xs.length)
  { slots := ns.map (fun x => (x.2, { x.1.2.2 with on := true, start := st x.2, len := x.1.1 }))
    mem := ns.flatMap (fun x => (bnWords (st x.2) (le (8 * x.1.1) x.1.2.1)).filter (fun w => w.2 ≠ 0))
    used := starts.1 }

theorem test_meets_BigNumberJobs :
    (Issues tu (.tu 0) ∧ (tu.core 0).member = 0 ∧ (∀ m ∈ List.range 6, (tu.bne (bneOf 0 m)).owner ≠ some 0) ∧ bneFree (tu.bne 0) = true) ∧
    (let s : State := { tu with bnes := (List.range 6).map (fun i => (i, { owner := some 1 })) }
     (∀ m ∈ List.range 6, (s.bne (bneOf 0 m)).owner ≠ some 0) ∧ ∀ j ∈ List.range 6, bneFree (s.bne (bneOf 0 j)) = false) ∧
    (let y := (bnTu {}).bne 0
     y.owner = some 0 ∧ y.closed = false ∧ (y.slot 3).on = false ∧ (0x10 : Word).toNat / 16 % 2 ^ 14 ≠ 0 ∧
     y.used + (0x20000 : Word).toNat / 16 % 2 ^ 14 ≤ 8192 ∧ 8192 < y.used + (0x20010 : Word).toNat / 16 % 2 ^ 14) ∧
    (let y := bnWith [(4, 5, {}), (4, 5, { label := .k })]
     (y.slot y.ptrSlot).on = true ∧ y.ptrPos < 2 * (y.slot y.ptrSlot).len ∧ (y.slot y.ptrSlot).label = .p ∧
     (y.slot 1).label ≠ .p ∧ (y.slot 1).label ≠ .c ∧ (y.slot 2).on = false) ∧
    (∀ m ∈ List.range 6, m ≠ 0 → ((bnTu {}).bne (bneOf 0 m)).owner ≠ some 0) ∧
    (let s := bnTu { run := some {} }; Issues s (.tu 0) ∧ (s.core 0).member = 0 ∧ (s.bne 0).owner = some 0 ∧ (s.bne 0).run.isSome = true) ∧
    (let s := { bnTu { faults := [0, 0] } with barns := [(0, { claims := [(1, 0)] })] }
     (s.bne 0).retired = false ∧ (s.bne 0).owner.isSome = true ∧ withinSpan (noteTime (s.bne 0).faults s.tmr.now 3) 3 1000000000 = true ∧
     (s.request 0).state = .reserved ∧ (s.barn (barnOfBne 0)).claims = (1, 0) :: []) ∧
    (let z : Bne := { selftest := true }; z.selftest = true ∧ z.owner = none ∧ z.wiping = false ∧ z.clearing = false ∧ z.needTest = false ∧ z.retired = false) ∧
    (let z : Bne := { clearing := true }; z.clearing = true ∧ z.retired = false ∧ z.needTest = false) ∧
    (let z : Bne := { wiping := true }; z.wiping = true ∧ z.retired = false ∧ z.needTest = false ∧ z.owner = none) := by
  unfold Issues; decide +kernel

/-- A state whose record 5 is the first of a P-256 key that signs. -/
def bnRec : State := { tuEntry (fun x => { x with desc := { fn := 0x5003, handles := [mkHandle 0 5 7], outCap := 8 } }) with
  ldr := { tu.ldr with banks := [(0, { ok := true, fns := [⟨0x5003, 2, 0, 0, 100⟩], code := zeros 64 })] }
  parts := tuRec.parts
  dev := up.dev
  gates := tuRec.gates
  hbm := [(1, {
    inService := true
    valid := [(0, true)]
    lines := [(10, Hbm.ofLine (le 2 0 ++ [1, Alg.p256] ++ le 4 (7 + 2 * 2 ^ 24) ++ ascii "S0" ++ [chr 'S', chr 'E', 0xFF, 0, 0xFF, 0xFF]))] })] }

theorem test_meets_BigNumberTransfers :
    (OwnsBne (bnTu (bnWith [(4, 5, {}), (4, 5, { label := .k })])) 0 0) ∧
    (let y := bnWith [(4, 5, {}), (4, 5, { label := .k })]
     let s := (bnTu y).modEntry 0 (fun x => { x with input := some (zeros 64) })
     (y.slot 0).on = true ∧ 0 < (0x83 : Word).toNat / 4 % 2 ^ 16 ∧ 4 * y.ptrPos + 8 * (((0x82 : Word).toNat / 4 % 2 ^ 16 + 7) / 8) ≤ 8 * (y.slot 0).len ∧
     (0x82 : Word).getLsbD 0 = false ∧ (s.request 0).input = some (zeros 64) ∧ (0x83 : Word).getLsbD 0 = true ∧ (y.slot 0).label = .p ∧
     (y.slot 1).label ≠ .p ∧ (y.slot 1).label ≠ .c ∧ y.closed = false ∧ (s.request 0).desc.handle 0 = 0) ∧
    (let s := bnTu { bnWith [(4, 5, {})] with }
     let r := secret .k 0x10
     s.core 0 = { phase := .running } ∧ r.label = .k ∧ r.derived = false ∧ r.role = 0x10 ∧ (secret .k 1).role ≠ 0x10 ∧ (secret .k 1).role ≠ 0x11 ∧
     ((s.bne 0).slot 0).on = true ∧ 4 * (s.bne 0).ptrPos + 16 ≤ 8 * ((s.bne 0).slot 0).len ∧ ((s.bne 0).slot 0).storable = false) ∧
    (let y := bnWith [(4, 5, { label := .k, storable := true, alg := sharedAlg 4 })]
     let t : Bytes := le 4 6 ++ [Alg.aes256] ++ ascii "K0" ++ [chr 'B', chr 'E', 0xFF] ++ zeros 22
     (y.slot 0).on = true ∧ (y.slot 0).storable = true ∧ (storedKey y 0 (templateSpec (t.take 32)).alg).isSome = true ∧ templateOk tuRec 0 (t.take 32) = true ∧
     CanCreate { tuRec with grn := { present := true } } .bne 0 (templateSpec (t.take 32)) (zeros 32) ∧
     ((bnTu y).modEntry 0 (fun x => { x with recResv := some (6, 1) }) |>.request 0).recResv.isSome = true) ∧
    (let s := bnTu { closed := true }
     (s.bne 0).closed = true ∧ ((bnTu {}).request 0).desc.handle 0 = 0 ∧ (bnRec.request 0).desc.handle 0 ≠ 0 ∧
     (recLoc (bnRec.part 0) (handleIdx (mkHandle 0 5 7))).isSome = true ∧ recGate { bnRec with gates := [] } .bne 0 5 false = false ∧
     keyUnread bnRec 0 (mkHandle 0 5 7) = []) ∧
    (let s := bnTu { run := some { status := St.rngUnavailable, draw := some (0x22, { a := 0, b := 0, k := 0, d := 0, param := 0 }, []) } } {}
     ((s.bne 0).run.getD {}).draw.isSome = true ∧ drbgServes s (barnOfBne 0) = false) ∧
    (let q : BnPend := { words := [(0, 1), (1, 2)], slots := [(0, {})] }
     ((bnTu { run := some q }).bne 0).run = some q ∧ q.draw = none ∧ q.bad = false ∧ ({ q with bad := true } : BnPend).bad = true ∧
     q.words.Pairwise (fun a b => a.1 ≠ b.1) ∧ q.slots.Pairwise (fun a b => a.1 ≠ b.1)) := by
  unfold CanCreate
  refine ⟨ownsBn _ rfl, by decide +kernel, by decide +kernel, by decide +kernel, by decide +kernel, by decide +kernel, by decide +kernel⟩

theorem test_meets_BigNumberTransfers_key :
    recGate bnRec .bne 0 (handleIdx (mkHandle 0 5 7)) false = true ∧
    (let key := recAttrs (recBytes bnRec 0 5)
     bnKeyRole (bnRec.request 0).desc.fn.toNat 0 key.usage key.mode key.alg = true ∧ windowStatus key.nb key.na none = St.ok ∧
     counterStatus bnRec key.slotRef = St.ok ∧ slotStatus bnRec key.slotRef = St.ok ∧ keyLayout key.alg 96 = [(4, .k), (8, .p)]) := by
  decide +kernel

/-- An idle engine's operands: a, b and m in slots 0 to 2 with 4 words each, 8 words for the result in slot 3. -/
def ints (a b m : Nat) : Bne := bnWith [(4, a, {}), (4, b, {}), (4, m, {}), (8, 0, {})]

/-- Operands 0, 1, 2 and 3 of a command. -/
def args (param : BitVec 8) : BneArgs := { a := 0, b := 1, k := 2, d := 3, param := param }

theorem test_meets_BigNumberPrimitives :
    BneReady (bnTu (ints 5 3 7)) 0 0 [0, 1, 2, 3] ∧
    (let y := ints 5 3 7
     4 ≤ (y.slot 2).len ∧ (y.slot 0).len = (y.slot 2).len ∧ (y.slot 1).len = (y.slot 2).len ∧ (y.slot 2).len ≤ (y.slot 3).len ∧
     y.int 0 = 5 ∧ y.int 1 = 3 ∧ y.int 2 = 7 ∧ (y.slot 0).len + (y.slot 1).len ≤ (y.slot 3).len) ∧
    BneReady (bnTu (ints 9 3 7)) 0 0 [0, 1, 2, 3] ∧ (ints 9 3 7).int 2 ≤ (ints 9 3 7).int 0 ∧
    BneReady (bnTu (ints 5 3 8)) 0 0 [0, 1, 2, 3] ∧ (ints 5 3 8).int 0 < (ints 5 3 8).int 2 ∧ (ints 5 3 8).int 1 < (ints 5 3 8).int 2 ∧
    (ints 5 3 8).int 2 % 2 = 0 ∧
    (let y := bnWith [(4, 5, {}), (4, 3, {}), (8, 7, {}), (8, 0, {})]
     BneReady (bnTu y) 0 0 [0, 1, 2, 3] ∧ (y.slot 0).len ≠ (y.slot 2).len) := by
  refine ⟨bnReady _ _ rfl (by decide +kernel), by decide +kernel, bnReady _ _ rfl (by decide +kernel), by decide +kernel,
    bnReady _ _ rfl (by decide +kernel), by decide +kernel, by decide +kernel, by decide +kernel, bnReady _ _ rfl (by decide +kernel), by decide +kernel⟩

/-- The base point of P-256 in slot 0, the scalar 1 in slot 1, zeros elsewhere. -/
def point : Bne := bnWith [(8, Ec.p256.gx + 2 ^ 256 * Ec.p256.gy, {}), (4, 1, { label := .k, role := 0x0F, alg := Alg.p256 }), (8, 0, {}), (8, 0, {})]

theorem test_meets_BigNumberPoints :
    BneReady (bnTu point) 0 0 [0, 1, 2, 3] ∧ (4 : Nat) * 2 ≤ (point.slot 0).len ∧ 4 * 2 ≤ (point.slot 3).len ∧
    (let px := ofLe ((point.bytes 0).take 32)
     let py := ofLe (((point.bytes 0).drop 32).take 32)
     (px ≠ 0 ∨ py ≠ 0) ∧ Ec.onCurve Ec.p256 px py = true) ∧
    Ec.onCurve Ec.p256 (ofLe ((point.bytes 1).take 32)) (ofLe (((point.bytes 1).drop 32).take 32)) = false ∧
    ((0 : BitVec 8).toNat % 4, Ec.p256, 4) ∈ [(0, Ec.p256, 4), (1, Ec.p384, 6), (2, Ec.p521, 9)] := by
  refine ⟨bnReady _ _ rfl (by decide +kernel), by decide +kernel⟩

theorem test_meets_BigNumberRings :
    (let y := bnWith [(128, 5, {}), (128, 3, {}), (4, 0, {}), (128, 0, {})]
     BneReady (bnTu y) 0 0 [0, 1, 3] ∧ (y.slot 0).len ≠ 0 ∧ (y.slot 0).len % 128 = 0 ∧ (y.slot 1).len = (y.slot 0).len ∧
     (let polys (i : Nat) : List (List Nat) := (chunks 1024 (y.bytes i)).map (fun p => (chunks 4 p).map (fun w => ofLe w % 3329))
      ((List.zipWith (Ring.addP 3329) (polys 0) (polys 1)).flatMap (fun p => p.flatMap (le 4))).length ≤ 8 * (y.slot 3).len ∧
      (((polys 0).map Ring.nttK).flatMap (fun p => p.flatMap (le 4))).length ≤ 8 * (y.slot 3).len)) := by
  refine ⟨bnReady _ _ rfl (by decide +kernel), by decide +kernel⟩

/-- A 512-bit RSA key in slots 2 to 8: the message in slot 0, the salt length 0 in slot 1, the signature in slot 9. -/
def rsaEngine : Bne :=
  let p := 0xe02fdaa1ad864c44e049548e8a0a8c9632ea6928f6236bf2504b74ba4a0fe75d
  let q := 0xc45dab24e9813f745813987b92c1fc2def72c85372789150808e32c1afec042d
  bnWith [(4, 1, {}), (1, 0, {}), (8, p * q, { role := 0x0E, alg := Alg.rsa }), (1, 65537, {}), (4, p, {}), (4, q, {}),
    (4, 0xb06a77ed8a9388291b2619782180b3a8ee6030689f68b86572722e64fa2b11b1, {}),
    (4, 0x5c99735087d0cc5498083d9ae07d1be7a9882e51b3a4899a35d558b81fb6a3cd, {}),
    (4, 0xc20d5408b7618238dc94dbee17336613b73e436ea4932d434c1992e9c28f1f5d, {}), (8, 0, {})]

theorem test_meets_BigNumberSignatures_rsa :
    BneReady (bnTu rsaEngine) 0 0 [0, 1, 2, 9] ∧ BneMessage (bnTu rsaEngine) 0 0 0 (rsaEngine.bytes 0) ∧
    BneDigest 0x21 .sha256 (rsaEngine.bytes 0) (rsaEngine.bytes 0) ∧ (rsaEngine.slot 2).role = 0x0E ∧ (rsaEngine.slot 2).alg = Alg.rsa ∧
    (rsaSignDigest (rsaEngine.group 2 7) .sha256 false (rsaEngine.bytes 0) []).isSome = true ∧ (rsaEngine.slot 3).on = true ∧
    (rsaEngine.slot 2).role ≠ 0x0F ∧ (0x41 : BitVec 8).getLsbD 6 = true ∧ rsaEngine.word0 1 = 0 ∧
    8 * (rsaEngine.slot 2).len < (bnWith [(4, 1, {}), (1, 65, {}), (8, 3, { role := 0x0E, alg := Alg.rsa })]).word0 1 := by
  refine ⟨bnReady _ _ rfl (by decide +kernel), .inl ⟨by decide, by decide +kernel, rfl⟩, ⟨by decide, ?_⟩, by decide +kernel⟩
  exact (by decide +kernel : rsaEngine.bytes 0 = fit (Hash.digestLen .sha256) (rsaEngine.bytes 0))

/-- A key of each kind in slot 2, with room in slot 3: an ECDSA key, an agreement key, an HMAC key, a verification key. -/
def signer (role alg : Byte) : Bne :=
  bnWith [(8, Ec.p256.gx + 2 ^ 256 * Ec.p256.gy, {}), (8, 16, {}), (4, 1, { role := role, alg := alg }), (8, 0, {}), (4, 0, {})]

theorem test_meets_BigNumberSignatures_curves :
    BneReady (bnTu (signer 0x0E Alg.p256)) 0 0 [0, 1, 2, 3] ∧ BneMessage (bnTu (signer 0x0E Alg.p256)) 0 0 0 ((signer 0x0E Alg.p256).bytes 0) ∧
    (let y := signer 0x0E Alg.p256
     (y.slot 2).role = 0x0E ∧ Alg.isEcc (y.slot 2).alg = true ∧ curveOf (y.slot 2).alg = some Ec.p256 ∧ 2 * curveWords Ec.p256 ≤ (y.slot 3).len ∧
     drbgServes (bnTu y) 0 = true ∧ drbgServes (bnTu y {}) 0 = false ∧ ((y.slot 4).len, Ec.p256) ∈ [(4, Ec.p256), (6, Ec.p384), (9, Ec.p521)] ∧
     2 * curveWords Ec.p256 ≤ (y.slot 0).len ∧ 2 * curveWords Ec.p256 ≤ (y.slot 1).len) := by
  refine ⟨bnReady _ _ rfl (by decide +kernel), .inl ⟨by decide, by decide +kernel, rfl⟩, by decide +kernel⟩

theorem test_meets_BigNumberSignatures_agreement :
    BneReady (bnTu (signer 0x0F Alg.p256)) 0 0 [0, 1, 2, 3] ∧
    (let y := signer 0x0F Alg.p256
     (y.slot 2).role = 0x0F ∧ curveOf (y.slot 2).alg = some Ec.p256 ∧ 2 * curveWords Ec.p256 ≤ (y.slot 0).len ∧
     (32 : BitVec 8).toNat ∈ [16, 24, 32, 64] ∧ (32 : BitVec 8).toNat ≤ 8 * (y.slot 3).len ∧
     wordsPoint Ec.p256 (y.bytes 0) = some (Ec.p256.gx, Ec.p256.gy) ∧ wordsPoint Ec.p256 (y.bytes 1) = none ∧
     (Ec.smul Ec.p256 (y.int 2) (some (Ec.p256.gx, Ec.p256.gy))).isSome = true ∧ Ec.smul Ec.p256 0 (some (Ec.p256.gx, Ec.p256.gy)) = none) ∧
    (∀ z info, (Hash.oneStep .sha256 z info 32).length ≤ 8 * ((signer 0x0F Alg.p256).slot 3).len) := by
  refine ⟨bnReady _ _ rfl (by decide +kernel), by decide +kernel, fun z info => ?_⟩
  exact Nat.le_trans (List.length_take_le _ _) (by decide +kernel)

theorem test_meets_BigNumberSignatures_macs :
    BneReady (bnTu (signer 0x10 0)) 0 0 [0, 1, 2, 3] ∧ BneMessage (bnTu (signer 0x10 0)) 0 0 0 ((signer 0x10 0).bytes 0) ∧
    ((signer 0x10 0).slot 2).role = 0x10 ∧ ((signer 0x11 0).slot 2).role = 0x11 ∧ Hash.ofByte ((1 : BitVec 8).toNat % 32) = some .sha256 ∧
    (1 : BitVec 8).getLsbD 5 = false ∧ (∀ k m, ((Hash.hmac .sha256 k m).take ((signer 0x10 0).word0 1 % 256)).length ≤ 8 * ((signer 0x10 0).slot 3).len) ∧
    (Hash.hash .sha256 ((signer 0x10 0).bytes 0)).length ≤ 8 * ((signer 0x10 0).slot 3).len := by
  refine ⟨bnReady _ _ rfl (by decide +kernel), .inl ⟨by decide, by decide +kernel, rfl⟩, by decide, by decide, by decide, by decide,
    fun k m => Nat.le_trans (List.length_take_le _ _) (by decide +kernel), by decide +kernel⟩

/-- An Ed25519 key: the scalar 1, a prefix and the encoded base point in slots 2 to 4. -/
def edSigner : Bne := bnWith [(4, 7, {}), (8, 0, {}), (4, 1, { role := 0x0E, alg := Alg.ed25519 }), (4, 2, {}), (4, 3, {}), (8, 0, {})]

theorem le_length (n v : Nat) : (le n v).length = n := by
  have h : ∀ n v, (le n v).length = n := fun n => n.rec (fun _ => rfl) (fun m ih v => congrArg (· + 1) (ih (v / 256)))
  exact h n v

theorem test_meets_BigNumberSignatures_ed :
    BneReady (bnTu edSigner) 0 0 [1, 2, 5] ∧ BneMessage (bnTu edSigner) 0 0 0 (edSigner.bytes 0) ∧ (edSigner.slot 2).role = 0x0E ∧
    (edSigner.slot 2).alg = Alg.ed25519 ∧ (∀ a p k m, (Ed.sign a p k m).length ≤ 8 * (edSigner.slot 5).len) ∧ 4 ≤ (edSigner.slot 2).len ∧
    8 ≤ (edSigner.slot 1).len := by
  refine ⟨bnReady _ _ rfl (by decide +kernel), .inl ⟨by decide, by decide +kernel, rfl⟩, by decide +kernel, by decide +kernel, fun a p k m => ?_,
    by decide +kernel⟩
  have h : (Ed.sign a p k m).length = 64 := by
    unfold Ed.sign Ed.encode
    rw [List.length_append, le_length, le_length]
  rw [h]; decide +kernel

theorem fit_length (n : Nat) (b : Bytes) : (fit n b).length = n := by
  unfold fit zeros
  rw [List.length_append, List.length_take, List.length_replicate]
  omega

/-- Room for a generated key from slot 3 on: the parts of a P-256 key, or of a 2,048-bit RSA key. -/
def genRoom : Bne := bnWith [(4, 2048, {}), (4, 65537, {}), (4, 0, {}), (32, 0, {}), (8, 0, {}), (16, 0, {}), (16, 0, {}), (16, 0, {}), (16, 0, {}), (16, 0, {})]

theorem test_meets_BigNumberKeys :
    drbgServes (bnTu genRoom) 0 = true ∧ drbgServes (bnTu genRoom {}) 0 = false ∧ BneReady (bnTu genRoom) 0 0 [0, 1, 2, 3] ∧
    BneReady (bnTu genRoom {}) 0 0 [0, 1, 2, 3] ∧ genRoom.word0 0 = 2048 ∧ genRoom.word0 1 = 65537 ∧
    (∀ u, let key := (generateKey u 0 Alg.p256 0 0).1
      keyLayout Alg.p256 key.length = [(4, .k), (8, .p)] ∧
      ∀ j, j < 2 → (genRoom.slot (3 + j)).on = true ∧ ((keyParts Alg.p256 key).getD j []).length ≤ 8 * (genRoom.slot (3 + j)).len) ∧
    (∀ u, let key := (generateKey u 0 Alg.rsa 2048 65537).1
      keyLayout Alg.rsa key.length = [(32, .p), (1, .p), (16, .k), (16, .k), (16, .k), (16, .k), (16, .k)] ∧
      ∀ j, j < 7 → (genRoom.slot (3 + j)).on = true ∧ ((keyParts Alg.rsa key).getD j []).length ≤ 8 * (genRoom.slot (3 + j)).len) := by
  refine ⟨by decide +kernel, by decide +kernel, bnReady _ _ rfl (by decide +kernel), bnReady _ _ rfl (by decide +kernel), by decide +kernel,
    by decide +kernel, fun u => ⟨rfl, fun j hj => ?_⟩, fun u => ?_⟩
  · have h : ∀ k : Bytes, (keyParts Alg.p256 k).length = 2 := fun k => rfl
    match j, hj with
    | 0, _ => exact ⟨by decide +kernel, Nat.le_trans (Nat.le_of_eq (fit_length 32 _)) (by decide +kernel)⟩
    | 1, _ => exact ⟨by decide +kernel, Nat.le_trans (Nat.le_of_eq (fit_length 64 _)) (by decide +kernel)⟩
  · have hk : (generateKey u 0 Alg.rsa 2048 65537).1.length = 904 := by
      show (wordForm 32 _ ++ wordForm 1 _ ++ wordForm 16 _ ++ wordForm 16 _ ++ wordForm 16 _ ++ wordForm 16 _ ++ wordForm 16 _).length = 904
      simp only [List.length_append, wordForm, le_length]
    have hp : keyLayout Alg.rsa (generateKey u 0 Alg.rsa 2048 65537).1.length =
        [(32, .p), (1, .p), (16, .k), (16, .k), (16, .k), (16, .k), (16, .k)] := by rw [hk]; decide
    refine ⟨hp, fun j hj => ?_⟩
    unfold keyParts
    rw [hp]
    match j, hj with
    | 0, _ => exact ⟨by decide +kernel, Nat.le_trans (Nat.le_of_eq (fit_length 256 _)) (by decide +kernel)⟩
    | 1, _ => exact ⟨by decide +kernel, Nat.le_trans (Nat.le_of_eq (fit_length 8 _)) (by decide +kernel)⟩
    | 2, _ => exact ⟨by decide +kernel, Nat.le_trans (Nat.le_of_eq (fit_length 128 _)) (by decide +kernel)⟩
    | 3, _ => exact ⟨by decide +kernel, Nat.le_trans (Nat.le_of_eq (fit_length 128 _)) (by decide +kernel)⟩
    | 4, _ => exact ⟨by decide +kernel, Nat.le_trans (Nat.le_of_eq (fit_length 128 _)) (by decide +kernel)⟩
    | 5, _ => exact ⟨by decide +kernel, Nat.le_trans (Nat.le_of_eq (fit_length 128 _)) (by decide +kernel)⟩
    | 6, _ => exact ⟨by decide +kernel, Nat.le_trans (Nat.le_of_eq (fit_length 128 _)) (by decide +kernel)⟩

/-- A lattice key in slot 2, its input in slot 0 and room for its results in slots 3 and 4. -/
def lattice (role alg : Byte) (input : Nat) : Bne :=
  bnWith [(148, input, {}), (4, 0, {}), (300, 0, { role := role, alg := alg }), (500, 0, {}), (4, 0, {})]

theorem test_meets_BigNumberLattices :
    BneReady (bnTu (lattice 0x0F Alg.mlkem768 0)) 0 0 [0, 1, 2, 3] ∧
    (let y := lattice 0x0F Alg.mlkem768 0
     (y.slot 2).role = 0x0F ∧ Alg.isMlkem (y.slot 2).alg = true ∧ 1088 ≤ 8 * (y.slot 0).len ∧ (y.slot 4).on = true ∧ 136 ≤ (y.slot 3).len ∧
     4 ≤ (y.slot 4).len) ∧
    MlKem.ekOk (MlKem.par false) (List.replicate 1184 0) = true ∧ MlKem.ekOk (MlKem.par false) (List.replicate 1184 0xFF) = false ∧
    (let y := lattice 0x0E Alg.mldsa65 0
     (y.slot 2).role = 0x0E ∧ Alg.isMldsa (y.slot 2).alg = true) ∧
    (let s := { bnTu (ints 5 3 7) with dev := { flips := [(.bneMem 0 1, 3)] } }
     OwnsBne s 0 0 ∧ (∀ i ∈ [(0 : Fin 16), 1, 2, 3], ((s.bne 0).slot i).on = true) ∧ (readUnits s (bneFlips s 0)).1 = true ∧
     (s.request 0).state = .reserved ∧ (s.request 0).accepted = true) := by
  refine ⟨bnReady _ _ rfl (by decide +kernel), by decide +kernel, by decide +kernel, by decide +kernel, by decide +kernel,
    { issues := ⟨rfl, rfl, by decide +kernel, by decide +kernel⟩, lead := rfl, owner := rfl, idle := rfl }, by decide +kernel⟩

/-- `up` in a life-cycle state. -/
def upLc (code : Nat) (u : State := up) : State := { u with lc := { u.lc with otp := { u.lc.otp with state := BitVec.ofNat _ code } } }

theorem arrivesSys (s : State) (c : InitClass) (a : BitVec 40) (w : Bool)
    (h : reachable s (.sys c a) = true ∧ a.toNat % 4 = 0 ∧ dieAnswers s a.toNat = true ∧ dieGated s a.toNat = false ∧ gateAllows s c a.toNat w = true) :
    Arrives s (.sys c a) w :=
  ⟨h.1, h.2.1, fun _ _ e => by cases e; exact h.2.2⟩

theorem arrivesBar (o : BitVec 26) (h : o.toNat % 4 = 0) : Arrives up (.pfBar0 o) true := ⟨rfl, h, fun _ _ e => nomatch e⟩
theorem arrivesMsix (o : BitVec 12) (h : o.toNat % 4 = 0) : Arrives up (.pfBar2 o) true := ⟨rfl, h, fun _ _ e => nomatch e⟩

theorem test_meets_RegisterWrites_pages :
    (Arrives up (.sys .warden 0x30004018) true ∧ placeOf (.sys .warden 0x30004018) = .blk .sch 0x018) ∧
    (Arrives up (.sys .warden 0x30004038) true ∧ placeOf (.sys .warden 0x30004038) = .blk .sch 0x038) ∧
    (Arrives up (.sys .warden 0x30004010) true ∧ placeOf (.sys .warden 0x30004010) = .blk .sch 0x010) ∧
    (Arrives up (.sys .warden 0x30004020) true ∧ placeOf (.sys .warden 0x30004020) = .blk .sch 0x020) ∧
    (Arrives up (.sys .warden 0x30004024) true ∧ placeOf (.sys .warden 0x30004024) = .blk .sch 0x024) ∧
    (Arrives (upLc lcTest) (.sys .warden 0x3000402C) true ∧ lcCode (upLc lcTest) = lcTest) ∧
    (Arrives (upLc lcMinted) (.sys .warden 0x3000402C) true ∧ lcCode (upLc lcMinted) ≠ lcTest) := by
  refine ⟨⟨arrivesSys _ _ _ _ ?_, ?_⟩, ⟨arrivesSys _ _ _ _ ?_, ?_⟩, ⟨arrivesSys _ _ _ _ ?_, ?_⟩, ⟨arrivesSys _ _ _ _ ?_, ?_⟩,
    ⟨arrivesSys _ _ _ _ ?_, ?_⟩, ⟨arrivesSys _ _ _ _ ?_, ?_⟩, ⟨arrivesSys _ _ _ _ ?_, ?_⟩⟩
  all_goals decide +kernel

theorem test_meets_RegisterWrites_fields :
    (let t : RegTarget := .sys .warden (BitVec.ofNat 40 (barnPage 0 + 0x080))
     Arrives up t true ∧ placeOf t = .blk (.barn 0) 0x080 ∧ (up.reg (barnPage 0 + 0x018)).getLsbD 0 = false ∧
     ((up.setReg (barnPage 0 + 0x018) 1).reg (barnPage 0 + 0x018)).getLsbD 0 = true) ∧
    (let t : RegTarget := .sys .warden 0x30100018
     Arrives { up with gates := [(0x30100000, { cls := [(clsCodeOf .warden, 7)] })] } t true ∧ placeOf t = .gate 0x30100000 0x018) := by
  refine ⟨⟨arrivesSys _ _ _ _ ?_, ?_⟩, ⟨arrivesSys _ _ _ _ ?_, ?_⟩⟩
  all_goals decide +kernel

theorem test_meets_RegisterWrites_host :
    (Arrives up (.pfBar0 0x100084) true ∧ placeOf (.pfBar0 0x100084) = .part 0 0x084) ∧
    (Arrives up (.pfBar2 8) true ∧ placeOf (.pfBar2 8) = .msix 0 (16 * 0 + 8)) ∧
    (Arrives up (.pfBar0 0x14000) true ∧ placeOf (.pfBar0 0x14000) = .hole) ∧ placeOf (.pfBar0 0x1800000) = .record 0 ∧
    placeOf (.sys .warden 0x40000) = .unmapped ∧ targetAddr (.pfBar0 1) % 4 ≠ 0 ∧ up.boot.pfEnabled = true ∧
    ((16 : BitVec 12).toNat = 16 * 1) ∧ fromHost (.pfBar0 0) = true ∧ reachable up (.pfBar0 0) = true ∧
    (up.reg (hifPage + 0x30)).getLsbD 31 = false ∧
    (let a := hbmBase 1
     dieAnswers State.reset a = false ∧ dieGated { up with pwr := { rails := true, state := pwrIdle } } a = true ∧ InitClass.debug ≠ .warden) := by
  refine ⟨⟨arrivesBar _ ?_, ?_⟩, ⟨arrivesMsix _ ?_, ?_⟩, ⟨arrivesBar _ ?_, ?_⟩, ?_⟩
  all_goals decide +kernel

theorem test_meets_MicroprogramBanks :
    (let b : Bytes := zeros 64
     let s : State := { tu with boot := { up.boot with phase := .firmware, bankA := { up.boot.bankA with images := [[], [], [], b] } } }
     (bootedBank s).banks[0]? = some b ∧ s.boot.phase = .firmware ∧ s.ldr.accepted < 64 ∧ (BankImage.judge s b).1 ≠ 0) ∧
    (tu.window 0 1).state = 0 ∧ (tu.window 0 0).state = 2 ∧ (Map.get {} tu.ldr.banks (tu.window 0 0).bank : Bank).ok = true ∧
    (let s (n : BitVec 2) : State := tu.setWindow 0 0 { state := n }
     ((s 1).window 0 0).state = 1 ∧ ((s 3).window 0 0).state = 3 ∧
     ((s 3).entry 0).group ≠ [] ∧ stookOfCtx ((s 3).entry 0).lead = 0 ∧ ((s 3).entry 0).window = 0) ∧
    (let s : State := { tu.setWindow 0 0 { state := 3 } with entries := [] }
     (s.window 0 0).state = 3 ∧ Map.wf {} s.entries = true ∧ ∀ e, (s.entry e).group = []) := by
  refine ⟨by decide +kernel, by decide +kernel, by decide +kernel, by decide +kernel, by decide +kernel, by decide +kernel, by decide +kernel, fun e => rfl⟩

/-- Samples that pass, alternating; samples of one value fail. -/
def altSamples : Samples := BitVec.ofNat 4096 ((2 ^ 4096 - 1) / 3)

/-- `up` with the chain changed. -/
def upWin (f : Winnower → Winnower) : State := { up with win := f up.win }

/-- Source 2 of `up` one sample short of failing the repetition count or, with its proportion, the adaptive one. -/
def failing2 (run same : Nat) (n : Nat := 8) : State :=
  { up with win := { up.win with src := (List.range n).map (fun i => (i, if i = 2 then { state := 1, run := run, seen := 1000, same := same } else { state := 1 })) } }

theorem test_meets_RandomNumberChain_start :
    (let s := upWin (fun _ => { state := .starting })
     keepRuns s = true ∧ s.win.state = .starting ∧ s.win.selfFail = false ∧ 4 ≤ passing s (List.replicate 4 altSamples) ∧
     passing s (List.replicate 3 altSamples) < 4 ∧ s.win.retest = false ∧ (upWin (fun _ => { retest := true })).win.retest = true ∧
     (startVerdict (s.source 0) altSamples).1 = none ∧ (startVerdict (s.source 4) 0).1 ≠ none) ∧
    (dieUp up (3 / 4 + 1) = true ∧ drbgServes up 3 = true ∧ drbgServes (upWin (fun _ => {})) 3 = false) ∧
    (keepRuns (takeRaw up [0x55, 0xAA]) = true ∧ up.win.seeding = [] ∧ winRuns (upWin (fun _ => {})) = false ∧ winRuns up = true ∧
     (up.drbg 3).serving = true ∧ (upWin (fun w => { w with blocks := [1, 2, 3] })).win.blocks = 1 :: 2 :: [3] ∧ up.ofc.waiting = 0 ∧
     up.win.blocks.length < 2) := by
  refine ⟨by decide +kernel, by decide +kernel, by decide +kernel⟩

theorem test_meets_RandomNumberChain_samples :
    (let healthy (s : State) := (List.range 8).filter (fun i => (s.source i).state == 1)
     (∀ n ∈ healthy up, failsOn up 0x5A n = none) ∧ up.win.state = .run ∧
     (compressInstant (upWin (fun w => { w with repeats := true })) 0x5A).repeats = true ∧
     winRuns up = true ∧ (compressInstant up 0x5A).repeats = false ∧ (compressInstant up 0x5A).blocks.length < 4 ∧ up.win.seeding = [] ∧
     (let s := upWin (fun w => { w with seeding := [8, 0], blocks := [1, 2, 3, 4] })
      s.win.seeding = 8 :: [0] ∧ winRuns s = true ∧ (compressInstant s 0x5A).repeats = false ∧ (compressInstant s 0x5A).blocks = [1, 2, 3, 4] ∧
      ∀ n ∈ healthy s, failsOn s 0x5A n = none) ∧
     (∀ x ∈ [(0, []), (30, []), (31, [0])], let s := upWin (fun w => { w with state := .testmode, testEn := true, capLen := x.1, fifo := x.2 })
      s.win.state = .testmode ∧ s.win.testTap = false ∧ (s.win.capLen < 31 ∨ s.win.capLen = 31) ∧ s.win.fifo.length < 16384 ∧
      ∀ n ∈ healthy s, failsOn s 0x5A n = none) ∧
     (∀ x ∈ [(40, 0, true, 8), (1, 796, false, 8), (40, 0, true, 4)], let s := failing2 x.1 x.2.1 x.2.2.2
      s.win.state = .run ∧ (s.source 2).state = 1 ∧ failsOn s 0 2 = some x.2.2.1 ∧ (∀ n ∈ healthy s, n ≠ 2 → failsOn s 0 n = none) ∧
      (healthy s).length = x.2.2.2) ∧
     (∀ x ∈ [(ChainState.stopped, 3), (ChainState.run, 5)],
      let s := upWin (fun w => { w with state := x.1, src := (2, { state := 2 }) :: (List.range x.2).map (fun i => (i + 3, { state := 1 })) })
      keepRuns s = true ∧ (s.source 2).state = 2 ∧ s.win.state = x.1 ∧ s.win.selfFail = false ∧ 3 ≤ (healthy s).length ∧
      (startVerdict (s.source 2) altSamples).1 = none ∧ (startVerdict (s.source 2) 0).1 ≠ none) ∧
     (up.source 2).state ≠ 2) := by
  refine ⟨by decide +kernel, by decide +kernel, by decide +kernel, by decide +kernel, by decide +kernel, by decide +kernel, by decide +kernel,
    by decide +kernel, by decide +kernel, by decide +kernel, by decide +kernel, by decide +kernel⟩

theorem test_meets_RandomNumberChain_waits :
    (let s : State := { tu with win := {}, entries := [(0, { tu.entry 0 with rngWait := true })] }
     starvedBne s 0 = none ∧ waitsRandom s 0 = true ∧ (s.entry 0).accepted = true ∧ waitsRandom s 1 = false ∧ starvedBne s 1 = none ∧
     drbgServes s 8 = false) ∧
    ((1 : Nat) % 2 = 1 ∧ 2 / 2 % 2 = 1) ∧
    (∀ l ∈ [lcTest, lcAnalysis, lcMinted], let s := upLc l
     keepRuns s = true ∧ s.win.testEn = false ∧ lcCode s = l) ∧ (lcMinted ≠ lcTest ∧ lcMinted ≠ lcAnalysis) ∧
    (let s := upWin (fun w => { w with testEn := true }); keepRuns s = true ∧ s.win.testEn = true) ∧
    (keepRuns up = true ∧ drbgServes up 8 = true ∧ up.win.randReady = false) := by
  refine ⟨by decide +kernel, by decide, by decide +kernel, by decide, by decide +kernel, by decide +kernel⟩

theorem test_meets_RandomNumberChain_engine :
    (let s := bnTu { ints 5 3 7 with run := some { draw := some (0, args 0, []) } } {}
     starvedBne s 0 = some 0) := by decide +kernel

theorem test_meets_GranaryUpkeep :
    (let s : State := { up with grn := { present := true } }
     s.pwr.rails = true ∧ s.grn.present = true ∧ (readUnit s .bbram).1 ≠ .bad ∧
     (readUnit { s with dev := { s.dev with flips := [(.bbram, 3)] } } .bbram).1 = .bad ∧ State.reset.pwr.rails = false ∧
     up.grn.present = false ∧ (readUnit up .bbram).1 = .good) ∧
    (let s (x : Slot) : State := { up with grn := { frozen := true, slots := [(16, x)] } }
     let x : Slot := { format := 1, copy0 := { state := 1 } }
     let off (u : State) : State := { u with win := {} }
     let bad (u : State) : State := { u with dev := { u.dev with flips := [(.slot 16, 3)] } }
     keepRuns (s x) = true ∧ (s x).grn.frozen = true ∧ ((s x).slotAt 16).live = true ∧ ((s x).slotAt 17).live = false ∧ up.grn.frozen = false ∧
     (let u := s { x with prot := 1 }
      (u.slotAt 16).live = true ∧ (u.slotAt 16).remask = true ∧ drbgServes u 8 = true ∧ (u.slotAt 16).integrity = false ∧ (readUnit u (.slot 16)).1 ≠ .bad) ∧
     (let u := s { x with prot := 2 }
      (u.slotAt 16).remask = false ∧ (u.slotAt 16).live = true ∧ slotIntact u 16 = true ∧ (u.slotAt 16).integrity = true ∧ (readUnit u (.slot 16)).1 = .good) ∧
     (let u := off (s { x with prot := 1 }); drbgServes u 8 = false ∧ keepRuns u = true) ∧ (readUnit (bad (s x)) (.slot 16)).1 = .bad) ∧
    Map.wf {} up.grn.buckets = true := by decide +kernel

/-- Stack 0 in service, its page 0 valid. -/
def stack0 (h : Hbm := {}) : State := { up with hbm := [(1, { h with inService := true, valid := [(0, true)] })] }

/-- A merge entry for line 3. -/
def merge3 : MergeEntry := { line := 3, bytes := [(0, 7)], mask := 1 }

/-- Two symbols of line 3 that have changed, which no decoding locates. -/
def upset3 : Map (BitVec 72) := [(48, 1), (49, 2)]

theorem unhurried (s : State) (h : Hbm) (e : h.ceTimes = []) : Unhurried s h := by
  intro k _ n hn
  rw [e]
  match n, hn with
  | 0, _ => rfl
  | 1, _ => rfl
  | 2, _ => rfl

theorem test_meets_HbmControllers_held :
    (∀ r ∈ [UeReader.gleaner, .staging 0], let s : State := { stack0 { upset := upset3, held := [(3, r)] } with
       entries := [(0, { state := .reserved, accepted := true, phase := .posted })] }
     let h := s.stack 1
     let h1 (left : List SymUpset) := { Hbm.upsetCells (Hbm.restoreSymbols h 3) (left.map (fun x => (3, x.1.val, x.2))) with failed := h.failed ||| 1 }
     h.inService = true ∧ (3, r) ∈ h.held ∧ (∀ p ∈ s.entries, p.2.dogLate = false) ∧ failedDies (h1 []) ≤ 1 ∧ Hbm.blocking (h1 []) 3 = [] ∧
     Hbm.blocking (h1 [(0, 1), (1, 2)]) 3 ≠ [] ∧ (3, .merge) ∉ h.held ∧ (s.entry 0).state = .reserved ∧ (s.entry 0).accepted = true ∧
     (s.entry 0).phase = .posted) ∧
    (∀ e, (3, UeReader.staging e) ∉ ((stack0 { held := [(3, .gleaner)] }).stack 1).held) ∧ (3, UeReader.gleaner) ∉ (stack0.stack 1).held ∧
    Unhurried stack0 ((stack0 { upset := upset3, held := [(3, .gleaner)] }).stack 1) := by
  refine ⟨by decide +kernel, fun e => ?_, by decide +kernel, unhurried _ _ rfl⟩
  intro h
  cases h with
  | tail _ h => cases h

theorem test_meets_HbmControllers_merge :
    (let h := (stack0 { merge := [merge3] }).stack 1
     h.merge.find? (fun m => m.line == 3) = some merge3 ∧ Map.get false h.poison 3 = false ∧ Hbm.blocking h 3 = [] ∧
     merge3.mask ≠ BitVec.allOnes 64 ∧ (∀ m ∈ h.merge, m.line ≠ 4)) ∧
    (let h := (stack0 { merge := [merge3], upset := upset3 }).stack 1
     Map.get false h.poison 3 = false ∧ Hbm.blocking h 3 ≠ []) ∧
    Map.get false ((stack0 { merge := [merge3], poison := [(3, true)] }).stack 1).poison 3 = true ∧
    Unhurried stack0 ((stack0 { merge := [merge3] }).stack 1) := ⟨by decide +kernel, by decide +kernel, by decide +kernel, unhurried _ _ rfl⟩

theorem test_meets_HbmControllers_gleaner :
    (∀ p ∈ [5, 63], let s : State := { stack0 { pos := p } with
       gates := [(fieldGate 1 0x100, {
         cls := [(clsCodeOf .gleaner, 4)]
         rng := [(0, { en := true, base := hbmBase 1 / 4096, last := hbmBase 1 / 4096, perm := BitVec.allOnes 18 })] })] }
     let h := s.stack 1
     let bad := Hbm.upsetCells h ((lineCells [(5, 0, 1), (63, 0, 1)] [] [(5, 1, 2), (63, 1, 2)]).map (fun c => (c.1.val, c.2.1.val, c.2.2)))
     h.inService = true ∧ h.selfRefresh = false ∧ (∀ x ∈ s.dev.flips, ∀ k : Nat, k < 2 → x.1 ≠ .validMap k 0) ∧ Hbm.nextLine h h.pos = some p ∧
     gateAllows s .gleaner (hbmBase 1 + 64 * p) false = true ∧ gateAllows (stack0 { pos := p }) .gleaner (hbmBase 1 + 64 * p) false = false ∧
     (Hbm.nextLine h (p + 1) = none ↔ p ≠ 5) ∧ Hbm.blocking h p = [] ∧ (Hbm.readOutcome h p).map (·.1) = some none ∧ Hbm.tagged p = false ∧
     Hbm.blocking bad p ≠ [] ∧ (Hbm.nextLine h 64 = none) ∧ rowsUsed s < 64) ∧
    (let s := { stack0 with dev := { stack0.dev with flips := [(.validMap 0 1, 3)] } }
     judgeFlip 3 = .bad ∧ (s.stack 1).inService = true) ∧
    (let h := (stack0 { rowOld := [(Hbm.symRow 5 0, true)] }).stack 1
     let h1 := Hbm.upsetCells h [(5, 0, 1)]
     Hbm.blocking h1 5 = [] ∧ Map.get false h.poison 5 = false ∧ Hbm.lineValid h 5 = true ∧ (Hbm.readOutcome h1 5).map (·.1) = some (some 0) ∧
     h.failed = 0 ∧ Map.get [] h.ceTimes (Hbm.dieOfSym 5 0) = [] ∧ h.retiring = none) ∧
    Map.get false ((stack0 { rowOld := [(Hbm.symRow 5 0, true)] }).stack 1).rowOld (Hbm.symRow 5 0) = true ∧
    rowsOfBank stack0 1 (Hbm.dieOfSym 5 0) (Hbm.halfOf 5) (Hbm.bankOf 5 0) = 0 := by
  refine ⟨by decide +kernel, by decide +kernel, by decide +kernel, ?_, by rfl⟩
  show Map.get false [(Hbm.symRow 5 0, true)] (Hbm.symRow 5 0) = true
  simp [Map.get]

theorem test_meets_HbmControllers_rows :
    (let s := stack0 { retiring := some (3, 0, 1, 2) }
     (s.stack 1).retiring = some (3, 0, 1, 2) ∧ Map.findFrom {} s.rowHist (fun x => !x.valid) 64 0 = some 0 ∧ rowsOfDie s 1 3 < 15 ∧
     Map.wf {} s.rowHist = true ∧ (stack0.stack 1).retiring = none) ∧
    (let s : State := { stack0 { retiring := some (3, 0, 1, 2) } with rowHist := (List.range 15).map (fun i => (i, { valid := true, die := 3, row := i })) }
     Map.findFrom {} s.rowHist (fun x => !x.valid) 64 0 = some 15 ∧ rowsOfDie s 1 3 = 15 ∧ Map.wf {} s.rowHist = true) := by decide +kernel

/-- The wardens run; the yoke is as f leaves it. -/
def yoked (f : Yoke → Yoke := fun y => y) : State := { up with yoke := f up.yoke }

/-- An item that stores to warden A's SRAM bank. -/
def item (d : Word) : YokeItem := { addr := 0x10000000, data := d, be := 0xF }

theorem test_meets_YokeFaults :
    (yokeRuns yoked = true ∧ holder yoked = .a ∧ comparing yoked = true ∧ yoked.yoke.gap = false ∧ inService yoked .a = true ∧
     inService yoked .b = true ∧ yoked.yoke.mismatch = false ∧ yoked.yoke.held .a = []) ∧
    (let s := yoked (fun y => { y with heldA := [item 1] })
     s.yoke.held .a ≠ [] ∧ s.yoke.held (Warden.a).other = []) ∧
    (let s := yoked (fun y => { y with bState := .faulty })
     yokeRuns s = true ∧ inService s .b = false ∧ inService s .a = true ∧ comparing s = false) ∧
    (let s := yoked (fun y => { y with mismatch := true, flagA := true, flagB := true })
     yokeRuns s = true ∧ inService s .a = true ∧ s.yoke.mismatch = true ∧ s.yoke.flag .a = true ∧ s.yoke.flag .b = true) ∧
    (let s := yoked (fun y => { y with mismatch := true, flagA := true })
     s.yoke.flag .a = true ∧ s.yoke.flag .b = false ∧ comparing s = true) ∧
    (let s := yoked (fun y => { y with mismatch := true, flagB := true, heldA := [item 1], heldB := [item 2] })
     s.yoke.held .a = [item 1] ∧ s.yoke.held .b = [item 2] ∧ s.yoke.flag .a = false ∧ s.yoke.flag .b = true) ∧
    (let s := yoked (fun y => { y with mismatch := true, heldA := [item 1], heldB := [item 2], divB := [0, 0] })
     s.yoke.flag .b = false ∧ withinSpan (noteTime (s.yoke.div .b) s.tmr.now 3) 3 second = true ∧
     withinSpan (noteTime (yoked.yoke.div .b) s.tmr.now 3) 3 second = false) := by decide +kernel

theorem test_meets_YokeFaults_item : StoresAt (item 1) 0x10000000 := ⟨by decide +kernel, by decide +kernel⟩

theorem test_meets_SwitchOverAndResync_flagged :
    (let s := yoked (fun y => { y with mismatch := true, flagB := true })
     yokeRuns s = true ∧ s.yoke.feed .a = true ∧ s.yoke.feed .b = true ∧ s.yoke.gap = false ∧ s.yoke.mismatch = true ∧ s.yoke.flag .b = true ∧
     s.yoke.flag .a = false ∧ s.yoke.stateOf .b = .standby ∧ s.yoke.held .a = []) ∧
    (let s := yoked (fun y => { y with mismatch := true, flagA := true })
     comparing s = true ∧ s.yoke.flag .a = true ∧ s.yoke.flag .b = false) ∧
    (yoked.yoke.mismatch = false) := by decide +kernel

theorem test_meets_SwitchOverAndResync :
    (let s := yoked (fun y => { y with feedB := false })
     yokeRuns s = true ∧ s.yoke.feed .a = true ∧ s.yoke.feed (Warden.a).other = false) ∧
    (yoked.yoke.feed .a = true ∧ yoked.yoke.feed .b = true ∧ yoked.yoke.gap = false ∧ comparing yoked = true ∧
     yoked.yoke.stateOf .b = .standby ∧ yoked.yoke.held .a = []) ∧
    (let s := yoked (fun y => { y with bState := .resyncing })
     yokeRuns s = true ∧ comparing s = false ∧ s.yoke.stateOf .b = .resyncing ∧ Map.wf 0 s.sram = true) ∧
    (let s := yoked (fun y => { y with gap := true, heldB := [item 1] })
     yokeRuns s = true ∧ s.yoke.gap = true ∧ s.yoke.held .b = [item 1]) ∧
    (let s := yoked (fun y => { y with bState := .feedLost, feedB := false })
     yokeRuns s = true ∧ s.yoke.gap = false ∧ Warden.b ≠ holder s ∧ s.yoke.stateOf .b = .feedLost ∧ s.boot.phase = .released) := by decide +kernel

theorem test_meets_ScanAndDebug :
    (lcCode (upLc lcBlank) = lcBlank ∧ lcCode (upLc lcTest) ≠ lcBlank ∧ up.scrAux.scanHold = false) ∧
    ({ up with scrAux := { up.scrAux with scanHold := true } } : State).scrAux.scanHold = true ∧
    (debugUp up = true ∧ drbgServes up 8 = true ∧ drbgServes { up with win := {} } 8 = false ∧ up.ofc.waiting < 2) ∧
    ((zeros 119).length ≠ 120) ∧
    ((0x30004024 : Nat) < 2 ^ 40 ∧ 0x30004024 % 4 = 0 ∧ dieAnswers up 0x30004024 = true ∧ placeSys 0x30004024 = .blk .sch 0x024) ∧
    (gateAllows (upLc lcBlank) .debug 0x30004024 false = true ∧ gateAllows (upLc lcBlank) .debug 0x30004024 true = true) ∧
    (inRange 0x10000000 0x10000000 0x101FFFFF = true ∧ placeSys 0x10000000 = .mem 0x10000000 ∧
     gateAllows (upLc lcBlank) .debug 0x10000000 false = true ∧ dieGated up 0x10000000 = false ∧ memUnread up 0x10000000 4 = []) ∧
    (dieGated up 0x30004024 = false ∧ memUnread up 0x30004024 4 = [] ∧ debugUp up = true ∧
     (let a := hbmBase 1
      a < 2 ^ 40 ∧ a % 4 = 0 ∧ memUnread { up with dev := {} } a 4 = [] ∧ dieAnswers { up with dev := {} } a = false ∧
      dieGated { up with pwr := { rails := true, state := pwrIdle } } a = true ∧
      (let s := upLc lcBlank (stack0 { upset := upset3 })
       debugUp s = true ∧ gateAllows s .debug (a + 192) false = true ∧ memUnread s (a + 192) 4 ≠ []))) ∧
    (gateAllows (upLc lcTest) .debug 0x10000000 false = false ∧ gateAllows (upLc lcTest) .debug 0x10000000 true = false ∧
     (upLc lcTest).tap.level = 0) := by decide +kernel

/-- A calm sample: 25 degrees, 3.0 V, meshes at baseline. -/
def calm : Sample := { temp := 400, vbat := 3000, mesh0 := 0, mesh1 := 0, mesh2 := 0, mesh3 := 0, mesh4 := 0, mesh5 := 0, lights := 0 }

/-- The scarecrow watches: its battery domain holds filters in range. -/
def watching (f : Scarecrow → Scarecrow := fun x => x) : State := { up with
  scr := f { up.scr with
    histNext := 1
    chan := [(0, { on := true, low := -128, high := 128, n := 4 }), (1, { on := true, low := -128, high := 128, n := 4 }),
      (8, { on := true, y := 400, low := -400, high := 1840, n := 2 }), (9, { on := true, y := 3000, low := 2300, high := 3900, n := 2 })] }
  scrAux := { up.scrAux with started := true } }

/-- As `watching`, in FALLOW. -/
def fallow : State := { watching with pwr := { rails := false, fallow := true } }

theorem test_meets_TamperAndSensors_fast :
    (fastActive watching 0x20 = true ∧ watching.scr.present.getLsbD 0x20 = false ∧ watching.scr.histNext % 256 ≠ 0 ∧
     (∀ o ∈ [(0x20 : Fin 64), 0x3F], o = 0x20 ∨ fastActive watching o = false ∨ watching.scr.present.getLsbD o = true)) ∧
    ((0x20 : Fin 64) ≠ 0x21 ∧ ∀ x ∈ [(0x20 : Fin 64), 0x21], fastActive watching x = true ∧ watching.scr.present.getLsbD x = false) ∧
    ((watching (fun x => { x with battery := false })).scr.battery = false ∧ (readUnit fallow .bbram).1 ≠ .bad) ∧
    (∀ o ∈ [(0x3F : Fin 64)], fastActive watching o = false ∨ watching.scr.present.getLsbD o = true) ∧ (watching.scrAux.started = true ∧ watching.pwr.rails = true ∧ watching.scr.present.getLsbD 0x30 = false) ∧
    (inFallow fallow = true ∧ fallow.scr.present.getLsbD 0x30 = false) ∧
    (let s := watching (fun x => { x with hold := true, holdTimer := true })
     s.scr.hold = true ∧ s.scr.holdTimer = true ∧ s.scr.present = 0 ∧ s.pwr.rails = true) ∧
    (watching (fun x => { x with present := 1 })).scr.present.getLsbD 0 = true ∧
    ((watching.scr.battery || watching.pwr.rails) = true ∧ watching.scrAux.xtalStopped = false ∧ watching.scr.pending = false ∧
     (watching (fun x => { x with pending := true })).scr.pending = true) ∧
    (State.reset.pwr.rails = false ∧ State.reset.scr.battery = false) := by decide +kernel

theorem test_meets_TamperAndSensors_filtered :
    (∀ c ∈ filteredCodes, ¬ Meets watching calm c) ∧ (∀ c ∈ filteredCodes, ¬ Meets fallow calm c) ∧ sampledFast fallow calm [] = [] ∧
    sampledFast fallow { calm with lights := 1 } [] = [0x18] ∧ fallow.scr.present.getLsbD 0x18 = false ∧
    (let s := watching (fun x => { x with chan := (0, { on := true, y := 900, low := -128, high := 128, n := 4, count := 3 }) :: x.chan })
     (0 ∈ filteredCodes ∧ Meets s calm 0 ∧ ∀ d ∈ filteredCodes, d ≠ 0 → ¬ Meets s calm d) ∧ s.scr.present.getLsbD 0 = false ∧
     s.scrAux.started = true ∧ s.pwr.rails = true) := by
  unfold Meets; decide +kernel

theorem test_meets_Resets :
    ((fallow.pwr.rails = false ∧ fallow.scr.battery = true ∧ fallow.pwr.fallow = true) ∧ State.reset.pwr.rails = false ∧
     State.reset.scr.battery = false ∧ State.reset.scr.present.getLsbD 0x0A = false ∧
     ({ State.reset with scr := { battery := true } } : State).pwr.fallow = false) ∧
    (up.pwr.rails = true ∧ up.boot.perst = false ∧ up.scrAux.vio = true ∧ up.scr.battery = true ∧ up.scr.present.getLsbD 0x0A = false) ∧
    (State.reset.boot.perst = true ∧ fallow.boot.perst = false) ∧
    ({ up with scrAux := { up.scrAux with vio := false } } : State).scrAux.vio = false ∧
    ({ up with lc := { up.lc with selfReset := true } } : State).lc.selfReset = true ∧
    ({ up with scr := {} } : State).scr.battery = false ∧ watching.scr.histNext % 256 ≠ 0 := by decide +kernel

/-- All checks of the boot ROM pass. -/
def goodEnv : BootEnv := { feedA := true, feedB := true, otpOk := true, refAttempt := 0, pllF0 := true, pllF1 := true, vbatOk := true }

theorem test_meets_BootChecks :
    (up.pwr.rails = true ∧ up.boot.perst = false ∧ up.scrAux.vio = true ∧ up.scrAux.scanHold = false ∧ up.scr.hold = false ∧ up.scr.present = 0) ∧
    (State.reset.pwr.rails = false ∧ ({ up with scr := { up.scr with hold := true } } : State).scr.hold = true) ∧
    (romState (upLc lcTest) = false ∧ romState (upLc lcMinted) = true) ∧
    (let env := goodEnv
     env.feedA = true ∧ env.feedB = true ∧ env.otpOk = true ∧ env.refAttempt ≠ 3 ∧ env.pllF0 = true ∧ env.pllF1 = true ∧
     (upLc lcTest).lc.progress.code = 0 ∧ identityLost (afterReset (upLc lcTest)) = false) ∧
    (goodEnv.octal = true ∧ ({ goodEnv with octal := false } : BootEnv).octal = false) ∧
    (let u := afterReset { upLc lcTest with boot := { up.boot with bankA := {}, bankBSet := {} } }
     ∃ r, chooseSet u = .error r) := by
  refine ⟨by decide +kernel, by decide +kernel, by decide +kernel, by decide +kernel, by decide, ⟨5, by decide +kernel⟩⟩

theorem test_meets_BootRelease :
    (let s := { upLc lcTest with boot := { up.boot with phase := .firmware } }
     s.boot.phase = .firmware ∧ romState s = false ∧ s.grn.slots = [] ∧ s.grn.orderly = false ∧ identityUsable s = false) ∧
    (let s := { upLc lcTest with boot := { up.boot with phase := .firmware }, grn := { orderly := true } }
     s.grn.orderly = true) ∧ up.boot.phase ≠ .firmware ∧
    (let s := { upLc lcField with boot := { up.boot with phase := .firmware } }
     s.boot.phase = .firmware ∧ romState s = false ∧ s.grn.slots = [] ∧ identityUsable s = true ∧ drbgServes s 8 = true ∧
     drbgServes { s with win := {} } 8 = false) := by decide +kernel

theorem test_meets_LinksAndTraining :
    (∀ x ∈ [({ lanes := 32 } : Link), { lanes := 32, fails := 7 }, { lanes := 0 }, { lanes := 32, retraining := true }],
      ((State.reset.setLink 0 x).link 0) = x) ∧
    (keepRuns up = true ∧ (8 : Nat) ≤ (16 : Fin 33).val ∧ (4 : Fin 33).val < 8) ∧
    (let s : State := { up with entries := [(0, { state := .reserved, accepted := true, phase := .running, die := 1 })] }
     (s.entry 0).die = 0 + 1 ∧ (s.entry 0).phase = .running ∧ (s.entry 0).state = .reserved ∧ (s.entry 0).accepted = true) ∧
    (let s : State := { up with entries := [(0, { state := .staged, accepted := true, ran := true, phase := .posted, die := 1 })] }
     (s.entry 0).die = 0 + 1 ∧ (s.entry 0).ran = true ∧ (s.entry 0).state = .staged) ∧
    (let s : State := { up with boot := { up.boot with phase := .firmware } }
     s.boot.phase = .firmware ∧ (s.stack 1).trained = false ∧ s.dev.out.getLsbD 0 = false ∧ (s.stack 1).failed = 0) := by decide +kernel

/-- `up` with its time as f leaves it: valid, 10 s after the last sync, with the whole budget. -/
def timed (f : Time → Time := fun m => m) : State := { up with
  time := f { up.time with valid := true, ntime := 10000000000, rtc := 10000000000, rtcSet := true, budget := 500000000, target := 10000001000 } }

theorem test_meets_TimeAndSlew_sets :
    (let m := timed.time
     let d : Int := (m.target.toNat : Int) - m.ntime - m.pending
     keepRuns timed = true ∧ m.valid = true ∧ d.natAbs ≤ 2000000 ∧ (m.pending + d).natAbs ≤ 2000000 ∧ d.natAbs ≤ m.budget) ∧
    (let m := (timed (fun m => { m with target := 10002000001 })).time
     2000000 < ((m.target.toNat : Int) - m.ntime - m.pending).natAbs) ∧
    (let m := (timed (fun m => { m with pending := 1000, budget := 0, target := 10002001001 })).time
     let d : Int := (m.target.toNat : Int) - m.ntime - m.pending
     m.valid = true ∧ 2000000 < d.natAbs ∧ ¬ (d.natAbs ≤ m.budget)) ∧
    (let m := (timed (fun m => { m with pending := 2000000, target := 10002000001 })).time
     let d : Int := (m.target.toNat : Int) - m.ntime - m.pending
     d.natAbs ≤ 2000000 ∧ 2000000 < (m.pending + d).natAbs) ∧
    (let m := (timed (fun m => { m with budget := 999 })).time
     let d : Int := (m.target.toNat : Int) - m.ntime - m.pending
     d.natAbs ≤ 2000000 ∧ (m.pending + d).natAbs ≤ 2000000 ∧ m.budget < d.natAbs) ∧
    (let near (m : Time) : Bool := decide (((m.target.toNat : Int) - m.rtc).natAbs * 1000000 ≤ 20 * (m.rtc - m.syncRtc) + 2000000 * 1000000)
     near timed.time = true ∧ near (timed (fun m => { m with target := 20000000000 })).time = false ∧ timed.time.rtcSet = true ∧
     timed.time.rtcLp = false ∧ (timed (fun m => { m with rtcLp := true })).time.rtcLp = true) ∧
    ((timed (fun m => { m with atPps := true })).time.atPps = true ∧ timed.time.atPps = false) := by decide +kernel

theorem test_meets_TimeAndSlew_edges :
    (let m := (timed (fun m => { m with pending := -500 })).time
     m.pending ≠ 0 ∧ m.frac < 2 ^ 32) ∧ timed.time.pending = 0 ∧ timed.time.ppsEn = false ∧
    (let e (m : Time) : Int := if m.ntime % 1000000000 < 500000000 then (m.ntime % 1000000000 : Nat) else (m.ntime % 1000000000 : Nat) - 1000000000
     (let m := (timed (fun m => { m with ppsEn := true, ppsLast := some 9000100001 })).time
      m.ppsEn = true ∧ m.ppsLast = some 9000100001 ∧ 100000 < ((m.ntime : Int) - 9000100001 - 1000000000).natAbs) ∧
     (let m := (timed (fun m => { m with ppsEn := true, ppsLast := some 9000100000 })).time
      ((m.ntime : Int) - 9000100000 - 1000000000).natAbs ≤ 100000) ∧
     (let m := (timed (fun m => { m with ppsEn := true, ntime := 10000100001 })).time
      m.ppsLast = none ∧ m.atPps = false ∧ 100000 < (e m).natAbs) ∧
     (let m := (timed (fun m => { m with ppsEn := true, ntime := 10000000700 })).time
      let d := -e m - m.pending
      (e m).natAbs ≤ 100000 ∧ m.valid = true ∧ d.natAbs ≤ 2000000 ∧ d.natAbs ≤ m.budget) ∧
     (let m := (timed (fun m => { m with ppsEn := true, ntime := 10000000700, budget := 699 })).time
      m.budget < (-e m - m.pending).natAbs)) ∧
    (let far (m : Time) : Bool :=
      let dn : Int := (m.ntime : Int) - m.syncNtime
      let dr : Int := (m.rtc : Int) - m.syncRtc
      decide ((if m.rtcLp then 1000 else 20) * dr.toNat + (m.syncSum + 1000000) * 1000000 < (dn - dr).natAbs * 1000000)
     far timed.time = false ∧ far (timed (fun m => { m with rtc := 9000000000 })).time = true ∧ timed.time.valid = true) := by decide +kernel

/-- `up` with its power state as f leaves it. -/
def powered (f : Power → Power := fun p => p) : State := { up with pwr := f { up.pwr with rails := true, lock := 0xF } }

theorem test_meets_PowerHandshakesAndCommits :
    (keepRuns powered = true ∧ powered.pwr.state = 0 ∧ powered.pwr.target = .none ∧ powered.boot.pfEnabled = true ∧ quiet powered = true ∧
     (powered (fun p => { p with idleAfter := 5 })).pwr.idleAfter ≠ 0) ∧
    (let s := powered (fun p => { p with target := .idle, asking := 1, fetchStop := true })
     s.pwr.target ≠ .none ∧ s.pwr.delay = false ∧ agentAnswer s s.pwr.asking = .ack ∧ s.pwr.asking < 9) ∧
    (let s : State := { powered (fun p => { p with target := .idle, asking := 3 }) with win := { state := .testmode } }
     s.pwr.asking = 3 ∧ s.win.state = .testmode) ∧
    (let s : State := { powered (fun p => { p with target := .idle, asking := 5 }) with yoke := { halt := true } }
     s.pwr.asking = 5 ∧ s.yoke.halt = true) ∧
    (let s : State := { powered (fun p => { p with target := .idle, asking := 8 }) with lc := { up.lc with running := true } }
     s.pwr.asking = 8 ∧ s.lc.running = true) ∧
    (let s : State := { powered (fun p => { p with target := .idle, asking := 9 }) with baes := [(2, { owner := .warden })] }
     s.pwr.asking = 9 ∧ ∃ b, b < 8 ∧ (s.bae b).owner = .warden) ∧
    (let s : State := { powered (fun p => { p with target := .idle, asking := 1 }) with entries := [(0, { state := .reserved, accepted := true })] }
     s.pwr.asking = 1 ∧ quiet s = false) ∧
    (let s : State := { powered (fun p => { p with target := .idle, asking := 5 }) with yoke := { bState := .resyncing } }
     s.yoke.halt = false ∧ s.yoke.bState = .resyncing) ∧
    (∀ h ∈ [({ fills := [1] } : Hbm), { retiring := some (0, 0, 0, 0) }, { held := [(1, .gleaner)] }],
     let s : State := { powered (fun p => { p with target := .idle, asking := 6 }) with hbm := [(1, h)] }
     s.pwr.asking = 1 + 5 ∧ ((s.stack 1).retiring ≠ none ∨ (s.stack 1).fills ≠ [] ∨ (s.stack 1).held ≠ [])) := by
  refine ⟨by decide +kernel, by decide +kernel, by decide +kernel, by decide +kernel, by decide +kernel, ⟨by decide +kernel, 2, by decide +kernel⟩,
    by decide +kernel⟩

theorem test_meets_PowerCommits :
    (∀ t ∈ [PwrTarget.idle, .fallow], let s := powered (fun p => { p with target := t, asking := 9 })
     s.pwr.target = t ∧ s.pwr.delay = false ∧ s.pwr.asking = 9 ∧ agentAnswer s 9 = .ack ∧ (s.stack 1).merge = [] ∧ (s.stack 2).merge = [] ∧
     Map.wf {} s.grn.buckets = true) ∧
    (let s := powered (fun p => { p with state := 2 }); keepRuns s = true ∧ s.pwr.state = 2 ∧ s.pwr.waking = false) ∧
    (let s := powered (fun p => { p with state := 2, waking := true })
     s.pwr.waking = true ∧ winRuns s = true ∧ dieUp s (0 + 1) = true ∧ winRuns { s with win := {} } = false ∧ s.stack 1 = {} ∧
     (stack0 { fills := [1] }).stack 1 ≠ {}) := by decide +kernel

theorem test_meets_ClocksAndThrottling :
    (let s := powered (fun p => { p with trim := true })
     s.pwr.trim = true ∧ s.pwr.state = 0 ∧ dieUp s (dieOfStook 3) = true ∧ (∀ i ∈ List.range 64, (s.core (64 * 3 + i)).phase = .free) ∧
     (tu.core (64 * 0 + 0)).phase ≠ .free) ∧
    (let s (st c : Nat) : State := powered (fun p => { p with step := [(0, st)], cool := [(0, c)] })
     (s 2 0).pwr.state ≠ 2 ∧ Map.get 0 (s 2 0).pwr.step 0 < 3 ∧ 3 ≤ Map.get 0 (s 3 0).pwr.step 0 ∧ 99 ≤ Map.get 0 (s 2 99).pwr.cool 0 ∧
     Map.get 0 (s 2 98).pwr.cool 0 < 99) ∧
    (let s (l : BitVec 4) : State := powered (fun p => { p with lock := l })
     let new (v : Word) : BitVec 4 := v.setWidth 4 &&& ~~~(s 0xF).pwr.clkCtrl
     new 0xF &&& ~~~(s 0xF).pwr.lock = 0 ∧ new 1 = BitVec.twoPow 4 0 ∧ (s 0).pwr.lock.getLsbD 0 = false ∧ new 4 = BitVec.twoPow 4 2 ∧
     (s 0).pwr.lock.getLsbD 2 = false) ∧
    (powered (fun p => { p with pllStarted := true })).pwr.pllStarted = true ∧ (3 : Word).toNat % 16 ≠ powered.hif.histBase ∧
    (8 : Word).toNat % 16 = powered.hif.histBase ∧ (0x10 : Word).getLsbD 4 = true := by decide +kernel

/-- `up` with a connection in state n on both transports, an identity certificate and an alias key. -/
def spdmUp (n : Nat) : State := { up with
  spdm := { conn := [(0, n), (1, n)] }
  lc := { up.lc with cert := some [1, 2, 3] }
  boot := { up.boot with aliasKey := some 5, aliasCert := some [4, 5] } }

theorem test_meets_SpdmConnectionAndI3c :
    (let s : State := { up with boot := { up.boot with phase := .firmware } }
     Responder.powered s = true ∧ Responder.released s = false) ∧
    (Responder.powered (spdmUp 1) = true ∧ Responder.released (spdmUp 1) = true) ∧
    (let req : Bytes := [0x13, 0xE1] ++ zeros 18
     byteAt req 0 = 0x13 ∧ byteAt req 1 = 0xE1 ∧ 20 ≤ req.length ∧ Map.get 0 (spdmUp 1).spdm.conn (Responder.key .doe) = 1) ∧
    (let req : Bytes := [0x13, 0xE3, 0, 0] ++ le 2 32 ++ zeros 2 ++ le 4 0x80 ++ le 4 2 ++ zeros 16
     byteAt req 0 = 0x13 ∧ byteAt req 1 = 0xE3 ∧ 32 ≤ req.length ∧ Map.get 0 (spdmUp 2).spdm.conn (Responder.key .mctp) = 2 ∧
     bit (fieldLe req 8 4) 7 = true ∧ bit (fieldLe req 12 4) 1 = true ∧ fieldLe req 4 2 = req.length) ∧
    (3 ≤ Map.get 0 (spdmUp 3).spdm.conn (Responder.key .doe) ∧ (Responder.chain (spdmUp 3)).isSome = true ∧ Responder.chain up = none) ∧
    (let req : Bytes := [0x13, 0x82, 0, 0, 0, 0, 8, 0]
     byteAt req 1 = 0x82 ∧ 8 ≤ req.length ∧ (byteAt req 2).toNat % 16 = 0 ∧ (byteAt req 3).getLsbD 0 = false ∧
     fieldLe req 4 2 < ((Responder.chain (spdmUp 3)).getD []).length) ∧
    spdmServes .mctp 0xE4 = false ∧ up.pwr.rails = true := by decide +kernel

theorem test_meets_SpdmAuthentication :
    (let s := spdmUp 3
     let req : Bytes := [0x13, 0x83, 0, 0] ++ zeros 40
     byteAt req 0 = 0x13 ∧ byteAt req 1 = 0x83 ∧ 44 ≤ req.length ∧ byteAt req 2 = 0 ∧ (Responder.chain s).isSome = true ∧
     s.boot.aliasKey = some 5 ∧ (Responder.summary s (byteAt req 3)).isSome = true ∧ drbgServes s 8 = true ∧
     drbgServes { s with win := {} } 8 = false ∧ Responder.powered s = true ∧ Responder.released s = true) ∧
    ((Responder.measIndices 1).isSome = true ∧ ((0 : Byte).getLsbD 0 = false) ∧ (1 : Byte).getLsbD 0 = true ∧ (zeros 45).length = 45) ∧
    (let req : Bytes := [0x13, 0xE4, 0, 0, 1, 0] ++ zeros 34 ++ be 48 Ec.p384.gx ++ be 48 Ec.p384.gy ++ [0, 0]
     byteAt req 1 = 0xE4 ∧ 138 ≤ req.length ∧ byteAt req 3 = 0 ∧ req.length = 138 + fieldLe req 136 2 ∧
     (Responder.summary (spdmUp 3) (byteAt req 2)).isSome = true ∧ (Ec.decode Ec.p384 (0x04 :: slice req 40 96)).isSome = true) := by decide +kernel

theorem test_meets_SpdmAuthentication_finish :
    let x : SpdmSession := { id := 0x10001, transcript := [1], reqFinished := zeros 48, secret := [] }
    let s : State := { spdmUp 3 with spdm := { (spdmUp 3).spdm with sessions := [x] } }
    let good := Hash.hmac .sha384 x.reqFinished (Hash.sha384 (x.transcript ++ [0x13, 0xE5, 0, 0]))
    s.spdm.sessions.find? (fun x => x.id == 0x10001) = some x ∧ x.established = false ∧ slice ([0x13, 0xE5, 0, 0] ++ good) 4 48 = good ∧
    52 ≤ ([0x13, 0xE5, 0, 0] ++ good).length := by decide +kernel

/-! ### Known answers of the standards that the engines follow, and single steps -/

/-- FIPS 197, appendix C.1. -/
theorem test_aes : ofLe (Aes.encrypt (be 16 0x000102030405060708090a0b0c0d0e0f) (be 16 0x00112233445566778899aabbccddeeff)) =
    ofLe (be 16 0x69c4e0d86a7b0430d8cdb78070b4c55a) := by decide +kernel

/-- The worked DES example whose key is 133457799BBCDFF1. -/
theorem test_des : ofLe (Des.encrypt (be 8 0x133457799BBCDFF1) (be 8 0x0123456789ABCDEF)) = ofLe (be 8 0x85E813540F0AB405) := by decide +kernel

/-- FIPS 180-4, the message "abc". -/
theorem test_sha256 : ofLe (Hash.sha256 (ascii "abc")) =
    ofLe (be 32 0xba7816bf8f01cfea414140de5dae2223b00361a396177a9cb410ff61f20015ad) := by decide +kernel
theorem test_sha384 : ofLe (Hash.sha384 (ascii "abc")) =
    ofLe (be 48 0xcb00753f45a35e8bb5a03d699ac65007272c32ab0eded1631a8b605a43ff5bed8086072ba1e7cc2358baeca134c825a7) := by decide +kernel

/-- FIPS 202, the message "abc". -/
theorem test_sha3 : ofLe (Hash.hash (.sha3 256) (ascii "abc")) =
    ofLe (be 32 0x3a985da74fe225b2045c172d6bd390bd855f086e3e9d525b46bfe24511431532) := by decide +kernel

/-- What P says of the next state. -/
def next (i : Instr) (s : State) (P : State → Bool) : Bool :=
  match exec i s with
  | .next t => P t
  | _ => false

/-- R166: ADD is modulo 2^32. -/
theorem test_add_wraps : next (.kxAdd .scarecrow 3 1 2) (sysRun.modCore 2050 (fun x => { x with w := [(1, 0xFFFFFFFF), (2, 2)] }))
    (fun t => (t.core 2050).getW 3 == 1) = true := by decide +kernel

/-- R170: 5 + 7 in packed BCD is 12. -/
theorem test_bcd_adds : next (.kxBcdadd .wardenA 3 1 2) (sysRun.modCore 2048 (fun x => { x with w := [(1, 5), (2, 7)] }))
    (fun t => (t.core 2048).getW 3 == 0x12) = true := by decide +kernel

/-- R436: PERST_N holds the package in reset. -/
theorem test_perst : next .perstNAssert up (fun t => t.boot.perst && !t.boot.pfEnabled) = true := by decide +kernel

end Sys2Proof.Tests
end

section
/-! Proofs: the state after reset, register writes and resets (O3, O44, O53). -/

namespace Sys2Proof.Machine

open Sys2Proof Sys2Proof.Bits

/-! ### Outcomes -/

/-- A command whose meaning ends in `done u` runs, and what holds of the driven u holds of its next state. -/
theorem runs_of_exec {i : Instr} {s u : State} {P : State → Prop} (h : exec i s = done u) (hP : P u.drive) : Runs i s P :=
  ⟨u.drive, h, hP⟩

/-! ### Arrays -/

/-- A change of every unit of an array, where the default stays the default. -/
theorem get_mapVals {α : Type} [DecidableEq α] {d : α} {f : Nat → α → α} (hd : ∀ k, f k d = d) (m : Map α) (k : Nat) :
    Map.get d (Map.mapVals d f m) k = f k (Map.get d m k) := by
  induction m with
  | nil => exact (hd k).symm
  | cons p r ih =>
    obtain ⟨i, a⟩ := p
    by_cases h : i = k
    · simp [Map.mapVals, Map.get, h]
    · simp [Map.mapVals, Map.get, h, Map.get_set_ne _ _ _ _ _ (Ne.symm h), ih]

/-! ### The state after reset (R3, R7) -/

/-- With no word written, a register reads its Reset column. -/
theorem reset_reg (a : Nat) : State.reset.reg a = regReset a := BitVec.zero_xor

theorem regReset_schTraceCtrl : regReset (schPage + 0x080) = 1 := if_pos rfl

theorem regReset_tuWdog : ∀ b, b < 8 → regReset (barnPage b + 0x080) = 2000 := by decide

/-- Settles O3: every array of the reset state is empty, so that each unit reads as its type's default. -/
theorem resetValues : Obligations.ResetValues := by
  refine ⟨rfl, rfl, fun _ => ⟨rfl, rfl⟩, fun _ _ => ⟨rfl, rfl, rfl⟩, fun _ => ⟨rfl, rfl⟩, rfl, rfl, ?schTraceCtrl, ?tuWdog, rfl,
    fun _ => ⟨rfl, rfl⟩, rfl, fun _ => rfl, rfl, rfl, rfl, rfl, rfl, rfl, rfl, rfl, rfl, rfl, rfl, rfl, rfl, rfl, rfl, ?hostMem⟩
  case schTraceCtrl => rw [reset_reg, regReset_schTraceCtrl]
  case tuWdog =>
    intro b hb
    rw [reset_reg, regReset_tuWdog b hb]
  case hostMem => exact reset_hostMem_wf

/-! ### Register words that the interrupt and error latches touch (R411, R417, R418) -/

@[simp] theorem raiseVec_reg (s : State) (f v a : Nat) : (raiseVec s f v).reg a = s.reg a := by
  unfold raiseVec
  dsimp only
  split <;> rfl

theorem setReg_reg (s : State) (a a' : Nat) (v : Word) : (s.setReg a v).reg a' = if a' = a then v else s.reg a' := by
  split
  · next h => rw [h, State.setReg_self]
  · next h => exact State.setReg_ne _ _ _ _ h

@[simp] theorem setIntRaw_reg (s : State) (page a : Nat) (v : Word) :
    (setIntRaw s page v).reg a = if a = page + 0x20 then v else s.reg a := by
  unfold setIntRaw
  dsimp only
  split <;> simp [setReg_reg, intRawOf]

@[simp] theorem setIntEn_reg (s : State) (page a : Nat) (v : Word) :
    (setIntEn s page v).reg a = if a = page + 0x24 then v else s.reg a := by
  unfold setIntEn
  dsimp only
  split <;> simp [setReg_reg, intEnOf]

/-- With no error latched, the code takes the latch, INT_RAW.err is set, and only INT_RAW, ERR_CODE and ERR_INFO change. -/
theorem latchErr_reg (s : State) (page code info : Nat) (h : (s.reg (page + 0x30)).getLsbD 31 = false) :
    (latchErr s page code info).reg (page + 0x30) = BitVec.ofNat 32 (code + 2 ^ 31) ∧
    (latchErr s page code info).reg (page + 0x20) = s.reg (page + 0x20) ||| BitVec.twoPow 32 30 ∧
    ∀ a, a ≠ page + 0x20 → a ≠ page + 0x30 → a ≠ page + 0x34 → (latchErr s page code info).reg a = s.reg a := by
  have hclear : ((setInt s page 30).reg (errCodeOf page)).getLsbD 31 = false := by simpa [setInt, errCodeOf] using h
  have hlatch : latchErr s page code info = ((setInt s page 30).setReg (errCodeOf page) (BitVec.ofNat 32 (code + 2 ^ 31))).setReg
      (errInfoOf page) (BitVec.ofNat 32 info) := by
    simp only [latchErr, hclear, Bool.false_eq_true, if_false]
  rw [hlatch]
  refine ⟨by simp [setReg_reg, errInfoOf, errCodeOf], by simp [setReg_reg, errInfoOf, errCodeOf, setInt, intRawOf], ?_⟩
  intro a hraw hcode hinfo
  simp [setReg_reg, errInfoOf, errCodeOf, setInt, hraw, hcode, hinfo]

/-! ### Offsets of a block page's counters -/

theorem Blk.events_ge {b : Blk} {o : Nat} (h : o ∈ b.events) : 0x40 ≤ o := by
  cases b <;> simp [Blk.events] at h <;> omega

theorem Blk.perfs_ge {b : Blk} {o : Nat} (h : o ∈ b.perfs) : 0x40 ≤ o := by
  cases b <;> simp [Blk.perfs] at h <;> omega

/-! ### Writes of the common header -/

theorem writeBlk_ctrl (s : State) (b : Blk) (v : Word) :
    writeBlk s b 0x010 v = if v.getLsbD 1 then clearCounters (s.setReg (b.page + 0x010) (v &&& 1)) b
      else s.setReg (b.page + 0x010) (v &&& 1) := rfl

theorem writeBlk_lock (s : State) (b : Blk) (v : Word) :
    writeBlk s b 0x018 v = s.setReg (b.page + 0x018) (s.reg (b.page + 0x018) ||| (v &&& 1)) := rfl

/-- INT_RAW to ERR_CLR of a block page lie below its counters. -/
theorem writeBlk_errInt (s : State) (b : Blk) (o : Nat) (v : Word) (h : 0x018 < o) (h' : o < 0x040) :
    writeBlk s b o v = writeErrInt s b.page o v := by
  have hevents : b.events.contains o = false := by
    by_contra hc
    have := Blk.events_ge (b := b) (o := o) (by simpa using hc)
    omega
  have hperfs : b.perfs.contains (o - 4) = false := by
    by_contra hc
    have := Blk.perfs_ge (b := b) (o := o - 4) (by simpa using hc)
    omega
  have h10 : o ≠ 0x010 := by omega
  have h18 : o ≠ 0x018 := by omega
  simp only [writeBlk, writeHeader, if_pos (show o < 0x080 by omega), if_neg h10, if_neg h18, hevents, hperfs, Bool.false_eq_true, if_false]

theorem writeErrInt_clear (s : State) (page : Nat) (v : Word) (h : v.getLsbD 0 = true) :
    writeErrInt s page 0x038 v = (s.setReg (page + 0x30) 0).setReg (page + 0x34) 0 := by
  simp [writeErrInt, h, errCodeOf, errInfoOf]

theorem writeErrInt_intSet (s : State) (page : Nat) (v : Word) :
    writeErrInt s page 0x02C v = if lcCode s = lcTest then setIntRaw s page (s.reg (page + 0x20) ||| v) else s := rfl

theorem writeErrInt_intRaw (s : State) (page : Nat) (v : Word) :
    writeErrInt s page 0x020 v = setIntRaw s page (s.reg (page + 0x20) &&& ~~~v) := rfl

theorem writeErrInt_intEn (s : State) (page : Nat) (v : Word) : writeErrInt s page 0x024 v = setIntEn s page v := rfl

/-- The header of a gate page has the words INT_RAW to ERR_CLR of a block page. -/
theorem writeGate_errInt (s : State) (page o : Nat) (v : Word) (h : 0x018 < o) (h' : o < 0x040) :
    writeGate s page o v = writeErrInt s page o v := by
  have h10 : o ≠ 0x010 := by omega
  have h18 : o ≠ 0x018 := by omega
  have hcls : ¬(0x080 ≤ o ∧ o < 0x0C0) := by omega
  have hsat : ¬(o = 0x0C4 ∧ v.getLsbD 31 = true) := by omega
  have hlast : ¬(o = 0x0CC ∧ v.getLsbD 31 = true) := by omega
  have hrng : ¬(0x100 ≤ o ∧ o < 0x200 ∧ gateMemory page = true) := by omega
  simp only [writeGate, if_neg h10, if_neg h18, if_neg hcls, if_neg hsat, if_neg hlast, if_neg hrng]

/-! ### The performance counters (R411, R417) -/

/-- Both words of the performance counters at the offsets os of a page become 0. -/
def zeroPerfs (s : State) (page : Nat) (os : List Nat) : State :=
  os.foldl (fun s o => (s.setReg (page + o) 0).setReg (page + o + 4) 0) s

theorem clearCounters_reg (s : State) (b : Blk) (a : Nat) : (clearCounters s b).reg a = (zeroPerfs s b.page b.perfs).reg a := by
  unfold clearCounters zeroPerfs
  dsimp only
  split <;> rfl

theorem zeroPerfs_cons (s : State) (page o : Nat) (os : List Nat) :
    zeroPerfs s page (o :: os) = zeroPerfs ((s.setReg (page + o) 0).setReg (page + o + 4) 0) page os := rfl

theorem zeroPerfs_reg_ne (s : State) (page a : Nat) (os : List Nat) (h : ∀ o ∈ os, a ≠ page + o ∧ a ≠ page + o + 4) :
    (zeroPerfs s page os).reg a = s.reg a := by
  induction os generalizing s with
  | nil => rfl
  | cons o os ih =>
    obtain ⟨hlo, hhi⟩ := h o (List.mem_cons_self ..)
    rw [zeroPerfs_cons, ih _ (fun o' ho' => h o' (List.mem_cons_of_mem _ ho')), State.setReg_ne _ _ _ _ hhi, State.setReg_ne _ _ _ _ hlo]

/-- A word that reads 0 still does after counters are cleared. -/
theorem zeroPerfs_reg_zero (s : State) (page a : Nat) (os : List Nat) (h : s.reg a = 0) : (zeroPerfs s page os).reg a = 0 := by
  induction os generalizing s with
  | nil => exact h
  | cons o os ih =>
    rw [zeroPerfs_cons]
    exact ih _ (by simp [setReg_reg, h])

theorem zeroPerfs_reg_mem (s : State) (page : Nat) {o : Nat} {os : List Nat} (h : o ∈ os) :
    (zeroPerfs s page os).reg (page + o) = 0 ∧ (zeroPerfs s page os).reg (page + o + 4) = 0 := by
  induction os generalizing s with
  | nil => cases h
  | cons o' os ih =>
    rw [zeroPerfs_cons]
    rcases List.mem_cons.mp h with rfl | htail
    · exact ⟨zeroPerfs_reg_zero _ _ _ _ (by simp [setReg_reg]), zeroPerfs_reg_zero _ _ _ _ (by simp)⟩
    · exact ih _ htail

/-! ### Arrival of a write (R341, R347, R405, R419) -/

theorem arriveWrite_of_arrives {s : State} {t : RegTarget} (h : Arrives s t true) (v : Word) :
    arriveWrite s t v = regWrite s (placeOf t) v := by
  obtain ⟨hreach, halign, hsys⟩ := h
  unfold arriveWrite
  rw [if_neg (by simp [hreach, halign])]
  cases t with
  | sys c a =>
    obtain ⟨hanswers, hgated, hgate⟩ := hsys c a rfl
    simp [hanswers, hgated, gatePass, hgate]
  | pfBar0 _ | pfBar2 _ | vfBar0 _ _ | vfBar2 _ _ => rfl

theorem headerWrite_blk {s : State} {t : RegTarget} {b : Blk} {o : Nat} (h : Arrives s t true) (hp : placeOf t = .blk b o) (v : Word) :
    headerWrite s o t v = writeBlk s b o v := by
  simp [headerWrite, hp, arriveWrite_of_arrives h, regWrite]

theorem headerWrite_gate {s : State} {t : RegTarget} {page o : Nat} (h : Arrives s t true) (hp : placeOf t = .gate page o) (v : Word) :
    headerWrite s o t v = writeGate s page o v := by
  simp [headerWrite, hp, arriveWrite_of_arrives h, regWrite]

/-- INT_RAW to ERR_CLR of either kind of page. -/
theorem headerWrite_errInt {s : State} {t : RegTarget} {page o : Nat} {b : Blk} (h : Arrives s t true)
    (hp : placeOf t = .gate page o ∨ (placeOf t = .blk b o ∧ page = b.page)) (v : Word) (hlo : 0x018 < o) (hhi : o < 0x040) :
    headerWrite s o t v = writeErrInt s page o v := by
  rcases hp with hgate | ⟨hblk, rfl⟩
  · rw [headerWrite_gate h hgate, writeGate_errInt _ _ _ _ hlo hhi]
  · rw [headerWrite_blk h hblk, writeBlk_errInt _ _ _ _ hlo hhi]

theorem arriveWrite_misaligned {s : State} {t : RegTarget} (h : targetAddr t % 4 ≠ 0) (v : Word) : arriveWrite s t v = s := by
  unfold arriveWrite
  rw [if_pos (by simp [h])]

theorem arriveWrite_noDie {s : State} {c : InitClass} {a : BitVec 40} (v : Word)
    (h : dieAnswers s a.toNat = false ∨ (dieGated s a.toNat = true ∧ c ≠ .warden)) : arriveWrite s (.sys c a) v = s := by
  unfold arriveWrite
  split
  · rfl
  · rcases h with hout | ⟨hgated, hclass⟩
    · simp [hout]
    · simp [hgated, hclass]

/-! ### REGISTER_WRITE by width (R3, R4, R419) -/

theorem exec_registerWrite_word (s : State) (t : RegTarget) (v : Word) :
    exec (.registerWrite t 4 (v.setWidth 64)) s = done (arriveWrite s t v) := by
  have hlow : (v.setWidth 64).setWidth 32 = v := by simp
  simp [exec, execRegisterWrite, hlow]

theorem exec_registerWrite_arrives {s : State} {t : RegTarget} (h : Arrives s t true) (v : Word) :
    exec (.registerWrite t 4 (v.setWidth 64)) s = done (regWrite s (placeOf t) v) := by
  rw [exec_registerWrite_word, arriveWrite_of_arrives h]

theorem exec_registerWrite_double {s : State} {t : RegTarget} (h : fromHost t = true) (x : BitVec 64) :
    exec (.registerWrite t 8 x) s =
      done (arriveWrite (arriveWrite s t (x.setWidth 32)) (nextWord t) ((x >>> 32).setWidth 32)) := by
  simp [exec, execRegisterWrite, h]

theorem exec_registerWrite_narrow {s : State} {t : RegTarget} (h : fromHost t = true) (hr : reachable s t = true) {size : Fin 9}
    (hsize : size = 1 ∨ size = 2) (x : BitVec 64) :
    exec (.registerWrite t size x) s = done (latchErr s hifPage 2 (targetAddr t % 0x1000)) := by
  rcases hsize with rfl | rfl <;> simp [exec, execRegisterWrite, h, hr]

/-! ### Fields that a write sets -/

theorem putHalf_both (a x : BitVec 64) : putHalf (putHalf a false (x.setWidth 32)) true ((x >>> 32).setWidth 32) = x := by
  apply BitVec.eq_of_toNat_eq
  have hx := x.isLt
  have ha := a.isLt
  simp only [putHalf, half, if_true, Bool.false_eq_true, if_false, BitVec.toNat_ofNat, BitVec.toNat_setWidth, BitVec.toNat_ushiftRight,
    Nat.shiftRight_eq_div_pow]
  omega

theorem setMsix_ne {s : State} {f n m : Nat} (x : MsixEntry) (h : m ≠ n) : (s.setMsix f n x).msix f m = s.msix f m :=
  Map.get_set_ne _ _ _ _ _ (by omega)

/-- Vector n of the PF with another address in its entry. -/
def setMsixAddr (s : State) (n : Nat) (a : BitVec 64) : State := s.setMsix 0 n { s.msix 0 n with addr := a }

theorem setMsixAddr_pfEnabled (s : State) (n : Nat) (a : BitVec 64) : (setMsixAddr s n a).boot.pfEnabled = s.boot.pfEnabled := rfl

theorem setMsixAddr_self (s : State) (n : Nat) (a : BitVec 64) : (setMsixAddr s n a).msix 0 n = { s.msix 0 n with addr := a } :=
  State.setMsix_self _ _ _ _

theorem setMsixAddr_ne (s : State) {n m : Nat} (a : BitVec 64) (h : m ≠ n) : (setMsixAddr s n a).msix 0 m = s.msix 0 m :=
  setMsix_ne _ h

/-- The low word of the address of a PF vector's entry, or the high one. -/
theorem arriveWrite_msixAddr {s : State} {o : BitVec 12} {n : Nat} (hi : Bool) (hpf : s.boot.pfEnabled = true) (hn : n < 64)
    (ho : o.toNat = 16 * n + 4 * hi.toNat) (v : Word) :
    arriveWrite s (.pfBar2 o) v = setMsixAddr s n (putHalf (s.msix 0 n).addr hi v) := by
  have hbit := Bool.toNat_le hi
  have halign : targetAddr (.pfBar2 o) % 4 = 0 := by
    show o.toNat % 4 = 0
    omega
  have harr : Arrives s (.pfBar2 o) true := ⟨by simp [reachable, hpf], halign, fun _ _ e => nomatch e⟩
  have hoff : o.toNat < 0x400 := by omega
  have hentry : o.toNat / 16 = n := by omega
  have hword : o.toNat % 16 / 4 = hi.toNat := by omega
  rw [arriveWrite_of_arrives harr]
  show writeMsix s 0 o.toNat v = _
  unfold writeMsix
  simp only [if_pos hoff, hentry, hword]
  cases hi <;> rfl

/-- The two words of 8 bytes written to the address of a PF vector's entry make it up. -/
theorem exec_registerWrite_msixAddr {s : State} {o : BitVec 12} {n : Nat} (hpf : s.boot.pfEnabled = true) (hn : n < 64)
    (ho : o.toNat = 16 * n) (x : BitVec 64) :
    exec (.registerWrite (.pfBar2 o) 8 x) s = done (setMsixAddr (setMsixAddr s n (putHalf (s.msix 0 n).addr false (x.setWidth 32))) n x) := by
  have hnext : (o + 4#12).toNat = 16 * n + 4 := by
    rw [BitVec.toNat_add, ho, BitVec.toNat_ofNat]
    omega
  have hlow := arriveWrite_msixAddr false hpf hn ho (x.setWidth 32)
  have hhigh := arriveWrite_msixAddr (s := setMsixAddr s n (putHalf (s.msix 0 n).addr false (x.setWidth 32))) true
    ((setMsixAddr_pfEnabled ..).trans hpf) hn hnext ((x >>> 32).setWidth 32)
  rw [setMsixAddr_self, putHalf_both] at hhigh
  rw [exec_registerWrite_double rfl, hlow]
  exact congrArg done hhigh

theorem writeMsix_data (s : State) (f n : Nat) (v : Word) (h : n < 64) :
    writeMsix s f (16 * n + 8) v = s.setMsix f n { s.msix f n with data := v } := by
  have hoff : 16 * n + 8 < 0x400 := by omega
  have hentry : (16 * n + 8) / 16 = n := by omega
  have hword : (16 * n + 8) % 16 / 4 = 2 := by omega
  unfold writeMsix
  simp only [if_pos hoff, hentry, hword]
  rfl

/-- BRN_TU_WDOG: out of its range the field takes 2,000; while the page is locked it keeps its value (R3, R154). -/
theorem writeBlk_tuWdog (s : State) (k : Nat) (v : Word) :
    writeBlk s (.barn k) 0x080 v = if pageLocked s (.barn k) then s
      else s.setReg (barnPage k + 0x080) (BitVec.ofNat 32
        (if 100 ≤ v.toNat % 2 ^ 15 ∧ v.toNat % 2 ^ 15 ≤ 16000 then v.toNat % 2 ^ 15 else 2000)) := by
  have hbits : bits v.toNat 14 0 = v.toNat % 2 ^ 15 := by simp [bits]
  cases hlock : pageLocked s (.barn k) <;> simp [writeBlk, writeBlock, Blk.sats, Blk.page, hlock, hbits, w32]

theorem writePart_weight (s : State) (p : Nat) (v : Word) :
    writePart s p 0x084 v = s.setPart p { s.part p with weight := max 1 (v.toNat % 256), urgentMax := v.toNat / 256 % 256 } := by
  simp [writePart, State.modPart, bits]

/-- Settles O44: an access that arrives is a write at its place, and each place's write is a lemma above. -/
theorem registerWrites : Obligations.RegisterWrites := by
  intro s t v
  refine ⟨fun harr => ⟨?lock, ?gateLock, ?errClr, ?intSet, ?cntClear, ?intEn, ?intRaw, ?wdog, ?weight, ?data, ?nothing⟩,
    ?misaligned, ?noDie, ?double, ?narrow⟩
  case lock =>
    intro b hp
    show done (headerWrite s 0x018 t v) = _
    rw [headerWrite_blk harr hp, writeBlk_lock]
  case gateLock =>
    intro page hp hbit
    show done (headerWrite s 0x018 t v) = _
    rw [headerWrite_gate harr hp]
    simp [writeGate, hbit, lockGate]
  case errClr =>
    intro page b hp hbit
    show done (headerWrite s 0x038 t v) = _
    rw [headerWrite_errInt harr hp v (by decide) (by decide), writeErrInt_clear _ _ _ hbit]
  case intSet =>
    intro page b hp
    have hexec : exec (.intSetWrite t v) s = done (writeErrInt s page 0x02C v) :=
      congrArg done (headerWrite_errInt harr hp v (by decide) (by decide))
    rw [writeErrInt_intSet] at hexec
    refine ⟨fun htest => ?_, fun hother => by rw [hexec, if_neg hother]⟩
    rw [if_pos htest] at hexec
    exact runs_of_exec hexec ⟨by simp, fun a ha => by simp [ha]⟩
  case cntClear =>
    intro b hp hbit
    have hexec : exec (.cntClear t v) s = done (clearCounters (s.setReg (b.page + 0x010) (v &&& 1)) b) := by
      show done (if v.getLsbD 1 then headerWrite s 0x010 t v else s) = _
      rw [if_pos hbit, headerWrite_blk harr hp, writeBlk_ctrl, if_pos hbit]
    refine runs_of_exec hexec ⟨?_, fun o ho => ?_, fun a hctrl hperfs => ?_⟩
    · have hapart : ∀ o ∈ b.perfs, b.page + 0x010 ≠ b.page + o ∧ b.page + 0x010 ≠ b.page + o + 4 := fun o ho => by
        have := Blk.perfs_ge ho
        omega
      rw [State.drive_reg', clearCounters_reg, zeroPerfs_reg_ne _ _ _ _ hapart, State.setReg_self]
    · rw [State.drive_reg', State.drive_reg', clearCounters_reg, clearCounters_reg]
      exact zeroPerfs_reg_mem _ _ ho
    · rw [State.drive_reg', clearCounters_reg, zeroPerfs_reg_ne _ _ _ _ hperfs, State.setReg_ne _ _ _ _ hctrl]
  case intEn =>
    intro b hp
    have hexec := exec_registerWrite_arrives harr v
    rw [hp, show regWrite s (.blk b 0x024) v = setIntEn s b.page v from writeBlk_errInt _ _ _ _ (by decide) (by decide)] at hexec
    exact runs_of_exec hexec ⟨by simp, fun a ha => by simp [ha]⟩
  case intRaw =>
    intro b hp
    have hexec := exec_registerWrite_arrives harr v
    rw [hp, show regWrite s (.blk b 0x020) v = setIntRaw s b.page (s.reg (b.page + 0x20) &&& ~~~v) from
      writeBlk_errInt _ _ _ _ (by decide) (by decide)] at hexec
    exact runs_of_exec hexec ⟨by simp, fun a ha => by simp [ha]⟩
  case wdog =>
    intro k hp
    have hexec := exec_registerWrite_arrives harr v
    rw [hp, regWrite, writeBlk_tuWdog] at hexec
    exact ⟨fun hlocked => hexec.trans (congrArg done (if_pos hlocked)),
      fun hopen => hexec.trans (congrArg done (if_neg (Bool.eq_false_iff.mp hopen)))⟩
  case weight =>
    intro p hp
    rw [exec_registerWrite_arrives harr, hp, regWrite, writePart_weight]
  case data =>
    intro f n hn hp
    rw [exec_registerWrite_arrives harr, hp, regWrite, writeMsix_data _ _ _ _ hn]
  case nothing =>
    rintro (hp | hp | ⟨o, hp⟩) <;> rw [exec_registerWrite_arrives harr, hp, regWrite]
  case misaligned =>
    intro hal
    rw [exec_registerWrite_word, arriveWrite_misaligned hal]
  case noDie =>
    rintro c a rfl hdie
    rw [exec_registerWrite_word, arriveWrite_noDie v hdie]
  case double =>
    intro o x n hpf hn ho
    refine runs_of_exec (exec_registerWrite_msixAddr hpf hn ho x) ⟨?_, fun m _ hm => ?_⟩
    · rw [State.drive_msix', setMsixAddr_self, setMsixAddr_self]
    · rw [State.drive_msix', setMsixAddr_ne _ _ hm, setMsixAddr_ne _ _ hm]
  case narrow =>
    intro hhost hreach hclear size hsize x
    obtain ⟨hcode, hraw, hrest⟩ := latchErr_reg s hifPage 2 (targetAddr t % 0x1000) hclear
    refine runs_of_exec (exec_registerWrite_narrow hhost hreach hsize x) ⟨?_, ?_, fun a h20 h30 h34 => ?_⟩
    · rw [State.drive_reg', hcode]; rfl
    · rw [State.drive_reg', hraw]; simp
    · rw [State.drive_reg', hrest a h20 h30 h34]

/-! ### What a reset keeps of an array (R225, R289) -/

theorem afterReset_part (s : State) (p : Nat) : (afterReset s).part p = keptPart (s.part p) := get_mapVals (fun _ => rfl) _ _

theorem afterReset_useCtr (s : State) (c : Nat) : (afterReset s).useCtr c = keptCtr (s.useCtr c) := get_mapVals (fun _ => rfl) _ _

/-! ### The unit held in reset (R314, R315) -/

theorem heldInReset_held (s : State) (p : BootPhase) : HeldInReset (heldInReset s p) := ⟨rfl, rfl, rfl, fun _ => rfl, rfl, rfl⟩

/-! ### The sensor history (R322) -/

/-- The history with another ring, write position, wrap bit and time of its last record. -/
def withHist (s : State) (ring : Map (BitVec 128)) (next : Nat) (wrap : Bool) (ms : Nat) : State :=
  { s with
    scr := { s.scr with hist := ring, histNext := next, histWrap := wrap }
    scrAux := { s.scrAux with lastMs := ms } }

/-- t differs from s in the history alone. -/
def HistOnly (s t : State) : Prop := ∃ ring next wrap ms, t = withHist s ring next wrap ms

theorem HistOnly.refl (s : State) : HistOnly s s := ⟨s.scr.hist, s.scr.histNext, s.scr.histWrap, s.scrAux.lastMs, rfl⟩

theorem HistOnly.trans {s t u : State} (h : HistOnly s t) (k : HistOnly t u) : HistOnly s u := by
  obtain ⟨_, _, _, _, rfl⟩ := h
  obtain ⟨ring, next, wrap, ms, rfl⟩ := k
  exact ⟨ring, next, wrap, ms, rfl⟩

theorem histPut_only (s : State) (r : Nat) : HistOnly s (histPut s r) := ⟨_, _, _, _, rfl⟩

theorem histTime_only (s : State) : HistOnly s (histTime s) := by
  unfold histTime
  split
  · exact histPut_only _ _
  · exact HistOnly.refl _

theorem histEvent_put (s : State) (code event : Nat) (y : Int) : histEvent s code event y = histPut (histTime s)
    (3 + histDelta (histTime s) * 2 ^ 4 + code * 2 ^ 32 + event * 2 ^ 40 + (BitVec.ofInt 16 y).toNat * 2 ^ 48) := rfl

/-- An EVENT record, with the TIME record before it or without, changes the history alone. -/
theorem histEvent_only (s : State) (code event : Nat) (y : Int) : HistOnly s (histEvent s code event y) := by
  rw [histEvent_put]
  exact (histTime_only s).trans (histPut_only _ _)

theorem histPut_hist (s : State) (r : Nat) : Map.get 0 (histPut s r).scr.hist s.scr.histNext = BitVec.ofNat 128 r :=
  Map.get_set_self _ _ _ _

/-- Inside a block, an EVENT record stands at the write position. -/
theorem histEvent_hist (s : State) (code event : Nat) (y : Int) (h : s.scr.histNext % 256 ≠ 0) :
    Map.get 0 (histEvent s code event y).scr.hist s.scr.histNext =
      BitVec.ofNat 128 (3 + histDelta s * 2 ^ 4 + code * 2 ^ 32 + event * 2 ^ 40 + (BitVec.ofInt 16 y).toNat * 2 ^ 48) := by
  have hinside : histTime s = s := if_neg h
  rw [histEvent_put, hinside, histPut_hist]

/-! ### Trips (R311, R314 to R316) -/

/-- The scarecrow's registers with the latch of a trip of channel c (R316). -/
def latched (s : State) (c : Nat) : Scarecrow :=
  { s.scr with
    causes := s.scr.causes ||| BitVec.twoPow 64 c
    present := s.scr.present ||| BitVec.twoPow 64 c
    tamperN := true
    firstCause := if s.scr.pending then s.scr.firstCause else c
    tamperTime := if s.scr.pending then s.scr.tamperTime else rtcMs s
    pending := true
    count := min 0xFFFF (s.scr.count + 1) }

/-- The latch of one trip and its EVENT record. -/
theorem latchTrip_only (s : State) (c : Nat) (y : Int) : HistOnly { s with scr := latched s c } (latchTrip s c y) := by
  have hlatch : latchTrip s c y = histEvent { s with scr := latched s c } c evTrip y := by
    unfold latchTrip latched
    cases hp : s.scr.pending <;> simp [hp]
  rw [hlatch]
  exact histEvent_only _ _ _ _

/-- A channel whose condition is not present trips: latch, zeroization, HOLD. -/
theorem trip_single {s : State} {c : Nat} (h : s.scr.present.getLsbD c = false) (y : Int) :
    trip s [(c, y)] = enterHold (zeroize (latchTrip s c y)) := by
  simp [trip, h]

theorem enterHold_held (s : State) : HeldInReset (enterHold s) := ⟨rfl, rfl, rfl, fun _ => rfl, rfl, rfl⟩

/-- HOLD is a reset, which leaves none of the keys tier: each of its stores returns to its reset content. -/
theorem enterHold_keysGone (s : State) : KeysGone (enterHold s) :=
  ⟨rfl, rfl, rfl, rfl, rfl, fun _ => ⟨rfl, rfl, rfl⟩, fun _ => rfl, fun _ => ⟨rfl, rfl⟩, fun _ _ => rfl⟩

/-- What HOLD after a zeroization keeps (R5, R314). -/
theorem hold_keeps (s : State) :
    (enterHold (zeroize s)).grn.slots = s.grn.slots ∧ (enterHold (zeroize s)).tal.log = s.tal.log ∧
    (enterHold (zeroize s)).boot.records = s.boot.records ∧ (enterHold (zeroize s)).rowHist = s.rowHist ∧
    (enterHold (zeroize s)).scr.cfg = s.scr.cfg ∧ (enterHold (zeroize s)).lc.otp = s.lc.otp ∧
    (enterHold (zeroize s)).hostMem = s.hostMem := ⟨rfl, rfl, rfl, rfl, rfl, rfl, rfl⟩

/-- One trip, from the latch to HOLD; the EVENT record that comes between changes the history alone. -/
theorem trip_latches {s : State} {c : Nat} (hc : c < 64) (h : s.scr.present.getLsbD c = false) (y : Int) :
    TripLatched s (trip s [(c, y)]) c := by
  obtain ⟨ring, next, wrap, ms, hlatch⟩ := latchTrip_only s c y
  rw [trip_single h, hlatch]
  have hpresent : (s.scr.present ||| BitVec.twoPow 64 c).getLsbD c = true := by simp [hc]
  exact ⟨rfl, hpresent, rfl, rfl, rfl, rfl, rfl, rfl, rfl, rfl, rfl, rfl, rfl, enterHold_keysGone _, enterHold_held _, rfl, rfl,
    hold_keeps _⟩

/-! ### Rises and falls of the supplies (R354, R406, R435, R436) -/

/-- The unit as a reset leaves it, with the Keep rails up (R354). -/
def risen (s : State) : State :=
  let r := afterReset s
  { r with pwr := { r.pwr with rails := true, fallow := false } }

/-- The risen unit with its history: one that lay in FALLOW has recorded its exit (R322). -/
def risenLogged (s : State) : State := if s.pwr.fallow then histEvent (risen s) 0 evFallowExit 0 else risen s

theorem risenLogged_only (s : State) : HistOnly (risen s) (risenLogged s) := by
  unfold risenLogged
  split
  · exact histEvent_only _ _ _ _
  · exact HistOnly.refl _

theorem exec_coldReset {s : State} (env : BootEnv) (h : s.pwr.rails = false) : exec (.coldReset env) s = done (
    if s.scr.battery then boot env (risenLogged s) else trip (risenLogged s) [(chanBattery, 0)]) :=
  congrArg done (if_neg (Bool.eq_false_iff.mp h))

theorem coldReset_boots {s : State} (env : BootEnv) (hrails : s.pwr.rails = false) (hbattery : s.scr.battery = true) :
    exec (.coldReset env) s = done (boot env (risenLogged s)) := by
  rw [exec_coldReset env hrails, if_pos hbattery]

/-- Without a battery the rise of the rails trips the battery-loss channel (log 87). -/
theorem coldReset_trips {s : State} (env : BootEnv) (hrails : s.pwr.rails = false) (hbattery : s.scr.battery = false)
    (h : s.scr.present.getLsbD chanBattery = false) : Runs (.coldReset env) s (fun t => TripLatched s t chanBattery) := by
  have hexec := exec_coldReset env hrails
  obtain ⟨ring, next, wrap, ms, hlogged⟩ := risenLogged_only s
  rw [if_neg (Bool.eq_false_iff.mp hbattery), hlogged] at hexec
  exact runs_of_exec hexec (trip_latches (s := withHist (risen s) ring next wrap ms) (by decide) h 0)

/-- The unit after the Keep rails have fallen, before its battery domain is judged (R349, R406). -/
def fallen (s : State) : State :=
  let t := heldInReset { s with pwr := { s.pwr with rails := false } } .off
  { t with tap := {}, scrAux := { t.scrAux with scanHold := false } }

/-- The fallen unit in FALLOW, before its entry is recorded. -/
def fallowed (s : State) : State := { fallen s with pwr := { (fallen s).pwr with fallow := true } }

theorem exec_keepRailsFall {s : State} (h : s.pwr.rails = true) : exec .keepRailsFall s = done (
    if s.scr.battery && !s.scr.present.getLsbD chanBattery then histEvent (fallowed s) 0 evFallowEntry 0 else loseDomain (fallen s)) :=
  congrArg done (if_neg (by simp [h]))

/-- The record of FALLOW entry, at the write position and after the record that was last before the rails fell. -/
theorem fallowed_record {s : State} (h : s.scr.histNext % 256 ≠ 0) :
    Map.get 0 (histEvent (fallowed s) 0 evFallowEntry 0).scr.hist s.scr.histNext =
      BitVec.ofNat 128 (3 + histDelta s * 2 ^ 4 + 4 * 2 ^ 40) := by
  have hdelta : histDelta (fallowed s) = histDelta s := rfl
  have hrecord := histEvent_hist (fallowed s) 0 evFallowEntry 0 h
  have hfields : ∀ d, 3 + d * 2 ^ 4 + 0 * 2 ^ 32 + evFallowEntry * 2 ^ 40 + (BitVec.ofInt 16 0).toNat * 2 ^ 48 = 3 + d * 2 ^ 4 + 4 * 2 ^ 40 := by
    intro d
    simp [evFallowEntry]
  rw [hfields, hdelta] at hrecord
  exact hrecord

theorem exec_perstNAssert {s : State} (h : s.boot.perst = false) : exec .perstNAssert s = done (
    if s.pwr.rails then heldInReset { s with boot := { s.boot with perst := true } } .off
    else { s with boot := { s.boot with perst := true } }) :=
  congrArg done (if_neg (Bool.eq_false_iff.mp h))

/-- With a battery the fall of the rails begins FALLOW: the unit is held in reset, the battery domain goes on, and the entry is recorded
(R322, R406). -/
theorem keepRailsFall_fallow {s : State} (hrails : s.pwr.rails = true) (hbattery : s.scr.battery = true)
    (h : s.scr.present.getLsbD chanBattery = false) : Runs .keepRailsFall s (fun t =>
      t.pwr.rails = false ∧ t.pwr.fallow = true ∧ HeldInReset t ∧ t.tap = {} ∧ t.scr.chan = s.scr.chan ∧ t.scr.causes = s.scr.causes ∧
      t.grn.rootV = s.grn.rootV ∧ t.grn.rootM = s.grn.rootM ∧ t.grn.present = s.grn.present ∧
      (s.scr.histNext % 256 ≠ 0 → Map.get 0 t.scr.hist s.scr.histNext = BitVec.ofNat 128 (3 + histDelta s * 2 ^ 4 + 4 * 2 ^ 40))) := by
  have hexec := exec_keepRailsFall hrails
  rw [if_pos (by simp [hbattery, h])] at hexec
  have hrecord := fallowed_record (s := s)
  obtain ⟨ring, next, wrap, ms, honly⟩ := histEvent_only (fallowed s) 0 evFallowEntry 0
  rw [honly] at hexec hrecord
  exact runs_of_exec hexec ⟨rfl, rfl, ⟨rfl, rfl, rfl, fun _ => rfl, rfl, rfl⟩, rfl, rfl, rfl, rfl, rfl, rfl, hrecord⟩

/-- Without a battery the battery domain goes too. -/
theorem keepRailsFall_dark {s : State} (hrails : s.pwr.rails = true) (h : s.scr.battery = false ∨ s.scr.present.getLsbD chanBattery = true) :
    Runs .keepRailsFall s (fun t =>
      t.pwr.rails = false ∧ HeldInReset t ∧ t.grn.present = false ∧ t.grn.rootV = 0 ∧ t.grn.slots = s.grn.slots ∧
      t.scr = { cfg := s.scr.cfg } ∧ t.time = {}) := by
  have hexec := exec_keepRailsFall hrails
  rw [if_neg (by rcases h with h | h <;> simp [h])] at hexec
  exact runs_of_exec hexec ⟨rfl, ⟨rfl, rfl, rfl, fun _ => rfl, rfl, rfl⟩, rfl, rfl, rfl, rfl, rfl⟩

/-- Settles O53: one lemma above for each supply that rises or falls; PERST_N, VIO and the self-reset hold or boot what a reset leaves. -/
theorem resets : Obligations.Resets := by
  intro s env r up
  refine ⟨fun hrails => ⟨?cold, ?coldFallow, ?coldDark⟩, ?powered, ?perst, ?perstUnpowered, ?perstHeld, ?perstFree, ?vioFalls, ?vioReturns,
    ?selfReset, ?fallow, ?dark, ?kept⟩
  case cold =>
    intro hbattery hfallow
    have hlogged : risenLogged s = risen s := if_neg (Bool.eq_false_iff.mp hfallow)
    exact (coldReset_boots env hrails hbattery).trans (congrArg (fun u => done (boot env u)) hlogged)
  case coldFallow =>
    intro hbattery hfallow
    have hlogged : risenLogged s = histEvent (risen s) 0 evFallowExit 0 := if_pos hfallow
    exact (coldReset_boots env hrails hbattery).trans (congrArg (fun u => done (boot env u)) hlogged)
  case coldDark => exact coldReset_trips env hrails
  case powered => exact fun hrails => congrArg done (if_pos hrails)
  case perst =>
    intro hperst hrails
    have hexec := exec_perstNAssert hperst
    rw [if_pos hrails] at hexec
    exact runs_of_exec hexec ⟨heldInReset_held _ _, rfl, rfl, rfl, rfl⟩
  case perstUnpowered =>
    intro hperst hrails
    rw [exec_perstNAssert hperst, if_neg (Bool.eq_false_iff.mp hrails)]
  case perstHeld => exact fun hperst => ⟨congrArg done (if_pos hperst), congrArg done (if_pos hperst)⟩
  case perstFree => exact fun hperst => congrArg done (if_neg (Bool.eq_false_iff.mp hperst))
  case vioFalls =>
    intro hrails hvio
    have hexec : exec .vioUndervoltage s = done (heldInReset { s with scrAux := { s.scrAux with vio := false } } .off) :=
      congrArg done (if_pos ⟨hrails, hvio⟩)
    exact runs_of_exec hexec ⟨heldInReset_held _ _, rfl, rfl, rfl⟩
  case vioReturns => exact fun hvio => congrArg done (if_neg (Bool.eq_false_iff.mp hvio))
  case selfReset => exact fun hself => congrArg done (if_pos hself)
  case fallow => exact keepRailsFall_fallow
  case dark => exact keepRailsFall_dark
  case kept =>
    refine ⟨rfl, rfl, rfl, rfl, rfl, rfl, rfl, rfl, rfl, rfl, rfl, rfl, rfl, rfl, rfl, rfl, rfl, rfl, rfl, rfl, rfl, rfl, rfl, rfl,
      rfl, rfl, rfl, fun p => ?_, fun c => ?_⟩
    · have hpart : r.part p = keptPart (s.part p) := afterReset_part s p
      rw [hpart]
      exact ⟨rfl, rfl, rfl, rfl, rfl⟩
    · have hctr : r.useCtr c = keptCtr (s.useCtr c) := afterReset_useCtr s c
      rw [hctr]
      rfl

end Sys2Proof.Machine
end

section
/-! Proofs: flit failures, link widths, dies taken out of service and the training of a stack (O55). -/

namespace Sys2Proof.Machine

open Sys2Proof Sys2Proof.Bits

/-! ### What stays of the service of links, dies and requests -/

/-- From s to t the links, the relaying, the dies in service and out of it and the stacks in service stay, no cause of DEGRADED goes, and every
request outside E stays but for its miss tickets, which an invalidation of the unwrap caches ends (R150). -/
structure KeepsService (E : Set Nat) (s t : State) : Prop where
  links : t.links = s.links
  relay : t.dev.relay = s.dev.relay
  f0 : t.dev.f0 = s.dev.f0
  f1 : t.dev.f1 = s.dev.f1
  out : t.dev.out = s.dev.out
  causes : ∀ i, s.dev.causes.getLsbD i = true → t.dev.causes.getLsbD i = true
  inService : ∀ d, (t.stack d).inService = (s.stack d).inService
  entry : ∀ e, e ∉ E → t.entry e = { s.entry e with tickets := (t.entry e).tickets }

theorem TallyOnly.stack {s t : State} (h : TallyOnly s t) (d : Nat) : t.stack d = s.stack d := by rw [h]; rfl

theorem TallyOnly.dev {s t : State} (h : TallyOnly s t) : t.dev = s.dev := by rw [h]

theorem TallyOnly.keepsService {E : Set Nat} {s t : State} (h : TallyOnly s t) : KeepsService E s t := by
  rw [h]
  exact ⟨rfl, rfl, rfl, rfl, rfl, fun _ hi => hi, fun _ => rfl, fun _ _ => rfl⟩

namespace KeepsService

variable {E F : Set Nat} {s t u : State}

theorem refl : KeepsService E s s := ⟨rfl, rfl, rfl, rfl, rfl, fun _ hi => hi, fun _ => rfl, fun _ _ => rfl⟩

theorem trans (h : KeepsService E s t) (k : KeepsService E t u) : KeepsService E s u where
  links := k.links.trans h.links
  relay := k.relay.trans h.relay
  f0 := k.f0.trans h.f0
  f1 := k.f1.trans h.f1
  out := k.out.trans h.out
  causes := fun i hi => k.causes i (h.causes i hi)
  inService := fun d => (k.inService d).trans (h.inService d)
  entry := fun e he => (k.entry e he).trans (congrArg (fun x : Entry => { x with tickets := (u.entry e).tickets }) (h.entry e he))

theorem mono (h : KeepsService E s t) (hEF : E ⊆ F) : KeepsService F s t :=
  { h with entry := fun e he => h.entry e (fun hE => he (hEF hE)) }

theorem of_empty (h : KeepsService ∅ s t) : KeepsService E s t := h.mono (Set.empty_subset E)

theorem link (h : KeepsService E s t) (l : Nat) : t.link l = s.link l := by
  unfold State.link
  rw [h.links]

theorem die_up (h : KeepsService E s t) (d : Nat) : dieUp t d = dieUp s d := by
  unfold dieUp
  rw [h.f0, h.f1]

theorem status (h : KeepsService E s t) {e : Nat} (he : e ∉ E) : (t.entry e).status = (s.entry e).status := by rw [h.entry e he]

theorem ite {c : Prop} [Decidable c] (h : KeepsService E s t) (k : KeepsService E s u) : KeepsService E s (if c then t else u) := by
  split <;> assumption

theorem after_foldl {α : Type} {f : State → α → State} (hf : ∀ u a, KeepsService E s u → KeepsService E s (f u a)) (l : List α)
    (h : KeepsService E s t) : KeepsService E s (l.foldl f t) :=
  List.foldlRecOn l f h (fun u hu a _ => hf u a hu)

/-! Each operation below is the last of those that lead from s to the state t. -/

/-- An operation on other parts of the state. -/
theorem after_eq (h : KeepsService E s t) (hlinks : u.links = t.links := by rfl) (hdev : u.dev = t.dev := by rfl)
    (hhbm : u.hbm = t.hbm := by rfl) (hentries : u.entries = t.entries := by rfl) : KeepsService E s u := by
  have hstack : ∀ d, u.stack d = t.stack d := fun d => by unfold State.stack; rw [hhbm]
  have hentry : ∀ e, u.entry e = t.entry e := fun e => by unfold State.entry; rw [hentries]
  exact h.trans ⟨hlinks, by rw [hdev], by rw [hdev], by rw [hdev], by rw [hdev], fun i hi => by rwa [hdev], fun d => by rw [hstack],
    fun e _ => by rw [hentry]⟩

theorem after_tallyOnly (h : KeepsService E s t) (k : TallyOnly t u) : KeepsService E s u := h.trans k.keepsService

theorem after_setStack (h : KeepsService E s t) {d : Nat} {x : Hbm} (hx : x.inService = (t.stack d).inService := by rfl) :
    KeepsService E s (t.setStack d x) := by
  refine h.trans ⟨rfl, rfl, rfl, rfl, rfl, fun _ hi => hi, fun k => ?_, fun _ _ => rfl⟩
  by_cases hk : k = d
  · rw [hk, State.setStack_self, hx]
  · rw [State.setStack_ne _ _ _ _ hk]

theorem after_setEntry {e : Nat} (h : KeepsService {e} s t) (x : Entry) : KeepsService {e} s (t.setEntry e x) :=
  h.trans ⟨rfl, rfl, rfl, rfl, rfl, fun _ hi => hi, fun _ => rfl, fun k hk => by rw [State.setEntry_ne _ _ _ _ hk]⟩

theorem after_perfCount (h : KeepsService E s t) {page off n : Nat} : KeepsService E s (perfCount t page off n) :=
  h.after_tallyOnly (perfCount_only _ _ _ _)

theorem after_evtCount (h : KeepsService E s t) {page off hi lo : Nat} : KeepsService E s (evtCount t page off hi lo) :=
  h.after_tallyOnly (evtCount_only _ _ _ _ _)

theorem after_post (h : KeepsService E s t) {x : Tal.Draft} : KeepsService E s (Tal.post t x) := h.after_tallyOnly (Tal.post_only _ _)

theorem after_draw (h : KeepsService E s t) {w : Nat} : KeepsService E s (t.draw w).2 := h.after_eq rfl rfl rfl rfl

theorem after_degrade (h : KeepsService E s t) {c : Nat} {src : BitVec 16} : KeepsService E s (degrade t c src) := by
  refine (h.trans ?_).trans (degrade_only t c src).keepsService
  refine ⟨rfl, rfl, rfl, rfl, rfl, fun i hi => ?_, fun _ => rfl, fun _ _ => rfl⟩
  simp [hi]

end KeepsService

/-! ### Miss tickets (R150) -/

/-- A request after an invalidation of the entries of partition p that satisfy f. -/
def ticketsEnded (p : Nat) (f : Nat → Bool) (x : Entry) : Entry :=
  if x.func = p + 1 then
    { x with tickets := Map.mapVals 0 (fun pos n => if n = 1 ∧ f (handleIdx (x.desc.handle pos)) then 2 else n) x.tickets }
  else x

theorem uwcInvalidateIf_entry (s : State) (p : Nat) (f : Nat → Bool) (e : Nat) :
    (uwcInvalidateIf s p f).entry e = ticketsEnded p f (s.entry e) :=
  get_mapVals (d := ({} : Entry)) (f := fun _ => ticketsEnded p f) (fun _ => if_neg (Nat.zero_ne_add_one p)) s.entries e

/-! ### DEGRADED (R426) -/

theorem degrade_stack (s : State) (c : Nat) (src : BitVec 16) (d : Nat) : (degrade s c src).stack d = s.stack d :=
  (degrade_only s c src).stack d

/-- The cause that DEGRADED is set for stands. -/
theorem degrade_cause (s : State) {c : Nat} (hc : c < 7) (src : BitVec 16) : (degrade s c src).dev.causes.getLsbD c = true := by
  rw [(degrade_only s c src).dev]
  cases h : s.dev.causes.getLsbD c <;> simp [h, hc]

/-! ### Writes to a stack (R258, R260, R264, R266, R268) -/

theorem touch_inService (h : Hbm) (line : Nat) : (Hbm.touch h line).inService = h.inService := by
  unfold Hbm.touch
  dsimp only
  split <;> rfl

theorem writeTag_inService (h : Hbm) (line : Nat) : (Hbm.writeTag h line).inService = h.inService := by
  unfold Hbm.writeTag
  split
  · exact touch_inService _ _
  · rfl

theorem putLine_inService (h : Hbm) (line : Nat) (v : BitVec 512) : (Hbm.putLine h line v).inService = h.inService :=
  (writeTag_inService _ _).trans (touch_inService _ _)

namespace KeepsService

variable {E : Set Nat} {s t : State} {d line : Nat}

theorem after_countCorrection (h : KeepsService E s t) {k : Nat} : KeepsService E s (countCorrection t d k) := by
  unfold countCorrection
  dsimp only
  exact .after_setStack (.after_evtCount (.after_evtCount h))

theorem after_countRow (h : KeepsService E s t) {j : Nat} : KeepsService E s (countRow t d line j) := by
  have hfull : ∀ u, KeepsService E s u → KeepsService E s { u with dev := { u.dev with rowsFull := true } } := fun u hu =>
    hu.trans ⟨rfl, rfl, rfl, rfl, rfl, fun _ hi => hi, fun _ => rfl, fun _ _ => rfl⟩
  unfold countRow
  dsimp only
  exact .ite h (.ite (.after_setStack h) (.ite (.ite (.after_setStack h) (.after_post (hfull _ (.after_setStack h))))
    (.ite (.after_setStack h) (.after_setStack (.after_setStack h)))))

theorem after_correctLine (h : KeepsService E s t) : KeepsService E s (correctLine t d line) := by
  unfold correctLine
  split
  · exact .after_countRow (.after_countCorrection (.ite h (.after_setStack h)))
  · exact h

theorem after_readLine (h : KeepsService E s t) : KeepsService E s (readLine t d line) := by
  unfold readLine
  dsimp only
  exact .ite h (.ite (.after_perfCount h) (.after_correctLine (.ite (.after_correctLine (.after_perfCount h)) (.after_perfCount h))))

theorem after_completeMerge (h : KeepsService E s t) : KeepsService E s (completeMerge t d line) := by
  unfold completeMerge
  dsimp only
  split
  · exact h
  · exact .ite (.after_evtCount (.after_setStack h)) (.ite (.after_setStack h)
      (.after_perfCount (.after_setStack (.ite h (.after_readLine (.after_perfCount h))) (by dsimp only; exact putLine_inService _ _ _))))

theorem after_makeMergeRoom (h : KeepsService E s t) : KeepsService E s (makeMergeRoom t d) := by
  unfold makeMergeRoom
  dsimp only
  refine .ite h ?_
  split
  · exact .after_completeMerge h
  · exact h

theorem after_hbmPartial (h : KeepsService E s t) {o : Nat} {bs : Bytes} : KeepsService E s (hbmPartial t d line o bs) := by
  have hput : ∀ merge, KeepsService E s (t.setStack d { Hbm.touch (t.stack d) line with merge := merge }) := fun _ =>
    .after_setStack h (touch_inService _ _)
  unfold hbmPartial
  dsimp only
  exact .ite (.after_evtCount h) (.after_makeMergeRoom (.ite (.after_completeMerge (hput _)) (hput _)))

theorem after_writeTagBytes (h : KeepsService E s t) {o : Nat} {bs : Bytes} : KeepsService E s (writeTagBytes t d line o bs) := by
  unfold writeTagBytes
  dsimp only
  refine .after_foldl (fun u k hu => ?_) _ (.after_setStack h (touch_inService _ _))
  exact .ite hu (.after_setStack hu)

theorem after_hbmLineWrite (h : KeepsService E s t) {o : Nat} {bs : Bytes} : KeepsService E s (hbmLineWrite t d line o bs) := by
  unfold hbmLineWrite
  dsimp only
  exact .ite (.after_perfCount (.after_writeTagBytes h))
    (.ite (.after_perfCount (.after_setStack h (by dsimp only; exact putLine_inService _ _ _))) (.after_hbmPartial h))

theorem after_hbmWriteAux (h : KeepsService E s t) {fuel off : Nat} {bs : Bytes} : KeepsService E s (hbmWriteAux d fuel t off bs) := by
  induction fuel generalizing t off bs with
  | zero => exact h
  | succ fuel ih =>
    unfold hbmWriteAux
    exact .ite h (ih (.after_hbmLineWrite h))

theorem after_hbmWrite (h : KeepsService E s t) {off : Nat} {bs : Bytes} : KeepsService E s (hbmWrite t d off bs) := .after_hbmWriteAux h

/-! ### The trace (R131, R132) -/

theorem after_sched (h : KeepsService E s t) {x : Sched} : KeepsService E s { t with sched := x } := .after_eq h

theorem after_startBlock (h : KeepsService E s t) {n r : Nat} : KeepsService E s (Trace.startBlock t n r) := by
  unfold Trace.startBlock
  dsimp only
  exact .after_sched (.after_hbmWrite (.after_setStack h))

theorem after_append (h : KeepsService E s t) {r : Nat} : KeepsService E s (Trace.append t r) := by
  unfold Trace.append
  dsimp only
  split
  · exact .after_startBlock h
  · exact .ite (.after_startBlock (.ite (.after_evtCount h) h)) (.after_sched (.after_hbmWrite (.after_hbmWrite h)))

theorem after_event (h : KeepsService E s t) {e kind ctx word : Nat} : KeepsService E s (Trace.event t e kind ctx word) := by
  unfold Trace.event
  dsimp only
  refine .ite h ?_
  by_cases hpf : (t.entry e).func = 0
  · simp only [if_pos hpf]
    exact .after_append (.after_draw h)
  · simp only [if_neg hpf]
    exact .after_append h

/-! ### How a request ends (R123, R186, R190, R210, R284, R381) -/

theorem after_releaseBne (h : KeepsService E s t) {c : Nat} {wipe : Bool} : KeepsService E s (releaseBne t c wipe) := by
  unfold releaseBne
  dsimp only
  split <;> exact .after_eq h

theorem after_eraseBeSlots (h : KeepsService E s t) {c : Nat} : KeepsService E s (eraseBeSlots t c) := by
  unfold eraseBeSlots
  refine .after_foldl (fun u k hu => ?_) _ h
  exact .after_eq hu

theorem after_releaseBae (h : KeepsService E s t) {e : Nat} : KeepsService E s (releaseBae t e) := by
  unfold releaseBae
  split
  · exact h
  · exact .after_eq h

theorem after_bulkRead (h : KeepsService E s t) {b n : Nat} {m : BulkMsg} : KeepsService E s (bulkRead t b m n).2.2 := by
  unfold bulkRead
  exact .after_perfCount h

theorem after_bulkWrite (h : KeepsService E s t) {b : Nat} {m : BulkMsg} {bs : Bytes} : KeepsService E s (bulkWrite t b m bs).1 := by
  unfold bulkWrite
  exact .after_perfCount (.after_eq h)

theorem after_bulkAdvance (h : KeepsService E s t) {b : Nat} {m : BulkMsg} : KeepsService E s (bulkAdvance t b m).1 := by
  unfold bulkAdvance
  split
  · exact h
  · dsimp only
    split
    · exact .after_draw (w := 64) h
    · exact .after_bulkWrite (.after_bulkRead (.after_draw h))

theorem after_bulkEnd (h : KeepsService E s t) {e : Nat} : KeepsService E s (bulkEnd t e).2.2 := by
  unfold bulkEnd
  split
  · exact h
  · split
    · exact h
    · dsimp only
      split
      · exact .after_bulkAdvance h
      · exact h

/-- An invalidation of the unwrap caches ends miss tickets, and changes no request otherwise. -/
theorem after_uwcInvalidateIf (h : KeepsService E s t) {p : Nat} {f : Nat → Bool} : KeepsService E s (uwcInvalidateIf t p f) := by
  refine h.trans ⟨rfl, rfl, rfl, rfl, rfl, fun _ hi => hi, fun _ => rfl, fun e _ => ?_⟩
  rw [uwcInvalidateIf_entry]
  unfold ticketsEnded
  split <;> rfl

theorem after_sealCut (h : KeepsService E s t) {e : Nat} {st : Status} : KeepsService E s (sealCut t e st) := by
  unfold sealCut uwcInvalidateAll
  dsimp only
  exact .ite h (.ite (.after_uwcInvalidateIf (.after_eq (.after_draw (w := 1) h))) (.after_draw h))

theorem after_settleDeficit (h : KeepsService E s t) {c : Cls} {p : Nat} : KeepsService E s (settleDeficit t d c p) := by
  unfold settleDeficit
  exact .ite h (.ite (.after_eq h) h)

theorem after_leaveReady {e : Nat} (h : KeepsService {e} s t) {ph : ReqPhase} : KeepsService {e} s (leaveReady t e ph) := by
  unfold leaveReady
  dsimp only
  exact .ite (.after_settleDeficit (.after_setEntry h _)) (.after_setEntry h _)

end KeepsService

section
variable (s : State) (e : Nat)

theorem clearGroup_eq (wipe : Bool) : ∃ u, KeepsService ∅ s u ∧ clearGroup s e wipe = u.modEntry e (fun x => { x with group := [] }) := by
  refine ⟨_, .after_foldl (fun u c hu => ?_) _ .refl, rfl⟩
  exact .after_eq (.after_eraseBeSlots (c := c) (.after_releaseBne (c := c) (wipe := wipe) hu))

theorem clearGroup_keepsService (wipe : Bool) : KeepsService {e} s (clearGroup s e wipe) := by
  obtain ⟨u, hu, heq⟩ := clearGroup_eq s e wipe
  rw [heq]
  exact hu.of_empty.after_setEntry _

theorem clearGroup_status (wipe : Bool) : ((clearGroup s e wipe).entry e).status = (s.entry e).status := by
  obtain ⟨u, hu, heq⟩ := clearGroup_eq s e wipe
  rw [heq, State.modEntry, State.setEntry_self]
  exact hu.status (Set.notMem_empty e)

theorem redeemTally_keepsService : KeepsService {e} s (redeemTally s e) := by
  unfold redeemTally
  dsimp only
  exact .ite .refl (.after_tallyOnly (.after_setEntry .refl _) (Tal.redeem_only _ _ _))

theorem redeemTally_status : ((redeemTally s e).entry e).status = (s.entry e).status := by
  unfold redeemTally
  dsimp only
  split
  · rfl
  · rw [(Tal.redeem_only _ _ _).keepsService.status (Set.notMem_empty e), State.modEntry, State.setEntry_self]

/-- The state once a request that is staged has given back what it held. -/
def givenBack : State := redeemTally (releaseBae (clearGroup s e false) e) e

theorem givenBack_keepsService : KeepsService {e} s (givenBack s e) :=
  (clearGroup_keepsService s e false).after_releaseBae.trans (redeemTally_keepsService _ _)

theorem givenBack_status : ((givenBack s e).entry e).status = (s.entry e).status := by
  unfold givenBack
  rw [redeemTally_status, (KeepsService.after_releaseBae .refl).status (Set.notMem_empty e), clearGroup_status]

theorem stageEntry_eq : ∃ word, stageEntry s e =
    Trace.event ((givenBack s e).modEntry e (fun x => { x with state := .staged, phase := .done })) e Trace.kStage 0 word := ⟨_, rfl⟩

theorem stageEntry_keepsService : KeepsService {e} s (stageEntry s e) := by
  obtain ⟨word, heq⟩ := stageEntry_eq s e
  rw [heq]
  exact .after_event (.after_setEntry (givenBack_keepsService _ _) _)

theorem stageEntry_staged : ((stageEntry s e).entry e).state = .staged ∧ ((stageEntry s e).entry e).status = (s.entry e).status := by
  obtain ⟨word, heq⟩ := stageEntry_eq s e
  rw [heq, (KeepsService.after_event .refl).entry e (Set.notMem_empty e), State.modEntry, State.setEntry_self]
  exact ⟨rfl, givenBack_status _ _⟩

end

section
variable {s : State} {e : Nat} {st : Status}

/-- Only an accepted request that has not been staged can be ended. -/
theorem endRequest_of_not_reserved (h : ¬ ((s.entry e).state = .reserved ∧ (s.entry e).accepted = true)) : endRequest s e st = s := if_neg h

/-- A request that is ended is staged, with the status it is ended with. -/
theorem endRequest_stages (h : (s.entry e).state = .reserved ∧ (s.entry e).accepted = true) :
    ∃ u x, KeepsService {e} s u ∧ x.status = st ∧ endRequest s e st = stageEntry (u.setEntry e x) e :=
  ⟨_, _, .after_leaveReady (ph := .posted) (.after_bulkEnd (e := e) (.after_sealCut (e := e) (st := st) .refl)), rfl, if_pos h⟩

theorem endRequest_ends (h : (s.entry e).state = .reserved ∧ (s.entry e).accepted = true) :
    ((endRequest s e st).entry e).state = .staged ∧ ((endRequest s e st).entry e).status = st := by
  obtain ⟨u, x, -, hx, heq⟩ := endRequest_stages (st := st) h
  obtain ⟨hstate, hstatus⟩ := stageEntry_staged (u.setEntry e x) e
  rw [heq]
  exact ⟨hstate, by rw [hstatus, State.setEntry_self, hx]⟩

end

theorem endRequest_keepsService (s : State) (e : Nat) (st : Status) : KeepsService {e} s (endRequest s e st) := by
  by_cases h : (s.entry e).state = .reserved ∧ (s.entry e).accepted = true
  · obtain ⟨u, x, hu, -, heq⟩ := endRequest_stages (st := st) h
    rw [heq]
    exact (hu.after_setEntry x).trans (stageEntry_keepsService _ _)
  · rw [endRequest_of_not_reserved h]
    exact .refl

/-! ### Requests that a lost die ends (R20, R25) -/

/-- A pass over a list that holds e: its step at e leads from P to Q, its other steps keep P, and all of them keep Q. -/
theorem foldl_reaches {α : Type} {f : State → α → State} {P Q : State → Prop} {e : α} (hreach : ∀ s, P s → Q (f s e))
    (hP : ∀ s k, k ≠ e → P s → P (f s k)) (hQ : ∀ s k, Q s → Q (f s k)) {l : List α} (hmem : e ∈ l) {s : State} (h : P s) :
    Q (l.foldl f s) := by
  induction l generalizing s with
  | nil => cases hmem
  | cons k l ih =>
    by_cases hk : k = e
    · rw [List.foldl_cons, hk]
      exact List.foldlRecOn l f (hreach s h) (fun u hu a _ => hQ u a hu)
    · exact ih ((List.mem_cons.mp hmem).resolve_left (Ne.symm hk)) (hP s k hk h)

/-- The request is accepted and has not been staged. -/
def Underway (x : Entry) : Prop := x.state = .reserved ∧ x.accepted = true

/-- The completion is staged with a status. -/
def StagedWith (st : Status) (x : Entry) : Prop := x.state = .staged ∧ x.status = st

/-- The completion is staged ABORTED, and its output is gone. -/
def OutputLost (x : Entry) : Prop := x.state = .staged ∧ x.status = St.aborted ∧ x.out = []

section
variable {s : State} {e k : Nat} {st : Status}

/-- What holds of a request whatever its miss tickets are stays for those outside E. -/
theorem KeepsService.entry_sat {E : Set Nat} {t : State} (h : KeepsService E s t) (he : e ∉ E) {P : Entry → Prop}
    (hP : ∀ x m, P x → P { x with tickets := m }) (hx : P (s.entry e)) : P (t.entry e) := by
  rw [h.entry e he]
  exact hP _ _ hx

/-- Ending a request changes nothing once it is staged. -/
theorem endRequest_of_staged (h : (s.entry e).state = .staged) : endRequest s e st = s :=
  endRequest_of_not_reserved (fun hx => by simp [h] at hx)

/-- Ending any request keeps what holds of a staged one. -/
theorem endRequest_keepsStaged {P : Entry → Prop} (hP : ∀ x m, P x → P { x with tickets := m }) (h : (s.entry e).state = .staged)
    (hx : P (s.entry e)) : P ((endRequest s k st).entry e) := by
  by_cases hk : e = k
  · rwa [← hk, endRequest_of_staged h]
  · exact (endRequest_keepsService s k st).entry_sat hk hP hx

theorem foldl_endRequest_stagedWith {l : List Nat} (hmem : e ∈ l) (h : Underway (s.entry e)) :
    StagedWith st ((l.foldl (fun s k => endRequest s k st) s).entry e) :=
  foldl_reaches (f := fun s k => endRequest s k st) (P := fun s => Underway (s.entry e)) (Q := fun s => StagedWith st (s.entry e))
    (fun _ hs => endRequest_ends hs)
    (fun s k hk hs => (endRequest_keepsService s k st).entry_sat (Ne.symm hk) (fun _ _ hx => hx) hs)
    (fun _ _ hs => endRequest_keepsStaged (fun _ _ hx => hx) hs.1 hs) hmem h

theorem foldl_endRequest_staged {l : List Nat} (h : (s.entry e).state = .staged) :
    ((l.foldl (fun s k => endRequest s k st) s).entry e).state = .staged :=
  List.foldlRecOn l _ (motive := fun u : State => (u.entry e).state = .staged) h
    (fun _ hu _ _ => endRequest_keepsStaged (P := fun x => x.state = .staged) (fun _ _ hx => hx) hu hu)

theorem loseStaged_keepsService (s : State) (k : Nat) : KeepsService {k} s (loseStaged s k) := .after_setEntry .refl _

theorem loseStaged_outputLost (h : (s.entry e).state = .staged) : OutputLost ((loseStaged s e).entry e) := by
  rw [loseStaged, State.modEntry, State.setEntry_self]
  exact ⟨h, rfl, rfl⟩

/-- The loss of any output keeps what holds of a staged request and of one whose output is lost. -/
theorem loseStaged_keepsStaged {P : Entry → Prop} (hP : ∀ x m, P x → P { x with tickets := m }) (hlost : ∀ x, OutputLost x → P x)
    (h : (s.entry e).state = .staged) (hx : P (s.entry e)) : P ((loseStaged s k).entry e) := by
  by_cases hk : e = k
  · rw [← hk]
    exact hlost _ (loseStaged_outputLost h)
  · exact (loseStaged_keepsService s k).entry_sat hk hP hx

theorem foldl_loseStaged_outputLost {l : List Nat} (hmem : e ∈ l) (h : (s.entry e).state = .staged) :
    OutputLost ((l.foldl loseStaged s).entry e) :=
  foldl_reaches (P := fun s => (s.entry e).state = .staged) (Q := fun s => OutputLost (s.entry e))
    (fun _ hs => loseStaged_outputLost hs)
    (fun _ _ _ hs => loseStaged_keepsStaged (P := fun x => x.state = .staged) (fun _ _ hx => hx) (fun _ hx => hx.1) hs hs)
    (fun _ _ hs => loseStaged_keepsStaged (fun _ _ hx => hx) (fun _ hx => hx) hs.1 hs) hmem h

theorem foldl_loseStaged_aborted {l : List Nat} (h : StagedWith St.aborted (s.entry e)) :
    StagedWith St.aborted ((l.foldl loseStaged s).entry e) :=
  List.foldlRecOn l _ (motive := fun u : State => StagedWith St.aborted (u.entry e)) h
    (fun _ hu _ _ => loseStaged_keepsStaged (fun _ _ hx => hx) (fun _ hx => ⟨hx.1, hx.2.1⟩) hu.1 hu)

end

/-- An index whose unit satisfies p is among those listed, where the default does not satisfy it. -/
theorem mem_keysWhere {α : Type} {d : α} {p : Nat → α → Bool} {m : Map α} {k : Nat} (hd : p k d = false) (h : p k (Map.get d m k) = true) :
    k ∈ Map.keysWhere p m := by
  induction m with
  | nil => simp [hd] at h
  | cons x r ih =>
    obtain ⟨i, a⟩ := x
    by_cases hi : i = k
    · have ha : p k a = true := by simpa [Map.get, hi] using h
      simp [Map.keysWhere, ha, hi]
    · have htail : k ∈ Map.keysWhere p r := ih (by simpa [Map.get, hi] using h)
      unfold Map.keysWhere at htail ⊢
      rw [List.filter_cons]
      split
      · exact List.mem_cons_of_mem _ htail
      · exact htail

theorem mem_entriesWhere {s : State} {p : Entry → Bool} {e : Nat} (hd : p {} = false) (h : p (s.entry e) = true) : e ∈ entriesWhere s p :=
  mem_keysWhere (d := ({} : Entry)) (p := fun _ x => p x) hd h

/-! ### A Field die taken out of service (R20) -/

/-- The state with die d marked out of service until the next reset. -/
def withoutDie (s : State) (d : Nat) : State :=
  { s with dev := { s.dev with
    f0 := s.dev.f0 && d != 1
    f1 := s.dev.f1 && d != 2
    out := s.dev.out ||| BitVec.twoPow 2 (d - 1) } }

/-- The loss of die d indicated to the host, before its requests are ended. -/
def lossNoted (s : State) (d cause : Nat) (src : BitVec 16) : State :=
  if (withoutDie s d).dev.causes.getLsbD cause then noteStatus s (withoutDie s d) else degrade (withoutDie s d) cause src

/-- A request dispatched to die d whose completion has not been staged. -/
def dispatchedTo (d : Nat) (x : Entry) : Bool :=
  x.die == d && (x.phase == .running || x.phase == .drafted || x.phase == .posted) && x.state == .reserved

/-- A request that ran on die d whose completion is staged. -/
def stagedOn (d : Nat) (x : Entry) : Bool := x.die == d && x.ran && x.state == .staged

section
variable {s : State} {d cause : Nat} {src : BitVec 16}

theorem dieOut_eq : dieOut s d cause src = (entriesWhere s (stagedOn d)).foldl loseStaged
    ((entriesWhere (lossNoted s d cause src) (dispatchedTo d)).foldl (fun s e => endRequest s e St.aborted) (lossNoted s d cause src)) := rfl

theorem lossNoted_keepsService {E : Set Nat} : KeepsService E (withoutDie s d) (lossNoted s d cause src) :=
  .ite (.after_tallyOnly .refl (noteStatus_only _ _)) (.after_degrade .refl)

theorem lossNoted_cause (hc : cause < 7) : (lossNoted s d cause src).dev.causes.getLsbD cause = true := by
  unfold lossNoted
  split
  · next h => rwa [(noteStatus_only _ _).dev]
  · exact degrade_cause _ hc _

theorem lossNoted_entry (e : Nat) : (lossNoted s d cause src).entry e = { s.entry e with tickets := ((lossNoted s d cause src).entry e).tickets } :=
  (lossNoted_keepsService (E := ∅)).entry e (Set.notMem_empty e)

/-- Ending its requests changes nothing of the loss of a die. -/
theorem dieOut_keepsLoss : KeepsService Set.univ (lossNoted s d cause src) (dieOut s d cause src) := by
  rw [dieOut_eq]
  refine .after_foldl (fun u e hu => ?_) _ (.after_foldl (fun u e hu => ?_) _ .refl)
  · exact hu.trans ((loseStaged_keepsService u e).mono (Set.subset_univ _))
  · exact hu.trans ((endRequest_keepsService u e St.aborted).mono (Set.subset_univ _))

/-- A request dispatched to the lost die ends ABORTED. -/
theorem dieOut_ends {e : Nat} (hdisp : dispatchedTo d (s.entry e) = true) (hacc : (s.entry e).accepted = true) :
    StagedWith St.aborted ((dieOut s d cause src).entry e) := by
  have hreserved : (s.entry e).state = .reserved := by simp only [dispatchedTo, Bool.and_eq_true, beq_iff_eq] at hdisp; exact hdisp.2
  have hmem : e ∈ entriesWhere (lossNoted s d cause src) (dispatchedTo d) := by
    refine mem_entriesWhere (by simp [dispatchedTo]) ?_
    rw [lossNoted_entry]
    exact hdisp
  have hunderway : Underway ((lossNoted s d cause src).entry e) := by
    rw [lossNoted_entry]
    exact ⟨hreserved, hacc⟩
  rw [dieOut_eq]
  exact foldl_loseStaged_aborted (foldl_endRequest_stagedWith hmem hunderway)

/-- A staged completion of a request that ran on the lost die becomes ABORTED, without output. -/
theorem dieOut_loses {e : Nat} (hstaged : stagedOn d (s.entry e) = true) : OutputLost ((dieOut s d cause src).entry e) := by
  have hstate : ((lossNoted s d cause src).entry e).state = .staged := by
    rw [lossNoted_entry]
    simp only [stagedOn, Bool.and_eq_true, beq_iff_eq] at hstaged
    exact hstaged.2
  rw [dieOut_eq]
  exact foldl_loseStaged_outputLost (mem_entriesWhere (by simp [stagedOn]) hstaged) (foldl_endRequest_staged hstate)

end

section
variable (s : State) (d cause : Nat) (src : BitVec 16)

/-- Both dies out before the release stall the boot, which changes nothing else that is looked at here. -/
theorem loseDie_keepsOut : KeepsService ∅ (dieOut s d cause src) (loseDie s d cause src) := .ite (.after_eq .refl) .refl

theorem loseDie_entry (e : Nat) : (loseDie s d cause src).entry e = (dieOut s d cause src).entry e := by
  unfold loseDie
  dsimp only
  split <;> rfl

theorem loseDie_keepsService : KeepsService Set.univ (withoutDie s d) (loseDie s d cause src) :=
  (lossNoted_keepsService.trans dieOut_keepsLoss).trans (loseDie_keepsOut s d cause src).of_empty

theorem loseDie_cause (hc : cause < 7) : (loseDie s d cause src).dev.causes.getLsbD cause = true :=
  (loseDie_keepsOut s d cause src).causes _ (dieOut_keepsLoss.causes _ (lossNoted_cause hc))

theorem loseDie_out (hd : d - 1 < 2) : (loseDie s d cause src).dev.out.getLsbD (d - 1) = true := by
  rw [(loseDie_keepsService s d cause src).out]
  simp [withoutDie, hd]

theorem loseDie_down : dieUp (loseDie s d cause src) d = false := by
  rw [(loseDie_keepsService s d cause src).die_up]
  unfold dieUp withoutDie
  split
  · next h => simp [h]
  · split
    · next h => simp [h]
    · rfl

end

/-! ### A Field die settled (R20, R254) -/

/-- The state of a die in service or not, apart from the indication to the host. -/
def withDie (s : State) (d : Nat) (up : Bool) : State :=
  { s with dev := { s.dev with
    f0 := if d = 1 then up else s.dev.f0
    f1 := if d = 2 then up else s.dev.f1 } }

/-- The die's stack is in service, its link has a width, and nothing has taken it out. -/
def dieServes (s : State) (d : Nat) : Bool := (s.stack d).inService && decide (8 ≤ (s.link (d - 1)).lanes) && !s.dev.out.getLsbD (d - 1)

theorem settleDie_only (s : State) (d : Nat) : TallyOnly (withDie s d (dieServes s d)) (settleDie s d) := noteStatus_only _ _

theorem settleDie_out (s : State) (d : Nat) : (settleDie s d).dev.out = s.dev.out := by rw [(settleDie_only s d).dev]; rfl

theorem settleDie_causes (s : State) (d : Nat) : (settleDie s d).dev.causes = s.dev.causes := by rw [(settleDie_only s d).dev]; rfl

theorem settleDie_links (s : State) (d : Nat) : (settleDie s d).links = s.links := (settleDie_only s d).keepsService (E := ∅) |>.links

theorem settleDie_stack (s : State) (d k : Nat) : (settleDie s d).stack k = s.stack k := (settleDie_only s d).stack k

@[simp] theorem dieUp_drive (s : State) (d : Nat) : dieUp s.drive d = dieUp s d := rfl

theorem settleDie_up (s : State) {d : Nat} (hd : d = 1 ∨ d = 2) : dieUp (settleDie s d) d = dieServes s d := by
  unfold dieUp
  rw [(settleDie_only s d).dev]
  rcases hd with rfl | rfl <;> rfl

/-- The statement's indication of a Field die is the model's. -/
theorem dieUp_field (s : State) (d : Fin 2) : (if d = 0 then s.dev.f0 else s.dev.f1) = dieUp s (d.val + 1) := by
  fin_cases d <;> rfl

/-! ### Links (R18 to R21) -/

theorem linkWidth_eq_widest (l : Fin 3) (good : Nat) : linkWidth l good = widest (if l = 2 then 16 else 32) good := by
  fin_cases l <;> rfl

/-- A link at its new width, with DEGRADED set when it is narrower than the full one. -/
def linkUp (s : State) (l w : Nat) : State :=
  let t := s.setLink l { lanes := w }
  if w < fullLanes l then degrade (latchLink t l w) causeLink 0 else t

/-- The state after a retrain of link l with so many working lanes. -/
def retrained (s : State) (l : Fin 3) (good : Fin 33) : State :=
  let w := linkWidth l good
  let t := linkUp s l w
  if l.val = 2 then { t with dev := { t.dev with relay := w == 0 } }
  else if w = 0 then loseDie t (l + 1) causeLink 0
  else settleDie t (l + 1)

theorem exec_linkRetrainDone {s : State} (h : keepRuns s = true) (l : Fin 3) (good : Fin 33) :
    exec (.linkRetrainDone l good) s = done (retrained s l good) := congrArg done (if_neg (by simp [h]))

section
variable (s : State)

theorem latchLink_only (l w : Nat) : TallyOnly s (latchLink s l w) :=
  .ite ((latchErr_only _ _ _ _).trans (latchErr_only _ _ _ _)) ((latchErr_only _ _ _ _).trans (latchErr_only _ _ _ _))

theorem linkUp_keepsService {E : Set Nat} (l w : Nat) : KeepsService E (s.setLink l { lanes := w }) (linkUp s l w) :=
  .ite (.after_degrade (.after_tallyOnly .refl (latchLink_only _ _ _))) .refl

theorem linkUp_narrow {l w : Nat} (h : w < fullLanes l) : (linkUp s l w).dev.causes.getLsbD causeLink = true := by
  unfold linkUp
  rw [if_pos h]
  exact degrade_cause _ (by decide) _

theorem linkUp_entry (l w e : Nat) : (linkUp s l w).entry e = { s.entry e with tickets := ((linkUp s l w).entry e).tickets } :=
  (linkUp_keepsService (E := ∅) s l w).entry e (Set.notMem_empty e)

variable (l : Fin 3) (good : Fin 33)

/-- What a link's new width leads to changes no link and takes no cause of DEGRADED away. -/
theorem retrained_keepsLinks : (retrained s l good).links = (s.setLink l { lanes := linkWidth l good }).links ∧
    ((linkUp s l (linkWidth l good)).dev.causes.getLsbD causeLink = true → (retrained s l good).dev.causes.getLsbD causeLink = true) := by
  have hup := linkUp_keepsService (E := ∅) s l (linkWidth l good)
  unfold retrained
  dsimp only
  split
  · exact ⟨hup.links, id⟩
  · split
    · exact ⟨(loseDie_keepsService _ _ _ _).links.trans hup.links, (loseDie_keepsService _ _ _ _).causes _⟩
    · exact ⟨(settleDie_links _ _).trans hup.links, fun h => by rwa [settleDie_causes]⟩

theorem retrained_link_self : (retrained s l good).link l = { lanes := linkWidth l good } := by
  unfold State.link
  rw [(retrained_keepsLinks s l good).1]
  exact Map.get_set_self _ _ _ _

theorem retrained_link_ne {k : Nat} (hk : k ≠ l.val) : (retrained s l good).link k = s.link k := by
  unfold State.link
  rw [(retrained_keepsLinks s l good).1]
  exact Map.get_set_ne _ _ _ _ _ hk

theorem retrained_narrow (h : linkWidth l good < fullLanes l) : (retrained s l good).dev.causes.getLsbD causeLink = true :=
  (retrained_keepsLinks s l good).2 (linkUp_narrow s h)

theorem retrained_crossLink : (retrained s 2 good).dev.relay = (linkWidth 2 good == 0) ∧ (retrained s 2 good).dev.out = s.dev.out :=
  ⟨rfl, (linkUp_keepsService (E := ∅) s 2 (linkWidth 2 good)).out⟩

end

theorem crossLink_dead (good : Fin 33) : linkWidth 2 good = 0 ↔ good.val < 4 := by
  have hwidth : linkWidth 2 good = widest 16 good := linkWidth_eq_widest 2 good
  rw [hwidth]
  unfold widest
  split_ifs <;> simp <;> omega

section
variable (s : State) (d : Fin 2) {good : Fin 33}

theorem fieldLink_width : linkWidth d.castSucc good = widest 32 good := by fin_cases d <;> rfl

theorem widest_works (h : 8 ≤ good.val) : 8 ≤ widest 32 good := by
  unfold widest
  split_ifs <;> omega

theorem widest_dead (h : good.val < 8) : widest 32 good = 0 := by
  unfold widest
  split_ifs <;> omega

theorem retrained_works (h : 8 ≤ good.val) : retrained s d.castSucc good = settleDie (linkUp s d (widest 32 good)) (d + 1) := by
  have hlive := widest_works h
  have hwidth := fieldLink_width d (good := good)
  have hfield : (d.castSucc).val ≠ 2 := by simp; omega
  unfold retrained
  dsimp only
  rw [if_neg hfield, if_neg (by omega), hwidth]
  rfl

theorem retrained_dead (h : good.val < 8) : retrained s d.castSucc good = loseDie (linkUp s d 0) (d + 1) causeLink 0 := by
  have hwidth := (fieldLink_width d).trans (widest_dead h)
  have hfield : (d.castSucc).val ≠ 2 := by simp; omega
  unfold retrained
  dsimp only
  rw [if_neg hfield, if_pos hwidth, hwidth]
  rfl

theorem linkUp_dieServes {w : Nat} (hw : 8 ≤ w) :
    dieServes (linkUp s d w) (d + 1) = ((s.stack (d + 1)).inService && !s.dev.out.getLsbD d) := by
  have hup := linkUp_keepsService (E := ∅) s d w
  have hlanes : ((linkUp s d w).link d).lanes = w := by rw [hup.link, State.setLink_self]
  unfold dieServes
  rw [hup.inService, hup.out, Nat.add_sub_cancel, hlanes]
  simp [hw]

end

/-! ### Training (R254, R262) -/

/-- DRAM dies whose pseudo-channels have not both passed. -/
def failedDramDies (pass : BitVec 32) : List Nat := (List.range 16).filter (fun k => !(pass.getLsbD (2 * k) && pass.getLsbD (2 * k + 1)))

theorem failedDramDies_none : failedDramDies (BitVec.allOnes 32) = [] := by decide

theorem failedDramDies_one : ∀ k, k < 16 → failedDramDies (BitVec.allOnes 32 ^^^ BitVec.twoPow 32 (2 * k)) = [k] := by decide

theorem failedDramDies_two : ∀ k, k < 16 → ∀ j, j < k →
    failedDramDies (BitVec.allOnes 32 ^^^ BitVec.twoPow 32 (2 * k) ^^^ BitVec.twoPow 32 (2 * j)) = [j, k] := by decide

/-- The stack of a die as its training leaves it, before failed DRAM dies are marked. -/
def stackTrained (s : State) (d : Nat) (pass : BitVec 32) (lanes : BitVec 8) : State :=
  s.setStack d { s.stack d with trained := true, inService := true, lanes := lanes.toNat, remap := rowMap s d, pcTrain := pass }

/-- The state after the training of a stack. -/
def afterTraining (s : State) (d : Nat) (pass : BitVec 32) (lanes : BitVec 8) : State :=
  settleDie ((failedDramDies pass).foldl (fun t k => markDramFailed t d k) (stackTrained s d pass lanes)) d

theorem exec_hbmTrainingDone {s : State} {d : Fin 2} (hfirmware : s.boot.phase = .firmware) (htrained : (s.stack (d + 1)).trained = false)
    (hout : s.dev.out.getLsbD d = false) (pass : BitVec 32) (lanes : BitVec 8) :
    exec (.hbmTrainingDone d pass lanes) s = done (afterTraining s (d + 1) pass lanes) :=
  congrArg done (if_pos ⟨hfirmware, by simp [htrained], by simpa using hout⟩)

theorem stackTrained_stack (s : State) (d : Nat) (pass : BitVec 32) (lanes : BitVec 8) : (stackTrained s d pass lanes).stack d =
    { s.stack d with trained := true, inService := true, lanes := lanes.toNat, remap := rowMap s d, pcTrain := pass } :=
  State.setStack_self _ _ _

theorem afterTraining_none {s : State} {d : Nat} {pass : BitVec 32} (hpass : failedDramDies pass = []) (lanes : BitVec 8) :
    afterTraining s d pass lanes = settleDie (stackTrained s d pass lanes) d := by
  rw [afterTraining, hpass, List.foldl_nil]

/-- DRAM die k marked failed, its entry posted and DEGRADED set. -/
def dramMarked (s : State) (d k : Nat) : State :=
  degrade (Tal.post (s.setStack d { s.stack d with failed := (s.stack d).failed ||| BitVec.twoPow 16 k })
    { code := 0x0007, die := BitVec.ofNat 8 d, detail := 1, data := [BitVec.ofNat 8 (d - 1), BitVec.ofNat 8 k] }) causeHbm 0x0007

/-- The stack of die d out of service. -/
def stackOut (s : State) (d : Nat) : State := s.setStack d { s.stack d with inService := false }

section
variable {s : State} {d k : Nat}

theorem markDramFailed_eq (h : (s.stack d).failed.getLsbD k = false) : markDramFailed s d k =
    if failedDies (s.stack d) = 1 then loseDie (stackOut (dramMarked s d k) d) d causeHbm 0x0007 else dramMarked s d k :=
  if_neg (by simp [h])

theorem dramMarked_stack : (dramMarked s d k).stack d = { s.stack d with failed := (s.stack d).failed ||| BitVec.twoPow 16 k } := by
  unfold dramMarked
  rw [degrade_stack, (Tal.post_only _ _).stack, State.setStack_self]

theorem dramMarked_cause : (dramMarked s d k).dev.causes.getLsbD causeHbm = true := degrade_cause _ (by decide) _

theorem failedDies_zero {h : Hbm} (hf : h.failed = 0) : failedDies h = 0 := by simp [failedDies, hf]

theorem failedDies_twoPow : ∀ j, j < 16 → ((List.range 16).filter (fun k => (BitVec.twoPow 16 j).getLsbD k)).length = 1 := by decide

/-- The first DRAM die marked failed leaves the stack in service. -/
theorem markDramFailed_first (h : (s.stack d).failed = 0) : markDramFailed s d k = dramMarked s d k := by
  rw [markDramFailed_eq (by simp [h]), if_neg (by simp [failedDies_zero h])]

/-- The second takes the Field die out of service. -/
theorem markDramFailed_second {j : Nat} (hj : j < 16) (hjk : j ≠ k) (h : (s.stack d).failed = BitVec.twoPow 16 j) :
    markDramFailed s d k = loseDie (stackOut (dramMarked s d k) d) d causeHbm 0x0007 := by
  have hone : failedDies (s.stack d) = 1 := by
    unfold failedDies
    rw [h]
    exact failedDies_twoPow j hj
  rw [markDramFailed_eq (by simp [h, hjk]), if_pos hone]

end

section
variable {s : State} {d j k : Nat} {pass : BitVec 32} {lanes : BitVec 8}

/-- One failed DRAM die is marked, and the stack serves. -/
theorem afterTraining_one (hpass : failedDramDies pass = [k]) (h : (s.stack d).failed = 0) :
    afterTraining s d pass lanes = settleDie (dramMarked (stackTrained s d pass lanes) d k) d := by
  rw [afterTraining, hpass, List.foldl_cons, List.foldl_nil, markDramFailed_first (by rw [stackTrained_stack]; exact h)]

/-- Two failed DRAM dies take the Field die out of service. -/
theorem afterTraining_two (hpass : failedDramDies pass = [j, k]) (hj : j < 16) (hjk : j ≠ k) (h : (s.stack d).failed = 0) :
    ∃ u, afterTraining s d pass lanes = settleDie (loseDie (stackOut u d) d causeHbm 0x0007) d := by
  have hnone : ((stackTrained s d pass lanes).stack d).failed = 0 := by rw [stackTrained_stack]; exact h
  have hfirst : ((dramMarked (stackTrained s d pass lanes) d j).stack d).failed = BitVec.twoPow 16 j := by
    rw [dramMarked_stack, hnone]
    exact BitVec.zero_or
  exact ⟨_, by rw [afterTraining, hpass, List.foldl_cons, List.foldl_cons, List.foldl_nil,
    markDramFailed_first hnone, markDramFailed_second hj hjk hfirst]⟩

theorem loseDie_stackOut (u : State) (d cause : Nat) (src : BitVec 16) :
    ((loseDie (stackOut u d) d cause src).stack d).inService = false := by
  rw [(loseDie_keepsService _ _ _ _).inService]
  exact congrArg Hbm.inService (State.setStack_self _ _ _)

end

/-- Settles O55: an equation for each command's effect, and what each of the shared operations it ends in keeps and leaves. -/
theorem linksAndTraining : Obligations.LinksAndTraining := by
  intro s
  refine ⟨fun l => ⟨?idle, ?fails, ?retrains⟩, fun hkeep good => ⟨?widths, ?relays, fun d => ⟨?works, ?dead⟩⟩,
    fun d lanes => ⟨?trains, ?degrades, ?waits⟩⟩
  case idle => exact fun h => congrArg done (if_pos h)
  case fails =>
    intro hlanes hretrain hfails
    exact congrArg done ((if_neg (by simp [hlanes, hretrain])).trans (if_pos (by omega)))
  case retrains =>
    intro hlanes hretrain hfails
    exact congrArg done ((if_neg (by simp [hlanes, hretrain])).trans (if_neg (by omega)))
  case widths =>
    intro l
    refine runs_of_exec (exec_linkRetrainDone hkeep l good) ⟨?_, fun hnarrow => ?_, fun k hk => retrained_link_ne s l good hk⟩
    · exact (retrained_link_self s l good).trans (by rw [linkWidth_eq_widest])
    · refine retrained_narrow s l good ?_
      rw [linkWidth_eq_widest]
      exact hnarrow.trans_eq (by fin_cases l <;> rfl)
  case relays =>
    obtain ⟨hrelay, hout⟩ := retrained_crossLink s good
    refine runs_of_exec (exec_linkRetrainDone hkeep 2 good) ⟨hrelay.trans ?_, hout⟩
    rw [Bool.beq_eq_decide_eq, decide_eq_decide]
    exact crossLink_dead good
  case works =>
    intro hgood
    have hexec := exec_linkRetrainDone hkeep d.castSucc good
    rw [retrained_works s d hgood] at hexec
    refine runs_of_exec hexec ⟨?_, ?_⟩
    · rw [dieUp_field, dieUp_drive]
      exact (settleDie_up _ (by omega)).trans (linkUp_dieServes s d (widest_works hgood))
    · exact (settleDie_out _ _).trans (linkUp_keepsService (E := ∅) s d _).out
  case dead =>
    intro hgood
    have hexec := exec_linkRetrainDone hkeep d.castSucc good
    rw [retrained_dead s d hgood] at hexec
    refine runs_of_exec hexec ⟨?_, ?_, fun e hdie hphase hstate hacc => ?_, fun e hdie hran hstate => ?_⟩
    · rw [dieUp_field, dieUp_drive]
      exact loseDie_down _ _ _ _
    · rw [State.drive_dev]
      exact loseDie_out _ (d + 1) _ _ (by omega)
    · rw [State.drive_entry', loseDie_entry]
      refine dieOut_ends ?_ ?_ <;> rw [linkUp_entry]
      · simp [dispatchedTo, hdie, hphase, hstate]
      · exact hacc
    · rw [State.drive_entry', loseDie_entry]
      refine dieOut_loses ?_
      rw [linkUp_entry]
      simp [stagedOn, hdie, hran, hstate]
  case trains =>
    rintro ⟨hfirmware, htrained, hout⟩
    have hexec := exec_hbmTrainingDone hfirmware htrained hout (BitVec.allOnes 32) lanes
    rw [afterTraining_none failedDramDies_none] at hexec
    refine runs_of_exec hexec ⟨?_, ?_⟩
    · exact (settleDie_stack _ _ _).trans (stackTrained_stack _ _ _ _)
    · rw [dieUp_field, dieUp_drive, settleDie_up _ (by omega), dieServes, stackTrained_stack]
      simp [stackTrained, hout]
  case degrades =>
    rintro ⟨hfirmware, htrained, hout⟩ hfailed k hk
    refine ⟨?_, fun j hj => ?_⟩
    · have hexec := exec_hbmTrainingDone hfirmware htrained hout (BitVec.allOnes 32 ^^^ BitVec.twoPow 32 (2 * k)) lanes
      rw [afterTraining_one (failedDramDies_one k hk) hfailed] at hexec
      refine runs_of_exec hexec ⟨?_, ?_, ?_⟩
      · rw [State.drive_stack', settleDie_stack, dramMarked_stack, stackTrained_stack]
        simp [hfailed]
      · rw [State.drive_stack', settleDie_stack, dramMarked_stack, stackTrained_stack]
      · rw [State.drive_dev, settleDie_causes]
        exact dramMarked_cause
    · have hexec := exec_hbmTrainingDone hfirmware htrained hout
        (BitVec.allOnes 32 ^^^ BitVec.twoPow 32 (2 * k) ^^^ BitVec.twoPow 32 (2 * j)) lanes
      obtain ⟨u, hlost⟩ := afterTraining_two (lanes := lanes) (failedDramDies_two k hk j hj) (by omega) (by omega) hfailed
      rw [hlost] at hexec
      refine runs_of_exec hexec ⟨?_, ?_, ?_⟩
      · rw [State.drive_stack', settleDie_stack, loseDie_stackOut]
      · rw [State.drive_dev, settleDie_out]
        exact loseDie_out _ (d + 1) _ _ (by omega)
      · rw [dieUp_field, dieUp_drive, settleDie_up _ (by omega), dieServes, loseDie_stackOut, Bool.false_and, Bool.false_and]
  case waits =>
    intro h pass
    refine congrArg done (if_neg ?_)
    rintro ⟨hfirmware, htrained, hout⟩
    rcases h with h | h | h
    · exact h hfirmware
    · simp [h] at htrained
    · rw [Nat.add_sub_cancel] at hout
      simp [h] at hout

end Sys2Proof.Machine
end

section
/-! Proofs: doorbells and the configuration of rings (O20, O21). -/

namespace Sys2Proof.Machine

open Sys2Proof Sys2Proof.Bits

/-! ### Distances on a ring (R34, R36) -/

/-- Positions from b on to a in a ring of N entries. -/
theorem ring_distance {a b N : Nat} (hb : b ≤ N) : (((a + N - b) % N : Nat) : Int) = ((a : Int) - b) % N := by
  rw [Int.natCast_mod, Int.ofNat_sub (by omega), Int.natCast_add, show (a : Int) + N - b = (a - b) + N by ring, Int.add_emod_right]

theorem ring_distance_mod {a b N : Nat} (hN : 0 < N) : (((a + N - b % N) % N : Nat) : Int) = ((a : Int) - b) % N := by
  rw [ring_distance (Nat.mod_lt b hN).le, Int.natCast_mod, Int.sub_emod_emod]

/-! ### Doorbells (R36, R40) -/

theorem wakeOnDoorbell_awake {s : State} (hstate : s.pwr.state ≠ pwrIdle) (htarget : s.pwr.target ≠ .idle) : wakeOnDoorbell s = s := by
  unfold wakeOnDoorbell startWake
  rw [if_neg htarget, if_neg (fun h => hstate h.1)]

/-- A tail moves past the head of an SQ: over more entries than are free. -/
def SqRing.Passes (q : SqRing) (t : Nat) : Prop := q.size - 1 - (q.tail + q.size - q.head) % q.size < (t + q.size - q.tail % q.size) % q.size

/-- A head moves past the tail of a CQ: over more entries than are posted. -/
def CqRing.Passes (q : CqRing) (h : Nat) : Prop := (q.tail + q.size - q.head) % q.size < (h + q.size - q.head) % q.size

theorem SqRing.passes_iff {q : SqRing} (hhead : q.head < q.size) (t : Nat) :
    q.Passes t ↔ 2 ^ q.log2 - 1 - ((q.tail : Int) - q.head) % 2 ^ q.log2 < ((t : Int) - q.tail) % 2 ^ q.log2 := by
  have hout := ring_distance (a := q.tail) hhead.le
  have hmoved := ring_distance_mod (a := t) (b := q.tail) (Nat.zero_lt_of_lt hhead)
  have hlt := Nat.mod_lt (q.tail + q.size - q.head) (Nat.zero_lt_of_lt hhead)
  have hsize : (q.size : Int) = 2 ^ q.log2 := by simp [SqRing.size]
  unfold SqRing.Passes
  rw [← hsize, ← hout, ← hmoved]
  omega

theorem CqRing.passes_iff {q : CqRing} (hhead : q.head < q.size) (h : Nat) :
    q.Passes h ↔ ((q.tail : Int) - q.head) % 2 ^ q.log2 < ((h : Int) - q.head) % 2 ^ q.log2 := by
  have hout := ring_distance (a := q.tail) hhead.le
  have hmoved := ring_distance (a := h) hhead.le
  have hsize : (q.size : Int) = 2 ^ q.log2 := by simp [CqRing.size]
  unfold CqRing.Passes
  rw [← hsize, ← hout, ← hmoved]
  omega

section
variable {s : State} {f : Fin 2049} {n : Fin 64} (hup : ringUp s f n = true) (hwake : wakeOnDoorbell s = s) (v : Word)
include hup hwake

theorem exec_sqDbWrite_refused
    (h : (s.sq f n).size ≤ bits v.toNat 15 0 ∨ ((s.sq f n).enable = true ∧ (s.sq f n).Passes (bits v.toNat 15 0))) :
    exec (.sqDbWrite f n v) s = done (sqError s f n 1) := by
  have hrow : exec (.sqDbWrite f n v) s = execSqDbWrite f n v s := rfl
  rw [hrow, execSqDbWrite, if_neg (by simp [hup]), hwake]
  rcases h with hbeyond | hpasses
  · exact if_pos hbeyond
  · exact (if_congr Iff.rfl rfl (if_pos hpasses)).trans (ite_self _)

theorem exec_sqDbWrite_recorded (hin : bits v.toNat 15 0 < (s.sq f n).size)
    (h : (s.sq f n).enable = true → ¬ (s.sq f n).Passes (bits v.toNat 15 0)) :
    exec (.sqDbWrite f n v) s = done (s.setSq f n { s.sq f n with tail := bits v.toNat 15 0 }) := by
  have hrow : exec (.sqDbWrite f n v) s = execSqDbWrite f n v s := rfl
  rw [hrow, execSqDbWrite, if_neg (by simp [hup]), hwake]
  exact (if_neg (Nat.not_le.mpr hin)).trans (if_neg (fun hp => h hp.1 hp.2))

theorem exec_cqDbWrite_refused
    (h : (s.cq f n).size ≤ bits v.toNat 15 0 ∨ ((s.cq f n).enable = true ∧ (s.cq f n).Passes (bits v.toNat 15 0))) :
    exec (.cqDbWrite f n v) s = done (cqError s f n) := by
  have hrow : exec (.cqDbWrite f n v) s = execCqDbWrite f n v s := rfl
  rw [hrow, execCqDbWrite, if_neg (by simp [hup]), hwake]
  rcases h with hbeyond | hpasses
  · exact if_pos hbeyond
  · exact (if_congr Iff.rfl rfl (if_pos hpasses)).trans (ite_self _)

theorem exec_cqDbWrite_recorded (hin : bits v.toNat 15 0 < (s.cq f n).size)
    (h : (s.cq f n).enable = true → ¬ (s.cq f n).Passes (bits v.toNat 15 0)) :
    exec (.cqDbWrite f n v) s = done (s.setCq f n { s.cq f n with head := bits v.toNat 15 0 }) := by
  have hrow : exec (.cqDbWrite f n v) s = execCqDbWrite f n v s := rfl
  rw [hrow, execCqDbWrite, if_neg (by simp [hup]), hwake]
  exact (if_neg (Nat.not_le.mpr hin)).trans (if_neg (fun hp => h hp.1 hp.2))

end

/-- Settles O20: a doorbell's pass check is the distance that it moves over the ring, compared modulo the ring's size. -/
theorem ringDoorbells : Obligations.RingDoorbells := by
  intro s f n v hup hstate htarget
  have hwake := wakeOnDoorbell_awake hstate htarget
  have hindex : bits v.toNat 15 0 = v.toNat % 2 ^ 16 := by simp [bits]
  refine ⟨fun hhead => ⟨fun h => ?sqRefused, fun hin hfits => ?sqRecorded⟩, fun hhead => ⟨fun h => ?cqRefused, fun hin hfits => ?cqRecorded⟩⟩
  case sqRefused =>
    refine exec_sqDbWrite_refused hup hwake v ?_
    rw [hindex, SqRing.passes_iff hhead]
    exact h
  case sqRecorded =>
    rw [← hindex] at hin hfits ⊢
    exact exec_sqDbWrite_recorded hup hwake v hin (fun hen hp => hfits hen ((SqRing.passes_iff hhead _).mp hp))
  case cqRefused =>
    refine exec_cqDbWrite_refused hup hwake v ?_
    rw [hindex, CqRing.passes_iff hhead]
    exact h
  case cqRecorded =>
    rw [← hindex] at hin hfits ⊢
    exact exec_cqDbWrite_recorded hup hwake v hin (fun hen hp => hfits hen ((CqRing.passes_iff hhead _).mp hp))

/-! ### Writes of SQ_CFG_n and CQ_CFG_n (R32, R33, R37) -/

theorem TallyOnly.sq {s t : State} (h : TallyOnly s t) (f n : Nat) : t.sq f n = s.sq f n := by rw [h]; rfl

/-- Of the SQs, SQ n of function f alone is written. -/
theorem setSq_apart (s : State) {f n g m : Nat} (x : SqRing) (h : 64 * g + m ≠ 64 * f + n) : (s.setSq f n x).sq g m = s.sq g m :=
  Map.get_set_ne _ _ _ _ _ h

theorem setCq_apart (s : State) {f n g m : Nat} (x : CqRing) (h : 64 * g + m ≠ 64 * f + n) : (s.setCq f n x).cq g m = s.cq g m :=
  Map.get_set_ne _ _ _ _ _ h

theorem OnlySq.trans {s t u : State} {f n : Nat} (h : OnlySq s t f n) (k : OnlySq t u f n) : OnlySq s u f n := by
  obtain ⟨hs, hsq⟩ := h
  obtain ⟨ht, htq⟩ := k
  rw [hs] at ht
  exact ⟨ht, fun g m hne => (htq g m hne).trans (hsq g m hne)⟩

theorem onlySq_setSq (s : State) (f n : Nat) (x : SqRing) : OnlySq s (s.setSq f n x) f n := ⟨rfl, fun _ _ h => setSq_apart s x h⟩

theorem onlySq_drive (s : State) (f n : Nat) : OnlySq s s.drive f n := ⟨rfl, fun _ _ _ => rfl⟩

theorem onlySq_raiseVec (s : State) (f n g v : Nat) : OnlySq s (raiseVec s g v) f n := by
  unfold raiseVec
  dsimp only
  split <;> exact ⟨rfl, fun _ _ _ => rfl⟩

theorem onlySq_sqError (s : State) (f n : Nat) (kind : BitVec 2) : OnlySq s (sqError s f n kind) f n :=
  (onlySq_setSq s f n _).trans (onlySq_raiseVec _ f n f 0)

theorem sqError_sq (s : State) (f n : Nat) (kind : BitVec 2) : (sqError s f n kind).sq f n =
    { s.sq f n with error := true, errKind := kind, enable := false, queued := 0 } := by
  unfold sqError
  rw [(raiseVec_only _ _ _).sq, State.setSq_self]

/-- A vector raised is sent, or pends. -/
theorem raised_raiseVec (s : State) (f v : Nat) : Raised s (raiseVec s f v) f v := by
  unfold Raised raiseVec
  dsimp only
  split
  · exact State.setMsix_self _ _ _ _
  · exact State.setMsix_self _ _ _ _

theorem onlyCq_setCq (s : State) (f n : Nat) (x : CqRing) : OnlyCq s (s.setCq f n x).drive f n := ⟨rfl, fun _ _ h => setCq_apart s x h⟩

/-- An SQ whose error a write of v clears, or leaves. -/
def SqRing.cleared (q : SqRing) (v : Word) : SqRing :=
  { q with error := q.error && !v.getLsbD 1, errKind := if v.getLsbD 1 then 0 else q.errKind }

/-- A disabled SQ as a write of v configures it. -/
def SqRing.configured (q : SqRing) (v : Word) : SqRing :=
  { q.cleared v with log2 := ringLog2 (bits v.toNat 12 8), cq := bits v.toNat 21 16 }

/-- A configured SQ, enabled. -/
def SqRing.started (q : SqRing) : SqRing := { q with enable := true, head := 0, tail := if q.tail < q.size then q.tail else 0 }

/-- A CQ with the fields that any write of v sets. -/
def CqRing.written (q : CqRing) (v : Word) : CqRing :=
  { q with error := q.error && !v.getLsbD 1, intEn := v.getLsbD 2, vector := bits v.toNat 21 16 }

section
variable {s : State} {f n : Nat} {v : Word}

theorem writeSqCfg_eq : writeSqCfg s f n v =
    let q := (s.sq f n).cleared v
    if q.enable then s.setSq f n { q with enable := v.getLsbD 0, queued := if v.getLsbD 0 then q.queued else 0 }
    else
      let q := (s.sq f n).configured v
      let u := s.setSq f n q
      if !v.getLsbD 0 then u else if (u.cq f q.cq).enable then u.setSq f n q.started else sqError u f n 3 := by
  unfold writeSqCfg SqRing.configured SqRing.cleared
  cases v.getLsbD 1 <;> simp [SqRing.started]

theorem writeSqCfg_enables (hv : v.getLsbD 0 = true) (hq : (s.sq f n).enable = false) (hcq : (s.cq f (bits v.toNat 21 16)).enable = true) :
    OnlySq s (writeSqCfg s f n v) f n ∧ (writeSqCfg s f n v).sq f n = ((s.sq f n).configured v).started := by
  have heq : writeSqCfg s f n v = (s.setSq f n ((s.sq f n).configured v)).setSq f n ((s.sq f n).configured v).started := by
    rw [writeSqCfg_eq]
    simp [SqRing.cleared, SqRing.configured, hv, hq, hcq]
  rw [heq]
  exact ⟨(onlySq_setSq _ _ _ _).trans (onlySq_setSq _ _ _ _), State.setSq_self _ _ _ _⟩

theorem writeSqCfg_noCq (hv : v.getLsbD 0 = true) (hq : (s.sq f n).enable = false) (hcq : (s.cq f (bits v.toNat 21 16)).enable = false) :
    writeSqCfg s f n v = sqError (s.setSq f n ((s.sq f n).configured v)) f n 3 := by
  rw [writeSqCfg_eq]
  simp [SqRing.cleared, SqRing.configured, hv, hq, hcq]

theorem writeSqCfg_disables (hv : v.getLsbD 0 = false) (hq : (s.sq f n).enable = true) :
    writeSqCfg s f n v = s.setSq f n { (s.sq f n).cleared v with enable := false, queued := 0 } := by
  rw [writeSqCfg_eq]
  simp [-BitVec.getLsbD_eq_getElem, SqRing.cleared, hv, hq]

theorem writeSqCfg_stays (hv : v.getLsbD 0 = false) (hq : (s.sq f n).enable = false) :
    writeSqCfg s f n v = s.setSq f n ((s.sq f n).configured v) := by
  rw [writeSqCfg_eq]
  simp [-BitVec.getLsbD_eq_getElem, SqRing.cleared, hv, hq]

theorem writeCqCfg_enables (hv : v.getLsbD 0 = true) (hq : (s.cq f n).enable = false) : writeCqCfg s f n v =
    s.setCq f n { (s.cq f n).written v with log2 := ringLog2 (bits v.toNat 12 8), enable := true, tail := 0, head := 0, phase := true } := by
  simp [writeCqCfg, CqRing.written, hv, hq]

theorem writeCqCfg_inUse (hv : v.getLsbD 0 = false) (hq : (s.cq f n).enable = true) (h : cqNamed s f n = true ∨ 0 < cqBound s f n) :
    writeCqCfg s f n v = s.setCq f n { (s.cq f n).written v with error := true } := by
  simp [-BitVec.getLsbD_eq_getElem, writeCqCfg, CqRing.written, hv, hq, h]

theorem writeCqCfg_disables (hv : v.getLsbD 0 = false) (hq : (s.cq f n).enable = true) (hnamed : cqNamed s f n = false)
    (hbound : cqBound s f n = 0) : writeCqCfg s f n v = s.setCq f n { (s.cq f n).written v with enable := false } := by
  simp [-BitVec.getLsbD_eq_getElem, writeCqCfg, CqRing.written, hv, hq, hnamed, hbound]

end

section
variable {s : State} {f : Fin 2049} {n : Fin 64} {v : Word} (hup : ringUp s f n = true)
include hup

theorem exec_sqEnable (hv : v.getLsbD 0 = true) : exec (.sqEnable f n v) s = done (writeSqCfg s f n v) := if_pos (by simp [hup, hv])

theorem exec_sqDisable (hv : v.getLsbD 0 = false) : exec (.sqDisable f n v) s = done (writeSqCfg s f n v) :=
  if_pos (by rw [hup, hv]; rfl)

theorem exec_cqEnable (hv : v.getLsbD 0 = true) : exec (.cqEnable f n v) s = done (writeCqCfg s f n v) := if_pos (by simp [hup, hv])

theorem exec_cqDisable (hv : v.getLsbD 0 = false) : exec (.cqDisable f n v) s = done (writeCqCfg s f n v) :=
  if_pos (by rw [hup, hv]; rfl)

end

/-- Settles O21: an equation for the ring that each write leaves, by the value of enable before the write and the one written. -/
theorem ringConfigurationWrites : Obligations.RingConfigurationWrites := by
  intro s f n v hup l log k q c err kind cerr
  have hvector : bits v.toNat 21 16 = k := by simp [bits, k]
  have hlog : ringLog2 (bits v.toNat 12 8) = log := rfl
  refine ⟨?enables, ?noCq, ?disables, ?stays, ?cqEnables, ?cqInUse, ?cqDisables⟩
  case enables =>
    intro hv hq hcq
    rw [← hvector] at hcq
    obtain ⟨honly, hring⟩ := writeSqCfg_enables hv hq hcq
    refine runs_of_exec (exec_sqEnable hup hv) ⟨honly.trans (onlySq_drive _ _ _), hring.trans ?_⟩
    simp [SqRing.configured, SqRing.started, SqRing.cleared, SqRing.size, hvector, hlog, q, err, kind]
  case noCq =>
    intro hv hq hcq
    rw [← hvector] at hcq
    have hexec := exec_sqEnable hup hv
    rw [writeSqCfg_noCq hv hq hcq] at hexec
    refine runs_of_exec hexec ⟨?_, ?_, raised_raiseVec _ _ _⟩
    · exact ((onlySq_setSq _ _ _ _).trans (onlySq_sqError _ _ _ _)).trans (onlySq_drive _ _ _)
    · refine (sqError_sq _ _ _ _).trans ?_
      rw [State.setSq_self]
      simp [SqRing.configured, SqRing.cleared, hvector, hlog, q]
  case disables =>
    intro hv hq
    have hexec := exec_sqDisable hup hv
    rw [writeSqCfg_disables hv hq] at hexec
    exact runs_of_exec hexec ⟨(onlySq_setSq _ _ _ _).trans (onlySq_drive _ _ _), State.setSq_self _ _ _ _⟩
  case stays =>
    intro hv hq
    have hexec := exec_sqDisable hup hv
    rw [writeSqCfg_stays hv hq] at hexec
    refine runs_of_exec hexec ⟨(onlySq_setSq _ _ _ _).trans (onlySq_drive _ _ _), (State.setSq_self _ _ _ _).trans ?_⟩
    simp [SqRing.configured, SqRing.cleared, hvector, hlog, q, err, kind]
  case cqEnables =>
    intro hv hq
    have hexec := exec_cqEnable hup hv
    rw [writeCqCfg_enables hv hq, hlog, CqRing.written, hvector] at hexec
    exact runs_of_exec hexec ⟨onlyCq_setCq _ _ _ _, State.setCq_self _ _ _ _⟩
  case cqInUse =>
    intro hv hq huse
    have hexec := exec_cqDisable hup hv
    rw [writeCqCfg_inUse hv hq huse, CqRing.written, hvector] at hexec
    exact runs_of_exec hexec ⟨onlyCq_setCq _ _ _ _, State.setCq_self _ _ _ _⟩
  case cqDisables =>
    intro hv hq hnamed hbound
    have hexec := exec_cqDisable hup hv
    rw [writeCqCfg_disables hv hq hnamed hbound, CqRing.written, hvector] at hexec
    exact runs_of_exec hexec ⟨onlyCq_setCq _ _ _ _, State.setCq_self _ _ _ _⟩

end Sys2Proof.Machine
end

section
/-! Proofs: what traced events and writes to a stack leave unchanged. -/

namespace Sys2Proof.Machine

open Sys2Proof Sys2Proof.Bits

/-- t differs from s at most in the stacks, the trace, the tally, the stored register words, the MSI-X table, the note of a full row history and
the count of free values. -/
def TraceOnly (s t : State) : Prop :=
  t = { s with
    hbm := t.hbm
    regs := t.regs
    tal := t.tal
    free := t.free
    hif := { s.hif with msix := t.hif.msix }
    dev := { s.dev with rowsFull := t.dev.rowsFull }
    sched := { s.sched with trBlock := t.sched.trBlock, trOfs := t.sched.trOfs, trCount := t.sched.trCount, trPrev := t.sched.trPrev } }

theorem TallyOnly.traceOnly {s t : State} (h : TallyOnly s t) : TraceOnly s t := by
  unfold TallyOnly at h
  unfold TraceOnly
  rw [h]

namespace TraceOnly

variable {s t u : State} {d line : Nat}

theorem refl : TraceOnly s s := rfl

theorem trans (h : TraceOnly s t) (k : TraceOnly t u) : TraceOnly s u := by
  unfold TraceOnly at h k ⊢
  rw [h] at k
  exact k

theorem ite {c : Prop} [Decidable c] (h : TraceOnly s t) (k : TraceOnly s u) : TraceOnly s (if c then t else u) := by
  split <;> assumption

theorem after_foldl {α : Type} {f : State → α → State} (hf : ∀ u a, TraceOnly s u → TraceOnly s (f u a)) (l : List α)
    (h : TraceOnly s t) : TraceOnly s (l.foldl f t) :=
  List.foldlRecOn l f h (fun u hu a _ => hf u a hu)

/-! Each operation below is the last of those that lead from s to the state t. -/

theorem after_tallyOnly (h : TraceOnly s t) (k : TallyOnly t u) : TraceOnly s u := h.trans k.traceOnly

theorem after_setStack (h : TraceOnly s t) {x : Hbm} : TraceOnly s (t.setStack d x) := h.trans rfl

theorem after_draw (h : TraceOnly s t) {w : Nat} : TraceOnly s (t.draw w).2 := h.trans rfl

theorem after_perfCount (h : TraceOnly s t) {page off n : Nat} : TraceOnly s (perfCount t page off n) := h.after_tallyOnly (perfCount_only _ _ _ _)

theorem after_evtCount (h : TraceOnly s t) {page off hi lo : Nat} : TraceOnly s (evtCount t page off hi lo) :=
  h.after_tallyOnly (evtCount_only _ _ _ _ _)

theorem after_countCorrection (h : TraceOnly s t) {k : Nat} : TraceOnly s (countCorrection t d k) :=
  .after_setStack (.after_evtCount (.after_evtCount h))

theorem after_countRow (h : TraceOnly s t) {j : Nat} : TraceOnly s (countRow t d line j) := by
  have hfull : ∀ u, TraceOnly s u → TraceOnly s { u with dev := { u.dev with rowsFull := true } } := fun u hu => hu.trans rfl
  unfold countRow
  dsimp only
  exact .ite h (.ite (.after_setStack h) (.ite (.ite (.after_setStack h) (.after_tallyOnly (hfull _ (.after_setStack h)) (Tal.post_only _ _)))
    (.ite (.after_setStack h) (.after_setStack (.after_setStack h)))))

theorem after_correctLine (h : TraceOnly s t) : TraceOnly s (correctLine t d line) := by
  unfold correctLine
  split
  · exact .after_countRow (.after_countCorrection (.ite h (.after_setStack h)))
  · exact h

theorem after_readLine (h : TraceOnly s t) : TraceOnly s (readLine t d line) := by
  unfold readLine
  dsimp only
  exact .ite h (.ite (.after_perfCount h) (.after_correctLine (.ite (.after_correctLine (.after_perfCount h)) (.after_perfCount h))))

theorem after_hbmRead (h : TraceOnly s t) {off n : Nat} : TraceOnly s (hbmRead t d off n).2 :=
  .after_foldl (fun _ _ hu => .after_readLine hu) _ h

theorem after_completeMerge (h : TraceOnly s t) : TraceOnly s (completeMerge t d line) := by
  unfold completeMerge
  dsimp only
  split
  · exact h
  · exact .ite (.after_evtCount (.after_setStack h)) (.ite (.after_setStack h)
      (.after_perfCount (.after_setStack (.ite h (.after_readLine (.after_perfCount h))))))

theorem after_makeMergeRoom (h : TraceOnly s t) : TraceOnly s (makeMergeRoom t d) := by
  unfold makeMergeRoom
  dsimp only
  refine .ite h ?_
  split
  · exact .after_completeMerge h
  · exact h

theorem after_hbmPartial (h : TraceOnly s t) {o : Nat} {bs : Bytes} : TraceOnly s (hbmPartial t d line o bs) := by
  unfold hbmPartial
  dsimp only
  exact .ite (.after_evtCount h) (.after_makeMergeRoom (.ite (.after_completeMerge (.after_setStack h)) (.after_setStack h)))

theorem after_writeTagBytes (h : TraceOnly s t) {o : Nat} {bs : Bytes} : TraceOnly s (writeTagBytes t d line o bs) :=
  .after_foldl (fun _ _ hu => .ite hu (.after_setStack hu)) _ (.after_setStack h)

theorem after_hbmLineWrite (h : TraceOnly s t) {o : Nat} {bs : Bytes} : TraceOnly s (hbmLineWrite t d line o bs) :=
  .ite (.after_perfCount (.after_writeTagBytes h)) (.ite (.after_perfCount (.after_setStack h)) (.after_hbmPartial h))

theorem after_hbmWriteAux (h : TraceOnly s t) {fuel off : Nat} {bs : Bytes} : TraceOnly s (hbmWriteAux d fuel t off bs) := by
  induction fuel generalizing t off bs with
  | zero => exact h
  | succ fuel ih =>
    unfold hbmWriteAux
    exact .ite h (ih (.after_hbmLineWrite h))

theorem after_hbmWrite (h : TraceOnly s t) {off : Nat} {bs : Bytes} : TraceOnly s (hbmWrite t d off bs) := .after_hbmWriteAux h

theorem after_startBlock (h : TraceOnly s t) {n r : Nat} : TraceOnly s (Trace.startBlock t n r) := by
  have hblock : ∀ u, TraceOnly s u → TraceOnly s { u with sched := { u.sched with
      trBlock := n, trOfs := 48, trCount := 1, trPrev := some (BitVec.ofNat 128 r) } } := fun u hu => hu.trans rfl
  exact hblock _ (.after_hbmWrite (.after_setStack h))

theorem after_append (h : TraceOnly s t) {r : Nat} : TraceOnly s (Trace.append t r) := by
  have hrecord : ∀ u o n, TraceOnly s u → TraceOnly s { u with sched := { u.sched with
      trOfs := o, trCount := n, trPrev := some (BitVec.ofNat 128 r) } } := fun u o n hu => hu.trans rfl
  unfold Trace.append
  dsimp only
  split
  · exact .after_startBlock h
  · exact .ite (.after_startBlock (.ite (.after_evtCount h) h)) (hrecord _ _ _ (.after_hbmWrite (.after_hbmWrite h)))

theorem after_event (h : TraceOnly s t) {e kind ctx word : Nat} : TraceOnly s (Trace.event t e kind ctx word) := by
  unfold Trace.event
  dsimp only
  refine .ite h ?_
  by_cases hpf : (t.entry e).func = 0
  · simp only [if_pos hpf]
    exact .after_append (.after_draw h)
  · simp only [if_neg hpf]
    exact .after_append h

/-! What of a state stays. -/

theorem entries (h : TraceOnly s t) : t.entries = s.entries := by rw [h]
theorem entry (h : TraceOnly s t) (e : Nat) : t.entry e = s.entry e := by rw [h]; rfl
theorem core (h : TraceOnly s t) (c : Nat) : t.core c = s.core c := by rw [h]; rfl
theorem hostMem (h : TraceOnly s t) : t.hostMem = s.hostMem := by rw [h]

end TraceOnly

end Sys2Proof.Machine
end

section
/-! Proofs: the ports of transaction units for groups, mailboxes, input and output, time and random words (O16). -/

namespace Sys2Proof.Machine

open Sys2Proof Sys2Proof.Bits

/-! ### Writes over a write -/

theorem del_put {α : Type} (m : Map α) (k : Nat) (a : α) : Map.del (Map.put m k a) k = Map.del m k := by
  induction m with
  | nil => simp [Map.put, Map.del]
  | cons p r ih =>
    simp only [Map.put]
    split
    · simp [Map.del]
    · split
      · next h => simp [Map.del, h]
      · next h => simp [Map.del, h, ih]

theorem put_put {α : Type} (m : Map α) (k : Nat) (a b : α) : Map.put (Map.put m k a) k b = Map.put m k b := by
  induction m with
  | nil => simp [Map.put]
  | cons p r ih =>
    by_cases hlt : k < p.1
    · simp [Map.put, hlt]
    · by_cases heq : p.1 = k
      · simp [Map.put, heq]
      · simp [Map.put, hlt, heq, ih]

/-- A second write to an index replaces the first, unless the first emptied it. -/
theorem set_set {α : Type} [DecidableEq α] {d a : α} (ha : a ≠ d) (m : Map α) (k : Nat) (b : α) :
    Map.set d (Map.set d m k a) k b = Map.set d m k b := by
  unfold Map.set
  rw [if_neg ha, del_put, put_put]

/-- A core that runs is written again. -/
theorem setCore_setCore {s : State} {c : Nat} {x y : Core} (hx : x.phase = .running) : (s.setCore c x).setCore c y = s.setCore c y := by
  have hne : x ≠ {} := fun h => by rw [h] at hx; cases hx
  unfold State.setCore
  exact congrArg (fun m => { s with cores := m }) (set_set hne s.cores c y)

/-! ### The state that a port's instruction finds -/

section
variable {s u : State} {c : Fin 2048} (h : AtPort s c u)
include h

/-- What does not look at the cores, the count of free values and the pins is as before. -/
theorem AtPort.congr {α : Type} (g : State → α)
    (hg : ∀ cores free pins, g { s with cores := cores, free := free, pins := pins } = g s) : g u = g s := by
  obtain ⟨⟨hstate, -⟩, -⟩ := h
  rw [hstate]
  exact hg _ _ _

theorem AtPort.core_ne {k : Nat} (hk : k ≠ c) : u.core k = s.core k := h.1.2 k hk

/-- The context's own core: the multiplier and the watchdog have gone on. -/
theorem AtPort.core_eq : u.core c = { s.core c with
    acc := (u.core c).acc
    mlo := (u.core c).mlo
    mhi := (u.core c).mhi
    ovf := (u.core c).ovf
    ovfNow := (u.core c).ovfNow
    pend := (u.core c).pend
    started := (u.core c).started
    slots := (u.core c).slots } := h.2.same

theorem AtPort.phase : (u.core c).phase = (s.core c).phase := by rw [h.core_eq]
theorem AtPort.member : (u.core c).member = (s.core c).member := by rw [h.core_eq]
theorem AtPort.core_entry : (u.core c).entry = (s.core c).entry := by rw [h.core_eq]
theorem AtPort.w : (u.core c).w = (s.core c).w := by rw [h.core_eq]
theorem AtPort.getW (r : Nat) : (u.core c).getW r = (s.core c).getW r := by rw [h.core_eq]; rfl
theorem AtPort.getS (r : Nat) : (u.core c).getS r = (s.core c).getS r := by rw [h.core_eq]; rfl
theorem AtPort.smbx : (u.core c).smbx = (s.core c).smbx := by rw [h.core_eq]
theorem AtPort.wmbx : (u.core c).wmbx = (s.core c).wmbx := by rw [h.core_eq]
theorem AtPort.inOfs : (u.core c).inOfs = (s.core c).inOfs := by rw [h.core_eq]
theorem AtPort.outOfs : (u.core c).outOfs = (s.core c).outOfs := by rw [h.core_eq]
theorem AtPort.ntimeHi : (u.core c).ntimeHi = (s.core c).ntimeHi := by rw [h.core_eq]
theorem AtPort.ntimeOk : (u.core c).ntimeOk = (s.core c).ntimeOk := by rw [h.core_eq]

theorem AtPort.entries : u.entries = s.entries := h.congr State.entries (fun _ _ _ => rfl)
theorem AtPort.entry (e : Nat) : u.entry e = s.entry e := h.congr (fun t => t.entry e) (fun _ _ _ => rfl)
theorem AtPort.time : u.time = s.time := h.congr State.time (fun _ _ _ => rfl)
theorem AtPort.dev : u.dev = s.dev := h.congr State.dev (fun _ _ _ => rfl)
theorem AtPort.hostGate (write : Bool) : Machine.hostGate u write = Machine.hostGate s write :=
  h.congr (fun t => Machine.hostGate t write) (fun _ _ _ => rfl)
theorem AtPort.linkWaits (d : Nat) : Machine.linkWaits u d = Machine.linkWaits s d :=
  h.congr (fun t => Machine.linkWaits t d) (fun _ _ _ => rfl)
theorem AtPort.drbgServes (i : Nat) : Machine.drbgServes u i = Machine.drbgServes s i :=
  h.congr (fun t => Machine.drbgServes t i) (fun _ _ _ => rfl)
theorem AtPort.stageDenied (x : Entry) (o : Nat) (bs : Bytes) : Machine.stageDenied u x o bs = Machine.stageDenied s x o bs :=
  h.congr (fun t => Machine.stageDenied t x o bs) (fun _ _ _ => rfl)

theorem AtPort.request : u.request c = s.request c := by
  unfold State.request
  rw [h.core_entry, h.entry]

theorem AtPort.memberCtx (m : Nat) : Machine.memberCtx u c m = Machine.memberCtx s c m := by
  unfold Machine.memberCtx
  rw [h.request]

/-- The code of the window that serves the request, which ends the context's instruction space. -/
theorem AtPort.bankLength : Machine.bankLength u c = Machine.bankLength s c :=
  codeEnd_congr (c := .tu c) h.core_entry h.entries (h.congr State.ldr (fun _ _ _ => rfl))

theorem AtPort.readUnit {k : ArrayCell} (hgood : (Machine.readUnit s k).1 = .good) : Machine.readUnit u k = (.good, u) :=
  readUnit_good h.dev hgood

end

/-- The row of a port hands its access the state that its instruction finds. -/
theorem portRow_runs {s : State} {c : Fin 2048} (h : Issues s (.tu c)) {w : Wait → Bool} (hw : w .none = false) (k : State → State) :
    ∃ u, AtPort s c u ∧ portRow c w s k = done (k u) := by
  have hwaits : (s.core c).wait = .none := h.2.1
  have hreissue : reissue s c w = s := if_neg (by rw [hwaits, hw]; decide)
  obtain ⟨u, x, hfound, honly, -, hcore, hissue⟩ := issue_runs h
  refine ⟨u, ⟨honly, hcore ▸ hfound⟩, ?_⟩
  unfold portRow
  rw [hreissue, hissue]

/-! ### Groups (R136, R137) -/

section
variable {s : State} {c : Nat}

theorem forkHelper_forks {v : Word} {h : Nat} (hlead : (s.core c).member = 0) (hne : v.toNat % 4 ≠ 0) (hmem : memberCtx s c (v.toNat % 4) = some h)
    (hnew : (s.core h).forked = false) (hofs : 4 * (v.toNat / 4 % 2 ^ 16) < bankLength s c) :
    forkHelper s c v = goNext (s.setCore h {
      phase := .running
      entry := (s.core h).entry
      member := (s.core h).member
      pc := 4 * (v.toNat / 4 % 2 ^ 16)
      w := (s.core c).w.filter (fun p => decide (p.1 < 8))
      mask := (s.core h).mask
      smbx := (s.core h).smbx
      wmbx := (s.core h).wmbx
      forked := true }) c := by
  have hhelper : bits v.toNat 1 0 = v.toNat % 4 := by simp [bits]
  have hword : bits v.toNat 17 2 = v.toNat / 4 % 2 ^ 16 := by simp [bits]
  unfold forkHelper leadOnly
  rw [if_pos hlead]
  simp only [hhelper, hword, if_neg hne, hmem, hnew, Bool.false_eq_true, false_or, if_neg (Nat.not_le.mpr hofs)]

theorem joinHelpers_joins {r : Nat} (hlead : (s.core c).member = 0)
    (hall : ∀ k ∈ (s.request c).group, k ≠ c → (s.core k).forked = true → (s.core k).phase = .ended) :
    joinHelpers s c r = answer s c r 0 := by
  refine (if_pos hlead).trans (if_pos ?_)
  rw [List.all_eq_true]
  intro k hk
  by_cases hkc : k = c
  · simp [hkc]
  · cases hforked : (s.core k).forked
    · simp
    · simp [hall k hk hkc hforked]

theorem joinHelpers_waits {r : Nat} (hlead : (s.core c).member = 0)
    (hsome : ∃ k ∈ (s.request c).group, k ≠ c ∧ (s.core k).forked = true ∧ (s.core k).phase ≠ .ended) :
    joinHelpers s c r = waitOn s c .join := by
  obtain ⟨k, hk, hkc, hforked, hphase⟩ := hsome
  refine (if_pos hlead).trans (if_neg ?_)
  rw [List.all_eq_true]
  intro hall
  have hcond := hall k hk
  simp [hkc, hforked, hphase] at hcond

end

/-! ### Mailboxes (R138) -/

section
variable {s : State} {c : Nat} {m h : Nat} (hmem : memberCtx s c m = some h)
include hmem

theorem sendSecret_sends {sa : Nat} (hroom : (s.core h).smbx.length < 4) :
    sendSecret s c m sa = goNext (s.setCore h { s.core h with smbx := (s.core h).smbx ++ [(s.core c).getS sa] }) c := by
  unfold sendSecret
  simp only [hmem, if_neg (Nat.not_le.mpr hroom)]

theorem sendSecret_waits {sa : Nat} (hfull : 4 ≤ (s.core h).smbx.length) : sendSecret s c m sa = waitOn s c (.smbxSend m) := by
  unfold sendSecret
  simp only [hmem, if_pos hfull]

theorem sendWord_sends {v : Word} (hroom : (s.core h).wmbx.length < 8) :
    sendWord s c m v = goNext (s.setCore h { s.core h with wmbx := (s.core h).wmbx ++ [v] }) c := by
  unfold sendWord
  simp only [hmem, if_neg (Nat.not_le.mpr hroom)]

theorem sendWord_waits {v : Word} (hfull : 8 ≤ (s.core h).wmbx.length) : sendWord s c m v = waitOn s c (.wmbxSend m) := by
  unfold sendWord
  simp only [hmem, if_pos hfull]

end

namespace OnlyCoreMasked

variable {s t u : State} {c : CoreId}

theorem refl : OnlyCoreMasked s s c := ⟨rfl, fun _ _ => rfl⟩

theorem trans (h : OnlyCoreMasked s t c) (k : OnlyCoreMasked t u c) : OnlyCoreMasked s u c := by
  obtain ⟨hs, hcs⟩ := h
  obtain ⟨ht, hct⟩ := k
  rw [hs] at ht
  exact ⟨ht, fun k hk => (hct k hk).trans (hcs k hk)⟩

theorem after_setCore {n : Fin 2048} (h : OnlyCoreMasked s t (.tu n)) (x : Core) : OnlyCoreMasked s (t.setCore n x) (.tu n) :=
  h.trans ⟨rfl, fun _ hk => State.setCore_ne _ _ _ _ hk⟩

theorem after_drawMask (h : OnlyCoreMasked s t c) {b : Nat} : OnlyCoreMasked s (drawMask t b).2 c := h.trans ⟨rfl, fun _ _ => rfl⟩

theorem after_drive (h : OnlyCoreMasked s t c) : OnlyCoreMasked s t.drive c := h.trans ⟨rfl, fun _ _ => rfl⟩

end OnlyCoreMasked

theorem OnlyCore.masked {s u : State} {c : CoreId} (h : OnlyCore s u c) : OnlyCoreMasked s u c := by
  obtain ⟨hstate, hcores⟩ := h
  refine ⟨?_, hcores⟩
  rw [hstate]

section
variable {s : State} {c : Fin 2048}

theorem recvSecret_takes {sd : Nat} {v : SReg} {rest : List SReg} (hbox : (s.core c).smbx = v :: rest)
    (hgood : readUnit s (.mailbox c) = (.good, s)) :
    recvSecret s c sd = putSecret (s.modCore c (fun x => { x with smbx := rest })) c sd v := by
  unfold recvSecret
  simp only [hbox, hgood]

theorem recvSecret_waits {sd : Nat} (hbox : (s.core c).smbx = []) : recvSecret s c sd = waitOn s c .smbxIn := by
  unfold recvSecret
  simp only [hbox]

theorem recvWord_takes {r : Nat} {v : Word} {rest : List Word} (hbox : (s.core c).wmbx = v :: rest)
    (hgood : readUnit s (.mailbox c) = (.good, s)) :
    recvWord s c r = answer (s.modCore c (fun x => { x with wmbx := rest })) c r v := by
  unfold recvWord
  simp only [hbox, hgood]

theorem recvWord_waits {r : Nat} (hbox : (s.core c).wmbx = []) : recvWord s c r = waitOn s c .wmbxIn := by
  unfold recvWord
  simp only [hbox]

/-- A change of a running core, then the answer of a word read: one change. -/
theorem answer_modCore {r : Nat} {v : Word} {f : Core → Core} (hrun : (f (s.core c)).phase = .running) :
    answer (s.modCore c f) c r v = Onward s c (fun x => { f x with w := Map.set 0 (f x).w r v }) := by
  unfold answer State.modCore Onward
  rw [State.setCore_self, setCore_setCore hrun]
  rfl

theorem goNext_modCore {f : Core → Core} (hrun : (f (s.core c)).phase = .running) : goNext (s.modCore c f) c = Onward s c f := by
  unfold goNext State.modCore Onward
  rw [State.setCore_self, setCore_setCore hrun]

/-- A secret register of a context is written with the next mask of its barn's generator (R135). -/
theorem writeSecret_tu (i : Nat) (r : SReg) : writeSecret s (.tu c) i r = (drawMask s (barnOfCtx c)).2.setCore c
    { s.core c with s := Map.set {} (s.core c).s i r, mask := (drawMask s (barnOfCtx c)).1 } := rfl

/-- A secret value written after another change of the core, re-masked by the barn's generator. -/
theorem putSecret_modCore {sd : Nat} {v : SReg} (f : Core → Core) : ∃ k,
    (putSecret (s.modCore c f) c sd v).core c = (Onward s c (fun x => { f x with s := Map.set {} (f x).s sd v, mask := k })).core c ∧
    OnlyCoreMasked s (putSecret (s.modCore c f) c sd v) (.tu c) := by
  refine ⟨(drawMask (s.modCore c f) (barnOfCtx c)).1, ?_, ?_⟩
  · unfold putSecret goNext State.modCore Onward
    rw [writeSecret_tu, State.setCore_self, State.setCore_self, State.setCore_self, State.setCore_self]
  · have hwritten : OnlyCoreMasked s (writeSecret (s.modCore c f) (.tu c) sd v) (.tu c) := by
      rw [writeSecret_tu]
      exact (OnlyCoreMasked.refl.after_setCore (f (s.core c))).after_drawMask.after_setCore _
    exact hwritten.after_setCore _

end

/-! ### Bytes of a field -/

theorem slice_eq_map (bs : Bytes) (o n : Nat) : slice bs o n = (List.range n).map (fun k => bs.getD (o + k) 0) := by
  apply List.ext_getElem
  · simp [slice, fit, zeros]
    omega
  · intro i h₁ h₂
    have hi : i < n := by simpa using h₂
    by_cases hb : i < bs.length - o
    · have hin : o + i < bs.length := by omega
      simp [slice, fit, hi, hb, hin]
    · have hout : bs.length ≤ o + i := by omega
      simp [slice, fit, zeros, List.getElem_append, hb, hout]

theorem le_four (v : Nat) : le 4 v = (List.range 4).map (fun k => BitVec.ofNat 8 (v / 256 ^ k)) := by
  simp [le, List.range_succ, Nat.div_div_eq_div_mul]

/-! ### Input (R45) -/

section
variable {s : State} {c : Nat} {r : Nat} {dma : Dma}

theorem withInputRead_read {k : State → Bytes → State} {b : Bytes} (h : (s.request c).input = some b) : withInputRead s c dma k = k s b := by
  have hinput : (s.entry (s.core c).entry).input = some b := h
  simp [withInputRead, readsHost, takeInput, hinput]

theorem readInput_word {b : Bytes} (h : (s.request c).input = some b) : readInput s c r dma =
    answer (s.modCore c (fun x => { x with inOfs := ((s.core c).inOfs + 4) % 2 ^ 32 })) c r (BitVec.ofNat 32 (fieldLe b (s.core c).inOfs 4)) :=
  withInputRead_read h

section
variable (hinput : (s.request c).input = none) (hinline : (s.request c).desc.isInline = false) (hlen : (s.request c).desc.inLen ≠ 0)
include hinput hinline hlen

theorem readsHost_request : readsHost (s.entry (s.core c).entry) = true := by
  have hx : s.request c = s.entry (s.core c).entry := rfl
  simp [readsHost, ← hx, hinput, hinline, hlen]

theorem readInput_waits (hlink : linkWaits s (dieOfCtx c) = true) : readInput s c r dma = s :=
  if_pos (by rw [readsHost_request hinput hinline hlen, hlink]; rfl)

theorem readInput_fails (hlink : linkWaits s (dieOfCtx c) = false) (h : dma ≠ .ok ∨ hostGate s false = false) :
    readInput s c r dma = endRequest (hostLost s false).2 (s.core c).entry (hostLost s false).1 := by
  have htake : takeInput s (s.core c).entry dma = none := by
    have hnone : (s.entry (s.core c).entry).input = none := hinput
    have hhost : ¬ ((s.entry (s.core c).entry).desc.isInline = true ∨ (s.entry (s.core c).entry).desc.inLen = 0) :=
      not_or.mpr ⟨Bool.eq_false_iff.mp hinline, hlen⟩
    unfold takeInput
    simp only [hnone]
    rw [if_neg hhost, if_neg]
    rintro ⟨hok, hgate⟩
    rcases h with h | h
    · exact h hok
    · simp [h] at hgate
  unfold readInput withInputRead
  simp only [hlink, Bool.and_false, Bool.false_eq_true, if_false, htake]

end

end

/-! ### Output (R143, R255, R347) -/

theorem stageOutput_eq (s : State) (e o : Nat) (bs : Bytes) :
    stageOutput s e o bs = (stageBeyond s (s.entry e) o bs).setEntry e (stageInline (s.entry e) o bs) := by
  have hbeyond : TraceOnly s (stageBeyond s (s.entry e) o bs) := by
    unfold stageBeyond
    refine .ite .refl ?_
    split
    · exact .refl
    · exact .after_hbmWrite .refl
  unfold stageOutput State.modEntry
  rw [hbeyond.entry]

/-- Bytes placed from offset o on, where `keep` holds of the offset. -/
def overlaid (keep : Nat → Prop) [DecidablePred keep] (m : Map Byte) (o : Nat) (bs : Bytes) : Map Byte :=
  ((List.range bs.length).zip bs).foldl (fun (m : Map Byte) (p : Nat × Byte) => if keep (o + p.1) then Map.set 0 m (o + p.1) p.2 else m) m

section
variable (keep : Nat → Prop) [DecidablePred keep] (m : Map Byte) (o : Nat)

theorem overlaid_snoc (bs : Bytes) (b : Byte) : overlaid keep m o (bs ++ [b]) =
    if keep (o + bs.length) then Map.set 0 (overlaid keep m o bs) (o + bs.length) b else overlaid keep m o bs := by
  unfold overlaid
  rw [List.length_append, List.length_singleton, List.range_succ, List.zip_append List.length_range, List.foldl_append]
  rfl

/-- Bytes none of which is kept leave the array as it is. -/
theorem overlaid_eq_self (bs : Bytes) (h : ∀ k, o ≤ k → ¬ keep k) : overlaid keep m o bs = m := by
  induction bs using List.reverseRecOn with
  | nil => rfl
  | append_singleton bs b ih => rw [overlaid_snoc, if_neg (h _ (Nat.le_add_right _ _)), ih]

theorem overlaid_get (bs : Bytes) (k : Nat) : Map.get 0 (overlaid keep m o bs) k =
    if (o ≤ k ∧ k < o + bs.length) ∧ keep k then bs.getD (k - o) 0 else Map.get 0 m k := by
  induction bs using List.reverseRecOn with
  | nil => exact (if_neg (by simp)).symm
  | append_singleton bs b ih =>
    rw [overlaid_snoc]
    by_cases hlast : k = o + bs.length
    · subst hlast
      split
      · next hkeep => simp [hkeep]
      · next hkeep => rw [ih]; simp [hkeep]
    · have hget : ∀ m' : Map Byte, Map.get 0 (Map.set 0 m' (o + bs.length) b) k = Map.get 0 m' k := fun m' => Map.get_set_ne _ _ _ _ _ hlast
      have hin : (o ≤ k ∧ k < o + (bs ++ [b]).length) ↔ (o ≤ k ∧ k < o + bs.length) := by simp; omega
      have hsame : Map.get 0 (if keep (o + bs.length) then Map.set 0 (overlaid keep m o bs) (o + bs.length) b else overlaid keep m o bs) k =
          Map.get 0 (overlaid keep m o bs) k := by
        split
        · exact hget _
        · rfl
      rw [hsame, ih]
      by_cases hk : (o ≤ k ∧ k < o + bs.length) ∧ keep k
      · rw [if_pos hk, if_pos ⟨hin.mpr hk.1, hk.2⟩, List.getD_append _ _ _ _ (by omega)]
      · rw [if_neg hk, if_neg (fun h => hk ⟨hin.mp h.1, h.2⟩)]

end

section
variable {s : State} {x : Entry} {o : Nat} {bs : Bytes}

/-- A write that reaches beyond the capacity is noted. -/
theorem stageInline_beyond (hbs : bs ≠ []) (h : x.desc.outCap < o + bs.length) :
    stageInline x o bs = { x with outOver := max x.outOver (o + bs.length) } := by
  simp [stageInline, beyondCap, hbs, h]

theorem stageInline_within (hbs : bs ≠ []) (h : o + bs.length ≤ x.desc.outCap) : stageInline x o bs =
    { x with out := overlaid (fun k => (stagePlace x).isNone = true ∨ k < inlineRoom x) x.out o bs } := by
  have hcap : beyondCap x o bs.length = false := decide_eq_false (Nat.not_lt.mpr h)
  have hempty : bs.isEmpty = false := by simpa using hbs
  unfold stageInline
  rw [if_neg (by simp [hempty]), if_neg (by simp [hcap])]
  rfl

theorem stageDenied_beyond (h : x.desc.outCap < o + bs.length) : stageDenied s x o bs = none := if_pos (decide_eq_true h)

theorem stageBeyond_beyond (h : x.desc.outCap < o + bs.length) : stageBeyond s x o bs = s := if_pos (decide_eq_true h)

theorem stageDenied_noPlace (h : stagePlace x = none) : stageDenied s x o bs = none := by
  unfold stageDenied
  rw [h]
  exact ite_self _

theorem stageBeyond_noPlace (h : stagePlace x = none) : stageBeyond s x o bs = s := by
  unfold stageBeyond
  rw [h]
  exact ite_self _

/-- A write within the inline room goes to no stack. -/
theorem stageDenied_inline (h : o + bs.length ≤ inlineRoom x) : stageDenied s x o bs = none := by
  have hdrop : bs.drop (inlineRoom x - o) = [] := List.drop_eq_nil_of_le (by omega)
  unfold stageDenied
  rw [hdrop]
  split
  · rfl
  · split <;> rfl

theorem stageBeyond_inline (h : o + bs.length ≤ inlineRoom x) : stageBeyond s x o bs = s := by
  have hdrop : bs.drop (inlineRoom x - o) = [] := List.drop_eq_nil_of_le (by omega)
  unfold stageBeyond
  rw [hdrop]
  split
  · rfl
  · split <;> rfl

section
variable {d base : Nat} (hplace : stagePlace x = some (d, base)) (hcap : o + bs.length ≤ x.desc.outCap) (hroom : inlineRoom x ≤ o)
include hplace hcap hroom

/-- A write beyond the inline room goes to the staging area. -/
theorem stageBeyond_area : stageBeyond s x o bs = hbmWrite s d (base + (o - inlineRoom x)) bs := by
  have hdrop : bs.drop (inlineRoom x - o) = bs := by rw [Nat.sub_eq_zero_of_le hroom, List.drop_zero]
  unfold stageBeyond
  rw [if_neg (by simp [beyondCap, hcap]), hplace, hdrop]

theorem stageDenied_area : stageDenied s x o bs =
    (gatePieces (hbmBase d + base + (o - inlineRoom x)) bs.length).find? (fun a => !gateAllows s (stageClass x) a true) := by
  have hdrop : bs.drop (inlineRoom x - o) = bs := by rw [Nat.sub_eq_zero_of_le hroom, List.drop_zero]
  unfold stageDenied
  rw [if_neg (by simp [beyondCap, hcap]), hplace, hdrop]

theorem stageInline_area (hbs : bs ≠ []) : stageInline x o bs = x := by
  rw [stageInline_within hbs hcap, overlaid_eq_self _ _ _ _ (fun k hk => by rw [hplace]; simp; omega)]

end

end

theorem Onward_congr {u : State} {c : Nat} {f g : Core → Core} (h : f (u.core c) = g (u.core c)) : Onward u c f = Onward u c g := by
  unfold Onward
  rw [h]

theorem stageOutput_core (s : State) (e o : Nat) (bs : Bytes) (c : Nat) : (stageOutput s e o bs).core c = s.core c := by
  have hbeyond : TraceOnly s (stageBeyond s (s.entry e) o bs) := by
    unfold stageBeyond
    refine .ite .refl ?_
    split
    · exact .refl
    · exact .after_hbmWrite .refl
  rw [stageOutput_eq, State.setEntry_core', hbeyond.core]

section
variable {s : State} {c : Fin 2048} {v : Word} (hlead : (s.core c).member = 0)
include hlead

/-- OUT_DATA of the lead whose write no gate denies stages its four bytes and advances OUT_OFS. -/
theorem writeOutput_stages (hrun : (s.core c).phase = .running) (h : stageDenied s (s.request c) (s.core c).outOfs (le 4 v.toNat) = none) :
    writeOutput s c v = Onward (stageOutput s (s.core c).entry (s.core c).outOfs (le 4 v.toNat)) c
      (fun x => { x with outOfs := (x.outOfs + 4) % 2 ^ 32 }) := by
  have hcore := stageOutput_core s (s.core c).entry (s.core c).outOfs (le 4 v.toNat) c
  have hwrite : writeOutput s c v = goNext ((stageOutput s (s.core c).entry (s.core c).outOfs (le 4 v.toNat)).modCore c
      (fun x => { x with outOfs := ((s.core c).outOfs + 4) % 2 ^ 32 })) c := by
    refine (if_pos hlead).trans ?_
    unfold portOutput
    simp only [h]
  rw [hwrite, goNext_modCore (by rw [hcore]; exact hrun)]
  exact Onward_congr (by rw [hcore])

theorem writeOutput_denied {a : Nat} (h : stageDenied s (s.request c) (s.core c).outOfs (le 4 v.toNat) = some a) :
    writeOutput s c v = faultCtx (recordDenial s .tu a true) c := by
  refine (if_pos hlead).trans ?_
  unfold portOutput
  simp only [h]

end

/-! ### Time and random words (R69, R142) -/

section
variable {s : State} {c : Fin 2048} {r : Nat}

/-- NTIME_LO latches a sample. -/
theorem readNtime_lo (hrun : (s.core c).phase = .running) : readNtime s c r 0 = Onward s c (fun x => { x with
    ntimeHi := BitVec.ofNat 32 (s.time.ntime / 2 ^ 32 % 2 ^ 32)
    ntimeOk := s.time.valid
    w := Map.set 0 x.w r (BitVec.ofNat 32 s.time.ntime) }) := by
  have hlow : (BitVec.ofNat 64 s.time.ntime).setWidth 32 = BitVec.ofNat 32 s.time.ntime := by
    apply BitVec.eq_of_toNat_eq
    simp only [BitVec.toNat_setWidth, BitVec.toNat_ofNat]
    omega
  have hhigh : ((BitVec.ofNat 64 s.time.ntime) >>> 32).setWidth 32 = BitVec.ofNat 32 (s.time.ntime / 2 ^ 32 % 2 ^ 32) := by
    apply BitVec.eq_of_toNat_eq
    simp only [BitVec.toNat_setWidth, BitVec.toNat_ushiftRight, BitVec.toNat_ofNat, Nat.shiftRight_eq_div_pow]
    omega
  have hread : readNtime s c r 0 = answer (s.modCore c (fun x => { x with
      ntimeHi := ((BitVec.ofNat 64 s.time.ntime) >>> 32).setWidth 32, ntimeOk := s.time.valid })) c r
      ((BitVec.ofNat 64 s.time.ntime).setWidth 32) := rfl
  rw [hread, answer_modCore hrun, hlow, hhigh]

theorem readRandom_serves (h : drbgServes s (barnOfCtx c) = true) : readRandom s c r =
    Reads (drbgGen s (barnOfCtx c) 4).2 c r (BitVec.ofNat 32 (ofLe (drbgGen s (barnOfCtx c) 4).1)) := if_pos h

theorem readRandom_waits (h : drbgServes s (barnOfCtx c) = false) : readRandom s c r = waitOn s c .drbg := if_neg (by simp [h])

end

/-! ### Each port as its statement has it -/

section
variable {s : State} {c : Fin 2048} (hissue : Issues s (.tu c))
include hissue

theorem AtPort.running {u : State} (h : AtPort s c u) : (u.core c).phase = .running := h.phase.trans hissue.1

/-- An access whose effect on the state that its instruction finds is known. -/
theorem exists_atPort {i : Instr} {w : Wait → Bool} {k F : State → State} (hi : exec i s = portRow c w s k) (hw : w .none = false)
    (hk : ∀ u, AtPort s c u → k u = F u) : ∃ u, AtPort s c u ∧ exec i s = done (F u) := by
  obtain ⟨u, hu, hrow⟩ := portRow_runs hissue hw k
  exact ⟨u, hu, by rw [hi, hrow, hk u hu]⟩

theorem exec_grpFork {v : Word} {h : Nat} (hlead : (s.core c).member = 0) (hne : v.toNat % 4 ≠ 0)
    (hmem : (s.request c).group[v.toNat % 4]? = some h) (hhc : h ≠ c) (hnew : (s.core h).forked = false)
    (hofs : 4 * (v.toNat / 4 % 2 ^ 16) < bankLength s c) :
    ∃ u, AtPort s c u ∧ exec (.grpFork c v) s = done (Onward (u.setCore h {
      phase := .running
      entry := (s.core h).entry
      member := (s.core h).member
      pc := 4 * (v.toNat / 4 % 2 ^ 16)
      w := (s.core c).w.filter (fun p => decide (p.1 < 8))
      mask := (s.core h).mask
      smbx := (s.core h).smbx
      wmbx := (s.core h).wmbx
      forked := true }) c (fun x => x)) := by
  refine exists_atPort hissue (k := fun u => forkHelper u c v) rfl rfl fun u hu => ?_
  have hcore := hu.core_ne hhc
  rw [forkHelper_forks (by rw [hu.member, hlead]) hne (by rw [hu.memberCtx]; exact hmem) (by rw [hcore, hnew])
    (by rw [hu.bankLength]; exact hofs), hcore, hu.w]
  rfl

theorem exec_grpJoin_joins {r : Fin 32} (hlead : (s.core c).member = 0)
    (hall : ∀ k ∈ (s.request c).group, k ≠ c → (s.core k).forked = true → (s.core k).phase = .ended) :
    ∃ u, AtPort s c u ∧ exec (.grpJoin c r) s = done (Reads u c r 0) := by
  refine exists_atPort hissue (k := fun u => joinHelpers u c r) rfl rfl fun u hu => ?_
  refine joinHelpers_joins (by rw [hu.member, hlead]) fun k hk hkc => ?_
  rw [hu.core_ne hkc]
  exact hall k (by rwa [hu.request] at hk) hkc

theorem exec_grpJoin_waits {r : Fin 32} (hlead : (s.core c).member = 0)
    (hsome : ∃ k ∈ (s.request c).group, k ≠ c ∧ (s.core k).forked = true ∧ (s.core k).phase ≠ .ended) :
    ∃ u, AtPort s c u ∧ exec (.grpJoin c r) s = done (u.setCore c { u.core c with wait := .join }) := by
  obtain ⟨k, hk, hkc, hrest⟩ := hsome
  refine exists_atPort hissue (k := fun u => joinHelpers u c r) rfl rfl fun u hu => ?_
  exact joinHelpers_waits (by rw [hu.member, hlead]) ⟨k, by rwa [hu.request], hkc, by rwa [hu.core_ne hkc]⟩

theorem exec_grpEnd (hhelper : (s.core c).member ≠ 0) :
    ∃ u, AtPort s c u ∧ exec (.grpEnd c) s = done (u.setCore c { u.core c with phase := .ended }) :=
  exists_atPort hissue (k := fun u => endHelper u c) rfl rfl fun u hu => if_neg (by rwa [hu.member])

section
variable {m : Fin 4} {h : Nat} (hmem : (s.request c).group[m.val]? = some h) (hhc : h ≠ c)
include hmem hhc

theorem exec_smbxSend_sends {sa : Fin 16} (hroom : (s.core h).smbx.length < 4) : ∃ u, AtPort s c u ∧ exec (.smbxSend c m sa) s =
    done (Onward (u.setCore h { s.core h with smbx := (s.core h).smbx ++ [(s.core c).getS sa] }) c (fun x => x)) := by
  refine exists_atPort hissue (k := fun u => sendSecret u c m sa) rfl (by simp) fun u hu => ?_
  have hcore := hu.core_ne hhc
  rw [sendSecret_sends (by rw [hu.memberCtx]; exact hmem) (by rwa [hcore]), hcore, hu.getS]
  rfl

theorem exec_smbxSend_waits {sa : Fin 16} (hfull : 4 ≤ (s.core h).smbx.length) : ∃ u, AtPort s c u ∧ exec (.smbxSend c m sa) s =
    done (u.setCore c { u.core c with wait := .smbxSend m }) := by
  refine exists_atPort hissue (k := fun u => sendSecret u c m sa) rfl (by simp) fun u hu => ?_
  exact sendSecret_waits (by rw [hu.memberCtx]; exact hmem) (by rwa [hu.core_ne hhc])

theorem exec_wmbxSend_sends {r : Fin 32} (hroom : (s.core h).wmbx.length < 8) : ∃ u, AtPort s c u ∧ exec (.wmbxSend c m r) s =
    done (Onward (u.setCore h { s.core h with wmbx := (s.core h).wmbx ++ [(s.core c).getW r] }) c (fun x => x)) := by
  refine exists_atPort hissue (k := fun u => sendWord u c m ((u.core c).getW r)) rfl (by simp) fun u hu => ?_
  have hcore := hu.core_ne hhc
  rw [sendWord_sends (by rw [hu.memberCtx]; exact hmem) (by rwa [hcore]), hcore, hu.getW]
  rfl

theorem exec_wmbxSend_waits {r : Fin 32} (hfull : 8 ≤ (s.core h).wmbx.length) : ∃ u, AtPort s c u ∧ exec (.wmbxSend c m r) s =
    done (u.setCore c { u.core c with wait := .wmbxSend m }) := by
  refine exists_atPort hissue (k := fun u => sendWord u c m ((u.core c).getW r)) rfl (by simp) fun u hu => ?_
  exact sendWord_waits (by rw [hu.memberCtx]; exact hmem) (by rwa [hu.core_ne hhc])

end

theorem exec_smbxIn_takes {sd : Fin 16} {v : SReg} {rest : List SReg} (hbox : (s.core c).smbx = v :: rest)
    (hgood : (readUnit s (.mailbox c)).1 = .good) : ∃ u k, AtPort s c u ∧ Runs (.smbxIn c sd) s (fun t => OnlyCoreMasked s t (.tu c) ∧
      t.core c = (Onward u c (fun x => { x with smbx := rest, s := Map.set {} x.s sd v, mask := k })).core c) := by
  obtain ⟨u, hu, hrow⟩ := portRow_runs hissue (w := (· == .smbxIn)) rfl (fun u => recvSecret u c sd)
  obtain ⟨k, hcore, honly⟩ := putSecret_modCore (s := u) (c := c) (sd := sd) (v := v) (fun x => { x with smbx := rest })
  have hexec : exec (.smbxIn c sd) s = done (recvSecret u c sd) := hrow
  rw [recvSecret_takes (by rw [hu.smbx, hbox]) (hu.readUnit hgood)] at hexec
  exact ⟨u, k, hu, runs_of_exec hexec ⟨(hu.1.masked.trans honly).after_drive, hcore⟩⟩

theorem exec_smbxIn_waits {sd : Fin 16} (hbox : (s.core c).smbx = []) :
    ∃ u, AtPort s c u ∧ exec (.smbxIn c sd) s = done (u.setCore c { u.core c with wait := .smbxIn }) :=
  exists_atPort hissue (k := fun u => recvSecret u c sd) rfl rfl fun u hu => recvSecret_waits (by rw [hu.smbx, hbox])

theorem exec_wmbxIn_takes {r : Fin 32} {v : Word} {rest : List Word} (hbox : (s.core c).wmbx = v :: rest)
    (hgood : (readUnit s (.mailbox c)).1 = .good) : ∃ u, AtPort s c u ∧ exec (.wmbxIn c r) s =
      done (Onward u c (fun x => { x with wmbx := rest, w := Map.set 0 x.w r v })) := by
  refine exists_atPort hissue (k := fun u => recvWord u c r) rfl rfl fun u hu => ?_
  rw [recvWord_takes (by rw [hu.wmbx, hbox]) (hu.readUnit hgood), answer_modCore (hu.running hissue)]

theorem exec_wmbxIn_waits {r : Fin 32} (hbox : (s.core c).wmbx = []) :
    ∃ u, AtPort s c u ∧ exec (.wmbxIn c r) s = done (u.setCore c { u.core c with wait := .wmbxIn }) :=
  exists_atPort hissue (k := fun u => recvWord u c r) rfl rfl fun u hu => recvWord_waits (by rw [hu.wmbx, hbox])

theorem exec_inData_word {r : Fin 32} {b : Bytes} (hinput : (s.request c).input = some b) : ∃ u, AtPort s c u ∧ exec (.inData c r .ok) s =
    done (Onward u c (fun x => { x with
      inOfs := (x.inOfs + 4) % 2 ^ 32
      w := Map.set 0 x.w r (BitVec.ofNat 32 (ofLe ((List.range 4).map (fun k => b.getD ((s.core c).inOfs + k) 0)))) })) := by
  refine exists_atPort hissue (k := fun u => readInput u c r .ok) rfl rfl fun u hu => ?_
  rw [readInput_word (by rw [hu.request, hinput]), answer_modCore (hu.running hissue), Bits.fieldLe, slice_eq_map, hu.inOfs]
  exact Onward_congr (by rw [hu.inOfs])

theorem exec_inData_host {r : Fin 32} (hinput : (s.request c).input = none) (hinline : (s.request c).desc.isInline = false)
    (hlen : (s.request c).desc.inLen ≠ 0) (dma : Dma) : ∃ u, AtPort s c u ∧
      (linkWaits s (dieOfCtx c) = true → exec (.inData c r dma) s = done u) ∧
      (linkWaits s (dieOfCtx c) = false → dma ≠ .ok → hostGate s false = true →
        exec (.inData c r dma) s = done (endRequest u (s.core c).entry St.badPointer)) ∧
      (linkWaits s (dieOfCtx c) = false → hostGate s false = false →
        exec (.inData c r dma) s = done (endRequest (hostDenied u false) (s.core c).entry St.faultAlarm)) := by
  obtain ⟨u, hu, hrow⟩ := portRow_runs hissue (w := noWait) rfl (fun u => readInput u c r dma)
  have hexec : exec (.inData c r dma) s = done (readInput u c r dma) := hrow
  rw [← hu.request] at hinput hinline hlen
  rw [← hu.core_entry, ← hu.linkWaits, ← hu.hostGate]
  refine ⟨u, hu, fun hlink => ?_, fun hlink hdma hgate => ?_, fun hlink hgate => ?_⟩
  · rw [hexec, readInput_waits hinput hinline hlen hlink]
  · rw [hexec, readInput_fails hinput hinline hlen hlink (.inl hdma), hostLost, if_pos hgate]
  · rw [hexec, readInput_fails hinput hinline hlen hlink (.inr hgate), hostLost, if_neg (by simp [hgate])]

theorem exec_ntimeRead_lo {r : Fin 32} : ∃ u, AtPort s c u ∧ exec (.ntimeRead c r 0) s = done (Onward u c (fun x => { x with
    ntimeHi := BitVec.ofNat 32 (s.time.ntime / 2 ^ 32 % 2 ^ 32)
    ntimeOk := s.time.valid
    w := Map.set 0 x.w r (BitVec.ofNat 32 s.time.ntime) })) := by
  refine exists_atPort hissue (k := fun u => readNtime u c r 0) rfl rfl fun u hu => ?_
  rw [readNtime_lo (hu.running hissue), hu.time]

theorem exec_ntimeRead_hi {r : Fin 32} : ∃ u, AtPort s c u ∧ exec (.ntimeRead c r 1) s = done (Reads u c r (s.core c).ntimeHi) := by
  refine exists_atPort hissue (k := fun u => readNtime u c r 1) rfl rfl fun u hu => ?_
  rw [← hu.ntimeHi]
  rfl

theorem exec_ntimeRead_valid {r : Fin 32} :
    ∃ u, AtPort s c u ∧ exec (.ntimeRead c r 2) s = done (Reads u c r (if (s.core c).ntimeOk then 1 else 0)) := by
  refine exists_atPort hissue (k := fun u => readNtime u c r 2) rfl rfl fun u hu => ?_
  have hread : readNtime u c r 2 = answer u c r (BitVec.ofNat 32 (b2n (u.core c).ntimeOk)) := rfl
  rw [hread, hu.ntimeOk]
  cases (s.core c).ntimeOk <;> rfl

theorem exec_drbgRead_serves {r : Fin 32} {k : Fin 4} (h : drbgServes s (barnOfCtx c) = true) : ∃ u, AtPort s c u ∧
    exec (.drbgRead c r k) s = done (Reads (drbgGen u (barnOfCtx c) 4).2 c r (BitVec.ofNat 32 (ofLe (drbgGen u (barnOfCtx c) 4).1))) :=
  exists_atPort hissue (k := fun u => readRandom u c r) rfl rfl fun u hu => readRandom_serves (by rwa [hu.drbgServes])

theorem exec_drbgRead_waits {r : Fin 32} {k : Fin 4} (h : drbgServes s (barnOfCtx c) = false) :
    ∃ u, AtPort s c u ∧ exec (.drbgRead c r k) s = done (u.setCore c { u.core c with wait := .drbg }) :=
  exists_atPort hissue (k := fun u => readRandom u c r) rfl rfl fun u hu => readRandom_waits (by rwa [hu.drbgServes])

end

/-! ### OUT_DATA (R143, R255, R347) -/

/-- Within a page an access is one piece. -/
theorem gatePieces_page {a n : Nat} (hn : n ≠ 0) (hpage : (a + n - 1) / 4096 = a / 4096) : gatePieces a n = [a] := by
  unfold gatePieces
  rw [if_neg hn, hpage, Nat.sub_self]
  rfl

section
variable {s : State} {x : Entry} {o d base : Nat} {bs : Bytes} (hplace : stagePlace x = some (d, base))
  (hcap : o + bs.length ≤ x.desc.outCap) (hroom : inlineRoom x ≤ o)
include hplace hcap hroom

theorem stageDenied_page (hgate : gateAllows s (stageClass x) (hbmBase d + base + (o - inlineRoom x)) true = true)
    (hpage : (hbmBase d + base + (o - inlineRoom x) + bs.length - 1) / 4096 = (hbmBase d + base + (o - inlineRoom x)) / 4096) :
    stageDenied s x o bs = none := by
  rw [stageDenied_area hplace hcap hroom]
  by_cases hn : bs.length = 0
  · rw [hn]
    rfl
  · rw [gatePieces_page hn hpage, List.find?_cons_of_neg (by simpa using hgate), List.find?_nil]

/-- The gate denies the first piece. -/
theorem stageDenied_some (hbs : bs ≠ []) (hgate : gateAllows s (stageClass x) (hbmBase d + base + (o - inlineRoom x)) true = false) :
    stageDenied s x o bs = some (hbmBase d + base + (o - inlineRoom x)) := by
  have hlen : bs.length ≠ 0 := by simpa using hbs
  rw [stageDenied_area hplace hcap hroom, gatePieces, if_neg hlen, List.find?_cons_of_pos (by simpa using hgate)]

end

section
variable {x : Entry} {d : Fin 2} (hdie : x.die = d.val + 1) (hvf : x.func ≠ 0)
include hvf

theorem inlineRoom_vf : inlineRoom x = 96 := if_neg hvf

theorem stageClass_vf : stageClass x = .tu := if_neg hvf

include hdie

theorem stagePlace_vf : stagePlace x = some (d.val + 1, 0x300000000 + 0x8000 * x.slot) := by
  unfold stagePlace
  rw [if_pos hvf, if_pos (by omega), hdie]
  rfl

end

/-- OUT_DATA of the lead, on the state that its instruction finds. -/
theorem exec_outData {s : State} {c : Fin 2048} {v : Word} (hissue : Issues s (.tu c)) (hlead : (s.core c).member = 0) :
    ∃ u, AtPort s c u ∧
      (stageDenied u (s.request c) (s.core c).outOfs (le 4 v.toNat) = none → exec (.outData c v) s = done (Onward
        ((stageBeyond u (s.request c) (s.core c).outOfs (le 4 v.toNat)).setEntry (s.core c).entry
          (stageInline (s.request c) (s.core c).outOfs (le 4 v.toNat))) c (fun x => { x with outOfs := (x.outOfs + 4) % 2 ^ 32 }))) ∧
      ∀ a, stageDenied u (s.request c) (s.core c).outOfs (le 4 v.toNat) = some a →
        exec (.outData c v) s = done (faultCtx (recordDenial u .tu a true) c) := by
  obtain ⟨u, hu, hrow⟩ := portRow_runs hissue (w := noWait) rfl (fun u => writeOutput u c v)
  have hexec : exec (.outData c v) s = done (writeOutput u c v) := hrow
  have hentry : u.entry (u.core c).entry = u.request c := rfl
  rw [← hu.member] at hlead
  rw [← hu.request, ← hu.outOfs, ← hu.core_entry]
  refine ⟨u, hu, fun hpass => ?_, fun a hdenied => ?_⟩
  · rw [hexec, writeOutput_stages hlead (hu.running hissue) hpass, stageOutput_eq, hentry]
  · rw [hexec, writeOutput_denied hlead hdenied]

/-- Settles O16: each clause is an access above, on the state that the context's instruction finds. -/
theorem groupsMailboxesAndStaging : Obligations.GroupsMailboxesAndStaging := by
  refine ⟨fun s c v r h hissue => ⟨exec_grpFork hissue, fun hlead => ⟨exec_grpJoin_joins hissue hlead, exec_grpJoin_waits hissue hlead⟩,
      exec_grpEnd hissue⟩,
    fun s c m sa sd r h hissue => ⟨fun hmem hhc => ⟨exec_smbxSend_sends hissue hmem hhc, exec_smbxSend_waits hissue hmem hhc,
        exec_wmbxSend_sends hissue hmem hhc, exec_wmbxSend_waits hissue hmem hhc⟩,
      fun v rest => exec_smbxIn_takes hissue, exec_smbxIn_waits hissue, fun v rest => exec_wmbxIn_takes hissue, exec_wmbxIn_waits hissue⟩,
    fun s c r v b hissue => ⟨exec_inData_word hissue, exec_inData_host hissue, fun hlead => ?outData⟩,
    fun s c r k hissue => ⟨exec_ntimeRead_lo hissue, exec_ntimeRead_hi hissue, exec_ntimeRead_valid hissue, exec_drbgRead_serves hissue,
      exec_drbgRead_waits hissue⟩⟩
  case outData =>
    obtain ⟨u, hu, hpass, hdenied⟩ := exec_outData hissue hlead (v := v)
    rw [le_four] at hpass hdenied
    refine ⟨u, hu, ?_⟩
    intro x o bs onward
    have hbs : bs ≠ [] := List.cons_ne_nil _ _
    refine ⟨fun h => ?staged, fun hcap => ?beyond, fun hcap hinline => ?inline, fun d hdie hvf hcap hofs => ?area⟩
    case staged =>
      rw [hpass ((hu.stageDenied x o bs).trans h), stageOutput_eq, hu.entry]
      rfl
    case beyond =>
      have hexec := hpass (stageDenied_beyond hcap)
      rwa [stageBeyond_beyond hcap, stageInline_beyond hbs hcap] at hexec
    case inline =>
      refine ⟨overlaid (fun k => (stagePlace x).isNone = true ∨ k < inlineRoom x) x.out o bs, ?_, fun k => ?_⟩
      · have hroom : stagePlace x = none ∨ o + bs.length ≤ inlineRoom x := hinline.symm.imp_right (fun h => by rw [inlineRoom_vf h.2]; exact h.1)
        have hexec := hpass (hroom.elim stageDenied_noPlace stageDenied_inline)
        rwa [hroom.elim stageBeyond_noPlace stageBeyond_inline, stageInline_within hbs hcap] at hexec
      · rw [overlaid_get]
        refine if_congr (and_iff_left_of_imp fun hk => ?_) rfl rfl
        rcases hinline with ⟨hfits, hvf⟩ | hplace
        · rw [inlineRoom_vf hvf]
          exact .inr (hk.2.trans_le hfits)
        · exact .inl (by simp [hplace])
    case area =>
      have hplace := stagePlace_vf hdie hvf
      have hroom : inlineRoom x ≤ o := by rwa [inlineRoom_vf hvf]
      refine ⟨fun hgate hpage => ?_, fun hgate => ?_⟩
      · have hexec := hpass (stageDenied_page hplace hcap hroom (by rwa [inlineRoom_vf hvf, stageClass_vf hvf, Nat.add_assoc])
          (by rw [inlineRoom_vf hvf]; show (_ + 4 - 1) / 4096 = _; unfold hbmBase; omega))
        rwa [stageBeyond_area hplace hcap hroom, stageInline_area hplace hcap hroom hbs, inlineRoom_vf hvf] at hexec
      · have hexec := hdenied _ (stageDenied_some hplace hcap hroom hbs (by rwa [inlineRoom_vf hvf, stageClass_vf hvf, Nat.add_assoc]))
        rwa [inlineRoom_vf hvf, Nat.add_assoc] at hexec

end Sys2Proof.Machine
end


-- ==== Proofs: descriptor arrivals ====
section
/-! Proofs: a descriptor arrival at an entry that nothing reserved (O22). -/

namespace Sys2Proof.Machine

open Sys2Proof Sys2Proof.Bits

/-- A fetch arrives at entry 65,536, which lies in the small pool and which nothing reserved: the pool offers the entry to itself. -/
def fetchedUnreserved : State :=
  { State.reset with
    gates := [(keepGate 0, { cls := [(clsCodeOf .hostDma, 7)] })]
    entries := [(65536, { phase := .fetching })] }

/-- Every entry that the outcome of a step keeps has status 0. -/
def statusesZero : Host.Outcome State Fault Refusal → Bool
  | .next t => t.entries.all (fun p => p.2.status == 0)
  | _ => false

theorem Map.get_of_forall {α : Type} {P : α → Prop} {d : α} (hd : P d) :
    ∀ m : Map α, (∀ p ∈ m, P p.2) → ∀ k, P (Map.get d m k)
  | [], _, _ => hd
  | (i, a) :: r, h, k => by
    unfold Map.get
    split
    · exact h (i, a) List.mem_cons_self
    · exact Map.get_of_forall hd r (fun p hp => h p (List.mem_cons_of_mem _ hp)) k

theorem status_of_statusesZero {t : State} (h : statusesZero (.next t) = true) (k : Nat) : (t.entry k).status = 0 :=
  Map.get_of_forall (P := fun x : Entry => x.status = 0) rfl t.entries (by simpa [statusesZero] using h) k

/-- Refutes O22: the refused descriptor of an entry that is free (R44 speaks of a reserved one) is moved to the free entry of
the small pool that it occupies itself, and is lost with its status. -/
theorem not_descriptorsFetchedAndJudged : ¬ Obligations.DescriptorsFetchedAndJudged := by
  unfold Obligations.DescriptorsFetchedAndJudged
  rintro ⟨-, h⟩
  obtain ⟨-, -, refused, -⟩ := h fetchedUnreserved 65536 .ok (by decide +kernel) (by decide +kernel)
  obtain ⟨t, ht, k, -, hstatus, -⟩ := refused (by decide +kernel) (by decide +kernel)
  have hzero : statusesZero (exec (.descriptorArrival 65536 .ok) fetchedUnreserved) = true := by decide +kernel
  rw [ht] at hzero
  rw [status_of_statusesZero hzero] at hstatus
  revert hstatus
  decide +kernel

end Sys2Proof.Machine
end


section
/-! Proofs: what the freeing of entries, the grants and the deletion of keys leave of host memory, of the CQs and of the partitions. -/

namespace Sys2Proof.Machine

open Sys2Proof Sys2Proof.Bits

/-- From s to t host memory, the count of drops, the causes of DEGRADED, the tail and the phase of every CQ and, of every partition, its generation
and what its increments wait for stay. -/
structure KeepsHost (s t : State) : Prop where
  hostMem : t.hostMem = s.hostMem
  genDrops : t.hif.genDrops = s.hif.genDrops
  causes : t.dev.causes = s.dev.causes
  place : ∀ f n, (t.cq f n).tail = (s.cq f n).tail ∧ (t.cq f n).phase = (s.cq f n).phase
  part : ∀ p, (t.part p).gen = (s.part p).gen ∧ (t.part p).incPending = (s.part p).incPending ∧
    (t.part p).wasActive = (s.part p).wasActive ∧ (t.part p).releasing = (s.part p).releasing

namespace KeepsHost

variable {s t u : State}

theorem refl : KeepsHost s s := ⟨rfl, rfl, rfl, fun _ _ => ⟨rfl, rfl⟩, fun _ => ⟨rfl, rfl, rfl, rfl⟩⟩

theorem trans (h : KeepsHost s t) (k : KeepsHost t u) : KeepsHost s u where
  hostMem := k.hostMem.trans h.hostMem
  genDrops := k.genDrops.trans h.genDrops
  causes := k.causes.trans h.causes
  place := fun f n => ⟨(k.place f n).1.trans (h.place f n).1, (k.place f n).2.trans (h.place f n).2⟩
  part := fun p => by
    obtain ⟨hgen, hpending, hactive, hreleasing⟩ := k.part p
    rw [hgen, hpending, hactive, hreleasing]
    exact h.part p

theorem ite {c : Prop} [Decidable c] (h : KeepsHost s t) (k : KeepsHost s u) : KeepsHost s (if c then t else u) := by
  split <;> assumption

theorem after_foldl {α : Type} {f : State → α → State} (hf : ∀ u a, KeepsHost s u → KeepsHost s (f u a)) (l : List α)
    (h : KeepsHost s t) : KeepsHost s (l.foldl f t) :=
  List.foldlRecOn l f h (fun u hu a _ => hf u a hu)

/-! Each operation below is the last of those that lead from s to the state t. -/

/-- An operation on other parts of the state. -/
theorem after_eq (h : KeepsHost s t) (hmem : u.hostMem = t.hostMem := by rfl) (hdrops : u.hif.genDrops = t.hif.genDrops := by rfl)
    (hcq : u.hif.cq = t.hif.cq := by rfl) (hcauses : u.dev.causes = t.dev.causes := by rfl) (hparts : u.parts = t.parts := by rfl) :
    KeepsHost s u := by
  have hring : ∀ f n, u.cq f n = t.cq f n := fun f n => by unfold State.cq; rw [hcq]
  have hpart : ∀ p, u.part p = t.part p := fun p => by unfold State.part; rw [hparts]
  exact h.trans ⟨hmem, hdrops, hcauses, fun f n => by rw [hring]; exact ⟨rfl, rfl⟩, fun p => by rw [hpart]; exact ⟨rfl, rfl, rfl, rfl⟩⟩

theorem after_traceOnly (h : KeepsHost s t) (k : TraceOnly t u) : KeepsHost s u := by
  unfold TraceOnly at k
  rw [k]
  exact .after_eq h

theorem after_tallyOnly (h : KeepsHost s t) (k : TallyOnly t u) : KeepsHost s u := h.after_traceOnly k.traceOnly

/-- A CQ that keeps its place. -/
theorem after_setCq (h : KeepsHost s t) {f n : Nat} {x : CqRing} (htail : x.tail = (t.cq f n).tail := by rfl)
    (hphase : x.phase = (t.cq f n).phase := by rfl) : KeepsHost s (t.setCq f n x) := by
  refine h.trans ⟨rfl, rfl, rfl, fun g m => ?_, fun _ => ⟨rfl, rfl, rfl, rfl⟩⟩
  have hget : (t.setCq f n x).cq g m = if 64 * g + m = 64 * f + n then x else t.cq g m := Map.get_set _ _ _ _ _
  rw [hget]
  split
  · next hkey =>
    have hring : t.cq g m = t.cq f n := by unfold State.cq; rw [hkey]
    rw [hring]
    exact ⟨htail, hphase⟩
  · exact ⟨rfl, rfl⟩

/-- A partition that keeps its generation and what its increments wait for. -/
theorem after_setPart (h : KeepsHost s t) {p : Nat} {x : Part} (hgen : x.gen = (t.part p).gen := by rfl)
    (hpending : x.incPending = (t.part p).incPending := by rfl) (hactive : x.wasActive = (t.part p).wasActive := by rfl)
    (hreleasing : x.releasing = (t.part p).releasing := by rfl) : KeepsHost s (t.setPart p x) := by
  refine h.trans ⟨rfl, rfl, rfl, fun _ _ => ⟨rfl, rfl⟩, fun q => ?_⟩
  by_cases hq : q = p
  · rw [hq, State.setPart_self]
    exact ⟨hgen, hpending, hactive, hreleasing⟩
  · rw [State.setPart_ne _ _ _ _ hq]
    exact ⟨rfl, rfl, rfl, rfl⟩

theorem after_setEntry (h : KeepsHost s t) {e : Nat} {x : Entry} : KeepsHost s (t.setEntry e x) := .after_eq h

theorem after_event (h : KeepsHost s t) {e kind ctx word : Nat} : KeepsHost s (Trace.event t e kind ctx word) :=
  h.after_traceOnly (.after_event .refl)

/-! ### Denied accesses (R347) -/

theorem after_recordDenial (h : KeepsHost s t) {c : InitClass} {a : Nat} {write : Bool} : KeepsHost s (recordDenial t c a write) := by
  unfold recordDenial
  split
  · exact h
  · dsimp only
    have hset : ∀ {page g}, KeepsHost s (t.setGate page g) := .after_eq h
    have hsat : ∀ {c : Prop} [Decidable c] {page g}, KeepsHost s (if c then setInt (t.setGate page g) page 31 else t.setGate page g) :=
      .ite (.after_tallyOnly hset (setInt_only _ _ _)) hset
    exact .ite (.after_tallyOnly hsat (Tal.post_only _ _)) hsat

/-! ### Keys that are deleted (R71) -/

theorem after_uwcInvalidateIf (h : KeepsHost s t) {p : Nat} {f : Nat → Bool} : KeepsHost s (uwcInvalidateIf t p f) := .after_eq h

theorem after_putRecord (h : KeepsHost s t) {p idx : Nat} {b : Bytes} : KeepsHost s (putRecord t p idx b) := by
  unfold putRecord
  split
  · exact .ite h (.after_traceOnly h (.after_hbmWrite .refl))
  · exact h

theorem after_settleBucket (h : KeepsHost s t) {i : Nat} : KeepsHost s (settleBucket t i) := by
  have hrefill : KeepsHost s (refillBucket t i) := by
    unfold refillBucket
    exact .ite (.after_eq h) (.after_eq h)
  unfold settleBucket
  exact .ite (.after_eq hrefill) hrefill

theorem after_sealHead (h : KeepsHost s t) {idx : Nat} : KeepsHost s (sealHead t idx) := by
  unfold sealHead
  exact .ite (.after_eq h) h

theorem after_deleteKey (h : KeepsHost s t) {p idx : Nat} : KeepsHost s (deleteKey t p idx) := by
  unfold deleteKey
  extract_lets b k n invalidated emptied settled
  have hemptied : KeepsHost s emptied := .after_foldl (fun _ _ hu => .after_putRecord hu) _ (.after_uwcInvalidateIf h)
  have hsettled : KeepsHost s settled := by
    unfold settled
    split
    · exact .ite hemptied (.after_settleBucket hemptied)
    · exact hemptied
  exact .ite hsettled (.after_sealHead (.after_eq hsettled))

theorem after_returnRecords (h : KeepsHost s t) {e : Nat} : KeepsHost s (returnRecords t e) := by
  unfold returnRecords
  dsimp only
  split
  · exact h
  · exact .ite (.after_deleteKey (.after_setEntry h)) (.after_setEntry h)

/-! ### Completion interrupts (R57) -/

theorem after_raiseCq (h : KeepsHost s t) {f n : Nat} : KeepsHost s (raiseCq t f n) :=
  .after_tallyOnly (.after_setCq h) (raiseVec_only _ _ _)

theorem after_countCompletion (h : KeepsHost s t) {f n : Nat} : KeepsHost s (countCompletion t f n) := by
  unfold countCompletion
  exact .ite h (.ite (.after_raiseCq h) (.after_setCq h))

theorem after_flushCqs (h : KeepsHost s t) {f : Nat} : KeepsHost s (flushCqs t f) :=
  .after_foldl (fun _ _ hu => .ite (.after_raiseCq hu) hu) _ h

theorem after_histAdd (h : KeepsHost s t) {x : Entry} : KeepsHost s (histAdd t x) := by
  unfold histAdd
  exact .ite h (.after_eq h)

/-! ### Partitions, grants and freed entries (R119, R124, R276) -/

theorem after_movePart (h : KeepsHost s t) {p : Nat} {new : PartState} : KeepsHost s (movePart t p new) := by
  have hposted : ∀ x, KeepsHost s (Tal.post (t.setPart p { t.part p with state := new }) x) := fun x =>
    .after_tallyOnly (.after_setPart h) (Tal.post_only _ _)
  unfold movePart
  exact .ite (.after_tallyOnly (.after_eq (hposted _)) (raiseVec_only _ _ _)) (hposted _)

theorem after_maybeFreeze (h : KeepsHost s t) {p : Nat} : KeepsHost s (maybeFreeze t p) := .ite (.after_movePart h) h

theorem after_placeRequest (h : KeepsHost s t) {e : Nat} : KeepsHost s (placeRequest t e) := by
  unfold placeRequest
  split <;> exact .after_setEntry h

theorem after_startFetch (h : KeepsHost s t) {f n : Nat} : KeepsHost s (startFetch t f n) := by
  unfold startFetch
  split
  · exact h
  · exact .after_eq h

theorem after_grantFreed (h : KeepsHost s t) : KeepsHost s (grantFreed t) := by
  have hplaced : KeepsHost s (placeWaiters t) := .after_foldl (fun _ _ hu => .after_placeRequest hu) _ h
  have hone : ∀ pf u, KeepsHost s u → KeepsHost s (match ableWaiters u pf with
      | (f, n) :: _ => if poolFree u f then startFetch u f n else u
      | [] => u) := fun pf u hu => by
    split
    · exact .ite (.after_startFetch hu) hu
    · exact hu
  exact hone true _ (hone false _ hplaced)

theorem after_freeEntry (h : KeepsHost s t) {e : Nat} : KeepsHost s (freeEntry t e) := by
  unfold freeEntry
  exact .after_grantFreed (.ite (.after_maybeFreeze (.after_flushCqs (.after_setEntry h))) (.after_setEntry h))

theorem after_leaveChain (h : KeepsHost s t) {e : Nat} {notice : Bool} : KeepsHost s (leaveChain t e notice) := by
  unfold leaveChain
  dsimp only
  exact .ite (.after_eq h) (.after_eq h)

end KeepsHost

/-! ### The state of an entry after its freeing -/

theorem entry_of_entries {s t : State} (h : t.entries = s.entries) (k : Nat) : t.entry k = s.entry k :=
  congrArg (fun m => Map.get ({} : Entry) m k) h

/-- The entry is free, or reserved anew for a fetch. -/
def GivenOut (x : Entry) : Prop := x.state = .free ∨ x.state = .reserved

theorem placeRequest_givenOut {s : State} {e k : Nat} (h : GivenOut (s.entry e)) : GivenOut ((placeRequest s k).entry e) := by
  unfold placeRequest State.modEntry
  by_cases hk : e = k
  · subst hk
    split <;> rw [State.setEntry_self] <;> exact h
  · split <;> rw [State.setEntry_ne _ _ _ _ hk] <;> exact h

/-- The entry that a fetch reserves. -/
def fetchEntry (s : State) (f n : Nat) : Entry where
  state := .reserved
  phase := .fetching
  func := f
  sq := n
  cq := (s.sq f n).cq
  fetchGen := if f = 0 then 0 else (s.part (f - 1)).gen
  fetchSeq := s.sched.fetchSeq
  descAddr := headAddr (s.sq f n)
  small := f == 0
  slotResv := f != 0

theorem startFetch_entry {s : State} {f n e : Nat} (h : freeEntryOf s (f == 0) = some e) (k : Nat) :
    (startFetch s f n).entry k = if k = e then fetchEntry s f n else s.entry k := by
  have hset : (startFetch s f n).entries = Map.set {} s.entries e (fetchEntry s f n) := by
    unfold startFetch
    rw [h]
    rfl
  unfold State.entry
  rw [hset, Map.get_set]

theorem startFetch_givenOut {s : State} {e f n : Nat} (h : GivenOut (s.entry e)) : GivenOut ((startFetch s f n).entry e) := by
  cases hfree : freeEntryOf s (f == 0) with
  | none =>
    unfold startFetch
    rw [hfree]
    exact h
  | some k =>
    rw [startFetch_entry hfree]
    split
    · exact .inr rfl
    · exact h

theorem grantFreed_givenOut {s : State} {e : Nat} (h : GivenOut (s.entry e)) : GivenOut ((grantFreed s).entry e) := by
  have hplaced : GivenOut ((placeWaiters s).entry e) :=
    List.foldlRecOn (motive := fun u : State => GivenOut (u.entry e)) _ _ h (fun _ hu _ _ => placeRequest_givenOut hu)
  have hone : ∀ pf (u : State), GivenOut (u.entry e) → GivenOut ((match ableWaiters u pf with
      | (f, n) :: _ => if poolFree u f then startFetch u f n else u
      | [] => u).entry e) := fun pf u hu => by
    split
    · split
      · exact startFetch_givenOut hu
      · exact hu
    · exact hu
  exact hone true _ (hone false _ hplaced)

end Sys2Proof.Machine
end


section
/-! Proofs: posting, staging, release, drop and writing of completions (O24). -/

namespace Sys2Proof.Machine

open Sys2Proof Sys2Proof.Bits

/-! ### The post of a lead (R61, R142 to R144) -/

theorem releaseBne_keeps (s : State) (c : Nat) (wipe : Bool) : (releaseBne s c wipe).cores = s.cores ∧ (releaseBne s c wipe).entries = s.entries := by
  unfold releaseBne
  dsimp only
  split <;> exact ⟨rfl, rfl⟩

theorem eraseBeSlots_keeps (s : State) (c : Nat) : (eraseBeSlots s c).cores = s.cores ∧ (eraseBeSlots s c).entries = s.entries :=
  List.foldlRecOn (motive := fun u : State => u.cores = s.cores ∧ u.entries = s.entries) _ _ ⟨rfl, rfl⟩ (fun _ hu _ _ => hu)

/-- The clearing of a group writes the entry of its request alone. -/
theorem clearGroup_entry (s : State) (e : Nat) (wipe : Bool) (k : Nat) :
    (clearGroup s e wipe).entry k = if k = e then { s.entry e with group := [] } else s.entry k := by
  have hfold : ((s.entry e).group.foldl (fun s c => (eraseBeSlots (releaseBne s c wipe) c).setCore c {}) s).entries = s.entries :=
    List.foldlRecOn (motive := fun u : State => u.entries = s.entries) _ _ rfl
      (fun u hu c _ => ((eraseBeSlots_keeps _ c).2.trans (releaseBne_keeps u c wipe).2).trans hu)
  have hentry : ∀ j, ((s.entry e).group.foldl (fun s c => (eraseBeSlots (releaseBne s c wipe) c).setCore c {}) s).entry j = s.entry j :=
    entry_of_entries hfold
  unfold clearGroup State.modEntry
  dsimp only
  rw [hentry]
  split
  · next h => rw [h, State.setEntry_self]
  · next h => rw [State.setEntry_ne _ _ _ _ h, hentry]

/-- The contexts of a group that is cleared are free. -/
theorem clearGroup_core {s : State} {e m : Nat} (wipe : Bool) (hm : m ∈ (s.entry e).group) : (clearGroup s e wipe).core m = {} := by
  have hfree : ∀ (u : State) (k : Nat), (k = m ∨ u.core m = {}) → ((eraseBeSlots (releaseBne u k wipe) k).setCore k {}).core m = {} := by
    intro u k h
    by_cases hk : m = k
    · rw [hk, State.setCore_self]
    · rw [State.setCore_ne _ _ _ _ hk]
      unfold State.core
      rw [(eraseBeSlots_keeps _ _).1, (releaseBne_keeps _ _ _).1]
      exact h.resolve_left (Ne.symm hk)
  have hall := foldl_reaches (f := fun s c => (eraseBeSlots (releaseBne s c wipe) c).setCore c {}) (P := fun _ => True)
    (Q := fun u => u.core m = {}) (e := m) (fun u _ => hfree u m (.inl rfl)) (fun _ _ _ _ => trivial) (fun u k hu => hfree u k (.inr hu)) hm
    (s := s) trivial
  exact hall

/-- The request of an entry whose completion its lead has posted with a status and a result word. -/
def postedWith (x : Entry) (st : Status) (r : BitVec 64) (keep : Bool) : Entry :=
  { x with
    status := st
    result := r
    outLen := if keep then x.outLen else 0
    out := if keep then x.out else []
    outOver := 0
    phase := .posted
    group := [] }

/-- The lead of a running group posts its completion. -/
structure Posting (s : State) (c : Fin 2048) : Prop where
  running : (s.core c).phase = .running
  member : (s.request c).group.contains c.val = true
  lead : (s.core c).member = 0

theorem reqComplete_posts {s : State} {c : Fin 2048} {v : Word} (h : Posting s c) {st : Status} {r : BitVec 64} {keep : Bool}
    (hstatus : postedStatus (s.request c) = (st, r)) (hkeep : (st == St.ok) = keep) : Runs (.reqComplete c v) s (fun t =>
      t.entry (s.core c).entry = postedWith (s.request c) st r keep ∧ ∀ m ∈ (s.request c).group, t.core m = {}) := by
  let x := s.request c
  let u := s.setEntry (s.core c).entry { x with
    status := st
    result := r
    outLen := if keep then x.outLen else 0
    out := if keep then x.out else []
    outOver := 0
    phase := .posted }
  have hpost : postCompletion s c = clearGroup u (s.core c).entry true := by
    unfold postCompletion
    change clearGroup (s.setEntry (s.core c).entry { x with
      status := (postedStatus x).1
      result := (postedStatus x).2
      outLen := if (postedStatus x).1 == St.ok then x.outLen else 0
      out := if (postedStatus x).1 == St.ok then x.out else []
      outOver := 0
      phase := .posted }) _ true = _
    rw [show postedStatus x = (st, r) from hstatus, hkeep]
  have hexec : exec (.reqComplete c v) s = done (postCompletion s c) := by
    have hstop : ¬ ((s.core c).phase ≠ .running ∨ (!(s.entry (s.core c).entry).group.contains c.val) = true) := by
      have hmember : (s.entry (s.core c).entry).group.contains c.val = true := h.member
      rw [h.running, hmember]
      decide
    exact (if_neg hstop).trans (if_neg (fun hne => hne h.lead))
  refine runs_of_exec hexec ⟨?_, fun m hm => ?_⟩
  · rw [State.drive_entry', hpost]
    rw [clearGroup_entry, if_pos rfl, State.setEntry_self]
    rfl
  · rw [State.drive_core', hpost]
    exact clearGroup_core true (by rw [State.setEntry_self]; exact hm)

/-! ### Staging (R123, R255, R263, R451) -/

theorem redeemTally_entry (s : State) (e : Nat) : ∃ y, (redeemTally s e).entry e = { s.entry e with tally := y } := by
  unfold redeemTally
  dsimp only
  split
  · exact ⟨_, rfl⟩
  · rw [((Tal.redeem_only _ _ _).traceOnly).entry, State.modEntry, State.setEntry_self]
    exact ⟨_, rfl⟩

/-- An entry that is staged keeps what its completion says. -/
theorem stageEntry_entry (s : State) (e : Nat) : ∃ y, (stageEntry s e).entry e =
    { s.entry e with state := .staged, phase := .done, group := [], tally := y } := by
  have hbae : ∀ u k, (releaseBae u k).entries = u.entries := fun u k => by
    unfold releaseBae
    split <;> rfl
  have hcleared : (releaseBae (clearGroup s e false) e).entry e = { s.entry e with group := [] } := by
    refine (entry_of_entries (hbae _ _) e).trans ?_
    exact (clearGroup_entry s e false e).trans (if_pos rfl)
  obtain ⟨y, hy⟩ := redeemTally_entry (releaseBae (clearGroup s e false) e) e
  unfold stageEntry
  dsimp only
  rw [(TraceOnly.after_event .refl).entry, State.modEntry, State.setEntry_self, hy, hcleared]
  exact ⟨y, rfl⟩

/-- What the link of its die passes of a request (R19). -/
def crosses (s : State) (x : Entry) : Prop := x.die = 0 ∨ linkWaits s x.die = false

section
variable {s : State} {e : Fin 69632} (hposted : (s.entry e).phase = .posted) (hreserved : (s.entry e).state = .reserved)

theorem exec_completionStaged_waits (hdie : (s.entry e).die ≠ 0) (hlink : linkWaits s (s.entry e).die = true) :
    exec (.completionStaged e) s = done s := by
  refine if_neg ?_
  rintro ⟨-, -, h⟩
  exact h.elim hdie (by simp [hlink])

include hposted hreserved

theorem exec_completionStaged_held (hcross : crosses s (s.entry e)) (hunread : stagedUnread s e ≠ []) :
    Runs (.completionStaged e) s (fun t => t.entries = s.entries) := by
  have hexec : exec (.completionStaged e) s =
      done (holdLines s (((stagePlace (s.entry e)).map (·.1)).getD (s.entry e).die) (stagedUnread s e) (.staging e)) := by
    refine (if_pos ⟨hposted, hreserved, hcross⟩).trans ?_
    cases hlines : stagedUnread s e with
    | nil => exact absurd hlines hunread
    | cons l ls => rfl
  exact runs_of_exec hexec rfl

variable (hcross : crosses s (s.entry e)) (hunread : stagedUnread s e = [])
include hcross hunread

theorem completionStaged_runs {u : State} {m : Map Byte} (htransfer : transferOutput s e = some u)
    (hentry : u.entry e = { s.entry e with out := m }) : Runs (.completionStaged e) s (fun t =>
      (t.entry e).state = .staged ∧ (t.entry e).phase = .done ∧ (t.entry e).status = (s.entry e).status ∧
      (t.entry e).out = m ∧ (t.entry e).outLen = (s.entry e).outLen ∧ (t.entry e).result = (s.entry e).result) := by
  have hexec : exec (.completionStaged e) s = done (stageEntry u e) := by
    refine (if_pos ⟨hposted, hreserved, hcross⟩).trans ?_
    rw [hunread, htransfer]
  obtain ⟨y, hy⟩ := stageEntry_entry u e
  refine runs_of_exec hexec ?_
  rw [State.drive_entry', hy, hentry]
  exact ⟨rfl, rfl, rfl, rfl, rfl, rfl⟩

theorem exec_completionStaged_lost (htransfer : transferOutput s e = none) :
    exec (.completionStaged e) s = done (endRequest s e St.faultAlarm) := by
  refine (if_pos ⟨hposted, hreserved, hcross⟩).trans ?_
  rw [hunread, htransfer]

end

section
variable {s : State} {e d base : Nat}

theorem transferOutput_inline (h : stagePlace (s.entry e) = none ∨ (s.entry e).outLen ≤ inlineRoom (s.entry e)) : transferOutput s e = some s := by
  unfold transferOutput
  dsimp only
  cases hplace : stagePlace (s.entry e) with
  | none => rfl
  | some p => exact if_pos (Nat.sub_eq_zero_of_le (h.resolve_left (by simp [hplace])))

variable (hplace : stagePlace (s.entry e) = some (d, base)) (hlong : inlineRoom (s.entry e) < (s.entry e).outLen)
include hplace hlong

theorem transferOutput_lost (h : Hbm.poisoned (s.stack d) base ((s.entry e).outLen - inlineRoom (s.entry e)) = true ∨
    (s.entry e).func = 0 ∧ (s.stack d).inService = false) : transferOutput s e = none := by
  unfold transferOutput
  dsimp only
  rw [hplace]
  exact (if_neg (by omega)).trans (if_pos (by simpa using h))

/-- The output beyond the inline room comes from the staging area. -/
theorem transferOutput_reads (hgood : Hbm.poisoned (s.stack d) base ((s.entry e).outLen - inlineRoom (s.entry e)) = false)
    (hserves : (s.entry e).func = 0 → (s.stack d).inService = true) (hregion : base / 64 < 0xDC00000) :
    ∃ u m, transferOutput s e = some u ∧ u.entry e = { s.entry e with out := m } ∧ ∀ k, Map.get 0 m k =
      if inlineRoom (s.entry e) ≤ k ∧ k < (s.entry e).outLen then Hbm.byte (s.stack d) (base + (k - inlineRoom (s.entry e)))
      else Map.get 0 (s.entry e).out k := by
  let n := (s.entry e).outLen - inlineRoom (s.entry e)
  let bs := Hbm.read (s.stack d) base n
  have hread : hbmRead s d base n = (bs, readLines s d base n) := by
    unfold hbmRead
    dsimp only
    rw [if_neg (by simp [inTagRegion]; omega)]
  have hlines : TraceOnly s (readLines s d base n) := TraceOnly.after_hbmRead (d := d) (off := base) (n := n) .refl
  have hlen : bs.length = n := by simp [bs, Hbm.read]
  let placed (x : Entry) : Map Byte :=
    ((List.range n).zip bs).foldl (fun (m : Map Byte) (q : Nat × Byte) => Map.set 0 m (inlineRoom x + q.1) q.2) x.out
  refine ⟨(readLines s d base n).modEntry e (fun x => { x with out := placed x }),
    overlaid (fun _ => True) (s.entry e).out (inlineRoom (s.entry e)) bs, ?transfer, ?entry, fun k => ?_⟩
  case transfer =>
    unfold transferOutput
    dsimp only
    rw [hplace]
    refine (if_neg (by omega)).trans ((if_neg ?_).trans ?_)
    · simpa [hgood] using hserves
    · exact congrArg (fun p : Bytes × State => some (p.2.modEntry e (fun x => { x with
        out := ((List.range n).zip p.1).foldl (fun (m : Map Byte) (q : Nat × Byte) => Map.set 0 m (inlineRoom x + q.1) q.2) x.out }))) hread
  case entry =>
    rw [State.modEntry, State.setEntry_self, hlines.entry]
    have hplaced : placed (s.entry e) = overlaid (fun _ => True) (s.entry e).out (inlineRoom (s.entry e)) bs := by
      unfold overlaid
      simp only [if_true, hlen, placed]
    rw [hplaced]
  rw [overlaid_get, hlen]
  have hin : inlineRoom (s.entry e) + n = (s.entry e).outLen := by omega
  by_cases hk : inlineRoom (s.entry e) ≤ k ∧ k < (s.entry e).outLen
  · rw [if_pos hk, if_pos ⟨⟨hk.1, by omega⟩, trivial⟩]
    simp only [bs, Hbm.read]
    rw [List.getD_eq_getElem _ _ (by simp; omega)]
    simp
  · rw [if_neg hk, if_neg (fun h => hk ⟨h.1.1, by omega⟩)]

end

/-! ### Freed entries -/

theorem flushCqs_entries (s : State) (f : Nat) : (flushCqs s f).entries = s.entries :=
  List.foldlRecOn (motive := fun u : State => u.entries = s.entries) _ _ rfl (fun u hu n _ => by
    have hraise : (raiseCq u f n).entries = u.entries := (raiseVec_only (u.setCq f n _) _ _).traceOnly.entries
    split
    · exact hraise.trans hu
    · exact hu)

theorem movePart_entries (s : State) (p : Nat) (new : PartState) : (movePart s p new).entries = s.entries := by
  have hposted : ∀ x, (Tal.post (s.setPart p { s.part p with state := new }) x).entries = s.entries := fun x =>
    (Tal.post_only _ _).traceOnly.entries
  unfold movePart
  dsimp only
  split
  · exact (raiseVec_only _ _ _).traceOnly.entries.trans (hposted _)
  · exact hposted _

theorem freeEntry_givenOut (s : State) (e : Nat) : GivenOut ((freeEntry s e).entry e) := by
  have hfree : (s.setEntry e {}).entry e = {} := State.setEntry_self _ _ _
  have hfrozen : ∀ p, (maybeFreeze (flushCqs (s.setEntry e {}) (s.entry e).func) p).entries = (s.setEntry e {}).entries := fun p => by
    unfold maybeFreeze
    split
    · rw [movePart_entries, flushCqs_entries]
    · exact flushCqs_entries _ _
  unfold freeEntry
  refine grantFreed_givenOut (.inl ?_)
  split
  · rw [entry_of_entries (hfrozen _), hfree]
  · rw [hfree]

/-! ### Drops (R31, R52) -/

theorem countDrop_eq (s : State) (n : Nat) : ∃ v, TallyOnly s v ∧
    countDrop s n = { v with hif := { v.hif with genDrops := (s.hif.genDrops + 1) % 2 ^ 32 } } := by
  unfold countDrop
  extract_lets a c counted v
  have hcounted : TallyOnly s counted := .ite (setRegBits_only _ _ _ _ _) (.refl _)
  have hv : TallyOnly s v := .ite (hcounted.trans ((setRegBits_only _ _ _ _ _).trans (setInt_only _ _ _))) hcounted
  refine ⟨v, hv, ?_⟩
  have hdrops : v.hif.genDrops = s.hif.genDrops := by rw [hv]
  rw [hdrops]

/-- A drop counts, and keeps the host's view otherwise. -/
theorem dropEntry_keeps (s : State) (e : Nat) : ∃ v, KeepsHost s v ∧
    KeepsHost { v with hif := { v.hif with genDrops := (s.hif.genDrops + 1) % 2 ^ 32 } } (dropEntry s e) := by
  obtain ⟨v, hv, hcount⟩ := countDrop_eq (Trace.event s e Trace.kDrop 0 (s.entry e).status.toNat) (s.entry e).func
  have hevent : KeepsHost s (Trace.event s e Trace.kDrop 0 (s.entry e).status.toNat) := .after_event .refl
  refine ⟨v, .after_tallyOnly hevent hv, ?_⟩
  unfold dropEntry
  dsimp only
  rw [hcount, hevent.genDrops]
  exact .after_freeEntry (.after_leaveChain (.after_returnRecords .refl))

/-! ### Release (R52, R53, R122, R123) -/

section
variable {s : State} {e : Fin 69632} (hstaged : (s.entry e).state = .staged) (hfirst : (s.entry e).pred = none)
include hstaged hfirst

/-- A staged head of its chain that no increment holds up. -/
theorem exec_releaseToWriting (hheld : (s.entry e).func ≠ 0 ∧ (s.part ((s.entry e).func - 1)).incPending ≠ 0 →
      (s.entry e).gen = nextGen (s.part ((s.entry e).func - 1)).gen) :
    exec (.releaseToWriting e) s =
      if (s.entry e).func ≠ 0 ∧ (s.entry e).gen ≠ (s.part ((s.entry e).func - 1)).gen then done (dropEntry s e)
      else if (s.cq (s.entry e).func (s.entry e).cq).error ∨ !(s.cq (s.entry e).func (s.entry e).cq).enable then done s
      else done (enterWriting s e) :=
  (if_neg (by simp [hstaged, hfirst])).trans (if_neg (fun h => h.2.2 (hheld ⟨h.1, h.2.1⟩)))

theorem exec_releaseToWriting_held (hheld : (s.entry e).func ≠ 0 ∧ (s.part ((s.entry e).func - 1)).incPending ≠ 0)
    (hgen : (s.entry e).gen ≠ nextGen (s.part ((s.entry e).func - 1)).gen) : exec (.releaseToWriting e) s = done s :=
  (if_neg (by simp [hstaged, hfirst])).trans (if_pos ⟨hheld.1, hheld.2, hgen⟩)

end

/-- The successor of an entry that leaves its chain has no entry before it. -/
theorem leaveChain_entry (s : State) (e : Nat) (notice : Bool) (k : Nat) : ∃ b, (leaveChain s e notice).entry k =
    if (s.entry k).pred = some e then { s.entry k with pred := none, notice := b } else s.entry k := by
  let told (y : Entry) : Bool := notice && (s.entry e).die != 0 && y.die != 0 && (s.entry e).die != y.die
  have hleft : (leaveChain s e notice).entries = Map.mapVals {} (fun _ y =>
      if y.pred = some e then { y with pred := none, notice := y.notice || told y } else y) s.entries := by
    unfold leaveChain
    dsimp only
    split <;> rfl
  refine ⟨(s.entry k).notice || told (s.entry k), ?_⟩
  refine (congrArg (fun m => Map.get ({} : Entry) m k) hleft).trans ?_
  exact get_mapVals (d := ({} : Entry)) (f := fun _ y => if y.pred = some e then { y with pred := none, notice := y.notice || told y } else y)
    (fun _ => if_neg nofun) s.entries k

theorem enterWriting_writes {s : State} {e : Nat} (hfirst : (s.entry e).pred = none)
    (hkept : (s.entry e).status = St.ok ∨ (s.entry e).recResv = none) :
    (enterWriting s e).entry e = { s.entry e with
      state := .writing
      passed := true
      comp := completionBytes s (s.entry e)
      writeSeq := s.sched.writeSeq } ∧ (enterWriting s e).hostMem = s.hostMem ∧
    ∀ k, k ≠ e → ((enterWriting s e).entry k).pred = if (s.entry k).pred = some e then none else (s.entry k).pred := by
  have hreturned : (if (s.entry e).status = St.ok then s else returnRecords s e) = s := by
    split
    · rfl
    · next hbad =>
      unfold returnRecords
      dsimp only
      rw [hkept.resolve_left hbad]
  unfold enterWriting
  rw [hreturned]
  extract_lets kept x filled order counted
  have hcounted : ∀ k, counted.entry k = filled.entry k := fun _ => rfl
  have hself : filled.entry e = _ := State.setEntry_self _ _ _
  refine ⟨?_, ?_, fun k hk => ?_⟩
  · obtain ⟨b, hb⟩ := leaveChain_entry counted e true e
    rw [(TraceOnly.after_event .refl).entry, hb, hcounted, hself]
    have hkeptFirst : (kept.entry e).pred ≠ some e := by simp [kept, hfirst]
    exact if_neg hkeptFirst
  · have hleft : KeepsHost filled (leaveChain counted e true) := .after_leaveChain (.after_eq .refl)
    exact (TraceOnly.after_event .refl).hostMem.trans hleft.hostMem
  · obtain ⟨b, hb⟩ := leaveChain_entry counted e true k
    rw [(TraceOnly.after_event .refl).entry, hb, hcounted, State.setEntry_ne _ _ _ _ hk]
    split <;> rfl

/-! ### The completion TLP (R10, R22, R38, R41, R42, R45) -/

/-- A CQ after a completion has been written to it. -/
def CqRing.advanced (q : CqRing) : CqRing :=
  { q with
    tail := if q.tail + 1 = 2 ^ q.log2 then 0 else q.tail + 1
    phase := if q.tail + 1 = 2 ^ q.log2 then !q.phase else q.phase }

/-- Host memory after the completion TLP of entry e. -/
def memAfterTlp (s : State) (e : Nat) (dma : Dma) : List Host.Cell :=
  let x := s.entry e
  let q := s.cq x.func x.cq
  let at_ := q.base.toNat + 32 * q.tail
  let last (c : Bytes) : Bytes := withPhase c q.phase (s.dev.causes != 0)
  if hostGate s true then
    if dma = .ok then hostWriteMem (hostWriteMem s.hostMem x.desc.outAddr.toNat (outBytes x)) at_ (last x.comp)
    else if 0 < x.outLen then hostWriteMem s.hostMem at_ (last (badPointerComp x.comp))
    else s.hostMem
  else s.hostMem

theorem exec_completionTlpIssued {s : State} {e : Fin 69632} {dma : Dma} (hwriting : (s.entry e).state = .writing)
    (hold : oldestWriting s (s.entry e).func (s.entry e).cq = some e.val) (herr : (s.cq (s.entry e).func (s.entry e).cq).error = false) :
    ∃ v u : State, v.hostMem = memAfterTlp s e dma ∧
      KeepsHost (v.setCq (s.entry e).func (s.entry e).cq (s.cq (s.entry e).func (s.entry e).cq).advanced) u ∧
      exec (.completionTlpIssued e dma) s = done (freeEntry u e) := by
  let x := s.entry e
  let q := s.cq x.func x.cq
  let failed := dma != .ok || !hostGate s true
  let returned := if failed then returnRecords s e else s
  let asked := if hostGate s true then returned else hostDenied returned true
  let withOut := if failed || !decide (0 < x.outLen) then asked else asked.hostWrite x.desc.outAddr.toNat (outBytes x)
  let comp := if failed && decide (0 < x.outLen) then badPointerComp x.comp else x.comp
  let written := if !hostGate s true || (failed && !decide (0 < x.outLen)) then withOut
    else withOut.hostWrite (q.base.toNat + 32 * q.tail) (withPhase comp q.phase (withOut.dev.causes != 0))
  have hreturned : KeepsHost s returned := .ite (.after_returnRecords .refl) .refl
  have hasked : KeepsHost s asked := .ite hreturned (.after_recordDenial hreturned)
  have hcauses : withOut.dev.causes = s.dev.causes := by
    refine Eq.trans ?_ hasked.causes
    unfold withOut
    split <;> rfl
  have hmem : written.hostMem = memAfterTlp s e dma := by
    have hkept : asked.hostMem = s.hostMem := hasked.hostMem
    have hwithOut : withOut.hostMem =
        if failed || !decide (0 < x.outLen) then s.hostMem else hostWriteMem s.hostMem x.desc.outAddr.toNat (outBytes x) := by
      unfold withOut
      split
      · exact hkept
      · exact congrArg (fun m => hostWriteMem m x.desc.outAddr.toNat (outBytes x)) hkept
    have hwritten : written.hostMem = if !hostGate s true || (failed && !decide (0 < x.outLen)) then withOut.hostMem
        else hostWriteMem withOut.hostMem (q.base.toNat + 32 * q.tail) (withPhase comp q.phase (withOut.dev.causes != 0)) := by
      unfold written
      split <;> rfl
    have hnone : x.outLen = 0 → outBytes x = [] := fun h => by simp [outBytes, h]
    rw [hwritten, hwithOut, hcauses]
    unfold memAfterTlp
    by_cases hgate : hostGate s true = true
    · rw [if_pos hgate]
      by_cases hdma : dma = .ok
      · have hfailed : failed = false := by simp [failed, hdma, hgate]
        rw [if_pos hdma]
        by_cases hout : 0 < x.outLen
        · simp [comp, hfailed, hgate, hout, x, q]
        · simp [comp, hfailed, hgate, hnone (Nat.eq_zero_of_not_pos hout), hostWriteMem, x, q]
      · have hfailed : failed = true := by simp [failed, hdma]
        rw [if_neg hdma]
        by_cases hout : 0 < x.outLen
        · simp [comp, hfailed, hgate, hout, x, q]
        · simp [hfailed, hgate, hout, x]
    · rw [if_neg hgate]
      have hfailed : failed = true := by simp [failed, hgate]
      simp [hfailed, hgate]
  let advanced := written.setCq x.func x.cq q.advanced
  let counted := countCompletion advanced x.func x.cq
  have hcounted : KeepsHost advanced counted := .after_countCompletion .refl
  refine ⟨written, if x.accepted then histAdd counted x else counted, hmem, .ite (.after_histAdd hcounted) hcounted, ?_⟩
  have hgo : ¬ ((s.entry e).state ≠ .writing ∨ oldestWriting s (s.entry e).func (s.entry e).cq ≠ some e.val ∨
      (s.cq (s.entry e).func (s.entry e).cq).error = true) := by simp [hwriting, hold, herr]
  refine (if_neg hgo).trans ?_
  have hadvanced : q.advanced = { q with
      tail := if (q.tail + 1 == q.size) = true then 0 else q.tail + 1
      phase := if (q.tail + 1 == q.size) = true then !q.phase else q.phase } := by
    unfold CqRing.advanced CqRing.size
    simp only [beq_iff_eq]
  exact congrArg (fun r : CqRing =>
    let counted := countCompletion (written.setCq x.func x.cq r) x.func x.cq
    done (freeEntry (if x.accepted then histAdd counted x else counted) e)) hadvanced.symm

theorem isKey_iff (st : Status) : St.isKey st = true ↔ st.toNat / 2 ^ 8 = 2 := beq_iff_eq

theorem statusWord_eq (st : Status) (c : Nat) (w : BitVec 64) : statusWord st (c == 6) w =
    if st.toNat / 2 ^ 8 = 2 then w &&& 3
    else if st = St.badLength then w &&& 0xFFFFFFFF
    else if c = 6 ∧ st ∈ [St.tagFail, St.aborted, St.watchdog, St.faultAlarm] then w
    else 0 := by
  unfold statusWord
  simp only [isKey_iff, beq_iff_eq, List.mem_cons, List.not_mem_nil, or_false]

section
variable {s : State} {e : Fin 69632} (hstaged : (s.entry e).state = .staged) (hfirst : (s.entry e).pred = none)
include hstaged hfirst

theorem releaseToWriting_drops (hheld : (s.entry e).func ≠ 0 ∧ (s.part ((s.entry e).func - 1)).incPending ≠ 0 →
      (s.entry e).gen = nextGen (s.part ((s.entry e).func - 1)).gen)
    (hstale : (s.entry e).func ≠ 0 ∧ (s.entry e).gen ≠ (s.part ((s.entry e).func - 1)).gen) : Runs (.releaseToWriting e) s (fun t =>
      t.hostMem = s.hostMem ∧ t.hif.genDrops = (s.hif.genDrops + 1) % 2 ^ 32 ∧ GivenOut (t.entry e)) := by
  have hexec : exec (.releaseToWriting e) s = done (dropEntry s e) := (exec_releaseToWriting hstaged hfirst hheld).trans (if_pos hstale)
  obtain ⟨v, hv, hdropped⟩ := dropEntry_keeps s e
  have hgone : GivenOut ((dropEntry s e).entry e) := by
    unfold dropEntry
    exact freeEntry_givenOut _ _
  refine runs_of_exec hexec ?_
  rw [State.drive_hostMem, State.drive_hif, State.drive_entry']
  exact ⟨hdropped.hostMem.trans hv.hostMem, hdropped.genDrops, hgone⟩

theorem releaseToWriting_writes (hheld : ¬ ((s.entry e).func ≠ 0 ∧ (s.part ((s.entry e).func - 1)).incPending ≠ 0))
    (hstale : ¬ ((s.entry e).func ≠ 0 ∧ (s.entry e).gen ≠ (s.part ((s.entry e).func - 1)).gen))
    (herr : (s.cq (s.entry e).func (s.entry e).cq).error = false) (hen : (s.cq (s.entry e).func (s.entry e).cq).enable = true)
    (hkept : (s.entry e).status = St.ok ∨ (s.entry e).recResv = none) : Runs (.releaseToWriting e) s (fun t =>
      (t.entry e).state = .writing ∧ (t.entry e).passed = true ∧ (t.entry e).comp = completionBytes s (s.entry e) ∧
      (t.entry e).writeSeq = s.sched.writeSeq ∧ t.hostMem = s.hostMem ∧
      ∀ k, k ≠ e.val → (t.entry k).pred = if (s.entry k).pred = some e.val then none else (s.entry k).pred) := by
  have hserves : ¬ ((s.cq (s.entry e).func (s.entry e).cq).error = true ∨ (!(s.cq (s.entry e).func (s.entry e).cq).enable) = true) := by
    rw [herr, hen]
    decide
  have hexec : exec (.releaseToWriting e) s = done (enterWriting s e) :=
    (exec_releaseToWriting hstaged hfirst (fun h => absurd h hheld)).trans ((if_neg hstale).trans (if_neg hserves))
  obtain ⟨hentry, hmem, hchain⟩ := enterWriting_writes hfirst hkept
  refine runs_of_exec hexec ⟨?_, ?_, ?_, ?_, hmem, hchain⟩ <;> rw [State.drive_entry', hentry]

end

theorem completionTlp_runs {s : State} {e : Fin 69632} {dma : Dma} (hwriting : (s.entry e).state = .writing)
    (hold : oldestWriting s (s.entry e).func (s.entry e).cq = some e.val) (herr : (s.cq (s.entry e).func (s.entry e).cq).error = false) :
    Runs (.completionTlpIssued e dma) s (fun t =>
      (t.cq (s.entry e).func (s.entry e).cq).tail = (s.cq (s.entry e).func (s.entry e).cq).advanced.tail ∧
      (t.cq (s.entry e).func (s.entry e).cq).phase = (s.cq (s.entry e).func (s.entry e).cq).advanced.phase ∧ GivenOut (t.entry e) ∧
      t.hostMem = memAfterTlp s e dma) := by
  obtain ⟨v, u, hmem, hkeeps, hexec⟩ := exec_completionTlpIssued (dma := dma) hwriting hold herr
  have hfreed := hkeeps.after_freeEntry (e := e)
  obtain ⟨htail, hphase⟩ := hfreed.place (s.entry e).func (s.entry e).cq
  refine runs_of_exec hexec ?_
  rw [State.drive_cq', State.drive_entry', State.drive_hostMem, htail, hphase, hfreed.hostMem, State.setCq_self]
  exact ⟨rfl, rfl, freeEntry_givenOut _ _, hmem⟩

/-- Settles O24: each post, staging, release and write by the equation of its branch; what the freeing of entries and the deletion of records keep of
host memory and of the CQs is `KeepsHost`. -/
theorem completionsPostedAndWritten : Obligations.CompletionsPostedAndWritten := by
  unfold Obligations.CompletionsPostedAndWritten
  refine ⟨fun s => ⟨fun c v hrun hmember hlead => ?post, fun c v hrun hmember hhelper => ?helper, fun e hposted hreserved => ?staged,
    fun e hstaged hfirst => ?release⟩, fun s => ⟨fun e dma => ?write, fun f n hon hint hcount htimer => ?timer⟩⟩
  case post =>
    intro x post served
    have hposting : Posting s c := ⟨hrun, hmember, hlead⟩
    have hposts : ∀ {st r keep}, postedStatus x = (st, r) → (st == St.ok) = keep → post st r keep := reqComplete_posts hposting
    have hserved : ¬ ((x.polNeed = true) ∧ ¬ (x.polPhase = .answered ∧ x.polResult = St.ok)) ↔ served := by simp [served]
    refine ⟨fun hbad hunlisted => ?_, fun hexh hpol => ?_, fun hbad hlisted hpol => ?_, fun hok hnot => ?_, fun hok hs hover => ?_,
      fun hok hs hover hcap => ?_⟩
    · exact hposts ((if_pos hbad).trans (if_pos (by simpa using hunlisted))) rfl
    · have hbad : x.status ≠ St.ok := by rw [hexh]; decide
      refine hposts ((if_pos hbad).trans ((if_neg ?_).trans (if_pos ⟨hexh, hpol⟩))) (beq_eq_false_iff_ne.mpr hbad)
      rw [hexh]
      decide
    · refine hposts ((if_pos hbad).trans ((if_neg (by simpa using hlisted)).trans ((if_neg (fun h => hpol h.1 h.2)).trans ?_)))
        (beq_eq_false_iff_ne.mpr hbad)
      rw [statusWord_eq]
    · exact hposts ((if_neg (by simp [hok])).trans (if_pos (Decidable.not_not.mp (fun h => hnot (hserved.mp h))))) (by decide)
    · refine hposts ((if_neg (by simp [hok])).trans ((if_neg (hserved.mpr hs)).trans ?_)) rfl
      split
      · rfl
      · next h => exact if_pos (hover.resolve_left h)
    · exact hposts ((if_neg (by simp [hok])).trans ((if_neg (hserved.mpr hs)).trans ((if_neg (by simp [hover])).trans (if_neg (by omega))))) rfl
  case helper =>
    have hgo : ¬ ((s.core c).phase ≠ .running ∨ (!(s.entry (s.core c).entry).group.contains c.val) = true) := by
      have hin : (s.entry (s.core c).entry).group.contains c.val = true := hmember
      rw [hrun, hin]
      decide
    exact (if_neg hgo).trans (if_pos hhelper)
  case staged =>
    intro x crosses' staged
    refine ⟨exec_completionStaged_waits, exec_completionStaged_held hposted hreserved, fun hcross hread hplace =>
      completionStaged_runs hposted hreserved hcross hread (transferOutput_inline hplace) rfl, fun d hcross hread hdie hvf hslot hlong => ?_,
      fun a hcross hread hpf harea hin hlong => ?_⟩
    · intro base
      have hplace : stagePlace x = some (d.val + 1, base) := stagePlace_vf hdie hvf
      have hroom : inlineRoom x = 96 := inlineRoom_vf hvf
      refine ⟨fun hgood => ?_, fun hpois => ?_⟩
      · obtain ⟨u, m, htransfer, hentry, hbytes⟩ := transferOutput_reads hplace (by rw [hroom]; exact hlong) (by rw [hroom]; exact hgood)
          (fun h => absurd h hvf) (by simp only [base]; omega)
        rw [hroom] at hbytes
        exact ⟨m, completionStaged_runs hposted hreserved hcross hread htransfer hentry, hbytes⟩
      · exact exec_completionStaged_lost hposted hreserved hcross hread
          (transferOutput_lost hplace (by rw [hroom]; exact hlong) (.inl (by rw [hroom]; exact hpois)))
    · intro h base
      have hplace : stagePlace x = some (a / 1024 + 1, base) := by
        unfold stagePlace
        rw [if_neg (by simp [hpf]), harea]
        rfl
      have hroom : inlineRoom x = 0 := if_pos hpf
      refine ⟨fun hgood hserves => ?_, fun hpois => ?_⟩
      · obtain ⟨u, m, htransfer, hentry, hbytes⟩ := transferOutput_reads hplace (by rw [hroom]; exact hlong) (by rw [hroom]; exact hgood)
          (fun _ => hserves) (by simp only [base]; omega)
        rw [hroom] at hbytes
        refine ⟨m, completionStaged_runs hposted hreserved hcross hread htransfer hentry, fun k => ?_⟩
        rw [hbytes]
        simp [h, x]
      · exact exec_completionStaged_lost hposted hreserved hcross hread
          (transferOutput_lost hplace (by rw [hroom]; exact hlong) (hpois.imp (by rw [hroom]; exact id) (fun hs => ⟨hpf, hs⟩)))
  case release =>
    intro x cur held carries stale
    refine ⟨fun hheld hnot => exec_releaseToWriting_held hstaged hfirst hheld hnot, fun hcarries hstale => ?_, fun hheld hstale hcq => ?_,
      fun hheld hstale herr hen hkept => ?_⟩
    · exact releaseToWriting_drops hstaged hfirst hcarries hstale
    · exact (exec_releaseToWriting hstaged hfirst (fun h => absurd h hheld)).trans ((if_neg hstale).trans (if_pos (by simpa using hcq)))
    · exact releaseToWriting_writes hstaged hfirst hheld hstale herr hen hkept
  case write =>
    intro x q at_ out last hwriting
    refine ⟨fun herr => if_pos (.inr (.inr herr)), fun hold herr => ?_⟩
    obtain ⟨t, hexec, htail, hphase, hgiven, hmem⟩ := completionTlp_runs (dma := dma) hwriting hold herr
    refine ⟨t, hexec, htail, hphase, hgiven, fun hgate => ?_, fun hgate => ⟨fun hdma => ?_, fun hdma hout => ?_, fun hdma hout => ?_⟩⟩
    · exact hmem.trans (if_neg (by simp [hgate]))
    · exact hmem.trans ((if_pos hgate).trans (if_pos hdma))
    · exact hmem.trans ((if_pos hgate).trans ((if_neg hdma).trans (if_pos hout)))
    · exact hmem.trans ((if_pos hgate).trans ((if_neg hdma).trans (if_neg (Nat.not_lt.mpr (Nat.le_of_eq hout)))))
  case timer =>
    exact if_pos (by simp [hon, hint, hcount, htimer])

end Sys2Proof.Machine
end


section
/-! Proofs: what a request that ends leaves of its entry, of host memory and of the partitions. -/

namespace Sys2Proof.Machine

open Sys2Proof Sys2Proof.Bits

namespace KeepsHost

variable {s t : State} {e : Nat}

theorem after_clearGroup (h : KeepsHost s t) {wipe : Bool} : KeepsHost s (clearGroup t e wipe) := by
  have hbne : ∀ u c, KeepsHost s u → KeepsHost s (releaseBne u c wipe) := fun u c hu => by
    unfold releaseBne
    dsimp only
    split <;> exact .after_eq hu
  have hslots : ∀ u c, KeepsHost s u → KeepsHost s (eraseBeSlots u c) := fun u c hu => .after_foldl (fun _ _ hv => .after_eq hv) _ hu
  exact .after_setEntry (.after_foldl (fun u c hu => .after_eq (hslots _ c (hbne u c hu))) _ h)

theorem after_releaseBae (h : KeepsHost s t) : KeepsHost s (releaseBae t e) := by
  unfold releaseBae
  split
  · exact h
  · exact .after_eq h

theorem after_redeemTally (h : KeepsHost s t) : KeepsHost s (redeemTally t e) := by
  unfold redeemTally
  exact .ite h (.after_tallyOnly (.after_setEntry h) (Tal.redeem_only _ _ _))

theorem after_stageEntry (h : KeepsHost s t) : KeepsHost s (stageEntry t e) :=
  .after_event (.after_setEntry (.after_redeemTally (.after_releaseBae (.after_clearGroup h))))

theorem after_settleDeficit (h : KeepsHost s t) {d : Nat} {c : Cls} {p : Nat} : KeepsHost s (settleDeficit t d c p) :=
  .ite h (.ite (.after_eq h) h)

theorem after_leaveReady (h : KeepsHost s t) {ph : ReqPhase} : KeepsHost s (leaveReady t e ph) :=
  .ite (.after_settleDeficit (.after_setEntry h)) (.after_setEntry h)

theorem after_sealCut (h : KeepsHost s t) {st : Status} : KeepsHost s (sealCut t e st) :=
  .ite h (.ite (.after_uwcInvalidateIf (.after_setPart (.after_eq h))) (.after_eq h))

end KeepsHost

/-! ### The entry of a request that ends -/

theorem settleDeficit_entries (s : State) (d : Nat) (c : Cls) (p : Nat) : (settleDeficit s d c p).entries = s.entries := by
  unfold settleDeficit
  split
  · rfl
  · split <;> rfl

theorem leaveReady_entry (s : State) (e : Nat) (ph : ReqPhase) (k : Nat) :
    (leaveReady s e ph).entry k = if k = e then { s.entry e with phase := ph } else s.entry k := by
  have hset : (leaveReady s e ph).entries = (s.setEntry e { s.entry e with phase := ph }).entries := by
    unfold leaveReady
    dsimp only
    split
    · exact settleDeficit_entries _ _ _ _
    · rfl
  rw [entry_of_entries hset]
  split
  · next h => rw [h, State.setEntry_self]
  · next h => rw [State.setEntry_ne _ _ _ _ h]

/-- A request that ends from outside is staged with its status and without output; its result word is the one it is ended with, but for a class 0x6
request. -/
theorem endRequestWith_entry {s : State} {e : Nat} {st : Status} {r : BitVec 64} (h : Underway (s.entry e)) :
    ((endRequestWith s e st r).entry e).state = .staged ∧ ((endRequestWith s e st r).entry e).status = st ∧
    ((endRequestWith s e st r).entry e).outLen = 0 ∧ ((endRequestWith s e st r).entry e).out = [] ∧
    (fnClass (s.entry e).desc.fn.toNat ≠ 6 → ((endRequestWith s e st r).entry e).result = r) := by
  let cut := sealCut s e st
  let ended := (bulkEnd cut e).2.2
  let bulk := fnClass (s.entry e).desc.fn.toNat == 6
  let written (y : Entry) : Entry := { y with
    status := st
    outLen := 0
    result := if bulk then (bulkEnd cut e).1 else r
    untrusted := bulk && (bulkEnd cut e).2.1
    out := []
    outOver := 0 }
  have heq : endRequestWith s e st r = stageEntry ((leaveReady ended e .posted).modEntry e written) e := if_pos h
  obtain ⟨y, hy⟩ := stageEntry_entry ((leaveReady ended e .posted).modEntry e written) e
  rw [heq, hy, State.modEntry, State.setEntry_self]
  exact ⟨rfl, rfl, rfl, rfl, fun hclass => if_neg (by simpa [bulk] using hclass)⟩

/-- Without a bulk engine a request ends with no write to host memory. -/
theorem endRequestWith_keepsHost {s : State} {e : Nat} {st : Status} {r : BitVec 64} (h : baeOf s e = none) :
    KeepsHost s (endRequestWith s e st r) := by
  have hcut : ∀ b, (sealCut s e st).bae b = s.bae b := fun b => by
    have hite : ∀ {c : Prop} [Decidable c] {u v : State}, u.baes = s.baes → v.baes = s.baes → (if c then u else v).baes = s.baes :=
      fun hu hv => by split <;> assumption
    have hbaes : (sealCut s e st).baes = s.baes := hite rfl (hite rfl rfl)
    unfold State.bae
    rw [hbaes]
  have hbae : baeOf (sealCut s e st) e = none := by
    unfold baeOf at h ⊢
    simp only [hcut]
    exact h
  have hended : bulkEnd (sealCut s e st) e = (0, false, sealCut s e st) := by
    unfold bulkEnd
    rw [hbae]
  unfold endRequestWith
  dsimp only
  rw [hended]
  exact .ite (.after_stageEntry (.after_setEntry (.after_leaveReady (.after_sealCut .refl)))) .refl

/-! ### The partitions while requests end -/

/-- From s to t every partition stays, but that a hamper seal cut short counts (R284). -/
def PartsKept (s t : State) : Prop := ∀ p, ∃ b n, t.part p = { s.part p with emigrated := b, hseq := n }

namespace PartsKept

variable {s t u : State} {e : Nat}

theorem refl : PartsKept s s := fun _ => ⟨_, _, rfl⟩

theorem trans (h : PartsKept s t) (k : PartsKept t u) : PartsKept s u := fun p => by
  obtain ⟨_, _, ht⟩ := h p
  obtain ⟨b, n, hu⟩ := k p
  exact ⟨b, n, by rw [hu, ht]⟩

theorem ite {c : Prop} [Decidable c] (h : PartsKept s t) (k : PartsKept s u) : PartsKept s (if c then t else u) := by
  split <;> assumption

theorem after_foldl {α : Type} {f : State → α → State} (hf : ∀ u a, PartsKept s u → PartsKept s (f u a)) (l : List α)
    (h : PartsKept s t) : PartsKept s (l.foldl f t) :=
  List.foldlRecOn l f h (fun u hu a _ => hf u a hu)

theorem after_eq (h : PartsKept s t) (hparts : u.parts = t.parts := by rfl) : PartsKept s u :=
  h.trans (fun p => ⟨_, _, by unfold State.part; rw [hparts]⟩)

theorem after_traceOnly (h : PartsKept s t) (k : TraceOnly t u) : PartsKept s u := .after_eq h (by rw [k])

theorem after_setEntry (h : PartsKept s t) {k : Nat} {x : Entry} : PartsKept s (t.setEntry k x) := .after_eq h

theorem after_draw (h : PartsKept s t) {w : Nat} : PartsKept s (t.draw w).2 := .after_eq h

theorem after_bulkRead (h : PartsKept s t) {b n : Nat} {m : BulkMsg} : PartsKept s (bulkRead t b m n).2.2 := by
  unfold bulkRead
  exact .after_traceOnly h (.after_perfCount .refl)

theorem after_bulkWrite (h : PartsKept s t) {b : Nat} {m : BulkMsg} {bs : Bytes} : PartsKept s (bulkWrite t b m bs).1 := by
  unfold bulkWrite
  exact .after_traceOnly (.after_eq h) (.after_perfCount .refl)

theorem after_bulkEnd (h : PartsKept s t) : PartsKept s (bulkEnd t e).2.2 := by
  have hadvance : ∀ b m, PartsKept s (bulkAdvance t b m).1 := fun b m => by
    unfold bulkAdvance
    split
    · exact h
    · dsimp only
      split
      · exact .after_draw (w := 64) h
      · exact .after_bulkWrite (.after_bulkRead (.after_draw h))
  unfold bulkEnd
  split
  · exact h
  · split
    · exact h
    · dsimp only
      split
      · exact hadvance _ _
      · exact h

theorem after_sealCut (h : PartsKept s t) {st : Status} : PartsKept s (sealCut t e st) := by
  have hseal : ∀ p x b n, x = t.part p → PartsKept s (t.setPart p { x with emigrated := b, hseq := n }) := fun p x b n hx => by
    refine h.trans (fun q => ?_)
    by_cases hq : q = p
    · rw [hq, State.setPart_self, hx]
      exact ⟨_, _, rfl⟩
    · rw [State.setPart_ne _ _ _ _ hq]
      exact ⟨_, _, rfl⟩
  unfold sealCut
  dsimp only
  exact .ite h (.ite (.after_eq (hseal _ _ _ _ rfl)) (.after_eq h))

theorem after_leaveReady (h : PartsKept s t) {ph : ReqPhase} : PartsKept s (leaveReady t e ph) := by
  unfold leaveReady settleDeficit
  dsimp only
  exact .ite (.ite (.after_eq h) (.ite (.after_eq h) (.after_eq h))) (.after_eq h)

theorem after_stageEntry (h : PartsKept s t) : PartsKept s (stageEntry t e) := by
  have hbne : ∀ u c, PartsKept s u → PartsKept s (releaseBne u c false) := fun u c hu => by
    unfold releaseBne
    dsimp only
    split <;> exact .after_eq hu
  have hslots : ∀ u c, PartsKept s u → PartsKept s (eraseBeSlots u c) := fun u c hu => .after_foldl (fun _ _ hv => .after_eq hv) _ hu
  have hcleared : PartsKept s (clearGroup t e false) :=
    .after_eq (.after_foldl (f := fun s c => (eraseBeSlots (releaseBne s c false) c).setCore c {}) (fun u c hu =>
      .after_eq (hslots _ c (hbne u c hu))) (t.entry e).group h)
  have hreleased : PartsKept s (releaseBae (clearGroup t e false) e) := by
    unfold releaseBae
    split
    · exact hcleared
    · exact .after_eq hcleared
  have hredeemed : PartsKept s (redeemTally (releaseBae (clearGroup t e false) e) e) := by
    unfold redeemTally
    exact .ite hreleased (.after_traceOnly (.after_eq hreleased) (Tal.redeem_only _ _ _).traceOnly)
  exact .after_traceOnly (.after_eq hredeemed) (.after_event .refl)

theorem after_endRequest (h : PartsKept s t) {st : Status} : PartsKept s (endRequest t e st) := by
  unfold endRequest endRequestWith
  dsimp only
  exact .ite (.after_stageEntry (.after_setEntry (.after_leaveReady (.after_bulkEnd (.after_sealCut h))))) h

end PartsKept

end Sys2Proof.Machine
end


section
/-! Proofs: aging, dispatch and watchdogs (O23). -/

namespace Sys2Proof.Machine

open Sys2Proof Sys2Proof.Bits

/-! ### Aging (R112) -/

theorem requestAging_runs {s : State} {e : Fin 69632} (hready : (s.entry e).phase = .ready) (hclass : (s.entry e).cls ≠ .urgent) :
    Runs (.requestAging e) s (fun t =>
      t.entry e = { s.entry e with cls := (s.entry e).cls.up, waitSince := s.tmr.now } ∧ ∀ k, k ≠ e.val → t.entry k = s.entry k) := by
  let aged : Entry := { s.entry e with cls := (s.entry e).cls.up, waitSince := s.tmr.now }
  let settled := settleDeficit (s.setEntry e aged) (s.entry e).die (s.entry e).cls ((s.entry e).func - 1)
  have hexec : exec (.requestAging e) s = done (Trace.event settled e Trace.kAge 0 (s.entry e).desc.fn.toNat) :=
    if_neg (not_or.mpr ⟨not_not.mpr hready, hclass⟩)
  have hentry : ∀ k, (Trace.event settled e Trace.kAge 0 (s.entry e).desc.fn.toNat).entry k = (s.setEntry e aged).entry k := fun k => by
    rw [(TraceOnly.after_event .refl).entry, entry_of_entries (settleDeficit_entries _ _ _ _)]
  refine runs_of_exec hexec ⟨?_, fun k hk => ?_⟩
  · rw [State.drive_entry', hentry, State.setEntry_self]
  · rw [State.drive_entry', hentry, State.setEntry_ne _ _ _ _ hk]

/-! ### The class of a dispatch opportunity (R113) -/

/-- The highest class in which a request can run. -/
theorem dispatchClass_highest {s : State} {d : Nat} {c : Cls} (h : dispatchClass s d = some c) :
    (∃ p ∈ listParts s d c, ∃ e ∈ subList s d c p, canRun s d (s.entry e) = true) ∧
    ∀ b, Trace.clsCode b < Trace.clsCode c → ∀ p ∈ listParts s d b, ∀ e ∈ subList s d b p, canRun s d (s.entry e) = false := by
  have hruns : ∀ b, (listParts s d b).any (someRuns s d b) = true ↔
      ∃ p ∈ listParts s d b, ∃ e ∈ subList s d b p, canRun s d (s.entry e) = true := fun b => by simp [someRuns]
  have hsorted : [Cls.urgent, .transaction, .bulk, .long].Pairwise (fun a b => Trace.clsCode a < Trace.clsCode b) := by decide
  obtain ⟨hc, before, after, hlist, hbefore⟩ := List.find?_eq_some_iff_append.mp h
  refine ⟨(hruns c).mp hc, fun b hb p hp e he => ?_⟩
  have hmem : b ∈ before := by
    have hall : b ∈ before ++ c :: after := by
      rw [← hlist]
      cases b <;> decide
    rw [hlist] at hsorted
    obtain ⟨-, hafter, -⟩ := List.pairwise_append.mp hsorted
    obtain ⟨hlater, -⟩ := List.pairwise_cons.mp hafter
    rcases List.mem_append.mp hall with hin | hin
    · exact hin
    · rcases List.mem_cons.mp hin with rfl | hin
      · omega
      · exact absurd (hlater b hin) (by omega)
  have hnone := hbefore b hmem
  by_contra hrun
  rw [(hruns b).mpr ⟨p, hp, e, he, by simpa using hrun⟩] at hnone
  exact absurd hnone (by decide)

/-! ### Deficit round robin (R114) -/

/-- t differs from s at most in the pointers and the deficit counters of the class lists. -/
def Turned (s t : State) : Prop := t = { s with sched := { s.sched with
  deficit := t.sched.deficit
  pointer := t.sched.pointer
  visiting := t.sched.visiting } }

namespace Turned

variable {s t : State} (h : Turned s t)
include h

theorem trans {u : State} (k : Turned t u) : Turned s u := by
  unfold Turned at h k ⊢
  rw [h] at k
  exact k

theorem sched : t = { s with sched := t.sched } := by
  unfold Turned at h
  rw [h]

theorem listParts (d : Nat) (c : Cls) : listParts t d c = listParts s d c := by rw [h]; rfl
theorem subList (d : Nat) (c : Cls) (p : Nat) : subList t d c p = subList s d c p := by rw [h]; rfl
theorem entry (e : Nat) : t.entry e = s.entry e := by rw [h]; rfl
theorem charge (x : Entry) : charge t x = charge s x := by rw [h]; rfl
theorem canRun (d : Nat) (x : Entry) : canRun t d x = canRun s d x := by rw [h]; rfl

end Turned

theorem deficit_setDeficit (s : State) (d : Nat) (c : Cls) (p v k : Nat) :
    (s.setDeficit d c p v).deficit d c k = if k = p then v else s.deficit d c k := by
  unfold State.deficit State.setDeficit
  dsimp only
  rw [Map.get_set]
  exact if_congr (by unfold deficitKey; omega) rfl rfl

theorem setPointer_turned (s : State) (key p : Nat) (b : Bool) : Turned s (setPointer s key p b) := rfl

theorem setDeficit_turned (s : State) (d : Nat) (c : Cls) (p v : Nat) : Turned s (s.setDeficit d c p v) := rfl

/-- No deficit counter of a class of a die passes the limit. -/
def DeficitsBound (s : State) (d : Nat) (c : Cls) : Prop := ∀ k, s.deficit d c k ≤ 8447

theorem DeficitsBound.setDeficit {s : State} {d : Nat} {c : Cls} (h : DeficitsBound s d c) (p : Nat) {v : Nat} (hv : v ≤ 8447) :
    DeficitsBound (s.setDeficit d c p v) d c := fun k => by
  rw [deficit_setDeficit]
  split
  · exact hv
  · exact h k

/-- The request that the round robin chooses is a head that can run, and its partition's counter covered its charge. -/
theorem wdrr_chooses {d : Nat} {c : Cls} {fuel : Nat} {s t : State} {e : Nat} (h : wdrr d c fuel s = some (e, t)) :
    Turned s t ∧
    (∃ p r, subList s d c p = e :: r ∧ canRun s d (s.entry e) = true ∧
      (DeficitsBound s d c → t.deficit d c p + charge s (s.entry e) ≤ 8447)) ∧
    (DeficitsBound s d c → DeficitsBound t d c) := by
  induction fuel generalizing s with
  | zero => cases h
  | succ fuel ih =>
    have hpass : ∀ u, Turned s u → (DeficitsBound s d c → DeficitsBound u d c) → wdrr d c fuel u = some (e, t) → Turned s t ∧
        (∃ p r, subList s d c p = e :: r ∧ canRun s d (s.entry e) = true ∧
          (DeficitsBound s d c → t.deficit d c p + charge s (s.entry e) ≤ 8447)) ∧
        (DeficitsBound s d c → DeficitsBound t d c) := by
      intro u hu hbound hnext
      obtain ⟨hturned, ⟨p, r, hsub, hcan, hcharge⟩, hkept⟩ := ih hnext
      rw [hu.subList] at hsub
      rw [hu.canRun, hu.entry] at hcan
      rw [hu.charge, hu.entry] at hcharge
      exact ⟨hu.trans hturned, ⟨p, r, hsub, hcan, fun hb => hcharge (hbound hb)⟩, fun hb => hkept (hbound hb)⟩
    unfold wdrr at h
    dsimp only at h
    split at h
    · cases h
    · next p _ =>
      split at h
      · exact hpass _ (setPointer_turned _ _ _ _) id h
      · next hhead =>
        split at h
        · cases h
        · next head rest hsub =>
          have hcan : canRun s d (s.entry head) = true := by simpa [headRuns, hsub] using hhead
          have hvisit : ∀ b, DeficitsBound s d c → (if b = true then s.deficit d c p else min deficitCap (s.deficit d c p + (s.part p).weight)) ≤ 8447 := by
            intro b hb
            split
            · exact hb p
            · exact Nat.min_le_left _ _
          generalize hbegun : (p == _ && Map.get false s.sched.visiting _) = begun at h
          generalize hv : (if begun = true then s.deficit d c p else min deficitCap (s.deficit d c p + (s.part p).weight)) = v at h
          have hv8447 : DeficitsBound s d c → v ≤ 8447 := hv ▸ hvisit begun
          have hvisited : ∀ key, Turned s (setPointer (s.setDeficit d c p v) key p true) := fun _ => rfl
          rw [(hvisited _).entry, (hvisited _).charge] at h
          split at h
          · next hcovered =>
            cases h
            refine ⟨(hvisited _).trans (setDeficit_turned _ _ _ _ _), ⟨p, rest, hsub, hcan, fun hb => ?_⟩, fun hb => ?_⟩
            · have hv' := hv8447 hb
              rw [deficit_setDeficit, if_pos rfl]
              omega
            · have hv' := hv8447 hb
              exact DeficitsBound.setDeficit (s := setPointer (s.setDeficit d c p v) _ p true) (hb.setDeficit p hv') p (by omega)
          · exact hpass _ ((hvisited _).trans (setPointer_turned _ _ _ _)) (fun hb => hb.setDeficit p (hv8447 hb)) h

/-! ### Dispatch (R20, R115, R136) -/

theorem startGroup_entries (s : State) (e ofs : Nat) (group : List Nat) : (startGroup s e ofs group).entries = s.entries :=
  List.foldlRecOn (motive := fun u : State => u.entries = s.entries) _ _ rfl (fun _ hu _ _ => hu)

/-- The members of a group are chosen among the contexts alone. -/
theorem placeMembers_congr {s t : State} (hcores : t.cores = s.cores) (hdev : t.dev = s.dev) (k n : Nat) (acc : List Nat) :
    placeMembers t k n acc = placeMembers s k n acc := by
  have hfree : ∀ i, tuFree t i = tuFree s i := fun i => by
    have hctx : ∀ c, ctxFree t c = ctxFree s c := fun c => by unfold ctxFree State.core; rw [hcores]
    unfold tuFree tuRetired
    rw [hdev, funext hctx]
  induction n generalizing acc with
  | zero => rfl
  | succ n ih =>
    unfold placeMembers
    simp only [hfree, ih]

theorem leaveReady_cores (s : State) (e : Nat) (ph : ReqPhase) : (leaveReady s e ph).cores = s.cores ∧ (leaveReady s e ph).dev = s.dev := by
  unfold leaveReady settleDeficit
  dsimp only
  split
  · split
    · exact ⟨rfl, rfl⟩
    · split <;> exact ⟨rfl, rfl⟩
  · exact ⟨rfl, rfl⟩

/-- A request that is sent to a barn runs with a group in the stook chosen. -/
theorem runRequest_entry {s : State} {d e b k n : Nat} {g : BankFn} (hbarn : chooseBarn s d (s.entry e) = some b)
    (hstook : pickStook s b (s.entry e).desc.fn.toNat = some k) (hfn : stookFn s k (s.entry e).desc.fn.toNat = some (n, g)) :
    (runRequest s d e).entry e = { s.entry e with
      phase := .running
      barn := b
      lead := (placeMembers s k g.group []).headD 0
      group := placeMembers s k g.group []
      window := n
      ran := true } := by
  let left := leaveReady s e .running
  have hgroup : placeMembers left k g.group [] = placeMembers s k g.group [] :=
    placeMembers_congr (leaveReady_cores _ _ _).1 (leaveReady_cores _ _ _).2 _ _ _
  have hstarted : ∀ group, (ungateClock (startGroup left e g.entry group) k).entry e = { s.entry e with phase := .running } := fun group => by
    have hentries : (ungateClock (startGroup left e g.entry group) k).entries = left.entries := startGroup_entries _ _ _ _
    rw [entry_of_entries hentries, leaveReady_entry, if_pos rfl]
  have hbae : ∀ u a, (bindBae u e a).entries = u.entries := fun u a => by
    unfold bindBae
    dsimp only
    split <;> rfl
  have hbound : ∀ {c : Prop} [Decidable c] {u v : State}, v.entries = u.entries → (if c then v else u).entries = u.entries :=
    fun h => by split <;> trivial
  unfold runRequest
  simp only [hbarn, hstook, hfn]
  rw [(TraceOnly.after_event .refl).entry]
  refine (entry_of_entries (hbound ?_) e).trans ?_
  · split
    · exact hbae _ _
    · rfl
  · rw [State.modEntry, State.setEntry_self, hstarted, hgroup]

/-! ### The dispatch opportunity -/

/-- A dispatch opportunity of an open port sends the request that the round robin chooses. -/
theorem exec_requestDispatch {s t : State} {die : Fin 2} {c : Cls} {e : Nat} (hkeep : keepRuns s = true) (hup : dieUp s (die.val + 1) = true)
    (hhot : Map.get false s.pwr.hot die = false) (hidle : s.pwr.state ≠ pwrIdle) (hlink : linkWaits s (die.val + 1) = false)
    (hclass : dispatchClass s (die.val + 1) = some c)
    (hchosen : wdrr (die.val + 1) c (4098 * ((listParts s (die.val + 1) c).length + 1)) s = some (e, t)) :
    exec (.requestDispatch die) s = done (dispatchRequest t (die.val + 1) e) := by
  have hopen : (!keepRuns s || !dieUp s (die.val + 1) || Map.get false s.pwr.hot die || s.pwr.state == pwrIdle || linkWaits s (die.val + 1)) =
      false := by simp [hkeep, hup, hhot, hidle, hlink]
  refine (if_neg (by rw [hopen]; decide)).trans ?_
  rw [hclass]
  dsimp only
  rw [hchosen]

theorem requestDispatch_ends {s t : State} {die : Fin 2} {e pos : Nat} {st : Status}
    (hexec : exec (.requestDispatch die) s = done (dispatchRequest t (die.val + 1) e))
    (hends : endsAtDispatch t (die.val + 1) (t.entry e) = some (st, pos)) (hunderway : Underway (t.entry e)) :
    Runs (.requestDispatch die) s (fun u => (u.entry e).state = .staged ∧ (u.entry e).status = st ∧ (u.entry e).outLen = 0) := by
  obtain ⟨hstate, hstatus, hlen, -⟩ := endRequestWith_entry (st := st) (r := BitVec.ofNat 64 pos) hunderway
  have hdispatch : dispatchRequest t (die.val + 1) e = endRequestWith t e st (BitVec.ofNat 64 pos) := by
    unfold dispatchRequest
    rw [hends]
  refine runs_of_exec hexec ?_
  rw [State.drive_entry', hdispatch]
  exact ⟨hstate, hstatus, hlen⟩

theorem requestDispatch_runs {s t : State} {die : Fin 2} {e b k n : Nat} {g : BankFn}
    (hexec : exec (.requestDispatch die) s = done (dispatchRequest t (die.val + 1) e))
    (hstays : endsAtDispatch t (die.val + 1) (t.entry e) = none) (hbarn : chooseBarn t (die.val + 1) (t.entry e) = some b)
    (hstook : pickStook t b (t.entry e).desc.fn.toNat = some k) (hfn : stookFn t k (t.entry e).desc.fn.toNat = some (n, g)) :
    Runs (.requestDispatch die) s (fun u => (u.entry e).phase = .running ∧ (u.entry e).barn = b ∧
      (u.entry e).group = placeMembers t k g.group [] ∧ (u.entry e).lead = (placeMembers t k g.group []).headD 0) := by
  have hdispatch : dispatchRequest t (die.val + 1) e = runRequest t (die.val + 1) e := by
    unfold dispatchRequest
    rw [hstays]
  refine runs_of_exec hexec ?_
  rw [State.drive_entry', hdispatch, runRequest_entry hbarn hstook hfn]
  exact ⟨rfl, rfl, rfl, rfl⟩

/-! ### Watchdogs (R127, R154, R273) -/

theorem exec_watchdog {s : State} {e : Fin 69632} {i : Instr} (h : i = .classWatchdogExpiry e ∨
    (i = .tuWatchdogExpiry e ∧ ((s.entry e).phase = .running ∨ (s.entry e).phase = .drafted))) : exec i s = done (expireWatchdog s e) := by
  rcases h with rfl | ⟨rfl, hphase⟩
  · rfl
  · exact if_pos hphase

/-- A watchdog that takes effect ends its request with WATCHDOG; nothing that it staged is released. -/
theorem watchdog_ends {s : State} {e : Fin 69632} {i : Instr} (hexec : exec i s = done (expireWatchdog s e)) (hread : readHeld s e = false)
    (hunderway : Underway (s.entry e)) : Runs i s (fun t =>
      (t.entry e).state = .staged ∧ (t.entry e).status = St.watchdog ∧ (t.entry e).outLen = 0 ∧ (t.entry e).out = [] ∧
      (fnClass (s.entry e).desc.fn.toNat ≠ 6 → (t.entry e).result = 0) ∧ (baeOf s e = none → t.hostMem = s.hostMem)) := by
  let noted := Trace.event s e Trace.kWatchdog 0 St.watchdog.toNat
  have hnoted : TraceOnly s noted := .after_event .refl
  have hexpired : expireWatchdog s e = endRequestWith noted e St.watchdog 0 := by
    unfold expireWatchdog
    rw [hread]
    exact if_pos hunderway
  have hunderway' : Underway (noted.entry e) := by rw [hnoted.entry]; exact hunderway
  have hbae : baeOf noted e = baeOf s e := by
    unfold baeOf State.bae
    rw [show noted.baes = s.baes by rw [hnoted]]
  obtain ⟨hstate, hstatus, hlen, hout, hresult⟩ := endRequestWith_entry (st := St.watchdog) (r := 0) hunderway'
  rw [hnoted.entry] at hresult
  refine runs_of_exec hexec ?_
  rw [State.drive_entry', State.drive_hostMem, hexpired]
  exact ⟨hstate, hstatus, hlen, hout, hresult, fun hnone =>
    (endRequestWith_keepsHost (hbae.trans hnone)).hostMem.trans hnoted.hostMem⟩

/-! ### Function-level reset (R52, R54, R276) -/

theorem movePart_parts (s : State) (p : Nat) (new : PartState) : (movePart s p new).parts = (s.setPart p { s.part p with state := new }).parts := by
  have hposted : ∀ x, (Tal.post (s.setPart p { s.part p with state := new }) x).parts = (s.setPart p { s.part p with state := new }).parts :=
    fun x => by rw [Tal.post_only]
  unfold movePart
  dsimp only
  split
  · rw [raiseVec_only]
    exact hposted _
  · exact hposted _

theorem part_of_parts {s t : State} (h : t.parts = s.parts) (p : Nat) : t.part p = s.part p := congrArg (fun m => Map.get ({} : Part) m p) h

theorem movePart_part (s : State) (p : Nat) (new : PartState) : (movePart s p new).part p = { s.part p with state := new } := by
  rw [part_of_parts (movePart_parts s p new), State.setPart_self]

theorem abortPartition_partsKept (s : State) (p : Nat) (st : Status) : PartsKept s (abortPartition s p st) :=
  .after_foldl (fun _ _ hu => .after_endRequest hu) _ (.after_foldl (fun _ _ hu => .after_setEntry hu) _ .refl)

/-- A partition whose reset has begun. -/
theorem beginReset_part (s : State) (p : Nat) : ∃ b n, (beginReset s p).part p = { s.part p with
    wasActive := (s.part p).state == .active
    state := .resetting
    emigrated := b
    hseq := n
    incPending := (s.part p).incPending + 1 } := by
  let asked := s.modPart p (fun x => { x with wasActive := x.state == .active })
  obtain ⟨b, n, hkept⟩ := abortPartition_partsKept (movePart asked p .resetting) p St.aborted p
  have hmoved : (movePart asked p .resetting).part p = { s.part p with wasActive := (s.part p).state == .active, state := .resetting } := by
    have hasked : asked.part p = { s.part p with wasActive := (s.part p).state == .active } := State.setPart_self _ _ _
    rw [movePart_part, hasked]
  refine ⟨b, n, ?_⟩
  unfold beginReset
  rw [State.modPart, State.setPart_self, hkept, hmoved]

/-- An index that a canonical array lists with some element is read with that element. -/
theorem Map.get_of_mem {α : Type} [DecidableEq α] {d : α} {m : Map α} {lo k : Nat} {a : α} (hwf : Map.wfFrom d lo m = true) (hmem : (k, a) ∈ m) :
    lo ≤ k ∧ Map.get d m k = a := by
  induction m generalizing lo with
  | nil => cases hmem
  | cons q r ih =>
    obtain ⟨i, b⟩ := q
    simp only [Map.wfFrom, Bool.and_eq_true, decide_eq_true_eq] at hwf
    obtain ⟨⟨hlo, -⟩, hrest⟩ := hwf
    rcases List.mem_cons.mp hmem with heq | hin
    · cases heq
      exact ⟨hlo, if_pos rfl⟩
    · obtain ⟨hle, hget⟩ := ih hrest hin
      exact ⟨by omega, (if_neg (by omega)).trans hget⟩

/-- In a canonical array the indices that satisfy p are those whose elements do. -/
theorem Map.of_mem_keysWhere {α : Type} [DecidableEq α] {d : α} {p : Nat → α → Bool} {m : Map α} {k : Nat} (hwf : Map.wf d m = true)
    (h : k ∈ Map.keysWhere p m) : p k (Map.get d m k) = true := by
  simp only [Map.keysWhere, List.mem_map, List.mem_filter] at h
  obtain ⟨⟨i, a⟩, ⟨hmem, hp⟩, rfl⟩ := h
  rw [(Map.get_of_mem hwf hmem).2]
  exact hp

/-- A reset ends every request of the partition that is accepted and not yet staged with ABORTED. -/
theorem beginReset_aborts {s : State} {p e : Nat} (hwf : Map.wf {} s.entries = true) (hfunc : (s.entry e).func = p + 1)
    (hunderway : Underway (s.entry e)) (hphase : (s.entry e).phase ≠ .fetching) : StagedWith St.aborted ((beginReset s p).entry e) := by
  let moved := movePart (s.modPart p (fun x => { x with wasActive := x.state == .active })) p .resetting
  have hmoved : moved.entries = s.entries := movePart_entries _ _ _
  let fetching := entriesWhere moved (fun x => x.func == p + 1 && x.phase == .fetching)
  let stopped := fetching.foldl (fun s e => s.setEntry e {}) moved
  have hnotFetching : e ∉ fetching := fun h => by
    have hfetch := Map.of_mem_keysWhere (d := {}) (by rw [hmoved]; exact hwf) h
    rw [hmoved] at hfetch
    exact hphase (beq_iff_eq.mp (Bool.and_eq_true_iff.mp hfetch).2)
  have hstopped : stopped.entry e = s.entry e := by
    refine (List.foldlRecOn (motive := fun u : State => u.entry e = moved.entry e) _ _ rfl (fun u hu k hk => ?_)).trans (entry_of_entries hmoved e)
    have hne : e ≠ k := fun h => hnotFetching (by rw [h]; exact hk)
    rw [State.setEntry_ne _ _ _ _ hne, hu]
  have hmem : e ∈ entriesWhere stopped (fun x => x.func == p + 1 && x.accepted && x.state == .reserved) := by
    refine mem_entriesWhere (by simp) ?_
    rw [hstopped]
    obtain ⟨hstate, haccepted⟩ := hunderway
    simp [hfunc, hstate, haccepted]
  have hends := foldl_endRequest_stagedWith (st := St.aborted) hmem (hstopped.symm ▸ hunderway)
  have habort : abortPartition moved p St.aborted =
      (entriesWhere stopped (fun x => x.func == p + 1 && x.accepted && x.state == .reserved)).foldl (fun s k => endRequest s k St.aborted) stopped := by
    unfold abortPartition
    simp only [ite_self]
    rfl
  rw [← habort] at hends
  exact hends

/-! ### Vectors that package indications raise (R427) -/

/-- From s to t no vector of a VF changes. -/
def KeepsVectors (s t : State) : Prop := ∀ f, 0 < f → ∀ n, t.msix f n = s.msix f n

namespace KeepsVectors

variable {s t u : State}

theorem refl : KeepsVectors s s := fun _ _ _ => rfl

theorem trans (h : KeepsVectors s t) (k : KeepsVectors t u) : KeepsVectors s u := fun f hf n => (k f hf n).trans (h f hf n)

theorem ite {c : Prop} [Decidable c] (h : KeepsVectors s t) (k : KeepsVectors s u) : KeepsVectors s (if c then t else u) := by
  split <;> assumption

theorem after_eq (h : KeepsVectors s t) (hmsix : u.hif.msix = t.hif.msix := by rfl) : KeepsVectors s u :=
  h.trans (fun f _ n => congrArg (fun m => Map.get ({} : MsixEntry) m (64 * f + n)) hmsix)

theorem after_tal (h : KeepsVectors s t) {x : Tally} : KeepsVectors s { t with tal := x } := .after_eq h

/-- A vector of the PF. -/
theorem after_raiseVec (h : KeepsVectors s t) {v : Nat} (hv : v < 64 := by decide) : KeepsVectors s (raiseVec t 0 v) := by
  have hset : ∀ x, KeepsVectors t (t.setMsix 0 v x) := fun x f hf n => Map.get_set_ne _ _ _ _ _ (by omega)
  unfold raiseVec
  exact .ite (h.trans (hset _)) (h.trans (hset _))

theorem after_setInt (h : KeepsVectors s t) {page n : Nat} : KeepsVectors s (setInt t page n) := by
  unfold setInt setIntRaw
  exact .ite (.after_raiseVec (.after_eq h)) (.after_eq h)

theorem after_fire (h : KeepsVectors s t) {k : Nat} : KeepsVectors s (Tal.fire t k) := by
  unfold Tal.fire
  exact .ite h (.after_raiseVec (.after_setInt (.after_eq h)))

theorem after_checkFill (h : KeepsVectors s t) : KeepsVectors s (Tal.checkFill t) := by
  unfold Tal.checkFill
  exact .ite (.after_fire (.ite (.after_fire h) h)) (.ite (.after_fire h) h)

theorem after_lose (h : KeepsVectors s t) {n : Nat} : KeepsVectors s (Tal.lose t n) := by
  unfold Tal.lose
  exact .ite (.after_setInt (.after_eq h)) (.after_eq h)

theorem after_write (h : KeepsVectors s t) {d : Tal.Draft} {data : Bytes} {tail cont : Bool} : KeepsVectors s (Tal.write t d data tail cont) := by
  have htail : ∀ u, KeepsVectors s u → KeepsVectors s (if tail = true then Tal.fire u 3 else u) := fun u hu => .ite (.after_fire hu) hu
  have hfull : ∀ u, KeepsVectors s u → KeepsVectors s (if u.tal.main = Tal.mainCap then Tal.fire { u with tal := { u.tal with full := true } } 2 else u) :=
    fun u hu => .ite (.after_fire (.after_tal hu)) hu
  unfold Tal.write
  exact .ite (.after_fire (.after_tal (hfull _ (htail _ (.after_tal h))))) (hfull _ (htail _ (.after_tal h)))

theorem after_post (h : KeepsVectors s t) {d : Tal.Draft} : KeepsVectors s (Tal.post t d) := by
  have hall : ∀ tail, KeepsVectors s (Tal.writeAll t d tail) := fun tail => by
    unfold Tal.writeAll
    cases d.cont with
    | none => exact .after_write h
    | some x => exact .after_write (.after_write h)
  unfold Tal.post
  exact .ite (.after_lose h) (.ite (.after_checkFill (hall _)) (.ite (.ite (hall _) (.after_lose h)) (.after_lose h)))

end KeepsVectors

/-! ### Ring registers at their reset values (R54, R276) -/

/-- Every ring register and MSI-X entry of a VF has its reset value. -/
def RingsReset (f : Nat) (s : State) : Prop := ∀ n < 64, s.sq f n = {} ∧ s.cq f n = {} ∧ s.msix f n = {}

theorem RingsReset.congr {f : Nat} {s t : State} (h : RingsReset f s) (hsq : ∀ n < 64, t.sq f n = s.sq f n) (hcq : t.hif.cq = s.hif.cq)
    (hmsix : ∀ n < 64, t.msix f n = s.msix f n) : RingsReset f t := fun n hn => by
  have hcqn : t.cq f n = s.cq f n := congrArg (fun m => Map.get ({} : CqRing) m (64 * f + n)) hcq
  rw [hsq n hn, hcqn, hmsix n hn]
  exact h n hn

theorem RingsReset.of_hif {f : Nat} {s t : State} (h : RingsReset f s) (hsq : t.hif.sq = s.hif.sq) (hcq : t.hif.cq = s.hif.cq)
    (hmsix : t.hif.msix = s.hif.msix) : RingsReset f t :=
  h.congr (fun n _ => congrArg (fun m => Map.get ({} : SqRing) m (64 * f + n)) hsq) hcq
    (fun n _ => congrArg (fun m => Map.get ({} : MsixEntry) m (64 * f + n)) hmsix)

/-- An index whose elements a filter takes out reads as the default. -/
theorem Map.get_filter_out {α : Type} {d : α} {p : Nat × α → Bool} {k : Nat} (hp : ∀ a, p (k, a) = false) (m : Map α) :
    Map.get d (m.filter p) k = d := by
  induction m with
  | nil => rfl
  | cons q r ih =>
    obtain ⟨i, a⟩ := q
    rw [List.filter_cons]
    split
    · next hkept =>
      have hne : i ≠ k := fun h => by
        rw [h, hp] at hkept
        cases hkept
      exact (if_neg hne).trans ih
    · exact ih

theorem resetRings_reset (s : State) (f : Nat) : RingsReset f (resetRings s f) := fun n hn => by
  have hout : ∀ {α : Type} (a : α), (fun x : Nat × α => !decide (64 * f ≤ x.1 ∧ x.1 < 64 * f + 64)) (64 * f + n, a) = false := fun a => by
    simp [hn]
  exact ⟨Map.get_filter_out hout _, Map.get_filter_out hout _, Map.get_filter_out hout _⟩

theorem movePart_ringsReset {s : State} {f : Nat} (hf : 0 < f) (h : RingsReset f s) (p : Nat) (new : PartState) : RingsReset f (movePart s p new) := by
  have honly : ∀ {u v : State}, TallyOnly u v → KeepsVectors u v → RingsReset f u → RingsReset f v := fun hu hv hr =>
    hr.congr (fun n _ => by rw [hu]; rfl) (by rw [hu]) (fun n _ => hv f hf n)
  have hset : RingsReset f (s.setPart p { s.part p with state := new }) := h.of_hif rfl rfl rfl
  have hposted : ∀ x, RingsReset f (Tal.post (s.setPart p { s.part p with state := new }) x) := fun x =>
    honly (Tal.post_only _ _) (.after_post .refl) hset
  unfold movePart
  dsimp only
  split
  · exact honly (raiseVec_only _ _ _) (.after_raiseVec .refl) ((hposted _).of_hif rfl rfl rfl)
  · exact hposted _

/-! ### Grants keep rings that are off, and the partitions -/

/-- From s to t the partitions and the registers of every VF whose rings have their reset values stay. -/
structure KeepsOffRings (s t : State) : Prop where
  parts : t.parts = s.parts
  rings : ∀ f, RingsReset f s → RingsReset f t

theorem KeepsOffRings.trans {s t u : State} (h : KeepsOffRings s t) (k : KeepsOffRings t u) : KeepsOffRings s u :=
  ⟨k.parts.trans h.parts, fun f hf => k.rings f (h.rings f hf)⟩

theorem placeRequest_keepsOffRings (s : State) (e : Nat) : KeepsOffRings s (placeRequest s e) := by
  unfold placeRequest
  split
  · exact ⟨rfl, fun _ hf => hf.of_hif rfl rfl rfl⟩
  · exact ⟨rfl, fun _ hf => hf.of_hif rfl rfl rfl⟩

theorem startFetch_hif (s : State) (f n : Nat) : ∃ m r, (startFetch s f n).hif = { s.hif with sq := m, rr := r } ∧
    (startFetch s f n).parts = s.parts ∧ ∀ g k, 64 * g + k ≠ 64 * f + n → Map.get {} m (64 * g + k) = s.sq g k := by
  unfold startFetch
  split
  · exact ⟨s.hif.sq, s.hif.rr, rfl, rfl, fun _ _ _ => rfl⟩
  · exact ⟨_, _, rfl, rfl, fun g k hne => Map.get_set_ne _ _ _ _ _ hne⟩

/-- A fetch of an enabled ring. -/
theorem startFetch_keepsOffRings {s : State} {f n : Nat} (hon : (s.sq f n).enable = true) : KeepsOffRings s (startFetch s f n) := by
  obtain ⟨m, r, hhif, hparts, hsq⟩ := startFetch_hif s f n
  refine ⟨hparts, fun g hg => hg.congr (fun k hk => ?_) (by rw [hhif]) (fun k _ => ?_)⟩
  · have hne : 64 * g + k ≠ 64 * f + n := fun heq => by
      have hsame : s.sq f n = s.sq g k := by
        unfold State.sq
        rw [heq]
      rw [hsame, (hg k hk).1] at hon
      cases hon
    refine Eq.trans ?_ (hsq g k hne)
    unfold State.sq
    rw [hhif]
  · unfold State.msix
    rw [hhif]

theorem ableWaiters_enabled {s : State} {pf : Bool} {w : Nat × Nat} (h : w ∈ ableWaiters s pf) : (s.sq w.1 w.2).enable = true := by
  unfold ableWaiters at h
  dsimp only at h
  obtain ⟨x, hx, rfl⟩ := List.mem_map.mp h
  have hin := (List.mem_insertionSort _).mp hx
  simp only [List.mem_filter, Bool.and_eq_true, sqWants] at hin
  obtain ⟨-, ⟨-, ⟨⟨-, henable⟩, -⟩, -⟩, -⟩ := hin
  exact henable

theorem grantFreed_keepsOffRings (s : State) : KeepsOffRings s (grantFreed s) := by
  have hplaced : KeepsOffRings s (placeWaiters s) :=
    List.foldlRecOn (motive := KeepsOffRings s) _ _ ⟨rfl, fun _ hf => hf⟩ (fun _ hu _ _ => hu.trans (placeRequest_keepsOffRings _ _))
  have hone : ∀ pf u, KeepsOffRings s u → KeepsOffRings s (match ableWaiters u pf with
      | (f, n) :: _ => if poolFree u f then startFetch u f n else u
      | [] => u) := fun pf u hu => by
    split
    · next f n rest hwaiters =>
      split
      · have hmem : (f, n) ∈ ableWaiters u pf := by rw [hwaiters]; exact List.mem_cons_self
        exact hu.trans (startFetch_keepsOffRings (ableWaiters_enabled hmem))
      · exact hu
    · exact hu
  exact hone true _ (hone false _ hplaced)

/-! ### The increment (R51, R53, R54, R276) -/

theorem dropWriting_part (s : State) (p q : Nat) :
    ((dropWriting s p).part q).gen = (s.part q).gen ∧ ((dropWriting s p).part q).incPending = (s.part q).incPending ∧
    ((dropWriting s p).part q).wasActive = (s.part q).wasActive ∧ ((dropWriting s p).part q).releasing = (s.part q).releasing := by
  refine List.foldlRecOn (motive := fun u : State => (u.part q).gen = (s.part q).gen ∧ (u.part q).incPending = (s.part q).incPending ∧
    (u.part q).wasActive = (s.part q).wasActive ∧ (u.part q).releasing = (s.part q).releasing) _ _ ⟨rfl, rfl, rfl, rfl⟩ (fun u hu e _ => ?_)
  obtain ⟨v, hv, hdropped⟩ := dropEntry_keeps u e
  obtain ⟨hgen, hpending, hactive, hreleasing⟩ := hdropped.part q
  rw [hgen, hpending, hactive, hreleasing]
  obtain ⟨hgen, hpending, hactive, hreleasing⟩ := hv.part q
  obtain ⟨hgen', hpending', hactive', hreleasing'⟩ := hu
  exact ⟨hgen.trans hgen', hpending.trans hpending', hactive.trans hactive', hreleasing.trans hreleasing'⟩

theorem endReset_keeps (s : State) (p : Nat) : (∃ o, (endReset s p).part p = { s.part p with resetEntry := o }) ∧ (endReset s p).hif = s.hif := by
  unfold endReset
  dsimp only
  split
  · exact ⟨⟨_, rfl⟩, rfl⟩
  · split
    · exact ⟨⟨none, State.setPart_self _ _ _⟩, rfl⟩
    · exact ⟨⟨none, State.setPart_self _ _ _⟩, rfl⟩

/-- The last increment asked for, without a release: the new generation, the state that R276 gives, and ring registers at their reset values. -/
theorem takeIncrement_last {s : State} {p : Nat} (hpending : (s.part p).incPending = 1) (hreleasing : (s.part p).releasing = false) :
    ((takeIncrement s p).part p).gen = nextGen (s.part p).gen ∧
    ((takeIncrement s p).part p).state = (if (s.part p).wasActive then .active else .frozen) ∧ RingsReset (p + 1) (takeIncrement s p) := by
  obtain ⟨hgen, hpending', hactive, hreleasing'⟩ := dropWriting_part s p p
  let chained := newChains (dropWriting s p) p
  let counted := chained.modPart p (fun x => { x with gen := nextGen x.gen, incPending := x.incPending - 1 })
  let reset := resetRings counted (p + 1)
  have hpart : reset.part p = { (dropWriting s p).part p with
      gen := nextGen (s.part p).gen
      incPending := 0 } := by
    refine (State.setPart_self _ _ _).trans ?_
    have hchained : chained.part p = (dropWriting s p).part p := rfl
    rw [hchained]
    dsimp only
    rw [hgen, hpending', hpending]
  let new : PartState := if (s.part p).wasActive then .active else .frozen
  have htaken : takeIncrement s p = endReset (movePart reset p new) p := by
    have hlast : ¬ (reset.part p).incPending ≠ 0 := by rw [hpart]; exact not_not.mpr rfl
    have hstays : ¬ (reset.part p).releasing = true := by rw [hpart]; simp [hreleasing', hreleasing]
    have hwas : (reset.part p).wasActive = (s.part p).wasActive := by rw [hpart]; exact hactive
    refine (if_neg hlast).trans ((if_neg hstays).trans ?_)
    rw [show (reset.part p).wasActive = (s.part p).wasActive from hwas]
  obtain ⟨⟨o, hended⟩, hhif⟩ := endReset_keeps (movePart reset p new) p
  rw [htaken, hended, movePart_part, hpart]
  refine ⟨rfl, rfl, ?_⟩
  have hmoved : RingsReset (p + 1) (movePart reset p new) := movePart_ringsReset (Nat.succ_pos _) (resetRings_reset counted (p + 1)) _ _
  exact hmoved.of_hif (by rw [hhif]) (by rw [hhif]) (by rw [hhif])

/-- Settles O23: the choice of a request by induction on the visits of the round robin; its end and its run by the equation of its entry; the reset
and the increment step by step, with what each operation leaves of the partition and its rings. -/
theorem agingDispatchAndWatchdogs : Obligations.AgingDispatchAndWatchdogs := by
  unfold Obligations.AgingDispatchAndWatchdogs
  refine ⟨fun s => ⟨fun e hready hclass => requestAging_runs hready hclass, fun d c hclass => dispatchClass_highest hclass,
    fun die hlink => ?waits, fun d c fuel e t hchosen => ?wdrr, fun die c e t b k n g hkeep hup hhot hidle hlink hclass hchosen => ?dispatch⟩,
    fun s => ⟨fun e i hi => ?watchdog, fun p hpf => ?flr, fun p hpending hreleasing hready => ?increment⟩⟩
  case waits => exact if_pos (by simp [hlink])
  case wdrr =>
    obtain ⟨hturned, hhead, hbound⟩ := wdrr_chooses hchosen
    exact ⟨hturned.sched, hhead, hbound⟩
  case dispatch =>
    have hexec := exec_requestDispatch hkeep hup hhot hidle hlink hclass hchosen
    exact ⟨fun st pos hends hstate haccepted => requestDispatch_ends hexec hends ⟨hstate, haccepted⟩,
      fun hstays hbarn hstook hfn => requestDispatch_runs hexec hstays hbarn hstook hfn⟩
  case watchdog =>
    have hexec := exec_watchdog hi
    exact ⟨fun hread => hexec.trans (congrArg done (if_pos hread)), fun hread hstate haccepted => watchdog_ends hexec hread ⟨hstate, haccepted⟩⟩
  case flr =>
    have hopen : ¬ (!s.boot.pfEnabled) = true := by rw [hpf]; decide
    refine ⟨fun hstate => (if_neg hopen).trans (by rw [hstate]), fun hstate => (if_neg hopen).trans (by rw [hstate]), fun hstate => ?_⟩
    obtain ⟨b, n, hpart⟩ := beginReset_part s p
    refine ⟨(if_neg hopen).trans ?_, ?_, ?_, ?_, fun hwf e hfunc haccepted hreserved hphase =>
      beginReset_aborts hwf hfunc ⟨hreserved, haccepted⟩ hphase⟩
    · rcases hstate with hstate | hstate | hstate <;> rw [hstate]
    · rw [hpart]
    · rw [hpart]
    · rw [hpart]
      rfl
  case increment =>
    obtain ⟨hgen, hstate, hrings⟩ := takeIncrement_last hpending hreleasing
    have hgranted := grantFreed_keepsOffRings (takeIncrement s p)
    have hexec : exec (.generationIncrement p) s = done (grantFreed (takeIncrement s p)) :=
      congrArg done (if_pos ⟨by rw [hpending]; decide, hready⟩)
    refine runs_of_exec hexec ?_
    simp only [State.drive_part', State.drive_sq', State.drive_cq', State.drive_msix', part_of_parts hgranted.parts]
    exact ⟨hgen, hstate, hgranted.rings _ hrings⟩

end Sys2Proof.Machine
end


section
/-! Proofs: how a class 0xE request runs, takes its quorum and posts. -/

namespace Sys2Proof.Machine

open Sys2Proof Sys2Proof.Bits

/-! ### The post of an administrative request (R50, R61) -/

/-- A status that an administrative request is refused with, and that carries no result word. -/
def Refused (st : Status) : Prop := st = St.formatRule ∨ st = St.quorumRequired ∨ st = St.auditFull

theorem Refused.posted {st : Status} (h : Refused st) {x : Entry} (hstatus : x.status = st) (hresult : x.result = 0) : postedStatus x = (st, 0) := by
  have hbad : st ≠ St.ok ∧ st ∈ St.listed ∧ st ≠ St.keyUseExhausted := by
    rcases h with rfl | rfl | rfl <;> decide
  obtain ⟨hok, hlisted, hexh⟩ := hbad
  have hword : ∀ bulk, statusWord st bulk 0 = 0 := fun bulk => by unfold statusWord; simp
  unfold postedStatus
  dsimp only
  rw [hstatus, hresult, if_pos hok, if_neg (by simpa using hlisted), if_neg (fun hx => hexh hx.1), hword]

/-- The entry of an administrative request that has posted without output. -/
def adminPosted (x : Entry) (st : Status) (r : BitVec 64) : Entry :=
  { x with
    phase := .posted
    status := st
    result := r
    outLen := 0
    out := []
    outOver := 0 }

theorem putDraft_noOutput (s : State) (e : Nat) (st : Status) (r : BitVec 64) :
    putDraft s e { status := st, result := r } = s.modEntry e (drafted { status := st, result := r }) := by
  have hroom : 0 + ([] : Bytes).length ≤ inlineRoom (s.entry e) := Nat.zero_le _
  unfold putDraft
  rw [stageDenied_inline hroom, stageBeyond_inline hroom]
  rfl

theorem postAdmin_noOutput {s : State} {e : Nat} {st : Status} {r : BitVec 64} (hneed : (s.entry e).polNeed = false)
    (hstatus : st = St.ok ∨ Refused st ∧ r = 0) :
    ∃ x, postAdmin s e { status := st, result := r } = (s.setEntry e x).setEntry e (adminPosted (s.entry e) st r) := by
  let d : Entry := drafted { status := st, result := r } (s.entry e)
  have hposted : postedStatus d = (st, r) := by
    rcases hstatus with rfl | ⟨hrefused, rfl⟩
    · unfold postedStatus
      simp [d, drafted, hneed]
    · exact hrefused.posted rfl rfl
  refine ⟨d, ?_⟩
  unfold postAdmin
  rw [putDraft_noOutput, State.modEntry]
  dsimp only
  rw [State.setEntry_self, show postedStatus (drafted { status := st, result := r } (s.entry e)) = (st, r) from hposted]
  cases st == St.ok <;> rfl

theorem drive_onlyEntries {u t : State} (h : t = { u with entries := t.entries }) :
    t.drive = { u with entries := t.drive.entries, pins := t.drive.pins } := by
  generalize t.entries = m at h
  subst h
  rfl

/-- A row that posts without output posts its status and its result word, and changes nothing else. -/
theorem posts_of_exec {i : Instr} {s u : State} {e : Nat} {st : Status} {r : BitVec 64} (hneed : (u.entry e).polNeed = false)
    (hstatus : st = St.ok ∨ Refused st ∧ r = 0) (hexec : exec i s = done (postAdmin u e { status := st, result := r })) :
    Posts i s u e st r [] := by
  obtain ⟨x, hpost⟩ := postAdmin_noOutput hneed hstatus
  have hbeyond : stageBeyond u (s.entry e) 0 [] = u := stageBeyond_inline (Nat.zero_le _)
  rw [hpost] at hexec
  refine runs_of_exec hexec ?_
  have honly : (u.setEntry e x).setEntry e (adminPosted (u.entry e) st r) =
      { u with entries := ((u.setEntry e x).setEntry e (adminPosted (u.entry e) st r)).entries } := rfl
  rw [hbeyond, State.drive_entry', State.setEntry_self]
  refine ⟨drive_onlyEntries honly, fun k hk => ?_, rfl, rfl, rfl, rfl, fun k => ?_⟩
  · rw [State.drive_entry', State.setEntry_ne _ _ _ _ hk, State.setEntry_ne _ _ _ _ hk]
  · simp [adminPosted]

/-! ### The row of a class 0xE function (R72, R106, R381) -/

/-- What a row's steps come to. -/
def adminOutcome (e : Nat) : FnEnd → Host.Outcome State Fault Refusal
  | (.ended d, t) => done (postAdmin t e d)
  | (.waits, t) => done t
  | (.starved, t) => done (t.modEntry e (fun x => { x with rngWait := true }))

section
variable {s v : State} {e fn : Nat} {dma : Dma} {b : Bytes} {mine : Bytes → Bool} {body : State → Bytes → FnEnd}
  (hadmin : Administering s e fn b)
include hadmin

theorem takeRoom_self (hfn : (BitVec.ofNat 16 fn).toNat = fn) : takeRoom s e = some s := by
  refine if_pos ?_
  rw [hadmin.code, hfn]
  exact hadmin.room

theorem takeInput_self : takeInput s e dma = some (b, s) := by
  unfold takeInput
  dsimp only
  rw [hadmin.input]

variable (hfn : (BitVec.ofNat 16 fn).toNat = fn) (hmine : mine b = true)
include hfn hmine

theorem runAdmin_reserved (hreserved : reserveAdmin s e b = some v) : runAdmin fn e dma .first s mine body = adminOutcome e (body v b) := by
  have hgo : ¬ ((s.entry e).phase ≠ .firmware ∨ (s.entry e).state ≠ .reserved ∨ (s.entry e).desc.fn ≠ BitVec.ofNat 16 fn ∨ s.yoke.gap = true) := by
    simp [hadmin.firmware, hadmin.reserved, hadmin.code, hadmin.runs]
  unfold runAdmin
  refine (if_neg hgo).trans ?_
  rw [takeRoom_self hadmin hfn]
  dsimp only
  rw [takeInput_self hadmin]
  dsimp only
  rw [hmine, if_neg (by decide), hreserved]
  rfl

theorem runAdmin_full (hfull : reserveAdmin s e b = none) :
    runAdmin fn e dma .first s mine body = done (postAdmin s e { status := St.auditFull }) := by
  have hgo : ¬ ((s.entry e).phase ≠ .firmware ∨ (s.entry e).state ≠ .reserved ∨ (s.entry e).desc.fn ≠ BitVec.ofNat 16 fn ∨ s.yoke.gap = true) := by
    simp [hadmin.firmware, hadmin.reserved, hadmin.code, hadmin.runs]
  unfold runAdmin
  refine (if_neg hgo).trans ?_
  rw [takeRoom_self hadmin hfn]
  dsimp only
  rw [takeInput_self hadmin]
  dsimp only
  rw [hmine, if_neg (by decide), hfull]

end

/-! ### The tally entry and the quorum (R307, R381) -/

theorem Tal.reserve_only {s w : State} {n : Nat} (h : Tal.reserve s n = some w) : TallyOnly s w := by
  unfold Tal.reserve at h
  split at h
  · cases h
  · cases h
    exact (tal_only s _).trans (Tal.checkFill_only _)

/-- The reservation of a tally entry changes the tally's part of the request's entry alone. -/
theorem reserveAdmin_entry {s v : State} {e : Nat} {b : Bytes} (h : reserveAdmin s e b = some v) :
    ∃ y, v.entry e = { s.entry e with tally := y } := by
  unfold reserveAdmin reserveEntry at h
  split at h
  · cases h
    exact ⟨_, rfl⟩
  · obtain ⟨w, hw, rfl⟩ := Option.map_eq_some_iff.mp h
    rw [State.modEntry, State.setEntry_self, (Tal.reserve_only hw).traceOnly.entry]
    exact ⟨_, rfl⟩

theorem quorumRun_entry (s : State) (e : Nat) (ro : Roster) (cs : List QClass) (digest set : Bytes) (k : Nat) :
    (quorumRun s e ro cs digest set).2.entry k = s.entry k := by
  have hpage : ∀ b, (writePage s b).entry k = s.entry k := fun b => (raiseVec_only _ _ _).traceOnly.entry k
  unfold quorumRun
  dsimp only
  split
  · exact hpage _
  · exact hpage _

section
variable {v w : State} {e body : Nat} {b : Bytes} {cs : List QClass} {k : State → FnEnd}

theorem withQuorum_quorate (hquorate : Quorate v e b cs body w) (hinput : (v.entry e).input = some b) :
    withQuorum v e cs body k = k w := by
  unfold withQuorum withQuorumOf
  dsimp only
  rcases hquorate with ⟨hphase, rfl⟩ | ⟨hidle, u, hrun, rfl⟩
  · split
    · next hidle => exact absurd hidle hphase
    · rfl
  · rw [hidle, hinput]
    simp only [Option.getD_some, hrun, if_true]

theorem withQuorum_refused (hidle : (v.entry e).polPhase = .idle) (hinput : (v.entry e).input = some b)
    (hrun : quorumRun v e (ownRoster v) cs (Hash.sha384 (b.take body)) (b.drop body) = (false, w)) :
    withQuorum v e cs body k = ends St.quorumRequired w := by
  unfold withQuorum withQuorumOf
  dsimp only
  rw [hidle, hinput]
  simp only [Option.getD_some, hrun]
  exact if_neg (by decide)

theorem Quorate.polNeed (hquorate : Quorate v e b cs body w) : (w.entry e).polNeed = (v.entry e).polNeed := by
  rcases hquorate with ⟨-, rfl⟩ | ⟨-, u, hrun, rfl⟩
  · rfl
  · have hentry := quorumRun_entry v e (ownRoster v) cs (Hash.sha384 (b.take body)) (b.drop body) e
    rw [hrun] at hentry
    rw [State.modEntry, State.setEntry_self, hentry]

end

end Sys2Proof.Machine
end


section
/-! Proofs: the administration of partitions (O30). -/

namespace Sys2Proof.Machine

open Sys2Proof Sys2Proof.Bits

/-! ### Runs of a resource (R118, R230) -/

/-- A run found lies within the resource, and overlaps no run in use. -/
theorem findRun_free {used : List (Nat × Nat)} {total n c : Nat} (h : findRun used total n = some c) (hn : 0 < n) :
    c + n ≤ total ∧ ∀ x ∈ used, x.2 = 0 ∨ c + n ≤ x.1 ∨ x.1 + x.2 ≤ c := by
  unfold findRun at h
  rw [if_neg (by omega)] at h
  have hfree := List.find?_some h
  simpa using hfree

/-! ### Rows with a quorum -/

theorem check_pass {ok : Bool} {st : Status} {s : State} {k : FnEnd} (h : ok = true) : check ok st s k = k := if_pos h

section
variable {i : Instr} {s v w u : State} {e fn body : Nat} {dma : Dma} {b : Bytes} {cs : List QClass} {mine : Bytes → Bool}
  {row : State → Bytes → FnEnd} {k : State → FnEnd} {st : Status} {r : BitVec 64}
  (hadmin : Administering s e fn b) (hrow : exec i s = runAdmin fn e dma .first s mine row)
include hadmin hrow

theorem admin_posts (hfn : (BitVec.ofNat 16 fn).toNat = fn) (hmine : mine b = true) (hreserved : reserveAdmin s e b = some v)
    (hbody : row v b = (.ended { status := st, result := r }, u)) (hneed : (u.entry e).polNeed = (v.entry e).polNeed)
    (hstatus : st = St.ok ∨ Refused st ∧ r = 0) : Posts i s u e st r [] := by
  obtain ⟨y, hy⟩ := reserveAdmin_entry hreserved
  refine posts_of_exec (hneed.trans (by rw [hy]; exact hadmin.need)) hstatus ?_
  rw [hrow, runAdmin_reserved hadmin hfn hmine hreserved, hbody]
  rfl

theorem admin_waits (hfn : (BitVec.ofNat 16 fn).toNat = fn) (hmine : mine b = true) (hreserved : reserveAdmin s e b = some v)
    (hbody : row v b = (.waits, u)) : exec i s = done u := by
  rw [hrow, runAdmin_reserved hadmin hfn hmine hreserved, hbody]
  rfl

/-- A row whose classes have their quorum goes on from the state that the quorum leaves. -/
theorem admin_quorate (hfn : (BitVec.ofNat 16 fn).toNat = fn) (hmine : mine b = true) (hreserved : reserveAdmin s e b = some v)
    (hquorate : Quorate v e b cs body w) (hbody : row v b = withQuorum v e cs body k) (hk : k w = (.ended { status := st, result := r }, u))
    (hneed : (u.entry e).polNeed = (w.entry e).polNeed) (hstatus : st = St.ok ∨ Refused st ∧ r = 0) : Posts i s u e st r [] := by
  obtain ⟨y, hy⟩ := reserveAdmin_entry hreserved
  have hinput : (v.entry e).input = some b := by rw [hy]; exact hadmin.input
  exact admin_posts hadmin hrow hfn hmine hreserved (hbody.trans ((withQuorum_quorate hquorate hinput).trans hk)) (hneed.trans hquorate.polNeed) hstatus

/-- Without a tally entry a request ends AUDIT_FULL, without its quorum QUORUM_REQUIRED. -/
theorem admin_refused (hfn : (BitVec.ofNat 16 fn).toNat = fn) (hmine : mine b = true) (hbody : ∀ v, row v b = withQuorum v e cs body (fun s => k s)) :
    (reserveAdmin s e b = none → Posts i s s e St.auditFull 0 []) ∧
    (reserveAdmin s e b = some v → (v.entry e).polPhase = .idle →
      quorumRun v e (ownRoster v) cs (Hash.sha384 (b.take body)) (b.drop body) = (false, w) → Posts i s w e St.quorumRequired 0 []) := by
  refine ⟨fun hfull => ?_, fun hreserved hidle hrun => ?_⟩
  · refine posts_of_exec hadmin.need (.inr ⟨.inr (.inr rfl), rfl⟩) ?_
    rw [hrow, runAdmin_full hadmin hfn hmine hfull]
  · obtain ⟨y, hy⟩ := reserveAdmin_entry hreserved
    have hinput : (v.entry e).input = some b := by rw [hy]; exact hadmin.input
    have hentry := quorumRun_entry v e (ownRoster v) cs (Hash.sha384 (b.take body)) (b.drop body) e
    rw [hrun] at hentry
    exact admin_posts hadmin hrow hfn hmine hreserved ((hbody v).trans (withQuorum_refused hidle hinput hrun)) (by rw [hentry])
      (.inr ⟨.inr (.inl rfl), rfl⟩)

end

theorem eraseSlot_entries (s : State) (idx : Nat) : (eraseSlot s idx).entries = s.entries := by
  have hcleared : (writeUnit (s.setSlot idx { high := (s.slotAt idx).high }) (.slot idx)).entries = s.entries := by
    unfold writeUnit
    split <;> rfl
  unfold eraseSlot
  dsimp only
  split
  · exact hcleared
  · exact hcleared

theorem foldl_eraseSlot_entries (l : List Nat) (s : State) : (l.foldl eraseSlot s).entries = s.entries :=
  List.foldlRecOn (motive := fun u : State => u.entries = s.entries) _ _ rfl (fun u hu k _ => (eraseSlot_entries u k).trans hu)

/-! ### PARTITION_CONFIGURE (R278) -/

/-- A PARTITION_CONFIGURE request with its tally entry and its quorum. -/
structure Configuring (s v w : State) (e : Nat) (b : Bytes) : Prop where
  admin : Administering s e 0xE001 b
  audited : reserveAdmin s e b = some v
  byte3 : byteAt b 3 = 0
  bytes22 : allZero (slice b 22 2) = true
  quorate : Quorate v e b [.dev 0] 32 w

section
variable {s v w : State} {e : Fin 69632} {dma : Dma} {b : Bytes} (h : Configuring s v w e b)
include h

theorem configure_posts {i : Instr} {mine : Byte → Bool} {act : State → Nat → Bytes → FnEnd} {u : State}
    (hrow : exec i s = runConfigure e dma s mine act) (hmine : mine (byteAt b 2) = true)
    (hact : act w (fieldLe b 0 2) b = endsOk u 0 []) (hneed : (u.entry e).polNeed = (w.entry e).polNeed) : Posts i s u e St.ok 0 [] := by
  have hzero : configReserved b = true := by
    unfold configReserved
    rw [h.byte3, h.bytes22]
    decide
  exact admin_quorate h.admin hrow (by decide) hmine h.audited h.quorate rfl ((check_pass hzero).trans hact) hneed (.inl rfl)

theorem configureSet_posts (hop : byteAt b 2 = 1) (hp : fieldLe b 0 2 < 2048) (hempty : (w.part (fieldLe b 0 2)).state = .empty)
    (hnew : (w.part (fieldLe b 0 2)).configured = false) (hfits : configFits w b = true) {u : State}
    (hstore : storeConfig w (fieldLe b 0 2) b = some u) : Posts (.partitionConfigureSet e dma) s u e St.ok 0 [] := by
  have hentries : u.entries = w.entries := by
    unfold storeConfig at hstore
    split at hstore
    · cases hstore
      rfl
    · cases hstore
  have hrow : exec (.partitionConfigureSet e dma) s = runConfigure e dma s (fun k => k != 2 && k != 3 && k != 4) (fun s p b =>
      check (byteAt b 2 == 1 && decide (p < 2048) && (s.part p).state == .empty && !(s.part p).configured && configFits s b) St.badFormat s
        (match storeConfig s p b with
        | some s => endsOk s 0 []
        | none => ends St.badFormat s)) := rfl
  refine configure_posts h hrow (by rw [hop]; decide) ?_ (by rw [entry_of_entries hentries])
  refine (check_pass ?_).trans ?_
  · simp [hop, hp, hempty, hnew, hfits]
  · rw [hstore]

theorem configurePurge_posts (hop : byteAt b 2 = 2) (hp : fieldLe b 0 2 < 2048) :
    Posts (.partitionConfigurePurgeSlots e dma) s ((slotsOf w (fieldLe b 0 2)).foldl eraseSlot w) e St.ok 0 [] := by
  have hrow : exec (.partitionConfigurePurgeSlots e dma) s = runConfigure e dma s (· == 2) (fun s p _ =>
      check (decide (p < 2048)) St.badFormat s (endsOk ((slotsOf s p).foldl eraseSlot s) 0 [])) := rfl
  exact configure_posts h hrow (by rw [hop]; decide) (check_pass (decide_eq_true hp)) (by rw [entry_of_entries (foldl_eraseSlot_entries _ _)])

theorem configureRemove_posts (hop : byteAt b 2 = 3) (hseen : w.seen.any (fun y => y.1 == BitVec.ofNat 64 (fieldLe b 24 8)) = true) :
    Posts (.partitionConfigureRemoveSeen e dma) s { w with seen := w.seen.filter (fun y => y.1 != BitVec.ofNat 64 (fieldLe b 24 8)) } e St.ok 0 [] := by
  have hrow : exec (.partitionConfigureRemoveSeen e dma) s = runConfigure e dma s (· == 3) (fun s _ b =>
      check (s.seen.any (fun x => x.1 == BitVec.ofNat 64 (fieldLe b 24 8))) St.badFormat s
        (endsOk { s with seen := s.seen.filter (fun x => x.1 != BitVec.ofNat 64 (fieldLe b 24 8)) } 0 [])) := rfl
  exact configure_posts h hrow (by rw [hop]; decide) (check_pass hseen) rfl

theorem configureQuota_posts (hop : byteAt b 2 = 4) (hp : fieldLe b 0 2 < 2048) (hstate : (w.part (fieldLe b 0 2)).state ≠ .empty)
    (hlow : 1 ≤ fieldLe b 4 4) (hhigh : fieldLe b 4 4 ≤ 65536) : Posts (.partitionConfigureChangeQuota e dma) s
      (w.setPart (fieldLe b 0 2) { w.part (fieldLe b 0 2) with quota := fieldLe b 4 4 }) e St.ok 0 [] := by
  have hrow : exec (.partitionConfigureChangeQuota e dma) s = runConfigure e dma s (· == 4) (fun s p b =>
      check (decide (p < 2048) && (s.part p).state != .empty && quotaOk (fieldLe b 4 4)) St.badFormat s
        (endsOk (s.modPart p (fun x => { x with quota := fieldLe b 4 4 })) 0 [])) := rfl
  have hquota : quotaOk (fieldLe b 4 4) = true := decide_eq_true ⟨hlow, hhigh⟩
  exact configure_posts h hrow (by rw [hop]; decide) (check_pass (by simp [hp, hstate, hquota])) rfl

end

/-- What a stored configuration says (R278). -/
theorem storeConfig_part {w u : State} {p : Nat} {b : Bytes} (h : storeConfig w p b = some u) :
    (u.part p).configured = true ∧ (u.part p).quota = fieldLe b 4 4 ∧ (u.part p).flowLimit = fieldLe b 8 2 ∧
    (u.part p).slotQuota = fieldLe b 10 2 ∧ (u.part p).n0 = fieldLe b 12 4 ∧ (u.part p).n1 = fieldLe b 16 4 ∧
    (u.part p).bucketQuota = fieldLe b 20 2 ∧ ∀ k, k ≠ p → u.part k = w.part k := by
  unfold storeConfig at h
  split at h
  · cases h
    rw [State.modPart, State.setPart_self]
    exact ⟨rfl, rfl, rfl, rfl, rfl, rfl, rfl, fun k hk => State.setPart_ne _ _ _ _ hk⟩
  · cases h

/-! ### PARTITION_ACTIVATE (R51, R279) -/

theorem makeActive_entries (s : State) (p : Nat) : (makeActive s p).entries = s.entries := movePart_entries _ _ _

theorem makeActive_part (s : State) (p : Nat) : (makeActive s p).part p =
    { s.part p with gen := if (s.part p).gen = 0 then 1 else (s.part p).gen, state := .active } := by
  unfold makeActive
  rw [movePart_part, State.modPart, State.setPart_self]

section
variable {s v w : State} {e : Fin 69632} {dma : Dma} {b : Bytes}

theorem partitionActivate_row : exec (.partitionActivate e dma) s = runAdmin 0xE004 e dma .first s (fun _ => true) (fun s b =>
    withQuorum s e [.dev 0] 2 (fun s =>
      check (decide (fieldLe b 0 2 < 2048) && (s.part (fieldLe b 0 2)).state == .empty && (s.part (fieldLe b 0 2)).configured &&
        !(s.part (fieldLe b 0 2)).emigrated) St.badFormat s (endsOk (makeActive s (fieldLe b 0 2)) 0 []))) := rfl

theorem partitionActivate_posts (hadmin : Administering s e 0xE004 b) (hreserved : reserveAdmin s e b = some v)
    (hquorate : Quorate v e b [.dev 0] 2 w) (hp : fieldLe b 0 2 < 2048) (hempty : (w.part (fieldLe b 0 2)).state = .empty)
    (hconfigured : (w.part (fieldLe b 0 2)).configured = true) (hstays : (w.part (fieldLe b 0 2)).emigrated = false) :
    Posts (.partitionActivate e dma) s (makeActive w (fieldLe b 0 2)) e St.ok 0 [] :=
  admin_quorate hadmin partitionActivate_row (by decide) rfl hreserved hquorate rfl
    (check_pass (by simp [hp, hempty, hconfigured, hstays])) (by rw [entry_of_entries (makeActive_entries _ _)]) (.inl rfl)

/-! ### Function split, decimalization tables, velocity policies (R58, R78, R88) -/

theorem fnSplitSet_row : exec (.fnSplitSet e dma) s = runAdmin 0xE010 e dma .first s (fun _ => true) (fun s b =>
    withQuorum s e [.part 1 (fieldLe b 0 2)] 3 (fun s => check ((byteAt b 2).getLsbD 0 == false) St.badFormat s
      (endsOk (s.modPart (fieldLe b 0 2) (fun x => { x with fnSplit := byteAt b 2 })) 0 []))) := rfl

theorem fnSplitSet_posts (hadmin : Administering s e 0xE010 b) (hreserved : reserveAdmin s e b = some v)
    (hquorate : Quorate v e b [.part 1 (fieldLe b 0 2)] 3 w) (hbit : (byteAt b 2).getLsbD 0 = false) :
    Posts (.fnSplitSet e dma) s (w.setPart (fieldLe b 0 2) { w.part (fieldLe b 0 2) with fnSplit := byteAt b 2 }) e St.ok 0 [] :=
  admin_quorate hadmin fnSplitSet_row (by decide) rfl hreserved hquorate rfl (check_pass (by rw [hbit]; decide)) rfl (.inl rfl)

/-- What DECTABLE_INSTALL does with its quorum (R88). -/
def installTable (b : Bytes) (s : State) : FnEnd :=
  let i := 8 * fieldLe b 0 2 + (byteAt b 2).toNat
  check (decide ((byteAt b 2).toNat < 8) && decide ((byteAt b 3).toNat ≤ 1)) St.badFormat s
    (if byteAt b 3 = 1 then endsOk { s with decTables := Map.set none s.decTables i none } 0 []
    else check (tableOk (slice b 4 8)) St.formatRule s
      (endsOk { s with decTables := Map.set none s.decTables i (some (BitVec.ofNat 64 (ofLe (slice b 4 8)))) } 0 []))

theorem installTable_install (hindex : (byteAt b 2).toNat < 8) (hinstall : byteAt b 3 = 0) : installTable b w = check (tableOk (slice b 4 8)) St.formatRule w
    (endsOk { w with
      decTables := Map.set none w.decTables (8 * fieldLe b 0 2 + (byteAt b 2).toNat) (some (BitVec.ofNat 64 (ofLe (slice b 4 8)))) } 0 []) :=
  (check_pass (by simp [hindex, hinstall])).trans (if_neg (by rw [hinstall]; decide))

theorem dectableInstall_row : exec (.dectableInstall e dma) s = runAdmin 0xE011 e dma .first s (fun _ => true) (fun s b =>
    withQuorum s e [.part 1 (fieldLe b 0 2)] 12 (installTable b)) := rfl

section
variable (hadmin : Administering s e 0xE011 b) (hreserved : reserveAdmin s e b = some v)
  (hquorate : Quorate v e b [.part 1 (fieldLe b 0 2)] 12 w) (hindex : (byteAt b 2).toNat < 8)
include hadmin hreserved hquorate hindex

theorem dectableInstall_removes (hremove : byteAt b 3 = 1) : Posts (.dectableInstall e dma) s
    { w with decTables := Map.set none w.decTables (8 * fieldLe b 0 2 + (byteAt b 2).toNat) none } e St.ok 0 [] := by
  have hact : installTable b w = endsOk { w with decTables := Map.set none w.decTables (8 * fieldLe b 0 2 + (byteAt b 2).toNat) none } 0 [] :=
    (check_pass (by simp [hindex, hremove])).trans (if_pos hremove)
  exact admin_quorate hadmin dectableInstall_row (by decide) rfl hreserved hquorate rfl hact rfl (.inl rfl)

theorem dectableInstall_installs (hinstall : byteAt b 3 = 0) (hok : tableOk (slice b 4 8) = true) : Posts (.dectableInstall e dma) s
    { w with decTables := Map.set none w.decTables (8 * fieldLe b 0 2 + (byteAt b 2).toNat) (some (BitVec.ofNat 64 (ofLe (slice b 4 8)))) }
    e St.ok 0 [] :=
  admin_quorate hadmin dectableInstall_row (by decide) rfl hreserved hquorate rfl
    ((installTable_install hindex hinstall).trans (check_pass hok)) rfl (.inl rfl)

theorem dectableInstall_refuses (hinstall : byteAt b 3 = 0) (hbad : tableOk (slice b 4 8) = false) :
    Posts (.dectableInstall e dma) s w e St.formatRule 0 [] :=
  admin_quorate hadmin dectableInstall_row (by decide) rfl hreserved hquorate rfl
    ((installTable_install hindex hinstall).trans (if_neg (by rw [hbad]; decide))) rfl (.inr ⟨.inl rfl, rfl⟩)

end

/-- The velocity policy in an input. -/
def velocityOf (b : Bytes) : VelPolicy := { on := true, cap := fieldLe b 4 4, rate := fieldLe b 8 4, init := fieldLe b 12 4 }

/-- What VELOCITY_POLICY_SET does with its quorum (R77, R78). -/
def setVelocity (b : Bytes) (s : State) : FnEnd :=
  check (decide ((byteAt b 2).toNat < 16) && byteAt b 3 == 0 && decide (oneToken ≤ fieldLe b 4 4 ∧ fieldLe b 4 4 ≤ 32767 * oneToken) &&
      decide (fieldLe b 12 4 ≤ fieldLe b 4 4)) St.badFormat s
    (endsOk { s with
      velPols := Map.set {} s.velPols (16 * fieldLe b 0 2 + (byteAt b 2).toNat) (velocityOf b) } 0 [])

theorem velocityPolicySet_row : exec (.velocityPolicySet e dma) s = runAdmin 0xE012 e dma .first s (fun _ => true) (fun s b =>
    withQuorum s e [.part 1 (fieldLe b 0 2)] 16 (setVelocity b)) := rfl

theorem velocityPolicySet_posts (hadmin : Administering s e 0xE012 b) (hreserved : reserveAdmin s e b = some v)
    (hquorate : Quorate v e b [.part 1 (fieldLe b 0 2)] 16 w) (hindex : (byteAt b 2).toNat < 16) (hzero : byteAt b 3 = 0)
    (hlow : 2 ^ 16 ≤ fieldLe b 4 4) (hhigh : fieldLe b 4 4 ≤ 32767 * 2 ^ 16) (hinit : fieldLe b 12 4 ≤ fieldLe b 4 4) :
    Posts (.velocityPolicySet e dma) s
      { w with velPols := Map.set {} w.velPols (16 * fieldLe b 0 2 + (byteAt b 2).toNat) (velocityOf b) } e St.ok 0 [] := by
  have hcap : oneToken ≤ fieldLe b 4 4 ∧ fieldLe b 4 4 ≤ 32767 * oneToken := ⟨hlow, hhigh⟩
  exact admin_quorate hadmin velocityPolicySet_row (by decide) rfl hreserved hquorate rfl
    (check_pass (by rw [hzero, decide_eq_true hindex, decide_eq_true hcap, decide_eq_true hinit]; decide)) rfl (.inl rfl)

/-! ### PARTITION_FREEZE (R25, R281, R288) -/

/-- A freeze or a reset of the partition that its input names goes on as `act` unless it waits for an earlier move (R288). -/
def moveBody (e : Nat) (act : State → Nat → Bytes → FnEnd) (s : State) (b : Bytes) : FnEnd :=
  check (decide (fieldLe b 0 2 < 2048)) St.badFormat s (if moveWaits s e (fieldLe b 0 2) then (.waits, s) else act s (fieldLe b 0 2) b)

theorem moveBody_waits {act : State → Nat → Bytes → FnEnd} (hp : fieldLe b 0 2 < 2048) (hwaits : moveWaits v e (fieldLe b 0 2) = true) :
    moveBody e act v b = (.waits, v) := (check_pass (decide_eq_true hp)).trans (if_pos hwaits)

theorem moveBody_goes {act : State → Nat → Bytes → FnEnd} (hp : fieldLe b 0 2 < 2048) (hgoes : moveWaits v e (fieldLe b 0 2) = false) :
    moveBody e act v b = act v (fieldLe b 0 2) b := (check_pass (decide_eq_true hp)).trans (if_neg (by rw [hgoes]; decide))

def drainAct (s : State) (p : Nat) (b : Bytes) : FnEnd :=
  check (byteAt b 2 == 0 && (s.part p).state == .active) St.badFormat s (endFreeze (movePart s p .quiescing) p)

def abortAct (s : State) (p : Nat) (_ : Bytes) : FnEnd :=
  check ((s.part p).state == .active) St.badFormat s (endFreeze (abortForFreeze (movePart s p .quiescing) p) p)

def thawAct (s : State) (p : Nat) (_ : Bytes) : FnEnd :=
  check ((s.part p).state == .frozen && !(s.part p).emigrated) St.badFormat s (endFreeze (makeActive s p) p)

theorem freezeDrain_row : exec (.partitionFreezeDrain e dma) s =
    runAdmin 0xE003 e dma .first s (fun b => byteAt b 2 != 1 && byteAt b 2 != 2) (moveBody e drainAct) := rfl

theorem freezeAbort_row : exec (.partitionFreezeAbort e dma) s =
    runAdmin 0xE003 e dma .first s (fun b => byteAt b 2 == 1) (moveBody e abortAct) := rfl

theorem freezeThaw_row : exec (.partitionFreezeThaw e dma) s =
    runAdmin 0xE003 e dma .first s (fun b => byteAt b 2 == 2) (moveBody e thawAct) := rfl

end

/-- A QUIESCING partition ends its freeze FROZEN once nothing of it is in flight. -/
theorem endFreeze_quiescing {s : State} {p : Nat} (h : (s.part p).state = .quiescing) : endFreeze s p =
    endsOk (if inFlight s (p + 1) = 0 then movePart s p .frozen else s) (if inFlight s (p + 1) = 0 then 3 else 2) [] := by
  unfold endFreeze
  by_cases hnone : inFlight s (p + 1) = 0
  · simp only [h, hnone, and_self, if_true, movePart_part]
    rfl
  · simp only [h, hnone, and_false, if_false]
    rfl

theorem endFreeze_active {s : State} {p : Nat} (h : (s.part p).state = .active) : endFreeze s p = endsOk s 1 [] := by
  have hstays : ¬ ((s.part p).state = .quiescing ∧ inFlight s (p + 1) = 0) := by simp [h]
  unfold endFreeze
  rw [if_neg hstays]
  dsimp only
  rw [h]
  rfl

theorem abortForFreeze_partsKept (s : State) (p : Nat) : PartsKept s (abortForFreeze s p) :=
  .after_foldl (fun _ _ hu => .after_endRequest hu) _ .refl

/-- An ending keeps whether a request needs the policy step. -/
theorem endRequest_polNeed (s : State) (k : Nat) (st : Status) (e : Nat) : ((endRequest s k st).entry e).polNeed = (s.entry e).polNeed := by
  by_cases hk : e = k
  · subst hk
    by_cases h : (s.entry e).state = .reserved ∧ (s.entry e).accepted = true
    · have hended : KeepsService ∅ s (bulkEnd (sealCut s e st) e).2.2 := .after_bulkEnd (.after_sealCut .refl)
      have hentry := hended.entry e (Set.notMem_empty e)
      unfold endRequest endRequestWith
      rw [if_pos h]
      obtain ⟨y, hy⟩ := stageEntry_entry _ e
      rw [hy, State.modEntry, State.setEntry_self, leaveReady_entry, if_pos rfl, hentry]
    · rw [endRequest_of_not_reserved h]
  · rw [(endRequest_keepsService s k st).entry e hk]

theorem abortForFreeze_polNeed (s : State) (p e : Nat) : ((abortForFreeze s p).entry e).polNeed = (s.entry e).polNeed :=
  List.foldlRecOn (motive := fun u : State => (u.entry e).polNeed = (s.entry e).polNeed) _ _ rfl
    (fun _ hu _ _ => (endRequest_polNeed _ _ _ _).trans hu)

/-- A freeze in abort mode ends each request of the partition that is underway, by whether it has been dispatched. -/
theorem abortForFreeze_ends {s : State} {p k : Nat} (hfunc : (s.entry k).func = p + 1) (hunderway : Underway (s.entry k)) :
    StagedWith (if (s.entry k).phase = .ready ∨ (s.entry k).phase = .waitSlot then St.partitionFrozen else St.aborted)
      ((abortForFreeze s p).entry k) := by
  have hmem : k ∈ entriesWhere s (fun x => x.func == p + 1 && x.accepted && x.state == .reserved) := by
    obtain ⟨hstate, haccepted⟩ := hunderway
    exact mem_entriesWhere (by simp) (by simp [hfunc, hstate, haccepted])
  refine foldl_reaches (e := k) (P := fun u : State => ∃ m, u.entry k = { s.entry k with tickets := m }) (Q := fun u : State => StagedWith _ (u.entry k))
    (fun u hu => ?_) (fun u j hj hu => ?_) (fun u j hu => endRequest_keepsStaged (fun _ _ hx => hx) hu.1 hu) hmem ⟨_, rfl⟩
  · obtain ⟨m, hm⟩ := hu
    rw [hm]
    exact endRequest_ends (by rw [hm]; exact hunderway)
  · obtain ⟨m, hm⟩ := hu
    exact ⟨_, by rw [(endRequest_keepsService u j _).entry k (Ne.symm hj), hm]⟩

section
variable {s v : State} {e : Fin 69632} {dma : Dma} {b : Bytes} (hadmin : Administering s e 0xE003 b) (hreserved : reserveAdmin s e b = some v)
  (hp : fieldLe b 0 2 < 2048)
include hadmin hreserved hp

theorem freeze_waits (hwaits : moveWaits v e (fieldLe b 0 2) = true) {i : Instr} {m : Byte}
    (hi : (i, m) ∈ [(Instr.partitionFreezeDrain e dma, 0), (.partitionFreezeAbort e dma, 1), (.partitionFreezeThaw e dma, 2)])
    (hm : byteAt b 2 = m) : exec i s = done v := by
  simp only [List.mem_cons, Prod.mk.injEq, List.not_mem_nil, or_false] at hi
  rcases hi with ⟨rfl, rfl⟩ | ⟨rfl, rfl⟩ | ⟨rfl, rfl⟩
  · exact admin_waits hadmin freezeDrain_row (by decide) (by rw [hm]; decide) hreserved (moveBody_waits hp hwaits)
  · exact admin_waits hadmin freezeAbort_row (by decide) (by rw [hm]; decide) hreserved (moveBody_waits hp hwaits)
  · exact admin_waits hadmin freezeThaw_row (by decide) (by rw [hm]; decide) hreserved (moveBody_waits hp hwaits)

variable (hgoes : moveWaits v e (fieldLe b 0 2) = false)
include hgoes

theorem freezeDrain_posts (hmode : byteAt b 2 = 0) (hactive : (v.part (fieldLe b 0 2)).state = .active) :
    Posts (.partitionFreezeDrain e dma) s
      (if inFlight v (fieldLe b 0 2 + 1) = 0 then movePart (movePart v (fieldLe b 0 2) .quiescing) (fieldLe b 0 2) .frozen
        else movePart v (fieldLe b 0 2) .quiescing) e St.ok (if inFlight v (fieldLe b 0 2 + 1) = 0 then 3 else 2) [] := by
  have hflight : inFlight (movePart v (fieldLe b 0 2) .quiescing) (fieldLe b 0 2 + 1) = inFlight v (fieldLe b 0 2 + 1) := by
    unfold inFlight
    rw [movePart_entries]
  have hact : drainAct v (fieldLe b 0 2) b = endFreeze (movePart v (fieldLe b 0 2) .quiescing) (fieldLe b 0 2) :=
    check_pass (by rw [hmode, hactive]; decide)
  rw [endFreeze_quiescing (by rw [movePart_part]), hflight] at hact
  refine admin_posts hadmin freezeDrain_row (by decide) (by rw [hmode]; decide) hreserved ((moveBody_goes hp hgoes).trans hact) ?_ (.inl rfl)
  split
  · rw [entry_of_entries (movePart_entries _ _ _), entry_of_entries (movePart_entries _ _ _)]
  · rw [entry_of_entries (movePart_entries _ _ _)]

theorem freezeAbort_posts (hmode : byteAt b 2 = 1) (hactive : (v.part (fieldLe b 0 2)).state = .active) {a : State}
    (ha : a = abortForFreeze (movePart v (fieldLe b 0 2) .quiescing) (fieldLe b 0 2)) :
    Posts (.partitionFreezeAbort e dma) s (if inFlight a (fieldLe b 0 2 + 1) = 0 then movePart a (fieldLe b 0 2) .frozen else a) e St.ok
      (if inFlight a (fieldLe b 0 2 + 1) = 0 then 3 else 2) [] := by
  have hneed : (a.entry e).polNeed = (v.entry e).polNeed := by
    rw [ha, abortForFreeze_polNeed, entry_of_entries (movePart_entries _ _ _)]
  have hquiescing : (a.part (fieldLe b 0 2)).state = .quiescing := by
    obtain ⟨_, _, hpart⟩ := abortForFreeze_partsKept (movePart v (fieldLe b 0 2) .quiescing) (fieldLe b 0 2) (fieldLe b 0 2)
    rw [ha, hpart, movePart_part]
  have hact : abortAct v (fieldLe b 0 2) b = endFreeze a (fieldLe b 0 2) := by
    rw [ha]
    exact check_pass (by rw [hactive]; decide)
  rw [endFreeze_quiescing hquiescing] at hact
  refine admin_posts hadmin freezeAbort_row (by decide) (by rw [hmode]; decide) hreserved ((moveBody_goes hp hgoes).trans hact) ?_ (.inl rfl)
  split
  · rw [entry_of_entries (movePart_entries _ _ _), hneed]
  · exact hneed

theorem freezeThaw_posts (hmode : byteAt b 2 = 2) (hfrozen : (v.part (fieldLe b 0 2)).state = .frozen)
    (hstays : (v.part (fieldLe b 0 2)).emigrated = false) : Posts (.partitionFreezeThaw e dma) s (makeActive v (fieldLe b 0 2)) e St.ok 1 [] := by
  have hact : thawAct v (fieldLe b 0 2) b = endFreeze (makeActive v (fieldLe b 0 2)) (fieldLe b 0 2) :=
    check_pass (by rw [hfrozen, hstays]; decide)
  rw [endFreeze_active (by rw [makeActive_part])] at hact
  exact admin_posts hadmin freezeThaw_row (by decide) (by rw [hmode]; decide) hreserved ((moveBody_goes hp hgoes).trans hact)
    (by rw [entry_of_entries (makeActive_entries _ _)]) (.inl rfl)

end

/-! ### PARTITION_RESET (R280, R288) -/

theorem awaitIncrement_waits (s : State) (p e : Nat) : awaitIncrement s p e =
    (.waits, tryIncrement (s.modPart p (fun z => { z with resetEntry := some e })) p) := rfl

def restartAct (e : Nat) (s : State) (p : Nat) (b : Bytes) : FnEnd :=
  check (byteAt b 2 == 0 && !(s.part p).emigrated && ((s.part p).state == .active || (s.part p).state == .quiescing || (s.part p).state == .frozen))
    St.badFormat s (awaitIncrement (beginReset s p) p e)

def releaseAct (e : Nat) (s : State) (p : Nat) (_ : Bytes) : FnEnd :=
  check (((s.part p).state != .empty || (s.part p).emigrated) &&
      ((s.part p).emigrated && !(s.entry e).preSeal.contains p || (slotsOf s p).isEmpty)) St.badFormat s
    (awaitIncrement ((if (s.part p).state = .resetting then s.modPart p (fun y => { y with incPending := y.incPending + 1 }) else beginReset s p).modPart p
      (fun y => { y with releasing := true })) p e)

section
variable {s v : State} {e : Fin 69632} {dma : Dma} {b : Bytes} (hadmin : Administering s e 0xE002 b) (hreserved : reserveAdmin s e b = some v)
  (hp : fieldLe b 0 2 < 2048) (hfree : s.parts.any (fun z => z.2.resetEntry == some e.val) = false)

include hfree in
theorem resetRestart_row : exec (.partitionResetRestart e dma) s =
    runAdmin 0xE002 e dma .first s (fun b => byteAt b 2 != 1) (moveBody e (restartAct e)) := if_neg (by rw [hfree]; decide)

include hfree in
theorem resetRelease_row : exec (.partitionResetRelease e dma) s =
    runAdmin 0xE002 e dma .first s (fun b => byteAt b 2 == 1) (moveBody e (releaseAct e)) := if_neg (by rw [hfree]; decide)

include hadmin hreserved hp hfree

theorem reset_waits (hwaits : moveWaits v e (fieldLe b 0 2) = true) {i : Instr} {m : Byte}
    (hi : (i, m) ∈ [(Instr.partitionResetRestart e dma, 0), (.partitionResetRelease e dma, 1)]) (hm : byteAt b 2 = m) : exec i s = done v := by
  simp only [List.mem_cons, Prod.mk.injEq, List.not_mem_nil, or_false] at hi
  rcases hi with ⟨rfl, rfl⟩ | ⟨rfl, rfl⟩
  · exact admin_waits hadmin (resetRestart_row hfree) (by decide) (by rw [hm]; decide) hreserved (moveBody_waits hp hwaits)
  · exact admin_waits hadmin (resetRelease_row hfree) (by decide) (by rw [hm]; decide) hreserved (moveBody_waits hp hwaits)

variable (hgoes : moveWaits v e (fieldLe b 0 2) = false)
include hgoes

theorem resetRestart_begins (hmode : byteAt b 2 = 0) (hstays : (v.part (fieldLe b 0 2)).emigrated = false)
    (hstate : (v.part (fieldLe b 0 2)).state = .active ∨ (v.part (fieldLe b 0 2)).state = .quiescing ∨ (v.part (fieldLe b 0 2)).state = .frozen) :
    exec (.partitionResetRestart e dma) s = done (tryIncrement ((beginReset v (fieldLe b 0 2)).modPart (fieldLe b 0 2)
      (fun z => { z with resetEntry := some e.val })) (fieldLe b 0 2)) := by
  have hact : restartAct e v (fieldLe b 0 2) b = awaitIncrement (beginReset v (fieldLe b 0 2)) (fieldLe b 0 2) e := by
    refine check_pass ?_
    rw [hmode, hstays]
    rcases hstate with h | h | h <;> rw [h] <;> decide
  exact admin_waits hadmin (resetRestart_row hfree) (by decide) (by rw [hmode]; decide) hreserved
    ((moveBody_goes hp hgoes).trans (hact.trans (awaitIncrement_waits _ _ _)))

theorem resetRelease_begins (hmode : byteAt b 2 = 1) (hstate : (v.part (fieldLe b 0 2)).state ≠ .empty ∨ (v.part (fieldLe b 0 2)).emigrated = true)
    (hslots : ((v.part (fieldLe b 0 2)).emigrated = true ∧ (v.entry e).preSeal.contains (fieldLe b 0 2) = false) ∨ slotsOf v (fieldLe b 0 2) = []) :
    exec (.partitionResetRelease e dma) s = done (tryIncrement (((if (v.part (fieldLe b 0 2)).state = .resetting
      then v.modPart (fieldLe b 0 2) (fun z => { z with incPending := z.incPending + 1 }) else beginReset v (fieldLe b 0 2)).modPart (fieldLe b 0 2)
        (fun z => { z with releasing := true })).modPart (fieldLe b 0 2) (fun z => { z with resetEntry := some e.val })) (fieldLe b 0 2)) := by
  have hcan : ((v.part (fieldLe b 0 2)).state != .empty || (v.part (fieldLe b 0 2)).emigrated) = true := by simpa using hstate
  have hgone : ((v.part (fieldLe b 0 2)).emigrated && !(v.entry e).preSeal.contains (fieldLe b 0 2) || (slotsOf v (fieldLe b 0 2)).isEmpty) = true := by
    simpa using hslots
  have hact : releaseAct e v (fieldLe b 0 2) b = awaitIncrement ((if (v.part (fieldLe b 0 2)).state = .resetting
      then v.modPart (fieldLe b 0 2) (fun z => { z with incPending := z.incPending + 1 }) else beginReset v (fieldLe b 0 2)).modPart (fieldLe b 0 2)
        (fun z => { z with releasing := true })) (fieldLe b 0 2) e := check_pass (by rw [hcan, hgone]; rfl)
  exact admin_waits hadmin (resetRelease_row hfree) (by decide) (by rw [hmode]; decide) hreserved
    ((moveBody_goes hp hgoes).trans (hact.trans (awaitIncrement_waits _ _ _)))

end

/-- Settles O30: each row by the equation of its steps, with the quorum and the post of an administrative request as rules of their own. -/
theorem partitionAdministration : Obligations.PartitionAdministration := by
  unfold Obligations.PartitionAdministration
  refine ⟨fun used total n c hfound hn => findRun_free hfound hn, fun s v w e dma b => ?_⟩
  intro p x act
  have hconfiguring : act → Configuring s v w e b := fun ⟨hadmin, haudited, h3, h22, hquorate⟩ => ⟨hadmin, haudited, h3, h22, hquorate⟩
  refine ⟨fun h hop hp hempty hnew hfits hsome => ?set, fun h hop hp => configurePurge_posts (hconfiguring h) hop hp,
    fun h hop hseen => configureRemove_posts (hconfiguring h) hop hseen,
    fun h hop hp hstate hlow hhigh => configureQuota_posts (hconfiguring h) hop hp hstate hlow hhigh,
    fun hadmin hreserved hquorate hp hempty hconfigured hstays =>
      ⟨partitionActivate_posts hadmin hreserved hquorate hp hempty hconfigured hstays, makeActive_part _ _⟩,
    fun hadmin hreserved hp => ?freeze, fun hadmin hreserved hp hfree => ?reset,
    fun hadmin hreserved hquorate hbit => fnSplitSet_posts hadmin hreserved hquorate hbit,
    fun hadmin hreserved hquorate hindex => ?dectable,
    fun hadmin hreserved hquorate hindex hzero hlow hhigh hinit =>
      velocityPolicySet_posts hadmin hreserved hquorate hindex hzero hlow hhigh hinit,
    fun i fn body cs hi hadmin => ?refused⟩
  case set =>
    obtain ⟨u, hstore⟩ := Option.isSome_iff_exists.mp hsome
    exact ⟨u, hstore, configureSet_posts (hconfiguring h) hop hp hempty hnew hfits hstore, storeConfig_part hstore⟩
  case freeze =>
    refine ⟨fun hwaits i m hi hm => freeze_waits hadmin hreserved hp hwaits hi hm, fun hgoes => ⟨fun hmode hactive hflight => ?_,
      fun hmode hactive hflight => ?_, fun hmode hactive => ⟨freezeAbort_posts hadmin hreserved hp hgoes hmode hactive rfl,
      fun k hfunc haccepted hreservedK => ?_⟩, fun hmode hfrozen hstays => freezeThaw_posts hadmin hreserved hp hgoes hmode hfrozen hstays⟩⟩
    · have hposts := freezeDrain_posts (dma := dma) hadmin hreserved hp hgoes hmode hactive
      rw [if_neg hflight, if_neg hflight] at hposts
      exact hposts
    · have hposts := freezeDrain_posts (dma := dma) hadmin hreserved hp hgoes hmode hactive
      rw [if_pos hflight, if_pos hflight] at hposts
      exact hposts
    · have hsame : (movePart v p .quiescing).entry k = v.entry k := entry_of_entries (movePart_entries _ _ _) k
      have hends := abortForFreeze_ends (s := movePart v p .quiescing) (p := p) (k := k) (by rw [hsame]; exact hfunc)
        (by rw [hsame]; exact ⟨hreservedK, haccepted⟩)
      rw [hsame] at hends
      exact hends
  case reset =>
    exact ⟨fun hwaits i m hi hm => reset_waits hadmin hreserved hp hfree hwaits hi hm, fun hgoes =>
      ⟨fun hmode hstays hstate => resetRestart_begins hadmin hreserved hp hfree hgoes hmode hstays hstate,
        fun hmode hstate hslots => resetRelease_begins hadmin hreserved hp hfree hgoes hmode hstate hslots⟩⟩
  case dectable =>
    exact ⟨fun hremove => dectableInstall_removes hadmin hreserved hquorate hindex hremove,
      fun hinstall hok => dectableInstall_installs hadmin hreserved hquorate hindex hinstall hok,
      fun hinstall hbad => dectableInstall_refuses hadmin hreserved hquorate hindex hinstall hbad⟩
  case refused =>
    simp only [List.mem_cons, Prod.mk.injEq, List.not_mem_nil, or_false] at hi
    rcases hi with ⟨rfl, rfl, rfl, rfl⟩ | ⟨rfl, rfl, rfl, rfl⟩ | ⟨rfl, rfl, rfl, rfl⟩ | ⟨rfl, rfl, rfl, rfl⟩
    · exact admin_refused hadmin partitionActivate_row (by decide) rfl (fun _ => rfl)
    · exact admin_refused hadmin fnSplitSet_row (by decide) rfl (fun _ => rfl)
    · exact admin_refused hadmin dectableInstall_row (by decide) rfl (fun _ => rfl)
    · exact admin_refused hadmin velocityPolicySet_row (by decide) rfl (fun _ => rfl)

end Sys2Proof.Machine
end


section
/-! Proofs: four statements about functions with output that a request of the PF refutes (O25, O27, O28, O29). `Drafts` has the first 96 bytes of an
output in the request's entry. Of a PF request whose output has an area of warden working memory, the entry holds none of it (R256, log 108), and
`Computing` does not ask that the request is a VF's. -/

namespace Sys2Proof.Machine

open Sys2Proof Sys2Proof.Bits

/-! ### A PF request with an area of warden working memory -/

/-- The areas of the first 4 KiB of working memory are open to the wardens where no gate is configured (R343). -/
theorem gateAllows_workMemory {s : State} (hgates : s.gates = []) {a : Nat} (hlow : 0x1344000000 ≤ a) (hhigh : a < 0x1344001000) :
    gateAllows s .warden a true = true := by
  have hwindow : gateOf a = some (fieldGate 1 0x100, true) := by
    unfold gateOf hbmWindow inRange hbmBase
    simp only [Bool.or_eq_true, decide_eq_true_eq]
    repeat rw [if_neg (by omega)]
    rw [if_pos (by omega)]
  have hfield : fieldOf a = none := by
    unfold fieldOf inRange
    simp only [decide_eq_true_eq]
    rw [if_neg (by omega), if_neg (by omega)]
  have hpage : isGatePage a = false := by
    unfold isGatePage inRange
    rw [hfield, Bool.or_false, decide_eq_false_iff_not]
    omega
  have hfree : fixedDenied s .warden a true = false := by
    have hbeyond : ∀ lo hi, hi < 0x1344000000 → inRange a lo hi = false := fun lo hi hend => decide_eq_false (by omega)
    unfold fixedDenied
    rw [hfield]
    simp [hbeyond, scrPage, keepPage]
  have hhole : inHbmHole a = false := by
    simp [inHbmHole, hbmWindow, inHbm, inHbm.hbmEnd0, inRange, hbmBase]
    omega
  have hgate : s.gate (fieldGate 1 0x100) = {} := by
    unfold State.gate
    rw [hgates]
    rfl
  unfold gateAllows
  rw [hfree, hhole, hpage, hwindow]
  simp only [Bool.or_false, Bool.false_eq_true, if_false, hgate]
  simp [rangeHits, unmatchedAllows, defaultAllows, inHbm, inHbm.hbmEnd0, inRange, hbmBase]
  omega

/-- Request 0 of the PF at the operand step of function fn, with its input, its keys held and its policy step passed; the random chain runs, and its
output has the first area. -/
def pfOperands (fn cap : Nat) (b : Bytes) (ks : List Key) : State := { State.reset with
  win := { state := .run, drbg := [(0, { serving := true })] }
  entries := [(0, {
    state := .reserved
    phase := .running
    area := some 0
    desc := { fn := BitVec.ofNat 16 fn, outCap := cap }
    input := some b
    held := (List.range ks.length).zip ks
    snap := some (0, false)
    polPhase := .answered })] }

theorem pfOperands_computing {fn cap : Nat} {b : Bytes} {ks : List Key} (hcap : cap ≤ 0x1000) :
    Computing (pfOperands fn cap b ks) 0 fn b ks where
  running := rfl
  reserved := rfl
  code := rfl
  input := rfl
  keys := rfl
  snap := rfl
  passed := .inl ⟨rfl, rfl⟩
  link := rfl
  sound := rfl
  reads := rfl
  staging := fun d base hplace a hlow hhigh => by
    cases hplace
    have hend : a < 0x1344000000 + cap := hhigh
    exact gateAllows_workMemory rfl hlow (by omega)

/-- The outcome of a step leaves nothing of an output in entry 0. -/
def entryBare : Host.Outcome State Fault Refusal → Bool
  | .next t => (t.entry 0).out.isEmpty
  | _ => false

/-- A draft whose output fits and starts with a byte other than 0 among its first 96 leaves that byte in the entry of its request. -/
theorem not_drafts_of_entryBare {i : Instr} {s u : State} {st : Status} {r : BitVec 64} {out : Bytes} (hbare : entryBare (exec i s) = true)
    (hfits : out.length ≤ (s.entry 0).desc.outCap) {k : Nat} (hk : k < 96) (hbyte : out.getD k 0 ≠ 0) : ¬ Drafts i s u 0 st r out := by
  rintro ⟨t, hexec, -, -, -, -, -, -, -, -, hout⟩
  rw [hexec] at hbare
  have hnone : (t.entry 0).out = [] := List.isEmpty_iff.mp hbare
  have hget := hout k
  rw [hnone, if_pos ⟨decide_eq_true hfits, .inr hk⟩] at hget
  exact hbyte hget.symm

/-! ### PIN translation (R85) -/

/-- A two-key TDES key. -/
def pfTdesKey : Key := { alg := Alg.tdes2, bytes := (List.range 16).map (fun k => BitVec.ofNat 8 (7 * k + 1)) }

/-- The operands of a PIN translation from format 1 to format 0: the block of PIN 1234 under `pfTdesKey`, and a PAN of twelve zeros. -/
def pfPinInput : Bytes := [0x64, 0xC8, 0x35, 0xB4, 0xB6, 0xBC, 0x96, 0x0F] ++ zeros 24 ++ [1, 0]

/-- Refutes O25: of the translated PIN block of a PF request with an area (R256) nothing stands in the request's entry. -/
theorem not_pinFunctions : ¬ Obligations.PinFunctions := by
  unfold Obligations.PinFunctions
  intro h
  obtain ⟨htranslate, -⟩ := h (pfOperands 0x1001 8 pfPinInput [pfTdesKey, pfTdesKey]) 0 .ok pfPinInput pfTdesKey pfTdesKey
  have hpin : Pay.pinOf 1 pfTdesKey.alg pfTdesKey.bytes (pfPinInput.take 16) (slice pfPinInput 16 16) = some [1, 2, 3, 4] := by decide +kernel
  obtain ⟨-, hgives⟩ := htranslate (pfOperands_computing (by decide)) ⟨fun _ => by decide, fun _ h => absurd h (by decide), fun _ => by decide⟩
  exact not_drafts_of_entryBare (by decide +kernel) (by decide +kernel) (k := 0) (by decide) (by decide +kernel) ((hgives _ hpin).1 (by decide))

/-! ### Key-block export (R99) -/

/-- An AES key, as KBPK and as the key of a block. -/
def pfAesKey : Key := { alg := Alg.aes128, exp := chr 'E', usage := use2 "P0", mode := chr 'B', bytes := (List.range 16).map (BitVec.ofNat 8) }

/-- The operands of a KEYBLOCK_EXPORT: no flag, key version "00", exportability E. -/
def pfExportInput : Bytes := [0, 0x30, 0x30, chr 'E']

/-- Refutes O27: of the key block that a PF request with an area (R256) exports nothing stands in the request's entry. -/
theorem not_keyFunctions : ¬ Obligations.KeyFunctions := by
  unfold Obligations.KeyFunctions
  intro h
  obtain ⟨-, -, -, hexport, -⟩ := h (pfOperands 0x4002 112 pfExportInput [pfAesKey, pfAesKey]) 0 .ok pfExportInput pfAesKey pfAesKey
  obtain ⟨hgives, -⟩ := hexport (pfOperands_computing (by decide)) (.inl (by decide)) (by decide)
  exact not_drafts_of_entryBare (by decide +kernel) (by decide +kernel) (k := 0) (by decide) (by decide +kernel)
    (hgives (by decide) (by decide +kernel))

/-! ### RSA signature (R100, R102) -/

/-- An RSA key of 512 bits in the stored form of R201. -/
def pfRsaKey : Key where
  alg := Alg.rsa
  bytes :=
    let p := 0xc769e467758ad77b730ca55df013ef3e29e2bd15677735204ea8b5757c879a99
    let q := 0xf2507f1c88b8255c324e2cc4807cfc999d66062d9ee1fa2c56cc0c9070ef8f23
    wordForm 8 (p * q) ++ wordForm 1 65537 ++ wordForm 4 p ++ wordForm 4 q ++
      wordForm 4 0x502709fd63cb88cd3ff3274cd8c0ca7aec0f0cfd5b7718cd8190624f74dc7491 ++
      wordForm 4 0xc08c40857f0abcfd472821a0bfed11984b9f9fb72eb2a8e604cebe092504e77b ++
      wordForm 4 0x823ec5274ddc687c7c48b0b17397253b948790852e3aea170978b5dfbc01bd8b

/-- The operands of an RSA_SIGN: PKCS #1 v1.5 with SHA-256, of a message of one byte. -/
def pfSignInput : Bytes := [1, 1, 0, 0, 0xAB]

/-- Refutes O28: of the RSA signature of a PF request with an area (R256) nothing stands in the request's entry. -/
theorem not_asymmetricFunctions : ¬ Obligations.AsymmetricFunctions := by
  unfold Obligations.AsymmetricFunctions
  intro h
  obtain ⟨hrsa, -⟩ := h (pfOperands 0x5001 64 pfSignInput [pfRsaKey]) 0 .ok pfSignInput pfRsaKey
  obtain ⟨hsign, -⟩ := hrsa .sha256 (Hash.hash .sha256 [0xAB]) (by decide) (by decide) (by decide)
  obtain ⟨hgives, -⟩ := hsign (pfOperands_computing (by decide)) (by decide +kernel)
  have hsig : (rsaSignDigest pfRsaKey.bytes .sha256 false (Hash.hash .sha256 [0xAB]) []).any
    (fun sig => decide (sig.length ≤ 64) && sig.getD 0 0 != 0) = true := by decide +kernel
  obtain ⟨sig, hsome, hsized⟩ := (Option.any_eq_true _ _).mp hsig
  simp only [Bool.and_eq_true, decide_eq_true_eq, bne_iff_ne] at hsized
  obtain ⟨hlength, hbyte⟩ := hsized
  exact not_drafts_of_entryBare (by decide +kernel) hlength (k := 0) (by decide) hbyte (hgives sig (by decide) hsome)

/-! ### Hash (R105) -/

/-- The operands of a HASH: SHA-256 of a message of one byte. -/
def pfHashInput : Bytes := [1, 0, 0, 0, 0xAB]

/-- Refutes O29: of the digest of a PF request with an area (R256) nothing stands in the request's entry. -/
theorem not_bulkRandomAndHashFunctions : ¬ Obligations.BulkRandomAndHashFunctions := by
  unfold Obligations.BulkRandomAndHashFunctions
  rintro ⟨-, h⟩
  obtain ⟨-, -, hgives, -⟩ := h (pfOperands 0x7002 32 pfHashInput []) 0 .ok pfHashInput {} .sha256
  exact not_drafts_of_entryBare (by decide +kernel) (by decide +kernel) (k := 0) (by decide) (by decide +kernel)
    (hgives (pfOperands_computing (by decide)) (.inl (by decide)) (by decide) (by decide))

end Sys2Proof.Machine
end


section
/-! Proofs: the rows of functions with one key whose draft has no output, and the MAC and card functions (O26). -/

namespace Sys2Proof.Machine

open Sys2Proof Sys2Proof.Bits

/-! ### A row at its operand step (R62, R66 to R68, R143) -/

/-- A sound unit is read without a trace. -/
theorem readUnit_of_good {s : State} {c : ArrayCell} (h : (readUnit s c).1 = .good) : readUnit s c = (.good, s) := by
  unfold readUnit at h ⊢
  split
  · rfl
  · next hflips =>
    rw [if_neg hflips] at h
    split <;> simp_all

/-- The lead of a request that waited goes on. -/
def leadOn (s : State) (x : Entry) : State := if x.group.contains x.lead then waitOn s x.lead .none else s

theorem leadOn_only (s : State) (x : Entry) : leadOn s x = { s with cores := (leadOn s x).cores } := by
  unfold leadOn
  split <;> rfl

theorem leadOn_entry (s : State) (x : Entry) (k : Nat) : (leadOn s x).entry k = s.entry k := by
  rw [leadOn_only]
  rfl

theorem leadOn_core (s : State) (x : Entry) (c : Nat) : (leadOn s x).core c = { s.core c with wait := ((leadOn s x).core c).wait } := by
  unfold leadOn
  split
  · rw [waitOn, State.modCore]
    by_cases hlead : c = x.lead
    · rw [hlead, State.setCore_self]
    · rw [State.setCore_ne _ _ _ _ hlead]
  · rfl

/-- Only the request's entry and the wait of its lead differ once a row has changed the entry. -/
theorem onlyRequest_leadOn {s : State} {e : Nat} {y x : Entry} : OnlyRequest s (leadOn (s.setEntry e y) x).drive e := by
  refine ⟨?_, fun k hk => ?_, fun c => leadOn_core (s.setEntry e y) x c⟩
  · rw [leadOn_only]
    rfl
  · rw [State.drive_entry', leadOn_entry, State.setEntry_ne _ _ _ _ hk]

section
variable {s u : State} {e fn : Nat} {b : Bytes} {ks : List Key} (hc : Computing s e fn b ks)
include hc

/-- A row whose steps end in a draft puts the draft, and its lead goes on. -/
theorem Computing.runFn_ended {body : State → FnEnd} {d : Draft} (hbody : body s = (.ended d, u)) :
    runFn fn e s body = done (leadOn (putDraft u e d) (s.entry e)) := by
  have hgo : ¬ ((s.entry e).phase ≠ .running ∨ (s.entry e).state ≠ .reserved ∨ (s.entry e).desc.fn ≠ BitVec.ofNat 16 fn ∨
      linkWaits s (s.entry e).die = true) := by
    simp [hc.running, hc.reserved, hc.code, hc.link]
  unfold runFn
  refine (if_neg hgo).trans ?_
  rw [readUnit_of_good hc.sound]
  dsimp only
  rw [hc.reads]
  dsimp only
  rw [hbody]
  rfl

/-- A row that ends without output, and has changed nothing on its way, drafts its status and its result word. -/
theorem Computing.drafts {i : Instr} {body : State → FnEnd} {st : Status} {r : BitVec 64} (hrow : exec i s = runFn fn e s body)
    (hbody : body s = (.ended { status := st, result := r }, s)) : Drafts i s s e st r [] := by
  have hexec := hrow.trans (hc.runFn_ended hbody)
  rw [putDraft_noOutput, State.modEntry] at hexec
  have hbeyond : stageBeyond s (s.entry e) 0 [] = s := stageBeyond_inline (Nat.zero_le _)
  refine runs_of_exec hexec ?_
  rw [hbeyond, State.drive_entry', leadOn_entry, State.setEntry_self]
  exact ⟨onlyRequest_leadOn, rfl, hc.reserved, rfl, rfl, rfl, rfl, by simp [drafted], fun k => by simp [drafted]⟩

end

/-- A function with the key of handle 0 goes from its input through the key step and the policy step to its operands. -/
theorem Computing.steps {s : State} {e fn : Nat} {dma : Dma} {b : Bytes} {k0 : Key} {u : Bytes → KeyUse}
    {k : State → Bytes → List Key → FnEnd} (hc : Computing s e fn b [k0]) (hu : (u b).pos = 0) :
    withInput s e dma (fun s b => keyStep s e [u b] (fun s ks => policyStep s e [0] true (fun s => k s b ks))) = k s b [k0] := by
  have htake : takeInput s e dma = some (b, s) := by
    unfold takeInput
    dsimp only
    rw [hc.input]
  have hheld : (s.entry e).held.find? (fun h => h.1 == (u b).pos) = some (0, k0) := by
    rw [hc.keys, hu]
    rfl
  have hlatched : latchSnap s e = s := by
    obtain ⟨snap, hsnap⟩ := Option.isSome_iff_exists.mp hc.snap
    unfold latchSnap
    rw [hsnap]
  have hpolicy : (s.entry e).polPhase = .answered ∧ (s.entry e).polResult = St.ok := hc.passed.resolve_right (by simp)
  unfold withInput
  rw [htake]
  dsimp only
  rw [keyStep, oneKey, hheld]
  dsimp only
  rw [keyStep, hlatched, policyStep]
  dsimp only
  rw [hpolicy.1, hpolicy.2]
  exact if_pos rfl

theorem check_fail {ok : Bool} {st : Status} {s : State} {k : FnEnd} (h : ok = false) : check ok st s k = ends st s := by
  rw [h]
  rfl

/-- A last check decides between two statuses of a draft without a result. -/
theorem check_verdict {ok : Bool} {p : Prop} [Decidable p] {st : Status} {s : State} (h : ok = true ↔ p) :
    check ok st s (endsOk s 0 []) = (.ended { status := if p then St.ok else st, result := 0 }, s) := by
  by_cases hp : p
  · rw [check_pass (h.mpr hp), if_pos hp]
    rfl
  · rw [check_fail (Bool.eq_false_iff.mpr (fun hok => hp (h.mp hok))), if_neg hp]
    rfl

/-! ### MAC functions (R89, R90, R92) -/

section
variable (dukpt verify : Bool) (s : State) (e : Nat) (b : Bytes) (k0 : Key)

/-- Byte at which the message of a MAC function, or the MAC to verify, stands. -/
def macAt : Nat := if dukpt then 20 else 4

/-- The message of a MAC function. -/
def macMessage : Bytes := b.drop (if verify then macAt dukpt + 8 else macAt dukpt)

/-- The key of a MAC function. -/
def macKey : Bytes :=
  if dukpt then Pay.working k0.alg k0.bytes (slice b 4 12) (if (byteAt b 3).toNat = 0 then .macRequest else .macResponse) (byteAt b 16).toNat
  else k0.bytes

/-- The leftmost bytes of the MAC of a message (R90). -/
def macTag (key msg : Bytes) : Bytes :=
  (Pay.mac (byteAt b 0).toNat (Pay.cipherOf k0.alg) key (if (byteAt b 0).toNat = 6 ∨ assisted s e then msg
    else Pay.pad (byteAt b 1).toNat (Cipher.blockLen (Pay.cipherOf k0.alg)) msg)).take (byteAt b 2).toNat

/-- Length, method and padding of a MAC function are in their ranges. -/
def MacShape (msg : Bytes) : Prop :=
  4 ≤ (byteAt b 2).toNat ∧ (byteAt b 2).toNat ≤ 8 ∧
    (if (byteAt b 0).toNat = 6 then (byteAt b 1).toNat = 0 else (byteAt b 1).toNat = 1 ∨ (byteAt b 1).toNat = 2) ∧
    (assisted s e = true → (byteAt b 0).toNat ≠ 6 → Pay.paddedOk (byteAt b 1).toNat (Cipher.blockLen (Pay.cipherOf k0.alg)) msg = true)

/-- The other operands of a MAC function: direction 0 without DUKPT, else the direction, the KSN and the variant (R91, R92). -/
def MacOperands : Prop :=
  if dukpt then (byteAt b 3).toNat ≤ 1 ∧ allZero (slice b 17 3) = true ∧ (byteAt b 0).toNat = (if Alg.isAes k0.alg then 6 else 3) ∧
    Pay.ksnOk k0.alg (slice b 4 12) (byteAt b 16).toNat = true
  else (byteAt b 3).toNat = 0

end

section
variable {dukpt verify : Bool} {s : State} {e fn : Nat} {dma : Dma} {b : Bytes} {k0 : Key} (hc : Computing s e fn b [k0])
  (hshape : MacShape s e b k0 (macMessage dukpt verify b)) (hoperands : MacOperands dukpt b k0)
include hc hshape hoperands

/-- A MAC function whose operands are in their ranges comes to its tag. -/
theorem macFn_tag (hfield : verify = true → allZero ((slice b (macAt dukpt) 8).drop (byteAt b 2).toNat) = true) :
    macFn dukpt verify e dma s =
      let t := macTag s e b k0 (macKey dukpt b k0) (macMessage dukpt verify b)
      if verify then check (t == (slice b (macAt dukpt) 8).take (byteAt b 2).toNat) St.macMismatch s (endsOk s 0 []) else endsOk s (resultOf t) [] := by
  obtain ⟨hlow, hhigh, hmethod, hpadded⟩ := hshape
  unfold macFn
  refine (hc.steps ?pos).trans ?_
  case pos => cases dukpt <;> rfl
  refine (check_pass (decide_eq_true ⟨hlow, hhigh⟩)).trans ((check_pass ?_).trans rfl)
  simp only [Bool.and_eq_true]
  refine ⟨⟨⟨?head, ?rest⟩, ?field⟩, ?padding⟩
  case head => split at hmethod <;> simp_all
  case rest =>
    unfold MacOperands at hoperands
    cases dukpt
    · have hdir : (byteAt b 3).toNat = 0 := hoperands
      exact beq_iff_eq.mpr (BitVec.eq_of_toNat_eq hdir)
    · simpa [and_assoc] using hoperands
  case field =>
    cases verify
    · rfl
    · exact hfield rfl
  case padding =>
    by_cases hassisted : assisted s e = true
    · by_cases hcmac : (byteAt b 0).toNat = 6
      · simp [hcmac]
      · have := hpadded hassisted hcmac
        simp_all [macMessage, macAt]
    · simp [hassisted]

end

section
variable {i : Instr} {dukpt : Bool} {s : State} {e fn : Nat} {dma : Dma} {b : Bytes} {k0 : Key} (hc : Computing s e fn b [k0])
  (hoperands : MacOperands dukpt b k0)
include hc hoperands

/-- A MAC generation ends OK with its tag in the result word. -/
theorem macFn_generates (hshape : MacShape s e b k0 (macMessage dukpt false b)) (hrow : exec i s = runFn fn e s (macFn dukpt false e dma)) :
    Drafts i s s e St.ok (resultOf (macTag s e b k0 (macKey dukpt b k0) (macMessage dukpt false b))) [] :=
  hc.drafts hrow (macFn_tag hc hshape hoperands (by simp))

/-- A MAC verification compares the given MAC with its tag. -/
theorem macFn_verifies (hshape : MacShape s e b k0 (macMessage dukpt true b))
    (hfield : allZero ((slice b (macAt dukpt) 8).drop (byteAt b 2).toNat) = true) (hrow : exec i s = runFn fn e s (macFn dukpt true e dma)) :
    Drafts i s s e (if macTag s e b k0 (macKey dukpt b k0) (macMessage dukpt true b) = (slice b (macAt dukpt) 8).take (byteAt b 2).toNat
      then St.ok else St.macMismatch) 0 [] :=
  hc.drafts hrow ((macFn_tag hc hshape hoperands (fun _ => hfield)).trans (check_verdict beq_iff_eq))

end

/-! ### Card functions (R93 to R96) -/

section
variable {s : State} {e : Fin 69632} {dma : Dma} {b : Bytes} {k0 : Key} {pan : List Nat} (hpan : Pay.cardPan b = some pan)
include hpan

/-- ARQC_VERIFY on operands in their ranges compares the cryptogram, and gives the ARPC of the method (R93 to R95). -/
theorem arqcVerify_drafts {data : Bytes} (hc : Computing s e 0x3001 b [k0]) (hlong : (byteAt b 28).toNat ≤ 8) (hlow : 1 ≤ fieldLe b 37 2)
    (hhigh : fieldLe b 37 2 ≤ 1024) (hlength : fieldLe b 37 2 = (b.drop 39).length) (hfields : arqcFields b = true)
    (hdata : (if assisted s e then some (b.drop 39) else Pay.arqcData (b.drop 39) (slice b 11 2)) = some data) :
    let sk := Pay.sessionKey (Pay.cardKey k0.bytes pan (nibs [byteAt b 10])) (slice b 11 2)
    (Pay.mac3 sk data = slice b 13 8 → Drafts (.arqcVerify e dma) s s e St.ok (resultOf (arpc sk b)) []) ∧
    (Pay.mac3 sk data ≠ slice b 13 8 → Drafts (.arqcVerify e dma) s s e St.cryptogramMismatch 0 []) := by
  intro sk
  have hsteps : ∀ {st r}, check (Pay.mac3 sk data == slice b 13 8) St.cryptogramMismatch s (endsOk s (resultOf (arpc sk b)) []) =
      (.ended { status := st, result := r }, s) → Drafts (.arqcVerify e dma) s s e st r [] := fun hend => by
    refine hc.drafts rfl ((hc.steps rfl).trans ?_)
    refine (check_pass ?_).trans ?_
    · simp only [Bool.and_eq_true, decide_eq_true_eq]
      exact ⟨hlong, hlow, hhigh, hlength⟩
    rw [hpan, hdata]
    exact (check_pass hfields).trans hend
  exact ⟨fun hmac => hsteps (check_pass (beq_iff_eq.mpr hmac)), fun hmac => hsteps (check_fail (beq_eq_false_iff_ne.mpr hmac))⟩

variable (hdate : ∀ d ∈ nibs (slice b 10 2), d ≤ 9) (hcode : ∀ d ∈ (nibs (slice b 12 2)).take 3, d ≤ 9) (hend : (nibs (slice b 12 2)).getD 3 0 = 0xF)
include hdate hcode hend

/-- CVV_GENERATE on operands in their ranges gives the value (R96). -/
theorem cvvGenerate_drafts (hc : Computing s e 0x3003 b [k0]) (hzero : allZero (slice b 14 2) = true) :
    Drafts (.cvvGenerate e dma) s s e St.ok
      (resultOf (ofNibs (Pay.cvv k0.bytes pan (nibs (slice b 10 2)) ((nibs (slice b 12 2)).take 3) ++ [0xF]))) [] := by
  refine hc.drafts rfl ((hc.steps rfl).trans ?_)
  rw [hpan]
  refine (check_pass ?_).trans rfl
  simpa [hzero, and_assoc] using ⟨hdate, hcode, by simpa using hend⟩

/-- CVV_VERIFY on operands in their ranges compares the value (R96). -/
theorem cvvVerify_drafts (hc : Computing s e 0x3004 b [k0]) (hgiven : ∀ d ∈ (nibs (slice b 14 2)).take 3, d ≤ 9)
    (hgivenEnd : (nibs (slice b 14 2)).getD 3 0 = 0xF) :
    Drafts (.cvvVerify e dma) s s e (if Pay.cvv k0.bytes pan (nibs (slice b 10 2)) ((nibs (slice b 12 2)).take 3) = (nibs (slice b 14 2)).take 3
      then St.ok else St.cryptogramMismatch) 0 [] := by
  refine hc.drafts rfl ((hc.steps rfl).trans ?_)
  rw [hpan]
  refine (check_pass ?_).trans (check_verdict beq_iff_eq)
  simpa [and_assoc] using ⟨hdate, hcode, by simpa using hend, hgiven, by simpa using hgivenEnd⟩

end

/-- Settles O26: each row by the end of its steps; the draft of a row without output leaves the rest of the state as it is. -/
theorem macAndCardFunctions : Obligations.MacAndCardFunctions := by
  unfold Obligations.MacAndCardFunctions
  intro s e dma b k0 a method len dir ksn type c n shape tag dukptKey dukptOk
  refine ⟨fun hc hshape hdir => ?_, fun hc hshape hdir hfield => ?_, fun hc hshape hdukpt => ?_, fun hc hshape hdukpt hfield => ?_,
    fun pan hpan => ⟨fun data hc hlong hlow hhigh hlength hfields hdata => ?_, ?_⟩⟩
  · exact macFn_generates (dukpt := false) hc hdir hshape rfl
  · exact macFn_verifies (dukpt := false) hc hdir hshape hfield rfl
  · exact macFn_generates (dukpt := true) hc hdukpt hshape rfl
  · exact macFn_verifies (dukpt := true) hc hdukpt hshape hfield rfl
  · exact arqcVerify_drafts hpan hc hlong hlow hhigh hlength hfields hdata
  · intro date code given v hdate hcode hend
    exact ⟨fun hc hzero => cvvGenerate_drafts hpan hdate hcode hend hc hzero,
      fun hc hgiven hgivenEnd => cvvVerify_drafts hpan hdate hcode hend hc hgiven hgivenEnd⟩

end Sys2Proof.Machine
end


section
/-! Proofs: what the operations of the random chain leave of it (R240 to R248). -/

namespace Sys2Proof.Machine

open Sys2Proof Sys2Proof.Bits

/-! ### Posts and indications -/

section
variable {s t : State} (h : TallyOnly s t)
include h

theorem TallyOnly.win : t.win = s.win := by rw [h]
theorem TallyOnly.boot : t.boot = s.boot := by rw [h]
theorem TallyOnly.grn : t.grn = s.grn := by rw [h]

end

/-- Two states with one winnower have the same DRBGs in service. -/
theorem drbgServes_of_win {s t : State} (h : t.win = s.win) (k : Nat) : drbgServes t k = drbgServes s k := by
  unfold drbgServes winRuns State.drbg
  rw [h]

theorem source_of_win {s t : State} (h : t.win = s.win) (k : Nat) : t.source k = s.source k := by
  unfold State.source
  rw [h]

theorem postWinnower_only (s : State) (detail src : Nat) : TallyOnly s (postWinnower s detail src) := Tal.post_only _ _

/-! ### The chain stops, starts and returns (R245, R247) -/

theorem indicated_only (s : State) (detail src n : Nat) : TallyOnly s (setInt (postWinnower s detail src) winPage n) :=
  (postWinnower_only s detail src).trans (setInt_only _ _ _)

theorem stopChain_win (s : State) : (stopChain s).win = { s.win with state := .stopped, stoppedOnce := true } := by
  unfold stopChain
  rw [(degrade_only _ _ _).win]
  dsimp only
  rw [(indicated_only s 2 0 1).win]

theorem stopChain_boot (s : State) : (stopChain s).boot = s.boot :=
  (degrade_only _ _ _).boot.trans (indicated_only s 2 0 1).boot

theorem stopChain_cause (s : State) : (stopChain s).dev.causes.getLsbD causeRng = true := degrade_cause _ (by decide) _

theorem not_serves_of_not_run {s : State} (h : s.win.state ≠ .run) (k : Nat) : drbgServes s k = false := by
  simp [drbgServes, winRuns, h]

theorem selfCheckFail_win (s : State) : (selfCheckFail s).win = { s.win with selfFail := true, state := .stopped, stoppedOnce := true } :=
  stopChain_win _

theorem selfCheckFail_fails (s : State) : ChainFailed (selfCheckFail s) := by
  have hstopped : (selfCheckFail s).win.state = .stopped := by rw [selfCheckFail_win]
  exact ⟨hstopped, by rw [selfCheckFail_win], not_serves_of_not_run (by rw [hstopped]; decide)⟩

/-- No DRBG serves between the start of the chain and its instantiation. -/
theorem startSeeding_serves (s : State) (k : Nat) : drbgServes (startSeeding s) k = false := by
  have hget : (startSeeding s).drbg k = { s.drbg k with serving := false } := get_mapVals (fun _ => rfl) _ _
  simp [drbgServes, hget]

theorem resumeChain_win (s : State) : (resumeChain s).win = (startSeeding s).win := (indicated_only _ 3 0 2).win

theorem judgeChain_runs {s : State} (h : s.win.state = .run) : judgeChain s = if healthySources s < 4 then stopChain s else s := by
  unfold judgeChain
  rw [h]

theorem judgeChain_stopped {s : State} (h : s.win.state = .stopped) :
    judgeChain s = if 4 ≤ healthySources s ∧ !s.win.selfFail then resumeChain s else s := by
  unfold judgeChain
  rw [h]

/-- A judgement changes the chain's state, and what a stop or a return set with it. -/
theorem judgeChain_win (s : State) : ∃ st once seeding drbg,
    (judgeChain s).win = { s.win with state := st, stoppedOnce := once, seeding := seeding, drbg := drbg } := by
  cases hstate : s.win.state with
  | run =>
    rw [judgeChain_runs hstate]
    split
    · exact ⟨_, _, _, _, stopChain_win s⟩
    · exact ⟨_, _, _, _, rfl⟩
  | stopped =>
    rw [judgeChain_stopped hstate]
    split
    · exact ⟨_, _, _, _, resumeChain_win s⟩
    · exact ⟨_, _, _, _, rfl⟩
  | starting => exact ⟨_, _, _, _, by rw [judgeChain, hstate]⟩
  | testmode => exact ⟨_, _, _, _, by rw [judgeChain, hstate]⟩

theorem judgeChain_source (s : State) (k : Nat) : (judgeChain s).source k = s.source k := by
  obtain ⟨_, _, _, _, hwin⟩ := judgeChain_win s
  unfold State.source
  rw [hwin]

/-! ### DRBG output (R243) -/

/-- From s to t the winnower keeps all but its DRBGs, and each of them keeps whether it serves. -/
structure KeepsServing (s t : State) : Prop where
  win : t.win = { s.win with drbg := t.win.drbg }
  serving : ∀ k, (t.drbg k).serving = (s.drbg k).serving
  overdue : ∀ k, (t.drbg k).overdue = (s.drbg k).overdue

namespace KeepsServing

variable {s t u : State}

theorem refl : KeepsServing s s := ⟨rfl, fun _ => rfl, fun _ => rfl⟩

theorem trans (h : KeepsServing s t) (k : KeepsServing t u) : KeepsServing s u :=
  ⟨by rw [k.win, h.win], fun i => (k.serving i).trans (h.serving i), fun i => (k.overdue i).trans (h.overdue i)⟩

theorem ite {c : Prop} [Decidable c] (h : KeepsServing s t) (k : KeepsServing s u) : KeepsServing s (if c then t else u) := by
  split <;> assumption

/-- An operation outside the winnower. -/
theorem after_win (h : KeepsServing s t) (hwin : u.win = t.win := by rfl) : KeepsServing s u := by
  have hdrbg : ∀ k, u.drbg k = t.drbg k := fun k => by
    unfold State.drbg
    rw [hwin]
  exact h.trans ⟨by rw [hwin], fun k => by rw [hdrbg], fun k => by rw [hdrbg]⟩

theorem after_drbgCall (h : KeepsServing s t) {i n : Nat} : KeepsServing s (drbgCall t i n).2 := by
  refine .after_win (h.trans ?_) (perfCount_only _ _ _ _).win
  refine ⟨rfl, fun k => ?_, fun k => ?_⟩ <;>
  · by_cases hk : k = i
    · rw [hk, State.setDrbg_self]
      rfl
    · rw [State.setDrbg_ne _ _ _ _ hk]

theorem after_drbgGen (h : KeepsServing s t) {i n : Nat} : KeepsServing s (drbgGen t i n).2 := by
  have hcalls : ∀ k n t, KeepsServing s t → KeepsServing s (drbgCalls i k n t).2 := fun k => by
    induction k with
    | zero => exact fun n t ht => ht.after_drbgCall
    | succ k ih =>
      intro n t ht
      unfold drbgCalls
      split
      · exact ht.after_drbgCall
      · exact ih _ _ ht.after_drbgCall
  exact hcalls _ _ _ h

theorem after_draw (h : KeepsServing s t) {i n : Nat} {r : Bytes} (hdraw : drbgGen t i n = (r, u)) : KeepsServing s u := by
  have hgen := h.after_drbgGen (i := i) (n := n)
  rwa [hdraw] at hgen

theorem after_drawBootKeys (h : KeepsServing s t) : KeepsServing s (drawBootKeys t) := by
  unfold drawBootKeys
  refine .ite h ?_
  rcases h1 : drbgGen t 8 16 with ⟨_, t1⟩
  rcases h2 : drbgGen t1 8 64 with ⟨_, t2⟩
  rcases h3 : drbgGen t2 8 24 with ⟨_, t3⟩
  rcases h4 : drbgGen t3 8 16 with ⟨_, t4⟩
  dsimp only
  rw [h2]
  dsimp only
  rw [h3]
  dsimp only
  rw [h4]
  exact .after_win ((((h.after_draw h1).after_draw h2).after_draw h3).after_draw h4)

theorem after_mailboxNonce (h : KeepsServing s t) : KeepsServing s (mailboxNonce t) :=
  .after_win (.after_drbgGen (i := 8) (n := 8) h)

theorem after_debugNonce (h : KeepsServing s t) : KeepsServing s (debugNonce t) :=
  .after_win (.after_drbgGen (i := 8) (n := 8) h)

theorem after_serveNonces (h : KeepsServing s t) : KeepsServing s (serveNonces t) := by
  unfold serveNonces
  have hmailbox : ∀ {c : Prop} [Decidable c] {u}, KeepsServing s u → KeepsServing s (if c then mailboxNonce u else u) :=
    fun hu => .ite hu.after_mailboxNonce hu
  exact .ite h (.ite (.after_debugNonce (hmailbox (.after_win h))) (hmailbox (.after_win h)))

theorem after_reseedMask (h : KeepsServing s t) {b : Nat} : KeepsServing s (reseedMask t b) :=
  .after_win (.after_drbgGen (i := b) (n := 32) h)

end KeepsServing

theorem drbgGen_grn (s : State) (i n : Nat) : (drbgGen s i n).2.grn = s.grn := by
  have hcalls : ∀ k n (s : State), (drbgCalls i k n s).2.grn = s.grn := fun k => by
    induction k with
    | zero => exact fun n s => (drbgCall_only s i n).grn
    | succ k ih =>
      intro n s
      unfold drbgCalls
      split
      · exact (drbgCall_only s i n).grn
      · exact (ih _ _).trans (drbgCall_only s i 4096).grn
  exact hcalls _ _ s

theorem serveNonces_grn (s : State) : (serveNonces s).grn = s.grn := by
  have hmailbox : ∀ u : State, (mailboxNonce u).grn = u.grn := fun u => drbgGen_grn u 8 8
  have hdebug : ∀ u : State, (debugNonce u).grn = u.grn := fun u => drbgGen_grn u 8 8
  unfold serveNonces
  split
  · rfl
  · dsimp only
    split <;> split <;> simp [hmailbox, hdebug]

/-- The record key stands once the Keep DRBG has been instantiated. -/
theorem drawBootKeys_recKey (s : State) : (drawBootKeys s).grn.recKey.isSome = true := by
  unfold drawBootKeys
  split
  · assumption
  · rfl

/-! ### Instantiation (R243, R245) -/

/-- The state in which DRBG i has been instantiated and nothing drawn from it. -/
def seededDrbg (s : State) (i : Nat) (entropy : Bytes) : State :=
  s.setDrbg i { drbgUpdate {} (drbgDf (entropy ++ drbgPersonal s i)) with ctr := 0, serving := true, overdue := false }

theorem setDrbg_win (s : State) (i : Nat) (d : Drbg) : (s.setDrbg i d).win = { s.win with drbg := Map.set {} s.win.drbg i d } := rfl

theorem instantiateDrbg_keeps (s : State) (i : Nat) (entropy : Bytes) : KeepsServing (seededDrbg s i entropy) (instantiateDrbg s i entropy) := by
  have hcounted : KeepsServing (seededDrbg s i entropy) (perfCount (seededDrbg s i entropy) winPage 0x040 4) :=
    .after_win .refl (perfCount_only _ _ _ _).win
  exact .ite (.after_serveNonces (.after_drawBootKeys hcounted)) (.after_reseedMask hcounted)

theorem instantiateDrbg_win (s : State) (i : Nat) (entropy : Bytes) :
    ∃ drbg, (instantiateDrbg s i entropy).win = { s.win with drbg := drbg } := by
  have hwin := (instantiateDrbg_keeps s i entropy).win
  rw [seededDrbg, setDrbg_win] at hwin
  exact ⟨_, hwin⟩

theorem instantiateDrbg_serves {s : State} (hrun : s.win.state = .run) (i : Nat) (entropy : Bytes) :
    drbgServes (instantiateDrbg s i entropy) i = true := by
  have hkeeps := instantiateDrbg_keeps s i entropy
  have hruns : winRuns (instantiateDrbg s i entropy) = true := by
    obtain ⟨drbg, hwin⟩ := instantiateDrbg_win s i entropy
    unfold winRuns
    rw [hwin, hrun]
    rfl
  unfold drbgServes
  rw [hruns, hkeeps.serving, hkeeps.overdue, seededDrbg, State.setDrbg_self]
  rfl

theorem instantiateDrbg_recKey (s : State) (entropy : Bytes) : (instantiateDrbg s 8 entropy).grn.recKey.isSome = true := by
  unfold instantiateDrbg
  rw [if_pos rfl, serveNonces_grn]
  exact drawBootKeys_recKey _

/-- Nothing is delivered without a DRBG to be instantiated, short of four blocks, or while the chain does not run. -/
theorem deliver_idle {s : State} (h : s.win.seeding = [] ∨ s.win.blocks.length < 4 ∨ winRuns s = false) (n : Nat) : deliver n s = s := by
  cases n with
  | zero => rfl
  | succ n =>
    unfold deliver
    split
    · next hseeding hblocks =>
      rw [hseeding, hblocks] at h
      simp only [List.length_cons, reduceCtorEq, false_or] at h
      rcases h with h | h
      · omega
      · rw [h]
        rfl
    · rfl

/-- Four blocks instantiate the next DRBG. -/
theorem deliver_next {s : State} (hrun : winRuns s = true) {i : Nat} {rest : List Nat} {b0 b1 b2 b3 : BitVec 128} {more : List (BitVec 128)}
    (hseeding : s.win.seeding = i :: rest) (hblocks : s.win.blocks = b0 :: b1 :: b2 :: b3 :: more) (n : Nat) : deliver (n + 1) s =
      deliver n (instantiateDrbg { s with win := { s.win with seeding := rest, blocks := more } } i ([b0, b1, b2, b3].flatMap ofBlock)) := by
  rw [deliver, hseeding, hblocks]
  exact if_pos hrun

/-- A delivery changes the blocks, the DRBGs and which are still to be instantiated. -/
theorem deliver_win (n : Nat) (s : State) : ∃ seeding blocks drbg,
    (deliver n s).win = { s.win with seeding := seeding, blocks := blocks, drbg := drbg } := by
  induction n generalizing s with
  | zero => exact ⟨_, _, _, rfl⟩
  | succ n ih =>
    unfold deliver
    split
    · split
      · obtain ⟨seeding, blocks, drbg, hwin⟩ := ih (instantiateDrbg _ _ _)
        obtain ⟨_, hinstantiated⟩ := instantiateDrbg_win _ _ _
        exact ⟨seeding, blocks, drbg, by rw [hwin, hinstantiated]⟩
      · exact ⟨_, _, _, rfl⟩
    · exact ⟨_, _, _, rfl⟩

end Sys2Proof.Machine
end


section
/-! Proofs: the noise sources under their tests, and the compressor (R240, R241, R244 to R248). -/

namespace Sys2Proof.Machine

open Sys2Proof Sys2Proof.Bits

/-! ### Sources under test (R244, R246) -/

/-- From x to y a source keeps its state and what counts its failures. -/
structure SameRecord (x y : Source) : Prop where
  state : y.state = x.state
  fails : y.fails = x.fails
  rct : y.rct = x.rct
  apt : y.apt = x.apt
  readmits : y.readmits = x.readmits

theorem take_record (x : Source) (b : Bool) : SameRecord x (x.take b) := by
  unfold Source.take
  dsimp only
  split <;> exact ⟨rfl, rfl, rfl, rfl, rfl⟩

theorem startTest_record (n : Nat) (v : Samples) (x : Source) : SameRecord x (startTest n v x).2 := by
  induction n generalizing x with
  | zero => exact ⟨rfl, rfl, rfl, rfl, rfl⟩
  | succ n ih =>
    obtain ⟨hstate, hfails, hrct, hapt, hreadmits⟩ := take_record x (v.getLsbD n)
    unfold startTest
    dsimp only
    split
    · exact ⟨hstate, hfails, hrct, hapt, hreadmits⟩
    · obtain ⟨kstate, kfails, krct, kapt, kreadmits⟩ := ih (x.take (v.getLsbD n))
      exact ⟨kstate.trans hstate, kfails.trans hfails, krct.trans hrct, kapt.trans hapt, kreadmits.trans hreadmits⟩

theorem startVerdict_record (x : Source) (v : Samples) : SameRecord x (startVerdict x v).2 := by
  obtain ⟨hstate, hfails, hrct, hapt, hreadmits⟩ := startTest_record 4096 v { x with run := 0, seen := 0, same := 0 }
  exact ⟨hstate, hfails, hrct, hapt, hreadmits⟩

/-! ### A source that fails (R246, R248) -/

theorem setSource_source (s : State) (n : Nat) (x : Source) (k : Nat) : (s.setSource n x).source k = if k = n then x else s.source k :=
  Map.get_set _ _ _ _ _

/-- A source with a failure of a test counted. -/
def countedSource (x : Source) (rct : Bool) : Source :=
  { x with
    rct := if rct then min 1023 (x.rct + 1) else x.rct
    apt := if rct then x.apt else min 1023 (x.apt + 1)
    sat := x.sat || decide (1023 ≤ (if rct then x.rct else x.apt) + 1) }

/-- A source after a failure of one of its tests. -/
def failedSource (x : Source) (rct : Bool) : Source :=
  { countedSource x rct with
    fails := min 4 (x.fails + 1)
    state := if 4 ≤ x.fails + 1 then 3 else 2 }

theorem failedSource_excluded (x : Source) (rct : Bool) : (failedSource x rct).state ≠ 1 := by
  unfold failedSource
  dsimp only
  split <;> decide

/-- From s to t no more than the sources, the compressor with the blocks, the tally, register words and the MSI-X table differ. -/
def SourcesOnly (s t : State) : Prop :=
  t = { s with
    tal := t.tal
    regs := t.regs
    hif := { s.hif with msix := t.hif.msix }
    win := { s.win with
      src := t.win.src
      lfsr := t.win.lfsr
      phase := t.win.phase
      word := t.win.word
      wordLen := t.win.wordLen
      words := t.win.words
      repeats := t.win.repeats
      blocks := t.win.blocks } }

theorem TallyOnly.sourcesOnly {s t : State} (h : TallyOnly s t) : SourcesOnly s t := by
  unfold TallyOnly at h
  unfold SourcesOnly
  rw [h]

namespace SourcesOnly

variable {s t u : State}

theorem refl : SourcesOnly s s := rfl

theorem trans (h : SourcesOnly s t) (k : SourcesOnly t u) : SourcesOnly s u := by
  unfold SourcesOnly at h k ⊢
  rw [h] at k
  exact k

theorem setSource (s : State) (n : Nat) (x : Source) : SourcesOnly s (s.setSource n x) := rfl

theorem discard (s : State) : SourcesOnly s { s with win := s.win.discard } := rfl

theorem foldl {α : Type} {f : State → α → State} (hf : ∀ u a, SourcesOnly u (f u a)) (l : List α) (s : State) :
    SourcesOnly s (l.foldl f s) :=
  List.foldlRecOn (motive := SourcesOnly s) l f refl (fun _ hu a _ => hu.trans (hf _ a))

theorem winState (h : SourcesOnly s t) : t.win.state = s.win.state := by rw [h]
theorem selfFail (h : SourcesOnly s t) : t.win.selfFail = s.win.selfFail := by rw [h]
theorem boot (h : SourcesOnly s t) : t.boot = s.boot := by rw [h]

end SourcesOnly

/-- A failure is counted, and a counter at its end sets the page's saturation bit besides. -/
theorem countFailure_eq (s : State) (n : Nat) (rct : Bool) : ∃ u, TallyOnly (s.setSource n (countedSource (s.source n) rct)) u ∧
    countFailure s n rct = u := by
  refine ⟨_, ?_, rfl⟩
  unfold countFailure
  dsimp only
  have hcounted : (s.setSource n { (if rct then { s.source n with rct := min 1023 ((if rct then (s.source n).rct else (s.source n).apt) + 1) }
      else { s.source n with apt := min 1023 ((if rct then (s.source n).rct else (s.source n).apt) + 1) }) with
        sat := (s.source n).sat || decide (1023 ≤ (if rct then (s.source n).rct else (s.source n).apt) + 1) }) =
      s.setSource n (countedSource (s.source n) rct) := by
    cases rct <;> rfl
  rw [hcounted]
  exact .ite (setInt_only _ _ _) (.refl _)

/-- A failure posts and discards once the source has been replaced. -/
theorem failSource_eq (s : State) (n : Nat) (rct : Bool) : ∃ u, TallyOnly (s.setSource n (countedSource (s.source n) rct)) u ∧
    ∃ v, TallyOnly (u.setSource n (failedSource (s.source n) rct)) v ∧ failSource s n rct = { v with win := v.win.discard } := by
  obtain ⟨u, hu, heq⟩ := countFailure_eq s n rct
  have hset : TallyOnly (s.setSource n (countedSource (s.source n) rct)) (setInt u winPage 0) := hu.trans (setInt_only _ _ _)
  have hsource : (setInt u winPage 0).source n = countedSource (s.source n) rct := by
    rw [source_of_win hset.win, State.setSource_self]
  refine ⟨_, hset, _, postWinnower_only _ 1 n, ?_⟩
  unfold failSource
  dsimp only
  rw [heq, hsource]
  rfl

theorem failSource_only (s : State) (n : Nat) (rct : Bool) : SourcesOnly s (failSource s n rct) := by
  obtain ⟨u, hu, v, hv, heq⟩ := failSource_eq s n rct
  rw [heq]
  exact ((((SourcesOnly.setSource s n _).trans hu.sourcesOnly).trans (SourcesOnly.setSource _ _ _)).trans hv.sourcesOnly).trans
    (SourcesOnly.discard v)

theorem failSource_source (s : State) (n : Nat) (rct : Bool) (k : Nat) :
    (failSource s n rct).source k = if k = n then failedSource (s.source n) rct else s.source k := by
  obtain ⟨u, hu, v, hv, heq⟩ := failSource_eq s n rct
  have hfailed : (failSource s n rct).source k = v.source k := by
    rw [heq]
    rfl
  rw [hfailed, source_of_win hv.win, setSource_source, source_of_win hu.win, setSource_source]
  split
  · rfl
  · rfl

/-- A failure discards what the compressor holds, and every undelivered block. -/
theorem failSource_discards (s : State) (n : Nat) (rct : Bool) :
    (failSource s n rct).win = { s.win.discard with src := (failSource s n rct).win.src } := by
  obtain ⟨u, hu, v, hv, heq⟩ := failSource_eq s n rct
  have hwin : v.win = { s.win with src := v.win.src } := by
    rw [hv.win]
    unfold State.setSource
    dsimp only
    rw [hu.win]
    rfl
  rw [heq]
  dsimp only
  rw [hwin]
  rfl

/-! ### All sources in a row -/

/-- A pass over sources, each step of which changes its own source alone, changes each of them once. -/
theorem foldl_source {f : State → Nat → State} {g : Nat → Source → Source}
    (hf : ∀ s n k, (f s n).source k = if k = n then g n (s.source n) else s.source k) (l : List Nat) (hl : l.Nodup) (s : State) (k : Nat) :
    (l.foldl f s).source k = if k ∈ l then g k (s.source k) else s.source k := by
  induction l generalizing s with
  | nil => simp
  | cons n l ih =>
    obtain ⟨hn, hl⟩ := List.nodup_cons.mp hl
    rw [List.foldl_cons, ih hl, hf]
    by_cases hk : k = n
    · subst hk
      simp [hn]
    · simp [hk]

theorem testSources_source (s : State) (v : Byte) (k : Nat) :
    (testSources s v).source k = if k ∈ List.range 8 then (s.source k).take (v.getLsbD k) else s.source k :=
  foldl_source (g := fun n x => x.take (v.getLsbD n)) (fun _ _ _ => setSource_source _ _ _ _) _ List.nodup_range s k

theorem testSources_win (s : State) (v : Byte) : (testSources s v).win = { s.win with src := (testSources s v).win.src } :=
  List.foldlRecOn (motive := fun u : State => u.win = { s.win with src := u.win.src }) _ _ rfl (fun u hu n _ => by
    unfold State.setSource
    dsimp only
    rw [hu])

/-- A source after its start-up test (R245). -/
def startedSource (v : Samples) (x : Source) : Source :=
  if x.state = 3 then x
  else
    match startVerdict x v with
    | (none, y) => { y with state := 1 }
    | (some rct, y) => failedSource y rct

theorem startSource_only (start : List Samples) (s : State) (n : Nat) : SourcesOnly s (startSource start s n) := by
  unfold startSource
  split
  · exact .refl
  · dsimp only
    split
    · exact SourcesOnly.setSource _ _ _
    · exact (SourcesOnly.setSource _ _ _).trans (failSource_only _ _ _)

theorem startSource_source (start : List Samples) (s : State) (n k : Nat) :
    (startSource start s n).source k = if k = n then startedSource (start.getD n 0) (s.source n) else s.source k := by
  unfold startSource startedSource
  split
  · split
    · next hk => rw [hk]
    · rfl
  · rcases startVerdict (s.source n) (start.getD n 0) with ⟨_ | rct, y⟩
    · exact setSource_source _ _ _ _
    · dsimp only
      rw [failSource_source, State.setSource_self]
      split
      · rfl
      · next hk => exact State.setSource_ne _ _ _ _ hk

theorem startSources_only (start : List Samples) (s : State) : SourcesOnly s (startSources start s) :=
  .foldl (startSource_only start) _ s

theorem startSources_source (start : List Samples) (s : State) (k : Nat) :
    (startSources start s).source k = if k ∈ List.range 8 then startedSource (start.getD k 0) (s.source k) else s.source k :=
  foldl_source (g := fun n x => startedSource (start.getD n 0) x) (startSource_source start) _ List.nodup_range s k

/-- A source is healthy after the start-up tests when it is not dead and passes them. -/
theorem startedSource_healthy (v : Samples) (x : Source) : (startedSource v x).state = 1 ↔ x.state ≠ 3 ∧ (startVerdict x v).1 = none := by
  unfold startedSource
  split
  · next hdead => simp [hdead]
  · next hlive =>
    rcases startVerdict x v with ⟨_ | rct, y⟩
    · simp [hlive]
    · simpa using failedSource_excluded y rct

theorem startSources_healthy (start : List Samples) (s : State) : healthySources (startSources start s) = passing s start := by
  unfold healthySources passing
  refine congrArg List.length (List.filter_congr (fun n hn => ?_))
  rw [startSources_source, if_pos hn, Bool.eq_iff_iff, beq_iff_eq, startedSource_healthy, Bool.and_eq_true, decide_eq_true_iff,
    Option.isNone_iff_eq_none]

/-! ### The compressor (R241, R242) -/

/-- The register after a raw bit (R241). -/
def shift (l : BitVec 64) (b : Bool) : BitVec 64 :=
  (l <<< 1) ||| (BitVec.ofBool (((l.getLsbD 63 != l.getLsbD 3) != (l.getLsbD 2 != l.getLsbD 0)) != b)).setWidth 64

/-- From w to x the output stage of the compressor has worked: words, blocks and captured bits may differ. -/
def OutputOnly (w x : Winnower) : Prop :=
  x = { w with
    word := x.word
    wordLen := x.wordLen
    words := x.words
    blocks := x.blocks
    repeats := x.repeats
    lastBlock := x.lastBlock
    ratioNow := x.ratioNow
    cap := x.cap
    capLen := x.capLen
    fifo := x.fifo
    overflow := x.overflow }

theorem OutputOnly.trans {w x y : Winnower} (h : OutputOnly w x) (k : OutputOnly x y) : OutputOnly w y := by
  unfold OutputOnly at h k ⊢
  rw [h] at k
  exact k

section
variable (w : Winnower) (b : Bool)

theorem capture_only : OutputOnly w (w.capture b) := by
  unfold Winnower.capture
  dsimp only
  split
  · rfl
  · split <;> rfl

theorem condition_only : OutputOnly w w.condition := by
  unfold Winnower.condition
  generalize block _ = x
  rfl

theorem emit_only : OutputOnly w (w.emit b) := by
  unfold Winnower.emit
  have hcaptured : OutputOnly w (if w.state == .testmode && w.testTap then w.capture b else w) := by
    split
    · exact capture_only w b
    · rfl
  generalize (if w.state == .testmode && w.testTap then w.capture b else w) = x at hcaptured ⊢
  dsimp only
  split
  · exact hcaptured.trans rfl
  · split
    · exact hcaptured.trans rfl
    · refine hcaptured.trans (.trans ?_ (condition_only _))
      rfl

end

/-- From w to x the compressor has worked. -/
def CompressorOnly (w x : Winnower) : Prop := OutputOnly { w with lfsr := x.lfsr, phase := x.phase } x

theorem CompressorOnly.trans {w x y : Winnower} (h : CompressorOnly w x) (k : CompressorOnly x y) : CompressorOnly w y := by
  unfold CompressorOnly OutputOnly at h k ⊢
  rw [h] at k
  exact k

section
variable (w : Winnower) (b : Bool)

/-- A raw bit shifts into the register, and at the end of a period a bit leaves it. -/
theorem push_shifts : w.push b = { w with lfsr := shift w.lfsr b, phase := w.phase + 1 } ∨
    w.push b = ({ w with lfsr := shift w.lfsr b, phase := 0 }).emit (w.lfsr.getLsbD 63) := by
  unfold Winnower.push
  dsimp only
  split
  · exact .inl rfl
  · exact .inr rfl

theorem push_only : CompressorOnly w (w.push b) := by
  obtain hidle | hemits := push_shifts w b
  · rw [hidle]
    rfl
  · rw [hemits]
    have hemit := emit_only { w with lfsr := shift w.lfsr b, phase := 0 } (w.lfsr.getLsbD 63)
    unfold CompressorOnly OutputOnly at *
    rw [hemit]

theorem push_lfsr : (w.push b).lfsr = shift w.lfsr b := by
  obtain hidle | hemits := push_shifts w b
  · rw [hidle]
  · rw [hemits, emit_only]

end

/-! #### The sources have no part in it -/

section
variable (w : Winnower) (b : Bool) (m : Map Source)

theorem capture_src : ({ w with src := m }).capture b = { w.capture b with src := m } := by
  unfold Winnower.capture
  dsimp only
  split
  · rfl
  · split <;> rfl

theorem condition_src : ({ w with src := m }).condition = { w.condition with src := m } := by
  unfold Winnower.condition
  dsimp only

theorem emit_src : ({ w with src := m }).emit b = { w.emit b with src := m } := by
  unfold Winnower.emit
  have hcaptured : (if w.state == .testmode && w.testTap then ({ w with src := m }).capture b else { w with src := m }) =
      { (if w.state == .testmode && w.testTap then w.capture b else w) with src := m } := by
    split
    · exact capture_src w b m
    · rfl
  dsimp only at hcaptured ⊢
  rw [hcaptured]
  generalize (if w.state == .testmode && w.testTap then w.capture b else w) = x
  dsimp only
  split
  · rfl
  · split
    · rfl
    · exact condition_src { x with
        word := 0
        wordLen := 0
        words := x.words ++ [x.word ||| ((BitVec.ofBool b).setWidth 64 <<< x.wordLen)] } m

theorem push_src : ({ w with src := m }).push b = { w.push b with src := m } := by
  unfold Winnower.push
  dsimp only
  split
  · rfl
  · exact emit_src { w with lfsr := shift w.lfsr b, phase := 0 } (w.lfsr.getLsbD 63) m

end

/-! #### Words and captured bits -/

/-- From w to x nothing has been captured. -/
structure SameCapture (w x : Winnower) : Prop where
  cap : x.cap = w.cap
  capLen : x.capLen = w.capLen
  fifo : x.fifo = w.fifo

/-- From w to x no block has formed, and the word has grown by at most n bits. -/
structure Grown (w x : Winnower) (n : Nat) : Prop where
  blocks : x.blocks = w.blocks
  repeats : x.repeats = w.repeats
  wordLen : x.wordLen ≤ w.wordLen + n

section
variable {w : Winnower}

theorem emit_uncaptured (h : (w.state == .testmode && w.testTap) = false) (b : Bool) : SameCapture w (w.emit b) := by
  unfold Winnower.emit
  rw [h, if_neg Bool.false_ne_true]
  dsimp only
  split
  · exact ⟨rfl, rfl, rfl⟩
  · split
    · exact ⟨rfl, rfl, rfl⟩
    · exact ⟨rfl, rfl, rfl⟩

theorem push_uncaptured (h : (w.state == .testmode && w.testTap) = false) (b : Bool) : SameCapture w (w.push b) := by
  obtain hidle | hemits := push_shifts w b
  · rw [hidle]
    exact ⟨rfl, rfl, rfl⟩
  · rw [hemits]
    obtain ⟨hcap, hlen, hfifo⟩ := emit_uncaptured (w := { w with lfsr := shift w.lfsr b, phase := 0 }) h (w.lfsr.getLsbD 63)
    exact ⟨hcap, hlen, hfifo⟩

theorem capture_grown (b : Bool) : (w.capture b).blocks = w.blocks ∧ (w.capture b).repeats = w.repeats ∧ (w.capture b).wordLen = w.wordLen := by
  unfold Winnower.capture
  dsimp only
  split
  · exact ⟨rfl, rfl, rfl⟩
  · split <;> exact ⟨rfl, rfl, rfl⟩

theorem emit_grown (h : w.wordLen < 63) (b : Bool) : Grown w (w.emit b) 1 := by
  unfold Winnower.emit
  have hcaptured : ∀ {c : Bool}, Grown w (if c then w.capture b else w) 0 := by
    intro c
    obtain ⟨hblocks, hrepeats, hlen⟩ := capture_grown (w := w) b
    split
    · exact ⟨hblocks, hrepeats, hlen.le⟩
    · exact ⟨rfl, rfl, le_rfl⟩
  obtain ⟨hblocks, hrepeats, hlen⟩ := hcaptured (c := w.state == .testmode && w.testTap)
  generalize (if w.state == .testmode && w.testTap then w.capture b else w) = x at *
  dsimp only
  rw [if_pos (by omega)]
  exact ⟨hblocks, hrepeats, Nat.succ_le_succ hlen⟩

theorem push_grown (h : w.wordLen < 63) (b : Bool) : Grown w (w.push b) 1 := by
  obtain hidle | hemits := push_shifts w b
  · rw [hidle]
    exact ⟨rfl, rfl, Nat.le_succ _⟩
  · rw [hemits]
    obtain ⟨hblocks, hrepeats, hlen⟩ := emit_grown (w := { w with lfsr := shift w.lfsr b, phase := 0 }) h (w.lfsr.getLsbD 63)
    exact ⟨hblocks, hrepeats, hlen⟩

end

/-! #### A sampling instant in the compressor -/

/-- The compressor after a bit of each of the sources, in order. -/
def pushed (sources : List Nat) (v : Byte) (w : Winnower) : Winnower := sources.foldl (fun w i => w.push (v.getLsbD i)) w

/-- The healthy sources, in order. -/
def healthyList (s : State) : List Nat := (List.range 8).filter (fun i => (s.source i).state == 1)

theorem compressInstant_eq (s : State) (v : Byte) : compressInstant s v = pushed (healthyList s) v s.win := rfl

theorem healthySources_eq (s : State) : healthySources s = (healthyList s).length := rfl

section
variable (l : List Nat) (v : Byte) (w : Winnower)

theorem pushed_only : CompressorOnly w (pushed l v w) :=
  List.foldlRecOn (motive := CompressorOnly w) l _ rfl (fun _ hx _ _ => hx.trans (push_only _ _))

theorem pushed_lfsr : (pushed l v w).lfsr = shifted l v w.lfsr := by
  induction l generalizing w with
  | nil => rfl
  | cons i l ih =>
    rw [pushed, List.foldl_cons, ← pushed, ih, push_lfsr]
    rfl

theorem pushed_src (m : Map Source) : pushed l v { w with src := m } = { pushed l v w with src := m } := by
  induction l generalizing w with
  | nil => rfl
  | cons i l ih =>
    rw [pushed, List.foldl_cons, ← pushed, push_src, ih]
    rfl

theorem pushed_uncaptured {w : Winnower} (h : (w.state == .testmode && w.testTap) = false) : SameCapture w (pushed l v w) := by
  induction l generalizing w with
  | nil => exact ⟨rfl, rfl, rfl⟩
  | cons i l ih =>
    obtain ⟨hcap, hlen, hfifo⟩ := push_uncaptured h (v.getLsbD i)
    have hstate : ((w.push (v.getLsbD i)).state == .testmode && (w.push (v.getLsbD i)).testTap) = false := by
      rw [push_only w (v.getLsbD i)]
      exact h
    obtain ⟨kcap, klen, kfifo⟩ := ih hstate
    exact ⟨kcap.trans hcap, klen.trans hlen, kfifo.trans hfifo⟩

theorem pushed_grown {w : Winnower} (h : w.wordLen + l.length ≤ 63) : Grown w (pushed l v w) l.length := by
  induction l generalizing w with
  | nil => exact ⟨rfl, rfl, le_rfl⟩
  | cons i l ih =>
    rw [List.length_cons] at h ⊢
    obtain ⟨hblocks, hrepeats, hlen⟩ := push_grown (w := w) (by omega) (v.getLsbD i)
    obtain ⟨kblocks, krepeats, klen⟩ := ih (w := w.push (v.getLsbD i)) (by omega)
    exact ⟨kblocks.trans hblocks, krepeats.trans hrepeats, by
      rw [pushed, List.foldl_cons, ← pushed]
      omega⟩

end

end Sys2Proof.Machine
end


section
/-! Proofs: a sampling instant, and what it delivers (R240 to R248). -/

namespace Sys2Proof.Machine

open Sys2Proof Sys2Proof.Bits

/-! ### The instant after the tests (R241, R242, R245, R250) -/

/-- The compressor after an instant, the tapped source's raw bit captured in test mode. -/
def captured (s : State) (v : Byte) : Winnower :=
  if (compressInstant s v).state == .testmode && !(compressInstant s v).testTap then
    (compressInstant s v).capture (v.getLsbD (compressInstant s v).testSrc)
  else compressInstant s v

/-- The part of an instant that follows the tests. -/
def afterBits (s : State) (v : Byte) : State :=
  if s.win.state = .run ∨ s.win.state = .testmode then
    let full := s.win.overflow
    let w := compressInstant s v
    let w := if w.state == .testmode && !w.testTap then w.capture (v.getLsbD w.testSrc) else w
    let s := { s with win := w }
    let s := if w.overflow && !full then setInt s winPage 3 else s
    if w.repeats then selfCheckFail { s with win := { w with repeats := false } } else deliver 9 s
  else s

/-- The tests of an instant: a source that fails is out at once (R244, R246). -/
def afterTests (s : State) (v : Byte) : State :=
  if (failingSources (testSources s v)).isEmpty then testSources s v
  else judgeChain ((failingSources (testSources s v)).foldl (fun s b => failSource s b.1 b.2) (testSources s v))

theorem takeInstant_eq (s : State) (v : Byte) : takeInstant s v = afterBits (afterTests s v) v := by
  unfold takeInstant
  extract_lets t bad u
  have hu : afterTests s v = u := rfl
  rw [hu]
  clear_value u
  rfl

theorem capture_eq (w : Winnower) (b : Bool) : ∃ cap capLen fifo overflow,
    w.capture b = { w with cap := cap, capLen := capLen, fifo := fifo, overflow := overflow } := by
  unfold Winnower.capture
  dsimp only
  split
  · exact ⟨_, _, _, _, rfl⟩
  · split <;> exact ⟨_, _, _, _, rfl⟩

theorem captured_eq (s : State) (v : Byte) : ∃ cap capLen fifo overflow,
    captured s v = { compressInstant s v with cap := cap, capLen := capLen, fifo := fifo, overflow := overflow } := by
  unfold captured
  split
  · exact capture_eq _ _
  · exact ⟨_, _, _, _, rfl⟩

theorem compressInstant_only (s : State) (v : Byte) : CompressorOnly s.win (compressInstant s v) := pushed_only _ _ _

theorem captured_repeats (s : State) (v : Byte) : (captured s v).repeats = (compressInstant s v).repeats := by
  obtain ⟨_, _, _, _, h⟩ := captured_eq s v
  rw [h]

theorem compressInstant_state (s : State) (v : Byte) : (compressInstant s v).state = s.win.state := by
  rw [compressInstant_only s v]

theorem compressInstant_src (s : State) (v : Byte) : (compressInstant s v).src = s.win.src := by
  rw [compressInstant_only s v]

theorem compressInstant_seeding (s : State) (v : Byte) : (compressInstant s v).seeding = s.win.seeding := by
  rw [compressInstant_only s v]

theorem compressInstant_testTap (s : State) (v : Byte) : (compressInstant s v).testTap = s.win.testTap := by
  rw [compressInstant_only s v]

theorem compressInstant_testSrc (s : State) (v : Byte) : (compressInstant s v).testSrc = s.win.testSrc := by
  rw [compressInstant_only s v]

theorem captured_run {s : State} (h : s.win.state = .run) (v : Byte) : captured s v = compressInstant s v := by
  refine if_neg ?_
  rw [compressInstant_state, h]
  exact Bool.false_ne_true

/-- In test mode without the tap the raw bit of the source is captured. -/
theorem captured_testmode {s : State} (h : s.win.state = .testmode) (htap : s.win.testTap = false) (v : Byte) :
    captured s v = (compressInstant s v).capture (v.getLsbD s.win.testSrc) := by
  rw [← compressInstant_testSrc s v]
  refine if_pos ?_
  rw [compressInstant_state, compressInstant_testTap, h, htap]
  rfl

/-- Four blocks, and no more, instantiate one DRBG. -/
theorem deliver_four {s : State} (hrun : s.win.state = .run) {i : Nat} {rest : List Nat} {b0 b1 b2 b3 : BitVec 128}
    (hseeding : s.win.seeding = i :: rest) (hblocks : s.win.blocks = [b0, b1, b2, b3]) :
    drbgServes (deliver 9 s) i = true ∧ (deliver 9 s).win.seeding = rest ∧ (deliver 9 s).win.blocks = [] ∧
      (i = 8 → (deliver 9 s).grn.recKey.isSome = true) := by
  rw [deliver_next (by rw [winRuns, hrun]; rfl) hseeding hblocks 8]
  obtain ⟨u, hu⟩ : ∃ u : State, u = { s with win := { s.win with seeding := rest, blocks := [] } } := ⟨_, rfl⟩
  rw [← hu]
  generalize [b0, b1, b2, b3].flatMap ofBlock = entropy
  obtain ⟨drbg, hwin⟩ := instantiateDrbg_win u i entropy
  have hdone : (instantiateDrbg u i entropy).win.blocks = [] := by rw [hwin, hu]
  rw [deliver_idle (.inr (.inl (by rw [hdone]; decide)))]
  refine ⟨instantiateDrbg_serves (by rw [hu]; exact hrun) i entropy, by rw [hwin, hu], hdone, fun hi => ?_⟩
  rw [hi]
  exact instantiateDrbg_recKey _ _

section
variable {s : State} {v : Byte}

theorem afterBits_goes (hstate : s.win.state = .run ∨ s.win.state = .testmode) : ∃ t, TallyOnly { s with win := captured s v } t ∧
    afterBits s v = if (captured s v).repeats then selfCheckFail { t with win := { captured s v with repeats := false } } else deliver 9 t :=
  ⟨_, .ite (setInt_only _ _ _) (.refl _), if_pos hstate⟩

theorem afterBits_repeats (hstate : s.win.state = .run ∨ s.win.state = .testmode) (h : (compressInstant s v).repeats = true) :
    ChainFailed (afterBits s v) := by
  obtain ⟨t, -, heq⟩ := afterBits_goes (v := v) hstate
  rw [heq, captured_repeats, h]
  exact selfCheckFail_fails _

theorem afterBits_delivers (hstate : s.win.state = .run ∨ s.win.state = .testmode) (h : (compressInstant s v).repeats = false) :
    ∃ t : State, t.win = captured s v ∧ afterBits s v = deliver 9 t := by
  obtain ⟨t, ht, heq⟩ := afterBits_goes (v := v) hstate
  rw [captured_repeats, h] at heq
  exact ⟨t, ht.win, heq⟩

/-- What an instant leaves of the winnower. -/
theorem afterBits_win (hstate : s.win.state = .run ∨ s.win.state = .testmode) : ∃ st fail once repeats seeding blocks drbg,
    (afterBits s v).win = { captured s v with
      state := st, selfFail := fail, stoppedOnce := once, repeats := repeats, seeding := seeding, blocks := blocks, drbg := drbg } := by
  obtain ⟨t, ht, heq⟩ := afterBits_goes (v := v) hstate
  rw [heq]
  split
  · exact ⟨_, _, _, _, _, _, _, selfCheckFail_win _⟩
  · obtain ⟨_, _, _, hwin⟩ := deliver_win 9 t
    rw [hwin, ht.win]
    exact ⟨_, _, _, _, _, _, _, rfl⟩

theorem afterBits_src : (afterBits s v).win.src = s.win.src := by
  by_cases hstate : s.win.state = .run ∨ s.win.state = .testmode
  · obtain ⟨_, _, _, _, _, _, _, hwin⟩ := afterBits_win (v := v) hstate
    obtain ⟨_, _, _, _, hcaptured⟩ := captured_eq s v
    rw [hwin, hcaptured]
    exact compressInstant_src s v
  · rw [afterBits, if_neg hstate]

theorem afterBits_source (n : Nat) : (afterBits s v).source n = s.source n := by
  unfold State.source
  rw [afterBits_src]

theorem afterBits_lfsr (hstate : s.win.state = .run ∨ s.win.state = .testmode) :
    (afterBits s v).win.lfsr = shifted (healthyList s) v s.win.lfsr := by
  obtain ⟨_, _, _, _, _, _, _, hwin⟩ := afterBits_win (v := v) hstate
  obtain ⟨_, _, _, _, hcaptured⟩ := captured_eq s v
  rw [hwin, hcaptured]
  exact pushed_lfsr _ _ _

/-- With no DRBG to be instantiated, or short of four blocks, an instant in RUN is over with the compressor. -/
theorem afterBits_run (hrun : s.win.state = .run) (h : (compressInstant s v).repeats = false)
    (hidle : (compressInstant s v).blocks.length < 4 ∨ s.win.seeding = []) : (afterBits s v).win = compressInstant s v := by
  obtain ⟨t, ht, heq⟩ := afterBits_delivers (.inl hrun) h
  rw [captured_run hrun] at ht
  have hseeding : t.win.seeding = s.win.seeding := by rw [ht, compressInstant_seeding]
  rw [heq, deliver_idle, ht]
  rw [hseeding, ht]
  exact hidle.elim (fun h => .inr (.inl h)) .inl

/-- With four blocks an instant in RUN instantiates the next DRBG. -/
theorem afterBits_instantiates (hrun : s.win.state = .run) (h : (compressInstant s v).repeats = false) {i : Nat} {rest : List Nat}
    {b0 b1 b2 b3 : BitVec 128} (hseeding : s.win.seeding = i :: rest) (hblocks : (compressInstant s v).blocks = [b0, b1, b2, b3]) :
    drbgServes (afterBits s v) i = true ∧ (afterBits s v).win.seeding = rest ∧ (afterBits s v).win.blocks = [] ∧
      (i = 8 → (afterBits s v).grn.recKey.isSome = true) := by
  obtain ⟨t, ht, heq⟩ := afterBits_delivers (.inl hrun) h
  rw [captured_run hrun] at ht
  rw [heq]
  exact deliver_four (by rw [ht, compressInstant_state, hrun]) (by rw [ht, compressInstant_seeding, hseeding]) (by rw [ht, hblocks])

/-- The captured bits after an instant in test mode without the tap (R250, R252). -/
theorem afterBits_captures (hstate : s.win.state = .testmode) (htap : s.win.testTap = false) :
    ∃ w, SameCapture s.win w ∧ SameCapture (w.capture (v.getLsbD s.win.testSrc)) (afterBits s v).win := by
  obtain ⟨_, _, _, _, _, _, _, hcompress⟩ := afterBits_win (v := v) (.inr hstate)
  rw [captured_testmode hstate htap] at hcompress
  refine ⟨_, pushed_uncaptured (healthyList s) v (by rw [hstate, htap]; rfl), ?_⟩
  rw [hcompress, ← compressInstant_eq]
  exact ⟨rfl, rfl, rfl⟩

end

/-! ### The instant's tests (R244, R246) -/

section
variable (s : State) (v : Byte)

theorem testSources_state (n : Nat) : ((testSources s v).source n).state = (s.source n).state := by
  rw [testSources_source]
  split
  · exact (take_record _ _).state
  · rfl

theorem healthyList_testSources : healthyList (testSources s v) = healthyList s :=
  List.filter_congr (fun n _ => by rw [testSources_state])

theorem mem_healthyList {s : State} {n : Nat} : n ∈ healthyList s ↔ n < 8 ∧ (s.source n).state = 1 := by
  unfold healthyList
  rw [List.mem_filter, List.mem_range, beq_iff_eq]

theorem healthyList_nodup : (healthyList s).Nodup := List.nodup_range.filter _

theorem compressInstant_testSources : compressInstant (testSources s v) v = { compressInstant s v with src := (testSources s v).win.src } := by
  rw [compressInstant_eq, healthyList_testSources, compressInstant_eq]
  have hwin := testSources_win s v
  generalize (testSources s v).win = w at hwin ⊢
  conv_lhs => rw [hwin]
  exact pushed_src _ _ _ _

theorem failingSources_testSources :
    failingSources (testSources s v) = (healthyList s).filterMap (fun n => (failsOn s v n).map (fun r => (n, r))) := by
  unfold failingSources healthyList
  rw [List.filterMap_filter]
  refine List.filterMap_congr (fun n hn => ?_)
  rw [testSources_state, testSources_source, if_pos hn]
  by_cases hstate : (s.source n).state = 1
  · rw [if_pos hstate, if_pos (beq_iff_eq.mpr hstate)]
    rfl
  · rw [if_neg hstate, if_neg (by rwa [beq_iff_eq])]

variable {s v}

theorem afterTests_of_pass (h : ∀ n ∈ healthyList s, failsOn s v n = none) : afterTests s v = testSources s v := by
  refine if_pos ?_
  rw [failingSources_testSources, List.isEmpty_iff, List.filterMap_eq_nil_iff]
  exact fun n hn => by rw [h n hn, Option.map_none]

theorem filterMap_eq_singleton {α β : Type} {f : α → Option β} {l : List α} (hl : l.Nodup) {a : α} {b : β} (ha : a ∈ l) (hb : f a = some b)
    (h : ∀ x ∈ l, x ≠ a → f x = none) : l.filterMap f = [b] := by
  obtain ⟨pre, post, rfl⟩ := List.append_of_mem ha
  have hmid := List.nodup_middle.mp hl
  rw [List.nodup_cons, List.mem_append, not_or] at hmid
  obtain ⟨⟨hpre, hpost⟩, -⟩ := hmid
  rw [List.filterMap_append, List.filterMap_cons_some hb,
    List.filterMap_eq_nil_iff.mpr (fun x hx => h x (by simp [hx]) (fun hxa => hpre (hxa ▸ hx))),
    List.filterMap_eq_nil_iff.mpr (fun x hx => h x (by simp [hx]) (fun hxa => hpost (hxa ▸ hx)))]
  rfl

theorem afterTests_of_fail {src : Nat} {rct : Bool} (hsrc : src ∈ healthyList s) (hfails : failsOn s v src = some rct)
    (h : ∀ n ∈ healthyList s, n ≠ src → failsOn s v n = none) :
    afterTests s v = judgeChain (failSource (testSources s v) src rct) := by
  have hfailing : failingSources (testSources s v) = [(src, rct)] := by
    rw [failingSources_testSources]
    exact filterMap_eq_singleton (healthyList_nodup s) hsrc (by rw [hfails]; rfl) (fun n hn hne => by rw [h n hn hne]; rfl)
  unfold afterTests
  rw [hfailing]
  rfl

end

/-! ### An instant that every healthy source passes -/

section
variable {s : State} {v : Byte} (h : ∀ n ∈ healthyList s, failsOn s v n = none)
include h

theorem instant_source {n : Nat} (hn : n < 8) : (takeInstant s v).source n = (s.source n).take (v.getLsbD n) := by
  rw [takeInstant_eq, afterTests_of_pass h, afterBits_source, testSources_source, if_pos (List.mem_range.mpr hn)]

theorem afterTests_winState : (afterTests s v).win.state = s.win.state := by rw [afterTests_of_pass h, testSources_win]

theorem instant_lfsr (hstate : s.win.state = .run ∨ s.win.state = .testmode) :
    (takeInstant s v).win.lfsr = shifted (healthyList s) v s.win.lfsr := by
  rw [takeInstant_eq, afterBits_lfsr (by rwa [afterTests_winState h]), afterTests_of_pass h, healthyList_testSources, testSources_win]

theorem tested_compressInstant : compressInstant (afterTests s v) v = { compressInstant s v with src := (afterTests s v).win.src } := by
  rw [afterTests_of_pass h]
  exact compressInstant_testSources s v

theorem instant_repeats (hstate : s.win.state = .run ∨ s.win.state = .testmode) (hrepeats : (compressInstant s v).repeats = true) :
    ChainFailed (takeInstant s v) := by
  rw [takeInstant_eq]
  exact afterBits_repeats (by rwa [afterTests_winState h]) (by rw [tested_compressInstant h]; exact hrepeats)

theorem instant_win (hrun : s.win.state = .run) (hrepeats : (compressInstant s v).repeats = false)
    (hidle : (compressInstant s v).blocks.length < 4 ∨ s.win.seeding = []) :
    (takeInstant s v).win = { compressInstant s v with src := (takeInstant s v).win.src } := by
  have hcompress := tested_compressInstant h
  have hseeding : (afterTests s v).win.seeding = s.win.seeding := by rw [afterTests_of_pass h, testSources_win]
  rw [takeInstant_eq, afterBits_src, afterBits_run (by rw [afterTests_winState h, hrun]) (by rw [hcompress]; exact hrepeats), hcompress]
  rw [hseeding, hcompress]
  exact hidle

theorem instant_instantiates (hrun : s.win.state = .run) (hrepeats : (compressInstant s v).repeats = false) {i : Nat} {rest : List Nat}
    {b0 b1 b2 b3 : BitVec 128} (hseeding : s.win.seeding = i :: rest) (hblocks : (compressInstant s v).blocks = [b0, b1, b2, b3]) :
    drbgServes (takeInstant s v) i = true ∧ (takeInstant s v).win.seeding = rest ∧ (takeInstant s v).win.blocks = [] ∧
      (i = 8 → (takeInstant s v).grn.recKey.isSome = true) := by
  have hcompress := tested_compressInstant h
  have htested : (afterTests s v).win.seeding = s.win.seeding := by rw [afterTests_of_pass h, testSources_win]
  rw [takeInstant_eq]
  exact afterBits_instantiates (by rw [afterTests_winState h, hrun]) (by rw [hcompress]; exact hrepeats) (htested.trans hseeding)
    (by rw [hcompress]; exact hblocks)

/-- The captured bits after an instant in test mode without the tap (R250, R252). -/
theorem instant_captures (hstate : s.win.state = .testmode) (htap : s.win.testTap = false) :
    ∃ w, SameCapture s.win w ∧ SameCapture (w.capture (v.getLsbD s.win.testSrc)) (takeInstant s v).win := by
  have hwin := testSources_win s v
  rw [takeInstant_eq, afterTests_of_pass h]
  generalize testSources s v = t at hwin ⊢
  have hsrc : t.win.testSrc = s.win.testSrc := by rw [hwin]
  obtain ⟨w, ⟨hcap, hlen, hfifo⟩, hcompress⟩ := afterBits_captures (s := t) (v := v) (by rw [hwin]; exact hstate) (by rw [hwin]; exact htap)
  rw [hsrc] at hcompress
  rw [hwin] at hcap hlen hfifo
  exact ⟨w, ⟨hcap, hlen, hfifo⟩, hcompress⟩

end

end Sys2Proof.Machine
end


section
/-! Proofs: an instant on which a source fails, and a source's rerun of the start-up test (R246 to R248). -/

namespace Sys2Proof.Machine

open Sys2Proof Sys2Proof.Bits

/-! ### What a judgement after a failure leaves (R247) -/

theorem judgeChain_lfsr (s : State) : (judgeChain s).win.lfsr = s.win.lfsr := by
  obtain ⟨_, _, _, _, hwin⟩ := judgeChain_win s
  rw [hwin]

theorem judgeChain_blocks (s : State) : (judgeChain s).win.blocks = s.win.blocks := by
  obtain ⟨_, _, _, _, hwin⟩ := judgeChain_win s
  rw [hwin]

theorem failSource_lfsr (s : State) (n : Nat) (rct : Bool) : (failSource s n rct).win.lfsr = 0 := by
  rw [failSource_discards]
  rfl

theorem failSource_blocks (s : State) (n : Nat) (rct : Bool) : (failSource s n rct).win.blocks = [] := by
  rw [failSource_discards]
  rfl

/-! ### A source fails on an instant -/

section
variable {s : State} {v : Byte} {src : Nat} {rct : Bool}

/-- The state after the failure, before the chain is judged. -/
def afterFailure (s : State) (v : Byte) (src : Nat) (rct : Bool) : State := failSource (testSources s v) src rct

theorem afterFailure_winState : (afterFailure s v src rct).win.state = s.win.state := by
  rw [afterFailure, (failSource_only _ _ _).winState, testSources_win]

theorem afterFailure_source (n : Nat) : (afterFailure s v src rct).source n =
    if n = src then failedSource ((testSources s v).source src) rct else (testSources s v).source n := failSource_source _ _ _ _

theorem healthyList_afterFailure : healthyList (afterFailure s v src rct) = (healthyList s).filter (· ≠ src) := by
  unfold healthyList
  rw [List.filter_filter]
  refine List.filter_congr (fun n _ => ?_)
  rw [afterFailure_source]
  by_cases hn : n = src
  · rw [if_pos hn, beq_eq_false_iff_ne.mpr (failedSource_excluded _ _)]
    simp [hn]
  · rw [if_neg hn, testSources_state]
    simp [hn]

theorem length_filter_ne (hsrc : src ∈ healthyList s) : ((healthyList s).filter (· ≠ src)).length + 1 = (healthyList s).length := by
  have herase := (healthyList_nodup s).erase_eq_filter src
  have hlen := List.length_erase_add_one hsrc
  rw [herase] at hlen
  rw [← hlen]
  congr 2
  exact List.filter_congr (fun n _ => by simp [bne, Bool.beq_eq_decide_eq])

variable (hrun : s.win.state = .run) (hsrc : src ∈ healthyList s) (hfails : failsOn s v src = some rct)
  (hothers : ∀ n ∈ healthyList s, n ≠ src → failsOn s v n = none)
include hsrc hfails hothers

theorem takeInstant_of_fail : takeInstant s v = afterBits (judgeChain (afterFailure s v src rct)) v := by
  rw [takeInstant_eq, afterTests_of_fail hsrc hfails hothers]
  rfl

theorem instant_fail_source (n : Nat) : (takeInstant s v).source n = (afterFailure s v src rct).source n := by
  rw [takeInstant_of_fail hsrc hfails hothers, afterBits_source, judgeChain_source]

theorem instant_fail_state {n : Nat} (hn : n ≠ src) : ((takeInstant s v).source n).state = (s.source n).state := by
  rw [instant_fail_source hsrc hfails hothers, afterFailure_source, if_neg hn, testSources_state]

/-- The source that fails is counted by its test, and excluded or dead (R246). -/
theorem instant_failedSource : let x := s.source src
    ((takeInstant s v).source src).state = (if 4 ≤ x.fails + 1 then 3 else 2) ∧
    ((takeInstant s v).source src).fails = min 4 (x.fails + 1) ∧
    ((takeInstant s v).source src).rct = (if rct then min 1023 (x.rct + 1) else x.rct) ∧
    ((takeInstant s v).source src).apt = (if rct then x.apt else min 1023 (x.apt + 1)) := by
  obtain ⟨-, hfails', hrct, hapt, -⟩ := take_record (s.source src) (v.getLsbD src)
  rw [instant_fail_source hsrc hfails hothers, afterFailure_source, if_pos rfl, testSources_source,
    if_pos (List.mem_range.mpr (mem_healthyList.mp hsrc).1)]
  refine ⟨?_, ?_, ?_, ?_⟩ <;> simp [failedSource, countedSource, hfails', hrct, hapt]

include hrun

/-- Short of 4 healthy sources the chain stops with the failure (R247). -/
theorem instant_fail_stops (hlow : (healthyList s).length < 5) :
    (takeInstant s v).win.state = .stopped ∧ (takeInstant s v).win.lfsr = 0 ∧ (takeInstant s v).win.blocks = [] := by
  have hfew : healthySources (afterFailure s v src rct) < 4 := by
    have := length_filter_ne hsrc
    rw [healthySources_eq, healthyList_afterFailure]
    omega
  have hstopped : (judgeChain (afterFailure s v src rct)).win.state = .stopped := by
    rw [judgeChain_runs (afterFailure_winState.trans hrun), if_pos hfew, stopChain_win]
  rw [takeInstant_of_fail hsrc hfails hothers, afterBits, if_neg (by rw [hstopped]; decide)]
  exact ⟨hstopped, (judgeChain_lfsr _).trans (failSource_lfsr _ _ _), (judgeChain_blocks _).trans (failSource_blocks _ _ _)⟩

/-- With 4 and more healthy sources the chain runs on from a discarded compressor, into which the others' bits go (R241, R248). -/
theorem instant_fail_runs (hmany : 5 ≤ (healthyList s).length) :
    (takeInstant s v).win.state = .run ∧ (takeInstant s v).win.lfsr = shifted ((healthyList s).filter (· ≠ src)) v 0 ∧
      (takeInstant s v).win.blocks = [] := by
  have hlen := length_filter_ne hsrc
  have hdroppedRun : (afterFailure s v src rct).win.state = .run := afterFailure_winState.trans hrun
  have hkept : judgeChain (afterFailure s v src rct) = afterFailure s v src rct := by
    rw [judgeChain_runs hdroppedRun, if_neg (by rw [healthySources_eq, healthyList_afterFailure]; omega)]
  have hlfsr : (afterFailure s v src rct).win.lfsr = 0 := failSource_lfsr _ _ _
  have hblocks : (afterFailure s v src rct).win.blocks = [] := failSource_blocks _ _ _
  have hrepeats : (afterFailure s v src rct).win.repeats = false := by
    rw [afterFailure, failSource_discards]
    rfl
  have hword : (afterFailure s v src rct).win.wordLen = 0 := by
    rw [afterFailure, failSource_discards]
    rfl
  have hfewBits : (afterFailure s v src rct).win.wordLen + (healthyList (afterFailure s v src rct)).length ≤ 63 := by
    have : (healthyList (afterFailure s v src rct)).length ≤ (List.range 8).length := List.length_filter_le _ _
    rw [List.length_range] at this
    omega
  obtain ⟨kblocks, krepeats, -⟩ := pushed_grown _ v hfewBits
  rw [← compressInstant_eq] at kblocks krepeats
  have hshort : (compressInstant (afterFailure s v src rct) v).blocks.length < 4 := by
    rw [kblocks, hblocks]
    decide
  have hwin := afterBits_run hdroppedRun (krepeats.trans hrepeats) (.inl hshort)
  rw [takeInstant_of_fail hsrc hfails hothers, hkept]
  refine ⟨by rw [hwin, compressInstant_state, hdroppedRun], ?_, by rw [hwin, kblocks, hblocks]⟩
  rw [afterBits_lfsr (.inl hdroppedRun), healthyList_afterFailure, hlfsr]

end

/-! ### A source reruns its start-up test (R246, R247) -/

section
variable (s : State) (src : Fin 8) (samples : Samples)

/-- The state after the rerun. -/
def afterRetest (s : State) (src : Nat) (samples : Samples) : State :=
  match startVerdict (s.source src) samples with
  | (none, y) => judgeChain (s.setSource src { y with state := 1, readmits := min 3 ((s.source src).readmits + 1) })
  | (some t, y) => judgeChain (failSource (s.setSource src y) src t)

theorem sourceRetest_exec (hkeep : keepRuns s = true) (hstate : (s.source src).state = 2) (raw : Raw) :
    exec (.sourceRetest src samples raw) s = done (takeRaw (afterRetest s src samples) raw) := by
  have hgo : (!keepRuns s || (s.source src).state != 2) = false := by rw [hkeep, hstate]; rfl
  change execSourceRetest src samples raw s = _
  unfold execSourceRetest afterRetest
  dsimp only
  rw [hgo, if_neg Bool.false_ne_true]
  rcases startVerdict (s.source src) samples with ⟨_ | t, y⟩ <;> rfl

variable {s src samples}

/-- A source that passes is readmitted. -/
theorem afterRetest_of_pass (h : (startVerdict (s.source src) samples).1 = none) : ∃ y, y.state = 1 ∧
    y.readmits = min 3 ((s.source src).readmits + 1) ∧ afterRetest s src samples = judgeChain (s.setSource src y) := by
  unfold afterRetest
  rcases hverdict : startVerdict (s.source src) samples with ⟨_ | t, y⟩
  · exact ⟨_, rfl, rfl, rfl⟩
  · rw [hverdict] at h
    cases h

/-- The fourth healthy source lets a stopped chain return. -/
theorem judgeChain_readmitted {y : Source} (hy : y.state = 1) (hsrc : (s.source src).state ≠ 1) (hstopped : s.win.state = .stopped)
    (hfail : s.win.selfFail = false) (hmany : 3 ≤ (healthyList s).length) :
    judgeChain (s.setSource src y) = resumeChain (s.setSource src y) := by
  have hsub : (src.val :: healthyList s) ⊆ healthyList (s.setSource src y) := by
    intro n hn
    rw [mem_healthyList, setSource_source]
    rw [List.mem_cons, mem_healthyList] at hn
    rcases hn with rfl | ⟨hlt, hstate⟩
    · exact ⟨src.isLt, by rw [if_pos rfl, hy]⟩
    · refine ⟨hlt, ?_⟩
      split
      · exact hy
      · exact hstate
  have hnodup : (src.val :: healthyList s).Nodup :=
    List.nodup_cons.mpr ⟨fun h => hsrc (mem_healthyList.mp h).2, healthyList_nodup s⟩
  have hlen := (List.subperm_of_subset hnodup hsub).length_le
  rw [List.length_cons] at hlen
  have hstopped' : (s.setSource src y).win.state = .stopped := hstopped
  have hfail' : (s.setSource src y).win.selfFail = false := hfail
  rw [judgeChain_stopped hstopped', if_pos ⟨by rw [healthySources_eq]; omega, by rw [hfail']; rfl⟩]

theorem resumeChain_runs (s : State) : (resumeChain s).win.state = .run ∧ (resumeChain s).win.seeding = [8, 0, 1, 2, 3, 4, 5, 6, 7] ∧
    ∀ b, drbgServes (resumeChain s) b = false := by
  have hwin := resumeChain_win s
  exact ⟨by rw [hwin]; rfl, by rw [hwin]; rfl, fun b => (drbgServes_of_win hwin b).trans (startSeeding_serves s b)⟩

/-- A source that fails again is counted, and what the compressor holds is discarded. -/
theorem afterRetest_of_fail (h : (startVerdict (s.source src) samples).1 ≠ none) :
    ((afterRetest s src samples).source src).state = (if 4 ≤ (s.source src).fails + 1 then 3 else 2) ∧
    (afterRetest s src samples).win.lfsr = 0 ∧ (afterRetest s src samples).win.blocks = [] := by
  have hrecord := (startVerdict_record (s.source src) samples).fails
  unfold afterRetest
  rcases hverdict : startVerdict (s.source src) samples with ⟨_ | t, y⟩
  · rw [hverdict] at h
    exact absurd rfl h
  · rw [hverdict] at hrecord
    dsimp only at hrecord ⊢
    refine ⟨?_, (judgeChain_lfsr _).trans (failSource_lfsr _ _ _), (judgeChain_blocks _).trans (failSource_blocks _ _ _)⟩
    rw [judgeChain_source, failSource_source, if_pos rfl, State.setSource_self, ← hrecord]
    rfl

end

end Sys2Proof.Machine
end


section
/-! Proofs: the rows of the random chain (O46). -/

namespace Sys2Proof.Machine

open Sys2Proof Sys2Proof.Bits

/-! ### Start-up (R245) -/

section
variable (s : State) (start : List Samples)

theorem startSources_selfFail : (startSources start s).win.selfFail = s.win.selfFail := (startSources_only start s).selfFail

/-- The chain as the start-up gating ends, before a raw bit follows. -/
def startedChain (s : State) (start : List Samples) : State :=
  startSeeding { startSources start s with win := { (startSources start s).win with retest := false } }

theorem startupDone_exec (hkeep : keepRuns s = true) (hstate : s.win.state = .starting) (hfail : s.win.selfFail = false)
    (hpass : 4 ≤ passing s start) (raw : Raw) : exec (.winnowerStartupDone ⟨start, raw⟩) s = done (takeRaw (startedChain s start) raw) := by
  have hgo : (keepRuns s && s.win.state == .starting && !s.win.selfFail && decide (4 ≤ passing s start)) = true := by
    rw [hkeep, hstate, hfail, decide_eq_true hpass]
    rfl
  change execWinnowerStartupDone ⟨start, raw⟩ s = _
  unfold execWinnowerStartupDone startedChain
  dsimp only
  rw [startSources_healthy, if_pos hgo]

theorem startedChain_source {n : Nat} (hn : n < 8) (hlive : (s.source n).state ≠ 3) :
    ((startedChain s start).source n).state = 1 ↔ (startVerdict (s.source n) (start.getD n 0)).1 = none := by
  have hsource : (startedChain s start).source n = (startSources start s).source n := by
    unfold startedChain
    generalize startSources start s = t
    rfl
  rw [hsource, startSources_source, if_pos (List.mem_range.mpr hn), startedSource_healthy]
  exact and_iff_right hlive

/-- The chain after a start-up that failed. -/
def unstartedChain (s : State) (start : List Samples) (kat : Bool) : State :=
  stopChain { startSources start s with win := { (startSources start s).win with
    selfFail := (startSources start s).win.selfFail || kat
    retest := false } }

theorem startupTimeout_exec (hkeep : keepRuns s = true) (hstate : s.win.state = .starting) (kat : Bool)
    (hfail : kat = true ∨ passing s start < 4) : exec (.winnowerStartupTimeout start kat) s =
      done (if s.win.retest then unstartedChain s start kat else bootStall (unstartedChain s start kat) 7) := by
  have hgo : (keepRuns s && s.win.state == .starting && (kat || decide (passing s start < 4))) = true := by
    rw [hkeep, hstate]
    rcases hfail with h | h <;> simp [h]
  change execWinnowerStartupTimeout start kat s = _
  unfold execWinnowerStartupTimeout unstartedChain
  dsimp only
  rw [startSources_healthy, if_pos hgo]

theorem unstartedChain_win (kat : Bool) : (unstartedChain s start kat).win.state = .stopped ∧
    (unstartedChain s start kat).win.selfFail = (s.win.selfFail || kat) ∧ (unstartedChain s start kat).win.stoppedOnce = true := by
  unfold unstartedChain
  rw [stopChain_win, startSources_selfFail]
  exact ⟨rfl, rfl, rfl⟩

theorem unstartedChain_boot (kat : Bool) : (unstartedChain s start kat).boot = s.boot := by
  have hboot := (startSources_only start s).boot
  unfold unstartedChain
  rw [stopChain_boot]
  generalize startSources start s = t at hboot ⊢
  exact hboot

end

/-! ### Reseeds (R135, R242, R243) -/

theorem serveNonces_idle {s : State} (h : s.ofc.waiting = 0) : serveNonces s = s := if_pos (.inl h)

theorem drbgReseed_raw {s : State} {raw : Raw} (hkeep : keepRuns s = true) (hkeep' : keepRuns (takeRaw s raw) = true) (d : Fin 9) (cond kat : Bool) :
    exec (.drbgReseed d raw cond kat) s = exec (.drbgReseed d [] cond kat) (takeRaw s raw) := by
  change execDrbgReseed d raw cond kat s = execDrbgReseed d [] cond kat (takeRaw s raw)
  unfold execDrbgReseed
  rw [hkeep, hkeep']
  generalize takeRaw s raw = t
  rfl

section
variable {s : State} {d : Fin 9} (hkeep : keepRuns s = true) (hseeding : s.win.seeding = [])
include hkeep hseeding

theorem drbgReseed_idle (hstill : winRuns s = false ∨ (s.drbg d).serving = false) (cond kat : Bool) :
    exec (.drbgReseed d [] cond kat) s = done s := by
  change execDrbgReseed d [] cond kat s = done s
  unfold execDrbgReseed takeRaw
  rw [List.foldl_nil, deliver_idle (.inl hseeding), hkeep]
  rcases hstill with h | h <;> simp [h]

variable (hrun : winRuns s = true) (hserving : (s.drbg d).serving = true)
include hrun hserving

theorem drbgReseed_fails {cond kat : Bool} (hfail : (cond || kat) = true) :
    exec (.drbgReseed d [] cond kat) s = done (selfCheckFail s) := by
  change execDrbgReseed d [] cond kat s = done (selfCheckFail s)
  unfold execDrbgReseed takeRaw
  rw [List.foldl_nil, deliver_idle (.inl hseeding), hkeep]
  simp [hrun, hserving, hfail]

theorem drbgReseed_short (hblocks : s.win.blocks.length < 2) : exec (.drbgReseed d [] false false) s = done s := by
  change execDrbgReseed d [] false false s = done s
  unfold execDrbgReseed takeRaw
  rw [List.foldl_nil, deliver_idle (.inl hseeding), hkeep]
  dsimp only
  rw [hrun, hserving]
  match hb : s.win.blocks, hblocks with
  | [], _ => rfl
  | [_], _ => rfl

theorem drbgReseed_absorbs {a b : BitVec 128} {rest : List (BitVec 128)} (hblocks : s.win.blocks = a :: b :: rest) :
    exec (.drbgReseed d [] false false) s = done (serveNonces (perfCount
      { s.setDrbg d { drbgUpdate (s.drbg d) (drbgDf (ofBlock a ++ ofBlock b)) with ctr := 0, overdue := false } with
        win := { (s.setDrbg d { drbgUpdate (s.drbg d) (drbgDf (ofBlock a ++ ofBlock b)) with ctr := 0, overdue := false }).win with
          blocks := rest } } winPage 0x040 2)) := by
  change execDrbgReseed d [] false false s = _
  unfold execDrbgReseed takeRaw
  rw [List.foldl_nil, deliver_idle (.inl hseeding), hkeep]
  dsimp only
  rw [hrun, hserving, hblocks]
  rfl

end

/-! ### Waits that end (R69, R205, R308) -/

theorem waitsRandom_reserved {s : State} {e : Nat} (h : waitsRandom s e = true) : (s.entry e).state = .reserved := by
  unfold waitsRandom at h
  rw [Bool.and_eq_true, beq_iff_eq] at h
  exact h.1

theorem rngWaitTimeout_request {s : State} {e : Fin 69632} (h : starvedBne s e = none) :
    exec (.rngWaitTimeout (.request e)) s = done (if waitsRandom s e then endRequest s e St.rngUnavailable else s) := by
  change execRngWaitTimeout (.request e) s = _
  unfold execRngWaitTimeout
  dsimp only
  rw [h]

theorem rngWaitTimeout_starved {s : State} {e : Fin 69632} {k : Nat} (h : starvedBne s e = some k) :
    exec (.rngWaitTimeout (.request e)) s =
      done (s.setBne k { s.bne k with run := (s.bne k).run.map (fun p => { p with draw := none }) }) := by
  change execRngWaitTimeout (.request e) s = _
  unfold execRngWaitTimeout
  dsimp only
  rw [h]

theorem endRequest_unserved {s : State} {e : Nat} (h : Underway (s.entry e)) : ((endRequest s e St.rngUnavailable).entry e).state = .staged ∧
    ((endRequest s e St.rngUnavailable).entry e).status = St.rngUnavailable ∧ ((endRequest s e St.rngUnavailable).entry e).out = [] := by
  obtain ⟨hstate, hstatus, -, hout, -⟩ := endRequestWith_entry (r := 0) (st := St.rngUnavailable) h
  exact ⟨hstate, hstatus, hout⟩

/-! ### Test mode (R250) -/

theorem winTestEnable_exec {s : State} {v : Word} (hkeep : keepRuns s = true) (hen : s.win.testEn = false) (hv : v.getLsbD 0 = true)
    (hlc : lcCode s = lcTest ∨ lcCode s = lcAnalysis) : exec (.winTestEnable v) s =
      done (postWinnower { winTestFields s v true with win := { (winTestFields s v true).win with state := .testmode } } 4 0) := by
  change execWinTestEnable v s = _
  unfold execWinTestEnable
  rw [hkeep, hen, hv, if_pos hlc]
  rfl

theorem winTestDisable_exec {s : State} {v : Word} (hkeep : keepRuns s = true) (hen : s.win.testEn = true) (hv : v.getLsbD 0 = false) :
    exec (.winTestDisable v) s = done (leaveTestMode (winTestFields s v false)) := by
  change execWinTestDisable v s = _
  unfold execWinTestDisable
  rw [hkeep, hen, hv]
  rfl

end Sys2Proof.Machine
end


section
/-! Proofs: the random-number chain (O46). -/

namespace Sys2Proof.Machine

open Sys2Proof Sys2Proof.Bits

theorem sourceHealthFail_exec {s : State} (hkeep : keepRuns s = true) (raw : Raw) (v : Byte) :
    exec (.sourceHealthFail raw v) s = done (takeInstant (takeRaw s raw) v) := by
  change execSourceHealthFail raw v s = _
  unfold execSourceHealthFail
  rw [if_pos hkeep]

theorem winRuns_iff {s : State} : winRuns s = true ↔ s.win.state = .run := beq_iff_eq

theorem leaveTestMode_win (s : State) : ∃ src, (leaveTestMode s).win =
    ({ s.win with
      state := if s.win.selfFail then .stopped else .starting
      testEn := false
      retest := true
      src := src
      lastBlock := none
      seeding := []
      drbg := [] } : Winnower).discard := ⟨_, (postWinnower_only _ 5 0).win⟩

/-! ### The rows, in the order of the statement -/

section
variable {s : State} (hkeep : keepRuns s = true)
include hkeep

/-- The chain starts (R245). -/
theorem startupDone_starts {start : List Samples} (hstate : s.win.state = .starting) (hpass : 4 ≤ passing s start)
    (hfail : s.win.selfFail = false) (raw : Raw) : ∃ u, exec (.winnowerStartupDone ⟨start, []⟩) s = done u ∧
      exec (.winnowerStartupDone ⟨start, raw⟩) s = done (takeRaw u raw) ∧
      u.win.state = .run ∧ u.win.seeding = [8, 0, 1, 2, 3, 4, 5, 6, 7] ∧ (∀ b, drbgServes u b = false) ∧
      ∀ n, n < 8 → (s.source n).state ≠ 3 → ((u.source n).state = 1 ↔ (startVerdict (s.source n) (start.getD n 0)).1 = none) :=
  ⟨startedChain s start, startupDone_exec s start hkeep hstate hfail hpass [], startupDone_exec s start hkeep hstate hfail hpass raw,
    rfl, rfl, startSeeding_serves _, fun _ hn hlive => startedChain_source s start hn hlive⟩

/-- The start-up fails (R245, R356). -/
theorem startupTimeout_stops {start : List Samples} {kat : Bool} (hstate : s.win.state = .starting)
    (hfail : kat = true ∨ passing s start < 4) : Runs (.winnowerStartupTimeout start kat) s (fun t =>
      t.win.state = .stopped ∧ t.win.selfFail = (s.win.selfFail || kat) ∧ t.win.stoppedOnce = true ∧
      t.dev.causes.getLsbD causeRng = true ∧
      (s.win.retest = false → t.boot.phase = .stall ∧ t.boot.stall = 7) ∧ (s.win.retest = true → t.boot.phase = s.boot.phase)) := by
  obtain ⟨hstopped, hself, honce⟩ := unstartedChain_win s start kat
  have hcause : (unstartedChain s start kat).dev.causes.getLsbD causeRng = true := stopChain_cause _
  have hboot := unstartedChain_boot s start kat
  refine runs_of_exec (startupTimeout_exec s start hkeep hstate kat hfail) ?_
  generalize unstartedChain s start kat = t at *
  cases hretest : s.win.retest with
  | true => exact ⟨hstopped, hself, honce, hcause, nofun, fun _ => by rw [← hboot]; rfl⟩
  | false => exact ⟨hstopped, hself, honce, hcause, fun _ => ⟨rfl, rfl⟩, nofun⟩

theorem maskGeneratorReseed_draws {barn : Fin 8} (hup : dieUp s (barn / 4 + 1) = true) (hserves : drbgServes s barn = true) :
    Runs (.maskGeneratorReseed barn) s (fun t =>
      (t.barn barn).maskSeed = BitVec.ofNat 256 (ofBe (drbgGen s barn 32).1) ∧ (t.barn barn).maskDraws = 0) := by
  have hexec : exec (.maskGeneratorReseed barn) s = done (reseedMask s barn) := by
    change execMaskGeneratorReseed barn s = _
    unfold execMaskGeneratorReseed dieOfBarn
    rw [hkeep, hserves, hup]
    rfl
  refine runs_of_exec hexec ?_
  have hbarn : (reseedMask s barn).drive.barn barn = (reseedMask s barn).barn barn := rfl
  rw [hbarn, reseedMask]
  dsimp only
  rw [State.setBarn_self]
  exact ⟨rfl, rfl⟩

/-- A reseed absorbs two blocks (R243). -/
theorem drbgReseed_reseeds {d : Fin 9} (hseeding : s.win.seeding = []) (hrun : winRuns s = true) (hserving : (s.drbg d).serving = true)
    {a b : BitVec 128} {rest : List (BitVec 128)} (hblocks : s.win.blocks = a :: b :: rest) (hwaiting : s.ofc.waiting = 0) :
    Runs (.drbgReseed d [] false false) s (fun t =>
      t.drbg d = { drbgUpdate (s.drbg d) (drbgDf (ofBlock a ++ ofBlock b)) with ctr := 0, overdue := false } ∧
      t.win.blocks = rest ∧ ∀ e, e ≠ d.val → t.drbg e = s.drbg e) := by
  have hexec := drbgReseed_absorbs hkeep hseeding hrun hserving hblocks
  generalize ({ drbgUpdate (s.drbg d) (drbgDf (ofBlock a ++ ofBlock b)) with ctr := 0, overdue := false } : Drbg) = y at hexec ⊢
  obtain ⟨u, hu⟩ : ∃ u : State, u = { s.setDrbg d y with win := { (s.setDrbg d y).win with blocks := rest } } := ⟨_, rfl⟩
  rw [← hu] at hexec
  have honly := perfCount_only u winPage 0x040 2
  have hofc : (perfCount u winPage 0x040 2).ofc.waiting = 0 := by
    rw [honly, hu]
    exact hwaiting
  rw [serveNonces_idle hofc] at hexec
  have hwin : (perfCount u winPage 0x040 2).win = { (s.setDrbg d y).win with blocks := rest } := by
    rw [honly.win, hu]
  have hdrbg : ∀ e, (perfCount u winPage 0x040 2).drbg e = (s.setDrbg d y).drbg e := fun e => by
    unfold State.drbg
    rw [hwin]
  generalize perfCount u winPage 0x040 2 = t at *
  refine runs_of_exec hexec ⟨(hdrbg d).trans (State.setDrbg_self _ _ _), congrArg Winnower.blocks hwin, fun e he => ?_⟩
  exact (hdrbg e).trans (State.setDrbg_ne _ _ _ _ he)

theorem drbgReseedOverdue_exec {d : Fin 9} (hserving : (s.drbg d).serving = true) :
    exec (.drbgReseedOverdue d) s = done (s.setDrbg d { s.drbg d with overdue := true }) := by
  change execDrbgReseedOverdue d s = _
  unfold execDrbgReseedOverdue
  rw [hkeep, hserving]
  rfl

/-- An instant after which a condition holds. -/
theorem tick_runs {v : Byte} {P : State → Prop} (h : ∀ u, takeInstant s v = u → P u.drive) : Runs (.sourceHealthFail [] v) s P :=
  runs_of_exec (sourceHealthFail_exec hkeep [] v) (h _ rfl)

/-- The captured word of test mode (R250, R252). -/
theorem tick_captures {v : Byte} (h : ∀ n ∈ healthyList s, failsOn s v n = none) (hstate : s.win.state = .testmode)
    (htap : s.win.testTap = false) :
    (s.win.capLen < 31 → Runs (.sourceHealthFail [] v) s (fun t => t.win.capLen = s.win.capLen + 1 ∧ t.win.fifo = s.win.fifo)) ∧
    (s.win.capLen = 31 → s.win.fifo.length < 16384 → Runs (.sourceHealthFail [] v) s (fun t => t.win.capLen = 0 ∧ t.win.fifo =
      s.win.fifo ++ [s.win.cap ||| ((BitVec.ofBool (v.getLsbD s.win.testSrc)).setWidth 32 <<< 31)])) := by
  obtain ⟨w, ⟨hcap, hlen, hfifo⟩, -, klen, kfifo⟩ := instant_captures h hstate htap
  refine ⟨fun hshort => tick_runs hkeep (fun u hu => ?_), fun hfull hroom => tick_runs hkeep (fun u hu => ?_)⟩
  · have hcapture : w.capture (v.getLsbD s.win.testSrc) =
        { w with
          cap := w.cap ||| ((BitVec.ofBool (v.getLsbD s.win.testSrc)).setWidth 32 <<< w.capLen)
          capLen := w.capLen + 1 } := if_pos (by rwa [hlen])
    rw [hcapture, hu] at klen kfifo
    exact ⟨klen.trans (congrArg (· + 1) hlen), kfifo.trans hfifo⟩
  · have hcapture : w.capture (v.getLsbD s.win.testSrc) =
        { w with
          cap := 0
          capLen := 0
          fifo := w.fifo ++ [w.cap ||| ((BitVec.ofBool (v.getLsbD s.win.testSrc)).setWidth 32 <<< w.capLen)] } :=
      (if_neg (by rw [hlen]; omega)).trans (if_pos (by rwa [hfifo]))
    rw [hcapture, hu] at klen kfifo
    dsimp only at klen kfifo
    rw [hfifo, hcap, hlen, hfull] at kfifo
    exact ⟨klen, kfifo⟩

/-- A source fails on an instant (R246 to R248). -/
theorem tick_fails {v : Byte} {src : Fin 8} {rct : Bool} (hrun : s.win.state = .run) (hstate : (s.source src).state = 1)
    (hfails : failsOn s v src = some rct) (hothers : ∀ n ∈ healthyList s, n ≠ src.val → failsOn s v n = none) :
    let x := s.source src
    Runs (.sourceHealthFail [] v) s (fun t =>
      let y := t.source src
      y.state = (if 4 ≤ x.fails + 1 then 3 else 2) ∧ y.fails = min 4 (x.fails + 1) ∧
      y.rct = (if rct then min 1023 (x.rct + 1) else x.rct) ∧ y.apt = (if rct then x.apt else min 1023 (x.apt + 1)) ∧
      t.win.blocks = [] ∧ (∀ n, n < 8 → n ≠ src.val → (t.source n).state = (s.source n).state) ∧
      ((healthyList s).length < 5 → t.win.state = .stopped ∧ t.win.lfsr = 0) ∧
      (5 ≤ (healthyList s).length → t.win.state = .run ∧ t.win.lfsr = shifted ((healthyList s).filter (· ≠ src.val)) v 0)) := by
  have hsrc : src.val ∈ healthyList s := mem_healthyList.mpr ⟨src.isLt, hstate⟩
  obtain ⟨ystate, yfails, yrct, yapt⟩ := instant_failedSource hsrc hfails hothers
  have hstops := instant_fail_stops hrun hsrc hfails hothers
  have hruns := instant_fail_runs hrun hsrc hfails hothers
  have hblocks : (takeInstant s v).win.blocks = [] := by
    rcases Nat.lt_or_ge (healthyList s).length 5 with hlow | hmany
    · exact (hstops hlow).2.2
    · exact (hruns hmany).2.2
  have hstates : ∀ n, n ≠ src.val → ((takeInstant s v).source n).state = (s.source n).state :=
    fun n hn => instant_fail_state hsrc hfails hothers hn
  refine tick_runs hkeep (fun u hu => ?_)
  rw [hu] at ystate yfails yrct yapt hblocks hstops hruns hstates
  refine ⟨ystate, yfails, yrct, yapt, hblocks, fun n _ hn => hstates n hn, fun hlow => ?_,
    fun hmany => ?_⟩
  · obtain ⟨kstate, klfsr, -⟩ := hstops hlow
    exact ⟨kstate, klfsr⟩
  · obtain ⟨kstate, klfsr, -⟩ := hruns hmany
    exact ⟨kstate, klfsr⟩

/-- A rerun after which a condition holds. -/
theorem sourceRetest_runs {src : Fin 8} {samples : Samples} (hstate : (s.source src).state = 2) {P : State → Prop}
    (h : ∀ u, afterRetest s src samples = u → P u.drive) : Runs (.sourceRetest src samples []) s P :=
  runs_of_exec (sourceRetest_exec s src samples hkeep hstate []) (h _ rfl)

/-- A source that passes its rerun is readmitted, and the fourth lets a stopped chain return (R246, R247). -/
theorem sourceRetest_passes {src : Fin 8} {samples : Samples} (hstate : (s.source src).state = 2)
    (hpass : (startVerdict (s.source src) samples).1 = none) : Runs (.sourceRetest src samples []) s (fun t =>
      (t.source src).state = 1 ∧ (t.source src).readmits = min 3 ((s.source src).readmits + 1) ∧
      (s.win.state = .stopped → s.win.selfFail = false → 3 ≤ (healthyList s).length →
        t.win.state = .run ∧ t.win.seeding = [8, 0, 1, 2, 3, 4, 5, 6, 7] ∧ ∀ b, drbgServes t b = false)) := by
  obtain ⟨y, hy, hreadmits, heq⟩ := afterRetest_of_pass hpass
  have hsource : (afterRetest s src samples).source src = y := by rw [heq, judgeChain_source, State.setSource_self]
  refine sourceRetest_runs hkeep hstate (fun u hu => ?_)
  rw [hu] at hsource heq
  refine ⟨(congrArg Source.state hsource).trans hy, (congrArg Source.readmits hsource).trans hreadmits, fun hstopped hfail hmany => ?_⟩
  have hresumed := resumeChain_runs (s.setSource src y)
  rw [← judgeChain_readmitted hy (by rw [hstate]; decide) hstopped hfail hmany, ← heq] at hresumed
  exact hresumed

/-- A source that fails its rerun is excluded again, and what the compressor holds is discarded (R246, R248). -/
theorem sourceRetest_fails {src : Fin 8} {samples : Samples} (hstate : (s.source src).state = 2)
    (hfails : (startVerdict (s.source src) samples).1 ≠ none) : Runs (.sourceRetest src samples []) s (fun t =>
      (t.source src).state = (if 4 ≤ (s.source src).fails + 1 then 3 else 2) ∧ t.win.lfsr = 0 ∧ t.win.blocks = []) := by
  have hretested := afterRetest_of_fail hfails
  refine sourceRetest_runs hkeep hstate (fun u hu => ?_)
  rw [hu] at hretested
  exact hretested

/-- Test mode ends in a restart (R250). -/
theorem winTestDisable_restarts {v : Word} (hen : s.win.testEn = true) (hv : v.getLsbD 0 = false) : Runs (.winTestDisable v) s (fun t =>
    t.win.state = (if s.win.selfFail then .stopped else .starting) ∧ t.win.retest = true ∧ t.win.testEn = false ∧ t.win.drbg = [] ∧
    t.win.lfsr = 0 ∧ t.win.blocks = [] ∧ t.win.lastBlock = none) := by
  refine runs_of_exec (winTestDisable_exec hkeep hen hv) ?_
  obtain ⟨src, hwin⟩ := leaveTestMode_win (winTestFields s v false)
  generalize leaveTestMode (winTestFields s v false) = t at hwin ⊢
  have hdriven : t.drive.win = t.win := rfl
  rw [hdriven, hwin]
  exact ⟨rfl, rfl, rfl, rfl, rfl, rfl, rfl⟩

end

end Sys2Proof.Machine
end


section
/-! Proofs: the statement about the random-number chain (O46). -/

namespace Sys2Proof.Machine

open Sys2Proof Sys2Proof.Bits

section
variable {s : State} (hkeep : keepRuns s = true)
include hkeep

/-- A sampling instant that every healthy source passes (R240 to R242, R244, R245). -/
theorem tick_passes {v : Byte} (h : ∀ n ∈ healthyList s, failsOn s v n = none) : let tick : Instr := .sourceHealthFail [] v
    (∀ n, n < 8 → Runs tick s (fun t => t.source n = (s.source n).take (v.getLsbD n))) ∧
    ((s.win.state = .run ∨ s.win.state = .testmode) → Runs tick s (fun t => t.win.lfsr = shifted (healthyList s) v s.win.lfsr) ∧
      ((compressInstant s v).repeats = true → Runs tick s ChainFailed)) ∧
    (winRuns s = true → (compressInstant s v).repeats = false →
      ((compressInstant s v).blocks.length < 4 ∨ s.win.seeding = [] → Runs tick s (fun t =>
        t.win = { compressInstant s v with src := t.win.src })) ∧
      (∀ i rest b0 b1 b2 b3, s.win.seeding = i :: rest → i ≤ 8 → (compressInstant s v).blocks = [b0, b1, b2, b3] → Runs tick s (fun t =>
        drbgServes t i = true ∧ t.win.seeding = rest ∧ t.win.blocks = [] ∧ (i = 8 → t.grn.recKey.isSome = true)))) := by
  refine ⟨fun n hn => ?_, fun hstate => ⟨?_, fun hrepeats => ?_⟩, fun hrun hrepeats => ⟨fun hidle => ?_,
    fun i rest b0 b1 b2 b3 hseeding _ hblocks => ?_⟩⟩
  · have hsource := instant_source h hn
    refine tick_runs hkeep (fun u hu => ?_)
    rw [hu] at hsource
    exact hsource
  · have hlfsr := instant_lfsr h hstate
    refine tick_runs hkeep (fun u hu => ?_)
    rw [hu] at hlfsr
    exact hlfsr
  · have hfailed := instant_repeats h hstate hrepeats
    refine tick_runs hkeep (fun u hu => ?_)
    rw [hu] at hfailed
    exact hfailed
  · have hwin := instant_win h (winRuns_iff.mp hrun) hrepeats hidle
    refine tick_runs hkeep (fun u hu => ?_)
    rw [hu] at hwin
    exact hwin
  · have hserves := instant_instantiates h (winRuns_iff.mp hrun) hrepeats hseeding hblocks
    refine tick_runs hkeep (fun u hu => ?_)
    rw [hu] at hserves
    exact hserves

/-- A reseed (R242, R243). -/
theorem drbgReseed_runs {d : Fin 9} {cond kat : Bool} (hseeding : s.win.seeding = []) :
    ((winRuns s = false ∨ (s.drbg d).serving = false) → exec (.drbgReseed d [] cond kat) s = done s) ∧
    (winRuns s = true → (s.drbg d).serving = true →
      (∀ a b rest, s.win.blocks = a :: b :: rest → s.ofc.waiting = 0 → Runs (.drbgReseed d [] false false) s (fun t =>
        t.drbg d = { drbgUpdate (s.drbg d) (drbgDf (ofBlock a ++ ofBlock b)) with ctr := 0, overdue := false } ∧
        t.win.blocks = rest ∧ ∀ e, e ≠ d.val → t.drbg e = s.drbg e)) ∧
      (s.win.blocks.length < 2 → exec (.drbgReseed d [] false false) s = done s) ∧
      ((cond || kat) = true → Runs (.drbgReseed d [] cond kat) s ChainFailed)) := by
  refine ⟨fun hstill => drbgReseed_idle hkeep hseeding hstill cond kat, fun hrun hserving => ⟨?_, ?_, fun hfail => ?_⟩⟩
  · exact fun _ _ _ hblocks hwaiting => drbgReseed_reseeds hkeep hseeding hrun hserving hblocks hwaiting
  · exact drbgReseed_short hkeep hseeding hrun hserving
  · exact runs_of_exec (drbgReseed_fails hkeep hseeding hrun hserving hfail) (selfCheckFail_fails s)

/-- Test mode starts in TEST and ANALYSIS alone (R250). -/
theorem winTestEnable_runs {v : Word} (hen : s.win.testEn = false) (hv : v.getLsbD 0 = true) :
    ((lcCode s = lcTest ∨ lcCode s = lcAnalysis) → Runs (.winTestEnable v) s (fun t =>
      t.win.state = .testmode ∧ t.win.testEn = true ∧ t.win.testSrc = v.toNat / 2 % 8 ∧ t.win.testTap = v.getLsbD 4 ∧
      ∀ n, drbgServes t n = false)) ∧
    (lcCode s ≠ lcTest → lcCode s ≠ lcAnalysis → exec (.winTestEnable v) s = done s) := by
  refine ⟨fun hlc => ?_, fun htest hanalysis => ?_⟩
  · refine runs_of_exec (winTestEnable_exec hkeep hen hv hlc) ?_
    have hwin := (postWinnower_only { winTestFields s v true with win := { (winTestFields s v true).win with state := .testmode } } 4 0).win
    generalize postWinnower _ 4 0 = t at hwin ⊢
    have hdriven : t.drive.win = t.win := rfl
    rw [hdriven, hwin]
    have hmode : t.drive.win.state = .testmode := by rw [hdriven, hwin]
    refine ⟨rfl, rfl, rfl, ?_, not_serves_of_not_run (by rw [hmode]; decide)⟩
    change bit v.toNat 4 = v.getLsbD 4
    rw [bit, BitVec.getLsbD, Nat.testBit_eq_decide_div_mod_eq, Bool.beq_eq_decide_eq]
  · change execWinTestEnable v s = done s
    unfold execWinTestEnable
    rw [if_neg (by simp [hkeep, hen, hv]), if_neg (not_or.mpr ⟨htest, hanalysis⟩)]

end

/-- A wait of a nonce issue ends (R308). -/
theorem rngWaitTimeout_nonces {s : State} (hserves : drbgServes s 8 = false) :
    (s.ofc.waiting % 2 = 1 → exec (.rngWaitTimeout .mailbox) s = done { s with ofc := { s.ofc with
      waiting := s.ofc.waiting - 1
      ready := false
      err := true } }) ∧
    (s.ofc.waiting / 2 % 2 = 1 → exec (.rngWaitTimeout .debug) s = done { s with ofc := { s.ofc with waiting := s.ofc.waiting - 2 } }) := by
  refine ⟨fun hwaits => ?_, fun hwaits => ?_⟩
  · have hgo : bit s.ofc.waiting 0 ∧ !drbgServes s 8 := ⟨by simp [bit, hwaits], by rw [hserves]; rfl⟩
    exact congrArg done (if_pos hgo)
  · have hgo : bit s.ofc.waiting 1 ∧ !drbgServes s 8 := ⟨by simp [bit, hwaits], by rw [hserves]; rfl⟩
    exact congrArg done (if_pos hgo)

theorem rngWaitTimeout_runs {s : State} {e : Fin 69632} (h : starvedBne s e = none) :
    (waitsRandom s e = true → (s.entry e).accepted = true → Runs (.rngWaitTimeout (.request e)) s (fun t =>
      (t.entry e).state = .staged ∧ (t.entry e).status = St.rngUnavailable ∧ (t.entry e).out = [])) ∧
    (waitsRandom s e = false → exec (.rngWaitTimeout (.request e)) s = done s) := by
  have hexec := rngWaitTimeout_request h
  refine ⟨fun hwaits haccepted => ?_, fun hgoes => ?_⟩
  · rw [if_pos hwaits] at hexec
    exact runs_of_exec hexec (endRequest_unserved ⟨waitsRandom_reserved hwaits, haccepted⟩)
  · rwa [hgoes, if_neg Bool.false_ne_true] at hexec

/-- The Keep DRBG refills WIN_RAND (R252). -/
theorem winRandRefill_runs {s : State} (hkeep : keepRuns s = true) (hserves : drbgServes s 8 = true) (hready : s.win.randReady = false) :
    Runs .winRandRefill s (fun t => t.win.rand = (drbgGen s 8 16).1 ∧ t.win.randReady = true) := by
  have hexec : exec .winRandRefill s =
      done { (drbgGen s 8 16).2 with win := { (drbgGen s 8 16).2.win with rand := (drbgGen s 8 16).1, randReady := true } } := by
    change execWinRandRefill s = _
    unfold execWinRandRefill
    rw [if_pos (by rw [hkeep, hserves, hready]; rfl)]
  exact runs_of_exec hexec ⟨rfl, rfl⟩

/-- Settles O46: a lemma per row, an instant's tests apart from what its bits do in the compressor. -/
theorem randomNumberChain : Obligations.RandomNumberChain := by
  unfold Obligations.RandomNumberChain
  refine ⟨fun s start raw v d src barn cond kat hkeep => ?chain, fun s v e => ?waits⟩
  case chain =>
    refine ⟨fun hstate => ⟨fun hpass hfail => ?starts, startupTimeout_stops hkeep hstate⟩,
      maskGeneratorReseed_draws hkeep, fun hserves => ?idleMask,
      fun hkeep' => ⟨drbgReseed_raw hkeep hkeep' d cond kat, ?rawTick⟩, drbgReseed_runs hkeep, drbgReseedOverdue_exec hkeep,
      fun hpass => ?passes, fun rct => tick_fails hkeep, fun samples hstate => ?retests, fun hstate samples => ?idleSource⟩
    case starts => exact startupDone_starts hkeep hstate hpass hfail raw
    case idleMask =>
      refine if_neg ?_
      simp [hserves]
    case rawTick =>
      rw [sourceHealthFail_exec hkeep, sourceHealthFail_exec hkeep']
      rfl
    case passes =>
      obtain ⟨hsource, hbits, hblocks⟩ := tick_passes hkeep hpass
      exact ⟨hsource, hbits, hblocks, tick_captures hkeep hpass⟩
    case retests =>
      have hexec := sourceRetest_exec s src samples hkeep hstate
      exact ⟨⟨_, hexec [], hexec raw⟩, sourceRetest_passes hkeep hstate, sourceRetest_fails hkeep hstate⟩
    case idleSource =>
      refine if_pos ?_
      simp [hstate]
  case waits =>
    exact ⟨rngWaitTimeout_runs, fun k => rngWaitTimeout_starved, rngWaitTimeout_nonces, fun hkeep => winTestEnable_runs hkeep,
      fun hkeep => winTestDisable_restarts hkeep, rfl, rfl, winRandRefill_runs⟩

end Sys2Proof.Machine
end

section
/-! Proofs: the loader's judgement of a bank and the windows of a stook (O45). -/

namespace Sys2Proof.Machine

open Sys2Proof Sys2Proof.Bits

/-! ### Groups that run in a window (R157) -/

/-- The request's group runs in window n of stook k. -/
def GroupIn (k n : Nat) (x : Entry) : Prop := x.group ≠ [] ∧ stookOfCtx x.lead = k ∧ x.window = n

/-- The test by which `windowInUse` looks for such a group. -/
def groupIn (k n : Nat) (x : Entry) : Bool := !x.group.isEmpty && stookOfCtx x.lead == k && x.window == n

theorem groupIn_iff {k n : Nat} {x : Entry} : groupIn k n x = true ↔ GroupIn k n x := by
  simp [groupIn, GroupIn, and_assoc]

theorem windowInUse_iff_keys {s : State} {k n : Nat} : windowInUse s k n = true ↔ ∃ e, e ∈ Map.keysWhere (fun _ x => groupIn k n x) s.entries := by
  simp only [windowInUse, groupIn, List.any_eq_true, Map.keysWhere, List.mem_map, List.mem_filter]
  exact ⟨fun ⟨x, hx⟩ => ⟨x.1, x, hx, rfl⟩, fun ⟨_, x, hx, _⟩ => ⟨x, hx⟩⟩

theorem windowInUse_of_group {s : State} {e k n : Nat} (h : GroupIn k n (s.entry e)) : windowInUse s k n = true :=
  windowInUse_iff_keys.mpr ⟨e, mem_keysWhere (d := ({} : Entry)) rfl (groupIn_iff.mpr h)⟩

theorem windowInUse_eq_false {s : State} {k n : Nat} (hwf : Map.wf {} s.entries = true) (h : ∀ e, ¬ GroupIn k n (s.entry e)) :
    windowInUse s k n = false := by
  by_contra hused
  obtain ⟨e, he⟩ := windowInUse_iff_keys.mp (Bool.not_eq_false _ ▸ hused)
  exact h e (groupIn_iff.mp (Map.of_mem_keysWhere (d := ({} : Entry)) hwf he))

/-! ### The loader (R155, R156) -/

theorem extendMeas_self {s : State} (h : s.grn.frozen = false) (i : Nat) (d : Bytes) :
    (extendMeas s i d).meas i = digest384 (Hash.sha384 (digestBytes (s.meas i) ++ d)) := by
  unfold extendMeas
  rw [if_neg (by simp [h])]
  exact Map.get_set_self _ _ _ _

theorem extendMeas_ne {s : State} {i j : Nat} (h : j ≠ i) (d : Bytes) : (extendMeas s i d).meas j = s.meas j := by
  unfold extendMeas
  split
  · rfl
  · exact Map.get_set_ne _ _ _ _ _ h

theorem extendMeas_ldr (s : State) (i : Nat) (d : Bytes) : (extendMeas s i d).ldr = s.ldr := by
  unfold extendMeas
  split <;> rfl

theorem accepted_slot (b : Bytes) : (BankImage.accepted b).slot.toNat = fieldLe b 6 1 % 4 := BitVec.toNat_ofNat _ _

theorem accepted_fns_length (b : Bytes) : (BankImage.accepted b).fns.length = fieldLe b 20 2 := by
  simp [BankImage.accepted, BankImage.fns, BankImage.fnCount]

/-- The loader with a bank accepted in the next place. -/
def Loader.taking (l : Loader) (b : Bytes) : Loader :=
  { l with
    banks := Map.set {} l.banks l.accepted (BankImage.accepted b)
    accepted := l.accepted + 1
    busy := false
    ok := true
    reason := 0
    offset := 0 }

section
variable {s : State} {idx : Fin 64} {b : Bytes} (hbank : (bootedBank s).banks[idx.val]? = some b) (hphase : s.boot.phase = .firmware)
  (hroom : s.ldr.accepted < 64)
include hbank hphase hroom

/-- The row of a bank of the booted set that the loader can still take. -/
theorem exec_loaderCheckDone : exec (.loaderCheckDone idx) s = done (
    if (BankImage.judge s b).1 ≠ 0 then
      { s with ldr := { s.ldr with busy := false, ok := false, reason := (BankImage.judge s b).1, offset := (BankImage.judge s b).2 } }
    else
      let u := extendMeas s (2 + (BankImage.accepted b).slot.toNat) (signedDigest b)
      { u with ldr := u.ldr.taking b }) := by
  change execLoaderCheckDone idx s = _
  unfold execLoaderCheckDone
  rw [hbank]
  dsimp only
  rw [if_neg (by simp [hphase, hroom])]
  rfl

theorem exec_loaderCheckDone_accepts {off : Nat} (hjudge : BankImage.judge s b = (0, off)) : exec (.loaderCheckDone idx) s =
    done { extendMeas s (2 + fieldLe b 6 1 % 4) (signedDigest b) with ldr := s.ldr.taking b } := by
  rw [exec_loaderCheckDone hbank hphase hroom, hjudge, if_neg (by simp), accepted_slot]
  dsimp only
  rw [extendMeas_ldr]

theorem exec_loaderCheckDone_refuses {r off : Nat} (hjudge : BankImage.judge s b = (r, off)) (hr : r ≠ 0) :
    exec (.loaderCheckDone idx) s = done { s with ldr := { s.ldr with busy := false, ok := false, reason := r, offset := off } } := by
  rw [exec_loaderCheckDone hbank hphase hroom, hjudge, if_pos hr]

end

/-! ### Windows of a stook (R157) -/

section
variable {s : State} {k : Fin 32} {n : Fin 4}

theorem exec_bankCopyDone_verified (hstate : (s.window k n).state = 1) (hok : (Map.get {} s.ldr.banks (s.window k n).bank : Bank).ok = true) :
    let b : Bank := Map.get {} s.ldr.banks (s.window k n).bank
    exec (.bankCopyDone k n true) s = done (s.setWindow k n {
      state := 2
      slot := b.slot
      bank := (s.window k n).bank
      fnCount := b.fns.length
      secVer := b.secVer
      code := b.code }) := by
  change execBankCopyDone k n true s = _
  unfold execBankCopyDone
  dsimp only
  rw [if_neg (not_not_intro hstate), if_pos (by rw [Bool.true_and]; exact hok)]

theorem exec_bankCopyDone_failed (hstate : (s.window k n).state = 1) :
    exec (.bankCopyDone k n false) s = done (s.setWindow k n { bank := (s.window k n).bank }) := by
  change execBankCopyDone k n false s = _
  unfold execBankCopyDone
  dsimp only
  rw [if_neg (not_not_intro hstate), if_neg (by simp)]

theorem exec_bankDrainDone (hstate : (s.window k n).state = 3) : exec (.bankDrainDone k n) s = done (
    if windowInUse s k n then s else s.setWindow k n { bank := (s.window k n).bank }) := by
  change execBankDrainDone k n s = _
  unfold execBankDrainDone
  cases windowInUse s k n <;> simp [hstate]

end

/-- Settles O45: the loader's row by its verdict, and an equation for the window that each row of R157 leaves. -/
theorem microprogramBanks : Obligations.MicroprogramBanks := by
  unfold Obligations.MicroprogramBanks
  intro s idx k n w sets
  refine ⟨fun b hbank hphase hroom => ⟨fun off hjudge => ?accepts, fun r off => exec_loaderCheckDone_refuses hbank hphase hroom⟩,
    fun b => ⟨fun h => congrArg done (if_pos h), fun h => congrArg done (if_neg h)⟩, fun h => congrArg done (if_pos h),
    fun h => ⟨exec_bankCopyDone_verified h, exec_bankCopyDone_failed h⟩, fun h hwf hends => ?drained, fun h ⟨e, he⟩ => ?draining⟩
  case accepts =>
    refine runs_of_exec (exec_loaderCheckDone_accepts hbank hphase hroom hjudge) ?_
    intro x
    have hx : x = BankImage.accepted b := Map.get_set_self ({} : Bank) s.ldr.banks s.ldr.accepted (BankImage.accepted b)
    rw [hx]
    exact ⟨rfl, rfl, rfl, rfl, rfl, rfl, accepted_fns_length b, fun hfrozen => extendMeas_self hfrozen _ _,
      fun j hj => extendMeas_ne hj _⟩
  case drained =>
    have hunused : windowInUse s k n = false := windowInUse_eq_false hwf fun e ⟨hgroup, hstook, hwindow⟩ => hends e hgroup hstook hwindow
    rw [exec_bankDrainDone h, hunused]
    rfl
  case draining => rw [exec_bankDrainDone h, if_pos (windowInUse_of_group he)]

end Sys2Proof.Machine
end

section
/-! Proofs: the policy port while the link of a die retrains (O19). -/

namespace Sys2Proof.Machine

open Sys2Proof Sys2Proof.Bits

/-- Context 0 runs a request whose policy result is outstanding, while the link of its die to the Keep die retrains. -/
def policyAskedRetraining : State :=
  { State.reset with
    cores := [(0, { phase := .running })]
    entries := [(0, { polPhase := .asked })]
    links := [(0, { retraining := true })] }

/-- While the link of the context's die retrains, POL_RESULT_READY leaves the state as it is (R19). -/
theorem exec_polResultReady_waits {s : State} {c : Fin 2048} (hlink : linkWaits s (dieOfCtx c) = true) (r : Fin 32) :
    exec (.polResultReady c r) s = done s := if_pos (.inr (.inr hlink))

/-- Refutes O19: a policy result that is due while the link of the context's die to the Keep die retrains (R19) is not yet readable; the
statement asks for no working link. -/
theorem not_policyAndTallyPorts : ¬ Obligations.PolicyAndTallyPorts := by
  unfold Obligations.PolicyAndTallyPorts
  rintro ⟨hpolicy, -, -⟩
  obtain ⟨-, -, hready, -⟩ := hpolicy policyAskedRetraining 0 0 0
  have hexec := hready rfl rfl (by decide)
  rw [exec_polResultReady_waits rfl] at hexec
  injection hexec with hstate
  have hentry : (policyAskedRetraining.entry 0).polPhase = .answered := congrArg (fun t : State => (t.entry 0).polPhase) hstate
  cases hentry

end Sys2Proof.Machine
end

section
/-! Proofs: what the instruction of any core finds, and how an instruction that writes its own core alone runs. -/

namespace Sys2Proof.Machine

open Sys2Proof Sys2Proof.Bits

/-! ### The state that a core's instruction finds -/

section
variable {s u : State} {c : CoreId} (h : AtIssue s c u)
include h

/-- What does not look at the cores, the count of free values and the pins is as before. -/
theorem AtIssue.congr {α : Type} (g : State → α)
    (hg : ∀ cores free pins, g { s with cores := cores, free := free, pins := pins } = g s) : g u = g s := by
  obtain ⟨⟨hstate, -⟩, -⟩ := h
  rw [hstate]
  exact hg _ _ _

theorem AtIssue.sysCore (k : Nat) : u.sysCore k = s.sysCore k := h.congr (fun t => t.sysCore k) (fun _ _ _ => rfl)

theorem AtIssue.lineWaiting : Machine.lineWaiting u c = Machine.lineWaiting s c :=
  h.congr (fun t => Machine.lineWaiting t c) (fun _ _ _ => rfl)

theorem AtIssue.pc : (u.core c.num).pc = (s.core c.num).pc := by rw [h.2.same]

theorem AtIssue.phase : (u.core c.num).phase = (s.core c.num).phase := by rw [h.2.same]

theorem AtIssue.getS (r : Nat) : (u.core c.num).getS r = (s.core c.num).getS r := by rw [h.2.same]; rfl

theorem AtIssue.dtLoaded : (u.core c.num).dtLoaded = (s.core c.num).dtLoaded := by rw [h.2.same]

end

/-- An issuing core hands its instruction the state that the instruction finds. -/
theorem issue_atIssue {s : State} {c : CoreId} (h : Issues s c) : ∃ u, AtIssue s c u ∧ ∀ k, issue s c k = k u (u.core c.num) := by
  obtain ⟨u, x, hfound, honly, -, hcore, hissue⟩ := issue_runs h
  exact ⟨u, ⟨honly, hcore ▸ hfound⟩, fun k => by rw [hissue, hcore]⟩

/-- An instruction that ends in a write of its own core, whose new content the instruction makes of the state that it finds. -/
theorem coreRuns_of_atIssue {i : Instr} {s : State} {c : CoreId} {E : Core → Core}
    (h : Issues s c → ∃ u, AtIssue s c u ∧ exec i s = done (u.setCore c.num (E (u.core c.num)))) : CoreRuns i s c E := by
  intro hissue
  obtain ⟨u, hu, hexec⟩ := h hissue
  exact ⟨u.core c.num, hu.2, runs_of_exec hexec ⟨hu.1.put _, State.setCore_self _ _ _⟩⟩

end Sys2Proof.Machine
end

section
/-! Proofs: instructions of the SYS group, interrupts, traps and residue mismatches (O14). -/

namespace Sys2Proof.Machine

open Sys2Proof Sys2Proof.Bits

/-! ### Traps (R175) -/

/-- A trap outside a handler, as the equation of its two writes. -/
theorem takeTrap_eq {s : State} {c : CoreId} (h : (s.sysCore c.side).inTrap = false) (cause : Byte) (epc : Nat) :
    takeTrap s c cause epc = (s.setCore c.num { (s.core c.num).flush with pc := (s.sysCore c.side).tvec.toNat, wait := .none }).setSys c.side
      { s.sysCore c.side with
        epc := BitVec.ofNat 32 epc
        ecause := cause
        ien := false
        ienSaved := (s.sysCore c.side).ien
        inTrap := true } := by
  refine if_pos ?_
  simp [h]

theorem flush_w (x : Core) : x.flush.w = x.w := by
  unfold Core.flush
  rw [Core.foldPend_same]

theorem takeTrap_trapped {s : State} {c : CoreId} (h : (s.sysCore c.side).inTrap = false) (cause : Byte) (epc : Nat) :
    Trapped s (takeTrap s c cause epc) c (s.core c.num) cause epc := by
  rw [takeTrap_eq h]
  unfold Trapped
  rw [State.setSys_core', State.setCore_self, State.setSys_self]
  exact ⟨rfl, rfl, rfl, rfl, rfl, flush_w _, rfl, rfl, rfl, rfl, rfl⟩

/-- A trap is taken from the core and the system registers alone: another state with the same ones takes it too. -/
theorem Trapped.of_sys {s u t : State} {c : CoreId} {x : Core} {cause : Byte} {epc : Nat} (h : Trapped u t c x cause epc)
    (htvec : (u.sysCore c.side).tvec = (s.sysCore c.side).tvec) (hien : (u.sysCore c.side).ien = (s.sysCore c.side).ien) :
    Trapped s t c x cause epc := by
  unfold Trapped at h ⊢
  rw [← htvec, ← hien]
  exact h

/-- A trap outside a handler writes cores and system registers alone, also where the pins then follow the latches. -/
theorem takeTrap_only {s : State} {c : CoreId} (h : (s.sysCore c.side).inTrap = false) (cause : Byte) (epc : Nat) :
    (takeTrap s c cause epc).drive = { s with
      cores := (takeTrap s c cause epc).drive.cores
      sys := (takeTrap s c cause epc).drive.sys
      pins := (takeTrap s c cause epc).drive.pins } := by
  rw [takeTrap_eq h]
  rfl

/-- What a trap keeps of the other cores. -/
theorem takeTrap_core_ne {s : State} {c : CoreId} (h : (s.sysCore c.side).inTrap = false) (cause : Byte) (epc : Nat) {k : Nat} (hk : k ≠ c.num) :
    (takeTrap s c cause epc).core k = s.core k := by
  rw [takeTrap_eq h, State.setSys_core', State.setCore_ne _ _ _ _ hk]

theorem takeTrap_sysCore_ne {s : State} {c : CoreId} (h : (s.sysCore c.side).inTrap = false) (cause : Byte) (epc : Nat) {k : Nat}
    (hk : k ≠ c.side) : (takeTrap s c cause epc).sysCore k = s.sysCore k := by
  rw [takeTrap_eq h, State.setSys_ne _ _ _ _ hk]
  rfl

theorem takeTrap_regs {s : State} {c : CoreId} (h : (s.sysCore c.side).inTrap = false) (cause : Byte) (epc : Nat) :
    (takeTrap s c cause epc).regs = s.regs := by
  rw [takeTrap_eq h]
  rfl

theorem takeTrap_lines {s : State} {c : CoreId} (h : (s.sysCore c.side).inTrap = false) (cause : Byte) (epc : Nat) :
    ((takeTrap s c cause epc).sysCore c.side).lines = (s.sysCore c.side).lines := by
  rw [takeTrap_eq h, State.setSys_self]

/-! ### Instructions of the SYS group (R163, R175) -/

theorem issueSys_eq {s : State} {c : CoreId} (hc : c.isTu = false) (k : State → Core → State) : issueSys s c k = issue s c k := by
  unfold issueSys
  simp [hc]

theorem kxFault_trap (s : State) {c : CoreId} (hc : c.isTu = false) : kxFault s c .trap = takeTrap s c 0x0F (s.core c.num).pc := by
  cases c with
  | tu k => cases hc
  | wardenA => rfl
  | wardenB => rfl
  | scarecrow => rfl

section
variable {s : State} {c : CoreId} (hissue : Issues s c) (hc : c.isTu = false)
include hissue hc

/-- An instruction of the SYS group on the state that it finds. -/
theorem exists_atIssue_sys {i : Instr} {k : State → Core → State} (hi : exec i s = done (issueSys s c k)) :
    ∃ u, AtIssue s c u ∧ exec i s = done (k u (u.core c.num)) := by
  obtain ⟨u, hu, hrun⟩ := issue_atIssue hissue
  exact ⟨u, hu, by rw [hi, issueSys_eq hc, hrun]⟩

theorem exec_kxEret : ∃ u, AtIssue s c u ∧ exec (.kxEret c) s =
    done ((u.setCore c.num ((u.core c.num).jump (s.sysCore c.side).epc.toNat)).setSys c.side
      { s.sysCore c.side with ien := (s.sysCore c.side).ienSaved, inTrap := false }) := by
  obtain ⟨u, hu, hexec⟩ := exists_atIssue_sys hissue hc (i := .kxEret c) rfl
  rw [hu.sysCore] at hexec
  exact ⟨u, hu, hexec⟩

theorem exec_kxWfi : ∃ u, AtIssue s c u ∧ exec (.kxWfi c) s = done (u.setCore c.num
    (if lineWaiting s c then { (u.core c.num).next with wait := .none } else { (u.core c.num).flush with wait := .wfi })) := by
  obtain ⟨u, hu, hexec⟩ := exists_atIssue_sys hissue hc (i := .kxWfi c) rfl
  rw [hu.lineWaiting] at hexec
  exact ⟨u, hu, hexec.trans (congrArg done (apply_ite (u.setCore c.num) _ _ _).symm)⟩

theorem kxTrap_traps (htrap : (s.sysCore c.side).inTrap = false) :
    ∃ x, Found s c x ∧ Runs (.kxTrap c) s (fun t => Trapped s t c x 0x0F (s.core c.num).pc) := by
  obtain ⟨u, hu, hexec⟩ := exists_atIssue_sys hissue hc (i := .kxTrap c) rfl
  rw [kxFault_trap u hc, hu.pc] at hexec
  have htrapped := takeTrap_trapped (s := u) (c := c) (by rwa [hu.sysCore]) 0x0F (s.core c.num).pc
  exact ⟨u.core c.num, hu.2, runs_of_exec hexec (htrapped.of_sys (by rw [hu.sysCore]) (by rw [hu.sysCore]))⟩

end

theorem kxNop_runs (s : State) (c : CoreId) : CoreRuns (.kxNop c 0xF8000000) s c (fun x => x.next) := by
  have hexec : exec (.kxNop c 0xF8000000) s = done (plain s c (fun x => x)) := by
    change execKxNop c 0xF8000000 s = _
    unfold execKxNop
    rw [if_pos rfl]
  exact plain_core hexec (fun _ => rfl)

/-! ### CTX_MODE (R167) -/

theorem setMode_eq (x : Core) (v : Word) : x.setMode v = { x with
    sat := v.getLsbD 0
    rnd := if v.toNat / 2 % 4 = 3 then 0 else BitVec.ofNat 2 (v.toNat / 2)
    ovf := x.ovf && (!v.getLsbD 3 || x.ovfNow) } := by
  have hbits : BitVec.ofNat 2 (bits v.toNat 2 1) = BitVec.ofNat 2 (v.toNat / 2) := by
    apply BitVec.eq_of_toNat_eq
    simp [bits]
  have hthree : BitVec.ofNat 2 (v.toNat / 2) = 3 ↔ v.toNat / 2 % 4 = 3 := by
    rw [← BitVec.toNat_inj]
    simp
  unfold Core.setMode
  simp only [hbits, hthree]

/-- A port write that changes a running core, which then goes on: one write. -/
theorem goOn_modCore {s : State} {c : CoreId} {f : Core → Core} (hrun : (f (s.core c.num)).phase = .running) :
    goOn (s.modCore c.num f) c = s.setCore c.num (f (s.core c.num)).next := by
  unfold goOn State.modCore
  rw [State.setCore_self, setCore_setCore hrun]

/-- On a TU and on the scarecrow a write of CTX_MODE changes its own core. -/
theorem exec_ctxModeWrite {s : State} {c : CoreId} (hissue : Issues s c) (hc : c.warden = none) (v : Word) :
    ∃ u, AtIssue s c u ∧ exec (.ctxModeWrite c v) s = done (u.setCore c.num ((u.core c.num).setMode v).next) := by
  obtain ⟨u, hu, hrun⟩ := issue_atIssue hissue
  refine ⟨u, hu, ?_⟩
  change execCtxModeWrite c v s = _
  unfold execCtxModeWrite
  rw [hrun]
  cases c with
  | tu k => rfl
  | wardenA => cases hc
  | wardenB => cases hc
  | scarecrow => exact congrArg done (goOn_modCore (c := .scarecrow) (f := fun x => x.setMode v) (hu.phase.trans hissue.1))

theorem ctxModeWrite_runs {s : State} {c : CoreId} (hc : c.warden = none) (v : Word) : CoreRuns (.ctxModeWrite c v) s c (fun x => ({ x with
    sat := v.getLsbD 0
    rnd := if v.toNat / 2 % 4 = 3 then 0 else BitVec.ofNat 2 (v.toNat / 2)
    ovf := x.ovf && (!v.getLsbD 3 || x.ovfNow) }).next) :=
  coreRuns_of_atIssue fun hissue => by simpa only [setMode_eq] using exec_ctxModeWrite hissue hc v

/-! ### Interrupts (R175, R290) -/

/-- The core stands at an instruction boundary and takes the line. -/
structure Takes (s : State) (c : CoreId) (line : Fin 64) : Prop where
  running : (s.core c.num).phase = .running
  ready : (s.core c.num).wait = .none
  settled : (s.core c.num).pend = []
  enabled : (s.sysCore c.side).ien = true
  unmasked : (s.sysCore c.side).imask.getLsbD line = true
  up : lineUp s c line = true
  outside : (s.sysCore c.side).inTrap = false

/-- The core has taken the line: the trap of cause 0x80 + i at the next instruction, with the pulse gone. -/
def Taken (s t : State) (c : CoreId) (line : Fin 64) : Prop :=
  Trapped s t c (s.core c.num) (BitVec.ofNat 8 (0x80 + line)) (s.core c.num).pc ∧ (t.sysCore c.side).lines.getLsbD line = false

/-- The core and the system registers before the trap of an interrupt: the pulse of the line is taken. -/
def lineCleared (s : State) (c : CoreId) (line : Fin 64) : State :=
  (s.setSys c.side { s.sysCore c.side with lines := (s.sysCore c.side).lines &&& ~~~(BitVec.twoPow 64 line) }).setCore c.num (s.core c.num)

section
variable {s : State} {c : CoreId} {line : Fin 64}

theorem lineCleared_core (k : Nat) : (lineCleared s c line).core k = s.core k := by
  unfold lineCleared
  by_cases hk : k = c.num
  · rw [hk, State.setCore_self]
  · rw [State.setCore_ne _ _ _ _ hk, State.setSys_core']

theorem lineCleared_sysCore : (lineCleared s c line).sysCore c.side =
    { s.sysCore c.side with lines := (s.sysCore c.side).lines &&& ~~~(BitVec.twoPow 64 line) } := by
  unfold lineCleared
  rw [State.setCore_sysCore', State.setSys_self]

theorem lineCleared_sysCore_ne {k : Nat} (hk : k ≠ c.side) : (lineCleared s c line).sysCore k = s.sysCore k := by
  unfold lineCleared
  rw [State.setCore_sysCore', State.setSys_ne _ _ _ _ hk]

theorem lineCleared_inTrap : ((lineCleared s c line).sysCore c.side).inTrap = (s.sysCore c.side).inTrap := by rw [lineCleared_sysCore]

variable (hc : c.isTu = false) (h : Takes s c line)
include hc h

theorem takeLine_eq : takeLine s c line = takeTrap (lineCleared s c line) c (BitVec.ofNat 8 (0x80 + line)) (s.core c.num).pc := by
  have hwake : wake s c (s.core c.num) = s.core c.num := by simp [wake, h.ready]
  unfold takeLine
  simp only [hwake]
  rw [if_neg (by simp [hc, canIssue, h.running, h.ready, h.enabled, h.unmasked, h.up, h.settled])]
  rfl

theorem takeLine_taken : Taken s (takeLine s c line) c line := by
  have htrap : ((lineCleared s c line).sysCore c.side).inTrap = false := lineCleared_inTrap.trans h.outside
  rw [takeLine_eq hc h]
  refine ⟨?_, ?_⟩
  · have htrapped := takeTrap_trapped htrap (BitVec.ofNat 8 (0x80 + line)) (s.core c.num).pc
    rw [lineCleared_core] at htrapped
    exact htrapped.of_sys (by rw [lineCleared_sysCore]) (by rw [lineCleared_sysCore])
  · rw [takeTrap_lines htrap, lineCleared_sysCore]
    simp

theorem takeLine_core_ne {k : Nat} (hk : k ≠ c.num) : (takeLine s c line).core k = s.core k := by
  rw [takeLine_eq hc h, takeTrap_core_ne (lineCleared_inTrap.trans h.outside) _ _ hk, lineCleared_core]

theorem takeLine_sysCore_ne {k : Nat} (hk : k ≠ c.side) : (takeLine s c line).sysCore k = s.sysCore k := by
  rw [takeLine_eq hc h, takeTrap_sysCore_ne (lineCleared_inTrap.trans h.outside) _ _ hk, lineCleared_sysCore_ne hk]

theorem takeLine_regs : (takeLine s c line).regs = s.regs := by
  rw [takeLine_eq hc h, takeTrap_regs (lineCleared_inTrap.trans h.outside)]
  rfl

end

/-- A line's level is read from the core's pulses and the pages' registers. -/
theorem lineUp_congr {s t : State} {c : CoreId} (hsys : t.sysCore c.side = s.sysCore c.side) (hregs : t.regs = s.regs) (i : Nat) :
    lineUp t c i = lineUp s c i := by
  have hstat : ∀ p, intStat t p = intStat s p := fun p => by
    unfold intStat State.reg
    rw [hregs]
  unfold lineUp
  rw [hsys]
  simp only [hstat]

theorem Taken.congr {s t u v : State} {c : CoreId} {line : Fin 64} (h : Taken u v c line) (hcore : u.core c.num = s.core c.num)
    (hsys : u.sysCore c.side = s.sysCore c.side) (hcore' : t.core c.num = v.core c.num) (hsys' : t.sysCore c.side = v.sysCore c.side) :
    Taken s t c line := by
  unfold Taken Trapped at h ⊢
  rw [← hcore, ← hsys, hcore', hsys']
  exact h

theorem Taken.after_drive {s t : State} {c : CoreId} {line : Fin 64} (h : Taken s t c line) : Taken s t.drive c line := h

/-- Wardens in step take a line together: the second finds what the first left, which is as before on its side. -/
theorem takeLine_both {s : State} {line : Fin 64} (ha : Takes s .wardenA line) (hb : Takes s .wardenB line) :
    let t := takeLine (takeLine s .wardenA line) .wardenB line
    Taken s t .wardenA line ∧ Taken s t .wardenB line := by
  have hcore : (takeLine s .wardenA line).core 2049 = s.core 2049 := takeLine_core_ne rfl ha (by decide)
  have hsys : (takeLine s .wardenA line).sysCore 1 = s.sysCore 1 := takeLine_sysCore_ne rfl ha (by decide)
  have hb' : Takes (takeLine s .wardenA line) .wardenB line := by
    obtain ⟨hrun, hready, hsettled, henabled, hunmasked, hup, houtside⟩ := hb
    refine ⟨?_, ?_, ?_, ?_, ?_, ?_, ?_⟩
    · exact (congrArg Core.phase hcore).trans hrun
    · exact (congrArg Core.wait hcore).trans hready
    · exact (congrArg Core.pend hcore).trans hsettled
    · exact (congrArg SysCore.ien hsys).trans henabled
    · exact (congrArg (fun y => y.imask.getLsbD line) hsys).trans hunmasked
    · exact (lineUp_congr (c := .wardenB) hsys (takeLine_regs rfl ha) line).trans hup
    · exact (congrArg SysCore.inTrap hsys).trans houtside
  exact ⟨(takeLine_taken rfl ha).congr rfl rfl (takeLine_core_ne rfl hb' (by decide)) (takeLine_sysCore_ne rfl hb' (by decide)),
    (takeLine_taken rfl hb').congr hcore hsys rfl rfl⟩

section
variable {s : State} {c : CoreId} {line : Fin 64}

theorem exec_interruptEntry_alone (h : c = .scarecrow ∨ comparing s = false) (hc : c.isTu = false) :
    exec (.interruptEntry c line) s = done (takeLine s c line) := by
  have halone : (c.warden.isSome && comparing s) = false := by
    rcases h with rfl | h
    · rfl
    · rw [h, Bool.and_false]
  change execInterruptEntry c line s = _
  unfold execInterruptEntry
  rw [halone]
  rfl

theorem exec_interruptEntry_step (hc : c.warden ≠ none) (h : comparing s = true) : exec (.interruptEntry c line) s =
    done (if (s.core 2048).slots = (s.core 2049).slots then takeLine (takeLine s .wardenA line) .wardenB line else s) := by
  have hwarden : c.warden.isSome = true := Option.isSome_iff_ne_none.mpr hc
  change execInterruptEntry c line s = _
  unfold execInterruptEntry sameBoundary
  rw [hwarden, h]
  simp only [Bool.and_self, if_true, beq_iff_eq]

end

/-! ### Residue mismatches (R152, R175, R310) -/

/-- After a reset a change of cores and system registers that starts no core leaves the latch of the trip. -/
theorem TripLatched.of_idle {s w t : State} {c : Nat} (h : TripLatched s w c) (ht : t = { w with cores := t.cores, sys := t.sys, pins := t.pins })
    (hidle : ∀ k, (t.core k).phase = .free ∧ (t.core k).s = [] ∧ (t.core k).mask = 0 ∧ (t.core k).smbx = []) : TripLatched s t c := by
  obtain ⟨hcauses, hpresent, hcount, hpending, htamper, hfirst, htime, hhold, htimer, hrootV, hrootM, hroot, hzeroed, hkeys, hheld, hsram,
    hnonces, hslots, hlog, hrecords, hrows, hcfg, hotp, hmem⟩ := h
  obtain ⟨hbe, huwc, hhbm, hrec, hdrbg, -, hbae, hbne, hvalid⟩ := hkeys
  obtain ⟨hpf, hrom, hentries, -, hf0, hf1⟩ := hheld
  rw [ht]
  exact ⟨hcauses, hpresent, hcount, hpending, htamper, hfirst, htime, hhold, htimer, hrootV, hrootM, hroot, hzeroed,
    ⟨hbe, huwc, hhbm, hrec, hdrbg, fun k => (hidle k).2, hbae, hbne, hvalid⟩, ⟨hpf, hrom, hentries, fun k => (hidle k).1, hf0, hf1⟩, hsram,
    hnonces, hslots, hlog, hrecords, hrows, hcfg, hotp, hmem⟩

section
variable {s : State} (hrun : (s.core 2050).phase = .running) (htrap : (s.sysCore 2).inTrap = false)
include hrun htrap

theorem exec_residueMismatch_scarecrow : exec (.residueMismatch .scarecrow) s =
    done (takeTrap (sentinelFault s) .scarecrow 0x06 (s.core 2050).pc) := by
  refine (if_neg (not_not_intro hrun)).trans ?_
  have hoff : (s.sysCore CoreId.scarecrow.side).inTrap = false := htrap
  simp only [hoff, Bool.false_eq_true, if_false]
  rfl

theorem residueMismatch_traps (hpresent : s.scr.present.getLsbD 0x30 = true) :
    Runs (.residueMismatch .scarecrow) s (fun t => Trapped s t .scarecrow (s.core 2050) 0x06 (s.core 2050).pc) := by
  have hfault : sentinelFault s = s := by simp [sentinelFault, trip, chanSentinel, hpresent]
  refine runs_of_exec (exec_residueMismatch_scarecrow hrun htrap) ?_
  rw [hfault]
  exact takeTrap_trapped (c := .scarecrow) htrap 0x06 _

theorem residueMismatch_trips (hpresent : s.scr.present.getLsbD 0x30 = false) :
    Runs (.residueMismatch .scarecrow) s (fun t => TripLatched s t 0x30) := by
  have hlatched : TripLatched s (sentinelFault s) 0x30 := trip_latches (by decide) hpresent 0
  have hreset : ∃ w, sentinelFault s = enterHold w := ⟨_, trip_single hpresent 0⟩
  obtain ⟨w, hw⟩ := hreset
  have hidle : ∀ k, (sentinelFault s).core k = {} := fun k => by rw [hw]; rfl
  have hsys : (sentinelFault s).sysCore 2 = {} := by rw [hw]; rfl
  have hout : ((sentinelFault s).sysCore CoreId.scarecrow.side).inTrap = false := congrArg SysCore.inTrap hsys
  refine runs_of_exec (exec_residueMismatch_scarecrow hrun htrap) (hlatched.of_idle (takeTrap_only hout _ _) fun k => ?_)
  rw [State.drive_core', takeTrap_eq hout, State.setSys_core']
  by_cases hk : k = CoreId.scarecrow.num
  · rw [hk, State.setCore_self, hidle]
    exact ⟨rfl, rfl, rfl, rfl⟩
  · rw [State.setCore_ne _ _ _ _ hk, hidle]
    exact ⟨rfl, rfl, rfl, rfl⟩

end

/-- Settles O14: each instruction on the state that it finds, an interrupt as the trap that it is, and a residue mismatch by its core. -/
theorem trapsInterruptsAndResidues : Obligations.TrapsInterruptsAndResidues := by
  unfold Obligations.TrapsInterruptsAndResidues
  refine ⟨fun s c v => ⟨fun hissue hc => ⟨exec_kxEret hissue hc, exec_kxWfi hissue hc, kxTrap_traps hissue hc⟩, kxNop_runs s c,
    fun hc => ctxModeWrite_runs hc v⟩, ?interrupts, ?residues⟩
  case interrupts =>
    intro s line takes taken
    have htakes : ∀ c, takes c → Takes s c line := fun c ⟨hrun, hready, hsettled, henabled, hunmasked, hup, hout⟩ =>
      ⟨hrun, hready, hsettled, henabled, hunmasked, hup, hout⟩
    refine ⟨fun c hc halone htake => runs_of_exec (exec_interruptEntry_alone halone hc) (takeLine_taken hc (htakes c htake)).after_drive,
      fun c hc hstep => ⟨fun hslots ha hb => ?_, fun hslots => ?_⟩⟩
    · have hexec := exec_interruptEntry_step (line := line) hc hstep
      rw [if_pos hslots] at hexec
      obtain ⟨hboth, hboth'⟩ := takeLine_both (htakes _ ha) (htakes _ hb)
      exact runs_of_exec hexec ⟨hboth.after_drive, hboth'.after_drive⟩
    · rw [exec_interruptEntry_step hc hstep, if_neg hslots]
  case residues =>
    intro s
    exact ⟨fun c hrun => runs_of_exec (if_neg (not_not_intro hrun)) rfl, fun hrun => if_neg (not_not_intro hrun),
      fun hrun => if_neg (not_not_intro hrun), fun hrun htrap => ⟨residueMismatch_traps hrun htrap, residueMismatch_trips hrun htrap⟩⟩

end Sys2Proof.Machine
end

section
/-! Proofs: the bytes and nibbles of a block. -/

namespace Sys2Proof.Machine

open Sys2Proof Sys2Proof.Bits

/-! ### Bytes of a number -/

theorem le_eq_map (n v : Nat) : le n v = (List.range n).map (fun k => BitVec.ofNat 8 (v / 256 ^ k)) := by
  induction n generalizing v with
  | zero => rfl
  | succ n ih =>
    rw [le, ih, List.range_succ_eq_map, List.map_cons, List.map_map]
    simp only [Nat.pow_zero, Nat.div_one, List.cons.injEq, true_and]
    refine List.map_congr_left fun k _ => ?_
    rw [Function.comp_apply, Nat.div_div_eq_div_mul, Nat.pow_succ, Nat.mul_comm]

theorem length_le_bytes (n v : Nat) : (le n v).length = n := by simp [le_eq_map]

theorem ofBlock_length (v : BitVec 128) : (ofBlock v).length = 16 := length_le_bytes 16 _

/-- Bytes of a field inside a number's bytes. -/
theorem slice_le {n o m : Nat} (h : o + m ≤ n) (v : Nat) : slice (le n v) o m = le m (v / 256 ^ o) := by
  rw [slice_eq_map, le_eq_map, le_eq_map]
  refine List.map_congr_left fun k hk => ?_
  have hin : o + k < n := by have := List.mem_range.mp hk; omega
  rw [List.getD_eq_getElem _ _ (by simpa using hin)]
  simp [Nat.div_div_eq_div_mul, Nat.pow_add]

theorem fieldLe_ofBlock {o m : Nat} (h : o + m ≤ 16) (v : BitVec 128) : fieldLe (ofBlock v) o m = v.toNat / 256 ^ o % 256 ^ m := by
  unfold Bits.fieldLe ofBlock
  rw [slice_le h, ofLe_le]

theorem ofLe_append (a b : Bytes) : ofLe (a ++ b) = ofLe a + 256 ^ a.length * ofLe b := by
  induction a with
  | nil => simp [ofLe]
  | cons x r ih =>
    rw [List.cons_append, ofLe, ih, ofLe, List.length_cons, Nat.pow_succ]
    ring

theorem take_le {m n : Nat} (h : m ≤ n) (v : Nat) : (le n v).take m = le m v := by
  rw [le_eq_map, le_eq_map, ← List.map_take, List.take_range, Nat.min_eq_left h]

theorem drop_le (m n v : Nat) : (le n v).drop m = le (n - m) (v / 256 ^ m) := by
  apply List.ext_getElem
  · simp [length_le_bytes]
  · intro i h₁ h₂
    simp [le_eq_map, Nat.div_div_eq_div_mul, Nat.pow_add]

/-- 16 bytes as a block. -/
theorem block_of_length {bs : Bytes} (h : bs.length = 16) : block bs = BitVec.ofNat 128 (ofLe bs) := by
  unfold block
  rw [List.take_of_length_le h.le]

/-! ### Bits of a block -/

theorem ofLe_testBit (bs : Bytes) (i : Nat) : (ofLe bs).testBit i = (bs.getD (i / 8) 0).getLsbD (i % 8) := by
  induction bs generalizing i with
  | nil => simp [ofLe]
  | cons b r ih =>
    have hsplit : ofLe (b :: r) = 2 ^ 8 * ofLe r + b.toNat := by rw [ofLe]; ring
    rw [hsplit, Nat.testBit_two_pow_mul_add _ b.isLt]
    by_cases hi : i < 8
    · have hdiv : i / 8 = 0 := by omega
      rw [if_pos hi, hdiv, Nat.mod_eq_of_lt hi]
      rfl
    · have hdiv : i / 8 = (i - 8) / 8 + 1 := by omega
      have hmod : (i - 8) % 8 = i % 8 := by omega
      rw [if_neg hi, ih, hdiv, hmod]
      rfl

theorem block_getLsbD {bs : Bytes} (h : bs.length = 16) {i : Nat} (hi : i < 128) :
    (block bs).getLsbD i = (bs.getD (i / 8) 0).getLsbD (i % 8) := by
  rw [block_of_length h, BitVec.getLsbD_ofNat, ofLe_testBit]
  simp [hi]

theorem ofBlock_getLsbD (v : BitVec 128) {k j : Nat} (hk : k < 16) (hj : j < 8) :
    ((ofBlock v).getD k 0).getLsbD j = v.getLsbD (8 * k + j) := by
  have hget : (ofBlock v).getD k 0 = BitVec.ofNat 8 (v.toNat / 256 ^ k) := by
    unfold ofBlock
    rw [le_eq_map, List.getD_eq_getElem _ _ (by simpa using hk)]
    simp
  have hpow : (256 : Nat) ^ k = 2 ^ (8 * k) := by rw [Nat.pow_mul]
  rw [hget, BitVec.getLsbD_ofNat, hpow, Nat.testBit_div_two_pow, BitVec.getLsbD, Nat.add_comm]
  simp [hj]

/-- A bitwise operation on the bytes of two blocks is that operation on the blocks. -/
theorem block_zipWith {f : Byte → Byte → Byte} {g : BitVec 128 → BitVec 128 → BitVec 128} {p : Bool → Bool → Bool}
    (hf : ∀ x y i, i < 8 → (f x y).getLsbD i = p (x.getLsbD i) (y.getLsbD i))
    (hg : ∀ x y i, i < 128 → (g x y).getLsbD i = p (x.getLsbD i) (y.getLsbD i)) (a b : BitVec 128) :
    block (List.zipWith f (ofBlock a) (ofBlock b)) = g a b := by
  apply BitVec.eq_of_getLsbD_eq
  intro i hi
  have hlen : (List.zipWith f (ofBlock a) (ofBlock b)).length = 16 := by simp [ofBlock_length]
  have hk : i / 8 < 16 := by omega
  have hzip : (List.zipWith f (ofBlock a) (ofBlock b)).getD (i / 8) 0 = f ((ofBlock a).getD (i / 8) 0) ((ofBlock b).getD (i / 8) 0) := by
    rw [List.getD_eq_getElem _ _ (by omega), List.getElem_zipWith, List.getD_eq_getElem _ _ (by rw [ofBlock_length]; exact hk),
      List.getD_eq_getElem _ _ (by rw [ofBlock_length]; exact hk)]
  rw [block_getLsbD hlen hi, hzip, hf _ _ _ (by omega), hg _ _ _ hi, ofBlock_getLsbD a hk (by omega), ofBlock_getLsbD b hk (by omega),
    Nat.div_add_mod]

theorem block_xor (a b : BitVec 128) : block (Bits.xor (ofBlock a) (ofBlock b)) = a ^^^ b :=
  block_zipWith (p := Bool.xor) (fun _ _ _ _ => BitVec.getLsbD_xor) (fun _ _ _ _ => BitVec.getLsbD_xor) a b

theorem block_and (a b : BitVec 128) : block (List.zipWith (· &&& ·) (ofBlock a) (ofBlock b)) = a &&& b :=
  block_zipWith (p := and) (fun _ _ _ _ => BitVec.getLsbD_and) (fun _ _ _ _ => BitVec.getLsbD_and) a b

theorem block_or (a b : BitVec 128) : block (List.zipWith (· ||| ·) (ofBlock a) (ofBlock b)) = a ||| b :=
  block_zipWith (p := or) (fun _ _ _ _ => BitVec.getLsbD_or) (fun _ _ _ _ => BitVec.getLsbD_or) a b

/-- The low halves of two blocks, the first in the low half. -/
theorem block_halves (a b : BitVec 128) : block ((ofBlock a).take 8 ++ (ofBlock b).take 8) = b.setWidth 64 ++ a.setWidth 64 := by
  have hlen : ((ofBlock a).take 8 ++ (ofBlock b).take 8).length = 16 := by simp [ofBlock_length]
  apply BitVec.eq_of_toNat_eq
  rw [block_of_length hlen, BitVec.toNat_append, ← Nat.shiftLeft_add_eq_or_of_lt (BitVec.isLt _)]
  unfold ofBlock
  rw [take_le (by decide), take_le (by decide), ofLe_append, ofLe_le, ofLe_le, length_le_bytes]
  simp only [BitVec.toNat_ofNat, BitVec.toNat_setWidth, Nat.shiftLeft_eq]
  omega

/-- A word in place of quarter q of a block. -/
theorem block_setQuarter (v : BitVec 128) (q : Fin 4) (w : Word) :
    block ((ofBlock v).take (4 * q) ++ le 4 w.toNat ++ (ofBlock v).drop (4 * q + 4)) =
      BitVec.ofNat 128 (setBits v.toNat (32 * q + 31) (32 * q) w.toNat) := by
  have hq := q.isLt
  have hlen : ((ofBlock v).take (4 * q) ++ le 4 w.toNat ++ (ofBlock v).drop (4 * q + 4)).length = 16 := by
    simp [ofBlock_length, length_le_bytes]
    omega
  have hw := w.isLt
  have hv := v.isLt
  rw [block_of_length hlen]
  congr 1
  unfold ofBlock setBits bits
  rw [take_le (by omega), drop_le, ofLe_append, ofLe_append, List.length_append, length_le_bytes, length_le_bytes, ofLe_le, ofLe_le, ofLe_le]
  fin_cases q <;> simp <;> omega

theorem quarter_eq (r : SReg) (q : Fin 4) : quarter r q = BitVec.ofNat 32 (fieldLe r.bytes (4 * q) 4) := by
  have hq := q.isLt
  have hwidth : 32 * q.val + 31 + 1 - 32 * q.val = 32 := by omega
  have hpow : (256 : Nat) ^ (4 * q.val) = 2 ^ (32 * q.val) := by rw [show (256 : Nat) = 2 ^ 8 from rfl, ← Nat.pow_mul]; ring_nf
  unfold quarter SReg.bytes bits
  rw [fieldLe_ofBlock (by omega), hwidth, hpow, show (256 : Nat) ^ 4 = 2 ^ 32 from rfl]

/-! ### Nibbles -/

theorem nibs_cons (b : Byte) (r : Bytes) : nibs (b :: r) = b.toNat / 16 :: b.toNat % 16 :: nibs r := rfl

theorem nib_cons_add_two (b : Byte) (r : Bytes) (j : Nat) : nib (b :: r) (j + 2) = nib r j := by
  unfold nib byteAt
  rw [show (j + 2) / 2 = j / 2 + 1 by omega, show (j + 2) % 2 = j % 2 by omega]
  rfl

/-- The nibbles of a byte string in the numbering of R79. -/
theorem nibs_eq_map (bs : Bytes) : nibs bs = (List.range (2 * bs.length)).map (nib bs) := by
  induction bs with
  | nil => rfl
  | cons b r ih =>
    rw [nibs_cons, ih, List.length_cons, show 2 * (r.length + 1) = 2 * r.length + 1 + 1 by ring, List.range_succ_eq_map, List.range_succ_eq_map]
    simp only [List.map_cons, List.map_map]
    refine congrArg₂ _ rfl (congrArg₂ _ rfl (List.map_congr_left fun j _ => ?_))
    exact (nib_cons_add_two b r j).symm

theorem nibs_ofBlock (v : BitVec 128) : nibs (ofBlock v) = (List.range 32).map (nib (ofBlock v)) := by rw [nibs_eq_map, ofBlock_length]

theorem nibs_ofBlock_length (v : BitVec 128) : (nibs (ofBlock v)).length = 32 := by simp [nibs_ofBlock]

/-- Nibbles moved down by k, zeros behind them. -/
theorem nibs_shift (v : BitVec 128) (k : Fin 32) : (nibs (ofBlock v)).drop k ++ List.replicate k 0 =
    (List.range 32).map (fun j => (nibs (ofBlock v)).getD (j + k) 0) := by
  have hk := k.isLt
  have hlen := nibs_ofBlock_length v
  apply List.ext_getElem
  · simp [hlen]
  · intro j h₁ h₂
    have hj : j < 32 := by simpa using h₂
    rw [List.getElem_map, List.getElem_range]
    by_cases hin : j + k < 32
    · rw [List.getElem_append_left (by simp [hlen]; omega), List.getElem_drop, List.getD_eq_getElem _ _ (by omega)]
      simp only [Nat.add_comm]
    · rw [List.getElem_append_right (by simp [hlen]; omega), List.getElem_replicate, List.getD_eq_default _ _ (by omega)]

/-- Nibbles 0 to `last` of two blocks agree. -/
theorem nibs_take_eq_iff (a b : BitVec 128) (last : Fin 32) :
    (nibs (ofBlock a)).take (last.val + 1) = (nibs (ofBlock b)).take (last.val + 1) ↔
      ∀ j : Fin 32, j ≤ last → nib (ofBlock a) j = nib (ofBlock b) j := by
  have hlast := last.isLt
  rw [nibs_ofBlock, nibs_ofBlock, ← List.map_take, ← List.map_take, List.take_range, Nat.min_eq_left (by omega), List.map_inj_left]
  constructor
  · exact fun h j hj => h j (List.mem_range.mpr (by have : j.val ≤ last.val := hj; omega))
  · intro h j hj
    have hlt : j < last.val + 1 := List.mem_range.mp hj
    exact h ⟨j, by omega⟩ (by show j ≤ last.val; omega)

end Sys2Proof.Machine
end

section
/-! Proofs: instructions that write a secret register, and extracts (O12, O13). -/

namespace Sys2Proof.Machine

open Sys2Proof Sys2Proof.Bits

/-! ### Writes of a secret register (R135) -/

theorem OnlyCoreMasked.after_setOwn {s t : State} {c : CoreId} (h : OnlyCoreMasked s t c) (x : Core) : OnlyCoreMasked s (t.setCore c.num x) c :=
  h.trans ⟨rfl, fun _ hk => State.setCore_ne _ _ _ _ hk⟩

theorem newMask_only (s : State) (c : CoreId) : OnlyCoreMasked s (newMask s c).2 c := by
  cases c <;> exact ⟨rfl, fun _ _ => rfl⟩

theorem newMask_core (s : State) (c : CoreId) (k : Nat) : (newMask s c).2.core k = s.core k := by cases c <;> rfl

theorem writeSecret_eq (s : State) (c : CoreId) (sd : Nat) (r : SReg) : writeSecret s c sd r =
    (newMask s c).2.setCore c.num { s.core c.num with s := Map.set {} (s.core c.num).s sd r, mask := (newMask s c).1 } := by
  rw [← newMask_core s c c.num]
  rfl

/-- A secret register written, and on to the next instruction. -/
theorem goOn_writeSecret (s : State) (c : CoreId) (sd : Nat) (r : SReg) :
    OnlyCoreMasked s (goOn (writeSecret s c sd r) c) c ∧ (goOn (writeSecret s c sd r) c).core c.num =
      ({ s.core c.num with s := Map.set {} (s.core c.num).s sd r, mask := (newMask s c).1 }).next := by
  unfold goOn State.modCore
  rw [writeSecret_eq, State.setCore_self, State.setCore_self]
  exact ⟨((newMask_only s c).after_setOwn _).after_setOwn _, rfl⟩

/-- A secret instruction that writes register sd of its core with what it makes of the core that it finds. -/
theorem writesSecret_of_issue {i : Instr} {s : State} {c : CoreId} {sd : Fin 16} {f : Core → SReg} (h : Issues s c → c ≠ .scarecrow →
    ∃ u, AtIssue s c u ∧ exec i s = done (goOn (writeSecret u c sd (f (u.core c.num))) c)) : WritesSecret i s c sd f := by
  intro hissue hc
  obtain ⟨u, hu, hexec⟩ := h hissue hc
  obtain ⟨honly, hcore⟩ := goOn_writeSecret u c sd (f (u.core c.num))
  exact ⟨u.core c.num, (newMask u c).1, hu.2, runs_of_exec hexec ⟨(hu.1.masked.trans honly).after_drive, hcore⟩⟩

theorem issueSecret_eq {s : State} {c : CoreId} (hc : c ≠ .scarecrow) (k : State → Core → State) : issueSecret s c k = issue s c k := by
  unfold issueSecret
  simp only [hc, if_false]

/-- A secret instruction on the state that it finds. -/
theorem exists_atIssue_secret {i : Instr} {s : State} {c : CoreId} {k : State → Core → State} (hi : exec i s = done (issueSecret s c k))
    (hissue : Issues s c) (hc : c ≠ .scarecrow) : ∃ u, AtIssue s c u ∧ exec i s = done (k u (u.core c.num)) := by
  obtain ⟨u, hu, hrun⟩ := issue_atIssue hissue
  exact ⟨u, hu, by rw [hi, issueSecret_eq hc, hrun]⟩

/-- A secret result. -/
theorem toSecret_writes {i : Instr} {s : State} {c : CoreId} {sd : Fin 16} {f g : Core → SReg} (hi : exec i s = done (toSecret s c sd g))
    (hv : ∀ x, g x = f x) : WritesSecret i s c sd f := by
  obtain rfl : g = f := funext hv
  exact writesSecret_of_issue (exists_atIssue_secret hi)

/-! ### Tags of a mixed result (R171) -/

theorem mixTags_label (ops : List SReg) : (mixTags ops).1 = ops.foldl (fun l r => l.max r.label) .p := by
  unfold mixTags
  dsimp only
  cases ops.filter (fun r => r.label == .k) with
  | cons k r =>
    dsimp only
    split <;> rfl
  | nil => cases ops <;> rfl

theorem max_rank (a b : Label) : (a.max b).rank = max a.rank b.rank := by cases a <;> cases b <;> rfl

/-- The label of a mixed result is the most restricted of the operands'. -/
theorem mixTags_rank (a b : SReg) : (mixTags [a, b]).1.rank = max a.label.rank b.label.rank := by
  rw [mixTags_label, List.foldl_cons, List.foldl_cons, List.foldl_nil, max_rank, max_rank]
  simp [Label.rank]

section
variable {a b : SReg}

theorem mixTags_same (ha : a.label = .k) (hb : b.label = .k) (hrole : a.role = b.role) (hderived : a.derived = b.derived) :
    mixTags [a, b] = (.k, a.role, a.derived) := by
  simp [mixTags, ha, hb, hrole, hderived, Label.max, Label.rank]

theorem mixTags_differ (ha : a.label = .k) (hb : b.label = .k) (hdiffer : a.role ≠ b.role ∨ a.derived ≠ b.derived) :
    mixTags [a, b] = (.k, 0x00, false) := by
  have hne : ¬ (b.role = a.role ∧ b.derived = a.derived) := fun ⟨hrole, hderived⟩ => hdiffer.elim (· hrole.symm) (· hderived.symm)
  simp [mixTags, ha, hb, hne, Label.max, Label.rank]

theorem mixTags_plain (ha : a.label = .k) (hb : b.label = .p) :
    mixTags [a, b] = (.k, a.role, a.derived) ∧ mixTags [b, a] = (.k, a.role, a.derived) := by
  simp [mixTags, ha, hb, Label.max, Label.rank]

theorem mixTags_restricted (ha : a.label = .k) (hk : b.label ≠ .k) (hp : b.label ≠ .p) :
    mixTags [a, b] = (.k, 0x00, false) ∧ mixTags [b, a] = (.k, 0x00, false) := by
  cases hb : b.label with
  | p => exact absurd hb hp
  | k => exact absurd hb hk
  | _ => simp [mixTags, ha, hb, Label.max, Label.rank]

theorem mixTags_role (ha : a.label ≠ .k) (hb : b.label ≠ .k) : (mixTags [a, b]).2.1 = if a.role = b.role then a.role else 0x00 := by
  by_cases h : a.role = b.role
  · simp [mixTags, ha, hb, h]
  · simp [mixTags, ha, hb, h, Ne.symm h]

/-- Under SAND and SOR a K result has no role. -/
theorem mixLogic_role (h : a.label = .k ∨ b.label = .k) : (mixLogic [a, b]).2.1 = 0x00 := by
  have hrank : (mixTags [a, b]).1.rank = 4 := by
    rw [mixTags_rank]
    rcases h with h | h <;> rw [h]
    · cases b.label <;> rfl
    · cases a.label <;> rfl
  have hlabel : (mixTags [a, b]).1 = .k := by
    cases hl : (mixTags [a, b]).1 <;> rw [hl] at hrank <;> simp [Label.rank] at hrank ⊢
  unfold mixLogic
  dsimp only
  rw [if_pos hlabel]

end

/-! ### The secret instructions (R171) -/

section
variable {s : State} {c : CoreId} {sd sa sb : Fin 16}

theorem kxSnsh_writes (k : Fin 32) : WritesSecret (.kxSnsh c sd sa k) s c sd (fun x =>
    { x.getS sa with val := block (ofNibs ((List.range 32).map (fun j => (nibs (x.getS sa).bytes).getD (j + k) 0))) }) :=
  toSecret_writes rfl fun x => by
    have hshift := nibs_shift (x.getS sa).val k
    unfold SReg.bytes
    rw [hshift]

theorem kxSldw_writes (ra : Fin 32) (q : Fin 4) : WritesSecret (.kxSldw c sd ra q) s c sd (fun x => { x.getS sd with
    val := block ((x.getS sd).bytes.take (4 * q) ++ le 4 (x.getW ra).toNat ++ (x.getS sd).bytes.drop (4 * q + 4))
    role := if (x.getS sd).label = .k then 0x00 else (x.getS sd).role }) :=
  toSecret_writes rfl fun x => by
    have hquarter := block_setQuarter (x.getS sd).val q (x.getW ra)
    unfold SReg.bytes
    rw [hquarter]
    rfl

theorem kxSrole_writes {role : BitVec 8} (hlabel : ((s.core c.num).getS sa).label = .k) (hderived : ((s.core c.num).getS sa).derived = true)
    (hrole : (assignable ((s.core c.num).getS sa).role).contains role = true) :
    WritesSecret (.kxSrole c sd sa role) s c sd (fun x => { x.getS sa with role := role, derived := false }) :=
  writesSecret_of_issue fun hissue hc => by
    obtain ⟨u, hu, hexec⟩ := exists_atIssue_secret (i := .kxSrole c sd sa role) rfl hissue hc
    rw [← hu.getS sa] at hlabel hderived hrole
    refine ⟨u, hu, hexec.trans (congrArg done (if_pos ?_))⟩
    rw [hlabel, hderived, hrole]
    rfl

end

/-- Settles O12: each instruction's result by what its bytes are as a block, and the tags of a mixed result by the operands' labels. -/
theorem secretRegisters : Obligations.SecretRegisters := by
  unfold Obligations.SecretRegisters
  refine ⟨fun s c sd sa sb ra q k role => ?instructions, fun a b => ⟨mixTags_rank a b, mixTags_same, mixTags_differ, mixTags_plain,
    mixTags_restricted, mixTags_role, mixLogic_role⟩⟩
  case instructions =>
    have hbytes : ∀ {i : Instr} {f : Core → BitVec 128} {g : Core → Bytes} {t : Core → Label × Byte × Bool},
        exec i s = done (toSecret s c sd (fun x => SReg.of (g x) (t x))) → (∀ x, block (g x) = f x) →
        WritesSecret i s c sd (fun x => { val := f x, label := (t x).1, role := (t x).2.1, derived := (t x).2.2 }) :=
      fun hi hv => toSecret_writes hi fun x => by rw [← hv]; rfl
    exact ⟨toSecret_writes rfl fun _ => rfl, toSecret_writes rfl fun _ => rfl, hbytes rfl fun _ => block_xor _ _,
      hbytes rfl fun _ => block_and _ _, hbytes rfl fun _ => block_or _ _, hbytes rfl fun _ => block_halves _ _,
      toSecret_writes rfl fun _ => rfl, hbytes rfl fun _ => rfl, hbytes rfl fun _ => rfl, hbytes rfl fun _ => rfl,
      hbytes rfl fun _ => rfl, kxSnsh_writes k, kxSldw_writes ra q, kxSrole_writes⟩

/-! ### Extracts (R172) -/

section
variable {s : State} {c : CoreId} {rd : Fin 32}

/-- An extract whose operands the table allows. -/
theorem extract_writes {i : Instr} {ok : Core → Bool} {okP : Core → Prop} {f g : Core → Word} (hi : exec i s = done (extract s c rd ok g))
    (hok : ∀ u, AtIssue s c u → okP (s.core c.num) → ok (u.core c.num) = true) (hv : ∀ x, g x = f x) : Extracts i s c rd okP f := by
  obtain rfl : g = f := funext hv
  intro hc hallowed
  refine coreRuns_of_atIssue fun hissue => ?_
  obtain ⟨u, hu, hexec⟩ := exists_atIssue_secret hi hissue hc
  exact ⟨u, hu, hexec.trans (congrArg done (if_pos (hok u hu hallowed)))⟩

variable {sa sb : Fin 16}

theorem kxScmp_value (a b : SReg) (last : Fin 32) :
    Kx.bool (((nibs a.bytes).take (last.val + 1)) == ((nibs b.bytes).take (last.val + 1))) =
      if ∀ j : Fin 32, j ≤ last → nib a.bytes j = nib b.bytes j then 1 else 0 := by
  have hagree : (nibs a.bytes).take (last.val + 1) = (nibs b.bytes).take (last.val + 1) ↔
      ∀ j : Fin 32, j ≤ last → nib a.bytes j = nib b.bytes j := nibs_take_eq_iff a.val b.val last
  by_cases h : (nibs a.bytes).take (last.val + 1) = (nibs b.bytes).take (last.val + 1)
  · rw [if_pos (hagree.mp h), beq_iff_eq.mpr h]
    rfl
  · rw [if_neg (fun hall => h (hagree.mpr hall)), beq_eq_false_iff_ne.mpr h]
    rfl

/-- The immediates that R172 allows. -/
theorem spofsDefined_iff {imm : BitVec 5} :
    Kx.spofsDefined imm.toNat = true ↔ imm.toNat % 16 ≤ 11 ∧ (imm.toNat < 16 ∨ 8 < imm.toNat % 16 + 1) := by
  revert imm
  decide

/-- SPOFS starts at digit 0, or 8 where bit 4 of the immediate is set. -/
theorem spofs_first (imm : BitVec 5) : (if imm.getLsbD 4 then 8 else 0) = 8 * (imm.toNat / 16) := by
  revert imm
  decide

theorem pinOffset_eq (dt : BitVec 64) (pin table : Bytes) (imm : BitVec 5) : pinOffset dt pin table imm =
    (let lo := 8 * (imm.toNat / 16)
     let n := imm.toNat % 16 + 1
     Kx.digitWord ((List.range (min n (lo + 8) - lo)).map (fun k =>
       (((nib pin (2 + (lo + k)) : Int) - nib (le 8 dt.toNat) (nib table (lo + k))) % 10).toNat))) := by
  have hcount : min (imm.toNat % 16 + 1 - 8 * (imm.toNat / 16)) 8 =
      min (imm.toNat % 16 + 1) (8 * (imm.toNat / 16) + 8) - 8 * (imm.toNat / 16) := by omega
  unfold pinOffset
  simp only [spofs_first, hcount, Nat.add_assoc]
  rfl

theorem kxSpofs_extracts (imm : BitVec 5) : Extracts (.kxSpofs c rd sa sb imm) s c rd
    (fun x => (x.getS sa).label = .n ∧ (x.getS sb).label = .c ∧ (x.getS sb).role = 0x04 ∧ x.dtLoaded = true ∧
      imm.toNat % 16 ≤ 11 ∧ (imm.toNat < 16 ∨ 8 < imm.toNat % 16 + 1))
    (fun x => pinOffset x.dt (x.getS sa).bytes (x.getS sb).bytes imm) := by
  rintro hc ⟨hpin, htable, hrole, hloaded, himm⟩
  refine coreRuns_of_atIssue fun hissue => ?_
  obtain ⟨u, hu, hexec⟩ := exists_atIssue_secret (i := .kxSpofs c rd sa sb imm) rfl hissue hc
  refine ⟨u, hu, hexec.trans (congrArg done ?_)⟩
  rw [← hu.getS] at hpin htable hrole
  rw [← hu.dtLoaded] at hloaded
  rw [if_neg (by simp [spofsDefined_iff.mpr himm]), if_pos (by rw [hpin, htable, hrole, hloaded]; rfl)]
  rfl

end

/-! ### Refused operands on a TU (R141, R172) -/

section
variable {s : State} {c : Fin 2048} (hissue : Issues s (.tu c))
include hissue

/-- A secret instruction of a TU whose operands are refused. -/
theorem exec_refused {i : Instr} {k : State → Core → State} (hi : exec i s = done (issueSecret s (.tu c) k))
    (hk : ∀ u, AtPort s c u → k u (u.core c) = kxFault u (.tu c) .operand) :
    ∃ u, AtPort s c u ∧ exec i s = done (portError u c) := by
  obtain ⟨u, hu, hexec⟩ := exists_atIssue_secret hi hissue (fun h => nomatch h)
  exact ⟨u, hu, hexec.trans (congrArg done (hk u hu))⟩

variable {rd : Fin 32} {sa sb sd : Fin 16}

theorem exec_kxSmvw_refused {q : Fin 4} (hp : ((s.core c).getS sa).label ≠ .p) (hc : ((s.core c).getS sa).label ≠ .c) :
    ∃ u, AtPort s c u ∧ exec (.kxSmvw (.tu c) rd sa q) s = done (portError u c) := by
  refine exec_refused hissue rfl fun u hu => if_neg ?_
  beta_reduce
  rw [hu.getS]
  simp [hp, hc]

theorem exec_kxSdec_refused {cnt : BitVec 3} (hc : ((s.core c).getS sa).label ≠ .c) :
    ∃ u, AtPort s c u ∧ exec (.kxSdec (.tu c) rd sa cnt) s = done (portError u c) := by
  refine exec_refused hissue rfl fun u hu => if_neg ?_
  beta_reduce
  rw [hu.getS]
  simp [hc]

theorem exec_kxSpofs_refused {imm : BitVec 5} (h : ((s.core c).getS sa).label ≠ .n ∨ (s.core c).dtLoaded = false ∨ 11 < imm.toNat % 16) :
    ∃ u, AtPort s c u ∧ exec (.kxSpofs (.tu c) rd sa sb imm) s = done (portError u c) := by
  refine exec_refused hissue rfl fun u hu => ?_
  by_cases himm : Kx.spofsDefined imm.toNat = true
  · have hloaded : (u.core c).dtLoaded = (s.core c).dtLoaded := AtIssue.dtLoaded hu
    have hfalse : ¬ 11 < imm.toNat % 16 := Nat.not_lt.mpr (spofsDefined_iff.mp himm).1
    rw [if_neg (by simp [himm]), if_neg]
    rw [hu.getS, hloaded]
    rcases h with h | h | h
    · simp [h]
    · simp [h]
    · exact absurd h hfalse
  · rw [if_pos (by simpa using himm)]
    rfl

theorem exec_kxSrole_refused {role : BitVec 8} (h : ((s.core c).getS sa).label ≠ .k ∨ ((s.core c).getS sa).derived = false) :
    ∃ u, AtPort s c u ∧ exec (.kxSrole (.tu c) sd sa role) s = done (portError u c) := by
  refine exec_refused hissue rfl fun u hu => if_neg ?_
  rw [hu.getS]
  rcases h with h | h <;> simp [h]

end

/-- Settles O13: the allowed operands make the test of each extract pass; each refused one makes the TU's instruction a port error. -/
theorem secretExtracts : Obligations.SecretExtracts := by
  unfold Obligations.SecretExtracts
  refine ⟨fun s c rd sa sb q last fmt cnt imm => ⟨?smvw, ?scmp, ?spinchk, ?sdec, ?spofs⟩, ?refused⟩
  case smvw =>
    refine extract_writes rfl (fun u hu hlabel => ?_) fun x => quarter_eq _ q
    rw [hu.getS]
    simpa using hlabel
  case scmp => exact extract_writes rfl (fun _ _ _ => rfl) fun x => kxScmp_value _ _ last
  case spinchk =>
    refine extract_writes rfl (fun u hu hallowed => ?_) fun x => rfl
    rw [hu.getS]
    simpa [or_assoc] using hallowed
  case sdec =>
    refine extract_writes rfl (fun u hu hlabel => ?_) fun x => rfl
    rw [hu.getS]
    simpa using hlabel
  case spofs =>
    simp only [← pinOffset_eq]
    exact kxSpofs_extracts imm
  case refused =>
    rintro s c rd sa sb q cnt imm role sd i hissue (⟨rfl, hp, hc⟩ | ⟨rfl, hc⟩ | ⟨rfl, h⟩ | ⟨rfl, h⟩)
    · exact exec_kxSmvw_refused hissue hp hc
    · exact exec_kxSdec_refused hissue hc
    · exact exec_kxSpofs_refused hissue h
    · exact exec_kxSrole_refused hissue h

end Sys2Proof.Machine
end

section
/-! Proofs: system ports and request ports by number (O15). -/

namespace Sys2Proof.Machine

open Sys2Proof Sys2Proof.Bits

/-! ### System ports of the W and S variants (R167, R174, R175) -/

section
variable {s : State} {c : CoreId} {r : Fin 32}

theorem exec_kxIn_core (hc : c.isTu = false) (p : BitVec 16) :
    exec (.kxIn c r p) s = done (issue s c (fun s x => coreIn s c x r p.toNat)) := by
  cases c with
  | tu k => cases hc
  | _ => rfl

theorem exec_kxOut_core (hc : c.isTu = false) (p : BitVec 16) :
    exec (.kxOut c r p) s = done (issue s c (fun s x => coreOut s c p.toNat (x.getW r))) := by
  cases c with
  | tu k => cases hc
  | _ => rfl

/-- An IN of a listed port writes what the port reads. -/
theorem kxIn_writes (hc : c.isTu = false) {p : BitVec 16} {v : Word}
    (hport : ∀ u, AtIssue s c u → sysPortIn u c (u.core c.num) p.toNat = some v) : WritesWord (.kxIn c r p) s c r (fun _ => v) := by
  refine coreRuns_of_atIssue fun hissue => ?_
  obtain ⟨u, hu, hrun⟩ := issue_atIssue hissue
  refine ⟨u, hu, ?_⟩
  rw [exec_kxIn_core hc, hrun]
  unfold coreIn
  rw [hport u hu]
  rfl

end

section
variable {s u : State} {c : CoreId} (hu : AtIssue s c u)
include hu

/-- A system port at or above 0x8010 reads a register of the core's system side. -/
theorem sysPortIn_sys {p : Nat} (hp : 0x8010 ≤ p) : sysPortIn u c (u.core c.num) p =
    if p = 0x8010 then some (s.sysCore c.side).tvec
    else if p = 0x8011 then some (s.sysCore c.side).epc
    else if p = 0x8012 then some ((s.sysCore c.side).ecause.setWidth 32)
    else if p = 0x8013 then some (BitVec.ofNat 32 (b2n (s.sysCore c.side).ien))
    else if p = 0x8014 then some ((s.sysCore c.side).imask.setWidth 32)
    else if p = 0x8015 then some (((s.sysCore c.side).imask >>> 32).setWidth 32)
    else none := by
  unfold sysPortIn
  dsimp only
  rw [hu.sysCore, if_neg (by omega), if_neg (by omega)]

theorem sysPortIn_apt (hc : c.warden ≠ none) (n : Fin 16) :
    sysPortIn u c (u.core c.num) (BitVec.ofNat 16 (0x8000 + n)).toNat = some (Map.get 0 (s.sysCore c.side).apt n) := by
  have hn := n.isLt
  have hport : (BitVec.ofNat 16 (0x8000 + n)).toNat = 0x8000 + n := by simp; omega
  have hwarden : c.warden.isSome = true := Option.isSome_iff_ne_none.mpr hc
  unfold sysPortIn
  dsimp only
  rw [hport, hu.sysCore, if_neg (by omega), if_pos ⟨by omega, by omega, hwarden⟩, Nat.add_sub_cancel_left]

end

theorem setWidth_low (m : BitVec 64) : m.setWidth 32 = BitVec.ofNat 32 m.toNat := by
  apply BitVec.eq_of_toNat_eq
  simp

theorem setWidth_high (m : BitVec 64) : (m >>> 32).setWidth 32 = BitVec.ofNat 32 (m.toNat / 2 ^ 32) := by
  apply BitVec.eq_of_toNat_eq
  simp [Nat.shiftRight_eq_div_pow]

theorem ofNat_b2n (b : Bool) : BitVec.ofNat 32 (b2n b) = if b then 1 else 0 := by cases b <;> rfl

/-- An OUT of the scarecrow to a port of its system registers. -/
theorem coreOut_scarecrow {u t : State} {p : Nat} {v : Word} (h : setPort u 2050 2 false p v = some t) :
    coreOut u .scarecrow p v = goOn t .scarecrow := by
  unfold coreOut
  have hport : sysPortOut u .scarecrow p v = some t := h
  rw [hport]
  rfl

/-! ### Ports of a TU context (R142, R173) -/

/-- The instruction of a TU at a port that it did not wait at. -/
theorem reissue_runs {s : State} {c : Fin 2048} (h : Issues s (.tu c)) {w : Wait → Bool} (hw : w .none = false) :
    ∃ u, AtPort s c u ∧ ∀ k, issue (reissue s c w) (.tu c) k = k u (u.core c) := by
  have hwaits : (s.core c).wait = .none := h.2.1
  have hreissue : reissue s c w = s := if_neg (by rw [hwaits, hw]; decide)
  obtain ⟨u, hu, hrun⟩ := issue_atIssue h
  exact ⟨u, hu, fun k => by rw [hreissue]; exact hrun k⟩

section
variable {s : State} {c : Fin 2048} {r : Fin 32} {sd : Fin 16} {q : Fin 4} (hissue : Issues s (.tu c))
include hissue

/-- An IN of a TU on the state that it finds. -/
theorem exists_kxIn {p : BitVec 16} (hw : portWaits p.toNat .none = false) {F : State → State}
    (hF : ∀ u waited, AtPort s c u → tuIn u c r p.toNat waited = F u) : ∃ u, AtPort s c u ∧ exec (.kxIn (.tu c) r p) s = done (F u) := by
  obtain ⟨u, hu, hrun⟩ := reissue_runs hissue hw
  exact ⟨u, hu, congrArg done ((hrun _).trans (hF u _ hu))⟩

/-- An OUT of a TU on the state that it finds. -/
theorem exists_kxOut {p : BitVec 16} (hw : portWaits p.toNat .none = false) {F : State → State}
    (hF : ∀ u, AtPort s c u → tuOut u c p.toNat ((u.core c).getW r) = F u) : ∃ u, AtPort s c u ∧ exec (.kxOut (.tu c) r p) s = done (F u) := by
  obtain ⟨u, hu, hrun⟩ := reissue_runs hissue hw
  exact ⟨u, hu, congrArg done ((hrun _).trans (hF u hu))⟩

/-- A SOUT of a TU on the state that it finds. -/
theorem exists_kxSout {p : BitVec 16} (hw : portWaits p.toNat .none = false) {F : State → State}
    (hF : ∀ u, AtPort s c u → tuSout u c sd q p.toNat = F u) : ∃ u, AtPort s c u ∧ exec (.kxSout (.tu c) sd q p) s = done (F u) := by
  obtain ⟨u, hu, hrun⟩ := reissue_runs hissue hw
  exact ⟨u, hu, congrArg done ((hrun _).trans (hF u hu))⟩

theorem exec_kxIn_fn : ∃ u, AtPort s c u ∧ exec (.kxIn (.tu c) r 0x0000) s = done (Reads u c r ((s.request c).desc.flags ++ (s.request c).desc.fn)) :=
  exists_kxIn hissue rfl fun u waited hu => by
    rw [← hu.request]
    rfl

theorem exec_kxIn_len : ∃ u, AtPort s c u ∧ exec (.kxIn (.tu c) r 0x0002) s = done (Reads u c r (BitVec.ofNat 32 (s.request c).desc.inLen)) :=
  exists_kxIn hissue rfl fun u waited hu => by
    rw [← hu.request]
    rfl

theorem exec_kxIn_outCap : ∃ u, AtPort s c u ∧ exec (.kxIn (.tu c) r 0x0003) s = done (Reads u c r (BitVec.ofNat 32 (s.request c).desc.outCap)) :=
  exists_kxIn hissue rfl fun u waited hu => by
    rw [← hu.request]
    rfl

theorem exec_kxIn_member : ∃ u, AtPort s c u ∧ exec (.kxIn (.tu c) r 0x0082) s = done (Reads u c r (BitVec.ofNat 32 (s.core c).member)) :=
  exists_kxIn hissue rfl fun u waited hu => by
    rw [← hu.member]
    rfl

/-- A port that R142 does not list. -/
theorem exec_kxIn_unlisted : ∃ u, AtPort s c u ∧ exec (.kxIn (.tu c) r 0xFFFF) s = done (portError u c) :=
  exists_kxIn hissue rfl fun _ _ _ => rfl

theorem exec_kxOut_inOfs :
    ∃ u, AtPort s c u ∧ exec (.kxOut (.tu c) r 0x0040) s = done (Onward u c (fun x => { x with inOfs := (x.getW r).toNat })) :=
  exists_kxOut hissue rfl fun u hu => by
    have hport : tuOut u c (0x0040 : BitVec 16).toNat ((u.core c).getW r) =
        goNext (u.modCore c (fun x => { x with inOfs := ((u.core c).getW r).toNat })) c := rfl
    rw [hport, goNext_modCore (hu.running hissue)]
    exact Onward_congr rfl

theorem exec_kxOut_status (hlead : (s.core c).member = 0) : ∃ u, AtPort s c u ∧ exec (.kxOut (.tu c) r 0x0010) s =
    done (Onward (u.setEntry (s.core c).entry { s.request c with status := ((s.core c).getW r).setWidth 16 }) c (fun x => x)) :=
  exists_kxOut hissue rfl fun u hu => by
    have hport : tuOut u c (0x0010 : BitVec 16).toNat ((u.core c).getW r) =
        leadOnly u c (fun s => goNext (s.modRequest c (fun x => { x with status := ((u.core c).getW r).setWidth 16 })) c) := rfl
    rw [hport, leadOnly, if_pos (hu.member.trans hlead), ← hu.request, ← hu.core_entry, ← hu.getW]
    rfl

theorem kxSin_takes {v : SReg} {rest : List SReg} (hbox : (s.core c).smbx = v :: rest) (hgood : (readUnit s (.mailbox c)).1 = .good) :
    ∃ u m, AtPort s c u ∧ Runs (.kxSin (.tu c) sd 0x008C) s (fun t => OnlyCoreMasked s t (.tu c) ∧
      t.core c = (Onward u c (fun x => { x with smbx := rest, s := Map.set {} x.s sd v, mask := m })).core c) := by
  obtain ⟨u, hu, hrun⟩ := reissue_runs hissue (w := portWaits 0x8C) rfl
  obtain ⟨m, hcore, honly⟩ := putSecret_modCore (s := u) (c := c) (sd := sd) (v := v) (fun x => { x with smbx := rest })
  have hexec : exec (.kxSin (.tu c) sd 0x008C) s = done (recvSecret u c sd) := congrArg done (hrun _)
  rw [recvSecret_takes (by rw [hu.smbx, hbox]) (hu.readUnit hgood)] at hexec
  exact ⟨u, m, hu, runs_of_exec hexec ⟨(hu.1.masked.trans honly).after_drive, hcore⟩⟩

/-- OUT_DATA takes no key. -/
theorem exec_kxSout_key (hlabel : ((s.core c).getS sd).label = .k) :
    ∃ u, AtPort s c u ∧ exec (.kxSout (.tu c) sd q 0x0043) s = done (portError u c) :=
  exists_kxSout hissue rfl fun u hu => by
    refine if_neg ?_
    rw [hu.getS, hlabel]
    decide

omit hissue in
/-- The word of a quarter of a secret register is its four bytes. -/
theorem le_quarter (x : SReg) (q : Fin 4) : le 4 (BitVec.ofNat 32 (Bits.fieldLe x.bytes (4 * q) 4)).toNat = slice x.bytes (4 * q) 4 := by
  have hq := q.isLt
  have hslice : slice x.bytes (4 * q) 4 = le 4 (x.val.toNat / 256 ^ (4 * q.val)) := slice_le (by omega) _
  unfold Bits.fieldLe
  rw [hslice]
  apply ofLe_inj
  · rw [ofLe_le, ofLe_le, BitVec.toNat_ofNat]
    omega
  · rw [length_le_bytes, length_le_bytes]

theorem exec_kxSout_stages (hlabel : ((s.core c).getS sd).label = .p) (hlead : (s.core c).member = 0) : ∃ u, AtPort s c u ∧
    (stageDenied s (s.request c) (s.core c).outOfs (slice ((s.core c).getS sd).bytes (4 * q) 4) = none →
      exec (.kxSout (.tu c) sd q 0x0043) s = done (Onward
        (stageOutput u (s.core c).entry (s.core c).outOfs (slice ((s.core c).getS sd).bytes (4 * q) 4)) c
        (fun x => { x with outOfs := (x.outOfs + 4) % 2 ^ 32 }))) := by
  obtain ⟨u, hu, hexec⟩ := exists_kxSout hissue (sd := sd) (q := q) (p := 0x0043) rfl
    (F := fun u => writeOutput u c (BitVec.ofNat 32 (Bits.fieldLe ((s.core c).getS sd).bytes (4 * q) 4))) fun u hu => by
      rw [← hu.getS] at hlabel ⊢
      exact if_pos (.inl hlabel)
  refine ⟨u, hu, fun hpass => ?_⟩
  have hpass' : stageDenied u (u.request c) (u.core c).outOfs
      (le 4 (BitVec.ofNat 32 (Bits.fieldLe ((s.core c).getS sd).bytes (4 * q) 4)).toNat) = none := by
    rw [le_quarter, hu.request, hu.outOfs, hu.stageDenied]
    exact hpass
  rw [hexec, writeOutput_stages (hu.member.trans hlead) (hu.running hissue) hpass', le_quarter, hu.core_entry, hu.outOfs]

end

/-- Settles O15: each port by number as the operation that it names, on the state that its instruction finds. -/
theorem systemAndTuPorts : Obligations.SystemAndTuPorts := by
  unfold Obligations.SystemAndTuPorts
  refine ⟨fun s c r n hissue hc => ⟨?tvec, ?epc, ?ecause, ?ien, ?imaskLo, ?imaskHi, ?apt, ?out⟩,
    fun s c r sd q hissue => ⟨exec_kxIn_fn hissue, exec_kxIn_len hissue, exec_kxIn_outCap hissue, exec_kxIn_member hissue,
      exec_kxOut_inOfs hissue, exec_kxOut_status hissue, fun v rest => kxSin_takes hissue,
      fun hlabel _ => exec_kxSout_key hissue hlabel, exec_kxSout_stages hissue, exec_kxIn_unlisted hissue⟩⟩
  case tvec => exact kxIn_writes hc fun u hu => sysPortIn_sys hu (by decide)
  case epc => exact kxIn_writes hc fun u hu => sysPortIn_sys hu (by decide)
  case ecause => exact kxIn_writes hc fun u hu => sysPortIn_sys hu (by decide)
  case ien =>
    rw [← ofNat_b2n]
    exact kxIn_writes hc fun u hu => sysPortIn_sys hu (by decide)
  case imaskLo =>
    rw [← setWidth_low]
    exact kxIn_writes hc fun u hu => sysPortIn_sys hu (by decide)
  case imaskHi =>
    rw [← setWidth_high]
    exact kxIn_writes hc fun u hu => sysPortIn_sys hu (by decide)
  case apt => exact fun hwarden => kxIn_writes hc fun u hu => sysPortIn_apt hu hwarden n
  case out =>
    rintro rfl
    obtain ⟨u, hu, hrun⟩ := issue_atIssue hissue
    have hsys := hu.sysCore CoreId.scarecrow.side
    have hout : ∀ {p : BitVec 16} {y : SysCore}, setPort u 2050 2 false p.toNat ((u.core 2050).getW r) = some (u.setSys 2 y) →
        exec (.kxOut .scarecrow r p) s = done ((u.setSys 2 y).setCore 2050 (u.core 2050).next) := fun {p y} hport => by
      rw [exec_kxOut_core hc, hrun]
      exact congrArg done (coreOut_scarecrow hport)
    rw [← hsys]
    exact ⟨u, hu, hout rfl, hout rfl, hout rfl⟩

end Sys2Proof.Machine
end

section
/-! Proofs: the block engines (O36). -/

namespace Sys2Proof.Machine

open Sys2Proof Sys2Proof.Bits

/-! ### The slot behind a window -/

section
variable {s u : State} {c : Fin 2048}

theorem setBeSlot_setBeSlot {i : Nat} {x y : BeSlot} (hx : x ≠ {}) : (s.setBeSlot i x).setBeSlot i y = s.setBeSlot i y :=
  congrArg (fun m => { s with beSlots := m }) (set_set hx s.beSlots i y)

/-- The levels of the pins are open. -/
theorem AtPort.with_pins (h : AtPort s c u) (p : Pins) : AtPort s c { u with pins := p } := by
  obtain ⟨⟨hstate, hcores⟩, hfound⟩ := h
  exact ⟨⟨by rw [hstate], hcores⟩, hfound⟩

theorem AtPort.beIdx (h : AtPort s c u) (e : Nat) : Machine.beIdx u c e = Machine.beIdx s c e :=
  h.congr (fun t => Machine.beIdx t c e) (fun _ _ _ => rfl)

theorem AtPort.beGet (h : AtPort s c u) (e : Nat) : Machine.beGet u c e = Machine.beGet s c e :=
  h.congr (fun t => Machine.beGet t c e) (fun _ _ _ => rfl)

theorem AtPort.beMod (h : AtPort s c u) (e : Nat) (f : BeSlot → BeSlot) :
    Machine.beMod u c e f = u.setBeSlot (Machine.beIdx s c e) (f (Machine.beGet s c e)) := by
  unfold Machine.beMod
  rw [h.beIdx, h.beGet]

end

/-! ### The tables of algorithms and roles (R140, R178, R182) -/

/-- The key of a slot fits algorithm a, which is this cipher under these key bytes. -/
structure Fits (x : BeSlot) (a : Nat) (cipher : Cipher.Alg) (key : Bytes) : Prop where
  keyed : beKeyed x a = true
  alg : ∃ parts, beAlg a = some (cipher, parts)
  bytes : beKeyBytes a x = key

theorem fits_of_listed {x : BeSlot} {k0 : SReg} {k1 : Option SReg} {a : Nat} {cipher : Cipher.Alg} {key : Bytes} (h0 : x.key0 = some k0)
    (h1 : x.key1 = k1) (hroles : ∀ k, k1 = some k → k.role = k0.role)
    (h : (a, k1.isSome, cipher, key) ∈ [(0, false, Cipher.Alg.des, k0.bytes.take 8), (1, false, .tdes, k0.bytes),
      (2, true, .tdes, k0.bytes ++ (k1.getD {}).bytes.take 8), (3, false, .aes, k0.bytes),
      (4, true, .aes, k0.bytes ++ (k1.getD {}).bytes.take 8), (5, true, .aes, k0.bytes ++ (k1.getD {}).bytes),
      (6, false, .des, k0.bytes.drop 8)]) : Fits x a cipher key := by
  simp only [List.mem_cons, Prod.mk.injEq, List.not_mem_nil, or_false] at h
  cases k1 with
  | none =>
    rcases h with ⟨rfl, -, rfl, rfl⟩ | ⟨rfl, -, rfl, rfl⟩ | ⟨-, h, -⟩ | ⟨rfl, -, rfl, rfl⟩ | ⟨-, h, -⟩ | ⟨-, h, -⟩ | ⟨rfl, -, rfl, rfl⟩
    case inr.inr.inl => cases h
    case inr.inr.inr.inr.inl => cases h
    case inr.inr.inr.inr.inr.inl => cases h
    all_goals exact ⟨by simp [beKeyed, beAlg, h0, h1], ⟨_, rfl⟩, by simp [beKeyBytes, h0]⟩
  | some k =>
    have hrole := hroles k rfl
    rcases h with ⟨-, h, -⟩ | ⟨-, h, -⟩ | ⟨rfl, -, rfl, rfl⟩ | ⟨-, h, -⟩ | ⟨rfl, -, rfl, rfl⟩ | ⟨rfl, -, rfl, rfl⟩ | ⟨-, h, -⟩
    case inl => cases h
    case inr.inl => cases h
    case inr.inr.inr.inl => cases h
    case inr.inr.inr.inr.inr.inr => cases h
    all_goals exact ⟨by simp [beKeyed, beAlg, h0, h1, hrole], ⟨_, rfl⟩, by simp [beKeyBytes, h0, h1]⟩

namespace Fits

variable {x : BeSlot} {a : Nat} {cipher : Cipher.Alg} {key : Bytes} (h : Fits x a cipher key)
include h

theorem crypt (dec : Bool) (blk : Bytes) : beCrypt a dec (beKeyBytes a x) blk =
    fit 16 (if dec then Cipher.dec cipher key (blk.take (Cipher.blockLen cipher)) else Cipher.enc cipher key (blk.take (Cipher.blockLen cipher))) := by
  obtain ⟨parts, halg⟩ := h.alg
  unfold beCrypt
  rw [halg, h.bytes]

theorem check : beCheck a (beKeyBytes a x) =
    if cipher = .aes then Cipher.cmac .aes key (zeros 16) else fit 16 (Cipher.enc cipher key (zeros 8)) := by
  obtain ⟨parts, halg⟩ := h.alg
  unfold beCheck
  rw [halg, h.bytes]
  cases cipher <;> rfl

end Fits

theorem beRole_encrypts {role : Byte} {l : Label} (h : (role.toNat, l) ∈ [(2, Label.c), (3, .t), (4, .c), (5, .c), (6, .t), (7, .k), (8, .k),
    (9, .k), (0xA, .c), (0xC, .c)]) : beRole role false = some l := by
  unfold beRole
  simp only [List.mem_cons, Prod.mk.injEq, List.not_mem_nil, or_false] at h
  rcases h with ⟨h, rfl⟩ | ⟨h, rfl⟩ | ⟨h, rfl⟩ | ⟨h, rfl⟩ | ⟨h, rfl⟩ | ⟨h, rfl⟩ | ⟨h, rfl⟩ | ⟨h, rfl⟩ | ⟨h, rfl⟩ | ⟨h, rfl⟩ <;> simp [h]

theorem beRole_decrypts {role : Byte} {l : Label} (h : (role.toNat, l) ∈ [(1, Label.n), (5, .c), (6, .t), (8, .k), (0xC, .k)]) :
    beRole role true = some l := by
  unfold beRole
  simp only [List.mem_cons, Prod.mk.injEq, List.not_mem_nil, or_false] at h
  rcases h with ⟨h, rfl⟩ | ⟨h, rfl⟩ | ⟨h, rfl⟩ | ⟨h, rfl⟩ | ⟨h, rfl⟩ <;> simp [h]

theorem beRole_encrypts_none {role : Byte} (h : role = 1 ∨ role = 0xB) : beRole role false = none := by
  rcases h with rfl | rfl <;> rfl

theorem beRole_decrypts_none {role : Byte} (h : role ∈ [(2 : Byte), 3, 4, 7, 9, 0xA, 0xB]) : beRole role true = none := by
  simp only [List.mem_cons, List.not_mem_nil, or_false] at h
  rcases h with rfl | rfl | rfl | rfl | rfl | rfl | rfl <;> rfl

/-! ### Key parts and data (R180, R181) -/

section
variable {s : State} {n e sa : Nat} {second : Bool}

theorem beKey_unlabelled (h : ((s.core n).getS sa).label ≠ .k) : beKey s n e sa second = portError s n := if_pos h

section
variable (hlabel : ((s.core n).getS sa).label = .k)
include hlabel

theorem beKey_unfit (h : ((s.core n).getS sa).derived = true ∨ ((s.core n).getS sa).role = 0) : beKey s n e sa second = faultCtx s n :=
  (if_neg (not_not.mpr hlabel)).trans (if_pos h)

variable (hderived : ((s.core n).getS sa).derived = false) (hrole : ((s.core n).getS sa).role ≠ 0)
include hderived hrole

theorem beKey_of_fit : beKey s n e sa second =
    if second ∧ (beGet s n e).key0.isNone then faultCtx s n
    else goNext (beMod s n e (fun x =>
      if second then { x with key1 := some ((s.core n).getS sa) } else { x with key0 := some ((s.core n).getS sa), key1 := none })) n :=
  (if_neg (not_not.mpr hlabel)).trans (if_neg (not_or.mpr ⟨by simp [hderived], hrole⟩))

end

/-! ### Commands (R139, R140, R171, R182, R183) -/

variable {a : Nat} {dec : Bool}

theorem beCommand_full (h : 8 ≤ (beGet s n e).results.length) : beCommand s n e a dec = waitOn s n (.beIssue e) := if_pos h

theorem beCheckCommand_full (h : 8 ≤ (beGet s n e).results.length) : beCheckCommand s n e a = waitOn s n (.beIssue e) := if_pos h

theorem beCompareCommand_full (h : 8 ≤ (beGet s n e).results.length) : beCompareCommand s n e a = waitOn s n (.beIssue e) := if_pos h

theorem beKeyed_none {x : BeSlot} (h : x.key0 = none) : beKeyed x a = false := by
  unfold beKeyed
  rw [h]

section
variable (hroom : (beGet s n e).results.length < 8)
include hroom

theorem beCommand_unkeyed (h : beKeyed (beGet s n e) a = false) : beCommand s n e a dec = faultCtx s n :=
  (if_neg (Nat.not_le.mpr hroom)).trans (if_pos (by rw [h]; rfl))

theorem beCheckCommand_unkeyed (h : beKeyed (beGet s n e) a = false) : beCheckCommand s n e a = faultCtx s n :=
  (if_neg (Nat.not_le.mpr hroom)).trans (if_pos (by rw [h]; rfl))

section
variable (hkeyed : beKeyed (beGet s n e) a = true)
include hkeyed

theorem beCommand_keyed : beCommand s n e a dec =
    match beRole ((beGet s n e).key0.getD {}).role dec with
    | none => portError s n
    | some out =>
      let v := block (beCrypt a dec (beKeyBytes a (beGet s n e)) (beGet s n e).din.bytes)
      let l := out.max (beGet s n e).din.label
      let t := beResult s n e { val := v, label := l, role := ((beGet s n e).key0.getD {}).role, derived := l == .k }
      goNext (if dec then t else beMod t n e (fun x => { x with lastEnc := some v, lastRole := ((beGet s n e).key0.getD {}).role })) n :=
  (if_neg (Nat.not_le.mpr hroom)).trans (if_neg (by rw [hkeyed]; decide))

theorem beCommand_denied (h : beRole ((beGet s n e).key0.getD {}).role dec = none) : beCommand s n e a dec = portError s n := by
  rw [beCommand_keyed hroom hkeyed, h]

theorem beCheckCommand_denied (h : ((beGet s n e).key0.getD {}).role ≠ 0xB) : beCheckCommand s n e a = portError s n :=
  (if_neg (Nat.not_le.mpr hroom)).trans ((if_neg (by rw [hkeyed]; decide)).trans (if_pos h))

theorem beCheckCommand_checks (h : ((beGet s n e).key0.getD {}).role = 0xB) : beCheckCommand s n e a =
    goNext (beResult s n e { val := block (beCheck a (beKeyBytes a (beGet s n e))), label := .c, role := 0xB }) n := by
  have hcommand : beCheckCommand s n e a = goNext (beResult s n e {
      val := block (beCheck a (beKeyBytes a (beGet s n e))), label := .c, role := ((beGet s n e).key0.getD {}).role }) n :=
    (if_neg (Nat.not_le.mpr hroom)).trans ((if_neg (by rw [hkeyed]; decide)).trans (if_neg (not_not.mpr h)))
  rw [hcommand, h]

end

theorem beCompareCommand_compares : beCompareCommand s n e a =
    let eq := match (beGet s n e).lastEnc with
      | some v => (beGet s n e).din.bytes.take (a + 1) == (ofBlock v).take (a + 1)
      | none => false
    let t := beMod s n e (fun x => { x with eq := eq })
    goNext (if eq ∧ (beGet s n e).lastRole = 0x0C then t.modCore n (fun y => { y with recAuth := true }) else t) n :=
  if_neg (Nat.not_le.mpr hroom)

end

end

/-- A result queued, then the slot changed: one write of the slot. -/
theorem beMod_beResult (s : State) (n e : Nat) (r : SReg) (f : BeSlot → BeSlot) : beMod (beResult s n e r) n e f =
    s.setBeSlot (beIdx s n e) (f { beGet s n e with results := (beGet s n e).results ++ [{ reg := r, ready := false }] }) := by
  have hne : ({ beGet s n e with results := (beGet s n e).results ++ [{ reg := r, ready := false }] } : BeSlot) ≠ {} := fun h => by
    simpa using congrArg BeSlot.results h
  have hget : beGet (beResult s n e r) n e = { beGet s n e with results := (beGet s n e).results ++ [{ reg := r, ready := false }] } :=
    State.setBeSlot_self _ _ _
  unfold beMod
  rw [hget]
  exact setBeSlot_setBeSlot hne

/-! ### Compare, result, status and key clearing (R179, R183, R184) -/

theorem readyNext_oldest {old rest : List BeRes} {r : SReg} (h : ∀ y ∈ old, y.ready = true) :
    readyNext (old ++ { reg := r, ready := false } :: rest) = old ++ { reg := r, ready := true } :: rest := by
  induction old with
  | nil => rfl
  | cons y old ih =>
    obtain ⟨hy, hold⟩ := List.forall_mem_cons.mp h
    rw [List.cons_append, readyNext, if_pos hy, ih hold]
    rfl

section
variable {s : State} {c : Fin 2048}

/-- A secret register written after a change of a slot: the context's core, its barn's generator and the slot differ. -/
theorem putSecret_setBeSlot {i sd : Nat} {x : BeSlot} {r : SReg} (hrun : (s.core c).phase = .running) :
    ∃ b f m, putSecret (s.setBeSlot i x) c sd r =
      Onward (State.setBeSlot { s with barns := b, free := f } i x) c (fun y => { y with s := Map.set {} y.s sd r, mask := m }) := by
  refine ⟨(drawMask s (barnOfCtx c)).2.barns, s.free, (drawMask s (barnOfCtx c)).1, ?_⟩
  unfold putSecret goNext State.modCore Onward
  rw [writeSecret_tu, State.setCore_self]
  exact setCore_setCore hrun

/-- The slot of the context behind engine i of its stook. -/
theorem stookSlot_iff (j : Nat) : (∃ i, i < 4 ∧ j = 64 * (4 * stookOfCtx c + i) + c % 64) ↔ j / 256 = stookOfCtx c ∧ j % 64 = c % 64 := by
  constructor
  · rintro ⟨i, hi, rfl⟩
    omega
  · rintro ⟨hstook, hslot⟩
    exact ⟨j / 64 % 4, by omega, by omega⟩

/-- A pass that erases the key of listed slots. -/
theorem foldl_keyless (l : List Nat) (f : Nat → Nat) (s : State) :
    (∃ m, l.foldl (fun s i => s.setBeSlot (f i) (s.beSlot (f i)).keyless) s = { s with beSlots := m }) ∧
    ∀ j, (l.foldl (fun s i => s.setBeSlot (f i) (s.beSlot (f i)).keyless) s).beSlot j =
      if ∃ i ∈ l, j = f i then (s.beSlot j).keyless else s.beSlot j := by
  induction l generalizing s with
  | nil => exact ⟨⟨s.beSlots, rfl⟩, fun j => by simp⟩
  | cons k l ih =>
    obtain ⟨⟨m, hm⟩, hslots⟩ := ih (s.setBeSlot (f k) (s.beSlot (f k)).keyless)
    refine ⟨⟨m, hm⟩, fun j => ?_⟩
    rw [List.foldl_cons, hslots]
    by_cases hk : j = f k
    · have hslot : (s.setBeSlot (f k) (s.beSlot (f k)).keyless).beSlot j = (s.beSlot j).keyless := by rw [hk, State.setBeSlot_self]
      have hmem : ∃ i ∈ k :: l, j = f i := ⟨k, List.mem_cons_self, hk⟩
      rw [hslot, if_pos hmem]
      split <;> rfl
    · rw [State.setBeSlot_ne _ _ _ _ hk]
      simp [hk]

end

/-! ### Each command on the state that it finds -/

section
variable {s : State} {c : Fin 2048} {e : Fin 4} (hissue : Issues s (.tu c))
include hissue

section
variable {sa : Fin 16}

theorem exec_beKey_unlabelled (hlabel : ((s.core c).getS sa).label ≠ .k) : ∀ j ∈ [Instr.beKey0 c e sa, .beKey1 c e sa],
    ∃ u, AtPort s c u ∧ exec j s = done (portError u c) := by
  have hkey : ∀ u second, AtPort s c u → beKey u c e sa second = portError u c := fun u second hu => beKey_unlabelled (by rwa [hu.getS])
  refine List.forall_mem_cons.mpr ⟨?_, List.forall_mem_singleton.mpr ?_⟩
  · exact exists_atPort hissue (k := fun u => beKey u c e sa false) rfl rfl fun u => hkey u _
  · exact exists_atPort hissue (k := fun u => beKey u c e sa true) rfl rfl fun u => hkey u _

variable (hlabel : ((s.core c).getS sa).label = .k)
include hlabel

theorem exec_beKey_unfit (h : ((s.core c).getS sa).derived = true ∨ ((s.core c).getS sa).role = 0) :
    ∀ j ∈ [Instr.beKey0 c e sa, .beKey1 c e sa], ∃ u, AtPort s c u ∧ exec j s = done (faultCtx u c) := by
  have hkey : ∀ u second, AtPort s c u → beKey u c e sa second = faultCtx u c := fun u second hu =>
    beKey_unfit (by rwa [hu.getS]) (by rwa [hu.getS])
  refine List.forall_mem_cons.mpr ⟨?_, List.forall_mem_singleton.mpr ?_⟩
  · exact exists_atPort hissue (k := fun u => beKey u c e sa false) rfl rfl fun u => hkey u _
  · exact exists_atPort hissue (k := fun u => beKey u c e sa true) rfl rfl fun u => hkey u _

variable (hderived : ((s.core c).getS sa).derived = false) (hrole : ((s.core c).getS sa).role ≠ 0)
include hderived hrole

omit hissue in
theorem beKey_atPort {u : State} (hu : AtPort s c u) (second : Bool) : beKey u c e sa second =
    if second ∧ (beGet s c e).key0.isNone then faultCtx u c
    else goNext (u.setBeSlot (beIdx s c e) (if second then { beGet s c e with key1 := some ((s.core c).getS sa) }
      else { beGet s c e with key0 := some ((s.core c).getS sa), key1 := none })) c := by
  rw [← hu.getS] at hlabel hderived hrole
  rw [beKey_of_fit hlabel hderived hrole, hu.beMod, hu.beGet, hu.getS]

theorem exec_beKey0 : ∃ u, AtPort s c u ∧ exec (.beKey0 c e sa) s = done (Onward (u.setBeSlot (beIdx s c e)
    { beGet s c e with key0 := some ((s.core c).getS sa), key1 := none }) c (fun z => z)) :=
  exists_atPort hissue (k := fun u => beKey u c e sa false) rfl rfl fun u hu =>
    (beKey_atPort hlabel hderived hrole hu false).trans (if_neg (by simp))

theorem exec_beKey1 (h0 : (beGet s c e).key0.isSome = true) : ∃ u, AtPort s c u ∧ exec (.beKey1 c e sa) s =
    done (Onward (u.setBeSlot (beIdx s c e) { beGet s c e with key1 := some ((s.core c).getS sa) }) c (fun z => z)) :=
  exists_atPort hissue (k := fun u => beKey u c e sa true) rfl rfl fun u hu =>
    (beKey_atPort hlabel hderived hrole hu true).trans (if_neg (by simp [Option.isSome_iff_ne_none.mp h0]))

theorem exec_beKey1_first (h0 : (beGet s c e).key0 = none) : ∃ u, AtPort s c u ∧ exec (.beKey1 c e sa) s = done (faultCtx u c) :=
  exists_atPort hissue (k := fun u => beKey u c e sa true) rfl rfl fun u hu =>
    (beKey_atPort hlabel hderived hrole hu true).trans (if_pos (by simp [h0]))

end

theorem exec_beDin {sa : Fin 16} : ∃ u, AtPort s c u ∧ exec (.beDin c e sa) s =
    done (Onward (u.setBeSlot (beIdx s c e) { beGet s c e with din := (s.core c).getS sa }) c (fun z => z)) :=
  exists_atPort hissue (k := fun u => beData u c e sa) rfl rfl fun u hu => by
    unfold beData
    rw [hu.beMod, hu.getS]
    rfl

theorem beKeyclr_runs : ∃ u, AtPort s c u ∧ Runs (.beKeyclr c e) s (fun t =>
    t = { Onward u c (fun z => z) with beSlots := t.beSlots } ∧
    ∀ j, t.beSlot j = if j / 256 = stookOfCtx c ∧ j % 64 = c % 64 then { s.beSlot j with key0 := none, key1 := none } else s.beSlot j) := by
  obtain ⟨u, hu, hrow⟩ := portRow_runs hissue (w := noWait) rfl (fun u => beClear u c)
  obtain ⟨⟨m, hm⟩, hslots⟩ := foldl_keyless (List.range 4) (fun i => 64 * (4 * stookOfCtx c + i) + c % 64) u
  have hclear : beClear u c = goNext { u with beSlots := m } c := congrArg (fun t => goNext t c) hm
  have hexec : exec (.beKeyclr c e) s = done (goNext { u with beSlots := m } c) := hrow.trans (congrArg done hclear)
  refine ⟨{ u with pins := pinLevels (goNext { u with beSlots := m } c) }, hu.with_pins _, runs_of_exec hexec ⟨rfl, fun j => ?_⟩⟩
  have hslot : u.beSlot j = s.beSlot j := hu.congr (fun t => t.beSlot j) (fun _ _ _ => rfl)
  have hj := hslots j
  rw [hm, hslot] at hj
  simp only [List.mem_range, stookSlot_iff] at hj
  exact hj

section
variable {alg : BitVec 4}

theorem exec_beCommand_full (hfull : 8 ≤ (beGet s c e).results.length) :
    ∀ j ∈ [Instr.beEncrypt c e alg, .beDecrypt c e alg, .beCheckValue c e alg, .beCompare c e alg],
      ∃ u, AtPort s c u ∧ exec j s = done (u.setCore c { u.core c with wait := .beIssue e }) := by
  have hfull' : ∀ {u}, AtPort s c u → 8 ≤ (beGet u c e).results.length := fun hu => by rwa [hu.beGet]
  refine List.forall_mem_cons.mpr ⟨?_, List.forall_mem_cons.mpr ⟨?_, List.forall_mem_cons.mpr ⟨?_, List.forall_mem_singleton.mpr ?_⟩⟩⟩
  · exact exists_atPort hissue (k := fun u => beCommand u c e alg.toNat false) rfl (by simp) fun u hu => beCommand_full (hfull' hu)
  · exact exists_atPort hissue (k := fun u => beCommand u c e alg.toNat true) rfl (by simp) fun u hu => beCommand_full (hfull' hu)
  · exact exists_atPort hissue (k := fun u => beCheckCommand u c e alg.toNat) rfl (by simp) fun u hu => beCheckCommand_full (hfull' hu)
  · exact exists_atPort hissue (k := fun u => beCompareCommand u c e alg.toNat) rfl (by simp) fun u hu => beCompareCommand_full (hfull' hu)

variable (hroom : (beGet s c e).results.length < 8)
include hroom

theorem exec_beCommand_keyless (h0 : (beGet s c e).key0 = none) :
    ∀ j ∈ [Instr.beEncrypt c e alg, .beDecrypt c e alg, .beCheckValue c e alg], ∃ u, AtPort s c u ∧ exec j s = done (faultCtx u c) := by
  have hroom' : ∀ {u}, AtPort s c u → (beGet u c e).results.length < 8 := fun hu => by rwa [hu.beGet]
  have hunkeyed : ∀ {u}, AtPort s c u → beKeyed (beGet u c e) alg.toNat = false := fun hu => by
    rw [hu.beGet]
    exact beKeyed_none h0
  refine List.forall_mem_cons.mpr ⟨?_, List.forall_mem_cons.mpr ⟨?_, List.forall_mem_singleton.mpr ?_⟩⟩
  · exact exists_atPort hissue (k := fun u => beCommand u c e alg.toNat false) rfl (by simp) fun u hu =>
      beCommand_unkeyed (hroom' hu) (hunkeyed hu)
  · exact exists_atPort hissue (k := fun u => beCommand u c e alg.toNat true) rfl (by simp) fun u hu =>
      beCommand_unkeyed (hroom' hu) (hunkeyed hu)
  · exact exists_atPort hissue (k := fun u => beCheckCommand u c e alg.toNat) rfl (by simp) fun u hu =>
      beCheckCommand_unkeyed (hroom' hu) (hunkeyed hu)

section
variable {k0 : SReg} {cipher : Cipher.Alg} {key : Bytes} (h0 : (beGet s c e).key0 = some k0) (hfits : Fits (beGet s c e) alg.toNat cipher key)
include h0 hfits

omit hissue in
/-- A command that a keyed slot takes, by the role of its key. -/
theorem beCommand_atPort {u : State} (hu : AtPort s c u) (dec : Bool) : beCommand u c e alg.toNat dec =
    match beRole k0.role dec with
    | none => portError u c
    | some out =>
      let blk := (beGet s c e).din.bytes.take (Cipher.blockLen cipher)
      let v := block (fit 16 (if dec then Cipher.dec cipher key blk else Cipher.enc cipher key blk))
      let l := out.max (beGet s c e).din.label
      let t := beResult u c e { val := v, label := l, role := k0.role, derived := l == .k }
      goNext (if dec then t else beMod t c e (fun x => { x with lastEnc := some v, lastRole := k0.role })) c := by
  have hkeyed := hfits.keyed
  rw [← hu.beGet] at hroom hkeyed
  rw [beCommand_keyed hroom hkeyed, hu.beGet, hfits.crypt, h0]
  rfl

theorem exec_beEncrypt {l : Label} (hrole : beRole k0.role false = some l) :
    let v := block (fit 16 (Cipher.enc cipher key ((beGet s c e).din.bytes.take (Cipher.blockLen cipher))))
    let lab := l.max (beGet s c e).din.label
    ∃ u, AtPort s c u ∧ exec (.beEncrypt c e alg) s = done (Onward (u.setBeSlot (beIdx s c e) { beGet s c e with
      results := (beGet s c e).results ++ [{ reg := { val := v, label := lab, role := k0.role, derived := lab == .k }, ready := false }]
      lastEnc := some v
      lastRole := k0.role }) c (fun z => z)) :=
  exists_atPort hissue (k := fun u => beCommand u c e alg.toNat false) rfl (by simp) fun u hu => by
    rw [beCommand_atPort hroom h0 hfits hu, hrole]
    dsimp only
    rw [if_neg (by decide), beMod_beResult, hu.beIdx, hu.beGet]
    rfl

theorem exec_beDecrypt {l : Label} (hrole : beRole k0.role true = some l) :
    let v := block (fit 16 (Cipher.dec cipher key ((beGet s c e).din.bytes.take (Cipher.blockLen cipher))))
    let lab := l.max (beGet s c e).din.label
    ∃ u, AtPort s c u ∧ exec (.beDecrypt c e alg) s = done (Onward (u.setBeSlot (beIdx s c e) { beGet s c e with
      results := (beGet s c e).results ++ [{ reg := { val := v, label := lab, role := k0.role, derived := lab == .k }, ready := false }] })
      c (fun z => z)) :=
  exists_atPort hissue (k := fun u => beCommand u c e alg.toNat true) rfl (by simp) fun u hu => by
    rw [beCommand_atPort hroom h0 hfits hu, hrole]
    dsimp only
    rw [if_pos rfl, beResult, hu.beMod]
    rfl

theorem exec_beEncrypt_denied (hrole : beRole k0.role false = none) : ∃ u, AtPort s c u ∧ exec (.beEncrypt c e alg) s = done (portError u c) :=
  exists_atPort hissue (k := fun u => beCommand u c e alg.toNat false) rfl (by simp) fun u hu => by
    rw [beCommand_atPort hroom h0 hfits hu, hrole]

theorem exec_beDecrypt_denied (hrole : beRole k0.role true = none) : ∃ u, AtPort s c u ∧ exec (.beDecrypt c e alg) s = done (portError u c) :=
  exists_atPort hissue (k := fun u => beCommand u c e alg.toNat true) rfl (by simp) fun u hu => by
    rw [beCommand_atPort hroom h0 hfits hu, hrole]

theorem exec_beCheckValue (hrole : k0.role = 0xB) : ∃ u, AtPort s c u ∧ exec (.beCheckValue c e alg) s =
    done (Onward (u.setBeSlot (beIdx s c e) { beGet s c e with
      results := (beGet s c e).results ++ [{
        reg := {
          val := block (if cipher = .aes then Cipher.cmac .aes key (zeros 16) else fit 16 (Cipher.enc cipher key (zeros 8)))
          label := .c
          role := 0xB }
        ready := false }] }) c (fun z => z)) :=
  exists_atPort hissue (k := fun u => beCheckCommand u c e alg.toNat) rfl (by simp) fun u hu => by
    have hkeyed := hfits.keyed
    rw [← hu.beGet] at hroom hkeyed h0
    rw [beCheckCommand_checks hroom hkeyed (by rw [h0]; exact hrole), hu.beGet, hfits.check, beResult, hu.beMod]
    rfl

theorem exec_beCheckValue_denied (hrole : k0.role ≠ 0xB) : ∃ u, AtPort s c u ∧ exec (.beCheckValue c e alg) s = done (portError u c) :=
  exists_atPort hissue (k := fun u => beCheckCommand u c e alg.toNat) rfl (by simp) fun u hu => by
    have hkeyed := hfits.keyed
    rw [← hu.beGet] at hroom hkeyed h0
    exact beCheckCommand_denied hroom hkeyed (by rw [h0]; exact hrole)

end

end

section
variable {len : BitVec 4} (hroom : (beGet s c e).results.length < 8)
include hroom

/-- A compare, by what it compares. -/
theorem exec_beCompare {eq : Bool} (heq : (match (beGet s c e).lastEnc with
      | some v => (beGet s c e).din.bytes.take (len.toNat + 1) == (ofBlock v).take (len.toNat + 1)
      | none => false) = eq) : ∃ u, AtPort s c u ∧ exec (.beCompare c e len) s =
    done (Onward (u.setBeSlot (beIdx s c e) { beGet s c e with eq := eq }) c
      (fun y => { y with recAuth := y.recAuth || (eq && decide ((beGet s c e).lastRole = 0xC)) })) :=
  exists_atPort hissue (k := fun u => beCompareCommand u c e len.toNat) rfl (by simp) fun u hu => by
    have hrun := hu.running hissue
    rw [← hu.beGet] at hroom
    rw [beCompareCommand_compares hroom, hu.beGet]
    dsimp only
    rw [heq, hu.beMod]
    by_cases hauth : eq = true ∧ (beGet s c e).lastRole = 0xC
    · obtain ⟨rfl, hlast⟩ := hauth
      rw [if_pos ⟨rfl, hlast⟩, goNext_modCore hrun]
      exact Onward_congr (by simp [hlast])
    · have hnone : (eq && decide ((beGet s c e).lastRole = 0xC)) = false := by simpa using hauth
      rw [if_neg hauth, hnone]
      exact Onward_congr (f := fun y => y) (by simp)

end

section
variable {sd : Fin 16}

theorem exec_beDout_takes {r : SReg} {rest : List BeRes} (hres : (beGet s c e).results = { reg := r, ready := true } :: rest) :
    ∃ u b f m, AtPort s c u ∧ exec (.beDout c e sd) s =
      done (Onward (State.setBeSlot { u with barns := b, free := f } (beIdx s c e) { beGet s c e with results := rest }) c
        (fun y => { y with s := Map.set {} y.s sd r, mask := m })) := by
  obtain ⟨u, hu, hexec⟩ := exists_atPort hissue (i := .beDout c e sd) (k := fun u => beTake u c e sd)
    (F := fun u => putSecret (u.setBeSlot (beIdx s c e) { beGet s c e with results := rest }) c sd r) rfl (by simp) fun u hu => by
      unfold beTake
      rw [hu.beGet, hres]
      dsimp only
      rw [hu.beMod]
  obtain ⟨b, f, m, hput⟩ := putSecret_setBeSlot (s := u) (c := c) (i := beIdx s c e) (sd := sd) (x := { beGet s c e with results := rest })
    (r := r) (hu.running hissue)
  exact ⟨u, b, f, m, hu, hexec.trans (congrArg done hput)⟩

theorem exec_beDout_waits (h : (beGet s c e).results = [] ∨ ∃ r rest, (beGet s c e).results = { reg := r, ready := false } :: rest) :
    ∃ u, AtPort s c u ∧ exec (.beDout c e sd) s = done (u.setCore c { u.core c with wait := .beResult e }) :=
  exists_atPort hissue (k := fun u => beTake u c e sd) rfl (by simp) fun u hu => by
    unfold beTake
    rw [hu.beGet]
    rcases h with h | ⟨r, rest, h⟩ <;> rw [h] <;> rfl

end

end

theorem exec_beResultReady {s : State} {c : Fin 2048} {e : Fin 4} {old rest : List BeRes} {r : SReg}
    (hres : (beGet s c e).results = old ++ { reg := r, ready := false } :: rest) (hold : ∀ y ∈ old, y.ready = true) :
    exec (.beResultReady c e) s =
      done (s.setBeSlot (beIdx s c e) { beGet s c e with results := old ++ { reg := r, ready := true } :: rest }) := by
  have hexec : exec (.beResultReady c e) s =
      done (s.setBeSlot (beIdx s c e) { beGet s c e with results := readyNext (beGet s c e).results }) := rfl
  rw [hexec, hres, readyNext_oldest hold]

/-! ### A datapath mismatch (R185) -/

/-- From s to t the block engines' fault records and the Keep timer stay. -/
def EnginesKept (s t : State) : Prop := t.bes = s.bes ∧ t.tmr = s.tmr

namespace EnginesKept

variable {s t u : State} {e : Nat}

theorem refl : EnginesKept s s := ⟨rfl, rfl⟩

theorem trans (h : EnginesKept s t) (k : EnginesKept t u) : EnginesKept s u := ⟨k.1.trans h.1, k.2.trans h.2⟩

theorem ite {c : Prop} [Decidable c] (h : EnginesKept s t) (k : EnginesKept s u) : EnginesKept s (if c then t else u) := by
  split <;> assumption

theorem after_foldl {α : Type} {f : State → α → State} (hf : ∀ u a, EnginesKept s u → EnginesKept s (f u a)) (l : List α)
    (h : EnginesKept s t) : EnginesKept s (l.foldl f t) :=
  List.foldlRecOn l f h (fun u hu a _ => hf u a hu)

theorem after_eq (h : EnginesKept s t) (hbes : u.bes = t.bes := by rfl) (htmr : u.tmr = t.tmr := by rfl) : EnginesKept s u :=
  h.trans ⟨hbes, htmr⟩

theorem after_traceOnly (h : EnginesKept s t) (k : TraceOnly t u) : EnginesKept s u := .after_eq h (by rw [k]) (by rw [k])

theorem after_tallyOnly (h : EnginesKept s t) (k : TallyOnly t u) : EnginesKept s u := .after_traceOnly h k.traceOnly

theorem after_setEntry (h : EnginesKept s t) {k : Nat} {x : Entry} : EnginesKept s (t.setEntry k x) := .after_eq h

theorem after_bulkWrite (h : EnginesKept s t) {b : Nat} {m : BulkMsg} {bs : Bytes} : EnginesKept s (bulkWrite t b m bs).1 := by
  unfold bulkWrite
  exact .after_traceOnly (.after_eq h) (.after_perfCount .refl)

theorem after_bulkEnd (h : EnginesKept s t) : EnginesKept s (bulkEnd t e).2.2 := by
  have hread : ∀ {u b n m}, EnginesKept s u → EnginesKept s (bulkRead u b m n).2.2 := fun {u b n m} hu => by
    unfold bulkRead
    exact .after_traceOnly hu (.after_perfCount .refl)
  have hadvance : ∀ b m, EnginesKept s (bulkAdvance t b m).1 := fun b m => by
    unfold bulkAdvance
    split
    · exact h
    · dsimp only
      split
      · exact .after_eq h
      · exact .after_bulkWrite (hread (.after_eq h))
  unfold bulkEnd
  split
  · exact h
  · split
    · exact h
    · dsimp only
      split
      · exact hadvance _ _
      · exact h

theorem after_sealCut (h : EnginesKept s t) {st : Status} : EnginesKept s (sealCut t e st) :=
  .ite h (.ite (.after_eq h) (.after_eq h))

theorem after_leaveReady (h : EnginesKept s t) {ph : ReqPhase} : EnginesKept s (leaveReady t e ph) := by
  unfold leaveReady settleDeficit
  dsimp only
  exact .ite (.ite (.after_eq h) (.ite (.after_eq h) (.after_eq h))) (.after_eq h)

theorem after_stageEntry (h : EnginesKept s t) : EnginesKept s (stageEntry t e) := by
  have hbne : ∀ u c, EnginesKept s u → EnginesKept s (releaseBne u c false) := fun u c hu => by
    unfold releaseBne
    dsimp only
    split <;> exact .after_eq hu
  have hslots : ∀ u c, EnginesKept s u → EnginesKept s (eraseBeSlots u c) := fun u c hu => .after_foldl (fun _ _ hv => .after_eq hv) _ hu
  have hcleared : EnginesKept s (clearGroup t e false) :=
    .after_eq (.after_foldl (f := fun s c => (eraseBeSlots (releaseBne s c false) c).setCore c {}) (fun u c hu =>
      .after_eq (hslots _ c (hbne u c hu))) (t.entry e).group h)
  have hreleased : EnginesKept s (releaseBae (clearGroup t e false) e) := by
    unfold releaseBae
    split
    · exact hcleared
    · exact .after_eq hcleared
  have hredeemed : EnginesKept s (redeemTally (releaseBae (clearGroup t e false) e) e) := by
    unfold redeemTally
    exact .ite hreleased (.after_tallyOnly (.after_eq hreleased) (Tal.redeem_only _ _ _))
  exact .after_traceOnly (.after_eq hredeemed) (.after_event .refl)

theorem after_endRequest (h : EnginesKept s t) {st : Status} : EnginesKept s (endRequest t e st) := by
  unfold endRequest endRequestWith
  dsimp only
  exact .ite (.after_stageEntry (.after_setEntry (.after_leaveReady (.after_bulkEnd (.after_sealCut h))))) h

end EnginesKept

/-- The state once a mismatch in engine b of stook k is counted. -/
def mismatchCounted (s : State) (k b : Nat) : State := latchErr (evtCount s (stookPage k) 0x0A4 15 0) (stookPage k) 0x0011 b

/-- The contexts of stook k with a key in engine b whose requests run. -/
def mismatchHeld (s : State) (k b : Nat) : List Nat :=
  (((List.range 64).filter (fun i => (s.beSlot (64 * b + i)).key0.isSome)).map (fun i => 64 * k + i)).filter
    (fun c => (s.core c).phase == .running || (s.core c).phase == .ended)

/-- The requests of listed contexts end with FAULT_ALARM. -/
def endHeld (s : State) (l : List Nat) : State := (l.map (fun c => (s.core c).entry)).foldl (fun s e => endRequest s e St.faultAlarm) s

/-- The listed slots of engine b lose their keys. -/
def eraseEngineKeys (s : State) (b : Nat) (l : List Nat) : State :=
  l.foldl (fun s i => s.setBeSlot (64 * b + i) (s.beSlot (64 * b + i)).keyless) s

/-- The fault record of engine b of stook k after one more mismatch. -/
def noteMismatch (s : State) (k b : Nat) : State :=
  let x := s.be b
  let times := noteTime x.faults s.tmr.now 3
  if withinSpan times 3 second ∧ !x.retired then
    let s := s.setBe b { x with faults := times, retired := true }
    checkUnits (postRetired (latchErr s (stookPage k) 0x0013 b) (dieOfStook k) 2 b)
  else s.setBe b { x with faults := times }

theorem beMismatch_eq (s : State) (n b : Nat) : beMismatch s n b =
    let counted := mismatchCounted s (stookOfCtx n) b
    noteMismatch (eraseEngineKeys (endHeld counted (n :: mismatchHeld counted (stookOfCtx n) b)) b (List.range 64)) (stookOfCtx n) b := rfl

section
variable (s : State) (k b : Nat) (l : List Nat)

theorem mismatchCounted_only : TallyOnly s (mismatchCounted s k b) := (evtCount_only _ _ _ _ _).trans (latchErr_only _ _ _ _)

theorem endHeld_engines : EnginesKept s (endHeld s l) := .after_foldl (fun _ _ hu => .after_endRequest hu) _ .refl

/-- The request of a listed context is staged without output. -/
theorem endHeld_entry {c : Nat} (hc : c ∈ l) (h : Underway (s.request c)) : ((endHeld s l).entry (s.core c).entry).state = .staged ∧
    ((endHeld s l).entry (s.core c).entry).status = St.faultAlarm ∧ ((endHeld s l).entry (s.core c).entry).out = [] := by
  refine foldl_reaches (f := fun s k => endRequest s k St.faultAlarm) (P := fun u => Underway (u.entry (s.core c).entry))
    (Q := fun u => (u.entry (s.core c).entry).state = .staged ∧ (u.entry (s.core c).entry).status = St.faultAlarm ∧
      (u.entry (s.core c).entry).out = []) (fun u hu => ?_)
    (fun u k hk hu => (endRequest_keepsService u k _).entry_sat (Ne.symm hk) (fun _ _ hx => hx) hu)
    (fun u k hu => endRequest_keepsStaged (P := fun x => x.state = .staged ∧ x.status = St.faultAlarm ∧ x.out = []) (fun _ _ hx => hx) hu.1 hu)
    (List.mem_map.mpr ⟨c, hc, rfl⟩) h
  obtain ⟨hstate, hstatus, -, hout, -⟩ := endRequestWith_entry (st := St.faultAlarm) (r := 0) hu
  exact ⟨hstate, hstatus, hout⟩

theorem eraseEngineKeys_only : ∃ m, eraseEngineKeys s b l = { s with beSlots := m } := (foldl_keyless l (fun i => 64 * b + i) s).1

theorem eraseEngineKeys_slot {j : Nat} (hj : j ∈ l) :
    ((eraseEngineKeys s b l).beSlot (64 * b + j)).key0 = none ∧ ((eraseEngineKeys s b l).beSlot (64 * b + j)).key1 = none := by
  obtain ⟨-, hslots⟩ := foldl_keyless l (fun i => 64 * b + i) s
  unfold eraseEngineKeys
  rw [hslots, if_pos ⟨j, hj, rfl⟩]
  exact ⟨rfl, rfl⟩

/-- Counting an engine's retirement keeps the requests and the engines. -/
theorem countRetired_keeps (die kind page code : Nat) :
    (checkUnits (postRetired (latchErr s page code b) die kind b)).entries = s.entries ∧
    (checkUnits (postRetired (latchErr s page code b) die kind b)).beSlots = s.beSlots ∧
    (checkUnits (postRetired (latchErr s page code b) die kind b)).bes = s.bes := by
  have hposted : TallyOnly s (postRetired (latchErr s page code b) die kind b) := (latchErr_only _ _ _ _).trans (Tal.post_only _ _)
  generalize postRetired (latchErr s page code b) die kind b = u at hposted
  unfold TallyOnly at hposted
  unfold checkUnits
  split
  · have hdegraded := degrade_only u causeUnits 0x0005
    unfold TallyOnly at hdegraded
    rw [hdegraded, hposted]
    exact ⟨rfl, rfl, rfl⟩
  · rw [hposted]
    exact ⟨rfl, rfl, rfl⟩

/-- What noting a mismatch keeps, and the engine's record after it. -/
theorem noteMismatch_leaves : (noteMismatch s k b).entries = s.entries ∧ (noteMismatch s k b).beSlots = s.beSlots ∧
    (noteMismatch s k b).be b = {
      retired := (s.be b).retired || withinSpan (noteTime (s.be b).faults s.tmr.now 3) 3 1000000000
      faults := noteTime (s.be b).faults s.tmr.now 3 } := by
  have hsecond : second = 1000000000 := rfl
  unfold noteMismatch
  dsimp only
  rw [hsecond]
  generalize noteTime (s.be b).faults s.tmr.now 3 = times
  split
  · next hretires =>
    obtain ⟨hspan, -⟩ := hretires
    obtain ⟨hentries, hslots, hengines⟩ := countRetired_keeps (s.setBe b { s.be b with faults := times, retired := true }) b
      (dieOfStook k) 2 (stookPage k) 0x0013
    refine ⟨hentries, hslots, ?_⟩
    rw [hspan, Bool.or_true]
    unfold State.be
    rw [hengines]
    exact State.setBe_self _ _ _
  · next hstays =>
    refine ⟨rfl, rfl, ?_⟩
    have hsame : ((s.be b).retired || withinSpan times 3 1000000000) = (s.be b).retired := by
      cases hretired : (s.be b).retired
      · simpa [hretired] using hstays
      · rfl
    rw [State.setBe_self, hsame]

end

/-- What stands once the requests of listed contexts have ended, listed key slots are erased, and the mismatch is noted. -/
theorem noteMismatch_ends {s counted : State} (honly : TraceOnly s counted) {c : Nat} {held : List Nat} (hc : c ∈ held)
    (h : Underway (s.request c)) (k b : Nat) (l : List Nat) :
    let t := noteMismatch (eraseEngineKeys (endHeld counted held) b l) k b
    let times := noteTime (s.be b).faults s.tmr.now 3
    (t.entry (s.core c).entry).state = .staged ∧ (t.entry (s.core c).entry).status = St.faultAlarm ∧ (t.entry (s.core c).entry).out = [] ∧
    (∀ j ∈ l, (t.beSlot (64 * b + j)).key0 = none ∧ (t.beSlot (64 * b + j)).key1 = none) ∧
    t.be b = { retired := (s.be b).retired || withinSpan times 3 1000000000, faults := times } := by
  have hcore := honly.core c
  have hunderway : Underway (counted.request c) := by
    unfold State.request
    rwa [hcore, honly.entry]
  have hended := endHeld_entry counted held hc hunderway
  have hengines : EnginesKept s (endHeld counted held) := (EnginesKept.after_traceOnly .refl honly).trans (endHeld_engines _ _)
  generalize endHeld counted held = ended at hended hengines
  obtain ⟨m, herased⟩ := eraseEngineKeys_only ended b l
  have hkeys := fun j => eraseEngineKeys_slot ended b l (j := j)
  generalize eraseEngineKeys ended b l = erased at herased hkeys
  obtain ⟨hentries, hslots, hbe⟩ := noteMismatch_leaves erased k b
  have hbes : erased.bes = s.bes := by rw [herased, hengines.1]
  have htmr : erased.tmr = s.tmr := by rw [herased, hengines.2]
  have hbefore : erased.be b = s.be b := by
    unfold State.be
    rw [hbes]
  have hentry : (noteMismatch erased k b).entry (s.core c).entry = ended.entry (s.core c).entry := by
    unfold State.entry
    rw [hentries, herased]
  rw [hcore] at hended
  rw [hbefore, htmr] at hbe
  obtain ⟨hstate, hstatus, hout⟩ := hended
  refine ⟨by rw [hentry, hstate], by rw [hentry, hstatus], by rw [hentry, hout], fun j hj => ?_, hbe⟩
  have hslot : (noteMismatch erased k b).beSlot (64 * b + j) = erased.beSlot (64 * b + j) := by
    unfold State.beSlot
    rw [hslots]
  rw [hslot]
  exact hkeys j hj

theorem beDatapathMismatch_runs {s : State} {c : Fin 2048} {e : Fin 4} (hrun : (s.core c).phase = .running) (h : Underway (s.request c)) :
    let b := servingBe s (stookOfCtx c) e
    let times := noteTime (s.be b).faults s.tmr.now 3
    Runs (.beDatapathMismatch c e) s (fun t =>
      (t.entry (s.core c).entry).state = .staged ∧ (t.entry (s.core c).entry).status = St.faultAlarm ∧ (t.entry (s.core c).entry).out = [] ∧
      (∀ j, j < 64 → (t.beSlot (64 * b + j)).key0 = none ∧ (t.beSlot (64 * b + j)).key1 = none) ∧ (t.be b).faults = times ∧
      (t.be b).retired = ((s.be b).retired || withinSpan times 3 1000000000)) := by
  intro b times
  have hexec : exec (.beDatapathMismatch c e) s = done (beMismatch s c b) := if_neg (not_not.mpr hrun)
  have hends := noteMismatch_ends (mismatchCounted_only s (stookOfCtx c) b).traceOnly
    (held := c :: mismatchHeld (mismatchCounted s (stookOfCtx c) b) (stookOfCtx c) b) List.mem_cons_self h (stookOfCtx c) b (List.range 64)
  dsimp only at hends
  rw [← beMismatch_eq s c b] at hends
  generalize beMismatch s c b = t at hexec hends
  obtain ⟨hstate, hstatus, hout, hkeys, hbe⟩ := hends
  refine runs_of_exec hexec ⟨?_, ?_, ?_, fun j hj => ?_, ?_, ?_⟩
  · rw [State.drive_entry', hstate]
  · rw [State.drive_entry', hstatus]
  · rw [State.drive_entry', hout]
  · rw [State.drive_beSlot']
    exact hkeys j (List.mem_range.mpr hj)
  · rw [State.drive_be', hbe]
  · rw [State.drive_be', hbe]

/-- Settles O36: key parts and commands by what the slot and the tables of roles and algorithms say; a mismatch through what ending its
requests keeps of the engines. -/
theorem blockEngines : Obligations.BlockEngines := by
  unfold Obligations.BlockEngines
  refine ⟨fun s c e sa sd alg hissue => ⟨fun hlabel hderived hrole => ⟨exec_beKey0 hissue hlabel hderived hrole,
      exec_beKey1 hissue hlabel hderived hrole, exec_beKey1_first hissue hlabel hderived hrole⟩,
    exec_beKey_unfit hissue, exec_beKey_unlabelled hissue, exec_beDin hissue, beKeyclr_runs hissue, fun k0 k1 cipher key h0 h1 hroom hlisted hroles => ?_,
    exec_beCommand_keyless hissue, exec_beCommand_full hissue⟩, fun s c e sd len => ⟨fun hissue => ⟨fun v hroom hlast heq => ?_,
    fun hroom hne => ?_, fun r rest => exec_beDout_takes hissue, exec_beDout_waits hissue⟩, fun old r rest => exec_beResultReady,
    fun hrun hreserved haccepted => beDatapathMismatch_runs hrun ⟨hreserved, haccepted⟩⟩⟩
  · have hfits := fits_of_listed h0 h1 hroles hlisted
    exact ⟨fun l hl => exec_beEncrypt hissue hroom h0 hfits (beRole_encrypts hl), fun l hl => exec_beDecrypt hissue hroom h0 hfits (beRole_decrypts hl),
      exec_beCheckValue hissue hroom h0 hfits, fun hrole => exec_beEncrypt_denied hissue hroom h0 hfits (beRole_encrypts_none hrole),
      fun hrole => exec_beDecrypt_denied hissue hroom h0 hfits (beRole_decrypts_none hrole), exec_beCheckValue_denied hissue hroom h0 hfits⟩
  · have hcompare := exec_beCompare hissue (len := len) hroom (eq := true) (by rw [hlast]; simpa using heq)
    simpa only [Bool.true_and] using hcompare
  · have heq : (match (beGet s c e).lastEnc with
        | some v => (beGet s c e).din.bytes.take (len.toNat + 1) == (ofBlock v).take (len.toNat + 1)
        | none => false) = false := by
      cases hlast : (beGet s c e).lastEnc with
      | none => rfl
      | some v => simpa using hne v hlast
    have hcompare := exec_beCompare hissue hroom heq
    simpa only [Bool.false_and, Bool.or_false] using hcompare

end Sys2Proof.Machine
end

section
/-! Proofs: the unwrap cache (O17). -/

namespace Sys2Proof.Machine

open Sys2Proof Sys2Proof.Bits

/-! ### A table that keeps what its entries satisfy -/

/-- An entry that q holds of is listed, where q does not hold of the default. -/
theorem any_of_get {α : Type} {d : α} {q : α → Bool} (hd : q d = false) {m : Map α} {k : Nat} (h : q (Map.get d m k) = true) :
    m.any (fun x => q x.2) = true := by
  induction m with
  | nil => rw [Map.get, hd] at h; cases h
  | cons y m ih =>
    obtain ⟨i, a⟩ := y
    rw [List.any_cons, Bool.or_eq_true]
    by_cases hi : i = k
    · rw [Map.get, if_pos hi] at h
      exact .inl h
    · rw [Map.get, if_neg hi] at h
      exact .inr (ih h)

/-- A write of an entry that q judges as the one before it keeps whether q holds of one. -/
theorem any_put {α : Type} {d : α} {q : α → Bool} (hd : q d = false) {m : Map α} {k : Nat} {a : α} (h : q a = q (Map.get d m k)) :
    (Map.put m k a).any (fun x => q x.2) = m.any (fun x => q x.2) := by
  induction m with
  | nil => simpa [Map.put, Map.get, hd] using h
  | cons y m ih =>
    obtain ⟨i, b⟩ := y
    unfold Map.put
    split
    · next hlt =>
      have hget := any_of_get (q := q) hd (m := (i, b) :: m) (k := k)
      rw [← h] at hget
      rw [List.any_cons]
      cases hq : q a
      · rfl
      · exact (hget hq).symm
    · split
      · next hi => rw [List.any_cons, List.any_cons, h, Map.get, if_pos hi]
      · next hi =>
        rw [Map.get, if_neg hi] at h
        rw [List.any_cons, List.any_cons, ih h]

theorem any_set {α : Type} [DecidableEq α] {d : α} {q : α → Bool} (hd : q d = false) {m : Map α} {k : Nat} {a : α} (ha : a ≠ d)
    (h : q a = q (Map.get d m k)) : (Map.set d m k a).any (fun x => q x.2) = m.any (fun x => q x.2) := by
  unfold Map.set
  rw [if_neg ha]
  exact any_put hd h

/-! ### Secret registers written in turn -/

section
variable {s : State} {c : Fin 2048}

/-- The first n writes of a pass over secret registers f 0, f 1, …, of values that the writes before them leave as they are: a register
written once has its value, one not written stays. -/
theorem foldl_writeSecret {f : Nat → Nat} {G : State → Nat → SReg} {g : Nat → SReg}
    (hG : ∀ u k, OnlyCoreMasked s u (.tu c) → G u k = g k) (n : Nat) :
    OnlyCoreMasked s ((List.range n).foldl (fun u k => writeSecret u (.tu c) (f k) (G u k)) s) (.tu c) ∧
    ∃ regs m, ((List.range n).foldl (fun u k => writeSecret u (.tu c) (f k) (G u k)) s).core c = { s.core c with s := regs, mask := m } ∧
      (∀ i, (∀ k, k < n → i ≠ f k) → Map.get {} regs i = (s.core c).getS i) ∧
      ((∀ j k, j < n → k < n → f j = f k → j = k) → ∀ k, k < n → Map.get {} regs (f k) = g k) := by
  induction n with
  | zero => exact ⟨.refl, _, _, rfl, fun _ _ => rfl, fun _ k hk => absurd hk (Nat.not_lt_zero k)⟩
  | succ n ih =>
    rw [List.range_succ, List.foldl_append, List.foldl_cons, List.foldl_nil]
    obtain ⟨honly, regs, m, hcore, hkept, hwritten⟩ := ih
    generalize (List.range n).foldl (fun u k => writeSecret u (.tu c) (f k) (G u k)) s = t at honly hcore
    rw [writeSecret_tu, hG t n honly]
    refine ⟨honly.after_drawMask.after_setCore _, Map.set {} regs (f n) (g n), (drawMask t (barnOfCtx c)).1, ?_, fun i hi => ?_, fun hinj k hk => ?_⟩
    · rw [State.setCore_self, hcore]
    · rw [Map.get_set_ne _ _ _ _ _ (hi n (Nat.lt_succ_self n))]
      exact hkept i fun k hk => hi k (Nat.lt_succ_of_lt hk)
    · rw [Map.get_set]
      split
      · next heq => rw [hinj k n hk (Nat.lt_succ_self n) heq]
      · next hne =>
        have hlt : k < n := (Nat.lt_succ_iff_lt_or_eq.mp hk).resolve_right fun h => hne (by rw [h])
        exact hwritten (fun i j hi hj => hinj i j (Nat.lt_succ_of_lt hi) (Nat.lt_succ_of_lt hj)) k hlt

end

/-- A key lies in the secret registers of x from d on, 16 bytes a register; the others are as in y. -/
def KeyPlaced (x y : Core) (d : Nat) (code : Byte) (key : Bytes) : Prop :=
  (∀ j, 16 * j < key.length → x.getS ((d + j) % 16) = { val := block (slice key (16 * j) 16), label := .k, role := code, derived := false }) ∧
  ∀ k, k < 16 → (∀ j, 16 * j < key.length → k ≠ (d + j) % 16) → x.getS k = y.getS k

theorem KeyPlaced.of_secrets {x y z : Core} {d : Nat} {code : Byte} {key : Bytes} (h : KeyPlaced x y d code key) (hs : y.s = z.s) :
    KeyPlaced x z d code key := by
  obtain ⟨hplaced, hkept⟩ := h
  refine ⟨hplaced, fun k hk hne => (hkept k hk hne).trans ?_⟩
  unfold Core.getS
  rw [hs]

/-- Placing a key of at most 16 registers. -/
theorem placeKey_places (s : State) (c : Fin 2048) (d : Nat) (code : Byte) {key : Bytes} (hkey : key.length ≤ 256) :
    OnlyCoreMasked s (placeKey s c d code key) (.tu c) ∧
    ∃ regs m, (placeKey s c d code key).core c = { s.core c with s := regs, mask := m } ∧
      KeyPlaced { s.core c with s := regs, mask := m } (s.core c) d code key := by
  obtain ⟨honly, regs, m, hcore, hkept, hwritten⟩ := foldl_writeSecret (s := s) (c := c) (f := fun k => (d + k) % 16)
    (G := fun _ k => { val := block (slice key (16 * k) 16), label := .k, role := code }) (fun _ _ _ => rfl) ((key.length + 15) / 16)
  have hinj : ∀ j k, j < (key.length + 15) / 16 → k < (key.length + 15) / 16 → (d + j) % 16 = (d + k) % 16 → j = k := fun j k hj hk h => by omega
  exact ⟨honly, regs, m, hcore, fun j hj => hwritten hinj j (by omega), fun k _ hk => hkept k fun j hj => hk j (by omega)⟩

/-! ### What the checks of a key look at -/

/-- From s to t only entries change, and none that hides a record. -/
def EntriesOnly (s t : State) : Prop := t = { s with entries := t.entries } ∧ ∀ p idx, recHidden t p idx = recHidden s p idx

namespace EntriesOnly

variable {s t u : State}

theorem refl : EntriesOnly s s := ⟨rfl, fun _ _ => rfl⟩

theorem trans (h : EntriesOnly s t) (k : EntriesOnly t u) : EntriesOnly s u := by
  obtain ⟨ht, hhidden⟩ := h
  obtain ⟨hu, hhidden'⟩ := k
  rw [ht] at hu
  exact ⟨hu, fun p idx => (hhidden' p idx).trans (hhidden p idx)⟩

/-- A change of an entry that leaves its function and its reservation. -/
theorem setEntry {e : Nat} {y : Entry} (hne : y ≠ {}) (hfunc : y.func = (s.entry e).func) (hresv : y.recResv = (s.entry e).recResv) :
    EntriesOnly s (s.setEntry e y) := by
  refine ⟨rfl, fun p idx => ?_⟩
  refine any_set (q := fun x : Entry => x.func == p + 1 && match x.recResv with
    | some (i, n) => decide (i ≤ idx ∧ idx < i + n)
    | none => false) (by simp) hne ?_
  have hget : Map.get {} s.entries e = s.entry e := rfl
  rw [hget, hfunc, hresv]

theorem handleFails (h : EntriesOnly s t) (p : Nat) (a : BitVec 64) : Machine.handleFails t p a = Machine.handleFails s p a := by
  obtain ⟨hstate, hhidden⟩ := h
  unfold Machine.handleFails
  dsimp only
  rw [hhidden, hstate]
  rfl

theorem core (h : EntriesOnly s t) (c : Nat) : t.core c = s.core c := by rw [h.1]; rfl
theorem dev (h : EntriesOnly s t) : t.dev = s.dev := by rw [h.1]
theorem uwc (h : EntriesOnly s t) : t.uwc = s.uwc := by rw [h.1]
theorem grn (h : EntriesOnly s t) : t.grn = s.grn := by rw [h.1]
theorem uwcAt (h : EntriesOnly s t) (i : Nat) : t.uwcAt i = s.uwcAt i := by rw [h.1]; rfl

theorem uwcFind (h : EntriesOnly s t) (barn p idx tag half : Nat) : Machine.uwcFind t barn p idx tag half = Machine.uwcFind s barn p idx tag half := by
  rw [h.1]
  rfl

end EntriesOnly

section
variable {s t : State}

theorem counterStatus_congr (h : t.grn = s.grn) (r : Nat) : counterStatus t r = counterStatus s r := by
  unfold counterStatus refCtr State.useCtr State.slotAt
  rw [h]

theorem slotStatus_congr (h : t.grn = s.grn) (r : Nat) : slotStatus t r = slotStatus s r := by
  unfold slotStatus State.slotAt
  rw [h]

/-- Every check passes. -/
theorem keyChecks_ok {e : Nat} {role : Bool} {k : Key} (hrole : role = true) (hwindow : windowStatus k.nb k.na (s.entry e).snap = St.ok)
    (hcounter : counterStatus s k.slotRef = St.ok) (hslot : slotStatus s k.slotRef = St.ok) : keyChecks s e role k = St.ok := by
  unfold keyChecks
  rw [hrole, hwindow, hcounter, hslot]
  rfl

theorem uwcScrub_good {barn p idx tag : Nat} (h : ∀ half i, uwcFind s barn p idx tag half = some i → readUnit s (.uwc i) = (.good, s)) :
    uwcScrub s barn p idx tag = s := by
  have hfold : ∀ l : List Nat, (∀ i ∈ l, readUnit s (.uwc i) = (.good, s)) → l.foldl (fun s i =>
      match readUnit s (.uwc i) with
      | (.bad, s) => writeUnit (s.setUwc i {}) (.uwc i)
      | (_, s) => s) s = s := fun l hl => by
    induction l with
    | nil => rfl
    | cons i l ih =>
      obtain ⟨hi, hrest⟩ := List.forall_mem_cons.mp hl
      rw [List.foldl_cons, hi]
      exact ih hrest
  unfold uwcScrub
  split
  · rfl
  · refine hfold _ fun i hi => ?_
    rcases List.mem_append.mp hi with hi | hi
    · exact h 0 i (Option.mem_toList.mp hi)
    · exact h 1 i (Option.mem_toList.mp hi)

/-- The key of a cache entry. -/
def keyOfEntry (p idx tag : Nat) (x : UwcEntry) : Key where
  part := p
  idx := idx
  tag := tag
  alg := x.alg
  usage := x.usage
  mode := x.mode
  pol := x.pol
  slotRef := x.slotRef
  nb := x.nb.toNat
  na := x.na.toNat
  bytes := uwcKeyBytes x

/-- A hit on a key of one entry: its attributes and its bytes; only the cache and the count of free values change. -/
theorem uwcHit_found {barn p idx tag w : Nat} (hfind : uwcFind s barn p idx tag 0 = some w) (halg : (s.uwcAt w).alg ≠ Alg.hmac64) :
    ∃ t, uwcHit s barn p idx tag = some (keyOfEntry p idx tag (s.uwcAt w), t) ∧ t = { s with uwc := t.uwc, uwcAge := t.uwcAge, free := t.free } := by
  unfold uwcHit
  rw [hfind]
  dsimp only
  rw [if_neg halg]
  exact ⟨_, rfl, rfl⟩

theorem uwcHit_missed {barn p idx tag : Nat} (hfind : uwcFind s barn p idx tag 0 = none) : uwcHit s barn p idx tag = none := by
  unfold uwcHit
  rw [hfind]

/-- What is noted of a key found leaves the cores and the snapshots. -/
theorem noteKey_keeps (e pos : Nat) (k : Key) (c : Nat) : (noteAlg (notePolicy s e k) e pos k).core c = s.core c ∧
    ((noteAlg (notePolicy s e k) e pos k).entry e).snap = (s.entry e).snap := by
  have hnoted : (notePolicy s e k).core c = s.core c ∧ ((notePolicy s e k).entry e).snap = (s.entry e).snap := by
    unfold notePolicy State.modEntry
    dsimp only
    split
    · exact ⟨rfl, by rw [State.setEntry_self]⟩
    · exact ⟨rfl, rfl⟩
  obtain ⟨hcore, hsnap⟩ := hnoted
  unfold noteAlg State.modEntry
  exact ⟨hcore, by rw [State.setEntry_self]; exact hsnap⟩

theorem uwcPlace_core (s : State) (barn : Nat) (x : UwcEntry) (bytes : Bytes) (c : Nat) : (uwcPlace s barn x bytes).core c = s.core c := by
  unfold uwcPlace
  split
  · exact (perfCount_only _ _ _ _).traceOnly.core c
  · dsimp only
    split
    · exact (perfCount_only _ _ _ _).traceOnly.core c
    · rfl

theorem uwcFill_core (s : State) (barn : Nat) (k : Key) (c : Nat) : (uwcFill s barn k).core c = s.core c := by
  unfold uwcFill
  dsimp only
  split
  · exact uwcPlace_core _ _ _ _ c
  · split
    · rw [uwcPlace_core, uwcPlace_core]
      rfl
    · rfl

end

theorem setUwcResult_keeps (s : State) (c : Nat) (w : Word) (ready : Bool) :
    (goNext (setUwcResult s c w ready) c).entries = s.entries ∧ (goNext (setUwcResult s c w ready) c).uwc = s.uwc := ⟨rfl, rfl⟩

/-- A context goes on with the result of the unwrap cache. -/
theorem setUwcResult_core (s : State) (c : Nat) (w : Word) (ready : Bool) :
    (goNext (setUwcResult s c w ready) c).core c = ({ s.core c with uwc := some (w, ready), wait := .none } : Core).next := by
  unfold goNext setUwcResult State.modCore
  rw [State.setCore_self, State.setCore_self]

/-! ### The lookup's snapshot and role (R67, R147) -/

/-- The time snapshot of a request, as its first lookup latches it. -/
def snapOf (s : State) (x : Entry) : Option (BitVec 64 × Bool) :=
  if x.snap.isSome then x.snap else some (BitVec.ofNat 64 s.time.ntime, s.time.valid)

/-- The state once a lookup has latched the snapshot and noted the role. -/
def lookupBegun (s : State) (e pos : Nat) (code : Byte) : State :=
  (latchSnap s e).modEntry e (fun x => { x with lookRole := Map.set 0 x.lookRole pos code })

section
variable (s : State) (e pos : Nat) (code : Byte)

theorem latchSnap_entriesOnly : EntriesOnly s (latchSnap s e) ∧ (latchSnap s e).entry e = { s.entry e with snap := snapOf s (s.entry e) } := by
  by_cases hsnap : (s.entry e).snap.isSome = true
  · obtain ⟨t, ht⟩ := Option.isSome_iff_exists.mp hsnap
    have hlatched : latchSnap s e = s := by
      unfold latchSnap
      rw [ht]
    have hkept : snapOf s (s.entry e) = (s.entry e).snap := if_pos hsnap
    rw [hlatched, hkept]
    exact ⟨.refl, rfl⟩
  · have hnone : (s.entry e).snap = none := Option.not_isSome_iff_eq_none.mp hsnap
    have hlatched : latchSnap s e = s.setEntry e { s.entry e with snap := some (BitVec.ofNat 64 s.time.ntime, s.time.valid) } := by
      unfold latchSnap
      rw [hnone]
      rfl
    have hnew : snapOf s (s.entry e) = some (BitVec.ofNat 64 s.time.ntime, s.time.valid) := if_neg hsnap
    rw [hlatched, hnew]
    exact ⟨.setEntry (fun h => by simpa using congrArg Entry.snap h) rfl rfl, State.setEntry_self _ _ _⟩

theorem lookupBegun_entry : (lookupBegun s e pos code).entry e =
    { s.entry e with snap := snapOf s (s.entry e), lookRole := Map.set 0 (s.entry e).lookRole pos code } := by
  obtain ⟨-, hentry⟩ := latchSnap_entriesOnly s e
  unfold lookupBegun State.modEntry
  rw [State.setEntry_self, hentry]

theorem lookupBegun_entriesOnly : EntriesOnly s (lookupBegun s e pos code) := by
  obtain ⟨honly, hentry⟩ := latchSnap_entriesOnly s e
  refine honly.trans (.setEntry (fun h => ?_) rfl rfl)
  rw [hentry] at h
  have hsnap := congrArg Entry.snap h
  unfold snapOf at hsnap
  cases hx : (s.entry e).snap <;> simp [hx] at hsnap

end

/-! ### A lookup (R145, R146, R148) -/

/-- The lookup of position pos of request e once it has begun: the key goes to registers from d on. -/
def lookupIn (b : State) (c : Fin 2048) (e pos : Nat) (code : Byte) (d : Nat) : State :=
  let x := b.entry e
  let p := x.func - 1
  let h := x.desc.handle pos
  if handleFails b p h then goNext (setUwcResult b c (uwcWord St.keyNotFound false) false) c
  else
    let s := uwcScrub b x.barn p (handleIdx h) (handleTag h)
    match uwcHit s x.barn p (handleIdx h) (handleTag h) with
    | some (k, t) =>
      let s := perfCount s (barnPage x.barn) brnUwcHit 1
      let st := keyChecks s e (lookupRole x.desc.fn.toNat pos code.toNat k.usage k.mode k.alg) k
      if st = St.ok then
        let s := noteAlg (notePolicy (perfCount t (barnPage x.barn) brnUwcHit 1) e k) e pos k
        goNext (setUwcResult (placeKey s c d code k.bytes) c (uwcWord St.ok true) false) c
      else goNext (setUwcResult s c (uwcWord st true) false) c
    | none =>
      let s := perfCount s (barnPage x.barn) brnUwcMiss 1
      let s := s.modEntry e (fun x => { x with tickets := Map.set 0 x.tickets pos 1 })
      goNext (setUwcResult s c (uwcWord St.ok false) false) c

theorem lookupKey_eq (s : State) (c : Fin 2048) (v : Word) : lookupKey s c v =
    lookupIn (lookupBegun s (s.core c).entry (v.toNat % 4) (BitVec.ofNat 8 (v.toNat / 4))) c (s.core c).entry (v.toNat % 4)
      (BitVec.ofNat 8 (v.toNat / 4)) (v.toNat / 1024 % 16) := by
  have hlookup : lookupKey s c v =
      lookupIn (lookupBegun s (s.core c).entry (bits v.toNat 1 0) (BitVec.ofNat 8 (bits v.toNat 9 2))) c (s.core c).entry (bits v.toNat 1 0)
        (BitVec.ofNat 8 (bits v.toNat 9 2)) (bits v.toNat 13 10) := rfl
  have hpos : bits v.toNat 1 0 = v.toNat % 4 := by simp [bits]
  have hcode : BitVec.ofNat 8 (bits v.toNat 9 2) = BitVec.ofNat 8 (v.toNat / 4) := BitVec.eq_of_toNat_eq (by simp [bits])
  have hreg : bits v.toNat 13 10 = v.toNat / 1024 % 16 := by simp [bits]
  rw [hlookup, hpos, hcode, hreg]

section
variable {b : State} {c : Fin 2048} {e pos d : Nat} {code : Byte}

theorem lookupIn_fails (h : handleFails b ((b.entry e).func - 1) ((b.entry e).desc.handle pos) = true) :
    lookupIn b c e pos code d = goNext (setUwcResult b c (uwcWord St.keyNotFound false) false) c := if_pos h

variable {x : Entry} {p : Nat} {h : BitVec 64} (hx : b.entry e = x) (hp : x.func - 1 = p) (hh : x.desc.handle pos = h)
  (hfails : handleFails b p h = false) (hscrub : uwcScrub b x.barn p (handleIdx h) (handleTag h) = b)
include hx hp hh hfails hscrub

theorem lookupIn_misses (hhit : uwcHit b x.barn p (handleIdx h) (handleTag h) = none) : lookupIn b c e pos code d =
    goNext (setUwcResult ((perfCount b (barnPage x.barn) brnUwcMiss 1).modEntry e (fun x => { x with tickets := Map.set 0 x.tickets pos 1 })) c
      (uwcWord St.ok false) false) c := by
  unfold lookupIn
  dsimp only
  rw [hx, hp, hh, hfails, if_neg (by decide), hscrub, hhit]

theorem lookupIn_hits {k : Key} {t : State} (hhit : uwcHit b x.barn p (handleIdx h) (handleTag h) = some (k, t))
    (hchecks : keyChecks (perfCount b (barnPage x.barn) brnUwcHit 1) e (lookupRole x.desc.fn.toNat pos code.toNat k.usage k.mode k.alg) k = St.ok) :
    lookupIn b c e pos code d = goNext (setUwcResult
      (placeKey (noteAlg (notePolicy (perfCount t (barnPage x.barn) brnUwcHit 1) e k) e pos k) c d code k.bytes) c (uwcWord St.ok true) false) c := by
  unfold lookupIn
  dsimp only
  rw [hx, hp, hh, hfails, if_neg (by decide), hscrub, hhit]
  dsimp only
  rw [hchecks, if_pos rfl]

end

/-- The result of a key that is placed. -/
theorem placeKey_result (w : State) (c : Fin 2048) (d : Nat) (code : Byte) {key : Bytes} (hkey : key.length ≤ 256) (word : Word) (ready : Bool) :
    let t := goNext (setUwcResult (placeKey w c d code key) c word ready) c
    (t.core c).uwc = some (word, ready) ∧ t.entries = w.entries ∧ KeyPlaced (t.core c) (w.core c) d code key := by
  intro t
  obtain ⟨⟨honly, -⟩, regs, m, hcore, hplaced⟩ := placeKey_places w c d code hkey
  have hcore' : t.core c = ({ placeKey w c d code key |>.core c with uwc := some (word, ready), wait := .none } : Core).next := setUwcResult_core _ _ _ _
  have hentries : t.entries = (placeKey w c d code key).entries := rfl
  rw [hcore', hcore]
  exact ⟨rfl, by rw [hentries, honly], hplaced⟩

theorem uwcKeyBytes_length (y : UwcEntry) : (uwcKeyBytes y).length ≤ 256 := by
  have hlength : (uwcKeyBytes y).length = min y.klen 32 := by
    unfold uwcKeyBytes
    rw [List.length_take, length_le_bytes]
  omega

section
variable {s u : State} {c : Fin 2048} (hu : AtPort s c u)
include hu

theorem AtPort.uwc : u.uwc = s.uwc := hu.congr State.uwc (fun _ _ _ => rfl)
theorem AtPort.grn : u.grn = s.grn := hu.congr State.grn (fun _ _ _ => rfl)
theorem AtPort.secrets : (u.core c).s = (s.core c).s := by rw [hu.core_eq]
theorem AtPort.handleFails (p : Nat) (h : BitVec 64) : Machine.handleFails u p h = Machine.handleFails s p h :=
  hu.congr (fun t => Machine.handleFails t p h) (fun _ _ _ => rfl)
theorem AtPort.uwcFind (barn p idx tag half : Nat) : Machine.uwcFind u barn p idx tag half = Machine.uwcFind s barn p idx tag half :=
  hu.congr (fun t => Machine.uwcFind t barn p idx tag half) (fun _ _ _ => rfl)
theorem AtPort.uwcAt (i : Nat) : u.uwcAt i = s.uwcAt i := hu.congr (fun t => t.uwcAt i) (fun _ _ _ => rfl)

end

section
variable {s : State} {c : Fin 2048} {v : Word} (hissue : Issues s (.tu c))
include hissue

/-- The lookup of a context begins on the state that its instruction finds. -/
theorem exec_uwcLookup : ∃ u b, AtPort s c u ∧ EntriesOnly u b ∧ b.entry (s.core c).entry = { s.request c with
      snap := snapOf s (s.request c)
      lookRole := Map.set 0 (s.request c).lookRole (v.toNat % 4) (BitVec.ofNat 8 (v.toNat / 4)) } ∧
    exec (.uwcLookup c v) s = done (lookupIn b c (s.core c).entry (v.toNat % 4) (BitVec.ofNat 8 (v.toNat / 4)) (v.toNat / 1024 % 16)) := by
  obtain ⟨u, hu, hexec⟩ := exists_atPort hissue (i := .uwcLookup c v) (k := fun u => lookupKey u c v) (F := fun u => lookupKey u c v) rfl rfl
    fun _ _ => rfl
  have hsnap : snapOf u (s.request c) = snapOf s (s.request c) := by
    unfold snapOf
    rw [hu.time]
  have hentry := lookupBegun_entry u (s.core c).entry (v.toNat % 4) (BitVec.ofNat 8 (v.toNat / 4))
  rw [hu.entry] at hentry
  rw [lookupKey_eq, hu.core_entry] at hexec
  exact ⟨u, _, hu, lookupBegun_entriesOnly _ _ _ _, hsnap ▸ hentry, hexec⟩

theorem uwcLookup_fails (h : handleFails s ((s.request c).func - 1) ((s.request c).desc.handle (v.toNat % 4)) = true) :
    Runs (.uwcLookup c v) s (fun t => (t.core c).uwc = some (BitVec.ofNat 32 St.keyNotFound.toNat, false) ∧ (t.core c).s = (s.core c).s ∧
      t.uwc = s.uwc) := by
  obtain ⟨u, b, hu, hb, hentry, hexec⟩ := exec_uwcLookup hissue (v := v)
  rw [lookupIn_fails (by rw [hentry, hb.handleFails, hu.handleFails]; exact h)] at hexec
  have hcore := setUwcResult_core b c (uwcWord St.keyNotFound false) false
  obtain ⟨-, huwc⟩ := setUwcResult_keeps b c (uwcWord St.keyNotFound false) false
  refine runs_of_exec hexec ⟨?_, ?_, ?_⟩
  · rw [State.drive_core', hcore]
    rfl
  · rw [State.drive_core', hcore, hb.core]
    exact hu.secrets
  · rw [State.drive_uwc, huwc, hb.uwc, hu.uwc]

section
variable {x : Entry} {p : Nat} {h : BitVec 64} (hx : s.request c = x) (hp : x.func - 1 = p) (hh : x.desc.handle (v.toNat % 4) = h)
  (hfails : handleFails s p h = false)
  (hgood : ∀ half i, uwcFind s x.barn p (handleIdx h) (handleTag h) half = some i → (readUnit s (.uwc i)).1 = .good)
include hx hp hh hfails hgood

omit hissue hx hp hh hfails in
theorem uwcScrub_begun {u b : State} (hu : AtPort s c u) (hb : EntriesOnly u b) : uwcScrub b x.barn p (handleIdx h) (handleTag h) = b :=
  uwcScrub_good fun half i hi => readUnit_good (hb.dev.trans hu.dev) (hgood half i (by rwa [hb.uwcFind, hu.uwcFind] at hi))

theorem uwcLookup_misses (hfind : uwcFind s x.barn p (handleIdx h) (handleTag h) 0 = none) : Runs (.uwcLookup c v) s (fun t =>
    (t.core c).uwc = some (0, false) ∧ (t.core c).s = (s.core c).s ∧ (t.entry (s.core c).entry).snap = snapOf s x ∧ t.uwc = s.uwc) := by
  obtain ⟨u, b, hu, hb, hentry, hexec⟩ := exec_uwcLookup hissue (v := v)
  rw [hx] at hentry
  rw [lookupIn_misses hentry hp hh (by rw [hb.handleFails, hu.handleFails, hfails]) (uwcScrub_begun hgood hu hb)
    (uwcHit_missed (by rw [← hfind, ← hu.uwcFind, ← hb.uwcFind]))] at hexec
  have hcounted := perfCount_only b (barnPage x.barn) brnUwcMiss 1
  dsimp only at hexec
  generalize perfCount b (barnPage x.barn) brnUwcMiss 1 = counted at hexec hcounted
  have hnoted : ((counted.modEntry (s.core c).entry (fun x => { x with tickets := Map.set 0 x.tickets (v.toNat % 4) 1 })).entry
      (s.core c).entry).snap = snapOf s x := by
    rw [State.modEntry, State.setEntry_self, hcounted.traceOnly.entry, hentry]
  have hcore : (counted.modEntry (s.core c).entry (fun x => { x with tickets := Map.set 0 x.tickets (v.toNat % 4) 1 })).core c = u.core c :=
    (hcounted.traceOnly.core c).trans (hb.core c)
  have huwc : (counted.modEntry (s.core c).entry (fun x => { x with tickets := Map.set 0 x.tickets (v.toNat % 4) 1 })).uwc = s.uwc := by
    have hsame : counted.uwc = b.uwc := by rw [hcounted]
    exact hsame.trans (hb.uwc.trans hu.uwc)
  generalize counted.modEntry (s.core c).entry (fun x => { x with tickets := Map.set 0 x.tickets (v.toNat % 4) 1 }) = noted at hexec hnoted hcore huwc
  obtain ⟨hentries, hcache⟩ := setUwcResult_keeps noted c (uwcWord St.ok false) false
  have hresult := setUwcResult_core noted c (uwcWord St.ok false) false
  rw [hcore] at hresult
  refine runs_of_exec hexec ⟨?_, ?_, ?_, ?_⟩
  · rw [State.drive_core', hresult]
    rfl
  · rw [State.drive_core', hresult]
    exact hu.secrets
  · rw [State.drive_entry', entry_of_entries hentries, hnoted]
  · rw [State.drive_uwc, hcache, huwc]

theorem uwcLookup_hits {w : Nat} (hfind : uwcFind s x.barn p (handleIdx h) (handleTag h) 0 = some w) (halg : (s.uwcAt w).alg ≠ Alg.hmac64)
    (hrole : lookupRole x.desc.fn.toNat (v.toNat % 4) (v.toNat / 4 % 256) (s.uwcAt w).usage (s.uwcAt w).mode (s.uwcAt w).alg = true)
    (hwindow : windowStatus (s.uwcAt w).nb.toNat (s.uwcAt w).na.toNat (snapOf s x) = St.ok)
    (hcounter : counterStatus s (s.uwcAt w).slotRef = St.ok) (hslot : slotStatus s (s.uwcAt w).slotRef = St.ok) :
    Runs (.uwcLookup c v) s (fun t => (t.core c).uwc = some (0x10000, false) ∧ (t.entry (s.core c).entry).snap = snapOf s x ∧
      KeyPlaced (t.core c) (s.core c) (v.toNat / 1024 % 16) (BitVec.ofNat 8 (v.toNat / 4)) (uwcKeyBytes (s.uwcAt w))) := by
  obtain ⟨u, b, hu, hb, hentry, hexec⟩ := exec_uwcLookup hissue (v := v)
  rw [hx] at hentry
  have hat : b.uwcAt w = s.uwcAt w := by rw [hb.uwcAt, hu.uwcAt]
  obtain ⟨touched, hhit, htouched⟩ := uwcHit_found (s := b) (by rw [hb.uwcFind, hu.uwcFind, hfind]) (by rwa [hat])
  rw [hat] at hhit
  have hcounted := perfCount_only b (barnPage x.barn) brnUwcHit 1
  have hgrn : (perfCount b (barnPage x.barn) brnUwcHit 1).grn = s.grn := by rw [hcounted.grn, hb.grn, hu.grn]
  have hcode : (BitVec.ofNat 8 (v.toNat / 4)).toNat = v.toNat / 4 % 256 := BitVec.toNat_ofNat _ _
  have hsnap : ((perfCount b (barnPage x.barn) brnUwcHit 1).entry (s.core c).entry).snap = snapOf s x := by
    rw [hcounted.traceOnly.entry, hentry]
  rw [lookupIn_hits hentry hp hh (by rw [hb.handleFails, hu.handleFails, hfails]) (uwcScrub_begun hgood hu hb) hhit
    (keyChecks_ok (by rw [hcode]; exact hrole) (by rw [hsnap]; exact hwindow) (by rw [counterStatus_congr hgrn]; exact hcounter)
      (by rw [slotStatus_congr hgrn]; exact hslot))] at hexec
  dsimp only at hexec
  have hused := perfCount_only touched (barnPage x.barn) brnUwcHit 1
  generalize perfCount touched (barnPage x.barn) brnUwcHit 1 = used at hexec hused
  obtain ⟨hcore, hnoted⟩ := noteKey_keeps (s := used) (s.core c).entry (v.toNat % 4) (keyOfEntry p (handleIdx h) (handleTag h) (s.uwcAt w)) c
  obtain ⟨hresult, hentries, hplaced⟩ := placeKey_result
    (noteAlg (notePolicy used (s.core c).entry (keyOfEntry p (handleIdx h) (handleTag h) (s.uwcAt w))) (s.core c).entry (v.toNat % 4)
      (keyOfEntry p (handleIdx h) (handleTag h) (s.uwcAt w))) c (v.toNat / 1024 % 16) (BitVec.ofNat 8 (v.toNat / 4))
    (uwcKeyBytes_length (s.uwcAt w)) (uwcWord St.ok true) false
  have hbefore : used.core c = u.core c := (hused.traceOnly.core c).trans ((by rw [htouched]; rfl : touched.core c = b.core c).trans (hb.core c))
  have hsnap' : (used.entry (s.core c).entry).snap = snapOf s x := by
    have hsame : touched.entry (s.core c).entry = b.entry (s.core c).entry := by rw [htouched]; rfl
    rw [hused.traceOnly.entry, hsame, hentry]
  refine runs_of_exec hexec ⟨?_, ?_, ?_⟩
  · rw [State.drive_core']
    exact hresult
  · rw [State.drive_entry', ← hsnap', ← hnoted]
    exact congrArg Entry.snap (entry_of_entries hentries _)
  · rw [State.drive_core']
    rw [hcore, hbefore] at hplaced
    exact hplaced.of_secrets hu.secrets

end

end

/-! ### A fill (R147, R149) -/

/-- The attribute block of a fill: three registers from ar on. -/
def fillAttr (x : Core) (ar : Nat) : Bytes := (x.getS ar).bytes ++ (x.getS ((ar + 1) % 16)).bytes ++ (x.getS ((ar + 2) % 16)).bytes

/-- The key of a fill: len bytes from register kr on. -/
def fillBytes (x : Core) (kr len : Nat) : Bytes := ((List.range 4).flatMap (fun j => (x.getS ((kr + j) % 16)).bytes)).take len

/-- A fill by the numbers of its position and of its registers. -/
def fillIn (s : State) (c : Fin 2048) (pos kr ar d : Nat) : State :=
  let e := (s.core c).entry
  let x := s.entry e
  let h := x.desc.handle pos
  let k := recAttrs (fillAttr (s.core c) ar)
  let code := Map.get 0 x.lookRole pos
  let bad (s : State) (st : Status) : State := goNext (setUwcResult s c (uwcWord st false) true) c
  if !(s.core c).recAuth ∨ k.part ≠ handlePart h ∨ k.idx ≠ handleIdx h ∨ k.tag ≠ handleTag h then bad s St.keyNotFound
  else
    let st := keyChecks s e (lookupRole x.desc.fn.toNat pos code.toNat k.usage k.mode k.alg) k
    if st ≠ St.ok then bad s st
    else
      let key := fillBytes (s.core c) kr (Alg.symLen k.alg)
      let s := placeKey (noteAlg (notePolicy s e k) e pos k) c d code key
      let s := if Map.get 0 x.tickets pos = 2 then s else uwcFill s x.barn { k with part := x.func - 1, bytes := key }
      goNext (setUwcResult s c (uwcWord St.ok false) true) c

theorem fillKey_eq (s : State) (c : Fin 2048) (v : Word) :
    fillKey s c v = fillIn s c (v.toNat % 4) (v.toNat / 4 % 16) (v.toNat / 64 % 16) (v.toNat / 1024 % 16) := by
  have hfill : fillKey s c v = fillIn s c (bits v.toNat 1 0) (bits v.toNat 5 2) (bits v.toNat 9 6) (bits v.toNat 13 10) := rfl
  have hpos : bits v.toNat 1 0 = v.toNat % 4 := by simp [bits]
  have hkr : bits v.toNat 5 2 = v.toNat / 4 % 16 := by simp [bits]
  have har : bits v.toNat 9 6 = v.toNat / 64 % 16 := by simp [bits]
  have hd : bits v.toNat 13 10 = v.toNat / 1024 % 16 := by simp [bits]
  rw [hfill, hpos, hkr, har, hd]

theorem fillBytes_length (x : Core) (kr len : Nat) : (fillBytes x kr len).length ≤ 256 := by
  have hbytes : ∀ r : SReg, r.bytes.length = 16 := fun r => ofBlock_length r.val
  have hlength : (fillBytes x kr len).length = min len 64 := by
    unfold fillBytes
    rw [List.length_take, List.length_flatMap]
    simp [hbytes]
  omega

section
variable {s : State} {c : Fin 2048} {pos kr ar d : Nat}

theorem fillIn_unauthenticated (h : (s.core c).recAuth = false) :
    fillIn s c pos kr ar d = goNext (setUwcResult s c (uwcWord St.keyNotFound false) true) c := if_pos (.inl (by rw [h]; rfl))

variable {x : Entry} {k : Key} (hx : s.entry (s.core c).entry = x) (hk : recAttrs (fillAttr (s.core c) ar) = k)
include hx hk

/-- A fill of a record that the context authenticated places its key. -/
theorem fillIn_fills (hauth : (s.core c).recAuth = true) (hpart : k.part = handlePart (x.desc.handle pos)) (hidx : k.idx = handleIdx (x.desc.handle pos))
    (htag : k.tag = handleTag (x.desc.handle pos)) (hchecks : keyChecks s (s.core c).entry
      (lookupRole x.desc.fn.toNat pos (Map.get 0 x.lookRole pos).toNat k.usage k.mode k.alg) k = St.ok) :
    ∃ w, fillIn s c pos kr ar d = goNext (setUwcResult w c (uwcWord St.ok false) true) c ∧
      w.core c = (placeKey (noteAlg (notePolicy s (s.core c).entry k) (s.core c).entry pos k) c d (Map.get 0 x.lookRole pos)
        (fillBytes (s.core c) kr (Alg.symLen k.alg))).core c := by
  have hmatch : ¬ ((!(s.core c).recAuth) = true ∨ k.part ≠ handlePart (x.desc.handle pos) ∨ k.idx ≠ handleIdx (x.desc.handle pos) ∨
      k.tag ≠ handleTag (x.desc.handle pos)) := by simp [hauth, hpart, hidx, htag]
  have hpasses : ¬ (St.ok ≠ St.ok) := not_not.mpr rfl
  unfold fillIn
  dsimp only
  rw [hx, hk, if_neg hmatch, hchecks, if_neg hpasses]
  refine ⟨_, rfl, ?_⟩
  split
  · rfl
  · rw [uwcFill_core]

end

section
variable {s : State} {c : Fin 2048} {v : Word} (hissue : Issues s (.tu c))
include hissue

theorem exec_uwcFill : ∃ u, AtPort s c u ∧ exec (.uwcFill c v) s =
    done (fillIn u c (v.toNat % 4) (v.toNat / 4 % 16) (v.toNat / 64 % 16) (v.toNat / 1024 % 16)) :=
  exists_atPort hissue (k := fun u => fillKey u c v) rfl rfl fun u _ => fillKey_eq u c v

omit hissue in
theorem AtPort.recAuth {u : State} (hu : AtPort s c u) : (u.core c).recAuth = (s.core c).recAuth := by rw [hu.core_eq]

theorem uwcFill_unauthenticated (h : (s.core c).recAuth = false) : Runs (.uwcFill c v) s (fun t =>
    (t.core c).uwc = some (BitVec.ofNat 32 St.keyNotFound.toNat, true) ∧ (t.core c).s = (s.core c).s ∧ t.uwc = s.uwc) := by
  obtain ⟨u, hu, hexec⟩ := exec_uwcFill hissue (v := v)
  rw [fillIn_unauthenticated (by rw [hu.recAuth, h])] at hexec
  have hcore := setUwcResult_core u c (uwcWord St.keyNotFound false) true
  obtain ⟨-, huwc⟩ := setUwcResult_keeps u c (uwcWord St.keyNotFound false) true
  refine runs_of_exec hexec ⟨?_, ?_, ?_⟩
  · rw [State.drive_core', hcore]
    rfl
  · rw [State.drive_core', hcore]
    exact hu.secrets
  · rw [State.drive_uwc, huwc, hu.uwc]

/-- The fill of a record that the context authenticated gives OK and its key. -/
theorem uwcFill_fills {x : Entry} {k : Key} {h : BitVec 64} (hx : s.request c = x) (hk : recAttrs (fillAttr (s.core c) (v.toNat / 64 % 16)) = k)
    (hh : x.desc.handle (v.toNat % 4) = h) (hauth : (s.core c).recAuth = true) (hpart : k.part = handlePart h) (hidx : k.idx = handleIdx h)
    (htag : k.tag = handleTag h)
    (hrole : lookupRole x.desc.fn.toNat (v.toNat % 4) (Map.get 0 x.lookRole (v.toNat % 4)).toNat k.usage k.mode k.alg = true)
    (hwindow : windowStatus k.nb k.na x.snap = St.ok) (hcounter : counterStatus s k.slotRef = St.ok) (hslot : slotStatus s k.slotRef = St.ok) :
    Runs (.uwcFill c v) s (fun t => (t.core c).uwc = some (0, true) ∧
      KeyPlaced (t.core c) (s.core c) (v.toNat / 1024 % 16) (Map.get 0 x.lookRole (v.toNat % 4))
        (fillBytes (s.core c) (v.toNat / 4 % 16) (Alg.symLen k.alg))) := by
  obtain ⟨u, hu, hexec⟩ := exec_uwcFill hissue (v := v)
  have hattr : fillAttr (u.core c) (v.toNat / 64 % 16) = fillAttr (s.core c) (v.toNat / 64 % 16) := by
    unfold fillAttr
    rw [hu.getS, hu.getS, hu.getS]
  have hbytes : fillBytes (u.core c) (v.toNat / 4 % 16) (Alg.symLen k.alg) = fillBytes (s.core c) (v.toNat / 4 % 16) (Alg.symLen k.alg) := by
    unfold fillBytes
    simp only [hu.getS]
  have hentry : u.entry (u.core c).entry = x := hu.request.trans hx
  obtain ⟨w, hfill, hcore⟩ := fillIn_fills (pos := v.toNat % 4) (kr := v.toNat / 4 % 16) (d := v.toNat / 1024 % 16) hentry (hattr ▸ hk)
    (hu.recAuth.trans hauth) (hh ▸ hpart) (hh ▸ hidx) (hh ▸ htag)
    (keyChecks_ok hrole (by rw [hentry]; exact hwindow) (by rw [counterStatus_congr hu.grn]; exact hcounter)
      (by rw [slotStatus_congr hu.grn]; exact hslot))
  rw [hfill] at hexec
  obtain ⟨hnoted, -⟩ := noteKey_keeps (s := u) (u.core c).entry (v.toNat % 4) k c
  obtain ⟨-, regs, m, hplaced, hkey⟩ := placeKey_places (noteAlg (notePolicy u (u.core c).entry k) (u.core c).entry (v.toNat % 4) k) c
    (v.toNat / 1024 % 16) (Map.get 0 x.lookRole (v.toNat % 4)) (fillBytes_length (u.core c) (v.toNat / 4 % 16) (Alg.symLen k.alg))
  have hresult := setUwcResult_core w c (uwcWord St.ok false) true
  rw [hcore, hplaced] at hresult
  rw [hnoted, hbytes] at hkey
  refine runs_of_exec hexec ⟨?_, ?_⟩
  · rw [State.drive_core', hresult]
    rfl
  · rw [State.drive_core', hresult, hnoted]
    exact (show KeyPlaced _ (u.core c) _ _ _ from hkey).of_secrets hu.secrets

end

theorem exec_uwcResultReady {s : State} {c : Fin 2048} {r : Fin 32} {w : Word} (h : (s.core c).uwc = some (w, false)) :
    exec (.uwcResultReady c r) s = done (if (s.core c).wait = .uwcResult then
      Reads (s.setCore c { s.core c with uwc := some (w, true) }) c r w else s.setCore c { s.core c with uwc := some (w, true) }) := by
  have hexec : exec (.uwcResultReady c r) s = match (s.core c).uwc with
    | some (w, false) =>
      done (if ((setUwcResult s c w true).core c).wait = .uwcResult then answer (setUwcResult s c w true) c r w else setUwcResult s c w true)
    | _ => done s := rfl
  have hwait : ((setUwcResult s c w true).core c).wait = (s.core c).wait := by
    unfold setUwcResult State.modCore
    rw [State.setCore_self]
  rw [hexec, h]
  dsimp only
  rw [hwait]
  rfl

/-- Settles O17: a lookup and a fill by the branch that their checks take; the key that either places by its writes in turn. -/
theorem unwrapCache : Obligations.UnwrapCache := by
  unfold Obligations.UnwrapCache
  refine ⟨fun s c v r hissue => ⟨uwcLookup_fails hissue, uwcFill_unauthenticated hissue, fun w hw => ?_, fun d w hw hwait => ?_⟩,
    fun s c v hissue => ⟨fun hfails hgood => ⟨fun w hfind halg _ hrole hwindow hcounter hslot => ?_, uwcLookup_misses hissue rfl rfl rfl hfails hgood⟩,
      fun hauth hpart hidx htag hrole hwindow hcounter hslot => ?_⟩⟩
  · have hwait : (s.core c).wait ≠ .uwcResult := fun h => by
      have hnone : (s.core c).wait = .none := hissue.2.1
      rw [hnone] at h
      cases h
    rw [exec_uwcResultReady hw, if_neg hwait]
  · rw [exec_uwcResultReady hw, if_pos hwait]
  · exact uwcLookup_hits hissue rfl rfl rfl hfails hgood hfind halg hrole hwindow hcounter hslot
  · have hattr : fillAttr (s.core c) (v.toNat / 64 % 16) = ((s.core c).getS (v.toNat / 64 % 16 % 16)).bytes ++
        ((s.core c).getS ((v.toNat / 64 % 16 + 1) % 16)).bytes ++ ((s.core c).getS ((v.toNat / 64 % 16 + 2) % 16)).bytes := by
      rw [Nat.mod_mod]
      rfl
    have hbytes : ∀ len, fillBytes (s.core c) (v.toNat / 4 % 16) len = (((s.core c).getS (v.toNat / 4 % 16 % 16)).bytes ++
        ((s.core c).getS ((v.toNat / 4 % 16 + 1) % 16)).bytes ++ ((s.core c).getS ((v.toNat / 4 % 16 + 2) % 16)).bytes ++
        ((s.core c).getS ((v.toNat / 4 % 16 + 3) % 16)).bytes).take len := fun len => by
      simp [fillBytes, List.range_succ]
    have hfill := uwcFill_fills hissue (v := v) rfl (congrArg recAttrs hattr) rfl hauth hpart hidx htag hrole hwindow hcounter hslot
    rw [hbytes] at hfill
    exact hfill

end Sys2Proof.Machine
end

section
/-! Proofs: the word instructions, and what the multiplier and the accumulators read (O6). -/

namespace Sys2Proof.Machine

open Sys2Proof Sys2Proof.Bits

/-- A word result that the value's description states. -/
theorem toReg_describes {i : Instr} {s : State} {c : CoreId} {rd : Fin 32} {g : Core → Word} {P : Core → Word → Prop}
    (hi : exec i s = done (toReg s c rd g)) (hP : ∀ x, P x (g x)) : WritesSome i s c rd P :=
  fun hissue => by
    obtain ⟨x, hfound, hruns⟩ := (toReg_word hi fun _ => rfl : WritesWord i s c rd g) hissue
    exact ⟨x, g x, hfound, hP x, hruns⟩

/-! ### Results of the word instructions (R163) -/

/-- A shift count is the low five bits of its register. -/
theorem toNat_and_thirtyOne (b : Word) : (b &&& 31).toNat = b.toNat % 32 := by
  rw [BitVec.toNat_and]
  exact Nat.and_two_pow_sub_one_eq_mod b.toNat 5

theorem shift_left_low (a b : Word) : Kx.shift 0 a (b.toNat % 32) = a <<< (b &&& 31) := by
  rw [BitVec.shiftLeft_eq', toNat_and_thirtyOne]
  rfl

theorem shift_right_low (a b : Word) : Kx.shift 1 a (b.toNat % 32) = a >>> (b &&& 31) := by
  rw [BitVec.ushiftRight_eq', toNat_and_thirtyOne]
  rfl

theorem bool_slt (a b : Word) : Kx.bool (Kx.slt a b) = if a.toInt < b.toInt then 1 else 0 := by simp [Kx.bool, Kx.slt]

theorem bool_sltu (a b : Word) : Kx.bool (Kx.sltu a b) = if a < b then 1 else 0 := by simp [Kx.bool, Kx.sltu, BitVec.lt_def]

/-- A choice by the signed comparison is the smaller value, and the other one the greater. -/
theorem min_slt (a b : Word) : (if Kx.slt a b then a else b) = BitVec.ofInt 32 (min a.toInt b.toInt) := by
  by_cases h : a.toInt < b.toInt
  · simp [Kx.slt, h, min_eq_left h.le]
  · simp [Kx.slt, h, min_eq_right (not_lt.mp h)]

theorem max_slt (a b : Word) : (if Kx.slt a b then b else a) = BitVec.ofInt 32 (max a.toInt b.toInt) := by
  by_cases h : a.toInt < b.toInt
  · simp [Kx.slt, h, max_eq_right h.le]
  · simp [Kx.slt, h, max_eq_left (not_lt.mp h)]

theorem min_sltu (a b : Word) : (if Kx.sltu a b then a else b) = BitVec.ofNat 32 (min a.toNat b.toNat) := by
  by_cases h : a.toNat < b.toNat
  · simp [Kx.sltu, h, min_eq_left h.le]
  · simp [Kx.sltu, h, min_eq_right (not_lt.mp h)]

theorem max_sltu (a b : Word) : (if Kx.sltu a b then b else a) = BitVec.ofNat 32 (max a.toNat b.toNat) := by
  by_cases h : a.toNat < b.toNat
  · simp [Kx.sltu, h, max_eq_right h.le]
  · simp [Kx.sltu, h, max_eq_left (not_lt.mp h)]

theorem upper_half (imm : BitVec 16) : imm.setWidth 32 <<< 16 = BitVec.ofNat 32 (imm.toNat * 2 ^ 16) := by
  apply BitVec.eq_of_toNat_eq
  simp [Nat.shiftLeft_eq]

theorem toInt_signExtend_imm (imm : BitVec 16) : (imm.signExtend 32).toInt = imm.toInt :=
  BitVec.toInt_signExtend_of_le (by decide)

/-! ### Counts of bits (R163) -/

/-- The zeros above the highest one bit, counted from the top. -/
theorem clz_toNat (a : Word) : (Kx.clz a).toNat = (List.range 32).findIdx (fun i => a.getLsbD (31 - i)) := by
  have hle : (List.range 32).findIdx (fun i => a.getLsbD (31 - i)) ≤ 32 := by simpa using List.findIdx_le_length (xs := List.range 32)
  unfold Kx.clz
  rw [List.takeWhile_eq_take_findIdx_not, List.length_take]
  simp only [Bool.not_not, List.length_range, BitVec.toNat_ofNat]
  omega

theorem clz_counts (a : Word) : (Kx.clz a).toNat ≤ 32 ∧
    (∀ j, 32 - (Kx.clz a).toNat ≤ j → j < 32 → a.getLsbD j = false) ∧
    ((Kx.clz a).toNat < 32 → a.getLsbD (31 - (Kx.clz a).toNat) = true) := by
  rw [clz_toNat]
  refine ⟨by simpa using List.findIdx_le_length (xs := List.range 32), fun j hj hlt => ?_, fun h => ?_⟩
  · have hzero := List.not_of_lt_findIdx (xs := List.range 32) (p := fun i => a.getLsbD (31 - i)) (i := 31 - j) (by omega)
    simpa [show 31 - (31 - j) = j by omega] using hzero
  · have hone := List.findIdx_getElem (xs := List.range 32) (p := fun i => a.getLsbD (31 - i)) (w := by simpa using h)
    rwa [List.getElem_range] at hone

theorem popc_counts (a : Word) : Kx.popc a = BitVec.ofNat 32 ((List.range 32).countP (fun j => a.getLsbD j)) := by
  rw [List.countP_eq_length_filter]
  rfl

/-! ### Accumulators as the word registers take them (R163, R166) -/

theorem acc_low (v : BitVec 72) : v.setWidth 32 = BitVec.ofNat 32 v.toNat := (BitVec.ofNat_toNat 32 v).symm

theorem acc_middle (v : BitVec 72) : (v >>> 32).setWidth 32 = BitVec.ofNat 32 (v.toNat / 2 ^ 32) := by
  rw [← BitVec.ofNat_toNat, BitVec.toNat_ushiftRight, Nat.shiftRight_eq_div_pow]

/-- The guard byte, sign-extended: the top byte of a 72-bit number is its quotient by 2^64. -/
theorem acc_guard (v : BitVec 72) : ((v >>> 64).setWidth 8).signExtend 32 = BitVec.ofInt 32 (v.toInt / 2 ^ 64) := by
  have hv := v.isLt
  have htop : ((v >>> 64).setWidth 8).toInt = v.toInt / 2 ^ 64 := by
    simp only [BitVec.toInt_eq_toNat_cond, BitVec.toNat_setWidth, BitVec.toNat_ushiftRight, Nat.shiftRight_eq_div_pow]
    split <;> split <;> omega
  rw [← htop]
  rfl

/-! ### Pending writes (R165, R166) -/

section
variable {x : Core} {v : BitVec 72} {n k : Nat} {o : Bool} (hpend : x.pend = [])
include hpend

/-- A product does not show before its latency has passed. -/
theorem push_age_before (h : k < n) : ((x.push .mlohi v n o).age k).mlo = x.mlo ∧ ((x.push .mlohi v n o).age k).mhi = x.mhi ∧
    ((x.push .mlohi v n o).age k).ovf = x.ovf := by
  have hleft : n - k ≠ 0 := by omega
  simp [Core.age, Core.push, hpend, hleft]

/-- A product shows, with its OVF, once its latency has passed. -/
theorem push_age_after (h : n ≤ k) : ((x.push .mlohi v n o).age k).mlo = v.setWidth 32 ∧
    ((x.push .mlohi v n o).age k).mhi = (v >>> 32).setWidth 32 ∧ ((x.push .mlohi v n o).age k).ovf = (x.ovf || o) := by
  have hleft : n - k = 0 := by omega
  simp [Core.age, Core.push, hpend, hleft, Core.applyPend]

end

/-- The newest write of an accumulator is its addend. -/
theorem addend_push (x : Core) (a : Nat) (v : BitVec 72) (n : Nat) (o : Bool) : (x.push (.acc a) v n o).addend a = v := by
  simp [Core.addend, Core.push, List.filter_append]

/-- Settles O6: each instruction's result by the value that it writes; a product by the age of its pending write. -/
theorem wordInstructions : Obligations.WordInstructions := by
  unfold Obligations.WordInstructions
  refine ⟨fun s c rd ra rb imm amt => ?table, fun s c rd ra => ⟨?clz, ?popc⟩, fun s c rd ra rb a => ?registers, fun x v n k o hpend _ => ?product,
    addend_push⟩
  case table =>
    exact ⟨toReg_word rfl fun _ => rfl, toReg_word rfl fun _ => rfl, toReg_word rfl fun _ => rfl,
      toReg_word rfl fun _ => rfl, toReg_word rfl fun _ => rfl, toReg_word rfl fun _ => rfl,
      toReg_word rfl fun x => shift_left_low (x.getW ra) (x.getW rb),
      toReg_word rfl fun x => shift_right_low (x.getW ra) (x.getW rb),
      toReg_word rfl fun x => by rw [toNat_and_thirtyOne]; rfl,
      toReg_word rfl fun x => by rw [toNat_and_thirtyOne]; rfl,
      toReg_word rfl fun x => bool_slt (x.getW ra) (x.getW rb),
      toReg_word rfl fun x => bool_sltu (x.getW ra) (x.getW rb),
      toReg_word rfl fun x => min_slt (x.getW ra) (x.getW rb),
      toReg_word rfl fun x => max_slt (x.getW ra) (x.getW rb),
      toReg_word rfl fun x => min_sltu (x.getW ra) (x.getW rb),
      toReg_word rfl fun x => max_sltu (x.getW ra) (x.getW rb),
      toReg_word rfl fun _ => rfl, toReg_word rfl fun _ => rfl, toReg_word rfl fun _ => rfl, toReg_word rfl fun _ => rfl,
      toReg_word rfl fun _ => upper_half imm,
      toReg_word rfl fun x => by rw [bool_slt, toInt_signExtend_imm],
      toReg_word rfl fun x => bool_sltu (x.getW ra) (imm.signExtend 32),
      toReg_word rfl fun _ => rfl, toReg_word rfl fun _ => rfl, toReg_word rfl fun _ => rfl, toReg_word rfl fun _ => rfl⟩
  case clz => exact toReg_describes rfl fun x => clz_counts (x.getW ra)
  case popc => exact toReg_word rfl fun x => popc_counts (x.getW ra)
  case registers =>
    exact ⟨toReg_word rfl fun _ => rfl, toReg_word rfl fun _ => rfl, toReg_word rfl fun x => acc_low (x.getAcc a),
      toReg_word rfl fun x => acc_middle (x.getAcc a), toReg_word rfl fun x => acc_guard (x.getAcc a), plain_core rfl fun _ => rfl,
      plain_core rfl fun _ => rfl⟩
  case product => exact ⟨push_age_before hpend, push_age_after hpend⟩

end Sys2Proof.Machine
end

section
/-! Proofs: saturation, wrapping and OVF of the fixed-point instructions, and the rounding of ACCEX (O7, O8). -/

namespace Sys2Proof.Machine

open Sys2Proof Sys2Proof.Bits

/-! ### Exact results brought into a width (R168) -/

/-- The nearer bound or the low bits, with the flag of a value out of range. -/
theorem limit_eq (w : Nat) (sat : Bool) (v : Int) : Kx.limit w sat v = (limited w sat v, outside w v) := by
  have hpos : (1 : Int) ≤ 2 ^ (w - 1) := one_le_pow₀ (by decide)
  unfold Kx.limit limited outside
  push_cast
  by_cases hlow : v < -2 ^ (w - 1)
  · have hclamp : max (-2 ^ (w - 1)) (min v (2 ^ (w - 1) - 1)) = (-2 ^ (w - 1) : Int) := by omega
    cases sat <;> simp [hlow, hclamp]
  by_cases hhigh : 2 ^ (w - 1) - 1 < v
  · have hclamp : max (-2 ^ (w - 1)) (min v (2 ^ (w - 1) - 1)) = (2 ^ (w - 1) - 1 : Int) := by omega
    cases sat <;> simp [hlow, hhigh, hclamp]
  · have hclamp : max (-2 ^ (w - 1)) (min v (2 ^ (w - 1) - 1)) = v := by omega
    cases sat <;> simp [hlow, hhigh, hclamp]

/-- A product of which one factor is not the least word stays within 63 bits. -/
theorem product_inside {p q : Int} (hp : -2 ^ 31 < p) (hp' : p < 2 ^ 31) (hq : -2 ^ 31 ≤ q) (hq' : q < 2 ^ 31) :
    -2 ^ 62 < p * q ∧ p * q < 2 ^ 62 := by
  have hp1 : |p| ≤ 2 ^ 31 - 1 := abs_le.mpr ⟨by omega, by omega⟩
  have hq1 : |q| ≤ 2 ^ 31 := abs_le.mpr ⟨by omega, by omega⟩
  have hpq : |p * q| ≤ (2 ^ 31 - 1) * 2 ^ 31 := abs_mul p q ▸ mul_le_mul hp1 hq1 (abs_nonneg q) (by decide)
  have hbounds := abs_le.mp hpq
  omega

theorem toInt_bounds (a : Word) : -2 ^ 31 ≤ a.toInt ∧ a.toInt < 2 ^ 31 := ⟨BitVec.le_toInt a, BitVec.toInt_lt⟩

theorem toInt_least {a : Word} : a.toInt = -2 ^ 31 ↔ a = 0x80000000 :=
  ⟨fun h => BitVec.eq_of_toInt_eq h, fun h => h ▸ rfl⟩

/-- The Q1.63 product leaves its range for the square of -1 alone. -/
theorem outside_product (a b : Word) : outside 64 (2 * a.toInt * b.toInt) = (a == 0x80000000 && b == 0x80000000) := by
  have ha := toInt_bounds a
  have hb := toInt_bounds b
  by_cases hboth : a = 0x80000000 ∧ b = 0x80000000
  · rw [hboth.1, hboth.2]
    decide
  · have hinside : -2 ^ 62 < a.toInt * b.toInt ∧ a.toInt * b.toInt < 2 ^ 62 := by
      rw [not_and_or, ← toInt_least, ← toInt_least] at hboth
      rcases hboth with hne | hne
      · exact product_inside (by omega) ha.2 hb.1 hb.2
      · exact mul_comm b.toInt a.toInt ▸ product_inside (by omega) hb.2 ha.1 ha.2
    have hfalse : (a == 0x80000000 && b == 0x80000000) = false := by simpa using hboth
    rw [hfalse, mul_assoc]
    simp only [outside, Bool.or_eq_false_iff, decide_eq_false_iff_not]
    omega

/-! ### Shapes of instruction -/

section
variable {i : Instr} {s : State} {c : CoreId} {rd ra rb : Fin 32} {a : Fin 4}

/-- A word result that is limited, with its OVF. -/
theorem toRegOvf_limits {g : Core → Word × Bool} {v : Core → Int} (hi : exec i s = done (toRegOvf s c rd g))
    (hv : ∀ x, g x = Kx.limit 32 x.sat (v x)) :
    CoreRuns i s c (fun x => ({ x with w := Map.set 0 x.w rd (limited 32 x.sat (v x)), ovf := x.ovf || outside 32 (v x) }).next) :=
  plain_core hi fun x => by
    rw [hv, limit_eq]
    rfl

/-- A product, which takes effect after three issue slots. -/
theorem mulOp_pushes {f : Core → Word → Word → BitVec 64 × Bool} {v : Core → BitVec 64} {o : Core → Bool}
    (hi : exec i s = done (mulOp s c ra rb f)) (hf : ∀ x, f x (x.getW ra) (x.getW rb) = (v x, o x)) :
    CoreRuns i s c (fun x => ({ x with pend := x.pend ++ [PendWrite.mk .mlohi ((v x).setWidth 72) 3 (o x)] }).next) :=
  plain_core hi fun x => by
    rw [hf]
    rfl

/-- An accumulation onto the newest write, which takes effect after four issue slots. -/
theorem macOp_pushes {f : Word → Word → Int} (hi : exec i s = done (macOp s c a ra rb f)) :
    CoreRuns i s c (fun x =>
      let v := (x.addend a).toInt + f (x.getW ra) (x.getW rb)
      ({ x with pend := x.pend ++ [PendWrite.mk (.acc a) (limited 72 x.sat v) 4 (outside 72 v)] }).next) :=
  plain_core hi fun x => by
    rw [limit_eq]
    rfl

end

/-- Settles O7: a limited result by its bounds, in the shape of instruction that writes it. -/
theorem fixedPointLimits : Obligations.FixedPointLimits := by
  unfold Obligations.FixedPointLimits
  intro s c rd ra rb a imm
  refine ⟨?mulf, toRegOvf_limits rfl fun _ => rfl, toRegOvf_limits rfl fun _ => rfl, toRegOvf_limits rfl fun _ => rfl,
    toRegOvf_limits rfl fun x => by rw [Int.abs_eq_natAbs], fun i f hif => macOp_pushes ?mac, mulOp_pushes rfl fun _ => rfl,
    mulOp_pushes rfl fun _ => rfl, toReg_word rfl fun _ => rfl, toReg_word rfl fun _ => rfl, toReg_word rfl fun _ => rfl⟩
  case mulf =>
    exact mulOp_pushes (v := fun x => limited 64 x.sat (2 * (x.getW ra).toInt * (x.getW rb).toInt))
      (o := fun x => x.getW ra == 0x80000000 && x.getW rb == 0x80000000) rfl fun x => by
        rw [← outside_product]
        exact limit_eq 64 x.sat _
  case mac => rcases hif with ⟨rfl, rfl⟩ | ⟨rfl, rfl⟩ | ⟨rfl, rfl⟩ | ⟨rfl, rfl⟩ | ⟨rfl, rfl⟩ <;> rfl

/-! ### Rounding (R169) -/

/-- Half to even: up beyond the half, and at the half from an odd number. -/
theorem round_half_even (d twice f : Int) :
    (if d < twice then f + 1 else if twice = d then (if f % 2 = 0 then f else f + 1) else f) =
      if d < twice ∨ (twice = d ∧ f % 2 = 1) then f + 1 else f := by
  split_ifs <;> omega

theorem roundQ_eq (mode : BitVec 2) (acc : Int) (k : Nat) : Kx.roundQ mode acc k = rounded mode acc k := by
  unfold Kx.roundQ rounded
  push_cast
  match mode with
  | 0#2 => rfl
  | 1#2 => rfl
  | 2#2 => exact round_half_even _ _ _
  | 3#2 => rfl

/-- Settles O8: the rounding of each mode, limited as the fixed-point results are. -/
theorem accumulatorExtractRounds : Obligations.AccumulatorExtractRounds := by
  unfold Obligations.AccumulatorExtractRounds
  exact fun s c rd a k => toRegOvf_limits rfl fun x => congrArg (Kx.limit 32 x.sat) (roundQ_eq x.rnd (x.getAcc a).toInt k)

end Sys2Proof.Machine
end

section
/-! Proofs: the decimal instructions (O9). -/

namespace Sys2Proof.Machine

open Sys2Proof Sys2Proof.Bits

/-! ### Digits of a number -/

/-- A digit below position k is a digit of the number's low k digits. -/
theorem mod_pow_digit {b k j : Nat} (h : j < k) (n : Nat) : n % b ^ k / b ^ j % b = n / b ^ j % b := by
  obtain ⟨m, rfl⟩ : ∃ m, k = j + (m + 1) := ⟨k - j - 1, by omega⟩
  rw [Nat.pow_add, Nat.mod_mul_right_div_self, Nat.pow_succ, Nat.mod_mul_left_mod]

/-- The number of given hexadecimal digits, the least significant first. -/
def hexValue (d : Nat → Nat) (k : Nat) : Nat := ((List.range k).map (fun i => d i * 16 ^ i)).sum

theorem hexValue_succ (d : Nat → Nat) (k : Nat) : hexValue d (k + 1) = d 0 + 16 * hexValue (fun i => d (i + 1)) k := by
  unfold hexValue
  rw [List.range_succ_eq_map, List.map_cons, List.sum_cons, List.map_map, ← List.sum_map_mul_left]
  simp [Function.comp_def, Nat.pow_succ, Nat.mul_left_comm, Nat.mul_comm]

theorem hexValue_digit (d : Nat → Nat) (hd : ∀ i, d i < 16) {k j : Nat} (h : j < k) : hexValue d k / 16 ^ j % 16 = d j := by
  induction k generalizing d j with
  | zero => omega
  | succ k ih =>
    have hd0 := hd 0
    rw [hexValue_succ]
    cases j with
    | zero => simp; omega
    | succ j =>
      have hdiv : (d 0 + 16 * hexValue (fun i => d (i + 1)) k) / 16 = hexValue (fun i => d (i + 1)) k := by omega
      rw [Nat.pow_succ, Nat.mul_comm (16 ^ j), ← Nat.div_div_eq_div_mul, hdiv]
      exact ih (fun i => d (i + 1)) (fun i => hd (i + 1)) (by omega)

/-- The low k decimal digits of a number are worth the number modulo 10^k. -/
theorem decValue_digits (k n : Nat) : Kx.decValue ((List.range k).map (fun i => n / 10 ^ i % 10)) = n % 10 ^ k := by
  induction k generalizing n with
  | zero => simp [Kx.decValue, Nat.mod_one]
  | succ k ih =>
    have htail : (fun i => n / 10 ^ i % 10) ∘ Nat.succ = fun i => n / 10 / 10 ^ i % 10 := by
      funext i
      rw [Function.comp_apply, Nat.div_div_eq_div_mul, Nat.pow_succ, Nat.mul_comm]
    rw [List.range_succ_eq_map, List.map_cons, List.map_map, htail, Kx.decValue, ih, Nat.pow_succ, Nat.mul_comm (10 ^ k), Nat.mod_mul]
    simp

/-! ### Words in packed BCD (R170) -/

theorem wordNib_ofNat (n : Nat) {j : Nat} (h : j < 8) : wordNib (BitVec.ofNat 32 n) j = n / 16 ^ j % 16 :=
  mod_pow_digit (b := 16) h n

theorem wordNib_packedBcd (n : Nat) {j : Nat} (h : j < 8) : wordNib (packedBcd n) j = n / 10 ^ j % 10 := by
  have hdigit : ∀ i, n / 10 ^ i % 10 < 16 := fun i => by omega
  exact (wordNib_ofNat _ h).trans (hexValue_digit (fun i => n / 10 ^ i % 10) hdigit h)

theorem toBcd_eq (n : Nat) : Kx.toBcd n = packedBcd n := rfl

/-- Packed BCD holds a number's low eight digits. -/
theorem packedBcd_mod (n : Nat) : packedBcd (n % 10 ^ 8) = packedBcd n := by
  unfold packedBcd
  rw [List.map_congr_left fun i hi => by rw [mod_pow_digit (List.mem_range.mp hi)]]

theorem digits_eq (a : Word) : Kx.digits a = (List.range 8).map (wordNib a) := by
  have hwidth : ∀ i, 4 * i + 3 + 1 - 4 * i = 4 := fun i => by omega
  unfold Kx.digits bits wordNib
  simp only [hwidth, Nat.pow_mul]
  rfl

theorem decValue_packedBcd {n : Nat} (h : n < 10 ^ 8) : Kx.decValue (Kx.digits (packedBcd n)) = n := by
  rw [digits_eq, List.map_congr_left fun j hj => wordNib_packedBcd n (List.mem_range.mp hj), decValue_digits, Nat.mod_eq_of_lt h]

theorem isBcd_iff (a : Word) : Kx.isBcd a = true ↔ ∀ j < 8, wordNib a j ≤ 9 := by simp [Kx.isBcd, digits_eq]

theorem isBcd_packedBcd (n : Nat) : Kx.isBcd (packedBcd n) = true := by
  rw [isBcd_iff]
  intro j hj
  rw [wordNib_packedBcd n hj]
  omega

theorem isBcd_false {a : Word} {j : Nat} (hj : j < 8) (h : 9 < wordNib a j) : Kx.isBcd a = false := by
  by_contra hbcd
  have hle := (isBcd_iff a).mp (by simpa using hbcd) j hj
  omega

theorem isBcd_and_false {a b : Word} (h : ∃ j < 8, 9 < wordNib a j ∨ 9 < wordNib b j) : (Kx.isBcd a && Kx.isBcd b) = false := by
  obtain ⟨j, hj, ha | hb⟩ := h
  · rw [isBcd_false hj ha, Bool.false_and]
  · rw [isBcd_false hj hb, Bool.and_false]

section
variable {m n : Nat} (hm : m < 10 ^ 8) (hn : n < 10 ^ 8)
include hm hn

theorem bcdAdd_packed : Kx.bcdAdd (packedBcd m) (packedBcd n) = packedBcd ((m + n) % 10 ^ 8) := by
  unfold Kx.bcdAdd
  rw [isBcd_packedBcd, isBcd_packedBcd, decValue_packedBcd hm, decValue_packedBcd hn, packedBcd_mod, toBcd_eq, Bool.and_self, if_pos rfl]

theorem bcdSub_packed : Kx.bcdSub (packedBcd m) (packedBcd n) = packedBcd ((m + 10 ^ 8 - n) % 10 ^ 8) := by
  unfold Kx.bcdSub
  rw [isBcd_packedBcd, isBcd_packedBcd, decValue_packedBcd hm, decValue_packedBcd hn, packedBcd_mod, toBcd_eq, Bool.and_self, if_pos rfl]

end

theorem bcdToBin_packed {m : Nat} (hm : m < 10 ^ 8) : Kx.bcdToBin (packedBcd m) = BitVec.ofNat 32 m := by
  unfold Kx.bcdToBin
  rw [isBcd_packedBcd, decValue_packedBcd hm, if_pos rfl]

/-! ### Nibble by nibble (R170) -/

/-- The nibbles of a word's four bytes, in the numbering of R79, by their places in the word. -/
def nibPlaces : List Nat := [1, 0, 3, 2, 5, 4, 7, 6]

theorem byte_high (v k : Nat) : v / 256 ^ k % 256 / 16 = v / 16 ^ (2 * k + 1) % 16 := by
  rw [Nat.pow_succ, Nat.pow_mul, ← Nat.div_div_eq_div_mul]
  exact Nat.mod_mul_right_div_self (v / 256 ^ k) 16 16

theorem byte_low (v k : Nat) : v / 256 ^ k % 256 % 16 = v / 16 ^ (2 * k) % 16 := by
  rw [Nat.pow_mul]
  exact Nat.mod_mul_left_mod (v / 256 ^ k) 16 16

theorem nibs_word (a : Word) : nibs (le 4 a.toNat) = nibPlaces.map (wordNib a) := by
  have hbyte : ∀ k, [(BitVec.ofNat 8 (a.toNat / 256 ^ k)).toNat / 16, (BitVec.ofNat 8 (a.toNat / 256 ^ k)).toNat % 16] =
      [wordNib a (2 * k + 1), wordNib a (2 * k)] := fun k => congrArg₂ (fun x y => [x, y]) (byte_high a.toNat k) (byte_low a.toNat k)
  unfold nibs
  rw [le_eq_map, List.flatMap_map]
  simp only [hbyte]
  rfl

theorem ofLe_ofNibs_cons {a b : Nat} (ha : a < 16) (hb : b < 16) (r : List Nat) :
    ofLe (ofNibs (a :: b :: r)) = b + 16 * (a + 16 * ofLe (ofNibs r)) := by
  rw [ofNibs, ofLe, BitVec.toNat_ofNat, Nat.mod_eq_of_lt ha, Nat.mod_eq_of_lt hb]
  omega

theorem ofLe_ofNibs_places (d : Nat → Nat) (hd : ∀ i, d i < 16) : ofLe (ofNibs (nibPlaces.map d)) = hexValue d 8 := by
  simp only [nibPlaces, List.map_cons, ofLe_ofNibs_cons (hd _) (hd _), hexValue_succ]
  rfl

/-- A word whose nibbles are listed has them at their places. -/
theorem wordNib_ofNibs (d : Nat → Nat) (hd : ∀ i, d i < 16) {j : Nat} (h : j < 8) :
    wordNib (BitVec.ofNat 32 (ofLe (ofNibs (nibPlaces.map d)))) j = d j := by
  rw [wordNib_ofNat _ h, ofLe_ofNibs_places d hd, hexValue_digit d hd h]

theorem nib_lt (bs : Bytes) (j : Nat) : nib bs j < 16 := by
  have hbyte := (byteAt bs (j / 2)).isLt
  unfold nib
  dsimp only
  split <;> omega

theorem nibOp_lt (sub : Bool) (a b : Nat) : Kx.nibOp sub a b < 16 := by
  unfold Kx.nibOp
  split_ifs <;> omega

theorem wordNib_nibWord (sub : Bool) (a b : Word) {j : Nat} (h : j < 8) :
    wordNib (Kx.nibWord sub a b) j = Kx.nibOp sub (wordNib a j) (wordNib b j) := by
  unfold Kx.nibWord Kx.zipNibs
  rw [nibs_word, nibs_word]
  exact wordNib_ofNibs (fun i => Kx.nibOp sub (wordNib a i) (wordNib b i)) (fun i => nibOp_lt sub _ _) h

theorem wordNib_dtLook (dt : BitVec 64) (a : Word) {j : Nat} (h : j < 8) :
    wordNib (Kx.dtLook dt a) j = nib (le 8 dt.toNat) (wordNib a j) := by
  unfold Kx.dtLook Kx.mapNibs
  rw [nibs_word]
  exact wordNib_ofNibs (fun i => nib (le 8 dt.toNat) (wordNib a i)) (fun i => nib_lt _ _) h

/-! ### The decimalization register (R159, R170) -/

theorem withDt_eq {c : CoreId} (hc : c ≠ .scarecrow) (s : State) (f : Core → Core) : withDt s c f = plain s c f := by
  unfold withDt plain
  simp only [hc, if_false]

theorem dt_words (hi lo : Word) : (hi ++ lo : BitVec 64) = BitVec.ofNat 64 (lo.toNat + hi.toNat * 2 ^ 32) := by
  have hhi := hi.isLt
  have hlo := lo.isLt
  apply BitVec.eq_of_toNat_eq
  rw [BitVec.toNat_append, ← Nat.shiftLeft_add_eq_or_of_lt hlo, BitVec.toNat_ofNat, Nat.shiftLeft_eq]
  omega

/-- Settles O9: each instruction's result as the word with the stated digits or nibbles. -/
theorem decimalArithmetic : Obligations.DecimalArithmetic := by
  unfold Obligations.DecimalArithmetic
  intro s c rd ra rb
  refine ⟨toReg_describes rfl fun x => ⟨fun m n hm hn ha hb => ?_, fun hbad => ?_⟩,
    toReg_describes rfl fun x => ⟨fun m n hm hn ha hb => ?_, fun hbad => ?_⟩,
    toReg_describes rfl fun x j hj => wordNib_nibWord false _ _ hj, toReg_describes rfl fun x j hj => wordNib_nibWord true _ _ hj,
    toReg_describes rfl fun x => ⟨fun m hm ha => ?_, fun ⟨j, hj, hbad⟩ => ?_⟩, toReg_word rfl fun _ => rfl,
    toReg_describes rfl fun x => ?_, fun hc => ⟨?dtlook, ?dtset⟩⟩
  · rw [ha, hb, bcdAdd_packed hm hn]
  · exact if_neg (by rw [isBcd_and_false hbad]; decide)
  · rw [ha, hb, bcdSub_packed hm hn]
  · exact if_neg (by rw [isBcd_and_false hbad]; decide)
  · rw [ha, bcdToBin_packed hm]
  · exact if_neg (by rw [isBcd_false hj hbad]; decide)
  · have hfin : Kx.isBcd (x.getW ra) = true ↔ ∀ j : Fin 8, wordNib (x.getW ra) j ≤ 9 := by
      rw [isBcd_iff, Fin.forall_iff]
    unfold Kx.bool
    simp only [hfin]
  case dtlook =>
    have hexec : exec (.kxDtlook c rd ra) s = done (toReg s c rd (fun x => Kx.dtLook x.dt (x.getW ra))) :=
      congrArg done (withDt_eq hc s _)
    exact toReg_describes hexec fun x j hj => wordNib_dtLook _ _ hj
  case dtset =>
    have hexec : exec (.kxDtset c ra rb) s = done (plain s c (fun x => { x with dt := (x.getW rb) ++ (x.getW ra), dtLoaded := true })) :=
      congrArg done (withDt_eq hc s _)
    exact plain_core hexec fun x => by rw [dt_words]

end Sys2Proof.Machine
end

section
/-! Proofs: loads and stores of the local data space, and the faults of a data access (O10). -/

namespace Sys2Proof.Machine

open Sys2Proof Sys2Proof.Bits

/-! ### What an instruction finds -/

/-- An instruction on the state that it finds. -/
theorem exists_atIssue {i : Instr} {s : State} {c : CoreId} {k : State → Core → State} (hi : exec i s = done (issue s c k))
    (hissue : Issues s c) : ∃ u, AtIssue s c u ∧ exec i s = done (k u (u.core c.num)) := by
  obtain ⟨u, hu, hrun⟩ := issue_atIssue hissue
  exact ⟨u, hu, by rw [hi, hrun]⟩

section
variable {s u : State} {c : CoreId} (hu : AtIssue s c u)
include hu

theorem AtIssue.getW (r : Nat) : (u.core c.num).getW r = (s.core c.num).getW r := by rw [hu.2.same]; rfl

theorem AtIssue.rstack : (u.core c.num).rstack = (s.core c.num).rstack := by rw [hu.2.same]

theorem AtIssue.lstack : (u.core c.num).lstack = (s.core c.num).lstack := by rw [hu.2.same]

theorem AtIssue.dev : u.dev = s.dev := hu.congr (fun t => t.dev) (fun _ _ _ => rfl)

/-- The address of a load or store is that of the registers before it. -/
theorem AtIssue.dataAddr (ra : Fin 32) (imm : BitVec 16) :
    ((u.core c.num).getW ra + imm.signExtend 32).toNat = Machine.dataAddr (s.core c.num) ra imm := by
  rw [hu.getW]
  rfl

end

/-! ### Where an access lands (R159, R164) -/

section
variable {c : CoreId} {a n : Nat} (s : State) (write : Bool)

theorem dataAt_misaligned (h : a % n ≠ 0) : dataAt s c a n write = .bad .misaligned := if_pos h

theorem dataAt_local (halign : a % n = 0) (h : a < localEnd c) : dataAt s c a n write = .localMem a := by
  refine (if_neg (not_not_intro halign)).trans ?_
  cases c with
  | tu k => exact if_pos h
  | wardenA => exact if_pos h
  | wardenB => exact if_pos h
  | scarecrow => exact if_pos h

theorem dataAt_tu_unmapped {k : Fin 2048} (halign : a % n = 0) (h : 0x4000 ≤ a) : dataAt s (.tu k) a n write = .bad .unmapped :=
  (if_neg (not_not_intro halign)).trans (if_neg (not_lt.mpr h))

/-- Beyond the scarecrow's data space only the sensor-history ring is mapped. -/
theorem dataAt_scarecrow_unmapped (halign : a % n = 0) (h : 0x4000 ≤ a) (hring : a < 0x10000 ∨ 0x20000 ≤ a) :
    dataAt s .scarecrow a n write = .bad .unmapped :=
  (if_neg (not_not_intro halign)).trans ((if_neg (not_lt.mpr h)).trans (if_neg (by omega)))

/-- Between a warden's data space and its aperture nothing is mapped. -/
theorem dataAt_warden_unmapped (hc : c.warden ≠ none) (halign : a % n = 0) (h : 0x80000 ≤ a) (haperture : a < 0xF0000000) :
    dataAt s c a n write = .bad .unmapped := by
  refine (if_neg (not_not_intro halign)).trans ?_
  cases c with
  | tu k => exact absurd rfl hc
  | scarecrow => exact absurd rfl hc
  | wardenA => exact (if_neg (not_lt.mpr h)).trans (if_pos haperture)
  | wardenB => exact (if_neg (not_lt.mpr h)).trans (if_pos haperture)

end

/-! ### Loads and stores (R163) -/

section
variable {i : Instr} {s : State} {c : CoreId} {rd ra : Fin 32} {imm : BitVec 16} {n : Nat}

/-- A load whose address lies in the local data space reads its bytes there. -/
theorem load_loadsLocal {f : Nat → Word} (hi : exec i s = done (load s c rd ra imm n f)) (hn : 0 < n) :
    LoadsLocal i s c rd ra imm n f := by
  intro halign hend hgood
  refine coreRuns_of_atIssue fun hissue => ?_
  obtain ⟨u, hu, hexec⟩ := exists_atIssue hi hissue
  refine ⟨u, hu, hexec.trans (congrArg done ?_)⟩
  dsimp only
  rw [hu.dataAddr, dataAt_local u false halign (Nat.lt_of_lt_of_le (Nat.lt_add_of_pos_right hn) hend)]
  cases c with
  | tu k =>
    dsimp only
    rw [readUnit_good hu.dev (hgood k rfl)]
    rfl
  | wardenA => rfl
  | wardenB => rfl
  | scarecrow => rfl

/-- The data space after a local write: the bytes written from the address on. -/
theorem localWrite_mem (x : Core) (a : Nat) (bs : Bytes) : (localWrite x a bs).mem = overlaid (fun _ => True) x.mem a bs := rfl

theorem localWrite_get (x : Core) (a n v b : Nat) : Map.get 0 (localWrite x a (le n v)).mem b =
    if a ≤ b ∧ b < a + n then BitVec.ofNat 8 (v / 256 ^ (b - a)) else Map.get 0 x.mem b := by
  rw [localWrite_mem, overlaid_get, length_le_bytes]
  by_cases hb : a ≤ b ∧ b < a + n
  · rw [if_pos ⟨hb, trivial⟩, if_pos hb, le_eq_map, List.getD_eq_getElem _ _ (by simp; omega)]
    simp
  · rw [if_neg (fun h => hb h.1), if_neg hb]

/-- A store whose address lies in the local data space writes its bytes there. -/
theorem store_storesLocal (hi : exec i s = done (store s c rd ra imm n)) (hn : 0 < n) : StoresLocal i s c rd ra imm n := by
  intro halign hend hissue
  obtain ⟨u, hu, hexec⟩ := exists_atIssue hi hissue
  dsimp only at hexec
  rw [hu.dataAddr, dataAt_local u true halign (Nat.lt_of_lt_of_le (Nat.lt_add_of_pos_right hn) hend)] at hexec
  let y := localWrite (u.core c.num) (dataAddr (s.core c.num) ra imm) (le n ((u.core c.num).getW rd).toNat)
  have hwrite : exec i s = done (u.setCore c.num y.next) :=
    hexec.trans (congrArg done (goOn_modCore (f := fun _ => y) (hu.phase.trans hissue.1)))
  refine ⟨u.core c.num, y.mem, hu.2, fun k hk => ?_, fun b hb => ?_, runs_of_exec hwrite ⟨hu.1.put _, State.setCore_self _ _ _⟩⟩
  · rw [localWrite_get, if_pos ⟨Nat.le_add_right _ _, Nat.add_lt_add_left hk _⟩, Nat.add_sub_cancel_left]
  · rw [localWrite_get, if_neg (by omega)]

/-! ### Faults (R164, R175) -/

/-- A data access faults where its address does. -/
theorem access_faults {f : KxFault} (hi : (∃ g, exec i s = done (load s c rd ra imm n g)) ∨ exec i s = done (store s c rd ra imm n))
    (hbad : ∀ u write, dataAt u c (dataAddr (s.core c.num) ra imm) n write = .bad f) (hissue : Issues s c) :
    ∃ u, AtIssue s c u ∧ exec i s = done (kxFault u c f) := by
  rcases hi with ⟨g, haccess⟩ | haccess
  all_goals
    obtain ⟨u, hu, hexec⟩ := exists_atIssue haccess hissue
    dsimp only at hexec
    rw [hu.dataAddr, hbad] at hexec
    exact ⟨u, hu, hexec⟩

theorem kxFault_cause (s : State) {c : CoreId} {f : KxFault} {v : Byte} (hc : c.isTu = false) (hf : f.cause = some v) :
    kxFault s c f = takeTrap s c v (s.core c.num).pc := by
  cases c with
  | tu k => cases hc
  | wardenA => simp only [kxFault, hf]
  | wardenB => simp only [kxFault, hf]
  | scarecrow => simp only [kxFault, hf]

/-- A fault with a listed cause is a trap on the W and S variants. -/
theorem fault_traps {f : KxFault} {v : Byte} (h : ∃ u, AtIssue s c u ∧ exec i s = done (kxFault u c f)) (hf : f.cause = some v)
    (hc : c.isTu = false) (htrap : (s.sysCore c.side).inTrap = false) :
    ∃ x, Found s c x ∧ Runs i s (fun t => Trapped s t c x v (s.core c.num).pc) := by
  obtain ⟨u, hu, hexec⟩ := h
  rw [kxFault_cause u hc hf, hu.pc] at hexec
  have htrapped := takeTrap_trapped (s := u) (c := c) (by rwa [hu.sysCore]) v (s.core c.num).pc
  exact ⟨u.core c.num, hu.2, runs_of_exec hexec (htrapped.of_sys (by rw [hu.sysCore]) (by rw [hu.sysCore]))⟩

end

theorem isTu_of_warden {c : CoreId} (hc : c.warden ≠ none) : c.isTu = false := by
  cases c with
  | tu k => exact absurd rfl hc
  | _ => rfl

theorem localEnd_of_warden {c : CoreId} (hc : c.warden ≠ none) : localEnd c = 0x80000 := by
  cases c with
  | tu k => exact absurd rfl hc
  | scarecrow => exact absurd rfl hc
  | wardenA => rfl
  | wardenB => rfl

/-- Settles O10: an access by where its address lands; a fault as the end of the request or the trap that it is. -/
theorem localLoadsAndStores : Obligations.LocalLoadsAndStores := by
  unfold Obligations.LocalLoadsAndStores
  refine ⟨fun s c rd rs ra imm => ⟨load_loadsLocal rfl (by decide), load_loadsLocal rfl (by decide), load_loadsLocal rfl (by decide),
    load_loadsLocal rfl (by decide), load_loadsLocal rfl (by decide), store_storesLocal rfl (by decide), store_storesLocal rfl (by decide),
    store_storesLocal rfl (by decide)⟩, fun s c r ra imm i n hi hissue => ?faults⟩
  case faults =>
    have haccess : (∃ g, exec i s = done (load s c r ra imm n g)) ∨ exec i s = done (store s c r ra imm n) := by
      rcases hi with ⟨rfl | rfl, rfl⟩ | ⟨rfl | rfl | rfl, rfl⟩ | ⟨rfl | rfl | rfl, rfl⟩
      · exact .inl ⟨_, rfl⟩
      · exact .inr rfl
      · exact .inl ⟨_, rfl⟩
      · exact .inl ⟨_, rfl⟩
      · exact .inr rfl
      · exact .inl ⟨_, rfl⟩
      · exact .inl ⟨_, rfl⟩
      · exact .inr rfl
    refine ⟨fun halign => ?misaligned, fun halign hend => ⟨?tu, ?scarecrow, ?warden⟩⟩
    case misaligned =>
      have hfault := access_faults haccess (fun u write => dataAt_misaligned u write halign) hissue
      refine ⟨?_, fault_traps hfault rfl⟩
      rintro k rfl
      exact hfault
    case tu =>
      rintro k rfl
      exact access_faults haccess (fun u write => dataAt_tu_unmapped u write halign hend) hissue
    case scarecrow =>
      rintro rfl hring
      exact fault_traps (access_faults haccess (fun u write => dataAt_scarecrow_unmapped u write halign hend hring) hissue) rfl rfl
    case warden =>
      intro hc haperture
      have hspace : 0x80000 ≤ dataAddr (s.core c.num) ra imm := localEnd_of_warden hc ▸ hend
      exact fault_traps (access_faults haccess (fun u write => dataAt_warden_unmapped u write hc halign hspace haperture) hissue) rfl
        (isTu_of_warden hc)

end Sys2Proof.Machine
end

section
/-! Proofs: branches, jumps, the return stack and hardware loops (O11). -/

namespace Sys2Proof.Machine

open Sys2Proof Sys2Proof.Bits

/-! ### The loop stack (R164) -/

section
variable {x : Core} {l : LoopLevel} {r : List LoopLevel} (h : x.lstack = l :: r)
include h

/-- Inside the innermost body the next address follows. -/
theorem next_inside (hpc : x.pc ≠ l.last) : x.next = { x with pc := x.pc + 4 } := by
  unfold Core.next Core.nextFrom
  rw [h, stepLoops, if_neg hpc, ← h]

/-- After the last instruction of a body with passes left its first one follows. -/
theorem next_again (hpc : x.pc = l.last) (hleft : 1 < l.left) :
    x.next = { x with pc := l.first, lstack := { l with left := l.left - 1 } :: r } := by
  unfold Core.next Core.nextFrom
  rw [h, stepLoops, if_pos hpc, if_pos hleft]

/-- After the last pass the level pops, and the level around it decides. -/
theorem next_popped (hpc : x.pc = l.last) (hleft : l.left ≤ 1) : x.next = ({ x with lstack := r }).next := by
  unfold Core.next Core.nextFrom
  rw [h, stepLoops, if_pos hpc, if_neg (not_lt.mpr hleft)]

end

/-- A loop of count 0 goes on as after its body. -/
theorem loopStart_zero (s : State) (c : CoreId) (x : Core) (n : Nat) :
    loopStart s c x n 0 = s.setCore c.num (x.nextFrom (x.pc + 4 * n)) := by
  unfold loopStart
  exact if_pos rfl

/-- A loop with passes to run and a free level opens the level. -/
theorem loopStart_opens (s : State) (c : CoreId) {x : Core} (n : Nat) {count : Nat} (hcount : count ≠ 0) (hroom : x.lstack.length < 4) :
    loopStart s c x n count = s.setCore c.num { x with
      pc := x.pc + 4
      lstack := { first := x.pc + 4, last := x.pc + 4 * n, left := count } :: x.lstack } :=
  (if_neg hcount).trans (if_neg (not_le.mpr hroom))

/-! ### Transfers and loops (R163, R164) -/

section
variable {s : State} {c : CoreId}

theorem branch_branches {i : Instr} {ra rb : Fin 32} {off : BitVec 16} {p : Word → Word → Prop} [DecidableRel p] {q : Word → Word → Bool}
    (hi : exec i s = done (branch s c ra rb off q)) (hq : ∀ a b, q a b = true ↔ p a b) : Branches i s c ra rb off p :=
  issue_core hi _ fun _ _ _ => if_congr (hq _ _) rfl rfl

/-- A call with room on the return stack pushes the address after it. -/
theorem kxCall_runs (far : BitVec 26) (hroom : (s.core c.num).rstack.length < rstackSize c) : CoreRuns (.kxCall c far) s c (fun x =>
    ({ x with rstack := (x.pc + 4) :: x.rstack }).jump ((((x.pc : Int) + 4 * far.toInt) % 2 ^ 32).toNat)) :=
  coreRuns_of_atIssue fun hissue => by
    obtain ⟨u, hu, hexec⟩ := exists_atIssue (i := .kxCall c far) rfl hissue
    exact ⟨u, hu, hexec.trans (congrArg done (if_neg (by rw [hu.rstack]; exact not_le.mpr hroom)))⟩

/-- A return pops the address it goes to. -/
theorem kxRet_runs {t : Nat} {r : List Nat} (h : (s.core c.num).rstack = t :: r) :
    CoreRuns (.kxRet c) s c (fun x => ({ x with rstack := r }).jump t) :=
  coreRuns_of_atIssue fun hissue => by
    obtain ⟨u, hu, hexec⟩ := exists_atIssue (i := .kxRet c) rfl hissue
    rw [hu.rstack, h] at hexec
    exact ⟨u, hu, hexec⟩

/-- A loop instruction with a count above 0 and a free level opens the level; `count` is read from the core that it finds. -/
theorem loop_opens {i : Instr} {len : BitVec 10} {count : Core → Nat}
    (hi : exec i s = done (issue s c (fun s x => loopStart s c x (len.toNat + 1) (count x)))) (hroom : (s.core c.num).lstack.length < 4)
    (hcount : ∀ u, AtIssue s c u → count (u.core c.num) ≠ 0) : CoreRuns i s c (fun x => { x with
      pc := x.pc + 4
      lstack := { first := x.pc + 4, last := x.pc + 4 * (len.toNat + 1), left := count x } :: x.lstack }) :=
  coreRuns_of_atIssue fun hissue => by
    obtain ⟨u, hu, hexec⟩ := exists_atIssue hi hissue
    exact ⟨u, hu, hexec.trans (congrArg done (loopStart_opens u c _ (hcount u hu) (by rwa [hu.lstack])))⟩

theorem kxLoopi_zero (len : BitVec 10) : CoreRuns (.kxLoopi c len 0) s c (fun x => x.nextFrom (x.pc + 4 * (len.toNat + 1))) :=
  issue_core (f := fun _ x => x.nextFrom (x.pc + 4 * (len.toNat + 1))) rfl _ fun _ _ _ => rfl

end

/-- Settles O11: a branch by its comparison, the stacks by what they hold before the instruction, and a loop's passes by its level. -/
theorem controlFlow : Obligations.ControlFlow := by
  unfold Obligations.ControlFlow
  refine ⟨fun s c ra rb off far len count bound => ⟨?beq, ?bne, ?blt, ?bge, ?bltu, ?bgeu, ?jmp, kxCall_runs far, fun t r => kxRet_runs,
    fun hroom => ⟨fun hcount => ?loopi, fun hcount => ?loopr⟩, kxLoopi_zero len⟩, fun x l r h => ⟨next_inside h, next_again h, next_popped h⟩⟩
  case beq => exact branch_branches rfl fun a b => beq_iff_eq
  case bne => exact branch_branches rfl fun a b => bne_iff_ne
  case blt => exact branch_branches rfl fun a b => decide_eq_true_iff
  case bge => exact branch_branches rfl fun a b => by simp [Kx.slt]
  case bltu => exact branch_branches rfl fun a b => decide_eq_true_iff
  case bgeu => exact branch_branches rfl fun a b => by simp [Kx.sltu]
  case jmp => exact issue_core (f := fun _ x => x.jump (x.target far.toInt)) rfl _ fun _ _ _ => rfl
  case loopi =>
    have hpasses : count.toNat ≠ 0 := fun h => hcount (BitVec.eq_of_toNat_eq h)
    exact loop_opens (count := fun _ => count.toNat) rfl hroom fun _ _ => hpasses
  case loopr =>
    exact loop_opens (count := fun x => min (x.getW ra).toNat bound.toNat) rfl hroom fun u hu => by rwa [hu.getW]

end Sys2Proof.Machine
end

section
/-! Proofs: the writes, streams and endings of the bulk engines (R186 to R193). -/

namespace Sys2Proof.Machine

open Sys2Proof Sys2Proof.Bits

/-! ### An engine written twice -/

section
variable {s : State} {b : Nat} {x y : Bae}

theorem setBae_setBae (hx : x ≠ {}) : (s.setBae b x).setBae b y = s.setBae b y :=
  congrArg (fun m => { s with baes := m }) (set_set hx s.baes b y)

theorem bae_ne_default (h : x.msg.isSome = true) : x ≠ {} := fun hx => by
  rw [hx] at h
  cases h

/-- A change of an engine just given a message: one write. -/
theorem modBae_setBae {f : Bae → Bae} (h : x.msg.isSome = true) : (s.setBae b x).modBae b f = s.setBae b (f x) := by
  unfold State.modBae
  rw [State.setBae_self, setBae_setBae (bae_ne_default h)]

end

/-! ### Streams from and to host memory (R10, R189) -/

/-- From s to t the bulk engines, the requests, the cores and host memory stay. A write of bytes bs at a is a step from `s.hostWrite a bs`. -/
structure KeepsBulk (s t : State) : Prop where
  baes : t.baes = s.baes
  entries : t.entries = s.entries
  cores : t.cores = s.cores
  hostMem : t.hostMem = s.hostMem

theorem TallyOnly.keepsBulk {s t : State} (h : TallyOnly s t) : KeepsBulk s t := by
  rw [h]
  exact ⟨rfl, rfl, rfl, rfl⟩

namespace KeepsBulk

variable {s t u : State}

theorem refl : KeepsBulk s s := ⟨rfl, rfl, rfl, rfl⟩

theorem trans (h : KeepsBulk s t) (k : KeepsBulk t u) : KeepsBulk s u where
  baes := k.baes.trans h.baes
  entries := k.entries.trans h.entries
  cores := k.cores.trans h.cores
  hostMem := k.hostMem.trans h.hostMem

theorem draw (s : State) (w : Nat) : KeepsBulk s (s.draw w).2 := ⟨rfl, rfl, rfl, rfl⟩

theorem hostWrite (h : KeepsBulk s t) (a : Nat) (bs : Bytes) : KeepsBulk (s.hostWrite a bs) (t.hostWrite a bs) where
  baes := h.baes
  entries := h.entries
  cores := h.cores
  hostMem := congrArg (fun m => hostWriteMem m a bs) h.hostMem

theorem bae (h : KeepsBulk s t) (b : Nat) : t.bae b = s.bae b := by
  unfold State.bae
  rw [h.baes]

theorem entry (h : KeepsBulk s t) (e : Nat) : t.entry e = s.entry e := entry_of_entries h.entries e

theorem core (h : KeepsBulk s t) (c : Nat) : t.core c = s.core c := by
  unfold State.core
  rw [h.cores]

theorem hostRead (h : KeepsBulk s t) (o n : Nat) : t.hostRead o n = s.hostRead o n := by
  unfold State.hostRead
  rw [h.hostMem]

end KeepsBulk

theorem bulkWrite_keepsBulk (s : State) (b : Nat) (m : BulkMsg) (bs : Bytes) :
    KeepsBulk (s.hostWrite (m.dst.toNat + m.count) bs) (bulkWrite s b m bs).1 := (perfCount_only _ _ _ _).keepsBulk

theorem bulkRead_keepsBulk (s : State) (b : Nat) (m : BulkMsg) (n : Nat) : KeepsBulk s (bulkRead s b m n).2.2 :=
  (perfCount_only _ _ _ _).keepsBulk

theorem drbgGen_keepsBulk (s : State) (i : Nat) : KeepsBulk s (drbgGen s i 12).2 := by
  have hset : KeepsBulk s (s.setDrbg i ((drbgCall s i 12).2.drbg i)) := ⟨rfl, rfl, rfl, rfl⟩
  rw [drbgGen_call s i 12 (by decide)]
  exact hset.trans (drbgCall_only s i 12).keepsBulk

theorem degrade_keepsBulk (s : State) (c : Nat) (src : BitVec 16) : KeepsBulk s (degrade s c src) := by
  rw [degrade_only s c src]
  exact ⟨rfl, rfl, rfl, rfl⟩

/-! ### What a message becomes as it is processed (R189) -/

section
variable (m : BulkMsg) (aad data : Bytes)

theorem bulkHeader_eq : bulkHeader m aad =
    { m with aadDone := (bulkHeader m aad).aadDone, ctr := (bulkHeader m aad).ctr, acc := (bulkHeader m aad).acc } := by
  unfold bulkHeader
  split
  · rfl
  · split <;> rfl

theorem bulkData_eq : (bulkData m data).2 = { m with pos := (bulkData m data).2.pos, acc := (bulkData m data).2.acc } := by
  unfold bulkData
  dsimp only
  split <;> rfl

end

/-- The output of the next n payload bytes, and the message once it has been processed that far. -/
def processed (s : State) (m : BulkMsg) (n : Nat) : Bytes × BulkMsg :=
  bulkData (bulkHeader m (if m.aadDone then [] else s.hostRead m.aadAddr.toNat m.aadLen)) (s.hostRead (m.src.toNat + m.pos) n)

section
variable (s : State) (m : BulkMsg) (n : Nat)

theorem processed_eq : (processed s m n).2 = { m with
    aadDone := (processed s m n).2.aadDone
    ctr := (processed s m n).2.ctr
    acc := (processed s m n).2.acc
    pos := (processed s m n).2.pos } := by
  unfold processed
  rw [bulkData_eq, bulkHeader_eq]

@[simp] theorem processed_entry : (processed s m n).2.entry = m.entry := by rw [processed_eq]
@[simp] theorem processed_fn : (processed s m n).2.fn = m.fn := by rw [processed_eq]
@[simp] theorem processed_iv : (processed s m n).2.iv = m.iv := by rw [processed_eq]
@[simp] theorem processed_drawn : (processed s m n).2.drawn = m.drawn := by rw [processed_eq]
@[simp] theorem processed_dst : (processed s m n).2.dst = m.dst := by rw [processed_eq]
@[simp] theorem processed_tagLen : (processed s m n).2.tagLen = m.tagLen := by rw [processed_eq]
@[simp] theorem processed_tag : (processed s m n).2.tag = m.tag := by rw [processed_eq]
@[simp] theorem processed_count : (processed s m n).2.count = m.count := by rw [processed_eq]
@[simp] theorem processed_ended : (processed s m n).2.ended = m.ended := by rw [processed_eq]

end

/-- What is read does not depend on steps before that leave host memory. -/
theorem KeepsBulk.processed {s t : State} (h : KeepsBulk s t) (m : BulkMsg) (n : Nat) : Machine.processed t m n = Machine.processed s m n := by
  unfold Machine.processed
  rw [h.hostRead, h.hostRead]

/-- The processed output written: what stays, and where it was written. -/
theorem bulkWrite_processed {s t : State} (h : KeepsBulk s t) (b : Nat) (m : BulkMsg) (n : Nat) (bs : Bytes) :
    KeepsBulk (s.hostWrite (m.dst.toNat + m.count) bs) (bulkWrite t b (Machine.processed s m n).2 bs).1 := by
  have hwritten := bulkWrite_keepsBulk t b (Machine.processed s m n).2 bs
  rw [processed_dst, processed_count] at hwritten
  exact (h.hostWrite _ _).trans hwritten

/-! ### The IV (R104, R189) -/

section
variable {s : State} {m : BulkMsg}

theorem bulkIv_given (h : m.drawn = false ∨ m.iv ≠ []) : bulkIv s m = some (m, s) := if_neg fun ⟨hdrawn, hiv⟩ =>
  h.elim (fun hgiven => by simp [hgiven] at hdrawn) (fun hne => hne (List.isEmpty_iff.mp hiv))

variable (hdrawn : m.drawn = true) (hiv : m.iv = [])
include hdrawn hiv

theorem bulkIv_draws (h : drbgServes s (s.entry m.entry).barn = true) : bulkIv s m =
    some ({ m with iv := (drbgGen s (s.entry m.entry).barn 12).1 }, (drbgGen s (s.entry m.entry).barn 12).2) :=
  (if_pos ⟨hdrawn, List.isEmpty_iff.mpr hiv⟩).trans (if_pos h)

theorem bulkIv_waits (h : drbgServes s (s.entry m.entry).barn = false) : bulkIv s m = none :=
  (if_pos ⟨hdrawn, List.isEmpty_iff.mpr hiv⟩).trans (if_neg (by simp [h]))

end

/-! ### How far a running message has come (R189; log 100) -/

/-- A message that has not ended is found with some more of its output written and counted. -/
theorem bulkAdvance_writes (s : State) (b : Nat) (m : BulkMsg) : ∃ bs,
    KeepsBulk (s.hostWrite (m.dst.toNat + m.count) bs) (bulkAdvance s b m).1 ∧
    (bulkAdvance s b m).2.count = m.count + bs.length ∧ (bulkAdvance s b m).2.ended = m.ended := by
  unfold bulkAdvance
  split
  · exact ⟨[], .refl, rfl, rfl⟩
  · dsimp only
    generalize min (m.len - m.pos) (4096 * ((s.draw 64).1.toNat % ((m.len - m.pos + 4095) / 4096 + 1))) = n
    have hdrawn := KeepsBulk.draw s 64
    split
    · exact ⟨[], hdrawn, rfl, rfl⟩
    · refine ⟨(processed s m n).1, bulkWrite_processed (hdrawn.trans (bulkRead_keepsBulk _ b m n)) b m n _, ?_, processed_ended s m n⟩
      exact congrArg (· + (processed s m n).1.length) (processed_count s m n)

theorem bulkAdvance_ended {s : State} {b : Nat} {m : BulkMsg} (h : m.ended.isSome = true) : bulkAdvance s b m = (s, m) :=
  if_pos (by simp [h])

/-- A message whose accesses the HOSTDMA gate denies has come no further. -/
theorem bulkAdvance_denied {s : State} {b : Nat} {m : BulkMsg} (h : hostGate s false = false ∨ hostGate s true = false) :
    bulkAdvance s b m = (s, m) := if_pos (by rcases h with h | h <;> simp [h])

/-! ### The end of a message (R190) -/

section
variable (s : State) (b : Nat) (m : BulkMsg) (st : Status)

theorem bulkEndMsg_hostMem : (bulkEndMsg s b m st).hostMem = s.hostMem := by
  unfold bulkEndMsg
  dsimp only
  split <;> rfl

theorem bulkEndMsg_baes : (bulkEndMsg s b m st).baes = (s.setBae b { s.bae b with msg := some { m with ended := some st } }).baes := by
  unfold bulkEndMsg
  dsimp only
  split <;> rfl

theorem bulkEndMsg_bae : (bulkEndMsg s b m st).bae b = { s.bae b with msg := some { m with ended := some st } } := by
  unfold State.bae
  rw [bulkEndMsg_baes]
  exact State.setBae_self _ _ _

theorem bulkEndMsg_bae_ne {j : Nat} (hj : j ≠ b) : (bulkEndMsg s b m st).bae j = s.bae j := by
  have hset : (bulkEndMsg s b m st).bae j = (s.setBae b { s.bae b with msg := some { m with ended := some st } }).bae j := by
    unfold State.bae
    rw [bulkEndMsg_baes]
    rfl
  rw [hset, State.setBae_ne _ _ _ _ hj]

/-- Output that no tag vouched for marks the request of a decryption. -/
theorem bulkEndMsg_untrusted : ((bulkEndMsg s b m st).entry m.entry).untrusted = ((s.entry m.entry).untrusted ||
    (isBulkDec m.fn.toNat && decide (st = St.tagFail ∨ ((st = St.aborted ∨ st = St.badPointer) ∧ 0 < m.count)))) := by
  unfold bulkEndMsg
  dsimp only
  split
  · next hmarks =>
    rw [State.modEntry, State.setEntry_self]
    simp [hmarks.1, hmarks.2]
  · next hclean =>
    have hfalse : (isBulkDec m.fn.toNat && decide (st = St.tagFail ∨ ((st = St.aborted ∨ st = St.badPointer) ∧ 0 < m.count))) = false := by
      simpa using hclean
    rw [hfalse, Bool.or_false]
    rfl

end

/-! ### Denied accesses (R347) -/

/-- The gate of the host interface alone decides, by its class slot (R341, R343). -/
theorem hostGate_eq (s : State) (write : Bool) : hostGate s write = (!(s.gate (keepGate 0)).closed &&
    (Map.get 0 (s.gate (keepGate 0)).cls 4).getLsbD 2 && (Map.get 0 (s.gate (keepGate 0)).cls 4).getLsbD (if write then 1 else 0)) := by
  have hfixed : (fixedDenied s .hostDma hifPage write || inHbmHole hifPage) = false := by cases write <;> rfl
  have hplace : isGatePage hifPage = false := rfl
  have hgate : gateOf hifPage = some (keepGate 0, false) := rfl
  have hunmatched : unmatchedAllows s .hostDma hifPage write = false := rfl
  have hcode : clsCodeOf .hostDma = 4 := rfl
  unfold hostGate gateAllows
  rw [hfixed, hplace, hgate]
  dsimp only
  rw [hunmatched, hcode]
  cases (s.gate (keepGate 0)).closed <;> cases (Map.get 0 (s.gate (keepGate 0)).cls 4).getLsbD 2 <;> cases write <;> rfl

/-- A denial is noted at its gate, and changes neither what closes the gate nor its class slots. -/
theorem recordDenial_only (s : State) (c : InitClass) (a : Nat) (write : Bool) : recordDenial s c a write = s ∨
    ∃ page g, g.closed = (s.gate page).closed ∧ g.cls = (s.gate page).cls ∧ TallyOnly (s.setGate page g) (recordDenial s c a write) := by
  unfold recordDenial
  split
  · exact .inl rfl
  · next page _ _ =>
    extract_lets before dbg first noted sat after
    have hsat : TallyOnly (s.setGate page after) (if sat = true then setInt (s.setGate page after) page 31 else s.setGate page after) :=
      .ite (setInt_only _ _ _) rfl
    refine .inr ⟨page, after, ?closed, ?cls, .ite (hsat.trans (Tal.post_only _ _)) hsat⟩
    case closed => simp only [after, noted, apply_ite Gate.closed, ite_self, before]
    case cls => simp only [after, noted, apply_ite Gate.cls, ite_self, before]

theorem recordDenial_hostGate (s : State) (c : InitClass) (a : Nat) (write w : Bool) :
    hostGate (recordDenial s c a write) w = hostGate s w := by
  rcases recordDenial_only s c a write with hsame | ⟨page, g, hclosed, hcls, honly⟩
  · rw [hsame]
  · have hgate : (recordDenial s c a write).gate (keepGate 0) = (s.setGate page g).gate (keepGate 0) := by
      rw [honly]
      rfl
    rw [hostGate_eq, hostGate_eq, hgate]
    by_cases hpage : keepGate 0 = page
    · rw [hpage, State.setGate_self, hclosed, hcls]
    · rw [State.setGate_ne _ _ _ _ hpage]

theorem recordDenial_entry (s : State) (c : InitClass) (a : Nat) (write : Bool) (e : Nat) :
    (recordDenial s c a write).entry e = s.entry e := by
  rcases recordDenial_only s c a write with hsame | ⟨page, g, -, -, honly⟩
  · rw [hsame]
  · rw [honly]
    rfl

theorem sealCut_hostGate (s : State) (e : Nat) (st : Status) (w : Bool) : hostGate (sealCut s e st) w = hostGate s w := by
  have hite : ∀ {c : Prop} [Decidable c] {u v : State}, hostGate u w = hostGate s w → hostGate v w = hostGate s w →
      hostGate (if c then u else v) w = hostGate s w := fun hu hv => by split <;> assumption
  exact hite rfl (hite rfl rfl)

/-- While the HOSTDMA gate denies its accesses, a request ends with no write to host memory. -/
theorem endRequest_hostMem_of_denied {s : State} {e : Nat} {st : Status} (h : hostGate s false = false ∨ hostGate s true = false) :
    (endRequest s e st).hostMem = s.hostMem := by
  have hcut := h
  rw [← sealCut_hostGate s e st, ← sealCut_hostGate s e st true] at hcut
  have hended : (bulkEnd (sealCut s e st) e).2.2 = sealCut s e st := by
    unfold bulkEnd
    split
    · rfl
    · split
      · rfl
      · simp only [bulkAdvance_denied hcut, ite_self]
  have hkeeps : KeepsHost s (endRequest s e st) := by
    unfold endRequest endRequestWith
    dsimp only
    rw [hended]
    exact .ite (.after_stageEntry (.after_setEntry (.after_leaveReady (.after_sealCut .refl)))) .refl
  exact hkeeps.hostMem

end Sys2Proof.Machine
end

section
/-! Proofs: suspension, alarms and warden locks of the bulk engines (O38). -/

namespace Sys2Proof.Machine

open Sys2Proof Sys2Proof.Bits

/-! ### Suspension (R191, R192) -/

section
variable (s : State) (b u : Nat) (m : BulkMsg)

theorem suspendInto_hostMem : (suspendInto s b u m).hostMem = s.hostMem := (perfCount_only _ _ _ _).traceOnly.hostMem

theorem suspendInto_bae : (suspendInto s b u m).bae b = { s.bae b with
    susp := m :: (s.bae b).susp
    entry := u
    urgent := (s.bae b).urgent.drop 1
    msg := none
    keyParts := []
    cntHi := false } := by
  unfold suspendInto
  rw [(perfCount_only _ _ _ _).keepsBulk.bae]
  exact State.setBae_self _ _ _

end

section
variable {s : State} {b : Fin 8} {n : Nat}

theorem exec_baeSuspend_idle (h : (s.bae b).urgent = [] ∨ linkWaits s (dieOfBae b) = true) : exec (.baeSuspend b n) s = done s := by
  show execBaeSuspend b n s = done s
  unfold execBaeSuspend
  dsimp only
  split
  · rfl
  · next hurgent =>
    have hlink : linkWaits s (dieOfBae b) = true := h.resolve_left (by simp [hurgent])
    exact if_pos (.inr (.inr hlink))

variable {v : Nat} {rest : List Nat} (hurgent : (s.bae b).urgent = v :: rest) (howner : (s.bae b).owner = .request)
  (hself : (s.bae b).selftest = false) (hlink : linkWaits s (dieOfBae b) = false)
include hurgent howner hself hlink

/-- An owner whose message already stands in a slot gives the engine back. -/
theorem exec_baeSuspend_back (hmsg : (s.bae b).msg = none) {m : BulkMsg} (hm : m ∈ (s.bae b).susp) (hentry : m.entry = (s.bae b).entry) :
    exec (.baeSuspend b n) s = done (s.setBae b { s.bae b with entry := v, urgent := rest, cntHi := false }) := by
  have hstands : (s.bae b).msg.isNone = true ∧ (s.bae b).susp.any (fun m => m.entry == (s.bae b).entry) = true :=
    ⟨by rw [hmsg]; rfl, List.any_eq_true.mpr ⟨m, hm, by simpa using hentry⟩⟩
  show execBaeSuspend b n s = _
  unfold execBaeSuspend
  simp only [hurgent, howner, hself, hlink]
  exact if_pos hstands

section
variable (hroom : (s.bae b).susp.length < 2)
include hroom

theorem exec_baeSuspend_unstarted (hmsg : (s.bae b).msg = none) (hsusp : ∀ m ∈ (s.bae b).susp, m.entry ≠ (s.bae b).entry) :
    exec (.baeSuspend b n) s = done (suspendInto s b v (unstarted (s.bae b))) := by
  have hnone : (s.bae b).susp.any (fun m => m.entry == (s.bae b).entry) = false := by simpa using hsusp
  show execBaeSuspend b n s = _
  unfold execBaeSuspend
  simp [hurgent, howner, hself, hlink, hmsg, hnone, Nat.not_le.mpr hroom]

theorem baeSuspend_unstarted_runs (hmsg : (s.bae b).msg = none) (hsusp : ∀ m ∈ (s.bae b).susp, m.entry ≠ (s.bae b).entry) :
    Runs (.baeSuspend b n) s (fun t => t.hostMem = s.hostMem ∧ t.bae b = { s.bae b with
      susp := { entry := (s.bae b).entry, key := (s.bae b).keyParts.flatMap SReg.bytes } :: (s.bae b).susp
      entry := v
      urgent := rest
      keyParts := []
      cntHi := false }) := by
  refine runs_of_exec (exec_baeSuspend_unstarted hurgent howner hself hlink hroom hmsg hsusp) ⟨suspendInto_hostMem _ _ _ _, ?_⟩
  rw [State.drive_bae', suspendInto_bae, hurgent]
  simp only [hmsg]
  rfl

variable {m : BulkMsg} (hmsg : (s.bae b).msg = some m)
include hmsg

/-- A message that has ended, or that has issued its last block, is not suspended. -/
theorem exec_baeSuspend_last (h : m.ended.isSome = true ∨ m.len ≤ m.pos + 16 * n) : exec (.baeSuspend b n) s = done s := by
  show execBaeSuspend b n s = _
  unfold execBaeSuspend
  simp [hurgent, howner, hself, hlink, hmsg, Nat.not_le.mpr hroom, h]

/-- A running message is processed up to a block boundary, and saved. -/
theorem exec_baeSuspend_running (hended : m.ended = none) (hlen : m.pos + 16 * n < m.len) (hstale : bulkStale s m = false)
    (hread : hostGate s false = true) (hwrite : hostGate s true = true) (hiv : m.drawn = false ∨ m.iv ≠ []) :
    ∃ t, KeepsBulk (s.hostWrite (m.dst.toNat + m.count) (processed s m (16 * n)).1) t ∧ exec (.baeSuspend b n) s =
      done (suspendInto t b v { (processed s m (16 * n)).2 with
        count := (processed s m (16 * n)).2.count + (processed s m (16 * n)).1.length }) := by
  refine ⟨(bulkWrite (bulkRead s b m (16 * n)).2.2 b (processed s m (16 * n)).2 (processed s m (16 * n)).1).1,
    bulkWrite_processed (bulkRead_keepsBulk s b m _) b m _ _, ?_⟩
  show execBaeSuspend b n s = _
  unfold execBaeSuspend
  simp only [hurgent, howner, hself, hlink, hmsg, hended, hstale, hread, hwrite, bulkIv_given hiv, Nat.not_le.mpr hroom, Nat.not_le.mpr hlen]
  rfl

end

end

/-- What a suspension leaves of the engine and of host memory. -/
theorem baeSuspend_running_runs {s : State} {b : Fin 8} {n v : Nat} {rest : List Nat} {m : BulkMsg} (hurgent : (s.bae b).urgent = v :: rest)
    {t : State} {bs : Bytes} {d : BulkMsg} (hwritten : KeepsBulk (s.hostWrite (m.dst.toNat + m.count) bs) t)
    (hexec : exec (.baeSuspend b n) s = done (suspendInto t b v d)) : Runs (.baeSuspend b n) s (fun t =>
      t.bae b = { s.bae b with susp := d :: (s.bae b).susp, entry := v, urgent := rest, msg := none, keyParts := [], cntHi := false } ∧
      t.hostMem = hostWriteMem s.hostMem (m.dst.toNat + m.count) bs) := by
  refine runs_of_exec hexec ⟨?_, ?_⟩
  · have hbae : t.bae b = s.bae b := hwritten.bae b
    rw [State.drive_bae', suspendInto_bae, hbae, hurgent]
    rfl
  · rw [State.drive_hostMem, suspendInto_hostMem, hwritten.hostMem]
    rfl

/-! ### Resumption (R192) -/

section
variable {s : State} {b : Fin 8} {m : BulkMsg} {rest : List BulkMsg} (hsusp : (s.bae b).susp = m :: rest) (howner : (s.bae b).owner = .request)
  (hentry : (s.bae b).entry = m.entry) (hmsg : (s.bae b).msg = none) (hself : (s.bae b).selftest = false)
include hsusp howner hentry hmsg hself

theorem exec_baeResume_message (hfn : m.fn ≠ 0) : exec (.baeResume b) s = done (s.setBae b { s.bae b with susp := rest, msg := some m }) := by
  show execBaeResume b s = _
  unfold execBaeResume
  simp only [hsusp, howner, hentry, hmsg, hself, if_neg hfn]
  exact if_neg (by simp)

/-- Of an owner that has not started its message the key parts stand in the slot. -/
theorem exec_baeResume_keys (hfn : m.fn = 0) : exec (.baeResume b) s = done (s.setBae b { s.bae b with
    susp := rest
    keyParts := (chunks 16 m.key).map (fun k => { val := block k, label := .k, role := 0xD }) }) := by
  show execBaeResume b s = _
  unfold execBaeResume
  simp [hsusp, howner, hentry, hmsg, hself, hfn]

end

/-! ### Alarms (R193) -/

section
variable (s : State) (b : Nat)

/-- The state with engine b out of service, before the event is counted. -/
def withoutBae : State :=
  s.setBae b { s.bae b with owner := .retired, entry := 0, selftest := false, keyParts := [], msg := none }

/-- The counting of an engine's retirement leaves the requests and the engines. -/
theorem retireBae_keepsBulk : KeepsBulk (withoutBae s b) (retireBae s b) := by
  have hposted : KeepsBulk (withoutBae s b) (postRetired (latchErr (withoutBae s b) (baePage b) 0x0013 b) (dieOfBae b) 3 b) :=
    ((latchErr_only _ _ _ _).trans (Tal.post_only _ _)).keepsBulk
  unfold retireBae
  dsimp only
  split
  · exact hposted.trans (degrade_keepsBulk _ _ _)
  · exact hposted

theorem retireBae_bae : (retireBae s b).bae b =
    { s.bae b with owner := .retired, entry := 0, selftest := false, keyParts := [], msg := none } := by
  rw [(retireBae_keepsBulk s b).bae]
  exact State.setBae_self _ _ _

/-- The requests whose messages the engine runs or holds suspended. -/
def alarmHit : List Nat :=
  (match runningMsg (s.bae b) with | some m => [m.entry] | none => []) ++ (s.bae b).susp.map (fun m => m.entry)

theorem mem_alarmHit {k : Nat} (h : ((s.bae b).owner = .request ∧ ∃ m, (s.bae b).msg = some m ∧ m.entry = k) ∨ ∃ m ∈ (s.bae b).susp, m.entry = k) :
    k ∈ alarmHit s b := by
  rcases h with ⟨howner, m, hmsg, rfl⟩ | ⟨m, hm, rfl⟩
  · have hrun : runningMsg (s.bae b) = some m := (if_pos howner).trans hmsg
    unfold alarmHit
    rw [hrun]
    exact List.mem_append_left _ (List.mem_singleton_self _)
  · exact List.mem_append_right _ (List.mem_map_of_mem hm)

/-- The state once an alarm is counted. -/
def alarmCounted : State := latchErr (evtCount s (baePage b) 0x090 13 0) (baePage b) 0x0011 b

theorem alarmCounted_only : TallyOnly s (alarmCounted s b) := (evtCount_only _ _ _ _ _).trans (latchErr_only _ _ _ _)

/-- The state once the engine's messages have ended too. -/
def alarmEnded : State := (alarmHit (alarmCounted s b) b).foldl (fun s e => endRequest s e St.faultAlarm) (alarmCounted s b)

/-- The engine of `ended` without key, in its self-test, with the alarm's time noted; the third within 1 s retires it. -/
def alarmNoted (ended : State) (alarms : List Nat) : State :=
  let times := noteTime alarms ended.tmr.now 3
  let s := ended.modBae b (fun x => { x with keyParts := [], selftest := true, alarms := times })
  if withinSpan times 3 second then retireBae s b else s

theorem bulkAlarm_eq : bulkAlarm s b = alarmNoted b (alarmEnded s b) (s.bae b).alarms := by
  rw [← (alarmCounted_only s b).keepsBulk.bae]
  rfl

theorem alarmEnded_engines : EnginesKept s (alarmEnded s b) :=
  .after_foldl (fun _ _ hu => .after_endRequest hu) _ (.after_tallyOnly .refl (alarmCounted_only s b))

/-- A running request whose message the engine holds is staged FAULT_ALARM. -/
theorem alarmEnded_stages {k : Nat} (hk : k ∈ alarmHit s b) (h : Underway (s.entry k)) : StagedWith St.faultAlarm ((alarmEnded s b).entry k) := by
  have hcounted := (alarmCounted_only s b).keepsBulk
  have hhit : alarmHit (alarmCounted s b) b = alarmHit s b := by
    unfold alarmHit
    rw [hcounted.bae]
  unfold alarmEnded
  rw [hhit]
  exact foldl_endRequest_stagedWith hk (by rwa [hcounted.entry])

variable (ended : State) (alarms : List Nat)

theorem alarmNoted_entry (k : Nat) : (alarmNoted b ended alarms).entry k = ended.entry k := by
  unfold alarmNoted
  dsimp only
  split
  · rw [(retireBae_keepsBulk _ b).entry]
    rfl
  · rfl

theorem alarmNoted_stays (h : withinSpan (noteTime alarms ended.tmr.now 3) 3 second = false) : (alarmNoted b ended alarms).bae b =
    { ended.bae b with keyParts := [], selftest := true, alarms := noteTime alarms ended.tmr.now 3 } := by
  unfold alarmNoted
  dsimp only
  rw [h]
  exact State.setBae_self _ _ _

theorem alarmNoted_retires (h : withinSpan (noteTime alarms ended.tmr.now 3) 3 second = true) : (alarmNoted b ended alarms).bae b =
    { ended.bae b with
      owner := .retired
      entry := 0
      selftest := false
      keyParts := []
      msg := none
      alarms := noteTime alarms ended.tmr.now 3 } := by
  unfold alarmNoted
  dsimp only
  rw [h, if_pos rfl, retireBae_bae, State.modBae, State.setBae_self]

end

theorem baeAlarm_runs {s : State} {b : Fin 8} (howner : (s.bae b).owner ≠ .retired) :
    let times := noteTime (s.bae b).alarms s.tmr.now 3
    Runs (.baeAlarm b) s (fun t =>
      (t.bae b).keyParts = [] ∧ (t.bae b).alarms = times ∧
      (withinSpan times 3 1000000000 = true → (t.bae b).owner = .retired ∧ (t.bae b).selftest = false) ∧
      (withinSpan times 3 1000000000 = false → (t.bae b).selftest = true) ∧
      ∀ k, (((s.bae b).owner = .request ∧ ∃ m, (s.bae b).msg = some m ∧ m.entry = k) ∨ ∃ m ∈ (s.bae b).susp, m.entry = k) →
        (s.entry k).state = .reserved → (s.entry k).accepted = true → (t.entry k).state = .staged ∧ (t.entry k).status = St.faultAlarm) := by
  intro times
  have hexec : exec (.baeAlarm b) s = done (alarmNoted b (alarmEnded s b) (s.bae b).alarms) :=
    (if_neg howner).trans (congrArg done (bulkAlarm_eq s b))
  have hnow : (alarmEnded s b).tmr = s.tmr := (alarmEnded_engines s b).2
  have hstays := alarmNoted_stays b (alarmEnded s b) (s.bae b).alarms
  have hretires := alarmNoted_retires b (alarmEnded s b) (s.bae b).alarms
  rw [hnow] at hstays hretires
  have hstages : ∀ k, k ∈ alarmHit s b → Underway (s.entry k) →
      StagedWith St.faultAlarm ((alarmNoted b (alarmEnded s b) (s.bae b).alarms).entry k) := fun k hk hunderway => by
    rw [alarmNoted_entry]
    exact alarmEnded_stages s b hk hunderway
  refine runs_of_exec hexec ?_
  simp only [State.drive_bae', State.drive_entry']
  have hends : ∀ k, _ → _ → _ → _ := fun k hhit hreserved haccepted => hstages k (mem_alarmHit s b hhit) ⟨hreserved, haccepted⟩
  cases hspan : withinSpan times 3 1000000000 with
  | true =>
    rw [hretires hspan]
    exact ⟨rfl, rfl, fun _ => ⟨rfl, rfl⟩, fun h => (Bool.noConfusion h), hends⟩
  | false =>
    rw [hstays hspan]
    exact ⟨rfl, rfl, fun h => (Bool.noConfusion h), fun _ => rfl, hends⟩

/-! ### The self-test (R193) -/

section
variable {s : State} {b : Fin 8} (hself : (s.bae b).selftest = true)
include hself

theorem baeSelftestDone_passes : Runs (.baeSelftestDone b true) s (fun t => t.bae b = { s.bae b with selftest := false }) :=
  runs_of_exec (if_neg (by simp [hself])) (State.setBae_self _ _ _)

theorem baeSelftestDone_fails : Runs (.baeSelftestDone b false) s (fun t =>
    (t.bae b).owner = .retired ∧ (t.bae b).selftest = false ∧ (t.bae b).keyParts = []) := by
  refine runs_of_exec (if_neg (by simp [hself])) ?_
  rw [State.drive_bae', if_neg (by decide), retireBae_bae]
  exact ⟨rfl, rfl, rfl⟩

end

/-! ### Warden locks (R186) -/

theorem holdsBaton_iff (s : State) (w : Warden) : holdsBaton s w = true ↔ (w = .b ↔ s.yoke.batonB = true) := by
  unfold holdsBaton
  cases w <;> cases s.yoke.batonB <;> decide

section
variable {s : State} {b : Fin 8} {w : Warden}

section
variable (hbaton : w = .b ↔ s.yoke.batonB = true)
include hbaton

theorem exec_baeLockAcquire_free (howner : (s.bae b).owner = .free) :
    exec (.baeLockAcquire b w) s = done (s.setBae b { s.bae b with owner := .warden, keyParts := [] }) :=
  congrArg done (if_pos (by simp [(holdsBaton_iff s w).mpr hbaton, howner]))

theorem exec_baeLockRelease_held (howner : (s.bae b).owner = .warden) :
    exec (.baeLockRelease b w) s = done (s.setBae b { s.bae b with owner := .free, keyParts := [], msg := none, cntHi := false }) :=
  congrArg done (if_pos (by simp [(holdsBaton_iff s w).mpr hbaton, howner]))

end

theorem exec_baeLock_without_baton (hbaton : ¬(w = .b ↔ s.yoke.batonB = true)) :
    exec (.baeLockAcquire b w) s = done s ∧ exec (.baeLockRelease b w) s = done s := by
  have hfalse : holdsBaton s w = false := by
    rw [← Bool.not_eq_true, holdsBaton_iff]
    exact hbaton
  exact ⟨congrArg done (if_neg (by simp [hfalse])), congrArg done (if_neg (by simp [hfalse]))⟩

end

/-- Settles O38: each row by the branch that the engine's owner, slots and messages take; an alarm by what the endings of its requests keep. -/
theorem bulkEngineOwnership : Obligations.BulkEngineOwnership := by
  unfold Obligations.BulkEngineOwnership
  intro s b n w x
  refine ⟨exec_baeSuspend_idle, fun v rest hurgent howner hself hlink hmsg => ⟨fun m => exec_baeSuspend_back hurgent howner hself hlink hmsg,
      fun hsusp hroom => baeSuspend_unstarted_runs hurgent howner hself hlink hroom hmsg hsusp⟩,
    fun v rest hurgent howner hroom hself hlink hread hwrite => ⟨?running, fun m => exec_baeSuspend_last hurgent howner hself hlink hroom⟩,
    fun m rest => exec_baeResume_message, fun m rest => exec_baeResume_keys, baeAlarm_runs,
    fun hself => ⟨baeSelftestDone_passes hself, baeSelftestDone_fails hself⟩,
    fun howner hbaton => exec_baeLockAcquire_free hbaton howner, fun howner hbaton => exec_baeLockRelease_held hbaton howner,
    exec_baeLock_without_baton⟩
  case running =>
    intro m hmsg hended hlen hstale hiv
    obtain ⟨t, hwritten, hexec⟩ := exec_baeSuspend_running hurgent howner hself hlink hroom hmsg hended hlen hstale hread hwrite hiv
    exact baeSuspend_running_runs hurgent hwritten hexec

end Sys2Proof.Machine
end

section
/-! Proofs: the gateway of the bulk engines, and the start of a message (O37). -/

namespace Sys2Proof.Machine

open Sys2Proof Sys2Proof.Bits

/-! ### The gateway (R187, R191, R193) -/

/-- Context c is the lead of the request to which engine b belongs, whose message stands in no suspend slot, and the engine runs no self-test. -/
structure HasGateway (s : State) (c b : Nat) : Prop where
  lead : (s.core c).member = 0
  bound : baeOf s (s.core c).entry = some b
  owner : (s.bae b).owner = .request
  entry : (s.bae b).entry = (s.core c).entry
  resumed : ∀ m ∈ (s.bae b).susp, m.entry ≠ (s.core c).entry
  tested : (s.bae b).selftest = false

/-- The message with the destination of its request. -/
def addressed (s : State) (p : BulkMsg) : BulkMsg := { p with dst := (s.entry p.entry).desc.outAddr }

/-- The message of parameter block p that the request of context c commands from engine b, under the key parts loaded (R188). -/
def commanded (s : State) (c b : Nat) (p : Bytes) : BulkMsg :=
  parseBulk (s.core c).entry (s.request c).desc.fn.toNat ((s.bae b).keyParts.flatMap SReg.bytes) p

section
variable {s u : State} {c : Fin 2048} (h : AtPort s c u)
include h

theorem AtPort.bae (b : Nat) : u.bae b = s.bae b := h.congr (fun t => t.bae b) (fun _ _ _ => rfl)

theorem AtPort.baeOf (e : Nat) : Machine.baeOf u e = Machine.baeOf s e := h.congr (fun t => Machine.baeOf t e) (fun _ _ _ => rfl)

theorem AtPort.hostMem : u.hostMem = s.hostMem := h.congr State.hostMem (fun _ _ _ => rfl)

theorem AtPort.drbgGen_bytes (i : Nat) : (drbgGen u i 12).1 = (drbgGen s i 12).1 := by
  have hcall : ∀ n, (drbgCall u i n).1 = (drbgCall s i n).1 := fun n => h.congr (fun t => (drbgCall t i n).1) (fun _ _ _ => rfl)
  rw [drbgGen_call _ _ _ (by decide), drbgGen_call _ _ _ (by decide), hcall]

theorem AtPort.addressed (p : BulkMsg) : Machine.addressed u p = Machine.addressed s p :=
  h.congr (fun t => Machine.addressed t p) (fun _ _ _ => rfl)

theorem AtPort.commanded (b : Nat) (p : Bytes) : Machine.commanded u c b p = Machine.commanded s c b p := by
  unfold Machine.commanded
  rw [h.core_entry, h.request, h.bae]

theorem AtPort.hasGateway {b : Nat} (hgate : HasGateway s c b) : HasGateway u c b := by
  obtain ⟨hlead, hbound, howner, hentry, hresumed, htested⟩ := hgate
  exact ⟨by rw [h.member, hlead], by rw [h.core_entry, h.baeOf, hbound], by rw [h.bae, howner], by rw [h.bae, h.core_entry, hentry],
    by rwa [h.bae, h.core_entry], by rw [h.bae, htested]⟩

end

section
variable {s : State} {c b : Nat} {k : Nat → State}

theorem gateway_open (h : HasGateway s c b) : gateway s c k = k b := by
  have hnone : (s.bae b).susp.any (fun m => m.entry == (s.core c).entry) = false := by simpa using h.resumed
  unfold gateway
  dsimp only
  rw [if_neg (not_not.mpr h.lead), h.bound]
  exact if_pos ⟨h.owner, h.entry, by rw [hnone]; rfl, by rw [h.tested]; rfl⟩

/-- A helper and a request without an engine have no gateway. -/
theorem gateway_shut (h : (s.core c).member ≠ 0 ∨ baeOf s (s.core c).entry = none) : gateway s c k = portError s c := by
  unfold gateway
  dsimp only
  split
  · rfl
  · next hlead => rw [h.resolve_left hlead]

/-! ### Loading the key (R187) -/

variable (h : HasGateway s c b)
include h

theorem bulkKey_loads {sa : Nat} (hlabel : ((s.core c).getS sa).label = .k) (hderived : ((s.core c).getS sa).derived = false)
    (hrole : ((s.core c).getS sa).role = 0xD) :
    bulkKey s c sa = goNext (s.setBae b { s.bae b with keyParts := (s.bae b).keyParts ++ [(s.core c).getS sa] }) c :=
  (gateway_open h).trans (if_neg (by simp [hlabel, hderived, hrole]))

theorem bulkKey_refuses {sa : Nat} (hkey : ((s.core c).getS sa).label ≠ .k ∨ ((s.core c).getS sa).derived = true ∨
    ((s.core c).getS sa).role ≠ 0xD) : bulkKey s c sa = faultCtx s c :=
  (gateway_open h).trans (if_pos hkey)

/-! ### Reading the count (R187) -/

theorem bulkCount_unstarted {r : Nat} (hmsg : (s.bae b).msg = none) : bulkCount s c r =
    Reads (s.setBae b { s.bae b with cntHi := !(s.bae b).cntHi }) c r (BitVec.ofNat 32 (if (s.bae b).cntHi then 0 / 2 ^ 32 else 0)) := by
  unfold bulkCount
  rw [gateway_open h, hmsg]
  rfl

/-- The count of a message, wherever the read finds it. -/
theorem bulkCount_message {r : Nat} {m : BulkMsg} (hmsg : (s.bae b).msg = some m) : bulkCount s c r =
    let t := (bulkAdvance s b m).1
    let m' := (bulkAdvance s b m).2
    let n := if m'.ended = some St.badLength then m'.need else m'.count
    Reads (t.setBae b { t.bae b with msg := some m', cntHi := !(t.bae b).cntHi }) c r
      (BitVec.ofNat 32 (if (t.bae b).cntHi then n / 2 ^ 32 else n)) := by
  have hmessage : ({ (bulkAdvance s b m).1.bae b with msg := some (bulkAdvance s b m).2 } : Bae) ≠ {} := bae_ne_default rfl
  unfold bulkCount
  rw [gateway_open h, hmsg]
  simp only [State.modBae, State.setBae_self, setBae_setBae hmessage]
  rfl

/-! ### The command (R188) -/

theorem bulkCommand_refuses {dma : Dma} (hparts : (s.bae b).msg.isSome = true ∨ (s.bae b).keyParts = [] ∨
    (s.bae b).keyParts.length ≠ bulkParts (Map.get 0 (s.request c).lookAlg 0)) : bulkCommand s c dma = faultCtx s c :=
  (gateway_open h).trans (if_pos (by rwa [List.isEmpty_iff]))

theorem bulkCommand_starts {dma : Dma} {p : Bytes} (hinput : (s.request c).input = some p) (hmsg : (s.bae b).msg = none)
    (hkey : (s.bae b).keyParts ≠ []) (hparts : (s.bae b).keyParts.length = bulkParts (Map.get 0 (s.request c).lookAlg 0)) :
    bulkCommand s c dma = goNext (bulkStart s b (commanded s c b p)) c :=
  (gateway_open h).trans ((if_neg (by rw [List.isEmpty_iff, hmsg]; exact not_or.mpr ⟨by decide, not_or.mpr ⟨hkey, not_not.mpr hparts⟩⟩)).trans
    (withInputRead_read hinput))

end

/-! ### The start of a message (R189) -/

/-- No IV given: none stands in the message. -/
theorem parseBulk_iv {e fn : Nat} {key p : Bytes} (h : (parseBulk e fn key p).drawn = true) : (parseBulk e fn key p).iv = [] := by
  have hlen : (byteAt p 32).toNat = 0 := by
    unfold parseBulk at h
    simp only [Bool.and_eq_true, beq_iff_eq] at h
    exact h.2
  show slice p 40 (min (byteAt p 32).toNat 16) = []
  simp [hlen, slice, fit, zeros]

/-- The state with a message running that its limits and the output capacity allow. -/
def bulkStarted (s : State) (b : Nat) (p : BulkMsg) : State := s.setBae b { s.bae b with msg := some (addressed s p), cntHi := false }

theorem perfCount_setBae (s : State) (b : Nat) (x : Bae) (page off n : Nat) :
    perfCount (s.setBae b x) page off n = (perfCount s page off n).setBae b x := by
  have hite : ∀ {c : Prop} [Decidable c] {u v : State}, (if c then u else v).setBae b x = if c then u.setBae b x else v.setBae b x :=
    fun {_} _ {_ _} => by split <;> rfl
  have hreg : ∀ u : State, ∀ a hi lo, (u.setBae b x).regBits a hi lo = u.regBits a hi lo := fun _ _ _ _ => rfl
  have hset : ∀ u : State, ∀ a v, (u.setBae b x).setReg a v = (u.setReg a v).setBae b x := fun _ _ _ => rfl
  have hbits : ∀ u : State, ∀ a hi lo v, (u.setBae b x).setRegBits a hi lo v = (u.setRegBits a hi lo v).setBae b x := fun _ _ _ _ _ => rfl
  unfold perfCount
  simp only [State.setBae_reg', hreg, hset, hbits, hite]

/-- A random draw and a write of an engine: either order. -/
theorem drbgGen_setBae (s : State) (b : Nat) (x : Bae) (i : Nat) :
    drbgGen (s.setBae b x) i 12 = ((drbgGen s i 12).1, (drbgGen s i 12).2.setBae b x) := by
  have hcall : ∀ n, drbgCall (s.setBae b x) i n = ((drbgCall s i n).1, (drbgCall s i n).2.setBae b x) := fun n => by
    unfold drbgCall
    dsimp only
    rw [State.setBae_drbg', ← perfCount_setBae]
    rfl
  rw [drbgGen_call _ _ _ (by decide), drbgGen_call _ _ _ (by decide), hcall]

section
variable {s : State} {b : Nat} {p : BulkMsg}

theorem bulkEndMsg_badLength {z : Bae} (m : BulkMsg) (hz : z.msg.isSome = true) : bulkEndMsg (s.setBae b z) b m St.badLength =
    s.setBae b { z with msg := some { m with ended := some St.badLength } } := by
  unfold bulkEndMsg
  dsimp only
  rw [modBae_setBae hz, if_neg]
  rintro ⟨-, h | ⟨h | h, -⟩⟩ <;> cases h

theorem bulkStart_overLimit (h : bulkLimits (addressed s p) = false) : bulkStart s b p =
    s.setBae b { s.bae b with msg := some { addressed s p with ended := some St.badLength }, cntHi := false } :=
  (if_pos (show (!bulkLimits (addressed s p)) = true by rw [h]; rfl)).trans (bulkEndMsg_badLength (addressed s p) rfl)

variable (hlimits : bulkLimits (addressed s p) = true)
include hlimits

theorem bulkStart_overCapacity (h : (s.entry p.entry).desc.outCap < bulkOut (addressed s p)) : bulkStart s b p =
    s.setBae b { s.bae b with
      msg := some { addressed s p with need := bulkOut (addressed s p) % 2 ^ 32, ended := some St.badLength }
      cntHi := false } :=
  (if_neg (show ¬(!bulkLimits (addressed s p)) = true by rw [hlimits]; decide)).trans ((if_pos h).trans
    (bulkEndMsg_badLength { addressed s p with need := bulkOut (addressed s p) % 2 ^ 32 } rfl))

variable (hroom : bulkOut (addressed s p) ≤ (s.entry p.entry).desc.outCap)
include hroom

theorem bulkStart_allowed : bulkStart s b p = ((bulkIv (bulkStarted s b p) (addressed s p)).map
    (fun r => r.2.modBae b (fun y => { y with msg := some r.1 }))).getD (bulkStarted s b p) := by
  unfold bulkStart
  extract_lets x message state
  have hpasses : ¬(!bulkLimits message) = true := by rw [show bulkLimits message = true from hlimits]; decide
  have hfits : ¬x.desc.outCap < bulkOut message := Nat.not_lt.mpr hroom
  rw [if_neg hpasses, if_neg hfits]
  change _ = (Option.map _ (bulkIv state message)).getD state
  cases bulkIv state message <;> rfl

/-- A message with its IV, or one that the random chain cannot give an IV yet, starts as it stands. -/
theorem bulkStart_starts (h : p.drawn = false ∨ drbgServes s (s.entry p.entry).barn = false) : bulkStart s b p = bulkStarted s b p := by
  by_cases hgiven : p.drawn = false ∨ p.iv ≠ []
  · rw [bulkStart_allowed hlimits hroom, bulkIv_given (m := addressed s p) hgiven]
    rw [Option.map_some, Option.getD_some, bulkStarted, modBae_setBae rfl]
  · obtain ⟨hdrawn, hiv⟩ := not_or.mp hgiven
    rw [bulkStart_allowed hlimits hroom,
      bulkIv_waits (s := bulkStarted s b p) (m := addressed s p) ((Bool.not_eq_false _).mp hdrawn) (not_not.mp hiv) (h.resolve_left hdrawn)]
    rfl

/-- A drawn IV comes from the DRBG of the request's barn. -/
theorem bulkStart_draws (hdrawn : p.drawn = true) (hiv : p.iv = []) (h : drbgServes s (s.entry p.entry).barn = true) :
    bulkStart s b p = (drbgGen s (s.entry p.entry).barn 12).2.setBae b { s.bae b with
      msg := some { addressed s p with iv := (drbgGen s (s.entry p.entry).barn 12).1 }
      cntHi := false } := by
  have hgen : drbgGen (bulkStarted s b p) (s.entry p.entry).barn 12 = ((drbgGen s (s.entry p.entry).barn 12).1,
      (drbgGen s (s.entry p.entry).barn 12).2.setBae b { s.bae b with msg := some (addressed s p), cntHi := false }) := drbgGen_setBae _ _ _ _
  have hsettled : bulkIv (bulkStarted s b p) (addressed s p) = some ({ addressed s p with
      iv := (drbgGen (bulkStarted s b p) (s.entry p.entry).barn 12).1 }, (drbgGen (bulkStarted s b p) (s.entry p.entry).barn 12).2) :=
    bulkIv_draws (m := addressed s p) hdrawn hiv h
  rw [hgen] at hsettled
  rw [bulkStart_allowed hlimits hroom, hsettled]
  rw [Option.map_some, Option.getD_some, modBae_setBae rfl]

end

/-! ### Each port on the state that its instruction finds -/

section
variable {s : State} {c : Fin 2048} (hissue : Issues s (.tu c))
include hissue

theorem exec_gateway_shut {sa : Fin 16} {r : Fin 32} {dma : Dma} (h : (s.core c).member ≠ 0 ∨ baeOf s (s.core c).entry = none) :
    ∀ i ∈ [Instr.bgKey c sa, .bgCmd c dma, .bgCount c r], ∃ u, AtPort s c u ∧ exec i s = done (portError u c) := by
  have hshut : ∀ {u}, AtPort s c u → (u.core c).member ≠ 0 ∨ baeOf u (u.core c).entry = none := fun hu => by
    rwa [hu.member, hu.core_entry, hu.baeOf]
  refine List.forall_mem_cons.mpr ⟨?_, List.forall_mem_cons.mpr ⟨?_, List.forall_mem_singleton.mpr ?_⟩⟩
  · exact exists_atPort hissue (k := fun u => bulkKey u c sa) rfl rfl fun u hu => gateway_shut (hshut hu)
  · exact exists_atPort hissue (k := fun u => bulkCommand u c dma) rfl rfl fun u hu => gateway_shut (hshut hu)
  · exact exists_atPort hissue (k := fun u => bulkCount u c r) rfl rfl fun u hu => gateway_shut (hshut hu)

variable {b : Nat} (hgate : HasGateway s c b)
include hgate

theorem exec_bgKey_loads {sa : Fin 16} (hlabel : ((s.core c).getS sa).label = .k) (hderived : ((s.core c).getS sa).derived = false)
    (hrole : ((s.core c).getS sa).role = 0xD) : ∃ u, AtPort s c u ∧ exec (.bgKey c sa) s =
      done (Onward (u.setBae b { s.bae b with keyParts := (s.bae b).keyParts ++ [(s.core c).getS sa] }) c (fun x => x)) :=
  exists_atPort hissue (k := fun u => bulkKey u c sa) rfl rfl fun u hu => by
    rw [← hu.getS] at hlabel hderived hrole
    rw [bulkKey_loads (hu.hasGateway hgate) hlabel hderived hrole, hu.bae, hu.getS]
    rfl

theorem exec_bgKey_refuses {sa : Fin 16} (h : ((s.core c).getS sa).label ≠ .k ∨ ((s.core c).getS sa).derived = true ∨
    ((s.core c).getS sa).role ≠ 0xD) : ∃ u, AtPort s c u ∧ exec (.bgKey c sa) s = done (faultCtx u c) :=
  exists_atPort hissue (k := fun u => bulkKey u c sa) rfl rfl fun u hu => bulkKey_refuses (hu.hasGateway hgate) (by rwa [hu.getS])

/-- The count of a message that does not run: none, or ended. -/
theorem exec_bgCount_settled {r : Fin 32} {n : Nat} (h : (s.bae b).msg = none ∧ n = 0 ∨
      ∃ m st, (s.bae b).msg = some m ∧ m.ended = some st ∧ n = if st = St.badLength then m.need else m.count) :
    ∃ u, AtPort s c u ∧ exec (.bgCount c r) s = done (Reads (u.setBae b { s.bae b with cntHi := !(s.bae b).cntHi }) c r
      (BitVec.ofNat 32 (if (s.bae b).cntHi then n / 2 ^ 32 else n))) :=
  exists_atPort hissue (k := fun u => bulkCount u c r) rfl rfl fun u hu => by
    rcases h with ⟨hmsg, rfl⟩ | ⟨m, st, hmsg, hended, rfl⟩
    · rw [bulkCount_unstarted (hu.hasGateway hgate) (by rw [hu.bae, hmsg]), hu.bae]
    · have hsame : ({ s.bae b with msg := some m, cntHi := !(s.bae b).cntHi } : Bae) = { s.bae b with cntHi := !(s.bae b).cntHi } := by
        rw [← hmsg]
      rw [bulkCount_message (hu.hasGateway hgate) (by rw [hu.bae, hmsg]), bulkAdvance_ended (by rw [hended]; rfl)]
      dsimp only
      rw [hu.bae, hsame, hended]
      simp only [Option.some.injEq]

/-- The count of a running message. -/
theorem bgCount_running {r : Fin 32} {m : BulkMsg} (hmsg : (s.bae b).msg = some m) (hended : m.ended = none) :
    ∃ u m' bs, AtPort s c u ∧ Runs (.bgCount c r) s (fun t =>
      t.bae b = { s.bae b with msg := some m', cntHi := !(s.bae b).cntHi } ∧ m'.ended = none ∧ m'.count = m.count + bs.length ∧
      t.hostMem = hostWriteMem s.hostMem (m.dst.toNat + m.count) bs ∧
      t.core c = (Reads u c r (BitVec.ofNat 32 (if (s.bae b).cntHi then m'.count / 2 ^ 32 else m'.count))).core c) := by
  obtain ⟨u, hu, hrow⟩ := portRow_runs hissue (w := (· == .bgWait)) rfl (fun u => bulkCount u c r)
  obtain ⟨bs, hkeeps, hcount, hstill⟩ := bulkAdvance_writes u b m
  have hread := bulkCount_message (hu.hasGateway hgate) (r := r) (m := m) (by rw [hu.bae, hmsg])
  generalize bulkAdvance u b m = found at hkeeps hcount hstill hread
  obtain ⟨t, m'⟩ := found
  dsimp only at hkeeps hcount hstill hread
  have hbae : t.bae b = s.bae b := (hkeeps.bae b).trans (hu.bae b)
  have hcore : t.core c = u.core c := hkeeps.core c
  have hmem : t.hostMem = hostWriteMem s.hostMem (m.dst.toNat + m.count) bs := by
    rw [hkeeps.hostMem, ← hu.hostMem]
    rfl
  rw [hended] at hstill
  rw [hstill, if_neg (show ¬none = some St.badLength from nofun), hbae] at hread
  refine ⟨u, m', bs, hu, runs_of_exec (hrow.trans (congrArg done hread)) ⟨?_, hstill, hcount, hmem, ?_⟩⟩
  · exact State.setBae_self _ _ _
  · unfold Reads Onward
    rw [State.drive_core', State.setCore_self, State.setCore_self, State.setBae_core', hcore]

section
variable {dma : Dma}

theorem exec_bgCmd_refuses (h : (s.bae b).msg.isSome = true ∨ (s.bae b).keyParts = [] ∨
    (s.bae b).keyParts.length ≠ bulkParts (Map.get 0 (s.request c).lookAlg 0)) :
    ∃ u, AtPort s c u ∧ exec (.bgCmd c dma) s = done (faultCtx u c) :=
  exists_atPort hissue (k := fun u => bulkCommand u c dma) rfl rfl fun u hu =>
    bulkCommand_refuses (hu.hasGateway hgate) (by rwa [hu.bae, hu.request])

variable {p : Bytes} (hinput : (s.request c).input = some p) (hmsg : (s.bae b).msg = none) (hkey : (s.bae b).keyParts ≠ [])
  (hparts : (s.bae b).keyParts.length = bulkParts (Map.get 0 (s.request c).lookAlg 0))
include hinput hmsg hkey hparts

/-- A command that the gateway takes starts the message of the parameter block. -/
theorem exec_bgCmd_starts {F : State → State} (hstart : ∀ u, AtPort s c u → bulkStart u b (commanded s c b p) = F u) :
    ∃ u, AtPort s c u ∧ exec (.bgCmd c dma) s = done (Onward (F u) c (fun x => x)) :=
  exists_atPort hissue (k := fun u => bulkCommand u c dma) rfl rfl fun u hu => by
    rw [bulkCommand_starts (hu.hasGateway hgate) (by rw [hu.request, hinput]) (by rw [hu.bae, hmsg]) (by rwa [hu.bae])
      (by rwa [hu.bae, hu.request]), hu.commanded, hstart u hu]
    rfl

theorem exec_bgCmd_overLimit (h : bulkLimits (addressed s (commanded s c b p)) = false) : ∃ u, AtPort s c u ∧
    exec (.bgCmd c dma) s = done (Onward (u.setBae b { s.bae b with
      msg := some { addressed s (commanded s c b p) with ended := some St.badLength }
      cntHi := false }) c (fun x => x)) :=
  exec_bgCmd_starts hissue hgate hinput hmsg hkey hparts (F := fun u => u.setBae b _) fun u hu => by
    rw [bulkStart_overLimit (by rwa [hu.addressed]), hu.addressed, hu.bae]

variable (hlimits : bulkLimits (addressed s (commanded s c b p)) = true)
include hlimits

theorem exec_bgCmd_overCapacity (h : (s.request c).desc.outCap < bulkOut (addressed s (commanded s c b p))) : ∃ u, AtPort s c u ∧
    exec (.bgCmd c dma) s = done (Onward (u.setBae b { s.bae b with
      msg := some { addressed s (commanded s c b p) with
        need := bulkOut (addressed s (commanded s c b p)) % 2 ^ 32
        ended := some St.badLength }
      cntHi := false }) c (fun x => x)) :=
  exec_bgCmd_starts hissue hgate hinput hmsg hkey hparts (F := fun u => u.setBae b _) fun u hu => by
    rw [bulkStart_overCapacity (by rwa [hu.addressed]) (by rw [hu.entry, hu.addressed]; exact h), hu.addressed, hu.bae]

variable (hroom : bulkOut (addressed s (commanded s c b p)) ≤ (s.request c).desc.outCap)
include hroom

theorem exec_bgCmd_allowed (h : (commanded s c b p).drawn = false ∨ drbgServes s (s.request c).barn = false) : ∃ u, AtPort s c u ∧
    exec (.bgCmd c dma) s = done (Onward (u.setBae b { s.bae b with
      msg := some (addressed s (commanded s c b p))
      cntHi := false }) c (fun x => x)) :=
  exec_bgCmd_starts hissue hgate hinput hmsg hkey hparts (F := fun u => u.setBae b _) fun u hu => by
    rw [bulkStart_starts (by rwa [hu.addressed]) (by rw [hu.entry, hu.addressed]; exact hroom) (by rw [hu.drbgServes, hu.entry]; exact h),
      bulkStarted, hu.addressed, hu.bae]

theorem exec_bgCmd_draws (hdrawn : (commanded s c b p).drawn = true) (h : drbgServes s (s.request c).barn = true) : ∃ u, AtPort s c u ∧
    exec (.bgCmd c dma) s = done (Onward ((drbgGen u (s.request c).barn 12).2.setBae b { s.bae b with
      msg := some { addressed s (commanded s c b p) with iv := (drbgGen s (s.request c).barn 12).1 }
      cntHi := false }) c (fun x => x)) :=
  exec_bgCmd_starts hissue hgate hinput hmsg hkey hparts (F := fun u => (drbgGen u (s.request c).barn 12).2.setBae b _) fun u hu => by
    rw [bulkStart_draws (by rwa [hu.addressed]) (by rw [hu.entry, hu.addressed]; exact hroom) hdrawn (parseBulk_iv hdrawn)
      (by rw [hu.drbgServes, hu.entry]; exact h), hu.entry, hu.drbgGen_bytes, hu.addressed, hu.bae]
    rfl

end

end

end Sys2Proof.Machine
end

section
/-! Proofs: the end of a bulk message, and the statement about bulk messages (O37). -/

namespace Sys2Proof.Machine

open Sys2Proof Sys2Proof.Bits

/-! ### What the rest of a message writes and how it ends (R190) -/

/-- The output of the rest of a message, tag and drawn IV with it. -/
def finalOutput (w : Bytes × BulkMsg) : Bytes :=
  if isBulkDec w.2.fn.toNat then w.1 else w.1 ++ (bulkTag w.2).take w.2.tagLen ++ (if w.2.drawn then w.2.iv else [])

/-- The status of a message whose output has been written: a decryption whose tag differs fails. -/
def finalStatus (w : Bytes × BulkMsg) : Status :=
  if isBulkDec w.2.fn.toNat && (bulkTag w.2).take w.2.tagLen != w.2.tag.take w.2.tagLen then St.tagFail else St.ok

/-- The message with its IV, drawn where none was given. -/
def withIv (s : State) (m : BulkMsg) : BulkMsg :=
  if m.drawn = true ∧ m.iv = [] then { m with iv := (drbgGen s (s.entry m.entry).barn 12).1 } else m

section
variable (s : State) (m : BulkMsg)

theorem withIv_eq : withIv s m = { m with iv := (withIv s m).iv } := by
  unfold withIv
  split <;> rfl

theorem withIv_entry : (withIv s m).entry = m.entry := by rw [withIv_eq]

theorem bulkStale_withIv : bulkStale s (withIv s m) = bulkStale s m := by
  unfold bulkStale
  rw [withIv_entry]

end

/-- The IV of a message that the random chain need not or can give one. -/
theorem bulkIv_serves {s : State} {m : BulkMsg} (h : m.drawn = true ∧ m.iv = [] → drbgServes s (s.entry m.entry).barn = true) :
    ∃ t, KeepsBulk s t ∧ bulkIv s m = some (withIv s m, t) := by
  unfold withIv
  by_cases hdraws : m.drawn = true ∧ m.iv = []
  · obtain ⟨hdrawn, hiv⟩ := hdraws
    rw [if_pos ⟨hdrawn, hiv⟩]
    exact ⟨_, drbgGen_keepsBulk s _, bulkIv_draws hdrawn hiv (h ⟨hdrawn, hiv⟩)⟩
  · rw [if_neg hdraws]
    exact ⟨s, .refl, bulkIv_given ((not_and_or.mp hdraws).imp_left (Bool.not_eq_true _).mp)⟩

section
variable {s : State} {b : Nat} {m₀ : BulkMsg} {dma : Dma}

theorem bulkRest_stale (h : bulkStale s m₀ = true) : bulkRest s b m₀ dma = bulkEndMsg s b m₀ St.aborted := if_pos h

variable (hstale : bulkStale s m₀ = false)
include hstale

theorem bulkRest_denied (h : hostGate s false = false ∨ hostGate s true = false) :
    bulkRest s b m₀ dma = endRequest (hostDenied s (hostGate s false)) m₀.entry St.faultAlarm :=
  (if_neg (by simp [hstale])).trans (if_pos (by rcases h with h | h <;> simp [h]))

variable (hread : hostGate s false = true) (hwrite : hostGate s true = true)
include hread hwrite

theorem bulkRest_waits (h : bulkIv s m₀ = none) : bulkRest s b m₀ dma = s := by
  unfold bulkRest
  rw [if_neg (by simp [hstale]), if_neg (by simp [hread, hwrite]), h]

section
variable {m : BulkMsg} {t : State} (hkeeps : KeepsBulk s t) (hiv : bulkIv s m₀ = some (m, t))
include hkeeps hiv

/-- An access that fails: some of the output has been written and counted. -/
theorem bulkRest_fails (hdma : dma ≠ .ok) : ∃ bs u, bs <+: finalOutput (processed s m (m.len - m.pos)) ∧
    KeepsBulk (s.hostWrite (m.dst.toNat + m.count) bs) u ∧ bulkRest s b m₀ dma = bulkEndMsg u b
      { (processed s m (m.len - m.pos)).2 with count := (processed s m (m.len - m.pos)).2.count + bs.length } St.badPointer := by
  have hsame := hkeeps.processed m (m.len - m.pos)
  have hdrawn : KeepsBulk s ((bulkRead t b m (m.len - m.pos)).2.2.draw 64).2 :=
    (hkeeps.trans (bulkRead_keepsBulk t b m _)).trans (KeepsBulk.draw _ 64)
  refine ⟨(finalOutput (processed s m (m.len - m.pos))).take (((bulkRead t b m (m.len - m.pos)).2.2.draw 64).1.toNat %
    ((finalOutput (processed s m (m.len - m.pos))).length + 1)), _, List.take_prefix _ _, bulkWrite_processed hdrawn b m (m.len - m.pos) _, ?_⟩
  unfold bulkRest
  rw [if_neg (by simp [hstale]), if_neg (by simp [hread, hwrite]), hiv, ← hsame]
  exact if_pos hdma

/-- The whole output written, the message ends with its verdict. -/
theorem bulkRest_ends (hdma : dma = .ok) : ∃ u,
    KeepsBulk (s.hostWrite (m.dst.toNat + m.count) (finalOutput (processed s m (m.len - m.pos)))) u ∧
    bulkRest s b m₀ dma = bulkEndMsg u b { (processed s m (m.len - m.pos)).2 with
      count := (processed s m (m.len - m.pos)).2.count + (finalOutput (processed s m (m.len - m.pos))).length }
      (finalStatus (processed s m (m.len - m.pos))) := by
  have hsame := hkeeps.processed m (m.len - m.pos)
  refine ⟨_, bulkWrite_processed (hkeeps.trans (bulkRead_keepsBulk t b m (m.len - m.pos))) b m (m.len - m.pos) _, ?_⟩
  unfold bulkRest
  rw [if_neg (by simp [hstale]), if_neg (by simp [hread, hwrite]), hiv, ← hsame]
  exact if_neg (not_not.mpr hdma)

end

end

section
variable (s : State) (m : BulkMsg) (n : Nat)

theorem finalOutput_processed : finalOutput (processed s m n) = if isBulkDec m.fn.toNat then (processed s m n).1
    else (processed s m n).1 ++ (bulkTag (processed s m n).2).take m.tagLen ++ (if m.drawn then m.iv else []) := by
  unfold finalOutput
  rw [processed_fn, processed_tagLen, processed_drawn, processed_iv]

theorem finalStatus_processed : finalStatus (processed s m n) =
    if isBulkDec m.fn.toNat = true ∧ (bulkTag (processed s m n).2).take m.tagLen ≠ m.tag.take m.tagLen then St.tagFail else St.ok := by
  unfold finalStatus
  rw [processed_fn, processed_tagLen, processed_tag]
  simp only [Bool.and_eq_true, bne_iff_ne]

/-- Only a decryption fails by its tag. -/
theorem finalStatus_marks (w : Bytes × BulkMsg) (k : Nat) : (isBulkDec w.2.fn.toNat &&
    decide (finalStatus w = St.tagFail ∨ ((finalStatus w = St.aborted ∨ finalStatus w = St.badPointer) ∧ 0 < k))) =
    decide (finalStatus w = St.tagFail) := by
  unfold finalStatus
  split
  · next hfails =>
    have hdec : isBulkDec w.2.fn.toNat = true := (Bool.and_eq_true _ _ ▸ hfails).1
    simp [hdec]
  · simp [St.ok, St.tagFail, St.aborted, St.badPointer]

end

/-! ### BAE_MESSAGE_END -/

/-- The streams wait while the link of the die retrains. -/
theorem exec_baeMessageEnd_waits {s : State} {b : Fin 8} {dma : Dma} (hlink : linkWaits s (dieOfBae b) = true) : exec (.baeMessageEnd b dma) s = done s := by
  show execBaeMessageEnd b dma s = done s
  unfold execBaeMessageEnd
  split
  · exact if_pos (by rw [hlink, Bool.or_true])
  · rfl

section
variable {s : State} {b : Fin 8} {m₀ : BulkMsg} {dma : Dma} (howner : (s.bae b).owner = .request) (hmsg : (s.bae b).msg = some m₀)
  (hended : m₀.ended = none) (hlink : linkWaits s (dieOfBae b) = false)
include howner hmsg hended hlink

theorem exec_baeMessageEnd_rest : exec (.baeMessageEnd b dma) s = done (bulkRest s b m₀ dma) := by
  have hrun : runningMsg (s.bae b) = some m₀ := (if_pos howner).trans hmsg
  show execBaeMessageEnd b dma s = _
  unfold execBaeMessageEnd
  rw [hrun]
  exact if_neg (by simp [hended, hlink])

theorem baeMessageEnd_stale (h : bulkStale s m₀ = true) : Runs (.baeMessageEnd b dma) s (fun t =>
    t.hostMem = s.hostMem ∧ (t.bae b).msg = some { m₀ with ended := some St.aborted }) := by
  refine runs_of_exec (exec_baeMessageEnd_rest howner hmsg hended hlink) ?_
  rw [bulkRest_stale h, State.drive_bae', bulkEndMsg_bae]
  exact ⟨bulkEndMsg_hostMem _ _ _ _, rfl⟩

variable (hstale : bulkStale s m₀ = false)
include hstale

theorem baeMessageEnd_denied (h : hostGate s false = false ∨ hostGate s true = false) (hunderway : Underway (s.entry m₀.entry)) :
    Runs (.baeMessageEnd b dma) s (fun t =>
      t.hostMem = s.hostMem ∧ (t.entry m₀.entry).state = .staged ∧ (t.entry m₀.entry).status = St.faultAlarm) := by
  refine runs_of_exec (exec_baeMessageEnd_rest howner hmsg hended hlink) ?_
  have hmem : (hostDenied s (hostGate s false)).hostMem = s.hostMem := (KeepsHost.after_recordDenial .refl).hostMem
  have hdenied : hostGate (hostDenied s (hostGate s false)) false = false ∨ hostGate (hostDenied s (hostGate s false)) true = false := by
    unfold hostDenied
    rwa [recordDenial_hostGate, recordDenial_hostGate]
  have hentry : Underway ((hostDenied s (hostGate s false)).entry m₀.entry) := by
    unfold hostDenied
    rwa [recordDenial_entry]
  rw [bulkRest_denied hstale h, State.drive_entry', State.drive_hostMem, endRequest_hostMem_of_denied hdenied]
  exact ⟨hmem, endRequest_ends hentry⟩

variable (hread : hostGate s false = true) (hwrite : hostGate s true = true)
include hread hwrite

theorem baeMessageEnd_awaitsIv (hdraws : m₀.drawn = true ∧ m₀.iv = []) (h : drbgServes s (s.entry m₀.entry).barn = false) :
    exec (.baeMessageEnd b dma) s = done s := by
  rw [exec_baeMessageEnd_rest howner hmsg hended hlink, bulkRest_waits hstale hread hwrite (bulkIv_waits hdraws.1 hdraws.2 h)]

end

/-- What the end of a message leaves, once bytes bs have been written at a. -/
theorem bulkEndMsg_runs {s u : State} {i : Instr} {b a : Nat} {bs : Bytes} {m : BulkMsg} {st : Status}
    (hwritten : KeepsBulk (s.hostWrite a bs) u) (hexec : exec i s = done (bulkEndMsg u b m st)) : Runs i s (fun t =>
      t.hostMem = hostWriteMem s.hostMem a bs ∧ (t.bae b).msg = some { m with ended := some st } ∧
      (t.entry m.entry).untrusted = ((s.entry m.entry).untrusted ||
        (isBulkDec m.fn.toNat && decide (st = St.tagFail ∨ ((st = St.aborted ∨ st = St.badPointer) ∧ 0 < m.count)))) ∧
      ∀ j, j ≠ b → t.bae j = s.bae j) := by
  have hbae : ∀ j, u.bae j = s.bae j := fun j => hwritten.bae j
  have hentry : u.entry m.entry = s.entry m.entry := hwritten.entry _
  refine runs_of_exec hexec ⟨?_, ?_, ?_, fun j hj => ?_⟩
  · rw [State.drive_hostMem, bulkEndMsg_hostMem, hwritten.hostMem]
    rfl
  · rw [State.drive_bae', bulkEndMsg_bae]
  · rw [State.drive_entry', bulkEndMsg_untrusted, hentry]
  · rw [State.drive_bae', bulkEndMsg_bae_ne _ _ _ _ hj, hbae]

section
variable {s : State} {b : Fin 8} {m₀ : BulkMsg} {dma : Dma} (howner : (s.bae b).owner = .request) (hmsg : (s.bae b).msg = some m₀)
  (hended : m₀.ended = none) (hlink : linkWaits s (dieOfBae b) = false) (hstale : bulkStale s m₀ = false) (hread : hostGate s false = true)
  (hwrite : hostGate s true = true) (hserves : m₀.drawn = true ∧ m₀.iv = [] → drbgServes s (s.entry m₀.entry).barn = true)
include howner hmsg hended hlink hstale hread hwrite hserves

theorem baeMessageEnd_fails (hdma : dma ≠ .ok) :
    let m := withIv s m₀
    let w := processed s m (m.len - m.pos)
    ∃ bs, bs <+: finalOutput w ∧ Runs (.baeMessageEnd b dma) s (fun t =>
      t.hostMem = hostWriteMem s.hostMem (m.dst.toNat + m.count) bs ∧
      (t.bae b).msg = some { w.2 with count := w.2.count + bs.length, ended := some St.badPointer } ∧
      (t.entry m.entry).untrusted = ((s.entry m.entry).untrusted || (isBulkDec m.fn.toNat && decide (0 < m.count + bs.length)))) := by
  intro m w
  obtain ⟨t, hkeeps, hiv⟩ := bulkIv_serves hserves
  obtain ⟨bs, u, hprefix, hwritten, hrest⟩ := bulkRest_fails (b := b) (dma := dma) hstale hread hwrite hkeeps hiv hdma
  refine ⟨bs, hprefix, ?_⟩
  obtain ⟨t, hexec, hmem, hmsg, huntrusted, -⟩ := bulkEndMsg_runs hwritten
    ((exec_baeMessageEnd_rest howner hmsg hended hlink).trans (congrArg done hrest))
  have hmarks : decide (St.badPointer = St.tagFail ∨ (St.badPointer = St.aborted ∨ St.badPointer = St.badPointer) ∧ 0 < m.count + bs.length) =
      decide (0 < m.count + bs.length) := by simp [St.badPointer, St.tagFail]
  dsimp only at huntrusted
  rw [processed_entry, processed_fn, processed_count, hmarks] at huntrusted
  exact ⟨t, hexec, hmem, hmsg, huntrusted⟩

theorem baeMessageEnd_ends (hdma : dma = .ok) :
    let m := withIv s m₀
    let w := processed s m (m.len - m.pos)
    Runs (.baeMessageEnd b dma) s (fun t =>
      t.hostMem = hostWriteMem s.hostMem (m.dst.toNat + m.count) (finalOutput w) ∧
      (t.bae b).msg = some { w.2 with count := w.2.count + (finalOutput w).length, ended := some (finalStatus w) } ∧
      (t.entry m.entry).untrusted = ((s.entry m.entry).untrusted || decide (finalStatus w = St.tagFail)) ∧
      ∀ j, j ≠ b.val → t.bae j = s.bae j) := by
  intro m w
  obtain ⟨t, hkeeps, hiv⟩ := bulkIv_serves hserves
  obtain ⟨u, hwritten, hrest⟩ := bulkRest_ends (b := b) (dma := dma) hstale hread hwrite hkeeps hiv hdma
  obtain ⟨t, hexec, hmem, hmsg, huntrusted, hothers⟩ := bulkEndMsg_runs hwritten
    ((exec_baeMessageEnd_rest howner hmsg hended hlink).trans (congrArg done hrest))
  dsimp only at huntrusted
  rw [processed_entry, finalStatus_marks] at huntrusted
  exact ⟨t, hexec, hmem, hmsg, huntrusted, hothers⟩

end

/-- Settles O37: each port on the state that it finds, by the gateway and the judgement of the message; an end of a message by its streams. -/
theorem bulkMessages : Obligations.BulkMessages := by
  unfold Obligations.BulkMessages
  intro s c b sa r dma e y k
  refine ⟨fun hissue hlead hbound howner hentry hresumed htested => ?ports, fun hissue => exec_gateway_shut hissue,
    fun _ => exec_baeMessageEnd_waits, fun m₀ howner hmsg hended hlink => ?ends⟩
  case ports =>
    have hgate : HasGateway s c b := ⟨hlead, hbound, howner, hentry, hresumed, htested⟩
    refine ⟨exec_bgKey_loads hissue hgate, exec_bgKey_refuses hissue hgate, fun n => exec_bgCount_settled hissue hgate,
      fun m => bgCount_running hissue hgate, fun p hinput h => exec_bgCmd_refuses hissue hgate (h.imp_right .inl), fun p hinput hmsg hkey => ?_⟩
    intro a m starting starts barn
    refine ⟨fun hparts => exec_bgCmd_refuses hissue hgate (.inr (.inr hparts)), fun hparts =>
      ⟨exec_bgCmd_overLimit hissue hgate hinput hmsg hkey hparts, exec_bgCmd_overCapacity hissue hgate hinput hmsg hkey hparts, fun hlimits hroom =>
        ⟨exec_bgCmd_allowed hissue hgate hinput hmsg hkey hparts hlimits hroom,
          exec_bgCmd_draws hissue hgate hinput hmsg hkey hparts hlimits hroom⟩⟩⟩
  case ends =>
    intro draws barn m
    have hstale : ∀ {v}, bulkStale s m = v → bulkStale s m₀ = v := fun h => (bulkStale_withIv s m₀).symm.trans h
    refine ⟨fun h => baeMessageEnd_stale howner hmsg hended hlink (hstale h), fun h hdenied hstate haccepted => ?denied,
      fun h hread hwrite => baeMessageEnd_awaitsIv howner hmsg hended hlink (hstale h) hread hwrite, fun h hread hwrite hserves => ?written⟩
    case denied =>
      have hentry : m.entry = m₀.entry := withIv_entry s m₀
      rw [hentry] at hstate haccepted ⊢
      exact baeMessageEnd_denied howner hmsg hended hlink (hstale h) hdenied ⟨hstate, haccepted⟩
    case written =>
      intro w dec out st
      have hout : finalOutput w = out := finalOutput_processed s m (m.len - m.pos)
      have hst : finalStatus w = st := finalStatus_processed s m (m.len - m.pos)
      rw [← hout, ← hst]
      exact ⟨baeMessageEnd_fails howner hmsg hended hlink (hstale h) hread hwrite hserves,
        baeMessageEnd_ends howner hmsg hended hlink (hstale h) hread hwrite hserves⟩

end Sys2Proof.Machine
end

section
/-! Proofs: what stays of the big-number engines while random output is drawn, units are read and requests end. -/

namespace Sys2Proof.Machine

open Sys2Proof Sys2Proof.Bits

/-! ### Steps that leave the engines -/

/-- From s to t the big-number engines, their barns' claims, the requests, the cores and the Keep timer stay. -/
structure KeepsJobs (s t : State) : Prop where
  bnes : t.bnes = s.bnes
  barns : t.barns = s.barns
  entries : t.entries = s.entries
  cores : t.cores = s.cores
  tmr : t.tmr = s.tmr

theorem TraceOnly.keepsJobs {s t : State} (h : TraceOnly s t) : KeepsJobs s t := by
  rw [h]
  exact ⟨rfl, rfl, rfl, rfl, rfl⟩

theorem TallyOnly.keepsJobs {s t : State} (h : TallyOnly s t) : KeepsJobs s t := h.traceOnly.keepsJobs

namespace KeepsJobs

variable {s t u : State}

theorem refl : KeepsJobs s s := ⟨rfl, rfl, rfl, rfl, rfl⟩

theorem trans (h : KeepsJobs s t) (k : KeepsJobs t u) : KeepsJobs s u where
  bnes := k.bnes.trans h.bnes
  barns := k.barns.trans h.barns
  entries := k.entries.trans h.entries
  cores := k.cores.trans h.cores
  tmr := k.tmr.trans h.tmr

theorem ite {c : Prop} [Decidable c] (h : KeepsJobs s t) (k : KeepsJobs s u) : KeepsJobs s (if c then t else u) := by
  split <;> assumption

theorem after_foldl {α : Type} {f : State → α → State} (hf : ∀ u a, KeepsJobs s u → KeepsJobs s (f u a)) (l : List α)
    (h : KeepsJobs s t) : KeepsJobs s (l.foldl f t) :=
  List.foldlRecOn l f h (fun u hu a _ => hf u a hu)

/-! Each operation below is the last of those that lead from s to the state t. -/

theorem after_eq (h : KeepsJobs s t) (hbnes : u.bnes = t.bnes := by rfl) (hbarns : u.barns = t.barns := by rfl)
    (hentries : u.entries = t.entries := by rfl) (hcores : u.cores = t.cores := by rfl) (htmr : u.tmr = t.tmr := by rfl) : KeepsJobs s u :=
  h.trans ⟨hbnes, hbarns, hentries, hcores, htmr⟩

theorem after_tallyOnly (h : KeepsJobs s t) (k : TallyOnly t u) : KeepsJobs s u := h.trans k.keepsJobs

theorem after_draw (h : KeepsJobs s t) {w : Nat} : KeepsJobs s (t.draw w).2 := h.after_eq

theorem after_setFlip (h : KeepsJobs s t) {k : ArrayCell} {p : BitVec 80} : KeepsJobs s (setFlip t k p) := h.after_eq

theorem after_countCycles (h : KeepsJobs s t) {page off : Nat} : KeepsJobs s (countCycles t page off) :=
  (h.after_draw (w := 32)).after_tallyOnly (perfCount_only _ _ _ _)

theorem after_countClaimWait (h : KeepsJobs s t) {b : Nat} : KeepsJobs s (countClaimWait t b) :=
  .after_foldl (fun _ _ hu => hu.after_countCycles) _ h

theorem after_degrade (h : KeepsJobs s t) {c : Nat} {src : BitVec 16} : KeepsJobs s (degrade t c src) := by
  have hcause : KeepsJobs s { t with dev := { t.dev with causes := t.dev.causes ||| (if t.dev.causes.getLsbD c then 0 else BitVec.twoPow 7 c) } } :=
    h.after_eq
  exact hcause.after_tallyOnly (degrade_only t c src)

theorem after_recordDenial (h : KeepsJobs s t) {c : InitClass} {a : Nat} {write : Bool} : KeepsJobs s (recordDenial t c a write) := by
  rcases recordDenial_only t c a write with hsame | ⟨page, g, -, -, honly⟩
  · rwa [hsame]
  · have hgate : KeepsJobs s (t.setGate page g) := h.after_eq
    exact hgate.after_tallyOnly honly

/-! #### Units of on-chip arrays (R269, R270) -/

theorem after_readUnit (h : KeepsJobs s t) {k : ArrayCell} : KeepsJobs s (readUnit t k).2 := by
  unfold readUnit
  split
  · exact h
  · split
    · exact h
    · exact h.after_setFlip.after_tallyOnly (evtCount_only _ _ _ _ _)
    · exact (h.after_tallyOnly (evtCount_only _ _ _ _ _)).after_tallyOnly (latchErr_only _ _ _ _)

theorem after_readUnits (h : KeepsJobs s t) {l : List ArrayCell} : KeepsJobs s (readUnits t l).2 := by
  unfold readUnits
  split
  · exact h
  · exact List.foldlRecOn l _ (motive := fun a : Bool × State => KeepsJobs s a.2) h (fun _ hu _ _ => hu.after_readUnit)

theorem after_writeUnit (h : KeepsJobs s t) {k : ArrayCell} : KeepsJobs s (writeUnit t k) := by
  unfold writeUnit
  exact .ite h h.after_setFlip

/-! #### Random output (R69, R243) -/

theorem after_drbgCall (h : KeepsJobs s t) {i n : Nat} : KeepsJobs s (drbgCall t i n).2 :=
  have hset : KeepsJobs s (t.setDrbg i ((drbgCall t i n).2.drbg i)) := h.after_eq
  hset.after_tallyOnly (drbgCall_only t i n)

theorem after_drbgGen (h : KeepsJobs s t) {i n : Nat} : KeepsJobs s (drbgGen t i n).2 := by
  have hcalls : ∀ k n t, KeepsJobs s t → KeepsJobs s (drbgCalls i k n t).2 := fun k => by
    induction k with
    | zero => exact fun n t ht => ht.after_drbgCall
    | succ k ih =>
      intro n t ht
      unfold drbgCalls
      split
      · exact ht.after_drbgCall
      · exact ih _ _ ht.after_drbgCall
  exact hcalls _ _ _ h

theorem after_randomBelow (h : KeepsJobs s t) {b n : Nat} : KeepsJobs s (randomBelow t b n).2 := h.after_drbgGen

theorem after_randomPrime (h : KeepsJobs s t) {b bits e : Nat} : KeepsJobs s (randomPrime t b bits e).2 := h.after_drbgGen

theorem after_ecdsaSign (h : KeepsJobs s t) {cv : Ec.Curve} {d : Nat} {dg : Bytes} {b : Nat} (n : Nat) :
    KeepsJobs s (ecdsaSign cv d dg n t b).2 := by
  induction n generalizing t with
  | zero => exact h
  | succ n ih =>
    unfold ecdsaSign
    dsimp only
    split
    · exact h.after_randomBelow
    · exact ih h.after_randomBelow

theorem after_generateKey (h : KeepsJobs s t) {b : Nat} {alg : Byte} {bits e : Nat} : KeepsJobs s (generateKey t b alg bits e).2.2 := by
  unfold generateKey
  split
  · exact h.after_randomBelow
  · dsimp only
    split
    · exact h.after_drbgGen
    · split
      · exact h.after_drbgGen
      · split
        · exact h.after_drbgGen
        · exact (h.after_randomPrime (e := e)).after_randomPrime (e := e)

/-! What of a state stays. -/

theorem bne (h : KeepsJobs s t) (k : Nat) : t.bne k = s.bne k := by
  unfold State.bne
  rw [h.bnes]

theorem barn (h : KeepsJobs s t) (b : Nat) : t.barn b = s.barn b := by
  unfold State.barn
  rw [h.barns]

theorem entry (h : KeepsJobs s t) (e : Nat) : t.entry e = s.entry e := entry_of_entries h.entries e

theorem core (h : KeepsJobs s t) (c : Nat) : t.core c = s.core c := by
  unfold State.core
  rw [h.cores]

theorem request (h : KeepsJobs s t) (c : Nat) : t.request c = s.request c := by
  unfold State.request
  rw [h.core, h.entry]

end KeepsJobs

/-! ### The engines while requests end (R193, R209, R210) -/

/-- From s to t every engine keeps its memory, its slots and its fault record, and the Keep timer stays: what ends a job changes the engine's
owner, its command and its wipe alone. -/
def BnesKept (s t : State) : Prop :=
  t.tmr = s.tmr ∧ ∀ k, ∃ o r w c, t.bne k = { s.bne k with owner := o, run := r, wiping := w, clearing := c }

namespace BnesKept

variable {s t u : State} {e : Nat}

theorem refl : BnesKept s s := ⟨rfl, fun _ => ⟨_, _, _, _, rfl⟩⟩

theorem trans (h : BnesKept s t) (k : BnesKept t u) : BnesKept s u := ⟨k.1.trans h.1, fun i => by
  obtain ⟨_, _, _, _, ht⟩ := h.2 i
  obtain ⟨_, _, _, _, hu⟩ := k.2 i
  exact ⟨_, _, _, _, by rw [hu, ht]⟩⟩

theorem ite {c : Prop} [Decidable c] (h : BnesKept s t) (k : BnesKept s u) : BnesKept s (if c then t else u) := by
  split <;> assumption

theorem after_foldl {α : Type} {f : State → α → State} (hf : ∀ u a, BnesKept s u → BnesKept s (f u a)) (l : List α)
    (h : BnesKept s t) : BnesKept s (l.foldl f t) :=
  List.foldlRecOn l f h (fun u hu a _ => hf u a hu)

/-! Each operation below is the last of those that lead from s to the state t. -/

theorem after_eq (h : BnesKept s t) (hbnes : u.bnes = t.bnes := by rfl) (htmr : u.tmr = t.tmr := by rfl) : BnesKept s u :=
  h.trans ⟨htmr, fun k => ⟨(t.bne k).owner, (t.bne k).run, (t.bne k).wiping, (t.bne k).clearing,
    congrArg (fun m => Map.get ({} : Bne) m k) hbnes⟩⟩

theorem after_traceOnly (h : BnesKept s t) (k : TraceOnly t u) : BnesKept s u := .after_eq h (by rw [k]) (by rw [k])

theorem after_tallyOnly (h : BnesKept s t) (k : TallyOnly t u) : BnesKept s u := .after_traceOnly h k.traceOnly

theorem after_setEntry (h : BnesKept s t) {k : Nat} {x : Entry} : BnesKept s (t.setEntry k x) := .after_eq h

theorem after_bulkWrite (h : BnesKept s t) {b : Nat} {m : BulkMsg} {bs : Bytes} : BnesKept s (bulkWrite t b m bs).1 := by
  unfold bulkWrite
  exact .after_traceOnly (.after_eq h) (.after_perfCount .refl)

theorem after_bulkEnd (h : BnesKept s t) : BnesKept s (bulkEnd t e).2.2 := by
  have hread : ∀ {u b n m}, BnesKept s u → BnesKept s (bulkRead u b m n).2.2 := fun {u b n m} hu => by
    unfold bulkRead
    exact .after_traceOnly hu (.after_perfCount .refl)
  have hadvance : ∀ b m, BnesKept s (bulkAdvance t b m).1 := fun b m => by
    unfold bulkAdvance
    split
    · exact h
    · dsimp only
      split
      · exact .after_eq h
      · exact .after_bulkWrite (hread (.after_eq h))
  unfold bulkEnd
  split
  · exact h
  · split
    · exact h
    · dsimp only
      split
      · exact hadvance _ _
      · exact h

theorem after_sealCut (h : BnesKept s t) {st : Status} : BnesKept s (sealCut t e st) := .ite h (.ite (.after_eq h) (.after_eq h))

theorem after_leaveReady (h : BnesKept s t) {ph : ReqPhase} : BnesKept s (leaveReady t e ph) := by
  unfold leaveReady settleDeficit
  dsimp only
  exact .ite (.ite (.after_eq h) (.ite (.after_eq h) (.after_eq h))) (.after_eq h)

theorem after_setBne (h : BnesKept s t) {k : Nat} {o : Option Nat} {r : Option BnPend} {w c : Bool} :
    BnesKept s (t.setBne k { t.bne k with owner := o, run := r, wiping := w, clearing := c }) := by
  refine h.trans ⟨rfl, fun i => ?_⟩
  by_cases hi : i = k
  · rw [hi, State.setBne_self]
    exact ⟨_, _, _, _, rfl⟩
  · rw [State.setBne_ne _ _ _ _ hi]
    exact ⟨_, _, _, _, rfl⟩

theorem after_releaseBne (h : BnesKept s t) {c : Nat} {wipe : Bool} : BnesKept s (releaseBne t c wipe) := by
  unfold releaseBne
  dsimp only
  split
  · exact .after_setBne (.after_eq h)
  · exact .after_eq h

theorem after_stageEntry (h : BnesKept s t) : BnesKept s (stageEntry t e) := by
  have hslots : ∀ u c, BnesKept s u → BnesKept s (eraseBeSlots u c) := fun u c hu => .after_foldl (fun _ _ hv => .after_eq hv) _ hu
  have hcleared : BnesKept s (clearGroup t e false) :=
    .after_eq (.after_foldl (f := fun s c => (eraseBeSlots (releaseBne s c false) c).setCore c {}) (fun u c hu =>
      .after_eq (hslots _ c hu.after_releaseBne)) (t.entry e).group h)
  have hreleased : BnesKept s (releaseBae (clearGroup t e false) e) := by
    unfold releaseBae
    split
    · exact hcleared
    · exact .after_eq hcleared
  have hredeemed : BnesKept s (redeemTally (releaseBae (clearGroup t e false) e) e) := by
    unfold redeemTally
    exact .ite hreleased (.after_tallyOnly (.after_eq hreleased) (Tal.redeem_only _ _ _))
  exact .after_traceOnly (.after_eq hredeemed) (.after_event .refl)

theorem after_endRequest (h : BnesKept s t) {st : Status} : BnesKept s (endRequest t e st) := by
  unfold endRequest endRequestWith
  dsimp only
  exact .ite (.after_stageEntry (.after_setEntry (.after_leaveReady (.after_bulkEnd (.after_sealCut h))))) h

theorem after_keepsJobs (h : BnesKept s t) (k : KeepsJobs t u) : BnesKept s u := h.after_eq k.bnes k.tmr

theorem after_retireBae (h : BnesKept s t) {b : Nat} : BnesKept s (retireBae t b) := by
  have hposted : TallyOnly (withoutBae t b) (postRetired (latchErr (withoutBae t b) (baePage b) 0x0013 b) (dieOfBae b) 3 b) :=
    (latchErr_only _ _ _ _).trans (Tal.post_only _ _)
  have hleft : BnesKept s (withoutBae t b) := h.after_eq
  unfold retireBae
  dsimp only
  exact .ite (.after_keepsJobs (hleft.after_tallyOnly hposted) (.after_degrade .refl)) (hleft.after_tallyOnly hposted)

theorem after_alarmNoted (h : BnesKept s t) {b : Nat} {alarms : List Nat} : BnesKept s (alarmNoted b t alarms) := by
  unfold alarmNoted
  dsimp only
  exact .ite (.after_retireBae (.after_eq h)) (.after_eq h)

theorem after_bulkAlarm (h : BnesKept s t) {b : Nat} : BnesKept s (bulkAlarm t b) := by
  have hended : BnesKept s (alarmEnded t b) :=
    .after_foldl (fun _ _ hu => .after_endRequest hu) _ (h.after_tallyOnly (alarmCounted_only t b))
  rw [bulkAlarm_eq]
  exact hended.after_alarmNoted

theorem after_faultCtx (h : BnesKept s t) {c : Nat} : BnesKept s (faultCtx t c) := by
  unfold faultCtx
  dsimp only
  split
  · exact .after_endRequest (.after_bulkAlarm h)
  · exact .after_endRequest h

end BnesKept

/-! ### A request that a fault ends (R141, R193) -/

section
variable {s : State} {e : Nat}

/-- An alarm leaves a running request running, or stages it with FAULT_ALARM. -/
theorem bulkAlarm_entry (b : Nat) (h : Underway (s.entry e)) :
    Underway ((bulkAlarm s b).entry e) ∨ StagedWith St.faultAlarm ((bulkAlarm s b).entry e) := by
  rw [bulkAlarm_eq, alarmNoted_entry]
  have hcounted : Underway ((alarmCounted s b).entry e) := by rwa [(alarmCounted_only s b).keepsJobs.entry]
  unfold alarmEnded
  by_cases hhit : e ∈ alarmHit (alarmCounted s b) b
  · exact .inr (foldl_endRequest_stagedWith hhit hcounted)
  · refine .inl (List.foldlRecOn _ _ (motive := fun u : State => Underway (u.entry e)) hcounted fun u hu k hk => ?_)
    have hne : e ≠ k := fun hek => hhit (hek ▸ hk)
    exact (endRequest_keepsService u k _).entry_sat hne (fun _ _ hx => hx) hu

theorem endRequest_stagedWith {st : Status} (h : Underway (s.entry e) ∨ StagedWith st (s.entry e)) :
    StagedWith st ((endRequest s e st).entry e) := by
  rcases h with h | h
  · exact endRequest_ends h
  · rwa [endRequest_of_staged h.1]

/-- The request of a context that faults is staged with FAULT_ALARM. -/
theorem faultCtx_stages {c : Nat} (h : Underway (s.request c)) : StagedWith St.faultAlarm ((faultCtx s c).entry (s.core c).entry) := by
  unfold faultCtx
  dsimp only
  split
  · exact endRequest_stagedWith (bulkAlarm_entry _ h)
  · exact endRequest_stagedWith (.inl h)

end

end Sys2Proof.Machine
end

section
/-! Proofs: the window of a big-number engine, and its operand memory (R194 to R198). -/

namespace Sys2Proof.Machine

open Sys2Proof Sys2Proof.Bits

/-! ### Engines that are written and read -/

section
variable {s : State} {k : Nat} {x y : Bne}

theorem setBne_setBne (hx : x ≠ {}) : (s.setBne k x).setBne k y = s.setBne k y :=
  congrArg (fun m => { s with bnes := m }) (set_set hx s.bnes k y)

theorem bne_ne_default {c : Nat} (h : x.owner = some c) : x ≠ {} := fun hx => by
  rw [hx] at h
  cases h

@[simp] theorem Onward_bne (s : State) (c : Nat) (f : Core → Core) (k : Nat) : (Onward s c f).bne k = s.bne k := rfl

@[simp] theorem Onward_bnes (s : State) (c : Nat) (f : Core → Core) : (Onward s c f).bnes = s.bnes := rfl

@[simp] theorem Onward_core (s : State) (c : Nat) (f : Core → Core) : (Onward s c f).core c = ({ f (s.core c) with wait := .none } : Core).next :=
  State.setCore_self _ _ _

/-- Going on after a port write. -/
theorem goNext_eq (s : State) (c : Nat) : goNext s c = Onward s c (fun x => x) := rfl

theorem answer_eq (s : State) (c r : Nat) (v : Word) : answer s c r v = Reads s c r v := rfl

end

section
variable {s u : State} {c : Fin 2048} (h : AtPort s c u)
include h

theorem AtPort.bne (k : Nat) : u.bne k = s.bne k := h.congr (fun t => t.bne k) (fun _ _ _ => rfl)
theorem AtPort.bnes : u.bnes = s.bnes := h.congr State.bnes (fun _ _ _ => rfl)
theorem AtPort.barn (b : Nat) : u.barn b = s.barn b := h.congr (fun t => t.barn b) (fun _ _ _ => rfl)
theorem AtPort.tmr : u.tmr = s.tmr := h.congr State.tmr (fun _ _ _ => rfl)
theorem AtPort.pc : (u.core c).pc = (s.core c).pc := by rw [h.core_eq]

theorem AtPort.underway (hreq : Underway (s.request c)) : Underway (u.request c) := by rwa [h.request]

end

/-! ### The window (R194, R196) -/

section
variable {s : State} {n b : Nat} {f : Nat → State}

theorem bnWindow_denied (h : (s.core n).member ≠ 0 ∨ (s.bne (bneOf n b)).owner ≠ some n) : bnWindow s n b f = portError s n := if_pos h

variable (hlead : (s.core n).member = 0) (howner : (s.bne (bneOf n b)).owner = some n)
include hlead howner

theorem bnWindow_owned : bnWindow s n b f = f (bneOf n b) := if_neg (by simp [hlead, howner])

theorem bnIdle_busy (hrun : (s.bne (bneOf n b)).run.isSome = true) : bnIdle s n b f = waitPaused s n .bnBusy :=
  (bnWindow_owned hlead howner).trans (if_pos hrun)

theorem bnIdle_owned (hrun : (s.bne (bneOf n b)).run = none) : bnIdle s n b f = f (bneOf n b) :=
  (bnWindow_owned hlead howner).trans (if_neg (by simp [hrun]))

end

/-- What an access to the window of an idle engine acts on. -/
theorem OwnsBne.window {s u : State} {c : Fin 2048} {n : Fin 6} (h : OwnsBne s c n) (hu : AtPort s c u) (f : Nat → State) :
    bnIdle u c n f = f (bneOf c n) :=
  bnIdle_owned (hu.member.trans h.lead) (by rw [hu.bne, h.owner]) (by rw [hu.bne, h.idle])

/-! ### Arrays written word by word -/

section
variable {α : Type} [DecidableEq α] {d : α} {m : Map α} {l : List (Nat × α)}

/-- Writes to other indices leave an index as it is. -/
theorem get_foldl_set_of_notMem {a : Nat} (h : ∀ w ∈ l, w.1 ≠ a) :
    Map.get d (l.foldl (fun m w => Map.set d m w.1 w.2) m) a = Map.get d m a :=
  List.foldlRecOn l _ (motive := fun m' => Map.get d m' a = Map.get d m a) rfl
    fun _ hm w hw => (Map.get_set_ne _ _ _ _ _ (h w hw).symm).trans hm

/-- Of writes to distinct indices each stands. -/
theorem get_foldl_set_of_mem (hl : l.Pairwise (fun a b => a.1 ≠ b.1)) {w : Nat × α} (hw : w ∈ l) :
    Map.get d (l.foldl (fun m w => Map.set d m w.1 w.2) m) w.1 = w.2 := by
  induction l generalizing m with
  | nil => cases hw
  | cons a l ih =>
    obtain ⟨ha, hrest⟩ := List.pairwise_cons.mp hl
    rcases List.mem_cons.mp hw with rfl | hw
    · rw [List.foldl_cons, get_foldl_set_of_notMem (fun b hb => (ha b hb).symm), Map.get_set_self]
    · exact ih hrest hw

end

/-! ### Bytes of words -/

theorem length_fit (n : Nat) (bs : Bytes) : (fit n bs).length = n := by
  simp [fit, zeros]
  omega

theorem fit_of_length {n : Nat} {bs : Bytes} (h : bs.length = n) : fit n bs = bs := by simp [fit, zeros, ← h]

theorem length_slice (bs : Bytes) (o n : Nat) : (slice bs o n).length = n := length_fit _ _

theorem slice_within {bs : Bytes} {o n : Nat} (h : o + n ≤ bs.length) : slice bs o n = (bs.drop o).take n := by
  have hlen : n - (bs.length - o) = 0 := by omega
  simp [slice, fit, zeros, hlen]

/-- The bytes of a 64-bit word that eight bytes make. -/
theorem le_word_of_bytes {bs : Bytes} (h : bs.length = 8) : le 8 (BitVec.ofNat 64 (ofLe bs)).toNat = bs := by
  refine ofLe_inj ?_ ((length_le_bytes _ _).trans h.symm)
  have hlt : ofLe bs < 2 ^ 64 := by
    refine Nat.lt_pow_two_of_testBit _ fun i hi => ?_
    have hout : bs.getD (i / 8) 0 = 0 := by simp [List.getD, show bs.length ≤ i / 8 by omega]
    rw [ofLe_testBit, hout]
    exact BitVec.getLsbD_zero
  rw [ofLe_le, BitVec.toNat_ofNat]
  omega

/-- Consecutive words of a byte string. -/
theorem flatMap_slices {bs : Bytes} {n : Nat} (h : 8 * n ≤ bs.length) : (List.range n).flatMap (fun j => slice bs (8 * j) 8) = bs.take (8 * n) := by
  induction n with
  | zero => rfl
  | succ n ih =>
    rw [List.range_succ, List.flatMap_append, ih (by omega), List.flatMap_singleton, slice_within (by omega), Nat.mul_succ, List.take_add]

/-! ### Operand memory (R197, R198) -/

section
variable (y : Bne) (i : Nat)

theorem length_slotBytes : (y.bytes i).length = 8 * (y.slot i).len := by
  simp [Bne.bytes, length_le_bytes, Nat.mul_comm]

/-- Words written from byte o of a slot on. -/
def putWords (o : Nat) (bs : Bytes) : List (Nat × BitVec 64) :=
  let new := (y.bytes i).take o ++ bs ++ (y.bytes i).drop (o + bs.length)
  (List.range (y.slot i).len).map (fun j => ((y.slot i).start + j, BitVec.ofNat 64 (fieldLe new (8 * j) 8)))

theorem putBytes_eq (o : Nat) (bs : Bytes) : y.putBytes i o bs = { y with
    mem := (putWords y i o bs).foldl (fun m w => Map.set 0 m w.1 w.2) y.mem } := by
  unfold Bne.putBytes putWords
  rw [List.foldl_map]

theorem putWords_distinct (o : Nat) (bs : Bytes) : (putWords y i o bs).Pairwise (fun a b => a.1 ≠ b.1) := by
  unfold putWords
  dsimp only
  rw [List.pairwise_map]
  exact List.nodup_range.imp fun hne => by simpa using hne

/-- Bytes written into a slot stand there. -/
theorem bytes_putBytes {o : Nat} {bs : Bytes} (h : o + bs.length ≤ 8 * (y.slot i).len) :
    (y.putBytes i o bs).bytes i = (y.bytes i).take o ++ bs ++ (y.bytes i).drop (o + bs.length) := by
  have hlen := length_slotBytes y i
  have hnew : ((y.bytes i).take o ++ bs ++ (y.bytes i).drop (o + bs.length)).length = 8 * (y.slot i).len := by
    simp only [List.length_append, List.length_take, List.length_drop, hlen]
    omega
  have hword : ∀ j ∈ List.range (y.slot i).len, le 8 (Map.get 0 (y.putBytes i o bs).mem ((y.slot i).start + j)).toNat =
      slice ((y.bytes i).take o ++ bs ++ (y.bytes i).drop (o + bs.length)) (8 * j) 8 := fun j hj => by
    have hmem := List.mem_map_of_mem (f := fun j => ((y.slot i).start + j, BitVec.ofNat 64
      (fieldLe ((y.bytes i).take o ++ bs ++ (y.bytes i).drop (o + bs.length)) (8 * j) 8))) hj
    have hget := get_foldl_set_of_mem (d := 0) (m := y.mem) (putWords_distinct y i o bs) hmem
    rw [putBytes_eq]
    dsimp only at hget ⊢
    rw [hget]
    exact le_word_of_bytes (length_slice _ _ _)
  have hflat : (y.putBytes i o bs).bytes i = (List.range (y.slot i).len).flatMap (fun j =>
      le 8 (Map.get 0 (y.putBytes i o bs).mem ((y.slot i).start + j)).toNat) := rfl
  rw [hflat, List.flatMap_congr hword, flatMap_slices (by rw [hnew]), ← hnew, List.take_length]

/-- A write into a slot leaves the words outside it. -/
theorem mem_putBytes {o : Nat} {bs : Bytes} {a : Nat} (h : a < (y.slot i).start ∨ (y.slot i).start + (y.slot i).len ≤ a) :
    Map.get 0 (y.putBytes i o bs).mem a = Map.get 0 y.mem a := by
  rw [putBytes_eq]
  refine get_foldl_set_of_notMem fun w hw => ?_
  obtain ⟨j, hj, rfl⟩ := List.mem_map.mp hw
  have hlt := List.mem_range.mp hj
  dsimp only
  omega

variable (f : BnSlot → BnSlot)

@[simp] theorem slot_mark : (y.mark i f).slot i = f (y.slot i) := Map.get_set_self _ _ _ _

theorem slot_mark_ne {j : Nat} (hj : j ≠ i) : (y.mark i f).slot j = y.slot j := Map.get_set_ne _ _ _ _ _ hj

/-- A mark that leaves where a slot lies leaves its bytes. -/
theorem bytes_mark (hstart : (f (y.slot i)).start = (y.slot i).start) (hlen : (f (y.slot i)).len = (y.slot i).len) :
    (y.mark i f).bytes i = y.bytes i := by
  unfold Bne.bytes
  rw [slot_mark, hstart, hlen]
  rfl

end

end Sys2Proof.Machine
end

section
/-! Proofs: claims, slots, word access, wipes and faults of the big-number engines (O39). -/

namespace Sys2Proof.Machine

open Sys2Proof Sys2Proof.Bits

/-! ### The engine that a lead owns (R194, R195) -/

section
variable {s : State} {c : Nat}

theorem ownedBne_eq : ownedBne s c = (List.range 6).findSome? (fun i => if (s.bne (bneOf c i)).owner = some c then some (bneOf c i) else none) := rfl

theorem ownedBne_none (h : ∀ m, m < 6 → (s.bne (bneOf c m)).owner ≠ some c) : ownedBne s c = none := by
  rw [ownedBne_eq, List.findSome?_eq_none_iff]
  exact fun m hm => if_neg (h m (List.mem_range.mp hm))

theorem ownedBne_isSome {n : Nat} (hn : n < 6) (h : (s.bne (bneOf c n)).owner = some c) : (ownedBne s c).isSome = true := by
  rw [ownedBne_eq, List.findSome?_isSome_iff]
  exact ⟨n, List.mem_range.mpr hn, by rw [if_pos h]; rfl⟩

theorem ownedBne_only {n : Nat} (hn : n < 6) (h : (s.bne (bneOf c n)).owner = some c)
    (hothers : ∀ m, m < 6 → m ≠ n → (s.bne (bneOf c m)).owner ≠ some c) : ownedBne s c = some (bneOf c n) := by
  obtain ⟨k, hk⟩ := Option.isSome_iff_exists.mp (ownedBne_isSome hn h)
  obtain ⟨m, hm, hfound⟩ := List.exists_of_findSome?_eq_some (ownedBne_eq.symm.trans hk)
  have hm6 := List.mem_range.mp hm
  by_cases hmn : m = n
  · rw [hk, ← hfound, hmn, if_pos h]
  · rw [if_neg (hothers m hm6 hmn)] at hfound
    cases hfound

end

/-! ### Claims (R195) -/

section
variable {s : State} {c n r : Nat} (hlead : (s.core c).member = 0)
include hlead

theorem claimBne_owner (h : (ownedBne s c).isSome = true) : claimBne s c n r false = faultCtx s c := by
  obtain ⟨k, hk⟩ := Option.isSome_iff_exists.mp h
  unfold claimBne
  rw [if_neg (not_not.mpr hlead), hk]
  rfl

variable (hnone : ownedBne s c = none)
include hnone

/-- The first free engine from the named one on is claimed. -/
theorem claimBne_takes {j : Nat} (hj : j < 6) (hfree : bneFree (s.bne (bneOf c ((n + j) % 6))) = true)
    (hfirst : ∀ l, l < j → bneFree (s.bne (bneOf c ((n + l) % 6))) = false) (waited : Bool) :
    claimBne s c n r waited = answer (startJob s (bneOf c ((n + j) % 6)) c) c r (BitVec.ofNat 32 ((n + j) % 6)) := by
  have hfind : ((List.range 6).map (fun i => (n + i) % 6)).find? (fun e => bneFree (s.bne (bneOf c e))) = some ((n + j) % 6) := by
    rw [List.find?_map, List.find?_range_eq_some.mpr ⟨hfree, List.mem_range.mpr hj, fun l hl => by simp [hfirst l hl]⟩]
    rfl
  unfold claimBne
  rw [if_neg (not_not.mpr hlead), hnone]
  dsimp only
  rw [hfind]

/-- A claim that finds no free engine joins its barn's claims. -/
theorem claimBne_waits (hbusy : ∀ j, j < 6 → bneFree (s.bne (bneOf c ((n + j) % 6))) = false) (waited : Bool) :
    ∃ v, claimBne s c n r waited = waitPaused v c (.bnClaim n) ∧ v.bnes = s.bnes ∧ v.core c = s.core c ∧
      ∃ b, (c, b) ∈ (v.barn (barnOfCtx c)).claims := by
  have hfind : ((List.range 6).map (fun i => (n + i) % 6)).find? (fun e => bneFree (s.bne (bneOf c e))) = none := by
    simpa [List.find?_map] using hbusy
  refine ⟨if (s.barn (barnOfCtx c)).claims.any (fun y => y.1 == c) then s
    else s.setBarn (barnOfCtx c) { s.barn (barnOfCtx c) with claims := (s.barn (barnOfCtx c)).claims ++ [(c, n)] }, ?_, ?_, ?_, ?_⟩
  · unfold claimBne
    rw [if_neg (not_not.mpr hlead), hnone]
    dsimp only
    rw [hfind]
  · split <;> rfl
  · split <;> rfl
  · split
    · next hany =>
      obtain ⟨⟨d, b⟩, hmem, hd⟩ := List.any_eq_true.mp hany
      have hdc : d = c := by simpa using hd
      exact ⟨b, hdc ▸ hmem⟩
    · exact ⟨n, by rw [State.setBarn_self]; exact List.mem_append_right _ (List.mem_singleton_self _)⟩

end

/-- A context that waits for an engine keeps its place. -/
theorem waitPaused_leaves (s : State) (c : Nat) (w : Wait) : ((waitPaused s c w).core c).wait = w ∧
    ((waitPaused s c w).core c).pc = (s.core c).pc ∧ (waitPaused s c w).bnes = s.bnes ∧ ∀ b, (waitPaused s c w).barn b = s.barn b := by
  unfold waitPaused State.modCore
  rw [State.setCore_self]
  exact ⟨rfl, rfl, rfl, fun _ => rfl⟩

theorem AtPort.ownedBne_none {s u : State} {c : Fin 2048} (hu : AtPort s c u) (h : ∀ m, m < 6 → (s.bne (bneOf c m)).owner ≠ some c.val) :
    ownedBne u c = none := Machine.ownedBne_none fun m hm => by rw [hu.bne]; exact h m hm

section
variable {s : State} {c : Fin 2048} {n : Fin 6} {r : Fin 32} (hissue : Issues s (.tu c)) (hlead : (s.core c).member = 0)
include hissue hlead

theorem exec_bnClaim_takes (hnone : ∀ m, m < 6 → (s.bne (bneOf c m)).owner ≠ some c.val) {j : Nat} (hj : j < 6)
    (hfree : bneFree (s.bne (bneOf c ((n + j) % 6))) = true)
    (hfirst : ∀ l, l < j → bneFree (s.bne (bneOf c ((n + l) % 6))) = false) :
    let e := (n.val + j) % 6
    let z := s.bne (bneOf c e)
    ∃ u, AtPort s c u ∧ exec (.bnClaim c n r) s = done (Reads (perfCount (u.setBne (bneOf c e) {
      owner := some c.val
      retired := z.retired
      faults := z.faults }) (bnePage (bneOf c e)) 0x040 1) c r (BitVec.ofNat 32 e)) := by
  intro e z
  refine exists_atPort hissue (k := fun u => claimBne u c n r ((s.core c).wait == .bnClaim n)) rfl (by simp) fun u hu => ?_
  rw [claimBne_takes (hu.member.trans hlead) (hu.ownedBne_none hnone) hj (by rw [hu.bne]; exact hfree)
    (fun l hl => by rw [hu.bne]; exact hfirst l hl), answer_eq, startJob, hu.bne]

theorem bnClaim_waits (hnone : ∀ m, m < 6 → (s.bne (bneOf c m)).owner ≠ some c.val)
    (hbusy : ∀ j, j < 6 → bneFree (s.bne (bneOf c ((n + j) % 6))) = false) :
    Runs (.bnClaim c n r) s (fun t => (t.core c).wait = .bnClaim n ∧ (t.core c).pc = (s.core c).pc ∧ t.bnes = s.bnes ∧
      ∃ b, (c.val, b) ∈ (t.barn (barnOfCtx c)).claims) := by
  obtain ⟨u, hu, hexec⟩ := exists_atPort hissue (i := .bnClaim c n r) (w := (· == .bnClaim n))
    (k := fun u => claimBne u c n r ((s.core c).wait == .bnClaim n)) rfl (by simp) fun u _ => rfl
  obtain ⟨v, hwaits, hbnes, hcore, b, hclaim⟩ := claimBne_waits (hu.member.trans hlead) (hu.ownedBne_none hnone)
    (fun j hj => by rw [hu.bne]; exact hbusy j hj) ((s.core c).wait == .bnClaim n)
  obtain ⟨hwait, hpc, hbnes', hbarn⟩ := waitPaused_leaves v c (.bnClaim n)
  rw [hwaits] at hexec
  refine runs_of_exec hexec ⟨?_, ?_, ?_, b, ?_⟩
  · rw [State.drive_core', hwait]
  · rw [State.drive_core', hpc, hcore, hu.pc]
  · rw [State.drive_bnes, hbnes', hbnes, hu.bnes]
  · rw [State.drive_barn', hbarn]
    exact hclaim

theorem exec_bnClaim_owner (howner : (s.bne (bneOf c n)).owner = some c.val) :
    ∃ u, AtPort s c u ∧ exec (.bnClaim c n r) s = done (faultCtx u c) := by
  refine exists_atPort hissue (k := fun u => claimBne u c n r ((s.core c).wait == .bnClaim n)) rfl (by simp) fun u hu => ?_
  have hwait : ((s.core c).wait == .bnClaim n) = false := by
    have hnone : (s.core c).wait = .none := hissue.2.1
    rw [hnone]
    rfl
  rw [hwait, claimBne_owner (hu.member.trans hlead) (ownedBne_isSome n.isLt (by rw [hu.bne, howner]))]

end

/-! ### Accesses to a window (R194, R196, R197) -/

theorem bnIdle_denied {s : State} {n b : Nat} {f : Nat → State} (h : (s.core n).member ≠ 0 ∨ (s.bne (bneOf n b)).owner ≠ some n) :
    bnIdle s n b f = portError s n := bnWindow_denied h

section
variable {s : State} {c : Fin 2048} {n : Fin 6} {r : Fin 32} {v : Word} (hissue : Issues s (.tu c))
include hissue

theorem exec_window_denied (hdenied : (s.core c).member ≠ 0 ∨ (s.bne (bneOf c n)).owner ≠ some c.val) :
    ∀ j ∈ [Instr.bnSlot c n v, .bnWr c n v, .bnRd c n r, .bnRelease c n], ∃ u, AtPort s c u ∧ exec j s = done (portError u c) := by
  have hdeny : ∀ u, AtPort s c u → (u.core c).member ≠ 0 ∨ (u.bne (bneOf c n)).owner ≠ some c.val := fun u hu => by
    rw [hu.member, hu.bne]
    exact hdenied
  simp only [List.forall_mem_cons, List.not_mem_nil, false_imp_iff, implies_true, and_true]
  exact ⟨exists_atPort hissue (k := fun u => bnConfig u c n v) rfl rfl fun u hu => bnWindow_denied (hdeny u hu),
    exists_atPort hissue (k := fun u => bnWrite u c n v) rfl rfl fun u hu => bnIdle_denied (hdeny u hu),
    exists_atPort hissue (k := fun u => bnRead u c n r) rfl rfl fun u hu => bnIdle_denied (hdeny u hu),
    exists_atPort hissue (k := fun u => bnRelease u c n) rfl rfl fun u hu => bnWindow_denied (hdeny u hu)⟩

variable (hlead : (s.core c).member = 0) (howner : (s.bne (bneOf c n)).owner = some c.val)
include hlead howner

/-- An access to the window of a busy engine waits. -/
theorem window_busy {i : Instr} {k : State → State} {f : State → Nat → State} (hi : exec i s = portRow c bnWaits s k)
    (hk : ∀ u, k u = bnIdle u c n (f u)) (hrun : (s.bne (bneOf c n)).run.isSome = true) :
    Runs i s (fun t => (t.core c).wait = .bnBusy ∧ (t.core c).pc = (s.core c).pc ∧ t.bnes = s.bnes) := by
  obtain ⟨u, hu, hexec⟩ := exists_atPort hissue hi rfl fun u hu => (hk u).trans
    (bnIdle_busy (hu.member.trans hlead) (by rw [hu.bne, howner]) (by rw [hu.bne, hrun]))
  obtain ⟨hwait, hpc, hbnes, -⟩ := waitPaused_leaves u c .bnBusy
  refine runs_of_exec hexec ⟨?_, ?_, ?_⟩
  · rw [State.drive_core', hwait]
  · rw [State.drive_core', hpc, hu.pc]
  · rw [State.drive_bnes, hbnes, hu.bnes]

theorem runs_window_busy (x : BneArgs) (hrun : (s.bne (bneOf c n)).run.isSome = true) :
    ∀ j ∈ [Instr.bnWr c n v, .bnRd c n r, .bnXfer c n v .ok, .bnKey c n v, .bnStore c n v, .bneMmul c n x],
      Runs j s (fun t => (t.core c).wait = .bnBusy ∧ (t.core c).pc = (s.core c).pc ∧ t.bnes = s.bnes) := by
  simp only [List.forall_mem_cons, List.not_mem_nil, false_imp_iff, implies_true, and_true]
  exact ⟨window_busy hissue hlead howner (k := fun u => bnWrite u c n v) rfl (fun _ => rfl) hrun,
    window_busy hissue hlead howner (k := fun u => bnRead u c n r) rfl (fun _ => rfl) hrun,
    window_busy hissue hlead howner (k := fun u => bnTransfer u c n v .ok) rfl (fun _ => rfl) hrun,
    window_busy hissue hlead howner (k := fun u => bnFetchKey u c n v) rfl (fun _ => rfl) hrun,
    window_busy hissue hlead howner (k := fun u => bnStoreKey u c n v) rfl (fun _ => rfl) hrun,
    window_busy hissue hlead howner (k := fun u => bnCommand u c n .mmul x) rfl (fun _ => rfl) hrun⟩

/-- A slot is laid out after those before it. -/
theorem exec_bnSlot :
    let y := s.bne (bneOf c n)
    let a := v.toNat % 16
    let len := v.toNat / 16 % 2 ^ 14
    let ok := y.closed = false ∧ (y.slot a).on = false ∧ len ≠ 0 ∧ y.used + len ≤ 8192
    (ok → ∃ u, AtPort s c u ∧ exec (.bnSlot c n v) s = done (Onward (u.setBne (bneOf c n) { y with
      slots := Map.set {} y.slots a { on := true, start := y.used, len := len }
      used := y.used + len }) c (fun x => x))) ∧
    (¬ok → ∃ u, AtPort s c u ∧ exec (.bnSlot c n v) s = done (faultCtx u c)) := by
  intro y a len ok
  have hconfig : ∀ u, AtPort s c u → bnConfig u c n v = if ok then Onward (u.setBne (bneOf c n) { y with
      slots := Map.set {} y.slots a { on := true, start := y.used, len := len }
      used := y.used + len }) c (fun x => x) else faultCtx u c := fun u hu => by
    have hslot : bits v.toNat 3 0 = a := by simp [bits, a]
    have hlen : bits v.toNat 17 4 = len := by simp [bits, len]
    have hwindow : bnConfig u c n v = _ := bnWindow_owned (hu.member.trans hlead) (by rw [hu.bne, howner])
    rw [hwindow]
    dsimp only
    rw [hslot, hlen, hu.bne]
    by_cases hbad : y.closed = true ∨ (y.slot a).on = true ∨ len = 0 ∨ 8192 < y.used + len
    · exact (if_pos hbad).trans (if_neg fun ⟨hopen, hoff, hne, hroom⟩ => by
        rcases hbad with h | h | h | h
        · exact absurd (h.symm.trans hopen) (by decide)
        · exact absurd (h.symm.trans hoff) (by decide)
        · exact hne h
        · omega).symm
    · have hok := hbad
      simp only [not_or, not_lt, Bool.not_eq_true] at hok
      exact (if_neg hbad).trans (if_pos hok).symm
  constructor
  · intro hok
    exact exists_atPort hissue (k := fun u => bnConfig u c n v) rfl rfl fun u hu => (hconfig u hu).trans (if_pos hok)
  · intro hok
    exact exists_atPort hissue (k := fun u => bnConfig u c n v) rfl rfl fun u hu => (hconfig u hu).trans (if_neg hok)

/-- The release of an engine begins its wipe, and leaves the other engines. -/
theorem bnRelease_runs (hothers : ∀ m, m < 6 → m ≠ n.val → (s.bne (bneOf c m)).owner ≠ some c.val) :
    Runs (.bnRelease c n) s (fun t =>
      t.bne (bneOf c n) = { s.bne (bneOf c n) with owner := none, run := none, wiping := true, clearing := false } ∧
      ∀ j, j ≠ bneOf c n → t.bne j = s.bne j) := by
  obtain ⟨u, hu, hexec⟩ := exists_atPort hissue (i := .bnRelease c n) (k := fun u => bnRelease u c n) rfl rfl fun u hu =>
    bnWindow_owned (hu.member.trans hlead) (by rw [hu.bne, howner])
  have hreleased : ∃ v : State, v.bnes = u.bnes ∧ releaseBne u c true = v.setBne (bneOf c n)
      { v.bne (bneOf c n) with owner := none, run := none, wiping := true, clearing := false } := by
    let v := u.setBarn (barnOfCtx c) { u.barn (barnOfCtx c) with claims := (u.barn (barnOfCtx c)).claims.filter (fun y => y.1 != c) }
    have howned : ownedBne v c = some (bneOf c n) := ownedBne_only n.isLt (by rw [State.setBarn_bne', hu.bne, howner])
      (fun m hm hmn => by rw [State.setBarn_bne', hu.bne]; exact hothers m hm hmn)
    refine ⟨v, rfl, ?_⟩
    unfold releaseBne
    dsimp only
    rw [howned]
    rfl
  obtain ⟨v, hbnes, hreleased⟩ := hreleased
  have hbne : ∀ j, v.bne j = s.bne j := fun j => (congrArg (fun m => Map.get ({} : Bne) m j) hbnes : v.bne j = u.bne j).trans (hu.bne j)
  rw [hreleased, goNext_eq] at hexec
  refine runs_of_exec hexec ⟨?_, fun j hj => ?_⟩
  · rw [State.drive_bne', Onward_bne, State.setBne_self, hbne]
  · rw [State.drive_bne', Onward_bne, State.setBne_ne _ _ _ _ hj, hbne]

end

/-! ### Words in and out (R196, R198) -/

section
variable {s : State} {c : Fin 2048} {n : Fin 6} {r : Fin 32} {v : Word} (howns : OwnsBne s c n)
include howns

theorem exec_bnRd_beyond {j : Instr} (hout : ((s.bne (bneOf c n)).slot (s.bne (bneOf c n)).ptrSlot).on = false ∨
    2 * ((s.bne (bneOf c n)).slot (s.bne (bneOf c n)).ptrSlot).len ≤ (s.bne (bneOf c n)).ptrPos) (hj : j ∈ [Instr.bnWr c n v, .bnRd c n r]) :
    ∃ u, AtPort s c u ∧ exec j s = done (faultCtx u c) := by
  simp only [List.mem_cons, List.not_mem_nil, or_false] at hj
  rcases hj with rfl | rfl
  · refine exists_atPort howns.issues (k := fun u => bnWrite u c n v) rfl rfl fun u hu => (howns.window hu _).trans ?_
    dsimp only
    rw [hu.bne]
    exact if_pos (by simpa using hout)
  · refine exists_atPort howns.issues (k := fun u => bnRead u c n r) rfl rfl fun u hu => (howns.window hu _).trans ?_
    dsimp only
    rw [hu.bne]
    exact if_pos (by simpa using hout)

section
variable {y : Bne} (hy : s.bne (bneOf c n) = y) (hon : (y.slot y.ptrSlot).on = true) (hpos : y.ptrPos < 2 * (y.slot y.ptrSlot).len)
include hy hon hpos

theorem bnWr_runs :
    let i := y.ptrSlot
    Runs (.bnWr c n v) s (fun t =>
      let z := t.bne (bneOf c n)
      z.bytes i = (y.bytes i).take (4 * y.ptrPos) ++ le 4 v.toNat ++ (y.bytes i).drop (4 * y.ptrPos + 4) ∧ z.ptrPos = y.ptrPos + 1 ∧
      (z.slot i).label = (if (y.slot i).label = .p then .p else .k) ∧ (z.slot i).storable = false ∧
      (∀ j, j ≠ i → z.slot j = y.slot j) ∧
      ∀ a, (a < (y.slot i).start ∨ (y.slot i).start + (y.slot i).len ≤ a) → Map.get 0 z.mem a = Map.get 0 y.mem a) := by
  intro i
  let w := (y.putBytes i (4 * y.ptrPos) (le 4 v.toNat)).mark i (fun x => x.written false)
  obtain ⟨u, -, hexec⟩ := exists_atPort howns.issues (i := .bnWr c n v) (k := fun u => bnWrite u c n v)
    (F := fun u => Onward (u.setBne (bneOf c n) { w with ptrPos := y.ptrPos + 1 }) c (fun x => x)) rfl rfl fun u hu => by
      refine (howns.window hu _).trans ?_
      dsimp only
      rw [hu.bne, hy]
      exact if_neg (by simp [hon, hpos])
  refine runs_of_exec hexec ?_
  rw [State.drive_bne', Onward_bne, State.setBne_self]
  have hslot : w.slot i = (y.slot i).written false := slot_mark _ _ _
  have hbytes : w.bytes i = (y.putBytes i (4 * y.ptrPos) (le 4 v.toNat)).bytes i := bytes_mark _ _ _ rfl rfl
  have hroom : 4 * y.ptrPos + 4 ≤ 8 * (y.slot i).len := by
    have : y.ptrPos < 2 * (y.slot i).len := hpos
    omega
  have hput := bytes_putBytes y i (o := 4 * y.ptrPos) (bs := le 4 v.toNat) (by rw [length_le_bytes]; exact hroom)
  rw [length_le_bytes] at hput
  refine ⟨hbytes.trans hput, rfl, ?_, ?_,
    fun j hj => (slot_mark_ne (y.putBytes i (4 * y.ptrPos) (le 4 v.toNat)) i (fun x => x.written false) hj :), fun a ha => mem_putBytes y i ha⟩
  · exact (congrArg BnSlot.label hslot).trans (if_congr (by simp) rfl rfl)
  · exact congrArg BnSlot.storable hslot

theorem exec_bnRd (hlabel : (y.slot y.ptrSlot).label = .p ∨ (y.slot y.ptrSlot).label = .c) : ∃ u, AtPort s c u ∧ exec (.bnRd c n r) s =
    done (Reads (u.setBne (bneOf c n) { y with ptrPos := y.ptrPos + 1 }) c r
      (BitVec.ofNat 32 (fieldLe (y.bytes y.ptrSlot) (4 * y.ptrPos) 4))) := by
  refine exists_atPort howns.issues (k := fun u => bnRead u c n r) rfl rfl fun u hu => (howns.window hu _).trans ?_
  dsimp only
  rw [hu.bne, hy]
  exact (if_neg (by simp [hon, hpos])).trans (if_neg (by rcases hlabel with h | h <;> simp [h]))

/-- A slot of another label is not read. -/
theorem exec_bnRd_denied (hp : (y.slot y.ptrSlot).label ≠ .p) (hc : (y.slot y.ptrSlot).label ≠ .c) :
    ∃ u, AtPort s c u ∧ exec (.bnRd c n r) s = done (portError u c) := by
  refine exists_atPort howns.issues (k := fun u => bnRead u c n r) rfl rfl fun u hu => (howns.window hu _).trans ?_
  dsimp only
  rw [hu.bne, hy]
  exact (if_neg (by simp [hon, hpos])).trans (if_pos ⟨hp, hc⟩)

end

end

/-! ### Faults (R209) -/

/-- The fault record of an engine after one more fault at time `now`: the third within 1 s retires the engine; else its self-test follows the
clearing. -/
def Bne.faulted (x : Bne) (now : Nat) : Bne :=
  let times := noteTime x.faults now 3
  if withinSpan times 3 second then
    { x with faults := times, retired := true, selftest := false, needTest := false, wiping := false, clearing := false }
  else { x with faults := times, needTest := true }

section
variable (x : Bne) (now : Nat)

theorem faulted_faults : (x.faulted now).faults = noteTime x.faults now 3 := by
  unfold Bne.faulted
  dsimp only
  split <;> rfl

theorem faulted_mem : (x.faulted now).mem = x.mem := by
  unfold Bne.faulted
  dsimp only
  split <;> rfl

theorem faulted_slots : (x.faulted now).slots = x.slots := by
  unfold Bne.faulted
  dsimp only
  split <;> rfl

variable {x now}

theorem faulted_retires (h : withinSpan (noteTime x.faults now 3) 3 second = true) : x.faulted now = { x with
    faults := noteTime x.faults now 3, retired := true, selftest := false, needTest := false, wiping := false, clearing := false } := if_pos h

theorem faulted_stays (h : withinSpan (noteTime x.faults now 3) 3 second = false) :
    x.faulted now = { x with faults := noteTime x.faults now 3, needTest := true } := if_neg (by simp [h])

theorem faulted_retired (h : x.retired = false) : (x.faulted now).retired = withinSpan (noteTime x.faults now 3) 3 second := by
  cases hspan : withinSpan (noteTime x.faults now 3) 3 second with
  | true => rw [faulted_retires hspan]
  | false => rw [faulted_stays hspan, h]

end

section
variable (s : State) (k : Nat)

/-- The counting of an engine's retirement leaves the engines and the requests. -/
theorem retireBne_keepsJobs : KeepsJobs (s.setBne k { s.bne k with
    retired := true, selftest := false, needTest := false, wiping := false, clearing := false }) (retireBne s k) := by
  have hposted : ∀ u d, KeepsJobs u (postRetired (latchErr u (bnePage k) 0x0013 k) d 4 k) := fun u d =>
    (latchErr_only _ _ _ _).keepsJobs.after_tallyOnly (Tal.post_only _ _)
  unfold retireBne
  dsimp only
  exact .ite (hposted _ _).after_degrade (hposted _ _)

theorem retireBne_bne : (retireBne s k).bne k = { s.bne k with
    retired := true, selftest := false, needTest := false, wiping := false, clearing := false } := by
  rw [(retireBne_keepsJobs s k).bne, State.setBne_self]

/-- A fault once its counters and its error code have been set. -/
def bneFaultNoted (s : State) (k : Nat) : State :=
  let times := noteTime (s.bne k).faults s.tmr.now 3
  let s := s.modBne k (fun y => { y with faults := times, needTest := true })
  if withinSpan times 3 second then retireBne s k else s

theorem bneFaultNoted_bne : (bneFaultNoted s k).bne k = (s.bne k).faulted s.tmr.now := by
  unfold bneFaultNoted Bne.faulted State.modBne
  dsimp only
  split
  · rw [retireBne_bne, State.setBne_self]
  · exact State.setBne_self _ _ _

theorem bneFaultNoted_entries : (bneFaultNoted s k).entries = s.entries := by
  unfold bneFaultNoted State.modBne
  dsimp only
  split
  · rw [(retireBne_keepsJobs _ k).entries]
    rfl
  · rfl

theorem bneFaultCount_noted (check : Bool) : ∃ u, KeepsJobs s u ∧ bneFaultCount s k check = bneFaultNoted u k := by
  refine ⟨_, KeepsJobs.after_tallyOnly (.ite (c := check = true) (evtCount_only s (bnePage k) 0x084 27 14).keepsJobs
    (evtCount_only s (bnePage k) 0x084 13 0).keepsJobs) (latchErr_only _ (bnePage k) 0x0010 k), ?_⟩
  unfold bneFaultCount
  rfl

theorem bneFaultCount_bne (check : Bool) : (bneFaultCount s k check).bne k = (s.bne k).faulted s.tmr.now := by
  obtain ⟨u, hu, hcount⟩ := bneFaultCount_noted s k check
  rw [hcount, bneFaultNoted_bne, hu.bne, hu.tmr]

theorem bneFaultCount_entries (check : Bool) : (bneFaultCount s k check).entries = s.entries := by
  obtain ⟨u, hu, hcount⟩ := bneFaultCount_noted s k check
  rw [hcount, bneFaultNoted_entries, hu.entries]

/-- What a fault leaves of the engine: its record, of the engine that the request's end has given back. -/
theorem bneFaulted_bne (check : Bool) : ∃ o r w c, (bneFaulted s k check).bne k =
    ({ s.bne k with owner := o, run := r, wiping := w, clearing := c } : Bne).faulted s.tmr.now := by
  obtain ⟨u, ⟨htmr, hkept⟩, hfault⟩ : ∃ u, BnesKept s u ∧ bneFaulted s k check = bneFaultCount u k check := by
    unfold bneFaulted
    cases (s.bne k).owner with
    | some d => exact ⟨faultCtx s d, .after_faultCtx .refl, rfl⟩
    | none => exact ⟨s, .refl, rfl⟩
  obtain ⟨o, r, w, c, hbne⟩ := hkept k
  exact ⟨o, r, w, c, by rw [hfault, bneFaultCount_bne, htmr, hbne]⟩

/-- The owner's request ends with FAULT_ALARM. -/
theorem bneFaulted_stages (check : Bool) {d : Nat} (howner : (s.bne k).owner = some d) (h : Underway (s.request d)) :
    StagedWith St.faultAlarm ((bneFaulted s k check).entry (s.core d).entry) := by
  unfold bneFaulted
  dsimp only
  rw [entry_of_entries (bneFaultCount_entries _ k check), howner]
  exact faultCtx_stages h

end

theorem bneFault_runs {s : State} {e : Fin 48} {check : Bool} (hretired : (s.bne e).retired = false)
    (hjob : (s.bne e).wiping = true ∨ (s.bne e).clearing = true ∨ (s.bne e).owner.isSome = true) :
    let z := s.bne e
    let times := noteTime z.faults s.tmr.now 3
    Runs (.bneFault e check) s (fun t =>
      (t.bne e).faults = times ∧ (t.bne e).retired = withinSpan times 3 1000000000 ∧
      (withinSpan times 3 1000000000 = false → (t.bne e).needTest = true) ∧
      ∀ d, z.owner = some d → (s.request d).state = .reserved → (s.request d).accepted = true →
        (t.entry (s.core d).entry).state = .staged ∧ (t.entry (s.core d).entry).status = St.faultAlarm) := by
  intro z times
  have hexec : exec (.bneFault e check) s = done (bneFaulted s e check) := if_neg (by
    rw [hretired]
    rcases hjob with h | h | h
    · simp [h]
    · simp [h]
    · simp [Option.isSome_iff_ne_none.mp h])
  obtain ⟨o, r, w, c, hbne⟩ := bneFaulted_bne s e check
  refine runs_of_exec hexec ⟨?_, ?_, fun hspan => ?_, fun d howner hstate haccepted => ?_⟩
  · rw [State.drive_bne', hbne, faulted_faults]
  · rw [State.drive_bne', hbne]
    exact faulted_retired hretired
  · rw [State.drive_bne', hbne, faulted_stays (by exact hspan)]
  · rw [State.drive_entry']
    exact bneFaulted_stages s e check howner ⟨hstate, haccepted⟩

/-! ### The next claim (R195, R209, R210) -/

section
variable {s : State} {k : Nat}

theorem serveClaim_idle (h : bneFree (s.bne k) = false ∨ (s.barn (barnOfBne k)).claims = []) : serveClaim s k = s := by
  unfold serveClaim
  dsimp only
  rcases h with h | h
  · exact if_pos (by rw [h]; rfl)
  · rw [h]
    exact ite_self _

/-- A free engine goes to the first waiting claim. -/
theorem serveClaim_serves {m p : Nat} {rest : List (Nat × Nat)} (hfree : bneFree (s.bne k) = true)
    (hclaims : (s.barn (barnOfBne k)).claims = (m, p) :: rest) :
    (serveClaim s k).bne k = { owner := some m, retired := (s.bne k).retired, faults := (s.bne k).faults } ∧
    ((serveClaim s k).barn (barnOfBne k)).claims = rest := by
  have hwaited := KeepsJobs.refl (s := s.setBarn (barnOfBne k) { s.barn (barnOfBne k) with claims := rest }).after_countClaimWait (b := barnOfBne k)
  have hserve : serveClaim s k = startJob
      (countClaimWait (s.setBarn (barnOfBne k) { s.barn (barnOfBne k) with claims := rest }) (barnOfBne k)) k m := by
    unfold serveClaim
    dsimp only
    rw [if_neg (by simp [hfree]), hclaims]
  rw [hserve]
  generalize countClaimWait _ _ = u at hwaited ⊢
  have hstarted := (perfCount_only (u.setBne k { owner := some m, retired := (u.bne k).retired, faults := (u.bne k).faults })
    (bnePage k) 0x040 1).keepsJobs
  unfold startJob
  dsimp only
  rw [hstarted.bne, hstarted.barn, State.setBne_self, State.setBne_barn', hwaited.bne, hwaited.barn, State.setBarn_self, State.setBarn_bne']
  exact ⟨rfl, rfl⟩

end

/-! ### Self-tests and wipes (R209 to R211) -/

section
variable {s : State} {e : Fin 48} (hself : (s.bne e).selftest = true)
include hself

/-- The state once a self-test's outcome has been noted. -/
theorem bneSelftestDone_noted (pass : Bool) : ∃ u, KeepsJobs (s.setBne e { s.bne e with selftest := false }) u ∧
    exec (.bneSelftestDone e pass) s = done (if pass then serveClaim u e else retireBne (latchErr u (bnePage e) 0x0012 e) e) := by
  have hnoted : ∀ u, TallyOnly s u →
      KeepsJobs (s.setBne e { s.bne e with selftest := false }) (u.modBne e (fun y => { y with selftest := false })) :=
    fun u hu => by
      rw [hu]
      exact ⟨rfl, rfl, rfl, rfl, rfl⟩
  refine ⟨_, hnoted _ (setRegBits_only s (bnePage e + 0x084) 28 28 (b2n (!pass))), ?_⟩
  show execBneSelftestDone e pass s = _
  unfold execBneSelftestDone
  rw [if_neg (by simp [hself])]

theorem bneSelftestDone_passes (hclaims : (s.barn (barnOfBne e)).claims = []) :
    Runs (.bneSelftestDone e true) s (fun t => t.bne e = { s.bne e with selftest := false }) := by
  obtain ⟨u, hu, hexec⟩ := bneSelftestDone_noted hself true
  refine runs_of_exec hexec ?_
  rw [State.drive_bne', if_pos rfl, serveClaim_idle (.inr (by rw [hu.barn]; exact hclaims)), hu.bne, State.setBne_self]

theorem bneSelftestDone_serves {m p : Nat} {rest : List (Nat × Nat)} (hclaims : (s.barn (barnOfBne e)).claims = (m, p) :: rest)
    (howner : (s.bne e).owner = none) (hwiping : (s.bne e).wiping = false) (hclearing : (s.bne e).clearing = false)
    (hneed : (s.bne e).needTest = false) (hretired : (s.bne e).retired = false) :
    Runs (.bneSelftestDone e true) s (fun t => (t.bne e).owner = some m ∧ (t.bne e).mem = [] ∧ (t.bne e).slots = [] ∧
      (t.barn (barnOfBne e)).claims = rest) := by
  obtain ⟨u, hu, hexec⟩ := bneSelftestDone_noted hself true
  have hfree : bneFree (u.bne e) = true := by
    rw [hu.bne, State.setBne_self]
    simp [bneFree, howner, hwiping, hclearing, hneed, hretired]
  obtain ⟨hbne, hrest⟩ := serveClaim_serves hfree (by rw [hu.barn]; exact hclaims)
  refine runs_of_exec hexec ?_
  rw [State.drive_bne', State.drive_barn', if_pos rfl, hbne]
  exact ⟨rfl, rfl, rfl, hrest⟩

theorem bneSelftestDone_fails : Runs (.bneSelftestDone e false) s (fun t => (t.bne e).retired = true ∧ (t.bne e).selftest = false) := by
  obtain ⟨u, -, hexec⟩ := bneSelftestDone_noted hself false
  refine runs_of_exec hexec ?_
  rw [State.drive_bne', if_neg (by decide), retireBne_bne]
  exact ⟨rfl, rfl⟩

end

section
variable {s : State} {k : Nat}

/-- An engine whose memory is zero again, before the next claim: its fault record stays, and the self-test begins where a fault calls for it. -/
theorem bneCleared_eq (s : State) (k : Nat) : ∃ u : State, (∀ b, u.barn b = s.barn b) ∧
    u.bne k = { selftest := (s.bne k).needTest, retired := (s.bne k).retired, faults := (s.bne k).faults } ∧ bneCleared s k = serveClaim u k := by
  have hzeroed : KeepsJobs s ((bneFlips s k).foldl writeUnit s) := .after_foldl (fun _ _ hu => hu.after_writeUnit) _ .refl
  unfold bneCleared
  dsimp only
  generalize (bneFlips s k).foldl writeUnit s = v at hzeroed ⊢
  exact ⟨_, fun b => (State.setBne_barn' _ _ _ b).trans (hzeroed.barn b), State.setBne_self _ _ _, rfl⟩

theorem bneCleared_tests (h : (s.bne k).needTest = true) :
    (bneCleared s k).bne k = { selftest := true, retired := (s.bne k).retired, faults := (s.bne k).faults } := by
  obtain ⟨u, -, hbne, hserve⟩ := bneCleared_eq s k
  rw [hserve, serveClaim_idle (.inl (by rw [hbne, h]; simp [bneFree])), hbne, h]

theorem bneCleared_idle (hneed : (s.bne k).needTest = false) (hclaims : (s.barn (barnOfBne k)).claims = []) :
    (bneCleared s k).bne k = { retired := (s.bne k).retired, faults := (s.bne k).faults } := by
  obtain ⟨u, hbarn, hbne, hserve⟩ := bneCleared_eq s k
  rw [hserve, serveClaim_idle (.inr (by rw [hbarn, hclaims])), hbne, hneed]

theorem bneCleared_serves {m p : Nat} {rest : List (Nat × Nat)} (hneed : (s.bne k).needTest = false) (hretired : (s.bne k).retired = false)
    (hclaims : (s.barn (barnOfBne k)).claims = (m, p) :: rest) :
    (bneCleared s k).bne k = { owner := some m, faults := (s.bne k).faults } ∧ ((bneCleared s k).barn (barnOfBne k)).claims = rest := by
  obtain ⟨u, hbarn, hbne, hserve⟩ := bneCleared_eq s k
  have hfree : bneFree (u.bne k) = true := by
    rw [hbne, hneed, hretired]
    rfl
  have hserved := serveClaim_serves hfree (by rw [hbarn, hclaims])
  rwa [← hserve, hbne, hretired] at hserved

end

section
variable {s : State} {e : Fin 48}

/-- The end of a wipe or of a clearing. -/
theorem exec_bneCleared {j : Instr} (hj : j = .bneWipeDone e true ∧ (s.bne e).wiping = true ∨ j = .bneClearDone e ∧ (s.bne e).clearing = true)
    (hretired : (s.bne e).retired = false) : exec j s = done (bneCleared s e) := by
  rcases hj with ⟨rfl, hwiping⟩ | ⟨rfl, hclearing⟩
  · show execBneWipeDone e true s = _
    unfold execBneWipeDone
    rw [if_neg (by simp [hwiping]), if_pos rfl]
    dsimp only
    rw [if_neg (by simp [hretired])]
  · exact if_pos hclearing

theorem bneCleared_runs {j : Instr} (hj : j = .bneWipeDone e true ∧ (s.bne e).wiping = true ∨ j = .bneClearDone e ∧ (s.bne e).clearing = true)
    (hretired : (s.bne e).retired = false) :
    let z := s.bne e
    let b := barnOfBne e
    (z.needTest = true → Runs j s (fun t => t.bne e = { selftest := true, faults := z.faults })) ∧
    (z.needTest = false → (s.barn b).claims = [] → Runs j s (fun t => t.bne e = { faults := z.faults })) ∧
    (∀ m p rest, z.needTest = false → (s.barn b).claims = (m, p) :: rest → Runs j s (fun t =>
      t.bne e = { owner := some m, faults := z.faults } ∧ (t.barn b).claims = rest)) := by
  intro z b
  have hexec := exec_bneCleared hj hretired
  refine ⟨fun hneed => runs_of_exec hexec ?_, fun hneed hclaims => runs_of_exec hexec ?_, fun m p rest hneed hclaims => runs_of_exec hexec ?_⟩
  · rw [State.drive_bne', bneCleared_tests hneed, hretired]
  · rw [State.drive_bne', bneCleared_idle hneed hclaims, hretired]
  · rw [State.drive_bne', State.drive_barn']
    exact bneCleared_serves hneed hretired hclaims

/-- A word that is not zero on the read-back of a wipe is a fault. -/
theorem bneWipeDone_unclean (hwiping : (s.bne e).wiping = true) (hretired : (s.bne e).retired = false) :
    let times := noteTime (s.bne e).faults s.tmr.now 3
    Runs (.bneWipeDone e false) s (fun t =>
      (t.bne e).faults = times ∧ (t.bne e).wiping = false ∧ (t.bne e).retired = withinSpan times 3 1000000000 ∧
      (t.bne e).selftest = !withinSpan times 3 1000000000) := by
  intro times
  have hexec : exec (.bneWipeDone e false) s =
      done (if ((bneFaultCount s e true).bne e).retired then bneFaultCount s e true else bneCleared (bneFaultCount s e true) e) := by
    show execBneWipeDone e false s = _
    unfold execBneWipeDone
    rw [if_neg (by simp [hwiping]), if_neg (by decide)]
  refine runs_of_exec hexec ?_
  have hcounted := bneFaultCount_bne s e true
  rw [State.drive_bne']
  cases hspan : withinSpan times 3 1000000000 with
  | true =>
    rw [faulted_retires hspan] at hcounted
    rw [if_pos (by rw [hcounted]), hcounted]
    exact ⟨rfl, rfl, rfl, rfl⟩
  | false =>
    rw [faulted_stays hspan] at hcounted
    rw [if_neg (by simp [hcounted, hretired]), bneCleared_tests (by rw [hcounted]), hcounted]
    exact ⟨rfl, rfl, hretired, rfl⟩

end

/-- Settles O39: claims by the first free engine, accesses by what the window acts on, faults by what the end of a request keeps of an engine, and
wipes by what the next claim finds. -/
theorem bigNumberJobs : Obligations.BigNumberJobs := by
  unfold Obligations.BigNumberJobs
  intro s c n r v k y i sets
  refine ⟨fun hissue hlead hnone => ⟨fun j => exec_bnClaim_takes hissue hlead hnone, bnClaim_waits hissue hlead hnone⟩,
    exec_bnClaim_owner, exec_window_denied,
    fun hissue hlead howner => ⟨runs_window_busy hissue hlead howner, exec_bnSlot hissue hlead howner, bnRelease_runs hissue hlead howner⟩,
    fun howns => ⟨fun hon hpos => ⟨bnWr_runs howns rfl hon hpos, exec_bnRd howns rfl hon hpos, exec_bnRd_denied howns rfl hon hpos⟩,
      fun hout j => exec_bnRd_beyond howns hout⟩,
    fun e check => bneFault_runs, ?_, ?_, fun e j => bneCleared_runs, fun e => bneWipeDone_unclean⟩
  · intro e z b hself
    exact ⟨bneSelftestDone_passes hself, fun m p rest => bneSelftestDone_serves hself, bneSelftestDone_fails hself⟩
  · intro e z
    exact ⟨fun hwiping clean => if_pos (by simp [z, hwiping]), fun hclearing => if_neg (by simp [z, hclearing])⟩

end Sys2Proof.Machine
end

section
/-! Proofs: how the commands of the big-number engines start work, end, and wait for random output (R69, R196, R203 to R208). -/

namespace Sys2Proof.Machine

open Sys2Proof Sys2Proof.Bits

/-! ### Random output is the DRBG's alone (R243) -/

theorem drbgCall_congr {s t : State} {i : Nat} (h : t.drbg i = s.drbg i) (n : Nat) :
    (drbgCall t i n).1 = (drbgCall s i n).1 ∧ (drbgCall t i n).2.drbg i = (drbgCall s i n).2.drbg i := by
  have hleft : ∀ (u : State) (d : Drbg), (perfCount (u.setDrbg i d) winPage 0x048 n).drbg i = d := fun u d => by
    have hcount := perfCount_only (u.setDrbg i d) winPage 0x048 n
    rw [hcount]
    exact Map.get_set_self _ _ _ _
  unfold drbgCall
  dsimp only
  rw [h, hleft, hleft]
  exact ⟨rfl, rfl⟩

theorem drbgCalls_congr {i : Nat} (k : Nat) : ∀ {n : Nat} {s t : State}, t.drbg i = s.drbg i → (drbgCalls i k n t).1 = (drbgCalls i k n s).1 := by
  induction k with
  | zero => exact fun h => (drbgCall_congr h _).1
  | succ k ih =>
    intro n s t h
    obtain ⟨hout, hleft⟩ := drbgCall_congr h 4096
    unfold drbgCalls
    split
    · exact (drbgCall_congr h n).1
    · dsimp only
      rw [hout, ih hleft]

theorem AtPort.drbgGen {s u : State} {c : Fin 2048} (hu : AtPort s c u) (i n : Nat) : (Machine.drbgGen u i n).1 = (Machine.drbgGen s i n).1 :=
  drbgCalls_congr _ (hu.congr (fun t => t.drbg i) (fun _ _ _ => rfl))

/-! ### What an operation yields -/

/-- What an operation yields, and what its draws leave. -/
def bnResult (s : State) (k : Nat) (op : BnOp) (x : BneArgs) (msg : Bytes) : BnRes × State :=
  if op.draws then bnDraw s (barnOfBne k) (s.bne k) op x msg else (bnEval (s.bne k) op x msg, s)

/-- What the engine will write of results that are given. -/
def bnGiven (y : Bne) (op : BnOp) (x : BneArgs) (msg : Bytes) (ws : List BnWrite) (test : Nat) : BnPend :=
  { bnOutcome y St.ok ws with bad := !bnConfirms y op x msg ws test }

/-- The DRBG does not serve a command that draws. -/
def bnStarved (s : State) (k : Nat) (op : BnOp) (x : BneArgs) : Bool :=
  op.draws && (op != .rsaSign || x.param.getLsbD 6) && !drbgServes s (barnOfBne k)

theorem bnDraw_keepsJobs (s : State) (b : Nat) (y : Bne) (op : BnOp) (x : BneArgs) (msg : Bytes) : KeepsJobs s (bnDraw s b y op x msg).2 := by
  cases op
  case rsaSign =>
    unfold bnDraw
    dsimp only
    split
    · exact .refl
    · split
      · exact .refl
      · split
        · exact KeepsJobs.refl.after_drbgGen
        · exact .refl
  case ecdsaSign =>
    unfold bnDraw
    dsimp only
    split
    · split
      · exact .refl
      · exact KeepsJobs.refl.after_ecdsaSign 4
    · exact .refl
  case rsaKeygen =>
    unfold bnDraw
    dsimp only
    split
    · exact .refl
    · exact KeepsJobs.refl.after_generateKey (t := s) (b := b) (alg := Alg.rsa) (bits := y.word0 x.a) (e := y.word0 x.b)
  case encaps =>
    unfold bnDraw
    dsimp only
    generalize MlKem.ekOk _ _ = ok
    cases ok with
    | false => exact .refl
    | true => exact KeepsJobs.refl.after_drbgGen
  case dsaSign =>
    unfold bnDraw
    dsimp only
    split
    · exact .refl
    · exact KeepsJobs.refl.after_drbgGen
  case ecKeygen | kemKeygen | dsaKeygen => exact KeepsJobs.refl.after_generateKey
  all_goals exact .refl

section
variable {s t : State} {k : Nat} {op : BnOp} {x : BneArgs} {msg : Bytes} {r : BnRes} {st : Status} {ws : List BnWrite}

theorem bnResult_keepsJobs (h : bnResult s k op x msg = (r, t)) : KeepsJobs s t := by
  have ht : (bnResult s k op x msg).2 = t := congrArg Prod.snd h
  rw [← ht]
  unfold bnResult
  split
  · exact bnDraw_keepsJobs _ _ _ _ _ _
  · exact .refl

/-- A computation that draws nothing. -/
theorem bnResult_eval (h : op.draws = false) : bnResult s k op x msg = (bnEval (s.bne k) op x msg, s) := if_neg (by simp [h])

theorem bnResult_draw (h : op.draws = true) : bnResult s k op x msg = bnDraw s (barnOfBne k) (s.bne k) op x msg := if_pos h

theorem bneFits_iff {y : Bne} : BneFits y ws ↔ ws.all (fun w => (y.slot w.slot).on && decide (w.bytes.length ≤ 8 * (y.slot w.slot).len)) = true := by
  simp [BneFits, List.all_eq_true]

theorem bnJudge_none (h : bnResult s k op x msg = (none, t)) : bnJudge s k op x msg = (none, t) := by
  unfold bnJudge
  unfold bnResult at h
  dsimp only
  rw [h]

theorem bnJudge_unfit (h : bnResult s k op x msg = (some (st, ws), t)) (hfit : ¬ BneFits (s.bne k) ws) : bnJudge s k op x msg = (none, t) := by
  unfold bnJudge
  unfold bnResult at h
  dsimp only
  rw [h]
  exact if_pos (by simpa [bneFits_iff] using hfit)

theorem bnJudge_ends (h : bnResult s k op x msg = (some (st, ws), t)) (hfit : BneFits (s.bne k) ws) (hst : st ≠ St.ok) :
    bnJudge s k op x msg = (some (bnOutcome (s.bne k) st ws), t) := by
  unfold bnJudge
  unfold bnResult at h
  dsimp only
  rw [h]
  exact (if_neg (by rw [bneFits_iff.mp hfit]; decide)).trans (if_pos hst)

theorem bnJudge_tests (h : bnResult s k op x msg = (some (St.ok, ws), t)) (hfit : BneFits (s.bne k) ws) (hop : op = .rsaKeygen ∨ op = .dsaKeygen) :
    bnJudge s k op x msg = (some (bnGiven (s.bne k) op x msg ws (t.draw 64).1.toNat), (t.draw 64).2) := by
  unfold bnJudge
  unfold bnResult at h
  dsimp only
  rw [h]
  refine (if_neg (by rw [bneFits_iff.mp hfit]; decide)).trans ((if_neg (not_not.mpr rfl)).trans ?_)
  rw [if_pos hop]
  rfl

theorem bnJudge_gives (h : bnResult s k op x msg = (some (St.ok, ws), t)) (hfit : BneFits (s.bne k) ws) (hop : op ≠ .rsaKeygen ∧ op ≠ .dsaKeygen) :
    bnJudge s k op x msg = (some (bnGiven (s.bne k) op x msg ws 0), t) := by
  unfold bnJudge
  unfold bnResult at h
  dsimp only
  rw [h]
  refine (if_neg (by rw [bneFits_iff.mp hfit]; decide)).trans ((if_neg (not_not.mpr rfl)).trans ?_)
  rw [if_neg (by simp [hop])]
  rfl

/-- What judges a command leaves the engines. -/
theorem bnJudge_keepsJobs (s : State) (k : Nat) (op : BnOp) (x : BneArgs) (msg : Bytes) : KeepsJobs s (bnJudge s k op x msg).2 := by
  obtain ⟨r, t, h⟩ : ∃ r t, bnResult s k op x msg = (r, t) := ⟨_, _, rfl⟩
  have hkeeps := bnResult_keepsJobs h
  match r, h with
  | none, h => rwa [bnJudge_none h]
  | some (st, ws), h =>
    by_cases hfit : BneFits (s.bne k) ws
    · by_cases hst : st = St.ok
      · subst hst
        by_cases hop : op = .rsaKeygen ∨ op = .dsaKeygen
        · rw [bnJudge_tests h hfit hop]
          exact hkeeps.after_draw (w := 64)
        · rwa [bnJudge_gives h hfit (by simpa using hop)]
      · rwa [bnJudge_ends h hfit hst]
    · rwa [bnJudge_unfit h hfit]

end

/-! ### The start of a command (R196, R204) -/

section
variable {s t : State} {c k : Nat} {op : BnOp} {x : BneArgs} {msg : Bytes} {p : BnPend}

/-- The engine starts work whose outcome is p, and its layout is closed. -/
def bnStarts (s : State) (c k : Nat) (p : BnPend) : State := Onward (s.setBne k { s.bne k with closed := true, run := some p }) c (fun x => x)

theorem bnStart_closed : bnStart (s.modBne k (fun y => { y with closed := true })) c k p = bnStarts s c k p := by
  have hne : { s.bne k with closed := true } ≠ ({} : Bne) := fun h => absurd (congrArg Bne.closed h) Bool.noConfusion
  unfold bnStart State.modBne bnStarts
  rw [State.setBne_self, setBne_setBne hne]
  rfl

theorem bnRun_faults (h : bnJudge s k op x msg = (none, t)) : bnRun s c k op x msg = faultCtx s c := by
  unfold bnRun
  rw [h]

theorem bnRun_goes (h : bnJudge s k op x msg = (some p, t)) (hgoes : bnStarved s k op x = false ∨ p.status ≠ St.ok) :
    bnRun s c k op x msg = bnStarts t c k p := by
  unfold bnRun
  rw [h]
  dsimp only
  rw [bnStart_closed, bnStart_closed]
  refine if_neg ?_
  unfold bnStarved at hgoes
  rcases hgoes with hgoes | hgoes
  · rw [hgoes]
    exact Bool.false_ne_true
  · simp [hgoes]

theorem bnRun_starves (h : bnJudge s k op x msg = (some p, t)) (hwaits : bnStarved s k op x = true) (hok : p.status = St.ok) :
    bnRun s c k op x msg = bnStarts s c k (p.starved op x msg) := by
  unfold bnRun
  rw [h]
  dsimp only
  rw [bnStart_closed, bnStart_closed]
  unfold bnStarved at hwaits
  exact if_pos (by rw [hwaits, hok]; decide)

end

/-! ### Operand memory that passes its parity (R270) -/

theorem readUnits_good {s t : State} {l : List ArrayCell} (hdev : t.dev = s.dev) (h : ∀ f ∈ l, (readUnit s f).1 = .good) :
    readUnits t l = (false, t) := by
  unfold readUnits
  split
  · rfl
  · refine List.foldlRecOn l _ (motive := fun a : Bool × State => a = (false, t)) rfl fun a ha f hf => ?_
    rw [ha]
    dsimp only
    rw [readUnit_good hdev (h f hf)]
    rfl

theorem bneFlips_congr {s t : State} (hdev : t.dev = s.dev) (k : Nat) : bneFlips t k = bneFlips s k := by
  unfold bneFlips
  rw [hdev]

/-! ### Command rows -/

theorem barnOfBne_bneOf (c : Nat) (n : Fin 6) : barnOfBne (bneOf c n) = barnOfCtx c := by
  unfold barnOfBne bneOf
  omega

/-- Instruction i gives window n's engine the operation op, with operands x and message msg. -/
structure Commands (i : Instr) (s : State) (c : Fin 2048) (n : Fin 6) (op : BnOp) (x : BneArgs) (msg : Bytes) : Prop where
  issues : Issues s (.tu c)
  row : exec i s = bneRow c n op x s
  runs : ∀ u, AtPort s c u → bnCommand u c n op x = bnRun u c (bneOf c n) op x msg

section
variable {i : Instr} {s : State} {c : Fin 2048} {n : Fin 6} {op : BnOp} {x : BneArgs} {named : List (Fin 16)} (h : BneReady s c n named)
  (hrow : exec i s = bneRow c n op x s) (hnamed : bnNamed (s.bne (bneOf c n)) op x = named)
include h hrow hnamed

theorem BneReady.commands (hmsg : bnMessageArg op x = none) : Commands i s c n op x [] := by
  obtain ⟨howns, hgood, hon⟩ := h
  refine ⟨howns.issues, hrow, fun u hu => (howns.window hu _).trans ?_⟩
  dsimp only
  rw [readUnits_good hu.dev (by rwa [bneFlips_congr hu.dev]), hmsg, hu.bne, hnamed]
  dsimp only
  rw [if_neg (by simpa [List.all_eq_true] using hon), if_neg (by decide)]

theorem BneReady.commandsOn {a : Fin 16} {msg : Bytes} (hmsg : bnMessageArg op x = some a) (hmessage : BneMessage s c n a msg) :
    Commands i s c n op x msg := by
  obtain ⟨howns, hgood, hon⟩ := h
  refine ⟨howns.issues, hrow, fun u hu => (howns.window hu _).trans ?_⟩
  dsimp only
  rw [readUnits_good hu.dev (by rwa [bneFlips_congr hu.dev]), hmsg, hu.bne, hnamed]
  dsimp only
  rcases hmessage with ⟨hslot, hmsgOn, rfl⟩ | ⟨hslot, b, hinput, rfl⟩
  · exact (if_neg (by simpa [hslot, hmsgOn] using hon)).trans ((if_neg Bool.false_ne_true).trans (if_neg hslot))
  · refine (if_neg (by simpa [hslot] using hon)).trans ((if_neg Bool.false_ne_true).trans ((if_pos hslot).trans ?_))
    rw [withInputRead_read (hu.request ▸ hinput), hu.inOfs]

end

section
variable {i : Instr} {s : State} {c : Fin 2048} {n : Fin 6} {op : BnOp} {x : BneArgs} {msg : Bytes} (h : Commands i s c n op x msg)
include h

/-- What a command does in the state that its instruction finds. -/
theorem Commands.exists_run {F : State → State} (hF : ∀ u, AtPort s c u → bnRun u c (bneOf c n) op x msg = F u) :
    ∃ u, AtPort s c u ∧ exec i s = done (F u) :=
  exists_atPort h.issues (h.row.trans rfl) rfl fun u hu => (h.runs u hu).trans (hF u hu)

theorem Commands.faults (hjudge : ∀ u, AtPort s c u → ∃ t, bnJudge u (bneOf c n) op x msg = (none, t)) :
    ∃ u, AtPort s c u ∧ exec i s = done (faultCtx u c) :=
  h.exists_run fun u hu => bnRun_faults (hjudge u hu).choose_spec

theorem Commands.ends {st : Status} {ws : List BnWrite} {ds : List Nat}
    (hres : ∀ u, AtPort s c u → bnResult u (bneOf c n) op x msg = (some (st, ws), u))
    (hfit : BneFits (s.bne (bneOf c n)) ws) (hst : st ≠ St.ok) (hds : ws.map (·.slot) = ds := by rfl) : BneEnds i s c n st ds := by
  subst hds
  refine h.exists_run fun u hu => ?_
  rw [bnRun_goes (bnJudge_ends (hres u hu) (by rwa [hu.bne]) hst) (.inr hst), bnStarts, hu.bne]
  simp only [bnOutcome, if_neg hst, List.map_map]
  rfl

/-- A command gives its results when it does not wait for random output. -/
theorem Commands.givesFrom {D : State → State} {ws : State → List BnWrite} {bad : State → Bool} (hop : op ≠ .rsaKeygen ∧ op ≠ .dsaKeygen)
    (hres : ∀ u, AtPort s c u → bnResult u (bneOf c n) op x msg = (some (St.ok, ws u), D u))
    (hfit : ∀ u, AtPort s c u → BneFits (s.bne (bneOf c n)) (ws u))
    (hbad : ∀ u, AtPort s c u → bad u = !bnConfirms (s.bne (bneOf c n)) op x msg (ws u) 0)
    (hserved : ∀ u, AtPort s c u → bnStarved u (bneOf c n) op x = false) : BneGivesFrom i s c n D ws bad := by
  refine h.exists_run fun u hu => ?_
  rw [bnRun_goes (bnJudge_gives (hres u hu) (by rw [hu.bne]; exact hfit u hu) hop) (.inl (hserved u hu)), bnStarts,
    (bnResult_keepsJobs (hres u hu)).bne, hu.bne, hbad u hu]
  rfl

/-- A new key is tested with a random value before it is given (R208). -/
theorem Commands.givesTested {D : State → State} {ws : State → List BnWrite} {bad : State → Bool} (hop : op = .rsaKeygen ∨ op = .dsaKeygen)
    (hres : ∀ u, AtPort s c u → bnResult u (bneOf c n) op x msg = (some (St.ok, ws u), D u))
    (hfit : ∀ u, AtPort s c u → BneFits (s.bne (bneOf c n)) (ws u))
    (hbad : ∀ u, AtPort s c u → bad u = !bnConfirms (s.bne (bneOf c n)) op x msg (ws u) ((D u).draw 64).1.toNat)
    (hserved : ∀ u, AtPort s c u → bnStarved u (bneOf c n) op x = false) : BneGivesFrom i s c n (fun u => ((D u).draw 64).2) ws bad := by
  refine h.exists_run fun u hu => ?_
  rw [bnRun_goes (bnJudge_tests (hres u hu) (by rw [hu.bne]; exact hfit u hu) hop) (.inl (hserved u hu)), bnStarts,
    (bnResult_keepsJobs (hres u hu)).after_draw.bne, hu.bne, hbad u hu]
  rfl

/-- A command that draws waits in its engine for random output. -/
theorem Commands.starves {D : State → State} {ws : State → List BnWrite} {ds : List Nat}
    (hres : ∀ u, AtPort s c u → bnResult u (bneOf c n) op x msg = (some (St.ok, ws u), D u))
    (hfit : ∀ u, AtPort s c u → BneFits (s.bne (bneOf c n)) (ws u)) (hslots : ∀ u, AtPort s c u → (ws u).map (·.slot) = ds)
    (hstarved : ∀ u, AtPort s c u → bnStarved u (bneOf c n) op x = true) : BneStarves i s c n (op.drawCode, x, msg) ds := by
  refine h.exists_run fun u hu => ?_
  have hpend : ∃ p t, bnJudge u (bneOf c n) op x msg = (some p, t) ∧ p.status = St.ok ∧
      p.slots = (bnOutcome (u.bne (bneOf c n)) St.ok (ws u)).slots := by
    have hfits : BneFits (u.bne (bneOf c n)) (ws u) := by
      rw [hu.bne]
      exact hfit u hu
    by_cases hop : op = .rsaKeygen ∨ op = .dsaKeygen
    · exact ⟨_, _, bnJudge_tests (hres u hu) hfits hop, rfl, rfl⟩
    · exact ⟨_, _, bnJudge_gives (hres u hu) hfits (by simpa using hop), rfl, rfl⟩
  obtain ⟨p, t, hjudge, hok, hpslots⟩ := hpend
  rw [bnRun_starves hjudge (hstarved u hu) hok, bnStarts, hu.bne, BnPend.starved, hpslots, hu.bne, ← hslots u hu]
  simp only [bnOutcome, List.map_map]
  rfl

end

/-! ### Commands that draw nothing -/

theorem bnConfirms_eval {op : BnOp} (h : op.draws = false) (y : Bne) (x : BneArgs) (msg : Bytes) (ws : List BnWrite) (test : Nat) :
    bnConfirms y op x msg ws test = true := by
  unfold bnConfirms
  split
  · exact absurd h (by decide)
  · exact absurd h (by decide)
  · exact absurd h (by decide)
  · exact absurd h (by decide)
  · rfl

theorem bnStarved_eval {op : BnOp} (h : op.draws = false) (s : State) (k : Nat) (x : BneArgs) : bnStarved s k op x = false := by simp [bnStarved, h]

section
variable {i : Instr} {s : State} {c : Fin 2048} {n : Fin 6} {op : BnOp} {x : BneArgs} {msg : Bytes} (h : Commands i s c n op x msg)
  (hop : op.draws = false)
include h hop

theorem Commands.evalFaults (hres : bnEval (s.bne (bneOf c n)) op x msg = none) : ∃ u, AtPort s c u ∧ exec i s = done (faultCtx u c) :=
  h.faults fun u hu => ⟨u, bnJudge_none (by rw [bnResult_eval hop, hu.bne, hres])⟩

theorem Commands.evalUnfit {st : Status} {ws : List BnWrite} (hres : bnEval (s.bne (bneOf c n)) op x msg = some (st, ws))
    (hfit : ¬ BneFits (s.bne (bneOf c n)) ws) : ∃ u, AtPort s c u ∧ exec i s = done (faultCtx u c) :=
  h.faults fun u hu => ⟨u, bnJudge_unfit (by rw [bnResult_eval hop, hu.bne, hres]) (by rwa [hu.bne])⟩

theorem Commands.evalEnds {st : Status} {ws : List BnWrite} {ds : List Nat} (hres : bnEval (s.bne (bneOf c n)) op x msg = some (st, ws))
    (hfit : BneFits (s.bne (bneOf c n)) ws) (hst : st ≠ St.ok) (hds : ws.map (·.slot) = ds := by rfl) : BneEnds i s c n st ds :=
  h.ends (fun u hu => by rw [bnResult_eval hop, hu.bne, hres]) hfit hst hds

theorem Commands.evalGives {ws : List BnWrite} (hres : bnEval (s.bne (bneOf c n)) op x msg = some (St.ok, ws))
    (hfit : BneFits (s.bne (bneOf c n)) ws) : BneGives i s c n ws :=
  h.givesFrom (by constructor <;> rintro rfl <;> cases hop)
    (fun u hu => by rw [bnResult_eval hop, hu.bne, hres]) (fun _ _ => hfit) (fun _ _ => by rw [bnConfirms_eval hop]; rfl)
    (fun u _ => bnStarved_eval hop u _ x)

end

/-! ### Verifications, which write nothing -/

/-- A row that yields a status alone. -/
def BneResult (i : Instr) (s : State) (c : Fin 2048) (n : Fin 6) (st : Status) : Prop :=
  (st = St.ok → BneGives i s c n []) ∧ (st ≠ St.ok → BneEnds i s c n st [])

theorem Commands.evalResult {i : Instr} {s : State} {c : Fin 2048} {n : Fin 6} {op : BnOp} {x : BneArgs} {msg : Bytes} {st : Status}
    (h : Commands i s c n op x msg) (hop : op.draws = false) (hres : bnEval (s.bne (bneOf c n)) op x msg = some (st, [])) : BneResult i s c n st :=
  ⟨fun hok => h.evalGives hop (by rw [hres, hok]) nofun, fun hst => h.evalEnds hop hres nofun hst⟩

/-! ### Commands that draw (R69) -/

theorem AtPort.bnStarved {s u : State} {c : Fin 2048} (hu : AtPort s c u) (n : Fin 6) {op : BnOp} {x : BneArgs} (hdraws : op.draws = true)
    (hpss : op = .rsaSign → x.param.getLsbD 6 = true) : bnStarved u (bneOf c n) op x = !Machine.drbgServes s (barnOfCtx c) := by
  have hwaits : (op != .rsaSign || x.param.getLsbD 6) = true := by
    by_cases hop : op = .rsaSign
    · simp [hpss hop]
    · simp [hop]
  unfold Machine.bnStarved
  rw [hdraws, hwaits, barnOfBne_bneOf, hu.drbgServes]
  rfl

/-- What a command that draws does, with the DRBG serving and not. -/
def BneAfter (i : Instr) (s : State) (c : Fin 2048) (n : Fin 6) (draw : Nat × BneArgs × Bytes) (ds : List Nat) (D : State → State)
    (ws : State → List BnWrite) (bad : State → Bool) : Prop :=
  (drbgServes s (barnOfCtx c) = true → BneGivesFrom i s c n D ws bad) ∧ (drbgServes s (barnOfCtx c) = false → BneStarves i s c n draw ds)

section
variable {i : Instr} {s : State} {c : Fin 2048} {n : Fin 6} {op : BnOp} {x : BneArgs} {msg : Bytes} (h : Commands i s c n op x msg)
  {D : State → State} {ws : State → List BnWrite} {bad : State → Bool} {ds : List Nat} (hdraws : op.draws = true)
  (hres : ∀ u, AtPort s c u → bnResult u (bneOf c n) op x msg = (some (St.ok, ws u), D u))
  (hfit : ∀ u, AtPort s c u → BneFits (s.bne (bneOf c n)) (ws u)) (hslots : ∀ u, AtPort s c u → (ws u).map (·.slot) = ds)
include h hdraws hres hfit hslots

theorem Commands.after (hop : op ≠ .rsaKeygen ∧ op ≠ .dsaKeygen) (hpss : op = .rsaSign → x.param.getLsbD 6 = true)
    (hbad : ∀ u, AtPort s c u → bad u = !bnConfirms (s.bne (bneOf c n)) op x msg (ws u) 0) :
    BneAfter i s c n (op.drawCode, x, msg) ds D ws bad :=
  ⟨fun hserves => h.givesFrom hop hres hfit hbad fun u hu => by rw [hu.bnStarved n hdraws hpss, hserves]; rfl,
    fun hserves => h.starves hres hfit hslots fun u hu => by rw [hu.bnStarved n hdraws hpss, hserves]; rfl⟩

theorem Commands.afterTest (hop : op = .rsaKeygen ∨ op = .dsaKeygen)
    (hbad : ∀ u, AtPort s c u → bad u = !bnConfirms (s.bne (bneOf c n)) op x msg (ws u) ((D u).draw 64).1.toNat) :
    BneAfter i s c n (op.drawCode, x, msg) ds (fun u => ((D u).draw 64).2) ws bad :=
  have hpss : op = .rsaSign → x.param.getLsbD 6 = true := fun hrsa => by
    rw [hrsa] at hop
    rcases hop with hop | hop <;> cases hop
  ⟨fun hserves => h.givesTested hop hres hfit hbad fun u hu => by rw [hu.bnStarved n hdraws hpss, hserves]; rfl,
    fun hserves => h.starves hres hfit hslots fun u hu => by rw [hu.bnStarved n hdraws hpss, hserves]; rfl⟩

end

theorem BneReady.on {s : State} {c : Fin 2048} {n : Fin 6} {named : List (Fin 16)} (h : BneReady s c n named) {j : Fin 16} (hj : j ∈ named) :
    ((s.bne (bneOf c n)).slot j).on = true := h.2.2 j hj

theorem BneReady.mono {s : State} {c : Fin 2048} {n : Fin 6} {named fewer : List (Fin 16)} (h : BneReady s c n named)
    (hsub : ∀ j ∈ fewer, j ∈ named) : BneReady s c n fewer := ⟨h.1, h.2.1, fun j hj => h.2.2 j (hsub j hj)⟩

/-- One result that fits its slot. -/
theorem fits_one {y : Bne} {w : BnWrite} (hon : (y.slot w.slot).on = true) (hlen : w.bytes.length ≤ 8 * (y.slot w.slot).len) : BneFits y [w] := by
  simpa [BneFits] using ⟨hon, hlen⟩

theorem length_wordForm (n v : Nat) : (wordForm n v).length = 8 * n := length_le_bytes _ _

end Sys2Proof.Machine
end

section
/-! Proofs: the modular, point and ring operations of the big-number engines (O41). -/

namespace Sys2Proof.Machine

open Sys2Proof Sys2Proof.Bits

/-! ### Modular arithmetic (R205) -/

/-- The highest bits of the exponent have been taken. -/
theorem powAux_eq (a e m : Nat) : ∀ n, Num.powAux (a % m) e m n (a ^ (e / 2 ^ n) % m) = a ^ e % m := by
  intro n
  induction n with
  | zero => rw [Num.powAux, pow_zero, Nat.div_one]
  | succ n ih =>
    have hsquare : a ^ (e / 2 ^ (n + 1)) % m * (a ^ (e / 2 ^ (n + 1)) % m) % m = a ^ (2 * (e / 2 ^ (n + 1))) % m := by
      rw [← Nat.mul_mod, ← pow_add, two_mul]
    have hhalf : e / 2 ^ (n + 1) = e / 2 ^ n / 2 := by rw [pow_succ, Nat.div_div_eq_div_mul]
    rw [Num.powAux, hsquare]
    refine Eq.trans (congrArg _ ?_) ih
    split
    · next hodd =>
      rw [← Nat.mul_mod, ← pow_succ, hhalf]
      congr 2
      omega
    · next heven =>
      rw [hhalf]
      congr 2
      omega

theorem powMod_eq (a e m : Nat) : Num.powMod a e m = a ^ e % m := by
  have hnone : e / 2 ^ (Nat.log2 e + 1) = 0 := Nat.div_eq_of_lt Nat.lt_log2_self
  have hpow := powAux_eq a e m (Nat.log2 e + 1)
  rwa [hnone, pow_zero] at hpow

theorem subMod_eq {a b m : Nat} (ha : a < m) (hb : b < m) : Num.subMod a b m = (a + m - b) % m := by
  unfold Num.subMod
  rw [Nat.mod_eq_of_lt ha, Nat.mod_eq_of_lt hb]
  congr 1
  omega

theorem max_public (l : Label) : l.max .p = l := if_neg (Nat.not_lt_zero _)

/-- A modular operation of two operands. -/
def BnOp.pairs (op : BnOp) : Bool := op == .mmul || op == .madd || op == .msub

/-- Status of a modular operation: its operands are below an odd modulus. -/
def modularStatus (y : Bne) (op : BnOp) (x : BneArgs) : Status :=
  if y.int x.k ≤ y.int x.a || (op.pairs && decide (y.int x.k ≤ y.int x.b)) then St.operandRange
  else if y.int x.k % 2 = 0 then St.degenerate
  else St.ok

/-- Value of a modular operation of a and b modulo m. -/
def modularValue (a b m : Nat) : BnOp → Nat
  | .mmul => a * b % m
  | .madd => (a + b) % m
  | .msub => Num.subMod a b m
  | .mexp => Num.powMod a b m
  | _ => Num.powMod a (m - 2) m

/-- What a modular operation writes. -/
def modularWrite (y : Bne) (op : BnOp) (x : BneArgs) : BnWrite where
  slot := x.d
  bytes := wordForm (y.slot x.k).len (modularValue (y.int x.a) (y.int x.b) (y.int x.k) op)
  label := ((y.label x.a).max (y.label x.k)).max (if op = .minv then .p else y.label x.b)

section
variable {y : Bne} {x : BneArgs} {op : BnOp}

theorem bnModular_eq (h4 : 4 ≤ (y.slot x.k).len) (h256 : (y.slot x.k).len ≤ 256) (ha : (y.slot x.a).len = (y.slot x.k).len)
    (hb : op.pairs = true → (y.slot x.b).len = (y.slot x.k).len) :
    bnModular y op x = some (modularStatus y op x, [modularWrite y op x]) := by
  have hbad : (!longInt (y.slot x.k).len || !((y.slot x.a).len == (y.slot x.k).len) ||
      (op.pairs && !((y.slot x.b).len == (y.slot x.k).len))) = false := by
    cases hpairs : op.pairs <;> simp [longInt, h4, h256, ha, hb, hpairs]
  unfold bnModular
  unfold BnOp.pairs at hbad
  dsimp only
  rw [hbad, if_neg Bool.false_ne_true]
  rfl

theorem bnModular_none (hpairs : op.pairs = true) (h : (y.slot x.a).len ≠ (y.slot x.k).len ∨ (y.slot x.b).len ≠ (y.slot x.k).len) :
    bnModular y op x = none := by
  unfold BnOp.pairs at hpairs
  unfold bnModular
  exact if_pos (by rcases h with h | h <;> simp [hpairs, h])

theorem modularStatus_range (h : y.int x.k ≤ y.int x.a ∨ (op.pairs = true ∧ y.int x.k ≤ y.int x.b)) : modularStatus y op x = St.operandRange :=
  if_pos (by simpa using h)

variable (ha : y.int x.a < y.int x.k) (hb : op.pairs = true → y.int x.b < y.int x.k)
include ha hb

theorem modularStatus_below : modularStatus y op x = if y.int x.k % 2 = 0 then St.degenerate else St.ok := by
  refine if_neg ?_
  simp only [Bool.or_eq_true, Bool.and_eq_true, decide_eq_true_eq, not_or, not_and, not_le]
  exact ⟨ha, hb⟩

theorem modularStatus_even (h : y.int x.k % 2 = 0) : modularStatus y op x = St.degenerate := by rw [modularStatus_below ha hb, if_pos h]

theorem modularStatus_odd (h : y.int x.k % 2 = 1) : modularStatus y op x = St.ok := by rw [modularStatus_below ha hb, if_neg (by omega)]

end

theorem fits_modular {y : Bne} {x : BneArgs} (op : BnOp) (hon : (y.slot x.d).on = true) (hd : (y.slot x.k).len ≤ (y.slot x.d).len) :
    BneFits y [modularWrite y op x] :=
  fits_one hon (by rw [modularWrite, length_wordForm]; exact Nat.mul_le_mul_left 8 hd)

section
variable {s : State} {c : Fin 2048} {n : Fin 6} {x : BneArgs} {i : Instr} {op : BnOp} (h : Commands i s c n op x [])
include h

/-- Modular rows over lengths that agree. -/
theorem modular_runs (hop : op ∈ [BnOp.mmul, .madd, .msub, .mexp, .minv]) (hon : ((s.bne (bneOf c n)).slot x.d).on = true)
    (h4 : 4 ≤ ((s.bne (bneOf c n)).slot x.k).len) (h256 : ((s.bne (bneOf c n)).slot x.k).len ≤ 256)
    (ha : ((s.bne (bneOf c n)).slot x.a).len = ((s.bne (bneOf c n)).slot x.k).len)
    (hb : op.pairs = true → ((s.bne (bneOf c n)).slot x.b).len = ((s.bne (bneOf c n)).slot x.k).len)
    (hd : ((s.bne (bneOf c n)).slot x.k).len ≤ ((s.bne (bneOf c n)).slot x.d).len) :
    let y := s.bne (bneOf c n)
    (y.int x.a < y.int x.k → (op.pairs = true → y.int x.b < y.int x.k) → y.int x.k % 2 = 1 → BneGives i s c n [modularWrite y op x]) ∧
    ((y.int x.k ≤ y.int x.a ∨ (op.pairs = true ∧ y.int x.k ≤ y.int x.b)) → BneEnds i s c n St.operandRange [x.d]) ∧
    (y.int x.a < y.int x.k → (op.pairs = true → y.int x.b < y.int x.k) → y.int x.k % 2 = 0 → BneEnds i s c n St.degenerate [x.d]) := by
  intro y
  have hres : bnEval y op x [] = some (modularStatus y op x, [modularWrite y op x]) := by
    have hmodular : bnEval y op x [] = bnModular y op x := by
      simp only [List.mem_cons, List.not_mem_nil, or_false] at hop
      rcases hop with rfl | rfl | rfl | rfl | rfl <;> rfl
    rw [hmodular, bnModular_eq h4 h256 ha hb]
  have hdraws : op.draws = false := by
    simp only [List.mem_cons, List.not_mem_nil, or_false] at hop
    rcases hop with rfl | rfl | rfl | rfl | rfl <;> rfl
  have hfit := fits_modular op hon hd
  refine ⟨fun hab hbb hodd => ?_, fun hrange => ?_, fun hab hbb heven => ?_⟩
  · rw [modularStatus_odd hab hbb hodd] at hres
    exact h.evalGives hdraws hres hfit
  · rw [modularStatus_range hrange] at hres
    exact h.evalEnds hdraws hres hfit (by decide)
  · rw [modularStatus_even hab hbb heven] at hres
    exact h.evalEnds hdraws hres hfit (by decide)

/-- A modular row of two operands whose lengths do not agree, or whose result has no room, ends the request. -/
theorem modular_faults (hop : op ∈ [BnOp.mmul, .madd, .msub])
    (hlen : ((s.bne (bneOf c n)).slot x.a).len ≠ ((s.bne (bneOf c n)).slot x.k).len ∨
      ((s.bne (bneOf c n)).slot x.b).len ≠ ((s.bne (bneOf c n)).slot x.k).len ∨
      ((s.bne (bneOf c n)).slot x.d).len < ((s.bne (bneOf c n)).slot x.k).len) : ∃ u, AtPort s c u ∧ exec i s = done (faultCtx u c) := by
  obtain ⟨hpairs, hdraws, hmodular⟩ : op.pairs = true ∧ op.draws = false ∧
      bnEval (s.bne (bneOf c n)) op x [] = bnModular (s.bne (bneOf c n)) op x := by
    simp only [List.mem_cons, List.not_mem_nil, or_false] at hop
    rcases hop with rfl | rfl | rfl <;> exact ⟨rfl, rfl, rfl⟩
  by_cases hab : ((s.bne (bneOf c n)).slot x.a).len = ((s.bne (bneOf c n)).slot x.k).len ∧
      ((s.bne (bneOf c n)).slot x.b).len = ((s.bne (bneOf c n)).slot x.k).len
  · have hd : ((s.bne (bneOf c n)).slot x.d).len < ((s.bne (bneOf c n)).slot x.k).len := by
      rcases hlen with hlen | hlen | hlen
      · exact absurd hab.1 hlen
      · exact absurd hab.2 hlen
      · exact hlen
    by_cases hlong : 4 ≤ ((s.bne (bneOf c n)).slot x.k).len ∧ ((s.bne (bneOf c n)).slot x.k).len ≤ 256
    · refine h.evalUnfit hdraws (hmodular.trans (bnModular_eq hlong.1 hlong.2 hab.1 fun _ => hab.2)) fun hfit => ?_
      have hroom := (hfit _ (List.mem_singleton_self _)).2
      rw [modularWrite, length_wordForm] at hroom
      dsimp only at hroom
      omega
    · refine h.evalFaults hdraws (hmodular.trans ?_)
      unfold bnModular
      exact if_pos (by simp [longInt, hlong])
  · exact h.evalFaults hdraws (hmodular.trans (bnModular_none hpairs (by tauto)))

end

/-! ### The modular and long-integer rows -/

section
variable {s : State} {c : Fin 2048} {n : Fin 6} {x : BneArgs}

/-- A result of v in w words. -/
def wordWrite (x : BneArgs) (w v : Nat) (l : Label) : List BnWrite := [{ slot := x.d, bytes := le (8 * w) v, label := l }]

theorem bneMred_runs (h : BneReady s c n [x.a, x.k, x.d]) (h4 : 4 ≤ ((s.bne (bneOf c n)).slot x.k).len)
    (h256 : ((s.bne (bneOf c n)).slot x.k).len ≤ 256) (ha : ((s.bne (bneOf c n)).slot x.a).len ≤ 2 * ((s.bne (bneOf c n)).slot x.k).len)
    (hd : ((s.bne (bneOf c n)).slot x.k).len ≤ ((s.bne (bneOf c n)).slot x.d).len) :
    let y := s.bne (bneOf c n)
    (y.int x.k % 2 = 1 → BneGives (.bneMred c n x) s c n (wordWrite x (y.slot x.k).len (y.int x.a % y.int x.k) ((y.label x.a).max (y.label x.k)))) ∧
    (y.int x.k % 2 = 0 → BneEnds (.bneMred c n x) s c n St.degenerate [x.d]) := by
  intro y
  have hrow : Commands (.bneMred c n x) s c n .mred x [] := h.commands rfl rfl rfl
  have hres : bnEval y .mred x [] = some (if y.int x.k % 2 = 0 then St.degenerate else St.ok,
      wordWrite x (y.slot x.k).len (y.int x.a % y.int x.k) ((y.label x.a).max (y.label x.k))) :=
    if_neg (by simp [y, longInt, h4, h256, ha])
  have hfit : BneFits y (wordWrite x (y.slot x.k).len (y.int x.a % y.int x.k) ((y.label x.a).max (y.label x.k))) :=
    fits_one (h.on (by simp)) (by rw [length_le_bytes]; exact Nat.mul_le_mul_left 8 hd)
  refine ⟨fun hodd => ?_, fun heven => ?_⟩
  · rw [if_neg (by omega)] at hres
    exact hrow.evalGives rfl hres hfit
  · rw [if_pos heven] at hres
    exact hrow.evalEnds rfl hres hfit (by decide)

theorem bneMul_gives (h : BneReady s c n [x.a, x.b, x.d]) (ha4 : 4 ≤ ((s.bne (bneOf c n)).slot x.a).len)
    (ha256 : ((s.bne (bneOf c n)).slot x.a).len ≤ 256) (hb4 : 4 ≤ ((s.bne (bneOf c n)).slot x.b).len)
    (hb256 : ((s.bne (bneOf c n)).slot x.b).len ≤ 256)
    (hd : ((s.bne (bneOf c n)).slot x.a).len + ((s.bne (bneOf c n)).slot x.b).len ≤ ((s.bne (bneOf c n)).slot x.d).len) :
    let y := s.bne (bneOf c n)
    BneGives (.bneMul c n x) s c n
      (wordWrite x ((y.slot x.a).len + (y.slot x.b).len) (y.int x.a * y.int x.b) ((y.label x.a).max (y.label x.b))) := by
  intro y
  have hrow : Commands (.bneMul c n x) s c n .mul x [] := h.commands rfl rfl rfl
  refine hrow.evalGives rfl (if_neg (by simp [longInt, ha4, ha256, hb4, hb256])) (fits_one (h.on (by simp)) ?_)
  rw [length_le_bytes]
  exact Nat.mul_le_mul_left 8 hd

end

/-! ### Points (R206) -/

/-- A curve of param [1:0], with the words of a coordinate. -/
def CurveArgs (x : BneArgs) (cv : Ec.Curve) (w : Nat) : Prop :=
  (x.param.toNat % 4, cv, w) ∈ [(0, Ec.p256, 4), (1, Ec.p384, 6), (2, Ec.p521, 9)]

theorem CurveArgs.curve {x : BneArgs} {cv : Ec.Curve} {w : Nat} (h : CurveArgs x cv w) : bnCurve x.param = some cv ∧ curveWords cv = w := by
  have hbits : bits x.param.toNat 1 0 = x.param.toNat % 4 := by simp [bits]
  simp only [CurveArgs, List.mem_cons, Prod.mk.injEq, List.not_mem_nil, or_false] at h
  unfold bnCurve
  rw [hbits]
  rcases h with ⟨hparam, rfl, rfl⟩ | ⟨hparam, rfl, rfl⟩ | ⟨hparam, rfl, rfl⟩ <;> rw [hparam] <;> exact ⟨rfl, rfl⟩

section
variable {cv : Ec.Curve} {b : Bytes} {w : Nat} (hw : curveWords cv = w)
include hw

/-- X and Y of a point in word form. -/
theorem wordsPoint_eq (h : 16 * w ≤ b.length) : wordsPoint cv b =
    if (ofLe (b.take (8 * w)) ≠ 0 ∨ ofLe ((b.drop (8 * w)).take (8 * w)) ≠ 0) ∧
      Ec.onCurve cv (ofLe (b.take (8 * w))) (ofLe ((b.drop (8 * w)).take (8 * w))) = true
    then some (ofLe (b.take (8 * w)), ofLe ((b.drop (8 * w)).take (8 * w))) else none := by
  unfold wordsPoint
  dsimp only
  rw [hw, slice_within (by omega), slice_within (by omega), List.drop_zero]

theorem length_pointWords (q : Ec.Pt) : (pointWords cv q).length = 16 * w := by
  unfold pointWords
  rw [hw]
  match q with
  | none => exact List.length_replicate
  | some (px, py) =>
    rw [List.length_append, length_wordForm, length_wordForm]
    omega

end

section
variable {s : State} {c : Fin 2048} {n : Fin 6} {x : BneArgs} {cv : Ec.Curve} {w : Nat} (hcurve : CurveArgs x cv w)
include hcurve

theorem bnePcheck_runs (h : BneReady s c n [x.a]) (ha : 2 * w ≤ ((s.bne (bneOf c n)).slot x.a).len) :
    ((wordsPoint cv ((s.bne (bneOf c n)).bytes x.a)).isSome = true → BneGives (.bnePcheck c n x) s c n []) ∧
    (wordsPoint cv ((s.bne (bneOf c n)).bytes x.a) = none → BneEnds (.bnePcheck c n x) s c n St.pointInvalid []) := by
  obtain ⟨hbn, hw⟩ := hcurve.curve
  have hrow : Commands (.bnePcheck c n x) s c n .pcheck x [] := h.commands rfl rfl rfl
  have hres : bnEval (s.bne (bneOf c n)) .pcheck x [] =
      some (if (wordsPoint cv ((s.bne (bneOf c n)).bytes x.a)).isSome then St.ok else St.pointInvalid, []) := by
    show bnPoint (s.bne (bneOf c n)) .pcheck x = _
    unfold bnPoint
    rw [hbn]
    exact if_neg (by simpa [hw] using ha)
  refine ⟨fun hvalid => ?_, fun hinvalid => ?_⟩
  · rw [if_pos hvalid] at hres
    exact hrow.evalGives rfl hres nofun
  · rw [hinvalid] at hres
    exact hrow.evalEnds rfl hres nofun (by decide)

theorem bneSmul_runs (h : BneReady s c n [x.a, x.b, x.d]) (ha : 2 * w ≤ ((s.bne (bneOf c n)).slot x.a).len)
    (hd : 2 * w ≤ ((s.bne (bneOf c n)).slot x.d).len) :
    let y := s.bne (bneOf c n)
    (∀ p, wordsPoint cv (y.bytes x.a) = some p → BneGives (.bneSmul c n x) s c n
      [{ slot := x.d, bytes := pointWords cv (Ec.smul cv (y.int x.b) (some p)), label := (y.label x.a).max (y.label x.b) }]) ∧
    (wordsPoint cv (y.bytes x.a) = none → BneEnds (.bneSmul c n x) s c n St.pointInvalid [x.d]) := by
  intro y
  obtain ⟨hbn, hw⟩ := hcurve.curve
  have hrow : Commands (.bneSmul c n x) s c n .smul x [] := h.commands rfl rfl rfl
  have hon : (y.slot x.d).on = true := h.on (by simp)
  have hlong : ¬ decide ((y.slot x.a).len < 2 * curveWords cv) = true := by simpa [hw] using ha
  have hroom : 16 * w ≤ 8 * (y.slot x.d).len := by
    have : 2 * w ≤ (y.slot x.d).len := hd
    omega
  refine ⟨fun p hvalid => hrow.evalGives rfl ?_ (fits_one hon (by rw [length_pointWords hw]; exact hroom)), fun hinvalid =>
    hrow.evalEnds (ws := [{ slot := x.d, bytes := zeros (16 * curveWords cv), label := (y.label x.a).max (y.label x.b) }]) rfl ?_
      (fits_one hon (by rw [hw]; exact List.length_replicate.trans_le hroom)) (by decide)⟩
  · show bnPoint y .smul x = _
    unfold bnPoint
    rw [hbn]
    dsimp only
    rw [if_neg hlong, hvalid]
    rfl
  · show bnPoint y .smul x = _
    unfold bnPoint
    rw [hbn]
    dsimp only
    rw [if_neg hlong, hinvalid]

theorem bneSmulg_gives (h : BneReady s c n [x.b, x.d]) (hd : 2 * w ≤ ((s.bne (bneOf c n)).slot x.d).len) :
    BneGives (.bneSmulg c n x) s c n [{
      slot := x.d
      bytes := pointWords cv (Ec.smul cv ((s.bne (bneOf c n)).int x.b) (Ec.base cv))
      label := (s.bne (bneOf c n)).label x.b }] := by
  obtain ⟨hbn, hw⟩ := hcurve.curve
  have hrow : Commands (.bneSmulg c n x) s c n .smulg x [] := h.commands rfl rfl rfl
  refine hrow.evalGives rfl ?_ (fits_one (h.on (by simp)) ?_)
  · show bnPoint (s.bne (bneOf c n)) .smulg x = _
    unfold bnPoint
    rw [hbn]
    rfl
  · rw [length_pointWords hw]
    dsimp only
    omega

end

/-! ### Rings (R207) -/

section
variable {y : Bne} {x : BneArgs} (h0 : (y.slot x.a).len ≠ 0) (h128 : (y.slot x.a).len % 128 = 0)
include h0 h128

/-- An operation of one polynomial operand. -/
theorem bnRing_one {op : BnOp} {f : List Nat → List Nat}
    (hf : (op, f) ∈ [(BnOp.ntt, if x.param.getLsbD 0 then Ring.nttD else Ring.nttK), (.intt, if x.param.getLsbD 0 then Ring.inttD else Ring.inttK)]) :
    bnRing y op x = okWrite x.d (ringBytes ((ringPolys (if x.param.getLsbD 0 then Ring.qd else Ring.qk) (y.bytes x.a)).map f)) (y.label x.a) := by
  unfold bnRing
  dsimp only
  rw [if_neg (by simp [h0, h128])]
  simp only [List.mem_cons, Prod.mk.injEq, List.not_mem_nil, or_false] at hf
  rcases hf with ⟨rfl, rfl⟩ | ⟨rfl, rfl⟩ <;> rfl

/-- An operation of two polynomial operands of one length. -/
theorem bnRing_two {op : BnOp} {f : List Nat → List Nat → List Nat} (hlen : (y.slot x.b).len = (y.slot x.a).len)
    (hf : (op, f) ∈ [(BnOp.pmul, if x.param.getLsbD 0 then Ring.mulD else Ring.mulK),
      (.padd, Ring.addP (if x.param.getLsbD 0 then Ring.qd else Ring.qk)), (.psub, Ring.subP (if x.param.getLsbD 0 then Ring.qd else Ring.qk))]) :
    bnRing y op x = okWrite x.d (ringBytes (List.zipWith f (ringPolys (if x.param.getLsbD 0 then Ring.qd else Ring.qk) (y.bytes x.a))
      (ringPolys (if x.param.getLsbD 0 then Ring.qd else Ring.qk) (y.bytes x.b)))) ((y.label x.a).max (y.label x.b)) := by
  unfold bnRing
  dsimp only
  rw [if_neg (by simp [h0, h128])]
  simp only [List.mem_cons, Prod.mk.injEq, List.not_mem_nil, or_false] at hf
  rcases hf with ⟨rfl, rfl⟩ | ⟨rfl, rfl⟩ | ⟨rfl, rfl⟩ <;> exact if_neg (not_not.mpr hlen)

end

/-! ### The modular rows as the spec names them -/

section
variable {s : State} {c : Fin 2048} {n : Fin 6} {x : BneArgs} (h4 : 4 ≤ ((s.bne (bneOf c n)).slot x.k).len)
  (h256 : ((s.bne (bneOf c n)).slot x.k).len ≤ 256) (ha : ((s.bne (bneOf c n)).slot x.a).len = ((s.bne (bneOf c n)).slot x.k).len)
  (hd : ((s.bne (bneOf c n)).slot x.k).len ≤ ((s.bne (bneOf c n)).slot x.d).len)
include h4 h256 ha hd

theorem bneThree_runs (h : BneReady s c n [x.a, x.b, x.k, x.d]) (hb : ((s.bne (bneOf c n)).slot x.b).len = ((s.bne (bneOf c n)).slot x.k).len) :
    let y := s.bne (bneOf c n)
    let L := (y.slot x.k).len
    let m := y.int x.k
    let a := y.int x.a
    let b := y.int x.b
    let lab := ((y.label x.a).max (y.label x.k)).max (y.label x.b)
    let three := [Instr.bneMmul c n x, .bneMadd c n x, .bneMsub c n x]
    (a < m → b < m → m % 2 = 1 →
      BneGives (.bneMmul c n x) s c n (wordWrite x L (a * b % m) lab) ∧ BneGives (.bneMadd c n x) s c n (wordWrite x L ((a + b) % m) lab) ∧
      BneGives (.bneMsub c n x) s c n (wordWrite x L ((a + m - b) % m) lab)) ∧
    ((m ≤ a ∨ m ≤ b) → ∀ i ∈ three, BneEnds i s c n St.operandRange [x.d]) ∧
    (a < m → b < m → m % 2 = 0 → ∀ i ∈ three, BneEnds i s c n St.degenerate [x.d]) := by
  intro y L m a b lab three
  have hon : (y.slot x.d).on = true := h.on (by simp)
  obtain ⟨hmul, hmulRange, hmulEven⟩ := modular_runs (h.commands (i := .bneMmul c n x) (op := .mmul) rfl rfl rfl) (by simp)
    hon h4 h256 ha (fun _ => hb) hd
  obtain ⟨hadd, haddRange, haddEven⟩ := modular_runs (h.commands (i := .bneMadd c n x) (op := .madd) rfl rfl rfl) (by simp)
    hon h4 h256 ha (fun _ => hb) hd
  obtain ⟨hsub, hsubRange, hsubEven⟩ := modular_runs (h.commands (i := .bneMsub c n x) (op := .msub) rfl rfl rfl) (by simp)
    hon h4 h256 ha (fun _ => hb) hd
  simp only [three, List.forall_mem_cons, List.not_mem_nil, false_imp_iff, implies_true, and_true]
  refine ⟨fun hab hbb hodd => ⟨hmul hab (fun _ => hbb) hodd, hadd hab (fun _ => hbb) hodd, ?_⟩, fun hrange => ?_, fun hab hbb heven =>
    ⟨hmulEven hab (fun _ => hbb) heven, haddEven hab (fun _ => hbb) heven, hsubEven hab (fun _ => hbb) heven⟩⟩
  · have hwrite : [modularWrite y .msub x] = wordWrite x L (Num.subMod a b m) lab := rfl
    rw [← subMod_eq hab hbb, ← hwrite]
    exact hsub hab (fun _ => hbb) hodd
  · have hany : m ≤ a ∨ (true = true ∧ m ≤ b) := hrange.imp_right fun hb => ⟨rfl, hb⟩
    exact ⟨hmulRange hany, haddRange hany, hsubRange hany⟩

theorem bneMexp_runs (h : BneReady s c n [x.a, x.b, x.k, x.d]) :
    let y := s.bne (bneOf c n)
    let m := y.int x.k
    let a := y.int x.a
    (a < m → m % 2 = 1 → BneGives (.bneMexp c n x) s c n
      (wordWrite x (y.slot x.k).len (a ^ y.int x.b % m) (((y.label x.a).max (y.label x.k)).max (y.label x.b)))) ∧
    (m ≤ a → BneEnds (.bneMexp c n x) s c n St.operandRange [x.d]) ∧
    (a < m → m % 2 = 0 → BneEnds (.bneMexp c n x) s c n St.degenerate [x.d]) := by
  intro y m a
  obtain ⟨hexp, hrange, heven⟩ := modular_runs (h.commands (i := .bneMexp c n x) (op := .mexp) rfl rfl rfl) (by simp) (h.on (by simp)) h4 h256 ha
    nofun hd
  refine ⟨fun hab hodd => ?_, fun hge => hrange (.inl hge), fun hab => heven hab nofun⟩
  have hwrite : [modularWrite y .mexp x] =
      wordWrite x (y.slot x.k).len (Num.powMod a (y.int x.b) m) (((y.label x.a).max (y.label x.k)).max (y.label x.b)) := rfl
  rw [← powMod_eq, ← hwrite]
  exact hexp hab nofun hodd

theorem bneMinv_runs (h : BneReady s c n [x.a, x.k, x.d]) :
    let y := s.bne (bneOf c n)
    let m := y.int x.k
    let a := y.int x.a
    (a < m → m % 2 = 1 → BneGives (.bneMinv c n x) s c n
      (wordWrite x (y.slot x.k).len (a ^ (m - 2) % m) ((y.label x.a).max (y.label x.k)))) ∧
    (m ≤ a → BneEnds (.bneMinv c n x) s c n St.operandRange [x.d]) ∧
    (a < m → m % 2 = 0 → BneEnds (.bneMinv c n x) s c n St.degenerate [x.d]) := by
  intro y m a
  obtain ⟨hinv, hrange, heven⟩ := modular_runs (h.commands (i := .bneMinv c n x) (op := .minv) rfl rfl rfl) (by simp) (h.on (by simp)) h4 h256 ha
    nofun hd
  refine ⟨fun hab hodd => ?_, fun hge => hrange (.inl hge), fun hab => heven hab nofun⟩
  have hwrite : [modularWrite y .minv x] =
      wordWrite x (y.slot x.k).len (Num.powMod a (m - 2) m) (((y.label x.a).max (y.label x.k)).max .p) := rfl
  rw [← powMod_eq, ← max_public ((y.label x.a).max (y.label x.k)), ← hwrite]
  exact hinv hab nofun hodd

end

theorem bneThree_faults {s : State} {c : Fin 2048} {n : Fin 6} {x : BneArgs} (h : BneReady s c n [x.a, x.b, x.k, x.d])
    (hlen : ((s.bne (bneOf c n)).slot x.a).len ≠ ((s.bne (bneOf c n)).slot x.k).len ∨
      ((s.bne (bneOf c n)).slot x.b).len ≠ ((s.bne (bneOf c n)).slot x.k).len ∨
      ((s.bne (bneOf c n)).slot x.d).len < ((s.bne (bneOf c n)).slot x.k).len) :
    ∀ i ∈ [Instr.bneMmul c n x, .bneMadd c n x, .bneMsub c n x], ∃ u, AtPort s c u ∧ exec i s = done (faultCtx u c) := by
  simp only [List.forall_mem_cons, List.not_mem_nil, false_imp_iff, implies_true, and_true]
  exact ⟨modular_faults (h.commands (op := .mmul) rfl rfl rfl) (by simp) hlen, modular_faults (h.commands (op := .madd) rfl rfl rfl) (by simp) hlen,
    modular_faults (h.commands (op := .msub) rfl rfl rfl) (by simp) hlen⟩

/-- Settles O41: each modular, point or ring row by what its operation yields of operands that are in range. -/
theorem bigNumberPrimitivesPointsAndRings : Obligations.BigNumberPrimitivesPointsAndRings := by
  unfold Obligations.BigNumberPrimitivesPointsAndRings
  refine ⟨fun s c n x => ?_, fun s c n x => ?_⟩
  · intro y L m a b put lab three
    exact ⟨fun h4 h256 ha hd => ⟨fun hready hb => bneThree_runs h4 h256 ha hd hready hb, fun hready => bneMexp_runs h4 h256 ha hd hready,
      fun hready => bneMinv_runs h4 h256 ha hd hready⟩, fun hready h4 h256 ha hd => bneMred_runs hready h4 h256 ha hd,
      fun hready ha4 ha256 hb4 hb256 hd => bneMul_gives hready ha4 ha256 hb4 hb256 hd, fun hready hlen => bneThree_faults hready hlen⟩
  · intro y put both
    refine ⟨fun cv w (hcurve : CurveArgs x cv w) => ?_, ?_⟩
    · intro infinity bytesOf px py valid
      obtain ⟨-, hw⟩ := hcurve.curve
      have hbytes : ∀ q, pointWords cv q = bytesOf q := fun q => by
        unfold pointWords
        rw [hw]
        match q with
        | none => rfl
        | some (_, _) => rfl
      have hpoint : 2 * w ≤ (y.slot x.a).len → wordsPoint cv (y.bytes x.a) = if valid then some (px, py) else none := fun ha =>
        wordsPoint_eq hw (by rw [length_slotBytes]; omega)
      refine ⟨fun hready ha => ?_, fun hready ha hd => ?_, fun hready hd => ?_⟩
      · obtain ⟨hgives, hends⟩ := bnePcheck_runs hcurve hready ha
        exact ⟨fun hvalid => hgives (by rw [hpoint ha, if_pos hvalid]; rfl), fun hinvalid => hends (by rw [hpoint ha, if_neg hinvalid])⟩
      · obtain ⟨hgives, hends⟩ := bneSmul_runs hcurve hready ha hd
        refine ⟨fun hvalid => ?_, fun hinvalid => hends (by rw [hpoint ha, if_neg hinvalid])⟩
        rw [← hbytes]
        exact hgives _ (by rw [hpoint ha, if_pos hvalid])
      · rw [← hbytes]
        exact bneSmulg_gives hcurve hready hd
    · intro big q polys out h0 h128
      refine ⟨fun hready => ?_, fun hready hlen i f hf hfit => ?_⟩
      · have hntt : Commands (.bneNtt c n x) s c n .ntt x [] := hready.commands rfl rfl rfl
        have hintt : Commands (.bneIntt c n x) s c n .intt x [] := hready.commands rfl rfl rfl
        exact ⟨fun hfit => hntt.evalGives rfl (bnRing_one (op := .ntt) h0 h128 (List.mem_cons_self ..)) hfit,
          fun hfit => hintt.evalGives rfl (bnRing_one (op := .intt) h0 h128 (List.mem_cons_of_mem _ (List.mem_singleton_self _))) hfit⟩
      · simp only [List.mem_cons, Prod.mk.injEq, List.not_mem_nil, or_false] at hf
        rcases hf with ⟨rfl, rfl⟩ | ⟨rfl, rfl⟩ | ⟨rfl, rfl⟩
        · have hrow : Commands (.bnePmul c n x) s c n .pmul x [] := hready.commands rfl rfl rfl
          exact hrow.evalGives rfl (bnRing_two (op := .pmul) h0 h128 hlen (.head _)) hfit
        · have hrow : Commands (.bnePadd c n x) s c n .padd x [] := hready.commands rfl rfl rfl
          exact hrow.evalGives rfl (bnRing_two (op := .padd) h0 h128 hlen (.tail _ (.head _))) hfit
        · have hrow : Commands (.bnePsub c n x) s c n .psub x [] := hready.commands rfl rfl rfl
          exact hrow.evalGives rfl (bnRing_two (op := .psub) h0 h128 hlen (.tail _ (.tail _ (.head _)))) hfit

end Sys2Proof.Machine
end

section
/-! Proofs: signatures, verification, agreement, hashes and MACs in the big-number engines (O42). -/

namespace Sys2Proof.Machine

open Sys2Proof Sys2Proof.Bits

/-! ### Keys and digests (R203, R206) -/

section
variable {y : Bne} {k : Nat} {role : Byte} {ok : Byte → Bool}

theorem keyOk_of (hon : (y.slot k).on = true) (hrole : (y.slot k).role = role) (halg : ok (y.slot k).alg = true) : y.keyOk k role ok = true := by
  simp [Bne.keyOk, hon, hrole, halg]

theorem keyOk_of_role (hrole : (y.slot k).role ≠ role) : y.keyOk k role ok = false := by simp [Bne.keyOk, hrole]

end

theorem bits_low5 (v : Nat) : bits v 4 0 = v % 32 := by simp [bits]

theorem BneDigest.digest {param : BitVec 8} {h : Hash.Alg} {msg dg : Bytes} (hdg : BneDigest param h msg dg) : bnDigest param msg = some (h, dg) := by
  obtain ⟨hhash, rfl⟩ := hdg
  unfold bnDigest
  rw [bits_low5, hhash]
  rfl

theorem writeTo_one (w : BnWrite) : writeTo [w] w.slot = w.bytes := by simp [writeTo]

/-! ### RSA signatures (R206, R208) -/

/-- An RSA signature in word form. -/
def rsaWrite (y : Bne) (x : BneArgs) (sig : Bytes) : BnWrite where
  slot := x.d
  bytes := le (8 * (y.slot x.k).len) (ofBe sig)
  label := .c

section
variable {y : Bne} {x : BneArgs} {msg dg salt : Bytes} {h : Hash.Alg}

theorem bnRsaSign_denied (hkey : y.keyOk x.k 0x0E (· == Alg.rsa) = false) : bnRsaSign y x msg salt = none := if_pos (by rw [hkey]; rfl)

section
variable (hkey : y.keyOk x.k 0x0E (· == Alg.rsa) = true) (hdg : bnDigest x.param msg = some (h, dg))
include hkey hdg

theorem bnRsaSign_some {sig : Bytes} (hsig : rsaSignDigest (y.group x.k 7) h (x.param.getLsbD 6) dg salt = some sig) :
    bnRsaSign y x msg salt = some (St.ok, [rsaWrite y x sig]) := by
  unfold bnRsaSign
  rw [hkey, hdg]
  dsimp only
  rw [hsig]
  rfl

theorem bnRsaSign_unencoded (hsig : rsaSignDigest (y.group x.k 7) h (x.param.getLsbD 6) dg salt = none) :
    bnRsaSign y x msg salt = some (St.degenerate, [{ slot := x.d, bytes := zeros (8 * (y.slot x.k).len), label := .c }]) := by
  unfold bnRsaSign
  rw [hkey, hdg]
  dsimp only
  rw [hsig]
  rfl

end

theorem bnConfirms_rsaSign (hdg : bnDigest x.param msg = some (h, dg)) (sig : Bytes) (test : Nat) :
    bnConfirms y .rsaSign x msg [rsaWrite y x sig] test = rsaOpens (y.int x.k) (y.int (x.k.val + 1)) (8 * (y.slot x.k).len)
      (ofLe (le (8 * (y.slot x.k).len) (ofBe sig))) h (x.param.getLsbD 6) dg [y.word0 x.b] := by
  unfold bnConfirms
  rw [hdg]
  have hwrite : writeTo [rsaWrite y x sig] x.d = le (8 * (y.slot x.k).len) (ofBe sig) := writeTo_one _
  dsimp only
  rw [hwrite]

variable {s : State} {b : Nat}

theorem bnDraw_rsaPlain (hpss : x.param.getLsbD 6 = false) : bnDraw s b y .rsaSign x msg = (bnRsaSign y x msg [], s) := by
  unfold bnDraw
  dsimp only
  rw [hpss]
  rfl

variable (hpss : x.param.getLsbD 6 = true) (hon : (y.slot x.b).on = true)
include hpss hon

theorem bnDraw_rsaLong (hlong : 8 * (y.slot x.k).len < y.word0 x.b) :
    bnDraw s b y .rsaSign x msg = (some (St.degenerate, [{ slot := x.d, bytes := zeros (8 * (y.slot x.k).len), label := .c }]), s) := by
  unfold bnDraw
  dsimp only
  rw [if_neg (by simp [hon]), if_pos ⟨hpss, hlong⟩]

theorem bnDraw_rsaPss (hsalt : y.word0 x.b ≤ 8 * (y.slot x.k).len) :
    bnDraw s b y .rsaSign x msg = (bnRsaSign y x msg (drbgGen s b (y.word0 x.b)).1, (drbgGen s b (y.word0 x.b)).2) := by
  unfold bnDraw
  dsimp only
  rw [if_neg (by simp [hon]), if_neg fun hlong => Nat.not_lt.mpr hsalt hlong.2, hpss]
  rfl

end

/-- The zeros of a signature that has no encoding. -/
theorem fits_rsaZeros {y : Bne} {x : BneArgs} (hon : (y.slot x.d).on = true) (hd : (y.slot x.k).len ≤ (y.slot x.d).len) :
    BneFits y [{ slot := x.d, bytes := zeros (8 * (y.slot x.k).len), label := .c }] :=
  fits_one hon (List.length_replicate.trans_le (Nat.mul_le_mul_left 8 hd))

section
variable {s : State} {c : Fin 2048} {n : Fin 6} {x : BneArgs} {msg dg : Bytes} {h : Hash.Alg}
  (hmsg : BneMessage s c n x.a msg) (hdg : BneDigest x.param h msg dg)
include hmsg hdg

theorem bneRsaSign_plain (hready : BneReady s c n [x.k, x.d]) (hkey : (s.bne (bneOf c n)).keyOk x.k 0x0E (· == Alg.rsa) = true)
    (hpss : x.param.getLsbD 6 = false) :
    let y := s.bne (bneOf c n)
    (∀ sig, rsaSignDigest (y.group x.k 7) h false dg [] = some sig → BneFits y [rsaWrite y x sig] →
      BneGivesFrom (.bneRsaSign c n x) s c n (fun u => u) (fun _ => [rsaWrite y x sig])
        (fun _ => !rsaOpens (y.int x.k) (y.int (x.k.val + 1)) (8 * (y.slot x.k).len) (ofLe (le (8 * (y.slot x.k).len) (ofBe sig))) h
          (x.param.getLsbD 6) dg [y.word0 x.b])) ∧
    (rsaSignDigest (y.group x.k 7) h false dg [] = none → (y.slot x.k).len ≤ (y.slot x.d).len →
      BneEnds (.bneRsaSign c n x) s c n St.degenerate [x.d]) := by
  intro y
  have hrow : Commands (.bneRsaSign c n x) s c n .rsaSign x msg := 
    hready.commandsOn (op := .rsaSign) (x := x) rfl (if_neg (by rw [hpss]; exact Bool.false_ne_true)) rfl hmsg
  have hres : ∀ u, AtPort s c u → bnResult u (bneOf c n) .rsaSign x msg = (bnRsaSign y x msg [], u) := fun u hu => by
    rw [bnResult_draw rfl, hu.bne, bnDraw_rsaPlain hpss]
  have hserved : ∀ u, bnStarved u (bneOf c n) .rsaSign x = false := fun u => by
    unfold bnStarved
    rw [hpss]
    rfl
  rw [← hpss]
  refine ⟨fun sig hsig hfit => ?_, fun hsig hd => ?_⟩
  · exact hrow.givesFrom ⟨by decide, by decide⟩ (fun u hu => by rw [hres u hu, bnRsaSign_some hkey hdg.digest hsig]) (fun _ _ => hfit)
      (fun _ _ => by rw [bnConfirms_rsaSign hdg.digest]) (fun u _ => hserved u)
  · exact hrow.ends (fun u hu => by rw [hres u hu, bnRsaSign_unencoded hkey hdg.digest hsig]) (fits_rsaZeros (hready.on (by simp)) hd)
      (by decide)

theorem bneRsaSign_pss (hready : BneReady s c n [x.b, x.k, x.d]) (hkey : (s.bne (bneOf c n)).keyOk x.k 0x0E (· == Alg.rsa) = true)
    (hpss : x.param.getLsbD 6 = true) :
    let y := s.bne (bneOf c n)
    let salt := y.word0 x.b
    (8 * (y.slot x.k).len < salt → (y.slot x.k).len ≤ (y.slot x.d).len → BneEnds (.bneRsaSign c n x) s c n St.degenerate [x.d]) ∧
    (∀ sig, salt ≤ 8 * (y.slot x.k).len → rsaSignDigest (y.group x.k 7) h true dg (drbgGen s (barnOfCtx c) salt).1 = some sig →
      BneFits y [rsaWrite y x sig] →
      BneAfter (.bneRsaSign c n x) s c n (0x20, x, msg) [x.d] (fun u => (drbgGen u (barnOfCtx c) salt).2) (fun _ => [rsaWrite y x sig])
        (fun _ => !rsaOpens (y.int x.k) (y.int (x.k.val + 1)) (8 * (y.slot x.k).len) (ofLe (le (8 * (y.slot x.k).len) (ofBe sig))) h
          (x.param.getLsbD 6) dg [y.word0 x.b])) := by
  intro y salt
  have hrow : Commands (.bneRsaSign c n x) s c n .rsaSign x msg := hready.commandsOn (op := .rsaSign) (x := x) rfl (if_pos hpss) rfl hmsg
  have hb : (y.slot x.b).on = true := hready.on (by simp)
  refine ⟨fun hlong hd => ?_, fun sig hsalt hsig hfit => ?_⟩
  · exact hrow.ends (fun u hu => by rw [bnResult_draw rfl, hu.bne, bnDraw_rsaLong hpss hb hlong])
      (fits_rsaZeros (hready.on (by simp)) hd) (by decide)
  · refine hrow.after rfl (fun u hu => ?_) (fun _ _ => hfit) (fun _ _ => rfl) ⟨by decide, by decide⟩ (fun _ => hpss)
      (fun _ _ => by rw [bnConfirms_rsaSign hdg.digest])
    rw [bnResult_draw rfl, hu.bne, barnOfBne_bneOf, bnDraw_rsaPss hpss hb hsalt, hu.drbgGen,
      bnRsaSign_some hkey hdg.digest (hpss ▸ hsig)]

omit hdg in
theorem bneRsaSign_denied (hready : BneReady s c n [x.k, x.d]) (hrole : ((s.bne (bneOf c n)).slot x.k).role ≠ 0x0E)
    (hpss : x.param.getLsbD 6 = false) : ∃ u, AtPort s c u ∧ exec (.bneRsaSign c n x) s = done (faultCtx u c) := by
  have hrow : Commands (.bneRsaSign c n x) s c n .rsaSign x msg := 
    hready.commandsOn (op := .rsaSign) (x := x) rfl (if_neg (by rw [hpss]; exact Bool.false_ne_true)) rfl hmsg
  exact hrow.faults fun u hu => ⟨u, bnJudge_none (by
    rw [bnResult_draw rfl, hu.bne, bnDraw_rsaPlain hpss, bnRsaSign_denied (keyOk_of_role hrole)])⟩

/-! ### ECDSA (R206) -/

theorem bneEcdsaSign_after {cv : Ec.Curve} (hready : BneReady s c n [x.k, x.d])
    (hkey : (s.bne (bneOf c n)).keyOk x.k 0x0E Alg.isEcc = true) (hcv : curveOf ((s.bne (bneOf c n)).slot x.k).alg = some cv)
    (hd : 2 * curveWords cv ≤ ((s.bne (bneOf c n)).slot x.d).len) :
    let r (u : State) := ecdsaSign cv ((s.bne (bneOf c n)).int x.k) dg 4 u (barnOfCtx c)
    BneAfter (.bneEcdsaSign c n x) s c n (0x22, x, msg) [x.d] (fun u => (r u).2)
      (fun u => [{ slot := x.d, bytes := le (8 * curveWords cv) (r u).1.1 ++ le (8 * curveWords cv) (r u).1.2, label := .c }]) (fun _ => false) := by
  intro r
  have hrow : Commands (.bneEcdsaSign c n x) s c n .ecdsaSign x msg := hready.commandsOn rfl rfl rfl hmsg
  refine hrow.after rfl (fun u hu => ?_) (fun u _ => fits_one (hready.on (by simp)) ?_) (fun _ _ => rfl) ⟨by decide, by decide⟩ nofun (fun _ _ => rfl)
  · rw [bnResult_draw rfl, hu.bne, barnOfBne_bneOf]
    unfold bnDraw
    rw [hcv, hdg.digest]
    dsimp only
    rw [if_neg (by rw [hkey]; exact Bool.false_ne_true)]
    rfl
  · rw [List.length_append, length_le_bytes, length_le_bytes]
    dsimp only
    omega

theorem bneEcdsaVerify_result {cv : Ec.Curve} (hready : BneReady s c n [x.b, x.k, x.d])
    (hcv : (((s.bne (bneOf c n)).slot x.d).len, cv) ∈ [(4, Ec.p256), (6, Ec.p384), (9, Ec.p521)])
    (hk : 2 * curveWords cv ≤ ((s.bne (bneOf c n)).slot x.k).len) (hb : 2 * curveWords cv ≤ ((s.bne (bneOf c n)).slot x.b).len) :
    let y := s.bne (bneOf c n)
    let w := curveWords cv
    (wordsPoint cv (y.bytes x.k) = none → BneResult (.bneEcdsaVerify c n x) s c n St.pointInvalid) ∧
    ∀ q, wordsPoint cv (y.bytes x.k) = some q → BneResult (.bneEcdsaVerify c n x) s c n
      (if Ec.verify cv (some q) (ofLe ((y.bytes x.b).take (8 * w))) (ofLe (((y.bytes x.b).drop (8 * w)).take (8 * w))) dg
        then St.ok else St.signatureInvalid) := by
  intro y w
  have hrow : Commands (.bneEcdsaVerify c n x) s c n .ecdsaVerify x msg := hready.commandsOn rfl rfl rfl hmsg
  have hlen : (y.bytes x.b).length = 8 * (y.slot x.b).len := length_slotBytes _ _
  have hroom : 2 * w ≤ (y.slot x.b).len := hb
  have hr : slice (y.bytes x.b) 0 (8 * w) = (y.bytes x.b).take (8 * w) := slice_within (by omega)
  have ht : slice (y.bytes x.b) (8 * w) (8 * w) = ((y.bytes x.b).drop (8 * w)).take (8 * w) := slice_within (by omega)
  have hverify : bnEcdsaVerify y x msg = match wordsPoint cv (y.bytes x.k) with
      | none => some (St.pointInvalid, [])
      | some q => some (if Ec.verify cv (some q) (ofLe (slice (y.bytes x.b) 0 (8 * w))) (ofLe (slice (y.bytes x.b) (8 * w) (8 * w))) dg
          then St.ok else St.signatureInvalid, []) := by
    have hshort : ¬ ((y.slot x.k).len < 2 * curveWords cv ∨ (y.slot x.b).len < 2 * curveWords cv) := by
      rintro (h | h)
      · exact Nat.not_lt.mpr hk h
      · exact Nat.not_lt.mpr hb h
    have hd : (y.slot x.d).len = ((s.bne (bneOf c n)).slot x.d).len := rfl
    simp only [List.mem_cons, Prod.mk.injEq, List.not_mem_nil, or_false, ← hd] at hcv
    unfold bnEcdsaVerify
    rw [hdg.digest]
    rcases hcv with ⟨hlen, rfl⟩ | ⟨hlen, rfl⟩ | ⟨hlen, rfl⟩ <;> rw [hlen] <;> exact if_neg hshort
  rw [hr, ht] at hverify
  refine ⟨fun hpoint => hrow.evalResult rfl (hverify.trans (by rw [hpoint])), fun q hpoint => hrow.evalResult rfl (hverify.trans (by rw [hpoint]))⟩

end

/-! ### RSA verification (R102, R206) -/

theorem bneRsaVerify_result {s : State} {c : Fin 2048} {n : Fin 6} {x : BneArgs} {msg dg : Bytes} {h : Hash.Alg}
    (hmsg : BneMessage s c n x.b msg) (hdg : BneDigest x.param h msg dg) (hready : BneReady s c n [x.a, x.k])
    (hon : ((s.bne (bneOf c n)).slot (x.k.val + 1)).on = true) :
    let y := s.bne (bneOf c n)
    let m := y.int x.k
    let e := y.int (x.k.val + 1)
    let sig := y.int x.a
    BneResult (.bneRsaVerify c n x) s c n (if m % 2 = 0 ∨ e % 2 = 0 ∨ e < 3 then St.badFormat else if sig = 0 ∨ m ≤ sig then St.degenerate
      else if rsaOpens m e (8 * (y.slot x.k).len) sig h (x.param.getLsbD 6) dg (List.range 65) then St.ok else St.signatureInvalid) := by
  intro y m e sig
  have hrow : Commands (.bneRsaVerify c n x) s c n .rsaVerify x msg := hready.commandsOn rfl rfl rfl hmsg
  refine hrow.evalResult rfl ?_
  show bnRsaVerify y x msg = _
  unfold bnRsaVerify
  rw [if_neg (by simp [y, hon]), hdg.digest]
  dsimp only
  unfold rsaPublicStatus
  by_cases hformat : m % 2 = 0 ∨ e % 2 = 0 ∨ e < 3
  · rw [if_pos hformat, if_pos hformat, if_pos (by decide)]
  · rw [if_neg hformat, if_neg hformat]
    by_cases hrange : sig = 0 ∨ m ≤ sig
    · rw [if_pos hrange, if_pos hrange, if_pos (by decide)]
    · rw [if_neg hrange, if_neg hrange, if_neg (not_not.mpr rfl)]

/-! ### Agreement (R206) -/

section
variable {s : State} {c : Fin 2048} {n : Fin 6} {x : BneArgs}

/-- The agreement of a key of curve cv with a point of words of that curve. -/
def bnEcdhOf (y : Bne) (x : BneArgs) (cv : Ec.Curve) : BnRes :=
  let w (b : Bytes) : BnWrite := { slot := x.d, bytes := b, label := .k, storable := true, alg := sharedAlg (x.param.toNat / 8) }
  match wordsPoint cv (y.bytes x.a) with
  | none => some (St.pointInvalid, [w (zeros x.param.toNat)])
  | some p =>
    match Ec.smul cv (y.int x.k) (some p) with
    | none => some (St.degenerate, [w (zeros x.param.toNat)])
    | some (z, _) => some (St.ok, [w (Hash.oneStep .sha256 (be cv.len z) (y.bytes x.b) x.param.toNat)])

theorem bneEcdh_runs {cv : Ec.Curve} (hready : BneReady s c n [x.a, x.b, x.k, x.d])
    (hkey : (s.bne (bneOf c n)).keyOk x.k 0x0F Alg.isEcc = true) (hcv : curveOf ((s.bne (bneOf c n)).slot x.k).alg = some cv)
    (ha : 2 * curveWords cv ≤ ((s.bne (bneOf c n)).slot x.a).len) (hparam : x.param.toNat ∈ [16, 24, 32, 64])
    (hd : x.param.toNat ≤ 8 * ((s.bne (bneOf c n)).slot x.d).len) :
    let y := s.bne (bneOf c n)
    (wordsPoint cv (y.bytes x.a) = none → BneEnds (.bneEcdh c n x) s c n St.pointInvalid [x.d]) ∧
    (∀ p, wordsPoint cv (y.bytes x.a) = some p →
      (Ec.smul cv (y.int x.k) (some p) = none → BneEnds (.bneEcdh c n x) s c n St.degenerate [x.d]) ∧
      (∀ z, Ec.smul cv (y.int x.k) (some p) = some z → let w : BnWrite := {
          slot := x.d
          bytes := Hash.oneStep .sha256 (be cv.len z.1) (y.bytes x.b) x.param.toNat
          label := .k
          storable := true
          alg := sharedAlg (x.param.toNat / 8) }
        BneFits y [w] → BneGives (.bneEcdh c n x) s c n [w])) := by
  intro y
  have hrow : Commands (.bneEcdh c n x) s c n .ecdh x [] := hready.commands rfl rfl rfl
  have hlong : ¬ (!y.keyOk x.k 0x0F Alg.isEcc || (y.slot x.a).len < 2 * curveWords cv || !([16, 24, 32, 64].contains x.param.toNat)) = true := by
    have hlen : ¬ (y.slot x.a).len < 2 * curveWords cv := Nat.not_lt.mpr ha
    have hlisted : [16, 24, 32, 64].contains x.param.toNat = true := List.contains_iff_mem.mpr hparam
    rw [hlisted, show y.keyOk x.k 0x0F Alg.isEcc = true from hkey, decide_eq_false hlen]
    exact Bool.false_ne_true
  have hzeros : BneFits y [{ slot := x.d, bytes := zeros x.param.toNat, label := .k, storable := true, alg := sharedAlg (x.param.toNat / 8) }] :=
    fits_one (hready.on (by simp)) (List.length_replicate.trans_le hd)
  have hcurve : curveOf (y.slot x.k).alg = some cv := hcv
  have hres : bnEval y .ecdh x [] = bnEcdhOf y x cv := by
    show bnEcdh y x = _
    unfold bnEcdh
    rw [hcurve]
    exact if_neg hlong
  unfold bnEcdhOf at hres
  refine ⟨fun hpoint => ?_, fun p hpoint => ⟨fun hsmul => ?_, ?_⟩⟩
  · rw [hpoint] at hres
    exact hrow.evalEnds rfl hres hzeros (by decide)
  · rw [hpoint] at hres
    dsimp only at hres
    rw [hsmul] at hres
    exact hrow.evalEnds rfl hres hzeros (by decide)
  · intro z hsmul w hfit
    rw [hpoint] at hres
    dsimp only at hres
    rw [hsmul] at hres
    exact hrow.evalGives rfl hres hfit

/-! ### Ed25519 (R102, R206) -/

theorem bneEd25519Sign_gives {msg : Bytes} (hmsg : BneMessage s c n x.a msg) (hready : BneReady s c n [x.k, x.d])
    (hkey : (s.bne (bneOf c n)).keyOk x.k 0x0E (· == Alg.ed25519) = true) :
    let y := s.bne (bneOf c n)
    let w : BnWrite := { slot := x.d, bytes := Ed.sign (y.int x.k) (y.bytes (x.k.val + 1)) (y.bytes (x.k.val + 2)) msg, label := .c }
    BneFits y [w] → BneGives (.bneEd25519Sign c n x) s c n [w] := by
  intro y w hfit
  have hrow : Commands (.bneEd25519Sign c n x) s c n .edSign x msg := hready.commandsOn rfl rfl rfl hmsg
  exact hrow.evalGives rfl (if_neg (by rw [hkey]; exact Bool.false_ne_true)) hfit

theorem bneEd25519Verify_result {msg : Bytes} (hmsg : BneMessage s c n x.a msg) (hready : BneReady s c n [x.b, x.k])
    (hk : 4 ≤ ((s.bne (bneOf c n)).slot x.k).len) (hb : 8 ≤ ((s.bne (bneOf c n)).slot x.b).len) :
    let y := s.bne (bneOf c n)
    let pk := (y.bytes x.k).take 32
    let sig := (y.bytes x.b).take 64
    BneResult (.bneEd25519Verify c n x) s c n (if (Ed.decode pk).isNone then St.pointInvalid
      else if Ed.canonical (sig.take 32) = true ∧ Ed.verify pk sig msg = true then St.ok else St.signatureInvalid) := by
  intro y pk sig
  have hrow : Commands (.bneEd25519Verify c n x) s c n .edVerify x msg := hready.commandsOn rfl rfl rfl hmsg
  have hlen : sig.length = 64 := by
    have hroom : 8 ≤ (y.slot x.b).len := hb
    rw [List.length_take, length_slotBytes]
    omega
  refine hrow.evalResult rfl ?_
  show bnEdVerify y x msg = _
  unfold bnEdVerify
  rw [if_neg (by rintro (h | h); exacts [Nat.not_lt.mpr hk h, Nat.not_lt.mpr hb h])]
  show some (edStatus pk sig msg, _) = _
  unfold edStatus
  simp only [hlen, true_and]

/-! ### Hashes and MACs (R105, R206) -/

variable {msg : Bytes} {g : Hash.Alg} (hmsg : BneMessage s c n x.a msg) (hg : Hash.ofByte (x.param.toNat % 32) = some g)
include hmsg hg

theorem bneHash_gives (hready : BneReady s c n [x.d]) (hwhole : x.param.getLsbD 5 = false) :
    let w : BnWrite := { slot := x.d, bytes := Hash.hash g msg, label := .p }
    BneFits (s.bne (bneOf c n)) [w] → BneGives (.bneHash c n x) s c n [w] := by
  intro w hfit
  have hrow : Commands (.bneHash c n x) s c n .hash x msg := hready.commandsOn rfl rfl rfl hmsg
  refine hrow.evalGives rfl ?_ hfit
  show bnHash (s.bne (bneOf c n)) x msg = _
  unfold bnHash
  rw [bits_low5, hg]
  dsimp only
  rw [hwhole]
  rfl

theorem bneHash_resumes (hready : BneReady s c n [x.b, x.d]) (hresumes : x.param.getLsbD 5 = true) (hsha2 : Hash.isSha2 g = true) :
    let y := s.bne (bneOf c n)
    let w : BnWrite := {
      slot := x.d
      bytes := Hash.finishMd g ((chunks (if Hash.blockBytes g = 64 then 4 else 8) (slice (y.bytes x.b) 8 (Hash.stateBytes g))).map ofBe) (y.word0 x.b) msg
      label := .p }
    BneFits y [w] → BneGives (.bneHash c n x) s c n [w] := by
  intro y w hfit
  have hrow : Commands (.bneHash c n x) s c n .hash x msg := (hready.mono (by simp)).commandsOn (named := [x.d]) rfl rfl rfl hmsg
  have hb : (y.slot x.b).on = true := hready.on (by simp)
  refine hrow.evalGives rfl ?_ hfit
  show bnHash y x msg = _
  unfold bnHash
  rw [bits_low5, hg]
  dsimp only
  rw [hresumes, hb, hsha2]
  rfl

theorem bneHmac_gives (hready : BneReady s c n [x.b, x.k, x.d]) (hrole : ((s.bne (bneOf c n)).slot x.k).role = 0x10) :
    let y := s.bne (bneOf c n)
    let w : BnWrite := { slot := x.d, bytes := (Hash.hmac g (y.bytes x.k) msg).take (y.word0 x.b % 256), label := .c }
    BneFits y [w] → BneGives (.bneHmac c n x) s c n [w] := by
  intro y w hfit
  have hrow : Commands (.bneHmac c n x) s c n .hmac x msg := hready.commandsOn (op := .hmac) (x := x) rfl (if_pos hrole) rfl hmsg
  have hb : (y.slot x.b).on = true := hready.on (by simp)
  have hk : (y.slot x.k).on = true := hready.on (by simp)
  refine hrow.evalGives rfl ?_ hfit
  show bnHmac y x msg = _
  unfold bnHmac
  rw [bits_low5, hg]
  dsimp only
  rw [hb, hk, if_neg (by decide), if_pos hrole]
  rfl

theorem bneHmac_verifies (hready : BneReady s c n [x.b, x.k]) (hrole : ((s.bne (bneOf c n)).slot x.k).role = 0x11) :
    let y := s.bne (bneOf c n)
    let len := y.word0 x.b % 256
    let tag := (Hash.hmac g (y.bytes x.k) msg).take len
    BneResult (.bneHmac c n x) s c n (if tag.length = len ∧ tag = slice (y.bytes x.b) 8 len then St.ok else St.macMismatch) := by
  intro y len tag
  have hgenerates : ((s.bne (bneOf c n)).slot x.k).role ≠ 0x10 := by
    rw [hrole]
    decide
  have hrow : Commands (.bneHmac c n x) s c n .hmac x msg := hready.commandsOn (op := .hmac) (x := x) rfl (if_neg hgenerates) rfl hmsg
  have hb : (y.slot x.b).on = true := hready.on (by simp)
  have hk : (y.slot x.k).on = true := hready.on (by simp)
  refine hrow.evalResult rfl ?_
  show bnHmac y x msg = _
  unfold bnHmac
  rw [bits_low5, hg]
  dsimp only
  rw [hb, hk, if_neg (by decide), if_neg hgenerates, if_pos hrole]
  refine congrArg (fun st => some (st, [])) (if_congr ?_ rfl rfl)
  rw [beq_iff_eq, and_comm]
  exact and_congr_right fun hlen => by rw [hlen]

end

/-- Settles O42: each row by what its operation yields under a key of its role; those that draw, by what waits and what the DRBG gives. -/
theorem bigNumberSignatures : Obligations.BigNumberSignatures := by
  unfold Obligations.BigNumberSignatures
  intro s c n x msg dg h y put key barn result opens
  have hkeyOk : ∀ {named role ok}, BneReady s c n named → x.k ∈ named → key role ok → y.keyOk x.k role ok = true := fun hready hk hkey =>
    keyOk_of (hready.on hk) hkey.1 hkey.2
  refine ⟨fun hmsg hdg => ⟨fun hready hkey => ?_, fun hready hkey hpss => ?_, fun cv hready hkey hcv hd => ?_, ?_⟩,
    fun hmsg hdg hready hon => bneRsaVerify_result hmsg hdg hready hon,
    fun cv hready hkey hcv ha hparam hd => bneEcdh_runs hready (hkeyOk hready (by simp) hkey) hcv ha hparam hd,
    fun hmsg => ⟨?_, fun hready hk hb => bneEd25519Verify_result hmsg hready hk hb, fun g hg => ⟨fun hready => bneHash_gives hmsg hg hready,
      fun hready => bneHash_resumes hmsg hg hready, fun hready => bneHmac_gives hmsg hg hready, fun hready => bneHmac_verifies hmsg hg hready⟩⟩,
    fun hmsg hdg hready hrole hpss => bneRsaSign_denied hmsg hready hrole hpss⟩
  · exact ⟨fun sig hpss => (bneRsaSign_plain hmsg hdg hready (hkeyOk hready (by simp) hkey) hpss).1 sig,
      fun hpss => (bneRsaSign_plain hmsg hdg hready (hkeyOk hready (by simp) hkey) hpss).2⟩
  · exact bneRsaSign_pss hmsg hdg hready (hkeyOk hready (by simp) hkey) hpss
  · exact bneEcdsaSign_after hmsg hdg hready (hkeyOk hready (by simp) hkey) hcv hd
  · intro cv hready hcv w hk hb
    obtain ⟨hinvalid, hvalid⟩ := bneEcdsaVerify_result hmsg hdg hready hcv hk hb
    match hpoint : wordsPoint cv (y.bytes x.k) with
    | none => exact hinvalid hpoint
    | some q => exact hvalid q hpoint
  · intro out hready hkey hfit
    exact bneEd25519Sign_gives hmsg hready (hkeyOk hready (by simp) hkey) hfit

end Sys2Proof.Machine
end

section
/-! Proofs: key generation and lattice operations of the big-number engines, and operand memory that fails its parity (O43). -/

namespace Sys2Proof.Machine

open Sys2Proof Sys2Proof.Bits

/-! ### The slots of a key (R201) -/

theorem length_getD_cutWords (ls : List Nat) (b : Bytes) (j : Nat) : ((cutWords ls b).getD j []).length = 8 * ls.getD j 0 := by
  induction ls generalizing b j with
  | nil => rfl
  | cons n ls ih =>
    cases j with
    | zero => exact length_fit _ _
    | succ j => exact ih _ _

section
variable (d : Nat) (alg : Byte) (key : Bytes)

theorem slots_keyWrites : (keyWrites d alg key).map (·.slot) = (List.range (keyLayout alg key.length).length).map (d + ·) := by
  unfold keyWrites
  rw [List.map_map]
  rfl

/-- Each slot of a key takes its part. -/
theorem writeTo_keyWrites {j : Nat} (hj : j < (keyLayout alg key.length).length) :
    writeTo (keyWrites d alg key) (d + j) = (keyParts alg key).getD j [] := by
  have hfind : (List.range (keyLayout alg key.length).length).find? (fun i => d + i == d + j) = some j :=
    List.find?_range_eq_some.mpr ⟨beq_self_eq_true _, List.mem_range.mpr hj, fun i hi => by simp; omega⟩
  unfold writeTo keyWrites
  dsimp only
  rw [List.find?_map]
  unfold Function.comp
  dsimp only
  rw [hfind]
  rfl

end

/-- Slots from d on are configured and have room for the words listed. -/
def KeyRoom (y : Bne) (d : Nat) (ls : List Nat) : Prop := ∀ j, j < ls.length → (y.slot (d + j)).on = true ∧ ls.getD j 0 ≤ (y.slot (d + j)).len

theorem fits_keyWrites {y : Bne} {d : Nat} {alg : Byte} {key : Bytes} (h : KeyRoom y d ((keyLayout alg key.length).map (·.1))) :
    BneFits y (keyWrites d alg key) := by
  intro w hw
  obtain ⟨j, hj, rfl⟩ := List.mem_map.mp hw
  obtain ⟨hon, hlen⟩ := h j (by simpa using List.mem_range.mp hj)
  refine ⟨hon, ?_⟩
  dsimp only [partAt, keyParts]
  rw [length_getD_cutWords]
  exact Nat.mul_le_mul_left 8 hlen

/-- The slots of a key whose algorithm tells their lengths. -/
theorem keyLayout_fixed {alg : Byte} (h : alg ∈ [Alg.p256, Alg.p384, Alg.p521, Alg.ed25519, Alg.mlkem768, Alg.mlkem1024, Alg.mldsa65, Alg.mldsa87])
    (n : Nat) : keyLayout alg n = keyLayout alg 0 := by
  simp only [List.mem_cons, List.not_mem_nil, or_false] at h
  rcases h with rfl | rfl | rfl | rfl | rfl | rfl | rfl | rfl <;> rfl

/-! ### Generated keys (R205) -/

section
variable {s : State} {b m e : Nat}

/-- A stored RSA key: the modulus, the exponent, then five parts of half the modulus. -/
theorem length_rsaKey : (generateKey s b Alg.rsa m e).1.length = 8 * (m / 64) + 8 + 40 * ((m / 8 + 15) / 16) := by
  have hcurve : curveOf Alg.rsa = none := by decide
  unfold generateKey
  rw [hcurve]
  dsimp only
  rw [if_neg (by decide), if_neg (by decide), if_neg (by decide)]
  simp only [List.length_append, length_wordForm]
  omega

theorem keyLayout_rsa (h64 : m % 64 = 0) : keyLayout Alg.rsa (generateKey s b Alg.rsa m e).1.length =
    let h := (m / 8 + 15) / 16
    [(m / 64, .p), (1, .p), (h, .k), (h, .k), (h, .k), (h, .k), (h, .k)] := by
  have hlen : rsaModLen (generateKey s b Alg.rsa m e).1.length = m / 8 := by
    rw [length_rsaKey, rsaModLen]
    split <;> omega
  have hwords : m / 8 / 8 = m / 64 := Nat.div_div_eq_div_mul _ _ _
  have hlayout : ∀ n, keyLayout Alg.rsa n = [(rsaModLen n / 8, .p), (1, .p), ((rsaModLen n + 15) / 16, .k), ((rsaModLen n + 15) / 16, .k),
    ((rsaModLen n + 15) / 16, .k), ((rsaModLen n + 15) / 16, .k), ((rsaModLen n + 15) / 16, .k)] := fun _ => rfl
  rw [hlayout, hlen, hwords]

/-- An ML-KEM key is of 64 drawn bytes. -/
theorem generateKey_mlkem {alg : Byte} (halg : alg ∈ [Alg.mlkem768, Alg.mlkem1024]) : generateKey s b alg m e =
    ((MlKem.keygen (MlKem.par (alg == Alg.mlkem1024)) ((drbgGen s b 64).1.take 32) ((drbgGen s b 64).1.drop 32)).2,
     (MlKem.keygen (MlKem.par (alg == Alg.mlkem1024)) ((drbgGen s b 64).1.take 32) ((drbgGen s b 64).1.drop 32)).1, (drbgGen s b 64).2) := by
  obtain ⟨hcurve, hed, hkem⟩ : curveOf alg = none ∧ alg ≠ Alg.ed25519 ∧ Alg.isMlkem alg = true := by
    simp only [List.mem_cons, List.not_mem_nil, or_false] at halg
    rcases halg with rfl | rfl <;> decide
  unfold generateKey
  rw [hcurve]
  dsimp only
  rw [if_neg hed, if_pos hkem]

end

/-! ### Key generation in an engine (R205, R208) -/

section
variable {s : State} {c : Fin 2048} {n : Fin 6} {x : BneArgs}

theorem bneEcKeygen_after {alg : Byte} (halg : (x.param.toNat % 4, alg) ∈ [(0, Alg.p256), (1, Alg.p384), (2, Alg.p521), (3, Alg.ed25519)])
    (hready : BneReady s c n [x.d]) (hroom : KeyRoom (s.bne (bneOf c n)) x.d ((keyLayout alg 0).map (·.1))) :
    let g (u : State) := generateKey u (barnOfCtx c) alg 0 0
    BneAfter (.bneEcKeygen c n x) s c n (0x27, x, []) ((keyWrites x.d alg (g s).1).map (·.slot)) (fun u => (g u).2.2)
      (fun u => keyWrites x.d alg (g u).1) (fun _ => false) := by
  intro g
  have hrow : Commands (.bneEcKeygen c n x) s c n .ecKeygen x [] := hready.commands rfl rfl rfl
  have hbits : bits x.param.toNat 1 0 = x.param.toNat % 4 := by simp [bits]
  obtain ⟨hcode, hfixed⟩ : BitVec.ofNat 8 (0x10 + bits x.param.toNat 1 0) = alg ∧ ∀ n, keyLayout alg n = keyLayout alg 0 := by
    simp only [List.mem_cons, Prod.mk.injEq, List.not_mem_nil, or_false] at halg
    rw [hbits]
    rcases halg with ⟨hparam, rfl⟩ | ⟨hparam, rfl⟩ | ⟨hparam, rfl⟩ | ⟨hparam, rfl⟩ <;>
      exact ⟨by rw [hparam]; rfl, keyLayout_fixed (by decide)⟩
  refine hrow.after rfl (fun u hu => ?_) (fun u _ => fits_keyWrites (by rwa [hfixed])) (fun u _ => ?_) ⟨by decide, by decide⟩ nofun (fun _ _ => rfl)
  · rw [bnResult_draw rfl, hu.bne, barnOfBne_bneOf]
    unfold bnDraw
    dsimp only
    rw [hcode]
  · rw [slots_keyWrites, slots_keyWrites, hfixed, hfixed (g s).1.length]

/-- The test of a new RSA key: a random value below the modulus, through the private operation, then the public one. -/
def rsaKeyBad (key : Bytes) (test : Nat) : Bool :=
  let v (j : Nat) : Nat := ofLe ((keyParts Alg.rsa key).getD j [])
  let m := test % v 0
  !(Num.powMod (Rsa.crt m (v 2) (v 3) (v 4) (v 5) (v 6)) (v 1) (v 0) == m)

theorem bnConfirms_rsaKeygen (y : Bne) (key : Bytes) (test : Nat) :
    bnConfirms y .rsaKeygen x [] (keyWrites x.d Alg.rsa key) test = !rsaKeyBad key test := by
  have hpart : ∀ j, j < 7 → writeTo (keyWrites x.d Alg.rsa key) (x.d + j) = (keyParts Alg.rsa key).getD j [] := fun j hj =>
    writeTo_keyWrites _ _ _ hj
  unfold bnConfirms rsaKeyBad
  dsimp only
  rw [hpart 0 (by decide), hpart 1 (by decide), hpart 2 (by decide), hpart 3 (by decide), hpart 4 (by decide), hpart 5 (by decide),
    hpart 6 (by decide), Bool.not_not]

theorem bneRsaKeygen_after (hready : BneReady s c n [x.a, x.b, x.d]) :
    let y := s.bne (bneOf c n)
    let bits := y.word0 x.a
    let e := y.word0 x.b
    2048 ≤ bits → bits ≤ 16384 → bits % 64 = 0 → e % 2 = 1 → 65537 ≤ e →
    let h := (bits / 8 + 15) / 16
    KeyRoom y x.d [bits / 64, 1, h, h, h, h, h] →
    let g (u : State) := generateKey u (barnOfCtx c) Alg.rsa bits e
    let test (u : State) := (g u).2.2.draw 64
    BneAfter (.bneRsaKeygen c n x) s c n (0x28, x, []) ((keyWrites x.d Alg.rsa (g s).1).map (·.slot)) (fun u => (test u).2)
      (fun u => keyWrites x.d Alg.rsa (g u).1) (fun u => rsaKeyBad (g u).1 (test u).1.toNat) := by
  intro y bits e hmin hmax h64 hodd hexp h hroom g test
  have hrow : Commands (.bneRsaKeygen c n x) s c n .rsaKeygen x [] := hready.commands rfl rfl rfl
  have ha : (y.slot x.a).on = true := hready.on (by simp)
  have hb : (y.slot x.b).on = true := hready.on (by simp)
  have hlayout : ∀ u, keyLayout Alg.rsa (g u).1.length = [(bits / 64, .p), (1, .p), (h, .k), (h, .k), (h, .k), (h, .k), (h, .k)] := fun u =>
    keyLayout_rsa h64
  have hgood : ¬ ((!(y.slot x.a).on) = true ∨ (!(y.slot x.b).on) = true ∨ bits < 2048 ∨ 16384 < bits ∨ bits % 64 ≠ 0 ∨ e % 2 = 0 ∨ e < 65537) := by
    rw [ha, hb]
    simp only [Bool.not_true, Bool.false_eq_true, false_or]
    omega
  refine hrow.afterTest rfl (fun u hu => ?_) (fun u _ => fits_keyWrites (by rw [hlayout]; exact hroom)) (fun u _ => ?_) (.inl rfl) (fun u _ => ?_)
  · rw [bnResult_draw rfl, hu.bne, barnOfBne_bneOf]
    exact if_neg hgood
  · rw [slots_keyWrites, slots_keyWrites, hlayout, hlayout]
  · rw [bnConfirms_rsaKeygen, Bool.not_not]

theorem bneMlkemKeygen_after (hready : BneReady s c n [x.d]) :
    let alg := if x.param.getLsbD 0 then Alg.mlkem1024 else Alg.mlkem768
    let g (u : State) := generateKey u (barnOfCtx c) alg 0 0
    let ws (u : State) : List BnWrite := keyWrites x.d alg (g u).1 ++ [{ slot := x.d.val + 1, bytes := (g u).2.1, label := .p }]
    BneFits (s.bne (bneOf c n)) (ws s) →
    BneAfter (.bneMlkemKeygen c n x) s c n (0x30, x, []) ((ws s).map (·.slot)) (fun u => (g u).2.2) ws (fun _ => false) := by
  intro alg g ws hfit
  have hrow : Commands (.bneMlkemKeygen c n x) s c n .kemKeygen x [] := hready.commands rfl rfl rfl
  have halg : alg ∈ [Alg.mlkem768, Alg.mlkem1024] := by
    dsimp only [alg]
    split <;> simp
  have hsame : ∀ u, AtPort s c u → ws u = ws s := fun u hu => by
    dsimp only [ws, g]
    rw [generateKey_mlkem halg, generateKey_mlkem halg, hu.drbgGen]
  refine hrow.after rfl (fun u hu => ?_) (fun u hu => by rwa [hsame u hu]) (fun u hu => by rw [hsame u hu]) ⟨by decide, by decide⟩ nofun
    (fun _ _ => rfl)
  rw [bnResult_draw rfl, hu.bne, barnOfBne_bneOf]
  rfl

/-- The test of a new ML-DSA key: a signature of a random value, verified. -/
def mldsaKeyBad (big : Bool) (alg : Byte) (key : Bytes) (test : Nat) : Bool :=
  let mu := fit 64 (le 64 test)
  !MlDsa.verify (MlDsa.par big) ((keyParts alg key).getD 1 []) (MlDsa.sign (MlDsa.par big) ((keyParts alg key).getD 0 []) mu (zeros 32)) mu

theorem bneMldsaKeygen_after (hready : BneReady s c n [x.d]) :
    let big := x.param.getLsbD 0
    let alg := if big then Alg.mldsa87 else Alg.mldsa65
    let g (u : State) := generateKey u (barnOfCtx c) alg 0 0
    let test (u : State) := (g u).2.2.draw 64
    KeyRoom (s.bne (bneOf c n)) x.d ((keyLayout alg 0).map (·.1)) →
    BneAfter (.bneMldsaKeygen c n x) s c n (0x33, x, []) ((keyWrites x.d alg (g s).1).map (·.slot)) (fun u => (test u).2)
      (fun u => keyWrites x.d alg (g u).1) (fun u => mldsaKeyBad big alg (g u).1 (test u).1.toNat) := by
  intro big alg g test hroom
  have hrow : Commands (.bneMldsaKeygen c n x) s c n .dsaKeygen x [] := hready.commands rfl rfl rfl
  obtain ⟨hfixed, htwo⟩ : (∀ n, keyLayout alg n = keyLayout alg 0) ∧ (keyLayout alg 0).length = 2 := by
    dsimp only [alg]
    split <;> exact ⟨keyLayout_fixed (by decide), rfl⟩
  refine hrow.afterTest rfl (fun u hu => ?_) (fun u _ => fits_keyWrites (by rwa [hfixed])) (fun u _ => ?_) (.inr rfl) (fun u _ => ?_)
  · rw [bnResult_draw rfl, hu.bne, barnOfBne_bneOf]
    rfl
  · rw [slots_keyWrites, slots_keyWrites, hfixed, hfixed (g s).1.length]
  · have hpart : ∀ j, j < 2 → writeTo (keyWrites x.d alg (g u).1) (x.d + j) = (keyParts alg (g u).1).getD j [] := fun j hj =>
      writeTo_keyWrites _ _ _ (by rwa [hfixed, htwo])
    have hfirst : writeTo (keyWrites x.d alg (g u).1) x.d = (keyParts alg (g u).1).getD 0 [] := hpart 0 (by decide)
    unfold bnConfirms mldsaKeyBad
    dsimp only
    rw [hpart 1 (by decide), hfirst]

/-! ### Encapsulation (R206) -/

theorem bneMlkemEncaps_runs (hready : BneReady s c n [x.a, x.d]) :
    let y := s.bne (bneOf c n)
    let big := x.param.getLsbD 0
    let par := MlKem.par big
    let ek := (y.bytes x.a).take (if big then 1568 else 1184)
    (MlKem.ekOk par ek = true →
      let g (u : State) := MlKem.encaps par ek (drbgGen u (barnOfCtx c) 32).1
      let ws (u : State) : List BnWrite :=
        [{ slot := x.d, bytes := (g u).2, label := .c },
         { slot := x.d.val + 1, bytes := (g u).1, label := .k, storable := true, alg := sharedAlg 4 }]
      BneFits y (ws s) → BneAfter (.bneMlkemEncaps c n x) s c n (0x31, x, []) ((ws s).map (·.slot)) (fun u => (drbgGen u (barnOfCtx c) 32).2) ws
        (fun _ => false)) ∧
    (MlKem.ekOk par ek = false → (y.slot (x.d.val + 1)).on = true → (if big then 196 else 136) ≤ (y.slot x.d).len →
      4 ≤ (y.slot (x.d.val + 1)).len → BneEnds (.bneMlkemEncaps c n x) s c n St.operandRange [x.d.val, x.d.val + 1]) := by
  intro y big par ek
  have hrow : Commands (.bneMlkemEncaps c n x) s c n .encaps x [] := hready.commands rfl rfl rfl
  refine ⟨fun hok => ?_, fun hbad hon hd hk => ?_⟩
  · intro g ws hfit
    have hsame : ∀ u, AtPort s c u → ws u = ws s := fun u hu => by
      dsimp only [ws, g]
      rw [hu.drbgGen]
    refine hrow.after rfl (fun u hu => ?_) (fun u hu => by rwa [hsame u hu]) (fun u hu => by rw [hsame u hu]) ⟨by decide, by decide⟩ nofun
      (fun _ _ => rfl)
    rw [bnResult_draw rfl, hu.bne, barnOfBne_bneOf]
    exact if_neg (by rw [show MlKem.ekOk _ _ = true from hok]; exact Bool.false_ne_true)
  · refine hrow.ends (ws := [{ slot := x.d, bytes := zeros (if big then 1568 else 1088), label := .c },
      { slot := x.d.val + 1, bytes := zeros 32, label := .k, storable := true, alg := sharedAlg 4 }]) (fun u hu => ?_) ?_ (by decide)
    · rw [bnResult_draw rfl, hu.bne]
      exact if_pos (by rw [show MlKem.ekOk _ _ = false from hbad]; rfl)
    · have hct : (zeros (if big then 1568 else 1088)).length ≤ 8 * (y.slot x.d).len := by
        rw [zeros, List.length_replicate]
        split
        · next hbig =>
          rw [if_pos hbig] at hd
          omega
        · next hsmall =>
          rw [if_neg hsmall] at hd
          omega
      have hkey : (zeros 32).length ≤ 8 * (y.slot (x.d.val + 1)).len := by
        rw [zeros, List.length_replicate]
        omega
      simp only [BneFits, List.forall_mem_cons, List.not_mem_nil, false_imp_iff, implies_true, and_true]
      exact ⟨⟨hready.on (by simp), hct⟩, hon, hkey⟩

theorem bneMlkemDecaps_gives (hready : BneReady s c n [x.a, x.k, x.d]) (hkey : (s.bne (bneOf c n)).keyOk x.k 0x0F Alg.isMlkem = true) :
    let y := s.bne (bneOf c n)
    let kbig := (y.slot x.k).alg == Alg.mlkem1024
    (if kbig then 1568 else 1088) ≤ 8 * (y.slot x.a).len →
    let w : BnWrite := {
      slot := x.d
      bytes := MlKem.decaps (MlKem.par kbig) (y.bytes x.k) ((y.bytes x.a).take (if kbig then 1568 else 1088))
      label := .k
      storable := true
      alg := sharedAlg 4 }
    BneFits y [w] → BneGives (.bneMlkemDecaps c n x) s c n [w] := by
  intro y kbig hlen w hfit
  have hrow : Commands (.bneMlkemDecaps c n x) s c n .decaps x [] := hready.commands rfl rfl rfl
  refine hrow.evalGives rfl ?_ hfit
  show bnDecaps y x = _
  unfold bnDecaps
  rw [if_neg (by rw [hkey]; exact Bool.false_ne_true)]
  exact if_neg (Nat.not_lt.mpr hlen)

/-! ### ML-DSA (R206, R208) -/

section
variable {msg : Bytes} (hmsg : BneMessage s c n x.a msg)
include hmsg

theorem bneMldsaSign_after (hready : BneReady s c n (if x.param.getLsbD 5 then [x.k, x.d] else [x.b, x.k, x.d]))
    (hkey : (s.bne (bneOf c n)).keyOk x.k 0x0E Alg.isMldsa = true) :
    let y := s.bne (bneOf c n)
    let p87 := (y.slot x.k).alg == Alg.mldsa87
    let pk := (y.bytes (x.k.val + 1)).take (if p87 then 2592 else 1952)
    let mu := if x.param.getLsbD 5 then fit 64 msg else MlDsa.mu (MlDsa.trOf pk) (y.bytes x.b) msg
    let sig (u : State) : Bytes := MlDsa.sign (MlDsa.par p87) (y.bytes x.k) mu (drbgGen u (barnOfCtx c) 32).1
    let ws (u : State) : List BnWrite := [{ slot := x.d, bytes := sig u, label := .c }]
    BneFits y (ws s) → BneAfter (.bneMldsaSign c n x) s c n (0x34, x, msg) ((ws s).map (·.slot)) (fun u => (drbgGen u (barnOfCtx c) 32).2) ws
      (fun u => !MlDsa.verify (MlDsa.par p87) pk (sig u) mu) := by
  intro y p87 pk mu sig ws hfit
  have hrow : Commands (.bneMldsaSign c n x) s c n .dsaSign x msg := hready.commandsOn rfl rfl rfl hmsg
  have hsame : ∀ u, AtPort s c u → ws u = ws s := fun u hu => by
    dsimp only [ws, sig]
    rw [hu.drbgGen]
  refine hrow.after rfl (fun u hu => ?_) (fun u hu => by rwa [hsame u hu]) (fun u hu => by rw [hsame u hu]) ⟨by decide, by decide⟩ nofun
    (fun u _ => ?_)
  · rw [bnResult_draw rfl, hu.bne, barnOfBne_bneOf]
    exact if_neg (by rw [hkey]; exact Bool.false_ne_true)
  · have hwrite : writeTo (ws u) x.d = sig u := writeTo_one { slot := x.d.val, bytes := sig u, label := .c }
    unfold bnConfirms
    dsimp only
    rw [hwrite]

theorem bneMldsaVerify_result (hready : BneReady s c n [x.b, x.k, x.d]) :
    let y := s.bne (bneOf c n)
    let big := x.param.getLsbD 0
    let pk := (y.bytes x.k).take (if big then 2592 else 1952)
    let mu := if x.param.getLsbD 5 then fit 64 msg else MlDsa.mu (MlDsa.trOf pk) (y.bytes x.b) msg
    BneResult (.bneMldsaVerify c n x) s c n
      (if MlDsa.verify (MlDsa.par big) pk (slice (y.bytes x.d) 0 (if big then 4627 else 3309)) mu then St.ok else St.signatureInvalid) := by
  intro y big pk mu
  have hrow : Commands (.bneMldsaVerify c n x) s c n .dsaVerify x msg := hready.commandsOn rfl rfl rfl hmsg
  exact hrow.evalResult rfl rfl

end

end

/-! ### Operand memory that parity finds uncorrectable (R209, R270) -/

theorem readUnit_congr {s t : State} (h : t.dev = s.dev) (k : ArrayCell) :
    (readUnit t k).1 = (readUnit s k).1 ∧ (readUnit t k).2.dev = (readUnit s k).2.dev := by
  have hcount : ∀ u v : State, TallyOnly u v → v.dev = u.dev := fun u v huv => by rw [huv]
  unfold readUnit
  rw [h, flipOf_congr h]
  split
  · exact ⟨rfl, h⟩
  · split
    · exact ⟨rfl, h⟩
    · refine ⟨rfl, ?_⟩
      dsimp only
      rw [hcount _ _ (evtCount_only _ _ _ _ _), hcount _ _ (evtCount_only _ _ _ _ _), setFlip, setFlip]
      dsimp only
      rw [h]
    · refine ⟨rfl, ?_⟩
      dsimp only
      rw [hcount _ _ ((evtCount_only _ _ _ _ _).trans (latchErr_only _ _ _ _)), hcount _ _ ((evtCount_only _ _ _ _ _).trans (latchErr_only _ _ _ _)), h]

theorem readUnits_congr {s t : State} (h : t.dev = s.dev) (l : List ArrayCell) : (readUnits t l).1 = (readUnits s l).1 := by
  have hfold : ∀ (l : List ArrayCell) (bad : Bool) (s t : State), t.dev = s.dev →
      (l.foldl (fun a c => let r := readUnit a.2 c; (a.1 || r.1 == .bad, r.2)) (bad, t)).1 =
        (l.foldl (fun a c => let r := readUnit a.2 c; (a.1 || r.1 == .bad, r.2)) (bad, s)).1 := fun l => by
    induction l with
    | nil => exact fun _ _ _ _ => rfl
    | cons k l ih =>
      intro bad s t h
      obtain ⟨hverdict, hdev⟩ := readUnit_congr h k
      rw [List.foldl_cons, List.foldl_cons]
      dsimp only
      rw [hverdict]
      exact ih _ _ _ hdev
  unfold readUnits
  rw [h]
  split
  · rfl
  · exact hfold l false s t h

section
variable {s : State} {c : Fin 2048} {n : Fin 6} {x : BneArgs}

/-- A command whose operand memory fails its parity ends its request, and is a fault of the engine. -/
theorem command_unreadable {i : Instr} {op : BnOp} (howns : OwnsBne s c n)
    (hon : ∀ j ∈ [x.a, x.b, x.k, x.d], ((s.bne (bneOf c n)).slot j).on = true)
    (hslot : x.a ≠ 15) (hbad : (readUnits s (bneFlips s (bneOf c n))).1 = true) (hreq : Underway (s.request c))
    (hrow : exec i s = bneRow c n op x s) (hmsg : bnMessageArg op x = none ∨ bnMessageArg op x = some x.a)
    (hnamed : ∀ j ∈ bnNamed (s.bne (bneOf c n)) op x, j ∈ [x.a, x.b, x.k, x.d]) :
    Runs i s (fun t => StagedWith St.faultAlarm (t.entry (s.core c).entry) ∧
      (t.bne (bneOf c n)).faults = noteTime (s.bne (bneOf c n)).faults s.tmr.now 3) := by
  obtain ⟨u, hu, hexec⟩ := exists_atPort howns.issues (hrow.trans rfl) rfl (k := fun u => bnCommand u c n op x)
    (F := fun u => bneFaulted (readUnits u (bneFlips u (bneOf c n))).2 (bneOf c n) false) fun u hu => by
      refine (howns.window hu _).trans ?_
      dsimp only
      have hread : (readUnits u (bneFlips u (bneOf c n))).1 = true := by rw [readUnits_congr hu.dev, bneFlips_congr hu.dev, hbad]
      have hslots : ∀ j ∈ bnNamed (s.bne (bneOf c n)) op x, ((s.bne (bneOf c n)).slot j).on = true := fun j hj => hon j (hnamed j hj)
      rw [hu.bne]
      rcases hmsg with hmsg | hmsg
      · rw [hmsg]
        exact (if_neg (by simpa using hslots)).trans (if_pos hread)
      · rw [hmsg]
        exact (if_neg (by simpa [hslot, hon x.a (by simp)] using hslots)).trans (if_pos hread)
  have hkeeps : KeepsJobs u (readUnits u (bneFlips u (bneOf c n))).2 := KeepsJobs.refl.after_readUnits
  generalize (readUnits u (bneFlips u (bneOf c n))).2 = v at hkeeps hexec
  have hbne : v.bne (bneOf c n) = s.bne (bneOf c n) := (hkeeps.bne _).trans (hu.bne _)
  have hcore : (v.core c).entry = (s.core c).entry := by rw [hkeeps.core, hu.core_entry]
  refine runs_of_exec hexec ⟨?_, ?_⟩
  · rw [State.drive_entry', ← hcore]
    exact bneFaulted_stages v _ false (by rw [hbne, howns.owner]) (by rw [hkeeps.request]; exact hu.underway hreq)
  · obtain ⟨o, r, w, cl, hfaulted⟩ := bneFaulted_bne v (bneOf c n) false
    rw [State.drive_bne', hfaulted, faulted_faults, hbne, hkeeps.tmr, hu.tmr]

end

/-- Settles O43: each row that draws by what it waits for and what its draws give, key slots by the layout of R201. -/
theorem bigNumberKeysAndLattices : Obligations.BigNumberKeysAndLattices := by
  unfold Obligations.BigNumberKeysAndLattices
  intro s c n x msg y barn big after room sure part keyAt
  refine ⟨⟨fun alg halg hready hroom => bneEcKeygen_after halg hready hroom, fun hready => bneRsaKeygen_after hready,
    fun hready => ⟨bneMlkemKeygen_after hready, bneMldsaKeygen_after hready⟩, fun hready => bneMlkemEncaps_runs hready, ?_⟩, ?_, ?_, ?_⟩
  · intro p87 mu hmsg hready hrole halg
    exact bneMldsaSign_after hmsg hready (keyOk_of (hready.on (by split <;> simp)) hrole halg)
  · intro howns hon hslot hbad hstate haccepted
    have hruns : ∀ {i op}, exec i s = bneRow c n op x s → (bnMessageArg op x = none ∨ bnMessageArg op x = some x.a) →
        (∀ j ∈ bnNamed y op x, j ∈ [x.a, x.b, x.k, x.d]) → Runs i s (fun t =>
          (t.entry (s.core c).entry).state = .staged ∧ (t.entry (s.core c).entry).status = St.faultAlarm ∧
          (t.bne (bneOf c n)).faults = noteTime y.faults s.tmr.now 3) := fun hrow hmsg hnamed => by
      obtain ⟨t, ht, ⟨hstaged, hstatus⟩, hfaults⟩ := command_unreadable howns hon hslot hbad ⟨hstate, haccepted⟩ hrow hmsg hnamed
      exact ⟨t, ht, hstaged, hstatus, hfaults⟩
    simp only [List.forall_mem_cons, List.not_mem_nil, false_imp_iff, implies_true, and_true]
    refine ⟨hruns (op := .mmul) rfl (.inl rfl) (by simp [bnNamed]), hruns (op := .ecKeygen) rfl (.inl rfl) (by simp [bnNamed]),
      hruns (op := .dsaSign) rfl (.inr rfl) ?_⟩
    have hnamed : bnNamed y .dsaSign x = if x.param.getLsbD 5 then [x.k, x.d] else [x.b, x.k, x.d] := rfl
    rw [hnamed]
    split <;> simp
  · intro kbig hready hrole halg hlen
    exact bneMlkemDecaps_gives hready (keyOk_of (hready.on (by simp)) hrole halg) hlen
  · intro hmsg hready pk mu ok
    have hresult : BneResult (.bneMldsaVerify c n x) s c n (if ok then St.ok else St.signatureInvalid) := bneMldsaVerify_result hmsg hready
    refine ⟨fun hok => ?_, fun hbad => ?_⟩
    · rw [if_pos hok] at hresult
      exact hresult.1 rfl
    · rw [hbad, if_neg Bool.false_ne_true] at hresult
      exact hresult.2 (by decide)

end Sys2Proof.Machine
end

section
/-! Proofs: transfers, keys, secret registers and stores of the big-number engines (R196, R199 to R202, R347). -/

namespace Sys2Proof.Machine

open Sys2Proof Sys2Proof.Bits

/-! ### Transfers (R199) -/

/-- Bytes that BN_XFER moves. -/
def xferCount (v : Word) : Nat := v.toNat / 4 % 2 ^ 16

/-- Bytes of the slot that BN_XFER covers: with [1], whole words. -/
def xferSpan (v : Word) : Nat := if v.getLsbD 1 then 8 * ((xferCount v + 7) / 8) else xferCount v

/-- What BN_XFER writes to the slot of input bytes. -/
def xferIn (v : Word) (got : Bytes) : Bytes := if v.getLsbD 1 then fit (xferSpan v) got.reverse else got

/-- What BN_XFER writes to the output. -/
def xferOut (y : Bne) (v : Word) : Bytes :=
  let raw := slice (y.bytes y.ptrSlot) (4 * y.ptrPos) (xferSpan v)
  if v.getLsbD 1 then (raw.take (xferCount v)).reverse else raw

theorem bits_xferCount (v : Word) : bits v.toNat 17 2 = xferCount v := rfl

theorem xferCount_le_span (v : Word) : xferCount v ≤ xferSpan v := by
  unfold xferSpan
  split <;> omega

theorem length_xferIn {v : Word} {got : Bytes} (h : got.length = xferCount v) : (xferIn v got).length = xferSpan v := by
  unfold xferIn
  split
  · exact length_fit _ _
  · rw [h, xferSpan, if_neg ‹_›]

theorem length_xferOut (y : Bne) (v : Word) : (xferOut y v).length = xferCount v := by
  have hle := xferCount_le_span v
  unfold xferOut
  dsimp only
  split
  · rw [List.length_reverse, List.length_take, length_slice]
    omega
  · rw [length_slice, xferSpan, if_neg ‹_›]

section
variable {s : State} {c : Fin 2048} {n : Fin 6} {v : Word} {dma : Dma} {y : Bne} (howns : OwnsBne s c n) (hy : s.bne (bneOf c n) = y)
  (hon : (y.slot y.ptrSlot).on = true) (hcount : 0 < xferCount v) (hroom : 4 * y.ptrPos + xferSpan v ≤ 8 * (y.slot y.ptrSlot).len)
include howns hy hon hcount hroom

/-- A transfer within its slot. -/
theorem bnTransfer_moves {u : State} (hu : AtPort s c u) : bnTransfer u c n v dma =
    if v.getLsbD 0 = true then
      if (y.slot y.ptrSlot).label ≠ .p ∧ (y.slot y.ptrSlot).label ≠ .c then portError u c
      else portOutput u c (u.core c).outOfs (xferOut y v) (fun s => goNext ((s.setBne (bneOf c n) { y with
        ptrPos := y.ptrPos + (xferCount v + 3) / 4 }).modCore c (fun x => { x with outOfs := ((u.core c).outOfs + xferCount v) % 2 ^ 32 })) c)
    else withInputRead u c dma (fun s input => goNext ((s.setBne (bneOf c n) ((({ y with
      ptrPos := y.ptrPos + (xferCount v + 3) / 4 } : Bne).putBytes y.ptrSlot (4 * y.ptrPos)
        (xferIn v (slice input (s.core c).inOfs (xferCount v)))).mark y.ptrSlot
          (fun x => x.written (4 * y.ptrPos == 0 && xferSpan v == 8 * x.len)))).modCore c
            (fun x => { x with inOfs := ((s.core c).inOfs + xferCount v) % 2 ^ 32 })) c) := by
  refine (howns.window hu _).trans ?_
  dsimp only
  rw [hu.bne, hy, bits_xferCount]
  refine if_neg ?_
  rw [hon]
  rintro (h | h | h)
  · exact absurd h Bool.false_ne_true
  · omega
  · exact Nat.not_lt.mpr hroom h

/-- A transfer from the input. -/
theorem bnXfer_in (hin : v.getLsbD 0 = false) {b : Bytes} (hinput : (s.request c).input = some b) :
    let got := slice b (s.core c).inOfs (xferCount v)
    Runs (.bnXfer c n v dma) s (fun t =>
      let z := t.bne (bneOf c n)
      let i := y.ptrSlot
      z.bytes i = (y.bytes i).take (4 * y.ptrPos) ++ xferIn v got ++ (y.bytes i).drop (4 * y.ptrPos + xferSpan v) ∧
      z.ptrPos = y.ptrPos + (xferCount v + 3) / 4 ∧ (t.core c).inOfs = ((s.core c).inOfs + xferCount v) % 2 ^ 32 ∧
      (z.slot i).storable = false ∧
      (z.slot i).label = (if (y.slot i).label = .p ∨ (4 * y.ptrPos = 0 ∧ xferSpan v = 8 * (y.slot i).len) then .p else .k)) := by
  intro got
  let y' : Bne := { y with ptrPos := y.ptrPos + (xferCount v + 3) / 4 }
  let z := (y'.putBytes y.ptrSlot (4 * y.ptrPos) (xferIn v got)).mark y.ptrSlot (fun x => x.written (4 * y.ptrPos == 0 && xferSpan v == 8 * x.len))
  obtain ⟨u, hu, hexec⟩ := exists_atPort howns.issues (i := .bnXfer c n v dma) (k := fun u => bnTransfer u c n v dma)
    (F := fun u => Onward (u.setBne (bneOf c n) z) c (fun x => { x with inOfs := ((s.core c).inOfs + xferCount v) % 2 ^ 32 })) rfl rfl
    fun u hu => by
      rw [bnTransfer_moves howns hy hon hcount hroom hu, hin, if_neg Bool.false_ne_true, withInputRead_read (hu.request ▸ hinput),
        goNext_modCore (hu.running howns.issues), hu.inOfs]
  have hlen : (xferIn v got).length = xferSpan v := length_xferIn (length_slice _ _ _)
  have hput := bytes_putBytes y' y.ptrSlot (o := 4 * y.ptrPos) (bs := xferIn v got) (by rw [hlen]; exact hroom)
  have hbytes : z.bytes y.ptrSlot = (y'.putBytes y.ptrSlot (4 * y.ptrPos) (xferIn v got)).bytes y.ptrSlot := bytes_mark _ _ _ rfl rfl
  have hslot : z.slot y.ptrSlot = (y.slot y.ptrSlot).written (4 * y.ptrPos == 0 && xferSpan v == 8 * (y.slot y.ptrSlot).len) := slot_mark _ _ _
  rw [hlen] at hput
  refine runs_of_exec hexec ?_
  rw [State.drive_bne', State.drive_core', Onward_bne, Onward_core, State.setBne_self]
  refine ⟨hbytes.trans hput, rfl, rfl, by rw [hslot]; rfl, ?_⟩
  rw [hslot]
  exact if_congr (by simp) rfl rfl

section
variable (hout : v.getLsbD 0 = true)
include hout

theorem bnXfer_portError (hp : (y.slot y.ptrSlot).label ≠ .p) (hc : (y.slot y.ptrSlot).label ≠ .c) :
    ∃ u, AtPort s c u ∧ exec (.bnXfer c n v dma) s = done (portError u c) :=
  exists_atPort howns.issues (k := fun u => bnTransfer u c n v dma) rfl rfl fun u hu => by
    rw [bnTransfer_moves howns hy hon hcount hroom hu, if_pos hout, if_pos ⟨hp, hc⟩]

variable (hlabel : (y.slot y.ptrSlot).label = .p ∨ (y.slot y.ptrSlot).label = .c)
include hlabel

/-- A transfer to the output, which a gate may deny. -/
theorem exec_bnXfer_out : ∃ u, AtPort s c u ∧
    (stageDenied s (s.request c) (s.core c).outOfs (xferOut y v) = none → exec (.bnXfer c n v dma) s =
      done (Onward ((stageOutput u (s.core c).entry (s.core c).outOfs (xferOut y v)).setBne (bneOf c n) { y with
        ptrPos := y.ptrPos + (xferCount v + 3) / 4 }) c (fun z => { z with outOfs := ((s.core c).outOfs + xferCount v) % 2 ^ 32 }))) ∧
    ∀ a, stageDenied s (s.request c) (s.core c).outOfs (xferOut y v) = some a →
      exec (.bnXfer c n v dma) s = done (faultCtx (recordDenial u .tu a true) c) := by
  obtain ⟨u, hu, hexec⟩ := exists_atPort howns.issues (i := .bnXfer c n v dma) (k := fun u => bnTransfer u c n v dma) rfl rfl
    fun u hu => bnTransfer_moves howns hy hon hcount hroom hu
  rw [if_pos hout, if_neg (by rcases hlabel with h | h <;> simp [h]), portOutput, hu.request, hu.outOfs, hu.stageDenied, hu.core_entry] at hexec
  refine ⟨u, hu, fun hallowed => ?_, fun a hdenied => ?_⟩
  · have hcore := stageOutput_core u (s.core c).entry (s.core c).outOfs (xferOut y v) c
    rw [hallowed] at hexec
    dsimp only at hexec
    rw [goNext_modCore (by rw [State.setBne_core', hcore]; exact hu.running howns.issues)] at hexec
    exact hexec
  · rw [hdenied] at hexec
    exact hexec

/-- A transfer to the output that no gate denies: what it leaves of the engine and of the context, and the request's entry. -/
theorem bnXfer_out_runs (hallowed : stageDenied s (s.request c) (s.core c).outOfs (xferOut y v) = none)
    (hbeyond : ∀ u, stageBeyond u (s.request c) (s.core c).outOfs (xferOut y v) = u) : Runs (.bnXfer c n v dma) s (fun t =>
      ((t.bne (bneOf c n)).mem = y.mem ∧ (t.bne (bneOf c n)).ptrPos = y.ptrPos + (xferCount v + 3) / 4 ∧
        (t.core c).outOfs = ((s.core c).outOfs + xferCount v) % 2 ^ 32) ∧
      t.request c = stageInline (s.request c) (s.core c).outOfs (xferOut y v)) := by
  obtain ⟨u, hu, hexec, -⟩ := exec_bnXfer_out howns hy hon hcount hroom hout hlabel (dma := dma)
  have hentry : u.entry (s.core c).entry = s.request c := hu.entry _
  have hexec := hexec hallowed
  rw [stageOutput_eq, hentry, hbeyond] at hexec
  have hcore : u.core c = (u.setEntry (s.core c).entry (stageInline (s.request c) (s.core c).outOfs (xferOut y v))).core c := rfl
  refine runs_of_exec hexec ⟨⟨?_, ?_, ?_⟩, ?_⟩
  · rw [State.drive_bne', Onward_bne, State.setBne_self]
  · rw [State.drive_bne', Onward_bne, State.setBne_self]
  · rw [State.drive_core', Onward_core]
    rfl
  · have hplace : (u.core c).entry = (s.core c).entry := hu.core_entry
    unfold State.request
    rw [State.drive_core', Onward_core, State.drive_entry']
    show (u.setEntry (s.core c).entry _).entry (u.core c).entry = _
    rw [hplace, State.setEntry_self]

theorem bnXfer_out_beyond (hcap : (s.request c).desc.outCap < (s.core c).outOfs + xferCount v) : Runs (.bnXfer c n v dma) s (fun t =>
    ((t.bne (bneOf c n)).mem = y.mem ∧ (t.bne (bneOf c n)).ptrPos = y.ptrPos + (xferCount v + 3) / 4 ∧
      (t.core c).outOfs = ((s.core c).outOfs + xferCount v) % 2 ^ 32) ∧
    (t.request c).out = (s.request c).out ∧ (t.request c).outOver = max (s.request c).outOver ((s.core c).outOfs + xferCount v)) := by
  have hlen := length_xferOut y v
  have hne : xferOut y v ≠ [] := List.ne_nil_of_length_pos (by omega)
  have hcap' : (s.request c).desc.outCap < (s.core c).outOfs + (xferOut y v).length := by rwa [hlen]
  obtain ⟨t, ht, hnext, hrequest⟩ := bnXfer_out_runs howns hy hon hcount hroom hout hlabel (dma := dma) (stageDenied_beyond hcap')
    fun u => stageBeyond_beyond hcap'
  refine ⟨t, ht, hnext, ?_⟩
  rw [hrequest, stageInline_beyond hne hcap', hlen]
  exact ⟨rfl, rfl⟩

theorem bnXfer_out_within (hcap : (s.core c).outOfs + xferCount v ≤ (s.request c).desc.outCap)
    (hwhere : ((s.core c).outOfs + xferCount v ≤ 96 ∧ (s.request c).func ≠ 0) ∨ stagePlace (s.request c) = none) :
    Runs (.bnXfer c n v dma) s (fun t =>
      ((t.bne (bneOf c n)).mem = y.mem ∧ (t.bne (bneOf c n)).ptrPos = y.ptrPos + (xferCount v + 3) / 4 ∧
        (t.core c).outOfs = ((s.core c).outOfs + xferCount v) % 2 ^ 32) ∧
      ∀ a, Map.get 0 (t.request c).out a = if (s.core c).outOfs ≤ a ∧ a < (s.core c).outOfs + xferCount v
        then (xferOut y v).getD (a - (s.core c).outOfs) 0 else Map.get 0 (s.request c).out a) := by
  have hlen := length_xferOut y v
  have hne : xferOut y v ≠ [] := List.ne_nil_of_length_pos (by omega)
  have hinline : ((s.core c).outOfs + xferCount v ≤ 96 ∧ (s.request c).func ≠ 0) →
      (s.core c).outOfs + (xferOut y v).length ≤ inlineRoom (s.request c) := fun h => by rw [hlen, inlineRoom_vf h.2]; exact h.1
  have hstays : stageDenied s (s.request c) (s.core c).outOfs (xferOut y v) = none ∧
      ∀ u, stageBeyond u (s.request c) (s.core c).outOfs (xferOut y v) = u := by
    rcases hwhere with h | h
    · exact ⟨stageDenied_inline (hinline h), fun u => stageBeyond_inline (hinline h)⟩
    · exact ⟨stageDenied_noPlace h, fun u => stageBeyond_noPlace h⟩
  obtain ⟨t, ht, hnext, hrequest⟩ := bnXfer_out_runs howns hy hon hcount hroom hout hlabel (dma := dma) hstays.1 hstays.2
  refine ⟨t, ht, hnext, fun a => ?_⟩
  rw [hrequest, stageInline_within hne (by rwa [hlen])]
  dsimp only
  rw [overlaid_get, hlen]
  refine if_congr (and_iff_left_of_imp fun ha => ?_) rfl rfl
  rcases hwhere with h | h
  · exact .inr (by rw [inlineRoom_vf h.2]; omega)
  · exact .inl (by rw [h]; rfl)

end

end

/-! ### Secret registers (R201) -/

section
variable {s : State} {c : Fin 2048} {n : Fin 6} {sa : Fin 16} {y : Bne} (howns : OwnsBne s c n) (hy : s.bne (bneOf c n) = y)
include howns hy

theorem bnSkey_runs (hlabel : ((s.core c).getS sa).label = .k) (hderived : ((s.core c).getS sa).derived = false)
    (hrole : ((s.core c).getS sa).role = 0x10 ∨ ((s.core c).getS sa).role = 0x11) (hon : (y.slot y.ptrSlot).on = true)
    (hroom : 4 * y.ptrPos + 16 ≤ 8 * (y.slot y.ptrSlot).len) :
    Runs (.bnSkey c n sa) s (fun t => let z := t.bne (bneOf c n)
      z.bytes y.ptrSlot = (y.bytes y.ptrSlot).take (4 * y.ptrPos) ++ ((s.core c).getS sa).bytes ++ (y.bytes y.ptrSlot).drop (4 * y.ptrPos + 16) ∧
      z.ptrPos = y.ptrPos + 4 ∧
      (z.slot y.ptrSlot).label = .k ∧ (z.slot y.ptrSlot).role = ((s.core c).getS sa).role ∧ (z.slot y.ptrSlot).storable = false) := by
  generalize hr : (s.core c).getS sa = r at hlabel hderived hrole ⊢
  let w := (y.putBytes y.ptrSlot (4 * y.ptrPos) r.bytes).mark y.ptrSlot (fun x => { x with label := .k, storable := false, role := r.role, alg := 0 })
  obtain ⟨u, -, hexec⟩ := exists_atPort howns.issues (i := .bnSkey c n sa) (k := fun u => bnSecret u c n sa)
    (F := fun u => Onward (u.setBne (bneOf c n) { w with ptrPos := y.ptrPos + 4 }) c (fun x => x)) rfl rfl fun u hu => by
      refine (howns.window hu _).trans ?_
      dsimp only
      rw [hu.bne, hy, hu.getS, hr]
      refine if_neg ?_
      rw [hlabel, hderived, hon]
      rintro (h | h | h | h | h)
      · exact h rfl
      · exact absurd h Bool.false_ne_true
      · rcases hrole with hrole | hrole
        · exact h.1 hrole
        · exact h.2 hrole
      · exact absurd h Bool.false_ne_true
      · exact Nat.not_lt.mpr hroom h
  have hlen : r.bytes.length = 16 := length_le_bytes _ _
  have hput := bytes_putBytes y y.ptrSlot (o := 4 * y.ptrPos) (bs := r.bytes) (by rw [hlen]; exact hroom)
  have hbytes : w.bytes y.ptrSlot = (y.putBytes y.ptrSlot (4 * y.ptrPos) r.bytes).bytes y.ptrSlot := bytes_mark _ _ _ rfl rfl
  have hslot : w.slot y.ptrSlot = { y.slot y.ptrSlot with label := .k, storable := false, role := r.role, alg := 0 } := slot_mark _ _ _
  rw [hlen] at hput
  refine runs_of_exec hexec ?_
  rw [State.drive_bne', Onward_bne, State.setBne_self]
  exact ⟨hbytes.trans hput, rfl, congrArg BnSlot.label hslot, congrArg BnSlot.role hslot, congrArg BnSlot.storable hslot⟩

theorem bnSkey_denied (h : ((s.core c).getS sa).label ≠ .k ∨ ((s.core c).getS sa).derived = true ∨
    (((s.core c).getS sa).role ≠ 0x10 ∧ ((s.core c).getS sa).role ≠ 0x11)) : ∃ u, AtPort s c u ∧ exec (.bnSkey c n sa) s = done (faultCtx u c) :=
  exists_atPort howns.issues (k := fun u => bnSecret u c n sa) rfl rfl fun u hu => by
    refine (howns.window hu _).trans ?_
    dsimp only
    rw [hu.bne, hy, hu.getS]
    refine if_pos ?_
    rcases h with h | h | h
    · exact .inl h
    · exact .inr (.inl h)
    · exact .inr (.inr (.inl h))

end

end Sys2Proof.Machine
end

section
/-! Proofs: private keys that go to a big-number engine, and keys that it stores (R200 to R202). -/

namespace Sys2Proof.Machine

open Sys2Proof Sys2Proof.Bits

/-! ### Slots for a key (R197, R201) -/

/-- The slots of a key of parts ls from slot i and word w on; the first has a role and an algorithm. -/
def placedSlots (i w : Nat) (role alg : Byte) (ls : List (Nat × Label)) : List (Nat × BnSlot) :=
  (List.range ls.length).map (fun j => (i + j, {
    on := true
    start := w + ((ls.take j).map (·.1)).sum
    len := (ls.getD j (0, .p)).1
    label := (ls.getD j (0, .p)).2
    role := if j = 0 then role else 0
    alg := if j = 0 then alg else 0 }))

theorem placedSlots_cons (i w : Nat) (role alg : Byte) (len : Nat) (l : Label) (ls : List (Nat × Label)) :
    placedSlots i w role alg ((len, l) :: ls) =
      (i, { on := true, start := w, len := len, label := l, role := role, alg := alg }) :: placedSlots (i + 1) (w + len) 0 0 ls := by
  unfold placedSlots
  rw [List.length_cons, List.range_succ_eq_map, List.map_cons, List.map_map]
  refine congrArg (List.cons _) (List.map_congr_left fun j _ => ?_)
  simp [Nat.add_assoc, Nat.add_comm 1 j]

theorem placeSlots_eq {y : Bne} {role alg : Byte} {ls : List (Nat × Label)} : ∀ {i w : Nat} {first : Bool},
    w + (ls.map (·.1)).sum ≤ 8192 → (∀ j, j < ls.length → i + j < 16 ∧ (y.slot (i + j)).on = false) →
    placeSlots y role alg i w first ls = some (placedSlots i w (if first then role else 0) (if first then alg else 0) ls) := by
  induction ls with
  | nil => exact fun _ _ => rfl
  | cons x ls ih =>
    obtain ⟨len, l⟩ := x
    intro i w first hroom hfree
    rw [List.map_cons, List.sum_cons] at hroom
    obtain ⟨hi, hoff⟩ := hfree 0 (Nat.zero_lt_succ _)
    have hrest := ih (i := i + 1) (w := w + len) (first := false) (by omega) fun j hj => by
      rw [Nat.add_right_comm, Nat.add_assoc]
      exact hfree (j + 1) (Nat.succ_lt_succ hj)
    have hgoes : ¬ (16 ≤ i ∨ (y.slot i).on = true ∨ 8192 < w + len) := by
      rintro (h | h | h)
      · omega
      · exact absurd (h.symm.trans hoff) (by decide)
      · dsimp only at hroom
        omega
    unfold placeSlots
    rw [if_neg hgoes, hrest, placedSlots_cons]
    rfl

/-- The word after the slots of a key. -/
theorem placedSlots_end (role alg : Byte) (ls : List (Nat × Label)) : ∀ i w : Nat,
    (placedSlots i w role alg ls).foldl (fun u x => max u (x.2.start + x.2.len)) w = w + (ls.map (·.1)).sum := by
  induction ls generalizing role alg with
  | nil => exact fun _ _ => rfl
  | cons x ls ih =>
    obtain ⟨len, l⟩ := x
    intro i w
    have hmax : max w (w + len) = w + len := Nat.max_eq_right (Nat.le_add_right _ _)
    rw [placedSlots_cons, List.foldl_cons]
    dsimp only
    rw [hmax, ih, List.map_cons, List.sum_cons, Nat.add_assoc]

/-! ### The lookup of a key (R46, R67, R201) -/

theorem EntriesOnly.recordKeyOf {s t : State} (h : EntriesOnly s t) (p : Nat) (a : BitVec 64) : Machine.recordKeyOf t p a = Machine.recordKeyOf s p a := by
  obtain ⟨hstate, hhidden⟩ := h
  unfold Machine.recordKeyOf
  dsimp only
  rw [hhidden, hstate]
  rfl

theorem EntriesOnly.keyUnread {s t : State} (h : EntriesOnly s t) (p : Nat) (a : BitVec 64) : Machine.keyUnread t p a = Machine.keyUnread s p a := by
  rw [h.1]
  rfl

theorem EntriesOnly.recGate {s t : State} (h : EntriesOnly s t) (c : InitClass) (p i : Nat) (write : Bool) :
    Machine.recGate t c p i write = Machine.recGate s c p i write := by
  rw [h.1]
  rfl

theorem EntriesOnly.recAddr {s t : State} (h : EntriesOnly s t) (p i : Nat) : Machine.recAddr t p i = Machine.recAddr s p i := by
  rw [h.1]
  rfl

theorem EntriesOnly.bne {s t : State} (h : EntriesOnly s t) (k : Nat) : t.bne k = s.bne k := by
  rw [h.1]
  rfl

theorem EntriesOnly.part {s t : State} (h : EntriesOnly s t) (p : Nat) : t.part p = s.part p := by
  rw [h.1]
  rfl

theorem AtPort.recordKeyOf {s u : State} {c : Fin 2048} (hu : AtPort s c u) (p : Nat) (a : BitVec 64) :
    Machine.recordKeyOf u p a = Machine.recordKeyOf s p a := hu.congr (fun t => Machine.recordKeyOf t p a) (fun _ _ _ => rfl)

theorem AtPort.keyUnread {s u : State} {c : Fin 2048} (hu : AtPort s c u) (p : Nat) (a : BitVec 64) :
    Machine.keyUnread u p a = Machine.keyUnread s p a := hu.congr (fun t => Machine.keyUnread t p a) (fun _ _ _ => rfl)

theorem AtPort.recGate {s u : State} {c : Fin 2048} (hu : AtPort s c u) (k : InitClass) (p i : Nat) (write : Bool) :
    Machine.recGate u k p i write = Machine.recGate s k p i write := hu.congr (fun t => Machine.recGate t k p i write) (fun _ _ _ => rfl)

theorem AtPort.recAddr {s u : State} {c : Fin 2048} (hu : AtPort s c u) (p i : Nat) : Machine.recAddr u p i = Machine.recAddr s p i :=
  hu.congr (fun t => Machine.recAddr t p i) (fun _ _ _ => rfl)

theorem AtPort.part {s u : State} {c : Fin 2048} (hu : AtPort s c u) (p : Nat) : u.part p = s.part p :=
  hu.congr (fun t => t.part p) (fun _ _ _ => rfl)

theorem AtPort.snapOf {s u : State} {c : Fin 2048} (hu : AtPort s c u) (x : Entry) : Machine.snapOf u x = Machine.snapOf s x :=
  hu.congr (fun t => Machine.snapOf t x) (fun _ _ _ => rfl)

theorem recordKeyOf_zero (s : State) (p : Nat) : recordKeyOf s p 0 = (St.keyNotFound, {}) := by
  unfold recordKeyOf
  exact if_pos (.inl rfl)

theorem keyUnread_zero (s : State) (p : Nat) : keyUnread s p 0 = [] := if_pos (.inl rfl)

/-- What reads a key leaves. -/
theorem readKey_traceOnly (s : State) (p : Nat) (h : BitVec 64) : TraceOnly s (readKey s p h) := by
  unfold readKey
  refine .ite .refl (.after_foldl (fun u i hu => ?_) _ .refl)
  unfold readRecord
  split
  · exact hu.after_hbmRead (off := _) (n := 128)
  · exact hu

theorem notePolicy_keeps (s : State) (e : Nat) (k : Key) : ((notePolicy s e k).entry e).snap = (s.entry e).snap ∧ (notePolicy s e k).bnes = s.bnes := by
  unfold notePolicy State.modEntry
  dsimp only
  split
  · exact ⟨by rw [State.setEntry_self], rfl⟩
  · exact ⟨rfl, rfl⟩

/-- BN_KEY of a key at position pos, from slot i on, once the snapshot is latched: x is the request's entry. -/
def fetchKeyIn (b : State) (c k e pos i : Nat) : State :=
  let y := b.bne k
  let x := b.entry e
  let p := x.func - 1
  let h := x.desc.handle pos
  if y.closed then faultCtx b c
  else if h ≠ 0 ∧ (recLoc (b.part p) (handleIdx h)).isSome ∧ handlePart h = p ∧ !recGate b .bne p (handleIdx h) false then
    faultCtx (recordDenial b .bne (recAddr b p (handleIdx h)) false) c
  else if !(keyUnread b p h).isEmpty then holdReads b (keyUnread b p h).eraseDups (ctxReader c)
  else
    let (st, key) := recordKeyOf b p h
    let s := if st = St.ok then readKey b p h else b
    let st := if st = St.ok then keyChecks s e (bnKeyRole x.desc.fn.toNat pos key.usage key.mode key.alg) key else st
    if st ≠ St.ok then bnStart s c k { status := st }
    else
      let role : Byte := if key.usage = use2 "K3" then 0x0F else 0x0E
      match placeSlots y role key.alg i y.used true (keyLayout key.alg key.bytes.length) with
      | none => faultCtx s c
      | some slots =>
        let s := s.setBne k { y with
          slots := slots.foldl (fun m w => Map.set {} m w.1 w.2) y.slots
          used := slots.foldl (fun u w => max u (w.2.start + w.2.len)) y.used }
        bnStart (notePolicy s e key) c k { words := bnWords y.used key.bytes, slots := slots }

section
variable {s : State} {c : Fin 2048} {n : Fin 6} {v : Word} (howns : OwnsBne s c n)
include howns

theorem exec_bnKey : ∃ u, AtPort s c u ∧ exec (.bnKey c n v) s =
    done (fetchKeyIn (latchSnap u (s.core c).entry) c (bneOf c n) (s.core c).entry (v.toNat % 4) (v.toNat / 4 % 16)) := by
  refine exists_atPort howns.issues (k := fun u => bnFetchKey u c n v) rfl rfl fun u hu => (howns.window hu _).trans ?_
  have hpos : bits v.toNat 1 0 = v.toNat % 4 := by simp [bits]
  have hfirst : bits v.toNat 5 2 = v.toNat / 4 % 16 := by simp [bits]
  have hbne : (latchSnap u (s.core c).entry).bne (bneOf c n) = u.bne (bneOf c n) := (latchSnap_entriesOnly _ _).1.bne _
  dsimp only
  rw [hpos, hfirst, hu.core_entry, ← hbne]
  rfl

end

section
variable {b : State} {c k e pos i p : Nat} {y : Bne} {h : BitVec 64} (hy : b.bne k = y)
include hy

theorem fetchKeyIn_closed (hclosed : y.closed = true) : fetchKeyIn b c k e pos i = faultCtx b c := if_pos (by rw [hy, hclosed])

variable (hopen : y.closed = false) (hh : (b.entry e).desc.handle pos = h) (hp : (b.entry e).func - 1 = p)
include hopen hh hp

theorem fetchKeyIn_denied (hne : h ≠ 0) (hloc : (recLoc (b.part p) (handleIdx h)).isSome = true) (hpart : handlePart h = p)
    (hgate : recGate b .bne p (handleIdx h) false = false) :
    fetchKeyIn b c k e pos i = faultCtx (recordDenial b .bne (recAddr b p (handleIdx h)) false) c := by
  unfold fetchKeyIn
  dsimp only
  rw [hy, hh, hp, if_neg (by rw [hopen]; exact Bool.false_ne_true)]
  exact if_pos ⟨hne, hloc, hpart, by rw [hgate]; rfl⟩

variable (hpasses : h = 0 ∨ recGate b .bne p (handleIdx h) false = true)
include hpasses

/-- A key that no gate denies. -/
theorem fetchKeyIn_passes : fetchKeyIn b c k e pos i =
    if !(keyUnread b p h).isEmpty then holdReads b (keyUnread b p h).eraseDups (ctxReader c)
    else
      let s := if (recordKeyOf b p h).1 = St.ok then readKey b p h else b
      let key := (recordKeyOf b p h).2
      let st := if (recordKeyOf b p h).1 = St.ok
        then keyChecks s e (bnKeyRole (b.entry e).desc.fn.toNat pos key.usage key.mode key.alg) key else (recordKeyOf b p h).1
      if st ≠ St.ok then bnStart s c k { status := st }
      else
        match placeSlots y (if key.usage = use2 "K3" then 0x0F else 0x0E) key.alg i y.used true (keyLayout key.alg key.bytes.length) with
        | none => faultCtx s c
        | some slots => bnStart (notePolicy (s.setBne k { y with
            slots := slots.foldl (fun m w => Map.set {} m w.1 w.2) y.slots
            used := slots.foldl (fun u w => max u (w.2.start + w.2.len)) y.used }) e key) c k { words := bnWords y.used key.bytes, slots := slots } := by
  unfold fetchKeyIn
  dsimp only
  rw [hy, hh, hp, if_neg (by rw [hopen]; exact Bool.false_ne_true)]
  refine if_neg ?_
  rintro ⟨hne, -, -, hgate⟩
  rcases hpasses with hzero | hallowed
  · exact hne hzero
  · rw [hallowed] at hgate
    exact absurd hgate Bool.false_ne_true

theorem fetchKeyIn_held (hunread : keyUnread b p h ≠ []) :
    fetchKeyIn b c k e pos i = holdReads b (keyUnread b p h).eraseDups (ctxReader c) :=
  (fetchKeyIn_passes hy hopen hh hp hpasses).trans (if_pos (by simpa using hunread))

variable (hread : keyUnread b p h = [])
include hread

theorem fetchKeyIn_fails {st : Status} (hkey : recordKeyOf b p h = (st, {})) (hst : st ≠ St.ok) :
    fetchKeyIn b c k e pos i = bnStart b c k { status := st } := by
  rw [fetchKeyIn_passes hy hopen hh hp hpasses, hread, hkey]
  refine (if_neg Bool.false_ne_true).trans ?_
  dsimp only
  rw [if_neg hst, if_neg hst, if_pos hst]

theorem fetchKeyIn_found {key : Key} {slots : List (Nat × BnSlot)} (hkey : recordKeyOf b p h = (St.ok, key))
    (hchecks : keyChecks (readKey b p h) e (bnKeyRole (b.entry e).desc.fn.toNat pos key.usage key.mode key.alg) key = St.ok)
    (hplace : placeSlots y (if key.usage = use2 "K3" then 0x0F else 0x0E) key.alg i y.used true (keyLayout key.alg key.bytes.length) = some slots) :
    fetchKeyIn b c k e pos i = bnStart (notePolicy ((readKey b p h).setBne k { y with
      slots := slots.foldl (fun m w => Map.set {} m w.1 w.2) y.slots
      used := slots.foldl (fun u w => max u (w.2.start + w.2.len)) y.used }) e key) c k { words := bnWords y.used key.bytes, slots := slots } := by
  rw [fetchKeyIn_passes hy hopen hh hp hpasses, hread, hkey]
  refine (if_neg Bool.false_ne_true).trans ?_
  dsimp only
  rw [if_pos rfl, if_pos rfl, hchecks, if_neg (not_not.mpr rfl), hplace]

end

/-- What an engine's start leaves. -/
theorem bnStart_leaves (s : State) (c k : Nat) (p : BnPend) : (bnStart s c k p).bne k = { s.bne k with run := some p } ∧
    (bnStart s c k p).entries = s.entries := ⟨State.setBne_self _ _ _, rfl⟩

/-! ### BN_KEY (R200, R201, R347) -/

/-- State b has what a lookup reads of s, with the snapshot of context c's request latched. -/
structure LookupOf (s : State) (c : Nat) (b : State) : Prop where
  entry : b.entry (s.core c).entry = { s.request c with snap := snapOf s (s.request c) }
  bne : ∀ k, b.bne k = s.bne k
  part : ∀ p, b.part p = s.part p
  gate : ∀ p i, recGate b .bne p i false = recGate s .bne p i false
  addr : ∀ p i, recAddr b p i = recAddr s p i
  unread : ∀ p h, keyUnread b p h = keyUnread s p h
  key : ∀ p h, recordKeyOf b p h = recordKeyOf s p h
  grn : b.grn = s.grn

theorem AtPort.lookup {s u : State} {c : Fin 2048} (hu : AtPort s c u) : LookupOf s c (latchSnap u (s.core c).entry) := by
  obtain ⟨honly, hentry⟩ := latchSnap_entriesOnly u (s.core c).entry
  rw [hu.entry, hu.snapOf] at hentry
  exact ⟨hentry, fun k => (honly.bne k).trans (hu.bne k), fun p => (honly.part p).trans (hu.part p),
    fun p i => (honly.recGate _ p i _).trans (hu.recGate _ p i _), fun p i => (honly.recAddr p i).trans (hu.recAddr p i),
    fun p h => (honly.keyUnread p h).trans (hu.keyUnread p h), fun p h => (honly.recordKeyOf p h).trans (hu.recordKeyOf p h),
    honly.grn.trans hu.grn⟩

section
variable {s : State} {c : Fin 2048} {n : Fin 6} {v : Word} (howns : OwnsBne s c n)
include howns

theorem bnKey_closed (hclosed : (s.bne (bneOf c n)).closed = true) :
    ∃ u, AtPort s c u ∧ exec (.bnKey c n v) s = done (faultCtx (latchSnap u (s.core c).entry) c) := by
  obtain ⟨u, hu, hexec⟩ := exec_bnKey howns (v := v)
  rw [fetchKeyIn_closed (hu.lookup.bne _) hclosed] at hexec
  exact ⟨u, hu, hexec⟩

variable {h : BitVec 64} (hh : (s.request c).desc.handle (v.toNat % 4) = h) (hopen : (s.bne (bneOf c n)).closed = false)
include hh hopen

theorem bnKey_zero (hzero : h = 0) : Runs (.bnKey c n v) s (fun t =>
    t.bne (bneOf c n) = { s.bne (bneOf c n) with run := some { status := St.keyNotFound } }) := by
  obtain ⟨u, hu, hexec⟩ := exec_bnKey howns (v := v)
  have hlook := hu.lookup
  generalize latchSnap u (s.core c).entry = b at hlook hexec
  subst hzero
  rw [fetchKeyIn_fails (h := 0) (hlook.bne _) hopen (by rw [hlook.entry]; exact hh) rfl (.inl rfl) (keyUnread_zero _ _) (recordKeyOf_zero _ _)
    (by decide)] at hexec
  refine runs_of_exec hexec ?_
  rw [State.drive_bne', (bnStart_leaves _ _ _ _).1, hlook.bne]

variable {p : Nat} (hp : (s.request c).func - 1 = p)
include hp

theorem bnKey_denied (hne : h ≠ 0) (hloc : (recLoc (s.part p) (handleIdx h)).isSome = true) (hpart : handlePart h = p)
    (hgate : recGate s .bne p (handleIdx h) false = false) : ∃ u, AtPort s c u ∧
      exec (.bnKey c n v) s = done (faultCtx (recordDenial (latchSnap u (s.core c).entry) .bne (recAddr s p (handleIdx h)) false) c) := by
  obtain ⟨u, hu, hexec⟩ := exec_bnKey howns (v := v)
  have hlook := hu.lookup
  rw [fetchKeyIn_denied (h := h) (p := p) (hlook.bne _) hopen (by rw [hlook.entry]; exact hh) (by rw [hlook.entry]; exact hp) hne
    (by rw [hlook.part]; exact hloc) hpart (by rw [hlook.gate]; exact hgate), hlook.addr] at hexec
  exact ⟨u, hu, hexec⟩

variable (hgate : recGate s .bne p (handleIdx h) false = true)
include hgate

theorem bnKey_held (hunread : keyUnread s p h ≠ []) : ∃ u, AtPort s c u ∧
    exec (.bnKey c n v) s = done (holdReads (latchSnap u (s.core c).entry) (keyUnread s p h).eraseDups (ctxReader c)) := by
  obtain ⟨u, hu, hexec⟩ := exec_bnKey howns (v := v)
  have hlook := hu.lookup
  rw [fetchKeyIn_held (h := h) (p := p) (hlook.bne _) hopen (by rw [hlook.entry]; exact hh) (by rw [hlook.entry]; exact hp)
    (.inr (by rw [hlook.gate]; exact hgate)) (by rwa [hlook.unread]), hlook.unread] at hexec
  exact ⟨u, hu, hexec⟩

/-- A key that the lookup finds goes to its slots, which are allocated in order. -/
theorem bnKey_found (hread : keyUnread s p h = []) {key : Key} (hkey : recordKeyOf s p h = (St.ok, key))
    (hrole : bnKeyRole (s.request c).desc.fn.toNat (v.toNat % 4) key.usage key.mode key.alg = true)
    (hwindow : windowStatus key.nb key.na (snapOf s (s.request c)) = St.ok)
    (hcounter : counterStatus s key.slotRef = St.ok) (hslot : slotStatus s key.slotRef = St.ok)
    (hroom : (s.bne (bneOf c n)).used + ((keyLayout key.alg key.bytes.length).map (·.1)).sum ≤ 8192)
    (hfree : ∀ j, j < (keyLayout key.alg key.bytes.length).length →
      v.toNat / 4 % 16 + j < 16 ∧ ((s.bne (bneOf c n)).slot (v.toNat / 4 % 16 + j)).on = false) :
    let y := s.bne (bneOf c n)
    let placed := placedSlots (v.toNat / 4 % 16) y.used (if key.usage = use2 "K3" then 0x0F else 0x0E) key.alg (keyLayout key.alg key.bytes.length)
    Runs (.bnKey c n v) s (fun t => (t.entry (s.core c).entry).snap = snapOf s (s.request c) ∧ t.bne (bneOf c n) = { y with
      slots := placed.foldl (fun m w => Map.set {} m w.1 w.2) y.slots
      used := y.used + ((keyLayout key.alg key.bytes.length).map (·.1)).sum
      run := some { status := St.ok, words := bnWords y.used key.bytes, slots := placed } }) := by
  intro y placed
  obtain ⟨u, hu, hexec⟩ := exec_bnKey howns (v := v)
  have hlook := hu.lookup
  generalize latchSnap u (s.core c).entry = b at hlook hexec
  have hreads := readKey_traceOnly b p h
  have hentry : (readKey b p h).entry (s.core c).entry = { s.request c with snap := snapOf s (s.request c) } := by
    rw [hreads.keepsJobs.entry, hlook.entry]
  have hgrn : (readKey b p h).grn = s.grn := by
    have hkept : (readKey b p h).grn = b.grn := by rw [hreads]
    rw [hkept, hlook.grn]
  have hchecks : keyChecks (readKey b p h) (s.core c).entry
      (bnKeyRole (b.entry (s.core c).entry).desc.fn.toNat (v.toNat % 4) key.usage key.mode key.alg) key = St.ok :=
    keyChecks_ok (by rw [hlook.entry]; exact hrole) (by rw [hentry]; exact hwindow) (by rw [counterStatus_congr hgrn]; exact hcounter)
      (by rw [slotStatus_congr hgrn]; exact hslot)
  rw [fetchKeyIn_found (h := h) (p := p) (hlook.bne _) hopen (by rw [hlook.entry]; exact hh) (by rw [hlook.entry]; exact hp)
    (.inr (by rw [hlook.gate]; exact hgate)) (by rw [hlook.unread, hread]) (by rw [hlook.key, hkey]) hchecks (placeSlots_eq hroom hfree)] at hexec
  refine runs_of_exec hexec ⟨?_, ?_⟩
  · rw [State.drive_entry', entry_of_entries (bnStart_leaves _ _ _ _).2, (notePolicy_keeps _ _ _).1]
    show ((readKey b p h).entry _).snap = _
    rw [hentry]
  · have hnoted : ∀ z, (notePolicy ((readKey b p h).setBne (bneOf c n) z) (s.core c).entry key).bne (bneOf c n) = z := fun z => by
      unfold State.bne
      rw [(notePolicy_keeps _ _ _).2]
      exact State.setBne_self _ _ _
    rw [State.drive_bne', (bnStart_leaves _ _ _ _).1, hnoted, placedSlots_end]
    rfl

end

/-! ### Records that a store makes (R202, R235) -/

/-- A state with other cores, free values and pins. -/
def State.beside (s : State) (cores : Map Core) (free : Nat) (pins : Pins) : State := { s with cores := cores, free := free, pins := pins }

section
variable (s : State) (cores : Map Core) (free : Nat) (pins : Pins)

theorem settleBucket_beside (i : Nat) : settleBucket (s.beside cores free pins) i = (settleBucket s i).beside cores free pins := by
  have hrefill : refillBucket (s.beside cores free pins) i = (refillBucket s i).beside cores free pins := by
    unfold refillBucket
    dsimp only
    rw [apply_ite (fun u : State => u.beside cores free pins)]
    rfl
  unfold settleBucket
  dsimp only
  rw [hrefill, apply_ite (fun u : State => u.beside cores free pins)]
  rfl

theorem settleUnused_beside (p : Nat) : settleUnused (s.beside cores free pins) p = (settleUnused s p).beside cores free pins := by
  unfold settleUnused
  refine List.foldl_hom (fun u : State => u.beside cores free pins) fun u i => ?_
  rw [settleBucket_beside, apply_ite (fun u : State => u.beside cores free pins)]
  rfl

theorem newBucket_beside (p k : Nat) (fp : BitVec 64) : (newBucket (s.beside cores free pins) p k fp).1 = (newBucket s p k fp).1 := by
  have hroomy : (if bucketRoom (s.beside cores free pins) p then s.beside cores free pins else settleUnused (s.beside cores free pins) p) =
      (if bucketRoom s p then s else settleUnused s p).beside cores free pins := by
    rw [settleUnused_beside, apply_ite (fun u : State => u.beside cores free pins)]
    rfl
  unfold newBucket
  dsimp only
  rw [hroomy]
  generalize (if bucketRoom s p then s else settleUnused s p) = u
  have hroom : bucketRoom (u.beside cores free pins) p = bucketRoom u p := rfl
  have hfind : Map.findFrom {} (u.beside cores free pins).grn.buckets (fun b => !b.on) ((u.beside cores free pins).grn.buckets.length + 1) 0 =
      Map.findFrom {} u.grn.buckets (fun b => !b.on) (u.grn.buckets.length + 1) 0 := rfl
  rw [hroom, hfind]
  split
  · cases Map.findFrom {} u.grn.buckets (fun b => !b.on) (u.grn.buckets.length + 1) 0 <;> rfl
  · rfl

/-- The bucket of a fingerprint under a policy. -/
def bucketUnder (s : State) (p : Nat) (pol : Byte) (fp : BitVec 64) : Option Byte × State :=
  if pol = 0xFF then (some 0xFF, s)
  else
    match findBucket s p fp with
    | some i => (some (BitVec.ofNat 8 (s.bucket i).pol), s)
    | none => (if (newBucket s p pol.toNat fp).1 then some pol else none, (newBucket s p pol.toNat fp).2)

theorem bindBucket_under (p : Nat) (r : RecSpec) (fp : BitVec 64) : bindBucket s p r fp = bucketUnder s p
    (if r.pol = 0xFF ∧ (r.usage == use2 "V1" || r.usage == use2 "V2") ∧ (s.velPol p 0).on ∧ (s.velPol p 0).cap ≠ 0 then 0 else r.pol) fp := rfl

theorem bindBucket_beside (p : Nat) (r : RecSpec) (fp : BitVec 64) :
    (bindBucket (s.beside cores free pins) p r fp).1 = (bindBucket s p r fp).1 := by
  have hunder : ∀ pol, (bucketUnder (s.beside cores free pins) p pol fp).1 = (bucketUnder s p pol fp).1 := fun pol => by
    have hfind : findBucket (s.beside cores free pins) p fp = findBucket s p fp := rfl
    unfold bucketUnder
    rw [hfind]
    split
    · rfl
    · cases findBucket s p fp with
      | some i => rfl
      | none =>
        dsimp only
        rw [newBucket_beside]
  rw [bindBucket_under, bindBucket_under, hunder]
  rfl

end

/-- The records of a key can be made in the state that an instruction finds as before it. -/
theorem AtPort.canCreate {s u : State} {c : Fin 2048} (hu : AtPort s c u) {k : InitClass} {p : Nat} {r : RecSpec} {key : Bytes}
    (h : CanCreate s k p r key) : CanCreate u k p r key := by
  obtain ⟨hpresent, hgate, hbucket⟩ := h
  have hsame : (bindBucket u p r (fingerprint u r.alg key)).1.isSome = (bindBucket s p r (fingerprint s r.alg key)).1.isSome :=
    hu.congr (fun t => (bindBucket t p r (fingerprint t r.alg key)).1.isSome) fun cores free pins =>
      congrArg Option.isSome (bindBucket_beside s cores free pins p r (fingerprint s r.alg key))
  exact ⟨by rw [hu.grn]; exact hpresent, fun i hi => by rw [hu.recGate]; exact hgate i hi, by rw [hsame]; exact hbucket⟩

namespace KeepsJobs

variable {s t : State}

theorem after_settleUnused (h : KeepsJobs s t) {p : Nat} : KeepsJobs s (settleUnused t p) := by
  have hrefill : ∀ {u i}, KeepsJobs s u → KeepsJobs s (refillBucket u i) := fun hu => .ite hu.after_eq hu.after_eq
  have hsettle : ∀ {u i}, KeepsJobs s u → KeepsJobs s (settleBucket u i) := fun hu => .ite (hrefill hu).after_eq (hrefill hu)
  exact .after_foldl (fun _ _ hu => .ite hu (hsettle hu)) _ h

theorem after_newBucket (h : KeepsJobs s t) {p k : Nat} {fp : BitVec 64} : KeepsJobs s (newBucket t p k fp).2 := by
  have hroomy : KeepsJobs s (if bucketRoom t p then t else settleUnused t p) := .ite h h.after_settleUnused
  unfold newBucket
  dsimp only
  generalize (if bucketRoom t p then t else settleUnused t p) = u at hroomy ⊢
  split
  · split
    · exact hroomy.after_eq
    · exact hroomy
  · exact hroomy

theorem after_bindBucket (h : KeepsJobs s t) {p : Nat} {r : RecSpec} {fp : BitVec 64} : KeepsJobs s (bindBucket t p r fp).2 := by
  have hunder : ∀ pol, KeepsJobs s (bucketUnder t p pol fp).2 := fun pol => by
    unfold bucketUnder
    split
    · exact h
    · split
      · exact h
      · exact h.after_newBucket
  rw [bindBucket_under]
  exact hunder _

theorem after_putRecord (h : KeepsJobs s t) {p idx : Nat} {b : Bytes} : KeepsJobs s (putRecord t p idx b) := by
  unfold putRecord
  split
  · exact .ite h (h.trans (TraceOnly.after_hbmWrite .refl).keepsJobs)
  · exact h

theorem after_putKey (h : KeepsJobs s t) {p : Nat} {r : RecSpec} {pol : Byte} {tag : Nat} {fp : BitVec 64} {key : Bytes} :
    KeepsJobs s (putKey t p r pol tag fp key) := by
  unfold putKey
  split
  · exact h
  · exact .after_foldl (fun _ _ hu => hu.after_putRecord) _ h.after_putRecord

end KeepsJobs

/-- A creation that nothing bars makes the key's records. -/
theorem createRecord_ok {s : State} {c : InitClass} {p : Nat} {r : RecSpec} {key : Bytes} (h : CanCreate s c p r key) :
    ∃ a t, createRecord s c p r key = (St.ok, a, t) ∧ KeepsJobs s t := by
  obtain ⟨hpresent, hgate, hbucket⟩ := h
  obtain ⟨pol, hpol⟩ := Option.isSome_iff_exists.mp hbucket
  have hallowed : (List.range (recordsFor key.length)).find? (fun k => !recGate s c p (r.idx + k) true) = none :=
    List.find?_eq_none.mpr fun k hk => by simp [hgate k (List.mem_range.mp hk)]
  have hbound := (KeepsJobs.refl (s := s)).after_bindBucket (p := p) (r := r) (fp := fingerprint s r.alg key)
  unfold createRecord
  rw [if_neg (by rw [hpresent]; exact Bool.false_ne_true), hallowed]
  dsimp only
  generalize bindBucket s p r (fingerprint s r.alg key) = bound at hpol hbound ⊢
  obtain ⟨found, u⟩ := bound
  dsimp only at hpol
  subst hpol
  have hdrawn : KeepsJobs s (drawTag u p r.idx).2 := KeepsJobs.after_drbgGen (t := u) (i := 8) (n := 2) hbound
  exact ⟨_, _, rfl, hdrawn.after_putKey⟩

/-! ### BN_STORE (R202) -/

section
variable {s : State} {c : Fin 2048} {n : Fin 6} {v : Word} (howns : OwnsBne s c n)
include howns

theorem bnStore_denied (h : ((s.bne (bneOf c n)).slot (v.toNat % 16)).storable = false ∨ ((s.bne (bneOf c n)).slot (v.toNat % 16)).on = false ∨
    (s.request c).recResv = none) : ∃ u, AtPort s c u ∧ exec (.bnStore c n v) s = done (faultCtx u c) := by
  have hslot : bits v.toNat 3 0 = v.toNat % 16 := by simp [bits]
  refine exists_atPort howns.issues (k := fun u => bnStoreKey u c n v) rfl rfl fun u hu => (howns.window hu _).trans ?_
  have hrequest : u.entry (u.core c).entry = s.request c := hu.request
  dsimp only
  rw [hslot, hu.bne, hrequest]
  refine if_pos ?_
  rcases h with h | h | h
  · exact .inr (.inr (by rw [h]; rfl))
  · exact .inr (.inl (by rw [h]; rfl))
  · exact .inl (by rw [h]; rfl)

/-- A storable key becomes the records that the request reserved. -/
theorem bnStore_creates {b : Bytes} (hinput : (s.request c).input = some b) {key : Bytes}
    (hon : ((s.bne (bneOf c n)).slot (v.toNat % 16)).on = true) (hstorable : ((s.bne (bneOf c n)).slot (v.toNat % 16)).storable = true)
    (hresv : (s.request c).recResv.isSome = true)
    (hkey : storedKey (s.bne (bneOf c n)) (v.toNat % 16) (templateSpec (b.take 32)).alg = some key)
    (hcan : CanCreate s .bne ((s.request c).func - 1) (templateSpec (b.take 32)) key) :
    ∃ u h w, AtPort s c u ∧ createRecord u .bne ((s.request c).func - 1) (templateSpec (b.take 32)) key = (St.ok, h, w) ∧
      exec (.bnStore c n v) s = done (Onward ((w.modEntry (s.core c).entry (fun z => { z with recMade := true })).setBne (bneOf c n)
        { s.bne (bneOf c n) with run := some { status := St.ok, handle := h } }) c (fun z => z)) := by
  have hslot : bits v.toNat 3 0 = v.toNat % 16 := by simp [bits]
  obtain ⟨u, hu, hexec⟩ := exists_atPort howns.issues (i := .bnStore c n v) (k := fun u => bnStoreKey u c n v) rfl rfl
    fun u hu => howns.window hu _
  obtain ⟨h, w, hcreate, hkeeps⟩ := createRecord_ok (hu.canCreate hcan)
  have hrequest : u.entry (u.core c).entry = s.request c := hu.request
  have hbne : (w.modEntry (s.core c).entry (fun z => { z with recMade := true })).bne (bneOf c n) = s.bne (bneOf c n) := by
    unfold State.modEntry
    rw [State.setEntry_bne', hkeeps.bne, hu.bne]
  dsimp only at hexec
  rw [hslot, hu.bne, hrequest, if_neg (by simp [hon, hstorable, Option.isSome_iff_ne_none.mp hresv]), hinput, Option.getD_some, hkey] at hexec
  dsimp only at hexec
  rw [hcreate] at hexec
  dsimp only at hexec
  rw [if_neg (by decide), if_pos rfl, hu.core_entry, bnStart, State.modBne, hbne] at hexec
  exact ⟨u, h, w, hu, hcreate, hexec⟩

end

end Sys2Proof.Machine
end

section
/-! Proofs: the end of a big-number engine's work, and the transfers as a whole (O40). -/

namespace Sys2Proof.Machine

open Sys2Proof Sys2Proof.Bits

/-! ### Finished work is written (R196, R212) -/

/-- An engine once the work p is written. -/
def Bne.finished (y : Bne) (p : BnPend) (work : BitVec 262144) : Bne := { y with
  mem := p.words.foldl (fun m w => Map.set 0 m w.1 w.2) y.mem
  slots := p.slots.foldl (fun m w => Map.set {} m w.1 w.2) y.slots
  work := work
  run := none
  last := p.status
  handle := if p.handle = 0 then y.handle else p.handle
  handleHi := false }

/-- The owner that waits for its engine issues again. -/
def ownerReissues (s : State) (o : Option Nat) : State :=
  match o with
  | some n => reissue s n (fun w => w == .bnWait || w == .bnBusy)
  | none => s

section
variable (s : State) (k : Nat) (p : BnPend)

theorem bnWriteBack_eq : ∃ u work, KeepsJobs s u ∧ bnWriteBack s k p = ownerReissues (u.setBne k ((s.bne k).finished p work)) (s.bne k).owner := by
  have hcounted : KeepsJobs s ((countCycles s (bnePage k) 0x048).draw 262144).2 := KeepsJobs.refl.after_countCycles.after_draw
  unfold bnWriteBack
  dsimp only
  generalize (countCycles s (bnePage k) 0x048).draw 262144 = drawn at hcounted ⊢
  refine ⟨drawn.2, drawn.1, hcounted, ?_⟩
  rw [hcounted.bne]
  rfl

theorem ownerReissues_bnes (o : Option Nat) : (ownerReissues s o).bnes = s.bnes := by
  unfold ownerReissues reissue
  split
  · split <;> rfl
  · rfl

theorem bnWriteBack_bne : ∃ work, (bnWriteBack s k p).bne k = (s.bne k).finished p work := by
  obtain ⟨u, work, -, heq⟩ := bnWriteBack_eq s k p
  refine ⟨work, ?_⟩
  rw [heq]
  unfold State.bne
  rw [ownerReissues_bnes]
  exact State.setBne_self _ _ _

variable {s k}

/-- The context that waits for the engine issues again. -/
theorem bnWriteBack_core {d : Nat} (howner : (s.bne k).owner = some d) (hwait : (s.core d).wait = .bnWait ∨ (s.core d).wait = .bnBusy) :
    (bnWriteBack s k p).core d = { s.core d with wait := .none } := by
  obtain ⟨u, work, hkeeps, heq⟩ := bnWriteBack_eq s k p
  have hwaits : (((u.setBne k ((s.bne k).finished p work)).core d).wait == .bnWait ||
      ((u.setBne k ((s.bne k).finished p work)).core d).wait == .bnBusy) = true := by
    rw [State.setBne_core', hkeeps.core]
    rcases hwait with h | h <;> rw [h] <;> rfl
  have hreissued : ownerReissues (u.setBne k ((s.bne k).finished p work)) (some d) =
      (u.setBne k ((s.bne k).finished p work)).modCore d (fun x => { x with wait := .none }) := if_pos hwaits
  rw [heq, howner, hreissued, State.modCore, State.setCore_self, State.setBne_core', hkeeps.core]

end

/-! ### BNE_OPERATION_DONE (R196, R205, R208, R209) -/

/-- The engine of window e comes to the outcome q of its work q0: as it stands, or of a computation that waited for random output. -/
def BneComes (s : State) (e : Nat) (q0 q : BnPend) : Prop :=
  (q0.draw = none ∧ q = q0) ∨ ((∃ w code a m op, q0.draw = some (code, a, m) ∧ bnOpOf code a.param = some op ∧ bnJudge s e op a m = (some q, w)) ∧
    drbgServes s (barnOfBne e) = true)

section
variable {s : State} {e : Fin 48} {q0 q : BnPend} (hrun : (s.bne e).run = some q0)
include hrun

theorem bnFinish_comes (h : BneComes s e q0 q) : ∃ u, KeepsJobs s u ∧ bnFinish s e = if q.bad then bneFaulted u e true else bnWriteBack u e q := by
  unfold bnFinish
  dsimp only
  rw [hrun]
  rcases h with ⟨hdraw, rfl⟩ | ⟨⟨w, code, a, m, op, hdraw, hop, hjudge⟩, hserves⟩
  · dsimp only
    rw [hdraw]
    exact ⟨s, .refl, rfl⟩
  · have hkeeps := bnJudge_keepsJobs s e op a m
    dsimp only
    rw [hdraw]
    dsimp only
    rw [hserves, if_neg (by decide), hop]
    dsimp only
    rw [hjudge] at hkeeps ⊢
    exact ⟨w, hkeeps, rfl⟩

theorem bnFinish_starved (hdraw : q0.draw.isSome = true) (hserves : drbgServes s (barnOfBne e) = false) :
    exec (.bneOperationDone e) s = done s := by
  have hfinish : bnFinish s e = s := by
    obtain ⟨draw, hdraw⟩ := Option.isSome_iff_exists.mp hdraw
    unfold bnFinish
    dsimp only
    rw [hrun]
    dsimp only
    rw [hdraw]
    dsimp only
    rw [hserves]
    rfl
  exact congrArg done hfinish

variable (h : BneComes s e q0 q)
include h

/-- A result that its second computation does not confirm is a fault, and is not written. -/
theorem bneOperationDone_bad (hbad : q.bad = true) : Runs (.bneOperationDone e) s (fun t =>
    (t.bne e).mem = (s.bne e).mem ∧ (t.bne e).slots = (s.bne e).slots ∧ (t.bne e).faults = noteTime (s.bne e).faults s.tmr.now 3 ∧
    ∀ d, (s.bne e).owner = some d → (s.request d).state = .reserved → (s.request d).accepted = true →
      (t.entry (s.core d).entry).state = .staged ∧ (t.entry (s.core d).entry).status = St.faultAlarm) := by
  obtain ⟨u, hkeeps, hfinish⟩ := bnFinish_comes hrun h
  rw [if_pos hbad] at hfinish
  obtain ⟨o, r, w, c, hbne⟩ := bneFaulted_bne u e true
  refine runs_of_exec (congrArg done hfinish) ⟨?_, ?_, ?_, fun d howner hstate haccepted => ?_⟩
  · rw [State.drive_bne', hbne, faulted_mem, hkeeps.bne]
  · rw [State.drive_bne', hbne, faulted_slots, hkeeps.bne]
  · rw [State.drive_bne', hbne, faulted_faults, hkeeps.bne, hkeeps.tmr]
  · have hreq : Underway (u.request d) := by
      rw [hkeeps.request]
      exact ⟨hstate, haccepted⟩
    rw [State.drive_entry', ← hkeeps.core]
    exact bneFaulted_stages u e true (by rw [hkeeps.bne, howner]) hreq

/-- Finished work is written, its status can be read, and the waiting context issues again. -/
theorem bneOperationDone_writes (hgood : q.bad = false) (hwords : q.words.Pairwise (fun a b => a.1 ≠ b.1))
    (hslots : q.slots.Pairwise (fun a b => a.1 ≠ b.1)) : Runs (.bneOperationDone e) s (fun t =>
      (t.bne e).run = none ∧ (t.bne e).last = q.status ∧ (q.handle ≠ 0 → (t.bne e).handle = q.handle) ∧
      (∀ w ∈ q.words, Map.get 0 (t.bne e).mem w.1 = w.2) ∧
      (∀ a, (∀ w ∈ q.words, w.1 ≠ a) → Map.get 0 (t.bne e).mem a = Map.get 0 (s.bne e).mem a) ∧
      (∀ w ∈ q.slots, (t.bne e).slot w.1 = w.2) ∧ (∀ a, (∀ w ∈ q.slots, w.1 ≠ a) → (t.bne e).slot a = (s.bne e).slot a) ∧
      ∀ d, (s.bne e).owner = some d → ((s.core d).wait = .bnWait ∨ (s.core d).wait = .bnBusy) → t.core d = { s.core d with wait := .none }) := by
  obtain ⟨u, hkeeps, hfinish⟩ := bnFinish_comes hrun h
  rw [if_neg (by rw [hgood]; exact Bool.false_ne_true)] at hfinish
  obtain ⟨work, hbne⟩ := bnWriteBack_bne u e q
  rw [hkeeps.bne] at hbne
  refine runs_of_exec (congrArg done hfinish) ?_
  rw [State.drive_bne', hbne]
  refine ⟨rfl, rfl, fun hne => if_neg hne, fun w hw => get_foldl_set_of_mem hwords hw, fun a ha => get_foldl_set_of_notMem ha,
    fun w hw => get_foldl_set_of_mem hslots hw, fun a ha => get_foldl_set_of_notMem ha, fun d howner hwait => ?_⟩
  rw [State.drive_core', bnWriteBack_core q (by rw [hkeeps.bne, howner]) (by rwa [hkeeps.core]), hkeeps.core]

end

/-- Settles O40: transfers by the bytes that they move, keys by the slots that they are placed in, stores by the records that nothing bars, and
finished work by what the engine writes back. -/
theorem bigNumberTransfers : Obligations.BigNumberTransfers := by
  unfold Obligations.BigNumberTransfers
  intro s c n v sa dma k y i x p old works
  refine ⟨fun howns => ⟨?_, ?_, ?_, ?_⟩, ?_, fun e q hrun => bnFinish_starved hrun⟩
  · intro o count span hon hcount hroom
    refine ⟨fun b hin hinput => bnXfer_in howns rfl hon hcount hroom hin hinput, fun hout hlabel => ?_,
      fun hout => bnXfer_portError howns rfl hon hcount hroom hout⟩
    intro raw bs o' next
    exact ⟨bnXfer_out_beyond howns rfl hon hcount hroom hout hlabel, bnXfer_out_within howns rfl hon hcount hroom hout hlabel,
      exec_bnXfer_out howns rfl hon hcount hroom hout hlabel⟩
  · intro pos first h snap
    refine ⟨bnKey_closed howns, fun hopen => bnKey_zero howns rfl hopen, fun hopen => bnKey_denied howns rfl hopen rfl,
      fun hopen hne hgate hunread => bnKey_held howns rfl hopen rfl hgate hunread, ?_⟩
    intro key hopen hgate hread hkey hrole hwindow hcounter hslot ls start hroom hfree placed
    have hend : start ls.length = y.used + (ls.map (·.1)).sum := by
      dsimp only [start]
      rw [List.take_length]
    rw [hend] at hroom ⊢
    exact bnKey_found howns rfl hopen rfl hgate hread hkey hrole hwindow hcounter hslot hroom hfree
  · exact ⟨fun hlabel hderived hrole hon hroom => bnSkey_runs howns rfl hlabel hderived hrole hon hroom, fun h => bnSkey_denied howns rfl h⟩
  · refine ⟨fun h => bnStore_denied howns h, ?_⟩
    intro b hinput spec key hon hstorable hresv hkey hcan
    exact bnStore_creates howns hinput hon hstorable hresv hkey hcan
  · intro e q0 q w z draws hrun hcomes
    have h : BneComes s e q0 q := hcomes.imp_right fun ⟨⟨code, a, m, op, hdraws⟩, hserves⟩ => ⟨⟨w, code, a, m, op, hdraws⟩, hserves⟩
    exact ⟨bneOperationDone_bad hrun h, bneOperationDone_writes hrun h⟩

end Sys2Proof.Machine
end
